-- ==== Sys2Proof/Word.lean ====
section
/-! DEFINITION. The word types of the module: bytes of memory and 64-bit register words (spec/00_scope.md R13). -/

namespace Sys2Proof

/-- One byte, the symbol of the word code (R68) and the unit of the address map (R64). -/
abbrev Byte := BitVec 8

/-- A 64-bit register word (R29). -/
abbrev Word := BitVec 64

end Sys2Proof
end

