-- ==== Sys2Proof/Config.lean ====
section
/-! DEFINITION. What the spec leaves open or fixes per module: the free values (no body, so that nothing can be proved of
their value). -/

namespace Sys2Proof.Config

/-- The free values: the n-th open value that the machine meets (UB-01, UB-02 and the other values the spec leaves open).
The step reads it at `State.nfree` and advances that counter (notes/assumptions/1.md). -/
opaque freeValue : Nat → BitVec 64

/-- Bytes of a message whose content the spec leaves to a published standard or to the implementation, by kind and index
(notes/assumptions/1.md). -/
opaque freeByte : Nat → Nat → Byte

/-- Whether a target current that lies halfway between two microamperes is rounded up: the spec says only that it is rounded (R382;
notes/assumptions/27.md). -/
opaque roundUp : Int → Bool

end Sys2Proof.Config
end

