-- ==== Sys2Proof/Syntax.lean ====
section
/-! DEFINITION. The commands: one constructor of Instr for each row of spec/opcode_table.json, with the operands that say what the
sender supplies (notes/assumptions/2.md). -/

namespace Sys2Proof
/-- Who makes a register or memory access (R30, R81, R419). -/
inductive Req where
  /-- Triad t, voted through its Sextant. -/
  | triad (t : Fin 4)
  /-- Service hart 16 + h; `mach` is true at machine level. -/
  | hart (h : Fin 16) (mach : Bool)
  /-- A debugger request. -/
  | debugger
  /-- The backplane bridge, inbound. -/
  | bridge
  /-- The engine of register block `blk`, for its queue q. -/
  | engine (blk : Fin 16) (q : Fin 256)
  /-- A memory scrubber. -/
  | scrubber
  deriving DecidableEq, Repr

/-- The function of an atomic memory operation (R101, R111). -/
inductive AmoOp where
  | swap | add | xor | and | or | min | max | minu | maxu
  deriving DecidableEq, Repr

/-- What kind of access to memory a requester makes (R76, R83, R87). -/
inductive AccKind where
  | load | store | fetch | lr | sc
  | amo (op : AmoOp)
  /-- A page-table walk for a load (0), a store (1) or a fetch (2). -/
  | walk (orig : Fin 3)
  deriving DecidableEq, Repr

/-- The storage macro that supplies a codeword (R71, `MEM_LASTADR.SRC`); a cache gives its macro number and the index of
the codeword within it (R25); a service core's L1 says which of its two arrays it is (R90). A lane's L1 also gives lane A's retire count, and the other lane that reads a bad codeword from its own L1 in the same
VIT cycle, where there is one (R122). -/
inductive MemSrc where
  | dram | nvm
  | l3 (slice : Fin 8) (mac word : Nat)
  | triadL2 (t : Fin 4) (mac word : Nat)
  | serviceL2 (c : Fin 16) (mac word : Nat)
  | serviceL1 (c : Fin 16) (instr : Bool) (mac word : Nat)
  | laneL1 (t : Fin 4) (lane : Fin 3) (mac word retire : Nat) (twin : Option (Fin 3))
  | engineBuf (blk : Fin 16) (mac word : Nat)
  deriving DecidableEq, Repr

/-- A listed queue: register block and queue number (R46). -/
structure QRef where
  blk : Fin 16
  num : Fin 256
  deriving DecidableEq, Repr
/-- The request record of a lane (R107). -/
structure LaneRec where
  present : Bool
  type : Nat
  mode : Nat
  addr : Nat
  size : Nat
  mask : Nat
  data : Nat
  csr : Nat
  amoop : Nat
  deriving DecidableEq, Repr

/-- Where lane A stands when it halts under a debugger: its pc, whether it is at machine level, and the registers that its instructions have written since they were last
shown. -/
structure Stop where
  pc : Word
  mach : Bool
  regs : List (Nat × Word)
  deriving DecidableEq, Repr

/-- Run control of lane A (R155): it resumes; it halts on request, after a single step, or at a trigger. -/
inductive RunOp where
  | resume
  | halt (at' : Stop)
  | step (at' : Stop)
  | trigger (at' : Stop)
  deriving DecidableEq, Repr

/-- A debug operation on a triad (R155), or one access of the Debug Module Interface to a register of the triad's debug module: a read, or a write of 32 bits (R154). -/
inductive DbgOp where
  | readReg (r : Nat)
  | writeReg (r : Nat) (v : Word)
  | readMem (addr : Nat)
  | readIo (addr size : Nat)
  | writeMem (addr : Nat) (data : List Byte)
  | run (what : RunOp)
  | trace
  | dmi (reg : Nat) (w : Option (BitVec 32))
  deriving DecidableEq, Repr

/-- An asynchronous event of a triad (R115). -/
inductive TrEvent where
  /-- The highest pending enabled identity changes to this one (0 = none). -/
  | irq (eiid : Nat)
  /-- A coherence invalidation of a line, or an L1 correction of a lane. -/
  | inval (line : Nat)
  | l1corr (lane : Fin 3) (line : Nat)
  | sig
  | boundary
  | dbg (op : DbgOp)
  deriving DecidableEq, Repr

/-- A request of type FENCE, FENCE.I or WFI as its lanes know it: a WFI waits, and a FENCE whose predecessor set has r or a FENCE.I waits for invalidations
(R112, R118). -/
inductive FenceKind where
  | other | wfi | waits
  deriving DecidableEq, Repr

/-- One line of the L1 scrub: the upsets of symbols, data and check bytes of its two codewords, that each lane's scrub port meets, the lanes whose tag or
valid bit is upset, whether a store to the line is in flight in some lane, and the lane that the checker comparator names where it disagrees with the Sextant about the line
(R121, R152). -/
structure L1Line where
  icache : Bool
  addr : Nat
  upset : List (Fin 3 × Fin 72 × Byte)
  tags : BitVec 3
  inflight : Bool
  checker : Option (Fin 4) := none
  deriving DecidableEq, Repr
/-- The role attribute of a client certificate (R154, R463). -/
inductive Cert where
  | depot | maintainer | neither
  deriving DecidableEq, Repr
/-- How an attempt to send a CAN frame ends (R291): the error carries the code of LEC. -/
inductive AttemptEnd where
  | success | lost
  | error (lec : Fin 8)
  deriving DecidableEq, Repr

/-- One sample of the FB die (R345): the levels of the safety, EDM and reset inputs, test-pulse lines, output pins and midpoints, and the group-2 supply in
units of 0.1 V. -/
structure FbSample where
  si : BitVec 16
  edm : BitVec 8
  rst : BitVec 2
  tp : BitVec 8
  pin : BitVec 8
  mid : BitVec 8
  u2 : BitVec 16
  deriving DecidableEq, Repr

/-- What a button of the Binnacle panel does (R395, R530): it is pressed, it has been held for 1 s or for another 0.25 s, or it is released after `ms`. -/
inductive BtnEv where
  | press | held
  | release (ms : Nat)
  deriving DecidableEq, Repr
/-- A link between the P die and a die with its own clock (R407). -/
inductive DieLink where
  | fa | lod
  | ana (n : Fin 8)
  deriving DecidableEq, Repr

/-- The commands of the module, one constructor per row of spec/opcode_table.json, in the table's order. -/
inductive Instr where
  /-- `REGISTER_WRITE` (R29): A naturally aligned 32- or 64-bit write to a register that has no row of its own updates its fields under the access codes. -/
  | registerWrite (req : Req) (addr size : Nat) (val : Word)
  /-- `RC_READ` (R34): A read of an RC register returns its value and clears it, once per voted request. -/
  | rcRead (req : Req) (addr size : Nat)
  /-- `RWL_BOUNDARY` (R31): At the block's boundary, the RWL values written since the last boundary take effect together, the last value written winning. -/
  | rwlBoundary (blk : Fin 16) (chan : Option Nat)
  /-- `ALIAS_WRITE` (R36): A write to a group or broadcast alias page acts as the same write to every channel that the alias reaches. -/
  | aliasWrite (req : Req) (addr size : Nat) (val : Word)
  /-- `DOORBELL` (R50): A write to a queue's doorbell page is ignored, dropped as stale or accepted, and updates QPROD. -/
  | doorbell (req : Req) (q : QRef) (size : Nat) (val : Word)
  /-- `ENTRY_TAKE` (R51): The engine takes the next outstanding entry or chain and checks OWN, the codeword and EPOCH before it starts the operation. -/
  | entryTake (q : QRef)
  /-- `DESCRIPTOR_WRITEBACK` (R42): On completion of an operation the engine rewrites the descriptor codeword with OWN cleared, STATUS, TS96 and RESULT. -/
  | descriptorWriteback (q : QRef)
  /-- `QUEUE_ENABLE` (R47): Writing EN 1 to an idle queue enables it, zeroes QPROD and QCONS and takes the owner's epoch. -/
  | queueEnable (req : Req) (q : QRef)
  /-- `QUEUE_DRAIN` (R52): Writing EN 0 starts a drain that finishes the running operation and aborts the other outstanding entries. -/
  | queueDrain (req : Req) (q : QRef)
  /-- `DRAIN_COMPLETE` (R52): When every outstanding entry has been written back, IDLE is set with CONS equal to PROD. -/
  | drainComplete (q : QRef)
  /-- `QUEUE_BUMP` (R47): Writing BUMP increments the queue's epoch at once. -/
  | queueBump (req : Req) (q : QRef)
  /-- `INTERRUPT_WRITE` (R57): A write of an identity to an interrupt file's seteipnum register makes that identity pending. -/
  | interruptWrite (req : Req) (addr : Nat) (val : Word)
  /-- `TAG_WRITE` (R61): A write to a tag area stores the data durably in the tag region of non-volatile memory. -/
  | tagWrite (req : Req) (addr size : Nat) (val : Word)
  /-- `MEMORY_READ` (R69): A read of a codeword from any macro classifies it by syndrome as clean, one bad symbol, poisoned or uncorrectable. -/
  | memoryRead (req : Req) (kind : AccKind) (addr : Nat) (src : MemSrc) (upset : List (Fin 36 × Byte)) (hard : Bool)
  /-- `DEGRADATION_WINDOW_END` (R536): With its scrubber off, each span of DRH hours or NVD days ends the window, and the device counts restart at 0. -/
  | degradationWindowEnd (nvm : Bool)
  /-- `MEMORY_WRITE` (R74): A partial write is a read-modify-write at the macro, and a whole aligned codeword write replaces the codeword clean. -/
  | memoryWrite (req : Req) (kind : AccKind) (addr : Nat) (data : List Byte) (src : MemSrc)
  /-- `SCRUB_STEP` (R85): A scrubber reads the next codeword, corrects and re-reads it, or poisons it, as one indivisible step. -/
  | scrubStep (nvm : Bool) (upset : List (Fin 36 × Byte)) (hard : Bool)
  /-- `CACHE_SCRUB` (R86): Once a second, hardware scrubs the L3 slices, the triad L2s and the service-core L2s. -/
  | cacheScrub (src : MemSrc) (addr : Nat) (upset : List (Fin 36 × Byte)) (hard : Bool)
  /-- `INJECT_ARM` (R99): Setting MEM_INJ.ARM arms an injection into the next write to the named DRAM codeword. -/
  | injectArm (req : Req) (addr : Nat) (syma symb : Fin 64) (ben : Bool) (val : Byte)
  /-- `PARTITION_RESTART` (R94): Writing SVC_PCTRLp.RESTART increments the partition's role epoch. -/
  | partitionRestart (req : Req) (p : Fin 64)
  /-- `PARTITION_CORES_WRITE` (R94): Writing CORES while the partition is enabled increments its role epoch. -/
  | partitionCoresWrite (req : Req) (p : Fin 64) (cores : BitVec 16)
  /-- `WINDOW_INTERRUPT` (R95): At a window entry's offset the core receives its window interrupt and WINCUR changes. -/
  | windowInterrupt (c : Fin 16) (k : Fin 32) (acked : Bool)
  /-- `SEXTANT_COMPARE` (R109): The Sextant compares the aligned request records of the lanes, releases the vote or names the odd lane. -/
  | sextantCompare (t : Fin 4) (a b c : LaneRec) (retire : Nat) (kind : FenceKind) (other : Option (Fin 3)) (checker : Option (Fin 4))
  /-- `VOTED_RESPONSE` (R108): The single response to a voted request is returned to lanes A, B and C at their stagger offsets. -/
  | votedResponse (t : Fin 4) (data : Word) (wr : Bool)
  /-- `INPUT_CAPTURE` (R115): The input agreement stage captures an asynchronous event once and tags it with lane A's retire count plus MARGIN. -/
  | inputCapture (t : Fin 4) (ev : TrEvent) (retire : Nat)
  /-- `TAGGED_EVENT_EFFECT` (R116): A tagged event takes effect in each lane after the instruction whose retire count equals the tag. -/
  | taggedEventEffect (t : Fin 4) (trap : Option (Word × Bool)) (regs : List (Nat × Word))
  /-- `WFI_WAKE` (R118): An interrupt tagged at or above a waiting WFI wakes all three lanes, and they trap after the WFI. -/
  | wfiWake (t : Fin 4) (next : Word) (mach : Bool) (regs : List (Nat × Word))
  /-- `SIGNATURE_BOUNDARY` (R119): Every INTMS milliseconds each lane stalls, computes its state signature and presents it to the Sextant. -/
  | signatureBoundary (t : Fin 4) (a b c : List Word) (lines : List L1Line) (checker : Option (Fin 4))
  /-- `VRGN_WRITE` (R114): A voted write to VTC_VRGNk is accepted only from an owning triad or when V is 0. -/
  | vrgnWrite (req : Req) (k : Fin 16) (val : Word)
  /-- `TRIAD_START` (R128): START takes an OFF or HALTED triad with a verified image into the start-up self-test. -/
  | triadStart (req : Req) (t : Fin 4)
  /-- `START_SELFTEST_DONE` (R134): At the end of the start-up self-test the triad enters TMR, DUPLEX or HALTED, placing spares where needed. -/
  | startSelftestDone (t : Fin 4) (fails : BitVec 3) (inj : Option (Fin 10 × Fin 4)) (spareFails : List (Fin 14)) (checker : Option (Fin 10 × Fin 4)) (retire : Nat)
  /-- `SHALT` (R129): SHALT makes a safe halt with HCAUSE 1 in any running state. -/
  | shalt (req : Req) (t : Fin 4)
  /-- `LOGIC_SELFTEST_DONE` (R136): The fenced or incoming core completes its 40 us logic self-test and passes or goes to QUAR. -/
  | logicSelftestDone (t : Fin 4) (pass : Bool)
  /-- `REJOIN_BOUNDARY` (R136): The pair reaches the rejoin tag, stalls until its outstanding voted requests complete, and the state copy starts. -/
  | rejoinBoundary (t : Fin 4) (regs : List Word)
  /-- `REJOIN_CHECK` (R139): After the copy, the three lanes' signatures are compared; the triad rejoins TMR, substitutes or halts. -/
  | rejoinCheck (t : Fin 4) (upset : List (Fin 3 × Fin 92 × Word)) (checker : Option (Fin 4))
  /-- `SUBSTITUTION_SWITCH` (R142): The Sextant switches position P to the incoming spare core, TMAP changes and SUBS increments. -/
  | substitutionSwitch (t : Fin 4)
  /-- `POOL_SELFTEST` (R143): Once a second one pool core runs the logic self-test, and a failing core goes to QUAR. -/
  | poolSelftest (pass : Bool)
  /-- `XTEST_GO` (R145): Writing VTC_XTEST.GO for a QUAR core starts the 200 ms extended self-test, or sets RESULT 3. -/
  | xtestGo (req : Req) (core : Fin 16)
  /-- `XTEST_DONE` (R145): The extended self-test ends, and the core goes to POOL or FAILED. -/
  | xtestDone (pass : Bool)
  /-- `INJECTION_SEQUENCE` (R149): Every INJMS milliseconds the Sextant runs five injected test compares and checks the verdicts. -/
  | injectionSequence (t : Fin 4) (flagged : List (Fin 4)) (wrongRelease : Option (Fin 5)) (checker : Option (Fin 5 × Fin 4)) (retire : Nat)
  /-- `DEBUG_SESSION_OPEN` (R154): A TLS session on port 4450 is opened with a depot or maintainer certificate to address a triad. -/
  | debugSessionOpen (t : Fin 4) (cert : Cert) (anchor : List Byte) (regs : List (Nat × Word))
  /-- `DEBUG_REQUEST` (R155): A Debug Module Interface access is carried out or refused according to the certificate class. -/
  | debugRequest (t : Fin 4) (op : DbgOp)
  /-- `DEPOT_HALT` (R156): A depot halt splits lock-step, holds lanes B and C and forces the outputs off. -/
  | depotHalt (t : Fin 4) (stop : Stop)
  /-- `DEPOT_SESSION_END` (R157): A depot session ends on detach, connection close or 60 s without a request, and the triad restarts or stays HALTED. -/
  | depotSessionEnd (t : Fin 4)
  /-- `MAINTAINER_REQUEST` (R158): A maintainer request is captured as a debugger access and served at its tag with a 32-cycle stall of every lane. -/
  | maintainerRequest (t : Fin 4) (op : DbgOp) (retire : Nat)
  /-- `SOURCE_QUALIFIED` (R168): A synchronisation source becomes qualified, and Meridian chooses its active source and steps or slews. -/
  | sourceQualified (src : Fin 4) (offset : Int)
  /-- `SOURCE_DISQUALIFIED` (R168): The active source is disqualified, and Meridian switches source or enters DR. -/
  | sourceDisqualified (src : Fin 4)
  /-- `DR_LIMIT_EXPIRY` (R168): The DR time reaches DRLIM, and Meridian enters LOST. -/
  | drLimitExpiry
  /-- `SLEW_DONE` (R170): A slew ends when the offset has been absorbed, and SLEW clears. -/
  | slewDone
  /-- `MER_STEP_WRITE` (R172): A write to MER_STEP applies a software step in DR or LOST, or is refused with STEPREF. -/
  | merStepWrite (req : Req) (val : Word)
  /-- `NOW0_READ` (R175): A read of MER_NOW0 returns the time and latches PCC and the fraction into the reader's MER_NOW1. -/
  | now0Read (req : Req)
  /-- `CYCLE_START` (R177): The cycle timer begins a new Rhumbline cycle. -/
  | cycleStart
  /-- `CYCLE_POINT_FIRE` (R179): An enabled cycle point sends its identity when the cycle timer reaches its offset. -/
  | cyclePointFire (k : Fin 16)
  /-- `ALARM_FIRE` (R180): An armed alarm fires once when time reaches its instant, clears ARM and sets FIRED. -/
  | alarmFire (k : Fin 8)
  /-- `ALARM_ARM` (R180): Writing ARM 1 arms an alarm, which fires at once with LATE if its instant has passed. -/
  | alarmArm (req : Req) (k : Fin 8) (val : Word)
  /-- `STAR_FRAME_RECEIVE` (R197): The star judges an arriving frame against the open windows and header checks and forwards or discards it. -/
  | starFrameReceive (port : Fin 18) (sof : Nat) (frame : List Byte)
  /-- `GUARDIAN_CUT` (R198): A forwarded frame that exceeds MAXLEN or runs into the next window is cut with an inverted CRC. -/
  | guardianCut (port : Fin 18) (win : Bool)
  /-- `PORT_ENABLE` (R200): Writing RHL_PCTRL.EN 1 takes a DISABLED port to NORMAL and clears its violation count. -/
  | portEnable (req : Req) (n : Fin 18)
  /-- `PORT_DISABLE` (R200): Writing RHL_PCTRL.EN 0 cuts a frame being forwarded and takes the port to DISABLED. -/
  | portDisable (req : Req) (n : Fin 18) (inFlight : Option Nat)
  /-- `PORT_FORCE` (R200): Writing FORCE contains the port and sets REMAIN to CONTAIN. -/
  | portForce (req : Req) (n : Fin 18)
  /-- `PORT_RELEASE` (R200): Writing RELEASE returns a contained or probationary port to NORMAL. -/
  | portRelease (req : Req) (n : Fin 18)
  /-- `CONTAIN_COUNTDOWN` (R200): REMAIN counts down at each cycle start, and at 0 the port moves to PROBATION or NORMAL. -/
  | containCountdown (n : Fin 18)
  /-- `OWN_NODE_RECEIVE` (R201): The own node delivers the first valid copy of an entry in a cycle to its map or to receive queue 1. -/
  | ownNodeReceive (chan : Bool) (sof : Nat) (frame : List Byte)
  /-- `STATS_UPDATE` (R203): At an entry's window close plus 16 us, its statistics codeword is updated by one read-modify-write. -/
  | statsUpdate (e : Nat)
  /-- `PACK_START` (R204): At OFFSET minus PACKLEAD, the Chart engine starts packing an INPORT-16 MAPV entry. -/
  | packStart (e : Nat)
  /-- `OWN_NODE_TRANSMIT` (R204): At OFFSET the own node sends the packed frame, descriptor frame or pending tunnel frame, or counts NOTREADY. -/
  | ownNodeTransmit (e : Nat)
  /-- `SLOTTX` (R205): A SLOTTX descriptor on RHL queue 0 names a frame to send in a given entry and cycle. -/
  | slottx
  /-- `RHL_RXBUF` (R205): An RXBUF descriptor on RHL queue 1 posts a buffer for received frames. -/
  | rhlRxbuf
  /-- `SYNCPT` (R207): At the synchronisation point the deviations are averaged into CORR, and the correction and rate are applied. -/
  | syncpt
  /-- `SCHLOAD_GO` (R192): Writing RHL_SCHLOAD.GO starts copying and checking a schedule image into a buffer. -/
  | schloadGo (req : Req) (src : BitVec 40) (buf : Bool)
  /-- `SCHEDULE_LOAD_DONE` (R192): The load completes, setting SHREADY and LOADDONE or writing ERR and LOADERR. -/
  | scheduleLoadDone
  /-- `SCHSW_ARM` (R193): Writing RHL_SCHSW.ARM arms a schedule switch at the named cycle, or refuses it. -/
  | schswArm (req : Req) (cyc : BitVec 32)
  /-- `SCHEDULE_SWITCH` (R193): At the armed cycle the shadow buffer becomes active, or the switch is refused with SWREF. -/
  | scheduleSwitch
  /-- `RHL_ENABLE` (R211): Writing RHL_CTRL.EN 1 activates a schedule, increments the node epoch and enters LISTEN, or is refused with NOSCHED. -/
  | rhlEnable (req : Req)
  /-- `RHL_DISABLE` (R211): Writing RHL_CTRL.EN 0 cuts frames in progress and takes the unit to OFF. -/
  | rhlDisable (req : Req) (inFlight : List (Fin 18 × Nat))
  /-- `LISTEN_TIMEOUT` (R212): When LT expires in LISTEN, the own node sends a coldstart frame if it may, and LT restarts. -/
  | listenTimeout
  /-- `COLDSTART_ACCEPT` (R213): In LISTEN the star accepts the first coldstart frame, opens a 2 us collision window and starts cycle 0. -/
  | coldstartAccept (sof : Nat) (cands : List (Fin 18 × List Byte))
  /-- `COLLISION_WINDOW_CLOSE` (R213): The collision window closes, and CSRES records the winner and the losers. -/
  | collisionWindowClose
  /-- `COLDSTART_BAD_FCS` (R211): The accepted coldstart frame ends with a bad FCS, so cycle 0 is dropped and the unit returns to LISTEN. -/
  | coldstartBadFcs
  /-- `INTEGRATE` (R214): In LISTEN a valid sync frame makes the star adopt its cycle and network time. -/
  | integrate (port : Fin 18) (sof : Nat) (frame : List Byte)
  /-- `INTEGRATION_TIMEOUT` (R211): COLDSTART or INTEGRATE lasts 8 cycles without SYNC, so forwarding stops and LISTEN restarts. -/
  | integrationTimeout
  /-- `PARTNER_ABSENT_LT` (R215): A channel-Y star whose partner has been absent for LT starts accepting coldstart frames, each setting SPLIT. -/
  | partnerAbsentLt
  /-- `UNPACK_FRAME` (R238): The Chart engine unpacks a delivered frame through its map, element by element. -/
  | unpackFrame
  /-- `PUB` (R255): A PUB descriptor writes the value with QUAL VALID. -/
  | pub (q : Fin 128)
  /-- `PUBSUB` (R255): A PUBSUB descriptor writes the value with VALID and SUBST. -/
  | pubsub (q : Fin 128)
  /-- `PUBLIM` (R255): A PUBLIM descriptor writes the value with VALID and LIMITED. -/
  | publim (q : Fin 128)
  /-- `INVAL` (R255): An INVAL descriptor writes the entry with VALID 0, keeping the value. -/
  | inval (q : Fin 128)
  /-- `CFG` (R255): A CFG descriptor replaces the whole entry with its new TYPE, FLAGS, SOURCE and LIMIT. -/
  | cfg (q : Fin 128)
  /-- `FORCE` (R254): FORCE freezes the entry and writes the given value with VALID and FORCED. -/
  | force (q : Fin 128)
  /-- `UNFORCE` (R254): UNFORCE clears FRZ and VALID and advances SEQ. -/
  | unforce (q : Fin 128)
  /-- `MAPSET` (R240): A MAPSET descriptor checks a new directory entry and its element list, or fails with BADMAP or PINFULL. -/
  | mapset (q : Fin 128)
  /-- `MAP_TAKE_EFFECT` (R240): A checked map replaces the directory entry whole at the first instant no frame is using it. -/
  | mapTakeEffect
  /-- `PUBBULK` (R255): A PUBBULK descriptor copies the entry's bulk length from a buffer into its bulk area. -/
  | pubbulk (q : Fin 128)
  /-- `SNAP` (R255): A SNAP descriptor copies consecutive entries whole into a buffer. -/
  | snap (q : Fin 128)
  /-- `SWEEP_PASS` (R245): At each cycle start the sweep reads the watched list and sets STALE on entries older than their limit. -/
  | sweepPass (late : Bool)
  /-- `BKB_FRAME_RECEIVE` (R265): A backbone frame is received, checked, de-duplicated, classified by VLAN and switched. -/
  | bkbFrameReceive (port : Fin 4) (sof : Nat) (frame : List Byte)
  /-- `GATE_ENTRY_REACHED` (R266): At a gate entry's offset the egress port's open traffic classes change. -/
  | gateEntryReached (port : Fin 4) (k : Fin 128)
  /-- `SUPERVISION_SEND` (R262): Every SVINT a PRP or HSR supervision frame is sent. -/
  | supervisionSend
  /-- `NODE_FORGET` (R262): A node-table entry is forgotten after FORGET. -/
  | nodeForget (mac : BitVec 48)
  /-- `RINGOPEN_DETECT` (R263): RINGOPEN is set when the module's supervision frames have not returned on a ring port for 3 times SVINT. -/
  | ringopenDetect
  /-- `FDB_AGE_OUT` (R265): A learnt address is aged out after 300 s. -/
  | fdbAgeOut (vid : BitVec 12) (mac : BitVec 48)
  /-- `GPTP_SYNC_SEND` (R268): As grandmaster, the module sends a Sync every 2^LOGSYNC s. -/
  | gptpSyncSend (port : Fin 4)
  /-- `GPTP_SYNC_RECEIVE` (R269): A received Sync gives an offset that qualifies, corrects or disqualifies source 2. -/
  | gptpSyncReceive (port : Fin 4) (offset : Int) (rate : Int) (capable : Bool)
  /-- `SYNC_RECEIPT_TIMEOUT` (R269): A Sync receipt timeout counts towards disqualifying source 2. -/
  | syncReceiptTimeout
  /-- `TX_FLOW_SEND` (R270): At TXOFF each cycle, a TX context packs its map and sends the payload. -/
  | txFlowSend (f : Fin 256)
  /-- `FLOW_CONTEXT_ENABLE` (R272): Writing BKB_FCf_0.EN 1 enables a context and sets FIRST. -/
  | flowContextEnable (req : Req) (f : Fin 256)
  /-- `FLOW_CONTEXT_BUMP` (R272): Writing BUMP increments the context's epoch. -/
  | flowContextBump (req : Req) (f : Fin 256)
  /-- `TUNENC_WRAP` (R275): A TUNENC context wraps a CAN or Rhumbline frame in a tunnel frame and sends it within 2 us. -/
  | tunencWrap
  /-- `BKB_TXFRM` (R277): A TXFRM descriptor on BKB queue 0 sends a frame through the host port. -/
  | bkbTxfrm
  /-- `BKB_RXBUF` (R277): An RXBUF descriptor on BKB queue 1 posts a buffer for host frames. -/
  | bkbRxbuf
  /-- `BKB_LINK_CHANGE` (R278): A backbone port's link changes state, and TOPOCNT increments. -/
  | bkbLinkChange (port : Fin 4) (up : Bool)
  /-- `CAN_ENABLE` (R285): Writing MDB_CCTRL.EN 1 checks the bit timing and enables the channel in SYNC, or is refused with BTERR. -/
  | canEnable (req : Req) (n : Fin 6)
  /-- `CAN_BUS_INTEGRATED` (R285): After 11 recessive bits the channel leaves SYNC and becomes ACTIVE. -/
  | canBusIntegrated (n : Fin 6)
  /-- `CAN_TXFRM` (R287): A TXFRM descriptor is checked and its frame enters the transmit FIFO. -/
  | canTxfrm (n : Fin 6)
  /-- `ARBITRATION_START` (R291): At an arbitration start the channel offers the head of its FIFO, or removes a cancelled head. -/
  | arbitrationStart (n : Fin 6) (sof : Nat)
  /-- `ATTEMPT_END` (R291): An attempt ends in success, lost arbitration or an error, and the frame completes or reaches its retry limit. -/
  | attemptEnd (n : Fin 6) (how : AttemptEnd) (tec : Fin 512) (rcv : Fin 256)
  /-- `CAN_CANCEL` (R292): A CANCEL descriptor latches a cancel for a TXFRM entry and completes after its target. -/
  | canCancel (n : Fin 6)
  /-- `CAN_FRAME_RECEIVE` (R294): A frame valid for the receiver is decided by the first matching filter, and its actions are carried out. -/
  | canFrameReceive (n : Fin 6) (sof : Nat) (medium : Fin 4) (record data : List Byte) (lec : Fin 7) (tec : Fin 512) (rcv : Fin 256)
  /-- `HP_POP` (R296): Writing MDB_HPPOP.POP frees the head entry of the high-priority buffer. -/
  | hpPop (req : Req) (n : Fin 6)
  /-- `CAN_RXBUF` (R297): An RXBUF descriptor on queue 8 + n posts a receive buffer. -/
  | canRxbuf (n : Fin 6)
  /-- `BUS_OFF` (R298): On entering BUSOFF the FIFO is flushed, and recovery starts automatically or waits. -/
  | busOff (n : Fin 6)
  /-- `CAN_RECOVER` (R298): Writing RECOVER starts recovery from BUSOFF. -/
  | canRecover (req : Req) (n : Fin 6)
  /-- `RECOVER_DONE` (R298): After 128 occurrences of 11 recessive bits the channel becomes ACTIVE with its counters at 0. -/
  | recoverDone (n : Fin 6)
  /-- `DOMINANT_TIMEOUT` (R284): 4 ms of continuous dominant transmit data release the driver, set TDTO and take the channel to BUSOFF. -/
  | dominantTimeout (n : Fin 6)
  /-- `CAN_DISABLE` (R298): Writing EN 0 finishes the frame in progress, aborts the FIFO and takes the channel to OFF. -/
  | canDisable (req : Req) (n : Fin 6)
  /-- `OUTBOUND_ACCESS` (R306): A hart access through an outbound window goes out as a TLP or is served from a prefetch buffer. -/
  | outboundAccess (req : Req) (kind : AccKind) (addr : BitVec 40) (size : Nat) (data : List Byte)
  /-- `COMPLETION_RECEIVED` (R309): A completion ends a held read or non-posted write, giving data or an access fault. -/
  | completionReceived (tag : Option (Fin 32)) (ok : Bool) (data : List Byte)
  /-- `COMPLETION_TIMEOUT` (R309): After 50 us without completion the requester gets an access fault, and CPLTO counts. -/
  | completionTimeout
  /-- `PREFETCH_EXPIRY` (R307): A prefetch buffer becomes invalid PFAGE microseconds after its fill. -/
  | prefetchExpiry (k : Fin 4)
  /-- `ERROR_MESSAGE` (R310): An ERR_NONFATAL or ERR_FATAL message starts an error fetch from the function's AER capability. -/
  | errorMessage (rid : BitVec 16) (fatal : Bool)
  /-- `ERROR_FETCH_DONE` (R311): The error fetch pushes an error log entry and sets ERRMSG, or drops it as ELOVF. -/
  | errorFetchDone (reads : List (Option (BitVec 32)))
  /-- `ELPOP` (R311): Writing BRG_ELPOP.POP frees the oldest error log entry. -/
  | elpop (req : Req)
  /-- `INBOUND_REQUEST` (R313): An inbound request is mapped by the inbound windows and served or refused. -/
  | inboundRequest (config : Bool) (addr : Word) (wr : Bool) (len : Nat) (data : List Byte)
  /-- `MSI_RECEIVE` (R304): An MSI or INTx message in root complex mode is routed through BRG_MSIRTr to an interrupt file. -/
  | msiReceive (intx : Option (Fin 4)) (data : BitVec 32)
  /-- `MSIGEN` (R304): Writing BRG_MSIGEN.VEC sends that MSI vector to the far root in endpoint mode. -/
  | msigen (req : Req) (vec : Fin 32)
  /-- `CFGREQ_GO` (R317): Writing BRG_CFGREQ.GO starts a configuration request in root complex mode. -/
  | cfgreqGo (req : Req) (val : Word)
  /-- `CFGREQ_DONE` (R317): A configuration request completes and writes RESULT and CFGDATA. -/
  | cfgreqDone (result : Fin 8) (data : BitVec 32)
  /-- `COPYOUT` (R314): A COPYOUT descriptor posts 64-byte lines from DRAM through an outbound window. -/
  | copyout
  /-- `COPYIN` (R314): A COPYIN descriptor reads 64-byte lines from the backplane into DRAM. -/
  | copyin
  /-- `BRIDGE_LINK_DOWN` (R316): Link down or EN 0 ends every held request, drops unsent posted writes and invalidates the prefetch buffers. -/
  | bridgeLinkDown (disable : Bool) (unsent : Nat)
  /-- `PERST_RELEASE` (R521): In root complex mode PERST# is released 100 ms after EN is written 1. -/
  | perstRelease
  /-- `FIO_SCAN` (R320): Every 10 us the FA die samples every input and updates the filters. -/
  | fioScan (mid : BitVec 128) (volts : List (Nat × Int))
  /-- `FIELD_PUBLISH` (R321): A field channel writes its Chart entry on a change, a quality change or a cycle-start refresh. -/
  | fieldPublish
  /-- `WETTING_PULSE` (R322): A general input with WET set is pulsed at 8 mA for 2 ms once per second at its slot. -/
  | wettingPulse (n : Fin 48)
  /-- `DOCMD_WRITE` (R323): A write to FIO_DOCMD switches the general outputs within 1 us, or is stored while the watchdog has expired. -/
  | docmdWrite (req : Req) (cmd : BitVec 24)
  /-- `OUTPUT_READBACK` (R323): Every 100 us each output's voltage, current and junction temperature are read back. -/
  | outputReadback (c : Fin 128) (u amps : BitVec 16) (tj : Int) (um : BitVec 16)
  /-- `OVERLOAD` (R324): An output in current limit for OLT ms opens its switch and latches OVERLOAD. -/
  | overload (c : Fin 128) (ms : Nat)
  /-- `OPENWIRE` (R324): A closed DO carrying below 10 mA for 100 ms reports OPENWIRE. -/
  | openwire (c : Fin 128)
  /-- `EXTDRIVE` (R324): An undriven pin reading ON for 1 ms reports EXTDRIVE. -/
  | extdrive (c : Fin 128)
  /-- `CHSTAT_CLRF` (R324): Writing FIO_CHSTAT.CLRF clears a channel's latched faults where their condition allows. -/
  | chstatClrf (req : Req) (c : Fin 128)
  /-- `TPFAULT` (R327): An SI whose FA samples miss the test-pulse pattern in one 8 ms frame sets TPFAULT. -/
  | tpfault (n : Fin 16)
  /-- `DISCFAULT` (R328): An SP pair disagreeing for DISC ms sets DISCFAULT. -/
  | discfault (p : Fin 8)
  /-- `SPEED_EDGE` (R329): A rising edge on a speed input is stamped and updates its count and period. -/
  | speedEdge (n : Fin 4) (stamp : Nat)
  /-- `ZERO_SPEED_TIMEOUT` (R329): No rising edge for ZTIME ms makes the period read zero speed. -/
  | zeroSpeedTimeout (n : Fin 4) (ms : Nat)
  /-- `SUPPLY_MEASURE` (R330): Every 100 us each output group's supply is measured, and its NORMAL, WARN or LOST state is updated. -/
  | supplyMeasure (g : Fin 3) (u : BitVec 16)
  /-- `SOOWN_WRITE` (R332): A voted write to FIO_SOOWN binds safety outputs to a triad where allowed, or sets OWNERR. -/
  | soownWrite (req : Req) (own : BitVec 24)
  /-- `DOSAFE_WRITE` (R333): A voted write to FIO_DOSAFE with a correct NREQ sets the FA switch requests of owned outputs. -/
  | dosafeWrite (req : Req) (val : BitVec 24)
  /-- `FORCED_OFF` (R334): A triad's forced-off signal opens the FA switches of its outputs, clears their REQ and sets FORCED. -/
  | forcedOff (t : Fin 4)
  /-- `WATCHDOG_START` (R335): Writing WDEN 1 starts the FA watchdog. -/
  | watchdogStart (req : Req)
  /-- `WATCHDOG_KICK` (R335): A write of key 0xC35A to FIO_WDKICK restarts TIME; other keys count BADKEY. -/
  | watchdogKick (req : Req) (key : BitVec 16)
  /-- `WATCHDOG_EXPIRY` (R336): TIME without a kick, or 50 us of FA link silence, puts DOs in SAFE states and opens every FA switch. -/
  | watchdogExpiry (link : Bool)
  /-- `WATCHDOG_CLEAR` (R336): Writing CLEAR with the link up ends the safe states and restarts TIME. -/
  | watchdogClear (req : Req)
  /-- `FIO_ENABLE_WRITE` (R337): Writing FIO_CTRL.EN enables the block, or with 0 opens every switch within 100 us. -/
  | fioEnableWrite (req : Req) (en : Bool)
  /-- `LODESTONE_CYCLE` (R345): Every 50 us Lodestone applies a commit, filters inputs, records lockouts, applies trips and resets, evaluates slots and sets FB commands. -/
  | lodestoneCycle (samples : List FbSample) (edges : List (Fin 4 × Fin 50000))
  /-- `TEST_FRAME` (R349): Every 8 ms Lodestone starts a test frame, drives the off-pulses and sends the frame marker. -/
  | testFrame (limited : BitVec 8)
  /-- `DISC_EXPIRY` (R348): A pair still disagreeing when the slot's DISC timer expires records cause DISC. -/
  | discExpiry (slot : Fin 8)
  /-- `VIGIL_EXPIRY` (R355): A vigilance timer that expires makes a demand. -/
  | vigilExpiry (slot : Fin 8)
  /-- `TSTUCK_EXPIRY` (R355): A vigilance acknowledge held longer than TSTUCK makes a demand. -/
  | tstuckExpiry (slot : Fin 8)
  /-- `EDM_CHECK_FAIL` (R358): EDM not differing from OUT after TEDM records cause EDM. -/
  | edmCheckFail (n : Fin 8)
  /-- `SPDFAULT` (R354): Disagreeing speeds for longer than DISC, or a period below 40 us, record SPDFAULT. -/
  | spdfault (slot : Fin 8)
  /-- `OUTPUT_WATCH` (R359): A pin reading ON while commanded off, or OFF while commanded on, for 1 ms records EXTDRIVE or FBNOOUT. -/
  | outputWatch (n : Fin 8)
  /-- `LOD_SUPPLY_LOST` (R360): Lodestone's own measurement of group 2 going LOST suspends tests and puts MANUAL slots into WAIT. -/
  | lodSupplyLost
  /-- `LOD_LINK_SILENCE` (R342): No valid status frame for 200 us clears LOD_STAT.LINK and raises a MAJOR fault. -/
  | lodLinkSilence
  /-- `UNLOCK0` (R363): A voted write to LOD_UNLOCK0 opens an unlock pair for 1 ms. -/
  | unlock0 (req : Req) (code : Word)
  /-- `UNLOCK1` (R363): A write to LOD_UNLOCK1 completes the pair, which is accepted or refused whole with UNLREF. -/
  | unlock1 (req : Req) (code : Word)
  /-- `TRIP` (R365): A voted write to LOD_TRIP with key 0xA53C records VITALTRIP on the outputs in MASK. -/
  | trip (req : Req) (val : Word)
  /-- `COMMIT_REQ` (R370): Writing LOD_CMTCTL.REQ starts the checks of the shadow table. -/
  | commitReq (req : Req)
  /-- `COMMIT_CHECK_DONE` (R369): The commit checks complete within 200 us and set PEND or write RESULT and ERRIDX. -/
  | commitCheckDone
  /-- `COMMIT_NOW` (R370): Writing NOW commits at the next cycle without a Waypoint while no table is active. -/
  | commitNow (req : Req)
  /-- `COMMIT_CANCEL` (R370): Writing CANCEL clears PEND. -/
  | commitCancel (req : Req)
  /-- `COMMIT_STROBE` (R370): At the Waypoint the link port sends the commit strobe, and the shadow table becomes active at the next cycle. -/
  | commitStrobe
  /-- `TABLE_ECHO` (R372): After each commit and every 1 s the active table is echoed with its CRC, and ECHOSEQ increments. -/
  | tableEcho
  /-- `TABLE_CRC_CHECK` (R361): The once-a-second CRC of the active table fails, and TABLE is recorded on every output. -/
  | tableCrcCheck
  /-- `INTERNAL_FAULT` (R361): Differing evaluation copies or an oscillator-monitor trip record INTERNAL on every output. -/
  | internalFault (osc : Bool) (mac : Fin 3)
  /-- `SETPOINT_FRAME` (R382): Every 100 us the interface sends the trimmed target current to the front end. -/
  | setpointFrame (n : Fin 8) (valid : Bool)
  /-- `ANL_STATUS_FRAME` (R393): A status frame from a front end updates the readback and publishes the Chart entry when due. -/
  | anlStatusFrame (n : Fin 8)
  /-- `ANALOG_READBACK` (R389): At each readback the front end compares its two measurements and latches RBMISM on persistent disagreement. -/
  | analogReadback (n : Fin 8) (carry draw : BitVec 16) (dpri drb : Int) (vterm vcomp : BitVec 12) (tj : Int) (refs : Bool)
  /-- `HEADROOM` (R386): The compliance or terminal-voltage condition held for 20 ms sets HEADROOM. -/
  | headroom (n : Fin 8)
  /-- `OPEN` (R387): In SOURCE mode a current below 1 mA at full compliance for 20 ms sets OPEN. -/
  | openLoop (n : Fin 8)
  /-- `FALLBACK_ENTER` (R385): The loop-derived rail below 3.0 V for 20 us makes the front end enter fall-back at 250 kHz. -/
  | fallbackEnter (n : Fin 8)
  /-- `FALLBACK_LEAVE` (R385): The rail at or above 3.2 V through 100 ms returns the front end to 4 MHz, subject to the 10 s hold. -/
  | fallbackLeave (n : Fin 8)
  /-- `ANL_LINK_SILENT` (R390): 10 ms without a valid setpoint frame makes the front end apply its safe current. -/
  | anlLinkSilent (n : Fin 8)
  /-- `ANL_SAFE_RELEASE` (R390): 10 ms of valid frames, or RBMISM cleared, releases the safe current. -/
  | anlSafeRelease (n : Fin 8)
  /-- `ANL_INTERFACE_LINK_LOSS` (R390): 20 ms without a valid status frame clears LINK, and the entry is written with VALID 0. -/
  | anlInterfaceLinkLoss (n : Fin 8)
  /-- `ANL_CLRF` (R389): Writing ANL_CHSTAT.CLRF clears RBMISM after three agreeing readbacks, or is ignored. -/
  | anlClrf (req : Req) (n : Fin 8)
  /-- `ANL_ENABLE_WRITE` (R392): Writing a channel's or the block's EN starts the channel at its target or makes it idle within 1 ms. -/
  | anlEnableWrite (req : Req) (chan : Option (Fin 8)) (en : Bool)
  /-- `TRIM_WRITE` (R394): A write to ANL_CHTRIM takes effect at the next setpoint frame and is stored within 10 ms. -/
  | trimWrite (req : Req) (n : Fin 8) (zero span : BitVec 11)
  /-- `FIRMWARE_SWITCH_HOLD` (R391): During a firmware switch the front end holds its current for at most 50 ms with HOLD set. -/
  | firmwareSwitchHold (n : Fin 8) (running : Bool)
  /-- `BINNACLE_TRIM_OPEN` (R395): SET held for 3 s opens a Binnacle trim, or shows LOCK when BINTRIM is 0. -/
  | binnacleTrimOpen
  /-- `BINNACLE_BUTTON` (R395): A SET or ADJ press steps the trim, adjusts a value or opens an information page. -/
  | binnacleButton (adj : Bool) (ev : BtnEv)
  /-- `BINNACLE_TRIM_ABORT` (R395): 60 s without a press, link loss, disable or safe current aborts the trim and shows ABRT. -/
  | binnacleTrimAbort
  /-- `INFO_PAGE_TIMEOUT` (R532): 3 s after the last press the display returns from an information page to its normal row. -/
  | infoPageTimeout
  /-- `ISLAND_STOP` (R399): An island whose stop condition has held for 100 us stops its clock. -/
  | islandStop (isl : Fin 16)
  /-- `WAKE_REQUEST` (R400): A transfer offered to a stopped island raises its wake request, and its clock runs within 2 us. -/
  | wakeRequest (isl : Fin 16)
  /-- `PULSE_OFFER` (R405): When the value crossing behind a pulse counter is idle and C is non-zero, C and OVF are offered and cleared. -/
  | pulseOffer (isl : Fin 16) (counter : Fin 64)
  /-- `HANDSHAKE_TIMEOUT` (R408): A handshake to a running receiver not completed within 100 us raises a MAJOR report with the crossing number. -/
  | handshakeTimeout (xing : Fin 33) (isl : Fin 16)
  /-- `LINK_FRAME_RECEIVE` (R407): A link frame is checked by CRC-16 and sequence, accepted or ignored, and skipped frames are counted as lost. -/
  | linkFrameReceive (link : DieLink) (inward : Bool) (seq : Fin 16) (crcOk : Bool)
  /-- `ISLAND_QUIESCE` (R414): A quiesce request stops the island offering new transfers. -/
  | islandQuiesce (req : Req) (isl : Fin 16) (on : Bool)
  /-- `ISLAND_DRAINED` (R414): When every crossing of a quiesced island is idle, DRAINED rises. -/
  | islandDrained (isl : Fin 16)
  /-- `ISLAND_RESET` (R486): A single island reset holds the island in reset for 10 us and returns its state to reset values. -/
  | islandReset (req : Req) (isl : Fin 16) (ended : Bool) (inFlight : List (Fin 18 × Nat))
  /-- `FAULT_REPORT_TAKE` (R418): The collector takes one report per AON cycle, stamps it, numbers it, counts it, escalates and stores it. -/
  | faultReportTake (ready : BitVec 16) (headBad configBad : Bool)
  /-- `EFPOP` (R421): Writing SYS_EFPOP.POP removes the head entry of the error FIFO. -/
  | efpop (req : Req) (headBad : Bool)
  /-- `FIRQ_ARM` (R423): Writing ARM sets ARMED again and sends the identity at once if a qualifying entry is present. -/
  | firqArm (req : Req) (second : Bool)
  /-- `MSAFE_WRITE` (R425): A write of key 0x3C5A to SYS_MSAFE raises a MODULE report that starts the safe state. -/
  | msafeWrite (req : Req) (key : BitVec 16)
  /-- `SUPERVISOR_CHECK` (R425): Once per millisecond the AON supervisor checks the fabric, and three failures in a row raise a MODULE report. -/
  | supervisorCheck (pass : Bool)
  /-- `LOGIC_SUPPLY_OUT` (R425): A logic supply outside its tolerance band for more than 100 us raises a MODULE report. -/
  | logicSupplyOut
  /-- `HEARTBEAT_SEND` (R431): At each cycle start a module with PRL enabled sends a heartbeat on both links. -/
  | heartbeatSend
  /-- `HEARTBEAT_RECEIVE` (R431): A valid heartbeat updates PRL_PSTAT and the partner's presence, and may change the role. -/
  | heartbeatReceive (link : Fin 2) (sof : Nat) (frame : List Byte)
  /-- `MISSED_CYCLE` (R432): A cycle with no valid heartbeat counts as missed, and two in a row promote a STANDBY. -/
  | missedCycle
  /-- `PRL_ENABLE_WRITE` (R432): Writing PRL_CTRL.EN takes the pair role to LISTEN or OFF. -/
  | prlEnableWrite (req : Req) (en : Bool)
  /-- `LISTEN_ROLE_TIMEOUT` (R432): No PRIMARY heard for 3 or 6 cycles in LISTEN makes the module PRIMARY. -/
  | listenRoleTimeout
  /-- `CATCHUP_PASS` (R437): A catch-up pass marks every MIRROR entry in ascending order as FIFO places free. -/
  | catchupPass (received : Bool)
  /-- `MIRROR_SEND` (R439): Each cycle the PRIMARY sends CHART records and block data up to its budget. -/
  | mirrorSend
  /-- `CHART_FRAME_RECEIVE` (R435): A CHART frame on the STANDBY is judged by epoch and its records are written. -/
  | chartFrameReceive (link : Fin 2) (frame : List Byte)
  /-- `BLOCK_FRAME_RECEIVE` (R438): A BLOCK frame on the STANDBY writes lines into the block's half and completes the copy at its last line. -/
  | blockFrameReceive (link : Fin 2) (frame : List Byte)
  /-- `SWAP` (R444): Writing PRL_CTRL.SWAP on a PRIMARY starts a forced swap or sets SWAPREF. -/
  | swap (req : Req)
  /-- `SWAP_COMPLETE` (R444): On SWAPACK both modules exchange roles at the start of cycle m + 3. -/
  | swapComplete
  /-- `LOG_TRIGGER_FIRE` (R450): A FAULT, SIGNAL or PERIOD trigger fires and queues a capture. -/
  | logTriggerFire
  /-- `SWTRIG` (R450): A write to LOG_SWTRIG fires the named SOFT trigger. -/
  | swtrig (req : Req) (t : Fin 256) (arg : BitVec 48)
  /-- `TRIGGER_DEFINE` (R452): Writing LOG_TCTL.KIND disables a trigger or checks and activates its definition. -/
  | triggerDefine (req : Req) (val : Word)
  /-- `LOG_CAPTURE` (R457): A queued trigger is captured into a record, merged as a repeat, or dropped for want of buffer. -/
  | logCapture
  /-- `LOG_FLUSH` (R460): A flush writes every unflushed record and rewritten header to the Logbook region. -/
  | logFlush
  /-- `LOG_FLUSH_REQUEST` (R460): Writing LOG_CTRL.FLUSH starts a flush. -/
  | logFlushRequest (req : Req)
  /-- `LOG_FLUSH_DONE` (R462): A flush ends, updates the ring pointers and sets FLUSHED. -/
  | logFlushDone
  /-- `LOG_CURSOR_WRITE` (R464): Writing SEQ or NEXT to LOG_CURSOR latches the named record into the window. -/
  | logCursorWrite (req : Req) (seq : BitVec 32) (next : Bool)
  /-- `LOG_INFO` (R463): An INFO request returns LOG_SEQ, LOG_FLSEQ and LOG_STAT. -/
  | logInfo (cert : Cert)
  /-- `LOG_READ` (R463): A READ request returns whole records from the first SEQ named. -/
  | logRead (cert : Cert) (first count : BitVec 32)
  /-- `LOG_GRANT` (R463): A GRANT request opens or closes hart reading for the seconds given. -/
  | logGrant (cert : Cert) (secs : BitVec 32)
  /-- `GRANT_EXPIRY` (R464): The hart read grant expires when REMAIN reaches 0. -/
  | grantExpiry
  /-- `LOG_CLEAR` (R466): A CLEAR request from a depot certificate empties the log and appends a clear record. -/
  | logClear (cert : Cert) (digest : BitVec 256)
  /-- `WAKE_ACCEPT` (R472): A wake input held ON for 20 ms is accepted. -/
  | wakeAccept (second : Bool)
  /-- `POWER_UP` (R474): With the battery input up and a wake condition holding, the module powers up. -/
  | powerUp
  /-- `POWER_GOOD` (R475): At power-good AON and MER start, the time is reset and the power-cycle count advances. -/
  | powerGood (counterOk : Bool)
  /-- `BOOT_STAGE` (R475): A start-up stage completes and the next begins, as SYS_BOOT.STAGE shows. -/
  | bootStage (coreFails : BitVec 14) (countersOk : Bool)
  /-- `SVCREADY` (R476): Writing SYS_BOOT.SVCREADY sets FREADY. -/
  | svcready (req : Req)
  /-- `INTERRUPTION_START` (R469): The battery input below 13.0 V for 50 us starts an interruption carried by the hold-up bank. -/
  | interruptionStart
  /-- `INTERRUPTION_END` (R478): The input at or above 13.8 V for 1 ms ends an interruption with a NOTE. -/
  | interruptionEnd
  /-- `POWER_FAIL_DECLARE` (R479): 10 ms of interruption or the bank reaching its reserve declares a power-fail. -/
  | powerFailDeclare (reserve : Bool)
  /-- `POWER_DOWN_END` (R480): DRAM enters self-refresh, the marker is written, the converter switches off, and a new power-up follows if a wake holds. -/
  | powerDownEnd (complete : Bool)
  /-- `BANK_MEASURE` (R481): Once the bank is full at power-up its usable energy is measured, and below 2.0 J a MAJOR is raised. -/
  | bankMeasure (mj : BitVec 16)
  /-- `OFFDLY_EXPIRY` (R483): Both wake inputs OFF for OFFDLY seconds start the orderly shutdown. -/
  | offdlyExpiry
  /-- `PWROFF` (R483): A write of key 0x5A3C to SYS_PWROFF starts the orderly shutdown at once. -/
  | pwroff (req : Req) (key : BitVec 16)
  /-- `MODULE_RESET` (R485): A write of key 0xA5C3 to SYS_RESET resets the module group after the Logbook flush. -/
  | moduleReset (req : Req) (key : BitVec 16)
  /-- `STAGE` (R495): A STAGE descriptor checks a package and writes it into the unit's other slot. -/
  | stage (q : Fin 5) (countersOk : Bool)
  /-- `ACTIVATE` (R498): An ACTIVATE descriptor arms a unit's switch to its staged slot at a Waypoint, NOW or NEXTBOOT. -/
  | activate (q : Fin 5)
  /-- `CONFIRM` (R496): A CONFIRM descriptor confirms the active package and raises MINVER to its version. -/
  | confirm (q : Fin 5) (countersOk : Bool)
  /-- `FALLBACK` (R496): A FALLBACK descriptor arms a return to the PREVIOUS slot while the active package is unconfirmed. -/
  | fallback (q : Fin 5)
  /-- `CANCEL` (R498): A CANCEL descriptor withdraws a unit's pending activation. -/
  | cancel (q : Fin 5)
  /-- `PILOT` (R498): A PILOT descriptor with the right key makes a module reset into Pilot mode. -/
  | pilot (q : Fin 5)
  /-- `WAYPOINT_REACHED` (R500): At a Waypoint the pending activations switch in SYNC or DR, or are deferred in FREE or LOST. -/
  | waypointReached
  /-- `HANDOVER_REQUEST` (R503): At the Waypoint minus HOLEAD the engine re-checks the vital image and sends the handover identity. -/
  | handoverRequest (t : Fin 4)
  /-- `HANDOVER_READY` (R503): The running vital image writes READY after its handover block. -/
  | handoverReady (req : Req) (t : Fin 4)
  /-- `VITAL_IMAGE_SWITCH` (R503): At the first cycle start at or after the Waypoint the triad restarts in its new image, or fails with HOFAIL. -/
  | vitalImageSwitch (t : Fin 4)
  /-- `AFW_SWITCH_FAIL` (R501): A front end not running its new firmware within 50 ms restarts from its previous bank with SWFAIL. -/
  | afwSwitchFail (n : Fin 8)
  /-- `MAPAREA_WRITE` (R502): A write to UPD_MAPAREA is taken until the first MAPS activation of a power cycle, then ignored with a MINOR fault. -/
  | mapareaWrite (req : Req) (base : BitVec 40)
  /-- `BACKGROUND_CHECK` (R504): Every 24 h each active package's digest and signature are checked again. -/
  | backgroundCheck
  /-- `PILOT_ENTRY` (R507): Pilot mode starts the ROM code on SC0 with every output off and networks stopped. -/
  | pilotEntry
  /-- `TFTP_STAGE` (R508): A TFTP write of stage receives a package, stages it and activates it with NEXTBOOT. -/
  | tftpStage (package : List Byte) (countersOk : Bool)
  /-- `TFTP_FALLBACK` (R508): A TFTP write of fallback.NN arms a fall-back of unit NN with NEXTBOOT. -/
  | tftpFallback (u : Fin 25)
  /-- `TFTP_RESET` (R508): A TFTP write of reset makes a module reset into normal start-up. -/
  | tftpReset
  /-- `TFTP_STATUS` (R508): A TFTP read of status returns one record per unit. -/
  | tftpStatus
  /-- `MODRESET` (R506): A depot session's MODRESET request makes a module reset, into Pilot mode when it is 1. -/
  | modreset (cert : Cert) (pilot : Bool)
  /-- `THERMAL_MEASURE` (R526): Every 100 ms TREF is measured and TMAX and HOTSEC are updated. -/
  | thermalMeasure (tref : BitVec 8)
  /-- `THERMAL_STATE_CHANGE` (R526): A TREF threshold held for its time moves the thermal state and the service-cluster clock. -/
  | thermalStateChange
  /-- `COVER` (R530): Removing or refitting the Binnacle cover sets or clears COVER, removal raising a NOTE. -/
  | cover (removed : Bool)
  /-- `STAR_PORT_LINK_CHANGE` (R218): A Rhumbline star port's 1000BASE-T1 link goes up or down, changing RHL_PSTAT.LINK and truncating a frame being forwarded. -/
  | starPortLinkChange (port : Fin 16) (up : Bool) (inFlight : Option Nat)
  /-- `PAIR_LINK_CHANGE` (R449): A pair link on X10 goes up or down, changing PRL_LSTAT.LINK, setting LINKCHG, rerouting Rhumbline and mirror traffic and raising a MINOR on loss. -/
  | pairLinkChange (link : Fin 2) (up : Bool)
  /-- `BRIDGE_LINK_UP` (R317): The PCIe link completes training, setting BRG_STAT.LINK, SPEED and WIDTH and the LINKCHG event. -/
  | bridgeLinkUp (speed : Fin 4) (width : Fin 5)
  /-- `WAKE_INPUT_OFF` (R483): A wake input's accepted level goes OFF, setting WAKECHG and, when both are OFF, starting OFFDLY with OFFPEND set. -/
  | wakeInputOff (second : Bool)
  /-- `BEST_MASTER_CLOCK_DECISION` (R268): The IEEE 802.1AS best master clock algorithm, on Announce receipt or timeout and asCapable changes, makes a port SlavePort or the module grandmaster, qualifying or disqualifying source 2. -/
  | bestMasterClockDecision (heard : Bool) (port : Fin 4) (prio1 cls acc : BitVec 8) (lvar : BitVec 16) (prio2 : BitVec 8) (ident : Word)
  deriving DecidableEq, Repr

end Sys2Proof
end

