-- ==== Sys2Proof/Machine/Bits.lean ====
section
/-! DEFINITION. Bit fields, byte order and signed readings of plain numbers (spec/00_scope.md R13), and the keyed lists that
hold sparse state in one canonical form. -/

namespace Sys2Proof.Machine

/-- Bits [lo + w − 1 : lo] of v. -/
def bits (v lo w : Nat) : Nat := v / 2 ^ lo % 2 ^ w

/-- v with bits [lo + w − 1 : lo] replaced by x. -/
def putBits (v lo w x : Nat) : Nat := v - bits v lo w * 2 ^ lo + x % 2 ^ w * 2 ^ lo

/-- Bit i of v. -/
def bit (v i : Nat) : Bool := v / 2 ^ i % 2 == 1

/-- v brought down to a multiple of n. -/
def alignDown (v n : Nat) : Nat := v - v % n

/-- 1 for true, 0 for false. -/
def b2n (b : Bool) : Nat := if b then 1 else 0

/-- v with bit i set to b. -/
def putBit (v i : Nat) (b : Bool) : Nat := putBits v i 1 (b2n b)

/-- The value of little-endian bytes (R13). -/
def leNat : List Byte → Nat
  | [] => 0
  | b :: r => b.toNat + 256 * leNat r

/-- The low n bytes of v, little-endian (R13). -/
def toLE : Nat → Nat → List Byte
  | 0, _ => []
  | n + 1, v => BitVec.ofNat 8 v :: toLE n (v / 256)

/-- The value of bytes in network byte order (R13, last sentence). -/
def beNat (l : List Byte) : Nat := leNat l.reverse

/-- The low n bytes of v in network byte order. -/
def toBE (n v : Nat) : List Byte := (toLE n v).reverse

/-- The little-endian value of n bytes from offset o. -/
def leAt (l : List Byte) (o n : Nat) : Nat := leNat ((l.drop o).take n)

/-- The network-order value of n bytes from offset o. -/
def beAt (l : List Byte) (o n : Nat) : Nat := beNat ((l.drop o).take n)

/-- The two's-complement reading of the w low bits of v. -/
def sgn (w v : Nat) : Int := if v % 2 ^ w < 2 ^ (w - 1) then (v % 2 ^ w : Nat) else ((v % 2 ^ w : Nat) : Int) - 2 ^ w

/-- The two's-complement encoding of z in w bits. -/
def ofInt (w : Nat) (z : Int) : Nat := (z % (2 ^ w : Int)).toNat

/-- z held between −m and m. -/
def clampInt (m : Nat) (z : Int) : Int := if z > m then m else if z < -(m : Int) then -(m : Int) else z

/-- The value at key k, or z where k is not listed. -/
def kget {α : Type} (z : α) : List (Nat × α) → Nat → α
  | [], _ => z
  | (a, v) :: r, k => if a = k then v else kget z r k

/-- Put x in front of a list unless it is what an unlisted key reads as. -/
def kcons {α : Type} [DecidableEq α] (z : α) (k : Nat) (x : α) (r : List (Nat × α)) : List (Nat × α) :=
  if x = z then r else (k, x) :: r

/-- A keyed list without key k. -/
def kdel {α : Type} (l : List (Nat × α)) (k : Nat) : List (Nat × α) := l.filter fun p => p.1 != k

/-- Put key k, which is not listed, in its place. -/
def kins {α : Type} [DecidableEq α] (z : α) : List (Nat × α) → Nat → α → List (Nat × α)
  | [], k, x => kcons z k x []
  | (a, v) :: r, k, x => if a < k then (a, v) :: kins z r k x else kcons z k x ((a, v) :: r)

/-- Set key k to x, keeping keys rising and dropping entries equal to z. -/
def kput {α : Type} [DecidableEq α] (z : α) (l : List (Nat × α)) (k : Nat) (x : α) : List (Nat × α) := kins z (kdel l k) k x

/-- The canonical form: keys strictly rising, no entry equal to what an unlisted key reads as. -/
def kwf {α : Type} [DecidableEq α] (z : α) : List (Nat × α) → Bool
  | [] => true
  | [(_, v)] => decide (v ≠ z)
  | (a, v) :: (b, w) :: r => decide (v ≠ z) && decide (a < b) && kwf z ((b, w) :: r)

/-- Replace the element at index i by f of it. -/
def modAt {α : Type} : List α → Nat → (α → α) → List α
  | [], _, _ => []
  | x :: r, 0, f => f x :: r
  | x :: r, i + 1, f => x :: modAt r i f

/-- n times f. -/
def iter {α : Type} (f : α → α) : Nat → α → α
  | 0, x => x
  | n + 1, x => iter f n (f x)

/-- Fold f over the numbers lo, lo + 1, … (n of them). -/
def forN {α : Type} (f : Nat → α → α) (lo : Nat) : Nat → α → α
  | 0, x => x
  | n + 1, x => forN f (lo + 1) n (f lo x)

/-- Sum of a list of integers. -/
def sumInt : List Int → Int
  | [] => 0
  | x :: r => x + sumInt r

/-- The indexes of the bits set in the low n bits of v. -/
def bitsOf (v n : Nat) : List Nat := (List.range n).filter fun i => bit v i

end Sys2Proof.Machine
end

