-- ==== Sys2Proof/Machine/State.lean ====
section
/-! DEFINITION. The state of the module as plain data: every register field, memory with its check bytes, and every queue, buffer, timer
and mode the spec gives the module; the faults and refusals; the state right after reset. -/

namespace Sys2Proof.Machine
/-- Access codes of register fields (R16). -/
inductive Acc where
  | ro | rw | rwl | rws | w1c | w1s | wo | rc
  deriving DecidableEq, Repr

/-- One register field: the address of its 64-bit register, its lowest bit and its width, its access code and its reset
value (R16, R29). -/
structure Fld where
  addr : Nat
  lo : Nat
  w : Nat
  acc : Acc
  rst : Nat
  deriving DecidableEq, Repr

/-- The key of a field in `State.flds`: address and bit in one number. -/
def Fld.key (f : Fld) : Nat := f.addr * 64 + f.lo

/-- A place in the module: die, island, tile and macro of the fault location word (R416). -/
structure Loc where
  die : Nat
  isl : Nat
  tile : Nat
  mac : Nat
  deriving DecidableEq, Repr

/-- A fault report on its way to the collector (R416, R419). -/
structure Report where
  cls : Nat
  loc : Loc
  word : Nat := 0xFFFFFF
  bitNo : Nat := 511
  addr : Nat := 0
  req : Nat := 0xFF
  xing : Nat := 0
  esc : Bool := false
  rule : Nat := 0
  deriving DecidableEq, Repr

/-- An entry of the error FIFO (R419). -/
structure FifoEntry where
  floc : Nat
  addr : Nat
  req : Nat
  xing : Nat
  ts : Nat
  seq : Nat
  esc : Bool
  rule : Nat
  deriving DecidableEq, Repr

/-- How an operation of a ring ended: status, detail, TS96 and RESULT of its write-back (R42). `whole` is true when every
entry of the chain gets the status (R44). -/
structure QDone where
  status : Nat
  detail : Nat := 0
  ts : Nat := 0
  res : Nat := 0
  whole : Bool := false
  deriving DecidableEq, Repr

/-- An operation an engine has taken from a ring: the global queue number, the free-running index of its first entry, the
number of its entries, its opcode, whether it has started, its end, and the epoch that its entries carry (R44, R51). -/
structure QOp where
  q : Nat
  idx : Nat
  n : Nat
  opc : Nat
  started : Bool
  /-- A receive buffer or frame that waits for its frame or slot (R205, R277, R288). -/
  posted : Bool := false
  done : Option QDone := none
  epoch : Nat := 0
  /-- Free-running time at which the engine found it owned (R204). -/
  at' : Nat := 0
  /-- The entries of its chain that have been carried out, where the engine carries them out in turn (R44). -/
  pos : Nat := 0
  deriving DecidableEq, Repr

/-- What an access that is not carried out gives its requester (R29, R65, R76, R81). -/
inductive AccFault where
  | access | load | store | instr | statusAccess | statusCode | poisonedCompletion | mismatch
  deriving DecidableEq, Repr

/-- The media and inter-die links the module sends on. -/
inductive Medium where
  | star | ownNode | backbone | pair | can | pcie | maintenance | faLink | lodLink | anaLink | display
  deriving DecidableEq, Repr

/-- What leaves the module: answers to requesters, frames, levels of pins and switches (notes/assumptions/5.md). -/
inductive Out where
  /-- The value a register access returns. -/
  | value (req : Req) (v : Nat)
  /-- The bytes a memory access returns. -/
  | bytes (req : Req) (b : List Byte)
  /-- An access that was refused. -/
  | denied (req : Req) (why : AccFault)
  /-- A frame or packet sent on port idx of a medium. -/
  | sent (m : Medium) (idx : Nat) (b : List Byte)
  /-- A message of the medium that is not a byte string: kind and argument. -/
  | signal (m : Medium) (idx kind arg : Nat)
  deriving DecidableEq, Repr
/-- How far the recovery of a triad's fenced position has come (R136, R142). -/
inductive RecPhase where
  | none | switching | selftest | boundary | copied
  deriving DecidableEq, Repr

/-- A voted request that has been released: its record, and the captured invalidations that must take effect before it completes (R110, R112). -/
structure VReq where
  req : LaneRec
  wait : List (Nat × TrEvent) := []
  deriving DecidableEq, Repr

/-- The registers of a triad's debug module that hold something: dmcontrol, data0 to data3 and the error of the last abstract command (R154; notes/assumptions/16.md). -/
structure Dm where
  control : Nat := 0
  data : List Nat := [0, 0, 0, 0]
  cmderr : Nat := 0
  deriving DecidableEq, Repr

/-- The state of a triad beyond its registers (R105–R129, R134–R159). -/
structure Triad where
  /-- The retire count at which the triad waits on a voted WFI (R118). -/
  wfi : Option Nat := none
  /-- The tag of the event captured last (R117). -/
  lastTag : Nat := 0
  /-- Captured events and their tags, in order of capture (R115). -/
  events : List (Nat × TrEvent) := []
  /-- Voted requests released and not yet answered, oldest first (R110). -/
  vreq : List VReq := []
  /-- Invalidations and L1 corrections that the input agreement stage has still to capture, oldest first (R112, R115). -/
  due : List TrEvent := []
  /-- The highest pending enabled identity as it was captured last (R115). -/
  lastIrq : Nat := 0
  /-- Free-running times of the last signature boundary and of the last injection sequence that fell due (R119, R149). -/
  sigAt : Nat := 0
  injAt : Nat := 0
  /-- Position and free-running start time of the resyncs that R140 counts. -/
  resyncs : List (Nat × Nat) := []
  /-- Positions substituted since the last START (R134). -/
  subst : List Nat := []
  /-- A START has been accepted since power-up (R128). -/
  started : Bool := false
  phase : RecPhase := .none
  /-- The core chosen for the fenced position (R141); none in a resync. -/
  incoming : Option Nat := none
  /-- DEBUG was entered from a running state (R134). -/
  dbgRun : Bool := false
  /-- Lane A runs under the depot debugger, and the triad's debug module (R154, R155). -/
  resumed : Bool := false
  dm : Dm := {}
  /-- An injection sequence is held until TMR or DUPLEX (R138). -/
  injHeld : Bool := false
  /-- The highest pending enabled identity as the lanes see it (R115). -/
  topei : Nat := 0
  /-- The architectural registers of lanes A, B and C as last shown, by the register numbers of the debug specification; unlisted ones are 0 (R120, R136, R155). -/
  lanes : List (List (Nat × Nat)) := [[], [], []]
  /-- The triad's machine interrupt file beside its pending bits: delivery, threshold, enable bits by identity, and miselect (R57, R115, R126). -/
  delivery : Nat := 0
  threshold : Nat := 0
  enables : List (Nat × Nat) := []
  iselect : Nat := 0
  /-- Maintainer requests captured or waiting, oldest first (R158). -/
  maint : List DbgOp := []
  /-- Free-running time of the last maintainer request, plus 1 (R158). -/
  lastMaint : Nat := 0
  /-- A verified vital image is active for the triad, and its entry address (R128). -/
  image : Bool := false
  entry : Nat := 0
  deriving DecidableEq, Repr
/-- What has been decided in the present MER cycle and is applied at its end (R168, R171): a source becomes active, a software step in units of 2⁻³² ns, no source is
left. -/
inductive MerAct where
  | source (src : Nat)
  | soft (amt : Int)
  | lose
  deriving DecidableEq, Repr

/-- Meridian's own state beyond its registers (R160–R180). -/
structure Mer where
  /-- The time value in units of 2⁻³² ns, modulo 2^48 s: seconds, nanoseconds, fraction and the 16 hidden bits (R160). -/
  t : Nat := 0
  /-- Free-running count at the start of the DR episode (R168). -/
  drStart : Nat := 0
  /-- What is left of a slew, in units of 2⁻³² ns (R170). -/
  slewLeft : Int := 0
  /-- Each reader's latch of `MER_NOW1`, by reader code (R175). -/
  latches : List (Nat × Nat) := []
  /-- Offsets of sources 1, 2 and 3 against Meridian, in units of 2⁻³² ns: as last reported, less what the time value has been moved since (R168, R173). -/
  offs : List Int := [0, 0, 0]
  /-- Changes that the end of the present MER cycle brings, in order (R171). -/
  due : List MerAct := []
  /-- The steps and changes of state since power-good, newest first: the time state before each, and the time value in ns just before and just after it (R174). -/
  was : List (Nat × Nat × Nat) := []
  /-- Time value at the start of the current cycle, same unit (R177). -/
  cycBase : Nat := 0
  /-- A time value at which a cycle of the grid starts, in units of 2⁻³² ns (R178). -/
  gridOrg : Nat := 0
  /-- Length of the current cycle in ns (R177; notes/assumptions/9.md). -/
  cycLen : Nat := 1000000
  /-- Cycle points that have fired in the current cycle (R178). -/
  fired : List Nat := []
  /-- What is left of Rhumbline's correction in units of 2⁻³² ns, and the MER cycles left to apply it in (R208). -/
  corr : Int := 0
  corrLeft : Nat := 0
  /-- The same for the backbone source over the next Sync interval, and for the pair partner (R269, R446). -/
  corr2 : Int := 0
  corr2Left : Nat := 0
  deriving DecidableEq, Repr
/-- An entry of a schedule (R191). -/
structure SEntry where
  offset : Nat
  frameid : Nat
  inport : Nat
  flags : Nat
  outmask : Nat
  maxlen : Nat
  mapid : Nat
  deriving DecidableEq, Repr

/-- A schedule buffer that holds a checked image: CYCLEN in units of 125 µs, Π in ns and the entries (R190, R192). -/
structure Sched where
  cyclen : Nat
  pi : Nat
  entries : List SEntry
  deriving DecidableEq, Repr

/-- What has happened to an entry in a cycle (R197, R201, R203). -/
structure ECyc where
  /-- The star has accepted and forwarded a frame for the entry. -/
  fwd : Bool := false
  /-- The own node has delivered a copy. -/
  rx : Bool := false
  /-- The own node's slot has come. -/
  slot : Bool := false
  cut : Nat := 0
  nr : Nat := 0
  stale : Nat := 0
  /-- SOF of the forwarded frame minus OFFSET, in 1/64 ns. -/
  dev : Int := 0
  deriving DecidableEq, Repr

/-- A statistics update that is still to come when its cycle, its schedule or the windows have ended: entry, cycle, buffer and what the cycle brought (R203). -/
structure StatDue where
  entry : Nat
  cycle : Nat
  buf : Nat
  cyc : ECyc
  deriving DecidableEq, Repr

/-- A frame the star forwards or has forwarded last from a port (R185, R198). -/
structure Fly where
  port : Nat
  entry : Nat
  /-- SOF on the cycle timer in 1/64 ns. -/
  sof : Int
  frame : List Byte
  egress : List Nat
  cutLen : Bool := false
  cutWin : Bool := false
  deriving DecidableEq, Repr

/-- The collision window of an accepted coldstart frame (R213). -/
structure ColdWin where
  winner : Nat
  /-- Time value at its SOF in 1/64 ns. -/
  sof : Nat
  losers : Nat := 0
  delta : Option Nat := none
  isOpen : Bool := true
  badFcs : Bool := false
  deriving DecidableEq, Repr

/-- The star and synchronisation unit beyond their registers (R182–R216). -/
structure Rhl where
  buf0 : Option Sched := none
  buf1 : Option Sched := none
  /-- The active buffer (R192). -/
  active : Option Nat := none
  /-- The buffer of the last load that passed (R192). -/
  lastPass : Nat := 0
  /-- A load in progress: source and buffer (R192). -/
  load : Option (Nat × Nat) := none
  /-- The cycle of an armed switch (R193). -/
  swCyc : Nat := 0
  /-- The cycle number (R211). -/
  cycle : Nat := 0
  /-- Network time of the current cycle start in ns (R188). -/
  net : Nat := 0
  /-- Windows are enforced (R197). -/
  windows : Bool := false
  /-- Cycle starts since the cycle was adopted (R211). -/
  waited : Nat := 0
  /-- Free-running time at which LT started (R211). -/
  ltStart : Nat := 0
  /-- Free-running time since which the partner is absent, and it has been absent for LT (R215). -/
  absentAt : Nat := 0
  absent : Bool := false
  cold : Option ColdWin := none
  /-- What the current cycle has brought to each entry. -/
  cur : List (Nat × ECyc) := []
  /-- Entries whose statistics codeword has been updated in this cycle (R203). -/
  statDone : List Nat := []
  /-- Updates still to come of entries whose window has closed before (R203). -/
  prev : List StatDue := []
  /-- LASTEPOCH of each entry: 65,536 × buffer + entry (R202). -/
  lastEp : List (Nat × Nat) := []
  /-- The sync deviations of the cycle: entry and value in 1/64 ns (R206). -/
  devs : List (Nat × Int) := []
  /-- The SYNCPT of the current cycle has come; the deviations of the cycle before, where its SYNCPT lies past its end (R207). -/
  synced : Bool := false
  lastDevs : Option (List (Nat × Int)) := none
  /-- A coldstart frame of the partner's channel has been heard since LT started (R212). -/
  heardCold : Bool := false
  /-- Consecutive SYNCPTs with n < MINSYNC, and with |CORR| > OFFLIM (R211). -/
  lossRun : Nat := 0
  offRun : Nat := 0
  /-- SYNCPTs in SYNC since the last rate update, and the sum of their corrections (R209). -/
  points : Nat := 0
  corrSum : Int := 0
  /-- A correction to be applied over the following cycle, in 1/64 ns (R208). -/
  corrNext : Int := 0
  /-- Violations of each port in the current cycle and the 15 before it, newest first (R199). -/
  viol : List (List Nat) := List.replicate 18 (List.replicate 16 0)
  /-- The frames forwarded last, one per ingress port at most. -/
  fly : List Fly := []
  /-- Payloads packed for a coming slot: entry, cycle, free-running time of their completion, payload (R204). -/
  packed : List (Nat × Nat × Nat × List Byte) := []
  /-- Pending tunnel frames, one per Rhumbline entry at most: entry, context, free-running time of arrival, frame (R204, R276). -/
  tunnel : List (Nat × Nat × Nat × List Byte) := []
  /-- The stale-drop count of the own node (R202). -/
  stale : Nat := 0
  deriving DecidableEq, Repr
/-- A frame that awaits unpack: its map, the SOURCE code of its input, TS, payload and, for a Rhumbline frame, its EPOCH with the key of its
entry's LASTEPOCH; or a mirror message, with its pair-role epoch and its records as payload (R231, R238, R244). -/
structure Job where
  map : Nat
  code : Nat
  ts : Nat
  payload : List Byte
  ep : Option (Nat × Nat) := none
  mirror : Option Nat := none
  deriving DecidableEq, Repr

/-- What the data register of a value crossing holds (R402, R403, R409): a fault report, the count and OVF of a pulse counter, a frame for the Chart engine, a frame to
wrap or an unwrapped one for tunnel context c, or an interrupt write. -/
inductive XVal where
  | report (r : Report)
  | pulses (id c ovf : Nat)
  | job (j : Job)
  | wrap (c m ts : Nat) (f : List Byte)
  | unwrapCan (c m : Nat) (f : List Byte)
  | unwrapRhl (c e : Nat) (f : List Byte)
  | msi (page eiid : Nat)
  | chart (sig code : Nat) (value : List Byte) (ts qual : Nat)
  | packReq (e map cycle : Nat)
  | packed (e cycle : Nat) (payload : List Byte)
  | cycle
  deriving DecidableEq, Repr

/-- A value on a crossing, or waiting in the sender's island behind one (R403, R404, R408): the crossing's number, its two islands, the counter that it stands behind
or the island that crossing 17 goes to, the data register, REQ, ACK, and the free-running time of the offer. REQ 0 and ACK 0: the value waits to be loaded; 1, 0: phase 1; 1, 1: phase 2;
0, 1: phase 3. A crossing with no entry is idle. -/
structure Xing where
  num : Nat
  tx : Nat
  rx : Nat
  sub : Nat := 0
  req : Bool
  ack : Bool
  at' : Nat
  data : XVal
  deriving DecidableEq, Repr

/-- Checked maps that wait to take effect: the queue and index of their operation, its status and RESULT, the maps with their directory entries (R240). -/
structure MapWait where
  q : Nat
  idx : Nat
  status : Nat
  res : Nat
  maps : List (Nat × List Byte)
  deriving DecidableEq, Repr

/-- The Chart engine beyond its registers (R229–R254, R437). -/
structure Chart where
  /-- Frames and mirror messages awaiting unpack, oldest first, at most 512 (R244). -/
  jobs : List Job := []
  /-- Map memory: pinned maps with their directory entry and element list (R240). -/
  pins : List (Nat × List Byte × List Byte) := []
  /-- Checked maps waiting to take effect (R240). -/
  pendMaps : List MapWait := []
  /-- Marked identifiers in the mirror engine's FIFO, oldest first (R437). -/
  marks : List Nat := []
  /-- The next identifier of a catch-up pass in progress (R437). -/
  catchup : Option Nat := none
  /-- Entry writes in the current cycle (R257). -/
  writes : Nat := 0
  deriving DecidableEq, Repr
/-- A frame that waits in an egress port's queue: port, traffic class, bytes, and the index of the TXFRM operation it stems from (R265, R266, R277). -/
structure EgFrame where
  port : Nat
  cls : Nat
  bytes : List Byte
  op : Option Nat := none
  deriving DecidableEq, Repr

/-- The backbone switch beyond its registers (R259–R278). -/
structure Bkb where
  /-- Forwarding database: VLAN, address, port, and the free-running time at which it was learnt last (R265). -/
  fdb : List (Nat × Nat × Nat × Nat) := []
  /-- Node table of PRP or HSR: addresses with the free-running times at which they were last heard (R262, R278). -/
  nodes : List (Nat × Nat) := []
  /-- Copies received: source address, sequence, port, free-running time (R262–R264). -/
  seen : List (Nat × Nat × Nat × Nat) := []
  /-- The class queues of the egress ports, oldest frame first (R265, R266). -/
  egress : List EgFrame := []
  /-- Free-running time until which each port is sending a frame (R266). -/
  busy : List Nat := [0, 0, 0, 0]
  /-- Free-running time at which an own frame last returned on each ring port, or the ring began (R263). -/
  ringAt : List Nat := [0, 0]
  /-- 1 + the free-running times of the last supervision frame and of each port's last Sync (R262, R268). -/
  svAt : Nat := 0
  syncAt : List Nat := [0, 0, 0, 0]
  /-- TX contexts that have sent in the current cycle (R270). -/
  txDone : List Nat := []
  /-- Sequence of the next PRP trailer or HSR tag (R262, R263). -/
  seqNr : Nat := 0
  /-- Frames waiting for their tunnel context: context, MEDIUM, TS96 of the SOF, content (R275). -/
  toWrap : List (Nat × Nat × Nat × List Byte) := []
  /-- Consecutive Syncs within and beyond QLIM, and receipt timeouts (R269). -/
  good : Nat := 0
  bad : Nat := 0
  timeouts : Nat := 0
  deriving DecidableEq, Repr
/-- A frame in a channel's transmit FIFO (R289, R291): the index of its TXFRM operation, or none for a tunnel frame; its place in its chain and whether it is
the chain's last. -/
structure CanTx where
  op : Option Nat
  pos : Nat := 0
  chain : Bool := false
  final : Bool := true
  medium : Nat
  record : List Byte
  data : List Byte
  retry : Nat
  attempts : Nat := 0
  lost : Nat := 0
  lec : Nat := 0
  /-- A cancel is latched (R292). -/
  cancel : Bool := false
  /-- TS96 of the SOF of the last attempt (R288). -/
  ts : Nat := 0
  deriving DecidableEq, Repr

/-- A CAN channel beyond its registers (R282–R298). -/
structure CanCh where
  fifo : List CanTx := []
  /-- The head is being offered or sent (R291). -/
  sending : Bool := false
  /-- Cancels that wait for their target's write-back: index of the CANCEL entry and of its target (R292). -/
  cancels : List (Nat × Nat) := []
  /-- EN has been written 0 while a frame was being sent, which is finished (R298). -/
  closing : Bool := false
  deriving DecidableEq, Repr
/-- An outbound request that the bridge holds (R309): its requester and access, or none for a line of the copy queue; its window, backplane address and length;
the prefetch block it fetches; its tag, or none while it waits for one. -/
structure HeldReq where
  who : Option (Req × AccKind)
  win : Nat
  addr : Nat
  len : Nat
  /-- A zero-length read behind a write (R306, R314). -/
  flush : Bool
  /-- Address and length of the block for a prefetch buffer (R307). -/
  block : Option (Nat × Nat) := none
  tag : Option Nat := none
  /-- Its block may still become a prefetch buffer (R307), and the free-running time at which it was accepted (R309). -/
  keep : Bool := true
  at' : Nat := 0
  deriving DecidableEq, Repr

/-- A prefetch buffer (R307). -/
structure PfBuf where
  win : Nat
  addr : Nat
  data : List Byte
  /-- Free-running time of its fill. -/
  at' : Nat := 0
  deriving DecidableEq, Repr

/-- The configuration space of the endpoint's one function beyond what is fixed (R303): command register, upper half of BAR0, the MSI capability's control, address and data, the PCI Express
capability's device control and status, and AER's uncorrectable status, mask and severity, correctable status and mask, and Header Log. -/
structure EpFn where
  cmd : Nat := 0
  bar0 : Nat := 0
  msiCtl : Nat := 0
  msiAddr : Nat := 0
  msiData : Nat := 0
  devCtl : Nat := 0
  devSta : Nat := 0
  unc : Nat := 0
  uncMask : Nat := 0
  uncSev : Nat := 0x00462030
  cor : Nat := 0
  corMask : Nat := 0x2000
  hdr : List Nat := [0, 0, 0, 0]
  deriving DecidableEq, Repr

/-- The backplane bridge beyond its registers (R303–R316). -/
structure Brg where
  /-- Held requests, oldest first. -/
  held : List HeldReq := []
  /-- Prefetch buffers, the least recently used first, at most four. -/
  pf : List PfBuf := []
  /-- Error fetches in order of arrival: requester ID, kind, TS96 of the message (R310, R311). -/
  fetches : List (Nat × Nat × Nat) := []
  /-- A configuration request is in progress, it is a write, and the free-running time of its GO (R317). -/
  cfg : Bool := false
  cfgWr : Bool := false
  cfgAt : Nat := 0
  /-- Lines that the running copy has completed (R314). -/
  lines : Nat := 0
  /-- PERST# is released, and 1 + the free-running time at which EN was last written 1 (R521). -/
  perst : Bool := false
  enAt : Nat := 0
  /-- The endpoint function (R303). -/
  ep : EpFn := {}
  deriving DecidableEq, Repr
/-- A publication of a field channel that waits for its Chart write (R321): its channel number, the TS of its scan, its VALUE and VALID. -/
structure FioPub where
  ch : Nat
  ts : Nat
  value : List Byte
  valid : Bool
  deriving DecidableEq, Repr

/-- Consecutive supply measurements below 0.50 Un, at or above 0.55 Un, below 0.70 Un and at or above 0.75 Un (R330). -/
structure SupRun where
  lo50 : Nat := 0
  hi55 : Nat := 0
  lo70 : Nat := 0
  hi75 : Nat := 0
  deriving DecidableEq, Repr

/-- What the off-pulse window of one test-pulse output has shown of each safety input in this frame (R350): ON before it, an OFF sample in it, a run of OFF samples
of 100 µs, ON after it. -/
structure WinRec where
  pre : Nat := 0
  off : Nat := 0
  long : Nat := 0
  post : Nat := 0
  deriving DecidableEq, Repr

/-- What a die has seen of the safety inputs in the running test frame (R327, R350): samples since its start, the inputs as last sampled, the windows by test-pulse output,
the OFF runs in them, and the inputs that have read ON and OFF. -/
structure TpFrame where
  pos : Nat := 0
  raw : Nat := 0
  wins : List WinRec := List.replicate 8 {}
  offRun : List Nat := List.replicate 16 0
  everOn : Nat := 0
  everOff : Nat := 0
  deriving DecidableEq, Repr

/-- The field I/O dies beyond their registers (R318–R340). -/
structure Fio where
  /-- 1 + scans since the first that saw the level not accepted yet, by field channel number (R320). -/
  filt : List (Nat × Nat) := []
  /-- A cycle has started since the last scan (R321). -/
  refresh : Bool := false
  /-- Channels whose value or quality has changed since the last scan (R321). -/
  dirty : List Nat := []
  pubs : List FioPub := []
  /-- The general output commands in force (R336). -/
  doForce : Nat := 0
  /-- The closed switches: DOn in bit n, the FA switch of SOn in bit 24 + n (R323). -/
  sw : Nat := 0
  /-- Consecutive readbacks by field channel number (R324): with the pin OFF, with 20 mA or more, with the switch closed and below 10 mA, with the switch open and the pin ON. -/
  offRun : List (Nat × Nat) := []
  curRun : List (Nat × Nat) := []
  lowRun : List (Nat × Nat) := []
  onRun : List (Nat × Nat) := []
  /-- Consecutive scans in which the channels of a pair disagree about the active state (R328). -/
  apart : List (Nat × Nat) := []
  /-- The running test frame on the FA die, and the one that ended last (R327, R349). -/
  tf : TpFrame := {}
  ended : TpFrame := {}
  /-- 1 + stamp of the last rising edge of each speed input, in units of 10 ns (R329). -/
  edge : List (Nat × Nat) := []
  /-- Consecutive periods of at least 40 µs while OVERFREQ is set (R329). -/
  slow : List (Nat × Nat) := []
  sup : List SupRun := List.replicate 3 {}
  /-- 1 + the free-running time at which each supply group last left LOST (R331). -/
  back : List Nat := [0, 0, 0]
  /-- Free-running time at which the watchdog's TIME was last restarted (R335). -/
  wdKick : Nat := 0
  deriving DecidableEq, Repr
/-- A function slot (R353–R355); times are in Lodestone cycles. -/
structure LSlot where
  /-- 0 UNUSED, 1 OFF, 2 ON, 3 WAIT, 4 INIT (R377). -/
  state : Nat := 0
  cause : Nat := 0
  demands : Nat := 0
  /-- What is left of INIT. -/
  init : Nat := 0
  /-- The pair places that may count as active (R348), and those that do. -/
  ready : Nat := 15
  act : Nat := 0
  /-- 1 + what is left of each place's DISC timer; 0 while it does not run. -/
  disc : List Nat := [0, 0, 0, 0]
  /-- Places whose DISC has been recorded in this disagreement. -/
  done : Nat := 0
  /-- How long the condition of TZ or TRST has held. -/
  hold : Nat := 0
  /-- What is left of the vigilance timer. -/
  tv : Nat := 0
  /-- How long the acknowledge has been held. -/
  pressed : Nat := 0
  expired : Bool := false
  stuck : Bool := false
  /-- How long the speeds have disagreed, and how long neither condition of SPDFAULT has held (R354). -/
  diff : Nat := 0
  clean : Nat := 0
  deriving DecidableEq, Repr

/-- The reset input (R362): 0 idle, 1 held, 2 released by one channel, 3 refused or short, waiting for both to be OFF; with its two counters. -/
structure RstIn where
  phase : Nat := 0
  held : Nat := 0
  apart : Nat := 0
  long : Bool := false
  deriving DecidableEq, Repr

/-- Lodestone on the L die and the FB die (R341–R373); the LOD registers hold the link port's copy. -/
structure Lod where
  /-- The active table (R366). -/
  table : Option (List Byte) := none
  /-- A commit strobe has arrived, and the checks of a commit run (R370). -/
  strobe : Bool := false
  checking : Bool := false
  /-- The Waypoint of the pending commit in ns (R370). -/
  wp : Nat := 0
  /-- Lodestone cycles since power-up. -/
  cyc : Nat := 0
  /-- Test frames since power-up, and the running one (R349, R350). -/
  frames : Nat := 0
  tf : TpFrame := {}
  /-- Scans since the first that saw a level not accepted yet: SI 0–15, EDM 16–23, reset inputs 24 and 25 (R347). -/
  filt : List (Nat × Nat) := []
  /-- Accepted levels. -/
  si : Nat := 0
  edm : Nat := 0
  rst : Nat := 0
  /-- Pins and midpoints as FB reads them (R377), and the pins with off-pulse windows left out (R358, R359). -/
  pins : Nat := 0
  mids : Nat := 0
  out : Nat := 0
  /-- Consecutive samples: pin OFF, the condition of EXTDRIVE and of FBNOOUT (R359, R361). -/
  pinOff : List Nat := List.replicate 8 0
  extRun : List Nat := List.replicate 8 0
  noOut : List Nat := List.replicate 8 0
  /-- Test-pulse lines that are driven, and of these driven low (R349). -/
  tp : Nat × Nat := (0, 0)
  /-- Test-pulse lines enabled throughout this frame, seen low in their pulse, and low outside their window (R350, R351). -/
  tpWhole : Nat := 0
  tpSaw : Nat := 0
  tpBad : Nat := 0
  /-- Results of the last frame (R377). -/
  tpErr : Nat := 0
  tpOutErr : Nat := 0
  /-- The switch tests of this frame: outputs pulsed on FB and FA, pin seen OFF, midpoint lost, midpoint seen OFF (R357). -/
  testFb : Nat := 0
  testFa : Nat := 0
  fbOff : Nat := 0
  fbBad : Nat := 0
  faOff : Nat := 0
  slots : List LSlot := List.replicate 8 {}
  /-- What is left of each output's TEDM, in cycles (R358). -/
  tedm : List Nat := List.replicate 8 0
  fbsw : Nat := 0
  /-- Every FB switch has been turned OFF by the sequence of R480. -/
  off : Bool := false
  /-- Lockouts: outputs, causes, the input, pair, line or slot that each came from, those whose cause is gone, and those latched in this cycle (R346, R361). -/
  lock : Nat := 0
  cause : List Nat := List.replicate 8 0
  src : List Nat := List.replicate 8 0
  gone : Nat := 0
  fresh : Nat := 0
  /-- Conditions recorded already while they last: EXTDRIVE of output n in bit n, FBNOOUT in 8 + n, EDM in 16 + n, of slot k's speed inputs a disagreement in 24 + k and a short
  period of SPDA in 32 + k and of SPDB in 40 + k. -/
  told : Nat := 0
  lkseq : Nat := 0
  internal : Bool := false
  /-- Consecutive samples of the group-2 supply below 0.50 Un and at or above 0.55 Un, and LOST (R360). -/
  lo50 : Nat := 0
  hi55 : Nat := 0
  lost : Bool := false
  /-- 1 + time of each speed input's last edge and its last period, in ns (R354). -/
  edge : List Nat := [0, 0, 0, 0]
  period : List Nat := [0, 0, 0, 0]
  rstIn : RstIn := {}
  /-- The trips that wait for step 5, by their masks (R345, R365). -/
  trips : List Nat := []
  /-- The active table is to be read back, and the Lodestone cycle of the last reading (R372). -/
  echoDue : Bool := false
  echoAt : Nat := 0
  /-- The code of UNLOCK0 with its triad and cycle, and the complete pairs that wait for step 5 (R363). -/
  code0 : Option (Nat × Nat × Nat) := none
  codes : List (Nat × Nat) := []
  /-- Events and counters that wait for the link. -/
  late : List Fld := []
  lateCnt : List Fld := []
  deriving DecidableEq, Repr
/-- What a front end last received of its channel's configuration (R381, R385, R390, R392). -/
structure FeCfg where
  on : Bool := false
  sink : Bool := false
  safe : Nat := 0
  mmact : Bool := false
  almlo : Nat := 3500
  almhi : Nat := 21500
  target : Nat := 4000
  deriving DecidableEq, Repr

/-- An analog channel: its front end, and what its interface keeps beyond its registers (R381–R395). -/
structure AnlCh where
  fe : FeCfg := {}
  /-- The front end's true conditions; `ANL_CHSTAT` holds what the interface has been told. -/
  fallback : Bool := false
  headroom : Bool := false
  foldback : Bool := false
  openLoop : Bool := false
  rbmism : Bool := false
  /-- Safe current for a silent link (R390). -/
  silent : Bool := false
  /-- A firmware switch holds the current, and the free-running time of its begin (R391). -/
  hold : Bool := false
  holdAt : Nat := 0
  /-- The latest setpoint frame, until the front end acts on it (R385, R390). -/
  latest : Option FeCfg := none
  /-- Trim memory: ZERO, SPAN and TSRC (R394). -/
  trim : Nat × Nat × Nat := (0, 0, 0)
  /-- The latest readback: IPRI, IRB, VTERM, VCOMP and TJ (R389); `fresh` until a status frame has carried it. -/
  ipri : Nat := 0
  irb : Nat := 0
  vterm : Nat := 0
  vcomp : Nat := 0
  tj : Int := 0
  fresh : Bool := false
  /-- 1 + the span in ms over which the conditions of HEADROOM and OPEN have held (R386, R387). -/
  hdSpan : Nat := 0
  opSpan : Nat := 0
  /-- Consecutive readbacks with a current mismatch, a reference mismatch, and neither (R389). -/
  misI : Nat := 0
  misRef : Nat := 0
  clean : Nat := 0
  /-- Free-running times: fall-back entered, 1 + fall-back left, and earliest next leaving (R385). -/
  fbAt : Nat := 0
  fbLeft : Nat := 0
  fbHold : Nat := 0
  /-- What the regulator aims at in µA and the compliance supply is set to in 10 mV, and the free-running time of the last setpoint that the front end acted on (R383, R384). -/
  iset : Nat := 0
  vset : Nat := 500
  stepAt : Nat := 0
  /-- 1 + the free-running time since which valid setpoint frames have come without a break; 0 while none has (R390). -/
  goodAt : Nat := 0
  /-- The target of the last setpoint frame (R382). -/
  target : Nat := 4000
  /-- TS of the status frame that carried the latest readback, and a readback has been carried (R393). -/
  rbTs : Nat := 0
  carried : Bool := false
  /-- The last publication: IRB and its status byte with the quality, and its VALUE (R393). -/
  pub : Option (Nat × Nat × Nat) := none
  pubVal : List Byte := List.replicate 16 0
  deriving DecidableEq, Repr

/-- The Binnacle panel (R395, R531, R532). -/
structure Binn where
  /-- 0 no trim, 1 a channel is being chosen, 2 ZERO and 3 SPAN is being adjusted. -/
  step : Nat := 0
  /-- While choosing: 0 `TRIM`, 1 + n for channel n, 9 `EXIT`; then the channel. -/
  sel : Nat := 0
  /-- The value has been adjusted since its name was shown. -/
  shown : Bool := false
  zero : Int := 0
  span : Int := 0
  /-- The information page, 0 for none. -/
  page : Nat := 0
  /-- A message and the free-running time at which it ends. -/
  msg : Nat := 0
  msgEnd : Nat := 0
  /-- Free-running time of the last press. -/
  last : Nat := 0
  deriving DecidableEq, Repr
/-- The fault collector beyond its registers (R418–R425). -/
structure Coll where
  /-- The error FIFO, oldest entry first. -/
  fifo : List FifoEntry := []
  /-- The free-running times of each escalation rule's counted reports, newest first. -/
  esc : List (List Nat) := List.replicate 8 []
  /-- Consecutive failures of the supervisor's check. -/
  fails : Nat := 0
  deriving DecidableEq, Repr

/-- A state block's copy in progress: the next line and CSEQ (R438). -/
structure BlkTx where
  line : Nat
  cseq : Nat
  deriving DecidableEq, Repr

/-- What the STANDBY has received of a state block: the half and CSEQ of the copy in progress with its bytes received so far, and the half the next copy
goes to (R438). -/
structure BlkRx where
  half : Nat := 0
  cseq : Nat := 0
  got : Option Nat := none
  nextHalf : Nat := 0
  deriving DecidableEq, Repr

/-- The mirror engine and role unit beyond their registers (R428–R446). -/
structure Prl where
  /-- A valid heartbeat has arrived in the current cycle; the cycle that ended last brought none and is still to be counted. -/
  beat : Bool := false
  missDue : Bool := false
  /-- Consecutive missed cycles. -/
  missed : Nat := 0
  /-- Cycle starts in LISTEN since a PRIMARY was last heard (R432). -/
  quiet : Nat := 0
  /-- The partner has been heard in this power cycle (R434). -/
  heard : Bool := false
  /-- STANDBY at the next cycle start, and the dual PRIMARY has been counted (R432, R443). -/
  yield : Bool := false
  dual : Bool := false
  /-- SEQ of the next frame and 1 + that of the last one received, per link (R429). -/
  txSeq : List Nat := [0, 0]
  rxSeq : List Nat := [0, 0]
  /-- TXTS of the own last heartbeat and RXTS of the partner's (R430). -/
  txTs : Nat := 0
  rxTs : Nat := 0
  /-- TXTS of the own heartbeat before the last, and a heartbeat has been sent in the current cycle. -/
  prevTx : Nat := 0
  sent : Bool := false
  /-- A correction for the next cycle in units of 2⁻³² ns; offsets since the last rate update and the sum of their corrections (R208, R209, R446). -/
  corrNext : Int := 0
  points : Nat := 0
  corrSum : Int := 0
  /-- Payload bytes sent in the current cycle (R439). -/
  used : Nat := 0
  /-- A forced swap (R444): on the PRIMARY 1 accepted, 2 SWAP is sent, 3 SWAPACK is awaited, 4 received; on the STANDBY 5 SWAP received, 6 SWAPACK is sent; 7 the
  roles change. -/
  swap : Nat := 0
  /-- Consecutive offsets within and beyond 1 µs (R446). -/
  good : Nat := 0
  bad : Nat := 0
  /-- Marks were lost and the catch-up pass that followed has not completed (R437, R440). -/
  loss : Bool := false
  /-- CUREQ is set in the next heartbeat (R440). -/
  cureq : Bool := false
  /-- Since READY was last cleared: a catch-up pass has been received whole, and the blocks that have completed a copy (R440). -/
  passDone : Bool := false
  blkDone : List Nat := []
  tx : List (Nat × Option BlkTx) := []
  rx : List (Nat × BlkRx) := []
  deriving DecidableEq, Repr
/-- A trigger that has fired: its number, the TS96 of its instant, words EF0 and EF1 of its report, ARG, and whether it fired after a power-fail declaration
(R450, R457, R461). -/
structure Fired where
  trig : Nat
  ts : Nat
  ef0 : Nat := 0
  ef1 : Nat := 0
  arg : Nat := 0
  pf : Bool := false
  deriving DecidableEq, Repr

/-- A Logbook record (R455), with its place in the Logbook region once it has been written there. -/
structure LogRec where
  seq : Nat
  trig : Nat
  flags : Nat
  first : Nat
  last : Nat := 0
  rep : Nat := 0
  items : Nat
  payload : List Byte
  pos : Option Nat := none
  deriving DecidableEq, Repr

/-- A record in the Logbook region: SEQ, offset and length; `kept` once the pointers in the tag and counter region cover it (R462). -/
structure LogDir where
  seq : Nat
  pos : Nat
  len : Nat
  kept : Bool
  deriving DecidableEq, Repr

/-- The Logbook engine beyond its registers (R450–R466). -/
structure Logb where
  /-- Triggers that an event has matched and that fire next, in order. -/
  due : List Fired := []
  /-- Fired triggers that wait for capture, at most 64 (R457). -/
  queue : List Fired := []
  /-- The reference of each SIGNAL trigger: its masked value and VALID (R450). -/
  sigRef : List (Nat × Option (Nat × Bool)) := []
  /-- Cycle starts counted by each PERIOD trigger (R450). -/
  perCnt : List (Nat × Nat) := []
  /-- Unflushed records in the buffer, oldest first (R459). -/
  buf : List LogRec := []
  /-- How many of them the running flush writes, and the bytes it has written (R460). -/
  inFlush : Nat := 0
  written : Nat := 0
  /-- A further flush starts when the running one ends; headers to be rewritten (R460). -/
  again : Bool := false
  rewrites : List LogRec := []
  /-- Free-running time at which the last flush ended. -/
  flushEnd : Nat := 0
  /-- The newest record, where it was appended in this power cycle after the last clear (R458). -/
  newest : Option LogRec := none
  /-- The ring: its records, oldest first, and the offset of the next one (R462). -/
  dir : List LogDir := []
  head : Nat := 0
  /-- SEQ of the next record (R456). -/
  next : Nat := 0
  /-- WRAP has been reported in this flush; 1 + the second of the last report of a loss (R468). -/
  wrapSaid : Bool := false
  lostSec : Nat := 0
  /-- Free-running time at which the grant ends (R464). -/
  grantEnd : Nat := 0
  deriving DecidableEq, Repr
/-- Power and start-up beyond their registers (R472–R484). -/
structure Pwr where
  /-- 0 standby, 1 powered up, 2 past power-good. -/
  phase : Nat := 1
  /-- The sequence of R480: 0 none, 1 after a power-fail, 2 after OFFDLY, 3 after `SYS_PWROFF`; and the free-running time at which it started. -/
  seq : Nat := 0
  seqAt : Nat := 0
  /-- Free-running times at which an interruption and OFFDLY started. -/
  intrAt : Nat := 0
  offAt : Nat := 0
  /-- The battery input is at or above 13.8 V. -/
  batt : Bool := true
  /-- The last power-down was an orderly shutdown, and not both wake inputs have been OFF since (R474). -/
  waitOff : Bool := false
  /-- The marker of R484: as LASTOFF codes it. -/
  marker : Nat := 0
  /-- Service image verified at start-up (R477). -/
  svcImage : Bool := false
  deriving DecidableEq, Repr
/-- A pending activation or fall-back of a unit (R498, R500). -/
structure PendAct where
  fall : Bool
  /-- 0 at its Waypoint, 1 NOW, 2 NEXTBOOT. -/
  mode : Nat
  /-- The Waypoint in ns. -/
  wp : Nat
  /-- `MER_CYCPOS.CYCLES` when it was armed, or when its switch began to wait (R498, R503). -/
  cyc : Nat
  /-- The Waypoint has been reached in SYNC or DR, or NOW's cycle start has come. -/
  due : Bool := false
  /-- The handover has been requested, the switch boundary has been captured, and the switch has waited one cycle (R503). -/
  asked : Bool := false
  captured : Bool := false
  waited : Bool := false
  /-- Free-running time at which it fell due (R501). -/
  at' : Nat := 0
  deriving DecidableEq, Repr

/-- The update engine beyond its registers (R490–R509). -/
structure Upd where
  pend : List (Nat × Option PendAct) := []
  /-- The payload of the key list in force (R494). -/
  keys : List Byte := []
  /-- The half of `UPD_MAPAREA` that the last activation used, and a MAPS activation has been armed in this power cycle (R502). -/
  mapHalf : Nat := 1
  mapsUsed : Bool := false
  /-- Map numbers and directory entries that wait for their Waypoint. -/
  dirs : List (Nat × List Byte) := []
  /-- What Pilot mode displays; none for `PILT` (R507). -/
  disp : Option Nat := none
  /-- Free-running time of the last background check (R504). -/
  bgAt : Nat := 0
  /-- SET was held at power-good; Pilot mode is to be entered (R506). -/
  setHeld : Bool := false
  want : Bool := false
  deriving DecidableEq, Repr

/-- The thermal monitor (R526): how many measurements in a row have held each condition. -/
structure Therm where
  ge97 : Nat := 0
  ge102 : Nat := 0
  ge112 : Nat := 0
  lt94 : Nat := 0
  lt99 : Nat := 0
  /-- Measurements in T75 or T50 since the last whole second of HOTSEC, and a measurement has been made since power-up. -/
  tenths : Nat := 0
  any : Bool := false
  /-- The service-cluster clock in force, as `SVC_STAT.THROT` codes it (R91). -/
  clk : Nat := 0
  deriving DecidableEq, Repr

/-- A line of 64 bytes in a cache, or in an engine's buffer: where it is, its number, whether memory behind it is older, and the symbols of its two codewords
(R68, R71, R90, R102, R111). -/
structure CLine where
  src : MemSrc
  line : Nat
  dirty : Bool
  sym : List Byte
  deriving DecidableEq, Repr

/-- The state of the module. A field's default is its value right after reset. -/
structure State where
  /-- The commands waiting, first in, first out. -/
  pending : List Instr := []
  /-- Register fields: key ↦ value XOR reset value, canonical (R16, R29). -/
  flds : List (Nat × Nat) := []
  /-- RWL fields in force, in the same form (R31). -/
  live : List (Nat × Nat) := []
  /-- RWL fields written since the last boundary of their block: key and stored form, last write first (R31). -/
  pendL : List (Nat × Nat) := []
  /-- The model's own counter of free values met so far (notes/assumptions/1.md). -/
  nfree : Nat := 0
  /-- The model's own record of what has left the module, newest first (notes/assumptions/5.md). -/
  out : List Out := []
  /-- Operations taken from rings and not yet written back, per queue in ring order (R51). -/
  qops : List QOp := []
  /-- Interrupt files: address of the file's page + identity ↦ 1 where pending (R57). -/
  ifiles : List (Nat × Nat) := []
  /-- Tag areas by register address (R60); unlisted bytes read 0. -/
  tags : List Host.Cell := []
  /-- Once-per-cycle reports already raised in this cycle (R56). -/
  onceCycle : List Nat := []
  /-- Reports in the islands' waiting places, in order of raising (R417). -/
  waiting : List (Nat × Report) := []
  /-- Data bytes of DRAM and non-volatile memory; unlisted bytes read 0 (R79). -/
  mem : List Host.Cell := []
  /-- Check bytes: 4 × codeword number + j ↦ check byte Cj; unlisted bytes read 0 (R68). -/
  chk : List Host.Cell := []
  /-- Lines held in caches and engine buffers, oldest first (R71, R90, R102, R111). -/
  caches : List CLine := []
  /-- Per macro: 1 + the free-running time of its last correction entry (R77). -/
  ceHold : List (Nat × Nat) := []
  /-- Corrections of each device in its degradation window: 64 × memory + device (R536). -/
  degCnt : List (Nat × Nat) := []
  /-- Free-running times at which the degradation windows began: 0 DRAM, 1 non-volatile memory (R536). -/
  degAt : List (Nat × Nat) := []
  /-- Devices declared degraded: 64 × memory + device (R536). -/
  degraded : List Nat := []
  /-- The four triads (R105–R129). -/
  triads : List Triad := [{}, {}, {}, {}]
  /-- Load reservations: hart number ↦ 1 + line number (R111, R126). -/
  resv : List (Nat × Nat) := []
  /-- The pool core whose periodic self-test comes next (R143). -/
  poolNext : Nat := 0
  /-- Meridian (R160–R180). -/
  mer : Mer := {}
  /-- The Rhumbline star, schedule and synchronisation unit (R182–R216). -/
  rhl : Rhl := {}
  /-- The Chart engine (R221–R258). -/
  chart : Chart := {}
  /-- The backbone switch (R259–R281). -/
  bkb : Bkb := {}
  /-- The six CAN channels (R282–R302). -/
  can : List CanCh := List.replicate 6 {}
  /-- The backplane bridge (R303–R317). -/
  brg : Brg := {}
  /-- Field inputs and outputs on the FA die (R318–R340). -/
  fio : Fio := {}
  /-- Lodestone (R341–R378). -/
  lod : Lod := {}
  /-- The analog channels (R379–R395). -/
  anl : List AnlCh := List.replicate 8 {}
  /-- The Binnacle panel (R395, R530–R532). -/
  binn : Binn := {}
  /-- Pulse counters C of crossing 20: 64 × island + counter ↦ C, at most 15 (R405). -/
  pulses : List (Nat × Nat) := []
  /-- Their sticky OVF bits (R405). -/
  pulseOvf : List (Nat × Nat) := []
  /-- The value crossings that are not idle, in order of sending (R403, R404, R408). -/
  xings : List Xing := []
  /-- Islands whose stop condition holds ↦ 1 + the free-running time since which it has (R399); 16 + island ↦ the same for the start of a single reset (R486). -/
  quiet : List (Nat × Nat) := []
  /-- Die links: 2 × link + direction ↦ 1 + the sequence of the last valid frame (R407). -/
  links : List (Nat × Nat) := []
  /-- 1 + the free-running time of their last valid frame, with the same keys (R407). -/
  linkAt : List (Nat × Nat) := []
  /-- Frames lost on them, with the same keys (R407). -/
  linkLost : List (Nat × Nat) := []
  /-- The fault collector (R415–R427). -/
  coll : Coll := {}
  /-- The mirror engine and role unit (R428–R446). -/
  prl : Prl := {}
  /-- The Logbook engine (R450–R466). -/
  logb : Logb := {}
  /-- Power and start-up (R472–R485). -/
  pwr : Pwr := {}
  /-- The update engine (R490–R509). -/
  upd : Upd := {}
  /-- The thermal monitor (R526). -/
  therm : Therm := {}
  deriving DecidableEq, Repr

/-- Why the machine stops with a fault. -/
inductive Fault where
  /-- Entry n of the catalogue of undefined behaviour (R63). No command raises it: under R62 the module goes on, and what an entry reaches takes free values
  (notes/assumptions/14.md). Safe: it would stop the model. -/
  | undefinedBehaviour (n : Nat)
  deriving DecidableEq, Repr

/-- Why the machine has no meaning for a command. -/
inductive Refusal where
  /-- The command of this mnemonic is not modelled; raised by an arm of exec alone. Safe: the model stops. -/
  | notModelled (mnemonic : String)
  deriving DecidableEq, Repr

/-- The module right after reset: every field at its reset value (R16, R46 and the register maps), the queue empty. -/
def State.reset : State := {}

end Sys2Proof.Machine
end

