-- ==== Sys2Proof/Machine/Regs.lean ====
section
/-! DEFINITION. Every register field of the register maps (R46–R48, R98, R100, R130, R131, R181, R217, R218, R257, R279,
R280, R299, R300, R317, R338, R339, R377, R396, R397, R427, R447, R448, R467, R488, R509, R533 and R3), one definition per field: address of its register, lowest bit,
width, access code and reset value. -/

namespace Sys2Proof.Machine

/-- The register set of queue Q, numbered as the global queue number block × 256 + queue (R46). -/
def qBase (Q : Nat) : Nat := 0x2000000000 + Q / 256 * 0x1000000 + 0x8000 + Q % 256 * 0x80

/-- The channel page of field channel number c (R318, R339): DI 0x00, DO 0x30, SI 0x48, SP 0x58, SO 0x60, AUX 0x68. -/
def fioPage (c : Nat) : Nat :=
  if c < 0x30 then 0x200A010000 + c * 0x1000
  else if c < 0x48 then 0x200A110000 + (c - 0x30) * 0x1000
  else if c < 0x58 then 0x200A210000 + (c - 0x48) * 0x1000
  else if c < 0x60 then 0x200A310000 + (c - 0x58) * 0x1000
  else if c < 0x68 then 0x200A410000 + (c - 0x60) * 0x1000
  else 0x200A510000 + (c - 0x68) * 0x1000


-- SYS_IDENT (R3, spec/00_scope.md)
def SYS_IDENT_PART : Fld := ⟨0x2000000000, 0, 16, .ro, 17408⟩
def SYS_IDENT_HWREV : Fld := ⟨0x2000000000, 16, 8, .ro, 1⟩
def SYS_IDENT_COMPAT : Fld := ⟨0x2000000000, 24, 8, .ro, 1⟩
def SYS_IDENT_LREV : Fld := ⟨0x2000000000, 32, 8, .ro, 1⟩
def SYS_IDENT_ROMREV : Fld := ⟨0x2000000000, 40, 8, .ro, 1⟩

-- xxx_QCTRL (R46, spec/02_programming_model.md)
def QCTRL_EN (Q : Nat) : Fld := ⟨qBase Q + 0x0, 0, 1, .rw, 0⟩
def QCTRL_OWNCLS (Q : Nat) : Fld := ⟨qBase Q + 0x0, 4, 3, .rws, 0⟩
def QCTRL_OWNID (Q : Nat) : Fld := ⟨qBase Q + 0x0, 8, 8, .rws, 0⟩
def QCTRL_BUMP (Q : Nat) : Fld := ⟨qBase Q + 0x0, 16, 1, .w1s, 0⟩

-- xxx_QBASE (R46, spec/02_programming_model.md)
def QBASE_BASE (Q : Nat) : Fld := ⟨qBase Q + 0x8, 0, 40, .rws, 0⟩

-- xxx_QSIZE (R46, spec/02_programming_model.md)
def QSIZE_ENTRIES (Q : Nat) : Fld := ⟨qBase Q + 0x10, 0, 17, .rws, 0⟩

-- xxx_QPROD (R46, spec/02_programming_model.md)
def QPROD_PROD (Q : Nat) : Fld := ⟨qBase Q + 0x18, 0, 16, .ro, 0⟩
def QPROD_EPOCH (Q : Nat) : Fld := ⟨qBase Q + 0x18, 16, 16, .ro, 0⟩

-- xxx_QCONS (R46, spec/02_programming_model.md)
def QCONS_CONS (Q : Nat) : Fld := ⟨qBase Q + 0x20, 0, 16, .ro, 0⟩

-- xxx_QEPOCH (R46, spec/02_programming_model.md)
def QEPOCH_EPOCH (Q : Nat) : Fld := ⟨qBase Q + 0x28, 0, 16, .ro, 1⟩

-- xxx_QSTAT (R46, spec/02_programming_model.md)
def QSTAT_IDLE (Q : Nat) : Fld := ⟨qBase Q + 0x30, 0, 1, .ro, 1⟩
def QSTAT_PAUSED (Q : Nat) : Fld := ⟨qBase Q + 0x30, 1, 1, .ro, 0⟩
def QSTAT_NOTOWN (Q : Nat) : Fld := ⟨qBase Q + 0x30, 2, 1, .w1c, 0⟩
def QSTAT_DBERR (Q : Nat) : Fld := ⟨qBase Q + 0x30, 3, 1, .w1c, 0⟩
def QSTAT_STALE (Q : Nat) : Fld := ⟨qBase Q + 0x30, 4, 1, .w1c, 0⟩
def QSTAT_CODEERR (Q : Nat) : Fld := ⟨qBase Q + 0x30, 5, 1, .w1c, 0⟩

-- xxx_QIRQ (R46, spec/02_programming_model.md)
def QIRQ_EIID (Q : Nat) : Fld := ⟨qBase Q + 0x38, 0, 8, .rw, 0⟩
def QIRQ_HART (Q : Nat) : Fld := ⟨qBase Q + 0x38, 8, 5, .rw, 0⟩
def QIRQ_LEVEL (Q : Nat) : Fld := ⟨qBase Q + 0x38, 16, 2, .rw, 0⟩
def QIRQ_GUEST (Q : Nat) : Fld := ⟨qBase Q + 0x38, 20, 3, .rw, 0⟩

-- xxx_QSTALE (R46, spec/02_programming_model.md)
def QSTALE_COUNT (Q : Nat) : Fld := ⟨qBase Q + 0x40, 0, 32, .rc, 0⟩

-- xxx_QDBERR (R46, spec/02_programming_model.md)
def QDBERR_COUNT (Q : Nat) : Fld := ⟨qBase Q + 0x48, 0, 32, .rc, 0⟩

-- MEM_STAT (R98, spec/03_memory_and_service_cluster.md)
def MEM_STAT_DRREADY : Fld := ⟨0x2003000000, 0, 1, .ro, 0⟩
def MEM_STAT_NVREADY : Fld := ⟨0x2003000000, 1, 1, .ro, 0⟩
def MEM_STAT_DRDEG : Fld := ⟨0x2003000000, 2, 1, .ro, 0⟩
def MEM_STAT_NVDEG : Fld := ⟨0x2003000000, 3, 1, .ro, 0⟩
def MEM_STAT_DRDEV : Fld := ⟨0x2003000000, 4, 6, .ro, 0⟩
def MEM_STAT_NVDEV : Fld := ⟨0x2003000000, 10, 6, .ro, 0⟩

-- MEM_SCRUB (R98, spec/03_memory_and_service_cluster.md)
def MEM_SCRUB_DRH : Fld := ⟨0x2003000008, 0, 8, .rwl, 24⟩
def MEM_SCRUB_NVD : Fld := ⟨0x2003000008, 8, 5, .rwl, 7⟩
def MEM_SCRUB_DREN : Fld := ⟨0x2003000008, 16, 1, .rwl, 1⟩
def MEM_SCRUB_NVEN : Fld := ⟨0x2003000008, 17, 1, .rwl, 1⟩

-- MEM_DRPOS (R98, spec/03_memory_and_service_cluster.md)
def MEM_DRPOS_ADDR : Fld := ⟨0x2003000010, 0, 40, .ro, 0⟩
def MEM_DRPOS_PASSES : Fld := ⟨0x2003000010, 48, 16, .ro, 0⟩

-- MEM_NVPOS (R98, spec/03_memory_and_service_cluster.md)
def MEM_NVPOS_ADDR : Fld := ⟨0x2003000018, 0, 40, .ro, 0x1000000000⟩
def MEM_NVPOS_PASSES : Fld := ⟨0x2003000018, 48, 16, .ro, 0⟩

-- MEM_CECNT (R98, spec/03_memory_and_service_cluster.md)
def MEM_CECNT_DRAM : Fld := ⟨0x2003000020, 0, 32, .rc, 0⟩
def MEM_CECNT_OTHER : Fld := ⟨0x2003000020, 32, 32, .rc, 0⟩

-- MEM_UECNT (R98, spec/03_memory_and_service_cluster.md)
def MEM_UECNT_DRAM : Fld := ⟨0x2003000028, 0, 16, .rc, 0⟩
def MEM_UECNT_NVM : Fld := ⟨0x2003000028, 16, 16, .rc, 0⟩
def MEM_UECNT_CACHE : Fld := ⟨0x2003000028, 32, 16, .rc, 0⟩
def MEM_UECNT_POISON : Fld := ⟨0x2003000028, 48, 16, .rc, 0⟩

-- MEM_LASTADR (R98, spec/03_memory_and_service_cluster.md)
def MEM_LASTADR_ADDR : Fld := ⟨0x2003000030, 0, 40, .ro, 0⟩
def MEM_LASTADR_SRC : Fld := ⟨0x2003000030, 40, 4, .ro, 0⟩

-- MEM_LASTSYN (R98, spec/03_memory_and_service_cluster.md)
def MEM_LASTSYN_SYND : Fld := ⟨0x2003000038, 0, 32, .ro, 0⟩
def MEM_LASTSYN_SYM : Fld := ⟨0x2003000038, 32, 6, .ro, 0⟩
def MEM_LASTSYN_VAL : Fld := ⟨0x2003000038, 38, 8, .ro, 0⟩
def MEM_LASTSYN_VERDICT : Fld := ⟨0x2003000038, 46, 2, .ro, 0⟩

-- MEM_CEHOLD (R98, spec/03_memory_and_service_cluster.md)
def MEM_CEHOLD_MS : Fld := ⟨0x2003000040, 0, 8, .rw, 10⟩

-- MEM_INJ (R98, spec/03_memory_and_service_cluster.md)
def MEM_INJ_ADDR : Fld := ⟨0x2003000048, 0, 40, .rw, 0⟩
def MEM_INJ_SYMA : Fld := ⟨0x2003000048, 40, 6, .rw, 0⟩
def MEM_INJ_SYMB : Fld := ⟨0x2003000048, 46, 6, .rw, 0⟩
def MEM_INJ_BEN : Fld := ⟨0x2003000048, 52, 1, .rw, 0⟩
def MEM_INJ_ARM : Fld := ⟨0x2003000048, 53, 1, .w1s, 0⟩
def MEM_INJ_VAL : Fld := ⟨0x2003000048, 56, 8, .rw, 0⟩

-- MEM_DEVn (R98, spec/03_memory_and_service_cluster.md)
def MEM_DEV_DRAM (n : Nat) : Fld := ⟨0x2003000100 + n * 0x8, 0, 16, .rc, 0⟩
def MEM_DEV_NVM (n : Nat) : Fld := ⟨0x2003000100 + n * 0x8, 16, 16, .rc, 0⟩

-- SVC_STAT (R100, spec/03_memory_and_service_cluster.md)
def SVC_STAT_ONLINE : Fld := ⟨0x2002000000, 0, 16, .ro, 65535⟩
def SVC_STAT_THROT : Fld := ⟨0x2002000000, 16, 2, .ro, 0⟩

-- SVC_WINCTRLc (R100, spec/03_memory_and_service_cluster.md)
def SVC_WINCTRL_COUNT (c : Nat) : Fld := ⟨0x2002001000 + c * 0x200, 0, 6, .rwl, 0⟩
def SVC_WINCTRL_EIID (c : Nat) : Fld := ⟨0x2002001000 + c * 0x200, 8, 8, .rwl, 0⟩
def SVC_WINCTRL_LEVEL (c : Nat) : Fld := ⟨0x2002001000 + c * 0x200, 16, 1, .rwl, 0⟩
def SVC_WINCTRL_ORDERR (c : Nat) : Fld := ⟨0x2002001000 + c * 0x200, 17, 1, .w1c, 0⟩

-- SVC_WINCURc (R100, spec/03_memory_and_service_cluster.md)
def SVC_WINCUR_ENTRY (c : Nat) : Fld := ⟨0x2002001008 + c * 0x200, 0, 5, .ro, 0⟩
def SVC_WINCUR_PART (c : Nat) : Fld := ⟨0x2002001008 + c * 0x200, 6, 6, .ro, 0⟩
def SVC_WINCUR_IDLE (c : Nat) : Fld := ⟨0x2002001008 + c * 0x200, 12, 1, .ro, 0⟩

-- SVC_WINLATEc (R100, spec/03_memory_and_service_cluster.md)
def SVC_WINLATE_COUNT (c : Nat) : Fld := ⟨0x2002001010 + c * 0x200, 0, 32, .rc, 0⟩

-- SVC_WINc_k (R100, spec/03_memory_and_service_cluster.md)
def SVC_WIN_OFFSET (c k : Nat) : Fld := ⟨0x2002001100 + c * 0x200 + k * 0x8, 0, 27, .rwl, 0⟩
def SVC_WIN_PART (c k : Nat) : Fld := ⟨0x2002001100 + c * 0x200 + k * 0x8, 32, 6, .rwl, 0⟩
def SVC_WIN_IDLE (c k : Nat) : Fld := ⟨0x2002001100 + c * 0x200 + k * 0x8, 38, 1, .rwl, 0⟩

-- SVC_PCTRLp (R100, spec/03_memory_and_service_cluster.md)
def SVC_PCTRL_EN (p : Nat) : Fld := ⟨0x2002004000 + p * 0x40, 0, 1, .rw, 0⟩
def SVC_PCTRL_RESTART (p : Nat) : Fld := ⟨0x2002004000 + p * 0x40, 1, 1, .w1s, 0⟩
def SVC_PCTRL_CORES (p : Nat) : Fld := ⟨0x2002004000 + p * 0x40, 16, 16, .rw, 0⟩

-- SVC_PEPOCHp (R100, spec/03_memory_and_service_cluster.md)
def SVC_PEPOCH_EPOCH (p : Nat) : Fld := ⟨0x2002004008 + p * 0x40, 0, 16, .ro, 1⟩

-- SVC_PGNTp_g (R100, spec/03_memory_and_service_cluster.md)
def SVC_PGNT_V (p g : Nat) : Fld := ⟨0x2002004010 + p * 0x40 + g * 0x8, 0, 1, .rws, 0⟩
def SVC_PGNT_WR (p g : Nat) : Fld := ⟨0x2002004010 + p * 0x40 + g * 0x8, 1, 1, .rws, 0⟩
def SVC_PGNT_BASE (p g : Nat) : Fld := ⟨0x2002004010 + p * 0x40 + g * 0x8, 21, 19, .rws, 0⟩
def SVC_PGNT_SIZE (p g : Nat) : Fld := ⟨0x2002004010 + p * 0x40 + g * 0x8, 48, 16, .rws, 0⟩

-- VTC_STAT (R130, spec/04_vital_triads.md)
def VTC_STAT_RUN : Fld := ⟨0x2001000000, 0, 4, .ro, 0⟩
def VTC_STAT_DEGR : Fld := ⟨0x2001000000, 4, 4, .ro, 0⟩
def VTC_STAT_HALT : Fld := ⟨0x2001000000, 8, 4, .ro, 0⟩
def VTC_STAT_SPARES : Fld := ⟨0x2001000000, 12, 2, .ro, 3⟩

-- VTC_CSTAT (R130, spec/04_vital_triads.md)
def VTC_CSTAT_CORE (j : Nat) : Fld := ⟨0x2001000008, 4*j, 4, .ro, if j < 12 then 0 else 1⟩

-- VTC_XTEST (R130, spec/04_vital_triads.md)
def VTC_XTEST_CORE : Fld := ⟨0x2001000010, 0, 4, .rw, 0⟩
def VTC_XTEST_GO : Fld := ⟨0x2001000010, 4, 1, .w1s, 0⟩
def VTC_XTEST_BUSY : Fld := ⟨0x2001000010, 5, 1, .ro, 0⟩
def VTC_XTEST_RESULT : Fld := ⟨0x2001000010, 6, 2, .ro, 0⟩

-- VTC_TCTRLt (R130, spec/04_vital_triads.md)
def VTC_TCTRL_START (t : Nat) : Fld := ⟨0x2001001000 + t * 0x100, 0, 1, .w1s, 0⟩
def VTC_TCTRL_SHALT (t : Nat) : Fld := ⟨0x2001001000 + t * 0x100, 1, 1, .w1s, 0⟩
def VTC_TCTRL_SPAREEN (t : Nat) : Fld := ⟨0x2001001000 + t * 0x100, 2, 1, .rwl, 1⟩
def VTC_TCTRL_RSLIM (t : Nat) : Fld := ⟨0x2001001000 + t * 0x100, 8, 4, .rwl, 3⟩
def VTC_TCTRL_RSWIN (t : Nat) : Fld := ⟨0x2001001000 + t * 0x100, 16, 8, .rwl, 10⟩

-- VTC_TSTATt (R130, spec/04_vital_triads.md)
def VTC_TSTAT_STATE (t : Nat) : Fld := ⟨0x2001001008 + t * 0x100, 0, 4, .ro, 0⟩
def VTC_TSTAT_FLANE (t : Nat) : Fld := ⟨0x2001001008 + t * 0x100, 4, 2, .ro, 0⟩
def VTC_TSTAT_CHKON (t : Nat) : Fld := ⟨0x2001001008 + t * 0x100, 7, 1, .ro, 0⟩
def VTC_TSTAT_HCAUSE (t : Nat) : Fld := ⟨0x2001001008 + t * 0x100, 8, 8, .ro, 0⟩

-- VTC_TMAPt (R130, spec/04_vital_triads.md)
def VTC_TMAP_CA (t : Nat) : Fld := ⟨0x2001001010 + t * 0x100, 0, 4, .ro, 3 * t⟩
def VTC_TMAP_CB (t : Nat) : Fld := ⟨0x2001001010 + t * 0x100, 4, 4, .ro, 3 * t + 1⟩
def VTC_TMAP_CC (t : Nat) : Fld := ⟨0x2001001010 + t * 0x100, 8, 4, .ro, 3 * t + 2⟩

-- VTC_TEPOCHt (R130, spec/04_vital_triads.md)
def VTC_TEPOCH_EPOCH (t : Nat) : Fld := ⟨0x2001001018 + t * 0x100, 0, 16, .ro, 1⟩

-- VTC_SIGCTLt (R130, spec/04_vital_triads.md)
def VTC_SIGCTL_INTMS (t : Nat) : Fld := ⟨0x2001001020 + t * 0x100, 0, 7, .rwl, 10⟩

-- VTC_IAGt (R130, spec/04_vital_triads.md)
def VTC_IAG_MARGIN (t : Nat) : Fld := ⟨0x2001001028 + t * 0x100, 0, 8, .rwl, 32⟩

-- VTC_RSCNTt (R130, spec/04_vital_triads.md)
def VTC_RSCNT_LANEA (t : Nat) : Fld := ⟨0x2001001030 + t * 0x100, 0, 16, .rc, 0⟩
def VTC_RSCNT_LANEB (t : Nat) : Fld := ⟨0x2001001030 + t * 0x100, 16, 16, .rc, 0⟩
def VTC_RSCNT_LANEC (t : Nat) : Fld := ⟨0x2001001030 + t * 0x100, 32, 16, .rc, 0⟩
def VTC_RSCNT_SUBS (t : Nat) : Fld := ⟨0x2001001030 + t * 0x100, 48, 8, .rc, 0⟩

-- VTC_MMCNTt (R130, spec/04_vital_triads.md)
def VTC_MMCNT_REQ (t : Nat) : Fld := ⟨0x2001001038 + t * 0x100, 0, 16, .rc, 0⟩
def VTC_MMCNT_SIG (t : Nat) : Fld := ⟨0x2001001038 + t * 0x100, 16, 16, .rc, 0⟩
def VTC_MMCNT_L1 (t : Nat) : Fld := ⟨0x2001001038 + t * 0x100, 32, 16, .rc, 0⟩
def VTC_MMCNT_SXF (t : Nat) : Fld := ⟨0x2001001038 + t * 0x100, 48, 16, .rc, 0⟩

-- VTC_LASTMMt (R130, spec/04_vital_triads.md)
def VTC_LASTMM_CLASS (t : Nat) : Fld := ⟨0x2001001040 + t * 0x100, 0, 4, .ro, 0⟩
def VTC_LASTMM_LANE (t : Nat) : Fld := ⟨0x2001001040 + t * 0x100, 4, 2, .ro, 0⟩
def VTC_LASTMM_PCORE (t : Nat) : Fld := ⟨0x2001001040 + t * 0x100, 6, 4, .ro, 0⟩
def VTC_LASTMM_RTYPE (t : Nat) : Fld := ⟨0x2001001040 + t * 0x100, 10, 4, .ro, 0⟩
def VTC_LASTMM_ADDR (t : Nat) : Fld := ⟨0x2001001040 + t * 0x100, 16, 40, .ro, 0⟩

-- VTC_LASTRTt (R130, spec/04_vital_triads.md)
def VTC_LASTRT_RETIRE (t : Nat) : Fld := ⟨0x2001001048 + t * 0x100, 0, 64, .ro, 0⟩

-- VTC_DBGt (R130, spec/04_vital_triads.md)
def VTC_DBG_MODE (t : Nat) : Fld := ⟨0x2001001050 + t * 0x100, 0, 2, .ro, 0⟩
def VTC_DBG_SPLIT (t : Nat) : Fld := ⟨0x2001001050 + t * 0x100, 2, 1, .w1c, 0⟩

-- VTC_VRGNk (R130, spec/04_vital_triads.md)
def VTC_VRGN_V (k : Nat) : Fld := ⟨0x2001002000 + k * 0x8, 0, 1, .rw, 0⟩
def VTC_VRGN_SVCRD (k : Nat) : Fld := ⟨0x2001002000 + k * 0x8, 1, 1, .rw, 0⟩
def VTC_VRGN_OWN (k : Nat) : Fld := ⟨0x2001002000 + k * 0x8, 4, 4, .rw, 0⟩
def VTC_VRGN_BASE (k : Nat) : Fld := ⟨0x2001002000 + k * 0x8, 21, 19, .rw, 0⟩
def VTC_VRGN_SIZE (k : Nat) : Fld := ⟨0x2001002000 + k * 0x8, 48, 16, .rw, 0⟩

-- VTC_SXCTL (R131, spec/04_vital_triads.md)
def VTC_SXCTL_INJMS (t : Nat) : Fld := ⟨0x2001810000 + t * 0x1000, 0, 10, .rwl, 100⟩

-- VTC_SXSTAT (R131, spec/04_vital_triads.md)
def VTC_SXSTAT_SXFLT (t : Nat) : Fld := ⟨0x2001810008 + t * 0x1000, 0, 1, .ro, 0⟩
def VTC_SXSTAT_CHKON (t : Nat) : Fld := ⟨0x2001810008 + t * 0x1000, 1, 1, .ro, 0⟩
def VTC_SXSTAT_LASTPT (t : Nat) : Fld := ⟨0x2001810008 + t * 0x1000, 2, 3, .ro, 0⟩

-- VTC_SXTCNT (R131, spec/04_vital_triads.md)
def VTC_SXTCNT_COUNT (t : Nat) : Fld := ⟨0x2001810010 + t * 0x1000, 0, 32, .rc, 0⟩

-- VTC_SXLAST (R131, spec/04_vital_triads.md)
def VTC_SXLAST_POINT (t : Nat) : Fld := ⟨0x2001810018 + t * 0x1000, 0, 3, .ro, 0⟩
def VTC_SXLAST_EXPECT (t : Nat) : Fld := ⟨0x2001810018 + t * 0x1000, 3, 2, .ro, 0⟩
def VTC_SXLAST_FLAGGED (t : Nat) : Fld := ⟨0x2001810018 + t * 0x1000, 5, 2, .ro, 0⟩

-- VTC_SXCFG (R131, spec/04_vital_triads.md)
def VTC_SXCFG_DLYA (t : Nat) : Fld := ⟨0x2001810020 + t * 0x1000, 0, 4, .ro, 4⟩
def VTC_SXCFG_DLYB (t : Nat) : Fld := ⟨0x2001810020 + t * 0x1000, 4, 4, .ro, 2⟩
def VTC_SXCFG_STAG (t : Nat) : Fld := ⟨0x2001810020 + t * 0x1000, 8, 4, .ro, 2⟩
def VTC_SXCFG_REL (t : Nat) : Fld := ⟨0x2001810020 + t * 0x1000, 12, 4, .ro, 1⟩

-- MER_STAT (R181, spec/06_meridian_time.md)
def MER_STAT_STATE : Fld := ⟨0x2004000000, 0, 2, .ro, 0⟩
def MER_STAT_SRC : Fld := ⟨0x2004000000, 2, 2, .ro, 0⟩
def MER_STAT_EVSYNC : Fld := ⟨0x2004000000, 4, 1, .ro, 0⟩
def MER_STAT_SLEW : Fld := ⟨0x2004000000, 5, 1, .ro, 0⟩
def MER_STAT_QUAL : Fld := ⟨0x2004000000, 8, 3, .ro, 0⟩
def MER_STAT_DRLEFT : Fld := ⟨0x2004000000, 16, 12, .ro, 0⟩

-- MER_CTRL (R181, spec/06_meridian_time.md)
def MER_CTRL_DRLIM : Fld := ⟨0x2004000008, 0, 12, .rwl, 120⟩
def MER_CTRL_SLEWMAX : Fld := ⟨0x2004000008, 16, 16, .rwl, 10⟩
def MER_CTRL_SRC0 : Fld := ⟨0x2004000008, 32, 4, .rwl, 1⟩
def MER_CTRL_SRC1 : Fld := ⟨0x2004000008, 36, 4, .rwl, 2⟩
def MER_CTRL_SRC2 : Fld := ⟨0x2004000008, 40, 4, .rwl, 3⟩

-- MER_NOW0 (R181, spec/06_meridian_time.md)
def MER_NOW0_NS : Fld := ⟨0x2004000010, 0, 30, .ro, 0⟩
def MER_NOW0_STATE : Fld := ⟨0x2004000010, 30, 2, .ro, 0⟩
def MER_NOW0_SECLO : Fld := ⟨0x2004000010, 32, 32, .ro, 0⟩

-- MER_NOW1 (R181, spec/06_meridian_time.md)
def MER_NOW1_SECHI : Fld := ⟨0x2004000018, 0, 16, .ro, 0⟩
def MER_NOW1_PCC : Fld := ⟨0x2004000018, 16, 16, .ro, 0⟩
def MER_NOW1_FRAC : Fld := ⟨0x2004000018, 32, 16, .ro, 0⟩

-- MER_FREECNT (R181, spec/06_meridian_time.md)
def MER_FREECNT_COUNT : Fld := ⟨0x2004000020, 0, 64, .ro, 0⟩

-- MER_RATE (R181, spec/06_meridian_time.md)
def MER_RATE_RATE : Fld := ⟨0x2004000028, 0, 32, .ro, 0⟩

-- MER_STEP (R181, spec/06_meridian_time.md)
def MER_STEP_NS : Fld := ⟨0x2004000030, 0, 30, .wo, 0⟩
def MER_STEP_SEC : Fld := ⟨0x2004000030, 32, 31, .wo, 0⟩
def MER_STEP_NEG : Fld := ⟨0x2004000030, 63, 1, .wo, 0⟩

-- MER_LASTSTEP (R181, spec/06_meridian_time.md)
def MER_LASTSTEP_NS : Fld := ⟨0x2004000038, 0, 30, .ro, 0⟩
def MER_LASTSTEP_CAUSE : Fld := ⟨0x2004000038, 30, 2, .ro, 0⟩
def MER_LASTSTEP_SEC : Fld := ⟨0x2004000038, 32, 31, .ro, 0⟩
def MER_LASTSTEP_NEG : Fld := ⟨0x2004000038, 63, 1, .ro, 0⟩

-- MER_STEPCNT (R181, spec/06_meridian_time.md)
def MER_STEPCNT_COUNT : Fld := ⟨0x2004000040, 0, 32, .ro, 0⟩

-- MER_PCC (R181, spec/06_meridian_time.md)
def MER_PCC_COUNT : Fld := ⟨0x2004000048, 0, 16, .ro, 0⟩
def MER_PCC_INVALID : Fld := ⟨0x2004000048, 16, 1, .ro, 0⟩
def MER_PCC_SAT : Fld := ⟨0x2004000048, 17, 1, .ro, 0⟩

-- MER_IRQ (R181, spec/06_meridian_time.md)
def MER_IRQ_EIID : Fld := ⟨0x2004000050, 0, 8, .rw, 0⟩
def MER_IRQ_HART : Fld := ⟨0x2004000050, 8, 5, .rw, 0⟩
def MER_IRQ_LEVEL : Fld := ⟨0x2004000050, 16, 2, .rw, 0⟩
def MER_IRQ_GUEST : Fld := ⟨0x2004000050, 20, 3, .rw, 0⟩

-- MER_EVT (R181, spec/06_meridian_time.md)
def MER_EVT_STCHG : Fld := ⟨0x2004000058, 0, 1, .w1c, 0⟩
def MER_EVT_STEP : Fld := ⟨0x2004000058, 1, 1, .w1c, 0⟩
def MER_EVT_STEPREF : Fld := ⟨0x2004000058, 2, 1, .w1c, 0⟩
def MER_EVT_CLAMP : Fld := ⟨0x2004000058, 3, 1, .w1c, 0⟩

-- MER_CYCPOS (R181, spec/06_meridian_time.md)
def MER_CYCPOS_OFFSET : Fld := ⟨0x2004000060, 0, 27, .ro, 0⟩
def MER_CYCPOS_CYCLES : Fld := ⟨0x2004000060, 32, 32, .ro, 0⟩

-- MER_CPCNT (R181, spec/06_meridian_time.md)
def MER_CPCNT_LATE : Fld := ⟨0x2004000068, 0, 16, .rc, 0⟩
def MER_CPCNT_SKIP : Fld := ⟨0x2004000068, 16, 16, .rc, 0⟩

-- MER_CPk (R181, spec/06_meridian_time.md)
def MER_CP_OFFSET (k : Nat) : Fld := ⟨0x2004000100 + k * 0x8, 0, 27, .rwl, 0⟩
def MER_CP_EN (k : Nat) : Fld := ⟨0x2004000100 + k * 0x8, 27, 1, .rwl, 0⟩
def MER_CP_EIID (k : Nat) : Fld := ⟨0x2004000100 + k * 0x8, 32, 8, .rwl, 0⟩
def MER_CP_HART (k : Nat) : Fld := ⟨0x2004000100 + k * 0x8, 40, 5, .rwl, 0⟩
def MER_CP_LEVEL (k : Nat) : Fld := ⟨0x2004000100 + k * 0x8, 48, 2, .rwl, 0⟩
def MER_CP_GUEST (k : Nat) : Fld := ⟨0x2004000100 + k * 0x8, 52, 3, .rwl, 0⟩

-- MER_ALMTk (R181, spec/06_meridian_time.md)
def MER_ALMT_NS (k : Nat) : Fld := ⟨0x2004000200 + k * 0x10, 0, 30, .rw, 0⟩
def MER_ALMT_SECLO (k : Nat) : Fld := ⟨0x2004000200 + k * 0x10, 32, 32, .rw, 0⟩

-- MER_ALMCk (R181, spec/06_meridian_time.md)
def MER_ALMC_SECHI (k : Nat) : Fld := ⟨0x2004000208 + k * 0x10, 0, 16, .rw, 0⟩
def MER_ALMC_ARM (k : Nat) : Fld := ⟨0x2004000208 + k * 0x10, 16, 1, .rw, 0⟩
def MER_ALMC_FIRED (k : Nat) : Fld := ⟨0x2004000208 + k * 0x10, 17, 1, .w1c, 0⟩
def MER_ALMC_LATE (k : Nat) : Fld := ⟨0x2004000208 + k * 0x10, 18, 1, .w1c, 0⟩
def MER_ALMC_EIID (k : Nat) : Fld := ⟨0x2004000208 + k * 0x10, 24, 8, .rw, 0⟩
def MER_ALMC_HART (k : Nat) : Fld := ⟨0x2004000208 + k * 0x10, 32, 5, .rw, 0⟩
def MER_ALMC_LEVEL (k : Nat) : Fld := ⟨0x2004000208 + k * 0x10, 40, 2, .rw, 0⟩
def MER_ALMC_GUEST (k : Nat) : Fld := ⟨0x2004000208 + k * 0x10, 44, 3, .rw, 0⟩

-- RHL_CTRL (R217, spec/07_rhumbline.md)
def RHL_CTRL_EN : Fld := ⟨0x2005000000, 0, 1, .rw, 0⟩
def RHL_CTRL_CHAN : Fld := ⟨0x2005000000, 1, 1, .rws, 0⟩
def RHL_CTRL_CSCAP : Fld := ⟨0x2005000000, 2, 1, .rws, 0⟩
def RHL_CTRL_CSDLY : Fld := ⟨0x2005000000, 16, 16, .rwl, 0⟩
def RHL_CTRL_PACKLEAD : Fld := ⟨0x2005000000, 48, 16, .rwl, 10⟩

-- RHL_STAT (R217, spec/07_rhumbline.md)
def RHL_STAT_STATE : Fld := ⟨0x2005000008, 0, 3, .ro, 0⟩
def RHL_STAT_ACTIVE : Fld := ⟨0x2005000008, 3, 1, .ro, 0⟩
def RHL_STAT_PARTNER : Fld := ⟨0x2005000008, 4, 1, .ro, 0⟩
def RHL_STAT_NSYNC : Fld := ⟨0x2005000008, 8, 4, .ro, 0⟩
def RHL_STAT_CYCLEN : Fld := ⟨0x2005000008, 16, 16, .ro, 0⟩
def RHL_STAT_CYCLE : Fld := ⟨0x2005000008, 32, 32, .ro, 0⟩

-- RHL_SYNCCTL (R217, spec/07_rhumbline.md)
def RHL_SYNCCTL_K : Fld := ⟨0x2005000010, 0, 2, .rwl, 1⟩
def RHL_SYNCCTL_MINSYNC : Fld := ⟨0x2005000010, 4, 4, .rwl, 2⟩
def RHL_SYNCCTL_SYNCLOSS : Fld := ⟨0x2005000010, 8, 8, .rwl, 8⟩
def RHL_SYNCCTL_OFFLIM : Fld := ⟨0x2005000010, 16, 16, .rwl, 1000⟩

-- RHL_OFFS (R217, spec/07_rhumbline.md)
def RHL_OFFS_CORR : Fld := ⟨0x2005000018, 0, 32, .ro, 0⟩
def RHL_OFFS_RATEREQ : Fld := ⟨0x2005000018, 32, 32, .ro, 0⟩

-- RHL_SCHLOAD (R217, spec/07_rhumbline.md)
def RHL_SCHLOAD_SRC : Fld := ⟨0x2005000020, 0, 40, .rw, 0⟩
def RHL_SCHLOAD_BUF : Fld := ⟨0x2005000020, 40, 1, .rw, 0⟩
def RHL_SCHLOAD_GO : Fld := ⟨0x2005000020, 41, 1, .w1s, 0⟩

-- RHL_SCHSTAT (R217, spec/07_rhumbline.md)
def RHL_SCHSTAT_ACTIVE : Fld := ⟨0x2005000028, 0, 1, .ro, 0⟩
def RHL_SCHSTAT_SHREADY : Fld := ⟨0x2005000028, 1, 1, .ro, 0⟩
def RHL_SCHSTAT_BUSY : Fld := ⟨0x2005000028, 2, 1, .ro, 0⟩
def RHL_SCHSTAT_ERR : Fld := ⟨0x2005000028, 8, 4, .ro, 0⟩
def RHL_SCHSTAT_ERRIDX : Fld := ⟨0x2005000028, 16, 16, .ro, 0⟩
def RHL_SCHSTAT_SHCYCLEN : Fld := ⟨0x2005000028, 32, 16, .ro, 0⟩
def RHL_SCHSTAT_SHENTRIES : Fld := ⟨0x2005000028, 48, 16, .ro, 0⟩

-- RHL_SCHSW (R217, spec/07_rhumbline.md)
def RHL_SCHSW_CYC : Fld := ⟨0x2005000030, 0, 32, .rw, 0⟩
def RHL_SCHSW_ARM : Fld := ⟨0x2005000030, 32, 1, .w1s, 0⟩
def RHL_SCHSW_PEND : Fld := ⟨0x2005000030, 33, 1, .ro, 0⟩

-- RHL_STATBASE (R217, spec/07_rhumbline.md)
def RHL_STATBASE_BASE : Fld := ⟨0x2005000038, 0, 40, .rws, 0⟩

-- RHL_EVT (R217, spec/07_rhumbline.md)
def RHL_EVT_STCHG : Fld := ⟨0x2005000040, 0, 1, .w1c, 0⟩
def RHL_EVT_CONTAIN : Fld := ⟨0x2005000040, 1, 1, .w1c, 0⟩
def RHL_EVT_CSRES : Fld := ⟨0x2005000040, 2, 1, .w1c, 0⟩
def RHL_EVT_LOADDONE : Fld := ⟨0x2005000040, 3, 1, .w1c, 0⟩
def RHL_EVT_LOADERR : Fld := ⟨0x2005000040, 4, 1, .w1c, 0⟩
def RHL_EVT_SWDONE : Fld := ⟨0x2005000040, 5, 1, .w1c, 0⟩
def RHL_EVT_SWREF : Fld := ⟨0x2005000040, 6, 1, .w1c, 0⟩
def RHL_EVT_NOSCHED : Fld := ⟨0x2005000040, 7, 1, .w1c, 0⟩
def RHL_EVT_SPLIT : Fld := ⟨0x2005000040, 8, 1, .w1c, 0⟩

-- RHL_IRQ (R217, spec/07_rhumbline.md)
def RHL_IRQ_EIID : Fld := ⟨0x2005000048, 0, 8, .rw, 0⟩
def RHL_IRQ_HART : Fld := ⟨0x2005000048, 8, 5, .rw, 0⟩
def RHL_IRQ_LEVEL : Fld := ⟨0x2005000048, 16, 2, .rw, 0⟩
def RHL_IRQ_GUEST : Fld := ⟨0x2005000048, 20, 3, .rw, 0⟩

-- RHL_NEPOCH (R217, spec/07_rhumbline.md)
def RHL_NEPOCH_EPOCH : Fld := ⟨0x2005000050, 0, 16, .ro, 1⟩

-- RHL_CSRES (R217, spec/07_rhumbline.md)
def RHL_CSRES_WINNER : Fld := ⟨0x2005000058, 0, 5, .ro, 0⟩
def RHL_CSRES_LOSERS : Fld := ⟨0x2005000058, 8, 18, .ro, 0⟩
def RHL_CSRES_DELTA : Fld := ⟨0x2005000058, 32, 32, .ro, 0⟩

-- RHL_NOBUF (R217, spec/07_rhumbline.md)
def RHL_NOBUF_COUNT : Fld := ⟨0x2005000060, 0, 32, .rc, 0⟩

-- RHL_DEVk (R217, spec/07_rhumbline.md)
def RHL_DEV_DEV (k : Nat) : Fld := ⟨0x2005000100 + k * 0x8, 0, 32, .ro, 0⟩
def RHL_DEV_ENTRY (k : Nat) : Fld := ⟨0x2005000100 + k * 0x8, 32, 15, .ro, 0⟩
def RHL_DEV_VALID (k : Nat) : Fld := ⟨0x2005000100 + k * 0x8, 48, 1, .ro, 0⟩
def RHL_DEV_USED (k : Nat) : Fld := ⟨0x2005000100 + k * 0x8, 49, 1, .ro, 0⟩

-- RHL_PCTRL (R218, spec/07_rhumbline.md)
def RHL_PCTRL_EN (n : Nat) : Fld := ⟨0x2005010000 + n * 0x1000, 0, 1, .rw, 0⟩
def RHL_PCTRL_FORCE (n : Nat) : Fld := ⟨0x2005010000 + n * 0x1000, 1, 1, .w1s, 0⟩
def RHL_PCTRL_RELEASE (n : Nat) : Fld := ⟨0x2005010000 + n * 0x1000, 2, 1, .w1s, 0⟩
def RHL_PCTRL_THRESH (n : Nat) : Fld := ⟨0x2005010000 + n * 0x1000, 8, 4, .rwl, 8⟩
def RHL_PCTRL_CONTAIN (n : Nat) : Fld := ⟨0x2005010000 + n * 0x1000, 16, 16, .rwl, 1024⟩

-- RHL_PSTAT (R218, spec/07_rhumbline.md)
def RHL_PSTAT_LINK (n : Nat) : Fld := ⟨0x2005010008 + n * 0x1000, 0, 1, .ro, if n = 16 then 1 else 0⟩
def RHL_PSTAT_STATE (n : Nat) : Fld := ⟨0x2005010008 + n * 0x1000, 1, 2, .ro, 0⟩
def RHL_PSTAT_VIOL (n : Nat) : Fld := ⟨0x2005010008 + n * 0x1000, 8, 5, .ro, 0⟩
def RHL_PSTAT_REMAIN (n : Nat) : Fld := ⟨0x2005010008 + n * 0x1000, 16, 16, .ro, 0⟩

-- RHL_PCNT0 (R218, spec/07_rhumbline.md)
def RHL_PCNT0_FWD (n : Nat) : Fld := ⟨0x2005010010 + n * 0x1000, 0, 32, .rc, 0⟩
def RHL_PCNT0_DISC (n : Nat) : Fld := ⟨0x2005010010 + n * 0x1000, 32, 32, .rc, 0⟩

-- RHL_PCNT1 (R218, spec/07_rhumbline.md)
def RHL_PCNT1_CUT (n : Nat) : Fld := ⟨0x2005010018 + n * 0x1000, 0, 16, .rc, 0⟩
def RHL_PCNT1_FCSERR (n : Nat) : Fld := ⟨0x2005010018 + n * 0x1000, 16, 16, .rc, 0⟩
def RHL_PCNT1_CONT (n : Nat) : Fld := ⟨0x2005010018 + n * 0x1000, 32, 16, .rc, 0⟩
def RHL_PCNT1_CSLOST (n : Nat) : Fld := ⟨0x2005010018 + n * 0x1000, 48, 16, .rc, 0⟩

-- RHL_PLAST (R218, spec/07_rhumbline.md)
def RHL_PLAST_KIND (n : Nat) : Fld := ⟨0x2005010020 + n * 0x1000, 0, 4, .ro, 0⟩
def RHL_PLAST_FRAMEID (n : Nat) : Fld := ⟨0x2005010020 + n * 0x1000, 4, 16, .ro, 0⟩
def RHL_PLAST_DEV (n : Nat) : Fld := ⟨0x2005010020 + n * 0x1000, 32, 32, .ro, 0⟩

-- CHT_CTRL (R257, spec/08_chart_process_image.md)
def CHT_CTRL_EN : Fld := ⟨0x2006000000, 0, 1, .rw, 0⟩
def CHT_CTRL_SWEEPEN : Fld := ⟨0x2006000000, 1, 1, .rwl, 0⟩
def CHT_CTRL_SEQWIN : Fld := ⟨0x2006000000, 8, 7, .rwl, 127⟩

-- CHT_STAT (R257, spec/08_chart_process_image.md)
def CHT_STAT_LOAD : Fld := ⟨0x2006000008, 0, 8, .ro, 0⟩
def CHT_STAT_STANDBY : Fld := ⟨0x2006000008, 8, 1, .ro, 0⟩
def CHT_STAT_PINMAPS : Fld := ⟨0x2006000008, 16, 16, .ro, 0⟩
def CHT_STAT_PINELEM : Fld := ⟨0x2006000008, 32, 32, .ro, 0⟩

-- CHT_MAPBASE (R257, spec/08_chart_process_image.md)
def CHT_MAPBASE_BASE : Fld := ⟨0x2006000010, 0, 40, .rws, 0⟩

-- CHT_WATCHBASE (R257, spec/08_chart_process_image.md)
def CHT_WATCHBASE_BASE : Fld := ⟨0x2006000018, 0, 40, .rws, 0⟩

-- CHT_WATCHCNT (R257, spec/08_chart_process_image.md)
def CHT_WATCHCNT_COUNT : Fld := ⟨0x2006000020, 0, 21, .rwl, 0⟩

-- CHT_EVBASE (R257, spec/08_chart_process_image.md)
def CHT_EVBASE_BASE : Fld := ⟨0x2006000028, 0, 40, .rws, 0⟩

-- CHT_EVSIZE (R257, spec/08_chart_process_image.md)
def CHT_EVSIZE_RECORDS : Fld := ⟨0x2006000030, 0, 21, .rws, 1024⟩

-- CHT_EVPROD (R257, spec/08_chart_process_image.md)
def CHT_EVPROD_INDEX : Fld := ⟨0x2006000038, 0, 32, .ro, 0⟩

-- CHT_EVCONS (R257, spec/08_chart_process_image.md)
def CHT_EVCONS_INDEX : Fld := ⟨0x2006000040, 0, 32, .rw, 0⟩

-- CHT_IRQ (R257, spec/08_chart_process_image.md)
def CHT_IRQ_EIID : Fld := ⟨0x2006000048, 0, 8, .rw, 0⟩
def CHT_IRQ_HART : Fld := ⟨0x2006000048, 8, 5, .rw, 0⟩
def CHT_IRQ_LEVEL : Fld := ⟨0x2006000048, 16, 2, .rw, 0⟩
def CHT_IRQ_GUEST : Fld := ⟨0x2006000048, 20, 3, .rw, 0⟩

-- CHT_EVT (R257, spec/08_chart_process_image.md)
def CHT_EVT_EVREC : Fld := ⟨0x2006000050, 0, 1, .w1c, 0⟩
def CHT_EVT_EVLOST : Fld := ⟨0x2006000050, 1, 1, .w1c, 0⟩
def CHT_EVT_OVERRUN : Fld := ⟨0x2006000050, 2, 1, .w1c, 0⟩
def CHT_EVT_SEALERR : Fld := ⟨0x2006000050, 3, 1, .w1c, 0⟩
def CHT_EVT_SWEEPLATE : Fld := ⟨0x2006000050, 4, 1, .w1c, 0⟩

-- CHT_CNT0 (R257, spec/08_chart_process_image.md)
def CHT_CNT0_WRITES : Fld := ⟨0x2006000058, 0, 48, .rc, 0⟩
def CHT_CNT0_NOMAP : Fld := ⟨0x2006000058, 48, 16, .rc, 0⟩

-- CHT_CNT1 (R257, spec/08_chart_process_image.md)
def CHT_CNT1_SEALERR : Fld := ⟨0x2006000060, 0, 16, .rc, 0⟩
def CHT_CNT1_SEQERR : Fld := ⟨0x2006000060, 16, 16, .rc, 0⟩
def CHT_CNT1_REPEAT : Fld := ⟨0x2006000060, 32, 16, .rc, 0⟩
def CHT_CNT1_OWNDROP : Fld := ⟨0x2006000060, 48, 16, .rc, 0⟩

-- CHT_CNT2 (R257, spec/08_chart_process_image.md)
def CHT_CNT2_OVERRUN : Fld := ⟨0x2006000068, 0, 16, .rc, 0⟩
def CHT_CNT2_SHORT : Fld := ⟨0x2006000068, 16, 16, .rc, 0⟩
def CHT_CNT2_EVLOST : Fld := ⟨0x2006000068, 32, 16, .rc, 0⟩
def CHT_CNT2_MIRSKIP : Fld := ⟨0x2006000068, 48, 16, .rc, 0⟩

-- CHT_SWEEP (R257, spec/08_chart_process_image.md)
def CHT_SWEEP_PASSES : Fld := ⟨0x2006000070, 0, 32, .ro, 0⟩
def CHT_SWEEP_LATE : Fld := ⟨0x2006000070, 32, 16, .ro, 0⟩

-- CHT_STALE (R257, spec/08_chart_process_image.md)
def CHT_STALE_COUNT : Fld := ⟨0x2006000078, 0, 32, .rc, 0⟩

-- CHT_FROZEN (R257, spec/08_chart_process_image.md)
def CHT_FROZEN_COUNT : Fld := ⟨0x2006000080, 0, 26, .ro, 0⟩

-- BKB_CTRL (R279, spec/09_backbone_and_tunnels.md)
def BKB_CTRL_EN : Fld := ⟨0x2007000000, 0, 1, .rw, 0⟩
def BKB_CTRL_MODE : Fld := ⟨0x2007000000, 1, 2, .rws, 0⟩
def BKB_CTRL_MAXFRM : Fld := ⟨0x2007000000, 16, 12, .rws, 1522⟩

-- BKB_STAT (R279, spec/09_backbone_and_tunnels.md)
def BKB_STAT_LINK : Fld := ⟨0x2007000008, 0, 4, .ro, 0⟩
def BKB_STAT_MODE : Fld := ⟨0x2007000008, 4, 2, .ro, 0⟩
def BKB_STAT_RINGOPEN : Fld := ⟨0x2007000008, 6, 1, .ro, 0⟩

-- BKB_MAC (R279, spec/09_backbone_and_tunnels.md)
def BKB_MAC_ADDR : Fld := ⟨0x2007000010, 0, 48, .ro, 0⟩

-- BKB_TOPO (R279, spec/09_backbone_and_tunnels.md)
def BKB_TOPO_TOPOCNT : Fld := ⟨0x2007000018, 0, 32, .ro, 0⟩
def BKB_TOPO_NODES : Fld := ⟨0x2007000018, 32, 10, .ro, 0⟩

-- BKB_REDCTL (R279, spec/09_backbone_and_tunnels.md)
def BKB_REDCTL_SVINT : Fld := ⟨0x2007000020, 0, 16, .rws, 2000⟩
def BKB_REDCTL_FORGET : Fld := ⟨0x2007000020, 16, 16, .rws, 400⟩
def BKB_REDCTL_SVLSB : Fld := ⟨0x2007000020, 32, 8, .rws, 0⟩

-- BKB_ASCTL (R279, spec/09_backbone_and_tunnels.md)
def BKB_ASCTL_ASEN : Fld := ⟨0x2007000028, 0, 1, .rwl, 0⟩
def BKB_ASCTL_GMCAP : Fld := ⟨0x2007000028, 1, 1, .rwl, 0⟩
def BKB_ASCTL_PORTS : Fld := ⟨0x2007000028, 2, 4, .rwl, 0⟩
def BKB_ASCTL_PRIO1 : Fld := ⟨0x2007000028, 8, 8, .rwl, 248⟩
def BKB_ASCTL_PRIO2 : Fld := ⟨0x2007000028, 16, 8, .rwl, 248⟩
def BKB_ASCTL_LOGSYNC : Fld := ⟨0x2007000028, 24, 4, .rwl, 13⟩
def BKB_ASCTL_QLIM : Fld := ⟨0x2007000028, 32, 16, .rwl, 1000⟩
def BKB_ASCTL_CLASS : Fld := ⟨0x2007000028, 48, 8, .rwl, 248⟩

-- BKB_ASSTAT (R279, spec/09_backbone_and_tunnels.md)
def BKB_ASSTAT_ROLE : Fld := ⟨0x2007000030, 0, 2, .ro, 0⟩
def BKB_ASSTAT_SPORT : Fld := ⟨0x2007000030, 2, 2, .ro, 0⟩
def BKB_ASSTAT_QUAL : Fld := ⟨0x2007000030, 4, 1, .ro, 0⟩
def BKB_ASSTAT_OFFSET : Fld := ⟨0x2007000030, 32, 32, .ro, 0⟩

-- BKB_IRQ (R279, spec/09_backbone_and_tunnels.md)
def BKB_IRQ_EIID : Fld := ⟨0x2007000038, 0, 8, .rw, 0⟩
def BKB_IRQ_HART : Fld := ⟨0x2007000038, 8, 5, .rw, 0⟩
def BKB_IRQ_LEVEL : Fld := ⟨0x2007000038, 16, 2, .rw, 0⟩
def BKB_IRQ_GUEST : Fld := ⟨0x2007000038, 20, 3, .rw, 0⟩

-- BKB_EVT (R279, spec/09_backbone_and_tunnels.md)
def BKB_EVT_LINKCHG : Fld := ⟨0x2007000040, 0, 1, .w1c, 0⟩
def BKB_EVT_RINGOPEN : Fld := ⟨0x2007000040, 1, 1, .w1c, 0⟩
def BKB_EVT_ASQUAL : Fld := ⟨0x2007000040, 2, 1, .w1c, 0⟩
def BKB_EVT_ASLOST : Fld := ⟨0x2007000040, 3, 1, .w1c, 0⟩
def BKB_EVT_NODECHG : Fld := ⟨0x2007000040, 4, 1, .w1c, 0⟩

-- BKB_STALE (R279, spec/09_backbone_and_tunnels.md)
def BKB_STALE_COUNT : Fld := ⟨0x2007000048, 0, 32, .rc, 0⟩

-- BKB_NOBUF (R279, spec/09_backbone_and_tunnels.md)
def BKB_NOBUF_COUNT : Fld := ⟨0x2007000050, 0, 32, .rc, 0⟩

-- BKB_VLANv (R279, spec/09_backbone_and_tunnels.md)
def BKB_VLAN_V (v : Nat) : Fld := ⟨0x2007000100 + v * 0x8, 0, 1, .rwl, 0⟩
def BKB_VLAN_LINE (v : Nat) : Fld := ⟨0x2007000100 + v * 0x8, 1, 1, .rwl, 0⟩
def BKB_VLAN_VID (v : Nat) : Fld := ⟨0x2007000100 + v * 0x8, 4, 12, .rwl, 0⟩
def BKB_VLAN_MEMBERS (v : Nat) : Fld := ⟨0x2007000100 + v * 0x8, 16, 5, .rwl, 0⟩
def BKB_VLAN_UNTAG (v : Nat) : Fld := ⟨0x2007000100 + v * 0x8, 24, 5, .rwl, 0⟩

-- BKB_FCf_0 (R279, spec/09_backbone_and_tunnels.md)
def BKB_FC_0_EN (f : Nat) : Fld := ⟨0x2007004000 + f * 0x20, 0, 1, .rw, 0⟩
def BKB_FC_0_KIND (f : Nat) : Fld := ⟨0x2007004000 + f * 0x20, 1, 3, .rws, 0⟩
def BKB_FC_0_OWNCLS (f : Nat) : Fld := ⟨0x2007004000 + f * 0x20, 4, 3, .rws, 0⟩
def BKB_FC_0_BUMP (f : Nat) : Fld := ⟨0x2007004000 + f * 0x20, 7, 1, .w1s, 0⟩
def BKB_FC_0_EPOCH (f : Nat) : Fld := ⟨0x2007004000 + f * 0x20, 16, 16, .ro, 1⟩
def BKB_FC_0_ETYPE (f : Nat) : Fld := ⟨0x2007004000 + f * 0x20, 32, 16, .rws, 0⟩
def BKB_FC_0_VID (f : Nat) : Fld := ⟨0x2007004000 + f * 0x20, 48, 12, .rws, 0⟩
def BKB_FC_0_PCP (f : Nat) : Fld := ⟨0x2007004000 + f * 0x20, 60, 3, .rws, 0⟩

-- BKB_FCf_1 (R279, spec/09_backbone_and_tunnels.md)
def BKB_FC_1_MAC (f : Nat) : Fld := ⟨0x2007004008 + f * 0x20, 0, 48, .rws, 0⟩
def BKB_FC_1_ID (f : Nat) : Fld := ⟨0x2007004008 + f * 0x20, 48, 16, .rws, 0⟩

-- BKB_FCf_2 (R279, spec/09_backbone_and_tunnels.md)
def BKB_FC_2_B0 (f : Nat) : Fld := ⟨0x2007004010 + f * 0x20, 0, 1, .rws, 0⟩
def BKB_FC_2_B1 (f : Nat) : Fld := ⟨0x2007004010 + f * 0x20, 1, 3, .rws, 0⟩
def BKB_FC_2_B4 (f : Nat) : Fld := ⟨0x2007004010 + f * 0x20, 4, 12, .rws, 0⟩
def BKB_FC_2_B16 (f : Nat) : Fld := ⟨0x2007004010 + f * 0x20, 16, 11, .rws, 0⟩
def BKB_FC_2_B27 (f : Nat) : Fld := ⟨0x2007004010 + f * 0x20, 27, 4, .rws, 0⟩
def BKB_FC_2_B31 (f : Nat) : Fld := ⟨0x2007004010 + f * 0x20, 31, 1, .rws, 0⟩
def BKB_FC_2_SSRC (f : Nat) : Fld := ⟨0x2007004010 + f * 0x20, 32, 16, .rws, 0⟩

-- BKB_FCf_3 (R279, spec/09_backbone_and_tunnels.md)
def BKB_FC_3_LASTSEQ (f : Nat) : Fld := ⟨0x2007004018 + f * 0x20, 0, 32, .ro, 0⟩
def BKB_FC_3_LASTEPOCH (f : Nat) : Fld := ⟨0x2007004018 + f * 0x20, 32, 16, .ro, 0⟩
def BKB_FC_3_FIRST (f : Nat) : Fld := ⟨0x2007004018 + f * 0x20, 48, 1, .ro, 1⟩

-- BKB_FCCNT0f (R279, spec/09_backbone_and_tunnels.md)
def BKB_FCCNT0_FRAMES (f : Nat) : Fld := ⟨0x2007006000 + f * 0x10, 0, 32, .rc, 0⟩
def BKB_FCCNT0_GAP (f : Nat) : Fld := ⟨0x2007006000 + f * 0x10, 32, 16, .rc, 0⟩
def BKB_FCCNT0_OLD (f : Nat) : Fld := ⟨0x2007006000 + f * 0x10, 48, 16, .rc, 0⟩

-- BKB_FCCNT1f (R279, spec/09_backbone_and_tunnels.md)
def BKB_FCCNT1_STALE (f : Nat) : Fld := ⟨0x2007006008 + f * 0x10, 0, 16, .rc, 0⟩
def BKB_FCCNT1_OVERWR (f : Nat) : Fld := ⟨0x2007006008 + f * 0x10, 16, 16, .rc, 0⟩
def BKB_FCCNT1_TOOLONG (f : Nat) : Fld := ⟨0x2007006008 + f * 0x10, 32, 16, .rc, 0⟩
def BKB_FCCNT1_FULL (f : Nat) : Fld := ⟨0x2007006008 + f * 0x10, 48, 16, .rc, 0⟩

-- BKB_PCTRL (R280, spec/09_backbone_and_tunnels.md)
def BKB_PCTRL_EN (n : Nat) : Fld := ⟨0x2007010000 + n * 0x1000, 0, 1, .rw, 0⟩
def BKB_PCTRL_MASTER (n : Nat) : Fld := ⟨0x2007010000 + n * 0x1000, 1, 1, .rws, 0⟩
def BKB_PCTRL_PVID (n : Nat) : Fld := ⟨0x2007010000 + n * 0x1000, 4, 12, .rws, 1⟩
def BKB_PCTRL_PPCP (n : Nat) : Fld := ⟨0x2007010000 + n * 0x1000, 16, 3, .rws, 0⟩

-- BKB_PSTAT (R280, spec/09_backbone_and_tunnels.md)
def BKB_PSTAT_LINK (n : Nat) : Fld := ⟨0x2007010008 + n * 0x1000, 0, 1, .ro, 0⟩
def BKB_PSTAT_RED (n : Nat) : Fld := ⟨0x2007010008 + n * 0x1000, 1, 2, .ro, 0⟩

-- BKB_PCNT0 (R280, spec/09_backbone_and_tunnels.md)
def BKB_PCNT0_RXFRM (n : Nat) : Fld := ⟨0x2007010010 + n * 0x1000, 0, 32, .rc, 0⟩
def BKB_PCNT0_TXFRM (n : Nat) : Fld := ⟨0x2007010010 + n * 0x1000, 32, 32, .rc, 0⟩

-- BKB_PCNT1 (R280, spec/09_backbone_and_tunnels.md)
def BKB_PCNT1_FCSERR (n : Nat) : Fld := ⟨0x2007010018 + n * 0x1000, 0, 16, .rc, 0⟩
def BKB_PCNT1_DUPDISC (n : Nat) : Fld := ⟨0x2007010018 + n * 0x1000, 16, 16, .rc, 0⟩
def BKB_PCNT1_GATEDROP (n : Nat) : Fld := ⟨0x2007010018 + n * 0x1000, 32, 16, .rc, 0⟩
def BKB_PCNT1_QDROP (n : Nat) : Fld := ⟨0x2007010018 + n * 0x1000, 48, 16, .rc, 0⟩

-- BKB_PCNT2 (R280, spec/09_backbone_and_tunnels.md)
def BKB_PCNT2_LINKCHG (n : Nat) : Fld := ⟨0x2007010020 + n * 0x1000, 0, 16, .rc, 0⟩
def BKB_PCNT2_TOOLONG (n : Nat) : Fld := ⟨0x2007010020 + n * 0x1000, 16, 16, .rc, 0⟩

-- BKB_GCLCTL (R280, spec/09_backbone_and_tunnels.md)
def BKB_GCLCTL_SEL (n : Nat) : Fld := ⟨0x2007010028 + n * 0x1000, 0, 1, .rwl, 0⟩
def BKB_GCLCTL_ACTIVE (n : Nat) : Fld := ⟨0x2007010028 + n * 0x1000, 1, 1, .ro, 0⟩
def BKB_GCLCTL_ORDERR (n : Nat) : Fld := ⟨0x2007010028 + n * 0x1000, 2, 1, .w1c, 0⟩
def BKB_GCLCTL_ACTWR (n : Nat) : Fld := ⟨0x2007010028 + n * 0x1000, 3, 1, .w1c, 0⟩
def BKB_GCLCTL_CNT0 (n : Nat) : Fld := ⟨0x2007010028 + n * 0x1000, 8, 8, .rw, 0⟩
def BKB_GCLCTL_CNT1 (n : Nat) : Fld := ⟨0x2007010028 + n * 0x1000, 16, 8, .rw, 0⟩

-- BKB_GCLb_k (R280, spec/09_backbone_and_tunnels.md)
def BKB_GCL_OFFSET (n b k : Nat) : Fld := ⟨0x2007010400 + n * 0x1000 + b * 0x400 + k * 0x8, 0, 27, .rw, 0⟩
def BKB_GCL_GATES (n b k : Nat) : Fld := ⟨0x2007010400 + n * 0x1000 + b * 0x400 + k * 0x8, 32, 8, .rw, 0⟩

-- MDB_CCTRL (R299, spec/10_multidrop_buses.md)
def MDB_CCTRL_EN (n : Nat) : Fld := ⟨0x2008010000 + n * 0x1000, 0, 1, .rw, 0⟩
def MDB_CCTRL_MODE (n : Nat) : Fld := ⟨0x2008010000 + n * 0x1000, 1, 2, .rws, 0⟩
def MDB_CCTRL_FDEN (n : Nat) : Fld := ⟨0x2008010000 + n * 0x1000, 3, 1, .rws, 0⟩
def MDB_CCTRL_XLEN (n : Nat) : Fld := ⟨0x2008010000 + n * 0x1000, 4, 1, .rws, 0⟩
def MDB_CCTRL_TERM (n : Nat) : Fld := ⟨0x2008010000 + n * 0x1000, 5, 1, .rws, 0⟩
def MDB_CCTRL_BOAUTO (n : Nat) : Fld := ⟨0x2008010000 + n * 0x1000, 6, 1, .rw, 1⟩
def MDB_CCTRL_RECOVER (n : Nat) : Fld := ⟨0x2008010000 + n * 0x1000, 7, 1, .w1s, 0⟩
def MDB_CCTRL_DEFRETRY (n : Nat) : Fld := ⟨0x2008010000 + n * 0x1000, 8, 4, .rwl, 8⟩
def MDB_CCTRL_NOMATCH (n : Nat) : Fld := ⟨0x2008010000 + n * 0x1000, 12, 1, .rwl, 1⟩

-- MDB_NBT (R299, spec/10_multidrop_buses.md)
def MDB_NBT_BRP (n : Nat) : Fld := ⟨0x2008010008 + n * 0x1000, 0, 8, .rws, 1⟩
def MDB_NBT_TSEG1 (n : Nat) : Fld := ⟨0x2008010008 + n * 0x1000, 8, 8, .rws, 127⟩
def MDB_NBT_TSEG2 (n : Nat) : Fld := ⟨0x2008010008 + n * 0x1000, 16, 7, .rws, 32⟩
def MDB_NBT_SJW (n : Nat) : Fld := ⟨0x2008010008 + n * 0x1000, 24, 7, .rws, 32⟩

-- MDB_DBT (R299, spec/10_multidrop_buses.md)
def MDB_DBT_BRP (n : Nat) : Fld := ⟨0x2008010010 + n * 0x1000, 0, 8, .rws, 1⟩
def MDB_DBT_TSEG1 (n : Nat) : Fld := ⟨0x2008010010 + n * 0x1000, 8, 8, .rws, 29⟩
def MDB_DBT_TSEG2 (n : Nat) : Fld := ⟨0x2008010010 + n * 0x1000, 16, 7, .rws, 10⟩
def MDB_DBT_SJW (n : Nat) : Fld := ⟨0x2008010010 + n * 0x1000, 24, 7, .rws, 10⟩
def MDB_DBT_TDCO (n : Nat) : Fld := ⟨0x2008010010 + n * 0x1000, 32, 8, .rws, 30⟩
def MDB_DBT_TDCEN (n : Nat) : Fld := ⟨0x2008010010 + n * 0x1000, 40, 1, .rws, 1⟩

-- MDB_XBT (R299, spec/10_multidrop_buses.md)
def MDB_XBT_BRP (n : Nat) : Fld := ⟨0x2008010018 + n * 0x1000, 0, 8, .rws, 1⟩
def MDB_XBT_TSEG1 (n : Nat) : Fld := ⟨0x2008010018 + n * 0x1000, 8, 8, .rws, 7⟩
def MDB_XBT_TSEG2 (n : Nat) : Fld := ⟨0x2008010018 + n * 0x1000, 16, 7, .rws, 2⟩
def MDB_XBT_SJW (n : Nat) : Fld := ⟨0x2008010018 + n * 0x1000, 24, 7, .rws, 2⟩
def MDB_XBT_TDCO (n : Nat) : Fld := ⟨0x2008010018 + n * 0x1000, 32, 8, .rws, 8⟩
def MDB_XBT_TDCEN (n : Nat) : Fld := ⟨0x2008010018 + n * 0x1000, 40, 1, .rws, 1⟩
def MDB_XBT_FAST (n : Nat) : Fld := ⟨0x2008010018 + n * 0x1000, 41, 1, .rws, 0⟩

-- MDB_CSTAT (R299, spec/10_multidrop_buses.md)
def MDB_CSTAT_STATE (n : Nat) : Fld := ⟨0x2008010020 + n * 0x1000, 0, 3, .ro, 0⟩
def MDB_CSTAT_TEC (n : Nat) : Fld := ⟨0x2008010020 + n * 0x1000, 8, 9, .ro, 0⟩
def MDB_CSTAT_REC (n : Nat) : Fld := ⟨0x2008010020 + n * 0x1000, 24, 8, .ro, 0⟩
def MDB_CSTAT_LEC (n : Nat) : Fld := ⟨0x2008010020 + n * 0x1000, 32, 3, .ro, 0⟩
def MDB_CSTAT_FIFO (n : Nat) : Fld := ⟨0x2008010020 + n * 0x1000, 36, 7, .ro, 0⟩

-- MDB_CNT0 (R299, spec/10_multidrop_buses.md)
def MDB_CNT0_TXOK (n : Nat) : Fld := ⟨0x2008010028 + n * 0x1000, 0, 32, .rc, 0⟩
def MDB_CNT0_RXOK (n : Nat) : Fld := ⟨0x2008010028 + n * 0x1000, 32, 32, .rc, 0⟩

-- MDB_CNT1 (R299, spec/10_multidrop_buses.md)
def MDB_CNT1_ARBLOST (n : Nat) : Fld := ⟨0x2008010030 + n * 0x1000, 0, 16, .rc, 0⟩
def MDB_CNT1_ERRORS (n : Nat) : Fld := ⟨0x2008010030 + n * 0x1000, 16, 16, .rc, 0⟩
def MDB_CNT1_BOCNT (n : Nat) : Fld := ⟨0x2008010030 + n * 0x1000, 32, 16, .rc, 0⟩
def MDB_CNT1_NOBUF (n : Nat) : Fld := ⟨0x2008010030 + n * 0x1000, 48, 16, .rc, 0⟩

-- MDB_CNT2 (R299, spec/10_multidrop_buses.md)
def MDB_CNT2_HPOVF (n : Nat) : Fld := ⟨0x2008010038 + n * 0x1000, 0, 16, .rc, 0⟩
def MDB_CNT2_UNMATCH (n : Nat) : Fld := ⟨0x2008010038 + n * 0x1000, 16, 16, .rc, 0⟩
def MDB_CNT2_FMTERR (n : Nat) : Fld := ⟨0x2008010038 + n * 0x1000, 32, 16, .rc, 0⟩
def MDB_CNT2_TUNDROP (n : Nat) : Fld := ⟨0x2008010038 + n * 0x1000, 48, 16, .rc, 0⟩

-- MDB_CNT3 (R299, spec/10_multidrop_buses.md)
def MDB_CNT3_TUNTXFAIL (n : Nat) : Fld := ⟨0x2008010040 + n * 0x1000, 0, 16, .rc, 0⟩

-- MDB_EVT (R299, spec/10_multidrop_buses.md)
def MDB_EVT_STCHG (n : Nat) : Fld := ⟨0x2008010048 + n * 0x1000, 0, 1, .w1c, 0⟩
def MDB_EVT_BUSOFF (n : Nat) : Fld := ⟨0x2008010048 + n * 0x1000, 1, 1, .w1c, 0⟩
def MDB_EVT_PASSIVE (n : Nat) : Fld := ⟨0x2008010048 + n * 0x1000, 2, 1, .w1c, 0⟩
def MDB_EVT_HPOVF (n : Nat) : Fld := ⟨0x2008010048 + n * 0x1000, 3, 1, .w1c, 0⟩
def MDB_EVT_NOBUF (n : Nat) : Fld := ⟨0x2008010048 + n * 0x1000, 4, 1, .w1c, 0⟩
def MDB_EVT_FMTERR (n : Nat) : Fld := ⟨0x2008010048 + n * 0x1000, 5, 1, .w1c, 0⟩
def MDB_EVT_BTERR (n : Nat) : Fld := ⟨0x2008010048 + n * 0x1000, 6, 1, .w1c, 0⟩
def MDB_EVT_TDTO (n : Nat) : Fld := ⟨0x2008010048 + n * 0x1000, 7, 1, .w1c, 0⟩

-- MDB_IRQ (R299, spec/10_multidrop_buses.md)
def MDB_IRQ_EIID (n : Nat) : Fld := ⟨0x2008010050 + n * 0x1000, 0, 8, .rw, 0⟩
def MDB_IRQ_HART (n : Nat) : Fld := ⟨0x2008010050 + n * 0x1000, 8, 5, .rw, 0⟩
def MDB_IRQ_LEVEL (n : Nat) : Fld := ⟨0x2008010050 + n * 0x1000, 16, 2, .rw, 0⟩
def MDB_IRQ_GUEST (n : Nat) : Fld := ⟨0x2008010050 + n * 0x1000, 20, 3, .rw, 0⟩

-- MDB_HPIRQ (R299, spec/10_multidrop_buses.md)
def MDB_HPIRQ_EIID (n : Nat) : Fld := ⟨0x2008010058 + n * 0x1000, 0, 8, .rw, 0⟩
def MDB_HPIRQ_HART (n : Nat) : Fld := ⟨0x2008010058 + n * 0x1000, 8, 5, .rw, 0⟩
def MDB_HPIRQ_LEVEL (n : Nat) : Fld := ⟨0x2008010058 + n * 0x1000, 16, 2, .rw, 0⟩
def MDB_HPIRQ_GUEST (n : Nat) : Fld := ⟨0x2008010058 + n * 0x1000, 20, 3, .rw, 0⟩

-- MDB_HPSTAT (R299, spec/10_multidrop_buses.md)
def MDB_HPSTAT_COUNT (n : Nat) : Fld := ⟨0x2008010060 + n * 0x1000, 0, 5, .ro, 0⟩
def MDB_HPSTAT_HEAD (n : Nat) : Fld := ⟨0x2008010060 + n * 0x1000, 8, 4, .ro, 0⟩

-- MDB_HPPOP (R299, spec/10_multidrop_buses.md)
def MDB_HPPOP_POP (n : Nat) : Fld := ⟨0x2008010068 + n * 0x1000, 0, 1, .w1s, 0⟩

-- MDB_HFLTk_0 (R299, spec/10_multidrop_buses.md)
def MDB_HFLT_0_ID (n k : Nat) : Fld := ⟨0x2008010100 + n * 0x1000 + k * 0x10, 0, 29, .rwl, 0⟩
def MDB_HFLT_0_IDE (n k : Nat) : Fld := ⟨0x2008010100 + n * 0x1000 + k * 0x10, 29, 1, .rwl, 0⟩
def MDB_HFLT_0_MASK (n k : Nat) : Fld := ⟨0x2008010100 + n * 0x1000 + k * 0x10, 32, 29, .rwl, 0⟩

-- MDB_HFLTk_1 (R299, spec/10_multidrop_buses.md)
def MDB_HFLT_1_EN (n k : Nat) : Fld := ⟨0x2008010108 + n * 0x1000 + k * 0x10, 0, 1, .rwl, 0⟩
def MDB_HFLT_1_FMT (n k : Nat) : Fld := ⟨0x2008010108 + n * 0x1000 + k * 0x10, 1, 3, .rwl, 0⟩
def MDB_HFLT_1_RING (n k : Nat) : Fld := ⟨0x2008010108 + n * 0x1000 + k * 0x10, 4, 1, .ro, 1⟩
def MDB_HFLT_1_MAP (n k : Nat) : Fld := ⟨0x2008010108 + n * 0x1000 + k * 0x10, 5, 1, .rwl, 0⟩
def MDB_HFLT_1_TUN (n k : Nat) : Fld := ⟨0x2008010108 + n * 0x1000 + k * 0x10, 6, 1, .rwl, 0⟩
def MDB_HFLT_1_CTX (n k : Nat) : Fld := ⟨0x2008010108 + n * 0x1000 + k * 0x10, 8, 8, .rwl, 0⟩
def MDB_HFLT_1_MAPID (n k : Nat) : Fld := ⟨0x2008010108 + n * 0x1000 + k * 0x10, 16, 16, .rwl, 0⟩
def MDB_HFLT_1_VCID (n k : Nat) : Fld := ⟨0x2008010108 + n * 0x1000 + k * 0x10, 32, 8, .rwl, 0⟩
def MDB_HFLT_1_VCIDMASK (n k : Nat) : Fld := ⟨0x2008010108 + n * 0x1000 + k * 0x10, 40, 8, .rwl, 0⟩

-- MDB_FLTk_0 (R299, spec/10_multidrop_buses.md)
def MDB_FLT_0_ID (n k : Nat) : Fld := ⟨0x2008010200 + n * 0x1000 + k * 0x10, 0, 29, .rwl, 0⟩
def MDB_FLT_0_IDE (n k : Nat) : Fld := ⟨0x2008010200 + n * 0x1000 + k * 0x10, 29, 1, .rwl, 0⟩
def MDB_FLT_0_MASK (n k : Nat) : Fld := ⟨0x2008010200 + n * 0x1000 + k * 0x10, 32, 29, .rwl, 0⟩

-- MDB_FLTk_1 (R299, spec/10_multidrop_buses.md)
def MDB_FLT_1_EN (n k : Nat) : Fld := ⟨0x2008010208 + n * 0x1000 + k * 0x10, 0, 1, .rwl, 0⟩
def MDB_FLT_1_FMT (n k : Nat) : Fld := ⟨0x2008010208 + n * 0x1000 + k * 0x10, 1, 3, .rwl, 0⟩
def MDB_FLT_1_RING (n k : Nat) : Fld := ⟨0x2008010208 + n * 0x1000 + k * 0x10, 4, 1, .rwl, 0⟩
def MDB_FLT_1_MAP (n k : Nat) : Fld := ⟨0x2008010208 + n * 0x1000 + k * 0x10, 5, 1, .rwl, 0⟩
def MDB_FLT_1_TUN (n k : Nat) : Fld := ⟨0x2008010208 + n * 0x1000 + k * 0x10, 6, 1, .rwl, 0⟩
def MDB_FLT_1_CTX (n k : Nat) : Fld := ⟨0x2008010208 + n * 0x1000 + k * 0x10, 8, 8, .rwl, 0⟩
def MDB_FLT_1_MAPID (n k : Nat) : Fld := ⟨0x2008010208 + n * 0x1000 + k * 0x10, 16, 16, .rwl, 0⟩
def MDB_FLT_1_VCID (n k : Nat) : Fld := ⟨0x2008010208 + n * 0x1000 + k * 0x10, 32, 8, .rwl, 0⟩
def MDB_FLT_1_VCIDMASK (n k : Nat) : Fld := ⟨0x2008010208 + n * 0x1000 + k * 0x10, 40, 8, .rwl, 0⟩

-- MDB_HPEk_w (R299, spec/10_multidrop_buses.md)
def MDB_HPE_DATA (n k w : Nat) : Fld := ⟨0x2008010a00 + n * 0x1000 + k * 0x60 + w * 0x8, 0, 64, .ro, 0⟩

-- BRG_CTRL (R317, spec/11_backplane_bridge.md)
def BRG_CTRL_EN : Fld := ⟨0x2009000000, 0, 1, .rw, 0⟩
def BRG_CTRL_ROLE : Fld := ⟨0x2009000000, 1, 1, .rws, 0⟩
def BRG_CTRL_MAXW : Fld := ⟨0x2009000000, 2, 2, .rws, 0⟩
def BRG_CTRL_MAXSPD : Fld := ⟨0x2009000000, 4, 2, .rws, 0⟩
def BRG_CTRL_PFAGE : Fld := ⟨0x2009000000, 8, 8, .rwl, 10⟩

-- BRG_STAT (R317, spec/11_backplane_bridge.md)
def BRG_STAT_LINK : Fld := ⟨0x2009000008, 0, 1, .ro, 0⟩
def BRG_STAT_SPEED : Fld := ⟨0x2009000008, 1, 2, .ro, 0⟩
def BRG_STAT_WIDTH : Fld := ⟨0x2009000008, 3, 3, .ro, 0⟩
def BRG_STAT_TAGS : Fld := ⟨0x2009000008, 8, 6, .ro, 0⟩

-- BRG_ID (R317, spec/11_backplane_bridge.md)
def BRG_ID_VID : Fld := ⟨0x2009000010, 0, 16, .ro, 0⟩
def BRG_ID_DID : Fld := ⟨0x2009000010, 16, 16, .ro, 17408⟩
def BRG_ID_REV : Fld := ⟨0x2009000010, 32, 8, .ro, 1⟩

-- BRG_CFGREQ (R317, spec/11_backplane_bridge.md)
def BRG_CFGREQ_BUS : Fld := ⟨0x2009000018, 0, 8, .rw, 0⟩
def BRG_CFGREQ_DEV : Fld := ⟨0x2009000018, 8, 5, .rw, 0⟩
def BRG_CFGREQ_FN : Fld := ⟨0x2009000018, 13, 3, .rw, 0⟩
def BRG_CFGREQ_REG : Fld := ⟨0x2009000018, 16, 12, .rw, 0⟩
def BRG_CFGREQ_SIZE : Fld := ⟨0x2009000018, 28, 2, .rw, 0⟩
def BRG_CFGREQ_WR : Fld := ⟨0x2009000018, 30, 1, .rw, 0⟩
def BRG_CFGREQ_GO : Fld := ⟨0x2009000018, 31, 1, .w1s, 0⟩
def BRG_CFGREQ_BUSY : Fld := ⟨0x2009000018, 32, 1, .ro, 0⟩
def BRG_CFGREQ_RESULT : Fld := ⟨0x2009000018, 33, 3, .ro, 0⟩

-- BRG_CFGDATA (R317, spec/11_backplane_bridge.md)
def BRG_CFGDATA_DATA : Fld := ⟨0x2009000020, 0, 32, .rw, 0⟩

-- BRG_CNT0 (R317, spec/11_backplane_bridge.md)
def BRG_CNT0_CPLTO : Fld := ⟨0x2009000028, 0, 16, .rc, 0⟩
def BRG_CNT0_CPLERR : Fld := ⟨0x2009000028, 16, 16, .rc, 0⟩
def BRG_CNT0_SIZEFLT : Fld := ⟨0x2009000028, 32, 16, .rc, 0⟩
def BRG_CNT0_LATECPL : Fld := ⟨0x2009000028, 48, 16, .rc, 0⟩

-- BRG_CNT1 (R317, spec/11_backplane_bridge.md)
def BRG_CNT1_INREF : Fld := ⟨0x2009000030, 0, 16, .rc, 0⟩
def BRG_CNT1_INPOIS : Fld := ⟨0x2009000030, 16, 16, .rc, 0⟩
def BRG_CNT1_PWDROP : Fld := ⟨0x2009000030, 32, 16, .rc, 0⟩
def BRG_CNT1_ELOVF : Fld := ⟨0x2009000030, 48, 16, .rc, 0⟩

-- BRG_EVT (R317, spec/11_backplane_bridge.md)
def BRG_EVT_LINKCHG : Fld := ⟨0x2009000038, 0, 1, .w1c, 0⟩
def BRG_EVT_ERRMSG : Fld := ⟨0x2009000038, 1, 1, .w1c, 0⟩
def BRG_EVT_CPLTO : Fld := ⟨0x2009000038, 2, 1, .w1c, 0⟩
def BRG_EVT_INREF : Fld := ⟨0x2009000038, 3, 1, .w1c, 0⟩
def BRG_EVT_ELOVF : Fld := ⟨0x2009000038, 4, 1, .w1c, 0⟩

-- BRG_IRQ (R317, spec/11_backplane_bridge.md)
def BRG_IRQ_EIID : Fld := ⟨0x2009000040, 0, 8, .rw, 0⟩
def BRG_IRQ_HART : Fld := ⟨0x2009000040, 8, 5, .rw, 0⟩
def BRG_IRQ_LEVEL : Fld := ⟨0x2009000040, 16, 2, .rw, 0⟩
def BRG_IRQ_GUEST : Fld := ⟨0x2009000040, 20, 3, .rw, 0⟩

-- BRG_ELSTAT (R317, spec/11_backplane_bridge.md)
def BRG_ELSTAT_COUNT : Fld := ⟨0x2009000048, 0, 5, .ro, 0⟩
def BRG_ELSTAT_HEAD : Fld := ⟨0x2009000048, 8, 4, .ro, 0⟩

-- BRG_ELPOP (R317, spec/11_backplane_bridge.md)
def BRG_ELPOP_POP : Fld := ⟨0x2009000050, 0, 1, .w1s, 0⟩

-- BRG_MSIGEN (R317, spec/11_backplane_bridge.md)
def BRG_MSIGEN_VEC : Fld := ⟨0x2009000058, 0, 5, .wo, 0⟩

-- BRG_OWk_0 (R317, spec/11_backplane_bridge.md)
def BRG_OW_0_EN (k : Nat) : Fld := ⟨0x2009000100 + k * 0x20, 0, 1, .rw, 0⟩
def BRG_OW_0_TYPE (k : Nat) : Fld := ⟨0x2009000100 + k * 0x20, 1, 1, .rws, 0⟩
def BRG_OW_0_NP (k : Nat) : Fld := ⟨0x2009000100 + k * 0x20, 2, 1, .rws, 0⟩
def BRG_OW_0_PFLEN (k : Nat) : Fld := ⟨0x2009000100 + k * 0x20, 3, 2, .rws, 0⟩

-- BRG_OWk_1 (R317, spec/11_backplane_bridge.md)
def BRG_OW_1_LBASE (k : Nat) : Fld := ⟨0x2009000108 + k * 0x20, 12, 28, .rws, 0⟩
def BRG_OW_1_SIZE (k : Nat) : Fld := ⟨0x2009000108 + k * 0x20, 40, 6, .rws, 0⟩

-- BRG_OWk_2 (R317, spec/11_backplane_bridge.md)
def BRG_OW_2_TBASE (k : Nat) : Fld := ⟨0x2009000110 + k * 0x20, 0, 64, .rws, 0⟩

-- BRG_IWk_0 (R317, spec/11_backplane_bridge.md)
def BRG_IW_0_EN (k : Nat) : Fld := ⟨0x2009000400 + k * 0x20, 0, 1, .rw, 0⟩
def BRG_IW_0_RD (k : Nat) : Fld := ⟨0x2009000400 + k * 0x20, 1, 1, .rws, 0⟩
def BRG_IW_0_WR (k : Nat) : Fld := ⟨0x2009000400 + k * 0x20, 2, 1, .rws, 0⟩
def BRG_IW_0_SIZE (k : Nat) : Fld := ⟨0x2009000400 + k * 0x20, 8, 6, .rws, 0⟩

-- BRG_IWk_1 (R317, spec/11_backplane_bridge.md)
def BRG_IW_1_BBASE (k : Nat) : Fld := ⟨0x2009000408 + k * 0x20, 0, 64, .rws, 0⟩

-- BRG_IWk_2 (R317, spec/11_backplane_bridge.md)
def BRG_IW_2_TBASE (k : Nat) : Fld := ⟨0x2009000410 + k * 0x20, 0, 40, .rws, 0⟩

-- BRG_MSIRTr (R317, spec/11_backplane_bridge.md)
def BRG_MSIRT_EIID (r : Nat) : Fld := ⟨0x2009000500 + r * 0x8, 0, 8, .rw, 0⟩
def BRG_MSIRT_HART (r : Nat) : Fld := ⟨0x2009000500 + r * 0x8, 8, 5, .rw, 0⟩
def BRG_MSIRT_LEVEL (r : Nat) : Fld := ⟨0x2009000500 + r * 0x8, 16, 2, .rw, 0⟩
def BRG_MSIRT_GUEST (r : Nat) : Fld := ⟨0x2009000500 + r * 0x8, 20, 3, .rw, 0⟩

-- BRG_ELe_0 (R317, spec/11_backplane_bridge.md)
def BRG_EL_0_ADDR (e : Nat) : Fld := ⟨0x2009000800 + e * 0x20, 0, 64, .ro, 0⟩

-- BRG_ELe_1 (R317, spec/11_backplane_bridge.md)
def BRG_EL_1_TSLO (e : Nat) : Fld := ⟨0x2009000808 + e * 0x20, 0, 64, .ro, 0⟩

-- BRG_ELe_2 (R317, spec/11_backplane_bridge.md)
def BRG_EL_2_TSHI (e : Nat) : Fld := ⟨0x2009000810 + e * 0x20, 0, 32, .ro, 0⟩
def BRG_EL_2_RID (e : Nat) : Fld := ⟨0x2009000810 + e * 0x20, 32, 16, .ro, 0⟩
def BRG_EL_2_WIN (e : Nat) : Fld := ⟨0x2009000810 + e * 0x20, 48, 8, .ro, 0⟩
def BRG_EL_2_MSG (e : Nat) : Fld := ⟨0x2009000810 + e * 0x20, 56, 2, .ro, 0⟩
def BRG_EL_2_HLOK (e : Nat) : Fld := ⟨0x2009000810 + e * 0x20, 58, 1, .ro, 0⟩

-- FIO_CTRL (R338, spec/12_field_digital_io.md)
def FIO_CTRL_EN : Fld := ⟨0x200a000000, 0, 1, .rw, 0⟩

-- FIO_STAT (R338, spec/12_field_digital_io.md)
def FIO_STAT_FALINK : Fld := ⟨0x200a000008, 0, 1, .ro, 0⟩
def FIO_STAT_WDEXP : Fld := ⟨0x200a000008, 1, 1, .ro, 0⟩
def FIO_STAT_SUP : Fld := ⟨0x200a000008, 2, 6, .ro, 0⟩

-- FIO_GRPCFG (R338, spec/12_field_digital_io.md)
def FIO_GRPCFG_DICLS : Fld := ⟨0x200a000010, 0, 12, .rws, 4095⟩
def FIO_GRPCFG_SUPCLS : Fld := ⟨0x200a000010, 16, 6, .rws, 63⟩

-- FIO_SUPV (R338, spec/12_field_digital_io.md)
def FIO_SUPV_U : Fld := ⟨0x200a000018, 0, 48, .ro, 0⟩

-- FIO_WDOG (R338, spec/12_field_digital_io.md)
def FIO_WDOG_WDEN : Fld := ⟨0x200a000020, 0, 1, .w1s, 0⟩
def FIO_WDOG_CLEAR : Fld := ⟨0x200a000020, 1, 1, .w1s, 0⟩
def FIO_WDOG_EXP : Fld := ⟨0x200a000020, 2, 1, .ro, 0⟩
def FIO_WDOG_LINKEXP : Fld := ⟨0x200a000020, 3, 1, .ro, 0⟩
def FIO_WDOG_TIME : Fld := ⟨0x200a000020, 16, 10, .rwl, 100⟩
def FIO_WDOG_BADKEY : Fld := ⟨0x200a000020, 32, 16, .ro, 0⟩

-- FIO_WDKICK (R338, spec/12_field_digital_io.md)
def FIO_WDKICK_KEY : Fld := ⟨0x200a000028, 0, 16, .wo, 0⟩

-- FIO_DOCMD (R338, spec/12_field_digital_io.md)
def FIO_DOCMD_CMD : Fld := ⟨0x200a000030, 0, 24, .rw, 0⟩

-- FIO_DISTATE (R338, spec/12_field_digital_io.md)
def FIO_DISTATE_LEVEL : Fld := ⟨0x200a000038, 0, 48, .ro, 0⟩

-- FIO_SISTATE (R338, spec/12_field_digital_io.md)
def FIO_SISTATE_SI : Fld := ⟨0x200a000040, 0, 16, .ro, 0⟩
def FIO_SISTATE_SP : Fld := ⟨0x200a000040, 16, 8, .ro, 0⟩
def FIO_SISTATE_EDM : Fld := ⟨0x200a000040, 24, 8, .ro, 0⟩
def FIO_SISTATE_RST : Fld := ⟨0x200a000040, 32, 2, .ro, 0⟩

-- FIO_DOSAFE (R338, spec/12_field_digital_io.md)
def FIO_DOSAFE_REQ : Fld := ⟨0x200a000048, 0, 8, .rw, 0⟩
def FIO_DOSAFE_MASK : Fld := ⟨0x200a000048, 8, 8, .wo, 0⟩
def FIO_DOSAFE_NREQ : Fld := ⟨0x200a000048, 16, 8, .rw, 255⟩

-- FIO_SOOWN (R338, spec/12_field_digital_io.md)
def FIO_SOOWN_OWN : Fld := ⟨0x200a000050, 0, 24, .rw, 0⟩

-- FIO_SOSTAT (R338, spec/12_field_digital_io.md)
def FIO_SOSTAT_FAREQ : Fld := ⟨0x200a000058, 0, 8, .ro, 0⟩
def FIO_SOSTAT_FASW : Fld := ⟨0x200a000058, 8, 8, .ro, 0⟩
def FIO_SOSTAT_OUT : Fld := ⟨0x200a000058, 16, 8, .ro, 0⟩
def FIO_SOSTAT_FORCED : Fld := ⟨0x200a000058, 24, 8, .ro, 0⟩
def FIO_SOSTAT_EXTDRIVE : Fld := ⟨0x200a000058, 32, 8, .ro, 0⟩

-- FIO_EVT (R338, spec/12_field_digital_io.md)
def FIO_EVT_FAULT : Fld := ⟨0x200a000060, 0, 1, .w1c, 0⟩
def FIO_EVT_SUPCHG : Fld := ⟨0x200a000060, 1, 1, .w1c, 0⟩
def FIO_EVT_WDEXP : Fld := ⟨0x200a000060, 2, 1, .w1c, 0⟩
def FIO_EVT_OWNERR : Fld := ⟨0x200a000060, 3, 1, .w1c, 0⟩
def FIO_EVT_BADKEY : Fld := ⟨0x200a000060, 4, 1, .w1c, 0⟩

-- FIO_IRQ (R338, spec/12_field_digital_io.md)
def FIO_IRQ_EIID : Fld := ⟨0x200a000068, 0, 8, .rw, 0⟩
def FIO_IRQ_HART : Fld := ⟨0x200a000068, 8, 5, .rw, 0⟩
def FIO_IRQ_LEVEL : Fld := ⟨0x200a000068, 16, 2, .rw, 0⟩
def FIO_IRQ_GUEST : Fld := ⟨0x200a000068, 20, 3, .rw, 0⟩

-- FIO_CHCFG (R339, spec/12_field_digital_io.md)
def FIO_CHCFG_EN (c : Nat) : Fld := ⟨fioPage c + 0x0, 0, 1, .rw, 0⟩
def FIO_CHCFG_WET (c : Nat) : Fld := ⟨fioPage c + 0x0, 1, 1, .rws, 0⟩
def FIO_CHCFG_SAFE (c : Nat) : Fld := ⟨fioPage c + 0x0, 2, 2, .rws, 0⟩
def FIO_CHCFG_FILT (c : Nat) : Fld := ⟨fioPage c + 0x0, 4, 10, .rwl, if c < 0x30 then 30 else 10⟩
def FIO_CHCFG_MODE (c : Nat) : Fld := ⟨fioPage c + 0x0, 14, 1, .rws, 0⟩
def FIO_CHCFG_PAIRED (c : Nat) : Fld := ⟨fioPage c + 0x0, 15, 1, .rws, 0⟩
def FIO_CHCFG_PEXT (c : Nat) : Fld := ⟨fioPage c + 0x0, 16, 1, .rws, 0⟩
def FIO_CHCFG_PARTNER (c : Nat) : Fld := ⟨fioPage c + 0x0, 17, 5, .rws, 0⟩
def FIO_CHCFG_TPCHK (c : Nat) : Fld := ⟨fioPage c + 0x0, 22, 1, .rws, 0⟩
def FIO_CHCFG_TPSEL (c : Nat) : Fld := ⟨fioPage c + 0x0, 23, 3, .rws, 0⟩
def FIO_CHCFG_OLT (c : Nat) : Fld := ⟨fioPage c + 0x0, 32, 7, .rwl, 10⟩
def FIO_CHCFG_DISC (c : Nat) : Fld := ⟨fioPage c + 0x0, 40, 10, .rwl, 100⟩
def FIO_CHCFG_ZTIME (c : Nat) : Fld := ⟨fioPage c + 0x0, 50, 14, .rwl, 1000⟩

-- FIO_CHSIG (R339, spec/12_field_digital_io.md)
def FIO_CHSIG_SIGID (c : Nat) : Fld := ⟨fioPage c + 0x8, 0, 25, .rwl, 0⟩
def FIO_CHSIG_PUB (c : Nat) : Fld := ⟨fioPage c + 0x8, 32, 1, .rwl, 0⟩
def FIO_CHSIG_REFRESH (c : Nat) : Fld := ⟨fioPage c + 0x8, 33, 1, .rwl, 1⟩

-- FIO_CHSTAT (R339, spec/12_field_digital_io.md)
def FIO_CHSTAT_LEVEL (c : Nat) : Fld := ⟨fioPage c + 0x10, 0, 1, .ro, 0⟩
def FIO_CHSTAT_VALID (c : Nat) : Fld := ⟨fioPage c + 0x10, 1, 1, .ro, 0⟩
def FIO_CHSTAT_OVERLOAD (c : Nat) : Fld := ⟨fioPage c + 0x10, 2, 1, .ro, 0⟩
def FIO_CHSTAT_OPENWIRE (c : Nat) : Fld := ⟨fioPage c + 0x10, 3, 1, .ro, 0⟩
def FIO_CHSTAT_OVERTEMP (c : Nat) : Fld := ⟨fioPage c + 0x10, 4, 1, .ro, 0⟩
def FIO_CHSTAT_EXTDRIVE (c : Nat) : Fld := ⟨fioPage c + 0x10, 5, 1, .ro, 0⟩
def FIO_CHSTAT_PARTNERON (c : Nat) : Fld := ⟨fioPage c + 0x10, 6, 1, .ro, 0⟩
def FIO_CHSTAT_SUPLOST (c : Nat) : Fld := ⟨fioPage c + 0x10, 7, 1, .ro, 0⟩
def FIO_CHSTAT_TPFAULT (c : Nat) : Fld := ⟨fioPage c + 0x10, 8, 1, .ro, 0⟩
def FIO_CHSTAT_DISCFAULT (c : Nat) : Fld := ⟨fioPage c + 0x10, 9, 1, .ro, 0⟩
def FIO_CHSTAT_OVERFREQ (c : Nat) : Fld := ⟨fioPage c + 0x10, 10, 1, .ro, 0⟩
def FIO_CHSTAT_CLRF (c : Nat) : Fld := ⟨fioPage c + 0x10, 11, 1, .w1s, 0⟩

-- FIO_CHRB (R339, spec/12_field_digital_io.md)
def FIO_CHRB_U (c : Nat) : Fld := ⟨fioPage c + 0x18, 0, 16, .ro, 0⟩
def FIO_CHRB_I (c : Nat) : Fld := ⟨fioPage c + 0x18, 16, 16, .ro, 0⟩
def FIO_CHRB_TJ (c : Nat) : Fld := ⟨fioPage c + 0x18, 32, 16, .ro, 0⟩
def FIO_CHRB_PERIOD (c : Nat) : Fld := ⟨fioPage c + 0x18, 0, 32, .ro, 0⟩
def FIO_CHRB_EDGES (c : Nat) : Fld := ⟨fioPage c + 0x18, 32, 32, .ro, 0⟩

-- FIO_CHCNT (R339, spec/12_field_digital_io.md)
def FIO_CHCNT_CHANGES (c : Nat) : Fld := ⟨fioPage c + 0x20, 0, 32, .rc, 0⟩
def FIO_CHCNT_FAULTS (c : Nat) : Fld := ⟨fioPage c + 0x20, 32, 16, .rc, 0⟩

-- LOD_STAT (R377, spec/13_lodestone_safety_logic.md)
def LOD_STAT_LINK : Fld := ⟨0x200c000000, 0, 1, .ro, 0⟩
def LOD_STAT_ACTIVE : Fld := ⟨0x200c000000, 1, 1, .ro, 0⟩
def LOD_STAT_INTERNAL : Fld := ⟨0x200c000000, 2, 1, .ro, 0⟩
def LOD_STAT_SUPLOST : Fld := ⟨0x200c000000, 3, 1, .ro, 0⟩
def LOD_STAT_SLOTON : Fld := ⟨0x200c000000, 8, 8, .ro, 0⟩
def LOD_STAT_FBSW : Fld := ⟨0x200c000000, 16, 8, .ro, 0⟩
def LOD_STAT_LOCK : Fld := ⟨0x200c000000, 24, 8, .ro, 0⟩
def LOD_STAT_FRAMES : Fld := ⟨0x200c000000, 32, 32, .ro, 0⟩

-- LOD_TBLSTAT (R377, spec/13_lodestone_safety_logic.md)
def LOD_TBLSTAT_VERSION : Fld := ⟨0x200c000008, 0, 32, .ro, 0⟩
def LOD_TBLSTAT_CRC : Fld := ⟨0x200c000008, 32, 32, .ro, 0⟩

-- LOD_CMTCTL (R377, spec/13_lodestone_safety_logic.md)
def LOD_CMTCTL_REQ : Fld := ⟨0x200c000010, 0, 1, .w1s, 0⟩
def LOD_CMTCTL_PEND : Fld := ⟨0x200c000010, 1, 1, .ro, 0⟩
def LOD_CMTCTL_NOW : Fld := ⟨0x200c000010, 2, 1, .w1s, 0⟩
def LOD_CMTCTL_CANCEL : Fld := ⟨0x200c000010, 3, 1, .w1s, 0⟩
def LOD_CMTCTL_RESULT : Fld := ⟨0x200c000010, 8, 4, .ro, 0⟩
def LOD_CMTCTL_ERRIDX : Fld := ⟨0x200c000010, 16, 10, .ro, 0⟩

-- LOD_CMTWP0 (R377, spec/13_lodestone_safety_logic.md)
def LOD_CMTWP0_TSLO : Fld := ⟨0x200c000018, 0, 64, .rw, 0⟩

-- LOD_CMTWP1 (R377, spec/13_lodestone_safety_logic.md)
def LOD_CMTWP1_TSHI : Fld := ⟨0x200c000020, 0, 32, .rw, 0⟩

-- LOD_OUTSTAT (R377, spec/13_lodestone_safety_logic.md)
def LOD_OUTSTAT_OUT : Fld := ⟨0x200c000028, 0, 8, .ro, 0⟩
def LOD_OUTSTAT_MID : Fld := ⟨0x200c000028, 8, 8, .ro, 0⟩
def LOD_OUTSTAT_EDM : Fld := ⟨0x200c000028, 16, 8, .ro, 0⟩
def LOD_OUTSTAT_EDMPEND : Fld := ⟨0x200c000028, 24, 8, .ro, 0⟩

-- LOD_LOCKCAUSE (R377, spec/13_lodestone_safety_logic.md)
def LOD_LOCKCAUSE_CAUSE : Fld := ⟨0x200c000030, 0, 32, .ro, 0⟩

-- LOD_INSTAT (R377, spec/13_lodestone_safety_logic.md)
def LOD_INSTAT_SI : Fld := ⟨0x200c000038, 0, 16, .ro, 0⟩
def LOD_INSTAT_SP : Fld := ⟨0x200c000038, 16, 8, .ro, 0⟩
def LOD_INSTAT_RST : Fld := ⟨0x200c000038, 24, 2, .ro, 0⟩
def LOD_INSTAT_TPERR : Fld := ⟨0x200c000038, 32, 16, .ro, 0⟩
def LOD_INSTAT_TPOUTERR : Fld := ⟨0x200c000038, 48, 8, .ro, 0⟩

-- LOD_SLOTs (R377, spec/13_lodestone_safety_logic.md)
def LOD_SLOT_STATE (s : Nat) : Fld := ⟨0x200c000040 + s * 0x8, 0, 3, .ro, 0⟩
def LOD_SLOT_WARN (s : Nat) : Fld := ⟨0x200c000040 + s * 0x8, 3, 1, .ro, 0⟩
def LOD_SLOT_CAUSE (s : Nat) : Fld := ⟨0x200c000040 + s * 0x8, 8, 4, .ro, 0⟩
def LOD_SLOT_TIMER (s : Nat) : Fld := ⟨0x200c000040 + s * 0x8, 16, 16, .ro, 0⟩
def LOD_SLOT_DEMANDS (s : Nat) : Fld := ⟨0x200c000040 + s * 0x8, 32, 32, .ro, 0⟩

-- LOD_SPD (R377, spec/13_lodestone_safety_logic.md)
def LOD_SPD_SPD : Fld := ⟨0x200c000080, 0, 64, .ro, 0⟩

-- LOD_LKSEQ (R377, spec/13_lodestone_safety_logic.md)
def LOD_LKSEQ_SEQ : Fld := ⟨0x200c000088, 0, 16, .ro, 0⟩

-- LOD_UNLOCK0 (R377, spec/13_lodestone_safety_logic.md)
def LOD_UNLOCK0_MASK : Fld := ⟨0x200c000090, 0, 8, .wo, 0⟩
def LOD_UNLOCK0_KEY : Fld := ⟨0x200c000090, 8, 16, .wo, 0⟩
def LOD_UNLOCK0_SEQ : Fld := ⟨0x200c000090, 24, 16, .wo, 0⟩

-- LOD_UNLOCK1 (R377, spec/13_lodestone_safety_logic.md)
def LOD_UNLOCK1_NCODE : Fld := ⟨0x200c000098, 0, 64, .wo, 0⟩

-- LOD_TRIP (R377, spec/13_lodestone_safety_logic.md)
def LOD_TRIP_MASK : Fld := ⟨0x200c0000a0, 0, 8, .wo, 0⟩
def LOD_TRIP_KEY : Fld := ⟨0x200c0000a0, 8, 16, .wo, 0⟩

-- LOD_EVT (R377, spec/13_lodestone_safety_logic.md)
def LOD_EVT_LOCK : Fld := ⟨0x200c0000a8, 0, 1, .w1c, 0⟩
def LOD_EVT_CLEAR : Fld := ⟨0x200c0000a8, 1, 1, .w1c, 0⟩
def LOD_EVT_COMMIT : Fld := ⟨0x200c0000a8, 2, 1, .w1c, 0⟩
def LOD_EVT_DEMAND : Fld := ⟨0x200c0000a8, 3, 1, .w1c, 0⟩
def LOD_EVT_RSTREF : Fld := ⟨0x200c0000a8, 4, 1, .w1c, 0⟩
def LOD_EVT_UNLREF : Fld := ⟨0x200c0000a8, 5, 1, .w1c, 0⟩
def LOD_EVT_LINK : Fld := ⟨0x200c0000a8, 6, 1, .w1c, 0⟩
def LOD_EVT_ECHO : Fld := ⟨0x200c0000a8, 7, 1, .w1c, 0⟩

-- LOD_IRQ (R377, spec/13_lodestone_safety_logic.md)
def LOD_IRQ_EIID : Fld := ⟨0x200c0000b0, 0, 8, .rw, 0⟩
def LOD_IRQ_HART : Fld := ⟨0x200c0000b0, 8, 5, .rw, 0⟩
def LOD_IRQ_LEVEL : Fld := ⟨0x200c0000b0, 16, 2, .rw, 0⟩
def LOD_IRQ_GUEST : Fld := ⟨0x200c0000b0, 20, 3, .rw, 0⟩

-- LOD_CNT (R377, spec/13_lodestone_safety_logic.md)
def LOD_CNT_LOCKS : Fld := ⟨0x200c0000b8, 0, 16, .rc, 0⟩
def LOD_CNT_RESETS : Fld := ⟨0x200c0000b8, 16, 16, .rc, 0⟩
def LOD_CNT_UNLREF : Fld := ⟨0x200c0000b8, 32, 16, .rc, 0⟩
def LOD_CNT_RSTREF : Fld := ⟨0x200c0000b8, 48, 16, .rc, 0⟩

-- LOD_ECHOSTAT (R377, spec/13_lodestone_safety_logic.md)
def LOD_ECHOSTAT_ECHOCRC : Fld := ⟨0x200c0000c0, 0, 32, .ro, 0⟩
def LOD_ECHOSTAT_ECHOSEQ : Fld := ⟨0x200c0000c0, 32, 16, .ro, 0⟩

-- LOD_SHADOW (R377, spec/13_lodestone_safety_logic.md)
def LOD_SHADOW_DATA (i : Nat) : Fld := ⟨0x200c001000 + i * 0x8, 0, 64, .rw, 0⟩

-- LOD_ECHO (R377, spec/13_lodestone_safety_logic.md)
def LOD_ECHO_DATA (i : Nat) : Fld := ⟨0x200c002000 + i * 0x8, 0, 64, .ro, 0⟩

-- ANL_CTRL (R396, spec/14_analog_loop_outputs.md)
def ANL_CTRL_EN : Fld := ⟨0x200b000000, 0, 1, .rw, 0⟩
def ANL_CTRL_BINTRIM : Fld := ⟨0x200b000000, 1, 1, .rw, 1⟩

-- ANL_STAT (R396, spec/14_analog_loop_outputs.md)
def ANL_STAT_LINK : Fld := ⟨0x200b000008, 0, 8, .ro, 0⟩
def ANL_STAT_TRIMOPEN : Fld := ⟨0x200b000008, 8, 1, .ro, 0⟩
def ANL_STAT_TRIMCH : Fld := ⟨0x200b000008, 9, 3, .ro, 0⟩

-- ANL_EVT (R396, spec/14_analog_loop_outputs.md)
def ANL_EVT_FAULT : Fld := ⟨0x200b000010, 0, 1, .w1c, 0⟩
def ANL_EVT_LINKCHG : Fld := ⟨0x200b000010, 1, 1, .w1c, 0⟩
def ANL_EVT_TRIM : Fld := ⟨0x200b000010, 2, 1, .w1c, 0⟩
def ANL_EVT_FALLBACK : Fld := ⟨0x200b000010, 3, 1, .w1c, 0⟩

-- ANL_IRQ (R396, spec/14_analog_loop_outputs.md)
def ANL_IRQ_EIID : Fld := ⟨0x200b000018, 0, 8, .rw, 0⟩
def ANL_IRQ_HART : Fld := ⟨0x200b000018, 8, 5, .rw, 0⟩
def ANL_IRQ_LEVEL : Fld := ⟨0x200b000018, 16, 2, .rw, 0⟩
def ANL_IRQ_GUEST : Fld := ⟨0x200b000018, 20, 3, .rw, 0⟩

-- ANL_CHCFG (R397, spec/14_analog_loop_outputs.md)
def ANL_CHCFG_EN (n : Nat) : Fld := ⟨0x200b010000 + n * 0x1000, 0, 1, .rw, 0⟩
def ANL_CHCFG_MODE (n : Nat) : Fld := ⟨0x200b010000 + n * 0x1000, 1, 1, .rws, 0⟩
def ANL_CHCFG_SAFE (n : Nat) : Fld := ⟨0x200b010000 + n * 0x1000, 2, 2, .rws, 0⟩
def ANL_CHCFG_MMACT (n : Nat) : Fld := ⟨0x200b010000 + n * 0x1000, 4, 1, .rws, 0⟩
def ANL_CHCFG_ALMLO (n : Nat) : Fld := ⟨0x200b010000 + n * 0x1000, 16, 16, .rwl, 3500⟩
def ANL_CHCFG_ALMHI (n : Nat) : Fld := ⟨0x200b010000 + n * 0x1000, 32, 16, .rwl, 21500⟩

-- ANL_CHSP (R397, spec/14_analog_loop_outputs.md)
def ANL_CHSP_SP (n : Nat) : Fld := ⟨0x200b010008 + n * 0x1000, 0, 15, .rwl, 4000⟩
def ANL_CHSP_CMODE (n : Nat) : Fld := ⟨0x200b010008 + n * 0x1000, 16, 2, .rwl, 0⟩

-- ANL_CHTRIM (R397, spec/14_analog_loop_outputs.md)
def ANL_CHTRIM_ZERO (n : Nat) : Fld := ⟨0x200b010010 + n * 0x1000, 0, 11, .rwl, 0⟩
def ANL_CHTRIM_SPAN (n : Nat) : Fld := ⟨0x200b010010 + n * 0x1000, 16, 11, .rwl, 0⟩
def ANL_CHTRIM_TSRC (n : Nat) : Fld := ⟨0x200b010010 + n * 0x1000, 32, 2, .ro, 0⟩

-- ANL_CHSIG (R397, spec/14_analog_loop_outputs.md)
def ANL_CHSIG_SIGID (n : Nat) : Fld := ⟨0x200b010018 + n * 0x1000, 0, 25, .rwl, 0⟩
def ANL_CHSIG_PUB (n : Nat) : Fld := ⟨0x200b010018 + n * 0x1000, 32, 1, .rwl, 0⟩
def ANL_CHSIG_REFRESH (n : Nat) : Fld := ⟨0x200b010018 + n * 0x1000, 33, 1, .rwl, 1⟩
def ANL_CHSIG_DEADBAND (n : Nat) : Fld := ⟨0x200b010018 + n * 0x1000, 48, 16, .rwl, 10⟩

-- ANL_CHSTAT (R397, spec/14_analog_loop_outputs.md)
def ANL_CHSTAT_ACTIVE (n : Nat) : Fld := ⟨0x200b010020 + n * 0x1000, 0, 1, .ro, 0⟩
def ANL_CHSTAT_FALLBACK (n : Nat) : Fld := ⟨0x200b010020 + n * 0x1000, 1, 1, .ro, 0⟩
def ANL_CHSTAT_HEADROOM (n : Nat) : Fld := ⟨0x200b010020 + n * 0x1000, 2, 1, .ro, 0⟩
def ANL_CHSTAT_FOLDBACK (n : Nat) : Fld := ⟨0x200b010020 + n * 0x1000, 3, 1, .ro, 0⟩
def ANL_CHSTAT_OPEN (n : Nat) : Fld := ⟨0x200b010020 + n * 0x1000, 4, 1, .ro, 0⟩
def ANL_CHSTAT_RBMISM (n : Nat) : Fld := ⟨0x200b010020 + n * 0x1000, 5, 1, .ro, 0⟩
def ANL_CHSTAT_SAFE (n : Nat) : Fld := ⟨0x200b010020 + n * 0x1000, 6, 1, .ro, 0⟩
def ANL_CHSTAT_LINK (n : Nat) : Fld := ⟨0x200b010020 + n * 0x1000, 7, 1, .ro, 0⟩
def ANL_CHSTAT_TRIM (n : Nat) : Fld := ⟨0x200b010020 + n * 0x1000, 8, 1, .ro, 0⟩
def ANL_CHSTAT_HOLD (n : Nat) : Fld := ⟨0x200b010020 + n * 0x1000, 9, 1, .ro, 0⟩
def ANL_CHSTAT_CLRF (n : Nat) : Fld := ⟨0x200b010020 + n * 0x1000, 16, 1, .w1s, 0⟩

-- ANL_CHRB (R397, spec/14_analog_loop_outputs.md)
def ANL_CHRB_IRB (n : Nat) : Fld := ⟨0x200b010028 + n * 0x1000, 0, 16, .ro, 0⟩
def ANL_CHRB_IPRI (n : Nat) : Fld := ⟨0x200b010028 + n * 0x1000, 16, 16, .ro, 0⟩
def ANL_CHRB_VTERM (n : Nat) : Fld := ⟨0x200b010028 + n * 0x1000, 32, 12, .ro, 0⟩
def ANL_CHRB_VCOMP (n : Nat) : Fld := ⟨0x200b010028 + n * 0x1000, 44, 12, .ro, 0⟩
def ANL_CHRB_TJ (n : Nat) : Fld := ⟨0x200b010028 + n * 0x1000, 56, 8, .ro, 0⟩

-- ANL_CHCNT (R397, spec/14_analog_loop_outputs.md)
def ANL_CHCNT_HEADROOM (n : Nat) : Fld := ⟨0x200b010030 + n * 0x1000, 0, 16, .rc, 0⟩
def ANL_CHCNT_FALLBACK (n : Nat) : Fld := ⟨0x200b010030 + n * 0x1000, 16, 16, .rc, 0⟩
def ANL_CHCNT_RBMISM (n : Nat) : Fld := ⟨0x200b010030 + n * 0x1000, 32, 16, .rc, 0⟩
def ANL_CHCNT_LINKLOSS (n : Nat) : Fld := ⟨0x200b010030 + n * 0x1000, 48, 16, .rc, 0⟩

-- ANL_CHFW (R397, spec/14_analog_loop_outputs.md)
def ANL_CHFW_FWVER (n : Nat) : Fld := ⟨0x200b010038 + n * 0x1000, 0, 32, .ro, 0⟩
def ANL_CHFW_CALVER (n : Nat) : Fld := ⟨0x200b010038 + n * 0x1000, 32, 32, .ro, 0⟩

-- SYS_EFSTAT (R427, spec/16_fault_reporting.md)
def SYS_EFSTAT_COUNT : Fld := ⟨0x2000000100, 0, 7, .ro, 0⟩
def SYS_EFSTAT_MAXCLS : Fld := ⟨0x2000000100, 8, 3, .ro, 0⟩
def SYS_EFSTAT_SEQNEXT : Fld := ⟨0x2000000100, 32, 16, .ro, 0⟩

-- SYS_EFPOP (R427, spec/16_fault_reporting.md)
def SYS_EFPOP_POP : Fld := ⟨0x2000000108, 0, 1, .w1s, 0⟩

-- SYS_EF0 (R427, spec/16_fault_reporting.md)
def SYS_EF0_W : Fld := ⟨0x2000000110, 0, 64, .ro, 0⟩

-- SYS_EF1 (R427, spec/16_fault_reporting.md)
def SYS_EF1_W : Fld := ⟨0x2000000118, 0, 64, .ro, 0⟩

-- SYS_EF2 (R427, spec/16_fault_reporting.md)
def SYS_EF2_W : Fld := ⟨0x2000000120, 0, 64, .ro, 0⟩

-- SYS_EF3 (R427, spec/16_fault_reporting.md)
def SYS_EF3_W : Fld := ⟨0x2000000128, 0, 64, .ro, 0⟩

-- SYS_EFLOST (R427, spec/16_fault_reporting.md)
def SYS_EFLOST_NOTE : Fld := ⟨0x2000000130, 0, 12, .rc, 0⟩
def SYS_EFLOST_MINOR : Fld := ⟨0x2000000130, 12, 12, .rc, 0⟩
def SYS_EFLOST_MAJOR : Fld := ⟨0x2000000130, 24, 12, .rc, 0⟩
def SYS_EFLOST_VITAL : Fld := ⟨0x2000000130, 36, 12, .rc, 0⟩
def SYS_EFLOST_MODULE : Fld := ⟨0x2000000130, 48, 12, .rc, 0⟩

-- SYS_FCNT0 (R427, spec/16_fault_reporting.md)
def SYS_FCNT0_NOTE : Fld := ⟨0x2000000138, 0, 32, .rc, 0⟩
def SYS_FCNT0_MINOR : Fld := ⟨0x2000000138, 32, 32, .rc, 0⟩

-- SYS_FCNT1 (R427, spec/16_fault_reporting.md)
def SYS_FCNT1_MAJOR : Fld := ⟨0x2000000140, 0, 16, .rc, 0⟩
def SYS_FCNT1_VITAL : Fld := ⟨0x2000000140, 16, 16, .rc, 0⟩
def SYS_FCNT1_MODULE : Fld := ⟨0x2000000140, 32, 16, .rc, 0⟩

-- SYS_FEVT (R427, spec/16_fault_reporting.md)
def SYS_FEVT_OVF : Fld := ⟨0x2000000148, 0, 1, .w1c, 0⟩
def SYS_FEVT_REPL : Fld := ⟨0x2000000148, 1, 1, .w1c, 0⟩
def SYS_FEVT_ESC : Fld := ⟨0x2000000148, 2, 1, .w1c, 0⟩
def SYS_FEVT_CODE : Fld := ⟨0x2000000148, 3, 1, .w1c, 0⟩
def SYS_FEVT_MSAFE : Fld := ⟨0x2000000148, 4, 1, .w1c, 0⟩

-- SYS_FIRQ0 (R427, spec/16_fault_reporting.md)
def SYS_FIRQ0_EIID : Fld := ⟨0x2000000150, 0, 8, .rw, 0⟩
def SYS_FIRQ0_HART : Fld := ⟨0x2000000150, 8, 5, .rw, 0⟩
def SYS_FIRQ0_LEVEL : Fld := ⟨0x2000000150, 16, 2, .rw, 0⟩
def SYS_FIRQ0_GUEST : Fld := ⟨0x2000000150, 20, 3, .rw, 0⟩
def SYS_FIRQ0_MINCLS : Fld := ⟨0x2000000150, 24, 3, .rw, 0⟩
def SYS_FIRQ0_ARMED : Fld := ⟨0x2000000150, 27, 1, .ro, 1⟩
def SYS_FIRQ0_ARM : Fld := ⟨0x2000000150, 28, 1, .w1s, 0⟩

-- SYS_FIRQ1 (R427, spec/16_fault_reporting.md)
def SYS_FIRQ1_EIID : Fld := ⟨0x2000000158, 0, 8, .rw, 0⟩
def SYS_FIRQ1_HART : Fld := ⟨0x2000000158, 8, 5, .rw, 0⟩
def SYS_FIRQ1_LEVEL : Fld := ⟨0x2000000158, 16, 2, .rw, 0⟩
def SYS_FIRQ1_GUEST : Fld := ⟨0x2000000158, 20, 3, .rw, 0⟩
def SYS_FIRQ1_MINCLS : Fld := ⟨0x2000000158, 24, 3, .rw, 0⟩
def SYS_FIRQ1_ARMED : Fld := ⟨0x2000000158, 27, 1, .ro, 1⟩
def SYS_FIRQ1_ARM : Fld := ⟨0x2000000158, 28, 1, .w1s, 0⟩

-- SYS_LASTHI0 (R427, spec/16_fault_reporting.md)
def SYS_LASTHI0_FLOC : Fld := ⟨0x2000000160, 0, 64, .ro, 0⟩

-- SYS_LASTHI1 (R427, spec/16_fault_reporting.md)
def SYS_LASTHI1_TSLO : Fld := ⟨0x2000000168, 0, 64, .ro, 0⟩

-- SYS_LASTHI2 (R427, spec/16_fault_reporting.md)
def SYS_LASTHI2_TSHI : Fld := ⟨0x2000000170, 0, 32, .ro, 0⟩
def SYS_LASTHI2_SEQ : Fld := ⟨0x2000000170, 32, 16, .ro, 0⟩

-- SYS_MSAFE (R427, spec/16_fault_reporting.md)
def SYS_MSAFE_KEY : Fld := ⟨0x2000000178, 0, 16, .wo, 0⟩

-- SYS_MSTAT (R427, spec/16_fault_reporting.md)
def SYS_MSTAT_MSAFE : Fld := ⟨0x2000000180, 0, 1, .ro, 0⟩
def SYS_MSTAT_CAUSE : Fld := ⟨0x2000000180, 1, 3, .ro, 0⟩

-- SYS_ESCk_0 (R427, spec/16_fault_reporting.md)
def SYS_ESC_0_MATCH (k : Nat) : Fld := ⟨0x2000000200 + k * 0x18, 0, 64, .rwl, 0⟩

-- SYS_ESCk_1 (R427, spec/16_fault_reporting.md)
def SYS_ESC_1_MASK (k : Nat) : Fld := ⟨0x2000000208 + k * 0x18, 0, 64, .rwl, 0⟩

-- SYS_ESCk_2 (R427, spec/16_fault_reporting.md)
def SYS_ESC_2_EN (k : Nat) : Fld := ⟨0x2000000210 + k * 0x18, 0, 1, .rwl, 0⟩
def SYS_ESC_2_ESCCLS (k : Nat) : Fld := ⟨0x2000000210 + k * 0x18, 1, 3, .rwl, 0⟩
def SYS_ESC_2_N (k : Nat) : Fld := ⟨0x2000000210 + k * 0x18, 4, 4, .rwl, 0⟩
def SYS_ESC_2_WIN (k : Nat) : Fld := ⟨0x2000000210 + k * 0x18, 8, 16, .rwl, 0⟩
def SYS_ESC_2_FIRED (k : Nat) : Fld := ⟨0x2000000210 + k * 0x18, 24, 16, .ro, 0⟩

-- PRL_CTRL (R447, spec/17_pair_redundancy.md)
def PRL_CTRL_EN : Fld := ⟨0x200d000000, 0, 1, .rw, 0⟩
def PRL_CTRL_SIDE : Fld := ⟨0x200d000000, 1, 1, .rws, 0⟩
def PRL_CTRL_OVR : Fld := ⟨0x200d000000, 2, 2, .rws, 0⟩
def PRL_CTRL_SWAP : Fld := ⟨0x200d000000, 4, 1, .w1s, 0⟩

-- PRL_STAT (R447, spec/17_pair_redundancy.md)
def PRL_STAT_ROLE : Fld := ⟨0x200d000008, 0, 2, .ro, 0⟩
def PRL_STAT_PARTNER : Fld := ⟨0x200d000008, 2, 1, .ro, 0⟩
def PRL_STAT_LINK : Fld := ⟨0x200d000008, 3, 2, .ro, 0⟩
def PRL_STAT_READY : Fld := ⟨0x200d000008, 5, 1, .ro, 0⟩
def PRL_STAT_PREADY : Fld := ⟨0x200d000008, 6, 1, .ro, 0⟩
def PRL_STAT_COLD : Fld := ⟨0x200d000008, 7, 1, .ro, 0⟩
def PRL_STAT_CATCHUP : Fld := ⟨0x200d000008, 8, 1, .ro, 0⟩

-- PRL_EPOCH (R447, spec/17_pair_redundancy.md)
def PRL_EPOCH_EPOCH : Fld := ⟨0x200d000010, 0, 16, .ro, 1⟩

-- PRL_PSTAT (R447, spec/17_pair_redundancy.md)
def PRL_PSTAT_ROLE : Fld := ⟨0x200d000018, 0, 2, .ro, 0⟩
def PRL_PSTAT_FLAGS : Fld := ⟨0x200d000018, 2, 8, .ro, 0⟩
def PRL_PSTAT_PEPOCH : Fld := ⟨0x200d000018, 16, 16, .ro, 0⟩
def PRL_PSTAT_PNEPOCH : Fld := ⟨0x200d000018, 32, 16, .ro, 0⟩
def PRL_PSTAT_TSTATE : Fld := ⟨0x200d000018, 48, 2, .ro, 0⟩

-- PRL_MIR (R447, spec/17_pair_redundancy.md)
def PRL_MIR_USED : Fld := ⟨0x200d000020, 0, 32, .ro, 0⟩
def PRL_MIR_BACKLOG : Fld := ⟨0x200d000020, 32, 19, .ro, 0⟩

-- PRL_CNT0 (R447, spec/17_pair_redundancy.md)
def PRL_CNT0_MISSED : Fld := ⟨0x200d000028, 0, 16, .rc, 0⟩
def PRL_CNT0_PROMOTE : Fld := ⟨0x200d000028, 16, 16, .rc, 0⟩
def PRL_CNT0_SWAPS : Fld := ⟨0x200d000028, 32, 16, .rc, 0⟩
def PRL_CNT0_DUALP : Fld := ⟨0x200d000028, 48, 16, .rc, 0⟩

-- PRL_CNT1 (R447, spec/17_pair_redundancy.md)
def PRL_CNT1_LOSTFRM : Fld := ⟨0x200d000030, 0, 16, .rc, 0⟩
def PRL_CNT1_AHEAD : Fld := ⟨0x200d000030, 16, 16, .rc, 0⟩
def PRL_CNT1_MIRDISC : Fld := ⟨0x200d000030, 32, 16, .rc, 0⟩
def PRL_CNT1_BLKSKIP : Fld := ⟨0x200d000030, 48, 16, .rc, 0⟩

-- PRL_STALE (R447, spec/17_pair_redundancy.md)
def PRL_STALE_COUNT : Fld := ⟨0x200d000038, 0, 32, .rc, 0⟩

-- PRL_TSYNC (R447, spec/17_pair_redundancy.md)
def PRL_TSYNC_OFFSET : Fld := ⟨0x200d000040, 0, 32, .ro, 0⟩
def PRL_TSYNC_DELAY : Fld := ⟨0x200d000040, 32, 16, .ro, 0⟩
def PRL_TSYNC_QUAL : Fld := ⟨0x200d000040, 48, 1, .ro, 0⟩

-- PRL_EVT (R447, spec/17_pair_redundancy.md)
def PRL_EVT_ROLECHG : Fld := ⟨0x200d000048, 0, 1, .w1c, 0⟩
def PRL_EVT_PARTCHG : Fld := ⟨0x200d000048, 1, 1, .w1c, 0⟩
def PRL_EVT_LINKCHG : Fld := ⟨0x200d000048, 2, 1, .w1c, 0⟩
def PRL_EVT_DUALP : Fld := ⟨0x200d000048, 3, 1, .w1c, 0⟩
def PRL_EVT_SWAPREF : Fld := ⟨0x200d000048, 4, 1, .w1c, 0⟩
def PRL_EVT_MIRLOSS : Fld := ⟨0x200d000048, 5, 1, .w1c, 0⟩
def PRL_EVT_READYCHG : Fld := ⟨0x200d000048, 6, 1, .w1c, 0⟩

-- PRL_IRQ (R447, spec/17_pair_redundancy.md)
def PRL_IRQ_EIID : Fld := ⟨0x200d000050, 0, 8, .rw, 0⟩
def PRL_IRQ_HART : Fld := ⟨0x200d000050, 8, 5, .rw, 0⟩
def PRL_IRQ_LEVEL : Fld := ⟨0x200d000050, 16, 2, .rw, 0⟩
def PRL_IRQ_GUEST : Fld := ⟨0x200d000050, 20, 3, .rw, 0⟩

-- PRL_BLKb_0 (R447, spec/17_pair_redundancy.md)
def PRL_BLK_0_EN (b : Nat) : Fld := ⟨0x200d000100 + b * 0x20, 0, 1, .rw, 0⟩
def PRL_BLK_0_CP (b : Nat) : Fld := ⟨0x200d000100 + b * 0x20, 1, 4, .rws, 0⟩
def PRL_BLK_0_OWNER (b : Nat) : Fld := ⟨0x200d000100 + b * 0x20, 5, 3, .rws, 4⟩
def PRL_BLK_0_LEN (b : Nat) : Fld := ⟨0x200d000100 + b * 0x20, 8, 15, .rws, 0⟩

-- PRL_BLKb_1 (R447, spec/17_pair_redundancy.md)
def PRL_BLK_1_SRC (b : Nat) : Fld := ⟨0x200d000108 + b * 0x20, 0, 40, .rws, 0⟩

-- PRL_BLKb_2 (R447, spec/17_pair_redundancy.md)
def PRL_BLK_2_DST (b : Nat) : Fld := ⟨0x200d000110 + b * 0x20, 0, 40, .rws, 0⟩

-- PRL_BLKb_3 (R447, spec/17_pair_redundancy.md)
def PRL_BLK_3_CSEQ (b : Nat) : Fld := ⟨0x200d000118 + b * 0x20, 0, 32, .ro, 0⟩
def PRL_BLK_3_HALF (b : Nat) : Fld := ⟨0x200d000118 + b * 0x20, 32, 1, .ro, 0⟩
def PRL_BLK_3_BUSY (b : Nat) : Fld := ⟨0x200d000118 + b * 0x20, 33, 1, .ro, 0⟩
def PRL_BLK_3_ERR (b : Nat) : Fld := ⟨0x200d000118 + b * 0x20, 34, 1, .ro, 0⟩

-- LOG_CTRL (R467, spec/18_logbook.md)
def LOG_CTRL_EN : Fld := ⟨0x200e000000, 0, 1, .rw, 1⟩
def LOG_CTRL_FLUSH : Fld := ⟨0x200e000000, 1, 1, .w1s, 0⟩
def LOG_CTRL_FLUSHMS : Fld := ⟨0x200e000000, 16, 16, .rwl, 1000⟩

-- LOG_STAT (R467, spec/18_logbook.md)
def LOG_STAT_FLUSHING : Fld := ⟨0x200e000008, 0, 1, .ro, 0⟩
def LOG_STAT_GRANT : Fld := ⟨0x200e000008, 1, 1, .ro, 0⟩
def LOG_STAT_PEND : Fld := ⟨0x200e000008, 8, 7, .ro, 0⟩
def LOG_STAT_UNFL : Fld := ⟨0x200e000008, 16, 14, .ro, 0⟩

-- LOG_SEQ (R467, spec/18_logbook.md)
def LOG_SEQ_OLDEST : Fld := ⟨0x200e000010, 0, 32, .ro, 0⟩
def LOG_SEQ_NEXT : Fld := ⟨0x200e000010, 32, 32, .ro, 0⟩

-- LOG_FLSEQ (R467, spec/18_logbook.md)
def LOG_FLSEQ_FIRSTUNF : Fld := ⟨0x200e000018, 0, 32, .ro, 0⟩
def LOG_FLSEQ_FLUSHES : Fld := ⟨0x200e000018, 32, 32, .ro, 0⟩

-- LOG_CNT0 (R467, spec/18_logbook.md)
def LOG_CNT0_RECORDS : Fld := ⟨0x200e000020, 0, 32, .rc, 0⟩
def LOG_CNT0_REPEATS : Fld := ⟨0x200e000020, 32, 32, .rc, 0⟩

-- LOG_CNT1 (R467, spec/18_logbook.md)
def LOG_CNT1_LOST : Fld := ⟨0x200e000028, 0, 16, .rc, 0⟩
def LOG_CNT1_BUFFULL : Fld := ⟨0x200e000028, 16, 16, .rc, 0⟩
def LOG_CNT1_ITEMERR : Fld := ⟨0x200e000028, 32, 16, .rc, 0⟩
def LOG_CNT1_DENIED : Fld := ⟨0x200e000028, 48, 16, .rc, 0⟩

-- LOG_SWTRIG (R467, spec/18_logbook.md)
def LOG_SWTRIG_TRIG : Fld := ⟨0x200e000030, 0, 8, .wo, 0⟩
def LOG_SWTRIG_ARG : Fld := ⟨0x200e000030, 16, 48, .wo, 0⟩

-- LOG_EVT (R467, spec/18_logbook.md)
def LOG_EVT_FLUSHED : Fld := ⟨0x200e000038, 0, 1, .w1c, 0⟩
def LOG_EVT_LOST : Fld := ⟨0x200e000038, 1, 1, .w1c, 0⟩
def LOG_EVT_BUFFULL : Fld := ⟨0x200e000038, 2, 1, .w1c, 0⟩
def LOG_EVT_WRAP : Fld := ⟨0x200e000038, 3, 1, .w1c, 0⟩
def LOG_EVT_CLEARED : Fld := ⟨0x200e000038, 4, 1, .w1c, 0⟩
def LOG_EVT_ITEMERR : Fld := ⟨0x200e000038, 5, 1, .w1c, 0⟩

-- LOG_IRQ (R467, spec/18_logbook.md)
def LOG_IRQ_EIID : Fld := ⟨0x200e000040, 0, 8, .rw, 0⟩
def LOG_IRQ_HART : Fld := ⟨0x200e000040, 8, 5, .rw, 0⟩
def LOG_IRQ_LEVEL : Fld := ⟨0x200e000040, 16, 2, .rw, 0⟩
def LOG_IRQ_GUEST : Fld := ⟨0x200e000040, 20, 3, .rw, 0⟩

-- LOG_CURSOR (R467, spec/18_logbook.md)
def LOG_CURSOR_SEQ : Fld := ⟨0x200e000048, 0, 32, .rw, 0⟩
def LOG_CURSOR_NEXT : Fld := ⟨0x200e000048, 32, 1, .w1s, 0⟩
def LOG_CURSOR_VALID : Fld := ⟨0x200e000048, 33, 1, .ro, 0⟩
def LOG_CURSOR_CODE : Fld := ⟨0x200e000048, 34, 1, .ro, 0⟩

-- LOG_GRANT (R467, spec/18_logbook.md)
def LOG_GRANT_REMAIN : Fld := ⟨0x200e000050, 0, 17, .ro, 0⟩
def LOG_GRANT_DEPOT : Fld := ⟨0x200e000050, 17, 1, .ro, 0⟩

-- LOG_TSEL (R467, spec/18_logbook.md)
def LOG_TSEL_TRIG : Fld := ⟨0x200e000058, 0, 8, .rw, 0⟩

-- LOG_TCTL (R467, spec/18_logbook.md)
def LOG_TCTL_KIND (g : Nat) : Fld := ⟨0x3000100100 + g * 0x1000, 0, 3, .rw, if g = 255 then 1 else 0⟩
def LOG_TCTL_MINCLS (g : Nat) : Fld := ⟨0x3000100100 + g * 0x1000, 4, 3, .rw, if g = 255 then 2 else 0⟩
def LOG_TCTL_PARAM (g : Nat) : Fld := ⟨0x3000100100 + g * 0x1000, 16, 25, .rw, 0⟩

-- LOG_TMATCH (R467, spec/18_logbook.md)
def LOG_TMATCH_MATCH (g : Nat) : Fld := ⟨0x3000100108 + g * 0x1000, 0, 64, .rw, 0⟩

-- LOG_TMASK (R467, spec/18_logbook.md)
def LOG_TMASK_MASK (g : Nat) : Fld := ⟨0x3000100110 + g * 0x1000, 0, 64, .rw, 0⟩

-- LOG_TSTAT (R467, spec/18_logbook.md)
def LOG_TSTAT_ACTIVE (g : Nat) : Fld := ⟨0x3000100118 + g * 0x1000, 0, 1, .ro, 0⟩
def LOG_TSTAT_BUSYWR (g : Nat) : Fld := ⟨0x3000100118 + g * 0x1000, 1, 1, .w1c, 0⟩
def LOG_TSTAT_ERR (g : Nat) : Fld := ⟨0x3000100118 + g * 0x1000, 4, 3, .ro, 0⟩
def LOG_TSTAT_LEN (g : Nat) : Fld := ⟨0x3000100118 + g * 0x1000, 16, 13, .ro, 0⟩
def LOG_TSTAT_FIRED (g : Nat) : Fld := ⟨0x3000100118 + g * 0x1000, 32, 32, .ro, 0⟩

-- LOG_TITEMi (R467, spec/18_logbook.md)
def LOG_TITEM_IKIND (g i : Nat) : Fld := ⟨0x3000100200 + g * 0x1000 + i * 0x8, 0, 3, .rw, if g = 255 ∧ i = 0 then 4 else 0⟩
def LOG_TITEM_ADDR (g i : Nat) : Fld := ⟨0x3000100200 + g * 0x1000 + i * 0x8, 8, 40, .rw, 0⟩
def LOG_TITEM_MLEN (g i : Nat) : Fld := ⟨0x3000100200 + g * 0x1000 + i * 0x8, 48, 5, .rw, 0⟩

-- LOG_WIN (R467, spec/18_logbook.md)
def LOG_WIN_DATA (i : Nat) : Fld := ⟨0x200e001000 + i * 0x8, 0, 64, .ro, 0⟩

-- SYS_PWRSTAT (R488, spec/19_power_wake_startup.md)
def SYS_PWRSTAT_INTR : Fld := ⟨0x2000000300, 0, 1, .ro, 0⟩
def SYS_PWRSTAT_PFAIL : Fld := ⟨0x2000000300, 1, 1, .ro, 0⟩
def SYS_PWRSTAT_SHED : Fld := ⟨0x2000000300, 2, 1, .ro, 0⟩
def SYS_PWRSTAT_HUFULL : Fld := ⟨0x2000000300, 3, 1, .ro, 0⟩
def SYS_PWRSTAT_WAKE1 : Fld := ⟨0x2000000300, 4, 1, .ro, 0⟩
def SYS_PWRSTAT_WAKE2 : Fld := ⟨0x2000000300, 5, 1, .ro, 0⟩
def SYS_PWRSTAT_WOKEBY : Fld := ⟨0x2000000300, 6, 2, .ro, 0⟩
def SYS_PWRSTAT_OFFPEND : Fld := ⟨0x2000000300, 8, 1, .ro, 0⟩
def SYS_PWRSTAT_VREADY : Fld := ⟨0x2000000300, 9, 1, .ro, 0⟩
def SYS_PWRSTAT_FREADY : Fld := ⟨0x2000000300, 10, 1, .ro, 0⟩
def SYS_PWRSTAT_LASTOFF : Fld := ⟨0x2000000300, 16, 3, .ro, 0⟩
def SYS_PWRSTAT_RSTCAUSE : Fld := ⟨0x2000000300, 24, 2, .ro, 0⟩

-- SYS_PWRCTL (R488, spec/19_power_wake_startup.md)
def SYS_PWRCTL_OFFDLY : Fld := ⟨0x2000000308, 0, 12, .rwl, 10⟩

-- SYS_PWROFF (R488, spec/19_power_wake_startup.md)
def SYS_PWROFF_KEY : Fld := ⟨0x2000000310, 0, 16, .wo, 0⟩

-- SYS_RESET (R488, spec/19_power_wake_startup.md)
def SYS_RESET_KEY : Fld := ⟨0x2000000318, 0, 16, .wo, 0⟩

-- SYS_BOOT (R488, spec/19_power_wake_startup.md)
def SYS_BOOT_STAGE : Fld := ⟨0x2000000320, 0, 4, .ro, 0⟩
def SYS_BOOT_TRIADS : Fld := ⟨0x2000000320, 4, 4, .ro, 0⟩
def SYS_BOOT_SVCREADY : Fld := ⟨0x2000000320, 8, 1, .w1s, 0⟩
def SYS_BOOT_ERR : Fld := ⟨0x2000000320, 16, 8, .ro, 0⟩

-- SYS_PWRMON (R488, spec/19_power_wake_startup.md)
def SYS_PWRMON_VIN : Fld := ⟨0x2000000328, 0, 16, .ro, 0⟩
def SYS_PWRMON_EBANK : Fld := ⟨0x2000000328, 16, 16, .ro, 0⟩
def SYS_PWRMON_PIN : Fld := ⟨0x2000000328, 32, 16, .ro, 0⟩

-- SYS_PWRCNT (R488, spec/19_power_wake_startup.md)
def SYS_PWRCNT_INTR : Fld := ⟨0x2000000330, 0, 16, .rc, 0⟩
def SYS_PWRCNT_PFAIL : Fld := ⟨0x2000000330, 16, 16, .rc, 0⟩

-- SYS_PWREVT (R488, spec/19_power_wake_startup.md)
def SYS_PWREVT_INTR : Fld := ⟨0x2000000338, 0, 1, .w1c, 0⟩
def SYS_PWREVT_WAKECHG : Fld := ⟨0x2000000338, 1, 1, .w1c, 0⟩
def SYS_PWREVT_OFFPEND : Fld := ⟨0x2000000338, 2, 1, .w1c, 0⟩
def SYS_PWREVT_VREADY : Fld := ⟨0x2000000338, 3, 1, .w1c, 0⟩
def SYS_PWREVT_FREADY : Fld := ⟨0x2000000338, 4, 1, .w1c, 0⟩

-- SYS_PWRIRQ (R488, spec/19_power_wake_startup.md)
def SYS_PWRIRQ_EIID : Fld := ⟨0x2000000340, 0, 8, .rw, 0⟩
def SYS_PWRIRQ_HART : Fld := ⟨0x2000000340, 8, 5, .rw, 0⟩
def SYS_PWRIRQ_LEVEL : Fld := ⟨0x2000000340, 16, 2, .rw, 0⟩
def SYS_PWRIRQ_GUEST : Fld := ⟨0x2000000340, 20, 3, .rw, 0⟩

-- SYS_ISLi (R488, spec/19_power_wake_startup.md)
def SYS_ISL_QUIESCE (i : Nat) : Fld := ⟨0x2000000400 + i * 0x8, 0, 1, .rw, 0⟩
def SYS_ISL_DRAINED (i : Nat) : Fld := ⟨0x2000000400 + i * 0x8, 1, 1, .ro, 0⟩
def SYS_ISL_RESET (i : Nat) : Fld := ⟨0x2000000400 + i * 0x8, 2, 1, .w1s, 0⟩
def SYS_ISL_INRESET (i : Nat) : Fld := ⟨0x2000000400 + i * 0x8, 3, 1, .ro, 0⟩
def SYS_ISL_STOPPED (i : Nat) : Fld := ⟨0x2000000400 + i * 0x8, 4, 1, .ro, 0⟩
def SYS_ISL_SHED (i : Nat) : Fld := ⟨0x2000000400 + i * 0x8, 5, 1, .ro, 0⟩

-- UPD_CTRL (R509, spec/20_update_and_recovery.md)
def UPD_CTRL_MAXTRY : Fld := ⟨0x200f000000, 0, 4, .rwl, 3⟩

-- UPD_STAT (R509, spec/20_update_and_recovery.md)
def UPD_STAT_PILOT : Fld := ⟨0x200f000008, 0, 1, .ro, 0⟩
def UPD_STAT_BUSY : Fld := ⟨0x200f000008, 1, 1, .ro, 0⟩
def UPD_STAT_BGPASSES : Fld := ⟨0x200f000008, 16, 16, .ro, 0⟩

-- UPD_MAPAREA (R509, spec/20_update_and_recovery.md)
def UPD_MAPAREA_BASE : Fld := ⟨0x200f000010, 0, 40, .rw, 0⟩

-- UPD_EVT (R509, spec/20_update_and_recovery.md)
def UPD_EVT_STAGED : Fld := ⟨0x200f000018, 0, 1, .w1c, 0⟩
def UPD_EVT_ACTIVE : Fld := ⟨0x200f000018, 1, 1, .w1c, 0⟩
def UPD_EVT_DEFER : Fld := ⟨0x200f000018, 2, 1, .w1c, 0⟩
def UPD_EVT_FALLBACK : Fld := ⟨0x200f000018, 3, 1, .w1c, 0⟩
def UPD_EVT_FAIL : Fld := ⟨0x200f000018, 4, 1, .w1c, 0⟩
def UPD_EVT_HOREQ : Fld := ⟨0x200f000018, 5, 1, .w1c, 0⟩

-- UPD_IRQ (R509, spec/20_update_and_recovery.md)
def UPD_IRQ_EIID : Fld := ⟨0x200f000020, 0, 8, .rw, 0⟩
def UPD_IRQ_HART : Fld := ⟨0x200f000020, 8, 5, .rw, 0⟩
def UPD_IRQ_LEVEL : Fld := ⟨0x200f000020, 16, 2, .rw, 0⟩
def UPD_IRQ_GUEST : Fld := ⟨0x200f000020, 20, 3, .rw, 0⟩

-- UPD_HOt_0 (R509, spec/20_update_and_recovery.md)
def UPD_HO_0_ADDR (t : Nat) : Fld := ⟨0x200f000100 + t * 0x10, 0, 40, .rw, 0⟩

-- UPD_HOt_1 (R509, spec/20_update_and_recovery.md)
def UPD_HO_1_EIID (t : Nat) : Fld := ⟨0x200f000108 + t * 0x10, 0, 8, .rw, 0⟩
def UPD_HO_1_HOLEAD (t : Nat) : Fld := ⟨0x200f000108 + t * 0x10, 8, 12, .rw, 100⟩
def UPD_HO_1_READY (t : Nat) : Fld := ⟨0x200f000108 + t * 0x10, 20, 1, .w1s, 0⟩
def UPD_HO_1_HOREQ (t : Nat) : Fld := ⟨0x200f000108 + t * 0x10, 21, 1, .ro, 0⟩
def UPD_HO_1_LEN (t : Nat) : Fld := ⟨0x200f000108 + t * 0x10, 22, 21, .rw, 0⟩

-- UPD_UNITu_0 (R509, spec/20_update_and_recovery.md)
def UPD_UNIT_0_ACTVER (u : Nat) : Fld := ⟨0x200f001000 + u * 0x20, 0, 32, .ro, 0⟩
def UPD_UNIT_0_MINVER (u : Nat) : Fld := ⟨0x200f001000 + u * 0x20, 32, 32, .ro, 0⟩

-- UPD_UNITu_1 (R509, spec/20_update_and_recovery.md)
def UPD_UNIT_1_OTHVER (u : Nat) : Fld := ⟨0x200f001008 + u * 0x20, 0, 32, .ro, 0⟩
def UPD_UNIT_1_ACTSLOT (u : Nat) : Fld := ⟨0x200f001008 + u * 0x20, 32, 1, .ro, 0⟩
def UPD_UNIT_1_CONF (u : Nat) : Fld := ⟨0x200f001008 + u * 0x20, 33, 1, .ro, 0⟩
def UPD_UNIT_1_OTHSTATE (u : Nat) : Fld := ⟨0x200f001008 + u * 0x20, 34, 3, .ro, 0⟩
def UPD_UNIT_1_PEND (u : Nat) : Fld := ⟨0x200f001008 + u * 0x20, 37, 1, .ro, 0⟩
def UPD_UNIT_1_TRIES (u : Nat) : Fld := ⟨0x200f001008 + u * 0x20, 38, 4, .ro, 0⟩
def UPD_UNIT_1_LASTERR (u : Nat) : Fld := ⟨0x200f001008 + u * 0x20, 42, 8, .ro, 0⟩
def UPD_UNIT_1_FAILED (u : Nat) : Fld := ⟨0x200f001008 + u * 0x20, 50, 1, .ro, 0⟩

-- UPD_UNITu_2 (R509, spec/20_update_and_recovery.md)
def UPD_UNIT_2_WPLO (u : Nat) : Fld := ⟨0x200f001010 + u * 0x20, 0, 64, .ro, 0⟩

-- UPD_UNITu_3 (R509, spec/20_update_and_recovery.md)
def UPD_UNIT_3_WPHI (u : Nat) : Fld := ⟨0x200f001018 + u * 0x20, 0, 32, .ro, 0⟩

-- SYS_SERIAL (R533, spec/21_connectors_mechanical_environment.md)
def SYS_SERIAL_SERIAL : Fld := ⟨0x2000000008, 0, 32, .ro, 1⟩
def SYS_SERIAL_DATE : Fld := ⟨0x2000000008, 32, 16, .ro, 0⟩

-- SYS_THERM (R533, spec/21_connectors_mechanical_environment.md)
def SYS_THERM_TREF : Fld := ⟨0x2000000500, 0, 8, .ro, 0⟩
def SYS_THERM_TMAX : Fld := ⟨0x2000000500, 8, 8, .ro, 0⟩
def SYS_THERM_TSTATE : Fld := ⟨0x2000000500, 16, 2, .ro, 0⟩
def SYS_THERM_COVER : Fld := ⟨0x2000000500, 18, 1, .ro, 0⟩
def SYS_THERM_HOTSEC : Fld := ⟨0x2000000500, 32, 16, .ro, 0⟩

-- SYS_BINN (R533, spec/21_connectors_mechanical_environment.md)
def SYS_BINN_DISP : Fld := ⟨0x2000000508, 0, 32, .ro, 0⟩
def SYS_BINN_SET : Fld := ⟨0x2000000508, 32, 1, .ro, 0⟩
def SYS_BINN_ADJ : Fld := ⟨0x2000000508, 33, 1, .ro, 0⟩
def SYS_BINN_DARK : Fld := ⟨0x2000000508, 34, 1, .ro, 0⟩

-- MDB_STAT (R299, spec/10_multidrop_buses.md)
def MDB_STAT_EN : Fld := ⟨0x2008000000, 0, 6, .ro, 0⟩
def MDB_STAT_BUSOFF : Fld := ⟨0x2008000000, 8, 6, .ro, 0⟩

-- PRL_LSTAT (R448, spec/17_pair_redundancy.md)
def PRL_LSTAT_LINK (n : Nat) : Fld := ⟨0x200d010000 + n * 0x1000, 0, 1, .ro, 0⟩
def PRL_LSTAT_MASTER (n : Nat) : Fld := ⟨0x200d010000 + n * 0x1000, 1, 1, .ro, 0⟩

-- PRL_LCNT (R448, spec/17_pair_redundancy.md)
def PRL_LCNT_TXFRM (n : Nat) : Fld := ⟨0x200d010008 + n * 0x1000, 0, 32, .rc, 0⟩
def PRL_LCNT_FCSERR (n : Nat) : Fld := ⟨0x200d010008 + n * 0x1000, 32, 16, .rc, 0⟩
def PRL_LCNT_LOSTFRM (n : Nat) : Fld := ⟨0x200d010008 + n * 0x1000, 48, 16, .rc, 0⟩

end Sys2Proof.Machine
end

