-- ==== Sys2Proof/Machine/Ops.lean ====
section
/-! DEFINITION. The named operations over registers, memory, the word code, fault reports and interrupts, which every command's meaning
is built from. -/

namespace Sys2Proof.Machine

/-! ### Register fields -/

/-- The value a field holds: what a read returns (R16, R31). -/
def getF (s : State) (f : Fld) : Nat := (kget 0 s.flds f.key) ^^^ f.rst

/-- Set a field to v, cut to its width. -/
def setF (s : State) (f : Fld) (v : Nat) : State :=
  { s with flds := kput 0 s.flds f.key ((v % 2 ^ f.w) ^^^ f.rst) }

/-- The value of an RWL field in force (R31). -/
def liveF (s : State) (f : Fld) : Nat := (kget 0 s.live f.key) ^^^ f.rst

/-- Set an RWL field's value in force. -/
def setLive (s : State) (f : Fld) (v : Nat) : State :=
  { s with live := kput 0 s.live f.key ((v % 2 ^ f.w) ^^^ f.rst) }

/-- A field that is 1. -/
def onF (s : State) (f : Fld) : Bool := getF s f == 1

/-- A live field in force that is 1. -/
def onL (s : State) (f : Fld) : Bool := liveF s f == 1

/-- Set a field from a truth value. -/
def setB (s : State) (f : Fld) (b : Bool) : State := setF s f (b2n b)

/-- Add n to a saturating counter field. -/
def addF (s : State) (f : Fld) (n : Nat) : State := setF s f (min (getF s f + n) (2 ^ f.w - 1))

/-- Count one in a saturating counter field. -/
def incF (s : State) (f : Fld) : State := addF s f 1

/-- Count one in a wrapping counter field. -/
def incW (s : State) (f : Fld) : State := setF s f (getF s f + 1)

/-- Set or clear bit i of a field. -/
def setFBit (s : State) (f : Fld) (i : Nat) (b : Bool) : State := setF s f (putBit (getF s f) i b)

/-- Bit i of a field. -/
def bitF (s : State) (f : Fld) (i : Nat) : Bool := bit (getF s f) i

/-- v where it lies in [lo, hi], otherwise d: the "other values are taken as" of the field tables. -/
def orElse (v lo hi d : Nat) : Nat := if lo ≤ v ∧ v ≤ hi then v else d

/-! ### Free values and what leaves the module -/

/-- The next free value, of w bits (notes/assumptions/1.md). -/
def free (s : State) (w : Nat) : Nat := (Config.freeValue s.nfree).toNat % 2 ^ w

/-- The free value has been used. -/
def useFree (s : State) : State := { s with nfree := s.nfree + 1 }

/-- Set a field to a free value (R62). -/
def setFree (s : State) (f : Fld) : State := useFree (setF s f (free s f.w))

/-- Record what leaves the module. -/
def emit (s : State) (o : Out) : State := { s with out := o :: s.out }

/-- Answer a register access with a value. -/
def answer (s : State) (r : Req) (v : Nat) : State := emit s (.value r v)

/-- Answer an access with a refusal. -/
def deny (s : State) (r : Req) (w : AccFault) : State := emit s (.denied r w)

/-! ### Fault reports (R415–R417) -/

/-- The fault location word of a report (R416). -/
def floc (r : Report) : Nat :=
  r.loc.die % 8 + r.loc.isl % 16 * 2 ^ 3 + r.loc.tile % 256 * 2 ^ 7 + r.loc.mac % 256 * 2 ^ 15
    + r.word % 2 ^ 24 * 2 ^ 23 + r.bitNo % 512 * 2 ^ 47 + r.cls % 8 * 2 ^ 56

/-- The counter of lost reports of a class (R417, R420). -/
def lostFld (cls : Nat) : Fld :=
  if cls = 0 then SYS_EFLOST_NOTE else if cls = 1 then SYS_EFLOST_MINOR else if cls = 2 then SYS_EFLOST_MAJOR
  else if cls = 3 then SYS_EFLOST_VITAL else SYS_EFLOST_MODULE

/-- The lowest class in a list of classes, or 8 where it is empty. -/
def lowest : List Nat → Nat
  | [] => 8
  | c :: r => min c (lowest r)

/-- Drop the first element that p picks. -/
def dropFirst {α : Type} (p : α → Bool) : List α → List α
  | [] => []
  | x :: r => if p x then r else x :: dropFirst p r

/-- A unit of island `via` raises a report into its island's four waiting places; with all four taken, the class decides
which report is lost (R417). -/
def raiseVia (via : Nat) (r : Report) (s : State) : State :=
  let mine := s.waiting.filter fun p => p.1 == via
  if mine.length < 4 then { s with waiting := s.waiting ++ [(via, r)] }
  else
    let low := lowest (mine.map fun p => p.2.cls)
    if low < r.cls then
      incF { s with waiting := dropFirst (fun p => p.1 == via && p.2.cls == low) s.waiting ++ [(via, r)] } (lostFld low)
    else incF s (lostFld r.cls)

/-- Raise a report of a class at a place, through the place's own island. -/
def raise (cls : Nat) (l : Loc) (s : State) : State := raiseVia l.isl { cls := cls, loc := l } s

/-- The same with a requester named (R419). -/
def raiseReq (cls : Nat) (l : Loc) (req : Nat) (s : State) : State := raiseVia l.isl { cls := cls, loc := l, req := req } s

/-- Raise a report the first time in a Rhumbline cycle that its key occurs (R56). -/
def raiseOnce (key cls : Nat) (l : Loc) (s : State) : State :=
  if s.onceCycle.contains key then s else raise cls l { s with onceCycle := key :: s.onceCycle }

def NOTE : Nat := 0
def MINOR : Nat := 1
def MAJOR : Nat := 2
def VITAL : Nat := 3
def MODULE : Nat := 4

/-- The REQ code of a requester (R419). -/
def reqCode : Req → Nat
  | .triad t => t.val
  | .hart h _ => 0x10 + h.val
  | .debugger => 0x61
  | .bridge => 0x60
  | .engine b _ => 0x40 + b.val
  | .scrubber => 0x62

/-- The hart number of a requester that is a hart (R126, R90). -/
def hartOf : Req → Option Nat
  | .triad t => some t.val
  | .hart h _ => some (16 + h.val)
  | _ => none

/-- A voted triad, or a service hart at machine level. -/
def isTriadOrMach : Req → Bool
  | .triad _ => true
  | .hart _ m => m
  | _ => false

/-- A service hart at machine level. -/
def isMach : Req → Bool
  | .hart _ m => m
  | _ => false

/-- A voted triad. -/
def isTriad : Req → Bool
  | .triad _ => true
  | _ => false

/-- The place in a fault location word of a register block as a whole (R20, R21; notes/assumptions/12.md). -/
def blkLoc (blk : Nat) : Loc :=
  if blk = 0 then ⟨0, 0x0, 0x76, 0xFF⟩ else if blk = 1 then ⟨0, 0x1, 0xFF, 0xFF⟩ else if blk = 2 then ⟨0, 0x2, 0xFF, 0xFF⟩
  else if blk = 3 then ⟨0, 0x4, 0x3A, 0xFF⟩ else if blk = 4 then ⟨0, 0x7, 0x72, 0xFF⟩ else if blk = 5 then ⟨0, 0x8, 0x73, 0xFF⟩
  else if blk = 6 then ⟨0, 0x6, 0x71, 0xFF⟩ else if blk = 7 then ⟨0, 0x6, 0x57, 0xFF⟩ else if blk = 8 then ⟨0, 0x9, 0xFF, 0xFF⟩
  else if blk = 9 then ⟨0, 0xA, 0x68, 0xFF⟩ else if blk = 10 then ⟨2, 0xB, 0x88, 0xFF⟩ else if blk = 11 then ⟨0, 0xC, 0xFF, 0xFF⟩
  else if blk = 12 then ⟨0, 0x3, 0x78, 0xFF⟩ else if blk = 13 then ⟨0, 0x6, 0x54, 0xFF⟩ else if blk = 14 then ⟨0, 0x5, 0x74, 0xFF⟩
  else ⟨0, 0x5, 0x3B, 0xFF⟩

/-- The block of a register address (R27). -/
def blkOf (addr : Nat) : Nat := addr / 2 ^ 24 % 16

/-- Free-running nanoseconds since power-up (R162). -/
def freeCnt (s : State) : Nat := getF s MER_FREECNT_COUNT

/-! ### Value crossings (R399–R404, R408) -/

/-- The island answers register accesses: it is not quiesced, not held in reset and not shed (R401, R414). -/
def islandAnswers (s : State) (i : Nat) : Bool :=
  !(onF s (SYS_ISL_QUIESCE i) || onF s (SYS_ISL_INRESET i) || onF s (SYS_ISL_SHED i))

/-- An access or a transfer reaches an island: its 100 µs of rest begin again (R399), and it starts its clock where it had stopped (R400). -/
def wakeIsland (s : State) (i : Nat) : State :=
  let s1 : State := { s with quiet := kput 0 s.quiet i 0 }
  if onF s (SYS_ISL_STOPPED i) && islandAnswers s i then setF s1 (SYS_ISL_STOPPED i) 0 else s1

/-- An island that shedding has stopped, that is held in reset or that stands without its clock in standby takes part in nothing (R401, R473, R480, R486). -/
def asleep (s : State) (i : Nat) : Bool := onF s (SYS_ISL_SHED i) || onF s (SYS_ISL_INRESET i) || s.pwr.phase == 0

/-- The clock of an island runs, and it is not held in reset (R399, R400). -/
def clocked (s : State) (i : Nat) : Bool := !asleep s i && !onF s (SYS_ISL_STOPPED i)

/-- A value is on one crossing, in one direction. -/
def Xing.on (num tx sub : Nat) (x : Xing) : Bool := x.num == num && x.tx == tx && x.sub == sub

/-- Value lanes of a crossing in one direction: 8 on the fabric side (R404, R409). -/
def xingLanes (num : Nat) : Nat := if 1 ≤ num ∧ num ≤ 12 then 8 else 1

/-- Values of a crossing that the receiver has not taken yet. -/
def unTaken (num tx sub : Nat) (s : State) : List Xing := s.xings.filter fun x => x.on num tx sub && !x.ack

/-- A value of a crossing whose handshake is in progress, in phases 1 to 4. -/
def Xing.busy (x : Xing) : Bool := x.req || x.ack

/-- The crossing can be loaded: no value waits for it, and of its lanes one is idle (R403, R404). -/
def laneFree (num tx sub : Nat) (l : List Xing) : Bool :=
  let on := l.filter fun x => x.on num tx sub
  on.all (·.busy) && decide (on.length < xingLanes num)

/-- A value joins its crossing: taken (phase 2), loaded where a lane is free and the sender may offer (phase 1), or waiting behind the others (R403, R404, R408, R414). -/
def loadXing (num tx rx sub : Nat) (req taken : Bool) (v : XVal) (s : State) : State :=
  { s with xings := s.xings ++ [{ num := num, tx := tx, rx := rx, sub := sub, req := req, ack := taken, at' := freeCnt s, data := v }] }

/-- Send a value over a crossing. A receiver that runs takes it at once where no other is ahead of it, which is `f`; a stopped one wakes for it; one that is quiesced, in reset or shed
leaves it offered, and what is sent later waits behind it (R400, R403, R404, R408, R414). -/
def crossVia (sub num tx rx : Nat) (v : XVal) (f : State → State) (s : State) : State :=
  let may := laneFree num tx sub s.xings && islandAnswers s tx
  if may && (unTaken num tx sub s).isEmpty && islandAnswers s rx then f (loadXing num tx rx sub true true v (wakeIsland s rx))
  else loadXing num tx rx sub may false v s

/-- The same over a crossing with one receiver. -/
def cross (num tx rx : Nat) (v : XVal) (f : State → State) (s : State) : State := crossVia 0 num tx rx v f s

/-- The number of the crossing between an island and the fabric (R409). -/
def fabXing (i : Nat) : Nat :=
  if i = 1 then 1 else if i = 2 then 2 else if i = 4 then 3 else if i = 5 then 4 else if i = 6 then 5 else if i = 8 then 6 else if i = 9 then 7
  else if i = 0xA then 8 else if i = 0xB then 9 else if i = 0xC then 10 else if i = 7 then 11 else 12

/-! ### Interrupts (R57–R59) -/

/-- The page of an interrupt file, where it exists (R57). -/
def filePage (hart level guest : Nat) : Option Nat :=
  let svc := 16 ≤ hart && hart ≤ 31
  if level = 0 then (if hart ≤ 3 || svc then some (0x2080000000 + hart * 0x1000) else none)
  else if level = 1 then (if svc then some (0x2081000000 + hart * 0x1000) else none)
  else if level = 2 then (if svc && 1 ≤ guest && guest ≤ 7 then some (0x2082000000 + hart * 0x8000 + guest * 0x1000) else none)
  else none

/-- Write an identity into an interrupt file: identities 1 to 255 become pending (R57). -/
def setPending (s : State) (page eiid : Nat) : State :=
  if 1 ≤ eiid ∧ eiid ≤ 255 then { s with ifiles := kput 0 s.ifiles (page + eiid) 1 } else s

/-- The island that holds an interrupt file: VIT for the triads' files, SVC for the others (R20, R57). -/
def fileIsland (page : Nat) : Nat := if page < 0x2080010000 then 1 else 2

/-- An interrupt write reaches the island of its file over crossing 1 or 2 (R57, R409). -/
def writeFile (s : State) (page eiid : Nat) : State := cross (fileIsland page) 3 (fileIsland page) (.msi page eiid) (fun t => setPending t page eiid) s

/-- An island sends an interrupt write; while it is quiesced it offers none, and the write waits in it (R414). -/
def offerMsi (isl page eiid : Nat) (s : State) : State :=
  if onF s (SYS_ISL_QUIESCE isl) then loadXing (fabXing isl) isl 3 0 false false (.msi page eiid) s else writeFile s page eiid

/-- An identity is pending in a file. -/
def isPending (s : State) (page eiid : Nat) : Bool := kget 0 s.ifiles (page + eiid) == 1

/-- Send an identity to a file; 0 sends nothing; a file that does not exist is a MINOR report of the sender (R58). -/
def sendMsi (l : Loc) (eiid hart level guest : Nat) (s : State) : State :=
  if eiid = 0 then s
  else match filePage hart level guest with
    | some p => offerMsi l.isl p eiid s
    | none => raise MINOR l s

/-- Send the identity of an interrupt-target register with the layout of `MDB_IRQ` (R299, R48). -/
def sendTarget (l : Loc) (a : Nat) (s : State) : State :=
  sendMsi l (getF s ⟨a, 0, 8, .rw, 0⟩) (getF s ⟨a, 8, 5, .rw, 0⟩) (getF s ⟨a, 16, 2, .rw, 0⟩) (getF s ⟨a, 20, 3, .rw, 0⟩) s

/-- Set an event bit; its block's event interrupt is sent when the bit goes from 0 to 1. -/
def setEvt (l : Loc) (f : Fld) (irq : Nat) (s : State) : State :=
  if onF s f then s else sendTarget l irq (setF s f 1)

/-! ### Time (R160–R166) -/

/-- One nanosecond in the time value's unit of 2⁻³² ns. -/
def nsU : Nat := 2 ^ 32

/-- The time value wraps after 2^48 seconds. -/
def timeMod : Nat := 2 ^ 48 * 1000000000 * nsU

/-- The time value in whole nanoseconds. -/
def nowNs (s : State) : Nat := s.mer.t / nsU

/-- The power-cycle count that timestamps carry (R165). -/
def pccOut (s : State) : Nat := if onF s MER_PCC_INVALID || onF s MER_PCC_SAT then 0 else getF s MER_PCC_COUNT

/-- The TS96 of a time in nanoseconds in a time state, with the power-cycle count in force (R164). -/
def tsIn (s : State) (st ns : Nat) : Nat := ns % 1000000000 + st * 2 ^ 30 + ns / 1000000000 % 2 ^ 48 * 2 ^ 32 + pccOut s * 2 ^ 80

/-- The time state of an instant, `k` changes of the time value's course before the present one: between two changes, or before the first, the time value runs from just after
the older to just before the newer; an instant that lies in no such run with k = 0 is looked for in the one before. -/
def stateIn : List (Nat × Nat × Nat) → Nat → Nat → Nat → Nat → Nat
  | [], st, _, _, _ => st
  | (b, before, after) :: r, st, hi, ns, k =>
    if k = 0 ∧ after ≤ ns ∧ ns ≤ hi then st else stateIn r b before ns (k - 1)

/-- The number of nanoseconds after which the time value wraps. -/
def timeSpan : Nat := 2 ^ 48 * 1000000000

/-- The time state that was in force at an instant: in the newest run of the time value that holds it. A command whose instant lies in an older run adds the span of the time value
once for each step or change of state that has come since (R174; notes/assumptions/67.md). -/
def stateAt (s : State) (ns : Nat) : Nat := stateIn s.mer.was (getF s MER_STAT_STATE) (nowNs s) (ns % timeSpan) (ns / timeSpan)

/-- The TS96 of an instant that has passed, in nanoseconds: it carries the time state in force then (R164, R174). -/
def tsOf (s : State) (ns : Nat) : Nat := tsIn s (stateAt s ns) ns

/-- The TS96 of now (R164). -/
def ts96 (s : State) : Nat := tsIn s (getF s MER_STAT_STATE) (nowNs s)

/-- The 64-bit timestamp of a Chart entry: TS96 bits [63:0] (R164). -/
def ts64 (s : State) : Nat := ts96 s % 2 ^ 64

/-! ### The word code (R67–R70) -/

/-- Multiply by α = 0x02 in GF(2⁸) modulo 0x11D (R67). -/
def xtime (a : Nat) : Nat := if 128 ≤ a then (2 * a) ^^^ 0x11D else 2 * a

/-- Multiply in GF(2⁸): n bits of b are left, the lowest first. -/
def gfMulAux : Nat → Nat → Nat → Nat
  | 0, _, _ => 0
  | n + 1, a, b => (if b % 2 = 1 then a else 0) ^^^ gfMulAux n (xtime a) (b / 2)

/-- The product in GF(2⁸) (R67). -/
def gfMul (a b : Nat) : Nat := gfMulAux 8 a b

/-- One step of the division by g(x) = x⁴ + 0x0F·x³ + 0x36·x² + 0x78·x + 0x40: the remainder (r3, r2, r1, r0) after the
next coefficient d (R67, R68). -/
def rsStep (r : Nat × Nat × Nat × Nat) (d : Nat) : Nat × Nat × Nat × Nat :=
  let f := r.1 ^^^ d
  (r.2.1 ^^^ gfMul f 0x0F, r.2.2.1 ^^^ gfMul f 0x36, r.2.2.2 ^^^ gfMul f 0x78, gfMul f 0x40)

/-- The check bytes C0–C3 of 32 data bytes (R68): the remainder of Σ D_k·x^(k+4), highest degree first. -/
def checkBytes (d : List Byte) : List Byte :=
  let r := (d.reverse.map (·.toNat)).foldl rsStep (0, 0, 0, 0)
  [BitVec.ofNat 8 r.2.2.2, BitVec.ofNat 8 r.2.2.1, BitVec.ofNat 8 r.2.1, BitVec.ofNat 8 r.1]

/-- Multiply by α n times. -/
def xtimes (n a : Nat) : Nat := iter xtime n a

/-- Syndrome S_i of a codeword given as coefficients from degree 35 down (R68), by Horner's rule. -/
def syndrome (i : Nat) (c : List Nat) : Nat := c.foldl (fun acc x => xtimes i acc ^^^ x) 0

/-- The four syndromes of 36 symbols in symbol order (R68: symbol k < 32 is degree k + 4, symbol 32 + j degree j). -/
def syndromes (sym : List Byte) : Nat × Nat × Nat × Nat :=
  let c := ((sym.drop 32) ++ (sym.take 32)).reverse.map (·.toNat)
  (syndrome 0 c, syndrome 1 c, syndrome 2 c, syndrome 3 c)

/-- The verdict of a codeword (R69). -/
inductive Verdict where
  | clean | poisoned
  | one (sym : Nat) (val : Nat)
  | uncorrectable
  deriving DecidableEq, Repr

/-- The degree p in 0–35 with S1 = S0·α^p, searched from p on. -/
def findDegree : Nat → Nat → Nat → Nat → Option Nat
  | 0, _, _, _ => none
  | n + 1, p, cur, s1 => if cur = s1 then some p else findDegree n (p + 1) (xtime cur) s1

/-- Classify a codeword by its syndromes: the first row that matches (R69). -/
def classify (y : Nat × Nat × Nat × Nat) : Verdict :=
  if y = (0, 0, 0, 0) then .clean
  else if y = (0x00, 0x6C, 0x5E, 0xF0) then .poisoned
  else if y.1 ≠ 0 ∧ gfMul y.2.1 y.2.1 = gfMul y.1 y.2.2.1 ∧ gfMul y.2.2.1 y.2.2.1 = gfMul y.2.1 y.2.2.2 then
    match findDegree 36 0 y.1 y.2.1 with
    | some p => .one (if 4 ≤ p then p - 4 else 32 + p) y.1
    | none => .uncorrectable
  else .uncorrectable

/-- The syndromes as `MEM_LASTSYN.SYND` holds them (R98). -/
def syndWord (y : Nat × Nat × Nat × Nat) : Nat := y.1 + y.2.1 * 2 ^ 8 + y.2.2.1 * 2 ^ 16 + y.2.2.2 * 2 ^ 24

/-! ### Triads -/

/-- Triad t's state beyond its registers. -/
def triad (s : State) (t : Nat) : Triad := s.triads.getD t {}

/-- Change triad t. -/
def modTriad (s : State) (t : Nat) (f : Triad → Triad) : State := { s with triads := modAt s.triads t f }

/-! ### Memory (R64, R68, R74) -/

/-- Memory is in its canonical form: addresses strictly rising, no byte listed that reads as an unlisted one (R79). -/
def Memory.wf (m : List Host.Cell) : Bool := kwf 0 m

/-- The codeword number of an address. -/
def cwOf (a : Nat) : Nat := a / 32

/-- Store bytes from an address, without touching check bytes. -/
def putBytes (m : List Host.Cell) : Nat → List Byte → List Host.Cell
  | _, [] => m
  | a, b :: r => putBytes (kput 0 m a b) (a + 1) r

/-- The 36 symbols of a codeword in DRAM or non-volatile memory (R68). -/
def homeWord (s : State) (cw : Nat) : List Byte :=
  ((List.range 32).map fun i => kget 0 s.mem (32 * cw + i)) ++ (List.range 4).map fun j => kget 0 s.chk (4 * cw + j)

/-- Replace a codeword in DRAM or non-volatile memory by 36 symbols. -/
def putHome (s : State) (cw : Nat) (w : List Byte) : State :=
  { s with mem := putBytes s.mem (32 * cw) (w.take 32), chk := putBytes s.chk (4 * cw) (w.drop 32) }

/-! ### Caches (R71, R90, R102, R111; notes/assumptions/63.md) -/

/-- An array of L1 of lane p of triad t, as a number. -/
def laneUnit (t p : Nat) (instr : Bool) : Nat := 96 + 8 * t + 2 * p + (if instr then 0 else 1)

/-- The cache or engine buffer that a source names, as a number; 0 for the memories themselves. A lane's L1I has the macros 0x03 and 0x04 (R132). -/
def cacheUnit : MemSrc → Nat
  | .dram => 0
  | .nvm => 0
  | .l3 sl _ _ => 16 + sl.val
  | .triadL2 t _ _ => 32 + t.val
  | .serviceL2 c _ _ => 48 + c.val
  | .serviceL1 c i _ _ => 64 + 2 * c.val + (if i then 0 else 1)
  | .laneL1 t p m _ _ _ => laneUnit t p (m ≤ 4)
  | .engineBuf b _ _ => 160 + b.val

/-- The unit is a lane's L1. -/
def isLaneUnit (u : Nat) : Bool := 96 ≤ u && u < 160

/-- A line's unit. -/
def CLine.unit (c : CLine) : Nat := cacheUnit c.src

/-- The line that a unit holds. -/
def lineAt (s : State) (u line : Nat) : Option CLine := s.caches.find? fun c => c.unit == u && c.line == line

/-- The line that stands for a codeword where memory is older; a lane's L1 is never it (R102). -/
def dirtyLine (s : State) (cw : Nat) : Option CLine := s.caches.find? fun c => c.dirty && c.line == cw / 2 && !isLaneUnit c.unit

/-- The symbols of a codeword in its line. -/
def CLine.word (c : CLine) (cw : Nat) : List Byte := if cw % 2 = 0 then c.sym.take 36 else c.sym.drop 36

/-- A line with the symbols of a codeword replaced. -/
def CLine.put (c : CLine) (cw : Nat) (w : List Byte) : CLine :=
  { c with sym := if cw % 2 = 0 then w ++ c.sym.drop 36 else c.sym.take 36 ++ w }

/-- Change the line that a unit holds. -/
def modLine (s : State) (u line : Nat) (f : CLine → CLine) : State :=
  { s with caches := s.caches.map fun c => if c.unit = u ∧ c.line = line then f c else c }

/-- Sets and lines per set of a unit: 4 ways in a lane's L1 and 16 in a triad's L2; for the other caches only their size is given (R90, R102, R111). -/
def geometry (u : Nat) : Nat × Nat :=
  if u < 32 then (1, 65536) else if u < 48 then (2048, 16) else if u < 64 then (1, 16384) else if u < 96 then (1, 1024)
  else if u < 160 then (256, 4) else (1, 1)

/-- The 36 symbols of a codeword as the module's coherent memory has it (R39, R68). -/
def codeword (s : State) (cw : Nat) : List Byte :=
  match dirtyLine s cw with
  | some c => c.word cw
  | none => homeWord s cw

/-- The symbols of a codeword in the macro that a source names, which holds it. -/
def wordIn (s : State) (src : MemSrc) (cw : Nat) : List Byte :=
  match lineAt s (cacheUnit src) (cw / 2) with
  | some c => c.word cw
  | none => homeWord s cw

/-- Replace them. -/
def putIn (src : MemSrc) (cw : Nat) (w : List Byte) (s : State) : State :=
  if cacheUnit src = 0 then putHome s cw w else modLine s (cacheUnit src) (cw / 2) fun c => c.put cw w

/-- One data byte of the coherent memory. -/
def memByte (s : State) (a : Nat) : Byte := (codeword s (cwOf a)).getD (a % 32) 0

/-- n data bytes as stored, from address a. -/
def memRaw (s : State) (a n : Nat) : List Byte := (List.range n).map fun i => memByte s (a + i)

/-- Replace a codeword by 36 symbols where the coherent memory has it. -/
def putSymbols (s : State) (cw : Nat) (d c : List Byte) : State :=
  match dirtyLine s cw with
  | some l => modLine s l.unit l.line fun x => x.put cw (d ++ c)
  | none => putHome s cw (d ++ c)

/-- Store 32 data bytes with fresh check bytes: the codeword is clean (R74). -/
def putCodeword (s : State) (cw : Nat) (d : List Byte) : State := putSymbols s cw d (checkBytes d)

/-- Store a codeword poisoned: data as they are, check bytes inverted (R75). -/
def putPoisoned (s : State) (cw : Nat) (d : List Byte) : State := putSymbols s cw d ((checkBytes d).map fun b => ~~~b)

/-- XOR an error into symbols. -/
def xorSyms (sym : List Byte) (e : List (Fin 36 × Byte)) : List Byte :=
  e.foldl (fun l p => modAt l p.1.val (· ^^^ p.2)) sym

/-- What a reader of a codeword gets: its 32 data bytes, corrected where one symbol is bad, or nothing where it is poisoned
or uncorrectable (R69, R70). -/
def readCw (s : State) (cw : Nat) : Option (List Byte) :=
  let w := codeword s cw
  match classify (syndromes w) with
  | .clean => some (w.take 32)
  | .one k v => some ((modAt w k (· ^^^ BitVec.ofNat 8 v)).take 32)
  | _ => none

/-- The data of n codewords from cw on, or nothing where one of them is not readable. -/
def readCws (s : State) : Nat → Nat → Option (List Byte)
  | _, 0 => some []
  | cw, n + 1 => match readCw s cw, readCws s (cw + 1) n with
    | some a, some b => some (a ++ b)
    | _, _ => none

/-- What an engine reads: n bytes from address a, or nothing where a codeword is uncorrectable or poisoned (R76). -/
def readMem (s : State) (a n : Nat) : Option (List Byte) :=
  if n = 0 then some []
  else (readCws s (cwOf a) (cwOf (a + n - 1) + 1 - cwOf a)).map fun l => (l.drop (a % 32)).take n

/-- DRAM, by R64. -/
def inDram (a : Nat) : Bool := a < 0x0800000000

/-- Non-volatile memory, by R64. -/
def inNvm (a : Nat) : Bool := 0x1000000000 ≤ a && a < 0x1080000000

/-! ### Recording and reporting of corrections and uncorrectable reads (R77, R405, R536) -/

/-- The storage macro of a codeword as reports and `MEM_LASTADR` name it: SRC code, the clock island that reports it, its place, and the index
of the codeword in the macro (R25, R77, R98). -/
structure Macro where
  src : Nat
  via : Nat
  loc : Loc
  word : Nat

/-- The macro that a source names for a codeword at address a; `dev` is the device of the bad symbol (R78, R80, R132). DESIGN CHOICE: the buffers of every engine but
the Chart's are named by tile 0x70, the network engine, in island NET; the spec names no tile for them (notes/assumptions/66.md). -/
def macroOf (src : MemSrc) (a dev : Nat) (core : Nat) : Macro :=
  match src with
  | .dram => ⟨0, 4, ⟨5, 0xF, dev, a / 2 ^ 9 % 16⟩, 0xFFFFFE⟩
  | .nvm => ⟨1, 5, ⟨6, 0xF, dev, a / 2 ^ 9 % 8⟩, 0xFFFFFE⟩
  | .l3 sl m w => ⟨2, 3, ⟨0, 0x3, 0x31 + sl.val, m⟩, w⟩
  | .triadL2 t m w => ⟨3, 1, ⟨0, 0x1, 0x10 + t.val, m⟩, w⟩
  | .serviceL2 c m w => ⟨4, 2, ⟨0, 0x2, 0x20 + c.val, m⟩, w⟩
  | .serviceL1 c _ m w => ⟨5, 2, ⟨0, 0x2, 0x20 + c.val, m⟩, w⟩
  | .laneL1 _ _ m w _ _ => ⟨6, 1, ⟨0, 0x1, core, m⟩, w⟩
  | .engineBuf b m w => ⟨7, 6, ⟨0, 0x6, if b.val = 6 then 0x71 else 0x70, m⟩, w⟩

/-- A pulse into crossing 20: island and counter; at 15 it is lost into OVF (R405). -/
def addPulse (s : State) (isl id : Nat) : State :=
  let k := 64 * isl + id
  let c := kget 0 s.pulses k
  if c = 15 then { s with pulseOvf := kput 0 s.pulseOvf k 1 } else { s with pulses := kput 0 s.pulses k (c + 1) }

/-- The MEM counters that crossing 20 feeds, by their number on it (R409): other corrections, uncorrectable reads in non-volatile memory and in
caches, poisoned reads, and from 8 on the non-volatile device counters. -/
def pulseFld (id : Nat) : Fld :=
  if id = 0 then MEM_CECNT_OTHER else if id = 1 then MEM_UECNT_NVM else if id = 2 then MEM_UECNT_CACHE
  else if id = 3 then MEM_UECNT_POISON else MEM_DEV_NVM (id - 8)

/-- Count a memory event: in the MEM island's own counter for DRAM, over crossing 20 for the other macros (R77, R409). -/
def countMem (s : State) (m : Macro) (f : Fld) (id : Nat) : State := if m.src = 0 then incF s f else addPulse s m.via id

/-- The last event's address, source, syndromes and verdict (R77, R98). -/
def lastMem (s : State) (m : Macro) (a sy sym val verdict : Nat) : State :=
  setF (setF (setF (setF (setF (setF s MEM_LASTADR_ADDR a) MEM_LASTADR_SRC m.src) MEM_LASTSYN_SYND sy) MEM_LASTSYN_SYM sym)
    MEM_LASTSYN_VAL val) MEM_LASTSYN_VERDICT verdict

/-- The bit field of a one-symbol correction (R26). -/
def symBit (sym val : Nat) : Nat :=
  match (List.range 8).find? fun i => val == 2 ^ i with
  | some i => 8 * sym + i
  | none => 288 + sym

/-- A macro as a key for its correction hold. -/
def macKey (l : Loc) : Nat := l.die + l.tile * 8 + l.mac * 2048 + l.isl * 2 ^ 19

/-- A device has reached 256 corrections in its degradation window: it is declared degraded, with a MAJOR report (R77, R536). -/
def degrade (s : State) (m : Macro) (mem dev : Nat) : State :=
  let s1 := { s with degraded := if s.degraded.contains (64 * mem + dev) then s.degraded else (64 * mem + dev) :: s.degraded }
  let devs := (List.range 36).filter fun d => s1.degraded.contains (64 * mem + d)
  let s2 := if mem = 0 then setF (setF s1 MEM_STAT_DRDEG 1) MEM_STAT_DRDEV (devs.headD 0)
    else setF (setF s1 MEM_STAT_NVDEG 1) MEM_STAT_NVDEV (devs.headD 0)
  raiseVia m.via { cls := MAJOR, loc := ⟨m.loc.die, 0xF, dev, 0xFF⟩ } s2

/-- A device supplied a corrected symbol: its counter and its degradation window (R77, R536). -/
def countDevice (s : State) (m : Macro) (sym : Nat) : State :=
  if m.src ≤ 1 then
    let s1 := if m.src = 0 then incF s (MEM_DEV_DRAM sym) else addPulse s m.via (8 + sym)
    let k := 64 * m.src + sym
    let n := kget 0 s1.degCnt k + 1
    let s2 := { s1 with degCnt := kput 0 s1.degCnt k n }
    if n = 256 then degrade s2 m m.src sym else s2
  else s

/-- Record a correction. `hard` is a correction on the re-read after the rewrite: a MINOR entry always; the others are a NOTE held back
by `MEM_CEHOLD` per macro (R77). -/
def recordCorrection (s : State) (m : Macro) (a sy sym val : Nat) (hard : Bool) : State :=
  let s1 := lastMem s m a sy sym val (if hard then 3 else 0)
  let s2 := countDevice (countMem s1 m MEM_CECNT_DRAM 0) m sym
  let k := macKey m.loc
  let last := kget 0 s2.ceHold k
  let hold := max 1 (getF s2 MEM_CEHOLD_MS) * 1000000
  if hard || last = 0 || last - 1 + hold ≤ freeCnt s2 then
    raiseVia m.via { cls := if hard then MINOR else NOTE, loc := m.loc, word := m.word, bitNo := symBit sym val, addr := if m.src ≤ 1 then a else 0 }
      { s2 with ceHold := kput 0 s2.ceHold k (freeCnt s2 + 1) }
  else s2

/-- Record an uncorrectable or poisoned read; `entry` is false where the scrubber meets a poisoned codeword again (R77, R85). -/
def recordLost (s : State) (m : Macro) (a sy : Nat) (poisoned : Bool) (req : Nat) (entry : Bool) : State :=
  let s1 := lastMem s m a sy 0 0 (if poisoned then 2 else 1)
  let s2 := if poisoned then countMem s1 m MEM_UECNT_POISON 3
    else if m.src = 1 then addPulse s1 m.via 1 else countMem s1 m MEM_UECNT_DRAM 2
  if entry then raiseVia m.via { cls := MAJOR, loc := m.loc, word := m.word, addr := if m.src ≤ 1 then a else 0, req := req } s2 else s2

/-- The memory a physical address lies in, as a source. -/
def homeOf (a : Nat) : MemSrc := if inDram a then .dram else .nvm

/-! ### What moves between the macros (R71–R77, R90, R102, R111) -/

/-- A source with the index that a codeword of its line has: the two codewords of a line lie side by side, the even one first (R25). -/
def srcAt (src : MemSrc) (cw : Nat) : MemSrc :=
  let at' (w : Nat) : Nat := w - w % 2 + cw % 2
  match src with
  | .l3 sl m w => .l3 sl m (at' w)
  | .triadL2 t m w => .triadL2 t m (at' w)
  | .serviceL2 c m w => .serviceL2 c m (at' w)
  | .serviceL1 c i m w => .serviceL1 c i m (at' w)
  | .laneL1 t l m w r o => .laneL1 t l m (at' w) r o
  | .engineBuf b m w => .engineBuf b m (at' w)
  | h => h

/-- The index that a source names in its macro. -/
def wordOf : MemSrc → Nat
  | .l3 _ _ w => w
  | .triadL2 _ _ w => w
  | .serviceL2 _ _ w => w
  | .serviceL1 _ _ _ w => w
  | .laneL1 _ _ _ w _ _ => w
  | .engineBuf _ _ w => w
  | _ => 0

/-- The index of the even codeword of a line that a unit is to take: set and way in the order of the array, 2 codewords to a line. DESIGN CHOICE: the way is the lowest that no
line of the set has (notes/assumptions/63.md). -/
def freeSlot (s : State) (u line : Nat) : Nat :=
  let g := geometry u
  let used := (s.caches.filter fun c => c.unit == u).map fun c => wordOf c.src / 2
  let base := line % g.1 * g.2
  2 * (((List.range g.2).find? fun k => !used.contains (base + k)).map (base + ·)).getD base

/-- The macro that holds a codeword of the coherent memory. -/
def holderOf (s : State) (cw : Nat) : MemSrc :=
  match dirtyLine s cw with
  | some c => srcAt c.src cw
  | none => homeOf (32 * cw)

/-- A line is written out to memory, a poisoned codeword as it is; the copies of it that caches farther out hold are replaced too (R75). -/
def writeOut (s : State) (c : CLine) : State :=
  let s1 := putHome (putHome s (2 * c.line) (c.word 0)) (2 * c.line + 1) (c.word 1)
  { s1 with caches := s1.caches.map fun x => if x.line = c.line ∧ isLaneUnit x.unit = false then { x with sym := c.sym, dirty := x.dirty && x.unit == c.unit } else x }

/-- A codeword that its macro holds poisoned: data as they are, check bytes inverted. -/
def poisonWord (d : List Byte) : List Byte := d ++ (checkBytes d).map fun b => ~~~b

/-- A codeword of a macro is poisoned (R75). Poisoned in a cache, its line is the one that counts from then on: other caches lose theirs, and it is written out poisoned when it leaves;
a lane's L1 writes nothing out (R102, R106). -/
def poisonIn (src : MemSrc) (cw : Nat) (d : List Byte) (s : State) : State :=
  let u := cacheUnit src
  let s1 := putIn src cw (poisonWord d) s
  if u = 0 || isLaneUnit u then s1
  else
    { s1 with caches := (s1.caches.filter fun c => c.line != cw / 2 || c.unit == u || isLaneUnit c.unit).map fun c => if c.unit = u ∧ c.line = cw / 2 then { c with dirty := true } else c }

/-- A codeword of a line that leaves its cache goes through the code on its way out (R71, R75, R77; notes/assumptions/63.md). -/
def checkOut (u line cw : Nat) (s : State) : State :=
  match lineAt s u line with
  | none => s
  | some c =>
    let w := c.word cw
    let y := syndromes w
    let a := 32 * cw
    let src := srcAt c.src cw
    match classify y with
    | .one k v => putIn src cw (modAt w k (· ^^^ BitVec.ofNat 8 v)) (recordCorrection s (macroOf src a k 0) a (syndWord y) k v false)
    | .uncorrectable => recordLost (putIn src cw (poisonWord (w.take 32)) s) (macroOf src a 0xFF 0) a (syndWord y) false 0xFF true
    | _ => s

/-- The lines that p picks leave their caches; those that are newer than memory are checked and written out. -/
def evict (p : CLine → Bool) (s : State) : State :=
  let s1 := (s.caches.filter fun c => p c && c.dirty).foldr (fun c x =>
    let y := checkOut c.unit c.line (2 * c.line + 1) (checkOut c.unit c.line (2 * c.line) x)
    match lineAt y c.unit c.line with
    | some n => writeOut y n
    | none => y) s
  { s1 with caches := s1.caches.filter fun c => !p c }

/-- A full set gives up a line of the hardware's choice, a free value. -/
def makeRoom (u line : Nat) (s : State) : State :=
  let g := geometry u
  let mine := s.caches.filter fun c => c.unit == u && c.line % g.1 == line % g.1
  if mine.length < g.2 then s
  else match mine[free s 16 % g.2]? with
    | some v => evict (fun c => c.unit == u && c.line == v.line) (useFree s)
    | none => s

/-- A service-core L1 and an engine's buffer give up a line that they have corrected; the other macros keep theirs, rewritten (R73). -/
def afterCorrection (src : MemSrc) (cw : Nat) (s : State) : State :=
  match src with
  | .serviceL1 _ _ _ _ => evict (fun c => c.unit == cacheUnit src && c.line == cw / 2) s
  | .engineBuf _ _ _ => evict (fun c => c.unit == cacheUnit src && c.line == cw / 2) s
  | _ => s

/-- What reading a codeword of a macro does beside its data (R73, R75, R77): a correction is recorded and rewritten, and where the symbol is wrong again on the re-read, which is
a free value, it is recorded as hard and stands; an uncorrectable codeword is recorded and poisoned, a poisoned one is recorded. -/
def touchAt (req : Nat) (src : MemSrc) (s : State) (cw : Nat) : State :=
  let w := wordIn s src cw
  let y := syndromes w
  let a := 32 * cw
  match classify y with
  | .clean => s
  | .one k v =>
    let m := macroOf src a k 0
    let s1 := recordCorrection s m a (syndWord y) k v false
    if free s1 1 = 1 then recordCorrection (useFree s1) m a (syndWord y) k v true
    else afterCorrection src cw (putIn src cw (modAt w k (· ^^^ BitVec.ofNat 8 v)) (useFree s1))
  | .poisoned => recordLost s (macroOf src a 0xFF 0) a (syndWord y) true req true
  | .uncorrectable => recordLost (poisonIn src cw (w.take 32) s) (macroOf src a 0xFF 0) a (syndWord y) false req true

/-- The same where the coherent memory has the codeword. -/
def touchCw (req : Nat) (s : State) (cw : Nat) : State := touchAt req (holderOf s cw) s cw

/-- How far a unit is from the cores: lanes' and service L1s and engine buffers 0, L2s 1, L3 2, memory 3 (R71, R90, R102, R111). -/
def distance (u : Nat) : Nat := if u < 16 then 3 else if u < 32 then 2 else if u < 64 then 1 else 0

/-- Unit v lies on the way from unit u to memory: the L2 of its own core or triad, and the L3. -/
def beyond (u v : Nat) : Bool :=
  decide (distance u < distance v) && (distance v == 2 || v == (if u < 96 then 48 + (u - 64) / 2 else 32 + (u - 96) / 8))

/-- The macro that a unit takes a line from: the one that is newer than memory, the nearest copy on the way, or memory. -/
def supplier (s : State) (u line : Nat) : MemSrc :=
  match dirtyLine s (2 * line) with
  | some c => c.src
  | none =>
    let far := s.caches.filter fun c => c.line == line && beyond u c.unit
    match far.find? fun c => distance c.unit == 1 with
    | some c => c.src
    | none => ((far.find? fun c => distance c.unit == 2).map (·.src)).getD (homeOf (64 * line))

/-- A unit takes a line that it does not hold for a requester: the two codewords are read, through the code, from the macro that supplies them, and keep their check bytes (R71). -/
def fillLine (req : Nat) (src : MemSrc) (line : Nat) (s : State) : State :=
  if (lineAt s (cacheUnit src) line).isSome then s
  else
    let s1 := makeRoom (cacheUnit src) line s
    let f := supplier s1 (cacheUnit src) line
    let s2 := touchAt req (srcAt f 1) (touchAt req (srcAt f 0) s1 (2 * line)) (2 * line + 1)
    { s2 with caches := s2.caches ++ [{ src := src, line := line, dirty := false, sym := wordIn s2 f (2 * line) ++ wordIn s2 f (2 * line + 1) }] }

/-- The same for the codewords of n bytes from a. -/
def touch (s : State) (req a n : Nat) : State :=
  if n = 0 then s else forN (fun cw t => touchCw req t cw) (cwOf a) (cwOf (a + n - 1) + 1 - cwOf a) s

/-! ### Writing (R74, R76, R99) -/

/-- The armed injection of R99 meets a write to its codeword: VAL is XORed into the chosen symbols and ARM clears. DESIGN CHOICE: an ADDR outside DRAM is
injected into as well, and a symbol number above 35 names no symbol (notes/assumptions/66.md). -/
def injectAt (s : State) (cw : Nat) : State :=
  if onF s MEM_INJ_ARM && cwOf (getF s MEM_INJ_ADDR) == cw then
    let v := BitVec.ofNat 8 (getF s MEM_INJ_VAL)
    let w0 := modAt (codeword s cw) (getF s MEM_INJ_SYMA) (· ^^^ v)
    let w := if onF s MEM_INJ_BEN && getF s MEM_INJ_SYMB != getF s MEM_INJ_SYMA
      then modAt w0 (getF s MEM_INJ_SYMB) (· ^^^ v) else w0
    setF (putSymbols s cw (w.take 32) (w.drop 32)) MEM_INJ_ARM 0
  else s

/-- A write to a codeword's line ends the reservations that other harts hold on it; harts have the same numbers as requester codes (R111, R126). -/
def breakRes (s : State) (req cw : Nat) : State := { s with resv := s.resv.filter fun p => p.2 != cw / 2 + 1 || p.1 == req }

/-- A lane of triad t holds the line in its L1. -/
def lanesHold (s : State) (t line : Nat) : Bool := s.caches.any fun c => c.line == line && laneUnit t 0 true ≤ c.unit && c.unit ≤ laneUnit t 2 false

/-- A write of another requester to a line that a triad's lanes hold: an invalidation falls due in that triad (R112). -/
def owe (req line : Nat) (s : State) : State :=
  if s.caches.isEmpty then s
  else forN (fun t x => if t != req && lanesHold x t line then modTriad x t fun y => { y with due := y.due ++ [.inval line] } else x) 0 4 s

/-- A triad's own store updates its lanes' L1D where the line is present, unless the copy there is lost (R102). -/
def storeThrough (req cw : Nat) (s : State) : State :=
  if req < 4 then
    { s with caches := s.caches.map fun c =>
        let ok := match classify (syndromes (c.word cw)) with
          | .clean => true
          | .one _ _ => true
          | _ => false
        if c.line = cw / 2 ∧ (c.unit = laneUnit req 0 false ∨ c.unit = laneUnit req 1 false ∨ c.unit = laneUnit req 2 false) ∧ ok = true
        then c.put cw (codeword s cw) else c }
  else s

/-- Store a codeword for a requester in the memory or the cache that a source names, which holds it: other copies of its line leave the caches, with the effects
of a write on reservations, on lanes' L1s and on an armed injection (R39, R99, R102, R111, R112). -/
def storeAt (src : MemSrc) (s : State) (req cw : Nat) (d : List Byte) : State :=
  let u := cacheUnit src
  let w := d ++ checkBytes d
  let s1 := evict (fun c => c.line == cw / 2 && c.unit != u && !isLaneUnit c.unit) (breakRes s req cw)
  let s2 := if u = 0 then putHome s1 cw w else modLine s1 u (cw / 2) fun c => { c.put cw w with dirty := true }
  injectAt (storeThrough req cw (owe req (cw / 2) s2)) cw

/-- Store a codeword in its memory. -/
def storeCw (s : State) (req cw : Nat) (d : List Byte) : State := storeAt (homeOf (32 * cw)) s req cw d

/-- Part of one codeword merged into the data as read: `d` from byte `o`. -/
def merged (old : List Byte) (o : Nat) (d : List Byte) : List Byte := old.take o ++ d ++ (old.take 32).drop (o + d.length)

/-- Write part of one codeword at the macro that a source names: `d` from byte `o` of it. A whole codeword is replaced without being read; a partial write merges into the
data as read, with one bad symbol corrected first; a partial write into a poisoned or uncorrectable codeword is dropped with a MAJOR report naming
the requester, and the codeword stays poisoned (R74–R77). -/
def writePart (src : MemSrc) (s0 : State) (req cw o : Nat) (d : List Byte) : State :=
  let s := if cacheUnit src = 0 then s0 else fillLine req src (cw / 2) s0
  if d.length = 32 then storeAt src s req cw d
  else
    let at' := if cacheUnit src = 0 then holderOf s cw else src
    let w := wordIn s at' cw
    let y := syndromes w
    let a := 32 * cw
    match classify y with
    | .clean => storeAt src s req cw (merged w o d)
    | .one k v =>
      storeAt src (recordCorrection s (macroOf at' a k 0) a (syndWord y) k v false) req cw (merged (modAt w k (· ^^^ BitVec.ofNat 8 v)) o d)
    | .poisoned => recordLost s (macroOf at' a 0xFF 0) a (syndWord y) true req true
    | .uncorrectable =>
      recordLost (poisonIn at' cw (w.take 32) s) (macroOf at' a 0xFF 0) a (syndWord y) false req true

/-- Write the codewords that `d` from address a touches, in ascending order; the number is at least theirs. -/
def writeMemAux (src : MemSrc) : Nat → State → Nat → Nat → List Byte → State
  | 0, s, _, _, _ => s
  | n + 1, s, req, a, d =>
    if d.isEmpty then s
    else
      let k := 32 - a % 32
      writeMemAux src n (writePart src s req (cwOf a) (a % 32) (d.take k)) req (a + (d.take k).length) (d.drop k)

/-- Write bytes from address a for a requester, at the macro that a source names (R74). -/
def writeVia (src : MemSrc) (s : State) (req a : Nat) (d : List Byte) : State := writeMemAux src (d.length / 32 + 2) s req a d

/-- Write bytes to memory from address a for a requester (R74). -/
def writeMem (s : State) (req a : Nat) (d : List Byte) : State := writeVia (homeOf a) s req a d

/-- n bytes from a lie in DRAM. -/
def dramSpan (a n : Nat) : Bool := decide (n ≤ 0x0800000000) && decide (a ≤ 0x0800000000 - n)

/-! ### Checksums of the published standards that the spec names -/

/-- One bit of a reflected CRC with polynomial p. -/
def crcBitR (p c : Nat) : Nat := if c % 2 = 1 then (c / 2) ^^^ p else c / 2

/-- A reflected CRC over bytes, from a register value; eight steps of a register that is 0 leave 0. -/
def crcR (p : Nat) : Nat → List Byte → Nat
  | c, [] => c
  | c, b :: d => match c ^^^ b.toNat with
    | 0 => crcR p 0 d
    | n + 1 => crcR p (iter (crcBitR p) 8 (n + 1)) d

/-- CRC-32 of IEEE 802.3 (R191, R366). -/
def crc32 (d : List Byte) : Nat := crcR 0xEDB88320 0xFFFFFFFF d ^^^ 0xFFFFFFFF

/-- CRC-32C with an initial register value. -/
def crc32cFrom (init : Nat) (d : List Byte) : Nat := crcR 0x82F63B78 init d

/-- CRC-32C (R191, R248). -/
def crc32c (d : List Byte) : Nat := crc32cFrom 0xFFFFFFFF d ^^^ 0xFFFFFFFF

/-- One bit of the signature CRC-64, most significant bit first (R120). -/
def crc64Bit (c : Nat) : Nat := if 2 ^ 63 ≤ c then ((2 * c) % 2 ^ 64) ^^^ 0x42F0E1EBA9EA3693 else 2 * c

/-- The state signature of a lane over its values in the order of R120. -/
def signature (vals : List Word) : Nat :=
  (vals.flatMap fun v => toLE 8 v.toNat).foldl (fun c b => iter crc64Bit 8 (c ^^^ (b.toNat * 2 ^ 56))) (2 ^ 64 - 1) ^^^ (2 ^ 64 - 1)

/-! ### Role epochs (R53, R55) -/

/-- The next epoch: 1 to 0xFFFF, then 1 again (R53). -/
def nextEpoch (e : Nat) : Nat := if e = 0xFFFF then 1 else e + 1

/-- How a message's epoch stands to the unit's (R55): accepted, old, or newer. -/
inductive EpochRel where
  | same | old | newer
  deriving DecidableEq, Repr

/-- The comparison of R55; 0 is never valid and counts as old (R53). -/
def epochRel (msg unit : Nat) : EpochRel :=
  let e := (msg + 65536 - unit % 65536) % 65536
  if msg = 0 then .old else if e = 0 then .same else if 32768 ≤ e then .old else .newer

/-- A message's epoch is not valid, or old against the last one accepted; 0 there means that none has been (R53, R55, R202). -/
def epochOld (msg last : Nat) : Bool := msg == 0 || (last != 0 && epochRel msg last == .old)

/-- The queues the chapters list, as global numbers (R205, R255, R277, R286, R314, R497). -/
def listedQueue (Q : Nat) : Bool :=
  let b := Q / 256
  let q := Q % 256
  (b == 5 && q < 2) || (b == 6 && q < 128) || (b == 7 && q < 2)
    || (b == 8 && (q < 6 || (8 ≤ q && q < 14) || (16 ≤ q && q < 22))) || (b == 9 && q < 1) || (b == 15 && q < 5)

/-- All listed queues. -/
def allQueues : List Nat :=
  [0x500, 0x501] ++ (List.range 128).map (0x600 + ·) ++ [0x700, 0x701] ++ (List.range 6).map (0x800 + ·) ++ (List.range 6).map (0x808 + ·)
    ++ (List.range 6).map (0x810 + ·) ++ [0x900] ++ (List.range 5).map (0xF00 + ·)

/-- A queue is bound to an owner: class and number (R47). -/
def boundTo (s : State) (cls id Q : Nat) : Bool :=
  getF s (QCTRL_OWNCLS Q) == cls && (cls == 3 || cls == 4 || getF s (QCTRL_OWNID Q) == id)

/-- Every queue bound to an owner, and every flow context bound to the pair role or the node role, takes the increment
(R53, R272). -/
def followEpoch (cls id : Nat) (s : State) : State :=
  let s := allQueues.foldl
    (fun s Q => if boundTo s cls id Q then setF s (QEPOCH_EPOCH Q) (nextEpoch (getF s (QEPOCH_EPOCH Q))) else s) s
  forN (fun f s => if getF s (BKB_FC_0_OWNCLS f) == cls && (cls == 3 || cls == 4)
    then setF s (BKB_FC_0_EPOCH f) (nextEpoch (getF s (BKB_FC_0_EPOCH f))) else s) 0 256 s

/-- Triad t's epoch increments, and what is bound to it follows (R53, R128). -/
def bumpTriad (t : Nat) (s : State) : State :=
  followEpoch 1 t (setF s (VTC_TEPOCH_EPOCH t) (nextEpoch (getF s (VTC_TEPOCH_EPOCH t))))

/-- Partition p's epoch increments (R94). -/
def bumpPartition (p : Nat) (s : State) : State :=
  followEpoch 2 p (setF s (SVC_PEPOCH_EPOCH p) (nextEpoch (getF s (SVC_PEPOCH_EPOCH p))))

/-- The pair-role epoch increments (R434). -/
def bumpPair (s : State) : State := followEpoch 3 0 (setF s PRL_EPOCH_EPOCH (nextEpoch (getF s PRL_EPOCH_EPOCH)))

/-- The Rhumbline node-role epoch increments (R211, R434). -/
def bumpNode (s : State) : State := followEpoch 4 0 (setF s RHL_NEPOCH_EPOCH (nextEpoch (getF s RHL_NEPOCH_EPOCH)))

/-- The current epoch of an owner (R53). DESIGN CHOICE: an OWNID that names no triad or no partition reads as a register never written, so the queue takes epoch 1
(notes/assumptions/66.md). -/
def ownerEpoch (s : State) (cls id : Nat) : Option Nat :=
  if cls = 1 then some (getF s (VTC_TEPOCH_EPOCH id)) else if cls = 2 then some (getF s (SVC_PEPOCH_EPOCH id))
  else if cls = 3 then some (getF s PRL_EPOCH_EPOCH) else if cls = 4 then some (getF s RHL_NEPOCH_EPOCH) else none

end Sys2Proof.Machine
end

