-- ==== Sys2Proof/Machine/RegMap.lean ====
section
/-! DEFINITION. The register map: which fields stand at which address (R27, R28, R35 and the register maps of the chapters). -/

namespace Sys2Proof.Machine

/-- A row of a register map: the address of its first register, up to three indexes with count and stride, and its fields. -/
structure RegRow where
  base : Nat
  n1 : Nat
  s1 : Nat
  n2 : Nat
  s2 : Nat
  n3 : Nat
  s3 : Nat
  flds : Nat → Nat → Nat → List Fld

/-- `xxx_GRPMASKg` of the family whose base is `fam` (R35). -/
def GRPMASK (fam g : Nat) : Fld := ⟨fam + 0xFE000 + g * 8, 0, 64, .rw, 0⟩

/-- The rows of the SYS block. -/
def rowsSYS : List RegRow := [
  ⟨0x2000000000, 1, 0x0, 1, 0x0, 1, 0x0, fun _ _ _ => [SYS_IDENT_PART, SYS_IDENT_HWREV, SYS_IDENT_COMPAT, SYS_IDENT_LREV, SYS_IDENT_ROMREV]⟩,
  ⟨0x2000000100, 1, 0x0, 1, 0x0, 1, 0x0, fun _ _ _ => [SYS_EFSTAT_COUNT, SYS_EFSTAT_MAXCLS, SYS_EFSTAT_SEQNEXT]⟩,
  ⟨0x2000000108, 1, 0x0, 1, 0x0, 1, 0x0, fun _ _ _ => [SYS_EFPOP_POP]⟩,
  ⟨0x2000000110, 1, 0x0, 1, 0x0, 1, 0x0, fun _ _ _ => [SYS_EF0_W]⟩,
  ⟨0x2000000118, 1, 0x0, 1, 0x0, 1, 0x0, fun _ _ _ => [SYS_EF1_W]⟩,
  ⟨0x2000000120, 1, 0x0, 1, 0x0, 1, 0x0, fun _ _ _ => [SYS_EF2_W]⟩,
  ⟨0x2000000128, 1, 0x0, 1, 0x0, 1, 0x0, fun _ _ _ => [SYS_EF3_W]⟩,
  ⟨0x2000000130, 1, 0x0, 1, 0x0, 1, 0x0, fun _ _ _ => [SYS_EFLOST_NOTE, SYS_EFLOST_MINOR, SYS_EFLOST_MAJOR, SYS_EFLOST_VITAL, SYS_EFLOST_MODULE]⟩,
  ⟨0x2000000138, 1, 0x0, 1, 0x0, 1, 0x0, fun _ _ _ => [SYS_FCNT0_NOTE, SYS_FCNT0_MINOR]⟩,
  ⟨0x2000000140, 1, 0x0, 1, 0x0, 1, 0x0, fun _ _ _ => [SYS_FCNT1_MAJOR, SYS_FCNT1_VITAL, SYS_FCNT1_MODULE]⟩,
  ⟨0x2000000148, 1, 0x0, 1, 0x0, 1, 0x0, fun _ _ _ => [SYS_FEVT_OVF, SYS_FEVT_REPL, SYS_FEVT_ESC, SYS_FEVT_CODE, SYS_FEVT_MSAFE]⟩,
  ⟨0x2000000150, 1, 0x0, 1, 0x0, 1, 0x0, fun _ _ _ => [SYS_FIRQ0_EIID, SYS_FIRQ0_HART, SYS_FIRQ0_LEVEL, SYS_FIRQ0_GUEST, SYS_FIRQ0_MINCLS, SYS_FIRQ0_ARMED, SYS_FIRQ0_ARM]⟩,
  ⟨0x2000000158, 1, 0x0, 1, 0x0, 1, 0x0, fun _ _ _ => [SYS_FIRQ1_EIID, SYS_FIRQ1_HART, SYS_FIRQ1_LEVEL, SYS_FIRQ1_GUEST, SYS_FIRQ1_MINCLS, SYS_FIRQ1_ARMED, SYS_FIRQ1_ARM]⟩,
  ⟨0x2000000160, 1, 0x0, 1, 0x0, 1, 0x0, fun _ _ _ => [SYS_LASTHI0_FLOC]⟩,
  ⟨0x2000000168, 1, 0x0, 1, 0x0, 1, 0x0, fun _ _ _ => [SYS_LASTHI1_TSLO]⟩,
  ⟨0x2000000170, 1, 0x0, 1, 0x0, 1, 0x0, fun _ _ _ => [SYS_LASTHI2_TSHI, SYS_LASTHI2_SEQ]⟩,
  ⟨0x2000000178, 1, 0x0, 1, 0x0, 1, 0x0, fun _ _ _ => [SYS_MSAFE_KEY]⟩,
  ⟨0x2000000180, 1, 0x0, 1, 0x0, 1, 0x0, fun _ _ _ => [SYS_MSTAT_MSAFE, SYS_MSTAT_CAUSE]⟩,
  ⟨0x2000000200, 8, 0x18, 1, 0x0, 1, 0x0, fun k _ _ => [SYS_ESC_0_MATCH k]⟩,
  ⟨0x2000000208, 8, 0x18, 1, 0x0, 1, 0x0, fun k _ _ => [SYS_ESC_1_MASK k]⟩,
  ⟨0x2000000210, 8, 0x18, 1, 0x0, 1, 0x0, fun k _ _ => [SYS_ESC_2_EN k, SYS_ESC_2_ESCCLS k, SYS_ESC_2_N k, SYS_ESC_2_WIN k, SYS_ESC_2_FIRED k]⟩,
  ⟨0x2000000300, 1, 0x0, 1, 0x0, 1, 0x0, fun _ _ _ => [SYS_PWRSTAT_INTR, SYS_PWRSTAT_PFAIL, SYS_PWRSTAT_SHED, SYS_PWRSTAT_HUFULL, SYS_PWRSTAT_WAKE1, SYS_PWRSTAT_WAKE2, SYS_PWRSTAT_WOKEBY, SYS_PWRSTAT_OFFPEND, SYS_PWRSTAT_VREADY, SYS_PWRSTAT_FREADY, SYS_PWRSTAT_LASTOFF, SYS_PWRSTAT_RSTCAUSE]⟩,
  ⟨0x2000000308, 1, 0x0, 1, 0x0, 1, 0x0, fun _ _ _ => [SYS_PWRCTL_OFFDLY]⟩,
  ⟨0x2000000310, 1, 0x0, 1, 0x0, 1, 0x0, fun _ _ _ => [SYS_PWROFF_KEY]⟩,
  ⟨0x2000000318, 1, 0x0, 1, 0x0, 1, 0x0, fun _ _ _ => [SYS_RESET_KEY]⟩,
  ⟨0x2000000320, 1, 0x0, 1, 0x0, 1, 0x0, fun _ _ _ => [SYS_BOOT_STAGE, SYS_BOOT_TRIADS, SYS_BOOT_SVCREADY, SYS_BOOT_ERR]⟩,
  ⟨0x2000000328, 1, 0x0, 1, 0x0, 1, 0x0, fun _ _ _ => [SYS_PWRMON_VIN, SYS_PWRMON_EBANK, SYS_PWRMON_PIN]⟩,
  ⟨0x2000000330, 1, 0x0, 1, 0x0, 1, 0x0, fun _ _ _ => [SYS_PWRCNT_INTR, SYS_PWRCNT_PFAIL]⟩,
  ⟨0x2000000338, 1, 0x0, 1, 0x0, 1, 0x0, fun _ _ _ => [SYS_PWREVT_INTR, SYS_PWREVT_WAKECHG, SYS_PWREVT_OFFPEND, SYS_PWREVT_VREADY, SYS_PWREVT_FREADY]⟩,
  ⟨0x2000000340, 1, 0x0, 1, 0x0, 1, 0x0, fun _ _ _ => [SYS_PWRIRQ_EIID, SYS_PWRIRQ_HART, SYS_PWRIRQ_LEVEL, SYS_PWRIRQ_GUEST]⟩,
  ⟨0x2000000410, 1, 0x0, 1, 0x0, 1, 0x0, fun _ _ _ => [SYS_ISL_QUIESCE 2, SYS_ISL_DRAINED 2, SYS_ISL_RESET 2, SYS_ISL_INRESET 2, SYS_ISL_STOPPED 2, SYS_ISL_SHED 2]⟩,
  ⟨0x2000000430, 1, 0x0, 1, 0x0, 1, 0x0, fun _ _ _ => [SYS_ISL_QUIESCE 6, SYS_ISL_DRAINED 6, SYS_ISL_RESET 6, SYS_ISL_INRESET 6, SYS_ISL_STOPPED 6, SYS_ISL_SHED 6]⟩,
  ⟨0x2000000440, 1, 0x0, 1, 0x0, 1, 0x0, fun _ _ _ => [SYS_ISL_QUIESCE 8, SYS_ISL_DRAINED 8, SYS_ISL_RESET 8, SYS_ISL_INRESET 8, SYS_ISL_STOPPED 8, SYS_ISL_SHED 8]⟩,
  ⟨0x2000000448, 1, 0x0, 1, 0x0, 1, 0x0, fun _ _ _ => [SYS_ISL_QUIESCE 9, SYS_ISL_DRAINED 9, SYS_ISL_RESET 9, SYS_ISL_INRESET 9, SYS_ISL_STOPPED 9, SYS_ISL_SHED 9]⟩,
  ⟨0x2000000450, 1, 0x0, 1, 0x0, 1, 0x0, fun _ _ _ => [SYS_ISL_QUIESCE 10, SYS_ISL_DRAINED 10, SYS_ISL_RESET 10, SYS_ISL_INRESET 10, SYS_ISL_STOPPED 10, SYS_ISL_SHED 10]⟩,
  ⟨0x2000000460, 1, 0x0, 1, 0x0, 1, 0x0, fun _ _ _ => [SYS_ISL_QUIESCE 12, SYS_ISL_DRAINED 12, SYS_ISL_RESET 12, SYS_ISL_INRESET 12, SYS_ISL_STOPPED 12, SYS_ISL_SHED 12]⟩,
  ⟨0x2000000008, 1, 0x0, 1, 0x0, 1, 0x0, fun _ _ _ => [SYS_SERIAL_SERIAL, SYS_SERIAL_DATE]⟩,
  ⟨0x2000000500, 1, 0x0, 1, 0x0, 1, 0x0, fun _ _ _ => [SYS_THERM_TREF, SYS_THERM_TMAX, SYS_THERM_TSTATE, SYS_THERM_COVER, SYS_THERM_HOTSEC]⟩,
  ⟨0x2000000508, 1, 0x0, 1, 0x0, 1, 0x0, fun _ _ _ => [SYS_BINN_DISP, SYS_BINN_SET, SYS_BINN_ADJ, SYS_BINN_DARK]⟩]

/-- The rows of the VTC block. -/
def rowsVTC : List RegRow := [
  ⟨0x2001000000, 1, 0x0, 1, 0x0, 1, 0x0, fun _ _ _ => [VTC_STAT_RUN, VTC_STAT_DEGR, VTC_STAT_HALT, VTC_STAT_SPARES]⟩,
  ⟨0x2001000008, 1, 0x0, 1, 0x0, 1, 0x0, fun _ _ _ => [VTC_CSTAT_CORE 0, VTC_CSTAT_CORE 1, VTC_CSTAT_CORE 2, VTC_CSTAT_CORE 3, VTC_CSTAT_CORE 4, VTC_CSTAT_CORE 5, VTC_CSTAT_CORE 6, VTC_CSTAT_CORE 7, VTC_CSTAT_CORE 8, VTC_CSTAT_CORE 9, VTC_CSTAT_CORE 10, VTC_CSTAT_CORE 11, VTC_CSTAT_CORE 12, VTC_CSTAT_CORE 13]⟩,
  ⟨0x2001000010, 1, 0x0, 1, 0x0, 1, 0x0, fun _ _ _ => [VTC_XTEST_CORE, VTC_XTEST_GO, VTC_XTEST_BUSY, VTC_XTEST_RESULT]⟩,
  ⟨0x2001001000, 4, 0x100, 1, 0x0, 1, 0x0, fun t _ _ => [VTC_TCTRL_START t, VTC_TCTRL_SHALT t, VTC_TCTRL_SPAREEN t, VTC_TCTRL_RSLIM t, VTC_TCTRL_RSWIN t]⟩,
  ⟨0x2001001008, 4, 0x100, 1, 0x0, 1, 0x0, fun t _ _ => [VTC_TSTAT_STATE t, VTC_TSTAT_FLANE t, VTC_TSTAT_CHKON t, VTC_TSTAT_HCAUSE t]⟩,
  ⟨0x2001001010, 4, 0x100, 1, 0x0, 1, 0x0, fun t _ _ => [VTC_TMAP_CA t, VTC_TMAP_CB t, VTC_TMAP_CC t]⟩,
  ⟨0x2001001018, 4, 0x100, 1, 0x0, 1, 0x0, fun t _ _ => [VTC_TEPOCH_EPOCH t]⟩,
  ⟨0x2001001020, 4, 0x100, 1, 0x0, 1, 0x0, fun t _ _ => [VTC_SIGCTL_INTMS t]⟩,
  ⟨0x2001001028, 4, 0x100, 1, 0x0, 1, 0x0, fun t _ _ => [VTC_IAG_MARGIN t]⟩,
  ⟨0x2001001030, 4, 0x100, 1, 0x0, 1, 0x0, fun t _ _ => [VTC_RSCNT_LANEA t, VTC_RSCNT_LANEB t, VTC_RSCNT_LANEC t, VTC_RSCNT_SUBS t]⟩,
  ⟨0x2001001038, 4, 0x100, 1, 0x0, 1, 0x0, fun t _ _ => [VTC_MMCNT_REQ t, VTC_MMCNT_SIG t, VTC_MMCNT_L1 t, VTC_MMCNT_SXF t]⟩,
  ⟨0x2001001040, 4, 0x100, 1, 0x0, 1, 0x0, fun t _ _ => [VTC_LASTMM_CLASS t, VTC_LASTMM_LANE t, VTC_LASTMM_PCORE t, VTC_LASTMM_RTYPE t, VTC_LASTMM_ADDR t]⟩,
  ⟨0x2001001048, 4, 0x100, 1, 0x0, 1, 0x0, fun t _ _ => [VTC_LASTRT_RETIRE t]⟩,
  ⟨0x2001001050, 4, 0x100, 1, 0x0, 1, 0x0, fun t _ _ => [VTC_DBG_MODE t, VTC_DBG_SPLIT t]⟩,
  ⟨0x2001002000, 16, 0x8, 1, 0x0, 1, 0x0, fun k _ _ => [VTC_VRGN_V k, VTC_VRGN_SVCRD k, VTC_VRGN_OWN k, VTC_VRGN_BASE k, VTC_VRGN_SIZE k]⟩,
  ⟨0x2001810000, 4, 0x1000, 1, 0x0, 1, 0x0, fun t _ _ => [VTC_SXCTL_INJMS t]⟩,
  ⟨0x2001810008, 4, 0x1000, 1, 0x0, 1, 0x0, fun t _ _ => [VTC_SXSTAT_SXFLT t, VTC_SXSTAT_CHKON t, VTC_SXSTAT_LASTPT t]⟩,
  ⟨0x2001810010, 4, 0x1000, 1, 0x0, 1, 0x0, fun t _ _ => [VTC_SXTCNT_COUNT t]⟩,
  ⟨0x2001810018, 4, 0x1000, 1, 0x0, 1, 0x0, fun t _ _ => [VTC_SXLAST_POINT t, VTC_SXLAST_EXPECT t, VTC_SXLAST_FLAGGED t]⟩,
  ⟨0x2001810020, 4, 0x1000, 1, 0x0, 1, 0x0, fun t _ _ => [VTC_SXCFG_DLYA t, VTC_SXCFG_DLYB t, VTC_SXCFG_STAG t, VTC_SXCFG_REL t]⟩,
  ⟨0x20018fe000, 8, 0x8, 1, 0x0, 1, 0x0, fun g _ _ => [GRPMASK 0x2001800000 g]⟩]

/-- The rows of the SVC block. -/
def rowsSVC : List RegRow := [
  ⟨0x2002000000, 1, 0x0, 1, 0x0, 1, 0x0, fun _ _ _ => [SVC_STAT_ONLINE, SVC_STAT_THROT]⟩,
  ⟨0x2002001000, 16, 0x200, 1, 0x0, 1, 0x0, fun c _ _ => [SVC_WINCTRL_COUNT c, SVC_WINCTRL_EIID c, SVC_WINCTRL_LEVEL c, SVC_WINCTRL_ORDERR c]⟩,
  ⟨0x2002001008, 16, 0x200, 1, 0x0, 1, 0x0, fun c _ _ => [SVC_WINCUR_ENTRY c, SVC_WINCUR_PART c, SVC_WINCUR_IDLE c]⟩,
  ⟨0x2002001010, 16, 0x200, 1, 0x0, 1, 0x0, fun c _ _ => [SVC_WINLATE_COUNT c]⟩,
  ⟨0x2002001100, 16, 0x200, 32, 0x8, 1, 0x0, fun c k _ => [SVC_WIN_OFFSET c k, SVC_WIN_PART c k, SVC_WIN_IDLE c k]⟩,
  ⟨0x2002004000, 64, 0x40, 1, 0x0, 1, 0x0, fun p _ _ => [SVC_PCTRL_EN p, SVC_PCTRL_RESTART p, SVC_PCTRL_CORES p]⟩,
  ⟨0x2002004008, 64, 0x40, 1, 0x0, 1, 0x0, fun p _ _ => [SVC_PEPOCH_EPOCH p]⟩,
  ⟨0x2002004010, 64, 0x40, 4, 0x8, 1, 0x0, fun p g _ => [SVC_PGNT_V p g, SVC_PGNT_WR p g, SVC_PGNT_BASE p g, SVC_PGNT_SIZE p g]⟩]

/-- The rows of the MEM block. -/
def rowsMEM : List RegRow := [
  ⟨0x2003000000, 1, 0x0, 1, 0x0, 1, 0x0, fun _ _ _ => [MEM_STAT_DRREADY, MEM_STAT_NVREADY, MEM_STAT_DRDEG, MEM_STAT_NVDEG, MEM_STAT_DRDEV, MEM_STAT_NVDEV]⟩,
  ⟨0x2003000008, 1, 0x0, 1, 0x0, 1, 0x0, fun _ _ _ => [MEM_SCRUB_DRH, MEM_SCRUB_NVD, MEM_SCRUB_DREN, MEM_SCRUB_NVEN]⟩,
  ⟨0x2003000010, 1, 0x0, 1, 0x0, 1, 0x0, fun _ _ _ => [MEM_DRPOS_ADDR, MEM_DRPOS_PASSES]⟩,
  ⟨0x2003000018, 1, 0x0, 1, 0x0, 1, 0x0, fun _ _ _ => [MEM_NVPOS_ADDR, MEM_NVPOS_PASSES]⟩,
  ⟨0x2003000020, 1, 0x0, 1, 0x0, 1, 0x0, fun _ _ _ => [MEM_CECNT_DRAM, MEM_CECNT_OTHER]⟩,
  ⟨0x2003000028, 1, 0x0, 1, 0x0, 1, 0x0, fun _ _ _ => [MEM_UECNT_DRAM, MEM_UECNT_NVM, MEM_UECNT_CACHE, MEM_UECNT_POISON]⟩,
  ⟨0x2003000030, 1, 0x0, 1, 0x0, 1, 0x0, fun _ _ _ => [MEM_LASTADR_ADDR, MEM_LASTADR_SRC]⟩,
  ⟨0x2003000038, 1, 0x0, 1, 0x0, 1, 0x0, fun _ _ _ => [MEM_LASTSYN_SYND, MEM_LASTSYN_SYM, MEM_LASTSYN_VAL, MEM_LASTSYN_VERDICT]⟩,
  ⟨0x2003000040, 1, 0x0, 1, 0x0, 1, 0x0, fun _ _ _ => [MEM_CEHOLD_MS]⟩,
  ⟨0x2003000048, 1, 0x0, 1, 0x0, 1, 0x0, fun _ _ _ => [MEM_INJ_ADDR, MEM_INJ_SYMA, MEM_INJ_SYMB, MEM_INJ_BEN, MEM_INJ_ARM, MEM_INJ_VAL]⟩,
  ⟨0x2003000100, 36, 0x8, 1, 0x0, 1, 0x0, fun n _ _ => [MEM_DEV_DRAM n, MEM_DEV_NVM n]⟩]

/-- The rows of the MER block. -/
def rowsMER : List RegRow := [
  ⟨0x2004000000, 1, 0x0, 1, 0x0, 1, 0x0, fun _ _ _ => [MER_STAT_STATE, MER_STAT_SRC, MER_STAT_EVSYNC, MER_STAT_SLEW, MER_STAT_QUAL, MER_STAT_DRLEFT]⟩,
  ⟨0x2004000008, 1, 0x0, 1, 0x0, 1, 0x0, fun _ _ _ => [MER_CTRL_DRLIM, MER_CTRL_SLEWMAX, MER_CTRL_SRC0, MER_CTRL_SRC1, MER_CTRL_SRC2]⟩,
  ⟨0x2004000010, 1, 0x0, 1, 0x0, 1, 0x0, fun _ _ _ => [MER_NOW0_NS, MER_NOW0_STATE, MER_NOW0_SECLO]⟩,
  ⟨0x2004000018, 1, 0x0, 1, 0x0, 1, 0x0, fun _ _ _ => [MER_NOW1_SECHI, MER_NOW1_PCC, MER_NOW1_FRAC]⟩,
  ⟨0x2004000020, 1, 0x0, 1, 0x0, 1, 0x0, fun _ _ _ => [MER_FREECNT_COUNT]⟩,
  ⟨0x2004000028, 1, 0x0, 1, 0x0, 1, 0x0, fun _ _ _ => [MER_RATE_RATE]⟩,
  ⟨0x2004000030, 1, 0x0, 1, 0x0, 1, 0x0, fun _ _ _ => [MER_STEP_NS, MER_STEP_SEC, MER_STEP_NEG]⟩,
  ⟨0x2004000038, 1, 0x0, 1, 0x0, 1, 0x0, fun _ _ _ => [MER_LASTSTEP_NS, MER_LASTSTEP_CAUSE, MER_LASTSTEP_SEC, MER_LASTSTEP_NEG]⟩,
  ⟨0x2004000040, 1, 0x0, 1, 0x0, 1, 0x0, fun _ _ _ => [MER_STEPCNT_COUNT]⟩,
  ⟨0x2004000048, 1, 0x0, 1, 0x0, 1, 0x0, fun _ _ _ => [MER_PCC_COUNT, MER_PCC_INVALID, MER_PCC_SAT]⟩,
  ⟨0x2004000050, 1, 0x0, 1, 0x0, 1, 0x0, fun _ _ _ => [MER_IRQ_EIID, MER_IRQ_HART, MER_IRQ_LEVEL, MER_IRQ_GUEST]⟩,
  ⟨0x2004000058, 1, 0x0, 1, 0x0, 1, 0x0, fun _ _ _ => [MER_EVT_STCHG, MER_EVT_STEP, MER_EVT_STEPREF, MER_EVT_CLAMP]⟩,
  ⟨0x2004000060, 1, 0x0, 1, 0x0, 1, 0x0, fun _ _ _ => [MER_CYCPOS_OFFSET, MER_CYCPOS_CYCLES]⟩,
  ⟨0x2004000068, 1, 0x0, 1, 0x0, 1, 0x0, fun _ _ _ => [MER_CPCNT_LATE, MER_CPCNT_SKIP]⟩,
  ⟨0x2004000100, 16, 0x8, 1, 0x0, 1, 0x0, fun k _ _ => [MER_CP_OFFSET k, MER_CP_EN k, MER_CP_EIID k, MER_CP_HART k, MER_CP_LEVEL k, MER_CP_GUEST k]⟩,
  ⟨0x2004000200, 8, 0x10, 1, 0x0, 1, 0x0, fun k _ _ => [MER_ALMT_NS k, MER_ALMT_SECLO k]⟩,
  ⟨0x2004000208, 8, 0x10, 1, 0x0, 1, 0x0, fun k _ _ => [MER_ALMC_SECHI k, MER_ALMC_ARM k, MER_ALMC_FIRED k, MER_ALMC_LATE k, MER_ALMC_EIID k, MER_ALMC_HART k, MER_ALMC_LEVEL k, MER_ALMC_GUEST k]⟩]

/-- The rows of the RHL block. -/
def rowsRHL : List RegRow := [
  ⟨0x2005000000, 1, 0x0, 1, 0x0, 1, 0x0, fun _ _ _ => [RHL_CTRL_EN, RHL_CTRL_CHAN, RHL_CTRL_CSCAP, RHL_CTRL_CSDLY, RHL_CTRL_PACKLEAD]⟩,
  ⟨0x2005000008, 1, 0x0, 1, 0x0, 1, 0x0, fun _ _ _ => [RHL_STAT_STATE, RHL_STAT_ACTIVE, RHL_STAT_PARTNER, RHL_STAT_NSYNC, RHL_STAT_CYCLEN, RHL_STAT_CYCLE]⟩,
  ⟨0x2005000010, 1, 0x0, 1, 0x0, 1, 0x0, fun _ _ _ => [RHL_SYNCCTL_K, RHL_SYNCCTL_MINSYNC, RHL_SYNCCTL_SYNCLOSS, RHL_SYNCCTL_OFFLIM]⟩,
  ⟨0x2005000018, 1, 0x0, 1, 0x0, 1, 0x0, fun _ _ _ => [RHL_OFFS_CORR, RHL_OFFS_RATEREQ]⟩,
  ⟨0x2005000020, 1, 0x0, 1, 0x0, 1, 0x0, fun _ _ _ => [RHL_SCHLOAD_SRC, RHL_SCHLOAD_BUF, RHL_SCHLOAD_GO]⟩,
  ⟨0x2005000028, 1, 0x0, 1, 0x0, 1, 0x0, fun _ _ _ => [RHL_SCHSTAT_ACTIVE, RHL_SCHSTAT_SHREADY, RHL_SCHSTAT_BUSY, RHL_SCHSTAT_ERR, RHL_SCHSTAT_ERRIDX, RHL_SCHSTAT_SHCYCLEN, RHL_SCHSTAT_SHENTRIES]⟩,
  ⟨0x2005000030, 1, 0x0, 1, 0x0, 1, 0x0, fun _ _ _ => [RHL_SCHSW_CYC, RHL_SCHSW_ARM, RHL_SCHSW_PEND]⟩,
  ⟨0x2005000038, 1, 0x0, 1, 0x0, 1, 0x0, fun _ _ _ => [RHL_STATBASE_BASE]⟩,
  ⟨0x2005000040, 1, 0x0, 1, 0x0, 1, 0x0, fun _ _ _ => [RHL_EVT_STCHG, RHL_EVT_CONTAIN, RHL_EVT_CSRES, RHL_EVT_LOADDONE, RHL_EVT_LOADERR, RHL_EVT_SWDONE, RHL_EVT_SWREF, RHL_EVT_NOSCHED, RHL_EVT_SPLIT]⟩,
  ⟨0x2005000048, 1, 0x0, 1, 0x0, 1, 0x0, fun _ _ _ => [RHL_IRQ_EIID, RHL_IRQ_HART, RHL_IRQ_LEVEL, RHL_IRQ_GUEST]⟩,
  ⟨0x2005000050, 1, 0x0, 1, 0x0, 1, 0x0, fun _ _ _ => [RHL_NEPOCH_EPOCH]⟩,
  ⟨0x2005000058, 1, 0x0, 1, 0x0, 1, 0x0, fun _ _ _ => [RHL_CSRES_WINNER, RHL_CSRES_LOSERS, RHL_CSRES_DELTA]⟩,
  ⟨0x2005000060, 1, 0x0, 1, 0x0, 1, 0x0, fun _ _ _ => [RHL_NOBUF_COUNT]⟩,
  ⟨0x2005000100, 8, 0x8, 1, 0x0, 1, 0x0, fun k _ _ => [RHL_DEV_DEV k, RHL_DEV_ENTRY k, RHL_DEV_VALID k, RHL_DEV_USED k]⟩,
  ⟨0x2005010000, 18, 0x1000, 1, 0x0, 1, 0x0, fun n _ _ => [RHL_PCTRL_EN n, RHL_PCTRL_FORCE n, RHL_PCTRL_RELEASE n, RHL_PCTRL_THRESH n, RHL_PCTRL_CONTAIN n]⟩,
  ⟨0x2005010008, 18, 0x1000, 1, 0x0, 1, 0x0, fun n _ _ => [RHL_PSTAT_LINK n, RHL_PSTAT_STATE n, RHL_PSTAT_VIOL n, RHL_PSTAT_REMAIN n]⟩,
  ⟨0x2005010010, 18, 0x1000, 1, 0x0, 1, 0x0, fun n _ _ => [RHL_PCNT0_FWD n, RHL_PCNT0_DISC n]⟩,
  ⟨0x2005010018, 18, 0x1000, 1, 0x0, 1, 0x0, fun n _ _ => [RHL_PCNT1_CUT n, RHL_PCNT1_FCSERR n, RHL_PCNT1_CONT n, RHL_PCNT1_CSLOST n]⟩,
  ⟨0x2005010020, 18, 0x1000, 1, 0x0, 1, 0x0, fun n _ _ => [RHL_PLAST_KIND n, RHL_PLAST_FRAMEID n, RHL_PLAST_DEV n]⟩,
  ⟨0x20050fe000, 8, 0x8, 1, 0x0, 1, 0x0, fun g _ _ => [GRPMASK 0x2005000000 g]⟩]

/-- The rows of the CHT block. -/
def rowsCHT : List RegRow := [
  ⟨0x2006000000, 1, 0x0, 1, 0x0, 1, 0x0, fun _ _ _ => [CHT_CTRL_EN, CHT_CTRL_SWEEPEN, CHT_CTRL_SEQWIN]⟩,
  ⟨0x2006000008, 1, 0x0, 1, 0x0, 1, 0x0, fun _ _ _ => [CHT_STAT_LOAD, CHT_STAT_STANDBY, CHT_STAT_PINMAPS, CHT_STAT_PINELEM]⟩,
  ⟨0x2006000010, 1, 0x0, 1, 0x0, 1, 0x0, fun _ _ _ => [CHT_MAPBASE_BASE]⟩,
  ⟨0x2006000018, 1, 0x0, 1, 0x0, 1, 0x0, fun _ _ _ => [CHT_WATCHBASE_BASE]⟩,
  ⟨0x2006000020, 1, 0x0, 1, 0x0, 1, 0x0, fun _ _ _ => [CHT_WATCHCNT_COUNT]⟩,
  ⟨0x2006000028, 1, 0x0, 1, 0x0, 1, 0x0, fun _ _ _ => [CHT_EVBASE_BASE]⟩,
  ⟨0x2006000030, 1, 0x0, 1, 0x0, 1, 0x0, fun _ _ _ => [CHT_EVSIZE_RECORDS]⟩,
  ⟨0x2006000038, 1, 0x0, 1, 0x0, 1, 0x0, fun _ _ _ => [CHT_EVPROD_INDEX]⟩,
  ⟨0x2006000040, 1, 0x0, 1, 0x0, 1, 0x0, fun _ _ _ => [CHT_EVCONS_INDEX]⟩,
  ⟨0x2006000048, 1, 0x0, 1, 0x0, 1, 0x0, fun _ _ _ => [CHT_IRQ_EIID, CHT_IRQ_HART, CHT_IRQ_LEVEL, CHT_IRQ_GUEST]⟩,
  ⟨0x2006000050, 1, 0x0, 1, 0x0, 1, 0x0, fun _ _ _ => [CHT_EVT_EVREC, CHT_EVT_EVLOST, CHT_EVT_OVERRUN, CHT_EVT_SEALERR, CHT_EVT_SWEEPLATE]⟩,
  ⟨0x2006000058, 1, 0x0, 1, 0x0, 1, 0x0, fun _ _ _ => [CHT_CNT0_WRITES, CHT_CNT0_NOMAP]⟩,
  ⟨0x2006000060, 1, 0x0, 1, 0x0, 1, 0x0, fun _ _ _ => [CHT_CNT1_SEALERR, CHT_CNT1_SEQERR, CHT_CNT1_REPEAT, CHT_CNT1_OWNDROP]⟩,
  ⟨0x2006000068, 1, 0x0, 1, 0x0, 1, 0x0, fun _ _ _ => [CHT_CNT2_OVERRUN, CHT_CNT2_SHORT, CHT_CNT2_EVLOST, CHT_CNT2_MIRSKIP]⟩,
  ⟨0x2006000070, 1, 0x0, 1, 0x0, 1, 0x0, fun _ _ _ => [CHT_SWEEP_PASSES, CHT_SWEEP_LATE]⟩,
  ⟨0x2006000078, 1, 0x0, 1, 0x0, 1, 0x0, fun _ _ _ => [CHT_STALE_COUNT]⟩,
  ⟨0x2006000080, 1, 0x0, 1, 0x0, 1, 0x0, fun _ _ _ => [CHT_FROZEN_COUNT]⟩]

/-- The rows of the BKB block. -/
def rowsBKB : List RegRow := [
  ⟨0x2007000000, 1, 0x0, 1, 0x0, 1, 0x0, fun _ _ _ => [BKB_CTRL_EN, BKB_CTRL_MODE, BKB_CTRL_MAXFRM]⟩,
  ⟨0x2007000008, 1, 0x0, 1, 0x0, 1, 0x0, fun _ _ _ => [BKB_STAT_LINK, BKB_STAT_MODE, BKB_STAT_RINGOPEN]⟩,
  ⟨0x2007000010, 1, 0x0, 1, 0x0, 1, 0x0, fun _ _ _ => [BKB_MAC_ADDR]⟩,
  ⟨0x2007000018, 1, 0x0, 1, 0x0, 1, 0x0, fun _ _ _ => [BKB_TOPO_TOPOCNT, BKB_TOPO_NODES]⟩,
  ⟨0x2007000020, 1, 0x0, 1, 0x0, 1, 0x0, fun _ _ _ => [BKB_REDCTL_SVINT, BKB_REDCTL_FORGET, BKB_REDCTL_SVLSB]⟩,
  ⟨0x2007000028, 1, 0x0, 1, 0x0, 1, 0x0, fun _ _ _ => [BKB_ASCTL_ASEN, BKB_ASCTL_GMCAP, BKB_ASCTL_PORTS, BKB_ASCTL_PRIO1, BKB_ASCTL_PRIO2, BKB_ASCTL_LOGSYNC, BKB_ASCTL_QLIM, BKB_ASCTL_CLASS]⟩,
  ⟨0x2007000030, 1, 0x0, 1, 0x0, 1, 0x0, fun _ _ _ => [BKB_ASSTAT_ROLE, BKB_ASSTAT_SPORT, BKB_ASSTAT_QUAL, BKB_ASSTAT_OFFSET]⟩,
  ⟨0x2007000038, 1, 0x0, 1, 0x0, 1, 0x0, fun _ _ _ => [BKB_IRQ_EIID, BKB_IRQ_HART, BKB_IRQ_LEVEL, BKB_IRQ_GUEST]⟩,
  ⟨0x2007000040, 1, 0x0, 1, 0x0, 1, 0x0, fun _ _ _ => [BKB_EVT_LINKCHG, BKB_EVT_RINGOPEN, BKB_EVT_ASQUAL, BKB_EVT_ASLOST, BKB_EVT_NODECHG]⟩,
  ⟨0x2007000048, 1, 0x0, 1, 0x0, 1, 0x0, fun _ _ _ => [BKB_STALE_COUNT]⟩,
  ⟨0x2007000050, 1, 0x0, 1, 0x0, 1, 0x0, fun _ _ _ => [BKB_NOBUF_COUNT]⟩,
  ⟨0x2007000100, 64, 0x8, 1, 0x0, 1, 0x0, fun v _ _ => [BKB_VLAN_V v, BKB_VLAN_LINE v, BKB_VLAN_VID v, BKB_VLAN_MEMBERS v, BKB_VLAN_UNTAG v]⟩,
  ⟨0x2007004000, 256, 0x20, 1, 0x0, 1, 0x0, fun f _ _ => [BKB_FC_0_EN f, BKB_FC_0_KIND f, BKB_FC_0_OWNCLS f, BKB_FC_0_BUMP f, BKB_FC_0_EPOCH f, BKB_FC_0_ETYPE f, BKB_FC_0_VID f, BKB_FC_0_PCP f]⟩,
  ⟨0x2007004008, 256, 0x20, 1, 0x0, 1, 0x0, fun f _ _ => [BKB_FC_1_MAC f, BKB_FC_1_ID f]⟩,
  ⟨0x2007004010, 256, 0x20, 1, 0x0, 1, 0x0, fun f _ _ => [BKB_FC_2_B0 f, BKB_FC_2_B1 f, BKB_FC_2_B4 f, BKB_FC_2_B16 f, BKB_FC_2_B27 f, BKB_FC_2_B31 f, BKB_FC_2_SSRC f]⟩,
  ⟨0x2007004018, 256, 0x20, 1, 0x0, 1, 0x0, fun f _ _ => [BKB_FC_3_LASTSEQ f, BKB_FC_3_LASTEPOCH f, BKB_FC_3_FIRST f]⟩,
  ⟨0x2007006000, 256, 0x10, 1, 0x0, 1, 0x0, fun f _ _ => [BKB_FCCNT0_FRAMES f, BKB_FCCNT0_GAP f, BKB_FCCNT0_OLD f]⟩,
  ⟨0x2007006008, 256, 0x10, 1, 0x0, 1, 0x0, fun f _ _ => [BKB_FCCNT1_STALE f, BKB_FCCNT1_OVERWR f, BKB_FCCNT1_TOOLONG f, BKB_FCCNT1_FULL f]⟩,
  ⟨0x2007010000, 4, 0x1000, 1, 0x0, 1, 0x0, fun n _ _ => [BKB_PCTRL_EN n, BKB_PCTRL_MASTER n, BKB_PCTRL_PVID n, BKB_PCTRL_PPCP n]⟩,
  ⟨0x2007010008, 4, 0x1000, 1, 0x0, 1, 0x0, fun n _ _ => [BKB_PSTAT_LINK n, BKB_PSTAT_RED n]⟩,
  ⟨0x2007010010, 4, 0x1000, 1, 0x0, 1, 0x0, fun n _ _ => [BKB_PCNT0_RXFRM n, BKB_PCNT0_TXFRM n]⟩,
  ⟨0x2007010018, 4, 0x1000, 1, 0x0, 1, 0x0, fun n _ _ => [BKB_PCNT1_FCSERR n, BKB_PCNT1_DUPDISC n, BKB_PCNT1_GATEDROP n, BKB_PCNT1_QDROP n]⟩,
  ⟨0x2007010020, 4, 0x1000, 1, 0x0, 1, 0x0, fun n _ _ => [BKB_PCNT2_LINKCHG n, BKB_PCNT2_TOOLONG n]⟩,
  ⟨0x2007010028, 4, 0x1000, 1, 0x0, 1, 0x0, fun n _ _ => [BKB_GCLCTL_SEL n, BKB_GCLCTL_ACTIVE n, BKB_GCLCTL_ORDERR n, BKB_GCLCTL_ACTWR n, BKB_GCLCTL_CNT0 n, BKB_GCLCTL_CNT1 n]⟩,
  ⟨0x2007010400, 4, 0x1000, 2, 0x400, 128, 0x8, fun n b k => [BKB_GCL_OFFSET n b k, BKB_GCL_GATES n b k]⟩,
  ⟨0x20070fe000, 8, 0x8, 1, 0x0, 1, 0x0, fun g _ _ => [GRPMASK 0x2007000000 g]⟩]

/-- The rows of the MDB block. -/
def rowsMDB : List RegRow := [
  ⟨0x2008010000, 6, 0x1000, 1, 0x0, 1, 0x0, fun n _ _ => [MDB_CCTRL_EN n, MDB_CCTRL_MODE n, MDB_CCTRL_FDEN n, MDB_CCTRL_XLEN n, MDB_CCTRL_TERM n, MDB_CCTRL_BOAUTO n, MDB_CCTRL_RECOVER n, MDB_CCTRL_DEFRETRY n, MDB_CCTRL_NOMATCH n]⟩,
  ⟨0x2008010008, 6, 0x1000, 1, 0x0, 1, 0x0, fun n _ _ => [MDB_NBT_BRP n, MDB_NBT_TSEG1 n, MDB_NBT_TSEG2 n, MDB_NBT_SJW n]⟩,
  ⟨0x2008010010, 6, 0x1000, 1, 0x0, 1, 0x0, fun n _ _ => [MDB_DBT_BRP n, MDB_DBT_TSEG1 n, MDB_DBT_TSEG2 n, MDB_DBT_SJW n, MDB_DBT_TDCO n, MDB_DBT_TDCEN n]⟩,
  ⟨0x2008010018, 6, 0x1000, 1, 0x0, 1, 0x0, fun n _ _ => [MDB_XBT_BRP n, MDB_XBT_TSEG1 n, MDB_XBT_TSEG2 n, MDB_XBT_SJW n, MDB_XBT_TDCO n, MDB_XBT_TDCEN n, MDB_XBT_FAST n]⟩,
  ⟨0x2008010020, 6, 0x1000, 1, 0x0, 1, 0x0, fun n _ _ => [MDB_CSTAT_STATE n, MDB_CSTAT_TEC n, MDB_CSTAT_REC n, MDB_CSTAT_LEC n, MDB_CSTAT_FIFO n]⟩,
  ⟨0x2008010028, 6, 0x1000, 1, 0x0, 1, 0x0, fun n _ _ => [MDB_CNT0_TXOK n, MDB_CNT0_RXOK n]⟩,
  ⟨0x2008010030, 6, 0x1000, 1, 0x0, 1, 0x0, fun n _ _ => [MDB_CNT1_ARBLOST n, MDB_CNT1_ERRORS n, MDB_CNT1_BOCNT n, MDB_CNT1_NOBUF n]⟩,
  ⟨0x2008010038, 6, 0x1000, 1, 0x0, 1, 0x0, fun n _ _ => [MDB_CNT2_HPOVF n, MDB_CNT2_UNMATCH n, MDB_CNT2_FMTERR n, MDB_CNT2_TUNDROP n]⟩,
  ⟨0x2008010040, 6, 0x1000, 1, 0x0, 1, 0x0, fun n _ _ => [MDB_CNT3_TUNTXFAIL n]⟩,
  ⟨0x2008010048, 6, 0x1000, 1, 0x0, 1, 0x0, fun n _ _ => [MDB_EVT_STCHG n, MDB_EVT_BUSOFF n, MDB_EVT_PASSIVE n, MDB_EVT_HPOVF n, MDB_EVT_NOBUF n, MDB_EVT_FMTERR n, MDB_EVT_BTERR n, MDB_EVT_TDTO n]⟩,
  ⟨0x2008010050, 6, 0x1000, 1, 0x0, 1, 0x0, fun n _ _ => [MDB_IRQ_EIID n, MDB_IRQ_HART n, MDB_IRQ_LEVEL n, MDB_IRQ_GUEST n]⟩,
  ⟨0x2008010058, 6, 0x1000, 1, 0x0, 1, 0x0, fun n _ _ => [MDB_HPIRQ_EIID n, MDB_HPIRQ_HART n, MDB_HPIRQ_LEVEL n, MDB_HPIRQ_GUEST n]⟩,
  ⟨0x2008010060, 6, 0x1000, 1, 0x0, 1, 0x0, fun n _ _ => [MDB_HPSTAT_COUNT n, MDB_HPSTAT_HEAD n]⟩,
  ⟨0x2008010068, 6, 0x1000, 1, 0x0, 1, 0x0, fun n _ _ => [MDB_HPPOP_POP n]⟩,
  ⟨0x2008010100, 6, 0x1000, 8, 0x10, 1, 0x0, fun n k _ => [MDB_HFLT_0_ID n k, MDB_HFLT_0_IDE n k, MDB_HFLT_0_MASK n k]⟩,
  ⟨0x2008010108, 6, 0x1000, 8, 0x10, 1, 0x0, fun n k _ => [MDB_HFLT_1_EN n k, MDB_HFLT_1_FMT n k, MDB_HFLT_1_RING n k, MDB_HFLT_1_MAP n k, MDB_HFLT_1_TUN n k, MDB_HFLT_1_CTX n k, MDB_HFLT_1_MAPID n k, MDB_HFLT_1_VCID n k, MDB_HFLT_1_VCIDMASK n k]⟩,
  ⟨0x2008010200, 6, 0x1000, 128, 0x10, 1, 0x0, fun n k _ => [MDB_FLT_0_ID n k, MDB_FLT_0_IDE n k, MDB_FLT_0_MASK n k]⟩,
  ⟨0x2008010208, 6, 0x1000, 128, 0x10, 1, 0x0, fun n k _ => [MDB_FLT_1_EN n k, MDB_FLT_1_FMT n k, MDB_FLT_1_RING n k, MDB_FLT_1_MAP n k, MDB_FLT_1_TUN n k, MDB_FLT_1_CTX n k, MDB_FLT_1_MAPID n k, MDB_FLT_1_VCID n k, MDB_FLT_1_VCIDMASK n k]⟩,
  ⟨0x2008010a00, 6, 0x1000, 16, 0x60, 12, 0x8, fun n k w => [MDB_HPE_DATA n k w]⟩,
  ⟨0x2008000000, 1, 0x0, 1, 0x0, 1, 0x0, fun _ _ _ => [MDB_STAT_EN, MDB_STAT_BUSOFF]⟩,
  ⟨0x20080fe000, 8, 0x8, 1, 0x0, 1, 0x0, fun g _ _ => [GRPMASK 0x2008000000 g]⟩]

/-- The rows of the BRG block. -/
def rowsBRG : List RegRow := [
  ⟨0x2009000000, 1, 0x0, 1, 0x0, 1, 0x0, fun _ _ _ => [BRG_CTRL_EN, BRG_CTRL_ROLE, BRG_CTRL_MAXW, BRG_CTRL_MAXSPD, BRG_CTRL_PFAGE]⟩,
  ⟨0x2009000008, 1, 0x0, 1, 0x0, 1, 0x0, fun _ _ _ => [BRG_STAT_LINK, BRG_STAT_SPEED, BRG_STAT_WIDTH, BRG_STAT_TAGS]⟩,
  ⟨0x2009000010, 1, 0x0, 1, 0x0, 1, 0x0, fun _ _ _ => [BRG_ID_VID, BRG_ID_DID, BRG_ID_REV]⟩,
  ⟨0x2009000018, 1, 0x0, 1, 0x0, 1, 0x0, fun _ _ _ => [BRG_CFGREQ_BUS, BRG_CFGREQ_DEV, BRG_CFGREQ_FN, BRG_CFGREQ_REG, BRG_CFGREQ_SIZE, BRG_CFGREQ_WR, BRG_CFGREQ_GO, BRG_CFGREQ_BUSY, BRG_CFGREQ_RESULT]⟩,
  ⟨0x2009000020, 1, 0x0, 1, 0x0, 1, 0x0, fun _ _ _ => [BRG_CFGDATA_DATA]⟩,
  ⟨0x2009000028, 1, 0x0, 1, 0x0, 1, 0x0, fun _ _ _ => [BRG_CNT0_CPLTO, BRG_CNT0_CPLERR, BRG_CNT0_SIZEFLT, BRG_CNT0_LATECPL]⟩,
  ⟨0x2009000030, 1, 0x0, 1, 0x0, 1, 0x0, fun _ _ _ => [BRG_CNT1_INREF, BRG_CNT1_INPOIS, BRG_CNT1_PWDROP, BRG_CNT1_ELOVF]⟩,
  ⟨0x2009000038, 1, 0x0, 1, 0x0, 1, 0x0, fun _ _ _ => [BRG_EVT_LINKCHG, BRG_EVT_ERRMSG, BRG_EVT_CPLTO, BRG_EVT_INREF, BRG_EVT_ELOVF]⟩,
  ⟨0x2009000040, 1, 0x0, 1, 0x0, 1, 0x0, fun _ _ _ => [BRG_IRQ_EIID, BRG_IRQ_HART, BRG_IRQ_LEVEL, BRG_IRQ_GUEST]⟩,
  ⟨0x2009000048, 1, 0x0, 1, 0x0, 1, 0x0, fun _ _ _ => [BRG_ELSTAT_COUNT, BRG_ELSTAT_HEAD]⟩,
  ⟨0x2009000050, 1, 0x0, 1, 0x0, 1, 0x0, fun _ _ _ => [BRG_ELPOP_POP]⟩,
  ⟨0x2009000058, 1, 0x0, 1, 0x0, 1, 0x0, fun _ _ _ => [BRG_MSIGEN_VEC]⟩,
  ⟨0x2009000100, 16, 0x20, 1, 0x0, 1, 0x0, fun k _ _ => [BRG_OW_0_EN k, BRG_OW_0_TYPE k, BRG_OW_0_NP k, BRG_OW_0_PFLEN k]⟩,
  ⟨0x2009000108, 16, 0x20, 1, 0x0, 1, 0x0, fun k _ _ => [BRG_OW_1_LBASE k, BRG_OW_1_SIZE k]⟩,
  ⟨0x2009000110, 16, 0x20, 1, 0x0, 1, 0x0, fun k _ _ => [BRG_OW_2_TBASE k]⟩,
  ⟨0x2009000400, 8, 0x20, 1, 0x0, 1, 0x0, fun k _ _ => [BRG_IW_0_EN k, BRG_IW_0_RD k, BRG_IW_0_WR k, BRG_IW_0_SIZE k]⟩,
  ⟨0x2009000408, 8, 0x20, 1, 0x0, 1, 0x0, fun k _ _ => [BRG_IW_1_BBASE k]⟩,
  ⟨0x2009000410, 8, 0x20, 1, 0x0, 1, 0x0, fun k _ _ => [BRG_IW_2_TBASE k]⟩,
  ⟨0x2009000500, 36, 0x8, 1, 0x0, 1, 0x0, fun r _ _ => [BRG_MSIRT_EIID r, BRG_MSIRT_HART r, BRG_MSIRT_LEVEL r, BRG_MSIRT_GUEST r]⟩,
  ⟨0x2009000800, 16, 0x20, 1, 0x0, 1, 0x0, fun e _ _ => [BRG_EL_0_ADDR e]⟩,
  ⟨0x2009000808, 16, 0x20, 1, 0x0, 1, 0x0, fun e _ _ => [BRG_EL_1_TSLO e]⟩,
  ⟨0x2009000810, 16, 0x20, 1, 0x0, 1, 0x0, fun e _ _ => [BRG_EL_2_TSHI e, BRG_EL_2_RID e, BRG_EL_2_WIN e, BRG_EL_2_MSG e, BRG_EL_2_HLOK e]⟩]

/-- The rows of the FIO block. -/
def rowsFIO : List RegRow := [
  ⟨0x200a000000, 1, 0x0, 1, 0x0, 1, 0x0, fun _ _ _ => [FIO_CTRL_EN]⟩,
  ⟨0x200a000008, 1, 0x0, 1, 0x0, 1, 0x0, fun _ _ _ => [FIO_STAT_FALINK, FIO_STAT_WDEXP, FIO_STAT_SUP]⟩,
  ⟨0x200a000010, 1, 0x0, 1, 0x0, 1, 0x0, fun _ _ _ => [FIO_GRPCFG_DICLS, FIO_GRPCFG_SUPCLS]⟩,
  ⟨0x200a000018, 1, 0x0, 1, 0x0, 1, 0x0, fun _ _ _ => [FIO_SUPV_U]⟩,
  ⟨0x200a000020, 1, 0x0, 1, 0x0, 1, 0x0, fun _ _ _ => [FIO_WDOG_WDEN, FIO_WDOG_CLEAR, FIO_WDOG_EXP, FIO_WDOG_LINKEXP, FIO_WDOG_TIME, FIO_WDOG_BADKEY]⟩,
  ⟨0x200a000028, 1, 0x0, 1, 0x0, 1, 0x0, fun _ _ _ => [FIO_WDKICK_KEY]⟩,
  ⟨0x200a000030, 1, 0x0, 1, 0x0, 1, 0x0, fun _ _ _ => [FIO_DOCMD_CMD]⟩,
  ⟨0x200a000038, 1, 0x0, 1, 0x0, 1, 0x0, fun _ _ _ => [FIO_DISTATE_LEVEL]⟩,
  ⟨0x200a000040, 1, 0x0, 1, 0x0, 1, 0x0, fun _ _ _ => [FIO_SISTATE_SI, FIO_SISTATE_SP, FIO_SISTATE_EDM, FIO_SISTATE_RST]⟩,
  ⟨0x200a000048, 1, 0x0, 1, 0x0, 1, 0x0, fun _ _ _ => [FIO_DOSAFE_REQ, FIO_DOSAFE_MASK, FIO_DOSAFE_NREQ]⟩,
  ⟨0x200a000050, 1, 0x0, 1, 0x0, 1, 0x0, fun _ _ _ => [FIO_SOOWN_OWN]⟩,
  ⟨0x200a000058, 1, 0x0, 1, 0x0, 1, 0x0, fun _ _ _ => [FIO_SOSTAT_FAREQ, FIO_SOSTAT_FASW, FIO_SOSTAT_OUT, FIO_SOSTAT_FORCED, FIO_SOSTAT_EXTDRIVE]⟩,
  ⟨0x200a000060, 1, 0x0, 1, 0x0, 1, 0x0, fun _ _ _ => [FIO_EVT_FAULT, FIO_EVT_SUPCHG, FIO_EVT_WDEXP, FIO_EVT_OWNERR, FIO_EVT_BADKEY]⟩,
  ⟨0x200a000068, 1, 0x0, 1, 0x0, 1, 0x0, fun _ _ _ => [FIO_IRQ_EIID, FIO_IRQ_HART, FIO_IRQ_LEVEL, FIO_IRQ_GUEST]⟩,
  ⟨0x200a010000, 48, 0x1000, 1, 0x0, 1, 0x0, fun c _ _ => [FIO_CHCFG_EN (0x0 + c), FIO_CHCFG_WET (0x0 + c), FIO_CHCFG_FILT (0x0 + c)]⟩,
  ⟨0x200a110000, 24, 0x1000, 1, 0x0, 1, 0x0, fun c _ _ => [FIO_CHCFG_EN (0x30 + c), FIO_CHCFG_SAFE (0x30 + c), FIO_CHCFG_PAIRED (0x30 + c), FIO_CHCFG_PEXT (0x30 + c), FIO_CHCFG_PARTNER (0x30 + c), FIO_CHCFG_OLT (0x30 + c)]⟩,
  ⟨0x200a210000, 16, 0x1000, 1, 0x0, 1, 0x0, fun c _ _ => [FIO_CHCFG_EN (0x48 + c), FIO_CHCFG_FILT (0x48 + c), FIO_CHCFG_TPCHK (0x48 + c), FIO_CHCFG_TPSEL (0x48 + c)]⟩,
  ⟨0x200a310000, 8, 0x1000, 1, 0x0, 1, 0x0, fun c _ _ => [FIO_CHCFG_EN (0x58 + c), FIO_CHCFG_MODE (0x58 + c), FIO_CHCFG_DISC (0x58 + c)]⟩,
  ⟨0x200a410000, 8, 0x1000, 1, 0x0, 1, 0x0, fun c _ _ => [FIO_CHCFG_EN (0x60 + c), FIO_CHCFG_OLT (0x60 + c)]⟩,
  ⟨0x200a510000, 8, 0x1000, 1, 0x0, 1, 0x0, fun c _ _ => [FIO_CHCFG_EN (0x68 + c), FIO_CHCFG_FILT (0x68 + c)]⟩,
  ⟨0x200a518000, 4, 0x1000, 1, 0x0, 1, 0x0, fun c _ _ => [FIO_CHCFG_EN (0x70 + c), FIO_CHCFG_ZTIME (0x70 + c)]⟩,
  ⟨0x200a51c000, 2, 0x1000, 1, 0x0, 1, 0x0, fun c _ _ => [FIO_CHCFG_EN (0x74 + c), FIO_CHCFG_FILT (0x74 + c)]⟩,
  ⟨0x200a010008, 48, 0x1000, 1, 0x0, 1, 0x0, fun c _ _ => [FIO_CHSIG_SIGID (0x0 + c), FIO_CHSIG_PUB (0x0 + c), FIO_CHSIG_REFRESH (0x0 + c)]⟩,
  ⟨0x200a110008, 24, 0x1000, 1, 0x0, 1, 0x0, fun c _ _ => [FIO_CHSIG_SIGID (0x30 + c), FIO_CHSIG_PUB (0x30 + c), FIO_CHSIG_REFRESH (0x30 + c)]⟩,
  ⟨0x200a210008, 16, 0x1000, 1, 0x0, 1, 0x0, fun c _ _ => [FIO_CHSIG_SIGID (0x48 + c), FIO_CHSIG_PUB (0x48 + c), FIO_CHSIG_REFRESH (0x48 + c)]⟩,
  ⟨0x200a310008, 8, 0x1000, 1, 0x0, 1, 0x0, fun c _ _ => [FIO_CHSIG_SIGID (0x58 + c), FIO_CHSIG_PUB (0x58 + c), FIO_CHSIG_REFRESH (0x58 + c)]⟩,
  ⟨0x200a410008, 8, 0x1000, 1, 0x0, 1, 0x0, fun c _ _ => [FIO_CHSIG_SIGID (0x60 + c), FIO_CHSIG_PUB (0x60 + c), FIO_CHSIG_REFRESH (0x60 + c)]⟩,
  ⟨0x200a510008, 8, 0x1000, 1, 0x0, 1, 0x0, fun c _ _ => [FIO_CHSIG_SIGID (0x68 + c), FIO_CHSIG_PUB (0x68 + c), FIO_CHSIG_REFRESH (0x68 + c)]⟩,
  ⟨0x200a518008, 4, 0x1000, 1, 0x0, 1, 0x0, fun c _ _ => [FIO_CHSIG_SIGID (0x70 + c), FIO_CHSIG_PUB (0x70 + c), FIO_CHSIG_REFRESH (0x70 + c)]⟩,
  ⟨0x200a51c008, 2, 0x1000, 1, 0x0, 1, 0x0, fun c _ _ => [FIO_CHSIG_SIGID (0x74 + c), FIO_CHSIG_PUB (0x74 + c), FIO_CHSIG_REFRESH (0x74 + c)]⟩,
  ⟨0x200a010010, 48, 0x1000, 1, 0x0, 1, 0x0, fun c _ _ => [FIO_CHSTAT_LEVEL (0x0 + c), FIO_CHSTAT_VALID (0x0 + c), FIO_CHSTAT_CLRF (0x0 + c)]⟩,
  ⟨0x200a110010, 24, 0x1000, 1, 0x0, 1, 0x0, fun c _ _ => [FIO_CHSTAT_LEVEL (0x30 + c), FIO_CHSTAT_VALID (0x30 + c), FIO_CHSTAT_OVERLOAD (0x30 + c), FIO_CHSTAT_OPENWIRE (0x30 + c), FIO_CHSTAT_OVERTEMP (0x30 + c), FIO_CHSTAT_EXTDRIVE (0x30 + c), FIO_CHSTAT_PARTNERON (0x30 + c), FIO_CHSTAT_SUPLOST (0x30 + c), FIO_CHSTAT_CLRF (0x30 + c)]⟩,
  ⟨0x200a210010, 16, 0x1000, 1, 0x0, 1, 0x0, fun c _ _ => [FIO_CHSTAT_LEVEL (0x48 + c), FIO_CHSTAT_VALID (0x48 + c), FIO_CHSTAT_TPFAULT (0x48 + c), FIO_CHSTAT_CLRF (0x48 + c)]⟩,
  ⟨0x200a310010, 8, 0x1000, 1, 0x0, 1, 0x0, fun c _ _ => [FIO_CHSTAT_LEVEL (0x58 + c), FIO_CHSTAT_VALID (0x58 + c), FIO_CHSTAT_DISCFAULT (0x58 + c), FIO_CHSTAT_CLRF (0x58 + c)]⟩,
  ⟨0x200a410010, 8, 0x1000, 1, 0x0, 1, 0x0, fun c _ _ => [FIO_CHSTAT_LEVEL (0x60 + c), FIO_CHSTAT_VALID (0x60 + c), FIO_CHSTAT_OVERLOAD (0x60 + c), FIO_CHSTAT_OVERTEMP (0x60 + c), FIO_CHSTAT_EXTDRIVE (0x60 + c), FIO_CHSTAT_SUPLOST (0x60 + c), FIO_CHSTAT_CLRF (0x60 + c)]⟩,
  ⟨0x200a510010, 8, 0x1000, 1, 0x0, 1, 0x0, fun c _ _ => [FIO_CHSTAT_LEVEL (0x68 + c), FIO_CHSTAT_VALID (0x68 + c), FIO_CHSTAT_CLRF (0x68 + c)]⟩,
  ⟨0x200a518010, 4, 0x1000, 1, 0x0, 1, 0x0, fun c _ _ => [FIO_CHSTAT_LEVEL (0x70 + c), FIO_CHSTAT_VALID (0x70 + c), FIO_CHSTAT_OVERFREQ (0x70 + c), FIO_CHSTAT_CLRF (0x70 + c)]⟩,
  ⟨0x200a51c010, 2, 0x1000, 1, 0x0, 1, 0x0, fun c _ _ => [FIO_CHSTAT_LEVEL (0x74 + c), FIO_CHSTAT_VALID (0x74 + c), FIO_CHSTAT_CLRF (0x74 + c)]⟩,
  ⟨0x200a110018, 24, 0x1000, 1, 0x0, 1, 0x0, fun c _ _ => [FIO_CHRB_U (0x30 + c), FIO_CHRB_I (0x30 + c), FIO_CHRB_TJ (0x30 + c)]⟩,
  ⟨0x200a410018, 8, 0x1000, 1, 0x0, 1, 0x0, fun c _ _ => [FIO_CHRB_U (0x60 + c), FIO_CHRB_I (0x60 + c), FIO_CHRB_TJ (0x60 + c)]⟩,
  ⟨0x200a518018, 4, 0x1000, 1, 0x0, 1, 0x0, fun c _ _ => [FIO_CHRB_PERIOD (0x70 + c), FIO_CHRB_EDGES (0x70 + c)]⟩,
  ⟨0x200a010020, 48, 0x1000, 1, 0x0, 1, 0x0, fun c _ _ => [FIO_CHCNT_CHANGES (0x0 + c), FIO_CHCNT_FAULTS (0x0 + c)]⟩,
  ⟨0x200a110020, 24, 0x1000, 1, 0x0, 1, 0x0, fun c _ _ => [FIO_CHCNT_CHANGES (0x30 + c), FIO_CHCNT_FAULTS (0x30 + c)]⟩,
  ⟨0x200a210020, 16, 0x1000, 1, 0x0, 1, 0x0, fun c _ _ => [FIO_CHCNT_CHANGES (0x48 + c), FIO_CHCNT_FAULTS (0x48 + c)]⟩,
  ⟨0x200a310020, 8, 0x1000, 1, 0x0, 1, 0x0, fun c _ _ => [FIO_CHCNT_CHANGES (0x58 + c), FIO_CHCNT_FAULTS (0x58 + c)]⟩,
  ⟨0x200a410020, 8, 0x1000, 1, 0x0, 1, 0x0, fun c _ _ => [FIO_CHCNT_CHANGES (0x60 + c), FIO_CHCNT_FAULTS (0x60 + c)]⟩,
  ⟨0x200a510020, 8, 0x1000, 1, 0x0, 1, 0x0, fun c _ _ => [FIO_CHCNT_CHANGES (0x68 + c), FIO_CHCNT_FAULTS (0x68 + c)]⟩,
  ⟨0x200a518020, 4, 0x1000, 1, 0x0, 1, 0x0, fun c _ _ => [FIO_CHCNT_CHANGES (0x70 + c), FIO_CHCNT_FAULTS (0x70 + c)]⟩,
  ⟨0x200a51c020, 2, 0x1000, 1, 0x0, 1, 0x0, fun c _ _ => [FIO_CHCNT_CHANGES (0x74 + c), FIO_CHCNT_FAULTS (0x74 + c)]⟩,
  ⟨0x200a0fe000, 8, 0x8, 1, 0x0, 1, 0x0, fun g _ _ => [GRPMASK 0x200a000000 g]⟩,
  ⟨0x200a1fe000, 8, 0x8, 1, 0x0, 1, 0x0, fun g _ _ => [GRPMASK 0x200a100000 g]⟩,
  ⟨0x200a2fe000, 8, 0x8, 1, 0x0, 1, 0x0, fun g _ _ => [GRPMASK 0x200a200000 g]⟩,
  ⟨0x200a3fe000, 8, 0x8, 1, 0x0, 1, 0x0, fun g _ _ => [GRPMASK 0x200a300000 g]⟩,
  ⟨0x200a4fe000, 8, 0x8, 1, 0x0, 1, 0x0, fun g _ _ => [GRPMASK 0x200a400000 g]⟩,
  ⟨0x200a5fe000, 8, 0x8, 1, 0x0, 1, 0x0, fun g _ _ => [GRPMASK 0x200a500000 g]⟩]

/-- The rows of the ANL block. -/
def rowsANL : List RegRow := [
  ⟨0x200b000000, 1, 0x0, 1, 0x0, 1, 0x0, fun _ _ _ => [ANL_CTRL_EN, ANL_CTRL_BINTRIM]⟩,
  ⟨0x200b000008, 1, 0x0, 1, 0x0, 1, 0x0, fun _ _ _ => [ANL_STAT_LINK, ANL_STAT_TRIMOPEN, ANL_STAT_TRIMCH]⟩,
  ⟨0x200b000010, 1, 0x0, 1, 0x0, 1, 0x0, fun _ _ _ => [ANL_EVT_FAULT, ANL_EVT_LINKCHG, ANL_EVT_TRIM, ANL_EVT_FALLBACK]⟩,
  ⟨0x200b000018, 1, 0x0, 1, 0x0, 1, 0x0, fun _ _ _ => [ANL_IRQ_EIID, ANL_IRQ_HART, ANL_IRQ_LEVEL, ANL_IRQ_GUEST]⟩,
  ⟨0x200b010000, 8, 0x1000, 1, 0x0, 1, 0x0, fun n _ _ => [ANL_CHCFG_EN n, ANL_CHCFG_MODE n, ANL_CHCFG_SAFE n, ANL_CHCFG_MMACT n, ANL_CHCFG_ALMLO n, ANL_CHCFG_ALMHI n]⟩,
  ⟨0x200b010008, 8, 0x1000, 1, 0x0, 1, 0x0, fun n _ _ => [ANL_CHSP_SP n, ANL_CHSP_CMODE n]⟩,
  ⟨0x200b010010, 8, 0x1000, 1, 0x0, 1, 0x0, fun n _ _ => [ANL_CHTRIM_ZERO n, ANL_CHTRIM_SPAN n, ANL_CHTRIM_TSRC n]⟩,
  ⟨0x200b010018, 8, 0x1000, 1, 0x0, 1, 0x0, fun n _ _ => [ANL_CHSIG_SIGID n, ANL_CHSIG_PUB n, ANL_CHSIG_REFRESH n, ANL_CHSIG_DEADBAND n]⟩,
  ⟨0x200b010020, 8, 0x1000, 1, 0x0, 1, 0x0, fun n _ _ => [ANL_CHSTAT_ACTIVE n, ANL_CHSTAT_FALLBACK n, ANL_CHSTAT_HEADROOM n, ANL_CHSTAT_FOLDBACK n, ANL_CHSTAT_OPEN n, ANL_CHSTAT_RBMISM n, ANL_CHSTAT_SAFE n, ANL_CHSTAT_LINK n, ANL_CHSTAT_TRIM n, ANL_CHSTAT_HOLD n, ANL_CHSTAT_CLRF n]⟩,
  ⟨0x200b010028, 8, 0x1000, 1, 0x0, 1, 0x0, fun n _ _ => [ANL_CHRB_IRB n, ANL_CHRB_IPRI n, ANL_CHRB_VTERM n, ANL_CHRB_VCOMP n, ANL_CHRB_TJ n]⟩,
  ⟨0x200b010030, 8, 0x1000, 1, 0x0, 1, 0x0, fun n _ _ => [ANL_CHCNT_HEADROOM n, ANL_CHCNT_FALLBACK n, ANL_CHCNT_RBMISM n, ANL_CHCNT_LINKLOSS n]⟩,
  ⟨0x200b010038, 8, 0x1000, 1, 0x0, 1, 0x0, fun n _ _ => [ANL_CHFW_FWVER n, ANL_CHFW_CALVER n]⟩,
  ⟨0x200b0fe000, 8, 0x8, 1, 0x0, 1, 0x0, fun g _ _ => [GRPMASK 0x200b000000 g]⟩]

/-- The rows of the LOD block. -/
def rowsLOD : List RegRow := [
  ⟨0x200c000000, 1, 0x0, 1, 0x0, 1, 0x0, fun _ _ _ => [LOD_STAT_LINK, LOD_STAT_ACTIVE, LOD_STAT_INTERNAL, LOD_STAT_SUPLOST, LOD_STAT_SLOTON, LOD_STAT_FBSW, LOD_STAT_LOCK, LOD_STAT_FRAMES]⟩,
  ⟨0x200c000008, 1, 0x0, 1, 0x0, 1, 0x0, fun _ _ _ => [LOD_TBLSTAT_VERSION, LOD_TBLSTAT_CRC]⟩,
  ⟨0x200c000010, 1, 0x0, 1, 0x0, 1, 0x0, fun _ _ _ => [LOD_CMTCTL_REQ, LOD_CMTCTL_PEND, LOD_CMTCTL_NOW, LOD_CMTCTL_CANCEL, LOD_CMTCTL_RESULT, LOD_CMTCTL_ERRIDX]⟩,
  ⟨0x200c000018, 1, 0x0, 1, 0x0, 1, 0x0, fun _ _ _ => [LOD_CMTWP0_TSLO]⟩,
  ⟨0x200c000020, 1, 0x0, 1, 0x0, 1, 0x0, fun _ _ _ => [LOD_CMTWP1_TSHI]⟩,
  ⟨0x200c000028, 1, 0x0, 1, 0x0, 1, 0x0, fun _ _ _ => [LOD_OUTSTAT_OUT, LOD_OUTSTAT_MID, LOD_OUTSTAT_EDM, LOD_OUTSTAT_EDMPEND]⟩,
  ⟨0x200c000030, 1, 0x0, 1, 0x0, 1, 0x0, fun _ _ _ => [LOD_LOCKCAUSE_CAUSE]⟩,
  ⟨0x200c000038, 1, 0x0, 1, 0x0, 1, 0x0, fun _ _ _ => [LOD_INSTAT_SI, LOD_INSTAT_SP, LOD_INSTAT_RST, LOD_INSTAT_TPERR, LOD_INSTAT_TPOUTERR]⟩,
  ⟨0x200c000040, 8, 0x8, 1, 0x0, 1, 0x0, fun s _ _ => [LOD_SLOT_STATE s, LOD_SLOT_WARN s, LOD_SLOT_CAUSE s, LOD_SLOT_TIMER s, LOD_SLOT_DEMANDS s]⟩,
  ⟨0x200c000080, 1, 0x0, 1, 0x0, 1, 0x0, fun _ _ _ => [LOD_SPD_SPD]⟩,
  ⟨0x200c000088, 1, 0x0, 1, 0x0, 1, 0x0, fun _ _ _ => [LOD_LKSEQ_SEQ]⟩,
  ⟨0x200c000090, 1, 0x0, 1, 0x0, 1, 0x0, fun _ _ _ => [LOD_UNLOCK0_MASK, LOD_UNLOCK0_KEY, LOD_UNLOCK0_SEQ]⟩,
  ⟨0x200c000098, 1, 0x0, 1, 0x0, 1, 0x0, fun _ _ _ => [LOD_UNLOCK1_NCODE]⟩,
  ⟨0x200c0000a0, 1, 0x0, 1, 0x0, 1, 0x0, fun _ _ _ => [LOD_TRIP_MASK, LOD_TRIP_KEY]⟩,
  ⟨0x200c0000a8, 1, 0x0, 1, 0x0, 1, 0x0, fun _ _ _ => [LOD_EVT_LOCK, LOD_EVT_CLEAR, LOD_EVT_COMMIT, LOD_EVT_DEMAND, LOD_EVT_RSTREF, LOD_EVT_UNLREF, LOD_EVT_LINK, LOD_EVT_ECHO]⟩,
  ⟨0x200c0000b0, 1, 0x0, 1, 0x0, 1, 0x0, fun _ _ _ => [LOD_IRQ_EIID, LOD_IRQ_HART, LOD_IRQ_LEVEL, LOD_IRQ_GUEST]⟩,
  ⟨0x200c0000b8, 1, 0x0, 1, 0x0, 1, 0x0, fun _ _ _ => [LOD_CNT_LOCKS, LOD_CNT_RESETS, LOD_CNT_UNLREF, LOD_CNT_RSTREF]⟩,
  ⟨0x200c0000c0, 1, 0x0, 1, 0x0, 1, 0x0, fun _ _ _ => [LOD_ECHOSTAT_ECHOCRC, LOD_ECHOSTAT_ECHOSEQ]⟩,
  ⟨0x200c001000, 128, 0x8, 1, 0x0, 1, 0x0, fun i _ _ => [LOD_SHADOW_DATA i]⟩,
  ⟨0x200c002000, 128, 0x8, 1, 0x0, 1, 0x0, fun i _ _ => [LOD_ECHO_DATA i]⟩]

/-- The rows of the PRL block. -/
def rowsPRL : List RegRow := [
  ⟨0x200d000000, 1, 0x0, 1, 0x0, 1, 0x0, fun _ _ _ => [PRL_CTRL_EN, PRL_CTRL_SIDE, PRL_CTRL_OVR, PRL_CTRL_SWAP]⟩,
  ⟨0x200d000008, 1, 0x0, 1, 0x0, 1, 0x0, fun _ _ _ => [PRL_STAT_ROLE, PRL_STAT_PARTNER, PRL_STAT_LINK, PRL_STAT_READY, PRL_STAT_PREADY, PRL_STAT_COLD, PRL_STAT_CATCHUP]⟩,
  ⟨0x200d000010, 1, 0x0, 1, 0x0, 1, 0x0, fun _ _ _ => [PRL_EPOCH_EPOCH]⟩,
  ⟨0x200d000018, 1, 0x0, 1, 0x0, 1, 0x0, fun _ _ _ => [PRL_PSTAT_ROLE, PRL_PSTAT_FLAGS, PRL_PSTAT_PEPOCH, PRL_PSTAT_PNEPOCH, PRL_PSTAT_TSTATE]⟩,
  ⟨0x200d000020, 1, 0x0, 1, 0x0, 1, 0x0, fun _ _ _ => [PRL_MIR_USED, PRL_MIR_BACKLOG]⟩,
  ⟨0x200d000028, 1, 0x0, 1, 0x0, 1, 0x0, fun _ _ _ => [PRL_CNT0_MISSED, PRL_CNT0_PROMOTE, PRL_CNT0_SWAPS, PRL_CNT0_DUALP]⟩,
  ⟨0x200d000030, 1, 0x0, 1, 0x0, 1, 0x0, fun _ _ _ => [PRL_CNT1_LOSTFRM, PRL_CNT1_AHEAD, PRL_CNT1_MIRDISC, PRL_CNT1_BLKSKIP]⟩,
  ⟨0x200d000038, 1, 0x0, 1, 0x0, 1, 0x0, fun _ _ _ => [PRL_STALE_COUNT]⟩,
  ⟨0x200d000040, 1, 0x0, 1, 0x0, 1, 0x0, fun _ _ _ => [PRL_TSYNC_OFFSET, PRL_TSYNC_DELAY, PRL_TSYNC_QUAL]⟩,
  ⟨0x200d000048, 1, 0x0, 1, 0x0, 1, 0x0, fun _ _ _ => [PRL_EVT_ROLECHG, PRL_EVT_PARTCHG, PRL_EVT_LINKCHG, PRL_EVT_DUALP, PRL_EVT_SWAPREF, PRL_EVT_MIRLOSS, PRL_EVT_READYCHG]⟩,
  ⟨0x200d000050, 1, 0x0, 1, 0x0, 1, 0x0, fun _ _ _ => [PRL_IRQ_EIID, PRL_IRQ_HART, PRL_IRQ_LEVEL, PRL_IRQ_GUEST]⟩,
  ⟨0x200d000100, 64, 0x20, 1, 0x0, 1, 0x0, fun b _ _ => [PRL_BLK_0_EN b, PRL_BLK_0_CP b, PRL_BLK_0_OWNER b, PRL_BLK_0_LEN b]⟩,
  ⟨0x200d000108, 64, 0x20, 1, 0x0, 1, 0x0, fun b _ _ => [PRL_BLK_1_SRC b]⟩,
  ⟨0x200d000110, 64, 0x20, 1, 0x0, 1, 0x0, fun b _ _ => [PRL_BLK_2_DST b]⟩,
  ⟨0x200d000118, 64, 0x20, 1, 0x0, 1, 0x0, fun b _ _ => [PRL_BLK_3_CSEQ b, PRL_BLK_3_HALF b, PRL_BLK_3_BUSY b, PRL_BLK_3_ERR b]⟩,
  ⟨0x200d010000, 2, 0x1000, 1, 0x0, 1, 0x0, fun n _ _ => [PRL_LSTAT_LINK n, PRL_LSTAT_MASTER n]⟩,
  ⟨0x200d010008, 2, 0x1000, 1, 0x0, 1, 0x0, fun n _ _ => [PRL_LCNT_TXFRM n, PRL_LCNT_FCSERR n, PRL_LCNT_LOSTFRM n]⟩,
  ⟨0x200d0fe000, 8, 0x8, 1, 0x0, 1, 0x0, fun g _ _ => [GRPMASK 0x200d000000 g]⟩]

/-- The rows of the LOG block. -/
def rowsLOG : List RegRow := [
  ⟨0x200e000000, 1, 0x0, 1, 0x0, 1, 0x0, fun _ _ _ => [LOG_CTRL_EN, LOG_CTRL_FLUSH, LOG_CTRL_FLUSHMS]⟩,
  ⟨0x200e000008, 1, 0x0, 1, 0x0, 1, 0x0, fun _ _ _ => [LOG_STAT_FLUSHING, LOG_STAT_GRANT, LOG_STAT_PEND, LOG_STAT_UNFL]⟩,
  ⟨0x200e000010, 1, 0x0, 1, 0x0, 1, 0x0, fun _ _ _ => [LOG_SEQ_OLDEST, LOG_SEQ_NEXT]⟩,
  ⟨0x200e000018, 1, 0x0, 1, 0x0, 1, 0x0, fun _ _ _ => [LOG_FLSEQ_FIRSTUNF, LOG_FLSEQ_FLUSHES]⟩,
  ⟨0x200e000020, 1, 0x0, 1, 0x0, 1, 0x0, fun _ _ _ => [LOG_CNT0_RECORDS, LOG_CNT0_REPEATS]⟩,
  ⟨0x200e000028, 1, 0x0, 1, 0x0, 1, 0x0, fun _ _ _ => [LOG_CNT1_LOST, LOG_CNT1_BUFFULL, LOG_CNT1_ITEMERR, LOG_CNT1_DENIED]⟩,
  ⟨0x200e000030, 1, 0x0, 1, 0x0, 1, 0x0, fun _ _ _ => [LOG_SWTRIG_TRIG, LOG_SWTRIG_ARG]⟩,
  ⟨0x200e000038, 1, 0x0, 1, 0x0, 1, 0x0, fun _ _ _ => [LOG_EVT_FLUSHED, LOG_EVT_LOST, LOG_EVT_BUFFULL, LOG_EVT_WRAP, LOG_EVT_CLEARED, LOG_EVT_ITEMERR]⟩,
  ⟨0x200e000040, 1, 0x0, 1, 0x0, 1, 0x0, fun _ _ _ => [LOG_IRQ_EIID, LOG_IRQ_HART, LOG_IRQ_LEVEL, LOG_IRQ_GUEST]⟩,
  ⟨0x200e000048, 1, 0x0, 1, 0x0, 1, 0x0, fun _ _ _ => [LOG_CURSOR_SEQ, LOG_CURSOR_NEXT, LOG_CURSOR_VALID, LOG_CURSOR_CODE]⟩,
  ⟨0x200e000050, 1, 0x0, 1, 0x0, 1, 0x0, fun _ _ _ => [LOG_GRANT_REMAIN, LOG_GRANT_DEPOT]⟩,
  ⟨0x200e000058, 1, 0x0, 1, 0x0, 1, 0x0, fun _ _ _ => [LOG_TSEL_TRIG]⟩,
  ⟨0x3000100100, 256, 0x1000, 1, 0x0, 1, 0x0, fun g _ _ => [LOG_TCTL_KIND g, LOG_TCTL_MINCLS g, LOG_TCTL_PARAM g]⟩,
  ⟨0x3000100108, 256, 0x1000, 1, 0x0, 1, 0x0, fun g _ _ => [LOG_TMATCH_MATCH g]⟩,
  ⟨0x3000100110, 256, 0x1000, 1, 0x0, 1, 0x0, fun g _ _ => [LOG_TMASK_MASK g]⟩,
  ⟨0x3000100118, 256, 0x1000, 1, 0x0, 1, 0x0, fun g _ _ => [LOG_TSTAT_ACTIVE g, LOG_TSTAT_BUSYWR g, LOG_TSTAT_ERR g, LOG_TSTAT_LEN g, LOG_TSTAT_FIRED g]⟩,
  ⟨0x3000100200, 256, 0x1000, 32, 0x8, 1, 0x0, fun g i _ => [LOG_TITEM_IKIND g i, LOG_TITEM_ADDR g i, LOG_TITEM_MLEN g i]⟩,
  ⟨0x200e001000, 512, 0x8, 1, 0x0, 1, 0x0, fun i _ _ => [LOG_WIN_DATA i]⟩]

/-- The rows of the UPD block. -/
def rowsUPD : List RegRow := [
  ⟨0x200f000000, 1, 0x0, 1, 0x0, 1, 0x0, fun _ _ _ => [UPD_CTRL_MAXTRY]⟩,
  ⟨0x200f000008, 1, 0x0, 1, 0x0, 1, 0x0, fun _ _ _ => [UPD_STAT_PILOT, UPD_STAT_BUSY, UPD_STAT_BGPASSES]⟩,
  ⟨0x200f000010, 1, 0x0, 1, 0x0, 1, 0x0, fun _ _ _ => [UPD_MAPAREA_BASE]⟩,
  ⟨0x200f000018, 1, 0x0, 1, 0x0, 1, 0x0, fun _ _ _ => [UPD_EVT_STAGED, UPD_EVT_ACTIVE, UPD_EVT_DEFER, UPD_EVT_FALLBACK, UPD_EVT_FAIL, UPD_EVT_HOREQ]⟩,
  ⟨0x200f000020, 1, 0x0, 1, 0x0, 1, 0x0, fun _ _ _ => [UPD_IRQ_EIID, UPD_IRQ_HART, UPD_IRQ_LEVEL, UPD_IRQ_GUEST]⟩,
  ⟨0x200f000100, 4, 0x10, 1, 0x0, 1, 0x0, fun t _ _ => [UPD_HO_0_ADDR t]⟩,
  ⟨0x200f000108, 4, 0x10, 1, 0x0, 1, 0x0, fun t _ _ => [UPD_HO_1_EIID t, UPD_HO_1_HOLEAD t, UPD_HO_1_READY t, UPD_HO_1_HOREQ t, UPD_HO_1_LEN t]⟩,
  ⟨0x200f001000, 25, 0x20, 1, 0x0, 1, 0x0, fun u _ _ => [UPD_UNIT_0_ACTVER u, UPD_UNIT_0_MINVER u]⟩,
  ⟨0x200f001008, 25, 0x20, 1, 0x0, 1, 0x0, fun u _ _ => [UPD_UNIT_1_OTHVER u, UPD_UNIT_1_ACTSLOT u, UPD_UNIT_1_CONF u, UPD_UNIT_1_OTHSTATE u, UPD_UNIT_1_PEND u, UPD_UNIT_1_TRIES u, UPD_UNIT_1_LASTERR u, UPD_UNIT_1_FAILED u]⟩,
  ⟨0x200f001010, 25, 0x20, 1, 0x0, 1, 0x0, fun u _ _ => [UPD_UNIT_2_WPLO u]⟩,
  ⟨0x200f001018, 25, 0x20, 1, 0x0, 1, 0x0, fun u _ _ => [UPD_UNIT_3_WPHI u]⟩]

/-- The queue register sets of block b (R46). -/
def rowsQueue (b : Nat) : List RegRow := [
  ⟨0x2000000000 + b * 0x1000000 + 0x8000, 256, 0x80, 1, 0, 1, 0, fun Q _ _ => [QCTRL_EN (b * 256 + Q), QCTRL_OWNCLS (b * 256 + Q), QCTRL_OWNID (b * 256 + Q), QCTRL_BUMP (b * 256 + Q)]⟩,
  ⟨0x2000000000 + b * 0x1000000 + 0x8008, 256, 0x80, 1, 0, 1, 0, fun Q _ _ => [QBASE_BASE (b * 256 + Q)]⟩,
  ⟨0x2000000000 + b * 0x1000000 + 0x8010, 256, 0x80, 1, 0, 1, 0, fun Q _ _ => [QSIZE_ENTRIES (b * 256 + Q)]⟩,
  ⟨0x2000000000 + b * 0x1000000 + 0x8018, 256, 0x80, 1, 0, 1, 0, fun Q _ _ => [QPROD_PROD (b * 256 + Q), QPROD_EPOCH (b * 256 + Q)]⟩,
  ⟨0x2000000000 + b * 0x1000000 + 0x8020, 256, 0x80, 1, 0, 1, 0, fun Q _ _ => [QCONS_CONS (b * 256 + Q)]⟩,
  ⟨0x2000000000 + b * 0x1000000 + 0x8028, 256, 0x80, 1, 0, 1, 0, fun Q _ _ => [QEPOCH_EPOCH (b * 256 + Q)]⟩,
  ⟨0x2000000000 + b * 0x1000000 + 0x8030, 256, 0x80, 1, 0, 1, 0, fun Q _ _ => [QSTAT_IDLE (b * 256 + Q), QSTAT_PAUSED (b * 256 + Q), QSTAT_NOTOWN (b * 256 + Q), QSTAT_DBERR (b * 256 + Q), QSTAT_STALE (b * 256 + Q), QSTAT_CODEERR (b * 256 + Q)]⟩,
  ⟨0x2000000000 + b * 0x1000000 + 0x8038, 256, 0x80, 1, 0, 1, 0, fun Q _ _ => [QIRQ_EIID (b * 256 + Q), QIRQ_HART (b * 256 + Q), QIRQ_LEVEL (b * 256 + Q), QIRQ_GUEST (b * 256 + Q)]⟩,
  ⟨0x2000000000 + b * 0x1000000 + 0x8040, 256, 0x80, 1, 0, 1, 0, fun Q _ _ => [QSTALE_COUNT (b * 256 + Q)]⟩,
  ⟨0x2000000000 + b * 0x1000000 + 0x8048, 256, 0x80, 1, 0, 1, 0, fun Q _ _ => [QDBERR_COUNT (b * 256 + Q)]⟩]

/-- The rows of block b. -/
def blockRows (b : Nat) : List RegRow :=
  if b = 0 then rowsSYS else if b = 1 then rowsVTC else if b = 2 then rowsSVC else if b = 3 then rowsMEM else if b = 4 then rowsMER else if b = 5 then rowsRHL else if b = 6 then rowsCHT else if b = 7 then rowsBKB else if b = 8 then rowsMDB else if b = 9 then rowsBRG else if b = 10 then rowsFIO else if b = 11 then rowsANL else if b = 12 then rowsLOD else if b = 13 then rowsPRL else if b = 14 then rowsLOG else rowsUPD

/-- The fields of a row that stand at address a, if a is the address of one of the row's registers. -/
def rowAt (a : Nat) (r : RegRow) : Option (List Fld) :=
  if a < r.base then none
  else
    let o := a - r.base
    let i := if r.n1 ≤ 1 then 0 else o / r.s1
    let o1 := o - i * r.s1
    let j := if r.n2 ≤ 1 then 0 else o1 / r.s2
    let o2 := o1 - j * r.s2
    let k := if r.n3 ≤ 1 then 0 else o2 / r.s3
    if i < r.n1 ∧ j < r.n2 ∧ k < r.n3 ∧ o2 = k * r.s3 then some (r.flds i j k) else none

/-- The fields at address a in a list of rows. -/
def rowsAt (a : Nat) : List RegRow → List Fld
  | [] => []
  | r :: rest => match rowAt a r with
    | some l => l
    | none => rowsAt a rest

/-- The fields of the 64-bit register at address a of the register space; none where no map lists it (R11). `trig` is the
trigger that `LOG_TSEL` shows in the trigger page (R452). -/
def regFields (trig a : Nat) : List Fld :=
  let b := a / 2 ^ 24 % 16
  let o := a % 2 ^ 24
  if 0x8000 ≤ o ∧ o < 0x10000 then (if listedQueue (b * 256 + (o - 0x8000) / 0x80) then rowsAt a (rowsQueue b) else [])
  else if b = 14 ∧ 0x100 ≤ o ∧ o < 0x300 then rowsAt (0x3000100000 + trig * 0x1000 + o) rowsLOG
  else rowsAt a (blockRows b)

end Sys2Proof.Machine
end

