-- ==== Sys2Proof/Machine/Flags.lean ====
section
/-! DEFINITION. Event bits with their interrupts, one operation per block, and the places of units in fault reports. -/

namespace Sys2Proof.Machine

/-- Meridian's tile with macro m (R181). -/
def merLoc (m : Nat) : Loc := ⟨0, 0x7, 0x72, m⟩

/-- The tile of vital core c (R21, R132). -/
def coreLoc (c m : Nat) : Loc := ⟨0, 0x1, c, m⟩

/-- The Sextant and L2 tile of triad t (R132). -/
def sxLoc (t m : Nat) : Loc := ⟨0, 0x1, 0x10 + t, m⟩

/-- Set a bit of `MER_EVT`. -/
def evtMer (f : Fld) (s : State) : State := setEvt (merLoc 0x00) f 0x2004000050 s

/-- The schedule and synchronisation unit with macro m (R219). -/
def rhlLoc (m : Nat) : Loc := ⟨0, 0x8, 0x73, m⟩

/-- Set a bit of `RHL_EVT`. -/
def evtRhl (f : Fld) (s : State) : State := setEvt (rhlLoc 0xFF) f 0x2005000048 s

/-- The Chart engine with macro m (R258). -/
def chtLoc (m : Nat) : Loc := ⟨0, 0x6, 0x71, m⟩

/-- Set a bit of `CHT_EVT`. -/
def evtCht (f : Fld) (s : State) : State := setEvt (chtLoc 0xFF) f 0x2006000048 s

/-- The backbone switch core with macro m (R281). -/
def bkbLoc (m : Nat) : Loc := ⟨0, 0x6, 0x57, m⟩

/-- Set a bit of `BKB_EVT`. -/
def evtBkb (f : Fld) (s : State) : State := setEvt (bkbLoc 0xFF) f 0x2007000038 s

/-- CAN channel n with macro m (R302). -/
def canLoc (n m : Nat) : Loc := ⟨0, 0x9, 0x60 + n, m⟩

/-- Set a bit of `MDB_EVT` of channel n. -/
def evtCan (n : Nat) (f : Fld) (s : State) : State := setEvt (canLoc n 0xFF) f (0x2008010050 + n * 0x1000) s

/-- The backplane bridge with macro m (R317). -/
def brgLoc (m : Nat) : Loc := ⟨0, 0xA, 0x68, m⟩

/-- Set a bit of `BRG_EVT`. -/
def evtBrg (f : Fld) (s : State) : State := setEvt (brgLoc 0xFF) f 0x2009000040 s

/-- The tile of field channel c on the FA die with macro m (R318, R319). -/
def faLoc (c m : Nat) : Loc := ⟨2, 0xB, c, m⟩

/-- The same on the FB die. -/
def fbLoc (c m : Nat) : Loc := ⟨3, 0xD, c, m⟩

/-- Set a bit of `FIO_EVT`. -/
def evtFio (f : Fld) (s : State) : State := setEvt (faLoc 0x88 0xFF) f 0x200A000068 s

/-- The L die with macro m (R378). -/
def lodLoc (m : Nat) : Loc := ⟨1, 0xD, 0x00, m⟩

/-- The L die link port. -/
def lodPort : Loc := ⟨0, 0x3, 0x78, 0xFF⟩

/-- Set a bit of `LOD_EVT`. -/
def evtLod (f : Fld) (s : State) : State := setEvt lodPort f 0x200C0000B0 s

/-- Set a bit of `ANL_EVT`. -/
def evtAnl (f : Fld) (s : State) : State := setEvt ⟨0, 0xC, 0xFF, 0xFF⟩ f 0x200B000018 s

/-- The pair link port 0, the mirror engine and role unit, with macro m (R448). -/
def prlLoc (m : Nat) : Loc := ⟨0, 0x6, 0x54, m⟩

/-- Set a bit of `PRL_EVT`. -/
def evtPrl (f : Fld) (s : State) : State := setEvt (prlLoc 0x03) f 0x200D000050 s

/-- The Logbook engine with macro m (R468). -/
def logLoc (m : Nat) : Loc := ⟨0, 0x5, 0x74, m⟩

/-- Set a bit of `LOG_EVT`. -/
def evtLog (f : Fld) (s : State) : State := setEvt (logLoc 0xFF) f 0x200E000040 s

/-- Wake and supervisor logic with macro m (R427). -/
def aonLoc (m : Nat) : Loc := ⟨0, 0x0, 0x76, m⟩

/-- Set a bit of `SYS_PWREVT`. -/
def evtPwr (f : Fld) (s : State) : State := setEvt (aonLoc 0x00) f 0x2000000340 s

/-- Set a bit of `UPD_EVT`. -/
def evtUpd (f : Fld) (s : State) : State := setEvt (blkLoc 15) f 0x200F000020 s

/-- A bit of `SYS_FEVT`; the collector has no event interrupt of its own. -/
def evtFault (f : Fld) (s : State) : State := setF s f 1

/-- The safety-output requests of triad t are forced off: its state is not TMR, RESYNC, SUBST or DUPLEX (R125, R127). -/
def forcedOff (s : State) (t : Nat) : Bool :=
  let st := getF s (VTC_TSTAT_STATE t)
  !(2 ≤ st && st ≤ 5)

/-- The triad that owns safety output n, where one does (R332). -/
def soOwner (s : State) (n : Nat) : Option Nat :=
  let v := bits (getF s FIO_SOOWN_OWN) (3 * n) 3
  if 4 ≤ v then some (v % 4) else none

/-- FORCED clears at the owning triad's START (R334). -/
def clearForced (t : Nat) (s : State) : State :=
  forN (fun n x => if soOwner x n = some t then setFBit x FIO_SOSTAT_FORCED n false else x) 0 8 s

/-- The module behaves as STANDBY: role STANDBY, or LISTEN (R433). -/
def isStandby (s : State) : Bool := getF s PRL_STAT_ROLE == 3 || getF s PRL_STAT_ROLE == 1

/-- The module behaves as PRIMARY (R433). -/
def isPrimary (s : State) : Bool := !isStandby s

/-- The own node sends nothing: the module behaves as STANDBY, or is in the safe state (R426, R442). -/
def ownSilent (s : State) : Bool := isStandby s || onF s SYS_MSTAT_MSAFE

end Sys2Proof.Machine
end

