-- ==== Sys2Proof/Machine/Display.lean ====
section
/-! DEFINITION. What the Binnacle display shows (R395, R426, R507, R531–R533). -/

namespace Sys2Proof.Machine

/-- Four characters, the leftmost first (R533). -/
def chars (a b c d : Nat) : Nat := a + b * 2 ^ 8 + c * 2 ^ 16 + d * 2 ^ 24

/-- A decimal or hexadecimal digit. -/
def digit (n : Nat) : Nat := if n % 16 < 10 then 0x30 + n % 16 else 0x37 + n % 16

/-- A sign and three digits (R395). -/
def signed3 (z : Int) : Nat :=
  let n := z.natAbs
  chars (if z < 0 then 0x2D else 0x2B) (digit (n / 100 % 10)) (digit (n / 10 % 10)) (digit (n % 10))

/-- The display of an open trim (R395). -/
def trimText (s : State) : Nat :=
  let b := s.binn
  if b.step = 1 then
    if b.sel = 0 then chars 0x54 0x52 0x49 0x4D
    else if b.sel = 9 then chars 0x45 0x58 0x49 0x54
    else if onF s (ANL_CHCFG_EN (b.sel - 1)) then chars 0x43 0x48 0x20 (digit (b.sel - 1))
    else chars 0x4F 0x46 0x46 0x20
  else if b.step = 2 then (if b.shown then signed3 b.zero else chars 0x5A 0x45 0x52 0x4F)
  else if b.shown then signed3 b.span else chars 0x53 0x50 0x41 0x4E

/-- An information page (R532). -/
def pageText (s : State) : Nat :=
  if s.binn.page = 1 then chars 0x48 0x57 (digit (getF s SYS_IDENT_HWREV / 16)) (digit (getF s SYS_IDENT_HWREV))
  else if s.binn.page = 2 then
    let r := getF s PRL_STAT_ROLE
    if r = 2 then chars 0x50 0x52 0x49 0x20 else if r = 3 then chars 0x53 0x54 0x42 0x59 else if r = 1 then chars 0x4C 0x53 0x54 0x4E else chars 0x4F 0x46 0x46 0x20
  else
    let t := getF s MER_STAT_STATE
    if t = 0 then chars 0x46 0x52 0x45 0x45 else if t = 1 then chars 0x53 0x59 0x4E 0x43 else if t = 2 then chars 0x44 0x52 0x20 0x20 else chars 0x4C 0x4F 0x53 0x54

/-- The display is dark: in standby and from the start of the power-fail or shutdown sequence (R531). -/
def dark (s : State) : Bool := s.pwr.phase == 0 || s.pwr.seq != 0

/-- The first row of R531 that applies. Before power-good no row applies and nothing is shown (notes/assumptions/52.md). -/
def displayed (s : State) : Nat :=
  let st := getF s SYS_BOOT_STAGE
  if dark s ∨ s.pwr.phase = 1 then 0
  else if onF s SYS_MSTAT_MSAFE then chars 0x4D 0x4F 0x44 (digit (getF s SYS_MSTAT_CAUSE))
  else if onF s UPD_STAT_PILOT then s.upd.disp.getD (chars 0x50 0x49 0x4C 0x54)
  else if s.binn.step ≠ 0 then trimText s
  else if freeCnt s < s.binn.msgEnd then s.binn.msg
  else if s.binn.page ≠ 0 then pageText s
  else if 1 ≤ st ∧ st ≤ 7 ∧ !onF s SYS_PWRSTAT_VREADY then chars 0x42 0x54 0x20 (digit st)
  else if getF s VTC_STAT_HALT ≠ 0 then chars 0x48 0x41 0x4C 0x54
  else if getF s LOD_STAT_LOCK ≠ 0 then chars 0x4C 0x4B 0x4F 0x54
  else chars 0x52 0x55 0x4E 0x20

end Sys2Proof.Machine
end

