-- ==== Sys2Proof/Machine/Operands.lean ====
section
/-! DEFINITION. How a register access reaches its fields: sizes and alignment, halves of a register, access codes, vital-only fields,
alias pages, tag areas and the islands behind the blocks (R10–R16, R27–R37, R60). -/

namespace Sys2Proof.Machine

/-- The clock island of a register block (R20, R21). -/
def blkIsland (b : Nat) : Nat :=
  if b = 0 then 0 else if b = 1 then 1 else if b = 2 then 2 else if b = 3 then 4 else if b = 4 then 7 else if b = 5 then 8
  else if b = 6 then 6 else if b = 7 then 6 else if b = 8 then 9 else if b = 9 then 0xA else if b = 10 then 0xB
  else if b = 11 then 0xC else if b = 12 then 3 else if b = 13 then 6 else 5

/-- What reaches an island from outside the crossings: nothing comes of it while its clock does not run (R399, R401). -/
def onIsland (i : Nat) (s : State) (f : State → Host.Outcome State Fault Refusal) : Host.Outcome State Fault Refusal := if clocked s i then f s else .next s

/-- What the engines of an island do: a quiesced island takes up nothing that needs a new transfer (R414). -/
def onEngine (i : Nat) (s : State) (f : State → Host.Outcome State Fault Refusal) : Host.Outcome State Fault Refusal :=
  onIsland i s fun s => if onF s (SYS_ISL_QUIESCE i) then .next s else f s

/-- The fault that a refused access of a kind gives a hart (R65, R76, R83). -/
def faultOf : AccKind → AccFault
  | .load => .load
  | .lr => .load
  | .fetch => .instr
  | .walk o => if o.val = 0 then .load else if o.val = 1 then .store else .instr
  | _ => .store

/-- The answer that a refused read or write of a kind gives a requester: an access fault of its type, or status ACCESS (R29, R65, R76, R81). -/
def refusal (r : Req) (k : AccKind) : AccFault :=
  match r with
  | .engine _ _ => .statusAccess
  | _ => faultOf k

/-- A command that is a register write of a requester: an access fault where the island does not answer; a stopped island wakes (R400, R401, R414). -/
def reached (i : Nat) (r : Req) (s : State) (f : State → Host.Outcome State Fault Refusal) : Host.Outcome State Fault Refusal :=
  if islandAnswers s i then f (wakeIsland s i) else .next (deny s r (refusal r .store))

/-- The address lies in I/O-class space (R64, R87). -/
def inIo (a : Nat) : Bool :=
  (0x2000000000 ≤ a && a < 0x2011000000) || (0x2080000000 ≤ a && a < 0x2083000000) || (0x4000000000 ≤ a && a < 0x5000000000)

/-- A register access of this size at this address is a naturally aligned 32- or 64-bit access (R29) in a range of I/O space (R65). -/
def sizeOk (a size : Nat) : Bool := (size == 4 || size == 8) && a % size == 0 && inIo a

/-- The lowest register bit that an access reaches. -/
def accLo (a : Nat) : Nat := if a % 8 = 4 then 32 else 0

/-- The field lies wholly within the bits an access reaches (R29). -/
def covered (a size : Nat) (f : Fld) : Bool := accLo a ≤ f.lo && f.lo + f.w ≤ accLo a + 8 * size

/-- The field spans bits 31 and 32 (R29). -/
def spans (f : Fld) : Bool := f.lo < 32 && 32 < f.lo + f.w

/-- An access of 32 bits meets a field that spans bits 31 and 32 (R29). DESIGN CHOICE: a reserved range that spans them is no field in this sense and raises no NOTE
(notes/assumptions/66.md). -/
def spanned (size : Nat) (f : Fld) : Bool := size == 4 && spans f

/-- The written value placed at its bits of the 64-bit register. -/
def placed (a size : Nat) (val : Word) : Nat := (val.toNat % 2 ^ (8 * size)) * 2 ^ accLo a

/-- The 64-bit register an access belongs to. -/
def regOf (a : Nat) : Nat := a - a % 8

/-- The word 2 of a flow context (R279). -/
def fc2 (s : State) (f : Nat) : Nat :=
  [BKB_FC_2_B0 f, BKB_FC_2_B1 f, BKB_FC_2_B4 f, BKB_FC_2_B16 f, BKB_FC_2_B27 f, BKB_FC_2_B31 f, BKB_FC_2_SSRC f].foldl (fun w p => w + getF s p * 2 ^ p.lo) 0

/-- A piece of word 2 of a flow context lies in a field of its KIND: TXOFF of TX, SEED and SSRC of SEALED, SRC, TARGET, CHAN and ENTRY of the tunnel kinds; the other
bits are reserved (R10, R279). -/
def fc2Used (kind lo : Nat) : Bool :=
  if kind = 1 then lo ≤ 16 else if kind = 2 then true else if kind = 3 then lo == 0 || lo == 16 || lo == 27
  else kind == 4 && (lo ≤ 1 || lo == 16 || lo == 27)

/-- The fields of the register an access belongs to. -/
def fieldsAt (s : State) (a : Nat) : List Fld :=
  let l := regFields (getF s LOG_TSEL_TRIG) (regOf a)
  if 0x2007004000 ≤ a ∧ a < 0x2007006000 ∧ regOf a % 0x20 = 0x10 then l.filter fun p => fc2Used (getF s (BKB_FC_0_KIND ((a - 0x2007004000) / 0x20))) p.lo
  else l

/-- The enclosing block, queue or channel of an RWS field is enabled, or its queue drains (R16, R47, UB-01). -/
def rwsLocked (s : State) (f : Fld) : Bool :=
  let b := blkOf f.addr
  let o := f.addr % 2 ^ 24
  let page := (o - 0x10000) / 0x1000 % 0x40
  if 0x8000 ≤ o ∧ o < 0x10000 then
    let Q := b * 256 + (o - 0x8000) / 0x80
    onF s (QCTRL_EN Q) || !onF s (QSTAT_IDLE Q)
  else if b = 2 then onF s (SVC_PCTRL_EN ((o - 0x4000) / 0x40))
  else if b = 5 then onF s RHL_CTRL_EN
  else if b = 6 then onF s CHT_CTRL_EN
  else if b = 7 then
    if 0x4000 ≤ o ∧ o < 0x6000 then onF s (BKB_FC_0_EN ((o - 0x4000) / 0x20))
    else if o < 0x10000 then onF s BKB_CTRL_EN else onF s (BKB_PCTRL_EN page)
  else if b = 8 then onF s (MDB_CCTRL_EN page)
  else if b = 9 then
    if o < 0x100 then onF s BRG_CTRL_EN
    else if o < 0x400 then onF s (BRG_OW_0_EN ((o - 0x100) / 0x20)) else onF s (BRG_IW_0_EN ((o - 0x400) / 0x20))
  else if b = 10 then onF s FIO_CTRL_EN && (o < 0x10000 || onF s ⟨f.addr - f.addr % 0x1000, 0, 1, .rw, 0⟩)
  else if b = 11 then onF s (ANL_CHCFG_EN page)
  else if b = 13 then if o < 0x100 then onF s PRL_CTRL_EN else onF s (PRL_BLK_0_EN ((o - 0x100) / 0x20))
  else false

/-- Whether a field is vital-only (R30, R114, R130, R332, R333, R370, R377, R447, R509). -/
def vitalOnly (s : State) (f : Fld) : Bool :=
  let b := blkOf f.addr
  let o := f.addr % 2 ^ 24
  if b = 1 then
    (0x1000 ≤ o && o < 0x1400 && ((o % 0x100 == 0 && 2 ≤ f.lo) || o % 0x100 == 0x20 || o % 0x100 == 0x28))
      || (0x2000 ≤ o && o < 0x2080) || (0x810000 ≤ o && o < 0x814000 && o % 0x1000 == 0)
  else if b = 10 then o == 0x48 || o == 0x50
  else if b = 12 then o == 0x10 || o == 0x18 || o == 0x20 || o == 0x90 || o == 0x98 || o == 0xA0 || (0x1000 ≤ o && o < 0x1400)
  else if b = 13 then 0x100 ≤ o && o < 0x900 && o % 0x20 < 0x18 && getF s (PRL_BLK_0_OWNER ((o - 0x100) / 0x20)) ≤ 3
  else if b = 15 then 0x100 ≤ o && o < 0x140
  else false

/-- The requester may write a vital-only field: voted, and from the one triad the chapter names where it names one; the update engine
may write the Lodestone shadow buffer and commit registers (R30, R130, R370, R447, R509). -/
def vitalMay (s : State) (r : Req) (f : Fld) : Bool :=
  let b := blkOf f.addr
  let o := f.addr % 2 ^ 24
  match r with
  | .triad t =>
    if b = 1 then
      if o < 0x2000 then t.val == (o - 0x1000) / 0x100 else if o < 0x810000 then true else t.val == (o - 0x810000) / 0x1000
    else if b = 13 then t.val == getF s (PRL_BLK_0_OWNER ((o - 0x100) / 0x20))
    else if b = 15 then t.val == (o - 0x100) / 0x10
    else true
  | .engine blk _ => blk.val == 15 && b == 12 && o < 0x2000 && !(o == 0x90 || o == 0x98 || o == 0xA0)
  | _ => false

/-- What writing x to a field does under its access code (R16, R31, R33); a W1S bit acts in its own command. A change of
an RWS field while its block, queue or channel is enabled, as the write finds it, is UB-01: the field takes a free value. DESIGN CHOICE: a write to an RC field is ignored
(notes/assumptions/66.md). -/
def writeFld (locked : Bool) (s : State) (f : Fld) (x : Nat) : State :=
  match f.acc with
  | .rw => setF s f x
  | .rwl => { setF s f x with pendL := (f.key, (x % 2 ^ f.w) ^^^ f.rst) :: s.pendL.filter fun p => p.1 != f.key }
  | .rws => if locked && getF s f != x % 2 ^ f.w then setFree s f else setF s f x
  | .w1c => setF s f (getF s f ^^^ (getF s f &&& x))
  | _ => s

/-- Whether writing x would change the field. -/
def wouldChange (s : State) (f : Fld) (x : Nat) : Bool :=
  match f.acc with
  | .w1c => (getF s f &&& x) != 0
  | .ro => false
  | .rc => false
  | .wo => true
  | .w1s => x % 2 ^ f.w != 0
  | _ => getF s f != x % 2 ^ f.w

/-- Apply a write to the fields of a register. Fields outside the written half are left; a field that spans bits 31 and 32 is left
and raises a NOTE; vital-only fields are left for a requester that may not write them, with a MINOR where the write would have changed one,
or where the whole register is vital-only (R29, R30). -/
def writeFields (r : Req) (a size : Nat) (val : Word) (fs : List Fld) (s : State) : State :=
  let v := placed a size val
  let b := blkOf a
  let refused (f : Fld) : Bool := vitalOnly s f && !vitalMay s r f
  let whole := fs.all fun f => vitalOnly s f
  let s1 := fs.foldl (fun s' f => if covered a size f && !refused f then writeFld (rwsLocked s f) s' f (bits v f.lo f.w) else s') s
  let s2 := if fs.any (spanned size) then raise NOTE (blkLoc b) s1 else s1
  if fs.any (fun f => refused f && (whole || (covered a size f && wouldChange s f (bits v f.lo f.w))))
  then raiseReq MINOR (blkLoc b) (reqCode r) s2 else s2

/-- The 64-bit word that a write amounts to: written fields from the value, the others as they stand; W1C and W1S bits outside the written half
are 0. -/
def effective (s : State) (a size : Nat) (val : Word) (fs : List Fld) : Nat :=
  fs.foldl (fun w f =>
    if covered a size f then putBits w f.lo f.w (bits (placed a size val) f.lo f.w)
    else match f.acc with
      | .w1c => w
      | .w1s => w
      | .wo => w
      | _ => putBits w f.lo f.w (getF s f)) 0

/-- The value a field shows to a read: WO fields and W1S bits that act at once read 0 (R16). -/
def shows (s : State) (f : Fld) : Nat := if f.acc = .wo then 0 else getF s f

/-- The 64-bit contents of a register. -/
def regValue (s : State) (fs : List Fld) : Nat := fs.foldl (fun w f => putBits w f.lo f.w (shows s f)) 0

/-- The code under which Meridian keeps a reader's latch of `MER_NOW1`: harts 0–3 and 16–31, and the debugger (R175). -/
def readerCode : Req → Option Nat
  | .triad t => some t.val
  | .hart h _ => some (16 + h.val)
  | .debugger => some 0x61
  | _ => none

/-- `MER_NOW0` at this instant: NS, STATE and the low seconds (R175, R181). -/
def now0 (s : State) : Nat := ts96 s % 2 ^ 64

/-- `MER_NOW1` as it is latched with a read of NOW0: seconds [47:32], PCC and fraction (R175). -/
def now1 (s : State) : Nat :=
  ts96 s / 2 ^ 64 % 2 ^ 16 + pccOut s * 2 ^ 16 + s.mer.t % nsU / 2 ^ 16 * 2 ^ 32

/-- The cycle timer's offset in ns (R177). -/
def cycOffset (s : State) : Nat := ((s.mer.t + timeMod - s.mer.cycBase) % timeMod) / nsU

/-- `LOG_CURSOR` and `LOG_WIN`, which harts reach only while a grant is open (R464). -/
def logGuarded (a : Nat) : Bool := regOf a == 0x200E000048 || (decide (0x200E001000 ≤ a) && decide (a < 0x200E002000))

/-- Hart reading is open (R464). -/
def grantOpen (s : State) : Bool := decide (freeCnt s < s.logb.grantEnd)

/-- Seconds left of a grant (R464, R467). -/
def grantLeft (s : State) : Nat := (s.logb.grantEnd - freeCnt s + 999999999) / 1000000000

/-- An access to the read windows outside a grant (R464, R468). -/
def deniedLog (r : Req) (k : AccKind) (s : State) : State := raiseReq MINOR (logLoc 0x04) (reqCode r) (incF (deny s r (refusal r k)) LOG_CNT1_DENIED)

/-- The requester may reach the cursor and the window now. -/
def mayCursor (s : State) (r : Req) : Bool := (hartOf r).isSome && grantOpen s

/-- The whole 64-bit value that a register returns to a reader; the time, the cycle offset, the marks that wait, the display and the seconds left of a grant are computed when they are
read (R175, R177, R439, R467, R533). -/
def readValue (s : State) (r : Req) (a : Nat) : Nat :=
  let g := regOf a
  if g = 0x2004000010 then now0 s
  else if g = 0x2004000018 then match readerCode r with
    | some c => kget 0 s.mer.latches c
    | none => 0
  else if g = 0x2004000060 then putBits (regValue s (fieldsAt s a)) 0 27 (cycOffset s)
  else if g = 0x200D000020 then putBits (regValue s (fieldsAt s a)) 32 19 s.chart.marks.length
  else if g = 0x2000000508 then putBit (putBits (regValue s (fieldsAt s a)) 0 32 (displayed s)) 34 (dark s)
  else if g = 0x200E000050 then putBits (regValue s (fieldsAt s a)) 0 17 (grantLeft s)
  else regValue s (fieldsAt s a)

/-- A read clears the RC fields that lie wholly within the bits read (R16, R29, R34). -/
def clearRC (a size : Nat) (fs : List Fld) (s : State) : State :=
  fs.foldl (fun s' f => if f.acc == .rc && covered a size f then setF s' f 0 else s') s

/-- A 32-bit read of a register with an RC field that spans bits 31 and 32 raises a NOTE; the field is neither returned whole nor
cleared (R29). -/
def rcSpanned (size : Nat) (fs : List Fld) : Bool := fs.any fun f => f.acc == .rc && spanned size f

/-! ### Tag areas (R60, R61) -/

/-- The units with a tag area that the chapters list, beside the listed queues (R60, R133, R181, R219, R258, R281, R302, R317, R319, R377,
R395, R427, R448, R468, R509). -/
def listedUnit (b u : Nat) : Bool :=
  (u < 256 && listedQueue (b * 256 + u))
  || (b == 0 && u == 256) || (b == 1 && 256 ≤ u && u < 278) || (b == 4 && u == 256) || (b == 5 && 256 ≤ u && u < 275)
  || (b == 6 && u == 256) || (b == 7 && ((256 ≤ u && u < 261) || (264 ≤ u && u < 520))) || (b == 8 && 256 ≤ u && u < 262)
  || (b == 9 && u == 256) || (b == 10 && ((256 ≤ u && u < 374) || (376 ≤ u && u < 385))) || (b == 11 && 256 ≤ u && u < 264)
  || (b == 12 && u == 256) || (b == 13 && 256 ≤ u && u < 259) || (b == 14 && u == 256) || (b == 15 && 256 ≤ u && u < 281)

/-- The address lies in a tag area that exists: a listed queue's or unit's 64 bytes, or the module's 4 KiB (R28, R60). -/
def inTagArea (a : Nat) : Bool :=
  let b := blkOf a
  let o := a % 2 ^ 24
  (0xE00000 ≤ o && o < 0xE40000 && listedUnit b ((o - 0xE00000) / 0x40)) || (b == 0 && 0xF00000 ≤ o && o < 0xF01000)

/-- Bytes of a tag area. -/
def tagRead (s : State) (a n : Nat) : Nat := leNat ((List.range n).map fun i => kget 0 s.tags (a + i))

/-- Store bytes into a tag area (R61). -/
def tagStore (s : State) (a size : Nat) (val : Word) : State := { s with tags := putBytes s.tags a (toLE size val.toNat) }

/-! ### Channel families and aliases (R35–R37) -/

/-- A channel family: block, family base and number of channels (R131, R218, R280, R299, R318, R397, R448). -/
structure Family where
  blk : Nat
  base : Nat
  n : Nat

/-- The channel families of the module. -/
def families : List Family :=
  [⟨1, 0x2001800000, 4⟩, ⟨5, 0x2005000000, 18⟩, ⟨7, 0x2007000000, 4⟩, ⟨8, 0x2008000000, 6⟩, ⟨10, 0x200A000000, 48⟩,
   ⟨10, 0x200A100000, 24⟩, ⟨10, 0x200A200000, 16⟩, ⟨10, 0x200A300000, 8⟩, ⟨10, 0x200A400000, 8⟩, ⟨10, 0x200A500000, 14⟩,
   ⟨11, 0x200B000000, 8⟩, ⟨13, 0x200D000000, 2⟩]

/-- The channels an alias page reaches, ascending, and the offset within the page; none where the address is in no alias page (R35). -/
def aliasTargets (s : State) (a : Nat) : Option (List Nat) :=
  match families.find? fun f => f.base + 0xF0000 ≤ a && a < f.base + 0x100000 && (a < f.base + 0xF8000 || f.base + 0xFF000 ≤ a) with
  | none => none
  | some f =>
    let o := a - f.base
    let chans := if 0xFF000 ≤ o then List.range f.n else bitsOf (getF s (GRPMASK f.base ((o - 0xF0000) / 0x1000))) f.n
    some (chans.map fun n => f.base + 0x10000 + n * 0x1000 + o % 0x1000)

end Sys2Proof.Machine
end

