-- ==== Sys2Proof/Machine/Rings.lean ====
section
/-! DEFINITION. Descriptor rings, doorbells and queues (R38–R52), and their commands. -/

namespace Sys2Proof.Machine

/-- The global number of a queue (R45). -/
def gq (q : QRef) : Nat := q.blk.val * 256 + q.num.val

/-- Outstanding entries: (PROD − CONS) mod 65,536 (R49). -/
def outstanding (s : State) (Q : Nat) : Nat :=
  (getF s (QPROD_PROD Q) + 65536 - getF s (QCONS_CONS Q)) % 65536

/-- The address of ring entry i: base + 32 × (i mod size) (R38, R49). -/
def entryAddr (s : State) (Q i : Nat) : Nat := getF s (QBASE_BASE Q) + 32 * (i % getF s (QSIZE_ENTRIES Q))

/-- The operations of a queue that are taken and not written back, in ring order. -/
def opsOf (s : State) (Q : Nat) : List QOp := s.qops.filter fun o => o.q == Q

/-- The number of entries those operations cover. -/
def takenCount (s : State) (Q : Nat) : Nat := ((opsOf s Q).map (·.n)).foldl (· + ·) 0

/-- The index of the next entry to take. -/
def nextTake (s : State) (Q : Nat) : Nat := (getF s (QCONS_CONS Q) + takenCount s Q) % 65536

/-- The entries not taken yet. -/
def untaken (s : State) (Q : Nat) : Nat := outstanding s Q - takenCount s Q

/-- The indexes of the outstanding entries of a queue (R49). -/
def outIdx (s : State) (Q : Nat) : List Nat := (List.range (outstanding s Q)).map fun k => (getF s (QCONS_CONS Q) + k) % 65536

/-- Two spans of addresses share a byte. -/
def meets (a n b m : Nat) : Bool := decide (a < b + m) && decide (b < a + n)

/-- n free bytes of this step. -/
def freeSpan (s : State) (n : Nat) : List Byte := (List.range n).map fun i => Config.freeByte (16 + s.nfree) i

/-- The descriptor at index i, where its codeword is readable (R51). -/
def descriptor (s : State) (Q i : Nat) : Option (List Byte) := readCw s (cwOf (entryAddr s Q i))

/-- Byte k of a descriptor as a number. -/
def dByte (d : List Byte) (k : Nat) : Nat := (d.getD k 0).toNat

/-- Flags of a descriptor (R40). -/
def dOwn (d : List Byte) : Bool := bit (dByte d 1) 7
def dIrq (d : List Byte) : Bool := bit (dByte d 1) 6
def dTsReq (d : List Byte) : Bool := bit (dByte d 1) 5
def dChain (d : List Byte) : Bool := bit (dByte d 1) 4
/-- Bytes 2–3: the writer's role epoch (R40). -/
def dEpoch (d : List Byte) : Nat := leAt d 2 2
/-- A 40-bit address in the low five bytes of the 8-byte field at offset o (R40). -/
def dAddr (d : List Byte) (o : Nat) : Nat := leAt d o 5

/-- What scanning a chain from its first entry finds, in the order in which R44 and R51 decide. -/
inductive Scan where
  /-- The chain's final entry does not lie below the producer index. -/
  | waits
  /-- An entry with OWN = 0 is met. -/
  | paused
  /-- An unreadable entry ends the chain after n entries. -/
  | code (n : Nat)
  /-- A chain of n entries with their epochs. -/
  | chain (n : Nat) (epochs : List Nat)
  deriving DecidableEq, Repr

/-- Scan at most `left` untaken entries from index i; n entries precede it. DESIGN CHOICE: OWN is not asked of an entry whose codeword is unreadable
(notes/assumptions/66.md). -/
def scan (s : State) (Q : Nat) : Nat → Nat → Nat → List Nat → Scan
  | 0, _, _, _ => .waits
  | left + 1, i, n, eps =>
    match descriptor s Q i with
    | none => .code (n + 1)
    | some d =>
      if !dOwn d then .paused
      else if dChain d then scan s Q left (i + 1) (n + 1) (eps ++ [dEpoch d])
      else .chain (n + 1) (eps ++ [dEpoch d])

/-- The opcodes each queue's engine defines (R205, R255, R277, R286, R314, R498). -/
def opDefined (Q opc : Nat) : Bool :=
  let b := Q / 256
  let q := Q % 256
  (b == 5 && ((q == 0 && opc == 1) || (q == 1 && opc == 2)))
  || (b == 6 && 1 ≤ opc && opc ≤ 10)
  || (b == 7 && ((q == 0 && opc == 1) || (q == 1 && opc == 2)))
  || (b == 8 && ((q < 8 && opc == 1) || (8 ≤ q && q < 16 && opc == 2) || (16 ≤ q && opc == 3)))
  || (b == 9 && (opc == 1 || opc == 2))
  || (b == 15 && 1 ≤ opc && opc ≤ 6)

/-- Append an operation to those taken. -/
def pushOp (s : State) (o : QOp) : State := { s with qops := s.qops ++ [o] }

/-- The common status codes (R43). -/
def stOK : Nat := 0
def stCHAINED : Nat := 1
def stBADOP : Nat := 2
def stSTALE : Nat := 3
def stBADLEN : Nat := 4
def stACCESS : Nat := 5
def stCODE : Nat := 6
def stABORTED : Nat := 7
def stCHAINLEN : Nat := 8
def stTIMEOUT : Nat := 9
def stBUSY : Nat := 0xA

/-- The engine stops at an entry whose OWN is 0 (R51). -/
def pauseQueue (s : State) (Q : Nat) : State := setF (setF s (QSTAT_PAUSED Q) 1) (QSTAT_NOTOWN Q) 1

/-- A drop for a wrong epoch: the unit's counter, and a NOTE for the first in a cycle, which names a CAN channel for its queues (R56, R302). -/
def staleDrop (s : State) (Q n : Nat) : State :=
  raiseOnce (0x10000 + Q) NOTE (if Q / 256 = 8 then canLoc (Q % 8) 0x05 else blkLoc (Q / 256)) (setF (addF s (QSTALE_COUNT Q) n) (QSTAT_STALE Q) 1)

/-- An engine that takes no descriptors: the Chart engine while `CHT_CTRL.EN` is 0 (R257). -/
def engineWaits (s : State) (Q : Nat) : Bool := Q / 256 == 6 && !onF s CHT_CTRL_EN

/-- Reading the entries that a scan took records what their codewords show (R77). -/
def touchEntries (s : State) (Q i : Nat) : Scan → State
  | .code n => forN (fun k t => touchCw (0x40 + Q / 256) t (cwOf (entryAddr t Q k))) i n s
  | .chain n _ => forN (fun k t => touchCw (0x40 + Q / 256) t (cwOf (entryAddr t Q k))) i n s
  | _ => touchCw (0x40 + Q / 256) s (cwOf (entryAddr s Q i))

/-- The opcode of an entry. -/
def opcodeAt (s : State) (Q i : Nat) : Nat := match descriptor s Q i with
  | some d => dByte d 0
  | none => 0

/-- The first entry of a chain, from its entry k on, that is no NOP (R41, R44). -/
def afterNops (s : State) (Q i n k : Nat) : Option Nat := (List.range n).find? fun j => decide (k ≤ j) && opcodeAt s Q (i + j) != 0

/-- A queue whose engine carries the entries of a chain out in turn, each as the operation it would be alone; the Chart engine and the transmit FIFO of a CAN channel take a chain whole
(R44, R255, R289). DESIGN CHOICE: the spec says only that a chain is one operation (notes/assumptions/71.md). -/
def inTurn (Q : Nat) : Bool := Q / 256 != 6 && !(Q / 256 == 8 && Q % 256 < 6)

/-- The engine may reach n bytes at address a for queue Q: DRAM or persistent memory by R64 and R81, vital regions by R113, partition
grants by R93; `wr` asks for writing. -/
def inRange (a n base size : Nat) : Bool := base ≤ a && a + n ≤ base + size

/-- Vital region k is valid and its span meets n bytes at a; inside the Chart image it is void (R113). -/
def regionMeets (s : State) (k a n : Nat) : Bool :=
  let base := getF s (VTC_VRGN_BASE k) * 2 ^ 21
  let size := min (getF s (VTC_VRGN_SIZE k)) 16384 * 2 ^ 21
  onF s (VTC_VRGN_V k) && size != 0 && a < base + size && base < a + n
    && !(0x0600000000 ≤ a && a + n ≤ 0x0640000000)

/-- The vital regions that n bytes at a meet. -/
def regionsAt (s : State) (a n : Nat) : List Nat := (List.range 16).filter fun k => regionMeets s k a n

/-- The spans a grant may cover: DRAM and the application persistent area (R100). -/
def grantable (a n : Nat) : Bool := dramSpan a n || (0x1070000000 ≤ a && a + n ≤ 0x1078000000)

/-- Grant g of partition p covers n bytes at a for reading or writing (R93, R100). DESIGN CHOICE: a SIZE above 16,384 counts as 16,384 (notes/assumptions/66.md). -/
def grantCovers (s : State) (p g a n : Nat) (wr : Bool) : Bool :=
  onF s (SVC_PGNT_V p g) && getF s (SVC_PGNT_SIZE p g) != 0 && (!wr || onF s (SVC_PGNT_WR p g))
    && inRange a n (getF s (SVC_PGNT_BASE p g) * 2 ^ 21) (min (getF s (SVC_PGNT_SIZE p g)) 16384 * 2 ^ 21)

/-- The vital regions let an engine access n bytes at a on behalf of queue Q (R113). -/
def regionMay (s : State) (Q a n : Nat) (wr : Bool) : Bool :=
  let vital := regionsAt s a n
  vital.isEmpty || (getF s (QCTRL_OWNCLS Q) == 1 && (!wr || vital.all fun k => bitF s (VTC_VRGN_OWN k) (getF s (QCTRL_OWNID Q))))

/-- An engine may access n bytes at a on behalf of queue Q (R43 ACCESS, R65, R81, R93, R113). -/
def engineMay (s : State) (Q a n : Nat) (wr : Bool) : Bool :=
  grantable a n && regionMay s Q a n wr
    && (getF s (QCTRL_OWNCLS Q) != 2 || (List.range 4).any fun g => grantCovers s (getF s (QCTRL_OWNID Q)) g a n wr)

/-- The RESULT that names the entry of a chain that failed: byte 31 for the Chart engine, byte 27 for a CAN channel's frames, 0xFF there outside a chain (R255, R288). -/
def failedAt (Q k n : Nat) : Nat := if Q / 256 = 6 then k * 2 ^ 56 else if Q / 256 = 8 ∧ Q % 256 < 6 then (if n = 1 then 0xFF else k) * 2 ^ 24 else 0

/-- Take the next outstanding entry or chain of a queue (R44, R51): pause, complete it at once with CODE, CHAINLEN, STALE, BADOP or the NOP's
OK, or start its operation. -/
def takeEntry (s : State) (Q : Nat) : State :=
  if !onF s (QCTRL_EN Q) || onF s (QSTAT_PAUSED Q) || untaken s Q == 0 || engineWaits s Q then s
  else
    let i := nextTake s Q
    let sc := scan s Q (untaken s Q) i 0 []
    if !regionMay s Q (entryAddr s Q i) 32 false then
      pushOp s { q := Q, idx := i, n := 1, opc := 0, started := true, done := some { status := stACCESS, whole := true } }
    else
    let s := touchEntries s Q i sc
    match sc with
    | .waits => s
    | .paused => pauseQueue s Q
    | .code n => pushOp (setF s (QSTAT_CODEERR Q) 1)
        { q := Q, idx := i, n := n, opc := 0, started := true, done := some { status := stCODE, whole := true } }
    | .chain n eps =>
      if 16 < n then pushOp s { q := Q, idx := i, n := n, opc := 0, started := true, done := some { status := stCHAINLEN, whole := true } }
      else if eps.any (· != getF s (QEPOCH_EPOCH Q)) then
        pushOp (staleDrop s Q n) { q := Q, idx := i, n := n, opc := 0, started := true, done := some { status := stSTALE, whole := true } }
      else
        match afterNops s Q i n 0 with
        | none => pushOp s { q := Q, idx := i, n := n, opc := 0, started := true, done := some { status := stOK, res := if Q / 256 = 6 then 0xFF * 2 ^ 56 else 0 } }
        | some k =>
          let opc := opcodeAt s Q (i + k)
          if opDefined Q opc then pushOp s { q := Q, idx := i, n := n, opc := opc, started := false, epoch := getF s (QEPOCH_EPOCH Q), at' := freeCnt s, pos := k }
          else pushOp s { q := Q, idx := i, n := n, opc := opc, started := true, done := some { status := stBADOP, res := failedAt Q k n } }

/-- The first operation of a queue that has no end yet. -/
def currentOp (s : State) (Q : Nat) : Option QOp := (opsOf s Q).find? fun o => o.done.isNone

/-- The first operation of a queue without an end, if its opcode is the one named. -/
def currentOpc (s : State) (Q opc : Nat) : Option QOp :=
  match currentOp s Q with
  | some o => if o.opc = opc then some o else none
  | none => none

/-- The first operation of a queue that has not started and is not posted, if its opcode is the one named (R205, R277, R288). -/
def freshOpc (s : State) (Q opc : Nat) : Option QOp :=
  match (opsOf s Q).find? fun o => o.done.isNone && !o.started && !o.posted with
  | some o => if o.opc = opc then some o else none
  | none => none

/-- The first posted operation of a queue: a receive buffer, or a frame that waits for its slot. -/
def firstPosted (s : State) (Q : Nat) : Option QOp := (opsOf s Q).find? fun o => o.done.isNone && o.posted

/-- Replace the operation of queue Q at index idx. -/
def modOp (s : State) (Q idx : Nat) (f : QOp → QOp) : State :=
  { s with qops := s.qops.map fun o => if o.q = Q ∧ o.idx = idx then f o else o }

/-- An operation that has started: it runs to completion (R51). -/
def QOp.begun (o : QOp) : Bool := o.started || (decide (0 < o.pos) && inTurn o.q)

/-- What follows when an entry of a chain has been carried out: the next one that is no NOP, as an operation that its engine is still to carry out, or the chain's end (R41, R44). -/
def inChain (s : State) (o : QOp) (d : QDone) (o' : QOp) : QOp :=
  let last : QOp := { o' with started := true, done := some d }
  if d.status ≠ stOK ∨ d.whole = true ∨ inTurn o.q = false then last
  else match afterNops s o.q o.idx o.n (o.pos + 1) with
    | none => last
    | some k =>
      let opc := opcodeAt s o.q (o.idx + k)
      if opDefined o.q opc then { o' with opc := opc, pos := k, started := false, posted := false }
      else { last with done := some { status := stBADOP } }

/-- An operation ends: its status and result stand ready for its write-back, or the next entry of its chain follows (R42, R44). -/
def finish (s : State) (o : QOp) (d : QDone) : State := modOp s o.q o.idx (inChain s o d)

/-- What an engine does with the operation it is about to start, if there is one: the epoch is checked once more, and an operation that an increment has
overtaken completes with STALE; one that has started goes on (R51). DESIGN CHOICE: a posted receive buffer starts when its frame comes
(notes/assumptions/66.md). -/
def starting (Q : Nat) (x : Option QOp) (s : State) (k : QOp → State) : State :=
  match x with
  | none => s
  | some o =>
    if o.begun || o.epoch == getF s (QEPOCH_EPOCH Q) then k o
    else finish (staleDrop s Q o.n) o { status := stSTALE, whole := true }

/-- What an engine does with the first posted operation of a queue, those before it that an increment of the epoch has overtaken completing with STALE (R51). -/
def takePosted (Q : Nat) (s0 : State) (none' : State → State) (k : QOp → State → State) : State :=
  let old := (opsOf s0 Q).filter fun o => o.posted && !o.begun && o.done.isNone && o.epoch != getF s0 (QEPOCH_EPOCH Q)
  let s := old.foldl (fun t o => finish (staleDrop t Q o.n) o { status := stSTALE, whole := true }) s0
  match firstPosted s Q with
  | none => none' s
  | some o => k o s

/-- Another outstanding descriptor of queue Q gives a write buffer that shares a byte with the n bytes at a: UB-06. -/
def buffersMeet (s : State) (Q idx a n : Nat) : Bool :=
  (outIdx s Q).any fun i => i != idx && match descriptor s Q i with
    | some d => dByte d 0 == 2 && meets a n (dAddr d 8) (leAt d 4 4)
    | none => false

/-- A posted buffer of queue Q takes what its frame brings, unless its owner may not reach it any more (R43, R113, R114); one that overlaps another outstanding buffer takes free
bytes (R62, UB-06). -/
def fillPosted (Q req : Nat) (o : QOp) (b : List Byte) (d : QDone) (s : State) : State :=
  let i := o.idx + (if inTurn o.q then o.pos else 0)
  let a := dAddr ((descriptor s o.q i).getD (List.replicate 32 0)) 8
  if !engineMay s Q a b.length true then finish s o { status := stACCESS }
  else if buffersMeet s Q (i % 65536) a b.length then finish (useFree (writeMem s req a (freeSpan s b.length))) o d
  else finish (writeMem s req a b) o d

/-- Mark an operation as started: it runs to completion (R51). -/
def startOp (s : State) (o : QOp) : State := modOp s o.q o.idx fun o' => { o' with started := true }

/-- Post an operation: its frame or slot may now come. -/
def postOp (s : State) (o : QOp) : State := modOp s o.q o.idx fun o' => { o' with posted := true }

/-- The descriptor of an operation that its engine carries out now, as it reads it (R44). -/
def opDesc (s : State) (o : QOp) : List Byte := (descriptor s o.q (o.idx + (if inTurn o.q then o.pos else 0))).getD (List.replicate 32 0)

/-- The final descriptor of an operation. -/
def opFinal (s : State) (o : QOp) : List Byte := (descriptor s o.q (o.idx + o.n - 1)).getD (List.replicate 32 0)

/-- The written-back form of a descriptor (R42): bytes 0 and 2–7 kept, OWN cleared, then status, TS96 and result. -/
def writtenBack (d : List Byte) (status ts res : Nat) : List Byte :=
  d.take 1 ++ [BitVec.ofNat 8 (putBit (dByte d 1) 7 false)] ++ (d.drop 2).take 6
    ++ toLE 4 status ++ toLE 12 (if dTsReq d then ts else 0) ++ toLE 8 res

/-- Write one entry back and send its completion interrupt where IRQ is 1, after the write-back is visible (R42, R45). DESIGN CHOICE: of an unreadable entry the
bytes as stored give IRQ and what is kept; and an entry in a vital region that the queue may not write is not written, nor does one that it may not read signal
(R113; notes/assumptions/66.md). -/
def writeEntryBack (s : State) (Q i status ts res : Nat) : State :=
  let a := entryAddr s Q i
  let raw := (readCw s (cwOf a)).getD (memRaw s a 32)
  let s1 := if regionMay s Q a 32 true then storeCw s (0x40 + Q / 256) (cwOf a) (writtenBack raw status ts res) else s
  if dIrq raw && regionMay s Q a 32 false then sendTarget (blkLoc (Q / 256)) (qBase Q + 0x38) s1 else s1

/-- A CAN frame's descriptor has been written back: the cancels that name it end with OK and its status (R292). -/
def endCancels (Q last status : Nat) (s : State) : State :=
  if Q / 256 = 8 ∧ Q % 256 < 6 then
    let n := Q % 256
    let c := s.can.getD n {}
    let s1 := { s with qops := s.qops.map fun (o : QOp) =>
      if o.q = Q + 16 ∧ c.cancels.contains (o.idx, last) then inChain s o { status := stOK, res := status % 65536 } o else o }
    { s1 with can := modAt s1.can n fun c => { c with cancels := c.cancels.filter fun x => x.2 != last } }
  else s

/-- Write back the entries of an operation in ring order: the non-final ones with CHAINED unless the whole chain shares the
status (R44, R45). -/
def writeOpBack (s : State) (o : QOp) (d : QDone) : State :=
  let s1 := forN (fun k s => if k + 1 = o.n
      then writeEntryBack s o.q (o.idx + k) (d.status + d.detail * 2 ^ 16) d.ts d.res
      else writeEntryBack s o.q (o.idx + k) (if d.whole then d.status else stCHAINED) 0 0) 0 o.n s
  endCancels o.q ((o.idx + o.n - 1) % 65536) d.status
    (setF { s1 with qops := dropFirst (fun o' => o' == { o with done := some d }) s1.qops } (QCONS_CONS o.q) (o.idx + o.n))

/-- Write back the first taken operation of a queue, if it has ended (R45). -/
def writeback (s : State) (Q : Nat) : State :=
  match opsOf s Q with
  | o :: _ => match o.done with
    | some d =>
      let s1 := writeOpBack s o d
      if d.status = stCODE then setF s1 (QSTAT_CODEERR Q) 1 else s1
    | none => s
  | [] => s

/-- Which requesters a queue takes doorbells from: the update queues take them from their own triad, or for queue 4 from a machine-level
service hart or a voted triad (R497). -/
def doorbellFrom (r : Req) (Q : Nat) : Bool :=
  if Q / 256 = 15 then
    match r with
    | .triad t => Q % 256 == t.val || Q % 256 == 4
    | .hart _ m => m && Q % 256 == 4
    | _ => false
  else true

/-- A rejected doorbell (R50). -/
def rejectDoorbell (s : State) (Q : Nat) : State := setF (incF s (QDBERR_COUNT Q)) (QSTAT_DBERR Q) 1

/-- A doorbell write: the first row of R50 that matches. An accepted one lets a paused engine take its entry again (R51). -/
def ringDoorbell (r : Req) (Q size : Nat) (v : Nat) (s : State) : State :=
  if !listedQueue Q then s
  else if size ≠ 8 || !doorbellFrom r Q then rejectDoorbell s Q
  else if !onF s (QCTRL_EN Q) then rejectDoorbell s Q
  else if bits v 16 16 ≠ getF s (QEPOCH_EPOCH Q) then staleDrop s Q 1
  else
    let n := (bits v 0 16 + 65536 - getF s (QCONS_CONS Q)) % 65536
    if getF s (QSIZE_ENTRIES Q) ≤ n || n < outstanding s Q then rejectDoorbell s Q
    else setF (setF (setF s (QPROD_PROD Q) (bits v 0 16)) (QPROD_EPOCH Q) (bits v 16 16)) (QSTAT_PAUSED Q) 0

/-- The binding an update queue must have (R497). -/
def bindingOk (s : State) (Q : Nat) : Bool :=
  if Q / 256 = 15 then
    if Q % 256 < 4 then getF s (QCTRL_OWNCLS Q) == 1 && getF s (QCTRL_OWNID Q) == Q % 256
    else getF s (QCTRL_OWNCLS Q) == 0
  else true

/-- The rings of two queues share a byte. -/
def ringsMeet (s : State) (Q R : Nat) : Bool :=
  meets (getF s (QBASE_BASE Q)) (32 * getF s (QSIZE_ENTRIES Q)) (getF s (QBASE_BASE R)) (32 * getF s (QSIZE_ENTRIES R))

/-- A ring's size is a power of two from 16 to 65,536, its base is 64-byte aligned, it lies wholly in DRAM, and no other enabled ring overlaps it (R38, UB-04, UB-05). -/
def ringOk (s : State) (Q : Nat) : Bool :=
  let n := getF s (QSIZE_ENTRIES Q)
  let a := getF s (QBASE_BASE Q)
  (List.range 13).any (fun k => n == 2 ^ (k + 4)) && a % 64 == 0 && dramSpan a (32 * n)
    && allQueues.all fun R => R == Q || !onF s (QCTRL_EN R) || !ringsMeet s Q R

/-- Enable an idle queue: QPROD and QCONS become 0, and a bound queue takes its owner's epoch (R47). Enabling a ring that breaks
R38 is UB-04 or UB-05: the indexes take free values (R62). -/
def enableQueue (s : State) (Q : Nat) : State :=
  if onF s (QCTRL_EN Q) || !onF s (QSTAT_IDLE Q) then s
  else if !bindingOk s Q then raise MINOR (blkLoc (Q / 256)) s
  else
    let s1 := setF (setF (setF (setF (setF s (QCTRL_EN Q) 1) (QSTAT_IDLE Q) 0) (QPROD_PROD Q) 0) (QPROD_EPOCH Q) 0) (QCONS_CONS Q) 0
    let s2 := match ownerEpoch s (getF s (QCTRL_OWNCLS Q)) (getF s (QCTRL_OWNID Q)) with
      | some e => setF s1 (QEPOCH_EPOCH Q) e
      | none => s1
    if ringOk s Q then s2 else setFree (setFree s2 (QPROD_PROD Q)) (QCONS_CONS Q)

/-- Start a drain: no further entry starts; with nothing outstanding the queue is idle at once (R52). -/
def drainQueue (s : State) (Q : Nat) : State :=
  if onF s (QCTRL_EN Q) then
    let s1 := setF (setF s (QCTRL_EN Q) 0) (QSTAT_PAUSED Q) 0
    let s2 := { s1 with qops := s1.qops.map fun o =>
      if o.q = Q ∧ o.begun = false ∧ o.done = none then { o with started := true, done := some { status := stABORTED, whole := true } } else o }
    if outstanding s Q = 0 then setF s2 (QSTAT_IDLE Q) 1 else s2
  else s

/-- Abort the outstanding entries that were not taken, in ring order, which ends the cancels that name them (R292); an entry with OWN = 0 is skipped and keeps its contents (R52), and a cancel of it ends too, since no frame will carry its index. DESIGN CHOICE: passing over it
does not set NOTOWN (notes/assumptions/66.md). -/
def abortRest (s : State) (Q : Nat) : State :=
  forN (fun k s => match descriptor s Q k with
    | some d => endCancels Q (k % 65536) stABORTED (if dOwn d then writeEntryBack s Q k stABORTED 0 0 else s)
    | none => endCancels Q (k % 65536) stABORTED (writeEntryBack s Q k stABORTED 0 0)) (nextTake s Q) (untaken s Q) s

/-- Write back every taken operation, each of which has ended. -/
def flushOps (s : State) (Q : Nat) : State := iter (fun s => writeback s Q) (opsOf s Q).length s

/-- A drain completes once every started operation has ended: everything is written back, CONS equals PROD and IDLE is set (R52). -/
def completeDrain (s : State) (Q : Nat) : State :=
  if onF s (QCTRL_EN Q) || onF s (QSTAT_IDLE Q) || (opsOf s Q).any (fun o => o.done.isNone) then s
  else
    let s1 := abortRest (flushOps s Q) Q
    setF (setF s1 (QCONS_CONS Q) (getF s1 (QPROD_PROD Q))) (QSTAT_IDLE Q) 1

/-- Increment a queue's epoch at once (R47). -/
def bumpQueue (s : State) (Q : Nat) : State := setF s (QEPOCH_EPOCH Q) (nextEpoch (getF s (QEPOCH_EPOCH Q)))

/-- `DOORBELL` (R50). -/
def execDoorbell (r : Req) (q : QRef) (size : Nat) (val : Word) (s : State) : Host.Outcome State Fault Refusal :=
  reached (blkIsland q.blk.val) r s fun s =>
  .next (ringDoorbell r (gq q) size (val.toNat % 2 ^ (8 * size)) s)

/-- `ENTRY_TAKE` (R44, R51). -/
def execEntryTake (q : QRef) (s : State) : Host.Outcome State Fault Refusal := onEngine (blkIsland q.blk.val) s fun s => .next (takeEntry s (gq q))

/-- `DESCRIPTOR_WRITEBACK` (R42, R45). -/
def execDescriptorWriteback (q : QRef) (s : State) : Host.Outcome State Fault Refusal := onEngine (blkIsland q.blk.val) s fun s => .next (writeback s (gq q))

/-- `QUEUE_ENABLE`: QCTRL.EN is written 1 (R47). A queue no chapter lists has no register set (R46). -/
def execQueueEnable (r : Req) (q : QRef) (s : State) : Host.Outcome State Fault Refusal :=
  reached (blkIsland q.blk.val) r s fun s =>
  .next (if listedQueue (gq q) then enableQueue s (gq q) else s)

/-- `QUEUE_DRAIN`: QCTRL.EN is written 0 (R52). -/
def execQueueDrain (r : Req) (q : QRef) (s : State) : Host.Outcome State Fault Refusal :=
  reached (blkIsland q.blk.val) r s fun s =>
  .next (if listedQueue (gq q) then drainQueue s (gq q) else s)

/-- `DRAIN_COMPLETE` (R52). -/
def execDrainComplete (q : QRef) (s : State) : Host.Outcome State Fault Refusal := onEngine (blkIsland q.blk.val) s fun s => .next (completeDrain s (gq q))

/-- `QUEUE_BUMP`: QCTRL.BUMP is written 1 (R47). -/
def execQueueBump (r : Req) (q : QRef) (s : State) : Host.Outcome State Fault Refusal :=
  reached (blkIsland q.blk.val) r s fun s =>
  .next (if listedQueue (gq q) then bumpQueue s (gq q) else s)

end Sys2Proof.Machine
end

