-- ==== Sys2Proof/Machine/Triads.lean ====
section
/-! DEFINITION. The vital triads: the Sextant's compare, mismatches and their outcomes, input agreement, resync, substitution, the tests of
the Sextant and of the cores (R101–R153, R537). -/

namespace Sys2Proof.Machine

/-- The field of `VTC_TMAPt` for position p (0 A, 1 B, 2 C). -/
def tmapFld (t p : Nat) : Fld := if p = 0 then VTC_TMAP_CA t else if p = 1 then VTC_TMAP_CB t else VTC_TMAP_CC t

/-- The physical core in position p; 0xF when the position is empty (R537). -/
def coreAt (s : State) (t p : Nat) : Nat := getF s (tmapFld t p)

/-- Core states of `VTC_CSTAT` (R144). -/
def csLANE : Nat := 0
def csPOOL : Nat := 1
def csFENCED : Nat := 2
def csQUAR : Nat := 3
def csXTEST : Nat := 4
def csFAILED : Nat := 5
def csHELD : Nat := 6

/-- The cores in state POOL, lowest first (R144). -/
def pool (s : State) : List Nat := (List.range 14).filter fun c => getF s (VTC_CSTAT_CORE c) == csPOOL

/-- A core of the pool has been chosen for a substitution whose switch is still to come (R141, R142). -/
def chosen (s : State) (c : Nat) : Bool := s.triads.any fun x => x.incoming == some c && x.phase == .switching

/-- The cores that a substitution may choose, lowest first (R141). -/
def spares (s : State) : List Nat := (pool s).filter fun c => !chosen s c

/-- A core changes state; SPARES counts the pool (R144). -/
def setCore (s : State) (c v : Nat) : State :=
  let s1 := if c < 14 then setF s (VTC_CSTAT_CORE c) v else s
  setF s1 VTC_STAT_SPARES (pool s1).length

/-! ### The registers of the lanes and their L1s (R102, R103, R120, R136) -/

/-- The 92 registers of the state signature, in the order of R120, as the RISC-V debug specification numbers them (notes/assumptions/64.md). -/
def sigRegs : List Nat :=
  (List.range 31).map (0x1001 + ·) ++ (List.range 32).map (0x1020 + ·)
    ++ [0x003, 0x300, 0x304, 0x305, 0x340, 0x341, 0x342, 0x343, 0x306, 0x30A, 0x3A0, 0x3A2] ++ (List.range 16).map (0x3B0 + ·) ++ [0xB02]

/-- The 101 words of the rejoin copy: those of R120, mcycle, mhpmcounter3–6 and mhpmevent3–6 (R136). -/
def copyRegs : List Nat := sigRegs ++ [0xB00, 0xB03, 0xB04, 0xB05, 0xB06, 0x323, 0x324, 0x325, 0x326]

/-- The registers of lane p as last shown. -/
def laneRegs (s : State) (t p : Nat) : List (Nat × Nat) := (triad s t).lanes.getD p []

/-- Set registers of lane p. -/
def setLane (t p : Nat) (regs : List Nat) (vals : List Nat) (s : State) : State :=
  modTriad s t fun x => { x with lanes := modAt x.lanes p fun l => (regs.zip vals).foldl (fun m e => kput 0 m e.1 e.2) l }

/-- Lane p counts an event in its mhpmcounters: 1 an L1I miss, 2 an L1D miss, 3 an L1 correction (R103). -/
def countEvent (t p ev : Nat) (s : State) : State :=
  forN (fun k x => if kget 0 (laneRegs x t p) (0x320 + k) = ev then setLane t p [0xB00 + k] [(kget 0 (laneRegs x t p) (0xB00 + k) + 1) % 2 ^ 64] x else x) 3 4 s

/-- A performance counter or event selector that has nothing behind it: reads 0, writes ignored (R103). -/
def unbacked (r : Nat) : Bool := (0xB07 ≤ r && r ≤ 0xB1F) || (0xC07 ≤ r && r ≤ 0xC1F) || (0x327 ≤ r && r ≤ 0x33F)

/-- A register of lane p with the identification registers of R103; cycle, instret and the user counters read the machine counters. -/
def laneReg (s : State) (t p r : Nat) : Nat :=
  if r = 0xF11 then 0
  else if r = 0xF12 then 0x8000000000004401
  else if r = 0xF13 then getF s SYS_IDENT_HWREV
  else if r = 0xF14 then t
  else if r = 0x301 then 0x800000000010112D
  else if r = 0xC01 then freeCnt s
  else if unbacked r then 0
  else if r = 0xC00 ∨ r = 0xC02 ∨ (0xC03 ≤ r ∧ r ≤ 0xC06) then kget 0 (laneRegs s t p) (r - 0x100)
  else kget 0 (laneRegs s t p) r

/-- A register that a write leaves as it is (R103). -/
def readOnlyReg (r : Nat) : Bool := unbacked r || (0xC00 ≤ r && r ≤ 0xFFF) || r == 0x301 || r == 0x1000

/-- The lines of the lanes' L1s that p picks are invalidated; memory is never older than an L1. -/
def dropLanes (t : Nat) (p : CLine → Bool) (s : State) : State :=
  { s with caches := s.caches.filter fun c => !(laneUnit t 0 true ≤ c.unit && c.unit ≤ laneUnit t 2 false && p c) }

/-- The L1I and L1D of lane p are invalidated. -/
def dropL1 (t p : Nat) (s : State) : State := dropLanes t (fun c => c.unit / 2 == laneUnit t p true / 2) s

/-! ### The triad's interrupt file (R57, R59, R115; notes/assumptions/65.md) -/

/-- The address of the triad's machine interrupt file (R57). -/
def triadFile (t : Nat) : Nat := 0x2080000000 + t * 0x1000

/-- The highest pending enabled identity that the file delivers, the lowest number first; 0 for none. -/
def fileTop (s : State) (t : Nat) : Nat :=
  let x := triad s t
  if x.delivery ≠ 1 then 0
  else ((List.range 256).find? fun i => 1 ≤ i && isPending s (triadFile t) i && kget 0 x.enables i == 1 && (x.threshold == 0 || i < x.threshold)).getD 0

/-- 64 bits of the file from identity i on. -/
def fileBits (f : Nat → Bool) (i : Nat) : Nat := ((List.range 64).map fun k => if f (i + k) then 2 ^ k else 0).foldl (· + ·) 0

/-- What a read of mireg gives. -/
def readMireg (s : State) (t : Nat) : Nat :=
  let x := triad s t
  let i := x.iselect
  if i = 0x70 then x.delivery
  else if i = 0x72 then x.threshold
  else if 0x80 ≤ i ∧ i < 0xC0 ∧ i % 2 = 0 then fileBits (isPending s (triadFile t)) ((i - 0x80) * 32)
  else if 0xC0 ≤ i ∧ i < 0x100 ∧ i % 2 = 0 then fileBits (fun k => kget 0 x.enables k == 1) ((i - 0xC0) * 32)
  else 0

/-- 64 bits for the identities from base on, in a list keyed from off; identities 1 to 255 alone have bits. -/
def putFile (l : List (Nat × Nat)) (off base v : Nat) : List (Nat × Nat) :=
  (List.range 64).foldl (fun m k => if 1 ≤ base + k ∧ base + k ≤ 255 then kput 0 m (off + base + k) (bits v k 1) else m) l

/-- What a write of mireg does. -/
def writeMireg (t v : Nat) (s : State) : State :=
  let i := (triad s t).iselect
  if i = 0x70 then modTriad s t fun x => { x with delivery := v }
  else if i = 0x72 then modTriad s t fun x => { x with threshold := v }
  else if 0x80 ≤ i ∧ i < 0xC0 ∧ i % 2 = 0 then { s with ifiles := putFile s.ifiles (triadFile t) ((i - 0x80) * 32) v }
  else if 0xC0 ≤ i ∧ i < 0x100 ∧ i % 2 = 0 then modTriad s t fun x => { x with enables := putFile x.enables 0 ((i - 0xC0) * 32) v }
  else s

/-- Triad states (R127). -/
def tsOFF : Nat := 0
def tsSTART : Nat := 1
def tsTMR : Nat := 2
def tsRESYNC : Nat := 3
def tsSUBST : Nat := 4
def tsDUPLEX : Nat := 5
def tsHALTED : Nat := 6
def tsDEBUG : Nat := 7

/-- The triad's state code. -/
def tState (s : State) (t : Nat) : Nat := getF s (VTC_TSTAT_STATE t)

/-- The triad runs: TMR, RESYNC, SUBST or DUPLEX. -/
def running (s : State) (t : Nat) : Bool := 2 ≤ tState s t && tState s t ≤ 5

/-- Enter a triad state; `VTC_STAT` follows. -/
def setTState (s : State) (t v : Nat) : State :=
  setFBit (setFBit (setFBit (setF s (VTC_TSTAT_STATE t) v) VTC_STAT_RUN t (2 ≤ v && v ≤ 5)) VTC_STAT_DEGR t (v == 5)) VTC_STAT_HALT t (v == 6)

/-- The checker comparator starts or stops (R152). -/
def setChecker (s : State) (t : Nat) (b : Bool) : State := setB (setB s (VTC_TSTAT_CHKON t) b) (VTC_SXSTAT_CHKON t) b

/-- A substitution that ends before its switch: the outgoing core, which is in QUAR, leaves its position (R142, R537). DESIGN CHOICE: it leaves at that moment, since no switch follows
(notes/assumptions/66.md). -/
def abandonSwitch (t : Nat) (s : State) : State :=
  if (triad s t).phase = .switching then setF s (tmapFld t (getF s (VTC_TSTAT_FLANE t) - 1)) 0xF else s

/-- A safe halt with its cause: lanes stop, the state is HALTED, and the forced-off signal follows from it (R125). -/
def safeHalt (t cause : Nat) (s : State) : State :=
  let s1 := setChecker (setF (setTState (abandonSwitch t s) t tsHALTED) (VTC_TSTAT_HCAUSE t) cause) t false
  modTriad s1 t fun x => { x with phase := .none, incoming := none }

/-- The last mismatch and its counters (R123, R130). Lane 0 means none or all; lanes are 1 A, 2 B, 3 C. -/
def recordMismatch (t cls lane rtype addr retire : Nat) (s : State) : State :=
  let s1 := setF (setF (setF (setF (setF (setF s (VTC_LASTMM_CLASS t) cls) (VTC_LASTMM_LANE t) lane)
    (VTC_LASTMM_PCORE t) (if lane = 0 then 0 else coreAt s t (lane - 1))) (VTC_LASTMM_RTYPE t) rtype) (VTC_LASTMM_ADDR t) addr)
    (VTC_LASTRT_RETIRE t) retire
  if cls = 1 then incF s1 (VTC_MMCNT_REQ t) else if cls = 2 then incF s1 (VTC_MMCNT_SIG t) else if cls = 3 then incF s1 (VTC_MMCNT_L1 t)
  else if 6 ≤ cls then incF s1 (VTC_MMCNT_SXF t) else s1

/-- A Sextant fault: SXLAST, SXFLT, a safe halt with its cause and a VITAL report with the macro concerned (R147, R151, R152). RTYPE and ADDR are those
of the compare, 0 for a test record. -/
def sextantFault (t cls point expect flagged mac cause rtype addr retire : Nat) (s : State) : State :=
  let s1 := setF (setF (setF (setF s (VTC_SXLAST_POINT t) point) (VTC_SXLAST_EXPECT t) expect) (VTC_SXLAST_FLAGGED t) flagged)
    (VTC_SXSTAT_SXFLT t) 1
  raise VITAL (sxLoc t mac) (safeHalt t cause (recordMismatch t cls 0 rtype addr retire s1))

/-- The counter of resyncs of a position. -/
def rscntFld (t p : Nat) : Fld := if p = 0 then VTC_RSCNT_LANEA t else if p = 1 then VTC_RSCNT_LANEB t else VTC_RSCNT_LANEC t

/-- Fence position p and start its resync; the L1s of its core are invalidated (R136 step 1). -/
def startResync (t p : Nat) (s : State) : State :=
  let c := coreAt s t p
  let s1 := dropL1 t p (setChecker (setF (setTState (setCore s c csFENCED) t tsRESYNC) (VTC_TSTAT_FLANE t) (p + 1)) t true)
  let s2 := modTriad (incF s1 (rscntFld t p)) t fun x =>
    { x with resyncs := x.resyncs ++ [(p, freeCnt s)], phase := .selftest, incoming := none, events := x.events.filter fun e => e.2 != .boundary }
  raise MINOR (coreLoc c 0xFF) s2

/-- Begin a substitution of position p with the lowest core of the pool, or go to DUPLEX where none may be placed; `out` is the outgoing core, where
there is one. The incoming core stays in the pool until the switch (R134, R141, R142, R148). DESIGN CHOICE: a substitution out of DUPLEX, which has no outgoing core, is reported by the tile of the
Sextant (notes/assumptions/66.md). -/
def substituteOrDuplex (t p : Nat) (out : Option Nat) (s : State) : State :=
  let s0 := dropL1 t p (match out with
    | some c => setCore s c csQUAR
    | none => s)
  match spares s0, onL s0 (VTC_TCTRL_SPAREEN t) with
  | c :: _, true =>
    let s1 := setChecker (setF (setTState s0 t tsSUBST) (VTC_TSTAT_FLANE t) (p + 1)) t true
    raise MAJOR (match out with | some o => coreLoc o 0xFF | none => sxLoc t 0xFF)
      (modTriad s1 t fun x => { x with phase := .switching, incoming := some c, events := x.events.filter fun e => e.2 != .boundary })
  | _, _ =>
    let s1 := setF (setChecker (setF (setTState s0 t tsDUPLEX) (VTC_TSTAT_FLANE t) 0) t false) (tmapFld t p) 0xF
    raise MAJOR (sxLoc t 0xFF) (modTriad s1 t fun x => { x with phase := .none, incoming := none, events := x.events.filter fun e => e.2 != .boundary })

/-- The resyncs of position p that started within the last RSWIN seconds, this one included, reach RSLIM (R140). -/
def limitReached (s : State) (t p : Nat) : Bool :=
  let win := max 1 (liveF s (VTC_TCTRL_RSWIN t)) * 1000000000
  let n := ((triad s t).resyncs.filter fun r => r.1 == p && freeCnt s ≤ r.2 + win).length + 1
  max 1 (liveF s (VTC_TCTRL_RSLIM t)) ≤ n

/-- A mismatch that names one lane (class REQ 1, SIG 2 or L1 3): the outcome by state (R124, R134, R147). -/
def oddLane (t cls p rtype addr retire : Nat) (s : State) : State :=
  if tState s t = tsTMR then
    let s1 := recordMismatch t cls (p + 1) rtype addr retire s
    if !limitReached s t p then startResync t p s1
    else if (triad s t).subst.contains p then
      let s2 := setF (setF (setF (setF s1 (VTC_SXLAST_POINT t) 6) (VTC_SXLAST_EXPECT t) 0) (VTC_SXLAST_FLAGGED t) (p + 1)) (VTC_SXSTAT_SXFLT t) 1
      raise VITAL (sxLoc t p) (safeHalt t 4 (incF (setF s2 (VTC_LASTMM_CLASS t) 8) (VTC_MMCNT_SXF t)))
    else substituteOrDuplex t p (some (coreAt s t p)) s1
  else if running s t then
    raise VITAL (sxLoc t 0xFF) (safeHalt t 3 (recordMismatch t 5 0 rtype addr retire s))
  else s

/-- Three lanes differ, or two different lanes are odd in one cycle: class TRIPLE in TMR; while fewer are compared, PAIR (R109, R123, R134). -/
def undecided (t rtype addr retire : Nat) (s : State) : State :=
  if tState s t = tsTMR then raise VITAL (sxLoc t 0xFF) (safeHalt t 2 (recordMismatch t 4 0 rtype addr retire s))
  else if running s t then raise VITAL (sxLoc t 0xFF) (safeHalt t 3 (recordMismatch t 5 0 rtype addr retire s))
  else s

/-- A lane reads an uncorrectable codeword from its own L1 and reports itself odd, class L1, without a vote; with another lane that does so in the same VIT cycle the
class is TRIPLE (R122, R123). -/
def selfOdd (t p : Nat) (instr : Bool) (addr retire : Nat) (twin : Option Nat) (s : State) : State :=
  let ty := if instr then 10 else 11
  match twin with
  | some q => if q = p then oddLane t 3 p ty addr retire s else undecided t ty addr retire s
  | none => oddLane t 3 p ty addr retire s

/-- The Sextant's decision on the records it compares (R109). -/
inductive Decision where
  | equal
  | odd (p : Nat)
  | split
  deriving DecidableEq, Repr

/-- The positions compared: mapped and not fenced (R109, R136, R537). -/
def compared (s : State) (t : Nat) : List Nat :=
  (List.range 3).filter fun p => coreAt s t p != 0xF && getF s (VTC_TSTAT_FLANE t) != p + 1

/-- The decision of R109 over the positions compared. -/
def decideVote {α : Type} [DecidableEq α] (pos : List Nat) (r : Nat → α) : Decision :=
  match pos with
  | [a, b, c] =>
    if r a = r b then (if r b = r c then .equal else .odd c)
    else if r a = r c then .odd b
    else if r b = r c then .odd a
    else .split
  | [a, b] => if r a = r b then .equal else .split
  | _ => .equal

/-- The lane code of a decision: 0 none, 1 A, 2 B, 3 C. -/
def decisionLane : Decision → Nat
  | .odd p => p + 1
  | _ => 0

/-- A position whose record is the majority's. -/
def majorityOf (pos : List Nat) : Decision → Nat
  | .odd p => (pos.filter (· != p)).headD 0
  | _ => pos.headD 0

/-- The mismatch class of a request type: SIGNATURE gives SIG, L1 lines give L1, others REQ (R119, R121, R123). -/
def classOfType (ty : Nat) : Nat := if ty = 9 then 2 else if ty = 10 ∨ ty = 11 then 3 else 1

/-- The outcome of a decision on records of type ty at address addr (R109, R124). -/
def applyDecision (t : Nat) (d : Decision) (ty cls addr retire : Nat) (s : State) : State :=
  match d with
  | .equal => s
  | .odd p => oddLane t cls p ty addr retire s
  | .split => undecided t ty addr retire s

/-- An invalidation of L1 lines (R112). -/
def isInval : TrEvent → Bool
  | .inval _ => true
  | .l1corr _ _ => true
  | _ => false

/-- The voted request of a compare leaves the Sextant; a FENCE with r in its predecessor set and a FENCE.I wait for the invalidations captured before it (R108, R112). -/
def release (t : Nat) (r : LaneRec) (waits : Bool) (s : State) : State :=
  modTriad s t fun x => { x with vreq := x.vreq ++ [⟨r, if waits then x.events.filter fun e => isInval e.2 else []⟩] }

/-- The checker disagrees with the Sextant: class CHK (R152). -/
def checkerDisagree (t checkLane sxLane cause rtype addr retire : Nat) (s : State) : State :=
  sextantFault t 7 5 checkLane sxLane 0x06 cause rtype addr retire s

/-- `SEXTANT_COMPARE`: the aligned records of the lanes; `other` is a different lane named odd in the same VIT cycle; `checker` is the lane
the checker comparator names where it disagrees; `kind` says what a request of type FENCE, FENCE.I or WFI is (R107–R109, R112, R118, R122, R124, R152). -/
def execSextantCompare (t : Fin 4) (a b c : LaneRec) (retire : Nat) (kind : FenceKind) (other : Option (Fin 3)) (checker : Option (Fin 4))
    (s : State) : Host.Outcome State Fault Refusal :=
  let r (p : Nat) : LaneRec := if p = 0 then a else if p = 1 then b else c
  let pos := compared s t
  let d := decideVote pos r
  let m := r (majorityOf pos d)
  let present := pos.any fun p => (r p).present
  let rtype := if pos.all (fun p => (r p).present) then m.type else 8
  let out (x : State) : State :=
    if !m.present then x
    else
      let x1 := release t m (kind == .waits) x
      if kind = .wfi then modTriad x1 t fun y => { y with wfi := some retire } else x1
  if !running s t || !present then .next s
  else
    match checker, onF s (VTC_TSTAT_CHKON t) with
    | some l, true => .next (checkerDisagree t l.val (decisionLane d) 4 rtype m.addr retire s)
    | _, _ =>
      match d, other with
      | .split, _ => .next (undecided t rtype m.addr retire s)
      | .equal, none => .next (out s)
      | .equal, some p => .next (oddLane t 1 p.val rtype m.addr retire (out s))
      | .odd p, some q =>
        if p = q.val then .next (oddLane t (classOfType m.type) p rtype m.addr retire (out s))
        else .next (undecided t rtype m.addr retire s)
      | .odd p, none => .next (oddLane t (classOfType m.type) p rtype m.addr retire (out s))

/-- The response to a voted CSR request: time from the free-running count, mtopei from the triad's interrupt file, and miselect and mireg of the file (R59, R103, R106, R115,
R162). -/
def csrValue (s : State) (t csr : Nat) : Nat :=
  if csr = 0xC01 then freeCnt s
  else if csr = 0x35C then fileTop s t * 2 ^ 16 + fileTop s t
  else if csr = 0x350 then (triad s t).iselect
  else if csr = 0x351 then readMireg s t
  else 0

/-- An identity of the triad's interrupt file is pending no more. -/
def claim (t e : Nat) (s : State) : State := { s with ifiles := kput 0 s.ifiles (triadFile t + e) 0 }

/-- What a voted write of a CSR does: of mtopei it claims the identity (R59, R115). -/
def csrWrite (t : Nat) (r : LaneRec) (s : State) : State :=
  if r.csr = 0x35C then (if fileTop s t = 0 then s else claim t (fileTop s t) s)
  else if r.csr = 0x350 then modTriad s t fun x => { x with iselect := r.data }
  else if r.csr = 0x351 then writeMireg t r.data s
  else s

/-- `VOTED_RESPONSE`: the single response of the oldest outstanding voted request goes to the lanes, once the invalidations that it waits for have been applied; `wr`: a CSR access
writes (R108, R112, R115). -/
def execVotedResponse (t : Fin 4) (data : Word) (wr : Bool) (s : State) : Host.Outcome State Fault Refusal :=
  match (triad s t).vreq with
  | [] => .next s
  | q :: rest =>
    if !running s t || q.wait.any (fun e => (triad s t).events.contains e) then .next s
    else
      let s1 := modTriad s t fun x => { x with vreq := rest }
      if q.req.type = 6 then
        .next (answer (if wr then csrWrite t q.req s1 else s1) (.triad t) (csrValue s1 t q.req.csr))
      else .next (answer s1 (.triad t) data.toNat)

/-- The margin in force: below 32 taken as 32 (R117). -/
def margin (s : State) (t : Nat) : Nat := max 32 (liveF s (VTC_IAG_MARGIN t))

/-- Capture an event: the tag is the retire count plus MARGIN, never below the last tag; at a waiting WFI, the WFI's count (R115, R117, R118). -/
def capture (t : Nat) (ev : TrEvent) (retire : Nat) (s : State) : State :=
  let x := triad s t
  let tag := match x.wfi with
    | some w => w
    | none => max x.lastTag (retire + margin s t)
  modTriad s t fun y => { y with events := y.events ++ [(tag, ev)], lastTag := max y.lastTag tag }

/-- The signature interval in ns: 1–100 ms, other values taken as 10 (R119, R130). -/
def sigPeriod (s : State) (t : Nat) : Nat := orElse (liveF s (VTC_SIGCTL_INTMS t)) 1 100 10 * 1000000

/-- A multiple of the signature interval has passed on the free-running count since the last boundary (R119). -/
def sigDue (s : State) (t : Nat) : Bool := (triad s t).sigAt / sigPeriod s t < freeCnt s / sigPeriod s t

/-- A maintainer request may be captured: at most one per 10 µs (R158). -/
def maintDue (s : State) (t : Nat) : Bool := (triad s t).lastMaint == 0 || (triad s t).lastMaint - 1 + 10000 ≤ freeCnt s

/-- The boundary of a vital image switch is asked for (R503). -/
def switching (s : State) (t : Nat) : Bool := match kget (none : Option PendAct) s.upd.pend (1 + t) with
  | some a => a.captured
  | none => false

/-- An event is there for the input agreement stage to capture: another highest identity than the last captured, an invalidation that is due, a signature boundary, the boundary of
a recovery whose core has passed its self-test or of a vital image switch, the first waiting maintainer request (R112, R115, R119, R136, R158, R503). -/
def arises (s : State) (t : Nat) (ev : TrEvent) : Bool :=
  let x := triad s t
  match ev with
  | .irq e => e == fileTop s t && e != x.lastIrq
  | .inval l => x.due.contains (.inval l)
  | .l1corr p l => x.due.contains (.l1corr p l)
  | .sig => sigDue s t
  | .boundary => (x.phase == .boundary || switching s t) && !(x.events.any fun e => e.2 == .boundary)
  | .dbg op => x.maint.head? == some op && maintDue s t

/-- What a capture leaves behind. -/
def captured (t : Nat) (ev : TrEvent) (s : State) : State :=
  modTriad s t fun x => match ev with
    | .irq e => { x with lastIrq := e }
    | .inval l => { x with due := dropFirst (· == .inval l) x.due }
    | .l1corr p l => { x with due := dropFirst (· == .l1corr p l) x.due }
    | .sig => { x with sigAt := freeCnt s }
    | .boundary => x
    | .dbg _ => { x with maint := x.maint.drop 1, lastMaint := freeCnt s + 1 }

/-- `INPUT_CAPTURE`: an event that is there is captured once; `retire` is the retire count of lane A, or of the leading survivor (R115, R136). -/
def execInputCapture (t : Fin 4) (ev : TrEvent) (retire : Nat) (s : State) : Host.Outcome State Fault Refusal :=
  .next (if running s t && arises s t ev then capture t ev retire (captured t ev s) else s)

/-- The order in which events with one tag take effect (R116). -/
def eventRank : TrEvent → Nat
  | .inval _ => 0
  | .l1corr _ _ => 0
  | .sig => 1
  | .boundary => 2
  | .dbg _ => 3
  | .irq _ => 4

/-- The event that takes effect next: lowest tag, then the order of R116, then the order of capture. -/
def firstEvent : List (Nat × TrEvent) → Option (Nat × TrEvent)
  | [] => none
  | e :: r => match firstEvent r with
    | none => some e
    | some f => if f.1 < e.1 ∨ (f.1 = e.1 ∧ eventRank f.2 < eventRank e.2) then some f else some e

/-- A debugger may read memory at an address: main-class memory, and the persistent regions that R81 opens to it. -/
def debuggerMay (a : Nat) : Bool := inDram a || (inNvm a && (a < 0x1040000000 || (0x1068000000 ≤ a && a < 0x1078000000)))

/-- A refused debug request: the failed status, a NOTE report, nothing else in the triad (R155). -/
def refuseDebugAs (t : Nat) (why : AccFault) (s : State) : State := raiseReq NOTE (sxLoc t 0x04) 0x61 (deny s .debugger why)

/-- A debugger reads a codeword through the triad's L2, which takes the line where it has not got it: what reading it shows is recorded there as for any read, and an address that R81 closes
is a load access fault (R71–R77, R81, R155, R158). DESIGN CHOICE: a line so taken stands in data bank 0, macro 0x07 (notes/assumptions/63.md). -/
def debugRead (t : Fin 4) (a : Nat) (s : State) : State :=
  if !debuggerMay a then refuseDebugAs t .load s
  else
    let cw := cwOf a
    let u := 32 + t.val
    let s1 := fillLine 0x61 (.triadL2 t 0x07 (freeSlot s u (cw / 2))) (cw / 2) s
    let src := srcAt (((lineAt s1 u (cw / 2)).map (·.src)).getD (.triadL2 t 0x07 0)) cw
    let w := wordIn s1 src cw
    let s2 := touchAt 0x61 src s1 cw
    match classify (syndromes w) with
    | .clean => emit s2 (.bytes .debugger (w.take 32))
    | .one k v => emit s2 (.bytes .debugger ((modAt w k (· ^^^ BitVec.ofNat 8 v)).take 32))
    | _ => deny s2 .debugger .load

/-- The lane that a debugger reads: lane A, or lane B while A is fenced or its position empty (R136, R155, R159). -/
def leading (s : State) (t : Nat) : Nat := (compared s t).headD 0

/-- A register that each lane counts for itself (R103). -/
def lanePrivate (r : Nat) : Bool := r == 0xB00 || (0xB03 ≤ r && r ≤ 0xB06)

/-- The lanes that run show registers that their instructions have written; of the lane-private ones, the leading lane's (R103, R158). -/
def showLanes (t : Nat) (regs : List (Nat × Word)) (s : State) : State :=
  (compared s t).foldl (fun x p =>
    let l := regs.filter fun e => p == leading s t || !lanePrivate e.1
    setLane t p (l.map (·.1)) (l.map (·.2.toNat)) x) s

/-! ### The debug module (R154; notes/assumptions/16.md) -/

/-- Lane A is halted under the depot debugger. -/
def laneHalted (s : State) (t : Nat) : Bool := tState s t == tsDEBUG && !(triad s t).resumed

/-- What a register of the triad's debug module reads as: data0 to data3, dmcontrol, dmstatus, abstractcs. -/
def dmRead (s : State) (t reg : Nat) : Nat :=
  let d := (triad s t).dm
  if 4 ≤ reg ∧ reg ≤ 7 then d.data.getD (reg - 4) 0
  else if reg = 0x10 then d.control
  else if reg = 0x11 then 0x82 + (if laneHalted s t then 0x300 else 0xC00) + (if (triad s t).resumed then 0x30000 else 0)
  else if reg = 0x16 then 4 + d.cmderr * 2 ^ 8
  else 0

/-- An argument of an abstract command: two data registers. -/
def dmArg (d : Dm) (i : Nat) : Nat := d.data.getD (2 * i) 0 + d.data.getD (2 * i + 1) 0 * 2 ^ 32

/-- The operation of an abstract command with the number of its bytes, or the error that it gives: Access Register, and Access Memory by physical address. -/
def dmCommand (d : Dm) (w : Nat) : Except Nat (Option (DbgOp × Nat)) :=
  let n := 2 ^ bits w 20 3
  if bits w 24 8 = 0 then
    if !bit w 17 then .ok none
    else if n ≠ 4 ∧ n ≠ 8 then .error 2
    else .ok (some (if bit w 16 then .writeReg (bits w 0 16) (BitVec.ofNat 64 (dmArg d 0 % 2 ^ (8 * n))) else .readReg (bits w 0 16), n))
  else if bits w 24 8 = 2 then
    let a := dmArg d 1
    if 8 < n then .error 2
    else .ok (some (if bit w 16 then .writeMem a (toLE n (dmArg d 0)) else if inIo a then .readIo a n else .readMem a, n))
  else .error 2

/-- The signals r take the place of those that came since a. -/
def since (a s : State) (r : List Out) : State := { s with out := r ++ a.out }

/-- data0 and data1 of the debug module hold a value. -/
def dmPut (t v : Nat) (s : State) : State := modTriad s t fun x => { x with dm := { x.dm with data := [v % 2 ^ 32, v / 2 ^ 32 % 2 ^ 32] ++ x.dm.data.drop 2 } }

/-- The answer that an operation has given since state a goes into data0 and data1 of the debug module; a failed one leaves the error of an exception. -/
def dmTake (t : Nat) (op : DbgOp) (n : Nat) (a s : State) : State :=
  match s.out.take (s.out.length - a.out.length) with
  | .value .debugger v :: r => dmPut t (v % 2 ^ (8 * n)) (since a s r)
  | .bytes .debugger b :: r => dmPut t (leAt b (match op with | .readMem a => a % 32 | _ => 0) n) (since a s r)
  | .denied .debugger _ :: _ => modTriad s t fun x => { x with dm := { x.dm with cmderr := 3 } }
  | _ => s

/-- A write to a register of the debug module; `run` carries out the operation of an abstract command, which an earlier error holds back. -/
def dmWrite (t reg w : Nat) (run : DbgOp → State → State) (s : State) : State :=
  let d := (triad s t).dm
  let set (f : Dm → Dm) : State := modTriad s t fun x => { x with dm := f x.dm }
  if 4 ≤ reg ∧ reg ≤ 7 then set fun d => { d with data := modAt d.data (reg - 4) fun _ => w }
  else if reg = 0x10 then
    if bit w 0 then
      (let s1 := set fun d => { d with control := putBits w 30 1 0 }
       if bit w 30 && laneHalted s t then run (.run .resume) s1 else s1)
    else set fun _ => {}
  else if reg = 0x16 then set fun d => { d with cmderr := d.cmderr ^^^ (d.cmderr &&& bits w 8 3) }
  else if reg = 0x17 ∧ d.cmderr = 0 then
    match dmCommand d w with
    | .error e => set fun d => { d with cmderr := e }
    | .ok none => s
    | .ok (some (op, n)) => dmTake t op n s (run op s)
  else s

/-- What a debugger access of an in-service session does: it reads the leading lane's register, memory through the triad's L2, the instruction trace, which leaves by the
maintenance port, or the debug module (R155, R158, R159). -/
def serveMaint (t : Fin 4) (op : DbgOp) (s : State) : State :=
  match op with
  | .dmi reg none => answer s .debugger (dmRead s t reg)
  | .dmi reg (some w) => dmWrite t reg w.toNat plain s
  | o => plain o s
where
  plain (op : DbgOp) (s : State) : State :=
    match op with
    | .readReg r => answer s .debugger (laneReg s t (leading s t) r)
    | .readMem a => debugRead t a s
    | .trace => emit s (.signal .maintenance t 2 0)
    | _ => s

/-- The lanes that are compared take the machine external interrupt: mepc, mcause and mstatus, and the pc at mtvec (notes/assumptions/64.md). -/
def trapLanes (t : Nat) (pc : Word) (mach : Bool) (s : State) : State :=
  (compared s t).foldl (fun x p =>
    let st := laneReg x t p 0x300
    setLane t p [0x341, 0x342, 0x300, 0x7B1]
      [pc.toNat, 2 ^ 63 + 11, putBits (putBits (putBits st 7 1 (bits st 3 1)) 3 1 0) 11 2 (if mach then 3 else 0), alignDown (laneReg x t p 0x305) 4] x) s

/-- An event takes effect in the lanes; an interrupt wakes them, and `trap` says at which pc and from which mode they take it, where they do (R112, R116, R118). -/
def effectOf (t : Fin 4) (ev : TrEvent) (trap : Option (Word × Bool)) (s : State) : State :=
  match ev with
  | .irq e =>
    let s1 := modTriad s t fun x => { x with topei := e, wfi := if e = 0 then x.wfi else none }
    (match trap with
      | some (pc, m) => if e = 0 then s1 else trapLanes t pc m s1
      | none => s1)
  | .inval l => dropLanes t (fun c => c.line == l) s
  | .l1corr _ l => dropLanes t (fun c => c.line == l) s
  | .dbg op => serveMaint t op s
  | .sig => s
  | .boundary => s

/-- A state signature and the step of a recovery are commands of their own: `SIGNATURE_BOUNDARY` and `REJOIN_BOUNDARY`. -/
def ownCommand : TrEvent → Bool
  | .sig => true
  | .boundary => true
  | _ => false

/-- The next event of a triad takes effect and leaves the captured ones; a signature or a recovery step waits for its command, and what follows it waits too (R116). -/
def takeEffect (t : Fin 4) (trap : Option (Word × Bool)) (s : State) : State :=
  match firstEvent (triad s t).events with
  | none => s
  | some e => if ownCommand e.2 then s else effectOf t e.2 trap (modTriad s t fun x => { x with events := dropFirst (· == e) x.events })

/-- `TAGGED_EVENT_EFFECT`: at the boundary the lanes show in `regs` what their instructions have written since (R116, R158); the lanes of a triad that does not run are frozen (R125). -/
def execTaggedEventEffect (t : Fin 4) (trap : Option (Word × Bool)) (regs : List (Nat × Word)) (s : State) : Host.Outcome State Fault Refusal :=
  .next (if running s t then takeEffect t trap (showLanes t regs s) else s)

/-- `WFI_WAKE`: at a waiting WFI every captured event takes effect in the order of R116, as far as none of them waits for a command of its own; an interrupt wakes the lanes, which trap with mepc at
the instruction after the WFI, `next`; `regs` as in `TAGGED_EVENT_EFFECT` (R118). -/
def execWfiWake (t : Fin 4) (next : Word) (mach : Bool) (regs : List (Nat × Word)) (s : State) : Host.Outcome State Fault Refusal :=
  match (triad s t).wfi with
  | none => .next s
  | some w =>
    if !running s t then .next s
    else
      let s1 := modTriad (showLanes t regs s) t fun x => { x with events := x.events.map fun e => (min e.1 w, e.2) }
      .next (iter (takeEffect t (some (next, mach))) (triad s t).events.length s1)

/-! ### State signature and L1 scrub (R119–R121) -/

/-- The signature of lane p over its registers as last shown (R120). -/
def laneSignature (s : State) (t p : Nat) : Nat := signature (sigRegs.map fun r => BitVec.ofNat 64 (kget 0 (laneRegs s t p) r))

/-- The line of lane p as its scrub port meets it. -/
def scrubbed (t : Nat) (l : L1Line) (p : Nat) (s : State) : State :=
  let u := laneUnit t p l.icache
  let s1 := (l.upset.filter fun e => e.1.val == p).foldl (fun x e => modLine x u (l.addr / 64) fun c => { c with sym := modAt c.sym e.2.1.val (· ^^^ e.2.2) }) s
  if bit l.tags.toNat p then { s1 with caches := s1.caches.filter fun c => !(c.unit == u && c.line == l.addr / 64) } else s1

/-- One codeword of a scrubbed line goes through the code: a correction is recorded and its line's invalidation falls due; an uncorrectable or poisoned one is recorded and named,
and the lane reports itself odd (R71, R77, R112, R121, R122). -/
def scrubLaneWord (t p cw tag : Nat) (l : L1Line) (s : State) : State :=
  let u := laneUnit t p l.icache
  match lineAt s u (cw / 2) with
  | none => s
  | some c =>
    let w := c.word cw
    let y := syndromes w
    let a := 32 * cw
    let m (dev : Nat) : Macro := macroOf (srcAt c.src cw) a dev (coreAt s t p)
    match classify y with
    | .clean => s
    | .one k v =>
      let w' := modAt w k (· ^^^ BitVec.ofNat 8 v)
      countEvent t p 3 (modTriad (modLine (recordCorrection s (m k) a (syndWord y) k v false) u (cw / 2) fun x => x.put cw w') t
        fun x => { x with due := x.due ++ [.l1corr (Fin.ofNat 3 p) (cw / 2)] })
    | v => selfOdd t p l.icache a tag none (recordLost (if v = .poisoned then s else poisonIn c.src cw (w.take 32) s) (m 0xFF) a (syndWord y) (v == .poisoned) t true)

/-- The L1 scrub of one line: each compared lane reads its copy through the code, then the copies are compared in tag, valid bit, data and check bytes, by the checker too
while it runs (R121, R152). -/
def scrubLine (t tag : Nat) (s : State) (l : L1Line) : State :=
  if l.inflight || !running s t then s
  else
    let pos := compared s t
    let s1 := pos.foldl (fun x p => scrubbed t l p x) s
    let s2 := pos.foldl (fun x p => if running x t then scrubLaneWord t p (l.addr / 64 * 2 + 1) tag l (scrubLaneWord t p (l.addr / 64 * 2) tag l x) else x) s1
    let cp (p : Nat) : Option (List Byte) := (lineAt s2 (laneUnit t p l.icache) (l.addr / 64)).map (·.sym)
    let d := decideVote (compared s2 t) cp
    let ty := if l.icache then 10 else 11
    if !running s2 t then s2
    else match l.checker, onF s2 (VTC_TSTAT_CHKON t) with
      | some k, true => checkerDisagree t k.val (decisionLane d) 4 ty l.addr tag s2
      | _, _ => applyDecision t d ty 3 l.addr tag s2

/-- `SIGNATURE_BOUNDARY`: at a captured signature boundary, when it is next, the lanes show their 92 values, which are compared as SIGNATURE requests, then the L1 lines are scrubbed. `checker`
is the lane that the checker comparator names where it disagrees (R116, R119–R121, R138, R152). -/
def execSignatureBoundary (t : Fin 4) (a b c : List Word) (lines : List L1Line) (checker : Option (Fin 4)) (s : State) : Host.Outcome State Fault Refusal :=
  match running s t, firstEvent (triad s t).events with
  | true, some (tag, .sig) =>
    let s0 := modTriad s t fun x => { x with events := dropFirst (· == (tag, .sig)) x.events }
    let s1 := (compared s0 t).foldl (fun x p => setLane t p sigRegs ((if p = 0 then a else if p = 1 then b else c).map (·.toNat)) x) s0
    let d := decideVote (compared s1 t) (laneSignature s1 t)
    (match checker, onF s (VTC_TSTAT_CHKON t) with
      | some l, true => .next (checkerDisagree t l.val (decisionLane d) 4 9 0 tag s1)
      | _, _ => .next (lines.foldl (scrubLine t tag) (applyDecision t d 9 2 0 tag s1)))
  | _, _ => .next s

/-- Accept or discard a write to `VTC_VRGNk` (R114). -/
def writeVrgn (r : Req) (k : Nat) (v : Nat) (s : State) : State :=
  let ok := match r with
    | .triad t => !onF s (VTC_VRGN_V k) || bitF s (VTC_VRGN_OWN k) t
    | _ => false
  if ok then
    setF (setF (setF (setF (setF s (VTC_VRGN_V k) (bits v 0 1)) (VTC_VRGN_SVCRD k) (bits v 1 1)) (VTC_VRGN_OWN k) (bits v 4 4))
      (VTC_VRGN_BASE k) (bits v 21 19)) (VTC_VRGN_SIZE k) (bits v 48 16)
  else raiseReq MINOR (blkLoc 1) (reqCode r) s

/-- `VRGN_WRITE` (R114). -/
def execVrgnWrite (r : Req) (k : Fin 16) (val : Word) (s : State) : Host.Outcome State Fault Refusal := .next (writeVrgn r k val.toNat s)

/-! ### Starting and halting -/

/-- A position whose core is in quarantine, has failed or has gone back to the pool is left empty (R144, R537). -/
def emptyQuar (t p : Nat) (s : State) : State :=
  let c := coreAt s t p
  let st := getF s (VTC_CSTAT_CORE c)
  if c ≠ 0xF ∧ (st = csQUAR ∨ st = csFAILED ∨ st = csXTEST ∨ st = csPOOL) then setF s (tmapFld t p) 0xF else s

/-- START accepted: HCAUSE and SXFLT clear, the epoch increments except at the first START, the mapped cores are reset with their L1s invalidated, and the self-test begins
(R128, R134, R135, R537). -/
def beginStart (t : Nat) (s : State) : State :=
  let sf := clearForced t s
  let s0 := forN (emptyQuar t) 0 3 (if (triad sf t).started then bumpTriad t sf else sf)
  let s1 := dropLanes t (fun _ => true) (forN (fun p s => let c := coreAt s t p; if c != 0xF then setCore s c csLANE else s) 0 3 s0)
  let s2 := setChecker (setF (setF (setF (setTState s1 t tsSTART) (VTC_TSTAT_HCAUSE t) 0) (VTC_TSTAT_FLANE t) 0) (VTC_SXSTAT_SXFLT t) 0) t true
  modTriad s2 t fun x => { x with started := true, resyncs := [], subst := [], phase := .none, incoming := none, wfi := none, events := [], vreq := [], lastTag := 0, topei := 0, lanes := [[], [], []], resumed := false, dm := {}, maint := [], injHeld := false, dbgRun := false, due := [], lastIrq := 0 }

/-- The triad begins in its image: the lanes' pc is the entry address, and the intervals of the signature and of the injection test run from now (R119, R128, R134, R149). -/
def enterRun (t v : Nat) (s : State) : State :=
  let s1 := setChecker (setTState s t v) t false
  let s2 := modTriad s1 t fun x => { x with sigAt := freeCnt s, injAt := freeCnt s }
  (compared s2 t).foldl (fun x p => setLane t p [0x7B1] [(triad s t).entry] x) s2

/-- START: accepted in OFF or HALTED, with a verified image active, outside the safe state and Pilot mode, from a machine-level service hart or the update engine
(R128, R426, R507). -/
def startTriad (r : Req) (t : Nat) (s : State) : State :=
  let from' := match r with
    | .hart _ m => m
    | .engine b _ => b.val == 15
    | _ => false
  let st := tState s t
  if from' && (st == tsOFF || st == tsHALTED) && (triad s t).image && !onF s SYS_MSTAT_MSAFE && !onF s UPD_STAT_PILOT then beginStart t s
  else raiseReq MINOR (sxLoc t 0xFF) (reqCode r) s

/-- `TRIAD_START` (R128). -/
def execTriadStart (r : Req) (t : Fin 4) (s : State) : Host.Outcome State Fault Refusal := .next (startTriad r t s)

/-- Place pool cores into position p until one passes its test (R134). -/
def placeSpares (t p : Nat) (spareFails : List (Fin 14)) : List Nat → State → State × Bool
  | [], s => (s, false)
  | c :: rest, s =>
    if spareFails.any (fun x => x.val == c) then placeSpares t p spareFails rest (raise MAJOR (coreLoc c 0xFF) (setCore s c csQUAR))
    else (setF (setCore s c csLANE) (tmapFld t p) c, true)

/-- The lane each injection point expects (R149). -/
def injLane (point : Nat) : Nat := if point = 0 ∨ point = 3 then 1 else if point = 1 ∨ point = 4 then 2 else 3

/-- The macro that a failed injection point names (R151). -/
def injMacro (point : Nat) : Nat := if point ≤ 2 then 0x02 else if point = 3 then 0x00 else 0x01

/-- `START_SELFTEST_DONE`: `fails` names the mapped positions whose core fails; `inj` is the first injected compare that fails, 0 to 4 in the first sequence and 5 to 9 in the second, with the
lane flagged there (the expected lane with a wrong released record); `spareFails` names the spares that would fail; `checker` is the compare at which the checker
disagrees, with its lane; the earlier of the two decides, and at one compare the checker. A first sequence that passes is counted (R134, R135, R151, R152, R537). -/
def startDone (t : Nat) (fails : BitVec 3) (inj : Option (Fin 10 × Fin 4)) (spareFails : List (Fin 14)) (checker : Option (Fin 10 × Fin 4)) (retire : Nat) (s : State) : State :=
  if tState s t ≠ tsSTART then s
  else
    let failing := (List.range 3).filter fun p => coreAt s t p != 0xF && bit fails.toNat p
    let bad := (List.range 3).filter fun p => coreAt s t p == 0xF || bit fails.toNat p
    let s1 := failing.foldl (fun s' p => raise MAJOR (coreLoc (coreAt s' t p) 0xFF) s') s
    let upTo (q : Nat) (x : State) : State := setF (if 5 ≤ q then incF x (VTC_SXTCNT_COUNT t) else x) (VTC_SXSTAT_LASTPT t) (q % 5)
    let chk := match checker, inj with
      | some (q, _), some (p, _) => decide (q.val ≤ p.val)
      | some _, none => true
      | none, _ => false
    match chk, checker, inj with
    | true, some (q, l), i =>
      let got := match i with
        | some (p, g) => if p = q then g.val else injLane (q.val % 5)
        | none => injLane (q.val % 5)
      checkerDisagree t l.val got 5 0 0 retire (upTo q.val s1)
    | _, _, some (p, g) =>
      let e := injLane (p.val % 5)
      sextantFault t 6 (p.val % 5) e g.val (if g.val = e then 0x03 else injMacro (p.val % 5)) 5 0 0 retire (upTo p.val s1)
    | _, _, none =>
      let s0 := setF (addF s1 (VTC_SXTCNT_COUNT t) 2) (VTC_SXSTAT_LASTPT t) 4
      match bad with
      | [] => enterRun t tsTMR s0
      | [p] =>
        let s2 := if failing.contains p then setF (setCore s0 (coreAt s0 t p) csQUAR) (tmapFld t p) 0xF else s0
        let (s3, placed) := if onL s2 (VTC_TCTRL_SPAREEN t) then placeSpares t p spareFails (spares s2) s2 else (s2, false)
        if placed then enterRun t tsTMR s3
        else raise MAJOR (sxLoc t 0xFF) (enterRun t tsDUPLEX s3)
      | _ => raise VITAL (sxLoc t 0xFF) (safeHalt t 5 s0)

/-- SHALT: a safe halt with HCAUSE 1 in START, TMR, RESYNC, SUBST and DUPLEX; nothing in OFF, HALTED and DEBUG; refused from others than a voted triad and
a machine-level service hart (R129). -/
def shaltTriad (r : Req) (t : Nat) (s : State) : State :=
  if isTriadOrMach r then
    if 1 ≤ tState s t ∧ tState s t ≤ 5 then raise VITAL (sxLoc t 0xFF) (safeHalt t 1 s) else s
  else raiseReq MINOR (sxLoc t 0xFF) (reqCode r) s

/-! ### Recovery (R136–R146) -/

/-- The fenced position, 0 to 2. -/
def fencedPos (s : State) (t : Nat) : Nat := getF s (VTC_TSTAT_FLANE t) - 1

/-- The core of the fenced position has failed: it goes to QUAR and a substitution follows, without the POS test (R134, R142, R537). DESIGN CHOICE: an incoming core that fails in SUBST leaves
its position at once, and no `VTC_TMAPt` shows it until the next switch (notes/assumptions/66.md). -/
def fencedFailed (t : Nat) (s : State) : State :=
  let p := fencedPos s t
  let c := coreAt s t p
  if tState s t = tsSUBST then
    substituteOrDuplex t p (some c) (setF s (tmapFld t p) 0xF)
  else substituteOrDuplex t p (some c) s

/-- `LOGIC_SELFTEST_DONE` (R136 step 2, R142 step 3). -/
def execLogicSelftestDone (t : Fin 4) (pass : Bool) (s : State) : Host.Outcome State Fault Refusal :=
  if (triad s t).phase = .selftest then
    if pass then .next (modTriad s t fun x => { x with phase := .boundary })
    else .next (fencedFailed t (raise MAJOR (coreLoc (coreAt s t (fencedPos s t)) 0xFF) s))
  else .next s

/-- `REJOIN_BOUNDARY`: at the captured boundary, when it is next, the pair stalls once its outstanding voted requests are complete; `regs` are the 101 words of the leading
survivor, which are copied into the fenced core; the other survivor shows the same but for what each lane counts for itself (R116, R136 steps 3–5). -/
def execRejoinBoundary (t : Fin 4) (regs : List Word) (s : State) : Host.Outcome State Fault Refusal :=
  match running s t, firstEvent (triad s t).events with
  | true, some (tag, .boundary) =>
    if (triad s t).phase = .boundary && (triad s t).vreq.isEmpty then
      let s1 := modTriad s t fun x => { x with phase := .copied, events := dropFirst (· == (tag, .boundary)) x.events }
      let v := copyRegs.zip regs
      .next (setLane t (fencedPos s t) copyRegs (regs.map (·.toNat)) (showLanes t v s1))
    else .next s
  | _, _ => .next s

/-- A register of a lane is upset. -/
def flipReg (t : Nat) (s : State) (e : Fin 3 × Fin 92 × Word) : State :=
  let r := sigRegs.getD e.2.1.val 0
  setLane t e.1.val [r] [kget 0 (laneRegs s t e.1.val) r ^^^ e.2.2.toNat] s

/-- `REJOIN_CHECK`: the three signatures after the copy, with the upsets that have met the lanes' registers since (R136 steps 6–8, R139, R152). -/
def execRejoinCheck (t : Fin 4) (upset : List (Fin 3 × Fin 92 × Word)) (checker : Option (Fin 4)) (s : State) : Host.Outcome State Fault Refusal :=
  if (triad s t).phase ≠ .copied then .next s
  else
    let p := fencedPos s t
    let s0 := upset.foldl (flipReg t) s
    let sg (q : Nat) : Nat := laneSignature s0 t q
    let pair := (List.range 3).filter (· != p)
    match checker with
    | some l => .next (checkerDisagree t l.val (decisionLane (decideVote [0, 1, 2] sg)) 4 9 0 (triad s t).lastTag s0)
    | none =>
      if decideVote pair sg ≠ .equal then .next (undecided t 9 0 (triad s t).lastTag s0)
      else if sg p ≠ sg (pair.headD 0) then .next (fencedFailed t s0)
      else
        let core := coreAt s t p
        let s1 := dropLanes t (fun _ => true) (setChecker (setF (setTState (setCore s0 core csLANE) t tsTMR) (VTC_TSTAT_FLANE t) 0) t false)
        .next (raise NOTE (coreLoc core 0xFF) (modTriad s1 t fun x => { x with phase := .none, incoming := none }))

/-- `SUBSTITUTION_SWITCH`: the paths of the position switch to the incoming core, which becomes LANE (R142 step 2). -/
def execSubstitutionSwitch (t : Fin 4) (s : State) : Host.Outcome State Fault Refusal :=
  match (triad s t).phase, (triad s t).incoming with
  | .switching, some c =>
    let p := fencedPos s t
    let s1 := incF (setF (setCore s c csLANE) (tmapFld t p) c) (VTC_RSCNT_SUBS t)
    .next (modTriad s1 t fun x => { x with phase := .selftest, subst := if x.subst.contains p then x.subst else p :: x.subst, resyncs := x.resyncs.filter fun r => r.1 != p })
  | _, _ => .next s

/-- `POOL_SELFTEST`: the next pool core runs the logic self-test; one that has been chosen for a substitution is left out (R143). -/
def execPoolSelftest (pass : Bool) (s : State) : Host.Outcome State Fault Refusal :=
  let cand := match (spares s).filter (s.poolNext ≤ ·) with
    | [] => spares s
    | l => l
  match cand with
  | [] => .next s
  | c :: _ =>
    let s1 := { s with poolNext := c + 1 }
    if pass then .next s1 else .next (raise MINOR (coreLoc c 0xFF) (setCore s1 c csQUAR))

/-- GO of `VTC_XTEST` (R145). -/
def xtestGo (r : Req) (core : Nat) (s : State) : State :=
  let s1 := setF s VTC_XTEST_CORE core
  if isTriadOrMach r && core < 14 && getF s (VTC_CSTAT_CORE core) == csQUAR && !onF s VTC_XTEST_BUSY then
    setF (setCore s1 core csXTEST) VTC_XTEST_BUSY 1
  else setF s1 VTC_XTEST_RESULT 3

/-- `XTEST_GO` (R145). -/
def execXtestGo (r : Req) (core : Fin 16) (s : State) : Host.Outcome State Fault Refusal := .next (xtestGo r core s)

/-- A core has entered the pool: the lowest triad in DUPLEX that allows spares takes it into its empty position (R134, R141). -/
def poolEntered (s : State) : State :=
  match (List.range 4).find? fun t => tState s t == tsDUPLEX && onL s (VTC_TCTRL_SPAREEN t) with
  | none => s
  | some t => match (List.range 3).find? fun p => coreAt s t p == 0xF with
    | some p => substituteOrDuplex t p none s
    | none => s

/-- `XTEST_DONE` (R144, R145). -/
def execXtestDone (pass : Bool) (s : State) : Host.Outcome State Fault Refusal :=
  match (List.range 14).find? fun c => getF s (VTC_CSTAT_CORE c) == csXTEST with
  | none => .next s
  | some c =>
    let s1 := setF s VTC_XTEST_BUSY 0
    if pass then .next (poolEntered (raise NOTE (coreLoc c 0xFF) (setCore (setF s1 VTC_XTEST_RESULT 1) c csPOOL)))
    else .next (raise MAJOR (coreLoc c 0xFF) (setCore (setF s1 VTC_XTEST_RESULT 2) c csFAILED))

/-- Run the points of an injection sequence in order; the first failing one decides (R149–R152). -/
def injPoints (t : Nat) (flagged : List (Fin 4)) (wrong : Option (Fin 5)) (checker : Option (Fin 5 × Fin 4)) (retire : Nat) : Nat → Nat → State → State
  | 0, _, s => setF (incF s (VTC_SXTCNT_COUNT t)) (VTC_SXSTAT_LASTPT t) 4
  | n + 1, p, s =>
    let duplex := tState s t == tsDUPLEX
    let lane := injLane p
    if duplex && coreAt s t (lane - 1) == 0xF then injPoints t flagged wrong checker retire n (p + 1) s
    else
      let got := (flagged.getD p 0).val
      let ok := if duplex then got != 0 else got == lane
      let s1 := setF s (VTC_SXSTAT_LASTPT t) p
      let judge (x : State) : State :=
        if !ok then sextantFault t 6 p lane got (injMacro p) 4 0 0 retire x
        else if wrong.any (fun w => w.val == p) then sextantFault t 6 p lane got 0x03 4 0 0 retire x
        else injPoints t flagged wrong checker retire n (p + 1) x
      match checker with
      | some (q, l) => if q.val = p then checkerDisagree t l.val got 4 0 0 retire s1 else judge s1
      | none => judge s1

/-- The interval of the injection test in ns: 10–1,000 ms, other values taken as 100 (R131, R149). -/
def injPeriod (s : State) (t : Nat) : Nat := orElse (liveF s (VTC_SXCTL_INJMS t)) 10 1000 100 * 1000000

/-- `INJECTION_SEQUENCE`: a sequence that has fallen due runs; `flagged` gives the lane the Sextant flags at each point. While a lane is fenced it is held, and it runs once the triad is
back in TMR or DUPLEX (R138, R148–R151, R159). -/
def execInjectionSequence (t : Fin 4) (flagged : List (Fin 4)) (wrongRelease : Option (Fin 5)) (checker : Option (Fin 5 × Fin 4)) (retire : Nat) (s : State) :
    Host.Outcome State Fault Refusal :=
  let due := decide ((triad s t).injAt + injPeriod s t ≤ freeCnt s)
  let s1 := if due then modTriad s t fun x => { x with injAt := freeCnt s } else s
  if tState s t = tsTMR ∨ tState s t = tsDUPLEX then
    if due || (triad s t).injHeld then .next (injPoints t flagged wrongRelease checker retire 5 0 (modTriad s1 t fun x => { x with injHeld := false }))
    else .next s
  else if (tState s t = tsRESYNC ∨ tState s t = tsSUBST) ∧ due = true then .next (modTriad s1 t fun x => { x with injHeld := true })
  else .next s

end Sys2Proof.Machine
end

