-- ==== Sys2Proof/Machine/Registers.lean ====
section
/-! DEFINITION. Reading registers, the boundary of live fields, interrupt-file and tag writes (R29–R37, R49, R57–R61). -/

namespace Sys2Proof.Machine

/-- An interrupt file address: the page and the offset in it (R57). -/
def fileOf (a : Nat) : Option Nat :=
  let g := a / 0x1000 * 0x1000
  if 0x2080000000 ≤ a ∧ a < 0x2081000000 then
    match filePage ((a - 0x2080000000) / 0x1000) 0 0 with
    | some p => if p = g then some p else none
    | none => none
  else if 0x2081000000 ≤ a ∧ a < 0x2082000000 then filePage ((a - 0x2081000000) / 0x1000) 1 0
  else if 0x2082000000 ≤ a ∧ a < 0x2083000000 then
    filePage ((a - 0x2082000000) / 0x8000) 2 ((a - 0x2082000000) / 0x1000 % 8)
  else none

/-- Some unit answers a read at the address: a register block, the doorbell page of a listed queue, an interrupt file that exists (R27, R49, R57, R65). -/
def answered (a : Nat) : Bool :=
  a < 0x2010000000 || (a < 0x2011000000 && listedQueue ((a - 0x2010000000) / 0x1000)) || (0x2080000000 ≤ a && (fileOf a).isSome)

/-- A read of the register space (R11, R29, R34, R36, R49, R57, R60, R65, R175, R401, R414): of an alias page it is UB-02 and returns a free value;
unlisted offsets of a block read 0; an address that no unit answers is an access fault; RC fields clear; `MER_NOW0` latches. `LOG_CURSOR` and `LOG_WIN` are read under a grant only (R464); VIN and PIN of
`SYS_PWRMON` are measured values, free here (R488; notes/assumptions/1.md). An interrupt file reads 0 (notes/assumptions/54.md). -/
def readRegister (r : Req) (a size : Nat) (s0 : State) : State :=
  if !sizeOk a size || !answered a then deny s0 r (refusal r .load)
  else if !islandAnswers s0 (blkIsland (blkOf a)) && a < 0x2010000000 then deny s0 r (refusal r .load)
  else
    let s := if a < 0x2010000000 then wakeIsland s0 (blkIsland (blkOf a)) else s0
    let cut (v : Nat) : Nat := bits v (accLo a) (8 * size)
    if 0x2010000000 ≤ a ∧ a < 0x2011000000 then
      let Q := (a - 0x2010000000) / 0x1000
      if regOf a % 0x1000 = 0 then answer s r (cut (regValue s (regFields 0 (qBase Q + 0x18)))) else answer s r 0
    else if 0x2011000000 ≤ a then answer s r 0
    else if (aliasTargets s a).isSome then answer (useFree s) r (free s (8 * size))
    else if inTagArea a then answer s r (tagRead s a size)
    else if logGuarded a && !mayCursor s r then deniedLog r .load s
    else if regOf a = 0x2000000328 then
      let x := free s 32
      answer (useFree s) r (cut (putBits (putBits (readValue s r a) 0 16 x) 32 16 (x / 65536)))
    else
      let fs := fieldsAt s a
      let v := readValue s r a
      let s1 := if regOf a = 0x2004000010 then match readerCode r with
          | some c => { s with mer := { s.mer with latches := kput 0 s.mer.latches c (now1 s) } }
          | none => s
        else s
      let s2 := clearRC a size fs s1
      let s3 := if rcSpanned size fs then raise NOTE (blkLoc (blkOf a)) s2 else s2
      answer s3 r (cut v)

/-- `NOW0_READ`: a 64-bit read of `MER_NOW0` (R175). -/
def execNow0Read (r : Req) (s : State) : Host.Outcome State Fault Refusal := .next (readRegister r 0x2004000010 8 s)

/-- The addresses of a channel page or, with no channel, of the whole block. -/
def inBoundary (blk : Nat) (chan : Option Nat) (a : Nat) : Bool :=
  blkOf a == blk && a < 0x2010000000 && match chan with
    | none => true
    | some n => 0x10000 ≤ a % 2 ^ 24 && a % 2 ^ 24 % 0x100000 / 0x1000 == 0x10 + n

/-- The RWL fields written since the last boundary take effect together (R31, R32). -/
def takeLive (blk : Nat) (chan : Option Nat) (s : State) : State :=
  let mine := s.pendL.filter fun p => inBoundary blk chan (p.1 / 64)
  { s with live := mine.foldl (fun m p => kput 0 m p.1 p.2) s.live, pendL := s.pendL.filter fun p => !inBoundary blk chan (p.1 / 64) }

/-- A memory's degradation window ends, and the next one begins at a free-running time: its device counts restart at 0 (R536). -/
def endWindow (mem at' : Nat) (s : State) : State := { s with degCnt := s.degCnt.filter fun p => p.1 / 64 != mem, degAt := kput 0 s.degAt mem at' }

/-- A 4-bit cutoff of the window-table's reading: an entry whose offset is not greater than that of the one before is skipped, and ORDERR is
set (R96). -/
def windowOrder (c : Nat) (s : State) : State :=
  let n := min (liveF s (SVC_WINCTRL_COUNT c)) 32
  if (List.range (n - 1)).any fun k => liveF s (SVC_WIN_OFFSET c (k + 1)) ≤ liveF s (SVC_WIN_OFFSET c k)
  then setF s (SVC_WINCTRL_ORDERR c) 1 else s

/-- The place of a sender in the report of a missing interrupt file (R58). DESIGN CHOICE: a debugger and a scrubber are named by tile 0x75 in island FAB, since the spec
gives a debugger no tile and tile 0x75 no island (notes/assumptions/66.md). -/
def senderLoc : Req → Loc
  | .triad t => ⟨0, 0x1, 0x10 + t.val, 0xFF⟩
  | .hart h _ => ⟨0, 0x2, 0x20 + h.val, 0xFF⟩
  | .engine b _ => blkLoc b.val
  | .bridge => brgLoc 0xFF
  | _ => ⟨0, 0x3, 0x75, 0xFF⟩

/-- `INTERRUPT_WRITE`: a 32-bit identity at offset 0 of an interrupt file becomes pending; a missing file is a MINOR report of the
sender (R57, R58). -/
def execInterruptWrite (r : Req) (addr : Nat) (val : Word) (s : State) : Host.Outcome State Fault Refusal :=
  match fileOf addr with
  | some p => if (hartOf r).isSome && !islandAnswers s (fileIsland p) then .next (deny s r (refusal r .store)) else .next (if addr % 0x1000 = 0 then writeFile s p (val.toNat % 2 ^ 32) else s)
  | none => .next (raiseReq MINOR (senderLoc r) (reqCode r) s)

/-- `TAG_WRITE`: a write to a tag area is stored; one to a tag offset without an area is ignored (R11, R29, R60, R61). -/
def execTagWrite (r : Req) (addr size : Nat) (val : Word) (s : State) : Host.Outcome State Fault Refusal :=
  if !sizeOk addr size then .next (deny s r (refusal r .store))
  else reached (blkIsland (blkOf addr)) r s fun s => .next (if inTagArea addr then tagStore s addr size val else s)

end Sys2Proof.Machine
end

