-- ==== Sys2Proof/Machine/Memory.lean ====
section
/-! DEFINITION. Memory accesses, the word code at work, scrubbing, injection, partitions and time windows (R64–R100, R536). -/

namespace Sys2Proof.Machine

/-- The address lies in the Pilot mode ROM (R64). -/
def inRom (a : Nat) : Bool := 0x3000000000 ≤ a && a < 0x3000100000

/-- The address is one that some unit answers (R64, R65). -/
def mapped (a : Nat) : Bool := inDram a || inNvm a || inIo a || inRom a

/-- Whether a requester may read the codeword at a, by the region table of R81 and the vital regions of R113; the Logbook engine has no queue, and reads a vital region
where service harts may (R454). -/
def mayRead (s : State) (r : Req) (a : Nat) : Bool :=
  let open' : Bool := match r with
    | .hart _ _ => (regionsAt s a 1).all fun k => onF s (VTC_VRGN_SVCRD k)
    | .bridge => (regionsAt s a 1).isEmpty
    | _ => true
  match r with
  | .engine b q =>
    if b.val = 14 then (0x1040000000 ≤ a && a < 0x1068000000) || (inDram a && (regionsAt s a 1).all fun k => onF s (VTC_VRGN_SVCRD k))
    else if b.val = 15 && inNvm a && (a < 0x1040000000 || (0x1068000000 ≤ a && a < 0x1070000000)) then true
    else engineMay s (b.val * 256 + q.val) a 1 false
  | .scrubber => true
  | _ =>
    if inDram a || (0x1070000000 ≤ a && a < 0x1078000000) then open'
    else if inNvm a then
      if a < 0x1040000000 || (0x1068000000 ≤ a && a < 0x1070000000) then (match r with | .bridge => false | _ => true)
      else if 0x1079000000 ≤ a then isMach r
      else false
    else inRom a

/-- Whether a requester may write at a, by R66, R81 and R113. -/
def mayWrite (s : State) (r : Req) (a n : Nat) : Bool :=
  let vital := regionsAt s a n
  match r with
  | .engine b q =>
    if b.val = 14 then (0x1040000000 ≤ a && a + n ≤ 0x1068000000) || (dramSpan a n && vital.isEmpty)
    else if b.val = 15 && (a + n ≤ 0x1040000000 || (0x1068000000 ≤ a && a + n ≤ 0x1070000000)) && inNvm a then true
    else engineMay s (b.val * 256 + q.val) a n true
  | .triad t => (grantable a n) && vital.all fun k => bitF s (VTC_VRGN_OWN k) t
  | .hart _ m => (grantable a n && vital.isEmpty) || (m && 0x1079000000 ≤ a && a + n ≤ 0x1080000000)
  | .debugger => grantable a n && vital.isEmpty
  | .bridge => dramSpan a n && vital.isEmpty
  | .scrubber => true

/-- Kinds that non-volatile memory, ROM and I/O space do not serve (R83, R87, R88). -/
def kindRefused (k : AccKind) (a : Nat) : Option AccFault :=
  match k with
  | .fetch => if inDram a || inRom a then none else some .instr
  | .amo _ => if inDram a then none else some .store
  | .lr => if inDram a then none else if inIo a then some .load else some .store
  | .sc => if inDram a then none else some .store
  | .walk _ => if inDram a then none else some (faultOf k)
  | _ => none

/-- The reservation line of an address: 64 bytes, the line of every cache (R90, R111). -/
def resLine (a : Nat) : Nat := a / 64 + 1

/-- What a requester gets for an uncorrectable or poisoned codeword (R76). -/
def lostAnswer (r : Req) (k : AccKind) : AccFault :=
  match r with
  | .engine _ _ => .statusCode
  | .bridge => .poisonedCompletion
  | _ => faultOf k

/-- Deliver 32 bytes; LR also takes the reservation (R111, R126). -/
def deliver (r : Req) (k : AccKind) (a : Nat) (d : List Byte) (s : State) : State :=
  let s1 := emit s (.bytes r d)
  match k, hartOf r with
  | .lr, some h => { s1 with resv := kput 0 s1.resv h (resLine a) }
  | _, _ => s1

/-- Whether the macro rewrites its copy in place after a correction: DRAM, non-volatile memory, L3 and L2s (R73). -/
def rewrites : MemSrc → Bool
  | .serviceL1 _ _ _ _ => false
  | .laneL1 _ _ _ _ _ _ => false
  | .engineBuf _ _ _ => false
  | _ => true

/-- The physical core of a lane's L1 source, for its tile. -/
def laneCore (s : State) : MemSrc → Nat
  | .laneL1 t l _ _ _ _ => coreAt s t l
  | _ => 0

/-- A unit that stands before another on the way of a requester's access (R71, R90, R106, R111): a read from the farther one shows that the nearer ones have not got the line. -/
def nearer (r : Req) (src : MemSrc) (u : Nat) : Bool :=
  let mine := match r with
    | .triad t => u == 32 + t.val || (laneUnit t 0 true ≤ u && u ≤ laneUnit t 2 false)
    | .hart c _ => u == 48 + c.val || u == 64 + 2 * c.val || u == 65 + 2 * c.val
    | .engine b _ => u == 160 + b.val
    | _ => false
  (mine || (16 ≤ u && u < 32)) && distance u < distance (cacheUnit src)

/-- The macro that a read names is where the codeword comes from: nearer copies have left their caches, memory is not older where the read goes there, and a cache has taken
the line (notes/assumptions/63.md). -/
def reach (r : Req) (src : MemSrc) (cw : Nat) (s : State) : State :=
  let s1 := evict (fun c => c.line == cw / 2 && (nearer r src c.unit || (c.dirty && cacheUnit src == 0))) s
  if cacheUnit src = 0 then s1 else fillLine (reqCode r) src (cw / 2) s1

/-- A lane whose L1 misses takes the line, and counts the miss (R102, R103). -/
def laneMiss (t : Fin 4) (instr : Bool) (line : Nat) (p : Nat) (s : State) : State :=
  let u := laneUnit t p instr
  if (lineAt s u line).isSome then s
  else countEvent t p (if instr then 1 else 2) (fillLine t (.laneL1 t (Fin.ofNat 3 p) (if instr then 3 else 5) (freeSlot s u line) 0 none) line s)

/-- A load or a fetch that a triad's L2, or what is beyond it, has answered fills the line into the L1s of the lanes that run (R102, R112). -/
def fillLanes (r : Req) (k : AccKind) (src : MemSrc) (cw : Nat) (s : State) : State :=
  match r, k with
  | .triad t, .load => if isLaneUnit (cacheUnit src) then s else (compared s t).foldl (fun x p => laneMiss t false (cw / 2) p x) s
  | .triad t, .fetch => if isLaneUnit (cacheUnit src) then s else (compared s t).foldl (fun x p => laneMiss t true (cw / 2) p x) s
  | _, _ => s

/-- What a macro does with a codeword it has corrected: `w` is what it read, `w'` the corrected codeword; with a hard symbol the rewrite does not help. A service-core L1 and an engine's
buffer give the line up; a lane's L1 keeps it until the agreed boundary (R73, R112). -/
def keepCorrected (src : MemSrc) (cw : Nat) (w w' : List Byte) (hard : Bool) (s : State) : State :=
  match src with
  | .laneL1 t l _ _ _ _ => countEvent t l 3 (modTriad (putIn src cw w s) t fun x => { x with due := x.due ++ [.l1corr l (cw / 2)] })
  | .serviceL1 _ _ _ _ => evict (fun c => c.unit == cacheUnit src && c.line == cw / 2) (putIn src cw w' s)
  | .engineBuf _ _ _ => evict (fun c => c.unit == cacheUnit src && c.line == cw / 2) (putIn src cw w' s)
  | _ => putIn src cw (if hard then w else w') s

/-- A codeword read from a macro by a requester that may read it (R69, R71, R73, R75–R77, R112, R122). `upset` is what has happened to its symbols since; `hard`: the symbol is still wrong
on the re-read after the rewrite. -/
def readMacro (r : Req) (k : AccKind) (a : Nat) (src : MemSrc) (upset : List (Fin 36 × Byte)) (hard : Bool) (s0 : State) : State :=
  let cw := cwOf a
  let s := reach r src cw s0
  let w := xorSyms (wordIn s src cw) upset
  let y := syndromes w
  let base := 32 * cw
  match classify y with
  | .clean => deliver r k a (w.take 32) (fillLanes r k src cw (putIn src cw w s))
  | .one sym v =>
    let w' := modAt w sym (· ^^^ BitVec.ofNat 8 v)
    let m := macroOf src base sym (laneCore s src)
    let s1 := keepCorrected src cw w w' hard (recordCorrection s m base (syndWord y) sym v false)
    let s2 := if hard && rewrites src then recordCorrection s1 m base (syndWord y) sym v true else s1
    deliver r k a (w'.take 32) (fillLanes r k src cw s2)
  | v =>
    let m := macroOf src base 0xFF (laneCore s src)
    let s1 := if v = .poisoned then putIn src cw w s else poisonIn src cw (w.take 32) s
    let s2 := recordLost s1 m base (syndWord y) (v == .poisoned) (reqCode r) true
    match src with
    | .laneL1 t l mac _ retire twin => selfOdd t l.val (mac ≤ 4) base retire (twin.map (·.val)) s2
    | _ => deny s2 r (lostAnswer r k)

/-- The length in ns of a memory's degradation window while its scrubber is off: DRH hours, or NVD days (R98, R536). -/
def windowSpan (s : State) (nvm : Bool) : Nat :=
  if nvm then orElse (liveF s MEM_SCRUB_NVD) 1 30 7 * 86400000000000 else orElse (liveF s MEM_SCRUB_DRH) 1 168 24 * 3600000000000

/-- `DEGRADATION_WINDOW_END`: with its scrubber off, the window of a memory ends when its span has passed on the free-running count, and the next one begins there (R536). -/
def execDegradationWindowEnd (nvm : Bool) (s : State) : Host.Outcome State Fault Refusal :=
  let on := if nvm then onL s MEM_SCRUB_NVEN else onL s MEM_SCRUB_DREN
  let stop' := kget 0 s.degAt (b2n nvm) + windowSpan s nvm
  .next (if on || freeCnt s < stop' then s else endWindow (b2n nvm) stop' s)

/-- A store that a requester may not make: the fault, and in a vital region a MINOR report naming it (R113). -/
def refuseWrite (r : Req) (k : AccKind) (a n : Nat) (s : State) : State :=
  let s1 := if !(regionsAt s a n).isEmpty && (match r with | .triad _ => true | .hart _ _ => true | _ => false)
    then raiseReq MINOR (blkLoc 1) (reqCode r) s else s
  deny s1 r (refusal r k)

/-- The scrubber's next position: the following codeword, wrapping at the end of its memory with a pass counted and the degradation window
restarted (R84, R536). -/
def advanceScrub (nvm : Bool) (s : State) : State :=
  if nvm then
    let a := getF s MEM_NVPOS_ADDR + 32
    if a = 0x1080000000 then endWindow 1 (freeCnt s) (incW (setF s MEM_NVPOS_ADDR 0x1000000000) MEM_NVPOS_PASSES) else setF s MEM_NVPOS_ADDR a
  else
    let a := getF s MEM_DRPOS_ADDR + 32
    if a = 0x0800000000 then endWindow 0 (freeCnt s) (incW (setF s MEM_DRPOS_ADDR 0) MEM_DRPOS_PASSES) else setF s MEM_DRPOS_ADDR a

/-- Scrub one codeword of a macro that rewrites in place (R85, R86). DESIGN CHOICE: a poisoned codeword that a cache scrub meets is counted without a new FIFO entry, as R85 says of the two memory
scrubbers (notes/assumptions/66.md). -/
def scrubWord (src : MemSrc) (a : Nat) (upset : List (Fin 36 × Byte)) (hard : Bool) (s : State) : State :=
  let cw := cwOf a
  let w := xorSyms (wordIn s src cw) upset
  let y := syndromes w
  let base := 32 * cw
  match classify y with
  | .clean => putIn src cw w s
  | .one sym v =>
    let w' := modAt w sym (· ^^^ BitVec.ofNat 8 v)
    let m := macroOf src base sym 0
    let s1 := recordCorrection s m base (syndWord y) sym v false
    if hard then recordCorrection (putIn src cw w s1) m base (syndWord y) sym v true else putIn src cw w' s1
  | .poisoned => recordLost (putIn src cw w s) (macroOf src base 0xFF 0) base (syndWord y) true 0x62 false
  | .uncorrectable => recordLost (poisonIn src cw (w.take 32) s) (macroOf src base 0xFF 0) base (syndWord y) false 0x62 true

/-- A scrubber turned on or off ends its memory's degradation window (R536). -/
def memBoundary (s : State) : State :=
  let t := takeLive 3 none s
  let t1 := if onL s MEM_SCRUB_DREN = onL t MEM_SCRUB_DREN then t else endWindow 0 (freeCnt s) t
  if onL s MEM_SCRUB_NVEN = onL t MEM_SCRUB_NVEN then t1 else endWindow 1 (freeCnt s) t1

/-- `SCRUB_STEP`: the boundary of the MEM block's live fields, then the read, the rewrite and the re-read of one codeword, one step (R84, R85, R98). -/
def execScrubStep (nvm : Bool) (upset : List (Fin 36 × Byte)) (hard : Bool) (s0 : State) : Host.Outcome State Fault Refusal :=
  let s := memBoundary s0
  let on := if nvm then onL s MEM_SCRUB_NVEN else onL s MEM_SCRUB_DREN
  if !on then .next s
  else
    let a := if nvm then getF s MEM_NVPOS_ADDR else getF s MEM_DRPOS_ADDR
    .next (advanceScrub nvm (scrubWord (if nvm then .nvm else .dram) a upset hard s))

/-- `CACHE_SCRUB`: a codeword of an L3 slice, a triad L2 or a service-core L2, where the cache holds its line (R86). -/
def execCacheScrub (src : MemSrc) (addr : Nat) (upset : List (Fin 36 × Byte)) (hard : Bool) (s : State) : Host.Outcome State Fault Refusal :=
  let held := (lineAt s (cacheUnit src) (cwOf addr / 2)).isSome
  match src with
  | .l3 _ _ _ => .next (if held then scrubWord src addr upset hard s else s)
  | .triadL2 _ _ _ => .next (if held then scrubWord src addr upset hard s else s)
  | .serviceL2 _ _ _ => .next (if held then scrubWord src addr upset hard s else s)
  | _ => .next s

/-- A write of `MEM_INJ` with ARM set is ignored where ADDR lies in a vital region, unless it comes voted (R99). -/
def injRefused (r : Req) (addr : Nat) (s : State) : Bool := !isTriad r && !(regionsAt s (32 * cwOf addr) 32).isEmpty

/-- The MINOR report of an ignored write of `MEM_INJ` (R99). -/
def refuseInjection (r : Req) (s : State) : State := raiseReq MINOR (blkLoc 3) (reqCode r) s

/-- A write of `MEM_INJ` with ARM set (R99). -/
def armInjection (r : Req) (addr a b ben val : Nat) (s : State) : State :=
  let s1 := setF (setF (setF (setF (setF s MEM_INJ_ADDR addr) MEM_INJ_SYMA a) MEM_INJ_SYMB b) MEM_INJ_BEN ben) MEM_INJ_VAL val
  if injRefused r addr s then refuseInjection r s else setF s1 MEM_INJ_ARM 1

/-- `INJECT_ARM` (R99). -/
def execInjectArm (r : Req) (addr : Nat) (syma symb : Fin 64) (ben : Bool) (val : Byte) (s : State) : Host.Outcome State Fault Refusal :=
  .next (armInjection r addr syma symb (b2n ben) val.toNat s)

/-- `PARTITION_RESTART` (R94). -/
def execPartitionRestart (r : Req) (p : Fin 64) (s : State) : Host.Outcome State Fault Refusal := reached 2 r s fun s => .next (bumpPartition p s)

/-- A write of CORES: while the partition is enabled it increments the epoch (R94). -/
def writeCores (p cores : Nat) (s : State) : State :=
  let s1 := setF s (SVC_PCTRL_CORES p) cores
  if onF s (SVC_PCTRL_EN p) then bumpPartition p s1 else s1

/-- `PARTITION_CORES_WRITE` (R94). -/
def execPartitionCoresWrite (r : Req) (p : Fin 64) (cores : BitVec 16) (s : State) : Host.Outcome State Fault Refusal :=
  reached 2 r s fun s =>
  .next (writeCores p cores.toNat s)

/-- Entry k of core c's window table is in use: below COUNT, below the cycle length, and above the offset of the entry before it (R96). -/
def windowUsed (s : State) (c k : Nat) : Bool :=
  k < min (liveF s (SVC_WINCTRL_COUNT c)) 32 && liveF s (SVC_WIN_OFFSET c k) < s.mer.cycLen
    && (k == 0 || liveF s (SVC_WIN_OFFSET c (k - 1)) < liveF s (SVC_WIN_OFFSET c k))

/-- `WINDOW_INTERRUPT`: entry k's offset is reached; `acked` says that the core has taken its previous window interrupt (R95–R97). -/
def execWindowInterrupt (c : Fin 16) (k : Fin 32) (acked : Bool) (s : State) : Host.Outcome State Fault Refusal :=
  onIsland 2 s fun s =>
  if !windowUsed s c k then .next s
  else
    let idle := liveF s (SVC_WIN_IDLE c k)
    let s1 := setF (setF (setF s (SVC_WINCUR_ENTRY c) k) (SVC_WINCUR_PART c) (liveF s (SVC_WIN_PART c k))) (SVC_WINCUR_IDLE c) idle
    let eiid := liveF s (SVC_WINCTRL_EIID c)
    if eiid = 0 then .next s1
    else
      let level := liveF s (SVC_WINCTRL_LEVEL c)
      let page := (filePage (16 + c) level 0).getD 0
      if isPending s page eiid && !acked then .next (incF s1 (SVC_WINLATE_COUNT c))
      else .next (sendMsi ⟨0, 0x2, 0x20 + c.val, 0xFF⟩ eiid (16 + c) level 0 s1)

end Sys2Proof.Machine
end

