-- ==== Sys2Proof/Machine/Meridian.lean ====
section
/-! DEFINITION. Meridian: the time value, sources and time states, steps and slews, the cycle timer, cycle points and alarms (R160–R181). -/

namespace Sys2Proof.Machine

/-- Change Meridian's own state. -/
def modMer (s : State) (f : Mer → Mer) : State := { s with mer := f s.mer }

/-- RATE in force, signed, in units of 2⁻³² ns per MER cycle (R161). -/
def rate (s : State) : Int := sgn 32 (getF s MER_RATE_RATE)

/-- The limit of RATE: 858,993, which is 200 ppm (R161). -/
def rateLimit : Nat := 858993

/-- Set RATE, limited; CLAMP tells that a request was limited (R161). -/
def setRate (z : Int) (s : State) : State :=
  let c := clampInt rateLimit z
  let s1 := setF s MER_RATE_RATE (ofInt 32 c)
  if c = z then s1 else evtMer MER_EVT_CLAMP s1

/-- The extra rate of a slew, 100 ppm in RATE's unit (R170). DESIGN CHOICE: 100 ppm is 429,496.7296 units, and the fraction is dropped (notes/assumptions/66.md). -/
def slewRate : Nat := 429496

/-- The amount a slew absorbs in one MER cycle. -/
def slewPart (left : Int) : Int := clampInt slewRate left

/-- Whole seconds left before LOST, rounded up, while in DR (R181). -/
def drLim (s : State) : Nat := orElse (liveF s MER_CTRL_DRLIM) 1 3600 120

/-- The time since SYNC was lost, in ns of the free-running count (R168). -/
def drTime (s : State) : Nat := freeCnt s - s.mer.drStart

/-- DRLEFT shows the whole seconds left in DR, and 0 otherwise. -/
def showDr (s : State) : State :=
  if getF s MER_STAT_STATE = 2 then setF s MER_STAT_DRLEFT ((drLim s * 1000000000 - drTime s) / 1000000000) else setF s MER_STAT_DRLEFT 0

/-- Enter a time state: STCHG and a report, NOTE for SYNC and DR, MINOR for LOST (R169). -/
def setTime (v : Nat) (s : State) : State :=
  if getF s MER_STAT_STATE = v then s
  else
    let s1 := modMer (setF s MER_STAT_STATE v) fun m => { m with was := (getF s MER_STAT_STATE, nowNs s, nowNs s) :: m.was }
    let s2 := if v = 1 then setF s1 MER_STAT_EVSYNC 1 else s1
    raise (if v = 3 then MINOR else NOTE) (merLoc 0xFF) (evtMer MER_EVT_STCHG (showDr s2))

/-- Send cycle point k's identity (R179). -/
def sendPoint (k : Nat) (s : State) : State :=
  sendMsi (merLoc 0x03) (liveF s (MER_CP_EIID k)) (liveF s (MER_CP_HART k)) (liveF s (MER_CP_LEVEL k)) (liveF s (MER_CP_GUEST k)) s

/-- Cycle point k is enabled and its offset lies below the cycle length (R179). -/
def pointUsed (s : State) (k : Nat) : Bool := onL s (MER_CP_EN k) && liveF s (MER_CP_OFFSET k) < s.mer.cycLen

/-! ### The copies of state blocks that a cycle point starts (R438) -/

/-- Change the pair unit's own state. -/
def modPrl (s : State) (f : Prl → Prl) : State := { s with prl := f s.prl }

def roleOFF : Nat := 0
def roleLISTEN : Nat := 1
def rolePRIMARY : Nat := 2
def roleSTANDBY : Nat := 3

/-- The pair role. -/
def role (s : State) : Nat := getF s PRL_STAT_ROLE

/-- State block b is enabled and not void (R447). -/
def blkUsed (s : State) (b : Nat) : Bool := onF s (PRL_BLK_0_EN b) && getF s (PRL_BLK_0_LEN b) != 0

/-- An access of a block as by a queue of its owner (R113, R438). -/
def blockMay (s : State) (b a n : Nat) (wr : Bool) : Bool :=
  let o := getF s (PRL_BLK_0_OWNER b)
  let vital := regionsAt s a n
  dramSpan a n && (vital.isEmpty || (decide (o < 4) && (!wr || vital.all fun k => bitF s (VTC_VRGN_OWN k) o)))

/-- Source, destination and length of block b. -/
def blkSrc (s : State) (b : Nat) : Nat := alignDown (getF s (PRL_BLK_1_SRC b)) 64
def blkDst (s : State) (b : Nat) : Nat := alignDown (getF s (PRL_BLK_2_DST b)) (2 ^ 20)
def blkLen (s : State) (b : Nat) : Nat := 64 * min 16384 (getF s (PRL_BLK_0_LEN b))

/-- The copy of block b in progress on the PRIMARY. -/
def blkTx (s : State) (b : Nat) : Option BlkTx := kget none s.prl.tx b

/-- Set it; BUSY follows. -/
def setTx (b : Nat) (x : Option BlkTx) (s : State) : State := setB (modPrl s fun p => { p with tx := kput none p.tx b x }) (PRL_BLK_3_BUSY b) x.isSome

/-- A copy of block b starts, is skipped, or is refused (R438). -/
def startCopy (b : Nat) (s : State) : State :=
  if (blkTx s b).isSome then incF s PRL_CNT1_BLKSKIP
  else if !blockMay s b (blkSrc s b) (blkLen s b) false then setF s (PRL_BLK_3_ERR b) 1
  else setTx b (some ⟨0, s.rhl.cycle % 2 ^ 32⟩) s

/-- The copies of cycle point k start, on a PRIMARY whose partner is present (R436, R438). -/
def startCopies (k : Nat) (s : State) : State :=
  if !clocked s 6 || role s != rolePRIMARY || !onF s PRL_STAT_PARTNER then s
  else forN (fun b u => if blkUsed u b && getF u (PRL_BLK_0_CP b) == k then startCopy b u else u) 0 64 s

/-! ### The cycle timer (R177–R179) -/

/-- Cycle point k fires (R178, R179, R438). -/
def firePoint (k : Nat) (s : State) : State := startCopies k (sendPoint k (modMer s fun m => { m with fired := k :: m.fired }))

/-- The place of cycle point k in the order of firing: by offset, then by index (R179). -/
def pointKey (s : State) (k : Nat) : Nat := liveF s (MER_CP_OFFSET k) * 16 + k

/-- Insert into a rising list. -/
def insertNat (x : Nat) : List Nat → List Nat
  | [] => [x]
  | y :: r => if x ≤ y then x :: y :: r else y :: insertNat x r

/-- The places of the used points that have not fired in this cycle, up to `lim`, in order. -/
def pointsDue (lim : Nat) (s : State) : List Nat :=
  (((List.range 16).filter fun k => pointUsed s k && !s.mer.fired.contains k && decide (pointKey s k ≤ lim)).map (pointKey s)).foldr insertNat []

/-- Fire them: each is reached no later than the one at `lim` (R179). -/
def firePoints (lim : Nat) (s : State) : State := (pointsDue lim s).foldl (fun t x => firePoint (x % 16) t) s

/-- Enter a new cycle at an offset in units of 2⁻³² ns: CYCLES counts it, and nothing has fired or been reported once in it yet (R56, R178, R181). -/
def enterCycle (off : Nat) (s : State) : State :=
  let s1 := modMer s fun m => { m with cycBase := (m.t + timeMod - off % timeMod) % timeMod, fired := [] }
  incW { s1 with onceCycle := [] } MER_CYCPOS_CYCLES

/-- End the current cycle: its enabled points that have not fired are dropped, each counted in SKIP; the new cycle is entered at `off`, and its points
below that offset fire at once in index order, each counted in LATE (R178). DESIGN CHOICE: the spec does not say whether a cycle entered so is a cycle start at which live fields take
effect; none does here (notes/assumptions/66.md). -/
def endCycleAt (off : Nat) (s : State) : State :=
  let dropped := (List.range 16).filter fun k => pointUsed s k && !s.mer.fired.contains k
  let s1 := enterCycle off (addF s MER_CPCNT_SKIP dropped.length)
  let late := (List.range 16).filter fun k => pointUsed s1 k && decide (liveF s1 (MER_CP_OFFSET k) * nsU < off)
  late.foldl (fun s' k => incF (firePoint k s') MER_CPCNT_LATE) s1

/-- The offset of the time value within the cycle grid, in units of 2⁻³² ns (R178). -/
def gridOffset (s : State) : Nat := (((s.mer.t : Int) - s.mer.gridOrg) % (max 1 s.mer.cycLen * nsU : Nat)).toNat

/-- The instant of alarm k in ns (R181). -/
def alarmNs (s : State) (k : Nat) : Nat :=
  (getF s (MER_ALMC_SECHI k) * 2 ^ 32 + getF s (MER_ALMT_SECLO k)) * 1000000000 + getF s (MER_ALMT_NS k)

/-- Alarm k fires: its identity is sent, ARM clears, FIRED is set, and LATE where its instant has been passed over (R180). -/
def fireAlarm (k : Nat) (late : Bool) (s : State) : State :=
  let s1 := setF (setF s (MER_ALMC_ARM k) 0) (MER_ALMC_FIRED k) 1
  let s2 := if late then setF s1 (MER_ALMC_LATE k) 1 else s1
  sendMsi (merLoc 0x03) (getF s (MER_ALMC_EIID k)) (getF s (MER_ALMC_HART k)) (getF s (MER_ALMC_LEVEL k)) (getF s (MER_ALMC_GUEST k)) s2

/-- A forward step past an armed alarm's instant fires the alarm at the step, late (R180). -/
def stepAlarms (before : Nat) (s : State) : State :=
  (List.range 8).foldl (fun s' k =>
    if onF s' (MER_ALMC_ARM k) && decide (before < alarmNs s' k) && decide (alarmNs s' k < nowNs s') then fireAlarm k true s' else s') s

/-- Move the time value by `z` units of 2⁻³² ns beside its counting; the sources' offsets against it change by as much. -/
def shiftTime (z : Int) (s : State) : State :=
  modMer s fun m => { m with t := (((m.t : Int) + z) % (timeMod : Int)).toNat, offs := m.offs.map (· - z) }

/-- A step by `amt` units of 2⁻³² ns with its cause: the time value changes, STEPCNT, LASTSTEP with the whole nanoseconds of the amount and the STEP event follow, a NOTE is
raised, alarms passed fire, and the current cycle ends (R171, R178, R180). -/
def timeStep (amt : Int) (cause : Nat) (s : State) : State :=
  let s1 := shiftTime amt s
  let mag := amt.natAbs / nsU
  let s2 := setF (setF (setF (setF s1 MER_LASTSTEP_NS (mag % 1000000000)) MER_LASTSTEP_CAUSE cause)
    MER_LASTSTEP_SEC (min (mag / 1000000000) (2 ^ 31 - 1))) MER_LASTSTEP_NEG (b2n (amt < 0))
  let s3 := modMer (raise NOTE (merLoc 0x00) (evtMer MER_EVT_STEP (incW s2 MER_STEPCNT_COUNT))) fun m =>
    { m with was := (getF s MER_STAT_STATE, nowNs s, nowNs s1) :: m.was }
  endCycleAt (gridOffset s3) (stepAlarms (nowNs s) s3)

/-- A slew is abandoned or has nothing to absorb (R170). -/
def noSlew (s : State) : State := setF (modMer s fun m => { m with slewLeft := 0 }) MER_STAT_SLEW 0

/-- Start a slew by `amt` units of 2⁻³² ns (R170). -/
def startSlew (amt : Int) (s : State) : State :=
  if amt = 0 then noSlew s else setF (modMer s fun m => { m with slewLeft := amt }) MER_STAT_SLEW 1

/-- The first listed source that is qualified; a code listed twice counts in its first place, and codes outside 1–3 are empty (R167). -/
def chooseSource (s : State) : Nat :=
  let l := [liveF s MER_CTRL_SRC0, liveF s MER_CTRL_SRC1, liveF s MER_CTRL_SRC2]
  (l.find? fun c => 1 ≤ c && c ≤ 3 && bitF s MER_STAT_QUAL (c - 1)).getD 0

/-- The offset of a source against Meridian, in units of 2⁻³² ns. -/
def offsetOf (s : State) (src : Nat) : Int := s.mer.offs.getD (src - 1) 0

/-- An offset that is slewed: SLEWMAX is in µs, and 0 means that every offset is stepped (R168, R181). -/
def slewable (s : State) (off : Int) : Bool := 0 < liveF s MER_CTRL_SLEWMAX && off.natAbs ≤ liveF s MER_CTRL_SLEWMAX * 1000 * nsU

/-- A source becomes active at the end of a MER cycle: from FREE or LOST always a step with cause 0, else a slew within SLEWMAX or a step with cause 1, which leaves no slew
behind (R168, R170). -/
def becomeActive (src : Nat) (s : State) : State :=
  let off := offsetOf s src
  let st := getF s MER_STAT_STATE
  if st = 0 ∨ st = 3 then setTime 1 (timeStep off 0 s)
  else setTime 1 (if slewable s off then startSlew off s else timeStep off 1 (noSlew s))

/-- SYNC is lost: the last RATE is kept and the DR time starts (R168). DESIGN CHOICE: the spec does not say what becomes of a slew in progress; what is left of it is abandoned
(notes/assumptions/66.md). -/
def loseSync (s : State) : State :=
  if getF s MER_STAT_STATE = 1 then setTime 2 (noSlew (modMer s fun m => { m with drStart := freeCnt s })) else s

/-- What has been decided takes place. -/
def merAct (a : MerAct) (s : State) : State :=
  match a with
  | .source src => becomeActive src s
  | .soft amt => timeStep amt 2 s
  | .lose => loseSync s

/-- A decision that steps the time waits for the end of the MER cycle, and what is decided after it waits behind it (R171). -/
def decideMer (a : MerAct) (s : State) : State :=
  let st := getF s MER_STAT_STATE
  let atOnce : Bool := match a with
    | .source src => (st == 1 || st == 2) && slewable s (offsetOf s src)
    | .soft _ => false
    | .lose => true
  if s.mer.due.isEmpty && atOnce then merAct a s else modMer s fun m => { m with due := m.due ++ [a] }

/-- Re-evaluate the active source (R167, R168). -/
def evalSources (s : State) : State :=
  let c := chooseSource s
  if c = getF s MER_STAT_SRC then s
  else decideMer (if c = 0 then .lose else .source c) (setF s MER_STAT_SRC c)

/-- A source reports its offset against Meridian, in units of 2⁻³² ns. -/
def reportOffset (src : Nat) (off : Int) (s : State) : State := modMer s fun m => { m with offs := modAt m.offs (src - 1) fun _ => off }

/-- Whole nanoseconds of a value in units of 1/k ns; how what is left is rounded is open (R269, R446; notes/assumptions/27.md). -/
def wholeNs (k z : Int) : Int := z / k + (if z % k ≠ 0 && Config.roundUp z then 1 else 0)

/-- A source qualifies with an offset against Meridian (R167, R168). -/
def qualify (src : Nat) (off : Int) (s : State) : State := evalSources (setFBit (reportOffset src off s) MER_STAT_QUAL (src - 1) true)

/-- A source is disqualified (R167, R168). -/
def disqualify (src : Nat) (s : State) : State := evalSources (setFBit s MER_STAT_QUAL (src - 1) false)

/-- What a source's own chapter says of its qualification: Rhumbline while it is in SYNC, the backbone and the pair partner after 8 good offsets in a row and while QUAL is 1
(R210, R269, R446). -/
def mayQualify (s : State) (src : Nat) : Bool :=
  if src = 1 then getF s RHL_STAT_STATE == 4
  else if src = 2 then onF s BKB_ASSTAT_QUAL || 8 ≤ s.bkb.good
  else src == 3 && (onF s PRL_TSYNC_QUAL
    || (isStandby s && getF s PRL_PSTAT_ROLE == rolePRIMARY && getF s PRL_PSTAT_TSTATE == 1 && onF s PRL_STAT_PARTNER && 8 ≤ s.prl.good))

/-- `SOURCE_QUALIFIED`: source code 1 to 3 with its offset in 1/64 ns, where the source's chapter qualifies it (R167, R168, R173). -/
def execSourceQualified (src : Fin 4) (offset : Int) (s : State) : Host.Outcome State Fault Refusal :=
  .next (if mayQualify s src.val then qualify src.val (offset * 2 ^ 26) s else s)

/-- `SOURCE_DISQUALIFIED`: where the source's chapter no longer qualifies it (R167, R168). -/
def execSourceDisqualified (src : Fin 4) (s : State) : Host.Outcome State Fault Refusal :=
  .next (if src.val = 0 ∨ mayQualify s src.val = true then s else disqualify src.val s)

/-- DR becomes LOST: the last RATE is kept (R168). -/
def drExpire (s : State) : State := if getF s MER_STAT_STATE = 2 then setTime 3 s else s

/-- The DR time has reached DRLIM (R168). -/
def drOver (s : State) : Bool := getF s MER_STAT_STATE = 2 && decide (drLim s * 1000000000 ≤ drTime s)

/-- `DR_LIMIT_EXPIRY` (R168). -/
def execDrLimitExpiry (s : State) : Host.Outcome State Fault Refusal := .next (if drOver s then drExpire s else s)

/-- `SLEW_DONE`: the offset has been absorbed, and SLEW clears; an offset that is not absorbed yet goes on (R170). -/
def execSlewDone (s : State) : Host.Outcome State Fault Refusal := .next (if s.mer.slewLeft = 0 then setF s MER_STAT_SLEW 0 else s)

/-- A write to `MER_STEP` by time state (R172). In SYNC with Rhumbline synchronisation enabled it is UB-11: STEPCNT and LASTSTEP take free values, and a step by a free amount is decided
(R62; notes/assumptions/14.md). -/
def merStep (v : Nat) (s : State) : State :=
  let ns := bits v 0 30
  let st := getF s MER_STAT_STATE
  let mag : Int := (bits v 32 31 * 1000000000 + ns : Nat)
  if 999999999 < ns ∨ st = 0 then evtMer MER_EVT_STEPREF s
  else if st = 1 then
    if onF s RHL_CTRL_EN then
      let s1 := setFree (setFree (setFree (setFree (setFree s MER_STEPCNT_COUNT) MER_LASTSTEP_NS) MER_LASTSTEP_CAUSE) MER_LASTSTEP_SEC) MER_LASTSTEP_NEG
      decideMer (.soft (sgn 64 (free s1 64) * nsU)) (useFree s1)
    else evtMer MER_EVT_STEPREF s
  else decideMer (.soft ((if bit v 63 then -mag else mag) * nsU)) s

/-- `MER_STEP_WRITE` (R172). -/
def execMerStepWrite (_r : Req) (val : Word) (s : State) : Host.Outcome State Fault Refusal := .next (merStep val.toNat s)

/-- The current cycle is over: the cycle timer has reached its length (R177). -/
def cycleOver (s : State) : Bool := decide (s.mer.cycLen ≤ cycOffset s)

/-- The points of the cycle that ends have all been reached; those that have not fired yet fire before it is over (R178, R179). -/
def endPoints (s : State) : State := firePoints (16 * s.mer.cycLen) s

/-- The next cycle of the cycle timer starts, one cycle length after the last: the correction of its SYNCPT begins with what is still
left of the one before, per-cycle report flags clear, and the window tables are read again (R56, R96, R177, R179, R208). -/
def merCycleStart (s : State) : State :=
  let s1 := modMer s fun m => { m with corr := m.corr + s.rhl.corrNext * 2 ^ 26, corrLeft := m.cycLen }
  forN windowOrder 0 16 { enterCycle ((s.mer.t + timeMod - s.mer.cycBase) % timeMod - s.mer.cycLen * nsU) s1 with rhl := { s1.rhl with corrNext := 0 } }

/-- `CYCLE_POINT_FIRE` (R179, R438): a used point whose offset is reached fires once in a cycle, and those that come before it have fired. -/
def execCyclePointFire (k : Fin 16) (s : State) : Host.Outcome State Fault Refusal :=
  .next (if pointUsed s k.val && !s.mer.fired.contains k.val && decide (liveF s (MER_CP_OFFSET k.val) ≤ cycOffset s) then firePoints (pointKey s k.val) s else s)

/-- `ALARM_FIRE`: an armed alarm whose instant is reached fires once (R180). -/
def execAlarmFire (k : Fin 8) (s : State) : Host.Outcome State Fault Refusal :=
  .next (if onF s (MER_ALMC_ARM k) && decide (alarmNs s k ≤ nowNs s) then fireAlarm k false s else s)

/-- A write of ALMCk with its fields; ARM = 1 with an instant already passed fires at once, late (R180, R181). -/
def writeAlarm (k : Nat) (v : Nat) (s : State) : State :=
  let s1 := setF (setF (setF (setF (setF s (MER_ALMC_SECHI k) (bits v 0 16)) (MER_ALMC_EIID k) (bits v 24 8)) (MER_ALMC_HART k) (bits v 32 5))
    (MER_ALMC_LEVEL k) (bits v 40 2)) (MER_ALMC_GUEST k) (bits v 44 3)
  let s2 := if bit v 17 then setF s1 (MER_ALMC_FIRED k) 0 else s1
  let s3 := setF (if bit v 18 then setF s2 (MER_ALMC_LATE k) 0 else s2) (MER_ALMC_ARM k) (bits v 16 1)
  if bit v 16 && decide (alarmNs s3 k < nowNs s3) then fireAlarm k true s3 else s3

/-- `ALARM_ARM` (R180). -/
def execAlarmArm (_r : Req) (k : Fin 8) (val : Word) (s : State) : Host.Outcome State Fault Refusal := .next (writeAlarm k val.toNat s)

/-- The part of a correction that one MER cycle takes: equal parts over the MER cycles left (R208, R269). -/
def corrPart (c : Int) (left : Nat) : Int := if left ≤ 1 then c else c / (left : Int)

/-- One MER cycle: the free-running count, the time value with RATE, slew and Rhumbline's correction, what has been decided in it, and DRLEFT (R160–R162, R170, R171, R208). -/
def merTick (s : State) : State :=
  let p := slewPart s.mer.slewLeft
  let q := corrPart s.mer.corr s.mer.corrLeft
  let q2 := corrPart s.mer.corr2 s.mer.corr2Left
  let s1 := setF s MER_FREECNT_COUNT (freeCnt s + 1)
  let s2 := modMer s1 fun m =>
    { m with t := (((m.t : Int) + nsU + rate s + p + q + q2) % (timeMod : Int)).toNat, offs := m.offs.map (· - (p + q + q2)), slewLeft := m.slewLeft - p, corr := m.corr - q, corrLeft := m.corrLeft - 1, corr2 := m.corr2 - q2, corr2Left := m.corr2Left - 1, due := [] }
  showDr (s.mer.due.foldl (fun x a => merAct a x) s2)

/-- What a boundary of the MER block brings beside its live fields: the source list is re-evaluated, and a DR episode older than the new limit ends
(R167, R168). -/
def merBoundary (s : State) : State :=
  let s1 := evalSources s
  if drOver s1 then drExpire s1 else showDr s1

end Sys2Proof.Machine
end

