-- ==== Sys2Proof/Machine/Rhumbline.lean ====
section
/-! DEFINITION. Rhumbline: the star and its guardian, schedules, clock synchronisation, start-up, cold start and integration (R182–R200, R206–R216). -/

namespace Sys2Proof.Machine

/-- Change the star's own state. -/
def modRhl (s : State) (f : Rhl → Rhl) : State := { s with rhl := f s.rhl }

/-! ### Frames (R187, R188) -/

def fEtype (f : List Byte) : Nat := beAt f 12 2
def fVer (f : List Byte) : Nat := leAt f 14 1 % 16
def fType (f : List Byte) : Nat := leAt f 14 1 / 16
def fSync (f : List Byte) : Bool := bit (leAt f 15 1) 0
def fId (f : List Byte) : Nat := leAt f 16 2
def fCycle (f : List Byte) : Nat := leAt f 18 4
def fEpoch (f : List Byte) : Nat := leAt f 22 2
def fPlen (f : List Byte) : Nat := leAt f 26 2
/-- CNS with the two bits above it, and CSEC. -/
def fCns (f : List Byte) : Nat := leAt f 28 4
def fCsec (f : List Byte) : Nat := leAt f 32 6
/-- The network time a frame carries, in ns. -/
def fNet (f : List Byte) : Nat := leAt f 32 6 * 1000000000 + leAt f 28 4 % 2 ^ 30

/-- The FCS of a frame is good. -/
def fcsGood (f : List Byte) : Bool := decide (4 ≤ f.length) && leAt f (f.length - 4) 4 == crc32 (f.take (f.length - 4))

/-- A frame with its FCS. -/
def withFcs (f : List Byte) : List Byte := f ++ toLE 4 (crc32 f)

/-- A Rhumbline frame of the own node: addresses and node number are the model's free bytes (R187, R188; notes/assumptions/1.md). -/
def rhlFrame (type fid cycle epoch net : Nat) (sync : Bool) (payload : List Byte) : List Byte :=
  let h := (List.range 12).map (Config.freeByte 7) ++ [0x88, 0xB5] ++ [BitVec.ofNat 8 (1 + 16 * type), BitVec.ofNat 8 (b2n sync)] ++ toLE 2 fid
    ++ toLE 4 cycle ++ toLE 2 epoch ++ [Config.freeByte 7 12, 0] ++ toLE 2 payload.length ++ toLE 4 (net % 1000000000)
    ++ toLE 6 (net / 1000000000) ++ toLE 4 0 ++ payload
  withFcs (h ++ List.replicate (60 - h.length) 0)

/-! ### Schedules (R189–R193) -/

/-- A schedule buffer. -/
def schedBuf (s : State) (b : Nat) : Option Sched := if b = 0 then s.rhl.buf0 else s.rhl.buf1

/-- Set a schedule buffer. -/
def setSchedBuf (s : State) (b : Nat) (x : Option Sched) : State :=
  modRhl s fun r => if b = 0 then { r with buf0 := x } else { r with buf1 := x }

/-- The active schedule. -/
def sched (s : State) : Option Sched := match s.rhl.active with
  | some b => schedBuf s b
  | none => none

/-- The entries of the active schedule. -/
def entries (s : State) : List SEntry := match sched s with
  | some c => c.entries
  | none => []

/-- The shadow buffer (R192). -/
def shadowBuf (s : State) : Nat := match s.rhl.active with
  | some b => 1 - b
  | none => s.rhl.lastPass

/-- The window half-width W = Π + 80 ns (R195). -/
def winW (c : Sched) : Nat := c.pi + 80

/-- W of the active schedule. -/
def winOf (s : State) : Nat := match sched s with
  | some c => winW c
  | none => 0

/-- SYNC and COLDSTART and MAPV of an entry (R191). -/
def eSync (e : SEntry) : Bool := bit e.flags 0
def eCold (e : SEntry) : Bool := bit e.flags 1
def eMapv (e : SEntry) : Bool := bit e.flags 2

/-- The region that a schedule image may lie in: DRAM or the configuration region (R192). -/
def imageRegion (a : Nat) : Option (Nat × Nat) :=
  if a < 0x0800000000 then some (0, 0x0800000000) else if 0x1068000000 ≤ a ∧ a < 0x1070000000 then some (0x1068000000, 0x1070000000) else none

/-- The entry in 16 bytes (R191). -/
def parseEntry (d : List Byte) : SEntry :=
  { offset := leAt d 0 4 % 2 ^ 27, frameid := leAt d 4 2, inport := leAt d 6 1 % 32, flags := leAt d 7 1 % 8, outmask := leAt d 8 3 % 2 ^ 18, maxlen := leAt d 12 2, mapid := leAt d 14 2 }

/-- A reserved bit of an entry is set, or INPORT is above 17 (check 6). -/
def entryBad (d : List Byte) : Bool :=
  leAt d 0 4 / 2 ^ 27 != 0 || leAt d 6 1 / 32 != 0 || leAt d 7 1 / 8 != 0 || leAt d 8 3 / 2 ^ 18 != 0 || leAt d 11 1 != 0
    || 17 < leAt d 6 1 % 32

/-- Checks 4 to 11 on an entry against those before it (newest first): the number of the first that fails (R192). -/
def checkEntry (units pi : Nat) (before : List SEntry) (d : List Byte) : Option Nat :=
  let e := parseEntry d
  let w := pi + 80
  if e.offset < w ∨ units * 125000 ≤ e.offset + w then some 4
  else if before.head?.any (fun p => decide (e.offset < p.offset)) then some 5
  else if entryBad d then some 6
  else if 2048 ≤ (before.filter fun p => p.inport == e.inport).length then some 7
  else if e.maxlen < 64 ∨ 1518 < e.maxlen then some 8
  else if e.frameid = 0 ∨ before.any (fun p => p.frameid == e.frameid) then some 9
  else if (eSync e && decide (8 ≤ (before.filter eSync).length)) || (eCold e && !eSync e) then some 10
  else if before.any (fun p => p.inport == e.inport && decide (e.offset ≤ p.offset + 2 * w)) then some 11
  else none

/-- Take n entries from index i on: the entries, newest first, or the failing check and its index; an unreadable codeword is check 12 at
the lowest entry index in it (R192). -/
def loadEntries (s : State) (src units pi : Nat) : Nat → Nat → List SEntry → Except (Nat × Nat) (List SEntry)
  | 0, _, acc => .ok acc
  | n + 1, i, acc =>
    match readMem s (src + 64 + 16 * i) 16 with
    | none => .error (12, i - i % 2)
    | some d => match checkEntry units pi acc d with
      | some c => .error (c, i)
      | none => loadEntries s src units pi n (i + 1) (parseEntry d :: acc)

/-- Check the image at src (R192). -/
def checkImage (s : State) (src : Nat) : Except (Nat × Nat) Sched :=
  match imageRegion src with
  | none => .error (1, 0)
  | some (_, hi) =>
    if src % 64 ≠ 0 then .error (1, 0)
    else match readMem s src 64 with
      | none => .error (12, 0)
      | some h =>
        let n := leAt h 8 4
        if hi < src + 64 + 16 * n then .error (1, 0)
        else if leAt h 0 4 ≠ 0x4C485352 ∨ leAt h 4 2 ≠ 1 ∨ (h.drop 14).any (· != 0) then .error (2, 0)
        else if leAt h 6 2 < 1 ∨ 800 < leAt h 6 2 ∨ n < 1 ∨ 32768 < n ∨ 5000 < leAt h 12 2 then .error (3, 0)
        else match loadEntries s src (leAt h 6 2) (leAt h 12 2) n 0 [] with
          | .ok l => .ok { cyclen := leAt h 6 2, pi := leAt h 12 2, entries := l.reverse }
          | .error e => .error e

/-- A schedule whose entries have free values in all their fields: n is the number of the first (R62). -/
def freeEntries (n : Nat) (l : List SEntry) : List SEntry :=
  l.zipIdx.map fun x =>
    let v (k w : Nat) : Nat := (Config.freeValue (n + 7 * x.2 + k)).toNat % 2 ^ w
    { offset := v 0 27, frameid := v 1 16, inport := v 2 5, flags := v 3 3, outmask := v 4 18, maxlen := v 5 16, mapid := v 6 16 }

/-- The entries of the active buffer take free values while a load writes it: UB-13 (R62, R192; notes/assumptions/14.md). -/
def freeBuf (s : State) (b : Nat) : State :=
  match schedBuf s b with
  | some c => iter useFree (7 * c.entries.length) (setSchedBuf s b (some { c with entries := freeEntries s.nfree c.entries }))
  | none => s

/-- `RHL_SCHLOAD.GO`: the load starts, BUSY sets and SHREADY clears; into the active buffer it is UB-13 (R192). A second GO while a load
runs starts nothing (notes/assumptions/20.md). -/
def startLoad (src buf : Nat) (s0 : State) : State :=
  let s := setF (setF s0 RHL_SCHLOAD_SRC src) RHL_SCHLOAD_BUF buf
  if onF s RHL_SCHSTAT_BUSY then s
  else
    let s1 := if s.rhl.active = some buf then freeBuf s buf else setSchedBuf s buf none
    setF (setF (modRhl s1 fun r => { r with load := some (src, buf) }) RHL_SCHSTAT_BUSY 1) RHL_SCHSTAT_SHREADY 0

/-- The statistics table of buffer b (R203). -/
def statBase (s : State) (b : Nat) : Nat := alignDown (getF s RHL_STATBASE_BASE) (2 ^ 21) + b * 0x100000

/-- SHREADY, SHCYCLEN and SHENTRIES. -/
def showShadow (ready cyclen n : Nat) (s : State) : State :=
  setF (setF (setF s RHL_SCHSTAT_SHREADY ready) RHL_SCHSTAT_SHCYCLEN cyclen) RHL_SCHSTAT_SHENTRIES n

/-- The load ends: a checked image stands in the buffer with its statistics zeroed and its LASTEPOCH values 0, or the first failing check is
shown; SHCYCLEN and SHENTRIES go on describing a shadow buffer that the load has not touched (R192, R202, R203). -/
def finishLoad (s : State) : State :=
  match s.rhl.load with
  | none => s
  | some (src, b) =>
    let seen := match checkImage s src with
      | .ok c => 64 + 16 * c.entries.length
      | .error (c, i) => if 4 ≤ c then 64 + 16 * (i + 1) else if (imageRegion src).isNone || src % 64 != 0 then 0 else 64
    let s1 := setF (modRhl (touch s 0x45 src seen) fun r => { r with load := none, lastEp := r.lastEp.filter fun p => p.1 / 65536 != b }) RHL_SCHSTAT_BUSY 0
    match checkImage s src with
    | .ok c =>
      let s2 := modRhl (setSchedBuf s1 b (some c)) fun r => { r with lastPass := b }
      let s3 := forN (fun i t => if inDram (statBase s b + 32 * i) then storeCw t 0x45 (cwOf (statBase s b + 32 * i)) (List.replicate 32 0) else t)
        0 c.entries.length s2
      evtRhl RHL_EVT_LOADDONE (showShadow 1 c.cyclen c.entries.length (setF (setF s3 RHL_SCHSTAT_ERR 0) RHL_SCHSTAT_ERRIDX 0))
    | .error (c, i) =>
      let s2 := setF (setF s1 RHL_SCHSTAT_ERR c) RHL_SCHSTAT_ERRIDX i
      raise NOTE (rhlLoc b) (evtRhl RHL_EVT_LOADERR (if b = shadowBuf s then showShadow 0 0 0 s2 else s2))

/-- Make the shadow buffer active: its cycle length applies, also to the corrections that are spread over the cycle, and cycle count and network time go on (R193, R208). -/
def activateShadow (s : State) : State :=
  let b := shadowBuf s
  match schedBuf s b with
  | none => s
  | some c =>
    let s1 := modMer (modRhl s fun r => { r with active := some b }) fun m => { m with cycLen := c.cyclen * 125000, gridOrg := m.cycBase, corrLeft := c.cyclen * 125000, corr2Left := if m.corr2Left = 0 then 0 else c.cyclen * 125000 }
    showShadow 0 0 0 (setF (setF (setF s1 RHL_STAT_ACTIVE b) RHL_SCHSTAT_ACTIVE b) RHL_STAT_CYCLEN c.cyclen)

/-- A refused switch: SWREF and a MINOR report of the shadow buffer (R193, R220). -/
def refuseSwitch (s : State) : State := raise MINOR (rhlLoc (shadowBuf s)) (evtRhl RHL_EVT_SWREF s)

/-- Arm a switch at cycle cyc, 1 to 2^31 − 1 cycles ahead (R193). -/
def armSwitch (cyc : Nat) (s0 : State) : State :=
  let s := setF s0 RHL_SCHSW_CYC cyc
  let d := (cyc + 2 ^ 32 - s.rhl.cycle % 2 ^ 32) % 2 ^ 32
  if 1 ≤ d ∧ d < 2 ^ 31 then setF (modRhl s fun r => { r with swCyc := cyc }) RHL_SCHSW_PEND 1 else refuseSwitch s

/-- The armed cycle has started: the shadow buffer becomes active, or the switch is refused (R193). -/
def doSwitch (s : State) : State :=
  if onF s RHL_SCHSW_PEND && s.rhl.cycle % 2 ^ 32 == s.rhl.swCyc then
    let s1 := setF s RHL_SCHSW_PEND 0
    if onF s RHL_SCHSTAT_SHREADY then evtRhl RHL_EVT_SWDONE (activateShadow s1) else refuseSwitch s1
  else s

/-! ### The guardian (R195–R200) -/

/-- The guardian of a port (R219). -/
def guardLoc (p : Nat) : Loc := if p < 16 then ⟨0, 0x8, 0x40 + p, 0x02⟩ else rhlLoc (if p = 16 then 0x05 else 0x06)

/-- The violations of a port over the current cycle and the 15 before it (R199). -/
def violCount (s : State) (p : Nat) : Nat := (s.rhl.viol.getD p []).foldl (· + ·) 0

/-- PSTAT.VIOL follows the count. -/
def showViol (p : Nat) (s : State) : State := setF s (RHL_PSTAT_VIOL p) (min 31 (violCount s p))

/-- Clear the violation count of a port. -/
def clearViol (p : Nat) (s : State) : State :=
  showViol p (modRhl s fun r => { r with viol := modAt r.viol p fun _ => List.replicate 16 0 })

/-- CONTAIN in force: lower values are taken as 16 (R218). -/
def containCycles (s : State) (p : Nat) : Nat := max 16 (liveF s (RHL_PCTRL_CONTAIN p))

/-- THRESH in force: 0 is taken as 1 (R218). -/
def threshOf (s : State) (p : Nat) : Nat := max 1 (liveF s (RHL_PCTRL_THRESH p))

/-- Contain a port (R200, R220). -/
def containPort (p : Nat) (s : State) : State :=
  raise MINOR (guardLoc p) (evtRhl RHL_EVT_CONTAIN (incF (setF (setF s (RHL_PSTAT_STATE p) 2) (RHL_PSTAT_REMAIN p) (containCycles s p)) (RHL_PCNT1_CONT p)))

/-- Return a port to NORMAL with a cleared count (R200). -/
def normalPort (p : Nat) (s : State) : State := clearViol p (setF (setF s (RHL_PSTAT_STATE p) 1) (RHL_PSTAT_REMAIN p) 0)

/-- Contain a port in NORMAL whose count has reached THRESH (R199). -/
def checkThresh (p : Nat) (s : State) : State :=
  if getF s (RHL_PSTAT_STATE p) = 1 && decide (threshOf s p ≤ violCount s p) then containPort p s else s

/-- Time value at the start of the current cycle in 1/64 ns. -/
def cycBase64 (s : State) : Nat := s.mer.cycBase / 2 ^ 26

/-- A SOF stamp on the cycle timer, in 1/64 ns. -/
def sofOff (s : State) (sof : Nat) : Int := (sof % (64 * timeSpan) : Nat) - (cycBase64 s : Int)

/-- The deviation of a SOF from an entry's slot, in 1/64 ns (R206). -/
def devOf (s : State) (sof : Nat) (e : SEntry) : Int := sofOff s sof - e.offset * 64

/-- Round to the nearest whole ns. -/
def ns64 (z : Int) : Int := if z < 0 then -((-z + 32) / 64) else (z + 32) / 64

/-- The deviation nearest to 0 in a list. -/
def nearest : List Int → Int
  | [] => 0
  | [z] => z
  | z :: r => let y := nearest r
    if y.natAbs < z.natAbs then y else z

/-- A violation of a port: counted while windows are enforced, shown in PLAST, and contained at THRESH or on probation (R199, R200, R218). -/
def violation (p kind fid : Nat) (dev : Int) (s : State) : State :=
  if !s.rhl.windows then s
  else
    let s1 := setF (setF (setF s (RHL_PLAST_KIND p) kind) (RHL_PLAST_FRAMEID p) fid) (RHL_PLAST_DEV p) (ofInt 32 (clampInt (2 ^ 31 - 1) (ns64 dev)))
    let s2 := showViol p (modRhl s1 fun r => { r with viol := modAt r.viol p fun l => modAt l 0 (· + 1) })
    if getF s2 (RHL_PSTAT_STATE p) = 3 then containPort p s2 else checkThresh p s2

/-- What the current cycle has brought to entry i. -/
def ecyc (s : State) (i : Nat) : ECyc := kget {} s.rhl.cur i

/-- Change it. -/
def modEcyc (s : State) (i : Nat) (f : ECyc → ECyc) : State :=
  modRhl s fun r => { r with cur := kput {} r.cur i (f (kget {} r.cur i)) }

/-- The checks of R196 on a frame against an entry. -/
def headerOk (s : State) (e : SEntry) (f : List Byte) : Bool :=
  fEtype f == 0x88B5 && fVer f == 1 && fType f == 0 && fSync f == eSync e && fId f == e.frameid && fCycle f == s.rhl.cycle % 2 ^ 32
    && fCns f == s.rhl.net % 1000000000 && fCsec f == s.rhl.net / 1000000000

/-- The entries of an INPORT with their indexes. -/
def inportEntries (s : State) (p : Nat) : List (SEntry × Nat) := (entries s).zipIdx.filter fun x => x.1.inport == p

/-- The entries whose frames the star takes from port p, with their indexes: those of INPORT 16 from port 17 while the module behaves as STANDBY
(R442). -/
def portEntries (s : State) (p : Nat) : List (SEntry × Nat) :=
  (entries s).zipIdx.filter fun x => if x.1.inport = 16 then p == (if isStandby s then 17 else 16) else x.1.inport == p

/-- The egress ports of a frame from port p: enabled, in OUTMASK, not p (R185). -/
def egressOf (s : State) (p mask : Nat) : List Nat :=
  (List.range 18).filter fun q => bit mask q && q != p && getF s (RHL_PSTAT_STATE q) != 0

/-- The pair link that carries Rhumbline frames: link 0, or link 1 while link 0 is down (R428). -/
def pairLink (s : State) : Option Nat := if bitF s PRL_STAT_LINK 0 then some 0 else if bitF s PRL_STAT_LINK 1 then some 1 else none

/-- Send a Rhumbline frame to the partner's port 17 over the pair link, which counts it (R428, R448). -/
def sendPartner (f : List Byte) (s : State) : State :=
  match pairLink s with
  | some n => incF (emit s (.sent .pair n f)) (PRL_LCNT_TXFRM n)
  | none => s

/-- A Rhumbline frame with a bad FCS arrives over the pair link (R448). -/
def checkPartner (f : List Byte) (s : State) : State :=
  match pairLink s with
  | some n => if fcsGood f then s else incF s (PRL_LCNT_FCSERR n)
  | none => s

/-- Send a frame out of star ports; port 17 is the path over the pair link (R182). -/
def sendStar (ports : List Nat) (f : List Byte) (s : State) : State :=
  ports.foldl (fun t q => if q = 17 then sendPartner f t else emit t (.sent .star q f)) s

/-- Port q ends the frame it is sending early: the signal says so, the bytes that follow are what it sent. -/
def endEarly (q n : Nat) (b : List Byte) (s : State) : State :=
  if q = 17 then
    match pairLink s with
    | some k => emit (emit s (.signal .pair k 1 n)) (.sent .pair k b)
    | none => s
  else emit (emit s (.signal .star q 1 n)) (.sent .star q b)

/-- The egress ports of entry i at which its window overlaps that of another entry forwarding there: UB-12 (R194). -/
def clashPorts (s : State) (p i : Nat) (e : SEntry) : List Nat :=
  (egressOf s p e.outmask).filter fun q => (entries s).zipIdx.any fun x =>
    x.2 != i && bit x.1.outmask q && x.1.inport != q && decide (x.1.offset ≤ e.offset + 2 * winOf s) && decide (e.offset ≤ x.1.offset + 2 * winOf s)

/-- The egress ports that a frame of entry i leaves by (R185); at a port where windows overlap it is free whether it does (R62, R194). -/
def egressNow (s : State) (p i : Nat) (e : SEntry) : List Nat :=
  (egressOf s p e.outmask).filter fun q => !(clashPorts s p i e).contains q || bit (free s 18) q

/-- Forward a frame of entry i from port p (R185, R197): FWD counts, a bad FCS is counted and passed on, and the frame is held for the cuts of R198. -/
def forwardFrame (p i : Nat) (e : SEntry) (off : Int) (f : List Byte) (s : State) : State :=
  let s1 := incF s (RHL_PCNT0_FWD p)
  let s2 := if fcsGood f then s1 else incF s1 (RHL_PCNT1_FCSERR p)
  let out := egressNow s p i e
  sendStar out f (modRhl (if (clashPorts s p i e).isEmpty then s2 else useFree s2) fun r => { r with fly := { port := p, entry := i, sof := off, frame := f, egress := out } :: r.fly.filter fun x => x.port != p })

/-- A frame loses a cold-start race: discarded whole, CSLOST counts, and the window's record takes it (R213). -/
def coldLoser (p : Nat) (delta : Nat) (s : State) : State :=
  incF (modRhl s fun r => { r with cold := r.cold.map fun w => { w with losers := putBit w.losers p true, delta := some (w.delta.getD delta) } }) (RHL_PCNT1_CSLOST p)

/-- The frame is a coldstart frame by EtherType, VER and TYPE (R213). -/
def isCold (f : List Byte) : Bool := fEtype f == 0x88B5 && fVer f == 1 && fType f == 1

/-- A frame arrives at port p while windows are not enforced: in an open collision window every other coldstart frame loses; anything else is
forwarded nowhere (R211, R213). -/
def unwindowed (p sof : Nat) (f : List Byte) (s : State) : State :=
  match s.rhl.cold with
  | some w => if w.isOpen && isCold f && decide (w.sof ≤ sof) && decide (sof ≤ w.sof + 128000) then coldLoser p ((sof - w.sof) / 64) s else s
  | none => s

/-- The star's decision on an arriving frame (R197). -/
def starReceive (p sof : Nat) (f : List Byte) (s : State) : State :=
  let st := getF s (RHL_PSTAT_STATE p)
  if st = 0 ∨ st = 2 then incF s (RHL_PCNT0_DISC p)
  else if !s.rhl.windows then unwindowed p sof f s
  else
    let es := portEntries s p
    let near := nearest (es.map fun x => devOf s sof x.1)
    match es.find? fun x => decide ((devOf s sof x.1).natAbs ≤ 64 * winOf s) with
    | none => violation p 1 (fId f) near (incF s (RHL_PCNT0_DISC p))
    | some (e, i) =>
      if (ecyc s i).fwd then violation p 1 (fId f) near (incF s (RHL_PCNT0_DISC p))
      else if !headerOk s e f then violation p 2 (fId f) near (incF s (RHL_PCNT0_DISC p))
      else
        let d := devOf s sof e
        let s1 := modEcyc s i fun c => { c with fwd := true, dev := d }
        let s2 := if eSync e && p != 16 then modRhl s1 fun r => { r with devs := r.devs ++ [(i, d)] } else s1
        forwardFrame p i e (sofOff s sof) f s2

/-- When the window of the next entry forwarding to port q after entry i opens, in ns from the start of the current cycle (R198). -/
def nextOpen (s : State) (q i : Nat) : Int :=
  let fwd := (entries s).zipIdx.filter fun x => bit x.1.outmask q && x.1.inport != q
  match fwd.find? fun x => decide (i < x.2) with
  | some x => (x.1.offset : Int) - winOf s
  | none => match fwd.head? with
    | some x => (x.1.offset : Int) + s.mer.cycLen - winOf s
    | none => 2 ^ 40

/-- The longest frame, in bytes, that leaves port q 96 ns before that window; the 8 bytes of preamble come first (R198, the example under R216). -/
def winLimit (s : State) (x : Fly) (q : Nat) : Nat := (((nextOpen s q x.entry - 96) * 64 - x.sof) / 512 - 8).toNat

/-- A frame cut to n bytes: n − 4 bytes of it and 4 bytes holding the inverted CRC-32 of those (R198). -/
def cutFrame (f : List Byte) (n : Nat) : List Byte :=
  let b := f.take (n - 4)
  b ++ toLE 4 (crc32 b ^^^ 0xFFFFFFFF)

/-- Port q ends the frame it is sending as the cut form (R198). -/
def sendCut (q : Nat) (f : List Byte) (n : Nat) (s : State) : State := endEarly q n (cutFrame f n) s

/-- Count a guardian cut of a port and entry (R198). -/
def countCut (x : Fly) (kind : Nat) (s : State) : State :=
  let e := (entries s).getD x.entry ⟨0, 0, 0, 0, 0, 0, 0⟩
  violation x.port kind (fId x.frame) (x.sof - e.offset * 64) (modEcyc (incF s (RHL_PCNT1_CUT x.port)) x.entry fun c => { c with cut := c.cut + 1 })

/-- Cut the frame forwarded last from port p: for the next window on the egress ports it would still occupy, or for length on all others (R198). -/
def guardCut (p : Nat) (win : Bool) (s : State) : State :=
  match s.rhl.fly.find? fun x => x.port == p with
  | none => s
  | some x =>
    let e := (entries s).getD x.entry ⟨0, 0, 0, 0, 0, 0, 0⟩
    let early := x.egress.filter fun q => decide (winLimit s x q < min x.frame.length e.maxlen)
    if win then
      if x.cutWin || early.isEmpty then s
      else
        let s1 := early.foldl (fun t q => sendCut q x.frame (winLimit s x q) t) s
        countCut x 4 (modRhl s1 fun r => { r with fly := r.fly.map fun y => if y.port = p then { y with cutWin := true } else y })
    else if x.cutLen || decide (x.frame.length ≤ e.maxlen) || (!x.egress.isEmpty && early.length == x.egress.length) then s
    else
      let s1 := (x.egress.filter fun q => !early.contains q).foldl (fun t q => sendCut q x.frame e.maxlen t) s
      countCut x 3 (modRhl s1 fun r => { r with fly := r.fly.map fun y => if y.port = p then { y with cutLen := true } else y })

/-- A frame in progress from port p, of which n bytes have been sent, is cut at once (R200, R211). Its violation is CUTLEN or CUTWIN: which of them is a free value. -/
def cutNow (p n : Nat) (s : State) : State :=
  match s.rhl.fly.find? fun x => x.port == p with
  | none => s
  | some x =>
    let s1 := x.egress.foldl (fun t q => sendCut q x.frame (n + 4) t) s
    countCut x (3 + free s 1) (useFree (modRhl s1 fun r => { r with fly := r.fly.filter fun y => y.port != p }))

/-- The link of port p goes down while a frame from it is being forwarded, of which n bytes have been sent: the egress ports end it as received, and its FCS is bad (R185). -/
def truncateNow (p n : Nat) (s : State) : State :=
  match s.rhl.fly.find? fun x => x.port == p with
  | none => s
  | some x =>
    let s1 := x.egress.foldl (fun t q => endEarly q n (x.frame.take n) t) s
    incF (modRhl s1 fun r => { r with fly := r.fly.filter fun y => y.port != p }) (RHL_PCNT1_FCSERR p)

/-- PCTRL.EN written 1 (R200). -/
def enablePort (p : Nat) (s : State) : State :=
  let s1 := setF s (RHL_PCTRL_EN p) 1
  if getF s (RHL_PSTAT_STATE p) = 0 then normalPort p s1 else s1

/-- PCTRL.EN written 0 (R200). -/
def disablePort (p : Nat) (inFlight : Option Nat) (s : State) : State :=
  let s1 := match inFlight with
    | some n => cutNow p n s
    | none => s
  setF (setF (setF s1 (RHL_PCTRL_EN p) 0) (RHL_PSTAT_STATE p) 0) (RHL_PSTAT_REMAIN p) 0

/-- FORCE (R200): ignored on a DISABLED port. -/
def forcePort (p : Nat) (s : State) : State := if getF s (RHL_PSTAT_STATE p) = 0 then s else containPort p s

/-- A port that is not DISABLED returns to NORMAL; from PROBATION that raises a NOTE (R200, R220). -/
def backToNormal (p : Nat) (s : State) : State :=
  if getF s (RHL_PSTAT_STATE p) = 3 then raise NOTE (guardLoc p) (normalPort p s) else normalPort p s

/-- RELEASE (R200): ignored on a DISABLED or NORMAL port. -/
def releasePort (p : Nat) (s : State) : State := if 2 ≤ getF s (RHL_PSTAT_STATE p) then backToNormal p s else s

/-- REMAIN counts down at a cycle start (R200). -/
def countdown (p : Nat) (s : State) : State :=
  let st := getF s (RHL_PSTAT_STATE p)
  if st < 2 then s
  else
    let r := getF s (RHL_PSTAT_REMAIN p) - 1
    if r ≠ 0 then setF s (RHL_PSTAT_REMAIN p) r
    else if st = 2 then setF (setF s (RHL_PSTAT_REMAIN p) 16) (RHL_PSTAT_STATE p) 3
    else backToNormal p s

/-! ### States of the synchronisation unit (R211–R216) -/

/-- `RHL_STAT.STATE` changes (R211, R217). -/
def setRhlState (v : Nat) (s : State) : State := if getF s RHL_STAT_STATE = v then s else evtRhl RHL_EVT_STCHG (setF s RHL_STAT_STATE v)

/-- The windows are no longer enforced: entries whose window has closed in this cycle are still to be updated (R197, R203). -/
def dropWindows (s : State) : State :=
  let closed := if s.rhl.windows then
      ((entries s).zipIdx.filter fun x => !s.rhl.statDone.contains x.2 && decide (x.1.offset + winOf s ≤ cycOffset s)).map fun x =>
        ({ entry := x.2, cycle := s.rhl.cycle, buf := s.rhl.active.getD 0, cyc := ecyc s x.2 } : StatDue)
    else []
  modRhl s fun r => { r with windows := false, prev := r.prev ++ closed }

/-- Enter LISTEN: forwarding stops and LT restarts; from SYNC the source is disqualified with a MINOR report (R210, R211, R220). -/
def toListen (s : State) : State :=
  let s1 := if getF s RHL_STAT_STATE = 4 then raise MINOR (rhlLoc 0x02) (disqualify 1 s) else s
  setRhlState 1 (modRhl (dropWindows s1) fun r =>
    { r with waited := 0, cold := none, devs := [], lastDevs := none, heardCold := false, lossRun := 0, offRun := 0, ltStart := freeCnt s })

/-- Adopt a cycle that starts at time value `base` in 1/64 ns, with its number and network time (R178, R213, R214). -/
def adopt (base : Int) (cycle net st : Nat) (s : State) : State :=
  let b := ((base * 2 ^ 26) % (timeMod : Int)).toNat
  let s1 := endCycleAt ((s.mer.t + timeMod - b) % timeMod) (modRhl s fun r => { r with cycle := cycle })
  let s2 := modMer s1 fun m => { m with gridOrg := b }
  setRhlState st (setF (modRhl s2 fun r =>
    { r with net := net, windows := false, waited := 0, cur := [], statDone := [], devs := [], lastDevs := none, synced := false, lossRun := 0, offRun := 0 }) RHL_STAT_CYCLE cycle)

/-- The COLDSTART entry with INPORT p that a frame names, in a port that is considered (R197, R213). -/
def coldEntry (s : State) (p : Nat) (f : List Byte) : Option (SEntry × Nat) :=
  let st := getF s (RHL_PSTAT_STATE p)
  if (st == 1 || st == 3) && isCold f then (portEntries s p).find? fun x => eCold x.1 && x.1.frameid == fId f else none

/-- A channel-Y star accepts coldstart frames only once its partner has been absent for LT (R215). -/
def mayCold (s : State) : Bool := !onF s RHL_CTRL_CHAN || s.rhl.absent

/-- The candidate with the lowest port. -/
def lowestPort : List (Nat × SEntry × Nat × List Byte) → Option (Nat × SEntry × Nat × List Byte)
  | [] => none
  | c :: r => match lowestPort r with
    | some d => if d.1 < c.1 then some d else some c
    | none => some c

/-- A collision window is open at this SOF (R213). -/
def collOpen (s : State) (sof : Nat) : Bool := match s.rhl.cold with
  | some w => w.isOpen && decide (w.sof ≤ sof) && decide (sof ≤ w.sof + 128000)
  | none => false

/-- Coldstart frames whose SOFs are stamped in one TTB cycle: the lowest port that R213 accepts wins, the collision window opens and cycle 0 starts at
SOF − OFFSET, with the deviation 0; every other coldstart frame loses, as all do in a window that is open (R206, R211, R213). -/
def coldAccept (sof : Nat) (cands : List (Fin 18 × List Byte)) (s : State) : State :=
  let s0 := cands.foldl (fun t c => if getF s (RHL_PSTAT_STATE c.1.val) = 0 ∨ getF s (RHL_PSTAT_STATE c.1.val) = 2 then incF t (RHL_PCNT0_DISC c.1.val) else t) s
  if collOpen s sof then cands.foldl (fun t c => if getF s (RHL_PSTAT_STATE c.1.val) = 0 ∨ getF s (RHL_PSTAT_STATE c.1.val) = 2 then t else unwindowed c.1.val sof c.2 t) s0
  else if getF s RHL_STAT_STATE ≠ 1 ∨ !mayCold s then s0
  else
    let good := cands.filterMap fun c => (coldEntry s c.1.val c.2).map fun x => (c.1.val, x.1, x.2, c.2)
    match lowestPort good with
    | none => s0
    | some (p, e, i, f) =>
      let s1 := adopt ((sof : Int) - e.offset * 64) 0 (fNet f) 2 s0
      let s2 := modRhl s1 fun r => { r with cold := some { winner := p, sof := sof, badFcs := !fcsGood f } }
      let s3 := modRhl (forwardFrame p i e (e.offset * 64) f s2) fun r => { r with devs := [(i, 0)] }
      let others := cands.filter fun c => c.1.val != p && isCold c.2 && getF s (RHL_PSTAT_STATE c.1.val) != 0 && getF s (RHL_PSTAT_STATE c.1.val) != 2
      let s4 := others.foldl (fun t c => coldLoser c.1.val 0 t) s3
      if onF s RHL_CTRL_CHAN then evtRhl RHL_EVT_SPLIT s4 else s4

/-- The collision window closes: CSRES holds winner, losers and the delay to the first loser (R213, R217, R220). -/
def coldClose (s : State) : State :=
  match s.rhl.cold with
  | some w =>
    if w.isOpen then
      let s1 := modRhl s fun r => { r with cold := some { w with isOpen := false } }
      let s2 := setF (setF (setF s1 RHL_CSRES_WINNER w.winner) RHL_CSRES_LOSERS w.losers) RHL_CSRES_DELTA (w.delta.getD 0)
      raise NOTE (rhlLoc 0x02) (evtRhl RHL_EVT_CSRES s2)
    else s
  | none => s

/-- The accepted coldstart frame ends with a bad FCS in cycle 0 (R211); its collision window runs on (R213). -/
def coldBad (s : State) : State :=
  match s.rhl.cold with
  | some w =>
    if w.badFcs && getF s RHL_STAT_STATE == 2 && !s.rhl.windows then modRhl (toListen s) fun r => { r with cold := some { w with badFcs := false } } else s
  | none => s

/-- The integration test of R214 on a frame at port p. -/
def integrates (s : State) (p : Nat) (f : List Byte) : Option SEntry :=
  let st := getF s (RHL_PSTAT_STATE p)
  if (st == 1 || st == 3) && fEtype f == 0x88B5 && fVer f == 1 && fType f == 0 && fSync f && fcsGood f then
    ((portEntries s p).find? fun x => eSync x.1 && x.1.frameid == fId f).map (·.1)
  else none

/-- Integrate on a sync frame (R214). -/
def integrateOn (p sof : Nat) (f : List Byte) (s : State) : State :=
  if getF s RHL_STAT_STATE ≠ 1 then s
  else match integrates s p f with
    | some e => adopt ((sof : Int) - e.offset * 64) (fCycle f) (fNet f) 3 s
    | none => if getF s (RHL_PSTAT_STATE p) = 0 ∨ getF s (RHL_PSTAT_STATE p) = 2 then incF s (RHL_PCNT0_DISC p) else s

/-- `RHL_CTRL.EN` written 1 (R193, R211, R216). -/
def enableRhl (s : State) : State :=
  if onF s RHL_CTRL_EN then s
  else if s.rhl.active.isNone && !onF s RHL_SCHSTAT_SHREADY then evtRhl RHL_EVT_NOSCHED s
  else
    let s1 := if s.rhl.active.isNone then activateShadow s else s
    toListen (bumpNode (setF s1 RHL_CTRL_EN 1))

/-- `RHL_CTRL.EN` written 0: frames in progress are cut, the ports return to NORMAL, the source is disqualified (R200, R210, R211). -/
def disableRhl (inFlight : List (Nat × Nat)) (s : State) : State :=
  let s1 := inFlight.foldl (fun t x => cutNow x.1 x.2 t) (setF s RHL_CTRL_EN 0)
  let s2 := forN (fun p t => if getF t (RHL_PSTAT_STATE p) = 0 then t else backToNormal p t) 0 18 s1
  let s3 := setRhlState 0 (modRhl (dropWindows s2) fun r =>
    { r with waited := 0, cold := none, devs := [], lastDevs := none, heardCold := false, fly := [], lossRun := 0, offRun := 0 })
  if getF s RHL_STAT_STATE = 4 then disqualify 1 s3 else s3

/-- The cycle-timer start, in ns of time value, that the next slot at offset `o` is measured from (R212). -/
def slotBase (s : State) (o : Nat) : Nat :=
  let b := s.mer.cycBase / nsU
  if o < cycOffset s then b + s.mer.cycLen else b

/-- The listen time LT in ns: 2 cycle lengths and CSDLY (R211). -/
def listenTime (s : State) : Nat := 2 * s.mer.cycLen + 1000 * liveF s RHL_CTRL_CSDLY

/-- LT has expired since a free-running time. -/
def ltOver (s : State) (since : Nat) : Bool := decide (since + listenTime s ≤ freeCnt s)

/-- LT expires in LISTEN: a coldstart frame where CSCAP allows it, the schedule names an entry and no other node's has been heard since LT started; LT restarts (R211, R212). -/
def listenExpire (s : State) : State :=
  if getF s RHL_STAT_STATE ≠ 1 || !ltOver s s.rhl.ltStart then s
  else
    let s1 := modRhl s fun r => { r with ltStart := freeCnt s, heardCold := false }
    match if ownSilent s || s.rhl.heardCold then none else (inportEntries s 16).find? fun x => eCold x.1 with
    | some (e, _) =>
      if onF s RHL_CTRL_CSCAP then
        let f := rhlFrame 1 e.frameid 0 (getF s RHL_NEPOCH_EPOCH) (slotBase s e.offset) true []
        sendPartner f (emit s1 (.sent .ownNode 16 f))
      else s1
    | none => s1

/-! ### The synchronisation point (R206–R210) -/

/-- num / den to the nearest integer, ties away from zero; den is positive (R207). -/
def roundDiv (num : Int) (den : Nat) : Int :=
  let q := (2 * num.natAbs + den) / (2 * den)
  if num < 0 then -(q : Int) else q

/-- Insert by deviation. -/
def insertDev (x : Nat × Int) : List (Nat × Int) → List (Nat × Int)
  | [] => [x]
  | y :: r => if x.2 < y.2 then x :: y :: r else y :: insertDev x r

/-- The deviations by rising value. -/
def sortDevs (l : List (Nat × Int)) : List (Nat × Int) := l.foldr insertDev []

/-- The deviations kept by the averaging (R207). -/
def keptDevs (k : Nat) (l : List (Nat × Int)) : List (Nat × Int) :=
  let k' := min k ((l.length - 1) / 2)
  ((sortDevs l).drop k').take (l.length - 2 * k')

/-- CORR of the kept deviations: minus their average, to the nearest 1/64 ns (R207). -/
def corrOf (kept : List (Nat × Int)) : Int := -roundDiv (sumInt (kept.map (·.2))) kept.length

/-- Write the deviations of the cycle to the DEV registers (R207, R217). -/
def showDevs (devs used : List (Nat × Int)) (s : State) : State :=
  forN (fun k t =>
    let x := devs.getD k (0, 0)
    let v := decide (k < devs.length)
    setF (setF (setF (setF t (RHL_DEV_DEV k) (ofInt 32 x.2)) (RHL_DEV_ENTRY k) x.1) (RHL_DEV_VALID k) (b2n v)) (RHL_DEV_USED k) (b2n (v && used.contains x)))
    0 8 s

/-- Entry into SYNC (R208, R210, R211, R216, R220): the state, the node epoch, the source with the offset of network time against Meridian. -/
def enterSync (s : State) : State :=
  let s1 := bumpNode (setRhlState 4 (modRhl s fun r => { r with lossRun := 0, offRun := 0, points := 0, corrSum := 0 }))
  let s2 := modMer s1 fun m => { m with gridOrg := s.rhl.net * nsU }
  raise NOTE (rhlLoc 0x02) (qualify 1 (((s.rhl.net * nsU : Nat) : Int) - s.mer.cycBase) s2)

/-- Every 16th SYNCPT in SYNC changes RATE by the summed corrections over the 16 cycles (R209). -/
def rateUpdate (s : State) : State :=
  if s.rhl.points < 16 then s
  else
    let d := roundDiv (s.rhl.corrSum * 2 ^ 32) (64 * 16 * s.mer.cycLen)
    setRate (rate s + d) (setF (modRhl s fun r => { r with points := 0, corrSum := 0 }) RHL_OFFS_RATEREQ (ofInt 32 d))

/-- MINSYNC in force (R217). -/
def minSync (s : State) : Nat := min 8 (max 1 (liveF s RHL_SYNCCTL_MINSYNC))

/-- OFFLIM in force, in 1/64 ns (R217). -/
def offLim (s : State) : Nat := 64 * orElse (liveF s RHL_SYNCCTL_OFFLIM) 100 10000 1000

/-- A SYNCPT in SYNC: `corr` is none with n < MINSYNC (R208, R209, R211). DESIGN CHOICE: R170 speaks of corrections that the active source makes, R208 and R209 of every SYNCPT in SYNC;
Rhumbline's act on Meridian whether it is the active source or not (notes/assumptions/66.md). -/
def syncPoint (corr : Option Int) (s : State) : State :=
  let s1 := modRhl s fun r => { r with points := r.points + 1 }
  match corr with
  | none =>
    let s2 := modRhl s1 fun r => { r with lossRun := r.lossRun + 1, offRun := 0 }
    if max 1 (liveF s RHL_SYNCCTL_SYNCLOSS) ≤ s2.rhl.lossRun then toListen s2 else rateUpdate s2
  | some c =>
    if offLim s < c.natAbs then
      let s2 := modRhl s1 fun r => { r with lossRun := 0, offRun := r.offRun + 1 }
      if 2 ≤ s2.rhl.offRun then toListen s2 else rateUpdate s2
    else rateUpdate (modRhl (reportOffset 1 (c * 2 ^ 26) s1) fun r => { r with lossRun := 0, offRun := 0, corrNext := c, corrSum := r.corrSum + c })

/-- The offset of SYNCPT: 2 µs after the latest window close among the SYNC entries, in ns (R207). -/
def syncptOff (s : State) : Nat := ((entries s).filter eSync).foldl (fun m e => max m (e.offset + winOf s + 2000)) 0

/-- The synchronisation point of a cycle, or of the one before where it lies past its end (R207). -/
def syncpt (s : State) : State :=
  let st := getF s RHL_STAT_STATE
  if st < 2 then s
  else
    let devs := s.rhl.lastDevs.getD s.rhl.devs
    let n := devs.length
    let kept := if n < minSync s then [] else keptDevs (min 2 (liveF s RHL_SYNCCTL_K)) devs
    let corr := if n < minSync s then none else some (corrOf kept)
    let s1 := setF (showDevs devs kept s) RHL_STAT_NSYNC n
    let s2 := match corr with
      | some c => setF s1 RHL_OFFS_CORR (ofInt 32 c)
      | none => s1
    let s3 := modRhl s2 fun r => if r.lastDevs.isSome then { r with lastDevs := none } else { r with devs := [], synced := true }
    if st = 4 then syncPoint corr s3
    else match corr with
      | some c => enterSync (if c.natAbs ≤ offLim s then modRhl s3 fun r => { r with corrNext := c } else s3)
      | none => s3

/-- 8 whole cycles after the adopted one have passed without SYNC (R211). -/
def integrationExpire (s : State) : State :=
  let st := getF s RHL_STAT_STATE
  if (st == 2 || st == 3) && decide (8 < s.rhl.waited) then toListen s else s

/-- A cycle start in the star and the synchronisation unit: the statistics of the cycle that ended are still to be written, the next cycle's are empty, windows of one state
hold for the whole cycle, and the violation windows move on (R188, R197, R199, R203, R211, R218). -/
def starCycle (s : State) : State :=
  let st := getF s RHL_STAT_STATE
  let late := if s.rhl.windows then
      ((List.range (entries s).length).filter fun i => !s.rhl.statDone.contains i).map fun i => ({ entry := i, cycle := s.rhl.cycle, buf := s.rhl.active.getD 0, cyc := ecyc s i } : StatDue)
    else []
  let s1 := modRhl s fun r =>
    { r with cycle := r.cycle + 1, net := (r.net + s.mer.cycLen) % (2 ^ 48 * 1000000000), prev := r.prev ++ late, cur := [], statDone := [], devs := [], lastDevs := if !r.synced && decide (s.mer.cycLen ≤ syncptOff s) then some r.devs else none, synced := false, windows := decide (2 ≤ st), waited := r.waited + 1, viol := r.viol.map fun l => (0 :: l).take 16 }
  forN (fun p t => checkThresh p (showViol p t)) 0 18 (setF s1 RHL_STAT_CYCLE s1.rhl.cycle)

/-- A cycle start in the Chart engine (R257). -/
def chartCycle (s : State) : State :=
  { setF s CHT_STAT_LOAD (min 100 (s.chart.writes * 160 / s.mer.cycLen)) with chart := { s.chart with writes := 0 } }

/-! ### The commands -/

/-- `STAR_FRAME_RECEIVE` (R197); `sof` is the SOF stamp, a time value in 1/64 ns. -/
def execStarFrameReceive (port : Fin 18) (sof : Nat) (frame : List Byte) (s : State) : Host.Outcome State Fault Refusal :=
  onEngine 8 s fun s =>
  .next (starReceive port.val sof frame (if port.val = 17 then checkPartner frame s else s))

/-- `GUARDIAN_CUT` (R198); `win` tells a cut for the next window from a cut for length. -/
def execGuardianCut (port : Fin 18) (win : Bool) (s : State) : Host.Outcome State Fault Refusal := onEngine 8 s fun s => .next (guardCut port.val win s)

/-- `PORT_ENABLE` (R200). -/
def execPortEnable (r : Req) (n : Fin 18) (s : State) : Host.Outcome State Fault Refusal := reached 8 r s fun s => .next (enablePort n.val s)

/-- `PORT_DISABLE` (R200); `inFlight` is how many bytes of a frame in progress from the port have been sent. -/
def execPortDisable (r : Req) (n : Fin 18) (inFlight : Option Nat) (s : State) : Host.Outcome State Fault Refusal :=
  reached 8 r s fun s =>
  .next (disablePort n.val inFlight s)

/-- `PORT_FORCE` (R200). -/
def execPortForce (r : Req) (n : Fin 18) (s : State) : Host.Outcome State Fault Refusal := reached 8 r s fun s => .next (forcePort n.val s)

/-- `PORT_RELEASE` (R200). -/
def execPortRelease (r : Req) (n : Fin 18) (s : State) : Host.Outcome State Fault Refusal := reached 8 r s fun s => .next (releasePort n.val s)

/-- `CONTAIN_COUNTDOWN` (R200). -/
def execContainCountdown (n : Fin 18) (s : State) : Host.Outcome State Fault Refusal := onEngine 8 s fun s => .next (countdown n.val s)

/-- `SYNCPT` (R207). -/
def execSyncpt (s : State) : Host.Outcome State Fault Refusal := onEngine 8 s fun s => .next (syncpt s)

/-- `SCHLOAD_GO` (R192). -/
def execSchloadGo (r : Req) (src : BitVec 40) (buf : Bool) (s : State) : Host.Outcome State Fault Refusal := reached 8 r s fun s => .next (startLoad src.toNat (b2n buf) s)

/-- `SCHEDULE_LOAD_DONE` (R192). -/
def execScheduleLoadDone (s : State) : Host.Outcome State Fault Refusal := onEngine 8 s fun s => .next (finishLoad s)

/-- `SCHSW_ARM` (R193). -/
def execSchswArm (r : Req) (cyc : BitVec 32) (s : State) : Host.Outcome State Fault Refusal := reached 8 r s fun s => .next (armSwitch cyc.toNat s)

/-- `SCHEDULE_SWITCH` (R193). -/
def execScheduleSwitch (s : State) : Host.Outcome State Fault Refusal := onEngine 8 s fun s => .next (doSwitch s)

/-- `RHL_ENABLE` (R211). -/
def execRhlEnable (r : Req) (s : State) : Host.Outcome State Fault Refusal := reached 8 r s fun s => .next (enableRhl s)

/-- `RHL_DISABLE` (R211); `inFlight` names the ports with a frame in progress and how many of its bytes have been sent. -/
def execRhlDisable (r : Req) (inFlight : List (Fin 18 × Nat)) (s : State) : Host.Outcome State Fault Refusal :=
  reached 8 r s fun s =>
  .next (disableRhl (inFlight.map fun x => (x.1.val, x.2)) s)

/-- `LISTEN_TIMEOUT` (R212). -/
def execListenTimeout (s : State) : Host.Outcome State Fault Refusal := onEngine 8 s fun s => .next (listenExpire s)

/-- `COLDSTART_ACCEPT` (R213): coldstart frames whose SOFs are stamped in one TTB cycle, with that stamp. -/
def execColdstartAccept (sof : Nat) (cands : List (Fin 18 × List Byte)) (s : State) : Host.Outcome State Fault Refusal :=
  onEngine 8 s fun s =>
  .next (coldAccept sof cands (cands.foldl (fun t c => if c.1.val = 17 then checkPartner c.2 t else t) s))

/-- `COLLISION_WINDOW_CLOSE` (R213). -/
def execCollisionWindowClose (s : State) : Host.Outcome State Fault Refusal := onEngine 8 s fun s => .next (coldClose s)

/-- `COLDSTART_BAD_FCS` (R211). -/
def execColdstartBadFcs (s : State) : Host.Outcome State Fault Refusal := onEngine 8 s fun s => .next (coldBad s)

/-- `INTEGRATE` (R214). -/
def execIntegrate (port : Fin 18) (sof : Nat) (frame : List Byte) (s : State) : Host.Outcome State Fault Refusal :=
  onEngine 8 s fun s =>
  .next (integrateOn port.val sof frame s)

/-- `INTEGRATION_TIMEOUT` (R211). -/
def execIntegrationTimeout (s : State) : Host.Outcome State Fault Refusal := onEngine 8 s fun s => .next (integrationExpire s)

/-- `PARTNER_ABSENT_LT` (R215). -/
def execPartnerAbsentLt (s : State) : Host.Outcome State Fault Refusal :=
  onEngine 8 s fun s =>
  .next (if onF s RHL_CTRL_CHAN && !onF s RHL_STAT_PARTNER && ltOver s s.rhl.absentAt then modRhl s fun r => { r with absent := true } else s)

end Sys2Proof.Machine
end

