-- ==== Sys2Proof/Machine/Chart.lean ====
section
/-! DEFINITION. The Chart process image: entries, the acceptance of writes, maps, pack and unpack, bulk and sealed values, descriptors, and the sweep
(R221–R258). -/

namespace Sys2Proof.Machine

/-- Change the engine's own state. -/
def modChart (s : State) (f : Chart → Chart) : State := { s with chart := f s.chart }

/-- The requester code of the Chart engine (R419). -/
def chtReq : Nat := 0x46

/-- Change the field dies' own state. -/
def modFio (s : State) (f : Fio → Fio) : State := { s with fio := f s.fio }

/-! ### Entries (R221–R227) -/

/-- The codeword number of signal s's entry. -/
def sigCw (sig : Nat) : Nat := 0x30000000 + sig

/-- An entry (R222). -/
structure Entry where
  value : List Byte
  ts : Nat
  qual : Nat
  type : Nat
  flags : Nat
  seq : Nat
  source : Nat
  limit : Nat
  deriving DecidableEq, Repr

/-- The entry that 32 bytes hold. -/
def parseEnt (d : List Byte) : Entry :=
  { value := d.take 16, ts := leAt d 16 8, qual := leAt d 24 1, type := leAt d 25 1, flags := leAt d 26 1, seq := leAt d 27 1, source := leAt d 28 2, limit := leAt d 30 2 }

/-- The 32 bytes of an entry. -/
def entBytes (e : Entry) : List Byte :=
  (e.value ++ List.replicate (16 - e.value.length) 0).take 16 ++ toLE 8 e.ts ++ toLE 1 e.qual ++ toLE 1 e.type ++ toLE 1 e.flags ++ toLE 1 e.seq ++ toLE 2 e.source ++ toLE 2 e.limit

/-- The entry of a signal, where its codeword is readable (R232). -/
def entryOf (s : State) (sig : Nat) : Option Entry := (readCw s (sigCw sig)).map parseEnt

/-- Reading an entry records what its codeword shows (R77, R232). -/
def seeEntry (s : State) (sig : Nat) : State := touchCw chtReq s (sigCw sig)

def Entry.valid (e : Entry) : Bool := bit e.qual 0
def Entry.mirrored (e : Entry) : Bool := bit e.qual 4
def Entry.stale (e : Entry) : Bool := bit e.qual 6
def Entry.mirror (e : Entry) : Bool := bit e.flags 0
def Entry.sealed (e : Entry) : Bool := bit e.flags 1
def Entry.vown (e : Entry) : Bool := bit e.flags 2
def Entry.watch (e : Entry) : Bool := bit e.flags 3
def Entry.eng (e : Entry) : Bool := bit e.flags 4
def Entry.frz (e : Entry) : Bool := bit e.flags 5
/-- KIND of TYPE is BULK (R224). -/
def Entry.bulk (e : Entry) : Bool := e.type % 16 == 6
/-- Address and length of the bulk area (R247). -/
def Entry.area (e : Entry) : Nat := leAt e.value 0 5
def Entry.areaLen (e : Entry) : Nat := leAt e.value 5 2

/-- n bytes at a lie in DRAM outside the Chart image (R235, R236, R247). -/
def dramOffChart (a n : Nat) : Bool := dramSpan a n && (decide (a + n ≤ 0x0600000000) || decide (0x0640000000 ≤ a))

/-! ### Event records (R246) -/

/-- Records of the event ring: other values than a power of two in range are taken as 1,024 (R257). -/
def evSize (s : State) : Nat :=
  let n := getF s CHT_EVSIZE_RECORDS
  if (List.range 11).any fun k => n == 2 ^ (k + 10) then n else 1024

/-- A record is dropped: EVLOST counts, and a NOTE once per cycle (R246, R258). -/
def loseEvent (s : State) : State := raiseOnce 0x20001 NOTE (chtLoc 0x05) (evtCht CHT_EVT_EVLOST (incF s CHT_CNT2_EVLOST))

/-- Write a record with an entry's quality and a sequence; no queue stands behind it, so none into a vital region (R113, R246). -/
def eventRecord (sig kind qual seq : Nat) (s : State) : State :=
  let prod := getF s CHT_EVPROD_INDEX
  let a := alignDown (getF s CHT_EVBASE_BASE) 64 + 16 * (prod % evSize s)
  if (prod + 2 ^ 32 - getF s CHT_EVCONS_INDEX) % 2 ^ 32 = evSize s then loseEvent s
  else if !dramOffChart a 16 || !(regionsAt s a 16).isEmpty then loseEvent s
  else evtCht CHT_EVT_EVREC (incW (writeMem s chtReq a (toLE 4 sig ++ toLE 1 kind ++ toLE 1 qual ++ toLE 1 seq ++ [0] ++ toLE 8 (ts64 s))) CHT_EVPROD_INDEX)

/-! ### Writing an entry (R230–R232, R437) -/

/-- Mark an entry for the pair link; a mark that finds the FIFO full is lost, and a catch-up pass starts (R253, R437). -/
def markSignal (sig : Nat) (s : State) : State :=
  if s.chart.marks.contains sig then s
  else if s.chart.marks.length < 262144 then modChart s fun c => { c with marks := c.marks ++ [sig] }
  else
    let s1 := raise MINOR (prlLoc 0x02) (evtPrl PRL_EVT_MIRLOSS s)
    setF { modChart s1 fun c => { c with catchup := some 1 } with prl := { s1.prl with loss := true } } PRL_STAT_CATCHUP 1

/-- Rewrite the whole codeword (R232): WRITES counts, FROZEN follows FRZ, a change of a MIRROR entry on the PRIMARY is marked, and a write that clears STALE
on a WATCH entry writes a RECOVER record (R246, R253, R254). -/
def putEntry (sig : Nat) (old new : Entry) (s : State) : State :=
  let s1 := writePart (homeOf (32 * sigCw sig)) (modChart (incF s CHT_CNT0_WRITES) fun c => { c with writes := c.writes + 1 }) chtReq (sigCw sig) 0 (entBytes new)
  let s2 := if new.frz && !old.frz then incF s1 CHT_FROZEN_COUNT
    else if old.frz && !new.frz then setF s1 CHT_FROZEN_COUNT (getF s1 CHT_FROZEN_COUNT - 1) else s1
  let s3 := if new.mirror && isPrimary s && (new.value != old.value || new.qual != old.qual || new.seq != old.seq) then markSignal sig s2 else s2
  if old.stale && old.watch && !new.stale then eventRecord sig 2 new.qual new.seq s3 else s3

/-- What judges a write to an entry: an input of priority 2–3 with its code, a publish descriptor with its queue's code, or FORCE and UNFORCE. -/
inductive Writer where
  | input (code : Nat)
  | publish (code : Nat)
  | force
  deriving DecidableEq, Repr

/-- The row of R230 that applies. -/
inductive Judged where
  | write | frozen | standby | owner | stale
  deriving DecidableEq, Repr

/-- Judge a write by the rows of R230; `old` tells an old epoch. -/
def judge (s : State) (e : Entry) (w : Writer) (old : Bool) : Judged :=
  if e.frz && w != .force then .frozen
  else if e.mirror && isStandby s then .standby
  else if !e.eng then .owner
  else if (match w with
    | .input c => e.source != c
    | .publish c => e.source != c
    | .force => false) then .owner
  else if old then .stale
  else .write

/-- What a drop counts for an input of priority 2–3 (R230, R231). -/
def dropInput (j : Judged) (s : State) : State :=
  match j with
  | .standby => incF s CHT_CNT2_MIRSKIP
  | .owner => incF s CHT_CNT1_OWNDROP
  | .stale => raiseOnce 0x20002 NOTE (chtLoc 0xFF) (incF s CHT_STALE_COUNT)
  | _ => s

/-- An entry as an accepted write leaves it (R223, R227, R232); a BULK entry keeps its VALUE (R247). -/
def updated (e : Entry) (value : List Byte) (ts qual source : Nat) : Entry :=
  { e with value := if e.bulk then e.value else value, ts := ts, qual := qual, seq := (e.seq + 1) % 256, source := source }

/-- An input of priority 2–3 writes a plain value (R230, R232). -/
def inputWrite (sig code : Nat) (value : List Byte) (ts qual : Nat) (old : Bool) (s : State) : State :=
  let s1 := seeEntry s sig
  match entryOf s sig with
  | none => incF s1 CHT_CNT1_OWNDROP
  | some e => match judge s e (.input code) old with
    | .write => putEntry sig e (updated e value ts qual code) s1
    | j => dropInput j s1

/-- The bulk area of an entry overlaps that of another entry of the image: UB-16 (R247). -/
def areaShared (s : State) (sig : Nat) (e : Entry) : Bool :=
  s.mem.any fun c =>
    let k := c.1 / 32 - 0x30000000
    decide (0x30000000 ≤ c.1 / 32) && decide (k < 2 ^ 25) && k != sig && match entryOf s k with
      | some x => x.bulk && meets e.area e.areaLen x.area x.areaLen
      | none => false

/-- Write a bulk value: the entry with SEQ + 1, the area, the entry with SEQ + 2 (R247). -/
def putBulk (sig : Nat) (e : Entry) (data : List Byte) (ts qual source : Nat) (s : State) : State :=
  let mid := { e with seq := (e.seq + 1) % 256 }
  let s0 := putEntry sig e mid s
  let s1 := if areaShared s sig e then useFree (writeMem s0 chtReq e.area (freeSpan s data.length)) else writeMem s0 chtReq e.area data
  putEntry sig mid { mid with ts := ts, qual := qual, seq := (e.seq + 2) % 256, source := source } s1

/-- A BULK element of an unpack, where it lies within the payload (R247); no queue stands behind it, so none into a vital region (R113). -/
def inputBulk (sig code : Nat) (data : List Byte) (ts : Nat) (old : Bool) (s : State) : State :=
  let s1 := seeEntry s sig
  match entryOf s sig with
  | none => incF s1 CHT_CNT1_OWNDROP
  | some e =>
    if !e.bulk && !(e.frz || (e.mirror && isStandby s)) then incF s1 CHT_CNT1_OWNDROP
    else match judge s e (.input code) old with
      | .write => if (regionsAt s e.area e.areaLen).isEmpty then putBulk sig e data ts 1 code s1 else incF s1 CHT_CNT1_OWNDROP
      | j => dropInput j s1

/-- The first SEALERR or SEQERR of a cycle raises a NOTE; records are written for WATCH entries (R246, R250). -/
def sealFail (sig kind : Nat) (e : Entry) (seq : Nat) (s : State) : State :=
  let s1 := raiseOnce 0x20003 NOTE (chtLoc 0x04) s
  if e.watch then eventRecord sig kind e.qual seq s1 else s1

/-- SEQWIN in force: 0 is taken as 1 (R257). -/
def seqWin (s : State) : Nat := max 1 (liveF s CHT_CTRL_SEQWIN)

/-- The safety code of a sealed update (R249). -/
def sealCode (seed ssrc seq : Nat) (pay : List Byte) : Nat := crc32c (toLE 4 seed ++ toLE 2 ssrc ++ toLE 1 seq ++ pay)

/-- The context is an enabled session and its code matches the 17 bytes of an element (R249, R250). -/
def sealMatches (s : State) (flow : Nat) (el : List Byte) : Bool :=
  let raw := fc2 s flow
  onF s (BKB_FC_0_EN flow) && getF s (BKB_FC_0_KIND flow) == 2
    && sealCode (bits raw 0 32) (bits raw 32 16) (leAt el 12 1) (el.take 12) == leAt el 13 4

/-- A SEALED element of an unpack (R250). -/
def inputSealed (sig code flow : Nat) (el : List Byte) (ts : Nat) (old : Bool) (s : State) : State :=
  let s1 := seeEntry s sig
  match entryOf s sig with
  | none => incF s1 CHT_CNT1_OWNDROP
  | some e =>
    if e.frz then s1
    else if e.mirror && isStandby s then incF s1 CHT_CNT2_MIRSKIP
    else if !e.sealed then incF s1 CHT_CNT1_OWNDROP
    else
      let seq := leAt el 12 1
      let d := (seq + 256 - e.seq) % 256
      if !sealMatches s flow el then sealFail sig 3 e seq (evtCht CHT_EVT_SEALERR (incF s1 CHT_CNT1_SEALERR))
      else if e.valid && d == 0 then incF s1 CHT_CNT1_REPEAT
      else if e.valid && decide (seqWin s < d) then sealFail sig 4 e seq (incF s1 CHT_CNT1_SEQERR)
      else match judge s e (.input code) old with
        | .write => putEntry sig e { e with value := if e.bulk then e.value else el.take 12 ++ (el.drop 13).take 4, ts := ts, qual := 3, seq := seq, source := code } s1
        | j => dropInput j s1

/-! ### Maps (R235–R241) -/

/-- The map directory, where `CHT_MAPBASE` places it wholly in DRAM outside the image (R235). -/
def mapDir (s : State) : Option Nat :=
  let a := alignDown (getF s CHT_MAPBASE_BASE) (2 ^ 20)
  if dramOffChart a 0x100000 then some a else none

/-- A directory entry (R235). -/
structure MapDir where
  addr : Nat
  count : Nat
  mode : Nat
  plen : Nat
  rsv : Nat
  deriving DecidableEq, Repr

def parseDir (d : List Byte) : MapDir := ⟨leAt d 0 5, leAt d 5 2, leAt d 7 1, leAt d 8 2, leAt d 10 6⟩
/-- DIR: 1 UNPACK, 2 PACK. -/
def MapDir.dir (m : MapDir) : Nat := m.mode % 4
def MapDir.pin (m : MapDir) : Bool := bit m.mode 2
def MapDir.invz (m : MapDir) : Bool := bit m.mode 3

/-- The first failing check of reasons 1–3 on a directory entry (R240). -/
def dirReason (m : MapDir) : Option Nat :=
  let rsv := m.rsv != 0 || m.mode / 16 != 0
  if m.count != 0 && !(dramOffChart m.addr (8 * m.count) && m.addr % 8 == 0) then some 1
  else if 4096 < m.count then some 2
  else if rsv || (m.count != 0 && !((m.dir == 1 && m.plen == 0) || (m.dir == 2 && decide (m.plen ≤ 2048)))) then some 3
  else none

/-- An element (R236). -/
structure Elem where
  sig : Nat
  ekind : Nat
  order : Bool
  signed : Bool
  bit : Nat
  offset : Nat
  width : Nat
  flow : Nat
  rsv : Nat
  deriving DecidableEq, Repr

def parseElem (d : List Byte) : Elem :=
  let n := leAt d 0 8
  { sig := bits n 0 25, ekind := bits n 25 2, order := Sys2Proof.Machine.bit n 27, signed := Sys2Proof.Machine.bit n 28, bit := bits n 29 3, offset := bits n 32 11, width := bits n 43 8, flow := bits n 51 8, rsv := bits n 59 5 }

/-- The first payload bit of a PLAIN element (R237). -/
def Elem.k0 (e : Elem) : Nat := e.offset * 8 + e.bit

/-- The first failing check of reasons 4–7 on an element; `limit` is PLEN for PACK and 2,048 for UNPACK (R240). -/
def elemReason (limit : Nat) (e : Elem) : Option Nat :=
  let plain := e.ekind == 0
  if e.ekind == 3 || (plain && !(decide (1 ≤ e.width) && decide (e.width ≤ 128))) || (!plain && (e.width != 0 || e.bit != 0 || e.order || e.signed)) then some 4
  else if (if plain then decide (limit * 8 < e.k0 + e.width) else if e.ekind == 1 then decide (limit < e.offset + 17) else decide (limit ≤ e.offset)) then some 5
  else if e.sig = 0 then some 6
  else if (e.ekind != 1 && e.flow != 0) || e.rsv != 0 then some 7
  else none

/-- The elements in an element list's bytes. -/
def parseElems : Nat → List Byte → List Elem
  | 0, _ => []
  | n + 1, d => parseElem (d.take 8) :: parseElems n (d.drop 8)

/-- A map as the engine uses it: directory entry and elements; none where it is absent (R235, R241). An unreadable element codeword gives elements that
fail every check. -/
def lookupMap (s : State) (m : Nat) : Option (MapDir × List Elem) :=
  match mapDir s with
  | none => none
  | some base =>
    let (de, els) : Option (List Byte) × Option (List Byte) := match s.chart.pins.find? fun p => p.1 == m with
      | some p => (some p.2.1, some p.2.2)
      | none =>
        let d := readMem s (base + 16 * m) 16
        (d, d.map fun b => ((List.range (min 4096 (parseDir b).count)).map fun i => (readMem s ((parseDir b).addr + 8 * i) 8).getD (List.replicate 8 0)).flatten)
    match de, els with
    | some b, some l =>
      let md := parseDir b
      if (dirReason md).isSome || md.count = 0 then none else some (md, parseElems md.count l)
    | _, _ => none

/-- Reading an unpinned map records what its codewords show (R77). -/
def touchMap (s : State) (m : Nat) : State :=
  match mapDir s with
  | none => s
  | some base =>
    if s.chart.pins.any fun p => p.1 == m then s
    else
      let s1 := touch s chtReq (base + 16 * m) 16
      match readMem s (base + 16 * m) 16 with
      | some b => if (dirReason (parseDir b)).isSome then s1 else touch s1 chtReq (parseDir b).addr (8 * (parseDir b).count)
      | none => s1

/-- The value of WIDTH payload bits from k0 (R237). -/
def plainBits (order : Bool) (k0 w : Nat) (pay : List Byte) : Nat :=
  if order then beNat pay / 2 ^ (8 * pay.length - k0 - w) % 2 ^ w else leNat pay / 2 ^ k0 % 2 ^ w

/-- A PLAIN value extended to 128 bits (R238). -/
def plainValue (e : Elem) (pay : List Byte) : List Byte :=
  let v := plainBits e.order e.k0 e.width pay
  toLE 16 (if e.signed then ofInt 128 (sgn e.width v) else v)

/-- Place the low WIDTH bits of a value into a payload (R237, R239). -/
def placeBits (order : Bool) (k0 w v : Nat) (pay : List Byte) : List Byte :=
  if order then toBE pay.length (putBits (beNat pay) (8 * pay.length - k0 - w) w v) else toLE pay.length (putBits (leNat pay) k0 w v)

/-- Put bytes into a payload at an offset. -/
def placeBytes (o : Nat) (d pay : List Byte) : List Byte := pay.take o ++ d ++ pay.drop (o + d.length)

/-! ### Unpack and pack (R238, R239, R244) -/

/-- One element of an unpack; the flag tells that an element was skipped under R238 or R241. -/
def unpackElem (j : Job) (old : Bool) (e : Elem) (x : State × Bool) : State × Bool :=
  let (s, short) := x
  let n := j.payload.length
  if (elemReason 2048 e).isSome then (s, true)
  else if e.ekind = 0 then
    if 8 * n < e.k0 + e.width then (s, true) else (inputWrite e.sig j.code (plainValue e j.payload) j.ts 1 old s, short)
  else if e.ekind = 1 then
    if n < e.offset + 17 then (s, true) else (inputSealed e.sig j.code e.flow ((j.payload.drop e.offset).take 17) j.ts old s, short)
  else match entryOf s e.sig with
    | some en =>
      if en.bulk && decide (n < e.offset + en.areaLen) then (seeEntry s e.sig, true)
      else (inputBulk e.sig j.code ((j.payload.drop e.offset).take en.areaLen) j.ts old s, short)
    | none => (inputBulk e.sig j.code [] j.ts old s, short)

/-- The epoch a job carries is old against the current LASTEPOCH of its entry (R230, R231). -/
def jobOld (s : State) (j : Job) : Bool :=
  match j.ep with
  | some (e, k) => epochOld e (kget 0 s.rhl.lastEp k)
  | none => false

/-- Unpack a frame through its map (R238, R241). -/
def unpackJob (j : Job) (s0 : State) : State :=
  let s := touchMap s0 j.map
  match lookupMap s0 j.map with
  | some (md, els) =>
    if md.dir = 1 then
      let old := jobOld s j
      let r := els.foldl (fun x e => unpackElem j old e x) (s, false)
      if r.2 then incF r.1 CHT_CNT2_SHORT else r.1
    else incF s CHT_CNT0_NOMAP
  | none => incF s CHT_CNT0_NOMAP

/-- Write one record of a mirror message as input priority 4; `old` tells an old pair-role epoch (R229–R232, R253). -/
def mirrorRecord (old : Bool) (d : List Byte) (s : State) : State :=
  let sig := leAt d 0 4 % 2 ^ 25
  let new := parseEnt (d.drop 8)
  if sig = 0 then s
  else
    let s1 := seeEntry s sig
    match entryOf s sig with
    | none => incF s1 CHT_CNT1_OWNDROP
    | some e =>
      if e.frz then s1
      else if old then dropInput .stale s1
      else putEntry sig e { e with value := if e.bulk then e.value else new.value, ts := new.ts, qual := putBit new.qual 4 true, seq := new.seq, source := new.source } s1

/-- The records of a mirror message in order. -/
def mirrorRecords (old : Bool) : Nat → List Byte → State → State
  | 0, _, s => s
  | n + 1, d, s => if d.length < 40 then s else mirrorRecords old n (d.drop 40) (mirrorRecord old (d.take 40) s)

/-- READY clears, on the STANDBY (R440, R449). -/
def clearReady (cu : Bool) (s : State) : State :=
  if role s ≠ roleSTANDBY then s
  else
    let s1 := modPrl s fun p => { p with passDone := false, blkDone := [], cureq := p.cureq || cu }
    if onF s PRL_STAT_READY then raise MINOR (prlLoc 0x02) (evtPrl PRL_EVT_READYCHG (setF s1 PRL_STAT_READY 0)) else s1

/-- A mirror message is taken: its epoch is judged against PEPOCH as it is then, and a stale drop clears READY (R231, R440). -/
def mirrorJob (ep : Nat) (p : List Byte) (s : State) : State :=
  if epochRel ep (getF s PRL_PSTAT_PEPOCH) == .old then clearReady true (mirrorRecords true 230 p s) else mirrorRecords false 230 p s

/-- A frame or a mirror message arrives for unpack: dropped while the engine is off, dropped whole with OVERRUN where all 512 places are taken (R244, R257). -/
def offerJob (j : Job) (s : State) : State :=
  if !onF s CHT_CTRL_EN then s
  else if s.chart.jobs.length < 512 then modChart s fun c => { c with jobs := c.jobs ++ [j] }
  else raiseOnce 0x20004 MINOR (chtLoc 0x00) (evtCht CHT_EVT_OVERRUN (incF s CHT_CNT2_OVERRUN))

/-- A frame from another island crosses to the Chart engine (R409). -/
def sendJob (num tx : Nat) (j : Job) (s : State) : State := cross num tx 6 (.job j) (offerJob j) s

/-- A frame waits in the network engine for its tunnel context (R275). -/
def queueWrap (c m ts : Nat) (f : List Byte) (s : State) : State := { s with bkb := { s.bkb with toWrap := s.bkb.toWrap ++ [(c, m, ts, f)] } }

/-- A frame from another island crosses to a tunnel context (R275, R409). -/
def sendWrap (num tx c m ts : Nat) (f : List Byte) (s : State) : State := cross num tx 6 (.wrap c m ts f) (queueWrap c m ts f) s

/-- One element of a pack: payload and SHORT flag (R239, R241, R247). -/
def packElem (md : MapDir) (e : Elem) (x : State × List Byte × Bool) : State × List Byte × Bool :=
  let (s, pay, short) := x
  if (elemReason md.plen e).isSome then (s, pay, true)
  else
    let s1 := seeEntry s e.sig
    let en := entryOf s e.sig
    let zero := match en with
      | some v => md.invz && !v.valid
      | none => true
    if e.ekind = 0 then
      (s1, placeBits e.order e.k0 e.width (match en with | some v => if zero then 0 else leNat v.value | none => 0) pay, short)
    else if e.ekind = 1 then
      (s1, placeBytes e.offset (match en with
        | some v => if zero then List.replicate 17 0 else v.value.take 12 ++ toLE 1 v.seq ++ v.value.drop 12
        | none => List.replicate 17 0) pay, short)
    else match en with
      | some v =>
        if !v.bulk then (s1, pay, short)
        else if pay.length < e.offset + v.areaLen then (s1, pay, true)
        else
          let data := if zero then List.replicate v.areaLen 0 else (readMem s v.area v.areaLen).getD (List.replicate v.areaLen 0)
          (touch s1 chtReq v.area (if zero then 0 else v.areaLen), placeBytes e.offset data pay, short)
      | none => (s1, pay, short)

/-- Pack a payload through a map; nothing where the map is absent, which counts NOMAP, or the engine is off (R239, R241, R257). -/
def packMap (m : Nat) (s0 : State) : State × Option (List Byte) :=
  if !onF s0 CHT_CTRL_EN then (s0, none)
  else
    let s := touchMap s0 m
    match lookupMap s0 m with
    | some (md, els) =>
      if md.dir = 2 then
        let r := els.foldl (fun x e => packElem md e x) (s, List.replicate md.plen 0, false)
        (if r.2.2 then incF r.1 CHT_CNT2_SHORT else r.1, some r.2.1)
      else (incF s CHT_CNT0_NOMAP, none)
    | none => (incF s CHT_CNT0_NOMAP, none)

/-! ### The order of the inputs (R229) -/

/-- The Chart write of an input reaches the Chart engine, which drops it with EN 0 (R229, R257). -/
def chartIn (sig code : Nat) (value : List Byte) (ts qual : Nat) (s : State) : State :=
  if onF s CHT_CTRL_EN then inputWrite sig code value ts qual false s else s

/-- An input sends its Chart write, over the crossing from the fabric to the NET island (R409). -/
def sendChart (sig code : Nat) (value : List Byte) (ts qual : Nat) (s : State) : State :=
  cross 5 3 6 (.chart sig code value ts qual) (chartIn sig code value ts qual) s

/-- The oldest queued publication is sent to its Chart entry; while no lane is free the readings wait in the FIO island (R229, R244, R321, R404). -/
def publishField (s0 : State) : State :=
  match s0.fio.pubs with
  | [] => s0
  | p :: r =>
    if !laneFree 5 3 0 s0.xings then s0
    else
      let s := modFio s0 fun f => { f with pubs := r }
      let s1 := setB s (FIO_CHSTAT_VALID p.ch) p.valid
      let sig := liveF s (FIO_CHSIG_SIGID p.ch)
      if sig = 0 then s1 else sendChart sig (20 * 2048 + p.ch) p.value p.ts (b2n p.valid) s1

/-- The readings of the field channels that wait are written, oldest first. -/
def serveFields (s : State) : State := forN (fun _ t => publishField t) 0 s.fio.pubs.length s

/-- The engine takes a frame or a mirror message; with EN 0 it is dropped (R257). -/
def takeJob (j : Job) (s : State) : State :=
  if !onF s CHT_CTRL_EN then s
  else match j.mirror with
    | some ep => mirrorJob ep j.payload s
    | none => unpackJob j s

/-- Take the work of priorities 3 and 4 that comes next: the oldest frame, or where none waits the oldest mirror message. -/
def serveJob (s : State) : State :=
  match (s.chart.jobs.find? fun j => j.mirror.isNone).or s.chart.jobs.head? with
  | none => s
  | some j => takeJob j (modChart s fun c => { c with jobs := c.jobs.erase j })

/-- All work of priorities 2 to 4 that waits. -/
def serveInputs (s0 : State) : State :=
  let s := serveFields s0
  forN (fun _ t => serveJob t) 0 s.chart.jobs.length s

/-! ### Descriptors (R255, R256) -/

/-- The code under which a queue publishes; OWNCLS 5–7 act as 0 (R47, R230). -/
def queueCode (s : State) (Q : Nat) : Option Nat :=
  let c := getF s (QCTRL_OWNCLS Q)
  if c = 1 then some (22 * 2048 + getF s (QCTRL_OWNID Q)) else if c = 2 then some (23 * 2048 + getF s (QCTRL_OWNID Q))
  else if c = 3 ∨ c = 4 then none else some (24 * 2048)

/-- The state after one descriptor, its status and its RESULT. -/
abbrev DescResult := State × Nat × Nat

/-- The status of a descriptor that R230 drops; a drop under its second row has no status of its own and completes with OK (notes/assumptions/22.md). -/
def judgedStatus (j : Judged) : Nat :=
  match j with
  | .frozen => 0x0104
  | .owner => 0x0100
  | .stale => stSTALE
  | _ => stOK

/-- PUB, PUBSUB, PUBLIM and INVAL (R255); none from a queue bound to a pair role or a node role (R230). -/
def publish (Q sig qual : Nat) (value : Option (List Byte)) (s : State) : DescResult :=
  match queueCode s Q with
  | none => (s, 0x0100, 0)
  | some code =>
  let s1 := seeEntry s sig
  match entryOf s sig with
  | none => (s1, stCODE, 0)
  | some e =>
    match judge s e (.publish code) false with
    | .write => (putEntry sig e (updated e (value.getD e.value) (ts64 s) qual code) s1, stOK, 0)
    | j => (if j = .standby then incF s1 CHT_CNT2_MIRSKIP else s1, judgedStatus j, 0)

/-- PUBBULK (R113, R247, R255): neither the source nor the area may lie where the queue's owner may not reach. -/
def publishBulk (Q sig a : Nat) (s : State) : DescResult :=
  match queueCode s Q with
  | none => (s, 0x0100, 0)
  | some code =>
  let s1 := seeEntry s sig
  match entryOf s sig with
  | none => (s1, stCODE, 0)
  | some e =>
    match judge s e (.publish code) false with
    | .write =>
      if !e.bulk then (s1, 0x0102, 0)
      else if !engineMay s Q a e.areaLen false || !regionMay s Q e.area e.areaLen true then (s1, stACCESS, 0)
      else match readMem s a e.areaLen with
        | some d => (putBulk sig e d (ts64 s) 1 code (touch s1 chtReq a e.areaLen), stOK, 0)
        | none => (touch s1 chtReq a e.areaLen, stCODE, 0)
    | j => (if j = .standby then incF s1 CHT_CNT2_MIRSKIP else s1, judgedStatus j, 0)

/-- FORCE with a value, or UNFORCE; an entry with VOWN is its triad's (R254). -/
def forceEntry (sig : Nat) (value : Option (List Byte)) (s : State) : DescResult :=
  let s1 := seeEntry s sig
  match entryOf s sig with
  | none => (s1, stCODE, 0)
  | some e => if e.vown then (s1, 0x0100, 0) else match judge s e .force false with
    | .write => match value with
      | some v => (putEntry sig e { updated e v (ts64 s) 9 e.source with flags := putBit e.flags 5 true } s1, stOK, 0)
      | none => (putEntry sig e { updated e e.value (ts64 s) 0 e.source with flags := putBit e.flags 5 false } s1, stOK, 0)
    | j => (if j = .standby then incF s1 CHT_CNT2_MIRSKIP else s1, judgedStatus j, 0)

/-- A bulk area that a CFG may give (R247, R255). -/
def areaOk (v : List Byte) : Bool :=
  let a := leAt v 0 5
  let n := leAt v 5 2
  decide (17 ≤ n) && a % 32 == 0 && leAt v 7 1 == 0 && dramOffChart a n

/-- CFG (R255). -/
def configure (Q sig : Nat) (d : List Byte) (s : State) : DescResult :=
  let s1 := seeEntry s sig
  let type := leAt d 8 1
  let flags := leAt d 9 1
  let source := leAt d 10 2
  let v := (d.drop 16).take 8
  let triad := getF s (QCTRL_OWNCLS Q) == 1
  if 64 ≤ flags || leAt d 14 2 != 0 || (type % 16 == 6 && !areaOk v) || (bit flags 2 && !(bit flags 4 && source / 2048 == 22)) then (s, stBADLEN, 0)
  else
    let old := (entryOf s sig).getD ⟨List.replicate 16 0, 0, 0, 0, 0, 0, 0, 0⟩
    if (entryOf s sig).isNone && !triad then (s1, stCODE, 0)
    else if (bit flags 2 || old.vown) && !triad then (s1, 0x0100, 0)
    else if old.vown && old.source != 22 * 2048 + getF s (QCTRL_OWNID Q) then (s1, 0x0100, 0)
    else (putEntry sig old { value := v ++ List.replicate 8 0, ts := 0, qual := 0, type := type, flags := flags, seq := 0, source := source, limit := leAt d 12 2 } s1, stOK, 0)

/-- SNAP (R255): each entry is copied whole; an unreadable one ends it with CODE and nothing copied. -/
def snapshot (Q sig a n : Nat) (s : State) : DescResult :=
  if n < 1 ∨ 4096 < n ∨ 2 ^ 25 < sig + n then (s, stBADLEN, 0)
  else if !engineMay s Q a (32 * n) true then (s, stACCESS, 0)
  else
    let s1 := touch s chtReq (32 * sigCw sig) (32 * n)
    match readMem s (32 * sigCw sig) (32 * n) with
    | some d => (writeMem s1 chtReq a d, stOK, 0)
    | none => (s1, stCODE, 0)

/-- One descriptor other than MAPSET (R255). -/
def doDescriptor (Q : Nat) (d : List Byte) (s : State) : DescResult :=
  let opc := dByte d 0
  let p := leAt d 4 4
  let v := (d.drop 8).take 16
  if opc = 0 then (s, stOK, 0)
  else if opc = 8 ∨ 10 < opc then (s, stBADOP, 0)
  else if 2 ^ 25 ≤ p ∨ p = 0 then (s, stBADLEN, 0)
  else if opc = 1 then publish Q p 0x01 (some v) s
  else if opc = 2 then publish Q p 0x05 (some v) s
  else if opc = 3 then publish Q p 0x21 (some v) s
  else if opc = 4 then publish Q p 0x00 none s
  else if opc = 5 then configure Q p d s
  else if opc = 6 then forceEntry p (some v) s
  else if opc = 7 then forceEntry p none s
  else if opc = 9 then publishBulk Q p (dAddr d 8) s
  else snapshot Q p (dAddr d 8) (leAt d 16 4) s

/-- The descriptors of an operation. -/
def opDescs (s : State) (o : QOp) : List (List Byte) :=
  (List.range o.n).map fun k => (descriptor s o.q (o.idx + k)).getD (List.replicate 32 0)

/-! ### MAPSET (R240) -/

/-- The first failing element of a list from index i. -/
def firstBad (limit : Nat) : Nat → List Elem → Option (Nat × Nat)
  | _, [] => none
  | i, e :: r => match elemReason limit e with
    | some k => some (i, k)
    | none => firstBad limit (i + 1) r

/-- Pinned maps and elements with a set of new directory entries in force. -/
def pinsWith (s : State) (new : List (Nat × List Byte)) : Nat × Nat :=
  let old := s.chart.pins.filter fun p => !new.any fun x => x.1 == p.1
  let add := new.filter fun x => (parseDir x.2).pin && (parseDir x.2).count != 0
  (old.length + add.length, (old.map fun p => (parseDir p.2.1).count).foldl (· + ·) 0 + (add.map fun x => (parseDir x.2).count).foldl (· + ·) 0)

/-- The queue's owner may reach the element list of a new directory entry (R43, R113). -/
def listMay (s : State) (Q : Nat) (md : MapDir) : Bool := md.count == 0 || engineMay s Q md.addr (8 * md.count) false

/-- Directory entries, the later of two for one map standing. -/
def overlay (old new : List (Nat × List Byte)) : List (Nat × List Byte) := (old.filter fun p => !new.any fun x => x.1 == p.1) ++ new

/-- The checked maps of all operations that have not taken effect. -/
def waitingMaps (s : State) : List (Nat × List Byte) := s.chart.pendMaps.foldl (fun l w => overlay l w.maps) []

/-- The pinned maps and elements stay within the map memory once all checked maps, these among them, have taken effect (R240). -/
def pinsFit (s : State) (new : List (Nat × List Byte)) : Bool :=
  let n := pinsWith s (overlay (waitingMaps s) new)
  decide (n.1 ≤ 4096) && decide (n.2 ≤ 65536)

/-- Read and check n elements of a list from index i on, in order, as far as the first failure: status and RESULT (R240). -/
def checkElems (s : State) (a limit : Nat) : Nat → Nat → Option (Nat × Nat)
  | 0, _ => none
  | n + 1, i => match readMem s (a + 8 * i) 8 with
    | none => some (stCODE, 0)
    | some d => match elemReason limit (parseElem d) with
      | some k => some (0x0101, i + k * 2 ^ 16)
      | none => checkElems s a limit n (i + 1)

/-- The elements of a list that the check reads. -/
def elemsRead (s : State) (a limit : Nat) : Nat → Nat → Nat
  | 0, i => i
  | n + 1, i => match readMem s (a + 8 * i) 8 with
    | none => i + 1
    | some d => if (elemReason limit (parseElem d)).isSome then i + 1 else elemsRead s a limit n (i + 1)

/-- The payload limit of a map's elements. -/
def MapDir.limit (md : MapDir) : Nat := if md.dir = 2 then md.plen else 2048

/-- Check one new directory entry and its elements in order (R235, R240): status and RESULT of the first failure; `may` tells whether its list may be reached. -/
def checkMap (s : State) (may : MapDir → Bool) (pend : List (Nat × List Byte)) (m : Nat) (de : List Byte) : Option (Nat × Nat) :=
  let md := parseDir de
  match mapDir s with
  | none => some (stACCESS, 0)
  | some _ => match dirReason md with
    | some k => some (0x0101, 0xFFFF + k * 2 ^ 16)
    | none =>
      if !may md then some (stACCESS, 0)
      else match checkElems s md.addr md.limit md.count 0 with
        | some e => some e
        | none => if pinsFit s (overlay pend [(m, de)]) then none else some (0x0103, 0)

/-- The check of a directory entry reads elements of its list, which records what the codewords show (R77). -/
def touchList (Q : Nat) (de : List Byte) (s : State) : State :=
  let md := parseDir de
  if (mapDir s).isNone || (dirReason md).isSome || !listMay s Q md then s else touch s chtReq md.addr (8 * elemsRead s md.addr md.limit md.count 0)

/-- Directory entries may be written for queue Q: the directory stands in DRAM, and no vital region keeps the queue out (R113, R235). -/
def mapsMay (s : State) (Q : Nat) (ms : List (Nat × List Byte)) : Bool :=
  match mapDir s with
  | none => false
  | some base => ms.all fun x => regionMay s Q (base + 16 * x.1) 16 true

/-- Put directory entries into force together: directory, map memory and the pinned counts (R240). -/
def installMaps (ms : List (Nat × List Byte)) (s : State) : State :=
  match mapDir s with
  | none => s
  | some base =>
    let pinned := (ms.filter fun x => (parseDir x.2).pin && (parseDir x.2).count != 0).map fun x =>
      (x.1, x.2, (readMem s (parseDir x.2).addr (8 * (parseDir x.2).count)).getD [])
    let s1 := ms.foldl (fun t x => writeMem t chtReq (base + 16 * x.1) x.2) s
    let n := pinsWith s ms
    setF (setF (modChart s1 fun c => { c with pins := (c.pins.filter fun p => !ms.any fun x => x.1 == p.1) ++ pinned }) CHT_STAT_PINMAPS n.1) CHT_STAT_PINELEM n.2

/-! ### Operations (R44, R255) -/

/-- Carry out the descriptors of an operation in ring order; the first that fails stops it (R255). What results: the state, the maps that passed
their check, the status, the index of the failing descriptor or 0xFF, and its RESULT. -/
def runChain (Q : Nat) : Nat → List (List Byte) → List (Nat × List Byte) → State → State × List (Nat × List Byte) × Nat × Nat × Nat
  | _, [], acc, s => (s, acc, stOK, 0xFF, 0)
  | k, d :: r, acc, s =>
    if dByte d 0 = 8 then
      match checkMap s (listMay s Q) acc (leAt d 4 2) ((d.drop 8).take 16) with
      | some e => (touchList Q ((d.drop 8).take 16) s, acc, e.1, k, e.2)
      | none => runChain Q (k + 1) r (overlay acc [(leAt d 4 2, (d.drop 8).take 16)]) (touchList Q ((d.drop 8).take 16) s)
    else
      let x := doDescriptor Q d s
      if x.2.1 = stOK then runChain Q (k + 1) r acc x.1 else (x.1, acc, x.2.1, k, x.2.2)

/-- RESULT of an operation: byte 31 holds the index unless it consists of MAPSETs (R240, R255). -/
def chainResult (ds : List (List Byte)) (idx res : Nat) : Nat := res + if ds.all fun d => dByte d 0 == 8 then 0 else idx * 2 ^ 56

/-- Carry out an operation that its queue carries out next and that has not started (R44, R255). Maps that passed wait to take effect together, and the operation ends then (R240). -/
def publishOp (o : QOp) (s : State) : State :=
  match currentOp s o.q with
  | none => s
  | some c =>
    if c.idx ≠ o.idx || c.started then s
    else starting o.q (some c) s fun o =>
      let ds := opDescs s o
      let x := runChain o.q 0 ds [] s
      let res := chainResult ds x.2.2.2.1 x.2.2.2.2
      if x.2.1.isEmpty then finish x.1 o { status := x.2.2.1, ts := if x.2.2.1 = stOK then ts96 s else 0, res := res }
      else modChart (startOp x.1 o) fun c => { c with pendMaps := c.pendMaps ++ [⟨o.q, o.idx, x.2.2.1, res, x.2.1⟩] }

/-- The operations of the publish queues that the engine has taken, in order of arrival (R229). -/
def publishOps (s : State) : List QOp := s.qops.filter fun o => o.q / 128 == 12

/-- Carry out the operation of queue q whose opcode is opc, after the inputs of higher priority that wait and the operations that have arrived before it (R229). -/
def runPublish (q opc : Nat) (s0 : State) : State :=
  let s := serveInputs s0
  if !onF s CHT_CTRL_EN then s
  else match currentOpc s (0x600 + q) opc with
    | none => s
    | some o => publishOp o (((publishOps s).takeWhile fun x => x.q != o.q || x.idx != o.idx).foldl (fun t x => publishOp x t) s)

/-- The checked maps that have waited longest take effect, and their operation ends; with ACCESS where the directory may not be written any more (R114, R235, R240). -/
def mapsTakeEffect (s : State) : State :=
  match s.chart.pendMaps with
  | [] => s
  | w :: r =>
    let may := mapsMay s w.q w.maps
    let s0 := modChart s fun c => { c with pendMaps := r }
    let s1 := if may then installMaps w.maps s0 else s0
    match (opsOf s1 w.q).find? fun o => o.idx == w.idx with
    | some o =>
      if may then finish s1 o { status := w.status, ts := if w.status = stOK then ts96 s else 0, res := w.res }
      else finish s1 o { status := stACCESS, res := w.res }
    | none => s1

/-! ### The sweep (R245) -/

/-- The age of an entry in ns, its seconds counted modulo 2³² as in R228, a negative age taken as 0 (R245). -/
def ageNs (ts now : Nat) : Nat :=
  let d : Nat := (now / 2 ^ 32 + 2 ^ 32 - ts / 2 ^ 32 % 2 ^ 32) % 2 ^ 32
  (((d * 1000000000 : Nat) : Int) + ((now % 2 ^ 30 : Nat) : Int) - ((ts % 2 ^ 30 : Nat) : Int)).toNat

/-- The time state is FREE or LOST. -/
def unsyncedState (v : Nat) : Bool := v == 0 || v == 3

/-- The sweep reads one listed entry (R230, R245). -/
def sweepEntry (sig : Nat) (s : State) : State :=
  if sig = 0 then s
  else
    let s1 := seeEntry s sig
    match entryOf s sig with
    | none => s1
    | some e =>
      if !e.watch || e.frz || e.limit == 0 || !e.valid || e.stale then s1
      else if e.mirrored && (unsyncedState (bits e.ts 30 2) || unsyncedState (getF s MER_STAT_STATE)) then s1
      else if ageNs e.ts (ts64 s) ≤ e.limit * 100000 then s1
      else if e.mirror && isStandby s then incF s1 CHT_CNT2_MIRSKIP
      else
        let n := { e with qual := putBit e.qual 6 true }
        eventRecord sig 1 n.qual n.seq (putEntry sig e n s1)

/-- The watched list: identifiers in order; an unreadable element is passed over (R245). -/
def watchedList (s : State) : List Nat :=
  let base := alignDown (getF s CHT_WATCHBASE_BASE) 64
  (List.range (min (liveF s CHT_WATCHCNT_COUNT) 1048576)).map fun i => ((readMem s (base + 4 * i) 4).map leNat).getD 0 % 2 ^ 25

/-- The descriptors that the engine has taken and not started. -/
def serveDescriptors (s0 : State) : State :=
  let s := serveInputs s0
  if onF s CHT_CTRL_EN then (publishOps s).foldl (fun t o => publishOp o t) s else s

/-- A pass over the watched list, after the inputs of higher priority that wait (R229); `late` tells that it was still unfinished at the next cycle start
(R245, R258). -/
def sweep (late : Bool) (x : State) : State :=
  let s := serveDescriptors x
  if !onF s CHT_CTRL_EN || !onL s CHT_CTRL_SWEEPEN then s
  else
    let l := watchedList s
    let s0 := touch s chtReq (alignDown (getF s CHT_WATCHBASE_BASE) 64) (4 * l.length)
    let s1 := l.foldl (fun t sig => sweepEntry sig t) s0
    let s2 := if late then raiseOnce 0x20005 NOTE (chtLoc 0x05) (evtCht CHT_EVT_SWEEPLATE (incF s1 CHT_SWEEP_LATE)) else s1
    incW s2 CHT_SWEEP_PASSES

/-! ### The commands -/

/-- `UNPACK_FRAME` (R229, R238): the oldest frame awaiting unpack, after the readings of the field channels that wait; where no frame waits, the oldest mirror
message. -/
def execUnpackFrame (s : State) : Host.Outcome State Fault Refusal := onEngine 6 s fun s => .next (serveJob (serveFields s))

/-- `PUB` (R255). -/
def execPub (q : Fin 128) (s : State) : Host.Outcome State Fault Refusal := onEngine 6 s fun s => .next (runPublish q.val 1 s)

/-- `PUBSUB` (R255). -/
def execPubsub (q : Fin 128) (s : State) : Host.Outcome State Fault Refusal := onEngine 6 s fun s => .next (runPublish q.val 2 s)

/-- `PUBLIM` (R255). -/
def execPublim (q : Fin 128) (s : State) : Host.Outcome State Fault Refusal := onEngine 6 s fun s => .next (runPublish q.val 3 s)

/-- `INVAL` (R255). -/
def execInval (q : Fin 128) (s : State) : Host.Outcome State Fault Refusal := onEngine 6 s fun s => .next (runPublish q.val 4 s)

/-- `CFG` (R255). -/
def execCfg (q : Fin 128) (s : State) : Host.Outcome State Fault Refusal := onEngine 6 s fun s => .next (runPublish q.val 5 s)

/-- `FORCE` (R254). -/
def execForce (q : Fin 128) (s : State) : Host.Outcome State Fault Refusal := onEngine 6 s fun s => .next (runPublish q.val 6 s)

/-- `UNFORCE` (R254). -/
def execUnforce (q : Fin 128) (s : State) : Host.Outcome State Fault Refusal := onEngine 6 s fun s => .next (runPublish q.val 7 s)

/-- `MAPSET` (R240). -/
def execMapset (q : Fin 128) (s : State) : Host.Outcome State Fault Refusal := onEngine 6 s fun s => .next (runPublish q.val 8 s)

/-- `MAP_TAKE_EFFECT` (R240). -/
def execMapTakeEffect (s : State) : Host.Outcome State Fault Refusal := onEngine 6 s fun s => .next (mapsTakeEffect s)

/-- `PUBBULK` (R255). -/
def execPubbulk (q : Fin 128) (s : State) : Host.Outcome State Fault Refusal := onEngine 6 s fun s => .next (runPublish q.val 9 s)

/-- `SNAP` (R255). -/
def execSnap (q : Fin 128) (s : State) : Host.Outcome State Fault Refusal := onEngine 6 s fun s => .next (runPublish q.val 10 s)

/-- `SWEEP_PASS` (R245). -/
def execSweepPass (late : Bool) (s : State) : Host.Outcome State Fault Refusal := onEngine 6 s fun s => .next (sweep late s)

end Sys2Proof.Machine
end

