-- ==== Sys2Proof/Machine/Can.lean ====
section
/-! DEFINITION. The CAN FD and CAN XL channels (R282–R302). -/

namespace Sys2Proof.Machine

/-- A channel's own state. -/
def canCh (s : State) (n : Nat) : CanCh := s.can.getD n {}

/-- Change it; CSTAT.FIFO follows the FIFO. -/
def modCan (s : State) (n : Nat) (f : CanCh → CanCh) : State :=
  let s1 := { s with can := modAt s.can n f }
  setF s1 (MDB_CSTAT_FIFO n) (canCh s1 n).fifo.length

/-- Engine-specific statuses (R288). -/
def stLATE : Nat := 0x0100
def stCANCELLED : Nat := 0x0101
def stRETRYLIM : Nat := 0x0102
def stBUSOFF : Nat := 0x0103
def stBADFMT : Nat := 0x0104
def stNOTFOUND : Nat := 0x0105

/-- A SOF stamp, a time value in 1/64 ns, as TS96 (R164, R173). -/
def tsSof (s : State) (sof : Nat) : Nat := tsOf s (sof / 64)

/-! ### States and bit timing (R285, R298) -/

/-- `MDB_CSTAT.STATE` changes (R298, R302). -/
def setCanState (n v : Nat) (s : State) : State :=
  if getF s (MDB_CSTAT_STATE n) = v then s
  else
    let s1 := evtCan n (MDB_EVT_STCHG n) (setFBit (setF s (MDB_CSTAT_STATE n) v) MDB_STAT_BUSOFF n (v == 4))
    if v = 3 then raise NOTE (canLoc n 0x01) (evtCan n (MDB_EVT_PASSIVE n) s1) else s1

/-- A bit time in quanta of 12.5 ns: 0 in a field is taken as 1 (R285, R299). -/
def bitTime (brp tseg1 tseg2 : Nat) : Nat := (1 + max 1 tseg1 + max 1 (tseg2 % 128)) * max 1 brp

/-- The bit timing passes R285: at most 1 Mbit/s is at least 80 quanta, 10 kbit/s 8,000, 8 Mbit/s 10, 10 Mbit/s 8. -/
def timingOk (s : State) (n : Nat) : Bool :=
  let nb := bitTime (getF s (MDB_NBT_BRP n)) (getF s (MDB_NBT_TSEG1 n)) (getF s (MDB_NBT_TSEG2 n))
  let db := bitTime (getF s (MDB_DBT_BRP n)) (getF s (MDB_DBT_TSEG1 n)) (getF s (MDB_DBT_TSEG2 n))
  let xb := bitTime (getF s (MDB_XBT_BRP n)) (getF s (MDB_XBT_TSEG1 n)) (getF s (MDB_XBT_TSEG2 n))
  let fd := onF s (MDB_CCTRL_FDEN n)
  let xl := onF s (MDB_CCTRL_XLEN n)
  let fast := onF s (MDB_XBT_FAST n)
  decide (80 ≤ nb) && decide (nb ≤ 8000) && (!fd || (decide (db ≤ nb) && decide (10 ≤ db)))
    && (!xl || (decide (xb ≤ nb) && decide ((if fast then 8 else 10) ≤ xb))) && (!fast || (xl && !fd))

/-- `MDB_CCTRL.EN` written 1 (R285). DESIGN CHOICE: while a frame begun before EN was written 0 is still being sent, the write is ignored (notes/assumptions/66.md). -/
def enableCan (n : Nat) (s : State) : State :=
  if onF s (MDB_CCTRL_EN n) || (canCh s n).closing then s
  else if !timingOk s n then evtCan n (MDB_EVT_BTERR n) s
  else setCanState n 1 (setFBit (setF s (MDB_CCTRL_EN n) 1) MDB_STAT_EN n true)

/-! ### Receiving (R294–R297) -/

/-- A frame as the receiver holds it. -/
structure RxFrame where
  ts : Nat
  medium : Nat
  record : List Byte
  data : List Byte
  deriving DecidableEq, Repr

/-- The match of a filter, from its fields (R294). -/
def filterMatch (fid ide mask fmt vcid vmask : Nat) (f : RxFrame) : Bool :=
  let w := leAt f.record 0 4
  let v := if f.medium = 3 then leAt f.record 6 1 else 0
  ((w % 2 ^ 29) ^^^ fid) &&& mask == 0 && b2n (bit w 29) == ide && bit fmt (f.medium - 1)
    && (v ^^^ vcid) &&& vmask == 0

/-- High-priority filter k matches. -/
def hpMatch (s : State) (n k : Nat) (f : RxFrame) : Bool :=
  onL s (MDB_HFLT_1_EN n k) && filterMatch (liveF s (MDB_HFLT_0_ID n k)) (liveF s (MDB_HFLT_0_IDE n k)) (liveF s (MDB_HFLT_0_MASK n k)) (liveF s (MDB_HFLT_1_FMT n k)) (liveF s (MDB_HFLT_1_VCID n k)) (liveF s (MDB_HFLT_1_VCIDMASK n k)) f

/-- Receive filter k matches. -/
def rxMatch (s : State) (n k : Nat) (f : RxFrame) : Bool :=
  onL s (MDB_FLT_1_EN n k) && filterMatch (liveF s (MDB_FLT_0_ID n k)) (liveF s (MDB_FLT_0_IDE n k)) (liveF s (MDB_FLT_0_MASK n k)) (liveF s (MDB_FLT_1_FMT n k)) (liveF s (MDB_FLT_1_VCID n k)) (liveF s (MDB_FLT_1_VCIDMASK n k)) f

/-- The 96 bytes of a high-priority entry (R301). -/
def hpBytes (idx : Nat) (f : RxFrame) : List Byte :=
  toLE 12 f.ts ++ f.record ++ toLE 2 f.data.length ++ toLE 1 idx ++ toLE 1 (b2n (decide (64 < f.data.length))) ++ toLE 4 0
    ++ (f.data ++ List.replicate 64 0).take 64

/-- The HP buffer action (R296). -/
def storeHp (n idx : Nat) (f : RxFrame) (s : State) : State :=
  let c := getF s (MDB_HPSTAT_COUNT n)
  if 16 ≤ c then raiseOnce (0x21000 + n) NOTE (canLoc n 0x04) (evtCan n (MDB_EVT_HPOVF n) (incF s (MDB_CNT2_HPOVF n)))
  else
    let k := (getF s (MDB_HPSTAT_HEAD n) + c) % 16
    let b := hpBytes idx f
    let s1 := forN (fun w t => setF t (MDB_HPE_DATA n k w) (leAt b (8 * w) 8)) 0 12 s
    sendTarget (canLoc n 0x04) (MDB_HPIRQ_EIID n).addr (setF s1 (MDB_HPSTAT_COUNT n) (c + 1))

/-- The RING action (R297). -/
def storeRing (n idx : Nat) (f : RxFrame) (s : State) : State :=
  takePosted (0x808 + n) s (fun t => evtCan n (MDB_EVT_NOBUF n) (incF t (MDB_CNT1_NOBUF n))) fun o t =>
    fillPosted (0x808 + n) 0x48 o (f.record ++ f.data) { status := stOK, ts := f.ts, res := f.medium + idx * 2 ^ 8 + f.data.length * 2 ^ 16 } t

/-- The MAP action (R295). -/
def mapAction (n idx map : Nat) (f : RxFrame) (s : State) : State :=
  sendJob 15 9 { map := map, code := 18 * 2048 + n * 256 + idx, ts := f.ts % 2 ^ 64, payload := f.data } s

/-- Context c is an enabled TUNENC context with SRC src (R275). -/
def tunencFor (s : State) (c src : Nat) : Bool :=
  onF s (BKB_FC_0_EN c) && getF s (BKB_FC_0_KIND c) == 3 && fc2 s c % 2 == src

/-- The TUN action (R295). -/
def tunAction (n c : Nat) (f : RxFrame) (s : State) : State :=
  if tunencFor s c 0 then sendWrap 15 9 c f.medium f.ts (f.record ++ f.data) s
  else incF s (MDB_CNT2_TUNDROP n)

/-- The first matching filter decides a frame (R294, R295). -/
def filterFrame (n : Nat) (f : RxFrame) (s : State) : State :=
  match (List.range 8).find? fun k => hpMatch s n k f with
  | some k =>
    let s1 := storeHp n (128 + k) f s
    let s2 := if onL s (MDB_HFLT_1_MAP n k) then mapAction n (128 + k) (liveF s (MDB_HFLT_1_MAPID n k)) f s1 else s1
    if onL s (MDB_HFLT_1_TUN n k) then tunAction n (liveF s (MDB_HFLT_1_CTX n k)) f s2 else s2
  | none => match (List.range 128).find? fun k => rxMatch s n k f with
    | some k =>
      let s1 := if onL s (MDB_FLT_1_RING n k) then storeRing n k f s else s
      let s2 := if onL s (MDB_FLT_1_MAP n k) then mapAction n k (liveF s (MDB_FLT_1_MAPID n k)) f s1 else s1
      if onL s (MDB_FLT_1_TUN n k) then tunAction n (liveF s (MDB_FLT_1_CTX n k)) f s2 else s2
    | none => if onL s (MDB_CCTRL_NOMATCH n) then storeRing n 0xFF f s else incF s (MDB_CNT2_UNMATCH n)

/-! ### Transmitting (R287–R293) -/

/-- The channel may send: enabled, mode NORMAL or LOOPBACK. -/
def canSends (s : State) (n : Nat) : Bool :=
  onF s (MDB_CCTRL_EN n) && (getF s (MDB_CCTRL_MODE n) == 0 || getF s (MDB_CCTRL_MODE n) == 3)

/-- The channel is in BUSOFF or RECOVER. -/
def canOff (s : State) (n : Nat) : Bool := 4 ≤ getF s (MDB_CSTAT_STATE n)

/-- The channel is enabled for frames of a MEDIUM (R283, R287). -/
def mediumOk (s : State) (n m : Nat) : Bool :=
  if onF s (MDB_XBT_FAST n) then m == 3
  else m == 1 || (m == 2 && onF s (MDB_CCTRL_FDEN n)) || (m == 3 && onF s (MDB_CCTRL_XLEN n))

/-- The record suits MEDIUM (R287). -/
def recordOk (m : Nat) (r : List Byte) : Bool :=
  let id := leAt r 0 4
  let fl := leAt r 4 1
  if m = 1 then !bit fl 2 && leAt r 5 1 == 0 && leAt r 6 1 == 0 && leAt r 8 4 == 0 && !bit fl 0
  else if m = 2 then !bit id 30
  else !bit id 29 && !bit id 30 && leAt r 7 1 == 0

/-- The CAN FD length of a DLC. -/
def fdLen (dlc : Nat) : Option Nat :=
  if dlc ≤ 8 then some dlc else [12, 16, 20, 24, 32, 48, 64][dlc - 9]?

/-- DLEN suits MEDIUM (R287). -/
def dlenOk (m dlen : Nat) (r : List Byte) : Bool :=
  if m = 1 then dlen == (if bit (leAt r 0 4) 30 then 0 else min (leAt r 7 1) 8)
  else if m = 2 then fdLen (leAt r 7 1) == some dlen
  else decide (1 ≤ dlen) && decide (dlen ≤ 2048)

/-- RESULT of a transmit descriptor (R288). -/
def txResult (attempts lost lec idx : Nat) : Nat := min 255 attempts + min 255 lost * 2 ^ 8 + lec * 2 ^ 16 + idx * 2 ^ 24

/-- The checks of R287 on one TXFRM descriptor: the frame, or the status. -/
def checkTx (s : State) (n : Nat) (d : List Byte) : Except Nat CanTx :=
  let Q := 0x800 + n
  let dlen := leAt d 4 2
  let m := dByte d 7
  let len := 12 + min dlen 2048
  if !canSends s n then .error stBUSY
  else if canOff s n then .error stBUSOFF
  else if !mediumOk s n m then .error stBADFMT
  else if !engineMay s Q (dAddr d 8) len false then .error stACCESS
  else match readMem s (dAddr d 8) len with
    | none => .error stCODE
    | some b =>
      if !recordOk m b then .error stBADFMT
      else if !dlenOk m dlen b then .error stBADLEN
      else .ok { op := none, medium := m, record := b.take 12, data := (b.drop 12).take dlen, retry := if bit (dByte d 6) 4 then liveF s (MDB_CCTRL_DEFRETRY n) else dByte d 6 % 16 }

/-- The frames of a chain with their places in it, or the status with the index of the descriptor that fails: a NOP brings none, and an undefined opcode fails with BADOP
(R41, R44, R286). -/
def checkChain (s : State) (n : Nat) : Nat → List (List Byte) → List CanTx → Except (Nat × Nat) (List CanTx)
  | _, [], acc => .ok acc
  | k, d :: r, acc =>
    if dByte d 0 = 0 then checkChain s n (k + 1) r acc
    else if !opDefined (0x800 + n) (dByte d 0) then .error (stBADOP, k)
    else match checkTx s n d with
      | .ok f => checkChain s n (k + 1) r (acc ++ [{ f with pos := k }])
      | .error e => .error (e, k)

/-- Reading the buffers of an operation records what their codewords show (R77). -/
def touchTx (s : State) (n : Nat) (ds : List (List Byte)) : State :=
  ds.foldl (fun t d => if engineMay s (0x800 + n) (dAddr d 8) (12 + min (leAt d 4 2) 2048) false
    then touch t 0x48 (dAddr d 8) (12 + min (leAt d 4 2) 2048) else t) s

/-- A TXFRM operation is taken: a latched cancel completes it, a failing check completes it, and otherwise its frames enter the FIFO together once there is
room (R287, R289, R293). -/
def takeTx (n : Nat) (s : State) : State :=
  starting (0x800 + n) (freshOpc s (0x800 + n) 1) s fun o =>
    let last := (o.idx + o.n - 1) % 65536
    let ds := opDescs s o
    if (canCh s n).cancels.any fun x => x.2 == last then finish s o { status := stCANCELLED, res := txResult 0 0 0 0xFF }
    else match checkChain s n 0 ds [] with
      | .error (st, k) => finish (touchTx s n ds) o { status := st, res := txResult 0 0 0 (if o.n = 1 then 0xFF else k) }
      | .ok fs =>
        if 64 < (canCh s n).fifo.length + fs.length then s
        else
          let fs' := fs.zipIdx.map fun x => { x.1 with op := some o.idx, chain := decide (1 < o.n), final := decide (x.2 + 1 = fs.length) }
          modCan (startOp (touchTx s n ds) o) n fun c => { c with fifo := c.fifo ++ fs' }

/-- The operation of a frame ends. -/
def endTx (n : Nat) (f : CanTx) (st : Nat) (s : State) : State :=
  match f.op with
  | some i => match (opsOf s (0x800 + n)).find? fun o => o.idx == i with
    | some o => finish s o { status := st, ts := f.ts, res := txResult f.attempts f.lost f.lec (if f.chain && st != stOK && st != stLATE then f.pos else 0xFF) }
    | none => s
  | none => if st = stOK then s else incF s (MDB_CNT3_TUNTXFAIL n)

/-- A frame leaves the FIFO without success: it and the frames of its chain behind it are removed, and its operation ends (R289). -/
def dropTx (n : Nat) (f : CanTx) (st : Nat) (s : State) : State :=
  endTx n f st (modCan s n fun c => { c with fifo := c.fifo.filter fun x => match f.op with
    | some i => x.op != some i
    | none => x != f })

/-- Remove the frames with a latched cancel (R293). -/
def removeCancelled (n : Nat) (s : State) : State :=
  ((canCh s n).fifo.filter (·.cancel)).foldl (fun t f => if (canCh t n).fifo.contains f then dropTx n f stCANCELLED t else t) s

/-- An arbitration start: cancelled frames are removed, and the head is offered where the channel may send (R290, R291, R293). -/
def arbitrate (n sof : Nat) (s : State) : State :=
  if (canCh s n).sending then s
  else
    let s1 := removeCancelled n s
    let st := getF s (MDB_CSTAT_STATE n)
    if !canSends s1 n || !(st == 2 || st == 3) || (canCh s1 n).fifo.isEmpty then s1
    else modCan s1 n fun c => { c with sending := true, fifo := modAt c.fifo 0 fun f => { f with attempts := f.attempts + 1, ts := tsSof s sof } }

/-- The head has left its retries behind: r = 15 sets no limit (R291). -/
def atLimit (f : CanTx) : Bool := decide (f.retry < 15) && decide (f.retry + 1 ≤ f.attempts)

/-- Flush frames from the FIFO: descriptors end with a status, tunnel frames count (R298). -/
def flushIf (n st : Nat) (p : CanTx → Bool) (s : State) : State :=
  let fs := (canCh s n).fifo.filter p
  fs.foldl (fun t f => if f.pos = 0 || f.op.isNone || !(fs.any fun g => g.op == f.op && decide (g.pos < f.pos)) then endTx n f st t else t)
    (modCan s n fun c => { c with fifo := c.fifo.filter fun f => !p f })

/-- Flush the whole FIFO. -/
def flushFifo (n st : Nat) (s : State) : State := flushIf n st (fun _ => true) (modCan s n fun c => { c with sending := false })

/-- The record of a frame as it is sent: ESI of a CAN FD frame shows the channel's error state (R274, R287). -/
def sentRecord (s : State) (n : Nat) (f : CanTx) : List Byte :=
  modAt f.record 4 fun b => BitVec.ofNat 8 (putBit b.toNat 1 (f.medium == 2 && getF s (MDB_CSTAT_STATE n) == 3))

/-- A frame has been sent: on the bus, or in LOOPBACK mode to the channel's own filters alone (R283, R294). -/
def sentFrame (n : Nat) (f : CanTx) (s : State) : State :=
  if getF s (MDB_CCTRL_MODE n) = 3 then filterFrame n ⟨f.ts, f.medium, sentRecord s n f, f.data⟩ (incF s (MDB_CNT0_RXOK n))
  else emit s (.sent .can n (toLE 1 f.medium ++ sentRecord s n f ++ f.data))

/-- An error on the bus is answered with an error flag, an active one (0) or, in PASSIVE, a passive one (1), in NORMAL mode unless FAST has turned error signalling off (R283, R298). -/
def errorFlag (n : Nat) (s : State) : State :=
  if getF s (MDB_CCTRL_MODE n) = 0 ∧ onF s (MDB_XBT_FAST n) = false then emit s (.signal .can n 2 (b2n (getF s (MDB_CSTAT_STATE n) == 3))) else s

/-- What ends a channel whose EN has been written 0: what is left in the FIFO is aborted and the state becomes OFF (R298). -/
def closeCan (n : Nat) (s : State) : State :=
  if (canCh s n).closing then setCanState n 0 (flushFifo n stABORTED (modCan s n fun c => { c with closing := false })) else s

/-- The attempt of the head ends (R291, R293). -/
def endAttempt (n : Nat) (how : AttemptEnd) (s : State) : State :=
  let s0 := modCan s n fun c => { c with sending := false }
  closeCan n <|
  match (canCh s n).fifo with
  | [] => s0
  | f :: _ =>
    match how with
    | .success =>
      let s1 := modCan (incF s0 (MDB_CNT0_TXOK n)) n fun c => { c with fifo := c.fifo.drop 1 }
      let s2 := sentFrame n f s1
      if f.final then endTx n f (if f.cancel then stLATE else stOK) s2 else s2
    | .lost =>
      let f' := { f with lost := f.lost + 1 }
      let s1 := modCan (incF s0 (MDB_CNT1_ARBLOST n)) n fun c => { c with fifo := modAt c.fifo 0 fun _ => f' }
      if atLimit f' && !f'.cancel then dropTx n f' stRETRYLIM s1 else s1
    | .error lec =>
      let f' := { f with lec := lec.val }
      let s1 := modCan (errorFlag n (setF (incF s0 (MDB_CNT1_ERRORS n)) (MDB_CSTAT_LEC n) lec.val)) n fun c => { c with fifo := modAt c.fifo 0 fun _ => f' }
      if f'.cancel then dropTx n f' stCANCELLED s1
      else if atLimit f' then dropTx n f' stRETRYLIM s1 else s1

/-- The target of a cancel is outstanding: the final entry of a taken operation that has not been written back, or an entry in the ring whose CHAIN is 0 (R292). -/
def cancelFound (s : State) (Q t : Nat) : Bool :=
  let d := (t + 65536 - getF s (QCONS_CONS Q)) % 65536
  if outstanding s Q ≤ d then false
  else if d < takenCount s Q then (opsOf s Q).any fun o => (o.idx + o.n - 1) % 65536 == t
  else match descriptor s Q t with
    | some b => !dChain b
    | none => true

/-- A CANCEL is taken: it latches a cancel for its target, or ends with NOTFOUND (R292). -/
def takeCancel (n : Nat) (s : State) : State :=
  starting (0x810 + n) (freshOpc s (0x810 + n) 3) s fun o =>
    let t := leAt (opDesc s o) 4 2
    if !cancelFound s (0x800 + n) t then finish s o { status := stNOTFOUND }
    else
      let i := (opsOf s (0x800 + n)).find? fun p => (p.idx + p.n - 1) % 65536 == t
      modCan (startOp s o) n fun c => { c with cancels := c.cancels ++ [(o.idx, t)], fifo := c.fifo.map fun f => if f.op.isSome && f.op == i.map (·.idx) then { f with cancel := true } else f }

/-- A tunnel frame is appended to the FIFO with the default retry limit; none where the channel is full, unable to send or not enabled for its MEDIUM (R276,
R289). -/
def tunnelTx (n m : Nat) (record data : List Byte) (s : State) : Option State :=
  if 5 < n || !canSends s n || canOff s n || !mediumOk s n m || decide (64 ≤ (canCh s n).fifo.length) then none
  else some (modCan s n fun c => { c with fifo := c.fifo ++ [{ op := none, medium := m, record := record, data := data, retry := liveF s (MDB_CCTRL_DEFRETRY n) }] })

/-! ### Receiving a frame (R283, R294) -/

/-- The channel takes part in its bus: enabled, in ACTIVE or PASSIVE. -/
def canListens (s : State) (n : Nat) : Bool := onF s (MDB_CCTRL_EN n) && (getF s (MDB_CSTAT_STATE n) == 2 || getF s (MDB_CSTAT_STATE n) == 3)

/-- The channel acknowledges a frame that is valid so far, in NORMAL and RESTRICTED mode (R283). -/
def acknowledge (n : Nat) (s : State) : State :=
  if getF s (MDB_CCTRL_MODE n) = 0 ∨ getF s (MDB_CCTRL_MODE n) = 2 then emit s (.signal .can n 1 0) else s

/-- A frame has become valid for the receiver, has ended in an error (`lec`), or is of a format that the channel is not enabled for (R283, R294, R299). -/
def canReceive (n lec : Nat) (f : RxFrame) (s : State) : State :=
  if !canListens s n then s
  else if lec ≠ 0 then errorFlag n (setF (incF s (MDB_CNT1_ERRORS n)) (MDB_CSTAT_LEC n) lec)
  else if f.medium = 0 then s
  else if !mediumOk s n f.medium then evtCan n (MDB_EVT_FMTERR n) (incF s (MDB_CNT2_FMTERR n))
  else filterFrame n f (incF (acknowledge n s) (MDB_CNT0_RXOK n))

/-- `MDB_HPPOP.POP` (R296). -/
def popHp (n : Nat) (s : State) : State :=
  let c := getF s (MDB_HPSTAT_COUNT n)
  if c = 0 then s else setF (setF s (MDB_HPSTAT_COUNT n) (c - 1)) (MDB_HPSTAT_HEAD n) ((getF s (MDB_HPSTAT_HEAD n) + 1) % 16)

/-- The largest data length of a channel (R297). -/
def maxData (s : State) (n : Nat) : Nat := if onF s (MDB_CCTRL_XLEN n) then 2048 else if onF s (MDB_CCTRL_FDEN n) then 64 else 8

/-- Post the receive buffer of queue Q's next RXBUF: BADLEN below `least`, ACCESS where the owner may not reach it (R43, R205, R277, R297). -/
def postRxbuf (Q least : Nat) (s : State) : State :=
  starting Q (freshOpc s Q 2) s fun o =>
    let d := opDesc s o
    if leAt d 4 4 < least then finish s o { status := stBADLEN }
    else if !engineMay s Q (dAddr d 8) (leAt d 4 4) true then finish s o { status := stACCESS }
    else postOp s o

/-! ### Bus-off and disabling (R284, R298) -/

/-- Enter BUSOFF (R298, R302). -/
def enterBusOff (n : Nat) (s : State) : State :=
  if canOff s n || !onF s (MDB_CCTRL_EN n) then s
  else
    let s1 := evtCan n (MDB_EVT_BUSOFF n) (incF (setCanState n 4 s) (MDB_CNT1_BOCNT n))
    let s2 := flushFifo n stBUSOFF (raise MINOR (canLoc n 0x01) s1)
    if onF s (MDB_CCTRL_BOAUTO n) then setCanState n 5 s2 else s2

/-- The error counters as the fault confinement of ISO 11898-1 leaves them; ACTIVE, PASSIVE and BUSOFF follow (R298). A channel that is off its bus keeps its counters. -/
def setErrors (n tec rcv : Nat) (s : State) : State :=
  let st := getF s (MDB_CSTAT_STATE n)
  if !(st == 2 || st == 3) then s
  else
    let s1 := setF (setF s (MDB_CSTAT_TEC n) tec) (MDB_CSTAT_REC n) rcv
    if 256 ≤ tec then enterBusOff n s1 else setCanState n (if 128 ≤ tec ∨ 128 ≤ rcv then 3 else 2) s1

/-- RECOVER written 1 (R298). -/
def recoverCan (n : Nat) (s : State) : State := if getF s (MDB_CSTAT_STATE n) = 4 then setCanState n 5 s else s

/-- EN written 0: a frame being sent is finished, with the rest of its chain still to be aborted behind it; everything else is aborted, and the state becomes OFF (R298). -/
def disableCan (n : Nat) (s : State) : State :=
  if !onF s (MDB_CCTRL_EN n) then s
  else
    let s1 := setFBit (setF s (MDB_CCTRL_EN n) 0) MDB_STAT_EN n false
    let head := (canCh s n).fifo.head?
    if (canCh s n).sending && head.isSome then
      modCan (flushIf n stABORTED (fun f => some f != head && !(f.op.isSome && head.any fun h => h.op == f.op)) s1) n fun c => { c with closing := true }
    else setCanState n 0 (flushFifo n stABORTED s1)

/-! ### The commands -/

/-- `CAN_ENABLE` (R285). -/
def execCanEnable (r : Req) (n : Fin 6) (s : State) : Host.Outcome State Fault Refusal := reached 9 r s fun s => .next (enableCan n.val s)

/-- `CAN_BUS_INTEGRATED` (R285). -/
def execCanBusIntegrated (n : Fin 6) (s : State) : Host.Outcome State Fault Refusal :=
  onEngine 9 s fun s =>
  .next (if getF s (MDB_CSTAT_STATE n.val) = 1 then setCanState n.val 2 s else s)

/-- `CAN_TXFRM` (R287). -/
def execCanTxfrm (n : Fin 6) (s : State) : Host.Outcome State Fault Refusal := onEngine 9 s fun s => .next (takeTx n.val s)

/-- `ARBITRATION_START` (R291); `sof` is the stamp of the start-of-frame bit, a time value in 1/64 ns. -/
def execArbitrationStart (n : Fin 6) (sof : Nat) (s : State) : Host.Outcome State Fault Refusal := onEngine 9 s fun s => .next (arbitrate n.val sof s)

/-- `ATTEMPT_END` (R291) with the error counters it leaves. -/
def execAttemptEnd (n : Fin 6) (how : AttemptEnd) (tec : Fin 512) (rcv : Fin 256) (s : State) : Host.Outcome State Fault Refusal :=
  onEngine 9 s fun s =>
  .next (if (canCh s n.val).sending then setErrors n.val tec.val rcv.val (endAttempt n.val how s) else s)

/-- `CAN_CANCEL` (R292). -/
def execCanCancel (n : Fin 6) (s : State) : Host.Outcome State Fault Refusal := onEngine 9 s fun s => .next (takeCancel n.val s)

/-- `CAN_FRAME_RECEIVE` (R294): SOF stamp, MEDIUM, CAN record and data, the error it ended in or 0, and the error counters after it. -/
def execCanFrameReceive (n : Fin 6) (sof : Nat) (medium : Fin 4) (record data : List Byte) (lec : Fin 7) (tec : Fin 512) (rcv : Fin 256) (s : State) : Host.Outcome State Fault Refusal :=
  onEngine 9 s fun s =>
  .next (setErrors n.val tec.val rcv.val
    (canReceive n.val lec.val { ts := tsSof s sof, medium := medium.val, record := (record ++ List.replicate 12 0).take 12, data := data.take 2048 } s))

/-- `HP_POP` (R296). -/
def execHpPop (r : Req) (n : Fin 6) (s : State) : Host.Outcome State Fault Refusal := reached 9 r s fun s => .next (popHp n.val s)

/-- `CAN_RXBUF` (R297). -/
def execCanRxbuf (n : Fin 6) (s : State) : Host.Outcome State Fault Refusal := onEngine 9 s fun s => .next (postRxbuf (0x808 + n.val) (12 + maxData s n.val) s)

/-- `BUS_OFF` (R298). -/
def execBusOff (n : Fin 6) (s : State) : Host.Outcome State Fault Refusal := onEngine 9 s fun s => .next (enterBusOff n.val s)

/-- `CAN_RECOVER` (R298). -/
def execCanRecover (r : Req) (n : Fin 6) (s : State) : Host.Outcome State Fault Refusal := reached 9 r s fun s => .next (recoverCan n.val s)

/-- `RECOVER_DONE` (R298). -/
def execRecoverDone (n : Fin 6) (s : State) : Host.Outcome State Fault Refusal :=
  onEngine 9 s fun s =>
  .next (if getF s (MDB_CSTAT_STATE n.val) = 5 then setCanState n.val 2 (setF (setF s (MDB_CSTAT_TEC n.val) 0) (MDB_CSTAT_REC n.val) 0) else s)

/-- `DOMINANT_TIMEOUT` (R284, R298, R302). -/
def execDominantTimeout (n : Fin 6) (s : State) : Host.Outcome State Fault Refusal :=
  onEngine 9 s fun s =>
  .next (if onF s (MDB_CCTRL_EN n.val) then enterBusOff n.val (raise MAJOR (canLoc n.val 0x00) (evtCan n.val (MDB_EVT_TDTO n.val) s)) else s)

/-- `CAN_DISABLE` (R298). -/
def execCanDisable (r : Req) (n : Fin 6) (s : State) : Host.Outcome State Fault Refusal := reached 9 r s fun s => .next (disableCan n.val s)

end Sys2Proof.Machine
end

