-- ==== Sys2Proof/Machine/Backbone.lean ====
section
/-! DEFINITION. The backbone switch: redundancy, VLANs, gates, gPTP, flow contexts, tunnels and host queues (R259–R281). -/

namespace Sys2Proof.Machine

/-- Change the switch's own state. -/
def modBkb (s : State) (f : Bkb → Bkb) : State := { s with bkb := f s.bkb }

/-- MAXFRM in force (R279). -/
def maxFrm (s : State) : Nat := orElse (getF s BKB_CTRL_MAXFRM) 1522 2200 1522

/-- MODE in force: 0 SWITCH, 1 PRP, 2 HSR (R261). -/
def bkbMode (s : State) : Nat := let m := getF s BKB_CTRL_MODE
  if m = 3 then 0 else m

/-- The host address (R279). -/
def hostMac (s : State) : Nat := (getF s BKB_MAC_ADDR + 4) % 2 ^ 48

/-- Port p works: the backbone and the port are enabled, and HSR leaves ports 2 and 3 disabled; in Pilot mode none works (R261, R507). -/
def portUp (s : State) (p : Nat) : Bool := onF s BKB_CTRL_EN && onF s (BKB_PCTRL_EN p) && !(bkbMode s == 2 && decide (2 ≤ p)) && !onF s UPD_STAT_PILOT

/-- The topology counter steps (R278). -/
def topoStep (s : State) : State := incW s BKB_TOPO_TOPOCNT

/-! ### Frames -/

/-- A frame inside the switch: destination and source, the bytes from the EtherType on without VLAN tag and FCS, its VLAN, its priority, its drop eligible indicator, and whether it came
tagged. -/
structure EthFrame where
  dst : Nat
  src : Nat
  rest : List Byte
  vid : Nat
  pcp : Nat
  dei : Bool := false
  tagged : Bool
  deriving DecidableEq, Repr

/-- A frame without its FCS, with the defaults of its ingress port (R265). -/
def parseEth (b : List Byte) (pvid ppcp : Nat) : EthFrame :=
  if beAt b 12 2 = 0x8100 then
    let tci := beAt b 14 2
    { dst := beAt b 0 6, src := beAt b 6 6, rest := b.drop 16, vid := if tci % 4096 = 0 then pvid else tci % 4096, pcp := tci / 2 ^ 13, dei := bit tci 12, tagged := true }
  else { dst := beAt b 0 6, src := beAt b 6 6, rest := b.drop 12, vid := pvid, pcp := ppcp, tagged := false }

/-- The bytes a frame leaves with, padded and with its FCS. -/
def ethBytes (f : EthFrame) (tag : Bool) : List Byte :=
  let b := toBE 6 f.dst ++ toBE 6 f.src ++ (if tag then [0x81, 0x00] ++ toBE 2 (f.pcp * 2 ^ 13 + b2n f.dei * 2 ^ 12 + f.vid) else []) ++ f.rest
  withFcs (b ++ List.replicate (60 - b.length) 0)

/-- The address is a group address. -/
def isGroup (mac : Nat) : Bool := bit mac 40

/-- The EtherType of a frame. -/
def etype (f : EthFrame) : Nat := beAt f.rest 0 2

/-- The sequence of an HSR tag or a PRP trailer, as IEC 62439-3 lays them out (notes/assumptions/24.md). -/
def redSeq (mode : Nat) (f : EthFrame) : Option Nat :=
  let n := f.rest.length
  if mode = 2 then (if etype f = 0x892F then some (beAt f.rest 4 2) else none)
  else if mode = 1 then
    (if 8 ≤ n ∧ beAt f.rest (n - 2) 2 = 0x88FB ∧ (beAt f.rest (n - 4) 2 / 4096 = 0xA ∨ beAt f.rest (n - 4) 2 / 4096 = 0xB) then some (beAt f.rest (n - 6) 2) else none)
  else none

/-- A frame without its HSR tag or PRP trailer. -/
def bare (mode : Nat) (f : EthFrame) : EthFrame :=
  match redSeq mode f with
  | none => f
  | some _ => if mode = 2 then { f with rest := f.rest.drop 6 } else { f with rest := f.rest.take (f.rest.length - 6) }

/-! ### VLANs, forwarding and gates (R265–R267) -/

/-- The first valid VLAN entry of a VID (R265, R279). -/
def vlanOf (s : State) (vid : Nat) : Option Nat :=
  if vid = 0 ∨ 4094 < vid then none
  else (List.range 64).find? fun v => onL s (BKB_VLAN_V v) && liveF s (BKB_VLAN_VID v) == vid

/-- Port p is a member of VLAN entry v. -/
def isMember (s : State) (v p : Nat) : Bool := bit (liveF s (BKB_VLAN_MEMBERS v)) p

/-- Learn a unicast source address: up to 4,096 per VLAN (R265). -/
def learn (vid mac port : Nat) (s : State) : State :=
  if isGroup mac then s
  else modBkb s fun b =>
    let l := b.fdb.filter fun x => !(x.1 == vid && x.2.1 == mac)
    if (l.filter fun x => x.1 == vid).length < 4096 then { b with fdb := l ++ [(vid, mac, port, freeCnt s)] } else b

/-- The port an address was learnt on. -/
def lookupFdb (s : State) (vid mac : Nat) : Option Nat := ((s.bkb.fdb.find? fun x => x.1 == vid && x.2.1 == mac).map (·.2.2.1))

/-- The count of a port's active list (R266, R280). -/
def gateCount (s : State) (p : Nat) : Nat := min 128 (if getF s (BKB_GCLCTL_ACTIVE p) = 0 then getF s (BKB_GCLCTL_CNT0 p) else getF s (BKB_GCLCTL_CNT1 p))

/-- The entries of a port's active list: offset and gates, those out of order skipped (R266). -/
def gateEntries (s : State) (p : Nat) : List (Nat × Nat) :=
  let b := getF s (BKB_GCLCTL_ACTIVE p)
  let n := gateCount s p
  let l := (List.range n).map fun k => (getF s (BKB_GCL_OFFSET p b k), getF s (BKB_GCL_GATES p b k))
  (List.range n).filterMap fun k => if k = 0 ∨ (l.getD (k - 1) (0, 0)).1 < (l.getD k (0, 0)).1 then l[k]? else none

/-- The lengths of a cycle's gate segments with whether class c is open in each; all gates are open until the first entry (R266). -/
def gateSegs (s : State) (p c : Nat) : List (Nat × Bool) :=
  let es := (0, 255) :: gateEntries s p
  let ends := (es.drop 1).map (·.1) ++ [s.mer.cycLen]
  (es.zip ends).map fun x => (x.2 - x.1.1, bit x.1.2 c)

/-- The longest run of open segments. -/
def longestRun : List (Nat × Bool) → Nat → Nat → Nat
  | [], cur, best => max cur best
  | (n, true) :: r, cur, best => longestRun r (cur + n) (max best (cur + n))
  | (_, false) :: r, cur, best => longestRun r 0 (max cur best)

/-- Some open interval of class c holds a frame of n bytes at 10 Gbit/s with its preamble (R266). -/
def gateHolds (s : State) (p c n : Nat) : Bool :=
  let g := gateSegs s p c
  g.all (·.2) || decide ((8 + n) * 8 ≤ 10 * longestRun (g ++ g) 0 0)

/-- The gates of a port in force: those of the last entry reached in this cycle, all open with a count of 0 (R266). DESIGN CHOICE: the spec does not say what holds before the first entry;
all gates are open (notes/assumptions/69.md). -/
def gatesNow (s : State) (p : Nat) : Nat := ((gateEntries s p).foldl (fun g e => if e.1 ≤ cycOffset s then e.2 else g) 255)

/-- Nanoseconds until the gate of class c next closes at port p, with this cycle's list again in the next one; none where no entry closes it (R266). -/
def untilClose (s : State) (p c : Nat) : Option Nat :=
  let es := gateEntries s p
  let o := cycOffset s
  match es.find? fun e => decide (o < e.1) && !bit e.2 c with
  | some e => some (e.1 - o)
  | none => (es.find? fun e => !bit e.2 c).map fun e => s.mer.cycLen - o + e.1

/-- A frame of n bytes with its preamble that starts now at 10 Gbit/s leaves before the gate of its class closes (R266). -/
def fitsGate (s : State) (p c n : Nat) : Bool :=
  match untilClose s p c with
  | none => true
  | some d => decide ((8 + n) * 8 ≤ 10 * d)

/-- The frame that port p starts now: of the highest open class whose first frame may start (R266). DESIGN CHOICE: a class whose first frame does not fit lets a lower
one go (notes/assumptions/69.md). -/
def nextFrame (s : State) (p : Nat) : Option EgFrame :=
  if !portUp s p || decide (freeCnt s < s.bkb.busy.getD p 0) then none
  else [7, 6, 5, 4, 3, 2, 1, 0].findSome? fun c =>
    match s.bkb.egress.find? fun f => f.port == p && f.cls == c with
    | some f => if bit (gatesNow s p) c && fitsGate s p c f.bytes.length then some f else none
    | none => none

/-- The TXFRM operation of a frame ends, with the TS96 of its first SOF (R277). -/
def endTxfrm (op : Option Nat) (ts : Nat) (s : State) : State :=
  match op with
  | none => s
  | some i => match (opsOf s 0x700).find? fun o => o.idx == i && o.done.isNone with
    | some o => finish s o { status := stOK, ts := ts }
    | none => s

/-- Port p starts the next frame that may start; preamble, frame and interpacket gap keep it busy (R265, R266). -/
def runPort (p : Nat) (s : State) : State :=
  match nextFrame s p with
  | none => s
  | some f =>
    let s1 := modBkb s fun b => { b with egress := b.egress.erase f, busy := modAt b.busy p fun _ => freeCnt s + (8 * (20 + f.bytes.length) + 9) / 10 }
    endTxfrm f.op (ts96 s) (emit (incF s1 (BKB_PCNT0_TXFRM p)) (.sent .backbone p f.bytes))

/-- The egress ports start what they may. -/
def runPorts (s : State) : State := forN runPort 0 4 s

/-- A frame joins the queue of its class at port q; one longer than MAXFRM is not sent, and one that the port's 256 KiB or no open interval can hold is dropped (R260, R265, R266). -/
def queueFrame (f : EgFrame) (s : State) : State :=
  let n := f.bytes.length
  if !portUp s f.port || decide (maxFrm s < n) then s
  else if 262144 < ((s.bkb.egress.filter fun x => x.port == f.port).map fun x => x.bytes.length).foldl (· + ·) n then incF s (BKB_PCNT1_QDROP f.port)
  else if !gateHolds s f.port f.cls n then incF s (BKB_PCNT1_GATEDROP f.port)
  else modBkb s fun b => { b with egress := b.egress ++ [f] }

/-- A frame goes to port q, tagged unless VLAN entry v strips the tag there (R265). -/
def egressBkb (q v : Nat) (op : Option Nat) (f : EthFrame) (s : State) : State :=
  queueFrame ⟨q, f.pcp, ethBytes f (!bit (liveF s (BKB_VLAN_UNTAG v)) q), op⟩ s

/-- The frames of a port that is no longer up are lost; an operation with no copy left ends without a SOF. -/
def flushPort (p : Nat) (s : State) : State :=
  if portUp s p then s
  else
    let gone := s.bkb.egress.filter fun f => f.port == p
    let s1 := modBkb s fun b => { b with egress := b.egress.filter fun f => f.port != p }
    gone.foldl (fun t f => if t.bkb.egress.any fun g => g.op == f.op then t else endTxfrm f.op 0 t) s1

/-- The ports a frame may be switched to from port p in a mode (R262, R263). -/
def modePorts (mode p : Nat) : List Nat :=
  if mode = 1 then [(p + 2) % 4] else if mode = 2 then [1 - p % 2] else (List.range 4).filter (· != p)

/-- The bytes from the EtherType on that a frame carries on LAN k or ring port k: with the PRP trailer or behind the HSR tag (R262, R263; notes/assumptions/24.md). -/
def redundant (mode seq k : Nat) (tagged : Bool) (rest : List Byte) : List Byte :=
  let pad := rest ++ List.replicate (46 - (rest.length - 2) - (if tagged then 4 else 0)) 0
  if mode = 1 then pad ++ toBE 2 seq ++ toBE 2 ((0xA + k) * 4096 + (pad.length - 2 + 6) % 4096) ++ [0x88, 0xFB]
  else [0x89, 0x2F] ++ toBE 2 (k * 4096 + (pad.length - 2 + 6) % 4096) ++ toBE 2 seq ++ pad

/-- The sequence of a frame that the module originates is used. -/
def useSeq (s : State) : State := modBkb s fun b => { b with seqNr := (b.seqNr + 1) % 65536 }

/-- REDCTL.FORGET and SVINT in force, in ns (R262, R279). -/
def forgetNs (s : State) : Nat := 1000000 * orElse (getF s BKB_REDCTL_FORGET) 10 10000 400
def svintNs (s : State) : Nat := 1000000 * orElse (getF s BKB_REDCTL_SVINT) 100 10000 2000

/-- The ports on which copies of a frame have come within FORGET (R262–R264; notes/assumptions/69.md). -/
def copiesOf (s : State) (src q : Nat) : List Nat :=
  (s.bkb.seen.filter fun x => x.1 == src && x.2.1 == q && decide (freeCnt s < x.2.2.2 + forgetNs s)).map (·.2.2.1)

/-- A copy is recorded, and what FORGET has overtaken is dropped. -/
def noteCopy (src q port : Nat) (s : State) : State :=
  modBkb s fun b => { b with seen := (src, q, port, freeCnt s) :: b.seen.filter fun x => decide (freeCnt s < x.2.2.2 + forgetNs s) }

/-- The module sends a frame from host port 4, whose source address is learnt there; on the ring it will know its own copies again (R262, R263, R265). -/
def hostSend (op : Option Nat) (f : EthFrame) (s0 : State) : State :=
  match vlanOf s0 f.vid with
  | none => s0
  | some v =>
    let s := learn f.vid f.src 4 s0
    let m := bkbMode s
    if m = 0 then
      let out := match lookupFdb s f.vid f.dst with
        | some q => if isGroup f.dst then List.range 4 else (List.range 4).filter (· == q)
        | none => List.range 4
      runPorts ((out.filter fun q => isMember s v q).foldl (fun t q => egressBkb q v op f t) s)
    else
      let line := liveF s (BKB_VLAN_LINE v)
      let ports := if m = 1 then [2 * line, 2 * line + 1] else [0, 1]
      let s := if m = 2 then noteCopy f.src s.bkb.seqNr 4 s else s
      runPorts ((ports.zipIdx.filter fun x => isMember s v x.1).foldl
        (fun t x => egressBkb x.1 v op { f with rest := redundant m s.bkb.seqNr x.2 f.tagged f.rest } t) (useSeq s))

/-! ### Flow contexts and tunnels (R270–R276) -/

/-- A context with OWNCLS 3 sends only while the module is PRIMARY (R272). -/
def ctxMaySend (s : State) (f : Nat) : Bool := !(getF s (BKB_FC_0_OWNCLS f) == 3) || isPrimary s

/-- A flow context takes a frame at the host port (R271); VID 0 names untagged frames. -/
def ctxMatches (s : State) (c : Nat) (f : EthFrame) : Bool :=
  let k := getF s (BKB_FC_0_KIND c)
  let mac := getF s (BKB_FC_1_MAC c)
  let vid := getF s (BKB_FC_0_VID c)
  onF s (BKB_FC_0_EN c) && (mac == 0 || mac == f.dst) && (vid == f.vid || (vid == 0 && !f.tagged))
    && ((k == 0 && etype f == getF s (BKB_FC_0_ETYPE c)) || (k == 4 && etype f == 0x88B6 && leAt f.rest 2 2 == getF s (BKB_FC_1_ID c)))

/-- The context that takes a frame (R271). -/
def ctxFor (s : State) (f : EthFrame) : Option Nat := (List.range 256).find? fun c => ctxMatches s c f

/-- A frame becomes the pending frame of a Rhumbline entry (R276). -/
def pendTunnel (c e : Nat) (b : List Byte) (s : State) : State :=
  match (entries s)[e]? with
  | none => s
  | some x =>
    if x.inport ≠ 16 ∨ eMapv x then s
    else if x.maxlen < b.length then incF s (BKB_FCCNT1_TOOLONG c)
    else
      let s1 := if s.rhl.tunnel.any (fun y => y.1 == e) then incF s (BKB_FCCNT1_OVERWR c) else s
      modRhl s1 fun r => { r with tunnel := r.tunnel.filter (fun y => y.1 != e) ++ [(e, c, freeCnt s, b.take (b.length - 4))] }

/-- The state that an operation answers, or else another. -/
def orState (o : Option State) (s : State) : State :=
  match o with
  | some t => t
  | none => s

/-- An unwrapped frame reaches its CAN channel's FIFO, or is counted (R276). -/
def unwrapCan (c m : Nat) (w : List Byte) (s : State) : State :=
  orState (tunnelTx (fc2 s c / 2 % 8) m (w.take 12) (w.drop 12) s) (incF s (BKB_FCCNT1_FULL c))

/-- A TUNDEC context takes a frame (R276). -/
def tundec (c : Nat) (f : EthFrame) (s0 : State) : State :=
  let s := incF s0 (BKB_FCCNT0_FRAMES c)
  let p := f.rest.drop 2
  let m := leAt p 2 1 / 16
  let len := leAt p 22 2
  let ep := leAt p 20 2
  let seq := leAt p 4 4
  let last := getF s (BKB_FC_3_LASTEPOCH c)
  if leAt p 2 1 % 16 ≠ 1 ∨ m < 1 ∨ 4 < m ∨ !(24 + len == p.length || (decide (24 + len < p.length) && decide (p.length ≤ 46))) then incF s (BKB_FCCNT1_TOOLONG c)
  else if epochRel ep last == .old then
    raiseOnce 0x22000 NOTE (bkbLoc 0x03) (incF (incF s (BKB_FCCNT1_STALE c)) BKB_STALE_COUNT)
  else
    let fresh := onF s (BKB_FC_3_FIRST c) || ep != last
    let d := (seq + 2 ^ 32 - getF s (BKB_FC_3_LASTSEQ c)) % 2 ^ 32
    if !fresh && (d == 0 || decide (2 ^ 31 ≤ d)) then incF s (BKB_FCCNT0_OLD c)
    else
      let s1 := setF (setF (setF s (BKB_FC_3_LASTSEQ c) seq) (BKB_FC_3_LASTEPOCH c) ep) (BKB_FC_3_FIRST c) 0
      let s2 := if !fresh && decide (1 < d) then addF s1 (BKB_FCCNT0_GAP c) (d - 1) else s1
      let w := (p.drop 24).take len
      let raw := fc2 s c
      if raw % 2 = 0 then
        if m = 4 then incF s2 (BKB_FCCNT1_FULL c) else cross 16 6 9 (.unwrapCan c m w) (unwrapCan c m w) s2
      else cross 14 6 8 (.unwrapRhl c (bits raw 16 15) w) (pendTunnel c (bits raw 16 15) w) s2

/-- Deliver a frame to host queue 1 (R271, R277). -/
def hostQueue (port sof : Nat) (b : List Byte) (s : State) : State :=
  takePosted 0x701 s (fun t => incF t BKB_NOBUF_COUNT) fun o t =>
    fillPosted 0x701 0x47 o b { status := stOK, ts := tsSof t sof, res := port + b.length * 2 ^ 16 } t

/-- A frame reaches the host port (R271). -/
def hostReceive (port sof : Nat) (f : EthFrame) (b : List Byte) (s : State) : State :=
  match ctxFor s f with
  | none => hostQueue port sof b s
  | some c =>
    if getF s (BKB_FC_0_KIND c) = 0 then
      offerJob { map := getF s (BKB_FC_1_ID c), code := 19 * 2048 + c, ts := tsSof s sof % 2 ^ 64, payload := f.rest.drop 2 } (incF s (BKB_FCCNT0_FRAMES c))
    else tundec c f s

/-! ### Receiving (R260–R265) -/

/-- An address enters the node table, or is heard again (R262, R278). -/
def addNode (mac : Nat) (s : State) : State :=
  if s.bkb.nodes.any fun x => x.1 == mac then modBkb s fun b => { b with nodes := b.nodes.map fun x => if x.1 = mac then (mac, freeCnt s) else x }
  else if 512 ≤ s.bkb.nodes.length then s
  else
    let s1 := modBkb s fun b => { b with nodes := b.nodes ++ [(mac, freeCnt s)] }
    evtBkb BKB_EVT_NODECHG (topoStep (setF s1 BKB_TOPO_NODES s1.bkb.nodes.length))

/-- RINGOPEN changes (R263, R278). DESIGN CHOICE: the report names tile 0x57 and no macro, since the spec gives the event no place (R281; notes/assumptions/66.md). -/
def setRing (v : Bool) (s : State) : State :=
  if onF s BKB_STAT_RINGOPEN == v then s
  else
    let s1 := evtBkb BKB_EVT_RINGOPEN (topoStep (setB s BKB_STAT_RINGOPEN v))
    if v then raise MINOR (bkbLoc 0xFF) s1 else s1

/-- The module has originated a frame of the ring: its source is the host address, or it has been sent from the host port under that source (R263). -/
def ownRing (s : State) (f : EthFrame) : Bool :=
  f.src == hostMac s || match redSeq 2 f with
    | some q => (copiesOf s f.src q).contains 4
    | none => false

/-- An own frame returns on a ring port; the watch is on the supervision frames (R263). -/
def ringReturn (port : Nat) (f : EthFrame) (s : State) : State :=
  if etype (bare 2 f) = 0x88FB && f.src == hostMac s then setRing false (modBkb s fun b => { b with ringAt := modAt b.ringAt port fun _ => freeCnt s }) else s

/-- The frame is to leave through port q by the forwarding database: in PRP through the line on which the address was learnt, and around the ring always (R262, R263, R265). -/
def forwardTo (s : State) (m q : Nat) (f : EthFrame) : Bool :=
  m == 2 || isGroup f.dst || match lookupFdb s f.vid f.dst with
    | some p => if m = 1 then p / 2 == q / 2 else p == q
    | none => true

/-- Switch a received frame (R265); `first` tells that it may reach the host port (R264), which it leaves untagged where UNTAG marks that port, and as received else (R277). -/
def switchFrame (port sof : Nat) (first : Bool) (f : EthFrame) (b : List Byte) (s0 : State) : State :=
  match vlanOf s0 f.vid with
  | none => s0
  | some v =>
    let s := learn f.vid f.src port s0
    let m := bkbMode s
    let mine := f.dst == hostMac s
    let inner := bare m f
    let known := lookupFdb s f.vid f.dst
    let host := first && isMember s v 4 && (mine || isGroup f.dst || known.isNone || known == some 4 || (ctxFor s inner).isSome)
    let out := (modePorts m port).filter fun q => isMember s v q && !mine && forwardTo s m q f
    let s1 := runPorts (out.foldl (fun t q => egressBkb q v none f t) s)
    if host then hostReceive port sof inner (if f.tagged && bit (liveF s (BKB_VLAN_UNTAG v)) 4 then ethBytes f false else b) s1 else s1

/-- Duplicates (R262–R264): a further copy is counted and not delivered, and only the first on each LAN is forwarded; around the ring every later copy is removed. -/
def receiveCopyBkb (port sof : Nat) (f : EthFrame) (b : List Byte) (s : State) : State :=
  let m := bkbMode s
  match redSeq m f with
  | none => switchFrame port sof true f b s
  | some q =>
    let got := copiesOf s f.src q
    let s1 := addNode f.src (noteCopy f.src q port s)
    if got.isEmpty then switchFrame port sof true f b s1
    else
      let s2 := incF s1 (BKB_PCNT1_DUPDISC port)
      if m = 1 && got.all fun p => p % 2 != port % 2 then switchFrame port sof false f b s2 else s2

/-- A frame arrives at a backbone port (R260–R265). gPTP frames are not switched (R268), and an own frame that returns is removed from the ring (R263). -/
def receiveBkb (port sof : Nat) (b : List Byte) (s : State) : State :=
  if !portUp s port then s
  else if !fcsGood b then incF s (BKB_PCNT1_FCSERR port)
  else if maxFrm s < b.length then incF s (BKB_PCNT2_TOOLONG port)
  else if b.length < 64 then s
  else
    let s1 := incF s (BKB_PCNT0_RXFRM port)
    let f := parseEth (b.take (b.length - 4)) (getF s (BKB_PCTRL_PVID port)) (getF s (BKB_PCTRL_PPCP port))
    if etype f = 0x88F7 then s1
    else if bkbMode s = 2 ∧ ownRing s f = true then ringReturn port f s1
    else receiveCopyBkb port sof f b s1

/-- Every SVINT a supervision frame goes out like any frame that the module originates, on both LANs of each line or on both ring ports, untagged in class 0; its contents are
the model's free bytes (R262, R263; notes/assumptions/1.md). -/
def sendSupervision (s : State) : State :=
  let m := bkbMode s
  if m = 0 || !onF s BKB_CTRL_EN || (s.bkb.svAt != 0 && decide (freeCnt s < s.bkb.svAt - 1 + svintNs s)) then s
  else
    let rest (q : Nat) : List Byte := redundant m s.bkb.seqNr (q % 2) false ([0x88, 0xFB] ++ (List.range 46).map (Config.freeByte 8))
    let b (q : Nat) : List Byte := withFcs (toBE 6 (0x01154E000100 + getF s BKB_REDCTL_SVLSB) ++ toBE 6 (hostMac s) ++ rest q)
    runPorts ((List.range 4).foldl (fun t q => queueFrame ⟨q, 0, b q, none⟩ t) (modBkb (useSeq s) fun x => { x with svAt := freeCnt s + 1 }))

/-- A node-table entry that has not been heard for FORGET is forgotten with its copies (R262, R278). -/
def forgetNode (mac : Nat) (s : State) : State :=
  if s.bkb.nodes.any fun x => x.1 == mac && decide (x.2 + forgetNs s ≤ freeCnt s) then
    let s1 := modBkb s fun b => { b with nodes := b.nodes.filter (·.1 != mac), seen := b.seen.filter fun x => x.1 != mac }
    evtBkb BKB_EVT_NODECHG (topoStep (setF s1 BKB_TOPO_NODES s1.bkb.nodes.length))
  else s

/-- No own frame has returned on a ring port for 3 × SVINT (R263). -/
def ringSilent (s : State) : Bool := bkbMode s == 2 && onF s BKB_CTRL_EN && s.bkb.ringAt.any fun t => decide (t + 3 * svintNs s ≤ freeCnt s)

/-- Entry k of port p's active list is reached: its gates hold from now on, and the port starts what it may; an entry out of order is skipped and sets ORDERR (R266). -/
def gateReached (p k : Nat) (s : State) : State :=
  let b := getF s (BKB_GCLCTL_ACTIVE p)
  if gateCount s p ≤ k || decide (cycOffset s < getF s (BKB_GCL_OFFSET p b k)) then s
  else if k ≠ 0 ∧ getF s (BKB_GCL_OFFSET p b k) ≤ getF s (BKB_GCL_OFFSET p b (k - 1)) then setF s (BKB_GCLCTL_ORDERR p) 1
  else runPort p s

/-- A link changes; in HSR mode those of ports 2 and 3 are held down (R261, R278, R281). -/
def linkBkb (p : Nat) (up : Bool) (s : State) : State :=
  if onF s (BKB_PSTAT_LINK p) == up || (up && bkbMode s == 2 && decide (2 ≤ p)) then s
  else
    let s1 := setFBit (setB s (BKB_PSTAT_LINK p) up) BKB_STAT_LINK p up
    let s2 := evtBkb BKB_EVT_LINKCHG (topoStep (incF s1 (BKB_PCNT2_LINKCHG p)))
    if up then s2 else raise MINOR ⟨0, 0x6, 0x50 + p, 0x00⟩ s2

/-! ### Time on the backbone (R268, R269) -/

/-- LOGSYNC in force, as its negative: 0 to 7 (R279). -/
def syncShift (s : State) : Nat :=
  let z := sgn 4 (liveF s BKB_ASCTL_LOGSYNC)
  if -7 ≤ z ∧ z ≤ 0 then z.natAbs else 3

/-- Source 2 is lost (R269, R281). -/
def loseGptp (s : State) : State :=
  let s1 := modBkb s fun b => { b with good := 0, bad := 0, timeouts := 0 }
  if onF s BKB_ASSTAT_QUAL then
    disqualify 2 (raise NOTE (bkbLoc 0x04) (evtBkb BKB_EVT_ASLOST (modMer (setF s1 BKB_ASSTAT_QUAL 0) fun m => { m with corr2 := 0, corr2Left := 0 })))
  else s1

/-- A Sync at the SlavePort gives an offset in 1/64 ns (R173, R269): `rate` is the measured rate ratio in RATE's unit. -/
def gptpSync (port : Nat) (offset rate : Int) (capable : Bool) (s : State) : State :=
  if !onL s BKB_ASCTL_ASEN || getF s BKB_ASSTAT_ROLE != 2 || getF s BKB_ASSTAT_SPORT != port || !bit (liveF s BKB_ASCTL_PORTS) port then s
  else
    let lim := orElse (liveF s BKB_ASCTL_QLIM) 50 10000 1000
    let s1 := reportOffset 2 (offset * 2 ^ 26) (setF s BKB_ASSTAT_OFFSET (ofInt 32 (clampInt (2 ^ 31 - 1) (wholeNs 64 offset))))
    let inside := decide (offset.natAbs ≤ lim * 64)
    let s2 := modBkb s1 fun b => { b with good := if inside && capable then b.good + 1 else 0, bad := if inside then 0 else b.bad + 1, timeouts := 0 }
    if onF s BKB_ASSTAT_QUAL then
      if 2 ≤ s2.bkb.bad then loseGptp s2
      else if getF s MER_STAT_SRC = 2 then setRate rate (modMer s2 fun m => { m with corr2 := offset * 2 ^ 26, corr2Left := 1000000000 / 2 ^ syncShift s })
      else s2
    else if 8 ≤ s2.bkb.good then
      qualify 2 (offset * 2 ^ 26) (raise NOTE (bkbLoc 0x04) (evtBkb BKB_EVT_ASQUAL (setF s2 BKB_ASSTAT_QUAL 1)))
    else s2

/-- An Announce as the algorithm compares it, lower being better: priority1, class, accuracy, variance, priority2 and identity (R268). -/
structure Announce where
  prio1 : Nat
  cls : Nat
  acc : Nat
  lvar : Nat
  prio2 : Nat
  ident : Nat
  deriving DecidableEq, Repr

/-- The dataset of an Announce as one number, compared as IEEE 802.1AS compares its parts in order (R268; notes/assumptions/68.md). -/
def Announce.rank (a : Announce) : Nat :=
  ((((a.prio1 * 2 ^ 8 + a.cls) * 2 ^ 8 + a.acc) * 2 ^ 16 + a.lvar) * 2 ^ 8 + a.prio2) * 2 ^ 64 + a.ident

/-- The module's own dataset: PRIO1, CLASS and PRIO2, with the accuracy, variance and identity that the spec leaves open (R268; notes/assumptions/68.md). -/
def ownAnnounce (s : State) : Announce :=
  { prio1 := liveF s BKB_ASCTL_PRIO1, cls := liveF s BKB_ASCTL_CLASS, acc := (Config.freeByte 12 0).toNat
    lvar := leNat [Config.freeByte 12 1, Config.freeByte 12 2], prio2 := liveF s BKB_ASCTL_PRIO2, ident := leNat ((List.range 8).map fun i => Config.freeByte 12 (3 + i)) }

/-- ROLE and SPORT change; what is no longer the same SlavePort loses source 2 (R269). -/
def setAsRole (r port : Nat) (s : State) : State :=
  let keep := r == 2 && getF s BKB_ASSTAT_ROLE == 2 && getF s BKB_ASSTAT_SPORT == port
  let s1 := if keep then s else loseGptp s
  setF (setF s1 BKB_ASSTAT_ROLE r) BKB_ASSTAT_SPORT (if r = 2 then port else getF s BKB_ASSTAT_SPORT)

/-- The best master clock algorithm (R268, R269): a better dataset heard on a gPTP port makes it SlavePort, else the module becomes grandmaster where GMCAP lets it. -/
def decideMaster (heard : Option (Nat × Announce)) (s : State) : State :=
  let own := onL s BKB_ASCTL_GMCAP
  let slave := match heard with
    | some (p, a) => if bit (liveF s BKB_ASCTL_PORTS) p && (!own || decide (a.rank < (ownAnnounce s).rank)) then some p else none
    | none => none
  if !onL s BKB_ASCTL_ASEN then setAsRole 0 0 s
  else match slave with
    | some p => setAsRole 2 p s
    | none => setAsRole (if own then 1 else 3) 0 s

/-- The role that ASEN, GMCAP and PORTS still allow (R268, R269). -/
def followAsctl (s : State) : State :=
  let r := getF s BKB_ASSTAT_ROLE
  if !onL s BKB_ASCTL_ASEN then (if r = 0 then s else setAsRole 0 0 s)
  else if r = 0 ∨ (r = 1 ∧ !onL s BKB_ASCTL_GMCAP) ∨ (r = 2 ∧ !bit (liveF s BKB_ASCTL_PORTS) (getF s BKB_ASSTAT_SPORT)) then setAsRole 3 0 s
  else s

/-- The grandmaster sends, every 2^LOGSYNC s on each gPTP port, a Sync with its Follow_Up, the Meridian time value as it stands, and what its Announce says: currentUtcOffsetValid
false, timeSource INTERNAL_OSCILLATOR (0xA0), PRIO1, CLASS and PRIO2 (R268). -/
def sendSync (p : Nat) (s : State) : State :=
  let at' := s.bkb.syncAt.getD p 0
  if !onL s BKB_ASCTL_ASEN || getF s BKB_ASSTAT_ROLE != 1 || !bit (liveF s BKB_ASCTL_PORTS) p || !portUp s p
    || (at' != 0 && decide (freeCnt s < at' - 1 + 1000000000 / 2 ^ syncShift s)) then s
  else
    let s1 := modBkb s fun b => { b with syncAt := modAt b.syncAt p fun _ => freeCnt s + 1 }
    let ann := liveF s BKB_ASCTL_PRIO1 + liveF s BKB_ASCTL_CLASS * 2 ^ 8 + liveF s BKB_ASCTL_PRIO2 * 2 ^ 16 + 0xA0 * 2 ^ 24
    [(2, s.mer.t), (3, s.mer.t), (4, ann)].foldl (fun t x => emit (incF t (BKB_PCNT0_TXFRM p)) (.signal .backbone p x.1 x.2)) s1

/-- A Sync receipt timeout of the SlavePort (R269). -/
def syncTimeout (s : State) : State :=
  if getF s BKB_ASSTAT_ROLE ≠ 2 then s
  else
    let s1 := modBkb s fun b => { b with timeouts := b.timeouts + 1, good := 0 }
    if 3 ≤ s1.bkb.timeouts then loseGptp s1 else s1

/-! ### What the module sends (R270, R275, R277) -/

/-- The VLAN of a context's frames; untagged frames travel in the default VLAN 1 of host port 4 (notes/assumptions/25.md). -/
def ctxFrame (s : State) (c et : Nat) (payload : List Byte) : EthFrame :=
  let vid := getF s (BKB_FC_0_VID c)
  { dst := getF s (BKB_FC_1_MAC c), src := hostMac s, rest := toBE 2 et ++ payload, vid := if vid = 0 then 1 else vid, pcp := getF s (BKB_FC_0_PCP c), tagged := vid != 0 }

/-- At TXOFF, once in a cycle, a TX context packs its map and sends the payload (R270). -/
def txFlow (c : Nat) (s0 : State) : State :=
  if !onF s0 (BKB_FC_0_EN c) || getF s0 (BKB_FC_0_KIND c) != 1 || !ctxMaySend s0 c || s0.bkb.txDone.contains c || decide (cycOffset s0 < fc2 s0 c % 2 ^ 27) then s0
  else
    let s := modBkb s0 fun b => { b with txDone := c :: b.txDone }
    let x := packMap (getF s (BKB_FC_1_ID c)) s
    match x.2 with
    | some p => hostSend none (ctxFrame s c (getF s (BKB_FC_0_ETYPE c)) p) (incF x.1 (BKB_FCCNT0_FRAMES c))
    | none => x.1

/-- The bytes a context's frame has on the wire: address, tag, EtherType, content, FCS, and the tag or trailer of the mode (R260). -/
def wireLength (s : State) (f : EthFrame) : Nat :=
  max 64 (12 + (if f.tagged then 4 else 0) + f.rest.length + 4) + (if bkbMode s = 0 then 0 else 6)

/-- The frame that has waited longest is wrapped and sent (R273–R275). -/
def wrapTunnel (s0 : State) : State :=
  match s0.bkb.toWrap with
  | [] => s0
  | (c, m, ts, w) :: r =>
    let s := modBkb s0 fun b => { b with toWrap := r }
    if !onF s (BKB_FC_0_EN c) || getF s (BKB_FC_0_KIND c) != 3 || !ctxMaySend s c then s
    else
      let seq := if onF s (BKB_FC_3_FIRST c) then 1 else (getF s (BKB_FC_3_LASTSEQ c) + 1) % 2 ^ 32
      let h := toLE 2 (getF s (BKB_FC_1_ID c)) ++ toLE 1 (1 + 16 * m) ++ [0] ++ toLE 4 seq ++ toLE 12 ts ++ toLE 2 (getF s (BKB_FC_0_EPOCH c)) ++ toLE 2 w.length
      let f := ctxFrame s c 0x88B6 (h ++ w)
      if maxFrm s < wireLength s f then incF s (BKB_FCCNT1_TOOLONG c)
      else hostSend none f (incF (setF (setF s (BKB_FC_3_LASTSEQ c) seq) (BKB_FC_3_FIRST c) 0) (BKB_FCCNT0_FRAMES c))

/-- A TXFRM is taken and switched; it ends with the SOF of its first copy, or at once where none is to be sent (R42, R277). -/
def takeBkbTx (s : State) : State :=
  starting 0x700 (freshOpc s 0x700 1) s fun o =>
    let d := opDesc s o
    let n := leAt d 4 2
    let a := dAddr d 8
    if n < 60 ∨ maxFrm s - 4 < n then finish s o { status := stBADLEN }
    else if !engineMay s 0x700 a n false then finish s o { status := stACCESS }
    else match readMem s a n with
      | none => finish (touch s 0x47 a n) o { status := stCODE }
      | some b =>
        let t := hostSend (some o.idx) (parseEth b 1 0) (startOp (touch s 0x47 a n) o)
        if t.bkb.egress.any fun f => f.op == some o.idx then t else endTxfrm (some o.idx) 0 t

/-- FC.EN written 1 (R270, R272, R279). -/
def enableCtx (c : Nat) (s : State) : State :=
  if 5 ≤ getF s (BKB_FC_0_KIND c) then s else setF (setF s (BKB_FC_0_EN c) 1) (BKB_FC_3_FIRST c) 1

/-- FC.BUMP (R272). -/
def bumpCtx (c : Nat) (s : State) : State := setF s (BKB_FC_0_EPOCH c) (nextEpoch (getF s (BKB_FC_0_EPOCH c)))

/-- STAT.MODE and PSTAT.RED show the mode in force; in HSR mode the links of ports 2 and 3 go down and the watch on the ring begins (R261, R263, R279, R280). -/
def showMode (s : State) : State :=
  let m := bkbMode s
  let s1 := forN (fun p t => setF t (BKB_PSTAT_RED p) (if m = 1 then 1 + p % 2 else if m = 2 ∧ p < 2 then 3 else 0)) 0 4 (setF s BKB_STAT_MODE m)
  if m = 2 then linkBkb 3 false (linkBkb 2 false (modBkb s1 fun b => { b with ringAt := [freeCnt s, freeCnt s] })) else s1

/-- What a write to `BKB_CTRL` or to a port's enable brings: the mode shows, and ports that are down lose their frames. -/
def followBkbCtrl (s : State) : State := forN flushPort 0 4 (showMode s)

/-- A cycle starts: the gate lists begin again, and TX contexts may send again (R266, R270). -/
def bkbCycle (s : State) : State := runPorts (followAsctl (modBkb s fun b => { b with txDone := [] }))

/-! ### The commands -/

/-- `BKB_FRAME_RECEIVE` (R265); `sof` is the SOF stamp, a time value in 1/64 ns. -/
def execBkbFrameReceive (port : Fin 4) (sof : Nat) (frame : List Byte) (s : State) : Host.Outcome State Fault Refusal :=
  onEngine 6 s fun s =>
  .next (receiveBkb port.val sof frame s)

/-- `GATE_ENTRY_REACHED` (R266). -/
def execGateEntryReached (port : Fin 4) (k : Fin 128) (s : State) : Host.Outcome State Fault Refusal := onEngine 6 s fun s => .next (gateReached port.val k.val s)

/-- `SUPERVISION_SEND` (R262). -/
def execSupervisionSend (s : State) : Host.Outcome State Fault Refusal := onEngine 6 s fun s => .next (sendSupervision s)

/-- `NODE_FORGET` (R262). -/
def execNodeForget (mac : BitVec 48) (s : State) : Host.Outcome State Fault Refusal := onEngine 6 s fun s => .next (forgetNode mac.toNat s)

/-- `RINGOPEN_DETECT` (R263). -/
def execRingopenDetect (s : State) : Host.Outcome State Fault Refusal := onEngine 6 s fun s => .next (if ringSilent s then setRing true s else s)

/-- `FDB_AGE_OUT` (R265). -/
def execFdbAgeOut (vid : BitVec 12) (mac : BitVec 48) (s : State) : Host.Outcome State Fault Refusal :=
  onEngine 6 s fun s =>
  .next (modBkb s fun b => { b with fdb := b.fdb.filter fun x => !(x.1 == vid.toNat && x.2.1 == mac.toNat && decide (x.2.2.2 + 300000000000 ≤ freeCnt s)) })

/-- `GPTP_SYNC_SEND` (R268). -/
def execGptpSyncSend (port : Fin 4) (s : State) : Host.Outcome State Fault Refusal := onEngine 6 s fun s => .next (sendSync port.val s)

/-- `GPTP_SYNC_RECEIVE` (R269); `offset` is in 1/64 ns. -/
def execGptpSyncReceive (port : Fin 4) (offset rate : Int) (capable : Bool) (s : State) : Host.Outcome State Fault Refusal :=
  onEngine 6 s fun s =>
  .next (gptpSync port.val offset rate capable s)

/-- `SYNC_RECEIPT_TIMEOUT` (R269). -/
def execSyncReceiptTimeout (s : State) : Host.Outcome State Fault Refusal :=
  onEngine 6 s fun s => .next (syncTimeout s)

/-- `TX_FLOW_SEND` (R270). -/
def execTxFlowSend (f : Fin 256) (s : State) : Host.Outcome State Fault Refusal := onEngine 6 s fun s => .next (txFlow f.val s)

/-- `FLOW_CONTEXT_ENABLE` (R272). -/
def execFlowContextEnable (r : Req) (f : Fin 256) (s : State) : Host.Outcome State Fault Refusal := reached 6 r s fun s => .next (enableCtx f.val s)

/-- `FLOW_CONTEXT_BUMP` (R272). -/
def execFlowContextBump (r : Req) (f : Fin 256) (s : State) : Host.Outcome State Fault Refusal := reached 6 r s fun s => .next (bumpCtx f.val s)

/-- `TUNENC_WRAP` (R275). -/
def execTunencWrap (s : State) : Host.Outcome State Fault Refusal := onEngine 6 s fun s => .next (wrapTunnel s)

/-- `BKB_TXFRM` (R277). -/
def execBkbTxfrm (s : State) : Host.Outcome State Fault Refusal := onEngine 6 s fun s => .next (takeBkbTx s)

/-- `BKB_RXBUF` (R277). -/
def execBkbRxbuf (s : State) : Host.Outcome State Fault Refusal := onEngine 6 s fun s => .next (postRxbuf 0x701 (maxFrm s) s)

/-- `BKB_LINK_CHANGE` (R278). -/
def execBkbLinkChange (port : Fin 4) (up : Bool) (s : State) : Host.Outcome State Fault Refusal := onIsland 6 s fun s => .next (linkBkb port.val up s)

/-- `BEST_MASTER_CLOCK_DECISION` (R268, R269): the best dataset that asCapable ports hear, with its port, or none. -/
def execBestMasterClockDecision (heard : Bool) (port : Fin 4) (prio1 cls acc : BitVec 8) (lvar : BitVec 16) (prio2 : BitVec 8) (ident : Word) (s : State) :
    Host.Outcome State Fault Refusal :=
  onEngine 6 s fun s =>
  .next (decideMaster (if heard then some (port.val, ⟨prio1.toNat, cls.toNat, acc.toNat, lvar.toNat, prio2.toNat, ident.toNat⟩) else none) s)

end Sys2Proof.Machine
end

