-- ==== Sys2Proof/Machine/OwnNode.lean ====
section
/-! DEFINITION. Rhumbline's own node: reception, statistics, packing, transmission and its two queues (R201–R205). -/

namespace Sys2Proof.Machine

/-- Engine-specific statuses of the transmit queue (R205). -/
def stMISSED : Nat := 0x0100
def stNOENTRY : Nat := 0x0101
def stNOTSYNC : Nat := 0x0102

/-- The key of entry i's LASTEPOCH in the active buffer. -/
def epKey (s : State) (i : Nat) : Nat := 65536 * s.rhl.active.getD 0 + i

/-! ### Reception (R201, R202) -/

/-- Deliver the first valid copy of entry i: to the Chart engine through its map, or to receive queue 1 (R201, R205). -/
def deliverCopy (chan : Bool) (sof i : Nat) (e : SEntry) (f : List Byte) (s : State) : State :=
  if eMapv e then
    sendJob 13 8 { map := e.mapid, code := e.inport * 2048 + ((inportEntries s e.inport).findIdx? fun x => x.2 == i).getD 0, ts := tsSof s sof % 2 ^ 64, payload := (f.drop 42).take (fPlen f), ep := some (fEpoch f, epKey s i) } s
  else takePosted 0x501 s (fun t => incF t RHL_NOBUF_COUNT) fun o t =>
      fillPosted 0x501 0x45 o ((f.take (f.length - 4)).take (42 + fPlen f))
        { status := stOK, ts := tsSof t sof, res := i + b2n (chan != onF s RHL_CTRL_CHAN) * 2 ^ 16 + f.length * 2 ^ 32 } t

/-- The first valid copy also goes to every tunnel context that wraps the entry (R275). -/
def wrapCopy (sof i : Nat) (f : List Byte) (s : State) : State :=
  let cs := (List.range 256).filter fun c => tunencFor s c 1 && bits (fc2 s c) 16 15 == i
  cs.foldl (fun x c => sendWrap 13 8 c 4 (tsSof s sof) f x) s

/-- A coldstart frame of the partner's channel in LISTEN: the own node takes its cycle from it and sends none of its own until LT has run again (R212; notes/assumptions/66.md). -/
def hearCold (sof : Nat) (f : List Byte) (s : State) : State :=
  match (entries s).find? fun e => eCold e && e.frameid == fId f && bit e.outmask 17 with
  | some e => modRhl (adopt ((sof : Int) - e.offset * 64) 0 (fNet f) 1 s) fun r => { r with heardCold := true, ltStart := freeCnt s }
  | none => s

/-- The own node judges a copy that came on its own channel (`chan` false) or its partner's (R201, R202). -/
def receiveCopy (chan : Bool) (sof : Nat) (f : List Byte) (s : State) : State :=
  if getF s RHL_STAT_STATE = 1 then (if chan && fcsGood f && isCold f then hearCold sof f s else s)
  else if getF s RHL_STAT_STATE < 2 ∨ !fcsGood f then s
  else match (entries s).zipIdx.find? fun x => x.1.frameid == fId f with
    | none => s
    | some (e, i) =>
      if !bit e.outmask (if chan then 17 else 16) || !headerOk s e f then s
      else if epochOld (fEpoch f) (kget 0 s.rhl.lastEp (epKey s i)) then
        raiseOnce 0x23000 NOTE (rhlLoc 0x04) (modRhl (modEcyc s i fun c => { c with stale := c.stale + 1 }) fun r => { r with stale := r.stale + 1 })
      else
        let s1 := modRhl s fun r => { r with lastEp := kput 0 r.lastEp (epKey s i) (fEpoch f) }
        if (ecyc s1 i).rx then s1
        else wrapCopy sof i f (deliverCopy chan sof i e f (modEcyc s1 i fun c => { c with rx := true }))

/-! ### Statistics (R203) -/

/-- A counter of n bytes in a statistics codeword takes an increment, saturating. -/
def statAdd (d : List Byte) (o n inc : Nat) : List Byte :=
  d.take o ++ toLE n (min (leAt d o n + inc) (2 ^ (8 * n) - 1)) ++ d.drop (o + n)

/-- A field of n bytes in a statistics codeword is replaced. -/
def statSet (d : List Byte) (o n v : Nat) : List Byte := d.take o ++ toLE n v ++ d.drop (o + n)

/-- The statistics codeword of an entry after a cycle. -/
def statUpdated (e : SEntry) (c : ECyc) (cycle last : Nat) (d : List Byte) : List Byte :=
  let d1 := if c.fwd then statSet (statSet (statAdd d 0 4 1) 20 4 cycle) 24 4 (ofInt 32 c.dev) else statAdd d 4 4 1
  let d2 := if (bit e.outmask 16 || bit e.outmask 17) && !c.rx then statAdd d1 8 4 1 else d1
  let d3 := statAdd d2 12 2 c.cut
  let d4 := if e.inport = 16 then statAdd d3 14 2 c.nr else d3
  statSet (statAdd d4 18 2 c.stale) 16 2 last

/-- One read-modify-write of an entry's codeword; an unreadable one is not rewritten, nor one in a vital region (R76, R113, R203). -/
def writeStat (x : StatDue) (s : State) : State :=
  match (schedBuf s x.buf).bind fun c => c.entries[x.entry]? with
  | some e =>
    let a := statBase s x.buf + 32 * x.entry
    if !inDram a || !(regionsAt s a 32).isEmpty then s
    else
      let s1 := touchCw 0x45 s (cwOf a)
      match readCw s (cwOf a) with
      | some d => writeMem s1 0x45 a (statUpdated e x.cyc x.cycle (kget 0 s.rhl.lastEp (65536 * x.buf + x.entry)) d)
      | none => s1
  | none => s

/-- The close of entry i's window plus 16 µs: an update left from the cycle before comes first; otherwise the current cycle's, once, where windows are
enforced (R203). -/
def statsUpdate (i : Nat) (s : State) : State :=
  match s.rhl.prev.find? fun p => p.entry == i with
  | some x => writeStat x (modRhl s fun r => { r with prev := dropFirst (· == x) r.prev })
  | none =>
    if s.rhl.windows && !s.rhl.statDone.contains i && decide (i < (entries s).length) then
      writeStat { entry := i, cycle := s.rhl.cycle, buf := s.rhl.active.getD 0, cyc := ecyc s i } (modRhl s fun r => { r with statDone := i :: r.statDone })
    else s

/-! ### Transmission (R204, R205) -/

/-- The own node may send in the current state (R204). -/
def mayTransmit (s : State) : Bool :=
  let st := getF s RHL_STAT_STATE
  st == 3 || st == 4 || (st == 2 && s.rhl.windows)

/-- PACKLEAD in force, in ns (R217). -/
def packLead (s : State) : Nat := orElse (liveF s RHL_CTRL_PACKLEAD) 2 1000 10 * 1000

/-- The cycle of the slot of entry e that packing starts for now: PACKLEAD may reach back past cycle starts (R204). -/
def packCycle (s : State) (e : SEntry) : Nat := s.rhl.cycle + (cycOffset s + packLead s - e.offset) / max 1 s.mer.cycLen

/-- The own node may send in that slot: in cycle 0 of COLDSTART it is a slot of a later cycle (R204). -/
def mayPack (s : State) (e : SEntry) : Bool := mayTransmit s || (getF s RHL_STAT_STATE == 2 && decide (s.rhl.cycle < packCycle s e))

/-- A packed frame reaches the own node. -/
def keepPacked (i k : Nat) (p : List Byte) (s : State) : State := modRhl s fun r => { r with packed := r.packed ++ [(i, k, freeCnt s, p)] }

/-- The Chart engine packs for an own-node slot and sends the frame over crossing 14; without a frame it sends none (R204, R409). -/
def packFor (i m k : Nat) (s : State) : State :=
  match packMap m s with
  | (s1, some p) => cross 14 6 8 (.packed i k p) (keepPacked i k p) s1
  | (s1, none) => s1

/-- Packing starts for an INPORT-16 entry with a map: its request crosses to the Chart engine (R204, R409). -/
def packStart (i : Nat) (s : State) : State :=
  match (entries s)[i]? with
  | some e =>
    if e.inport = 16 && eMapv e && mayPack s e then
      let k := packCycle s e
      cross 13 8 6 (.packReq i e.mapid k) (packFor i e.mapid k) (modRhl s fun r => { r with packed := r.packed.filter fun x => x.1 != i || x.2.1 != k })
    else s
  | none => s

/-- Frames packed for a slot of entry i that is over are dropped. -/
def dropPacked (i : Nat) (s : State) : State := modRhl s fun r => { r with packed := r.packed.filter fun x => x.1 != i || decide (r.cycle < x.2.1) }

/-- A frame without FCS as the own node sends it: FRAMEID, CYCLE, EPOCH, CNS and CSEC are the module's (R204). -/
def ownFrame (s : State) (e : SEntry) (f : List Byte) : List Byte :=
  let net := s.rhl.net
  withFcs (f.take 16 ++ toLE 2 e.frameid ++ toLE 4 s.rhl.cycle ++ toLE 2 (getF s RHL_NEPOCH_EPOCH) ++ (f.drop 24).take 4 ++ toLE 4 (net % 1000000000)
    ++ toLE 6 (net / 1000000000) ++ f.drop 38)

/-- Send a frame in entry i's slot on both channels: to the star's port 16 and over the pair link. A SYNC entry yields the deviation 0
(R204, R206). -/
def sendOwn (i : Nat) (e : SEntry) (f : List Byte) (s : State) : State :=
  let s1 := if eSync e then modRhl s fun r => { r with devs := r.devs ++ [(i, 0)] } else s
  sendPartner f (emit s1 (.sent .ownNode 16 f))

/-- Nothing is sent in entry i's slot (R204). -/
def notReady (i : Nat) (s : State) : State := modEcyc s i fun c => { c with nr := c.nr + 1 }

/-- A SLOTTX descriptor names the occurrence of entry i in the current cycle (R205). -/
def namesSlot (s : State) (i : Nat) (d : List Byte) : Bool :=
  leAt d 4 2 == i && (bit (dByte d 20) 0 || leAt d 16 4 == s.rhl.cycle % 2 ^ 32)

/-- What was ready by OFFSET − 1 µs: at OFFSET it is 1 µs old (R204). -/
def inTime (s : State) (since : Nat) : Bool := decide (since + 1000 ≤ freeCnt s)

/-- The descriptor of queue 0 that names this occurrence. -/
def slotOp (s : State) (i : Nat) : Option QOp :=
  match firstPosted s 0x500 with
  | some o => if namesSlot s i (opDesc s o) && inTime s o.at' then some o else none
  | none => none

/-- The pending tunnel frame of entry i is sent, or nothing is (R204, R276). -/
def sendPending (i : Nat) (e : SEntry) (s : State) : State :=
  match s.rhl.tunnel.find? fun x => x.1 == i && inTime s x.2.2.1 with
  | some (_, _, _, f) => sendOwn i e (ownFrame s e f) (modRhl s fun r => { r with tunnel := r.tunnel.filter fun x => x.1 != i })
  | none => notReady i s

/-- A descriptor's frame is sent in its slot; with a buffer that its queue may not read any more, or that cannot be read, nothing is (R43, R114, R205). -/
def sendDescriptor (i : Nat) (e : SEntry) (o : QOp) (s : State) : State :=
  let d := opDesc s o
  let n := leAt d 6 2
  if !engineMay s 0x500 (dAddr d 8) n false then notReady i (finish s o { status := stACCESS }) else
  let s1 := touch s 0x45 (dAddr d 8) n
  match readMem s (dAddr d 8) n with
  | some f =>
    sendOwn i e (ownFrame s e f) (finish s1 o { status := stOK, ts := tsIn s (getF s MER_STAT_STATE) (s.mer.cycBase / nsU + e.offset), res := s.rhl.cycle % 2 ^ 32 + i * 2 ^ 32 })
  | none => notReady i (finish s1 o { status := stCODE })

/-- OFFSET of an INPORT-16 entry is reached: the packed frame, the descriptor's frame or the pending tunnel frame is sent, or nothing is (R204, R205, R426,
R442). -/
def transmit (i : Nat) (s0 : State) : State :=
  match (entries s0)[i]? with
  | none => s0
  | some e =>
    if e.inport ≠ 16 ∨ (ecyc s0 i).slot then s0
    else
      let s := modEcyc s0 i fun c => { c with slot := true }
      if !mayTransmit s || ownSilent s then
        match if eMapv e then none else slotOp s i with
        | some o => finish s o { status := stNOTSYNC }
        | none => dropPacked i s
      else if eMapv e then
        match s.rhl.packed.find? fun x => x.1 == i && x.2.1 == s.rhl.cycle && inTime s x.2.2.1 with
        | some (_, _, _, p) =>
          let f := rhlFrame 0 e.frameid s.rhl.cycle (getF s RHL_NEPOCH_EPOCH) s.rhl.net (eSync e) p
          sendOwn i e f (dropPacked i s)
        | none => notReady i (dropPacked i s)
      else match slotOp s i with
        | some o =>
          if o.epoch = getF s (QEPOCH_EPOCH 0x500) then sendDescriptor i e o s
          else sendPending i e (starting 0x500 (some o) s fun _ => s)
        | none => sendPending i e s

/-- The slot that a descriptor names has passed: its cycle is over, its offset has been passed or has come in it, or the engine found the descriptor later than 1 µs before it
(R204, R205). -/
def slotPassed (s : State) (e : SEntry) (o : QOp) : Bool :=
  let d := opDesc s o
  let n := (leAt d 16 4 + 2 ^ 32 - s.rhl.cycle % 2 ^ 32) % 2 ^ 32
  !bit (dByte d 20) 0 && (decide (2 ^ 31 ≤ n)
    || (n == 0 && (decide (e.offset < cycOffset s) || (ecyc s (leAt d 4 2)).slot || decide (freeCnt s + e.offset < o.at' + 1000 + cycOffset s))))

/-- The descriptor that is next in ring order completes at once, or waits for its slot (R205). -/
def judgeSlottx (o : QOp) (s : State) : State :=
  let d := opDesc s o
  let n := leAt d 6 2
  if n < 60 ∨ 1514 < n then finish s o { status := stBADLEN }
  else match (entries s)[leAt d 4 2]? with
    | none => finish s o { status := stNOENTRY }
    | some e =>
      if e.inport ≠ 16 ∨ eMapv e then finish s o { status := stNOENTRY }
      else if !engineMay s 0x500 (dAddr d 8) n false then finish s o { status := stACCESS }
      else if slotPassed s e o then finish s o { status := stMISSED }
      else postOp s o

/-- A SLOTTX descriptor is taken: each waits for its slot, and the one behind it is not taken before (R205). -/
def takeSlottx (s0 : State) : State :=
  let s := match firstPosted s0 0x500 with
    | some o => judgeSlottx o s0
    | none => s0
  if (firstPosted s 0x500).isSome then s else starting 0x500 (freshOpc s 0x500 1) s fun o => judgeSlottx o s

/-! ### The commands -/

/-- `OWN_NODE_RECEIVE` (R201): a copy on the own channel or, with `chan`, on the partner's; `sof` is its SOF stamp, a time value in 1/64 ns. -/
def execOwnNodeReceive (chan : Bool) (sof : Nat) (frame : List Byte) (s : State) : Host.Outcome State Fault Refusal :=
  onEngine 8 s fun s =>
  .next (receiveCopy chan sof frame (if chan then checkPartner frame s else s))

/-- `STATS_UPDATE` (R203). -/
def execStatsUpdate (e : Nat) (s : State) : Host.Outcome State Fault Refusal := onEngine 8 s fun s => .next (statsUpdate e s)

/-- `PACK_START` (R204). -/
def execPackStart (e : Nat) (s : State) : Host.Outcome State Fault Refusal := onEngine 8 s fun s => .next (packStart e s)

/-- `OWN_NODE_TRANSMIT` (R204). -/
def execOwnNodeTransmit (e : Nat) (s : State) : Host.Outcome State Fault Refusal := onEngine 8 s fun s => .next (transmit e s)

/-- `SLOTTX` (R205). -/
def execSlottx (s : State) : Host.Outcome State Fault Refusal := onEngine 8 s fun s => .next (takeSlottx s)

/-- `RHL_RXBUF` (R205). -/
def execRhlRxbuf (s : State) : Host.Outcome State Fault Refusal := onEngine 8 s fun s => .next (postRxbuf 0x501 1514 s)

end Sys2Proof.Machine
end

