-- ==== Sys2Proof/Machine/Bridge.lean ====
section
/-! DEFINITION. The backplane bridge (R303–R317). -/

namespace Sys2Proof.Machine

/-- Change the bridge's own state; TAGS and BUSY follow it (R309, R317). -/
def modBrg (s : State) (f : Brg → Brg) : State :=
  let s1 := { s with brg := f s.brg }
  setB (setF s1 BRG_STAT_TAGS (s1.brg.held.filter fun h => h.tag.isSome).length) BRG_CFGREQ_BUSY (s1.brg.cfg || !s1.brg.fetches.isEmpty)

/-- The bridge is enabled, its island answers and its link is up. -/
def bridgeUp (s : State) : Bool := onF s BRG_CTRL_EN && onF s BRG_STAT_LINK && islandAnswers s 0xA

/-- The requester code of the copy queue (R419). -/
def copyReq : Nat := 0x49

/-! ### Outbound windows (R305–R308) -/

/-- Window k's size in bytes, 0 where it is void or disabled. -/
def owSize (s : State) (k : Nat) : Nat :=
  let z := getF s (BRG_OW_1_SIZE k)
  if onF s (BRG_OW_0_EN k) && decide (12 ≤ z) && decide (z ≤ 34) then 2 ^ z else 0

/-- Window k's local base. DESIGN CHOICE: one that is not aligned to 2^SIZE is used as it is (notes/assumptions/66.md). -/
def owBase (s : State) (k : Nat) : Nat := getF s (BRG_OW_1_LBASE k) * 2 ^ 12

/-- Window k's backplane base. -/
def owTarget (s : State) (k : Nat) : Nat := alignDown (getF s (BRG_OW_2_TBASE k)) (2 ^ 12)

/-- Window k covers a local address, which lies in the outbound range (R305). -/
def owCovers (s : State) (k a : Nat) : Bool :=
  decide (0x4000000000 ≤ a) && decide (a < 0x5000000000) && decide (owBase s k ≤ a) && decide (a < owBase s k + owSize s k)

/-- The lowest-numbered enabled window that covers a local address (R305). -/
def windowAt (s : State) (a : Nat) : Option Nat := (List.range 16).find? fun k => owCovers s k a

/-- The backplane address of a local address in window k. -/
def toBackplane (s : State) (k a : Nat) : Nat := (owTarget s k + (a - owBase s k)) % 2 ^ 64

/-- The windows whose backplane range contains an address. -/
def windowsOf (s : State) (b : Nat) : List Nat := (List.range 16).filter fun k => decide (owTarget s k ≤ b) && owCovers s k (owBase s k + (b - owTarget s k))

/-- A read TLP leaves the port: kind 3 with its length as index and its address (notes/assumptions/26.md). -/
def sendRead (b n : Nat) (s : State) : State := emit s (.signal .pcie n 3 b)

/-- A write TLP leaves the port, its address as index. -/
def sendWrite (b : Nat) (d : List Byte) (s : State) : State := emit s (.sent .pcie b d)

/-- The lowest free tag (R309). -/
def freeTag (s : State) : Option Nat := (List.range 32).find? fun t => !s.brg.held.any fun h => h.tag == some t

/-- The oldest request without a tag takes a free one, and its TLP leaves. -/
def assignTag (s : State) : State :=
  match freeTag s, s.brg.held.find? fun h => h.tag.isNone with
  | some t, some h =>
    let h' := { h with tag := some t }
    let s1 := modBrg s fun b => { b with held := (b.held.takeWhile fun x => x.tag.isSome) ++ [h'] ++ (b.held.dropWhile fun x => x.tag.isSome).drop 1 }
    match h.block with
    | some (b, n) => sendRead b n s1
    | none => sendRead h.addr (if h.flush then 0 else h.len) s1
  | _, _ => s

/-- Hold a request from its acceptance (R309). -/
def hold (h : HeldReq) (s : State) : State := assignTag (modBrg s fun b => { b with held := b.held ++ [{ h with at' := freeCnt s }] })

/-- Invalidate the prefetch buffers of a window; a block that is still on its way becomes none (R307). -/
def dropPf (k : Nat) (s : State) : State :=
  modBrg s fun b => { b with pf := b.pf.filter fun p => p.win != k, held := b.held.map fun h => if h.win = k then { h with keep := false } else h }

/-- A prefetch buffer is still within PFAGE (R307, R317). -/
def pfFresh (s : State) (p : PfBuf) : Bool := decide (freeCnt s < p.at' + 1000 * max 1 (liveF s BRG_CTRL_PFAGE))

/-- The prefetch length of window k, 0 for none (R307). -/
def pfLen (s : State) (k : Nat) : Nat :=
  if onF s (BRG_OW_0_TYPE k) then 0 else match getF s (BRG_OW_0_PFLEN k) with
    | 1 => 64
    | 2 => 128
    | 3 => 256
    | _ => 0

/-- An outbound read: served from a prefetch buffer, or held with a TLP for the access or for its block. A read that lies in no one block goes out
alone (R306, R307; notes/assumptions/26.md). -/
def outRead (r : Req) (kind : AccKind) (k b n : Nat) (s : State) : State :=
  let len := pfLen s k
  match s.brg.pf.find? fun p => p.win == k && pfFresh s p && decide (p.addr ≤ b) && decide (b + n ≤ p.addr + p.data.length) with
  | some p =>
    if len = 0 then hold { who := some (r, kind), win := k, addr := b, len := n, flush := false } s
    else emit (modBrg s fun g => { g with pf := g.pf.filter (· != p) ++ [p] }) (.bytes r ((p.data.drop (b - p.addr)).take n))
  | none =>
    let blk := if len = 0 ∨ len < b % len + n then none else some (b / len * len, len)
    hold { who := some (r, kind), win := k, addr := b, len := n, flush := false, block := blk } s

/-- An outbound write: posted, and held behind a zero-length read in a NON-POSTED window (R306). -/
def outWrite (r : Req) (kind : AccKind) (k b : Nat) (d : List Byte) (s : State) : State :=
  let s1 := sendWrite b d (dropPf k s)
  if onF s (BRG_OW_0_NP k) then hold { who := some (r, kind), win := k, addr := b, len := 0, flush := true } s1 else s1

/-- A hart's access to the outbound range (R65, R87, R305, R306, R308). -/
def outbound (r : Req) (kind : AccKind) (a n : Nat) (d : List Byte) (s0 : State) : State :=
  match kindRefused kind a with
  | some f => deny s0 r f
  | none =>
    let s := wakeIsland s0 0xA
    if !bridgeUp s then deny s r (faultOf kind)
    else match windowAt s a with
      | none => deny s r (faultOf kind)
      | some k =>
        let b := toBackplane s k a
        if !(n == 1 || n == 2 || n == 4 || n == 8) || decide (4096 < b % 4096 + n) then deny (incF s BRG_CNT0_SIZEFLT) r (faultOf kind)
        else if kind = .store then outWrite r kind k b (d.take n) s
        else outRead r kind k b n s

/-! ### Completions (R309) -/

/-- Engine-specific status of a copy that an error completion ends (R314). -/
def stCPLERR : Nat := 0x0100

/-- The running copy ends. -/
def endCopy (st : Nat) (s : State) : State :=
  match (opsOf s 0x900).find? fun o => o.started && o.done.isNone with
  | some o => finish s o { status := st, ts := if st = stOK then ts96 s else 0, res := s.brg.lines }
  | none => s

/-- A held request is no longer held; the next one may take its tag. -/
def unhold (h : HeldReq) (s : State) : State := assignTag (modBrg s fun b => { b with held := dropFirst (· == h) b.held })

/-- A held request ends without data: an access fault, or the copy ends with a status (R309, R314). -/
def failHeld (h : HeldReq) (st : Nat) (s : State) : State :=
  match h.who with
  | some (r, k) => deny s r (faultOf k)
  | none => endCopy st s

/-- The length of a copy, and its addresses in DRAM and on the bridge (R314). -/
def copyLen (d : List Byte) : Nat := leAt d 4 4
def copyDram (d : List Byte) : Nat := dAddr d 8
def copyLocal (d : List Byte) : Nat := dAddr d 16

/-- The next line of the running COPYIN is read, or the copy ends with OK (R314). -/
def nextLine (s : State) : State :=
  match (opsOf s 0x900).find? fun o => o.started && o.done.isNone with
  | none => s
  | some o =>
    let d := opDesc s o
    if copyLen d ≤ 64 * s.brg.lines then endCopy stOK s
    else
      let a := copyLocal d + 64 * s.brg.lines
      match windowAt s a with
      | some k => hold { who := none, win := k, addr := toBackplane s k a, len := 64, flush := false } s
      | none => endCopy stTIMEOUT s

/-- A line of a COPYIN has arrived: it is written to DRAM, and the next is read. -/
def lineIn (data : List Byte) (s : State) : State :=
  match (opsOf s 0x900).find? fun o => o.started && o.done.isNone with
  | none => s
  | some o =>
    let s1 := writeMem s copyReq (copyDram (opDesc s o) + 64 * s.brg.lines) ((data ++ List.replicate 64 0).take 64)
    nextLine (modBrg s1 fun b => { b with lines := b.lines + 1 })

/-- A completion without error ends a held request (R307, R309). -/
def served (h : HeldReq) (data : List Byte) (s : State) : State :=
  match h.who with
  | none => if h.flush then endCopy stOK s else lineIn data s
  | some (r, _) =>
    if h.flush then emit s (.bytes r [])
    else match h.block with
      | none => emit s (.bytes r (data.take h.len))
      | some (b, n) =>
        let blk := (data ++ List.replicate n 0).take n
        let s1 := if h.keep then modBrg s fun g => { g with pf := (g.pf ++ [(⟨h.win, b, blk, freeCnt s⟩ : PfBuf)]).drop (g.pf.length - 3) } else s
        emit s1 (.bytes r ((blk.drop (h.addr - b)).take h.len))

/-- A completion arrives for a tag; for no held request it is late and discarded. `ok` is false for status UR or CA or with the poisoned bit set
(R309). -/
def completion (tag : Option Nat) (ok : Bool) (data : List Byte) (s : State) : State :=
  match s.brg.held.find? fun h => tag.isSome && h.tag == tag with
  | none => incF s BRG_CNT0_LATECPL
  | some h => if ok then served h data (unhold h s) else failHeld h stCPLERR (incF (unhold h s) BRG_CNT0_CPLERR)

/-- The oldest held request has been held for 50 µs (R309). -/
def timeoutHeld (s : State) : State :=
  match s.brg.held with
  | [] => s
  | h :: _ =>
    if freeCnt s < h.at' + 50000 then s else
    let s1 := evtBrg BRG_EVT_CPLTO (incF (unhold h s) BRG_CNT0_CPLTO)
    let code := match h.who with
      | some (r, _) => reqCode r
      | none => copyReq
    failHeld h stTIMEOUT (raiseReq MINOR (brgLoc 0x01) code s1)

/-! ### The error log (R310, R311) -/

/-- Push an error log entry, or drop it; the MINOR report is raised either way (R310, R311, the last rows under R317). -/
def pushLog (rid msg ts : Nat) (hlok : Bool) (addr : Nat) (s : State) : State :=
  let c := getF s BRG_ELSTAT_COUNT
  let s0 := raise MINOR (brgLoc 0x04) s
  if 16 ≤ c then evtBrg BRG_EVT_ELOVF (incF s0 BRG_CNT1_ELOVF)
  else
    let e := (getF s BRG_ELSTAT_HEAD + c) % 16
    let ws := if hlok then windowsOf s addr else []
    let s1 := setF (setF (setF s0 (BRG_EL_0_ADDR e) (if hlok then addr else 0)) (BRG_EL_1_TSLO e) ts) (BRG_EL_2_TSHI e) (ts / 2 ^ 64)
    let s2 := setB (setF (setF s1 (BRG_EL_2_RID e) rid) (BRG_EL_2_MSG e) msg) (BRG_EL_2_HLOK e) hlok
    let s3 := if 1 < ws.length then setFree s2 (BRG_EL_2_WIN e) else setF s2 (BRG_EL_2_WIN e) (ws.headD 0xFF)
    evtBrg BRG_EVT_ERRMSG (setF s3 BRG_ELSTAT_COUNT (c + 1))

/-- A configuration read of an error fetch leaves for a function, kind 9, or the write of its status back, kind 10 with the value (notes/assumptions/26.md). -/
def fetchRead (rid off : Nat) (s : State) : State := emit s (.signal .pcie rid 9 off)

/-- The reads of an error fetch (R310): down the extended capability list from 0x100 to the AER capability, then its status and Header Log, whose answers `reads` gives in order.
What results is the state with the reads sent, and AER's place, the status and the four log words where all of them came (PRESUMED: the registers' places are those of the PCI Express
Base Specification; notes/assumptions/70.md). -/
def fetchWalk (rid off : Nat) : List (Option (BitVec 32)) → State → State × Option (Nat × Nat × List Nat)
  | [], s => (fetchRead rid off s, none)
  | none :: _, s => (fetchRead rid off s, none)
  | some d :: r, s =>
    let s1 := fetchRead rid off s
    if d.toNat % 2 ^ 16 = 1 then
      let log := (r.take 5).filterMap fun x => x.map (·.toNat)
      ([4, 0x1C, 0x20, 0x24, 0x28].foldl (fun t o => fetchRead rid (off + o) t) s1, if log.length = 5 && (r.take 5).length = 5 then some (off, log.headD 0, log.drop 1) else none)
    else if d.toNat / 2 ^ 20 = 0 then (s1, none)
    else fetchWalk rid (d.toNat / 2 ^ 20) r s1

/-- The address in a logged header: 64 bits wide where its format says four words. -/
def headerAddr (log : List Nat) : Nat :=
  if bit (log.getD 0 0) 29 then log.getD 2 0 * 2 ^ 32 + alignDown (log.getD 3 0) 4 else alignDown (log.getD 2 0) 4

/-- The fetch in progress is carried out: its reads, the status written back, and its entry (R310). -/
def fetchDone (reads : List (Option (BitVec 32))) (s : State) : State :=
  match s.brg.fetches with
  | [] => s
  | (rid, msg, ts) :: r =>
    let x := fetchWalk rid 0x100 reads s
    let t := modBrg x.1 fun b => { b with fetches := r }
    match x.2 with
    | some (_, st, log) => pushLog rid msg ts true (headerAddr log) (emit t (.signal .pcie rid 10 st))
    | none => pushLog rid msg ts false 0 t

/-- POP frees the oldest entry (R311). -/
def popLog (s : State) : State :=
  let c := getF s BRG_ELSTAT_COUNT
  if c = 0 then s else setF (setF s BRG_ELSTAT_COUNT (c - 1)) BRG_ELSTAT_HEAD ((getF s BRG_ELSTAT_HEAD + 1) % 16)

/-! ### The endpoint's function (R303) -/

/-- A word of the endpoint's configuration space: a Type 0 header with class code 0x0B_4000, a 64-bit prefetchable BAR0 of 4 GiB, an MSI capability of 32 vectors, a PCI Express
capability with a maximum payload of 256 bytes and no ASPM, and AER
(PRESUMED: the places and the reset values are those of the PCI Express Base Specification; notes/assumptions/70.md). -/
def epWord (s : State) (o : Nat) : Nat :=
  let e := s.brg.ep
  match o with
  | 0x00 => getF s BRG_ID_VID + getF s BRG_ID_DID * 2 ^ 16
  | 0x04 => e.cmd % 2 ^ 16 + 0x10 * 2 ^ 16
  | 0x08 => getF s BRG_ID_REV + 0x0B4000 * 2 ^ 8
  | 0x10 => 0xC
  | 0x14 => e.bar0
  | 0x34 => 0x50
  | 0x50 => 0x7005 + (0x8A + e.msiCtl) * 2 ^ 16
  | 0x54 => e.msiAddr % 2 ^ 32
  | 0x58 => e.msiAddr / 2 ^ 32
  | 0x5C => e.msiData
  | 0x70 => 0x00020010
  | 0x74 => 0x8001
  | 0x78 => e.devCtl + e.devSta * 2 ^ 16
  | 0x7C => 0x43
  | 0x80 => (getF s BRG_STAT_SPEED + getF s BRG_STAT_WIDTH * 2 ^ 4) * 2 ^ 16
  | 0x100 => 0x00020001
  | 0x104 => e.unc
  | 0x108 => e.uncMask
  | 0x10C => e.uncSev
  | 0x110 => e.cor
  | 0x114 => e.corMask
  | 0x11C => e.hdr.getD 0 0
  | 0x120 => e.hdr.getD 1 0
  | 0x124 => e.hdr.getD 2 0
  | 0x128 => e.hdr.getD 3 0
  | _ => 0

/-- The bits of v that a 1 written by w clears are gone. -/
def clearOnes (v w : Nat) : Nat := v - (v &&& w)

/-- A word is written to it: command bits, BAR0, MSI enable, multiple-message enable, address and data, device control, AER's masks and severity, and status bits that a 1 clears. -/
def epSet (o v : Nat) (s : State) : State :=
  let upd (f : EpFn → EpFn) : State := modBrg s fun b => { b with ep := f b.ep }
  match o with
  | 0x04 => upd fun e => { e with cmd := v &&& 0x546 }
  | 0x14 => upd fun e => { e with bar0 := v }
  | 0x50 => upd fun e => { e with msiCtl := v / 2 ^ 16 &&& 0x71 }
  | 0x54 => upd fun e => { e with msiAddr := e.msiAddr / 2 ^ 32 * 2 ^ 32 + alignDown v 4 }
  | 0x58 => upd fun e => { e with msiAddr := e.msiAddr % 2 ^ 32 + v * 2 ^ 32 }
  | 0x5C => upd fun e => { e with msiData := v % 2 ^ 16 }
  | 0x78 => upd fun e => { e with devCtl := v &&& 0x70EF, devSta := clearOnes e.devSta (v / 2 ^ 16) }
  | 0x104 => upd fun e => { e with unc := clearOnes e.unc v }
  | 0x108 => upd fun e => { e with uncMask := v &&& 0x017FF030 }
  | 0x10C => upd fun e => { e with uncSev := v &&& 0x017FF030 }
  | 0x110 => upd fun e => { e with cor := clearOnes e.cor v }
  | 0x114 => upd fun e => { e with corMask := v &&& 0xF1C1 }
  | _ => s

/-- The header of an inbound memory request as AER logs it: format and length in words, the requester with its tag, which the command does not carry (free bytes), and the address
(notes/assumptions/70.md). -/
def tlpHeader (b : Nat) (wr : Bool) (n : Nat) : List Nat :=
  let wide := decide (2 ^ 32 ≤ b)
  let w0 := (b2n wide * 0x20 + b2n wr * 0x40) * 2 ^ 24 + max 1 ((b % 4 + n + 3) / 4) % 1024
  let w1 := leNat ((List.range 4).map (Config.freeByte 13))
  if wide then [w0, w1, b / 2 ^ 32, alignDown (b % 2 ^ 32) 4] else [w0, w1, alignDown b 4, 0]

/-- The endpoint's function records an uncorrectable error, by its bit of AER's status, with the header of the request where no error stands recorded (R303). -/
def epError (k b : Nat) (wr : Bool) (n : Nat) (s : State) : State :=
  if !onF s BRG_CTRL_ROLE then s
  else modBrg s fun g =>
    let e := g.ep
    { g with ep := { e with unc := putBit e.unc k true, devSta := if k = 20 then putBit e.devSta 3 true else e.devSta
                            hdr := if e.unc = 0 && !bit e.uncMask k then tlpHeader b wr n else e.hdr } }

/-- A configuration request from the far root (R303); a root port is the target of none. -/
def epConfig (a : Nat) (wr : Bool) (n : Nat) (d : List Byte) (s : State) : State :=
  let o := alignDown (a % 4096) 4
  let k := a % 4
  let m := min n (4 - k)
  if !bridgeUp s then s
  else if !onF s BRG_CTRL_ROLE then deny s .bridge .load
  else if wr then epSet o (leNat (placeBytes k (d.take m) (toLE 4 (epWord s o)))) s
  else emit s (.bytes .bridge (((toLE 4 (epWord s o)).drop k).take m))

/-- `BRG_MSIGEN.VEC`: in endpoint mode the vector's write goes to the far root where it has MSI enabled (R304, R317). -/
def sendMsiVector (v : Nat) (s : State) : State :=
  let e := s.brg.ep
  if bridgeUp s && onF s BRG_CTRL_ROLE && bit e.msiCtl 0 then sendWrite e.msiAddr (toLE 4 (e.msiData / 32 * 32 + v % 32)) s else s

/-- A route table entry's identity is sent in root complex mode; EIID 0 discards the message (R304). -/
def routeMsi (e : Nat) (s : State) : State :=
  if bridgeUp s && !onF s BRG_CTRL_ROLE then sendTarget (brgLoc 0x03) (0x2009000500 + e * 8) s else s

/-! ### Inbound requests (R304, R312, R313) -/

/-- The DRAM address that inbound window k gives a span of the backplane (R312). -/
def inTarget (s : State) (k b n : Nat) : Option Nat :=
  let z := getF s (BRG_IW_0_SIZE k)
  if !onF s (BRG_IW_0_EN k) || decide (z < 12) || decide (32 < z) then none
  else
    let base := getF s (BRG_IW_1_BBASE k) / 2 ^ z * 2 ^ z
    let t := getF s (BRG_IW_2_TBASE k) / 2 ^ z * 2 ^ z + (b - base)
    if base ≤ b ∧ b + max 1 n ≤ base + 2 ^ z ∧ dramSpan t (max 1 n) then some t else none

/-- A refused inbound request (R313); in endpoint mode AER records an unsupported request, and a refused write is answered with an error message, kind 8
(R303, R311; notes/assumptions/70.md). -/
def refuseIn (b : Nat) (wr : Bool) (n : Nat) (s : State) : State :=
  let s1 := epError 20 b wr n (evtBrg BRG_EVT_INREF (incF s BRG_CNT1_INREF))
  if wr then (if onF s BRG_CTRL_ROLE then emit s1 (.signal .pcie 0 8 1) else s1) else deny s1 .bridge .load

/-- The address that the inbound windows compare: in endpoint mode the offset within BAR0, which needs memory space enabled (R303, R312). -/
def inAddr (s : State) (b : Nat) : Option Nat :=
  if !onF s BRG_CTRL_ROLE then some b
  else
    let base := s.brg.ep.bar0 * 2 ^ 32
    if bit s.brg.ep.cmd 1 && decide (base ≤ b) && decide (b < base + 2 ^ 32) then some (b - base) else none

/-- The data of a read, in completions of at most 256 bytes; a read of no bytes is completed with none (R313). -/
def complete : Nat → List Byte → State → State
  | 0, _, s => s
  | k + 1, x, s =>
    let s1 := emit s (.bytes .bridge (x.take 256))
    if x.length ≤ 256 then s1 else complete k (x.drop 256) s1

/-- An inbound memory request: an MSI, or a request that the windows judge (R304, R313). A write of more than the maximum payload of 256 bytes is malformed: it is discarded, and
in endpoint mode AER records it (R303; notes/assumptions/70.md). -/
def inbound (b0 : Nat) (wr : Bool) (n : Nat) (d : List Byte) (s0 : State) : State :=
  let s := wakeIsland s0 0xA
  if !bridgeUp s then s
  else if wr && decide (256 < n) then epError 18 b0 wr n s
  else if wr && !onF s BRG_CTRL_ROLE && b0 == 0xFEE00000 then routeMsi (leAt d 0 4 % 32) s
  else match inAddr s b0 with
  | none => refuseIn b0 wr n s
  | some b => match (List.range 8).find? fun k => (inTarget s k b n).isSome with
    | none => refuseIn b0 wr n s
    | some k =>
      let t := (inTarget s k b n).getD 0
      if !(if wr then onF s (BRG_IW_0_WR k) else onF s (BRG_IW_0_RD k)) then refuseIn b0 wr n s
      else if !(regionsAt s t (max 1 n)).isEmpty then refuseIn b0 wr n (raise MINOR (brgLoc 0x03) s)
      else if wr then writeMem s 0x60 t (d.take n)
      else match readMem s t n with
        | some x => complete (n / 256 + 1) x (touch s 0x60 t n)
        | none => deny (incF (touch s 0x60 t n) BRG_CNT1_INPOIS) .bridge .poisonedCompletion

/-! ### Configuration requests (R317) -/

/-- A CFGREQ write with GO: the request fields, then the request, or RESULT 5 (R317). -/
def startCfg (v : Nat) (s : State) : State :=
  let s1 := setF (setF (setF (setF (setF (setF s BRG_CFGREQ_BUS (bits v 0 8)) BRG_CFGREQ_DEV (bits v 8 5)) BRG_CFGREQ_FN (bits v 13 3))
    BRG_CFGREQ_REG (bits v 16 12)) BRG_CFGREQ_SIZE (bits v 28 2)) BRG_CFGREQ_WR (bits v 30 1)
  if onF s BRG_CTRL_ROLE || !onF s BRG_CTRL_EN || onF s BRG_CFGREQ_BUSY then s1
  else if bits v 28 2 = 3 ∨ bits v 16 12 % 2 ^ bits v 28 2 ≠ 0 then setF s1 BRG_CFGREQ_RESULT 5
  else emit (modBrg s1 fun b => { b with cfg := true, cfgWr := bit v 30, cfgAt := freeCnt s }) (.signal .pcie (if bit v 30 then getF s BRG_CFGDATA_DATA else 0) 4 (bits v 0 31))

/-- The configuration request in progress ends with a RESULT; a read's data go to CFGDATA (R317). -/
def endCfg (res data : Nat) (s : State) : State :=
  if !s.brg.cfg then s
  else
    let s1 := setF (modBrg s fun b => { b with cfg := false }) BRG_CFGREQ_RESULT res
    if res = 1 && !s.brg.cfgWr then setF s1 BRG_CFGDATA_DATA data else s1

/-- What can end a configuration request: OK, UR, CA, or the timeout once 50 µs have passed (R317). -/
def cfgDone (res data : Nat) (s : State) : State :=
  if 1 ≤ res ∧ res ≤ 4 ∧ (res = 4 → s.brg.cfgAt + 50000 ≤ freeCnt s) then endCfg res data s else s

/-! ### The copy queue (R314) -/

/-- The checks of R314 on a copy: the status of the first that fails. `wr` for COPYIN, which writes DRAM. -/
def checkCopy (s : State) (d : List Byte) (wr : Bool) : Option Nat :=
  let n := copyLen d
  if n < 64 ∨ 65536 < n ∨ n % 64 ≠ 0 then some stBADLEN
  else if copyDram d % 64 ≠ 0 ∨ copyLocal d % 64 ≠ 0 ∨ !dramSpan (copyDram d) n ∨ !engineMay s 0x900 (copyDram d) n wr then some stACCESS
  else match windowAt s (copyLocal d) with
    | none => some stACCESS
    | some k =>
      if !onF s BRG_CTRL_EN || decide (owBase s k + owSize s k < copyLocal d + n)
          || (List.range (n / 64)).any (fun i => windowAt s (copyLocal d + 64 * i) != some k) then some stACCESS
      else if !bridgeUp s then some stTIMEOUT else none

/-- Post the lines of a COPYOUT in ascending order, to the first that is unreadable (R76, R314). -/
def postLines (k : Nat) (d : List Byte) : Nat → Nat → State → State × Bool
  | 0, _, s => (s, true)
  | n + 1, i, s =>
    let a := copyDram d + 64 * i
    let s1 := touch s copyReq a 64
    match readMem s a 64 with
    | none => (s1, false)
    | some x => postLines k d n (i + 1) (modBrg (sendWrite (toBackplane s1 k (copyLocal d + 64 * i)) x s1) fun b => { b with lines := b.lines + 1 })

/-- A COPYOUT is carried out; in a NON-POSTED window it ends with one zero-length read (R314). -/
def runCopyout (s : State) : State :=
  starting 0x900 (freshOpc s 0x900 1) s fun o =>
    if s.brg.held.any (fun h => h.who.isNone) || (currentOp s 0x900) != some o then s
    else
      let d := opDesc s o
      match checkCopy s d false with
      | some st => finish s o { status := st }
      | none =>
        let k := (windowAt s (copyLocal d)).getD 0
        let s1 := modBrg (dropPf k (startOp s o)) fun b => { b with lines := 0 }
        let (s2, good) := postLines k d (copyLen d / 64) 0 s1
        if !good then endCopy stCODE s2
        else if onF s (BRG_OW_0_NP k) then hold { who := none, win := k, addr := toBackplane s2 k (copyLocal d + copyLen d - 64), len := 0, flush := true } s2
        else endCopy stOK s2

/-- A COPYIN starts with its first line (R314). -/
def runCopyin (s : State) : State :=
  starting 0x900 (freshOpc s 0x900 2) s fun o =>
    if (currentOp s 0x900) != some o then s
    else match checkCopy s (opDesc s o) true with
      | some st => finish s o { status := st }
      | none => nextLine (modBrg (startOp s o) fun b => { b with lines := 0 })

/-! ### The link (R303, R316, R317) -/

/-- LINKCHG where the link changes; prefetch buffers are invalid from then on (R307). -/
def setLinkBrg (up : Bool) (speed width : Nat) (s : State) : State :=
  let s1 := modBrg (setF (setF (setB s BRG_STAT_LINK up) BRG_STAT_SPEED speed) BRG_STAT_WIDTH width) fun b => { b with pf := [] }
  if onF s BRG_STAT_LINK == up && getF s BRG_STAT_SPEED == speed && getF s BRG_STAT_WIDTH == width then s1 else evtBrg BRG_EVT_LINKCHG s1

/-- The link goes down, or with `disable` EN is written 0; `unsent` posted writes, the last ones sent on the record, had not left yet: the signal of kind 6
takes them back (R316). The endpoint function returns to its reset state (notes/assumptions/70.md). -/
def linkDown (disable : Bool) (unsent : Nat) (s : State) : State :=
  let s1 := if disable then setF s BRG_CTRL_EN 0 else s
  let s2 := addF s1 BRG_CNT1_PWDROP unsent
  let s3 := if unsent = 0 then s2 else emit s2 (.signal .pcie 0 6 unsent)
  let hs := s3.brg.held
  let s4 := hs.foldl (fun t h => failHeld h stTIMEOUT t) (modBrg s3 fun b => { b with held := [], ep := {} })
  let s5 := s4.brg.fetches.foldl (fun t f => pushLog f.1 f.2.1 f.2.2 false 0 t) (modBrg s4 fun b => { b with fetches := [] })
  setLinkBrg false 0 0 (endCfg 4 0 s5)

/-- The link trains, within the limits of MAXSPD and MAXW (R303, R317). -/
def linkUp (speed width : Nat) (s : State) : State :=
  let ms := getF s BRG_CTRL_MAXSPD
  let mw := getF s BRG_CTRL_MAXW
  let w := if mw = 1 then min width 2 else if mw = 2 then min width 1 else width
  if !onF s BRG_CTRL_EN then s
  else setLinkBrg true (min (max 1 speed) (if ms = 1 then 2 else if ms = 2 then 1 else 3)) (if 4 ≤ w then 4 else if 2 ≤ w then 2 else 1) s

/-- EN is written 1 (R521). -/
def enableBrg (s : State) : State := modBrg (setF s BRG_CTRL_EN 1) fun b => { b with enAt := if b.enAt = 0 then freeCnt s + 1 else b.enAt }

/-- PERST# goes high, 100 ms after EN was written 1 in root complex mode (R521). -/
def releasePerst (s : State) : State :=
  if onF s BRG_CTRL_EN && !onF s BRG_CTRL_ROLE && !s.brg.perst && s.brg.enAt != 0 && decide (s.brg.enAt - 1 + 100000000 ≤ freeCnt s) then emit (modBrg s fun b => { b with perst := true }) (.signal .pcie 0 7 1) else s

/-! ### The commands -/

/-- `OUTBOUND_ACCESS` (R306): a hart's access of `size` bytes. -/
def execOutboundAccess (r : Req) (kind : AccKind) (addr : BitVec 40) (size : Nat) (data : List Byte) (s : State) : Host.Outcome State Fault Refusal :=
  onEngine 0xa s fun s =>
  .next (outbound r kind addr.toNat size data s)

/-- `COMPLETION_RECEIVED` (R309). -/
def execCompletionReceived (tag : Option (Fin 32)) (ok : Bool) (data : List Byte) (s : State) : Host.Outcome State Fault Refusal :=
  onEngine 0xa s fun s =>
  .next (completion (tag.map (·.val)) ok data s)

/-- `COMPLETION_TIMEOUT` (R309). -/
def execCompletionTimeout (s : State) : Host.Outcome State Fault Refusal := onEngine 0xa s fun s => .next (timeoutHeld s)

/-- `PREFETCH_EXPIRY` (R307): buffer k, the least recently used being 0. -/
def execPrefetchExpiry (k : Fin 4) (s : State) : Host.Outcome State Fault Refusal := onEngine 0xa s fun s => .next (modBrg s fun b => { b with pf := match b.pf[k.val]? with
    | some p => if pfFresh s p then b.pf else b.pf.eraseIdx k.val
    | none => b.pf })

/-- `ERROR_MESSAGE` (R310): in root complex mode only (R311). -/
def execErrorMessage (rid : BitVec 16) (fatal : Bool) (s : State) : Host.Outcome State Fault Refusal :=
  onEngine 0xa s fun s =>
  .next (if bridgeUp s && !onF s BRG_CTRL_ROLE then modBrg s fun b => { b with fetches := b.fetches ++ [(rid.toNat, if fatal then 2 else 1, ts96 s)] } else s)

/-- `ERROR_FETCH_DONE` (R310, R311): the answers to the fetch's configuration reads in order, none for one that fails. -/
def execErrorFetchDone (reads : List (Option (BitVec 32))) (s : State) : Host.Outcome State Fault Refusal := onEngine 0xa s fun s => .next (fetchDone reads s)

/-- `ELPOP` (R311). -/
def execElpop (r : Req) (s : State) : Host.Outcome State Fault Refusal := reached 0xa r s fun s => .next (popLog s)

/-- `INBOUND_REQUEST` (R303, R313): a memory request, or a configuration request to the endpoint's function. -/
def execInboundRequest (config : Bool) (addr : Word) (wr : Bool) (len : Nat) (data : List Byte) (s : State) : Host.Outcome State Fault Refusal :=
  onEngine 0xa s fun s =>
  .next (if config then epConfig addr.toNat wr len data (wakeIsland s 0xA) else inbound addr.toNat wr len data s)

/-- `MSI_RECEIVE` (R304): an MSI, whose data selects one of the entries 0–31, or INTA–INTD for 32–35. -/
def execMsiReceive (intx : Option (Fin 4)) (data : BitVec 32) (s : State) : Host.Outcome State Fault Refusal :=
  onEngine 0xa s fun s =>
  .next (routeMsi (match intx with
    | some k => 32 + k.val
    | none => data.toNat % 32) s)

/-- `MSIGEN` (R304). -/
def execMsigen (r : Req) (vec : Fin 32) (s : State) : Host.Outcome State Fault Refusal := reached 0xa r s fun s => .next (sendMsiVector vec.val s)

/-- `CFGREQ_GO` (R317): the written word with GO. -/
def execCfgreqGo (r : Req) (val : Word) (s : State) : Host.Outcome State Fault Refusal := reached 0xa r s fun s => .next (startCfg val.toNat s)

/-- `CFGREQ_DONE` (R317). -/
def execCfgreqDone (result : Fin 8) (data : BitVec 32) (s : State) : Host.Outcome State Fault Refusal := onEngine 0xa s fun s => .next (cfgDone result.val data.toNat s)

/-- `COPYOUT` (R314). -/
def execCopyout (s : State) : Host.Outcome State Fault Refusal := onEngine 0xa s fun s => .next (runCopyout s)

/-- `COPYIN` (R314). -/
def execCopyin (s : State) : Host.Outcome State Fault Refusal := onEngine 0xa s fun s => .next (runCopyin s)

/-- `BRIDGE_LINK_DOWN` (R316). -/
def execBridgeLinkDown (disable : Bool) (unsent : Nat) (s : State) : Host.Outcome State Fault Refusal := onIsland 0xa s fun s => .next (linkDown disable unsent s)

/-- `BRIDGE_LINK_UP` (R317). -/
def execBridgeLinkUp (speed : Fin 4) (width : Fin 5) (s : State) : Host.Outcome State Fault Refusal := onIsland 0xa s fun s => .next (linkUp speed.val width.val s)

/-- `PERST_RELEASE` (R521). -/
def execPerstRelease (s : State) : Host.Outcome State Fault Refusal := onEngine 0xa s fun s => .next (releasePerst s)

end Sys2Proof.Machine
end

