-- ==== Sys2Proof/Machine/Field.lean ====
section
/-! DEFINITION. Field digital inputs and outputs on the FA die (R318–R340). -/

namespace Sys2Proof.Machine

/-! ### Channels by field channel number (R318) -/

def isDI (c : Nat) : Bool := decide (c < 0x30)
def isDO (c : Nat) : Bool := decide (0x30 ≤ c) && decide (c < 0x48)
def isSI (c : Nat) : Bool := decide (0x48 ≤ c) && decide (c < 0x58)
def isSP (c : Nat) : Bool := decide (0x58 ≤ c) && decide (c < 0x60)
def isSO (c : Nat) : Bool := decide (0x60 ≤ c) && decide (c < 0x68)
def isEDM (c : Nat) : Bool := decide (0x68 ≤ c) && decide (c < 0x70)
def isSPD (c : Nat) : Bool := decide (0x70 ≤ c) && decide (c < 0x74)
def isRST (c : Nat) : Bool := c == 0x74 || c == 0x75

/-- The inputs with a front end that a scan samples. -/
def isInput (c : Nat) : Bool := isDI c || isSI c || isEDM c || isSPD c || isRST c

/-- The channels of the block. -/
def fieldChannels : List Nat := List.range 0x76

/-- The supply group of an output (R323). -/
def groupOf (c : Nat) : Nat := if isDO c then (c - 0x30) / 8 else 2

/-- State of a supply group: 0 NORMAL, 1 WARN, 2 LOST (R330). -/
def supState (s : State) (g : Nat) : Nat := bits (getF s FIO_STAT_SUP) (2 * g) 2

/-- The channel is enabled. -/
def chOn (s : State) (c : Nat) : Bool := onF s (FIO_CHCFG_EN c)

/-- The accepted level of an input. -/
def level (s : State) (c : Nat) : Bool := onF s (FIO_CHSTAT_LEVEL c)

/-! ### Publishing (R321) -/

/-- The filter length of an input in scans of 10 µs (R320, R326, R339); a speed input has the glitch filter of its front end alone (R329). -/
def filtScans (s : State) (c : Nat) : Nat :=
  let v := liveF s (FIO_CHCFG_FILT c)
  10 * (if isSPD c then 0 else if isDI c then min v 1000 else orElse v 5 80 10)

/-- A fault latched in an output (R321, R324). -/
def latched (s : State) (c : Nat) : Bool := onF s (FIO_CHSTAT_OVERLOAD c) || onF s (FIO_CHSTAT_OVERTEMP c)

/-- The pair p is in its active state: both channels valid and their levels show it (R328). -/
def pairShows (s : State) (p : Nat) : Bool × Bool :=
  let b := level s (0x48 + 2 * p + 1)
  (level s (0x48 + 2 * p), if onF s (FIO_CHCFG_MODE (0x58 + p)) then !b else b)

/-- Both channels of pair p are valid: without TPFAULT (R321, R328). -/
def pairValid (s : State) (p : Nat) : Bool :=
  !onF s (FIO_CHSTAT_TPFAULT (0x48 + 2 * p)) && !onF s (FIO_CHSTAT_TPFAULT (0x48 + 2 * p + 1))

def pairActive (s : State) (p : Nat) : Bool :=
  pairValid s p && (pairShows s p).1 && (pairShows s p).2 && !onF s (FIO_CHSTAT_DISCFAULT (0x58 + p))

/-- The VALUE of a channel's Chart entry (R321). -/
def fieldValue (s : State) (c : Nat) : List Byte :=
  let v :=
    if isDO c then
      toLE 1 (b2n (bit s.fio.doForce (c - 0x30)) + 2 * b2n (level s c) + 4 * b2n (latched s c)) ++ [0] ++ toLE 2 (getF s (FIO_CHRB_U c)) ++ toLE 2 (getF s (FIO_CHRB_I c))
    else if isSO c then
      let n := c - 0x60
      toLE 1 (b2n (bitF s FIO_SOSTAT_FAREQ n) + 2 * b2n (bitF s FIO_SOSTAT_FASW n) + 4 * b2n (bitF s FIO_SOSTAT_OUT n) + 8 * b2n (onF s (FIO_CHSTAT_SUPLOST c)))
        ++ [0] ++ toLE 2 (getF s (FIO_CHRB_U c)) ++ toLE 2 (getF s (FIO_CHRB_I c))
    else if isSPD c then toLE 4 (getF s (FIO_CHRB_EDGES c)) ++ toLE 4 (getF s (FIO_CHRB_PERIOD c))
    else toLE 1 (b2n (level s c))
  (v ++ List.replicate 16 0).take 16

/-- VALID of a channel (R321). -/
def fieldValid (s : State) (c : Nat) : Bool :=
  if isDO c || isSO c then supState s (groupOf c) != 2
  else if isSI c then !onF s (FIO_CHSTAT_TPFAULT c)
  else if isSP c then !onF s (FIO_CHSTAT_DISCFAULT c) && pairValid s (c - 0x58)
  else if isSPD c then !onF s (FIO_CHSTAT_OVERFREQ c)
  else true

/-- A channel's value or quality has changed: it publishes at the next scan. -/
def markDirty (c : Nat) (s : State) : State :=
  modFio s fun f => if f.dirty.contains c then f else { f with dirty := f.dirty ++ [c] }

/-- `t` follows `s`: channel c publishes at the next scan where this has changed its value or its quality (R321). -/
def noted (c : Nat) (s t : State) : State :=
  if fieldValue t c = fieldValue s c ∧ fieldValid t c = fieldValid s c then t else markDirty c t

/-- A channel publishes: the block and the channel are enabled, PUB is 1 and SIGID is not 0 (R321, R337). -/
def publishes (s : State) (c : Nat) : Bool :=
  onF s FIO_CTRL_EN && onF s (FIO_CHCFG_EN c) && onL s (FIO_CHSIG_PUB c) && liveF s (FIO_CHSIG_SIGID c) != 0

/-- At a scan the changed channels and, after a cycle start, those with REFRESH and the speed inputs queue their publication, each in place of the older
one that still waits (R244, R321, R329). -/
def queuePubs (s : State) : State :=
  let due (c : Nat) : Bool := s.fio.dirty.contains c || (s.fio.refresh && (onL s (FIO_CHSIG_REFRESH c) || isSPD c))
  let cs := fieldChannels.filter fun c => due c && publishes s c
  let ps := cs.map fun c => (⟨c, ts64 s, fieldValue s c, fieldValid s c⟩ : FioPub)
  modFio s fun f => { f with dirty := [], refresh := false, pubs := (f.pubs.filter fun p => !cs.contains p.ch) ++ ps }

/-! ### Scans (R320, R328) -/

/-- The field that shows an input's level, with its bit (R338). -/
def levelReg (c : Nat) : Fld × Nat :=
  if isDI c then (FIO_DISTATE_LEVEL, c) else if isSI c then (FIO_SISTATE_SI, c - 0x48) else if isEDM c then (FIO_SISTATE_EDM, c - 0x68)
  else (FIO_SISTATE_RST, c - 0x74)

/-- An input accepts a level; a speed input has no bit beyond its page's (R338, R339). -/
def acceptLevel (c : Nat) (v : Bool) (s : State) : State :=
  let r := levelReg c
  let s1 := setB s (FIO_CHSTAT_LEVEL c) v
  noted c s (incF (if isSPD c then s1 else setFBit s1 r.1 r.2 v) (FIO_CHCNT_CHANGES c))

/-- A class code as its nominal voltage (R322, R323). -/
def classVolts (v : Nat) : Nat := if v = 0 then 24 else if v = 1 then 48 else if v = 2 then 72 else 110

/-- The voltages, in 0.1 V, at or below which an input reads OFF and at or above which it reads ON (R322, R326, R329). -/
def thresholds (s : State) (c : Nat) : Int × Int :=
  if isDI c then
    let un := 10 * classVolts (bits (getF s FIO_GRPCFG_DICLS) (2 * (c / 8)) 2)
    (((un + 2) / 3 : Nat), (un * 6 / 10 : Nat))
  else if isSPD c then (30, 80) else (50, 150)

/-- What an input at u × 0.1 V reads; between its thresholds it reads either level, the comparator's `mid` (R322, R326, R329). -/
def readsOn (s : State) (c : Nat) (u : Int) (mid : Bool) : Bool :=
  let t := thresholds s c
  if t.2 ≤ u then true else if u ≤ t.1 then false else mid

/-- The inputs as a scan samples them, by field channel number: their voltages in 0.1 V, an input not listed at 0 V, and the comparators between their thresholds. -/
def sampled (mid : Nat) (volts : List (Nat × Int)) (s : State) : Nat :=
  (fieldChannels.filter isInput).foldl (fun w c => if readsOn s c (kget 0 volts c) (bit mid c) then putBit w c true else w) 0

/-- The sample lies in the off-pulse window of TPk: k ms to k ms + 300 µs of the frame, with a sample every 10 µs (R320, R349). -/
def inWindow (pos k : Nat) : Bool := decide (100 * k ≤ pos) && decide (pos < 100 * k + 30)

/-- The window of TPk as a sample of the safety inputs shows it (R350). -/
def tpWindow (si k : Nat) (f : TpFrame) : TpFrame :=
  if f.pos = 100 * k + 30 then { f with wins := modAt f.wins k fun w => { w with post := si } }
  else if inWindow f.pos k then
    let run := (List.range 16).map fun i => if bit si i then 0 else if f.pos = 100 * k then 1 else f.offRun.getD i 0 + 1
    let long := (List.range 16).foldl (fun m i => if 10 ≤ run.getD i 0 then putBit m i true else m) 0
    let pre (w : WinRec) : Nat := if f.pos = 100 * k then f.raw else w.pre
    { f with offRun := run, wins := modAt f.wins k fun w => { w with pre := pre w, off := w.off ||| (65535 - si), long := w.long ||| long } }
  else f

/-- A sample of the safety inputs in a test frame. -/
def tpSample (si : Nat) (f : TpFrame) : TpFrame :=
  let g := forN (tpWindow si) 0 8 f
  { g with raw := si, everOn := g.everOn ||| si, everOff := g.everOff ||| (65535 - si), pos := g.pos + 1 }

/-- The window of TPk is judged for input i: ON before and after it (R350). -/
def judged (w : WinRec) (i : Nat) : Bool := bit w.pre i && bit w.post i

/-- What a frame shows of input i on line k, over the lines of a mask: its own window was judged and held no OFF sample, and another judged window held a long OFF run (R350). -/
def ownMissed (f : TpFrame) (k i : Nat) : Bool := judged (f.wins.getD k {}) i && !bit (f.wins.getD k {}).off i
def otherSeen (f : TpFrame) (mask k i : Nat) : Bool :=
  (List.range 8).any fun j => j != k && bit mask j && judged (f.wins.getD j {}) i && bit (f.wins.getD j {}).long i

/-- One scan of one input; a scan in the expected off-pulse window of its test pulse, which FA derives from the frame marker, is passed over (R320, R326, R349). -/
def scanInput (levels : Nat) (c : Nat) (s : State) : State :=
  let v := bit levels c
  if isSI c && onF s (FIO_CHCFG_TPCHK c) && inWindow s.fio.tf.pos (getF s (FIO_CHCFG_TPSEL c)) then s
  else if v == level s c then modFio s fun f => { f with filt := kput 0 f.filt c 0 }
  else
    let n := kget 0 s.fio.filt c
    if filtScans s c ≤ n then acceptLevel c v (modFio s fun f => { f with filt := kput 0 f.filt c 0 })
    else modFio s fun f => { f with filt := kput 0 f.filt c (n + 1) }

/-- A pair after a scan: DISCFAULT clears where both channels show the inactive state, and its value follows (R328). -/
def scanPair (p : Nat) (s : State) : State :=
  let c := 0x58 + p
  let s1 := if onF s (FIO_CHSTAT_DISCFAULT c) && !(pairShows s p).1 && !(pairShows s p).2 then setF s (FIO_CHSTAT_DISCFAULT c) 0 else s
  let run := if (pairShows s p).1 == (pairShows s p).2 then 0 else min (kget 0 s.fio.apart p + 1) 100001
  let s2 := modFio s1 fun f => { f with apart := kput 0 f.apart p run }
  let v := pairActive s2 p
  noted c s (if v == level s2 c then s2 else incF (setFBit (setB s2 (FIO_CHSTAT_LEVEL c) v) FIO_SISTATE_SP p v) (FIO_CHCNT_CHANGES c))

/-- A scan (R320). -/
def fieldScan (levels : Nat) (s : State) : State :=
  let s1 := (fieldChannels.filter isInput).foldl (fun t c => scanInput levels c t) s
  let s2 := modFio s1 fun f => { f with tf := tpSample (levels / 2 ^ 0x48 % 2 ^ 16) f.tf }
  queuePubs (forN scanPair 0 8 s2)

/-! ### Outputs (R323–R325) -/

/-- The junction of an output in °C. -/
def junction (s : State) (c : Nat) : Int := sgn 16 (getF s (FIO_CHRB_TJ c))

/-- Whether the switch of output c is to be closed (R324, R336, R337). -/
def switchOn (s : State) (c : Nat) : Bool :=
  onF s FIO_CTRL_EN && chOn s c && !latched s c
    && (if isDO c then bit s.fio.doForce (c - 0x30) else bitF s FIO_DOSAFE_REQ (c - 0x60) && !onF s FIO_WDOG_EXP)

/-- The place of an output in `Fio.sw`. -/
def swBit (c : Nat) : Nat := if isDO c then c - 0x30 else 24 + (c - 0x60)

/-- The switch of output c follows; a switch operation counts, and an open command ends OPENWIRE (R323, R324). -/
def syncSwitch (c : Nat) (s : State) : State :=
  let v := switchOn s c
  let s1 := if isDO c && !bit s.fio.doForce (c - 0x30) && onF s (FIO_CHSTAT_OPENWIRE c) then setF s (FIO_CHSTAT_OPENWIRE c) 0 else s
  if bit s1.fio.sw (swBit c) == v then s1
  else emit (incF (modFio s1 fun f => { f with sw := putBit f.sw (swBit c) v }) (FIO_CHCNT_CHANGES c)) (.signal .faLink c 1 (b2n v))

/-- The outputs. -/
def outputs : List Nat := (List.range 24).map (· + 0x30) ++ (List.range 8).map (· + 0x60)

/-- Every switch follows its command. -/
def syncSwitches (s : State) : State := outputs.foldl (fun t c => syncSwitch c t) s

/-- Clear an output's latches where their condition allows: OVERTEMP only below 140 °C (R324). -/
def clearLatches (c : Nat) (s : State) : State :=
  let s1 := setF s (FIO_CHSTAT_OVERLOAD c) 0
  noted c s (if junction s c < 140 then setF s1 (FIO_CHSTAT_OVERTEMP c) 0 else s1)

/-- The command in force of general output n becomes v; a change from 0 to 1 clears its latches (R324). -/
def commandDO (n : Nat) (v : Bool) (s : State) : State :=
  if bit s.fio.doForce n == v then s
  else
    let s1 := modFio s fun f => { f with doForce := putBit f.doForce n v }
    markDirty (0x30 + n) (if v then clearLatches (0x30 + n) s1 else s1)

/-- The commands in force become a set of bits. -/
def commandDOs (cmd : Nat) (s : State) : State := syncSwitches (forN (fun n t => commandDO n (bit cmd n) t) 0 24 s)

/-- REQ n in force becomes v; FAREQ follows (R324, R333). -/
def requestSO (n : Nat) (v : Bool) (s : State) : State :=
  if bitF s FIO_DOSAFE_REQ n == v then s
  else
    let r := putBit (getF s FIO_DOSAFE_REQ) n v
    let s1 := setF (setF (setF s FIO_DOSAFE_REQ r) FIO_DOSAFE_NREQ (255 - r)) FIO_SOSTAT_FAREQ r
    markDirty (0x60 + n) (if v then clearLatches (0x60 + n) s1 else s1)

/-- A fault of a channel: its bit, FAULT, FAULTS and its report; nothing where it is already set (R324, R340). -/
def channelFault (c : Nat) (f : Fld) (cls mac : Nat) (s : State) : State :=
  if onF s f then s else noted c s (raise cls (faLoc c mac) (incF (evtFio FIO_EVT_FAULT (setF s f 1)) (FIO_CHCNT_FAULTS c)))

/-- EXTDRIVE, and its copy for a safety output. -/
def setExt (c : Nat) (b : Bool) (s : State) : State :=
  let s1 := setB s (FIO_CHSTAT_EXTDRIVE c) b
  if isSO c then setFBit s1 FIO_SOSTAT_EXTDRIVE (c - 0x60) b else s1

/-- A pin of supply group g at u × 0.1 V reads ON: at or above 0.5 Un of its class (R323). -/
def pinOn (s : State) (g u : Nat) : Bool := decide (5 * classVolts (bits (getF s FIO_GRPCFG_SUPCLS) (2 * g) 2) ≤ u)

/-- What a readback of output c shows, with a safety output's midpoint (R323). -/
def showOutput (c u i : Nat) (tj : Int) (pin mid : Bool) (s : State) : State :=
  let s1 := setB (setF (setF (setF s (FIO_CHRB_U c) u) (FIO_CHRB_I c) i) (FIO_CHRB_TJ c) (ofInt 16 tj)) (FIO_CHSTAT_LEVEL c) pin
  noted c s (if isSO c then setFBit (setFBit s1 FIO_SOSTAT_OUT (c - 0x60) pin) FIO_SOSTAT_FASW (c - 0x60) mid else s1)

/-- The readback of an output (R323, R324): the voltage of its pin and of a safety output's midpoint in 0.1 V, current in mA, junction in °C. OVERTEMP is detected
here, and EXTDRIVE, PARTNERON and OPENWIRE end after 1 ms and 100 ms of readbacks; those that lead to OPENWIRE, which a LOST supply breaks off, and to EXTDRIVE
are counted (R331). -/
def readback (c u i : Nat) (tj : Int) (um : Nat) (s : State) : State :=
  if !(isDO c || isSO c) then s
  else
    let pin := pinOn s (groupOf c) u
    let s1 := showOutput c u i tj pin (pinOn s (groupOf c) um) s
    let off := if pin then 0 else kget 0 s.fio.offRun c + 1
    let cur := if i < 20 then 0 else kget 0 s.fio.curRun c + 1
    let low := if i < 10 && bit s.fio.sw (swBit c) && supState s (groupOf c) != 2 then kget 0 s.fio.lowRun c + 1 else 0
    let ext := if pin && !bit s.fio.sw (swBit c) then kget 0 s.fio.onRun c + 1 else 0
    let s2 := modFio s1 fun f =>
      { f with offRun := kput 0 f.offRun c (min off 11), curRun := kput 0 f.curRun c (min cur 1001), lowRun := kput 0 f.lowRun c (min low 1001), onRun := kput 0 f.onRun c (min ext 11) }
    let s3 := if 11 ≤ off then setF (setExt c false s2) (FIO_CHSTAT_PARTNERON c) 0 else s2
    let s4 := if 1001 ≤ cur then setF s3 (FIO_CHSTAT_OPENWIRE c) 0 else s3
    if 160 ≤ tj then syncSwitch c (channelFault c (FIO_CHSTAT_OVERTEMP c) MINOR 0x01 s4) else s4

/-- OLT in force (R339). -/
def oltOf (s : State) (c : Nat) : Nat := min 100 (max 1 (liveF s (FIO_CHCFG_OLT c)))

/-- OLT has passed since the supply of group g last left LOST, when the timers restart (R331). -/
def sinceLost (s : State) (g olt : Nat) : Bool := s.fio.back.getD g 0 == 0 || decide (s.fio.back.getD g 0 + 1000000 * olt ≤ freeCnt s + 1)

/-- OVERLOAD: the switch has been in current limit for `ms` without a break (R324, R331). -/
def overloaded (c ms : Nat) (s : State) : State :=
  if (isDO c || isSO c) && bit s.fio.sw (swBit c) && decide (oltOf s c ≤ ms) && supState s (groupOf c) != 2 && sinceLost s (groupOf c) (oltOf s c)
  then syncSwitch c (channelFault c (FIO_CHSTAT_OVERLOAD c) MINOR 0x01 s) else s

/-- OPENWIRE on a closed DO that is not paired and has carried less than 10 mA for 100 ms (R324, R325, R331). -/
def openWire (c : Nat) (s : State) : State :=
  if isDO c && decide (1001 ≤ kget 0 s.fio.lowRun c) && bit s.fio.sw (swBit c) && !onF s (FIO_CHCFG_PAIRED c) && supState s (groupOf c) != 2
  then channelFault c (FIO_CHSTAT_OPENWIRE c) NOTE 0x02 s else s

/-- The pin of an output that does not drive it has read ON for 1 ms (R324, R325). With a local partner in another supply group it is UB-19: both bits take
free values (R62). -/
def extDrive (c : Nat) (s : State) : State :=
  if !(isDO c || isSO c) || bit s.fio.sw (swBit c) || decide (kget 0 s.fio.onRun c < 11) then s
  else
    let ext (t : State) : State := if onF t (FIO_CHSTAT_EXTDRIVE c) then t else setExt c true (channelFault c (FIO_CHSTAT_EXTDRIVE c) MINOR 0x01 t)
    if isDO c && onF s (FIO_CHCFG_PAIRED c) then
      if onF s (FIO_CHCFG_PEXT c) then s
      else
        let p := getF s (FIO_CHCFG_PARTNER c)
        if 24 ≤ p ∨ groupOf (0x30 + p) ≠ groupOf c then setFree (setFree s (FIO_CHSTAT_EXTDRIVE c)) (FIO_CHSTAT_PARTNERON c)
        else if bit s.fio.sw p then setF s (FIO_CHSTAT_PARTNERON c) 1
        else ext (setF s (FIO_CHSTAT_PARTNERON c) 0)
    else ext s

/-! ### Safety and speed inputs (R327–R329) -/

/-- What the test frame that ended last shows of SI n on its line: nothing where the frame was not whole or the input was OFF throughout; else whether the pattern is correct. It is
not where the input stayed ON, missed its own off-pulse or showed another one (R327, R349, R350; notes/assumptions/66.md). -/
def pulseCheck (s : State) (n : Nat) : Option Bool :=
  let f := s.fio.ended
  let k := getF s (FIO_CHCFG_TPSEL (0x48 + n))
  if f.pos < 800 || !bit f.everOn n then none
  else some (bit f.everOff n && !ownMissed f k n && !otherSeen f 255 k n)

/-- The frame of test pulses that has ended is checked at SI n (R327). -/
def checkPulses (n : Nat) (s : State) : State :=
  let c := 0x48 + n
  if !onF s (FIO_CHCFG_TPCHK c) then s
  else match pulseCheck s n with
  | none => s
  | some true => noted (0x58 + n / 2) s (noted c s (setF s (FIO_CHSTAT_TPFAULT c) 0))
  | some false => noted (0x58 + n / 2) s (channelFault c (FIO_CHSTAT_TPFAULT c) MINOR 0x00 s)

/-- A pair has disagreed for DISC ms without a break, which is 100 × DISC scans after the first (R320, R328, R339). -/
def pairDisagrees (p : Nat) (s : State) : State :=
  let c := 0x58 + p
  if chOn s c && (pairShows s p).1 != (pairShows s p).2 && decide (100 * orElse (liveF s (FIO_CHCFG_DISC c)) 10 1000 100 < kget 0 s.fio.apart p)
  then channelFault c (FIO_CHSTAT_DISCFAULT c) MINOR 0x00 s else s

/-- A period of `per` × 10 ns at speed input n: under 40 µs it sets OVERFREQ, which 16 consecutive longer ones clear (R329). -/
def judgePeriod (n per : Nat) (s : State) : State :=
  let c := 0x70 + n
  let slow (k : Nat) (t : State) : State := modFio t fun f => { f with slow := kput 0 f.slow n k }
  if per < 4000 then slow 0 (setF s (FIO_CHSTAT_OVERFREQ c) 1)
  else if onF s (FIO_CHSTAT_OVERFREQ c) then
    let k := kget 0 s.fio.slow n + 1
    if 16 ≤ k then slow 0 (setF s (FIO_CHSTAT_OVERFREQ c) 0) else slow k s
  else s

/-- A rising edge at speed input n, with its stamp in units of 10 ns (R329). -/
def risingEdge (n stamp : Nat) (s : State) : State :=
  let c := 0x70 + n
  let s1 := incW (modFio s fun f => { f with edge := kput 0 f.edge n (stamp + 1) }) (FIO_CHRB_EDGES c)
  noted c s (match kget 0 s.fio.edge n with
    | 0 => s1
    | last + 1 => judgePeriod n (min (stamp - last) 0xFFFFFFFF) (setF s1 (FIO_CHRB_PERIOD c) (min (stamp - last) 0xFFFFFFFF)))

/-- No rising edge at speed input n for `ms` (R329). -/
def zeroSpeed (n ms : Nat) (s : State) : State :=
  let c := 0x70 + n
  if orElse (liveF s (FIO_CHCFG_ZTIME c)) 10 10000 1000 ≤ ms then noted c s (setF s (FIO_CHRB_PERIOD c) 0xFFFFFFFF) else s

/-! ### Field supplies (R330, R331) -/

/-- A run of measurements goes on or ends; it is held at the longest length that is asked for. -/
def runOn (b : Bool) (n : Nat) : Nat := if b then min (n + 1) 101 else 0

/-- The state of a supply after a measurement: `t` for 1 ms is 11 measurements, for 10 ms 101 (R330). -/
def supNext (st : Nat) (r : SupRun) : Nat :=
  if 11 ≤ r.lo50 ∨ (st = 2 ∧ r.hi55 < 101) then 2 else if 11 ≤ r.lo70 ∨ (st ≠ 0 ∧ r.hi75 < 101) then 1 else 0

/-- Group g's supply is measured at u × 0.1 V (R330, R331, R340). -/
def measureSupply (g u : Nat) (s : State) : State :=
  let un := 10 * classVolts (bits (getF s FIO_GRPCFG_SUPCLS) (2 * g) 2)
  let r0 := s.fio.sup.getD g {}
  let r : SupRun := ⟨runOn (decide (100 * u < 50 * un)) r0.lo50, runOn (decide (55 * un ≤ 100 * u)) r0.hi55, runOn (decide (100 * u < 70 * un)) r0.lo70, runOn (decide (75 * un ≤ 100 * u)) r0.hi75⟩
  let st := supState s g
  let n := supNext st r
  let s1 := setF (modFio s fun f => { f with sup := modAt f.sup g fun _ => r }) FIO_SUPV_U (putBits (getF s FIO_SUPV_U) (16 * g) 16 u)
  if n = st then s1
  else
    let s2 := setF s1 FIO_STAT_SUP (putBits (getF s1 FIO_STAT_SUP) (2 * g) 2 n)
    let s3 := raise (if n = 2 then MINOR else NOTE) (faLoc (0x80 + g) 0xFF) (evtFio FIO_EVT_SUPCHG s2)
    let s4 := if st = 2 then modFio s3 fun f => { f with back := modAt f.back g fun _ => 1 + freeCnt s } else s3
    if n = 2 ∨ st = 2 then (outputs.filter fun c => groupOf c == g).foldl (fun t c => markDirty c (setB t (FIO_CHSTAT_SUPLOST c) (decide (n = 2)))) s4 else s4

/-! ### Ownership and requests (R332–R334) -/

/-- OWNERR with its report (R332, R333, R340). -/
def ownErr (s : State) : State := raise MINOR (faLoc 0x88 0xFF) (evtFio FIO_EVT_OWNERR s)

/-- A write that is not voted is discarded (R30). -/
def notVoted (blk : Nat) (r : Req) (s : State) : State := raiseReq MINOR (blkLoc blk) (reqCode r) s

/-- A voted write of triad t to `FIO_SOOWN`: the fields that it may not write keep their values, and the write sets OWNERR (R332). -/
def writeSoown (t v : Nat) (s : State) : State :=
  let old := getF s FIO_SOOWN_OWN
  let may (n : Nat) : Bool := (decide (bits old (3 * n) 3 < 4) || soOwner s n == some t) && !bitF s FIO_DOSAFE_REQ n
  let new := (List.range 8).foldl (fun w n => if may n then putBits w (3 * n) 3 (bits v (3 * n) 3) else w) old
  let s1 := setF s FIO_SOOWN_OWN new
  if (List.range 8).all may then s1 else ownErr s1

/-- A voted write of triad t to `FIO_DOSAFE` (R333); while the watchdog has expired no request is taken (R336). -/
def writeDosafe (t v : Nat) (s : State) : State :=
  let req := bits v 0 8
  let mask := bits v 8 8
  if bits v 16 8 ≠ 255 - req then ownErr s
  else
    let mine (n : Nat) : Bool := soOwner s n == some t
    let s1 := (bitsOf mask 8).foldl (fun x n => if mine n && !(bit req n && onF s FIO_WDOG_EXP) then requestSO n (bit req n) x else x) s
    syncSwitches ((bitsOf mask 8).foldl (fun x n => if mine n then x else ownErr x) s1)

/-- A triad's forced-off signal reaches the FIO island (R125, R334). -/
def forceOff (t : Nat) (s : State) : State :=
  if !Sys2Proof.Machine.forcedOff s t then s
  else syncSwitches (((List.range 8).filter fun n => soOwner s n == some t).foldl (fun x n => setFBit (requestSO n false x) FIO_SOSTAT_FORCED n true) s)

/-! ### The watchdog and the block (R335–R337) -/

/-- TIME restarts. -/
def restartWd (s : State) : State := modFio s fun f => { f with wdKick := freeCnt s }

/-- A write to `FIO_WDKICK` (R335). -/
def kick (key : Nat) (s : State) : State :=
  if key = 0xC35A then restartWd s else evtFio FIO_EVT_BADKEY (incF s FIO_WDOG_BADKEY)

/-- The general output commands that the safe states give; HOLD is the state of the output at expiry (R336, R339). -/
def safeCommands (s : State) : Nat :=
  (List.range 24).foldl (fun w n => putBit w n (match getF s (FIO_CHCFG_SAFE (0x30 + n)) with
    | 1 => true
    | 2 => bit s.fio.sw n
    | _ => false)) 0

/-- TIME has passed, within the oscillator's 10 % (R335). -/
def wdTimeUp (s : State) : Bool :=
  decide (min 1000 (max 1 (liveF s FIO_WDOG_TIME)) * 900000 ≤ freeCnt s - s.fio.wdKick)

/-- What expiry does: `link` tells silence of the FA link, which needs no `WDEN`; nothing where the watchdog has expired already (R335, R336, R412, R426). -/
def fallSilent (link : Bool) (s : State) : State :=
  if (!link && !onF s FIO_WDOG_WDEN) || onF s FIO_WDOG_EXP then s
  else
    let s1 := setF (setF s FIO_WDOG_EXP 1) FIO_STAT_WDEXP 1
    let s2 := if link then setF s1 FIO_WDOG_LINKEXP 1 else s1
    let s3 := forN (fun n t => requestSO n false t) 0 8 (commandDOs (safeCommands s) s2)
    raise MAJOR (faLoc 0x88 0xFF) (evtFio FIO_EVT_WDEXP (syncSwitches s3))

/-- The key of a link in one direction. -/
def linkKey (l : DieLink) (inward : Bool) : Nat :=
  b2n inward + 2 * match l with
    | .fa => 0
    | .lod => 1
    | .ana n => 2 + n.val

/-- No valid frame has come over a link in one direction for n ns (R407). -/
def linkSilent (l : DieLink) (inward : Bool) (n : Nat) (s : State) : Bool := decide (kget 0 s.linkAt (linkKey l inward) + n ≤ freeCnt s + 1)

/-- The watchdog expires, on TIME or on 50 µs of silence on the FA link (R335, R336). -/
def expireWd (link : Bool) (s : State) : State :=
  if link then if !linkSilent .fa false 50000 s then s else fallSilent true (setF s FIO_STAT_FALINK 0) else if wdTimeUp s then fallSilent false s else s

/-- The safe state expires the watchdog as link silence does (R426). -/
def silenceWd (s : State) : State := fallSilent true s

/-- CLEAR written with the link up (R336). -/
def clearWd (s : State) : State :=
  if !onF s FIO_STAT_FALINK then s
  else
    let s1 := restartWd (setF s FIO_WDOG_BADKEY 0)
    if onF s FIO_WDOG_EXP then
      commandDOs (getF s FIO_DOCMD_CMD) (setF (setF (setF s1 FIO_WDOG_EXP 0) FIO_WDOG_LINKEXP 0) FIO_STAT_WDEXP 0)
    else s1

/-- A write to `FIO_DOCMD`: stored, and in force unless the watchdog has expired (R323, R336). -/
def writeDocmd (v : Nat) (s : State) : State :=
  let s1 := setF s FIO_DOCMD_CMD v
  if onF s FIO_WDOG_EXP then s1 else commandDOs (v % 2 ^ 24) s1

/-- A write of `FIO_CTRL.EN` (R335, R337). -/
def enableFio (en : Bool) (s : State) : State :=
  let s1 := setB s FIO_CTRL_EN en
  syncSwitches (if en then s1 else setF (modFio s1 fun f => { f with pubs := [], dirty := [] }) FIO_WDOG_WDEN 0)

/-! ### The commands -/

/-- `FIO_SCAN` (R320): the voltages at the inputs, and what the comparators read between their thresholds. The block's boundary for RWL fields is here (R338). -/
def execFioScan (mid : BitVec 128) (volts : List (Nat × Int)) (s : State) : Host.Outcome State Fault Refusal :=
  .next (fieldScan (sampled mid.toNat volts s) (takeLive 10 none s))

/-- `FIELD_PUBLISH` (R321). -/
def execFieldPublish (s : State) : Host.Outcome State Fault Refusal := .next (publishField s)

/-- Input n's wetting pulse is due: 125 × k ms into a second of `MER_FREECNT`, k its place in its group, for 2 ms (R322). -/
def wetDue (n : Nat) (s : State) : Bool :=
  let t := freeCnt s % 1000000000
  decide (125000000 * (n % 8) ≤ t) && decide (t < 125000000 * (n % 8) + 2000000)

/-- `WETTING_PULSE` (R322). -/
def execWettingPulse (n : Fin 48) (s : State) : Host.Outcome State Fault Refusal :=
  .next (if wetDue n.val s && onF s (FIO_CHCFG_WET n.val) then emit s (.signal .faLink n.val 2 1) else s)

/-- `DOCMD_WRITE` (R323, R336). -/
def execDocmdWrite (_r : Req) (cmd : BitVec 24) (s : State) : Host.Outcome State Fault Refusal := .next (writeDocmd cmd.toNat s)

/-- `OUTPUT_READBACK` (R323). -/
def execOutputReadback (c : Fin 128) (u i : BitVec 16) (tj : Int) (um : BitVec 16) (s : State) : Host.Outcome State Fault Refusal :=
  .next (readback c.val u.toNat i.toNat tj um.toNat s)

/-- `OVERLOAD` (R324). -/
def execOverload (c : Fin 128) (ms : Nat) (s : State) : Host.Outcome State Fault Refusal := .next (overloaded c.val ms s)

/-- `OPENWIRE` (R324). -/
def execOpenwire (c : Fin 128) (s : State) : Host.Outcome State Fault Refusal := .next (openWire c.val s)

/-- `EXTDRIVE` (R324, R325). -/
def execExtdrive (c : Fin 128) (s : State) : Host.Outcome State Fault Refusal := .next (extDrive c.val s)

/-- `CHSTAT_CLRF` (R324). -/
def execChstatClrf (_r : Req) (c : Fin 128) (s : State) : Host.Outcome State Fault Refusal :=
  .next (if isDO c.val || isSO c.val then syncSwitch c.val (clearLatches c.val s) else s)

/-- `TPFAULT` (R327): the check of the 8 ms frame that has ended. -/
def execTpfault (n : Fin 16) (s : State) : Host.Outcome State Fault Refusal := .next (checkPulses n.val s)

/-- `DISCFAULT` (R328). -/
def execDiscfault (p : Fin 8) (s : State) : Host.Outcome State Fault Refusal := .next (pairDisagrees p.val s)

/-- `SPEED_EDGE` (R329). -/
def execSpeedEdge (n : Fin 4) (stamp : Nat) (s : State) : Host.Outcome State Fault Refusal := .next (risingEdge n.val stamp s)

/-- `ZERO_SPEED_TIMEOUT` (R329). -/
def execZeroSpeedTimeout (n : Fin 4) (ms : Nat) (s : State) : Host.Outcome State Fault Refusal := .next (zeroSpeed n.val ms s)

/-- `SUPPLY_MEASURE` (R330). -/
def execSupplyMeasure (g : Fin 3) (u : BitVec 16) (s : State) : Host.Outcome State Fault Refusal := .next (measureSupply g.val u.toNat s)

/-- `SOOWN_WRITE` (R332). -/
def execSoownWrite (r : Req) (own : BitVec 24) (s : State) : Host.Outcome State Fault Refusal :=
  .next (match r with
    | .triad t => writeSoown t.val own.toNat s
    | _ => notVoted 10 r s)

/-- `DOSAFE_WRITE` (R333). -/
def execDosafeWrite (r : Req) (val : BitVec 24) (s : State) : Host.Outcome State Fault Refusal :=
  .next (match r with
    | .triad t => writeDosafe t.val val.toNat s
    | _ => notVoted 10 r s)

/-- `FORCED_OFF` (R334). -/
def execForcedOff (t : Fin 4) (s : State) : Host.Outcome State Fault Refusal := .next (forceOff t.val s)

/-- `WATCHDOG_START` (R335). -/
def execWatchdogStart (_r : Req) (s : State) : Host.Outcome State Fault Refusal :=
  .next (if onF s FIO_WDOG_WDEN then s else restartWd (setF s FIO_WDOG_WDEN 1))

/-- `WATCHDOG_KICK` (R335). -/
def execWatchdogKick (_r : Req) (key : BitVec 16) (s : State) : Host.Outcome State Fault Refusal := .next (kick key.toNat s)

/-- `WATCHDOG_EXPIRY` (R336); `link` for silence of the FA link. -/
def execWatchdogExpiry (link : Bool) (s : State) : Host.Outcome State Fault Refusal := .next (expireWd link s)

/-- `WATCHDOG_CLEAR` (R336). -/
def execWatchdogClear (_r : Req) (s : State) : Host.Outcome State Fault Refusal := .next (clearWd s)

/-- `FIO_ENABLE_WRITE` (R337). -/
def execFioEnableWrite (_r : Req) (en : Bool) (s : State) : Host.Outcome State Fault Refusal := .next (enableFio en s)

end Sys2Proof.Machine
end

