-- ==== Sys2Proof/Machine/Lodestone.lean ====
section
/-! DEFINITION. Lodestone: parameter table, inputs, test pulses, function slots, lockouts and safety outputs (R341–R378). -/

namespace Sys2Proof.Machine

/-- Change Lodestone's own state. -/
def modLod (s : State) (f : Lod → Lod) : State := { s with lod := f s.lod }

/-- The link carries events and counters; without it they wait (R342). -/
def lodEvt (f : Fld) (s : State) : State := if onF s LOD_STAT_LINK then evtLod f s else modLod s fun l => { l with late := l.late ++ [f] }
def lodCnt (f : Fld) (s : State) : State := if onF s LOD_STAT_LINK then incF s f else modLod s fun l => { l with lateCnt := l.lateCnt ++ [f] }

/-! ### The parameter table (R366–R369) -/

/-- A slot record (R368). -/
structure SlotRec where
  func : Nat
  outmask : Nat
  manual : Bool
  unlockok : Bool
  mode : Bool
  npair : Nat
  pairs : List Nat
  disc : Nat
  p1 : Nat
  p2 : Nat
  p3 : Nat
  spda : Nat
  spdb : Nat
  susp : Nat

/-- The 64 bytes of slot k's record. -/
def slotBytes (t : List Byte) (k : Nat) : List Byte := (t.drop (224 + 64 * k)).take 64

/-- Slot k's record. -/
def slotRec (t : List Byte) (k : Nat) : SlotRec :=
  let r := slotBytes t k
  { func := leAt r 0 1, outmask := leAt r 1 1, manual := bit (leAt r 2 1) 0, unlockok := bit (leAt r 2 1) 1, mode := bit (leAt r 2 1) 2, npair := leAt r 3 1, pairs := (List.range (min 4 (leAt r 3 1))).map fun j => leAt r (4 + j) 1, disc := leAt r 8 2, p1 := leAt r 10 2, p2 := leAt r 12 2, p3 := leAt r 14 2, spda := leAt r 16 1, spdb := leAt r 17 1, susp := leAt r 18 1 }

/-- Fields of safety input i's record (R367). -/
def inEn (t : List Byte) (i : Nat) : Bool := bit (leAt t (32 + 4 * i) 1) 0
def inTpchk (t : List Byte) (i : Nat) : Bool := bit (leAt t (32 + 4 * i) 1) 1
def inTpsel (t : List Byte) (i : Nat) : Nat := bits (leAt t (32 + 4 * i) 1) 2 3
def inFilt (t : List Byte) (i : Nat) : Nat := leAt t (33 + 4 * i) 1

/-- Fields of output n's record, with the defaults of R357 and R358. -/
def outEn (t : List Byte) (n : Nat) : Bool := bit (leAt t (96 + 16 * n) 1) 0
def outOwner (t : List Byte) (n : Nat) : Nat := bits (leAt t (96 + 16 * n) 1) 1 2
def outEdmen (t : List Byte) (n : Nat) : Bool := bit (leAt t (96 + 16 * n) 1) 3
def outEdmsel (t : List Byte) (n : Nat) : Nat := bits (leAt t (96 + 16 * n) 1) 4 3
def outOpw (t : List Byte) (n : Nat) : Nat := let v := leAt t (97 + 16 * n) 1
  if v = 0 then 20 else v
def outTedm (t : List Byte) (n : Nat) : Nat := let v := leAt t (98 + 16 * n) 2
  if v = 0 then 300 else v
def outEdmfilt (t : List Byte) (n : Nat) : Nat := leAt t (100 + 16 * n) 1

/-- Header fields. -/
def tblSupcls (t : List Byte) : Nat := leAt t 6 1
def tblTpen (t : List Byte) : Nat := leAt t 7 1
def tblVersion (t : List Byte) : Nat := leAt t 8 4
def tblTestdiv (t : List Byte) : Nat := leAt t 12 1
def tblCrc (t : List Byte) : Nat := leAt t 1020 4

/-- The bits of byte i that may be set: the others are reserved or belong to fields that the slot's function does not use (R366–R369). -/
def usedBits (t : List Byte) (i : Nat) : Nat :=
  if i < 13 ∨ 1020 ≤ i then 255
  else if i < 32 then 0
  else if i < 96 then (if i % 4 = 0 then 0x1F else if i % 4 = 1 then 255 else 0)
  else if i < 224 then (if i % 16 = 0 then 0x7F else if i % 16 ≤ 4 then 255 else 0)
  else if i < 736 then
    let f := leAt t (224 + (i - 224) / 64 * 64) 1
    let o := (i - 224) % 64
    if o = 0 ∨ 5 < f then 255
    else if f = 0 then 0
    else if o = 1 ∨ o = 3 ∨ o = 8 ∨ o = 9 then 255
    else if o = 10 ∨ o = 11 then (if f = 1 ∨ f = 2 then 0 else 255)
    else if o = 2 then (if f = 1 then 7 else 3)
    else if 4 ≤ o ∧ o ≤ 7 then (if f = 3 then 0 else 255)
    else if o = 12 ∨ o = 13 then (if f = 3 ∨ f = 4 then 255 else 0)
    else if o = 14 ∨ o = 15 then (if f = 4 then 255 else 0)
    else if o = 16 ∨ o = 17 then (if f = 3 then 255 else 0)
    else if o = 18 then (if f = 4 then 255 else 0)
    else 0
  else 0

/-- The byte offset of the field that byte i belongs to: DISC, P1, P2 and P3 of a slot have two bytes, and a reserved byte stands by itself (R368,
R369). -/
def fieldStart (i : Nat) : Nat := if 224 ≤ i ∧ i < 736 ∧ 8 ≤ (i - 224) % 64 ∧ (i - 224) % 64 < 16 then i - i % 2 else i

/-- v in [lo, hi]. -/
def within (v lo hi : Nat) : Bool := decide (lo ≤ v) && decide (v ≤ hi)

/-- Pair p names two enabled inputs. -/
def pairEnabled (t : List Byte) (p : Nat) : Bool := decide (p < 8) && inEn t (2 * p) && inEn t (2 * p + 1)

/-- Input i is TP-checked on an enabled line, as each channel of a LOOP pair must be (R353, R369). -/
def pulsed (t : List Byte) (i : Nat) : Bool := inTpchk t i && bit (tblTpen t) (inTpsel t i)

/-- What LOOP slots ask of input i: it is TP-checked where a LOOP pair has it as a channel, and channel B on another line than channel A
(R353, R369). The failing field is the channel's own record (notes/assumptions/33.md). -/
def loopChannel (t : List Byte) (i : Nat) : Bool :=
  (List.range 8).all fun k =>
    let r := slotRec t k
    r.func != 5 || r.npair != 1 || leAt (slotBytes t k) 4 1 != i / 2 || (pulsed t i && (i % 2 == 0 || inTpsel t (i - 1) != inTpsel t i))

/-- The value checks of a slot record with the offsets of the fields (R368, R369). -/
def slotChecks (t : List Byte) (k : Nat) : List (Bool × Nat) :=
  let r := slotRec t k
  let o := 224 + 64 * k
  let b := slotBytes t k
  if r.func = 0 then []
  else
    [(within r.func 1 5, o), ((List.range 8).all (fun n => !bit r.outmask n || outEn t n), o + 1),
     (if r.func = 2 then within r.npair 1 4 else if r.func = 3 then r.npair == 0 else r.npair == 1, o + 3)]
    ++ (if r.func = 3 then [] else (List.range 4).map fun j => if j < r.npair
        then (pairEnabled t (leAt b (4 + j) 1), o + 4 + j) else (leAt b (4 + j) 1 == 0xFF, o + 4 + j))
    ++ [(within r.disc 10 1000, o + 8)]
    ++ (if r.func = 3 then [(within r.p1 1 1000, o + 10), (within r.p2 100 10000, o + 12), (decide (r.spda ≤ 3), o + 16), (decide (r.spdb ≤ 3) && r.spda != r.spdb, o + 17)]
        else if r.func = 4 then [(within r.p1 10 600, o + 10), (decide (r.p2 ≤ r.p1), o + 12), (within r.p3 10 600, o + 14),
          (r.susp == 0xFF || (decide (r.susp ≤ 7) && (slotRec t r.susp).func == 3), o + 18)]
        else if r.func = 5 then [(decide (r.p1 ≤ 10000), o + 10)] else [])

/-- 0, or in [lo, hi]: a field with a default, or of a record that does not use it (R357, R358, R367). -/
def zeroOr (v lo hi : Nat) : Bool := v == 0 || within v lo hi

/-- The value checks of the whole table in ascending offset (R369 check 4). A disabled input may leave FILT 0, and an output without EDM its EDMFILT (notes/assumptions/33.md). -/
def valueChecks (t : List Byte) : List (Bool × Nat) :=
  [(decide (tblSupcls t ≤ 3), 6), (decide (tblTestdiv t ≤ 6), 12)]
  ++ ((List.range 16).flatMap fun i => [(loopChannel t i, 32 + 4 * i), (if inEn t i then within (inFilt t i) 5 80 else zeroOr (inFilt t i) 5 80, 33 + 4 * i)])
  ++ ((List.range 8).flatMap fun n =>
      [(!outEn t n || (List.range 8).any (fun k => (slotRec t k).func != 0 && bit (slotRec t k).outmask n), 96 + 16 * n), (zeroOr (leAt t (97 + 16 * n) 1) 5 30, 97 + 16 * n),
       (zeroOr (leAt t (98 + 16 * n) 2) 20 1000, 98 + 16 * n), (if outEdmen t n then within (outEdmfilt t n) 5 80 else zeroOr (outEdmfilt t n) 5 80, 100 + 16 * n)])
  ++ ((List.range 8).flatMap fun k => slotChecks t k)

/-- The checks of R369 on a table: RESULT and ERRIDX of the first that fails. -/
def checkTable (t : List Byte) : Option (Nat × Nat) :=
  if tblCrc t ≠ crc32 (t.take 1020) then some (2, 1020)
  else if leAt t 0 4 ≠ 0x4454534C then some (3, 0)
  else if leAt t 4 2 ≠ 1 then some (3, 4)
  else match (t.take 1020).zipIdx.find? fun x => x.1 != 0 && (x.1.toNat &&& (255 - usedBits t x.2)) != 0 with
    | some x => some (3, fieldStart x.2)
    | none => match (valueChecks t).find? fun c => !c.1 with
      | some c => some (4, c.2)
        | none => none

/-- The shadow buffer as bytes. -/
def shadowTable (s : State) : List Byte := (List.range 128).flatMap fun i => toLE 8 (getF s (LOD_SHADOW_DATA i))

/-! ### Samples (R345, R347–R351, R357–R360) -/

/-- One sample through a filter of `need` samples: the level accepted then (R347). -/
def filterBit (idx need : Nat) (cur v pass : Bool) (l : Lod) : Lod × Bool :=
  if pass then (l, cur)
  else if v == cur then ({ l with filt := kput 0 l.filt idx 0 }, cur)
  else
    let n := kget 0 l.filt idx
    if need ≤ n then ({ l with filt := kput 0 l.filt idx 0 }, v) else ({ l with filt := kput 0 l.filt idx (n + 1) }, cur)

/-- Safety input i: a sample in its own off-pulse window counts towards OFF, and an ON run neither grows nor breaks there (R347). -/
def sampleSi (t : List Byte) (x : FbSample) (i : Nat) (l : Lod) : Lod :=
  let cur := bit l.si i
  let own := inTpchk t i && inWindow l.tf.pos (inTpsel t i)
  let r := filterBit i (10 * inFilt t i) cur (x.si.getLsbD i && !own) (own && !cur) l
  { r.1 with si := putBit r.1.si i r.2 }

/-- The output that selects EDM input e (R347). -/
def edmUser (t : List Byte) (e : Nat) : Option Nat := (List.range 8).find? fun n => outEdmen t n && outEdmsel t n == e

/-- EDM input e, with the EDMFILT of its output; one that no output selects has no filter (R347). -/
def sampleEdm (t : List Byte) (x : FbSample) (e : Nat) (l : Lod) : Lod :=
  let r := filterBit (16 + e) (((edmUser t e).map fun n => 10 * outEdmfilt t n).getD 0) (bit l.edm e) (x.edm.getLsbD e) false l
  { r.1 with edm := putBit r.1.edm e r.2 }

/-- The reset inputs have a fixed filter of 10 ms (R347). -/
def sampleRst (x : FbSample) (j : Nat) (l : Lod) : Lod :=
  let r := filterBit (24 + j) 1000 (bit l.rst j) (x.rst.getLsbD j) false l
  { r.1 with rst := putBit r.1.rst j r.2 }

/-- The line of TPk: OFF in the last 50 µs of its pulse, ON outside its window (R351). -/
def sampleTp (t : List Byte) (x : FbSample) (k : Nat) (l : Lod) : Lod :=
  if !bit (tblTpen t) k || x.tp.getLsbD k then l
  else if 100 * k + 15 ≤ l.tf.pos ∧ l.tf.pos < 100 * k + 20 then { l with tpSaw := putBit l.tpSaw k true }
  else if inWindow l.tf.pos k then l else { l with tpBad := putBit l.tpBad k true }

/-- Output n's switch tests that this sample begins: of every output that reads ON at the pin, in a frame that TESTDIV names, unless the supply is LOST (R357, R360). -/
def beginTests (t : List Byte) (n : Nat) (l : Lod) : Lod :=
  if l.table.isSome && l.frames % 2 ^ tblTestdiv t == 0 && bit l.out n && !l.lost then
    if l.tf.pos = 100 * n + 40 then { l with testFb := putBit l.testFb n true }
    else if l.tf.pos = 100 * n + 70 then { l with testFa := putBit l.testFa n true } else l
  else l

/-- Output n's pin and midpoint, its switch tests and the conditions of R357–R359. -/
def sampleOut (t : List Byte) (x : FbSample) (n : Nat) (l0 : Lod) : Lod :=
  let pin := x.pin.getLsbD n
  let mid := x.mid.getLsbD n
  let w := outOpw t n
  let l := beginTests t n { l0 with pins := putBit l0.pins n pin, mids := putBit l0.mids n mid, pinOff := modAt l0.pinOff n fun k => if pin then 0 else min (k + 1) 101 }
  let inFb := bit l.testFb n && decide (100 * n + 40 ≤ l.tf.pos) && decide (l.tf.pos < 100 * n + 40 + w)
  let inFa := bit l.testFa n && decide (100 * n + 70 ≤ l.tf.pos) && decide (l.tf.pos < 100 * n + 70 + w)
  let l1 := if inFb then
      { l with fbBad := if mid then l.fbBad else putBit l.fbBad n true, fbOff := if !pin && decide (100 * n + 35 + w ≤ l.tf.pos) then putBit l.fbOff n true else l.fbOff }
    else l
  let l2 := if inFa && !mid && decide (100 * n + 65 + w ≤ l.tf.pos) then { l1 with faOff := putBit l1.faOff n true } else l1
  if inFb || inFa then l2
  else
    let on := bit l.fbsw n
    let ch := pin != bit l.out n
    let ext := pin && (!on || !mid)
    let no := on && mid && !pin
    { l2 with out := putBit l2.out n pin, told := putBit (putBit l2.told n (ext && bit l2.told n)) (8 + n) (no && bit l2.told (8 + n)), tedm := if ch then modAt l2.tedm n (fun _ => 20 * outTedm t n) else l2.tedm, extRun := modAt l2.extRun n (fun k => if ext then min (k + 1) 101 else 0), noOut := modAt l2.noOut n (fun k => if no then min (k + 1) 101 else 0) }

/-- The two channels of pair p in the active state of a MODE (R328, R348). -/
def shows2 (l : Lod) (mode : Bool) (p : Nat) : Bool × Bool := (bit l.si (2 * p), if mode then !bit l.si (2 * p + 1) else bit l.si (2 * p + 1))

/-- Input i is valid: no test-pulse cause on it or on the line that its TPSEL names (R328, R348, R351). -/
def lodValid (t : List Byte) (l : Lod) (i : Nat) : Bool := !bit l.tpErr i && !bit l.tpOutErr (inTpsel t i)

/-- A slot's pair places after a sample (R348). -/
def samplePairs (t : List Byte) (k : Nat) (l : Lod) : Lod :=
  let r := slotRec t k
  if r.func = 0 then l
  else
    let step (z : LSlot) (j : Nat) : LSlot :=
      let p := r.pairs.getD j 0
      let (a, b) := shows2 l r.mode p
      let shown := a && b && lodValid t l (2 * p) && lodValid t l (2 * p + 1)
      let ready := if !a && !b then true else if bit z.act j && !shown then false else bit z.ready j
      { z with ready := putBit z.ready j ready, act := putBit z.act j (shown && ready) }
    { l with slots := modAt l.slots k fun z => (List.range r.pairs.length).foldl step z }

/-- Lockouts with cause DISC are gone once both channels of their pair are inactive at one sample (R361). -/
def sampleGone (t : List Byte) (n : Nat) (l : Lod) : Lod :=
  if l.cause.getD n 0 = 1 then
    let p := l.src.getD n 0
    let mode := (List.range 8).any fun k => (slotRec t k).func == 1 && (slotRec t k).mode && (slotRec t k).pairs.contains p
    let (a, b) := shows2 l mode p
    if !a && !b then { l with gone := putBit l.gone n true } else l
  else l

/-- Lodestone's own measurement of the group-2 supply (R330, R360): 1 ms is 101 samples, 10 ms 1,001. -/
def sampleSupply (t : List Byte) (x : FbSample) (l : Lod) : Lod :=
  let un := 10 * classVolts (tblSupcls t)
  let u := 100 * x.u2.toNat
  let lo := if u < 50 * un then min (l.lo50 + 1) 101 else 0
  let hi := if 55 * un ≤ u then min (l.hi55 + 1) 1001 else 0
  if l.table.isSome then { l with lo50 := lo, hi55 := hi, lost := l.lost && decide (hi < 1001) } else l

/-- One sample of the FB die under a table (R345 steps 2 and 3). -/
def lodSample (t : List Byte) (l : Lod) (x : FbSample) : Lod :=
  let l1 := forN (sampleRst x) 0 2 (forN (sampleEdm t x) 0 8 (forN (sampleSi t x) 0 16 l))
  let l2 := forN (sampleTp t x) 0 8 l1
  let l3 := forN (samplePairs t) 0 8 (forN (sampleOut t x) 0 8 (sampleSupply t x l2))
  let l4 := forN (sampleGone t) 0 8 l3
  { l4 with tf := tpSample x.si.toNat l4.tf }

/-! ### Speeds (R354) -/

/-- Lodestone's time in ns. -/
def lodNow (l : Lod) : Nat := l.cyc * 50000

/-- A rising edge of a speed input at a time in ns. -/
def lodEdge (k at' : Nat) (l : Lod) : Lod :=
  let last := l.edge.getD k 0
  let per := if last = 0 then l.period.getD k 0 else at' + 1 - last
  { l with edge := modAt l.edge k (fun _ => at' + 1), period := modAt l.period k fun _ => per }

/-- Zero speed: no period yet, or no rising edge for 1 s, the period of the lowest FZ and of 1 Hz (notes/assumptions/66.md). -/
def stopped (l : Lod) (k : Nat) : Bool := l.period.getD k 0 == 0 || decide (1000000000 ≤ lodNow l + 1 - l.edge.getD k 0)

/-- The speed is below FZ: the last period, endless at zero speed, is longer than 1/FZ, and no rising edge has come for 1/FZ (R354). -/
def belowFz (l : Lod) (k fz : Nat) : Bool :=
  let lim := 1000000000 / fz
  (stopped l k || decide (lim < l.period.getD k 0)) && (l.edge.getD k 0 == 0 || decide (lim < lodNow l + 1 - l.edge.getD k 0))

/-- The speed, 1/period, is above 4 × FZ (R354). -/
def above4Fz (l : Lod) (k fz : Nat) : Bool := !stopped l k && decide (4 * fz * l.period.getD k 0 < 1000000000)

/-- Speed input k shows a period shorter than 40 µs. -/
def shortPeriod (l : Lod) (k : Nat) : Bool := decide (0 < l.period.getD k 0) && decide (l.period.getD k 0 < 40000)

/-- The speeds in Hz, 16 bits each (R354). -/
def speeds (l : Lod) : Nat :=
  (List.range 4).foldl (fun w k => if stopped l k then w else putBits w (16 * k) 16 (min 65535 (1000000000 / l.period.getD k 0))) 0

/-! ### Lockouts and resets (R352, R361–R363) -/

/-- The outputs of every slot that uses an input, a pair or a speed input, and those slots (R352). -/
def usersOf (t : List Byte) (uses : SlotRec → Bool) : Nat × List Nat :=
  let ks := (List.range 8).filter fun k => (slotRec t k).func != 0 && uses (slotRec t k)
  (ks.foldl (fun m k => m ||| (slotRec t k).outmask) 0, ks)

/-- The slot uses safety input i. -/
def usesInput (i : Nat) (r : SlotRec) : Bool := r.pairs.any fun p => 2 * p == i || 2 * p + 1 == i

/-- Latch a lockout on each output of a mask; each counts as a new one (R361). -/
def lockOutputs (mask cause src : Nat) (s : State) : State :=
  (bitsOf mask 8).foldl (fun t n =>
    lodCnt LOD_CNT_LOCKS (lodEvt LOD_EVT_LOCK (modLod t fun l =>
      { l with lock := putBit l.lock n true, cause := modAt l.cause n (fun _ => cause), src := modAt l.src n (fun _ => src), gone := putBit l.gone n false, fresh := putBit l.fresh n true, fbsw := putBit l.fbsw n false, lkseq := (l.lkseq + 1) % 65536 }))) s

/-- A cause is recorded: lockouts, the slots' last cause, and its report (R352, R361, R378). -/
def recordCause (mask cause src cls : Nat) (place : Loc) (slots : List Nat) (s : State) : State :=
  let s1 := slots.foldl (fun t k => modLod t fun l => { l with slots := modAt l.slots k fun z => { z with cause := cause } }) s
  raise cls place (lockOutputs mask cause src s1)

/-- The cause of output n's lockout is gone (R361). -/
def causeGone (l : Lod) (n : Nat) : Bool :=
  let c := l.cause.getD n 0
  !l.internal && (c == 6 || c == 7 || c == 8 || c == 11
    || (c == 5 && decide (101 ≤ l.pinOff.getD n 0))
    || (c == 9 && match l.table with
      | some t => bit l.edm (outEdmsel t n) != bit l.out n
      | none => false)
    || (c == 10 && decide (20000 ≤ (l.slots.getD (l.src.getD n 0) {}).clean))
    || ((c ≤ 4 || c == 12) && bit l.gone n))

/-- Clear output n's lockout. -/
def clearLock (n : Nat) (s : State) : State :=
  raise NOTE (lodLoc' 0x10 0xFF) (lodEvt LOD_EVT_CLEAR (modLod s fun l => { l with lock := putBit l.lock n false, cause := modAt l.cause n fun _ => 0, told := putBit (putBit (putBit l.told n false) (8 + n) false) (16 + n) false }))
where lodLoc' (tile mac : Nat) : Loc := ⟨1, 0xD, tile, mac⟩

/-! ### Slots (R353–R356, R364) -/

/-- All pairs of the slot count as active. -/
def pairsActive (r : SlotRec) (z : LSlot) : Bool := decide (0 < r.pairs.length) && (List.range r.pairs.length).all fun j => bit z.act j

/-- The ON condition of a slot (R353, R355). -/
def slotCond (r : SlotRec) (z : LSlot) : Bool :=
  if r.func = 3 then decide (20 * r.p2 ≤ z.hold)
  else if r.func = 4 then !z.expired && !z.stuck
  else if r.func = 5 then pairsActive r z && decide (20 * r.p1 ≤ z.hold)
  else pairsActive r z

/-- DISC timers of a slot over one cycle: started while the channels disagree, ended when they agree (R348). -/
def tickDisc (l : Lod) (r : SlotRec) (z : LSlot) : LSlot :=
  (List.range r.pairs.length).foldl (fun z j =>
    let (a, b) := shows2 l r.mode (r.pairs.getD j 0)
    let n := z.disc.getD j 0
    if a == b then { z with disc := modAt z.disc j (fun _ => 0), done := putBit z.done j false }
    else { z with disc := modAt z.disc j fun _ => if n = 0 then (if bit z.done j then 0 else 1 + 20 * r.disc) else if n = 1 then 1 else n - 1 }) z

/-- The vigilance timer and acknowledge over one cycle; `susp` while the slot named in SUSPSLOT is ON (R355). -/
def tickVigil (r : SlotRec) (susp : Bool) (z : LSlot) : LSlot :=
  let act := bit z.act 0
  let press := act && z.pressed == 0
  let z1 := { z with pressed := if act then z.pressed + 1 else 0, stuck := z.stuck && act }
  let full := 2000 * r.p1
  if press then { z1 with tv := full, expired := false }
  else if z.state ≠ 2 then z1
  else if susp then { z1 with tv := full } else { z1 with tv := z1.tv - 1 }

/-- One input is below FZ while the other is above 4 × FZ (R354). -/
def spdApart (l : Lod) (r : SlotRec) : Bool :=
  (belowFz l r.spda r.p1 && above4Fz l r.spdb r.p1) || (belowFz l r.spdb r.p1 && above4Fz l r.spda r.p1)

/-- The timers of a ZEROSPEED slot (R353, R354). -/
def tickSpeed (l : Lod) (r : SlotRec) (z : LSlot) : LSlot :=
  let diff := if spdApart l r then z.diff + 1 else 0
  { z with hold := if belowFz l r.spda r.p1 && belowFz l r.spdb r.p1 then z.hold + 1 else 0, diff := diff, clean := if 20 * r.disc < diff || shortPeriod l r.spda || shortPeriod l r.spdb then 0 else z.clean + 1 }

/-- What slot k has told of its speed inputs while it lasts: their disagreement, and a short period of SPDA and of SPDB (R354). -/
def toldSpeeds (l : Lod) (k : Nat) (r : SlotRec) : Nat :=
  let still (w b : Nat) (c : Bool) : Nat := putBit w b (bit w b && r.func == 3 && c)
  still (still (still l.told (24 + k) (spdApart l r)) (32 + k) (shortPeriod l r.spda)) (40 + k) (shortPeriod l r.spdb)

/-- The timers of slot k over one cycle. -/
def tickSlot (t : List Byte) (k : Nat) (l : Lod) : Lod :=
  let r := slotRec t k
  if r.func = 0 then l
  else { l with told := toldSpeeds l k r, slots := modAt l.slots k fun z =>
    let z1 := tickDisc l r z
    if r.func = 3 then tickSpeed l r z1
    else if r.func = 4 then tickVigil r (r.susp != 0xFF && (l.slots.getD r.susp {}).state == 2) z1
    else if r.func = 5 then { z1 with hold := if pairsActive r z1 then z1.hold + 1 else 0 } else z1 }

/-- A slot enters a state; ON loads the vigilance timer, and leaving ON for OFF or INIT is a demand (R355, R364). -/
def enterSlot (t : List Byte) (k st : Nat) (s : State) : State :=
  let z := s.lod.slots.getD k {}
  let r := slotRec t k
  let dem := z.state == 2 && (st == 1 || st == 4)
  let s1 := modLod s fun l => { l with slots := modAt l.slots k fun z => { z with state := st, tv := if st = 2 && r.func == 4 then 2000 * r.p1 else z.tv, demands := if dem then min (z.demands + 1) (2 ^ 32 - 1) else z.demands } }
  if dem then lodEvt LOD_EVT_DEMAND s1 else s1

/-- Evaluate slot k (R345 step 6, R353, R364, R371). An AUTO slot that INIT has left in WAIT returns by itself as R364 gives. -/
def evalSlot (t : List Byte) (k : Nat) (s0 : State) : State :=
  let r := slotRec t k
  if r.func = 0 then s0
  else
    let s := modLod s0 fun l => tickSlot t k l
    let z := s.lod.slots.getD k {}
    let c := slotCond r z
    if z.state = 4 then
      if 0 < z.init then modLod s fun l => { l with slots := modAt l.slots k fun z => { z with init := z.init - 1 } }
      else enterSlot t k (if c && !r.manual then 2 else 3) s
    else if z.state = 2 then (if c then s else enterSlot t k 1 s)
    else if z.state = 1 then (if c then enterSlot t k (if r.manual then 3 else 2) s else s)
    else if c && !r.manual then enterSlot t k 2 s else s

/-- A reset acts on the outputs of a mask and on the slots in WAIT that `may` allows; a lockout that arose in this cycle survives it (R346, R362, R363). -/
def resetOutputs (mask : Nat) (may : SlotRec → Bool) (s : State) : State :=
  let s1 := ((bitsOf mask 8).filter fun n => bit s.lod.lock n && !bit s.lod.fresh n && causeGone s.lod n).foldl (fun t n => clearLock n t) s
  let s2 := match s1.lod.table with
    | some t => (List.range 8).foldl (fun x k =>
        let z := x.lod.slots.getD k {}
        if z.state == 3 && may (slotRec t k) && slotCond (slotRec t k) z then enterSlot t k 2 x else x) s1
    | none => s1
  lodCnt LOD_CNT_RESETS s2

/-- A reset or unlock is refused (R362, R363, R378). -/
def refuseReset (evt cnt : Fld) (s : State) : State := raise NOTE ⟨1, 0xD, 0x10, 0xFF⟩ (lodCnt cnt (lodEvt evt s))

/-- The dual-channel reset input over one cycle (R362): its next state, whether a reset event falls in it and whether it is refused. -/
def tickReset (a b : Bool) (r : RstIn) : RstIn × Bool × Bool :=
  if r.phase = 3 then (if !a && !b then {} else r, false, false)
  else if r.phase = 0 then
    if a && b then ({ phase := 1, held := 1 }, false, false)
    else if a == b then ({}, false, false)
    else if 2000 ≤ r.apart then ({ phase := 3 }, false, true) else ({ r with apart := r.apart + 1 }, false, false)
  else if r.phase = 1 then
    if a && b then (if 100000 ≤ r.held then ({ phase := 3 }, false, true) else ({ r with held := r.held + 1 }, false, false))
    else if !a && !b then ({}, decide (10000 ≤ r.held), false)
    else ({ r with phase := 2, apart := 1, long := decide (10000 ≤ r.held) }, false, false)
  else if !a && !b then ({}, r.long, false)
  else if a && b then ({ phase := 1, held := 1 }, false, false)
  else if 2000 ≤ r.apart then ({ phase := 3 }, false, true) else ({ r with apart := r.apart + 1 }, false, false)

/-- An accepted pair of unlock codes: key, sequence, owner of every output named, UNLOCKOK of every slot concerned (R363). -/
def unlockOk (t : List Byte) (l : Lod) (code tri : Nat) : Bool :=
  let mask := code % 256
  bits code 8 16 == 0x5AC3 && bits code 24 16 == l.lkseq
    && (bitsOf mask 8).all (fun n => outOwner t n == tri)
    && (List.range 8).all fun k => (slotRec t k).func == 0 || (slotRec t k).outmask &&& mask == 0 || (slotRec t k).unlockok

/-- Apply the unlock codes that have arrived (R345 step 5, R363). -/
def applyUnlocks (s : State) : State :=
  s.lod.codes.foldl (fun x c =>
    match x.lod.table with
    | some t =>
      if unlockOk t x.lod c.1 c.2 then resetOutputs (c.1 % 256) (fun r => r.outmask &&& (255 - c.1 % 256) == 0) x
      else refuseReset LOD_EVT_UNLREF LOD_CNT_UNLREF x
    | none => refuseReset LOD_EVT_UNLREF LOD_CNT_UNLREF x) (modLod s fun l => { l with codes := [] })

/-- The FB switch commands (R356); none once the power-down sequence has turned them OFF (R480). -/
def fbCommands (t : List Byte) (l : Lod) : Nat :=
  if l.off then 0
  else (List.range 8).foldl (fun w n =>
    let ks := (List.range 8).filter fun k => (slotRec t k).func != 0 && bit (slotRec t k).outmask n
    putBit w n (outEn t n && !bit l.lock n && !ks.isEmpty && ks.all fun k => (l.slots.getD k {}).state == 2)) 0

/-! ### The commit (R370–R373) -/

/-- RESULT of a commit, with its event where it changes and, for 2 to 6, its report (R370, R377, R378). -/
def setResult (r idx : Nat) (s : State) : State :=
  let s0 := setF (setF s LOD_CMTCTL_RESULT r) LOD_CMTCTL_ERRIDX idx
  let s1 := if getF s LOD_CMTCTL_RESULT = r then s0 else evtLod LOD_EVT_COMMIT s0
  if 2 ≤ r then raise MINOR ⟨1, 0xD, 0x11, 0x01⟩ s1 else s1

/-- The length of INIT for a slot in cycles: the longest filter of its inputs, and a full test frame where one is TP-checked (R371). -/
def initTime (t : List Byte) (r : SlotRec) : Nat :=
  let is := r.pairs.flatMap fun p => [2 * p, 2 * p + 1]
  is.foldl (fun m i => max m (max (2 * inFilt t i) (if inTpchk t i then 160 else 0))) 0

/-- Slot k under a new table: kept where its record is unchanged, otherwise restarted in INIT (R371). -/
def commitSlot (old : Option (List Byte)) (t : List Byte) (k : Nat) (s : State) : State :=
  if old.map (fun o => slotBytes o k) = some (slotBytes t k) then s
  else
    let r := slotRec t k
    let z := s.lod.slots.getD k {}
    let s1 := if z.state = 2 then enterSlot t k 4 s else s
    modLod s1 fun l => { l with slots := modAt l.slots k fun z => { state := if r.func = 0 then 0 else 4, cause := z.cause, demands := z.demands, init := initTime t r } }

/-- The shadow buffer becomes active (R345 step 1, R371). -/
def applyCommit (s : State) : State :=
  if !s.lod.strobe then s
  else
    let t := shadowTable s
    let old := s.lod.table
    let s1 := modLod s fun l => { l with strobe := false, echoDue := true, table := some t, tpWhole := l.tpWhole &&& tblTpen t, gone := (List.range 8).foldl (fun m n => if l.cause.getD n 0 = 12 then putBit m n true else m) l.gone }
    setResult 1 0 (setF (forN (commitSlot old t) 0 8 s1) LOD_CMTCTL_PEND 0)

/-! ### The link port's copy (R342, R377) -/

/-- Remaining ms of a slot's running timer (R377). -/
def slotTimer (r : SlotRec) (z : LSlot) : Nat :=
  let d := (z.disc.filter (0 < ·)).foldl min (2 ^ 32)
  min 65535 (if d < 2 ^ 32 then (d - 1) / 20 else if r.func = 4 then (if z.state = 2 then z.tv / 20 else 0)
    else if r.func = 3 && decide (0 < z.hold) then r.p2 - z.hold / 20 else if r.func = 5 && decide (0 < z.hold) then r.p1 - z.hold / 20 else 0)

/-- The pairs that count as active in a slot that uses them (R348). -/
def activePairs (t : List Byte) (l : Lod) : Nat :=
  (List.range 8).foldl (fun m k =>
    let r := slotRec t k
    if r.func = 0 then m
    else (List.range r.pairs.length).foldl (fun m j => if bit (l.slots.getD k {}).act j then putBit m (r.pairs.getD j 0) true else m) m) 0

/-- A status frame reaches the link port: the LOD registers show Lodestone's state, and waiting events are delivered. -/
def pushLod (s0 : State) : State :=
  if !onF s0 LOD_STAT_LINK then s0
  else
    let l := s0.lod
    let s := modLod (l.lateCnt.foldl (fun x f => incF x f) (l.late.foldl (fun x f => evtLod f x) s0)) fun l => { l with late := [], lateCnt := [] }
    let t := l.table.getD []
    let on := (List.range 8).foldl (fun m k => putBit m k ((l.slots.getD k {}).state == 2)) 0
    let s1 := setF (setF (setF (setF (setB (setB (setB s LOD_STAT_ACTIVE l.table.isSome) LOD_STAT_INTERNAL l.internal) LOD_STAT_SUPLOST l.lost) LOD_STAT_SLOTON on) LOD_STAT_FBSW l.fbsw) LOD_STAT_LOCK l.lock) LOD_STAT_FRAMES l.frames
    let s2 := setF (setF (setF (setF (setF s1 LOD_TBLSTAT_VERSION (tblVersion t)) LOD_TBLSTAT_CRC (tblCrc t)) LOD_OUTSTAT_OUT l.pins) LOD_OUTSTAT_MID l.mids) LOD_OUTSTAT_EDM l.edm
    let pend := (List.range 8).foldl (fun m n => putBit m n (decide (0 < l.tedm.getD n 0))) 0
    let cz := (List.range 8).foldl (fun w n => putBits w (4 * n) 4 (l.cause.getD n 0)) 0
    let s3 := setF (setF (setF (setF (setF s2 LOD_OUTSTAT_EDMPEND pend) LOD_LOCKCAUSE_CAUSE cz) LOD_INSTAT_SI l.si) LOD_INSTAT_SP (if l.table.isSome then activePairs t l else 0)) LOD_INSTAT_RST l.rst
    let s4 := setF (setF (setF (setF s3 LOD_INSTAT_TPERR l.tpErr) LOD_INSTAT_TPOUTERR l.tpOutErr) LOD_SPD_SPD (speeds l)) LOD_LKSEQ_SEQ l.lkseq
    forN (fun k x =>
      let z := l.slots.getD k {}
      let r := slotRec t k
      setF (setF (setF (setB (setF x (LOD_SLOT_STATE k) z.state) (LOD_SLOT_WARN k) (r.func == 4 && z.state == 2 && decide (z.tv ≤ 2000 * r.p2)))
        (LOD_SLOT_CAUSE k) z.cause) (LOD_SLOT_TIMER k) (if z.state = 0 then 0 else slotTimer r z)) (LOD_SLOT_DEMANDS k) z.demands) 0 8 s4

/-! ### The cycle (R345, R346) -/

/-- Steps 2 and 3: the samples, the speeds and what is left of TEDM. -/
def takeSamples (samples : List FbSample) (edges : List (Nat × Nat)) (s : State) : State :=
  modLod s fun l0 =>
    let l := edges.foldl (fun x e => lodEdge e.1 (lodNow x + e.2) x) l0
    let l1 := samples.foldl (lodSample (l.table.getD [])) l
    let still (w n : Nat) : Nat := putBit w (16 + n) (bit w (16 + n) && (match l1.table with
      | some t => bit l1.edm (outEdmsel t n) == bit l1.out n
      | none => false))
    { l1 with cyc := l1.cyc + 1, tedm := l1.tedm.map (· - 1), told := (List.range 8).foldl still l1.told }

/-- The trips that have arrived record VITALTRIP on every output they name (R345 step 5, R365). -/
def applyTrips (s : State) : State :=
  s.lod.trips.foldl (fun x m => recordCause m 11 0 MINOR ⟨1, 0xD, 0x10, 0xFF⟩ [] x) (modLod s fun l => { l with trips := [] })

/-- Step 5: the trips, the reset input and the unlock codes, in this order (R345, R346). -/
def lodResets (s0 : State) : State :=
  let s := applyTrips s0
  let x := tickReset (bit s.lod.rst 0) (bit s.lod.rst 1) s.lod.rstIn
  let s1 := modLod s fun l => { l with rstIn := x.1 }
  let s2 := if x.2.1 then resetOutputs 255 (fun _ => true) s1 else if x.2.2 then refuseReset LOD_EVT_RSTREF LOD_CNT_RSTREF s1 else s1
  applyUnlocks s2

/-- The FB pulse of output n has been judged: a failure records FBSTUCK, unless the supply is LOST (R357, R360). -/
def judgeFb (n : Nat) (s : State) : State :=
  if bit s.lod.testFb n && !s.lod.lost && (!bit s.lod.fbOff n || bit s.lod.fbBad n) then recordCause (2 ^ n) 6 n MAJOR ⟨3, 0xD, 0x60 + n, 0x01⟩ [] s else s

/-- The FA pulse of output n has been judged: a failure records FASTUCK, unless the supply is LOST (R357, R360). -/
def judgeFa (n : Nat) (s : State) : State :=
  if bit s.lod.testFa n && !s.lod.lost && !bit s.lod.faOff n then recordCause (2 ^ n) 7 n MAJOR ⟨3, 0xD, 0x60 + n, 0x01⟩ [] s else s

/-- The switch tests of output n that a frame's end finds open (R357). -/
def judgeTest (n : Nat) (s : State) : State := judgeFa n (judgeFb n s)

/-- The pulses of output n that have ended are judged in the cycle that takes their last sample (R345 step 4, R357). -/
def judgeEnded (t : List Byte) (n : Nat) (s : State) : State :=
  let w := outOpw t n
  let s1 := if bit s.lod.testFb n && decide (100 * n + 40 + w ≤ s.lod.tf.pos) then modLod (judgeFb n s) fun l => { l with testFb := putBit l.testFb n false } else s
  if bit s1.lod.testFa n && decide (100 * n + 70 + w ≤ s1.lod.tf.pos) then modLod (judgeFa n s1) fun l => { l with testFa := putBit l.testFa n false } else s1

/-- The switch tests that begin in the cycle: the FB pulse, and the strobe to the FA die, whose switch opens for OPW and closes again, two switch operations
(R339, R357). -/
def pulseSwitches (s0 s : State) : State :=
  forN (fun n x =>
    let x1 := if bit x.lod.testFb n && !bit s0.lod.testFb n then emit x (.signal .lodLink n 3 (outOpw (x.lod.table.getD []) n)) else x
    if bit x.lod.testFa n && !bit s0.lod.testFa n then
      let x2 := emit x1 (.signal .lodLink n 4 (outOpw (x.lod.table.getD []) n))
      if bit x.fio.sw (24 + n) then incF (incF x2 (FIO_CHCNT_CHANGES (0x60 + n))) (FIO_CHCNT_CHANGES (0x60 + n)) else x2
    else x1) 0 8 s

/-- The test-pulse outputs that are driven, and those of them driven low: TPk from k ms to k ms + 200 µs of the frame. The driver of a line that TPEN does not enable, and of every line
while no table is active, is off (R349). -/
def tpDrive (l : Lod) : Nat × Nat :=
  let en := (l.table.map tblTpen).getD 0
  (en, (List.range 8).foldl (fun w k => putBit w k (bit en k && decide (100 * k ≤ l.tf.pos) && decide (l.tf.pos < 100 * k + 20))) 0)

/-- The test-pulse drivers follow, on their timing lines (R349). -/
def driveTp (s : State) : State :=
  let d := tpDrive s.lod
  if d = s.lod.tp then s else emit (modLod s fun l => { l with tp := d }) (.signal .lodLink d.1 5 d.2)

/-- One Lodestone cycle: commit, samples, resets, slots, FB commands, status (R342, R345, R346). -/
def lodCycle (samples : List FbSample) (edges : List (Nat × Nat)) (s : State) : State :=
  let s0 := pulseSwitches s (takeSamples samples edges (applyCommit (modLod s fun l => { l with fresh := 0 })))
  let s1 := lodResets (match s0.lod.table with
    | some t => forN (judgeEnded t) 0 8 s0
    | none => s0)
  let s2 := match s1.lod.table with
    | some t =>
      let x := forN (evalSlot t) 0 8 s1
      modLod x fun l => { l with fbsw := fbCommands t l }
    | none => s1
  pushLod (driveTp (emit s2 (.signal .lodLink 0 1 s2.lod.fbsw)))

/-! ### The test frame (R349–R352, R357) -/

/-- The finding on input i in a frame, over the lines that were enabled throughout it: 2 CROSS, 3 SHORTSUP, 0 every judged window correct, none where it was OFF throughout (R350). -/
def pulseFinding (t : List Byte) (l : Lod) (i : Nat) : Option Nat :=
  if !bit l.tf.everOn i then none
  else
    let k := inTpsel t i
    let other := otherSeen l.tf l.tpWhole k i
    if bit l.tpWhole k && ownMissed l.tf k i then some (if other then 2 else 3)
    else if bit (l.tf.wins.getD k {}).off i && other then some 2 else some 0

/-- The outputs of a mask that are not locked already with a cause from a source that has not gone (R361). -/
def notHeld (l : Lod) (mask cause src : Nat) : Nat :=
  (List.range 8).foldl (fun m n => putBit m n (bit mask n && !(bit l.lock n && l.cause.getD n 0 == cause && l.src.getD n 0 == src && !bit l.gone n))) 0

/-- The judgement of input i: a cause is recorded anew where it is not in force already; a correct frame makes it gone (R350, R352, R361). -/
def judgeInput (t : List Byte) (i : Nat) (s : State) : State :=
  if !inTpchk t i then s
  else match pulseFinding t s.lod i with
    | none => modLod s fun l => { l with tpErr := putBit l.tpErr i false }
    | some 0 =>
      modLod s fun l => { l with tpErr := putBit l.tpErr i false, gone := (List.range 8).foldl (fun m n => if (l.cause.getD n 0 == 2 || l.cause.getD n 0 == 3) && l.src.getD n 0 == i then putBit m n true else m) l.gone }
    | some c =>
      let u := usersOf t (usesInput i)
      let new := notHeld s.lod u.1 c i
      let s1 := modLod s fun l => { l with tpErr := putBit l.tpErr i true }
      if new = 0 && bit s.lod.tpErr i then s1 else recordCause new c i MAJOR ⟨3, 0xD, 0x48 + i, 0x00⟩ u.2 s1

/-- TPOUT of line k counts against every input whose TPSEL names the line; `was` where the last frame found it too (R351, R352, R378). -/
def tpOut (t : List Byte) (was : Bool) (k : Nat) (s : State) : State :=
  ((List.range 16).filter fun i => inTpsel t i == k).foldl (fun x i =>
    let u := usersOf t (usesInput i)
    let new := notHeld x.lod u.1 4 k
    if new = 0 && was then x else recordCause new 4 k MAJOR ⟨3, 0xD, 0x48 + i, 0x00⟩ u.2 x) (modLod s fun l => { l with tpOutErr := putBit l.tpOutErr k true })

/-- The judgement of test-pulse line k over a frame throughout which it was enabled; `lim` tells that its driver was in current limit for 1 ms (R351, R352). -/
def judgeLine (t : List Byte) (lim k : Nat) (s : State) : State :=
  let l := s.lod
  if !bit (tblTpen t) k then modLod s fun l => { l with tpOutErr := putBit l.tpOutErr k false }
  else if bit lim k || (bit l.tpWhole k && (!bit l.tpSaw k || bit l.tpBad k)) then tpOut t (bit l.tpOutErr k) k s
  else if !bit l.tpWhole k then s
  else
    modLod s fun l => { l with tpOutErr := putBit l.tpOutErr k false, gone := (List.range 8).foldl (fun m n => if l.cause.getD n 0 == 4 && l.src.getD n 0 == k then putBit m n true else m) l.gone }

/-- A test frame starts: the one that ends is judged, the off-pulses of enabled lines are timed and the frame marker goes to the FA die (R349–R352, R357). The
first frame ends none. -/
def testFrame (lim : Nat) (s : State) : State :=
  let s1 := match s.lod.table with
    | some t => if s.lod.tf.pos < 800 then s else forN judgeTest 0 8 (forN (judgeLine t lim) 0 8 (forN (judgeInput t) 0 16 s))
    | none => s
  let s2 := modLod s1 fun l =>
    { l with frames := (l.frames + 1) % 2 ^ 32, tf := { raw := l.tf.raw }, tpWhole := (l.table.map tblTpen).getD 0, tpSaw := 0, tpBad := 0, testFb := 0, testFa := 0, fbOff := 0, fbBad := 0, faOff := 0 }
  let s3 := modFio s2 fun f => { f with ended := f.tf, tf := { raw := f.tf.raw } }
  pushLod (driveTp (emit s3 (.signal .lodLink 0 2 ((s.lod.table.map tblTpen).getD 0))))

/-! ### Expiries and watches (R348, R354, R355, R358–R361) -/

/-- The DISC timer of a place has run out while the channels still disagree (R348). DESIGN CHOICE: the report names the pair's channel A, SI(2p) (R318, R378; notes/assumptions/66.md). -/
def discExpired (k : Nat) (s : State) : State :=
  match s.lod.table with
  | none => s
  | some t =>
    let r := slotRec t k
    let z := s.lod.slots.getD k {}
    ((List.range r.pairs.length).filter fun j => z.disc.getD j 0 == 1).foldl (fun x j =>
      let p := r.pairs.getD j 0
      let u := usersOf t fun q => q.pairs.contains p
      let x1 := modLod x fun l => { l with slots := modAt l.slots k fun z => { z with disc := modAt z.disc j (fun _ => 0), done := putBit z.done j true, ready := putBit z.ready j false, act := putBit z.act j false } }
      recordCause u.1 1 p MAJOR ⟨3, 0xD, 0x48 + 2 * p, 0x00⟩ [k] x1) s

/-- A vigilance demand: the slot leaves ON. -/
def vigilDemand (k : Nat) (f : LSlot → LSlot) (s : State) : State :=
  match s.lod.table with
  | none => s
  | some t =>
    let s1 := modLod s fun l => { l with slots := modAt l.slots k f }
    if (s.lod.slots.getD k {}).state = 2 then
      let s2 := enterSlot t k 1 s1
      pushLod (modLod s2 fun l => { l with fbsw := fbCommands t l })
    else s1

/-- The record of slot k under the active table. -/
def activeRec (s : State) (k : Nat) : Option SlotRec := s.lod.table.map fun t => slotRec t k

/-- A condition is recorded once while it lasts: bit b of `told` marks it. -/
def tellOnce (b : Nat) (k : State → State) (s : State) : State :=
  if bit s.lod.told b then s else k (modLod s fun l => { l with told := putBit l.told b true })

/-- EDM does not differ from OUT after TEDM (R358). -/
def edmFail (n : Nat) (s : State) : State :=
  match s.lod.table with
  | none => s
  | some t =>
    if outEdmen t n && s.lod.tedm.getD n 0 == 0 && bit s.lod.edm (outEdmsel t n) == bit s.lod.out n
    then tellOnce (16 + n) (recordCause (2 ^ n) 9 n MAJOR ⟨3, 0xD, 0x60 + n, 0x01⟩ []) s else s

/-- A cause of SPDFAULT found on the speed inputs `ks` by slot k, told once in bit b: it names the first of them (R352, R354, R378). -/
def spdCause (t : List Byte) (k b : Nat) (ks : List Nat) (s : State) : State :=
  let u := usersOf t fun q => q.func == 3 && (ks.contains q.spda || ks.contains q.spdb)
  tellOnce b (recordCause u.1 10 k MAJOR ⟨3, 0xD, 0x70 + ks.headD 0, 0x00⟩ u.2) s

/-- SPDFAULT of a ZEROSPEED slot: a disagreement is found on both inputs, a short period on the input that shows it (R352, R354). DESIGN CHOICE: the report of a
disagreement names the input that is below FZ (R378; notes/assumptions/66.md). -/
def spdFault (k : Nat) (s : State) : State :=
  match s.lod.table with
  | none => s
  | some t =>
    let r := slotRec t k
    if r.func ≠ 3 then s
    else
      let s1 := if 20 * r.disc < (s.lod.slots.getD k {}).diff then spdCause t k (24 + k) (if belowFz s.lod r.spda r.p1 then [r.spda, r.spdb] else [r.spdb, r.spda]) s else s
      let s2 := if shortPeriod s.lod r.spda then spdCause t k (32 + k) [r.spda] s1 else s1
      if shortPeriod s.lod r.spdb then spdCause t k (40 + k) [r.spdb] s2 else s2

/-- The watch of output n finds EXTDRIVE or FBNOOUT (R359, R360). -/
def watchOutput (n : Nat) (s : State) : State :=
  let place : Loc := ⟨3, 0xD, 0x60 + n, 0x01⟩
  if 101 ≤ s.lod.extRun.getD n 0 then tellOnce n (recordCause (2 ^ n) 5 n MAJOR place []) s
  else if 101 ≤ s.lod.noOut.getD n 0 && !s.lod.lost then tellOnce (8 + n) (recordCause (2 ^ n) 8 n MAJOR place []) s
  else s

/-- Lodestone's own measurement of group 2 is LOST (R360). -/
def supplyLost (s : State) : State :=
  match s.lod.table with
  | none => s
  | some t =>
    if s.lod.lo50 < 101 then s
    else
      let s1 := modLod s fun l => { l with lost := true }
      let ks := (List.range 8).filter fun k => (slotRec t k).func != 0 && (slotRec t k).manual && (slotRec t k).outmask != 0
      let s2 := ks.foldl (fun x k => if (x.lod.slots.getD k {}).state ≠ 3 then enterSlot t k 3 x else x) s1
      pushLod (modLod s2 fun l => { l with fbsw := fbCommands t l })

/-! ### Writes over the link (R342, R363, R365, R370) -/

/-- Voted, or from the update engine (R370). -/
def vitalOrUpdate : Req → Bool
  | .triad _ => true
  | .engine b _ => b.val == 15
  | _ => false

/-- The time part of a TS96 in ns (R164, R500). -/
def tsNs (ts : Nat) : Nat := ts % 2 ^ 30 + bits ts 32 48 * 1000000000

/-- The checks end (R369, R370): a pass takes the Waypoint, unless PEND holds one. -/
def checksDone (s : State) : State :=
  if !s.lod.checking then s
  else
    let s1 := modLod s fun l => { l with checking := false }
    match checkTable (shadowTable s) with
    | some (r, i) => setResult r i (setF s1 LOD_CMTCTL_PEND 0)
    | none =>
      if onF s LOD_CMTCTL_PEND then s1
      else setF (modLod s1 fun l => { l with wp := tsNs (getF s LOD_CMTWP0_TSLO + getF s LOD_CMTWP1_TSHI * 2 ^ 64) }) LOD_CMTCTL_PEND 1

/-- NOW (R370): only while no table is active and over a live link; the checks of R369 come first. -/
def commitNow (s : State) : State :=
  if !onF s LOD_STAT_LINK then s
  else if s.lod.table.isSome then setResult 5 0 s
  else match checkTable (shadowTable s) with
    | some (r, i) => setResult r i (setF s LOD_CMTCTL_PEND 0)
    | none => modLod s fun l => { l with strobe := true }

/-- Meridian has reached the Waypoint of a pending commit: the strobe is sent, or deferred in FREE and LOST (R370, R500). -/
def strobe (s : State) : State :=
  if !onF s LOD_CMTCTL_PEND || !onF s LOD_STAT_LINK
      || decide (nowNs s < s.lod.wp) then s
  else
    let st := getF s MER_STAT_STATE
    if st = 1 ∨ st = 2 then modLod s fun l => { l with strobe := true } else setResult 6 0 (setF s LOD_CMTCTL_PEND 0)

/-- UNLOCK0 opens a pair for 1 ms, which is 20 Lodestone cycles (R363). -/
def unlockFirst (t code : Nat) (s : State) : State :=
  if onF s LOD_STAT_LINK then modLod s fun l => { l with code0 := some (code, t, l.cyc) } else s

/-- UNLOCK1: a complete pair from one triad within 1 ms waits for step 5; anything else is refused (R363). -/
def unlockSecond (t code : Nat) (s : State) : State :=
  if !onF s LOD_STAT_LINK then s
  else
    let s1 := modLod s fun l => { l with code0 := none }
    match s.lod.code0 with
    | some (c, t0, at') =>
      if t0 = t ∧ s.lod.cyc ≤ at' + 20 ∧ code = 2 ^ 64 - 1 - c then modLod s1 fun l => { l with codes := l.codes ++ [(c, t)] }
      else refuseReset LOD_EVT_UNLREF LOD_CNT_UNLREF s1
    | none => refuseReset LOD_EVT_UNLREF LOD_CNT_UNLREF s1

/-- TRIP with the right key waits for step 5 of the next cycle (R345, R365). -/
def tripOutputs (v : Nat) (s : State) : State :=
  if bits v 8 16 = 0xA53C && onF s LOD_STAT_LINK && v % 256 != 0 then modLod s fun l => { l with trips := l.trips ++ [v % 256] } else s

/-- The active table is read back: after each commit, and 1 s after the last reading, which is 20,000 Lodestone cycles (R372). -/
def echoTable (s : State) : State :=
  match s.lod.table with
  | none => s
  | some t =>
    if !onF s LOD_STAT_LINK || !(s.lod.echoDue || decide (s.lod.echoAt + 20000 ≤ s.lod.cyc)) then s
    else
      let s1 := forN (fun i x => setF x (LOD_ECHO_DATA i) (leAt t (8 * i) 8)) 0 128 (modLod s fun l => { l with echoDue := false, echoAt := l.cyc })
      evtLod LOD_EVT_ECHO (incW (setF s1 LOD_ECHOSTAT_ECHOCRC (crc32 (t.take 1020))) LOD_ECHOSTAT_ECHOSEQ)

/-! ### The commands -/

/-- `TEST_FRAME` (R349); `limited` marks the test-pulse drivers that have been in current limit for 1 ms. -/
def execTestFrame (limited : BitVec 8) (s : State) : Host.Outcome State Fault Refusal := .next (testFrame limited.toNat s)

/-- `DISC_EXPIRY` (R348). -/
def execDiscExpiry (slot : Fin 8) (s : State) : Host.Outcome State Fault Refusal := .next (discExpired slot.val s)

/-- `VIGIL_EXPIRY` (R355). -/
def execVigilExpiry (slot : Fin 8) (s : State) : Host.Outcome State Fault Refusal :=
  .next (match activeRec s slot.val with
    | some r => if r.func = 4 && (s.lod.slots.getD slot.val {}).state == 2 && (s.lod.slots.getD slot.val {}).tv == 0
      then vigilDemand slot.val (fun z => { z with expired := true }) s else s
    | none => s)

/-- `TSTUCK_EXPIRY` (R355). -/
def execTstuckExpiry (slot : Fin 8) (s : State) : Host.Outcome State Fault Refusal :=
  .next (match activeRec s slot.val with
    | some r => if r.func = 4 && decide (2000 * r.p3 < (s.lod.slots.getD slot.val {}).pressed)
      then vigilDemand slot.val (fun z => { z with stuck := true }) s else s
    | none => s)

/-- `EDM_CHECK_FAIL` (R358). -/
def execEdmCheckFail (n : Fin 8) (s : State) : Host.Outcome State Fault Refusal := .next (edmFail n.val s)

/-- `SPDFAULT` (R354). -/
def execSpdfault (slot : Fin 8) (s : State) : Host.Outcome State Fault Refusal := .next (spdFault slot.val s)

/-- `OUTPUT_WATCH` (R359). -/
def execOutputWatch (n : Fin 8) (s : State) : Host.Outcome State Fault Refusal := .next (watchOutput n.val s)

/-- `LOD_SUPPLY_LOST` (R360). -/
def execLodSupplyLost (s : State) : Host.Outcome State Fault Refusal := .next (supplyLost s)

/-- `LOD_LINK_SILENCE` (R342): no valid status frame for 200 µs. -/
def execLodLinkSilence (s : State) : Host.Outcome State Fault Refusal :=
  .next (if onF s LOD_STAT_LINK && linkSilent .lod true 200000 s then raise MAJOR lodPort (evtLod LOD_EVT_LINK (setF s LOD_STAT_LINK 0)) else s)

/-- `UNLOCK0` (R363): vital-only. -/
def execUnlock0 (r : Req) (code : Word) (s : State) : Host.Outcome State Fault Refusal :=
  .next (match r with
    | .triad t => unlockFirst t.val code.toNat s
    | _ => notVoted 12 r s)

/-- `UNLOCK1` (R363): vital-only. -/
def execUnlock1 (r : Req) (code : Word) (s : State) : Host.Outcome State Fault Refusal :=
  .next (match r with
    | .triad t => unlockSecond t.val code.toNat s
    | _ => notVoted 12 r s)

/-- `TRIP` (R365): vital-only. -/
def execTrip (r : Req) (val : Word) (s : State) : Host.Outcome State Fault Refusal :=
  .next (match r with
    | .triad _ => tripOutputs val.toNat s
    | _ => notVoted 12 r s)

/-- `COMMIT_REQ` (R370). -/
def execCommitReq (r : Req) (s : State) : Host.Outcome State Fault Refusal :=
  .next (if vitalOrUpdate r then (if onF s LOD_STAT_LINK then modLod s fun l => { l with checking := true } else s) else notVoted 12 r s)

/-- `COMMIT_CHECK_DONE` (R369). -/
def execCommitCheckDone (s : State) : Host.Outcome State Fault Refusal := .next (checksDone s)

/-- `COMMIT_NOW` (R370). -/
def execCommitNow (r : Req) (s : State) : Host.Outcome State Fault Refusal := .next (if vitalOrUpdate r then commitNow s else notVoted 12 r s)

/-- `COMMIT_CANCEL` (R370). -/
def execCommitCancel (r : Req) (s : State) : Host.Outcome State Fault Refusal :=
  .next (if vitalOrUpdate r then setF s LOD_CMTCTL_PEND 0 else notVoted 12 r s)

/-- `COMMIT_STROBE` (R370). -/
def execCommitStrobe (s : State) : Host.Outcome State Fault Refusal := .next (strobe s)

/-- `TABLE_ECHO` (R372). -/
def execTableEcho (s : State) : Host.Outcome State Fault Refusal := .next (echoTable s)

/-- `TABLE_CRC_CHECK` (R361): the check fails. -/
def execTableCrcCheck (s : State) : Host.Outcome State Fault Refusal :=
  .next (if s.lod.table.isSome then pushLod (recordCause 255 12 0 VITAL ⟨1, 0xD, 0x11, 0x00⟩ [] s) else s)

/-- `INTERNAL_FAULT` (R361): the oscillator monitor trips, or evaluation copies differ at macro `mac` of the evaluator. -/
def execInternalFault (osc : Bool) (mac : Fin 3) (s : State) : Host.Outcome State Fault Refusal :=
  .next (pushLod (recordCause 255 13 0 VITAL (if osc then ⟨1, 0xD, 0x12, 0xFF⟩ else ⟨1, 0xD, 0x10, mac.val⟩) [] (modLod s fun l => { l with internal := true })))

end Sys2Proof.Machine
end

