-- ==== Sys2Proof/Machine/Analog.lean ====
section
/-! DEFINITION. The analog channels, their front ends and the trims of the Binnacle panel (R379–R398, R530–R532). -/

namespace Sys2Proof.Machine

/-- Channel n. -/
def anlCh (s : State) (n : Nat) : AnlCh := s.anl.getD n {}

/-- Change channel n. -/
def modAnl (n : Nat) (s : State) (f : AnlCh → AnlCh) : State := { s with anl := modAt s.anl n f }

/-- The front end of channel n with macro m (R379). -/
def afeLoc (n m : Nat) : Loc := ⟨4, 0xE, n, m⟩

/-- The interface of channel n with macro m (R379). -/
def aifLoc (n m : Nat) : Loc := ⟨0, 0xC, 0x80 + n, m⟩

/-- The channel is not idle: it is enabled, and its firmware and calibration have not failed at start-up (R392, R505). -/
def anlOn (s : State) (n : Nat) : Bool :=
  onF s ANL_CTRL_EN && onF s (ANL_CHCFG_EN n) && !onF s (UPD_UNIT_1_FAILED (8 + n)) && !onF s (UPD_UNIT_1_FAILED (16 + n))

/-! ### The target current (R381, R382) -/

/-- A trim held at ±999 (R397). -/
def trimVal (v : Nat) : Int := clampInt 999 (sgn 11 v)

def almLo (s : State) (n : Nat) : Nat := orElse (liveF s (ANL_CHCFG_ALMLO n)) 3200 3600 3500
def almHi (s : State) (n : Nat) : Nat := orElse (liveF s (ANL_CHCFG_ALMHI n)) 21000 23000 21500

/-- CMODE in force; 3 is taken as 0 (R397). -/
def cmode (s : State) (n : Nat) : Nat := liveF s (ANL_CHSP_CMODE n) % 3

/-- The basis current (R381). -/
def basis (s : State) (n : Nat) : Nat :=
  if cmode s n = 1 then almLo s n else if cmode s n = 2 then almHi s n else min 20500 (max 3800 (liveF s (ANL_CHSP_SP n)))

/-- The target in 10⁻⁵ µA, exactly, then rounded to 1 µA (R382). -/
def trimmed (ib : Nat) (zero span : Int) : Nat :=
  let x := 100000 * (4000 : Int) + ((ib : Int) - 4000) * (100000 + span) + zero * 10000
  if x % 100000 = 50000 ∧ Config.roundUp x = false then (x / 100000).toNat else ((x + 50000) / 100000).toNat

/-- The Binnacle trim is open on channel n. -/
def trimOpenOn (s : State) (n : Nat) : Bool := decide (2 ≤ s.binn.step) && s.binn.sel == n

/-- The target current of channel n (R382, R395). -/
def targetOf (s : State) (n : Nat) : Nat :=
  if trimOpenOn s n then
    if s.binn.step = 2 then trimmed 4000 s.binn.zero s.binn.span else trimmed 20000 s.binn.zero s.binn.span
  else trimmed (basis s n) (trimVal (liveF s (ANL_CHTRIM_ZERO n))) (trimVal (liveF s (ANL_CHTRIM_SPAN n)))

/-! ### The state of a channel -/

/-- The safe current is applied (R390). -/
def safeOn (c : AnlCh) : Bool := c.fe.on && (c.silent || (c.rbmism && c.fe.mmact))

/-- The thermal ceiling of a die temperature (R388). -/
def ceiling (tj : Int) : Nat := if 125 < tj then max 3200 (23000 - 1000 * (tj - 125)).toNat else 65535

/-- The current that the front end aims at: its target or its safe current, and never more than the thermal ceiling (R383, R388, R390, R392). -/
def aim (c : AnlCh) : Nat :=
  if !c.fe.on then 0
  else min (ceiling c.tj) (if !safeOn c || c.fe.safe == 0 then c.fe.target else if c.fe.safe = 1 then c.fe.almlo else if c.fe.safe = 2 then c.fe.almhi else 0)

/-- The front end's own draw in SINK mode, at most 2.9 mA at full clock and 1.2 mA at 250 kHz (R385, R392). -/
def ownDraw (c : AnlCh) (draw : Nat) : Nat := if c.fe.sink then min draw (if c.fallback || !c.fe.on then 1200 else 2900) else 0

/-- The current delivered: the lowest of what the front end aims at and what the loop can carry, and in SINK mode at least its own draw (R383, R385). -/
def delivered (c : AnlCh) (carry draw : Nat) : Nat := max (ownDraw c draw) (min c.iset carry)

/-- The compliance supply of a SOURCE channel in 10 mV: 2.5 V above the terminal, from 5.0 V to 26.0 V; 5.0 V while idle or with safe current ZERO; none in SINK mode (R384, R390,
R392). -/
def compliance (c : AnlCh) : Nat :=
  if c.fe.sink then 0 else if !c.fe.on || (safeOn c && c.fe.safe == 3) then 500 else min 2600 (max 500 (c.vterm + 250))

/-- The regulator and the compliance supply follow; a firmware switch freezes them (R383, R384, R391). -/
def regulate (c : AnlCh) : AnlCh := if c.hold then c else { c with iset := aim c, vset := compliance c }

/-- Copy one true condition into its `ANL_CHSTAT` bit; where it is newly set, `act` follows. -/
def told (f : Fld) (b : Bool) (act : State → State) (s : State) : State :=
  if onF s f == b then s else if b then act (setF s f 1) else setF s f 0

/-- FAULT with a report (R396, R398). -/
def anlFault (cls : Nat) (l : Loc) (s : State) : State := raise cls l (evtAnl ANL_EVT_FAULT s)

/-- The front end regulates as its channel now stands, and while the link is up the interface knows its conditions (R383, R384, R390, R393, R396–R398). -/
def syncAnl (n : Nat) (s0 : State) : State :=
  let s := modAnl n s0 regulate
  let c := anlCh s n
  let s1 := setB s (ANL_CHSTAT_ACTIVE n) (anlOn s n && !c.hold)
  if !onF s (ANL_CHSTAT_LINK n) then s1
  else
    let s2 := told (ANL_CHSTAT_FALLBACK n) c.fallback (fun t => raise NOTE (afeLoc n 0x04) (evtAnl ANL_EVT_FALLBACK (incF t (ANL_CHCNT_FALLBACK n)))) s1
    let s3 := told (ANL_CHSTAT_HEADROOM n) c.headroom (fun t => anlFault NOTE (afeLoc n (if c.fe.sink then 0x04 else 0x03)) (incF t (ANL_CHCNT_HEADROOM n))) s2
    let s4 := told (ANL_CHSTAT_FOLDBACK n) c.foldback (anlFault MINOR (afeLoc n 0x06)) s3
    let s5 := told (ANL_CHSTAT_OPEN n) c.openLoop (anlFault MINOR (afeLoc n 0x00)) s4
    let s6 := told (ANL_CHSTAT_RBMISM n) c.rbmism (fun t => anlFault MINOR (afeLoc n 0x02) (incF t (ANL_CHCNT_RBMISM n))) s5
    let s7 := told (ANL_CHSTAT_SAFE n) (safeOn c) (anlFault MINOR (afeLoc n 0x05)) s6
    setB s7 (ANL_CHSTAT_HOLD n) c.hold

/-! ### The Binnacle trim (R395) -/

/-- Change the panel. -/
def modBinn (s : State) (f : Binn → Binn) : State := { s with binn := f s.binn }

/-- Show a message for 2 s. -/
def showMsg (m : Nat) (s : State) : State := modBinn s fun b => { b with msg := m, msgEnd := freeCnt s + 2000000000 }

/-- A trim closes; TRIMOPEN and the channel's TRIM end. -/
def closeTrim (s : State) : State :=
  let s1 := if 2 ≤ s.binn.step then setF s (ANL_CHSTAT_TRIM s.binn.sel) 0 else s
  modBinn (setF s1 ANL_STAT_TRIMOPEN 0) fun b => { b with step := 0, sel := 0, shown := false }

/-- The event and report of a trim that was stored or aborted; before a channel is chosen the report names none (R398). -/
def trimReport (s0 s : State) : State :=
  let n := if 2 ≤ s0.binn.step then 0x80 + s0.binn.sel else 0xFF
  raise NOTE ⟨0, 0xC, n, 0xFF⟩ (evtAnl ANL_EVT_TRIM s)

/-- A trim is aborted: the old trims stay and `ABRT` is shown. -/
def abortTrim (s : State) : State :=
  if s.binn.step = 0 then s else showMsg (chars 0x41 0x42 0x52 0x54) (trimReport s (closeTrim s))

/-- A trim that is open on channel n is aborted. -/
def abortOn (n : Nat) (s : State) : State := if trimOpenOn s n then abortTrim s else s

/-- Trims of channel n come into force and into the trim memory (R394, R395). -/
def storeTrim (n ze span src : Nat) (s : State) : State :=
  let z := ANL_CHTRIM_ZERO n
  let p := ANL_CHTRIM_SPAN n
  modAnl n (setF (setLive (setLive (setF (setF s z ze) p span) z ze) p span) (ANL_CHTRIM_TSRC n) src) fun c => { c with trim := (ze, span, src) }

/-- The last step: the new trims are stored and `DONE` is shown. -/
def finishTrim (s : State) : State :=
  showMsg (chars 0x44 0x4F 0x4E 0x45)
    (trimReport s (closeTrim (storeTrim s.binn.sel (ofInt 11 s.binn.zero) (ofInt 11 s.binn.span) 2 s)))

/-- The value under adjustment changes by d and stops at ±999. -/
def adjust (d : Int) (s : State) : State :=
  if s.binn.step = 2 then modBinn s fun b => { b with zero := clampInt 999 (b.zero + d), shown := true }
  else if s.binn.step = 3 then modBinn s fun b => { b with span := clampInt 999 (b.span + d), shown := true }
  else s

/-- SET pressed in a trim: the choice, or the next step; a channel that is idle cannot be chosen. -/
def pressSet (s : State) : State :=
  let b := s.binn
  if b.step = 1 then
    if b.sel = 9 then closeTrim s
    else if b.sel = 0 ∨ !anlOn s (b.sel - 1) then s
    else
      let n := b.sel - 1
      let z := trimVal (liveF s (ANL_CHTRIM_ZERO n))
      let p := trimVal (liveF s (ANL_CHTRIM_SPAN n))
      let s1 := setF (setF (setF s (ANL_CHSTAT_TRIM n) 1) ANL_STAT_TRIMOPEN 1) ANL_STAT_TRIMCH n
      modBinn s1 fun b => { b with step := 2, sel := n, shown := false, zero := z, span := p }
  else if b.step = 2 then modBinn s fun b => { b with step := 3, shown := false }
  else if b.step = 3 then finishTrim s
  else s

/-- A short ADJ press: the next choice, a value raised by 1, or the next information page (R395, R532). -/
def shortAdj (s : State) : State :=
  if s.binn.step = 1 then modBinn s fun b => { b with sel := b.sel % 9 + 1 }
  else if s.binn.step = 0 then modBinn s fun b => { b with page := b.page % 3 + 1 }
  else adjust 1 s

/-- What a button does (R395, R530, R532). -/
def button (adj : Bool) (ev : BtnEv) (s : State) : State :=
  let f := if adj then SYS_BINN_ADJ else SYS_BINN_SET
  match ev with
  | .press =>
    let s1 := modBinn (setF s f 1) fun b => { b with last := freeCnt s }
    if adj then s1 else pressSet s1
  | .held => if adj && onF s f then adjust (-1) s else s
  | .release ms =>
    let s1 := setF s f 0
    if adj && onF s f && decide (ms < 500) then shortAdj s1 else s1

/-- The module runs: start-up has begun and Pilot mode has not (R475, R507). -/
def moduleRuns (s : State) : Bool := let v := getF s SYS_BOOT_STAGE; decide (1 ≤ v) && decide (v ≤ 7)

/-- SET has been held for 3 s (R395). -/
def openTrim (s : State) : State :=
  if !moduleRuns s || s.binn.step != 0 then s
  else if !onF s ANL_CTRL_BINTRIM then showMsg (chars 0x4C 0x4F 0x43 0x4B) s
  else modBinn s fun b => { b with step := 1, sel := 0, shown := false, page := 0, last := freeCnt s }

/-! ### Setpoint frames (R382, R390, R392) -/

/-- A register of channel n whose writes wait while the safe current is applied, a trim is open or a firmware switch holds (R390, R391, R395). -/
def spWaits (s : State) (n : Nat) : Bool := onF s (ANL_CHSTAT_SAFE n) || trimOpenOn s n || (anlCh s n).hold

/-- The boundary of channel n: its live fields take effect, `ANL_CHSP` unless it waits; a trim written by command comes into force with TSRC 1 (R31, R382, R394). -/
def anlBoundary (n : Nat) (s : State) : State :=
  let page := 0x200b010000 + n * 0x1000
  let waits := spWaits s n
  let due (p : Nat × Nat) : Bool := let a := p.1 / 64; decide (page ≤ a) && decide (a < page + 0x1000) && !(waits && a == page + 8)
  let mine := s.pendL.filter due
  let s1 := { s with live := mine.foldl (fun m p => kput 0 m p.1 p.2) s.live, pendL := s.pendL.filter fun p => !due p }
  if mine.any fun p => p.1 / 64 == page + 0x10 then storeTrim n (getF s (ANL_CHTRIM_ZERO n)) (getF s (ANL_CHTRIM_SPAN n)) 1 s1 else s1

/-- The configuration that a frame carries to the front end. -/
def feCfg (s : State) (n target : Nat) : FeCfg :=
  { on := anlOn s n, sink := onF s (ANL_CHCFG_MODE n), safe := getF s (ANL_CHCFG_SAFE n), mmact := onF s (ANL_CHCFG_MMACT n), almlo := almLo s n, almhi := almHi s n, target := target }

/-- The interface of channel n sends frames: its clock runs, and the module is not in the safe state (R399, R426). -/
def sendsSetpoints (s : State) : Bool := onF s ANL_CTRL_EN && !onF s SYS_MSTAT_MSAFE && clocked s 0xC

/-- Whether the front end acts on its latest setpoint frame: in fall-back only at its own step of 1.6 ms, and not while it applies the safe current (R383, R385, R390). -/
def feActs (s : State) (c : AnlCh) : Bool := !safeOn c && (!c.fallback || decide (c.stepAt + 1600000 ≤ freeCnt s))

/-- The front end acts on the latest setpoint frame that it has received, when it may (R385, R390). -/
def feStep (n : Nat) (s : State) : State :=
  let c := anlCh s n
  match c.latest with
  | some f =>
    if feActs s c then syncAnl n (modAnl n s fun c => { c with fe := f, latest := none, stepAt := freeCnt s, foldback := c.fe.on && decide (ceiling c.tj < f.target) }) else s
  | none => s

/-- A firmware switch in progress on the front end has ended, and the timeouts of both sides begin again; where it failed, the safe current applies until the front end runs (R391, R501). -/
def unholdAnl (n : Nat) (failed : Bool) (s : State) : State :=
  let d : Fin 8 := ⟨n % 8, by omega⟩
  let s0 : State := { s with linkAt := kput 0 (kput 0 s.linkAt (linkKey (.ana d) false) (freeCnt s + 1)) (linkKey (.ana d) true) (freeCnt s + 1) }
  let s1 := syncAnl n (modAnl n s0 fun c => { c with hold := false, silent := c.silent || (failed && c.fe.on) })
  if safeOn (anlCh s1 n) then abortOn n s1 else s1

/-- A hold whose switch the module knows no more, after a reset, ends after its 50 ms (R391). -/
def holdOver (n : Nat) (s : State) : State :=
  if (anlCh s n).hold && (kget none s.upd.pend (8 + n)).isNone && decide ((anlCh s n).holdAt + 50000000 ≤ freeCnt s) then unholdAnl n false s else s

/-- A setpoint frame has arrived, valid or not: the time of the last valid one, and since when they have come without a break, which a frame that is late by more than its own period of
100 µs also is (R390, R407; notes/assumptions/66.md). -/
def heardFrame (n : Nat) (valid : Bool) (s : State) : State :=
  let k := linkKey (.ana ⟨n % 8, by omega⟩) false
  let now := freeCnt s + 1
  if valid then
    modAnl n { s with linkAt := kput 0 s.linkAt k now } fun c => { c with goodAt := if c.goodAt = 0 ∨ kget 0 s.linkAt k + 200000 < now then now else c.goodAt }
  else modAnl n s fun c => { c with goodAt := 0 }

/-- A setpoint frame of channel n; where it does not arrive valid, the front end keeps what it has (R382, R385). -/
def setpointFrame (n : Nat) (valid : Bool) (s0 : State) : State :=
  let s := holdOver n s0
  if !sendsSetpoints s then feStep n s
  else
    let s1 := anlBoundary n s
    let t := targetOf s1 n
    let s2 := heardFrame n valid (emit (modAnl n s1 fun c => { c with target := t }) (.signal .anaLink n 0 t))
    feStep n (if valid then modAnl n s2 fun c => { c with latest := some (feCfg s1 n t) } else s2)

/-- A channel becomes idle: its conditions end; RBMISM stays (R389, R392). -/
def idleCh (n : Nat) (s : State) : State :=
  if anlOn s n || !(anlCh s n).fe.on then s
  else
    modAnl n (abortOn n s) fun c =>
      { c with fe := { c.fe with on := false }, latest := none, fallback := false, headroom := false, foldback := false, openLoop := false, silent := false, hdSpan := 0, opSpan := 0 }

/-- A channel starts at the target of `ANL_CHSP` (R392). -/
def startCh (n : Nat) (s : State) : State :=
  if !anlOn s n || (anlCh s n).fe.on then s
  else
    let s1 := anlBoundary n s
    let t := targetOf s1 n
    modAnl n s1 fun c => { c with fe := feCfg s1 n t, latest := none, target := t, hdSpan := 0, opSpan := 0 }

/-- The channels follow their EN (R392). -/
def followEn (n : Nat) (s : State) : State := syncAnl n (startCh n (idleCh n s))

/-- A write of EN of a channel or of the block. -/
def enableAnl (chan : Option Nat) (en : Bool) (s : State) : State :=
  match chan with
  | some n => followEn n (abortIf n (setB s (ANL_CHCFG_EN n) en))
  | none => forN (fun n t => followEn n (abortIf n t)) 0 8 (let t := setB s ANL_CTRL_EN en; if en then t else abortTrim t)
where
  /-- A disabled channel aborts its trim (R395). -/
  abortIf (n : Nat) (s : State) : State := if anlOn s n then s else abortOn n s

/-! ### Readback and conditions (R386–R389) -/

/-- One more readback for a condition: 1 + the span it has held. -/
def spanOn (b : Bool) (step n : Nat) : Nat := if b then (if n = 0 then 1 else min (n + step) 100) else 0

/-- The condition of HEADROOM (R386). -/
def hdCond (c : AnlCh) : Bool :=
  c.fe.on && if c.fe.sink then decide (c.vterm < 700) else decide (2600 ≤ c.vcomp) && decide (c.irb + 100 < c.fe.target)

/-- The condition of OPEN (R387). -/
def opCond (c : AnlCh) : Bool := c.fe.on && !c.fe.sink && decide (2600 ≤ c.vcomp) && decide (c.irb < 1000)

/-- |a − b|. -/
def apart (a b : Nat) : Nat := (a - b) + (b - a)

/-- What a converter reads of a current that it mistakes by `dev` µA (R380, R389). -/
def measured (i : Nat) (dev : Int) : Nat := min 65535 ((i : Int) + dev).toNat

/-- A readback: the current the loop can carry and the front end's own draw, the deviations of the two measurements, and whether the two references differ by more than 0.1 % (R383,
R386–R389). -/
def readbackCh (c00 : AnlCh) (carry draw : Nat) (dpri drb : Int) (vterm vcomp : Nat) (tj : Int) (refs : Bool) : AnlCh :=
  let c0 := regulate { c00 with tj := tj, vterm := vterm }
  let ipri := measured (delivered c0 carry draw) dpri
  let irb := measured (delivered c0 carry draw) drb
  let c := { c0 with ipri := ipri, irb := irb, vterm := vterm, vcomp := if c0.fe.sink then 0 else vcomp, tj := tj, fresh := true }
  let step := if c.fallback then 16 else 1
  let mi := if 40 < apart ipri irb then min (c.misI + 1) 3 else 0
  let mr := if refs then min (c.misRef + 1) 3 else 0
  { c with hdSpan := spanOn (hdCond c) step c.hdSpan, opSpan := spanOn (opCond c) step c.opSpan, headroom := c.headroom && hdCond c, openLoop := c.openLoop && opCond c, foldback := c.fe.on && decide (ceiling tj < c.fe.target), misI := mi, misRef := mr, clean := if mi = 0 ∧ mr = 0 then min (c.clean + 1) 3 else 0, rbmism := c.rbmism || decide (3 ≤ mi) || decide (3 ≤ mr) }

/-- A safe current that has newly been applied aborts a trim on the channel (R395). -/
def afterSafe (n : Nat) (s : State) : State := if safeOn (anlCh s n) then abortOn n s else s

/-- A readback of channel n; during a firmware switch none is taken (R391). -/
def readbackAnl (n carry draw : Nat) (dpri drb : Int) (vterm vcomp : Nat) (tj : Int) (refs : Bool) (s0 : State) : State :=
  let s := feStep n (holdOver n s0)
  if (anlCh s n).hold then s else afterSafe n (syncAnl n (modAnl n s fun c => readbackCh c carry draw dpri drb vterm vcomp tj refs))

/-- HEADROOM: its condition has held for 20 ms and that of OPEN has not (R386, R387). -/
def setHeadroom (n : Nat) (s : State) : State :=
  let c := anlCh s n
  if 21 ≤ c.hdSpan ∧ c.opSpan < 21 then syncAnl n (modAnl n s fun c => { c with headroom := true }) else s

/-- OPEN in place of HEADROOM (R387). -/
def setOpen (n : Nat) (s : State) : State :=
  if 21 ≤ (anlCh s n).opSpan then syncAnl n (modAnl n s fun c => { c with openLoop := true, headroom := false }) else s

/-- The front end enters fall-back; a second entry within 1 s of leaving holds it there for 10 s (R385). -/
def enterFallback (n : Nat) (s : State) : State :=
  let c := anlCh s n
  if !c.fe.on || !c.fe.sink || c.fallback then s
  else
    let soon := c.fbLeft != 0 && decide (freeCnt s < c.fbLeft - 1 + 1000000000)
    syncAnl n (modAnl n s fun c => { c with fallback := true, fbAt := freeCnt s, fbHold := if soon then freeCnt s + 10000000000 else 0 })

/-- It returns to full clock after 100 ms, or after the hold (R385). -/
def leaveFallback (n : Nat) (s : State) : State :=
  let c := anlCh s n
  if c.fallback && decide (c.fbAt + 100000000 ≤ freeCnt s) && decide (c.fbHold ≤ freeCnt s)
  then feStep n (syncAnl n (modAnl n s fun c => { c with fallback := false, fbLeft := freeCnt s + 1 })) else s

/-- No valid setpoint frame for 10 ms (R390, R391). -/
def feSilent (n : Fin 8) (s0 : State) : State :=
  let s := holdOver n s0
  let c := anlCh s n
  if !c.fe.on || c.hold || !linkSilent (.ana n) false 10000000 s then s else afterSafe n (syncAnl n (modAnl n s fun c => { c with silent := true }))

/-- Valid setpoint frames for 10 ms without a break (R390). -/
def safeRelease (n : Nat) (s : State) : State :=
  let c := anlCh s n
  if sendsSetpoints s && c.silent && c.goodAt != 0 && decide (c.goodAt + 10000000 ≤ freeCnt s + 1) then feStep n (syncAnl n (modAnl n s fun c => { c with silent := false })) else s

/-- `CLRF` (R389). -/
def clearMism (n : Nat) (s : State) : State :=
  if 3 ≤ (anlCh s n).clean then feStep n (syncAnl n (modAnl n s fun c => { c with rbmism := false })) else s

/-! ### Status frames and publication (R390, R393) -/

/-- The status byte of a channel. -/
def anlStatus (s : State) (n : Nat) : Nat :=
  let b (f : Nat → Fld) (i : Nat) : Nat := getF s (f n) * 2 ^ i
  b ANL_CHSTAT_HEADROOM 0 + b ANL_CHSTAT_FOLDBACK 1 + b ANL_CHSTAT_OPEN 2 + b ANL_CHSTAT_RBMISM 3 + b ANL_CHSTAT_FALLBACK 4
    + b ANL_CHSTAT_SAFE 5 + b ANL_CHSTAT_TRIM 6 + (if cmode s n = 0 then 0 else 128)

/-- Its quality: VALID, LIMITED (R223, R393). -/
def anlQual (s : State) (n : Nat) : Nat :=
  (if onF s (ANL_CHSTAT_RBMISM n) then 0 else 1)
    + (if onF s (ANL_CHSTAT_HEADROOM n) || onF s (ANL_CHSTAT_OPEN n) || onF s (ANL_CHSTAT_FOLDBACK n) then 32 else 0)

/-- The VALUE of a channel's entry. -/
def anlValue (s : State) (n : Nat) : List Byte :=
  (toLE 2 (getF s (ANL_CHRB_IRB n)) ++ toLE 2 (anlCh s n).target ++ toLE 2 (getF s (ANL_CHRB_VTERM n)) ++ toLE 1 (getF s (ANL_CHRB_TJ n))
    ++ toLE 1 (anlStatus s n) ++ List.replicate 8 0)

/-- The channel has a signal to publish; a quiesced ANL island offers no Chart write (R414). -/
def anlPub (s : State) (n : Nat) : Bool := onL s (ANL_CHSIG_PUB n) && liveF s (ANL_CHSIG_SIGID n) != 0 && !onF s (SYS_ISL_QUIESCE 0xC)

/-- Write channel n's entry, after the readings of field channels that came before it (R229). -/
def writeAnl (n : Nat) (value : List Byte) (ts qual : Nat) (s : State) : State :=
  sendChart (liveF s (ANL_CHSIG_SIGID n)) (21 * 2048 + n) value ts qual (serveFields s)

/-- Publish the latest readback of channel n. -/
def publishAnl (n : Nat) (s : State) : State :=
  let v := anlValue s n
  writeAnl n v (anlCh s n).rbTs (anlQual s n)
    (modAnl n s fun c => { c with pub := some (getF s (ANL_CHRB_IRB n), anlStatus s n, anlQual s n), pubVal := v })

/-- The publication is due: the readback has moved by DEADBAND, or status or quality has changed. -/
def anlDue (s : State) (n : Nat) (fresh : Bool) : Bool :=
  match (anlCh s n).pub with
  | none => true
  | some p => (fresh && decide (max 1 (liveF s (ANL_CHSIG_DEADBAND n)) ≤ apart (getF s (ANL_CHRB_IRB n)) p.1))
      || anlStatus s n != p.2.1 || anlQual s n != p.2.2

/-- A LINK bit of channel n. -/
def setAnlLink (n : Nat) (b : Bool) (s : State) : State :=
  evtAnl ANL_EVT_LINKCHG (setFBit (setB s (ANL_CHSTAT_LINK n) b) ANL_STAT_LINK n b)

/-- The link comes up: the front end's stored trims show in `ANL_CHTRIM` unless newer ones wait (R394). -/
def anlLinkUp (n : Nat) (s : State) : State :=
  let s1 := setAnlLink n true s
  let t := (anlCh s n).trim
  if s.pendL.any fun p => p.1 / 64 == (ANL_CHTRIM_ZERO n).addr then s1 else storeTrim n t.1 t.2.1 t.2.2 s1

/-- A valid status frame of channel n. -/
def statusFrame (n : Nat) (s : State) : State :=
  if !onF s ANL_CTRL_EN || !clocked s 0xC then s
  else
    let s0 : State := { s with linkAt := kput 0 s.linkAt (linkKey (.ana ⟨n % 8, by omega⟩) true) (freeCnt s + 1) }
    let s1 := syncAnl n (if onF s0 (ANL_CHSTAT_LINK n) then s0 else anlLinkUp n s0)
    let c := anlCh s1 n
    let s2 := if c.fresh then
        let t := setF (setF (setF (setF (setF s1 (ANL_CHRB_IRB n) c.irb) (ANL_CHRB_IPRI n) c.ipri) (ANL_CHRB_VTERM n) c.vterm) (ANL_CHRB_VCOMP n) c.vcomp) (ANL_CHRB_TJ n) (ofInt 8 (max (-128) (min 127 c.tj)))
        modAnl n t fun c => { c with fresh := false, carried := true, rbTs := ts64 s }
      else s1
    if anlPub s2 n && anlOn s2 n && (anlCh s2 n).carried && anlDue s2 n c.fresh then publishAnl n s2 else s2

/-- A cycle start: the channels with REFRESH publish their latest readback (R393). -/
def refreshAnl (s : State) : State :=
  forN (fun n t => if anlPub t n && anlOn t n && (anlCh t n).carried && onL t (ANL_CHSIG_REFRESH n) && onF t (ANL_CHSTAT_LINK n) then publishAnl n t else t) 0 8 s

/-- No valid status frame for 20 ms (R390, R393, R395, R398). -/
def anlLinkLost (n : Fin 8) (s0 : State) : State :=
  let s := holdOver n s0
  if !onF s (ANL_CHSTAT_LINK n) || (anlCh s n).hold || !linkSilent (.ana n) true 20000000 s then s
  else
    let s1 := abortOn n (raise MINOR (aifLoc n 0x00) (incF (setAnlLink n false s) (ANL_CHCNT_LINKLOSS n)))
    if anlPub s1 n then
      writeAnl n (anlCh s1 n).pubVal (anlCh s1 n).rbTs (anlQual s1 n - anlQual s1 n % 2) (modAnl n s1 fun c => { c with pub := none })
    else s1

/-! ### Firmware switches (R391) -/

/-- The front end starts to switch firmware. -/
def holdAnl (n : Nat) (s : State) : State := syncAnl n (modAnl n s fun c => { c with hold := true, holdAt := freeCnt s, hdSpan := 0, opSpan := 0 })

/-! ### The commands -/

/-- `SETPOINT_FRAME` (R382); `valid` tells whether it arrives valid. -/
def execSetpointFrame (n : Fin 8) (valid : Bool) (s : State) : Host.Outcome State Fault Refusal := onIsland 0xc s fun s => .next (setpointFrame n.val valid s)

/-- `ANL_STATUS_FRAME` (R393). -/
def execAnlStatusFrame (n : Fin 8) (s : State) : Host.Outcome State Fault Refusal := onIsland 0xc s fun s => .next (statusFrame n.val s)

/-- `ANALOG_READBACK` (R389): the current that the loop can carry and the draw of the front end in µA, what the two measurements deviate by, voltages in 10 mV, die temperature in °C, and
whether the references disagree. -/
def execAnalogReadback (n : Fin 8) (carry draw : BitVec 16) (dpri drb : Int) (vterm vcomp : BitVec 12) (tj : Int) (refs : Bool) (s : State) :
    Host.Outcome State Fault Refusal :=
  .next (readbackAnl n.val carry.toNat draw.toNat dpri drb vterm.toNat vcomp.toNat tj refs s)

/-- `HEADROOM` (R386). -/
def execHeadroom (n : Fin 8) (s : State) : Host.Outcome State Fault Refusal := .next (setHeadroom n.val s)

/-- `OPEN` (R387). -/
def execOpenLoop (n : Fin 8) (s : State) : Host.Outcome State Fault Refusal := .next (setOpen n.val s)

/-- `FALLBACK_ENTER` (R385). -/
def execFallbackEnter (n : Fin 8) (s : State) : Host.Outcome State Fault Refusal := .next (enterFallback n.val s)

/-- `FALLBACK_LEAVE` (R385). -/
def execFallbackLeave (n : Fin 8) (s : State) : Host.Outcome State Fault Refusal := .next (leaveFallback n.val s)

/-- `ANL_LINK_SILENT` (R390). -/
def execAnlLinkSilent (n : Fin 8) (s : State) : Host.Outcome State Fault Refusal := .next (feSilent n s)

/-- `ANL_SAFE_RELEASE` (R390). -/
def execAnlSafeRelease (n : Fin 8) (s : State) : Host.Outcome State Fault Refusal := .next (safeRelease n.val s)

/-- `ANL_INTERFACE_LINK_LOSS` (R390). -/
def execAnlInterfaceLinkLoss (n : Fin 8) (s : State) : Host.Outcome State Fault Refusal := onIsland 0xc s fun s => .next (anlLinkLost n s)

/-- `ANL_CLRF` (R389). -/
def execAnlClrf (r : Req) (n : Fin 8) (s : State) : Host.Outcome State Fault Refusal := reached 0xc r s fun s => .next (clearMism n.val s)

/-- `ANL_ENABLE_WRITE` (R392): EN of a channel, or of the block where none is named. -/
def execAnlEnableWrite (r : Req) (chan : Option (Fin 8)) (en : Bool) (s : State) : Host.Outcome State Fault Refusal :=
  reached 0xc r s fun s =>
  .next (enableAnl (chan.map (·.val)) en s)

/-- A write to `ANL_CHTRIM` (R394); while a trim is open on the channel it is UB-21, and the trims take free values. -/
def writeTrim (n ze span : Nat) (s : State) : State :=
  if trimOpenOn s n then
    let s1 := setFree (setFree s (ANL_CHTRIM_ZERO n)) (ANL_CHTRIM_SPAN n)
    storeTrim n (getF s1 (ANL_CHTRIM_ZERO n)) (getF s1 (ANL_CHTRIM_SPAN n)) 1 s1
  else writeFld (rwsLocked s (ANL_CHTRIM_SPAN n)) (writeFld (rwsLocked s (ANL_CHTRIM_ZERO n)) s (ANL_CHTRIM_ZERO n) ze) (ANL_CHTRIM_SPAN n) span

/-- `TRIM_WRITE` (R394). -/
def execTrimWrite (r : Req) (n : Fin 8) (ze span : BitVec 11) (s : State) : Host.Outcome State Fault Refusal :=
  reached 0xc r s fun s =>
  .next (writeTrim n.val ze.toNat span.toNat s)

/-- `BINNACLE_TRIM_OPEN` (R395): SET is down and has been held for 3 s. -/
def execBinnacleTrimOpen (s : State) : Host.Outcome State Fault Refusal :=
  .next (if onF s SYS_BINN_SET && decide (s.binn.last + 3000000000 ≤ freeCnt s) then openTrim s else s)

/-- `BINNACLE_BUTTON` (R395, R532). -/
def execBinnacleButton (adj : Bool) (ev : BtnEv) (s : State) : Host.Outcome State Fault Refusal := .next (button adj ev s)

/-- `BINNACLE_TRIM_ABORT` (R395): 60 s have passed without a press. -/
def execBinnacleTrimAbort (s : State) : Host.Outcome State Fault Refusal :=
  .next (if s.binn.last + 60000000000 ≤ freeCnt s then abortTrim s else s)

/-- `INFO_PAGE_TIMEOUT` (R532). -/
def execInfoPageTimeout (s : State) : Host.Outcome State Fault Refusal :=
  .next (if s.binn.last + 3000000000 ≤ freeCnt s then modBinn s fun b => { b with page := 0 } else s)

end Sys2Proof.Machine
end

