-- ==== Sys2Proof/Machine/Logbook.lean ====
section
/-! DEFINITION. The Logbook: triggers, snapshots, records, repeats, flushes, reading and clearing (R450–R468). -/

namespace Sys2Proof.Machine

/-- Change the Logbook's own state. -/
def modLog (s : State) (f : Logb → Logb) : State := { s with logb := f s.logb }

/-- The requester code of the Logbook engine (R453). -/
def logReq : Nat := 0x4E

/-- The Logbook engine as a requester. -/
def logWho : Req := .engine 14 0

/-! ### Records (R455, R456) -/

/-- A record's length in bytes. -/
def LogRec.len (r : LogRec) : Nat := 32 + r.payload.length

/-- The 32-byte header of a record. -/
def recHeader (r : LogRec) : List Byte :=
  toLE 4 r.seq ++ toLE 2 r.len ++ toLE 1 r.trig ++ toLE 1 r.flags ++ toLE 12 r.first ++ toLE 8 r.last ++ toLE 2 r.rep ++ toLE 1 r.items ++ [0]

/-- A record's bytes. -/
def recBytes (r : LogRec) : List Byte := recHeader r ++ r.payload

/-- A payload padded to whole codewords and to at least 32 bytes. -/
def padPayload (p : List Byte) : List Byte :=
  p ++ List.replicate (max 32 ((p.length + 31) / 32 * 32) - p.length) 0

/-- Bytes of unflushed records. -/
def unflushed (s : State) : Nat := s.logb.buf.foldl (fun n r => n + r.len) 0

/-- The oldest record held, or NEXT (R467). -/
def oldestSeq (s : State) : Nat :=
  match s.logb.dir, s.logb.buf with
  | d :: _, _ => d.seq
  | [], r :: _ => r.seq
  | [], [] => s.logb.next

/-- The registers show the pointers and fills (R467). -/
def showLog (s : State) : State :=
  let unf := match s.logb.buf with
    | r :: _ => r.seq
    | [] => s.logb.next
  setF (setF (setF (setF (setF s LOG_SEQ_OLDEST (oldestSeq s)) LOG_SEQ_NEXT s.logb.next) LOG_FLSEQ_FIRSTUNF unf) LOG_STAT_PEND s.logb.queue.length)
    LOG_STAT_UNFL (unflushed s / 1024)

/-- The first loss in each second is reported (R468). -/
def reportLoss (mac : Nat) (s : State) : State :=
  let sec := freeCnt s / 1000000000 + 1
  if s.logb.lostSec = sec then s else raise MINOR (logLoc mac) (modLog s fun l => { l with lostSec := sec })

/-! ### Flushes (R460, R461) -/

/-- Start a flush of what is unflushed now, or a further one after the running one. -/
def startFlush (s : State) : State :=
  if onF s LOG_STAT_FLUSHING then modLog s fun l => { l with again := true }
  else modLog (setF s LOG_STAT_FLUSHING 1) fun l => { l with inFlush := l.buf.length, written := 0, wrapSaid := false, again := false }

/-- The Logbook region (R81, R462). -/
def logBase : Nat := 0x1040000000
def logSize : Nat := 671088640

/-- The oldest records that a write at pos would overwrite are dropped whole (R462). -/
def dropOld : List LogDir → Nat → Nat → List LogDir
  | [], _, _ => []
  | d :: r, pos, n => if meets d.pos d.len pos n then dropOld r pos n else d :: r

/-- Old records were overwritten. -/
def wrapped (s : State) : State :=
  let s1 := evtLog LOG_EVT_WRAP s
  if s.logb.wrapSaid then s1 else raise NOTE (logLoc 0x03) (modLog s1 fun l => { l with wrapSaid := true })

/-- Write one record into the ring; after each 1 MiB the pointers are updated (R462). -/
def placeRec (r : LogRec) (s : State) : State :=
  let n := r.len
  let pos := if logSize < s.logb.head + n then 0 else s.logb.head
  let left := dropOld s.logb.dir pos n
  let s1 := if left.length < s.logb.dir.length then wrapped s else s
  let w := s.logb.written + n
  let all := left ++ [⟨r.seq, pos, n, false⟩]
  let dir := if s.logb.written / 2 ^ 20 < w / 2 ^ 20 then all.map fun d => { d with kept := true } else all
  let s2 := writeMem s1 logReq (logBase + pos) (recBytes r)
  modLog s2 fun l =>
    { l with dir := dir, head := pos + n, written := w, newest := l.newest.map fun x => if x.seq = r.seq then { x with pos := some pos } else x }

/-- Rewrite a header whose record has taken repeats (R458). -/
def rewriteHeader (r : LogRec) (s : State) : State :=
  match r.pos with
  | some p => if s.logb.dir.any fun d => d.seq == r.seq && d.pos == p then writeMem s logReq (logBase + p) (recHeader r) else s
  | none => s

/-- A flush writes its records in SEQ order, then the rewritten headers (R460); that of a power-fail also those appended meanwhile (R461). -/
def writeFlush (s : State) : State :=
  if !onF s LOG_STAT_FLUSHING then s
  else
    let n := if s.pwr.seq = 1 then s.logb.buf.length else s.logb.inFlush
    let mine := s.logb.buf.take n
    let s1 := mine.foldl (fun t r => placeRec r t) s
    let s2 := s.logb.rewrites.foldl (fun t r => rewriteHeader r t) s1
    showLog (modLog s2 fun l => { l with buf := l.buf.drop n, inFlush := 0, rewrites := [] })

/-- FLUSHMS in force (R467). -/
def flushMs (s : State) : Nat := orElse (liveF s LOG_CTRL_FLUSHMS) 100 60000 1000

/-- A flush ends: pointers, FLUSHED, the boundary of the live fields, and a further flush where one is wanted (R460, R462, R467). -/
def endFlush (s0 : State) : State :=
  if !onF s0 LOG_STAT_FLUSHING then s0
  else
    let s := writeFlush s0
    let again := s.logb.again
    let s1 := evtLog LOG_EVT_FLUSHED (incW (setF (takeLive 14 none s) LOG_STAT_FLUSHING 0) LOG_FLSEQ_FLUSHES)
    let s2 := showLog (modLog s1 fun l => { l with flushEnd := freeCnt s, again := false, dir := l.dir.map fun d => { d with kept := true } })
    if again then startFlush s2 else s2

/-- A flush of every unflushed record, to its end (R461). -/
def flushAll (s : State) : State := endFlush (endFlush (startFlush s))

/-! ### Firing (R450, R457, R461) -/

/-- A sequence of R480 lets no trigger fire any more: an orderly shutdown at once, a power-fail after 1 ms (R461, R483). -/
def pastFail (s : State) : Bool := s.pwr.seq == 1 && decide (s.pwr.seqAt + 1000000 < freeCnt s)

/-- Triggers fire (R457, R483). -/
def triggersFire (s : State) : Bool := onF s LOG_CTRL_EN && decide (s.pwr.seq < 2)

/-- A trigger is dropped (R457). -/
def loseTrigger (s : State) : State := reportLoss 0x01 (evtLog LOG_EVT_LOST (incF s LOG_CNT1_LOST))

/-- A trigger fires and takes a place in the queue, or is dropped; while EN is 0 it does not fire, even where its event came before (R457). -/
def fire (f : Fired) (s : State) : State :=
  let s1 := incF s (LOG_TSTAT_FIRED f.trig)
  if !triggersFire s then s
  else if 64 ≤ s.logb.queue.length || pastFail s then loseTrigger s1
  else showLog (modLog s1 fun l => { l with queue := l.queue ++ [{ f with pf := s.pwr.seq == 1 }] })

/-- The kind of trigger g. -/
def kindOf (s : State) (g : Nat) : Nat := getF s (LOG_TCTL_KIND g)

/-- Triggers become due. -/
def makeDue (fs : List Fired) (s : State) : State := modLog s fun l => { l with due := l.due ++ fs }

/-- The FAULT triggers that a report of the collector matches, in ascending number (R450). -/
def matchReport (fl cls ts ef1 : Nat) (s : State) : State :=
  if !triggersFire s then s
  else
    let hit (g : Nat) : Bool := kindOf s g == 1 && decide (min 4 (getF s (LOG_TCTL_MINCLS g)) ≤ cls)
      && ((fl ^^^ getF s (LOG_TMATCH_MATCH g)) &&& getF s (LOG_TMASK_MASK g)) % 2 ^ 59 == 0
    makeDue (((List.range 256).filter hit).map fun g => ({ trig := g, ts := ts, ef0 := fl, ef1 := ef1 } : Fired)) s

/-- What a SIGNAL trigger reads: the masked VALUE and VALID; none where the entry cannot be read. -/
def sigSeen (s : State) (g : Nat) : Option (Nat × Bool) :=
  (entryOf s (getF s (LOG_TCTL_PARAM g))).map fun e => (leAt e.value 0 8 &&& getF s (LOG_TMASK_MASK g), e.valid)

/-- A SIGNAL trigger at a cycle start; the first read sets the reference. -/
def checkSignal (g : Nat) (s : State) : State :=
  let now := sigSeen s g
  let old := kget (none : Option (Nat × Bool)) s.logb.sigRef g
  let s1 := modLog (touchCw logReq s (sigCw (getF s (LOG_TCTL_PARAM g)))) fun l => { l with sigRef := kput none l.sigRef g (if now.isSome then now else old) }
  if triggersFire s && now.isSome && old.isSome && now != old then makeDue [{ trig := g, ts := ts96 s }] s1 else s1

/-- A PERIOD trigger at a cycle start. -/
def checkPeriod (g : Nat) (s : State) : State :=
  let n := kget 0 s.logb.perCnt g + 1
  let p := getF s (LOG_TCTL_PARAM g) % 65536
  let s1 := modLog s fun l => { l with perCnt := kput 0 l.perCnt g (if n = p then 0 else n) }
  if n = p && triggersFire s then makeDue [{ trig := g, ts := ts96 s }] s1 else s1

/-- The triggers of a cycle start: the references and the counts go on while EN is 0 (R450, R457). -/
def logCycle (s : State) : State :=
  forN (fun g t => if kindOf t g = 2 then checkSignal g t else if kindOf t g = 4 then checkPeriod g t else t) 0 256 s

/-! ### Trigger definitions (R452, R453) -/

/-- Item i of trigger g. -/
def itemOf (s : State) (g i : Nat) : Nat := getF s (LOG_TITEM_IKIND g i) + getF s (LOG_TITEM_ADDR g i) * 2 ^ 8 + getF s (LOG_TITEM_MLEN g i) * 2 ^ 48

def iKind (v : Nat) : Nat := bits v 0 3
def iAddr (v : Nat) : Nat := bits v 8 40
def iMlen (v : Nat) : Nat := 8 * (bits v 48 5 + 1)

/-- The bytes an item takes. -/
def iLen (v : Nat) : Nat :=
  if iKind v = 1 ∨ iKind v = 5 then 8 else if iKind v = 2 then 32 else if iKind v = 3 then iMlen v else if iKind v = 4 then 16 else 0

/-- The items of a trigger, up to END. -/
def itemsOf (s : State) (g : Nat) : List Nat := ((List.range 32).map (itemOf s g)).takeWhile fun v => iKind v != 0

/-- The record length of a trigger (R455). -/
def trigLen (s : State) (g : Nat) : Nat :=
  let n := (itemsOf s g).foldl (fun n v => n + iLen v) 0
  32 + max 32 ((n + 31) / 32 * 32)

/-- The first failing check of a definition of a kind (R452). -/
def trigErr (s : State) (g kind : Nat) : Nat :=
  let its := itemsOf s g
  let p := getF s (LOG_TCTL_PARAM g)
  if kind < 1 ∨ 4 < kind then 1
  else if its.any fun v => iKind v ≥ 6 || (iKind v == 4 && kind != 1) || (iKind v == 5 && kind != 3) then 2
  else if its.any fun v => (iKind v == 1 && !(decide (0x2000000000 ≤ iAddr v) && decide (iAddr v ≤ 0x200FFFFFFF) && iAddr v % 8 == 0))
      || (iKind v == 3 && !dramSpan (iAddr v) (iMlen v)) then 3
  else if 4096 < trigLen s g then 4
  else if (kind = 2 ∧ p = 0) ∨ (kind = 4 ∧ (p = 0 ∨ 65535 < p)) then 5
  else if its.isEmpty then 6
  else 0

/-- The selected trigger. -/
def selTrig (s : State) : Nat := getF s LOG_TSEL_TRIG

/-- A write of KIND with the other fields of TCTL as they stand; OFF disables at once, so that what has not fired yet does not fire (R452). -/
def writeKind (g kind : Nat) (s : State) : State :=
  if kindOf s g = 0 then
    if kind = 0 then s
    else
      let e := trigErr s g kind
      let s1 := setF s (LOG_TSTAT_ERR g) e
      if e ≠ 0 then s1
      else
        let s2 := setF (setF (setF (setF s1 (LOG_TCTL_KIND g) kind) (LOG_TSTAT_ACTIVE g) 1) (LOG_TSTAT_LEN g) (trigLen s g)) (LOG_TSTAT_FIRED g) 0
        modLog s2 fun l => { l with sigRef := kput none l.sigRef g none, perCnt := kput 0 l.perCnt g 0 }
  else if kind = 0 then modLog (setF (setF s (LOG_TCTL_KIND g) 0) (LOG_TSTAT_ACTIVE g) 0) fun l => { l with due := l.due.filter fun f => f.trig != g }
  else if kind = kindOf s g then s
  else setF s (LOG_TSTAT_BUSYWR g) 1

/-- A write to `LOG_TCTL`: the other fields first, then KIND; while the trigger is active a write that covers another field is ignored there and sets BUSYWR,
whatever it holds (R452). -/
def writeTctl (size : Nat) (low : Bool) (val : Word) (s : State) : State :=
  let g := selTrig s
  let a := 0x200E000100 + (if low then 0 else 4)
  let fs := [LOG_TCTL_MINCLS g, LOG_TCTL_PARAM g]
  let v := placed a size val
  let mine := fs.filter (covered a size)
  let s1 := if fs.any (spanned size) then raise NOTE (blkLoc 14) s else s
  let s2 := if kindOf s g = 0 then mine.foldl (fun t f => setF t f (bits v f.lo f.w)) s1
    else if !mine.isEmpty then setF s1 (LOG_TSTAT_BUSYWR g) 1 else s1
  if covered a size (LOG_TCTL_KIND g) then writeKind g (bits v 0 3) s2 else s2

/-! ### Capture (R453, R454, R457–R459) -/

/-- A register of an island that does not answer, or of the read windows outside a grant, gives no value (R454, R464). -/
def logRegAnswers (s : State) (a : Nat) : Bool := islandAnswers s (blkIsland (blkOf a))

/-- What an item is recorded as, or nothing where its read fails (R453, R454). -/
def itemBytes (s : State) (f : Fired) (v : Nat) : Option (List Byte) :=
  let a := iAddr v
  match iKind v with
  | 1 => if logRegAnswers s a && !logGuarded a then some (toLE 8 (regItem s a)) else none
  | 2 => readCw s (sigCw (a % 2 ^ 25))
  | 3 => if (regionsAt s a (iMlen v)).all fun k => onF s (VTC_VRGN_SVCRD k) then readMem s a (iMlen v) else none
  | 4 => some (toLE 8 f.ef0 ++ toLE 8 f.ef1)
  | 5 => some (toLE 8 f.arg)
  | _ => some []
where
  /-- An RC register, an alias page, or a register of a stopped island: UB-23 and UB-02. -/
  regLost (s : State) (a : Nat) : Bool :=
    (fieldsAt s a).any (fun f => f.acc == .rc) || (aliasTargets s a).isSome || onF s (SYS_ISL_STOPPED (blkIsland (blkOf a)))
  /-- What a register item reads: the register, the bytes of a tag area, or the free value of a measured voltage and power (R60, R488). -/
  regItem (s : State) (a : Nat) : Nat :=
    if regLost s a then free s 64
    else if inTagArea a then tagRead s a 8
    else if regOf a = 0x2000000328 then putBits (putBits (readValue s logWho a) 0 16 (free s 32)) 32 16 (free s 32 / 65536)
    else readValue s logWho a

/-- What reading an item does beside its bytes: corrections and losses are recorded; an RC field that UB-23 reaches takes a free value, and the value read
is used up; the cursor and the window are not for the engine (R62, R77, R453, R464). -/
def readItem (v : Nat) (s : State) : State :=
  let a := iAddr v
  match iKind v with
  | 1 =>
    if logGuarded a then deniedLog logWho .load s
    else if !itemBytes.regLost s a then (if regOf a = 0x2000000328 then useFree s else s)
    else ((fieldsAt s a).filter fun f => f.acc == .rc).foldl (fun t f => setFree t f) (useFree s)
  | 2 => touchCw logReq s (sigCw (a % 2 ^ 25))
  | 3 => touch s logReq a (iMlen v)
  | _ => s

/-- Capture the items in order: the state after the reads, the payload and the number of failed items. -/
def captureItems (f : Fired) : List Nat → State → State × List Byte × Nat
  | [], s => (s, [], 0)
  | v :: r, s =>
    let got := itemBytes s f v
    let rest := captureItems f r (readItem v s)
    (rest.1, got.getD (List.replicate (iLen v) 255) ++ rest.2.1, rest.2.2 + (if got.isSome then 0 else 1))

/-- Append a record: its SEQ, RECORDS, and the flush at 8 MiB (R456, R459, R460). -/
def appendRec (trig flags first items : Nat) (payload : List Byte) (s : State) : State :=
  let r : LogRec := { seq := s.logb.next, trig := trig, flags := flags, first := first, items := items, payload := payload }
  let s1 := incF (modLog s fun l => { l with buf := l.buf ++ [r], newest := some r, next := (l.next + 1) % 2 ^ 32 }) LOG_CNT0_RECORDS
  showLog (if 8 * 2 ^ 20 ≤ unflushed s1 ∧ unflushed s < 8 * 2 ^ 20 then startFlush s1 else s1)

/-- The newest record takes a repeat (R458). -/
def mergeRepeat (r : LogRec) (ts : Nat) (s : State) : State :=
  let r' := { r with rep := r.rep + 1, last := ts % 2 ^ 64 }
  modLog (incF s LOG_CNT0_REPEATS) fun l =>
    { l with newest := some r', buf := l.buf.map fun x => if x.seq = r.seq then r' else x, rewrites := if r.pos.isSome then (l.rewrites.filter fun x => x.seq != r.seq) ++ [r'] else l.rewrites }

/-- A captured record is merged, appended, or dropped for want of buffer (R458, R459). -/
def keepRecord (f : Fired) (flags items : Nat) (payload : List Byte) (s : State) : State :=
  let fresh (t : State) : State :=
    if 15 * 2 ^ 20 < unflushed t + 32 + payload.length then reportLoss 0x02 (evtLog LOG_EVT_BUFFULL (incF t LOG_CNT1_BUFFULL))
    else appendRec f.trig flags f.ts items payload t
  match s.logb.newest with
  | some r => if r.trig = f.trig ∧ !bit r.flags 2 ∧ r.payload.take 32 = payload.take 32 ∧ r.rep < 0xFFFF then mergeRepeat r f.ts s else fresh s
  | none => fresh s

/-- What has been captured of n items, of which `bad` failed, becomes a record (R454, R455). -/
def keepCaptured (f : Fired) (n bad : Nat) (payload : List Byte) (s : State) : State :=
  let s1 := if bad = 0 then s else evtLog LOG_EVT_ITEMERR (addF s LOG_CNT1_ITEMERR bad)
  showLog (keepRecord f (b2n (decide (0 < bad)) + 2 * b2n f.pf) n (padPayload payload) s1)

/-- The oldest queued trigger is captured (R457). -/
def captureNext (s : State) : State :=
  match s.logb.queue with
  | [] => s
  | f :: r =>
    let its := itemsOf s f.trig
    let c := captureItems f its (modLog s fun l => { l with queue := r })
    keepCaptured f its.length c.2.2 c.2.1 c.1

/-! ### Reading and clearing (R463–R466) -/

/-- A record of the region as it reads: a codeword that cannot be read is all-ones; the flag tells that there was one (R464). -/
def regionBytes (s : State) (d : LogDir) : List Byte × Bool :=
  (List.range (d.len / 32)).foldl (fun acc k =>
    match readCw s (cwOf (logBase + d.pos) + k) with
    | some b => (acc.1 ++ b, acc.2)
    | none => (acc.1 ++ List.replicate 32 255, true)) ([], false)

/-- The record with a SEQ, from the buffer or from the region. -/
def fetchRec (s : State) (seq : Nat) : Option (List Byte × Bool) :=
  match s.logb.buf.find? fun r => r.seq == seq with
  | some r => some (recBytes r, false)
  | none => match s.logb.dir.find? fun d => d.seq == seq with
    | some d =>
      let got := regionBytes s d
      (match s.logb.rewrites.find? fun r => r.seq == seq with
        | some r => some (recHeader r ++ got.1.drop 32, got.2)
        | none => some got)
    | none => none

/-- What reading a record in the region records about its codewords (R77). -/
def touchRec (seq : Nat) (s : State) : State :=
  match s.logb.dir.find? fun d => d.seq == seq with
  | some d => touch s logReq (logBase + d.pos) d.len
  | none => s

/-- The window shows bytes; beyond them it reads 0. -/
def setWindow (d : List Byte) (s : State) : State := forN (fun i t => setF t (LOG_WIN_DATA i) (leAt d (8 * i) 8)) 0 512 s

/-- Latch the record that the cursor names (R464). -/
def latch (s : State) : State :=
  let seq := getF s LOG_CURSOR_SEQ
  match fetchRec s seq with
  | some d => setB (setF (setWindow d.1 (touchRec seq s)) LOG_CURSOR_VALID 1) LOG_CURSOR_CODE d.2
  | none => setF (setF (setWindow [] s) LOG_CURSOR_VALID 0) LOG_CURSOR_CODE 0

/-- A write to `LOG_CURSOR`: SEQ as given, or one more (R464). -/
def writeCursor (r : Req) (seq : Nat) (next : Bool) (s : State) : State :=
  if !mayCursor s r then deniedLog r .store s
  else latch (setF s LOG_CURSOR_SEQ (if next then getF s LOG_CURSOR_SEQ + 1 else seq))

/-- A session's reply: status, length and data (R463). -/
def reply (status : Nat) (d : List Byte) (s : State) : State := emit s (.sent .maintenance 4451 (toLE 4 status ++ toLE 4 d.length ++ d))

/-- A request that its certificate does not allow (R463, R468). -/
def refuseLog (s : State) : State := raise MINOR (logLoc 0x04) (reply 1 [] s)

/-- Whole records from a SEQ on, at most `count` of them and 1 MiB. -/
def collectRecs (s : State) : Nat → Nat → List Byte → List Byte
  | 0, _, acc => acc
  | n + 1, seq, acc => match fetchRec s seq with
    | some d => if 2 ^ 20 < acc.length + d.1.length then acc else collectRecs s n ((seq + 1) % 2 ^ 32) (acc ++ d.1)
    | none => acc

/-- What collecting those records records about their codewords (R77). -/
def touchRecs : Nat → Nat → Nat → State → State
  | 0, _, _, s => s
  | n + 1, seq, len, s => match fetchRec s seq with
    | some d => if 2 ^ 20 < len + d.1.length then s else touchRecs n ((seq + 1) % 2 ^ 32) (len + d.1.length) (touchRec seq s)
    | none => s

/-- CLEAR (R466). -/
def clearLog (digest : List Byte) (s : State) : State :=
  let s1 := modLog s fun l => { l with buf := [], rewrites := [], dir := [], newest := none, inFlush := 0 }
  let s2 := setF (setF (setWindow [] s1) LOG_CURSOR_VALID 0) LOG_CURSOR_CODE 0
  raise NOTE (logLoc 0x03) (evtLog LOG_EVT_CLEARED (startFlush (appendRec 0 4 (ts96 s) 0 digest s2)))

/-! ### The commands -/

/-- `LOG_TRIGGER_FIRE` (R450): the matched trigger that comes next fires. -/
def execLogTriggerFire (s : State) : Host.Outcome State Fault Refusal :=
  .next (match s.logb.due with
    | [] => s
    | f :: r => fire f (modLog s fun l => { l with due := r }))

/-- A write to `LOG_SWTRIG` (R450). -/
def softTrigger (t arg : Nat) (s : State) : State :=
  if triggersFire s && kindOf s t == 3 then fire { trig := t, ts := ts96 s, arg := arg } s else s

/-- `SWTRIG` (R450). -/
def execSwtrig (_r : Req) (t : Fin 256) (arg : BitVec 48) (s : State) : Host.Outcome State Fault Refusal := .next (softTrigger t.val arg.toNat s)

/-- `TRIGGER_DEFINE` (R452): a 64-bit write to `LOG_TCTL`. -/
def execTriggerDefine (_r : Req) (val : Word) (s : State) : Host.Outcome State Fault Refusal := .next (writeTctl 8 true val s)

/-- `LOG_CAPTURE` (R457). -/
def execLogCapture (s : State) : Host.Outcome State Fault Refusal := .next (captureNext s)

/-- `LOG_FLUSH` (R460): FLUSHMS after the last flush one starts; a started flush writes. -/
def execLogFlush (s : State) : Host.Outcome State Fault Refusal :=
  .next (writeFlush (if !onF s LOG_STAT_FLUSHING && decide (s.logb.flushEnd + flushMs s * 1000000 ≤ freeCnt s) then startFlush s else s))

/-- `LOG_FLUSH_REQUEST` (R460). -/
def execLogFlushRequest (_r : Req) (s : State) : Host.Outcome State Fault Refusal := .next (startFlush s)

/-- The flush of the power-fail or shutdown sequence has ended: every running triad makes a safe halt, FIO and ANL are disabled, and Lodestone turns every
FB switch OFF (R480). -/
def outputsOff (s : State) : State :=
  if s.pwr.seq = 0 || onF s LOG_STAT_FLUSHING then s
  else
    let s1 := forN (fun t x => forceOff t (shaltTriad (.hart 0 true) t x)) 0 4 s
    pushLod (modLod (enableAnl none false (enableFio false s1)) fun l => { l with fbsw := 0, off := true })

/-- `LOG_FLUSH_DONE` (R462, R480). -/
def execLogFlushDone (s : State) : Host.Outcome State Fault Refusal := .next (outputsOff (endFlush s))

/-- `LOG_CURSOR_WRITE` (R464). -/
def execLogCursorWrite (r : Req) (seq : BitVec 32) (next : Bool) (s : State) : Host.Outcome State Fault Refusal := .next (writeCursor r seq.toNat next s)

/-- `LOG_INFO` (R463). -/
def execLogInfo (cert : Cert) (s : State) : Host.Outcome State Fault Refusal :=
  .next (if cert = .neither then refuseLog s
    else reply 0 (toLE 8 (regValue s (fieldsAt s 0x200E000010)) ++ toLE 8 (regValue s (fieldsAt s 0x200E000018)) ++ toLE 8 (regValue s (fieldsAt s 0x200E000008))) s)

/-- `LOG_READ` (R463). -/
def execLogRead (cert : Cert) (first count : BitVec 32) (s : State) : Host.Outcome State Fault Refusal :=
  .next (if cert = .neither then refuseLog s
    else if (fetchRec s first.toNat).isNone then reply 2 [] s
    else
      let n := min count.toNat 16384
      reply 0 (collectRecs s n first.toNat []) (touchRecs n first.toNat 0 s))

/-- `LOG_GRANT` (R463). -/
def execLogGrant (cert : Cert) (secs : BitVec 32) (s : State) : Host.Outcome State Fault Refusal :=
  .next (if cert = .neither then refuseLog s
    else if 86400 < secs.toNat then reply 3 [] s
    else
      let s1 := modLog s fun l => { l with grantEnd := if secs.toNat = 0 then 0 else freeCnt s + secs.toNat * 1000000000 }
      reply 0 [] (setB (setB s1 LOG_STAT_GRANT (secs.toNat != 0)) LOG_GRANT_DEPOT (secs.toNat != 0 && cert == .depot)))

/-- `GRANT_EXPIRY` (R464). -/
def execGrantExpiry (s : State) : Host.Outcome State Fault Refusal :=
  .next (if grantOpen s then s else modLog (setF (setF s LOG_STAT_GRANT 0) LOG_GRANT_DEPOT 0) fun l => { l with grantEnd := 0 })

/-- `LOG_CLEAR` (R466): the digest of the depot certificate, bytes 0–31. -/
def execLogClear (cert : Cert) (digest : BitVec 256) (s : State) : Host.Outcome State Fault Refusal :=
  .next (if cert = .depot then reply 0 [] (clearLog (toLE 32 digest.toNat) s) else refuseLog s)

end Sys2Proof.Machine
end

