-- ==== Sys2Proof/Machine/Islands.lean ====
section
/-! DEFINITION. Clock islands: stopping and waking, pulse crossings, die links, quiescing and single resets (R399–R414, R486). -/

namespace Sys2Proof.Machine

/-! ### Stopping and waking (R399–R401) -/

/-- Every queue of a block is idle. -/
def queuesIdle (s : State) (blk : Nat) : Bool := (allQueues.filter fun Q => Q / 256 == blk).all fun Q => onF s (QSTAT_IDLE Q)

/-- A mirror or tunnel transfer is outstanding, a state-block copy among them (R399, R438). -/
def netBusy (s : State) : Bool := s.chart.catchup.isSome || !s.chart.marks.isEmpty || !s.prl.tx.isEmpty || !s.bkb.toWrap.isEmpty || !s.rhl.tunnel.isEmpty

/-- The condition under which an island stops its clock (R399). -/
def mayStop (s : State) (i : Nat) : Bool :=
  if i = 6 then !onF s BKB_CTRL_EN && !onF s CHT_CTRL_EN && queuesIdle s 7 && queuesIdle s 6 && !netBusy s
  else if i = 8 then !onF s RHL_CTRL_EN && queuesIdle s 5 && (List.range 18).all fun p => !onF s (RHL_PCTRL_EN p)
  else if i = 9 then (List.range 6).all (fun n => !onF s (MDB_CCTRL_EN n)) && queuesIdle s 8
  else if i = 0xA then !onF s BRG_CTRL_EN && queuesIdle s 9
  else if i = 0xC then !onF s ANL_CTRL_EN
  else false

/-- The time since which an island's stop condition holds is kept, begins, or is forgotten (R399). -/
def watchStop (i : Nat) (s : State) : State :=
  if !mayStop s i then { s with quiet := kput 0 s.quiet i 0 }
  else if kget 0 s.quiet i = 0 then { s with quiet := kput 0 s.quiet i (freeCnt s + 1) } else s

/-- A span that began at a kept time (0: not at all) has lasted n nanoseconds. -/
def lasted (s : State) (k n : Nat) : Bool := kget 0 s.quiet k != 0 && decide (kget 0 s.quiet k + n ≤ freeCnt s + 1)

/-- `ISLAND_STOP` (R399): the condition holds and has held for 100 µs. -/
def execIslandStop (isl : Fin 16) (s : State) : Host.Outcome State Fault Refusal :=
  .next (if mayStop s isl.val && clocked s isl.val && lasted s isl.val 100000 then setF s (SYS_ISL_STOPPED isl.val) 1 else s)

/-- `WAKE_REQUEST` (R400, R401): refused while the island is shed. -/
def execWakeRequest (isl : Fin 16) (s : State) : Host.Outcome State Fault Refusal :=
  .next (if onF s (SYS_ISL_SHED isl.val) then s else wakeIsland s isl.val)

/-! ### Crossings (R403–R405, R407, R408) -/

/-- The MEM island takes the count of a pulse counter, and reports an overflow (R405, R409). -/
def takePulses (id c ovf : Nat) (s : State) : State :=
  let s1 := addF s (pulseFld id) c
  if ovf = 0 then s1 else raiseVia 4 { cls := NOTE, loc := ⟨0, 0x4, 0x3A, 0xFF⟩, xing := 20 } s1

/-- A pulse counter offers C and OVF over crossing 20, and both clear; while the crossing behind it is not idle, or its island does not run, it goes on counting (R405). -/
def offerPulse (isl id : Nat) (s : State) : State :=
  let k := 64 * isl + id
  let c := kget 0 s.pulses k
  let ovf := kget 0 s.pulseOvf k
  if c = 0 || !laneFree 20 isl id s.xings || !clocked s isl then s
  else
    let s1 : State := { s with pulses := kput 0 s.pulses k 0, pulseOvf := kput 0 s.pulseOvf k 0 }
    if islandAnswers s 4 then takePulses id c ovf (loadXing 20 isl 4 id true true (.pulses id c ovf) s1)
    else loadXing 20 isl 4 id true false (.pulses id c ovf) s1

/-- `PULSE_OFFER` (R405). -/
def execPulseOffer (isl : Fin 16) (counter : Fin 64) (s : State) : Host.Outcome State Fault Refusal := .next (offerPulse isl.val counter.val s)

/-- The tile that takes a value: the collector's, the DRAM controller, the Chart engine, the network engine, a CAN channel, the schedule unit, the Sextant or service core of an
interrupt file; none for a cycle start (R21, R408). -/
def rxTile (s : State) : XVal → Nat
  | .report _ => 0x76
  | .pulses _ _ _ => 0x3A
  | .job _ => 0x71
  | .chart .. => 0x71
  | .packReq .. => 0x71
  | .wrap .. => 0x70
  | .unwrapCan c _ _ => 0x60 + fc2 s c / 2 % 8
  | .unwrapRhl .. => 0x73
  | .packed .. => 0x73
  | .msi page _ => let h := if page < 0x2082000000 then page / 0x1000 % 0x100 else page / 0x8000 % 0x20
    if h < 16 then 0x10 + h else 0x10 + h
  | .cycle => 0xFF

/-- `HANDSHAKE_TIMEOUT` (R408): the receiver runs and is not in reset, and a handshake of the crossing has not completed 100 µs after its offer; the receiving tile is named. -/
def execHandshakeTimeout (xing : Fin 33) (isl : Fin 16) (s : State) : Host.Outcome State Fault Refusal :=
  .next (match s.xings.find? fun x => x.num == xing.val && x.rx == isl.val && x.busy && decide (x.at' + 100000 ≤ freeCnt s) with
    | some x => if clocked s isl.val then raiseVia isl.val { cls := MAJOR, loc := ⟨0, isl.val, rxTile s x.data, 0xFF⟩, xing := xing.val } s else s
    | none => s)

/-- The oldest waiting report of an island is loaded into the data register of its crossing 32, once that is idle; an island that is quiesced or does not run offers none (R403, R414,
R417). -/
def offerReport (i : Nat) (s : State) : State :=
  if !laneFree 32 i 0 s.xings || !islandAnswers s i || !clocked s i then s
  else match s.waiting.find? fun p => p.1 == i with
    | some p => loadXing 32 i 0 0 true false (.report p.2) { s with waiting := dropFirst (fun q => q.1 == i) s.waiting }
    | none => s

/-- Every island but AON offers its next report. -/
def offerReports (s : State) : State := forN offerReport 1 12 s

/-- The crossing's value is a report, which the collector takes by a command of its own (R418). -/
def XVal.isReport : XVal → Bool
  | .report _ => true
  | _ => false

/-- What a valid frame towards the P die shows: its link is up (R338, R342, R390). -/
def linkAlive (l : DieLink) (s : State) : State :=
  match l with
  | .fa => setF s FIO_STAT_FALINK 1
  | .lod => pushLod (if onF s LOD_STAT_LINK then s else evtLod LOD_EVT_LINK (setF s LOD_STAT_LINK 1))
  | .ana n => if onF s ANL_CTRL_EN && clocked s 0xC && !onF s (ANL_CHSTAT_LINK n.val) then syncAnl n.val (anlLinkUp n.val s) else s

/-- A frame on a die link: ignored with a bad CRC or a repeated sequence; frames that its sequence skips are lost (R407). -/
def receiveLink (l : DieLink) (inward : Bool) (seq : Nat) (crcOk : Bool) (s : State) : State :=
  let k := linkKey l inward
  let last := kget 0 s.links k
  if !crcOk || last == seq + 1 then s
  else
    let lost := if last = 0 then 0 else (seq + 16 - last) % 16
    let s1 := { s with links := kput 0 s.links k (seq + 1), linkLost := kput 0 s.linkLost k (kget 0 s.linkLost k + lost), linkAt := kput 0 s.linkAt k (freeCnt s + 1) }
    if inward then linkAlive l s1 else s1

/-- `LINK_FRAME_RECEIVE` (R407); `inward` for a frame towards the P die. -/
def execLinkFrameReceive (link : DieLink) (inward : Bool) (seq : Fin 16) (crcOk : Bool) (s : State) : Host.Outcome State Fault Refusal :=
  .next (receiveLink link inward seq.val crcOk s)

/-! ### Resets (R410–R414, R486) -/

/-- The islands with a `SYS_ISLi` register (R486, R488). -/
def singleIsland (i : Nat) : Bool := i == 2 || i == 6 || i == 8 || i == 9 || i == 0xA || i == 0xC

/-- The island whose registers an address belongs to; the pages of the Logbook triggers belong to the NVM island. -/
def islandOfAddr (a : Nat) : Nat := if 0x3000100000 ≤ a then 5 else blkIsland (blkOf a)

/-- Fields that an island's reset leaves: partition epochs (R486), front-end versions and the identity of the units (R397, R509). -/
def keptField (a : Nat) : Bool :=
  (List.range 64).any (fun p => a == (SVC_PEPOCH_EPOCH p).addr) || (List.range 8).any (fun n => a == (ANL_CHFW_FWVER n).addr)
    || (decide (0x200F001000 ≤ a) && decide (a < 0x200F001320)) || a == 0x200E000010 || a == 0x200E000018

/-- The registers of an island return to their reset values (R410). -/
def clearRegs (i : Nat) (s : State) : State :=
  let keep (k : Nat) : Bool := islandOfAddr (k / 64) != i || keptField (k / 64)
  { s with flds := s.flds.filter fun p => keep p.1, live := s.live.filter fun p => keep p.1, pendL := s.pendL.filter fun p => keep p.1 }

/-- The queues of an island's blocks forget what they have taken; outstanding descriptors are not written back (R413). -/
def clearOps (i : Nat) (s : State) : State := { s with qops := s.qops.filter fun o => blkIsland (o.q / 256) != i }

/-- What the reset of an island does to a crossing it is on (R411). The sender's REQ and data are held until the handshake completes; a value that waits in the sender is lost. The
receiver's ACK falls: in phase 2 it takes the value again, in phase 3 the handshake is over. -/
def resetXing (i : Nat) (x : Xing) : Option Xing :=
  if x.tx = i && !x.req && !x.ack then none
  else if x.rx = i && x.ack then (if x.req then some { x with ack := false } else none)
  else some x

/-- Reports and pulses that have not left the island are lost, and its crossings do as R411 says (R411, R417). -/
def clearCrossings (i : Nat) (s : State) : State :=
  { s with waiting := s.waiting.filter (fun p => p.1 != i), pulses := s.pulses.filter (fun p => p.1 / 64 != i), pulseOvf := s.pulseOvf.filter (fun p => p.1 / 64 != i), xings := s.xings.filterMap (resetXing i) }

/-- The bridge's peers see it disabled (R316, R413): held requests fail, and PERST# is low again until EN is written (R521). -/
def resetBridge (s : State) : State :=
  let s1 := linkDown true 0 s
  let s2 := if s1.brg.perst then emit s1 (.signal .pcie 0 7 0) else s1
  { s2 with brg := {} }

/-- What the interface of an analog channel forgets at a reset; its front end is of the remote group (R410). -/
def forgetAnl (c : AnlCh) : AnlCh := { c with target := 4000, carried := false, pub := none, pubVal := List.replicate 16 0, rbTs := 0 }

/-- Every analog channel is idle, as at EN 0; front ends keep their trims and latches (R392, R410, R413). -/
def resetAnl (s : State) : State :=
  { s with anl := s.anl.map fun c => regulate { forgetAnl c with fe := { c.fe with on := false }, latest := none, fallback := false, headroom := false, foldback := false, openLoop := false, silent := false, hdSpan := 0, opSpan := 0 } }

/-- What the module's ends of some die links have received is forgotten; the dies keep theirs (R407, R410). -/
def forgetLinks (mine : Nat → Bool) (s : State) : State :=
  let keep (k : Nat) : Bool := k % 2 == 0 || !mine (k / 2)
  { s with links := s.links.filter fun p => keep p.1, linkLost := s.linkLost.filter fun p => keep p.1, linkAt := s.linkAt.filter fun p => keep p.1 }

/-- A time source of a block that is reset is no longer qualified (R168, R413). -/
def dropSource (src : Nat) (s : State) : State := if bitF s MER_STAT_QUAL (src - 1) then disqualify src s else s

/-- A cache or buffer of an island that can be reset singly (R71). -/
def srcOn (i : Nat) : MemSrc → Bool
  | .serviceL2 .. => i == 2
  | .serviceL1 .. => i == 2
  | .engineBuf b .. => blkIsland b.val == i
  | _ => false

/-- A CAN channel of a block that is reset finishes the frame that it sends, as at EN 0 (R298, R413). -/
def closeReset (c : CanCh) : CanCh := if c.sending && !c.fifo.isEmpty then { fifo := c.fifo.take 1, sending := true, closing := true } else {}

/-- What an island holds beside its registers returns to its reset state, and its peers see its blocks disabled: frames that the star forwards are cut after the octets of `inFlight`. Its time
sources are lost, and a reset pair unit shows no partner (R200, R413). -/
def clearInner (i : Nat) (inFlight : List (Nat × Nat)) (s : State) : State :=
  if i = 2 then { s with resv := s.resv.filter (fun p => decide (p.1 < 16)), ifiles := s.ifiles.filter fun p => fileIsland p.1 != 2 }
  else if i = 6 then { setF (dropSource 3 (dropSource 2 s)) RHL_STAT_PARTNER 0 with chart := {}, bkb := {}, prl := {} }
  else if i = 8 then { dropSource 1 (disableRhl inFlight s) with rhl := {} }
  else if i = 9 then { s with can := s.can.map closeReset }
  else if i = 0xA then resetBridge s
  else if i = 0xC then forgetLinks (fun l => decide (2 ≤ l)) (resetAnl (abortTrim s))
  else s

/-- What holds after the reset of an island: the thermal state shows in `SVC_STAT.THROT` again (R526). -/
def afterReset (i : Nat) (s : State) : State :=
  if i = 2 then forN (fun p t => bumpPartition p t) 0 64 (setF s SVC_STAT_THROT s.therm.clk) else s

/-- A single island reset (R410–R413, R486). -/
def resetIsland (i : Nat) (inFlight : List (Nat × Nat)) (s : State) : State :=
  afterReset i (clearCrossings i (clearOps i (clearRegs i (clearInner i inFlight { s with caches := s.caches.filter fun l => !srcOn i l.src }))))

/-- Requests through `SYS_ISLi` are taken: from a voted triad or a machine-level service hart, outside the power-fail and shutdown sequence, while the island is not
shed (R482, R486). -/
def islandMay (s : State) (r : Req) (i : Nat) : Bool :=
  singleIsland i && isTriadOrMach r && s.pwr.seq == 0 && !onF s (SYS_ISL_SHED i)

/-- A value that the sender's quiesce withdraws, since its receiver, in reset or shed, has no way to complete the handshake (R411, R414). -/
def stuck (s : State) (i : Nat) (x : Xing) : Bool := x.tx == i && x.req && !x.ack && asleep s x.rx

/-- A write of QUIESCE (R414, R486). -/
def quiesce (r : Req) (i : Nat) (on : Bool) (s : State) : State :=
  if !islandMay s r i then s
  else if on then setF { s with xings := s.xings.filter fun x => !stuck s i x } (SYS_ISL_QUIESCE i) 1 else setF (setF s (SYS_ISL_QUIESCE i) 0) (SYS_ISL_DRAINED i) 0

/-- `ISLAND_QUIESCE` (R414, R486). -/
def execIslandQuiesce (r : Req) (isl : Fin 16) (on : Bool) (s : State) : Host.Outcome State Fault Refusal := .next (quiesce r isl.val on s)

/-- A crossing of a quiesced island is still busy: a value it has loaded, or one whose taking is not complete. What others offer into it waits for the end of the quiesce (R414; notes/assumptions/36.md). -/
def busyXing (i : Nat) (x : Xing) : Bool := (x.tx == i && (x.req || x.ack)) || (x.rx == i && x.ack)

/-- `ISLAND_DRAINED` (R414): every crossing is idle and every pulse counter is 0. -/
def execIslandDrained (isl : Fin 16) (s : State) : Host.Outcome State Fault Refusal :=
  .next (if onF s (SYS_ISL_QUIESCE isl.val) && s.pulses.all (fun p => p.1 / 64 != isl.val) && s.xings.all (fun x => !busyXing isl.val x) then setF s (SYS_ISL_DRAINED isl.val) 1 else s)

/-- An island is reset and held in reset for 10 µs from now (R486). -/
def holdReset (i : Nat) (inFlight : List (Nat × Nat)) (s : State) : State :=
  let s1 := setF (setF (resetIsland i inFlight s) (SYS_ISL_INRESET i) 1) (SYS_ISL_STOPPED i) 0
  { s1 with quiet := kput 0 (kput 0 s1.quiet i 0) (16 + i) (freeCnt s + 1) }

/-- A write of RESET (R486). -/
def startReset (r : Req) (i : Nat) (inFlight : List (Nat × Nat)) (s : State) : State := if islandMay s r i then holdReset i inFlight s else s

/-- `ISLAND_RESET` (R486): the request, with the octets sent of the frames that the star forwards then, or, with `ended`, the end of the 10 µs. -/
def execIslandReset (r : Req) (isl : Fin 16) (ended : Bool) (inFlight : List (Fin 18 × Nat)) (s : State) : Host.Outcome State Fault Refusal :=
  .next (if ended then (if lasted s (16 + isl.val) 10000 then setF { s with quiet := kput 0 s.quiet (16 + isl.val) 0 } (SYS_ISL_INRESET isl.val) 0 else s) else startReset r isl.val (inFlight.map fun x => (x.1.val, x.2)) s)

end Sys2Proof.Machine
end

