-- ==== Sys2Proof/Machine/Faults.lean ====
section
/-! DEFINITION. The fault collector: taking reports, the error FIFO, its interrupts, escalation, and the module safe state (R415–R427). -/

namespace Sys2Proof.Machine

/-- Change the collector's own state. -/
def modColl (s : State) (f : Coll → Coll) : State := { s with coll := f s.coll }

/-- The class in a fault location word (R416). -/
def flocCls (fl : Nat) : Nat := bits fl 56 3

/-- The words of a FIFO entry (R419). -/
def efWord (e : FifoEntry) (w : Nat) : Nat :=
  if w = 0 then e.floc else if w = 1 then e.addr % 2 ^ 40 + e.req % 256 * 2 ^ 40 + e.xing % 256 * 2 ^ 48
  else if w = 2 then e.ts % 2 ^ 64 else e.ts / 2 ^ 64 % 2 ^ 32 + e.seq % 65536 * 2 ^ 32 + b2n e.esc * 2 ^ 48 + e.rule % 8 * 2 ^ 49

/-- The highest class in the FIFO; 0 when it is empty (R427). -/
def highest : List FifoEntry → Nat
  | [] => 0
  | e :: r => max (flocCls e.floc) (highest r)

/-- The registers show the FIFO's fill and its head (R419, R421, R427). -/
def showFifo (s : State) : State :=
  let hd (w : Nat) : Nat := match s.coll.fifo with
    | e :: _ => efWord e w
    | [] => 0
  setF (setF (setF (setF (setF (setF s SYS_EFSTAT_COUNT s.coll.fifo.length) SYS_EFSTAT_MAXCLS (highest s.coll.fifo)) SYS_EF0_W (hd 0)) SYS_EF1_W (hd 1)) SYS_EF2_W (hd 2))
    SYS_EF3_W (hd 3)

/-- The head entry is found uncorrectable: its contents are replaced, its place and SEQ stay (R422). -/
def checkHead (bad : Bool) (s : State) : State :=
  match s.coll.fifo with
  | e :: r =>
    if bad then
      let e' : FifoEntry := { floc := floc { cls := MAJOR, loc := aonLoc 0x03 }, addr := 0, req := 0xFF, xing := 0, ts := ts96 s, seq := e.seq, esc := false, rule := 0 }
      showFifo (evtFault SYS_FEVT_CODE (modColl s fun c => { c with fifo := e' :: r }))
    else s
  | [] => s

/-! ### Interrupts (R423) -/

/-- The fields of an interrupt target of the collector. -/
def firqMin (s : State) (second : Bool) : Nat := min 4 (getF s (if second then SYS_FIRQ1_MINCLS else SYS_FIRQ0_MINCLS))
def firqArmed (second : Bool) : Fld := if second then SYS_FIRQ1_ARMED else SYS_FIRQ0_ARMED

/-- Send a target's identity, which clears ARMED. -/
def fireFirq (second : Bool) (s : State) : State :=
  let a := if second then 0x2000000158 else 0x2000000150
  if getF s ⟨a, 0, 8, .rw, 0⟩ = 0 then s else sendTarget (aonLoc 0x02) a (setF s (firqArmed second) 0)

/-- An entry of a class has been stored. -/
def storedFirq (cls : Nat) (second : Bool) (s : State) : State :=
  if onF s (firqArmed second) && decide (firqMin s second ≤ cls) then fireFirq second s else s

/-- A write of ARM. -/
def armFirq (second : Bool) (s : State) : State :=
  let s1 := setF s (firqArmed second) 1
  if s1.coll.fifo.any fun e => firqMin s1 second ≤ flocCls e.floc then fireFirq second s1 else s1

/-! ### Storing (R420) -/

/-- An entry is appended. -/
def appendEntry (e : FifoEntry) (s : State) : State :=
  storedFirq (flocCls e.floc) true (storedFirq (flocCls e.floc) false (showFifo (modColl s fun c => { c with fifo := c.fifo ++ [e] })))

/-- Store a report, with the replacement of the oldest entry of the lowest class in a full FIFO. -/
def storeEntry (e : FifoEntry) (s : State) : State :=
  if s.coll.fifo.length < 64 then appendEntry e s
  else
    let low := lowest (s.coll.fifo.map fun x => flocCls x.floc)
    if low < flocCls e.floc then
      let s1 := modColl s fun c => { c with fifo := dropFirst (fun x => flocCls x.floc == low) c.fifo }
      appendEntry e (evtFault SYS_FEVT_REPL (incF s1 (lostFld low)))
    else evtFault SYS_FEVT_OVF (incF s (lostFld (flocCls e.floc)))

/-! ### Escalation (R424) -/

/-- A report counts against rule k. -/
def ruleCounts (s : State) (k : Nat) (r : Report) : Bool :=
  onL s (SYS_ESC_2_EN k) && !r.esc && ((floc r ^^^ liveF s (SYS_ESC_0_MATCH k)) &&& liveF s (SYS_ESC_1_MASK k)) % 2 ^ 59 == 0

/-- N and WIN of rule k in force. -/
def ruleN (s : State) (k : Nat) : Nat := max 1 (liveF s (SYS_ESC_2_N k))
def ruleWin (s : State) (k : Nat) : Nat := max 1 (liveF s (SYS_ESC_2_WIN k)) * 1000000000

/-- Rule k counts a report, and acts when it is the N-th within WIN. -/
def escalate (r : Report) (k : Nat) (s : State) : State :=
  if !ruleCounts s k r then s
  else
    let n := ruleN s k
    let ts := (freeCnt s :: s.coll.esc.getD k []).take n
    if decide (ts.length = n) && decide (freeCnt s ≤ ts.getD (n - 1) 0 + ruleWin s k) then
      let s1 := modColl s fun c => { c with esc := modAt c.esc k fun _ => [] }
      let r' : Report := { r with cls := min 4 (liveF s (SYS_ESC_2_ESCCLS k)), req := 0xFF, xing := 0, esc := true, rule := k }
      raiseVia 0 r' (incF (evtFault SYS_FEVT_ESC s1) (SYS_ESC_2_FIRED k))
    else modColl s fun c => { c with esc := modAt c.esc k fun _ => ts }

/-- EN of rule k written 0: the stored times are forgotten and FIRED clears (R427). -/
def forgetRule (k : Nat) (s : State) : State := setF (modColl s fun c => { c with esc := modAt c.esc k fun _ => [] }) (SYS_ESC_2_FIRED k) 0

/-- The boundary of the SYS block's live fields, the next AON cycle: a rule whose EN falls forgets its times (R427, R488). -/
def sysBoundary (s : State) : State :=
  forN (fun k x => if onL s (SYS_ESC_2_EN k) && !onL x (SYS_ESC_2_EN k) then forgetRule k x else x) 0 8 (takeLive 0 none s)

/-! ### The module safe state (R425, R426) -/

/-- The places that the causes of R425 report. -/
def causeLoc (c : Nat) : Loc :=
  if c = 1 then ⟨7, 0xF, 0x00, 0xFF⟩ else if c = 2 then ⟨7, 0xF, 0x02, 0xFF⟩ else if c = 3 then aonLoc 0x01 else if c = 4 then aonLoc 0x02
  else ⟨7, 0xF, 0xFF, 0xFF⟩

/-- The cause of R425 that a report stands for, 0 for none. -/
def causeOf (r : Report) : Nat :=
  if r.cls ≠ 4 then 0 else if r.esc then 5
  else (([1, 2, 3, 4, 6] : List Nat).find? fun c => causeLoc c == r.loc).getD 0

/-- A cause occurs: its MODULE report. -/
def raiseCause (c : Nat) (s : State) : State := raiseVia 0 { cls := MODULE, loc := causeLoc c } s

/-- The actions of R426. -/
def enterSafe (cause : Nat) (s : State) : State :=
  let s1 := evtFault SYS_FEVT_MSAFE (setF (setF s SYS_MSTAT_MSAFE 1) SYS_MSTAT_CAUSE cause)
  let halt (t : Nat) (x : State) : State := forceOff t (shaltTriad (.hart 0 true) t x)
  silenceWd (forN halt 0 4 s1)

/-! ### Taking a report (R417, R418) -/

/-- The counter of a class (R427). -/
def classCnt (cls : Nat) : Fld :=
  if cls = 0 then SYS_FCNT0_NOTE else if cls = 1 then SYS_FCNT0_MINOR else if cls = 2 then SYS_FCNT1_MAJOR else if cls = 3 then SYS_FCNT1_VITAL
  else SYS_FCNT1_MODULE

/-- The rank of a report among those ready in one cycle: DIE, ISLAND, TILE. -/
def takeRank (r : Report) : Nat := r.loc.die * 4096 + r.loc.isl * 256 + r.loc.tile

/-- The first of lowest rank. -/
def firstRank : List (Nat × Report) → Option (Nat × Report)
  | [] => none
  | x :: r => match firstRank r with
    | some y => if takeRank y.2 < takeRank x.2 then some y else some x
    | none => some x

/-- The report in the data register of an island's crossing 32 that has not been taken. -/
def offered (s : State) (i : Nat) : Option (Nat × Report) :=
  match unTaken 32 i 0 s with
  | { data := .report r, .. } :: _ => some (i, r)
  | _ => none

/-- The report of an island that the collector can take: from crossing 32 or, for AON itself and for the dies behind a link, the oldest waiting one (R409, R417). -/
def readyReport (s : State) (i : Nat) : Option (Nat × Report) :=
  if 1 ≤ i ∧ i ≤ 12 then offered s i else s.waiting.find? fun p => p.1 == i

/-- The report taken next: of the reports of the islands that are ready, the one of lowest rank. -/
def nextReport (s : State) (ready : Nat → Bool) : Option (Nat × Report) :=
  firstRank ((List.range 16).filterMap fun i => if ready i then readyReport s i else none)

/-- A report leaves its waiting place, or the crossing acknowledges it (R403). -/
def pickReport (via : Nat) (s : State) : State :=
  if 1 ≤ via ∧ via ≤ 12 then { s with xings := s.xings.map fun x => if x.on 32 via 0 && !x.ack then { x with ack := true } else x }
  else { s with waiting := dropFirst (fun p => p.1 == via) s.waiting }

/-- Take a report: the stamp, SEQ, its class counter, `SYS_LASTHI`, the escalation rules, the Logbook, the FIFO, and what its class brings (R415, R418–R426). -/
def takeReport (via : Nat) (r : Report) (s0 : State) : State :=
  let s := pickReport via s0
  let ts := ts96 s
  let seq := getF s SYS_EFSTAT_SEQNEXT
  let e : FifoEntry := { floc := floc r, addr := r.addr, req := r.req, xing := r.xing, ts := ts, seq := seq, esc := r.esc, rule := r.rule }
  let s1 := incF (setF s SYS_EFSTAT_SEQNEXT (seq + 1)) (classCnt r.cls)
  let s2 := if 3 ≤ r.cls then
      setF (setF (setF (setF s1 SYS_LASTHI0_FLOC (floc r)) SYS_LASTHI1_TSLO (ts % 2 ^ 64)) SYS_LASTHI2_TSHI (ts / 2 ^ 64)) SYS_LASTHI2_SEQ seq
    else s1
  let s3 := matchReport (floc r) r.cls ts (efWord e 1) (forN (escalate r) 0 8 s2)
  let s4 := storeEntry e s3
  let s5 := if 2 ≤ r.cls then startFlush s4 else s4
  if causeOf r ≠ 0 && !onF s5 SYS_MSTAT_MSAFE then enterSafe (causeOf r) s5 else s5

/-- A machine-level hart or voted triad writes the key (R425). -/
def writeMsafe (r : Req) (key : Nat) (s : State) : State := if key = 0x3C5A && isTriadOrMach r then raiseCause 6 s else s

/-! ### The commands -/

/-- `FAULT_REPORT_TAKE` (R418) in an AON cycle, which is a boundary of the block: islands offer what waits; `ready` are the islands whose reports have crossed; `headBad` and `configBad` tell uncorrectable reads of the head entry and
of the collector's configuration (R422, R425). -/
def execFaultReportTake (ready : BitVec 16) (headBad configBad : Bool) (s : State) : Host.Outcome State Fault Refusal :=
  let s1 := checkHead headBad (offerReports (sysBoundary (if configBad then raiseCause 4 s else s)))
  .next (match nextReport s1 fun i => ready.getLsbD i with
    | some p => takeReport p.1 p.2 s1
    | none => s1)

/-- A write of POP (R421). -/
def popFifo (s : State) : State := showFifo (modColl s fun c => { c with fifo := c.fifo.drop 1 })

/-- `EFPOP` (R421, R422). -/
def execEfpop (_r : Req) (headBad : Bool) (s : State) : Host.Outcome State Fault Refusal := .next (checkHead headBad (popFifo s))

/-- `FIRQ_ARM` (R423). -/
def execFirqArm (_r : Req) (second : Bool) (s : State) : Host.Outcome State Fault Refusal := .next (armFirq second s)

/-- `MSAFE_WRITE` (R425). -/
def execMsafeWrite (r : Req) (key : BitVec 16) (s : State) : Host.Outcome State Fault Refusal := .next (writeMsafe r key.toNat s)

/-- `SUPERVISOR_CHECK` (R425). -/
def execSupervisorCheck (pass : Bool) (s : State) : Host.Outcome State Fault Refusal :=
  .next (if pass then modColl s fun c => { c with fails := 0 }
    else if s.coll.fails = 2 then raiseCause 3 (modColl s fun c => { c with fails := 0 })
    else modColl s fun c => { c with fails := c.fails + 1 })

/-- `LOGIC_SUPPLY_OUT` (R425). -/
def execLogicSupplyOut (s : State) : Host.Outcome State Fault Refusal := .next (raiseCause 1 s)

end Sys2Proof.Machine
end

