-- ==== Sys2Proof/Machine/Pair.lean ====
section
/-! DEFINITION. Module pairs: heartbeats, roles and epochs, mirroring of Chart entries and state blocks, forced swap, and time from the partner
(R428–R449). -/

namespace Sys2Proof.Machine

/-- OVR in force: 0 AUTO, 1 PRIMARY, 2 STANDBY (R447). -/
def ovr (s : State) : Nat := if getF s PRL_CTRL_OVR = 3 then 0 else getF s PRL_CTRL_OVR

/-! ### Frames (R428, R429) -/

/-- A pair frame on link n: the partner's address is the model's free bytes (notes/assumptions/1.md). -/
def pairFrame (s : State) (n type : Nat) (payload : List Byte) : List Byte :=
  let h := (List.range 6).map (fun i => Config.freeByte 9 (6 * n + i)) ++ toBE 6 (getF s BKB_MAC_ADDR + 5 + n) ++ [0x88, 0xB7]
    ++ [BitVec.ofNat 8 (1 + 16 * type), 0] ++ toLE 2 (getF s PRL_EPOCH_EPOCH) ++ toLE 4 (s.prl.txSeq.getD n 0) ++ toLE 2 payload.length ++ payload
  withFcs (h ++ List.replicate (60 - h.length) 0)

/-- Send a frame on a link that is up. -/
def sendPair (n type : Nat) (payload : List Byte) (s : State) : State :=
  if !bitF s PRL_STAT_LINK n then s
  else
    let s1 := emit s (.sent .pair n (pairFrame s n type payload))
    incF (modPrl s1 fun p => { p with txSeq := modAt p.txSeq n fun q => (q + 1) % 2 ^ 32 }) (PRL_LCNT_TXFRM n)

/-- The links that are up. -/
def linksUp (s : State) : List Nat := (List.range 2).filter fun n => bitF s PRL_STAT_LINK n

/-- A received frame's header, where it is not dropped: type, epoch, SEQ and payload (R429). -/
def pairHeader (f : List Byte) : Option (Nat × Nat × Nat × List Byte) :=
  let ty := leAt f 14 1 / 16
  let n := leAt f 22 2
  if 64 ≤ f.length ∧ f.length ≤ 9216 ∧ beAt f 12 2 = 0x88B7 ∧ leAt f 14 1 % 16 = 1 ∧ 1 ≤ ty ∧ ty ≤ 3 ∧ n + 28 ≤ f.length then
    some (ty, leAt f 16 2, leAt f 18 4, (f.drop 24).take n)
  else none

/-- READY sets once both conditions of R440 hold. -/
def checkReady (s : State) : State :=
  if role s = roleSTANDBY && s.prl.passDone && !onF s PRL_STAT_READY && (List.range 64).all fun b => !blkUsed s b || s.prl.blkDone.contains b
  then evtPrl PRL_EVT_READYCHG (setF s PRL_STAT_READY 1) else s

/-- SEQ of a received frame: the frames it skips are lost (R429, R440). -/
def countSeq (n seq : Nat) (s : State) : State :=
  let last := s.prl.rxSeq.getD n 0
  let d := (seq + 2 ^ 32 + 1 - last) % 2 ^ 32
  let lost := if last = 0 ∨ 2 ^ 31 ≤ d then 0 else d - 1
  let s1 := modPrl s fun p => { p with rxSeq := modAt p.rxSeq n fun _ => seq + 1 }
  if lost = 0 then s1 else clearReady true (addF (addF s1 PRL_CNT1_LOSTFRM lost) (PRL_LCNT_LOSTFRM n) lost)

/-- A frame arrives on a link: what it carries where it is not dropped, and the state with its counters. -/
def pairReceive (n : Nat) (f : List Byte) (s : State) : State × Option (Nat × Nat × List Byte) :=
  if !fcsGood f then (incF s (PRL_LCNT_FCSERR n), none)
  else match pairHeader f with
    | some (ty, ep, seq, p) => (countSeq n seq s, some (ty, ep, p))
    | none => (s, none)

/-! ### Roles and epochs (R432–R434, R442) -/

/-- The later of two epochs under R55. -/
def laterEpoch (a b : Nat) : Nat := if epochRel b a = .newer then b else a

/-- Every queue and flow context bound to an owner class takes its epoch: the pair role's (R272, R434). DESIGN CHOICE: R53 says that a queue bound to the node role increments with it, and no
rule what it does where that epoch jumps past the partner's; queues and contexts take the new value there too (notes/assumptions/66.md). -/
def setBound (cls e : Nat) (s : State) : State :=
  let s1 := allQueues.foldl (fun t Q => if getF t (QCTRL_OWNCLS Q) = cls then setF t (QEPOCH_EPOCH Q) e else t) s
  forN (fun f t => if getF t (BKB_FC_0_OWNCLS f) = cls then setF t (BKB_FC_0_EPOCH f) e else t) 0 256 s1

/-- The role changes: `PRL_STAT`, the STANDBY form of the Chart engine, the event. -/
def setRole (r : Nat) (s : State) : State :=
  if role s = r then s
  else evtPrl PRL_EVT_ROLECHG (setB (setF s PRL_STAT_ROLE r) CHT_STAT_STANDBY (r == roleLISTEN || r == roleSTANDBY))

/-- Source 3 is disqualified; the offsets it has given still count among the last ones (R446). -/
def loseTime (s : State) : State :=
  let s1 := modPrl s fun p => { p with corrNext := 0, points := 0, corrSum := 0 }
  if onF s PRL_TSYNC_QUAL then disqualify 3 (setF s1 PRL_TSYNC_QUAL 0) else s1

/-- A state block's copies in progress end; a complete copy stands, and the next one goes to the other half (R438). -/
def dropRx (x : BlkRx) : BlkRx := { x with got := none }

/-- PREADY follows the partner's flag (R440, R447). -/
def setPready (b : Bool) (s : State) : State := if onF s PRL_STAT_PREADY = b then s else evtPrl PRL_EVT_READYCHG (setB s PRL_STAT_PREADY b)

/-- What a module leaves behind with its role: marks and copies of a PRIMARY, copies of a STANDBY. -/
def leaveRole (s : State) : State :=
  let s2 := setF (modChart s fun c => { c with marks := [], catchup := none }) PRL_STAT_CATCHUP 0
  let s3 := forN (fun b t => setF t (PRL_BLK_3_BUSY b) 0) 0 64 (setPready false s2)
  modPrl s3 fun p => { p with yield := false, dual := false, swap := 0, loss := false, cureq := false, passDone := false, blkDone := [], tx := [], rx := p.rx.map fun x => (x.1, dropRx x.2) }

/-- READY of a module that is not, or only now, in STANDBY. -/
def dropReady (s : State) : State := if onF s PRL_STAT_READY then evtPrl PRL_EVT_READYCHG (setF s PRL_STAT_READY 0) else s

/-- Entry into PRIMARY or STANDBY with the epochs of R434. -/
def enterRole (r : Nat) (s : State) : State :=
  let e := nextEpoch (if s.prl.heard then laterEpoch (getF s PRL_EPOCH_EPOCH) (getF s PRL_PSTAT_PEPOCH) else getF s PRL_EPOCH_EPOCH)
  let s1 := setBound 3 e (setF (setRole r (dropReady (leaveRole (if r = roleSTANDBY then s else loseTime s)))) PRL_EPOCH_EPOCH e)
  if r = rolePRIMARY then
    let n := nextEpoch (if s.prl.heard then laterEpoch (getF s RHL_NEPOCH_EPOCH) (getF s PRL_PSTAT_PNEPOCH) else getF s RHL_NEPOCH_EPOCH)
    setBound 4 n (setF s1 RHL_NEPOCH_EPOCH n)
  else setF s1 PRL_STAT_COLD 0

/-- The role does not change in the safe state (R432). -/
def roleMoves (s : State) : Bool := onF s PRL_CTRL_EN && !onF s SYS_MSTAT_MSAFE

/-- Promotion of a STANDBY whose partner has fallen silent (R441, R449). -/
def promote (s : State) : State :=
  let cold := !onF s PRL_STAT_READY
  let s1 := enterRole rolePRIMARY s
  raise MAJOR (prlLoc 0x03) (incF (if cold then setF s1 PRL_STAT_COLD 1 else s1) PRL_CNT0_PROMOTE)

/-- The partner's presence changes (R215, R431). -/
def setPartner (b : Bool) (s : State) : State :=
  let s1 := if b then modRhl s fun r => { r with absent := false } else s
  if onF s PRL_STAT_PARTNER = b then s1
  else evtPrl PRL_EVT_PARTCHG (setB (setB (modRhl s1 fun r => { r with absentAt := freeCnt s }) PRL_STAT_PARTNER b) RHL_STAT_PARTNER b)

/-- A catch-up pass starts (R437). -/
def startCatchup (s : State) : State := setF (modChart s fun c => { c with catchup := some 1 }) PRL_STAT_CATCHUP 1

/-! ### Time from the partner (R446) -/

/-- The correction of an active source 3 from an offset in units of 2⁻³² ns, and the rate every 16 offsets (R208, R209). -/
def followPartner (off : Int) (s : State) : State :=
  if getF s MER_STAT_SRC ≠ 3 then s
  else
    let s1 := modPrl s fun p => { p with corrNext := -off, points := p.points + 1, corrSum := p.corrSum - off }
    if s1.prl.points < 16 then s1
    else setRate (rate s + roundDiv s1.prl.corrSum (16 * s.mer.cycLen)) (modPrl s1 fun p => { p with points := 0, corrSum := 0 })

/-- An offset of the partner: `off` is own time minus the partner's; both in 1/128 ns, so that nothing of the full resolution is lost (R173). -/
def partnerOffset (off delay : Int) (sync : Bool) (s0 : State) : State :=
  let s := reportOffset 3 (-off * 2 ^ 25) s0
  let s1 := setF (setF s PRL_TSYNC_OFFSET (ofInt 32 (clampInt (2 ^ 31 - 1) (wholeNs 128 off)))) PRL_TSYNC_DELAY (min 65535 (wholeNs 128 delay).toNat)
  let near := decide (off.natAbs ≤ 128000)
  let s2 := modPrl s1 fun p => { p with good := if near then p.good + 1 else 0, bad := if near then 0 else p.bad + 1 }
  if onF s PRL_TSYNC_QUAL then
    if !sync || 2 ≤ s2.prl.bad then loseTime s2 else followPartner (off * 2 ^ 25) s2
  else if sync && 8 ≤ s2.prl.good then followPartner (off * 2 ^ 25) (qualify 3 (-off * 2 ^ 25) (setF s2 PRL_TSYNC_QUAL 1)) else s2

/-- What a STANDBY, or a module in LISTEN (R433), computes from a heartbeat received at `sof`, in 1/64 ns (R173, R446). -/
def timeFrom (sof : Int) (p : List Byte) (s : State) : State :=
  let tx := leAt p 8 12
  let back := leAt p 20 12
  let own := if s.prl.sent then s.prl.prevTx else s.prl.txTs
  let sync := leAt p 0 1 == rolePRIMARY && bits tx 30 2 == 1
  if !isStandby s then s
  else if back = 0 ∨ own = 0 then if sync then s else loseTime s
  else
    let there := sof - 64 * tsNs tx
    let d := there + 64 * ((tsNs back : Int) - tsNs own)
    partnerOffset (2 * there - d) d sync s

/-! ### Heartbeats (R430–R432, R444) -/

/-- FLAGS of the next heartbeat (R430). -/
def hbFlags (s : State) : Nat :=
  getF s PRL_CTRL_SIDE + 2 * getF s PRL_STAT_READY + 4 * b2n (s.prl.swap == 2) + 8 * b2n (s.prl.swap == 6) + 16 * b2n (ovr s == 1) + 32 * b2n (ovr s == 2)
    + 64 * b2n s.prl.cureq + 128 * b2n (role s == rolePRIMARY && s.prl.loss)

/-- The payload of the next heartbeat. -/
def hbPayload (s : State) : List Byte :=
  toLE 1 (role s) ++ toLE 1 (hbFlags s) ++ toLE 2 (getF s RHL_NEPOCH_EPOCH) ++ toLE 4 s.rhl.cycle ++ toLE 12 (ts96 s) ++ toLE 12 s.prl.rxTs

/-- A heartbeat on both links, once in a cycle (R426, R431). -/
def sendHeartbeat (s : State) : State :=
  if !onF s PRL_CTRL_EN || onF s SYS_MSTAT_MSAFE || s.prl.sent then s
  else
    let p := hbPayload s
    let s1 := sendPair 1 1 p (sendPair 0 1 p s)
    modPrl s1 fun x => { x with prevTx := s.prl.txTs, txTs := ts96 s, sent := true, cureq := false }

/-- A PRIMARY hears a PRIMARY (R432, R443); two overrides are UB-22, where the module may yield or not. -/
def dualPrimary (flags ep : Nat) (s : State) : State :=
  let s1 := if s.prl.dual then s else raise MAJOR (prlLoc 0x03) (evtPrl PRL_EVT_DUALP (incF (modPrl s fun p => { p with dual := true }) PRL_CNT0_DUALP))
  let rel := epochRel ep (getF s PRL_EPOCH_EPOCH)
  if ovr s = 1 && bit flags 4 then modPrl (useFree s1) fun p => { p with yield := free s 1 == 1 }
  else if ovr s ≠ 1 && (bit flags 4 || rel == .newer || (rel == .same && !bit flags 0)) then modPrl s1 fun p => { p with yield := true }
  else s1

/-- What a heartbeat does by the own role; `r` and `flags` are the partner's, `entered` tells that it has just entered STANDBY. -/
def hbRole (r flags ep : Nat) (entered : Bool) (s : State) : State :=
  if role s = roleLISTEN then
    if r = rolePRIMARY then
      if ovr s ≠ 1 && roleMoves s then enterRole roleSTANDBY (modPrl s fun p => { p with quiet := 0 }) else modPrl s fun p => { p with quiet := 0 }
    else if r = roleLISTEN && !onF s PRL_CTRL_SIDE && ovr s ≠ 2 && roleMoves s then enterRole rolePRIMARY s
    else s
  else if role s = rolePRIMARY then
    let s1 := setPready (bit flags 1) s
    let s2 := if (entered && r = roleSTANDBY) || bit flags 6 then startCatchup s1 else s1
    let s3 := if bit flags 3 && s.prl.swap = 3 then modPrl s2 fun p => { p with swap := 4 } else s2
    if r = rolePRIMARY then dualPrimary flags ep s3 else modPrl s3 fun p => { p with dual := false }
  else if role s = roleSTANDBY then
    let s1 := if bit flags 7 && r = rolePRIMARY then clearReady false s else s
    if bit flags 2 && s.prl.swap = 0 then modPrl s1 fun p => { p with swap := 5 } else s1
  else s

/-- A valid heartbeat (R431, R432); `sof` is its receive stamp in 1/64 ns. -/
def takeHeartbeat (sof ep : Nat) (p : List Byte) (s : State) : State :=
  let r := leAt p 0 1 % 4
  let flags := leAt p 1 1
  let entered := r == roleSTANDBY && (getF s PRL_PSTAT_ROLE != roleSTANDBY || !onF s PRL_STAT_PARTNER)
  let s1 := setF (setF (setF (setF (setF s PRL_PSTAT_ROLE r) PRL_PSTAT_FLAGS flags) PRL_PSTAT_PEPOCH ep) PRL_PSTAT_PNEPOCH (leAt p 2 2)) PRL_PSTAT_TSTATE (bits (leAt p 8 12) 30 2)
  let s2 := if s.prl.beat then s1 else timeFrom sof p s1
  let s3 := modPrl (setPartner true s2) fun x => { x with beat := true, heard := true, rxTs := tsSof s sof }
  hbRole r flags ep entered s3

/-- A heartbeat frame arrives; with EN = 0 it is not taken. -/
def receiveHeartbeat (n sof : Nat) (f : List Byte) (s : State) : State :=
  if !onF s PRL_CTRL_EN then s
  else
    let x := pairReceive n f s
    match x.2 with
    | some (ty, ep, p) => if ty = 1 ∧ 32 ≤ p.length then takeHeartbeat sof ep p x.1 else x.1
    | none => x.1

/-! ### Cycles (R431, R432, R441, R444) -/

/-- A forced swap that comes to nothing on the PRIMARY (R444, R449). -/
def refuseSwap (s : State) : State := raise NOTE (prlLoc 0x03) (evtPrl PRL_EVT_SWAPREF (modPrl s fun p => { p with swap := 0 }))

/-- The steps of a swap at a cycle start. -/
def swapCycle (s : State) : State :=
  let k := s.prl.swap
  let go (n : Nat) : State := modPrl s fun p => { p with swap := n }
  if k = 1 then go 2 else if k = 2 then go 3 else if k = 3 then refuseSwap s else if k = 4 then go 7
  else if k = 5 then go (if onF s PRL_STAT_READY then 6 else 0) else if k = 6 then go 7 else s

/-- The cycle that ended without a heartbeat is counted (R431, R432, R441, R446, R449). -/
def missCycle (s : State) : State :=
  if !onF s PRL_CTRL_EN || !s.prl.missDue then s
  else
    let lost := onF s PRL_STAT_PARTNER && role s = rolePRIMARY
    let s1 := setPartner false (incF (modPrl s fun p => { p with missDue := false, missed := p.missed + 1 }) PRL_CNT0_MISSED)
    let s2 := loseTime (if lost then raise MAJOR (prlLoc 0x03) s1 else s1)
    if role s = roleSTANDBY && ovr s ≠ 2 && 2 ≤ s2.prl.missed && roleMoves s then promote s2 else s2

/-- What a cycle start brings to the pair unit: a miss that waits is counted first, the cycle that ended has been missed or not, a PRIMARY that yields becomes STANDBY, a swap advances, LISTEN counts,
and a correction of source 3 begins. -/
def pairCycle (s0 : State) : State :=
  let s := missCycle s0
  if !onF s PRL_CTRL_EN then s
  else
    let s1 := modPrl s fun p =>
      { p with missDue := !p.beat, missed := if p.beat then 0 else p.missed, beat := false, sent := false, used := 0, quiet := p.quiet + 1, corrNext := 0 }
    let s2 := if getF s MER_STAT_SRC = 3 then
        modMer s1 fun m => { m with corr2 := m.corr2 + s.prl.corrNext, corr2Left := m.cycLen }
      else s1
    let s3 := setF s2 PRL_MIR_USED s.prl.used
    if s.prl.yield && role s = rolePRIMARY && roleMoves s then enterRole roleSTANDBY s3 else checkReady (swapCycle s3)

/-- LISTEN ends with no PRIMARY heard for 3 or 6 cycles (R432). -/
def listenEnds (s : State) : State :=
  if role s = roleLISTEN && ovr s ≠ 2 && roleMoves s && decide ((if onF s PRL_CTRL_SIDE then 6 else 3) ≤ s.prl.quiet) then enterRole rolePRIMARY s else s

/-- EN written: LISTEN or OFF (R432). In the safe state the role does not leave OFF. DEDUCED: EN written 0 takes any role to OFF there too, as its row says Any (notes/assumptions/66.md). -/
def enablePair (en : Bool) (s : State) : State :=
  if onF s PRL_CTRL_EN = en then s
  else
    let s1 := setB s PRL_CTRL_EN en
    if en then
      let s2 := modPrl s1 fun p => { p with quiet := 0, beat := false, missDue := false, missed := 0, sent := false }
      if roleMoves s2 then setRole roleLISTEN s2 else s2
    else setPartner false (setRole roleOFF (dropReady (leaveRole (loseTime s1))))

/-- SWAP written (R444). -/
def requestSwap (r : Req) (s : State) : State :=
  if !isTriadOrMach r then s
  else if role s = rolePRIMARY && onF s PRL_STAT_PARTNER && onF s PRL_STAT_PREADY && ovr s = 0 && bits (getF s PRL_PSTAT_FLAGS) 4 2 = 0 && s.prl.swap = 0 && roleMoves s
  then modPrl s fun p => { p with swap := 1 } else raise NOTE (prlLoc 0x03) (evtPrl PRL_EVT_SWAPREF s)

/-- Both modules exchange roles (R444, R449). -/
def completeSwap (s : State) : State :=
  if s.prl.swap ≠ 7 || !roleMoves s then s
  else if role s = rolePRIMARY ∨ role s = roleSTANDBY then
    raise NOTE (prlLoc 0x03) (incF (enterRole (if role s = rolePRIMARY then roleSTANDBY else rolePRIMARY) s) PRL_CNT0_SWAPS)
  else s

/-! ### Mirroring Chart entries (R436, R437, R439) -/

/-- Strike out neighbours that repeat. -/
def dedup : List Nat → List Nat
  | [] => []
  | [x] => [x]
  | x :: y :: r => if x = y then dedup (y :: r) else x :: dedup (y :: r)

/-- The entries with MIRROR = 1 from an identifier on, ascending: only codewords with a byte other than 0 can hold one. -/
def mirrorEntries (s0 : State) (start : Nat) : List Nat :=
  let s := evict (fun c => c.dirty) s0
  let lo := 32 * sigCw start
  let cells := s.mem.filter fun c => decide (lo ≤ c.1) && decide (c.1 < 0x0640000000)
  (dedup (cells.map fun c => c.1 / 32 - 0x30000000)).filter fun sig => match entryOf s sig with
    | some e => e.mirror
    | none => false

/-- Mark entries while the FIFO has room; what is left. -/
def markAll : List Nat → State → State × List Nat
  | [], s => (s, [])
  | sig :: r, s =>
    if s.chart.marks.contains sig then markAll r s
    else if s.chart.marks.length < 262144 then markAll r (modChart s fun c => { c with marks := c.marks ++ [sig] })
    else (s, sig :: r)

/-- The catch-up pass of a PRIMARY goes on as far as the FIFO has room (R437). -/
def catchUp (s : State) : State :=
  match s.chart.catchup with
  | none => s
  | some k =>
    let x := markAll (mirrorEntries s k) s
    match x.2 with
    | sig :: _ => modChart x.1 fun c => { c with catchup := some sig }
    | [] => modPrl (setF (modChart x.1 fun c => { c with catchup := none }) PRL_STAT_CATCHUP 0) fun p => { p with loss := false }

/-- The bytes a PRIMARY may send in a cycle (R439). -/
def budget (s : State) : Nat := 2 ^ 20 * (linksUp s).length * s.mer.cycLen / 1000000

/-- A Rhumbline frame for the partner's port 17 is due on link n while a frame with n bytes of payload would occupy it, at 10 Gb/s with its header, FCS, preamble and gap
(R184, R428). -/
def pairDue (s : State) (n bytes : Nat) : Bool :=
  let t := cycOffset s
  n == (if bitF s PRL_STAT_LINK 0 then 0 else 1) && 2 ≤ getF s RHL_STAT_STATE
    && (entries s).any fun e => bit e.outmask 17 && decide (t ≤ e.offset) && decide (e.offset ≤ t + (bytes + 48) * 4 / 5)

/-- The link on which a mirror frame may start now: of the links up, those that no Rhumbline frame claims, in turn (R428; notes/assumptions/51.md). -/
def mirrorLink (s : State) (bytes : Nat) : Option Nat :=
  match (linksUp s).filter fun n => !pairDue s n bytes with
  | [_, _] => some (if (s.prl.txSeq.getD 1 0 + 2 ^ 32 - s.prl.txSeq.getD 0 0) % 2 ^ 32 < 2 ^ 31 then 0 else 1)
  | n :: _ => some n
  | [] => none

/-- Send a mirror frame on link n and count its payload. -/
def sendMirror (n type : Nat) (p : List Byte) (s : State) : State :=
  modPrl (sendPair n type p s) fun x => { x with used := x.used + p.length }

/-- The record of a marked entry as it stands; none where it cannot be read (R429, R437). -/
def chartRecord (s : State) (sig : Nat) : List Byte :=
  match readCw s (sigCw sig) with
  | some d => toLE 4 sig ++ toLE 4 0 ++ d
  | none => []

/-- Send marks, oldest first, in frames of up to 229 records, while the budget lasts. -/
def sendMarks : Nat → State → State
  | 0, s => s
  | n + 1, s =>
    let room := min 229 ((budget s - s.prl.used) / 40)
    let sigs := s.chart.marks.take room
    if sigs.isEmpty then s
    else
      let p := (sigs.map (chartRecord s)).flatten
      match mirrorLink s p.length with
      | none => s
      | some l =>
        let s1 := modChart (sigs.foldl seeEntry s) fun c => { c with marks := c.marks.drop room }
        sendMarks n (if p.isEmpty then s1 else sendMirror l 2 p s1)

/-! ### Mirroring state blocks (R438, R439) -/

/-- Send what the budget allows of block b's copy. -/
def sendBlock (b : Nat) : Nat → State → State
  | 0, s => s
  | n + 1, s =>
    match blkTx s b with
    | none => s
    | some x =>
      let left := blkLen s b / 64 - x.line
      let room := (budget s - s.prl.used - 12) / 64
      let k := min (min 143 room) left
      match if k = 0 then none else mirrorLink s (12 + 64 * k) with
      | none => s
      | some l =>
        match readMem s (blkSrc s b + 64 * x.line) (64 * k) with
        | none => setF (setTx b none (touch s 0x4D (blkSrc s b + 64 * x.line) (64 * k))) (PRL_BLK_3_ERR b) 1
        | some d =>
          let s1 := sendMirror l 3 (toLE 4 b ++ toLE 4 x.cseq ++ toLE 4 (64 * x.line) ++ d) (touch s 0x4D (blkSrc s b + 64 * x.line) (64 * k))
          if k = left then setTx b none s1 else sendBlock b n (setTx b (some { x with line := x.line + k }) s1)

/-- The mirror traffic of a cycle (R439): records first, then blocks, unfinished copies first. -/
def mirror (s : State) : State :=
  if role s ≠ rolePRIMARY || !onF s PRL_STAT_PARTNER || (linksUp s).isEmpty then s
  else
    let s1 := sendMarks 1200 s
    let busy := (List.range 64).filter fun b => (blkTx s1 b).isSome
    let begun := busy.filter fun b => match blkTx s1 b with
      | some x => decide (0 < x.line)
      | none => false
    (begun ++ busy.filter fun b => !begun.contains b).foldl (fun t b => sendBlock b 120 t) s1

/-! ### The STANDBY receives (R435, R437, R438, R440) -/

/-- Judge a CHART or BLOCK frame by role and epoch; true where it is taken. -/
def judgePair (ep : Nat) (chart : Bool) (s : State) : State × Bool :=
  if role s ≠ roleSTANDBY then (incF s PRL_CNT1_MIRDISC, false)
  else match epochRel ep (getF s PRL_PSTAT_PEPOCH) with
    | .old =>
      let s1 := raiseOnce 0xD0001 NOTE (prlLoc 0x02) (incF s PRL_STALE_COUNT)
      (if chart then clearReady true s1 else s1, false)
    | .newer => (if chart then clearReady true (incF s PRL_CNT1_AHEAD) else incF s PRL_CNT1_AHEAD, false)
    | .same => (s, true)

/-- A CHART message takes a place in the Chart engine; one that finds none clears READY (R244, R440). -/
def takeChart (ep : Nat) (p : List Byte) (s : State) : State :=
  let s1 := offerJob { map := 0, code := 0, ts := 0, payload := p, mirror := some ep } s
  if onF s CHT_CTRL_EN && decide (512 ≤ s.chart.jobs.length) then clearReady true s1 else s1

/-- A BLOCK message: its lines go to the half of its copy; the last line completes the copy (R438). -/
def takeBlock (p : List Byte) (s : State) : State :=
  let b := leAt p 0 1
  let cseq := leAt p 4 4
  let off := leAt p 8 4
  let d := p.drop 12
  if 64 ≤ b ∨ !blkUsed s b ∨ d.isEmpty ∨ d.length % 64 ≠ 0 ∨ off % 64 ≠ 0 ∨ blkLen s b < off + d.length then s
  else
    let x : BlkRx := kget {} s.prl.rx b
    let cur : BlkRx := match x.got with
      | some _ => if x.cseq = cseq then x else { x with cseq := cseq, got := some 0 }
      | none => { x with half := x.nextHalf, cseq := cseq, got := some 0 }
    let a := blkDst s b + cur.half * 2 ^ 20 + off
    if !blockMay s b (blkDst s b) (2 * 2 ^ 20) true then setF s (PRL_BLK_3_ERR b) 1
    else
      let n := cur.got.getD 0 + d.length
      let s1 := writeMem s 0x4D a d
      if n < blkLen s b then setF (modPrl s1 fun q => { q with rx := kput {} q.rx b { cur with got := some n } }) (PRL_BLK_3_BUSY b) 1
      else
        let s2 := modPrl s1 fun q => { q with rx := kput {} q.rx b { cur with got := none, nextHalf := 1 - cur.half }, blkDone := if q.blkDone.contains b then q.blkDone else b :: q.blkDone }
        checkReady (setF (setF (setF s2 (PRL_BLK_3_CSEQ b) cseq) (PRL_BLK_3_HALF b) cur.half) (PRL_BLK_3_BUSY b) 0)

/-- A CHART or BLOCK frame arrives. -/
def receiveMirror (n : Nat) (f : List Byte) (want : Nat) (s : State) : State :=
  let x := pairReceive n f s
  match x.2 with
  | some (ty, ep, p) =>
    if ty ≠ want then x.1
    else
      let j := judgePair ep (ty == 2) x.1
      if !j.2 then j.1 else if ty = 2 then takeChart ep p j.1 else takeBlock p j.1
  | none => x.1

/-- A block's EN written 0: ERR clears and its copy ends (R438, R447). -/
def disableBlock (b : Nat) (s : State) : State :=
  setF (setF (modPrl s fun p => { p with tx := kput none p.tx b none, rx := kput {} p.rx b (dropRx (kget {} p.rx b)) }) (PRL_BLK_3_ERR b) 0) (PRL_BLK_3_BUSY b) 0

/-- A link goes up or down; port 17 of the star shows the pair link's state (R218, R428, R448, R449). -/
def linkPair (n : Nat) (up : Bool) (s : State) : State :=
  if onF s (PRL_LSTAT_LINK n) = up then s
  else
    let s0 := setB (setFBit (setB s (PRL_LSTAT_LINK n) up) PRL_STAT_LINK n up) (PRL_LSTAT_MASTER n) (up && !onF s PRL_CTRL_SIDE)
    let s1 := setB s0 (RHL_PSTAT_LINK 17) (onF s0 (PRL_LSTAT_LINK 0) || onF s0 (PRL_LSTAT_LINK 1))
    let s2 := evtPrl PRL_EVT_LINKCHG s1
    if up then s2 else raise MINOR ⟨0, 0x6, 0x54 + n, 0x00⟩ s2

/-! ### The commands -/

/-- `HEARTBEAT_SEND` (R431). -/
def execHeartbeatSend (s : State) : Host.Outcome State Fault Refusal := onEngine 6 s fun s => .next (sendHeartbeat s)

/-- `HEARTBEAT_RECEIVE` (R431); `sof` is the receive stamp, a time value in 1/64 ns. -/
def execHeartbeatReceive (link : Fin 2) (sof : Nat) (frame : List Byte) (s : State) : Host.Outcome State Fault Refusal :=
  onEngine 6 s fun s =>
  .next (receiveHeartbeat link.val sof frame s)

/-- `MISSED_CYCLE` (R432). -/
def execMissedCycle (s : State) : Host.Outcome State Fault Refusal := onEngine 6 s fun s => .next (missCycle s)

/-- `PRL_ENABLE_WRITE` (R432). -/
def execPrlEnableWrite (r : Req) (en : Bool) (s : State) : Host.Outcome State Fault Refusal := reached 6 r s fun s => .next (enablePair en s)

/-- `LISTEN_ROLE_TIMEOUT` (R432). -/
def execListenRoleTimeout (s : State) : Host.Outcome State Fault Refusal := onEngine 6 s fun s => .next (listenEnds s)

/-- `CATCHUP_PASS` (R437): the pass goes on; `received` tells a STANDBY that a pass has completed and every mark it made has been received (R440). -/
def execCatchupPass (received : Bool) (s : State) : Host.Outcome State Fault Refusal :=
  onEngine 6 s fun s =>
  .next (if role s = roleSTANDBY then if received then checkReady (modPrl s fun p => { p with passDone := true }) else s else catchUp s)

/-- `MIRROR_SEND` (R439). -/
def execMirrorSend (s : State) : Host.Outcome State Fault Refusal := onEngine 6 s fun s => .next (mirror s)

/-- `CHART_FRAME_RECEIVE` (R435). -/
def execChartFrameReceive (link : Fin 2) (frame : List Byte) (s : State) : Host.Outcome State Fault Refusal := onEngine 6 s fun s => .next (receiveMirror link.val frame 2 s)

/-- `BLOCK_FRAME_RECEIVE` (R438). -/
def execBlockFrameReceive (link : Fin 2) (frame : List Byte) (s : State) : Host.Outcome State Fault Refusal := onEngine 6 s fun s => .next (receiveMirror link.val frame 3 s)

/-- `SWAP` (R444). -/
def execSwap (r : Req) (s : State) : Host.Outcome State Fault Refusal := reached 6 r s fun s => .next (requestSwap r s)

/-- `SWAP_COMPLETE` (R444). -/
def execSwapComplete (s : State) : Host.Outcome State Fault Refusal := onEngine 6 s fun s => .next (completeSwap s)

/-- `PAIR_LINK_CHANGE` (R449). -/
def execPairLinkChange (link : Fin 2) (up : Bool) (s : State) : Host.Outcome State Fault Refusal := .next (linkPair link.val up s)

end Sys2Proof.Machine
end

