-- ==== Sys2Proof/Machine/Reset.lean ====
section
/-! DEFINITION. The module reset and the loss of power: what each reset group forgets and what stays (R81, R163, R410, R412, R480, R485). -/

namespace Sys2Proof.Machine

/-- The islands of the persistent group: AON and MER (R410). -/
def persistentIsl (i : Nat) : Bool := i == 0 || i == 7

/-- A field that a module reset leaves: the persistent group's, the record pointers of the Logbook, front-end versions, the identity of the units, the devices declared
degraded (R536), and the FA die's watchdog, which has expired (R410, R412). -/
def staysOnReset (k : Nat) : Bool :=
  persistentIsl (islandOfAddr (k / 64)) || (keptField (k / 64) && blkOf (k / 64) != 2) || [MEM_STAT_DRDEG, MEM_STAT_NVDEG, MEM_STAT_DRDEV, MEM_STAT_NVDEV, FIO_WDOG_EXP, FIO_WDOG_LINKEXP, FIO_STAT_WDEXP].any fun f => f.key == k

/-- NEXTBOOT activations are still to be made at the next start-up; every other pending activation is lost (R498, R500). -/
def nextBoot (l : List (Nat × Option PendAct)) : List (Nat × Option PendAct) :=
  l.filter fun p => match p.2 with
    | some a => a.mode == 2
    | none => false

/-- PEND of the units and their Waypoints show what is pending. -/
def showPend (s : State) : State :=
  forN (fun u t => match kget none t.upd.pend u with
    | some _ => setF t (UPD_UNIT_1_PEND u) 1
    | none => setF (setF (setF t (UPD_UNIT_1_PEND u) 0) (UPD_UNIT_2_WPLO u) 0) (UPD_UNIT_3_WPHI u) 0) 0 25 s

/-- Where the ring goes on after a power-up: behind the last record that the kept pointers cover (R462). -/
def keptHead (l : Logb) : Nat :=
  match (l.dir.filter fun d => d.kept).getLast?, l.dir with
  | some d, _ => d.pos + d.len
  | none, d :: _ => d.pos
  | none, [] => l.head

/-- The pointers of the Logbook ring, which are kept in the tag and counter region (R462). -/
def keptLog (l : Logb) : Logb := { dir := l.dir.filter fun d => d.kept, head := keptHead l, next := l.next }

/-- The Logbook after a module reset: the power cycle goes on, and with it the newest record, the time since the last flush and the second of the last loss
(R458, R460, R468). -/
def sameCycleLog (l : Logb) : Logb := { keptLog l with newest := l.newest, flushEnd := l.flushEnd, lostSec := l.lostSec }

/-- A crossing at a module reset: both of its ends are reset, but for AON's end of crossing 32, which takes what was offered, and MER's of crossing 17 (R410, R411). -/
def moduleXing (x : Xing) : Option Xing :=
  if x.rx = 0 then (if x.busy then some x else none) else if x.tx = 7 then resetXing x.rx x else none

/-- A report of a die that a module reset leaves: the persistent islands, the FA, FB and L dies and the analog front ends (R410). -/
def staysWaiting (p : Nat × Report) : Bool := persistentIsl p.1 || (decide (1 ≤ p.2.loc.die) && decide (p.2.loc.die ≤ 4))

/-- The module group returns to its reset state (R410, R412): the link to the FA die falls silent, and its outputs go to their safe states; the front ends hold their targets until their own
timeout. What has been offered to AON is still received there (R411). That a START has been accepted is known until the supply is lost (R128). -/
def clearModule (s0 : State) : State :=
  let s := forgetLinks (fun _ => true) (modFio (abortTrim (resetBridge (silenceWd s0))) fun f => { f with pubs := [], dirty := [], refresh := false })
  let s1 := dropSource 3 (dropSource 2 (dropSource 1 s))
  let s2 : State :=
    { s1 with flds := s1.flds.filter fun p => staysOnReset p.1, live := s1.live.filter fun p => staysOnReset p.1, pendL := s1.pendL.filter fun p => staysOnReset p.1 }
  let s3 : State := { s2 with qops := [], ifiles := [], caches := [], quiet := [], xings := s2.xings.filterMap moduleXing, waiting := s2.waiting.filter staysWaiting, anl := s2.anl.map forgetAnl }
  let s4 : State := { s3 with ceHold := [], degCnt := [], triads := s3.triads.map (fun x => { started := x.started }), resv := [], poolNext := 0, rhl := {}, chart := {}, bkb := {} }
  let s5 : State := { s4 with can := List.replicate 6 {}, pulses := [], pulseOvf := [], prl := {}, logb := sameCycleLog s4.logb }
  { s5 with upd := { pend := nextBoot s5.upd.pend, bgAt := s5.upd.bgAt }, pwr := { s5.pwr with svcImage := false } }

/-- Start-up runs again from the second row of R475; the safe state has ended (R485). -/
def restart (s : State) : State :=
  let s1 := setF (setF (setF (setF s SYS_BOOT_STAGE 1) SYS_BOOT_TRIADS 0) SYS_BOOT_SVCREADY 0) SYS_BOOT_ERR 0
  let s2 := setF (setF (setF (setF s1 SYS_PWRSTAT_VREADY 0) SYS_PWRSTAT_FREADY 0) SYS_MSTAT_MSAFE 0) SYS_MSTAT_CAUSE 0
  showLog (showPend (setF s2 SVC_STAT_THROT s.therm.clk))

/-- A module reset: it waits for a flush of every unflushed record, and is ignored while the sequence of R480 runs (R461, R482, R485). -/
def resetModule (cause : Nat) (s : State) : State :=
  if s.pwr.seq ≠ 0 then s else restart (setF (clearModule (flushAll s)) SYS_PWRSTAT_RSTCAUSE cause)

/-- A register field that outlives the supply: units, versions of front ends, the power-cycle count, the PFAIL count, wake levels, and the levels of the panel's switches
(R81, R165, R472, R488, R509, R530). -/
def staysOnPower (k : Nat) : Bool :=
  let a := k / 64
  (keptField a && blkOf a != 2) || k == MER_PCC_COUNT.key || k == SYS_PWRCNT_PFAIL.key || k == SYS_PWRSTAT_WAKE1.key || k == SYS_PWRSTAT_WAKE2.key
    || k == SYS_THERM_COVER.key || k == SYS_BINN_SET.key || k == SYS_BINN_ADJ.key

/-- What is left when the converter is off: non-volatile memory with its tag areas and counters, the trims of the front ends, and what standby keeps. -/
def unpowered (s : State) : State :=
  let z := State.reset
  let s1 : State := { z with pending := s.pending, nfree := s.nfree, out := s.out, flds := s.flds.filter fun p => staysOnPower p.1, tags := s.tags }
  let s2 : State := { s1 with mem := s.mem.filter fun c => inNvm c.1, chk := s.chk.filter fun c => inNvm (8 * c.1), logb := keptLog s.logb, upd := { pend := nextBoot s.upd.pend } }
  { s2 with anl := s.anl.map fun c => { trim := c.trim }, pwr := { phase := 0, batt := s.pwr.batt, waitOff := s.pwr.waitOff, marker := s.pwr.marker } }

end Sys2Proof.Machine
end

