-- ==== Sys2Proof/Machine/Update.lean ====
section
/-! DEFINITION. Packages, staging, Waypoints, image switches, fall-back and Pilot mode (R490–R510). -/

namespace Sys2Proof.Machine

/-- Change the update engine's own state. -/
def modUpd (s : State) (f : Upd → Upd) : State := { s with upd := f s.upd }

/-- The requester code of the update engine (R419). -/
def updReq : Nat := 0x4F

/-- The update engine as a requester. -/
def updWho : Req := .engine 15 0

/-! ### Packages (R490–R494) -/

/-- The unit of a TYPE and TARGET; none where they are not valid (R492). -/
def unitOf (h : List Byte) : Option Nat :=
  let ty := leAt h 6 1
  let tg := leAt h 7 1
  if ty = 2 then if tg < 4 then some (1 + tg) else none
  else if ty = 6 then if tg < 8 then some (8 + tg) else none
  else if ty = 7 then if tg < 8 then some (16 + tg) else none
  else if tg ≠ 0 then none
  else if ty = 1 then some 0 else if ty = 3 then some 5 else if ty = 4 then some 6 else if ty = 5 then some 7 else if ty = 8 then some 24
  else none

def pkVersion (h : List Byte) : Nat := leAt h 8 4
def pkLength (h : List Byte) : Nat := leAt h 12 4
def pkKeyid (h : List Byte) : Nat := leAt h 16 1
def pkEntry (h : List Byte) : Nat := leAt h 20 4
def pkPayload (p : List Byte) : List Byte := (p.drop 128).take (pkLength p)

/-- The size of a unit's slots (R493). -/
def slotSize (u : Nat) : Nat :=
  if u = 0 then 0x10000000 else if u ≤ 4 then 0x4000000 else if u = 5 ∨ u = 24 then 0x10000 else if u = 6 then 0x100000 else if u = 7 then 0x2000000
  else if u < 16 then 0x40000 else 0x1000

/-- The base of a unit's slot (R493). -/
def unitBase (u k : Nat) : Nat :=
  if u = 0 then 0x1000000000 + k * 0x10000000
  else if u ≤ 4 then 0x1020000000 + k * 0x10000000 + (u - 1) * 0x4000000
  else if u = 5 then 0x106C610000 + k * 0x10000
  else if u = 6 then 0x106C000000 + k * 0x100000
  else if u = 7 then 0x1068000000 + k * 0x2000000
  else if u < 16 then 0x106C200000 + (u - 8) * 0x80000 + k * 0x40000
  else if u < 24 then 0x106C600000 + (u - 16) * 0x2000 + k * 0x1000
  else 0x106C630000 + k * 0x10000

/-- The header is valid for its unit and a package length (R495 step 4). -/
def pkHeaderOk (u plen : Nat) (h : List Byte) : Bool :=
  let n := pkLength h
  leAt h 0 4 == 0x4B505857 && leAt h 4 2 == 1 && pkVersion h != 0 && leAt h 18 2 == 0 && (h.drop 72).all (· == 0) && h.length == 128
    && n % 32 == 0 && decide (32 ≤ n) && decide (n + 224 ≤ slotSize u) && plen == 224 + n

/-- The ROM key: its value is not in the spec (R494; notes/assumptions/1.md). -/
def romKey : List Byte := (List.range 97).map (Config.freeByte 10)

/-- The key that may sign a package of a TYPE under KEYID, by a key list (R494). -/
def keyFor (keys : List Byte) (type id : Nat) : Option (List Byte) :=
  if id = 255 then if type = 8 then some romKey else none
  else if 16 ≤ id then none
  else
    let r := (keys.drop (128 * id)).take 128
    if bit (leAt r 0 1) 0 && (bit (leAt r 2 2) type || (type == 8 && bit (leAt r 0 1) 1)) then some ((r.drop 4).take 97) else none

/-- The payload digest equals DIGEST. -/
def digestOk (p : List Byte) : Bool := sha384 (pkPayload p) == (p.drop 24).take 48

/-- The signature over the header is valid under a key (R491). -/
def sigOk (key p : List Byte) : Bool := ecdsaValid key (p.take 128) ((p.drop (128 + pkLength p)).take 96)

/-- A key is a trust anchor for certificate sessions (R154, R494). -/
def isAnchor (keys key : List Byte) : Bool :=
  (List.range 16).any fun k => let r := (keys.drop (128 * k)).take 128
    bit (leAt r 0 1) 0 && bit (leAt r 0 1) 2 && (r.drop 4).take 97 == key

/-- A whole package verifies for unit u (R491, R494). -/
def pkGood (keys : List Byte) (u : Nat) (p : List Byte) : Bool :=
  unitOf p == some u && pkHeaderOk u p.length (p.take 128) && match keyFor keys (leAt p 6 1) (pkKeyid p) with
    | some k => digestOk p && sigOk k p
    | none => false

/-- The package in a slot, where it can be read whole. -/
def pkAt (s : State) (u k : Nat) : Option (List Byte) :=
  match readMem s (unitBase u k) 128 with
  | some h => if pkLength h + 224 ≤ slotSize u then readMem s (unitBase u k) (224 + pkLength h) else none
  | none => none

/-- Reading a slot records what its codewords show (R77). -/
def touchSlot (u k : Nat) (s : State) : State :=
  match readMem s (unitBase u k) 128 with
  | some h => touch s updReq (unitBase u k) (224 + min (pkLength h) (slotSize u - 224))
  | none => touch s updReq (unitBase u k) 128

/-! ### Units (R496, R509, R510) -/

def actVer (s : State) (u : Nat) : Nat := getF s (UPD_UNIT_0_ACTVER u)
def actSlot (s : State) (u : Nat) : Nat := getF s (UPD_UNIT_1_ACTSLOT u)
def othState (s : State) (u : Nat) : Nat := getF s (UPD_UNIT_1_OTHSTATE u)
def confirmed (s : State) (u : Nat) : Bool := onF s (UPD_UNIT_1_CONF u)

/-- What is pending for a unit. -/
def pendOf (s : State) (u : Nat) : Option PendAct := kget none s.upd.pend u

/-- The tile of a unit (R510). -/
def unitLoc (u : Nat) : Loc :=
  if u = 0 ∨ u = 24 then blkLoc 15 else if u ≤ 4 then sxLoc (u - 1) 0xFF else if u = 5 then ⟨1, 0xD, 0x11, 0xFF⟩ else if u = 6 then rhlLoc 0xFF
  else if u = 7 then chtLoc 0x03 else afeLoc ((u - 8) % 8) 0x07

/-- A report of the update engine, through its own island. -/
def raiseUpd (cls u : Nat) (s : State) : State := raiseVia 5 { cls := cls, loc := unitLoc u } s

/-- The last failing status of a unit (R499). -/
def setErr (u status : Nat) (s : State) : State := setF s (UPD_UNIT_1_LASTERR u) status

/-- A descriptor of queue q names a unit that the queue may not address (R497, R499). -/
def notAllowed (o : QOp) (u : Nat) (s : State) : State := finish (if u < 25 then setErr u 1 s else s) o { status := 0x0101 }

/-- What is pending for a unit is gone. -/
def dropPend (u : Nat) (s : State) : State := showPend (modUpd s fun x => { x with pend := kput none x.pend u none })

/-- The statuses of R499. -/
def upNOTALLOWED : Nat := 0x0101
def upPENDING : Nat := 0x0102
def upUNCONF : Nat := 0x0103
def upBADHDR : Nat := 0x0104
def upCOMPAT : Nat := 0x0105
def upROLLBACK : Nat := 0x0106
def upKEY : Nat := 0x0107
def upDIGEST : Nat := 0x0108
def upBADSIG : Nat := 0x0109
def upCONTENT : Nat := 0x010A
def upNOSTAGED : Nat := 0x010B
def upNOPREV : Nat := 0x010C
def upPASSED : Nat := 0x010D
def upSHORTLEAD : Nat := 0x010E
def upVERSION : Nat := 0x010F
def upNOPEND : Nat := 0x0110
def upCOUNTER : Nat := 0x0111
def upDEFERRED : Nat := 0x0112
def upHOFAIL : Nat := 0x0113
def upSWFAIL : Nat := 0x0114
def upBGFAIL : Nat := 0x0115
def upAUTOFB : Nat := 0x0116

/-! ### Staging (R495) -/

/-- Record i of a MAPS payload (R502). -/
def mapRec (p : List Byte) (i : Nat) : List Byte := (p.drop (16 + 16 * i)).take 16

/-- The first check of R240 that a record of a MAPS payload fails; its element list lies within the payload. -/
def mapRecBad (p r : List Byte) : Option Nat :=
  let md := parseDir r
  if md.count ≠ 0 ∧ (md.addr % 8 ≠ 0 ∨ p.length < md.addr + 8 * md.count) then some 1
  else match dirReason { md with addr := 0, rsv := leAt r 12 4 } with
    | some k => some k
    | none => (firstBad (if md.dir = 2 then md.plen else 2048) 0 (parseElems md.count (p.drop md.addr))).map (·.2)

/-- The checks of a MAPS payload. -/
def mapsBad (p : List Byte) : Option Nat :=
  let n := leAt p 0 4
  if p.length < 16 + 16 * n then some 1
  else if ((p.drop 4).take 12).any (· != 0) then some 3
  else (List.range n).findSome? fun i => mapRecBad p (mapRec p i)

/-- The content checks of step 10 on the package in the slot: the check that fails. -/
def contentBad (s : State) (u k : Nat) (p : List Byte) : Option Nat :=
  if u = 5 then
    if (pkPayload p).length ≠ 1024 then some 3 else (checkTable (pkPayload p)).map (·.1)
  else if u = 6 then
    match checkImage s (unitBase u k + 128) with
    | .ok _ => none
    | .error (c, _) => some c
  else if u = 7 then mapsBad (pkPayload p)
  else none

/-- The steps of R495 before the copy: the first status that fails, or the key. -/
def stageChecks (s : State) (allowed countersOk : Bool) (u plen : Nat) (h : List Byte) : Except Nat (List Byte) :=
  if !allowed then .error upNOTALLOWED
  else if (pendOf s u).isSome then .error upPENDING
  else if actVer s u ≠ 0 && !confirmed s u then .error upUNCONF
  else if !pkHeaderOk u plen h then .error upBADHDR
  else if getF s SYS_IDENT_COMPAT < leAt h 17 1 then .error upCOMPAT
  else if !countersOk then .error upCOUNTER
  else if pkVersion h < getF s (UPD_UNIT_0_MINVER u) ∨ pkVersion h < actVer s u then .error upROLLBACK
  else match keyFor s.upd.keys (leAt h 6 1) (pkKeyid h) with
    | some k => .ok k
    | none => .error upKEY

/-- What a STAGE answers. -/
structure Staged where
  st : State
  status : Nat
  unit : Nat := 0
  version : Nat := 0
  detail : Nat := 0

/-- A STAGE that fails (R499, R510). -/
def stageFails (u status : Nat) (s : State) : State :=
  let s1 := raiseUpd (if status = upCOUNTER then MAJOR else MINOR) u s
  setErr u (status % 256) s1

/-- Stage a package of a given descriptor length (R495). -/
def stagePackage (allowed : Nat → Bool) (countersOk : Bool) (plen : Nat) (p : List Byte) (s : State) : Staged :=
  let h := p.take 128
  match unitOf h with
  | none => { st := raiseVia 5 { cls := MINOR, loc := blkLoc 15 } s, status := upBADHDR, version := pkVersion h }
  | some u =>
    let k := 1 - actSlot s u
    match stageChecks s (allowed u) countersOk u plen h with
    | .error e => { st := stageFails u e s, status := e, unit := u, version := pkVersion h }
    | .ok key =>
      let s1 := setF (writeMem s updReq (unitBase u k) p) (UPD_UNIT_1_OTHVER u) (pkVersion h)
      let bad (e d : Nat) : Staged := { st := stageFails u e (setF s1 (UPD_UNIT_1_OTHSTATE u) 3), status := e, unit := u, version := pkVersion h, detail := d }
      if !digestOk p then bad upDIGEST 0
      else if !sigOk key p then bad upBADSIG 0
      else match contentBad s1 u k p with
        | some c => bad upCONTENT c
        | none => { st := raiseUpd NOTE u (evtUpd UPD_EVT_STAGED (setF s1 (UPD_UNIT_1_OTHSTATE u) 1)), status := stOK, unit := u, version := pkVersion h }

/-- The units a queue may address (R497). -/
def queueMay (q u : Nat) : Bool :=
  if u = 0 then true else if u ≤ 4 then q == u - 1 else if u = 5 then decide (q < 4) else decide (u < 25)

/-- STAGE on queue q: it is written and checked within its command, so that `UPD_STAT.BUSY` is 0 between commands (notes/assumptions/36.md). -/
def runStage (q : Nat) (countersOk : Bool) (s : State) : State :=
  let Q := 0xF00 + q
  starting Q (currentOpc s Q 1) s fun o =>
    let d := opDesc s o
    let a := leAt d 8 8
    let n := leAt d 4 4
    if a % 32 ≠ 0 then finish s o { status := stBADLEN }
    else if !dramSpan a n || !engineMay s Q a n false then finish s o { status := stACCESS }
    else match readMem s a n with
      | none => finish (touch s updReq a n) o { status := stCODE }
      | some p =>
        let r := stagePackage (queueMay q) countersOk n p (touch s updReq a n)
        finish r.st o { status := r.status, ts := if r.status = stOK then ts96 s else 0, res := r.version + r.unit * 2 ^ 32 + r.detail * 2 ^ 40 }

/-! ### What a switch does (R496, R501) -/

/-- The units' table after an activation or a fall-back (R496). -/
def swapSlots (u : Nat) (fall : Bool) (s : State) : State :=
  let old := actVer s u
  let s1 := setF (setF (setF s (UPD_UNIT_1_ACTSLOT u) (1 - actSlot s u)) (UPD_UNIT_0_ACTVER u) (getF s (UPD_UNIT_1_OTHVER u))) (UPD_UNIT_1_OTHVER u) old
  setF (setF (setF s1 (UPD_UNIT_1_CONF u) (b2n fall)) (UPD_UNIT_1_OTHSTATE u) (if fall then 3 else if old = 0 then 0 else 2)) (UPD_UNIT_1_TRIES u) 0

/-- A unit has switched: the table, what was pending, the events and the report (R509, R510). -/
def unitSwitched (u : Nat) (fall : Bool) (s : State) : State :=
  let s1 := evtUpd UPD_EVT_ACTIVE (dropPend u (swapSlots u fall s))
  raiseUpd NOTE u (if fall then evtUpd UPD_EVT_FALLBACK s1 else s1)

/-- The payload of the active slot. -/
def activePayload (s : State) (u : Nat) : List Byte := ((pkAt s u (actSlot s u)).map pkPayload).getD []

/-- The maps of a chain that pass the checks of a MAPSET; the first that fails stops the chain (R44, R240). -/
def chainPasses (s : State) : List (Nat × List Byte) → List (Nat × List Byte) → List (Nat × List Byte)
  | [], acc => acc
  | x :: r, acc => if (checkMap s (fun _ => true) acc x.1 x.2).isSome then acc else chainPasses s r (overlay acc [x])

/-- The maps of a chain take effect: at once, or behind checked maps that still wait, whose pinned places they count on; none while the directory may not be written (R235, R240, R502). -/
def applyChain (ms : List (Nat × List Byte)) (s : State) : State :=
  if !mapsMay s 0 ms then s
  else if s.chart.pendMaps.isEmpty then installMaps ms s
  else modChart s fun c => { c with pendMaps := c.pendMaps ++ [⟨0, 0, stOK, 0, ms⟩] }

/-- Map descriptors in chains of up to 16 take effect (R502). -/
def installChains : Nat → List (Nat × List Byte) → State → State
  | 0, _, s => s
  | n + 1, l, s => if l.isEmpty then s else installChains n (l.drop 16) (applyChain (chainPasses s (l.take 16) []) s)

/-- The address at which triad t enters the vital image of its active slot (R490, R503). -/
def imageEntry (s : State) (t : Nat) : Nat :=
  let base := unitBase (1 + t) (actSlot s (1 + t))
  base + 128 + ((readMem s base 128).map pkEntry).getD 0

/-- A verified vital image is active for triad t, or none is. -/
def setImage (t : Nat) (ok : Bool) (s : State) : State := modTriad s t fun x => { x with image := ok, entry := imageEntry s t }

/-- The content of a unit that has switched comes into force (R501). -/
def applyUnit (u : Nat) (s : State) : State :=
  if u = 0 then holdReset 2 [] { s with pwr := { s.pwr with svcImage := true } }
  else if u ≤ 4 then setImage (u - 1) true s
  else if u = 5 then strobe s
  else if u = 7 then modUpd (installChains 4096 s.upd.dirs s) fun x => { x with dirs := [], mapHalf := 1 - x.mapHalf }
  else if u = 6 then s
  else if u < 16 then setF s (ANL_CHFW_FWVER (u - 8)) (actVer s u)
  else if u < 24 then setF s (ANL_CHFW_CALVER (u - 16)) (actVer s u)
  else modUpd s fun x => { x with keys := activePayload s 24 }

/-- A unit switches. -/
def switchUnit (u : Nat) (fall : Bool) (s : State) : State := applyUnit u (unitSwitched u fall s)

/-! ### Arming (R498, R500, R501) -/

/-- HOLEAD of triad t in ns (R509). -/
def holead (s : State) (t : Nat) : Nat := orElse (getF s (UPD_HO_1_HOLEAD t)) 10 1000 100 * 1000000

/-- The least lead of a unit in ns (R501). -/
def leadOf (s : State) (u : Nat) : Nat :=
  if 1 ≤ u ∧ u ≤ 4 then holead s (u - 1) + 10000000 else if 8 ≤ u ∧ u < 16 then 10000000000 else 10000000

/-- The status with which an activation or fall-back is refused (R496, R499). -/
def armRefused (s : State) (u : Nat) (fall : Bool) (mode wp : Nat) : Option Nat :=
  if (pendOf s u).isSome then some upPENDING
  else if fall && (confirmed s u || othState s u != 2) then some upNOPREV
  else if !fall && othState s u != 1 then some upNOSTAGED
  else if mode ≠ 0 then none
  else if wp ≤ nowNs s then some upPASSED
  else if wp < nowNs s + leadOf s u then some upSHORTLEAD
  else none

/-- The start of the next cycle, in ns of time value. -/
def nextCycleNs (s : State) : Nat := s.mer.cycBase / nsU + s.mer.cycLen

/-- Unit 5: the table and the Waypoint are written and the commit is requested (R370, R501). -/
def armTable (wp : Nat) (s : State) : State :=
  let p := ((pkAt s 5 (1 - actSlot s 5)).map pkPayload).getD []
  let s1 := forN (fun i t => setF t (LOD_SHADOW_DATA i) (leAt p (8 * i) 8)) 0 128 s
  let ts := wp % 1000000000 + wp / 1000000000 * 2 ^ 32
  let s2 := setF (setF s1 LOD_CMTWP0_TSLO (ts % 2 ^ 64)) LOD_CMTWP1_TSHI (ts / 2 ^ 64)
  if onF s LOD_STAT_LINK then modLod s2 fun l => { l with checking := true } else s2

/-- Unit 6: the shadow buffer is loaded and the switch armed for the first cycle start at or after the Waypoint (R192, R193, R501). -/
def armSchedule (wp : Nat) (s : State) : State :=
  let s1 := finishLoad (startLoad (unitBase 6 (1 - actSlot s 6) + 128) (shadowBuf s) s)
  let k := (wp - s.mer.cycBase / nsU + max 1 s.mer.cycLen - 1) / max 1 s.mer.cycLen
  armSwitch ((s1.rhl.cycle + max 1 k) % 2 ^ 32) s1

/-- Unit 7: the element lists are copied into the half of the map area that the maps in force do not use, where no vital region keeps the engine out (R113, R502).
DESIGN CHOICE: each list at its offset in the payload; the halves change places at the switch, so that an activation withdrawn before it costs nothing (notes/assumptions/66.md). -/
def armMaps (s : State) : State :=
  let p := ((pkAt s 7 (1 - actSlot s 7)).map pkPayload).getD []
  let half := 1 - s.upd.mapHalf
  let a := alignDown (getF s UPD_MAPAREA_BASE) (2 ^ 26) + half * 2 ^ 25
  let ds := (List.range (leAt p 0 4)).map fun i =>
    let r := mapRec p i
    (leAt r 10 2, toLE 5 (a + leAt r 0 5) ++ (r.drop 5).take 5 ++ List.replicate 6 0)
  let lists := 16 + 16 * leAt p 0 4
  let free := dramOffChart a p.length && regionMay s 0 (a + lists) (p.length - lists) true
  modUpd (if free then writeMem s updReq (a + lists) (p.drop lists) else s) fun x => { x with mapsUsed := true, dirs := ds }

/-- What arming a unit does at once; NEXTBOOT waits for the start-up (R498). -/
def armUnit (u mode wp : Nat) (s : State) : State :=
  let t := if mode = 1 then nextCycleNs s else wp
  if mode = 2 then s
  else if u = 5 then armTable t s else if u = 6 then armSchedule t s else if u = 7 then armMaps s else s

/-- An activation or fall-back of a unit: armed, or refused with its status. -/
def arm (u : Nat) (fall : Bool) (mode wpTs : Nat) (s : State) : State × Nat :=
  let wp := tsNs wpTs
  match armRefused s u fall mode wp with
  | some e => (setErr u (e % 256) s, e)
  | none =>
    let s1 := armUnit u mode wp s
    let a : PendAct := { fall := fall, mode := mode, wp := wp, cyc := getF s MER_CYCPOS_CYCLES }
    let s2 := showPend (modUpd s1 fun x => { x with pend := kput none x.pend u (some a) })
    (if mode = 0 then setF (setF s2 (UPD_UNIT_2_WPLO u) (wpTs % 2 ^ 64)) (UPD_UNIT_3_WPHI u) (wpTs / 2 ^ 64) else s2, stOK)

/-- ACTIVATE and FALLBACK on queue q. -/
def runArm (q opc : Nat) (fall : Bool) (s : State) : State :=
  starting (0xF00 + q) (currentOpc s (0xF00 + q) opc) s fun o =>
    let d := opDesc s o
    let u := dByte d 8
    let f := dByte d 9
    let mode := if bit f 0 then 1 else if bit f 1 then 2 else 0
    if !queueMay q u then notAllowed o u s
    else
      let r := arm u fall mode (leAt d 12 12) s
      finish r.1 o { status := r.2, ts := if r.2 = stOK then ts96 s else 0 }

/-- CONFIRM (R496). -/
def confirmUnit (u version : Nat) (countersOk : Bool) (s : State) : State × Nat :=
  if version ≠ actVer s u || confirmed s u || actVer s u = 0 then (setErr u (upVERSION % 256) s, upVERSION)
  else if !countersOk then (raiseUpd MAJOR u (setErr u (upCOUNTER % 256) s), upCOUNTER)
  else
    let s1 := setF (setF (setF s (UPD_UNIT_1_CONF u) 1) (UPD_UNIT_0_MINVER u) (actVer s u)) (UPD_UNIT_1_TRIES u) 0
    (raiseUpd NOTE u (if othState s u = 2 then setF s1 (UPD_UNIT_1_OTHSTATE u) 4 else s1), stOK)

/-- A handover that is not to be made any more. -/
def endHandover (u : Nat) (s : State) : State :=
  if 1 ≤ u ∧ u ≤ 4 then setF (setF s (UPD_HO_1_READY (u - 1)) 0) (UPD_HO_1_HOREQ (u - 1)) 0 else s

/-- A pending activation is withdrawn: a commit is cancelled and a schedule switch disarmed (R498, R501). -/
def withdraw (u : Nat) (s : State) : State :=
  let s1 := dropPend u (endHandover u s)
  if u = 5 then modLod (setF s1 LOD_CMTCTL_PEND 0) fun l => { l with checking := false }
  else if u = 6 then setF s1 RHL_SCHSW_PEND 0
  else if u = 7 then modUpd s1 fun x => { x with dirs := [] }
  else if 8 ≤ u ∧ u < 16 ∧ (anlCh s1 (u - 8)).hold then unholdAnl (u - 8) false s1
  else s1

/-! ### Waypoints (R500, R501, R503) -/

/-- The activation of unit u is due: its unit switches, or its own command makes the switch. -/
def unitDue (u : Nat) (a : PendAct) (s : State) : State :=
  let mark := modUpd s fun x => { x with pend := kput none x.pend u (some { a with due := true, at' := freeCnt s }) }
  if 1 ≤ u ∧ u ≤ 4 then
    let st := tState s (u - 1)
    if st = tsOFF ∨ st = tsHALTED then switchUnit u a.fall (endHandover u s) else mark
  else if 8 ≤ u ∧ u < 16 then holdAnl (u - 8) mark
  else switchUnit u a.fall s

/-- The activation of unit u is deferred. -/
def deferUnit (u : Nat) (s : State) : State :=
  let s1 := if u = 5 then strobe s else s
  raiseUpd MINOR u (evtUpd UPD_EVT_DEFER (setErr u (upDEFERRED % 256) (withdraw u s1)))

/-- Meridian has reached the Waypoint of unit u (R500). -/
def reachUnit (u : Nat) (s : State) : State :=
  match pendOf s u with
  | some a =>
    if a.mode ≠ 0 || a.due || decide (nowNs s < a.wp) then s
    else
      let st := getF s MER_STAT_STATE
      if st = 1 ∨ st = 2 then unitDue u a s else deferUnit u s
  | none => s

/-- A cycle start: activations with NOW are due (R498). -/
def nowUnits (s : State) : State :=
  forN (fun u t => match pendOf t u with
    | some a => if a.mode = 1 && !a.due && a.cyc != getF t MER_CYCPOS_CYCLES then unitDue u a t else t
    | none => t) 0 25 s

/-- The handover of triad t is asked for: the new image is checked again first (R503). -/
def askHandover (t : Nat) (s : State) : State :=
  let u := 1 + t
  match pendOf s u with
  | some a =>
    if a.mode = 2 || a.asked || (a.mode == 0 && decide (nowNs s + holead s t < a.wp)) then s
    else
      let k := 1 - actSlot s u
      let s1 := touchSlot u k s
      match pkAt s u k with
      | some p =>
        if digestOk p then
          let s2 := modUpd s1 fun x => { x with pend := kput none x.pend u (some { a with asked := true }) }
          sendMsi (unitLoc u) (getF s (UPD_HO_1_EIID t)) t 0 0 (evtUpd UPD_EVT_HOREQ (setF s2 (UPD_HO_1_HOREQ t) 1))
        else setErr u (upDIGEST % 256) (withdraw u s1)
      | none => setErr u (upDIGEST % 256) (withdraw u s1)
  | none => s

/-- READY, written by its triad (R503). -/
def readyHandover (r : Req) (t : Nat) (s : State) : State :=
  match r with
  | .triad q => if q.val = t then setF s (UPD_HO_1_READY t) 1 else raiseReq MINOR (blkLoc 15) (reqCode r) s
  | _ => raiseReq MINOR (blkLoc 15) (reqCode r) s

/-- The triad restarts in its new image (R503): its architectural state and its captured events as at START, the L1s invalidated, the epoch, then a0 to a2 and the pc of the
lanes. Its interrupt file and the requests of debuggers stay. -/
def enterImage (t : Nat) (old : Nat) (s : State) : State :=
  let asked (x : Triad) : List DbgOp := x.events.filterMap fun e => match e.2 with
    | .dbg op => some op
    | _ => none
  let s1 := modTriad (dropLanes t (fun _ => true) (bumpTriad t (setImage t true s))) t fun x =>
    { x with lanes := [[], [], []], wfi := none, events := [], due := [], maint := asked x ++ x.maint, lastTag := 0, topei := 0, lastIrq := 0 }
  (compared s1 t).foldl (fun x p => setLane t p [0x7B1, 0x100A, 0x100B, 0x100C] [imageEntry s t, getF s (UPD_HO_0_ADDR t), old, getF s (UPD_HO_1_LEN t)] x) s1

/-- The first cycle start at or after the Waypoint, or NOW's, has come for a vital image (R503). -/
def switchCome (a : PendAct) (s : State) : Bool := a.due && !(a.mode == 0 && decide (s.mer.cycBase < a.wp * nsU))

/-- The switch of triad t from the first cycle start at or after the Waypoint on (R503): its boundary is asked of the input agreement stage, and when it is next and every outstanding voted
request has completed, the triad enters the new image. -/
def switchImage (t : Nat) (s : State) : State :=
  let u := 1 + t
  match pendOf s u with
  | some a =>
    let note (b : PendAct) : State := modUpd s fun x => { x with pend := kput none x.pend u (some b) }
    if !switchCome a s then s
    else
      let st := tState s t
      if st = tsOFF ∨ st = tsHALTED then switchUnit u a.fall (endHandover u s)
      else if (st = tsTMR ∨ st = tsDUPLEX) ∧ onF s (UPD_HO_1_READY t) then
        if !a.captured then note { a with captured := true }
        else match firstEvent (triad s t).events, (triad s t).vreq with
          | some (_, .boundary), [] => endHandover u (enterImage t (actVer s u) (unitSwitched u a.fall s))
          | _, _ => s
      else if (st = tsRESYNC ∨ st = tsSUBST) ∧ !a.waited then note { a with waited := true, captured := false, cyc := getF s MER_CYCPOS_CYCLES }
      else if (st = tsRESYNC ∨ st = tsSUBST) ∧ a.cyc = getF s MER_CYCPOS_CYCLES then s
      else raiseUpd MINOR u (evtUpd UPD_EVT_FAIL (setErr u (upHOFAIL % 256) (withdraw u s)))
  | none => s

/-- The new firmware of front end n runs, or its switch begins (R391, R501). -/
def firmware (n : Nat) (running : Bool) (s : State) : State :=
  match pendOf s (8 + n) with
  | some a =>
    if !a.due then s
    else if running then unholdAnl n false (switchUnit (8 + n) a.fall s)
    else holdAnl n s
  | none => s

/-- The front end does not run its new firmware within 50 ms (R501). -/
def firmwareFails (n : Nat) (s : State) : State :=
  match pendOf s (8 + n) with
  | some a =>
    if !a.due || decide (freeCnt s < a.at' + 50000000) then s
    else
      let s1 := setErr (8 + n) (upSWFAIL % 256) (setF (dropPend (8 + n) s) (UPD_UNIT_1_OTHSTATE (8 + n)) 3)
      unholdAnl n true (raiseUpd MINOR (8 + n) (evtUpd UPD_EVT_FAIL s1))
  | none => s

/-- A write to `UPD_MAPAREA` (R502). -/
def writeMapArea (base : Nat) (s : State) : State :=
  if s.upd.mapsUsed then raiseUpd MINOR 7 s else setF s UPD_MAPAREA_BASE base

/-! ### Checks of active packages (R504, R505) -/

/-- The active package of unit u verifies. -/
def activeGood (s : State) (u : Nat) : Bool :=
  match pkAt s u (actSlot s u) with
  | some p => pkGood s.upd.keys u p
  | none => false

/-- The background check of one unit (R504). -/
def checkUnit (u : Nat) (s : State) : State :=
  if actVer s u = 0 then s
  else
    let s1 := touchSlot u (actSlot s u) s
    if activeGood s u then s1
    else
      let s2 := evtUpd UPD_EVT_FAIL (setErr u (upBGFAIL % 256) s1)
      if 1 ≤ u ∧ u ≤ 4 then
        let st := tState s (u - 1)
        raiseUpd VITAL u (if 1 ≤ st ∧ st ≤ 5 then safeHalt (u - 1) 7 s2 else s2)
      else raiseUpd MAJOR u s2

/-- `BACKGROUND_CHECK`: 24 h of `MER_FREECNT` have passed since the last one. -/
def background (s : State) : State :=
  if freeCnt s < s.upd.bgAt + 86400000000000 then s
  else incW (forN checkUnit 0 25 (modUpd s fun x => { x with bgAt := freeCnt s })) UPD_STAT_BGPASSES

/-- The error code of a unit that fails at start-up (R505). -/
def bootErr (u : Nat) : Nat :=
  if u = 0 then 8 else if u ≤ 4 then 7 else if u = 5 then 1 else if u = 6 then 2 else if u = 7 then 3 else if u < 16 then 4 else if u < 24 then 5 else 6

/-- `SYS_BOOT.ERR` holds the lowest code found. -/
def noteErr (c : Nat) (s : State) : State := if getF s SYS_BOOT_ERR = 0 ∨ c < getF s SYS_BOOT_ERR then setF s SYS_BOOT_ERR c else s

/-- An automatic fall-back, where there is a PREVIOUS slot (R496, R505). -/
def autoFall (u : Nat) (s : State) : State :=
  if othState s u ≠ 2 then s
  else raiseUpd MAJOR u (noteErr 9 (setErr u (upAUTOFB % 256) (evtUpd UPD_EVT_FALLBACK (swapSlots u true s))))

/-- The keys come into force before other units are verified. -/
def takeKeys (u : Nat) (s : State) : State := if u = 24 then modUpd s fun x => { x with keys := activePayload s 24 } else s

/-- One unit at start-up: its NEXTBOOT switch, its tries, its verification (R498, R505). -/
def bootUnit (u : Nat) (s0 : State) : State :=
  let s := match pendOf s0 u with
    | some a => if a.mode = 2 then unitSwitched u a.fall s0 else s0
    | none => s0
  if actVer s u = 0 then s
  else
    let s1 := if confirmed s u then s else
      let t := incF s (UPD_UNIT_1_TRIES u)
      if max 1 (liveF s UPD_CTRL_MAXTRY) ≤ getF t (UPD_UNIT_1_TRIES u) then autoFall u t else t
    let s2 := takeKeys u (touchSlot u (actSlot s1 u) s1)
    if activeGood s2 u then setF s2 (UPD_UNIT_1_FAILED u) 0
    else
      let s3 := if confirmed s2 u then s2 else takeKeys u (autoFall u s2)
      if activeGood s3 u then setF s3 (UPD_UNIT_1_FAILED u) 0
      else noteErr (bootErr u) (setF (if u = 24 then modUpd s3 fun x => { x with keys := [] } else s3) (UPD_UNIT_1_FAILED u) 1)

/-- A unit's content is in force after verification. -/
def unitUp (s : State) (u : Nat) : Bool := actVer s u != 0 && !onF s (UPD_UNIT_1_FAILED u)

/-- The verification stage (R475, R477, R505): the key list first, then the others; the verified vital and service images; Pilot mode where there is no image. -/
def verifyStage (countersOk : Bool) (s : State) : State :=
  let s1 := forN bootUnit 0 24 (bootUnit 24 s)
  let s2 := forN (fun t x => setFBit (setImage t (unitUp x (1 + t)) x) SYS_BOOT_TRIADS t (unitUp x (1 + t))) 0 4 s1
  let s3 : State := { s2 with pwr := { s2.pwr with svcImage := unitUp s2 0 } }
  let s4 := if countersOk then s3 else noteErr 10 s3
  if getF s4 SYS_BOOT_TRIADS = 0 && !s4.pwr.svcImage then noteErr 11 (modUpd s4 fun x => { x with want := true }) else s4

/-! ### Pilot mode (R506–R508) -/

/-- The Pilot scratch is cleared (R81, R507). -/
def clearScratch (s : State) : State :=
  let out (a : Nat) : Bool := decide (a < 0x1079000000) || decide (0x1080000000 ≤ a)
  { s with mem := s.mem.filter fun c => out c.1, chk := s.chk.filter fun c => out (8 * c.1), caches := s.caches.filter fun c => out (64 * c.line) }

/-- Pilot mode starts; everything else of the module group stays in its reset state (R507). -/
def enterPilot (s : State) : State :=
  if !s.upd.want then s
  else
    let s1 := setF (setF (modUpd s fun x => { x with want := false, disp := none }) SYS_BOOT_STAGE 8) UPD_STAT_PILOT 1
    clearScratch (enableAnl none false (enableFio false s1))

/-- A module reset into Pilot mode. -/
def resetToPilot (cause : Nat) (s : State) : State :=
  if s.pwr.seq ≠ 0 then s else modUpd (resetModule cause s) fun x => { x with want := true }

/-- A character of the display for a hexadecimal digit of a status. -/
def errText (e : Nat) : Nat := chars 0x45 (digit (e / 256)) (digit (e / 16)) (digit e)

/-- A TFTP error packet 0 with the text `E` and the status in hex; how many digits it has is open (R508; notes/assumptions/1.md). -/
def tftpError (e : Nat) : List Byte :=
  [0, 5, 0, 0, 0x45] ++ (if e < 256 then [] else [BitVec.ofNat 8 (digit (e / 256))]) ++ [BitVec.ofNat 8 (digit (e / 16)), BitVec.ofNat 8 (digit e), 0]

/-- What Pilot mode answers over X12. -/
def tftpReply (d : List Byte) (s : State) : State := emit s (.sent .maintenance 69 d)

/-- The outcome of a request in Pilot mode: the display and an error packet where it failed. -/
def tftpDone (status : Nat) (s : State) : State :=
  let s1 := modUpd s fun x => { x with disp := some (if status = stOK then chars 0x4F 0x4B 0x20 0x20 else errText status) }
  if status = stOK then s1 else tftpReply (tftpError status) s1

/-- A package received over TFTP (R508). -/
def pilotStage (p : List Byte) (countersOk : Bool) (s : State) : State :=
  if !onF s UPD_STAT_PILOT then s
  else if 0x10000000 + 224 < p.length then tftpDone upBADHDR s
  else
    let r := stagePackage (fun _ => true) countersOk p.length p s
    if r.status ≠ stOK then tftpDone r.status r.st
    else
      let a := arm r.unit false 2 0 r.st
      tftpDone a.2 a.1

/-- A unit's record of the `status` file (R508). -/
def statusRecord (s : State) (u : Nat) : List Byte :=
  toLE 4 (actVer s u) ++ toLE 4 (getF s (UPD_UNIT_0_MINVER u)) ++ toLE 4 (getF s (UPD_UNIT_1_OTHVER u))
    ++ toLE 1 (actSlot s u + 2 * b2n (confirmed s u) + 4 * othState s u) ++ toLE 1 (getF s (UPD_UNIT_1_TRIES u)) ++ toLE 1 (getF s (UPD_UNIT_1_LASTERR u)) ++ [0]

/-! ### The commands -/

/-- `STAGE` (R495); `countersOk` tells that the unit's counter can be read. -/
def execStage (q : Fin 5) (countersOk : Bool) (s : State) : Host.Outcome State Fault Refusal := .next (runStage q.val countersOk s)

/-- `ACTIVATE` (R498). -/
def execActivate (q : Fin 5) (s : State) : Host.Outcome State Fault Refusal := .next (runArm q.val 2 false s)

/-- `CONFIRM` (R496); `countersOk` tells that the unit's counter can be advanced. -/
def execConfirm (q : Fin 5) (countersOk : Bool) (s : State) : Host.Outcome State Fault Refusal :=
  .next (starting (0xF00 + q.val) (currentOpc s (0xF00 + q.val) 3) s fun o =>
      let d := opDesc s o
      let u := dByte d 8
      if !queueMay q.val u then notAllowed o u s
      else
        let r := confirmUnit u (leAt d 12 4) countersOk s
        finish r.1 o { status := r.2, ts := if r.2 = stOK then ts96 s else 0 })

/-- `FALLBACK` (R496, R498). -/
def execFallback (q : Fin 5) (s : State) : Host.Outcome State Fault Refusal := .next (runArm q.val 4 true s)

/-- `CANCEL` (R498); once a vital switch boundary is captured, or a front end switches its firmware, it comes too late. -/
def execCancel (q : Fin 5) (s : State) : Host.Outcome State Fault Refusal :=
  .next (starting (0xF00 + q.val) (currentOpc s (0xF00 + q.val) 5) s fun o =>
      let u := dByte (opDesc s o) 8
      if !queueMay q.val u then notAllowed o u s
      else if (pendOf s u).all (fun a => a.captured || (a.due && decide (8 ≤ u) && decide (u < 16))) then finish (setErr u (upNOPEND % 256) s) o { status := upNOPEND }
      else finish (withdraw u s) o { status := stOK, ts := ts96 s })

/-- `PILOT` (R498): with the right key the descriptor never completes. -/
def execPilot (q : Fin 5) (s : State) : Host.Outcome State Fault Refusal :=
  .next (starting (0xF00 + q.val) (currentOpc s (0xF00 + q.val) 6) s fun o => if leAt (opDesc s o) 4 4 = 0x50494C54 then resetToPilot 2 s else finish s o { status := upNOTALLOWED })

/-- `WAYPOINT_REACHED` (R500). -/
def execWaypointReached (s : State) : Host.Outcome State Fault Refusal := .next (forN reachUnit 0 25 s)

/-- `HANDOVER_REQUEST` (R503). -/
def execHandoverRequest (t : Fin 4) (s : State) : Host.Outcome State Fault Refusal := .next (askHandover t.val s)

/-- `HANDOVER_READY` (R503). -/
def execHandoverReady (r : Req) (t : Fin 4) (s : State) : Host.Outcome State Fault Refusal := .next (readyHandover r t.val s)

/-- `VITAL_IMAGE_SWITCH` (R503). -/
def execVitalImageSwitch (t : Fin 4) (s : State) : Host.Outcome State Fault Refusal := .next (switchImage t.val s)

/-- `FIRMWARE_SWITCH_HOLD` (R391): the front end holds its current, and with `running` it reports its new firmware running. -/
def execFirmwareSwitchHold (n : Fin 8) (running : Bool) (s : State) : Host.Outcome State Fault Refusal := .next (firmware n.val running s)

/-- `AFW_SWITCH_FAIL` (R501). -/
def execAfwSwitchFail (n : Fin 8) (s : State) : Host.Outcome State Fault Refusal := .next (firmwareFails n.val s)

/-- `MAPAREA_WRITE` (R502). -/
def execMapareaWrite (_r : Req) (base : BitVec 40) (s : State) : Host.Outcome State Fault Refusal := .next (writeMapArea base.toNat s)

/-- `BACKGROUND_CHECK` (R504). -/
def execBackgroundCheck (s : State) : Host.Outcome State Fault Refusal := .next (background s)

/-- `PILOT_ENTRY` (R507). -/
def execPilotEntry (s : State) : Host.Outcome State Fault Refusal := .next (enterPilot s)

/-- `TFTP_STAGE` (R508). -/
def execTftpStage (package : List Byte) (countersOk : Bool) (s : State) : Host.Outcome State Fault Refusal := .next (pilotStage package countersOk s)

/-- `TFTP_FALLBACK` (R508). -/
def execTftpFallback (u : Fin 25) (s : State) : Host.Outcome State Fault Refusal :=
  let r := arm u.val true 2 0 s
  .next (if onF s UPD_STAT_PILOT then tftpDone r.2 r.1 else s)

/-- `TFTP_RESET` (R508): a module reset into normal start-up; the spec gives RSTCAUSE no code for it, so that the field takes a free value. -/
def execTftpReset (s : State) : Host.Outcome State Fault Refusal :=
  .next (if onF s UPD_STAT_PILOT && s.pwr.seq == 0 then setFree (resetModule 0 s) SYS_PWRSTAT_RSTCAUSE else s)

/-- `TFTP_STATUS` (R508). -/
def execTftpStatus (s : State) : Host.Outcome State Fault Refusal :=
  .next (if onF s UPD_STAT_PILOT then tftpReply ((List.range 25).flatMap (statusRecord s)) s else s)

/-- `MODRESET` (R506): a depot session resets the module, into Pilot mode where it asks so; others are refused. It does not end Pilot mode (R507). -/
def execModreset (cert : Cert) (pilot : Bool) (s : State) : Host.Outcome State Fault Refusal :=
  .next (if cert = .depot then if onF s UPD_STAT_PILOT then s else if pilot then resetToPilot 3 s else resetModule 3 s else raiseReq NOTE (blkLoc 15) 0x61 (deny s .debugger .access))

end Sys2Proof.Machine
end

