-- ==== Sys2Proof/Machine/Power.lean ====
section
/-! DEFINITION. Power, wake, start-up, interruptions and shutdown, and the thermal state and cover (R469–R489, R526, R530). -/

namespace Sys2Proof.Machine

/-- Change the power state. -/
def modPwr (s : State) (f : Pwr → Pwr) : State := { s with pwr := f s.pwr }

/-- A report of the power circuits: die 7, island 0xF (R489). -/
def raisePwr (cls tile : Nat) (s : State) : State := raiseVia 0 { cls := cls, loc := ⟨7, 0xF, tile, 0xFF⟩ } s

/-- The accepted level of a wake input. -/
def wakeFld (second : Bool) : Fld := if second then SYS_PWRSTAT_WAKE2 else SYS_PWRSTAT_WAKE1

/-- A wake input is accepted ON. -/
def anyWake (s : State) : Bool := onF s SYS_PWRSTAT_WAKE1 || onF s SYS_PWRSTAT_WAKE2

/-- OFFDLY in force, in seconds (R488). -/
def offDelay (s : State) : Nat := max 1 (min 3600 (liveF s SYS_PWRCTL_OFFDLY))

/-- OFFDLY starts to run. -/
def startOffDly (s : State) : State := evtPwr SYS_PWREVT_OFFPEND (modPwr (setF s SYS_PWRSTAT_OFFPEND 1) fun p => { p with offAt := freeCnt s })

/-- A wake input is accepted ON: it ends a running OFFDLY (R472, R483). -/
def acceptWake (second : Bool) (s : State) : State :=
  if onF s (wakeFld second) then s
  else
    let s1 := setF s (wakeFld second) 1
    if s.pwr.phase ≠ 2 then s1 else setF (evtPwr SYS_PWREVT_WAKECHG s1) SYS_PWRSTAT_OFFPEND 0

/-- A wake input goes OFF: with both OFF, OFFDLY starts, and a wake condition is possible again (R474, R483). -/
def loseWake (second : Bool) (s : State) : State :=
  if !onF s (wakeFld second) then s
  else
    let s1 := setF s (wakeFld second) 0
    let s2 := if anyWake s1 then s1 else modPwr s1 fun p => { p with waitOff := false }
    if s.pwr.phase ≠ 2 then s2
    else
      let s3 := evtPwr SYS_PWREVT_WAKECHG s2
      if anyWake s3 || s.pwr.seq ≠ 0 then s3 else startOffDly s3

/-- The module powers up from standby (R474, R484). -/
def powerUp (s : State) : State :=
  if s.pwr.phase ≠ 0 || !s.pwr.batt || s.pwr.waitOff || !anyWake s then s
  else
    let by' := getF s SYS_PWRSTAT_WAKE1 + 2 * getF s SYS_PWRSTAT_WAKE2
    setF (setF (modPwr s fun p => { p with phase := 1 }) SYS_PWRSTAT_WOKEBY by') SYS_PWRSTAT_LASTOFF s.pwr.marker

/-- The power-cycle count at power-good (R165). -/
def advanceCount (ok : Bool) (s : State) : State :=
  if !ok then raise MAJOR (merLoc 0x04) (setF s MER_PCC_INVALID 1)
  else if getF s MER_PCC_COUNT = 0xFFFF then raise MINOR (merLoc 0x04) (setF s MER_PCC_SAT 1)
  else incF s MER_PCC_COUNT

/-- Meridian at power-good: time and free-running count 0, RATE 0, FREE, no alarm armed, and the first cycle starts (R163, R177, R180, R181). -/
def meridianStart (s : State) : State :=
  let s1 : State := { s with mer := {} }
  let s2 := setF (setF (setF (setF s1 MER_FREECNT_COUNT 0) MER_STAT_STATE 0) MER_RATE_RATE 0) MER_CYCPOS_CYCLES 1
  forN (fun k t => setF t (MER_ALMC_ARM k) 0) 0 8 s2

/-- Power-good (R163, R165, R475, R484, R489). -/
def goodPower (counterOk : Bool) (s : State) : State :=
  if s.pwr.phase ≠ 1 then s
  else
    let s1 := meridianStart (modPwr s fun p => { p with phase := 2 })
    let s2 := advanceCount counterOk (setF s1 SYS_BOOT_STAGE 1)
    let s3 := if getF s SYS_PWRSTAT_LASTOFF = 4 then raisePwr MAJOR 0xFF s2 else s2
    let s4 := showLog (showPend (modUpd s3 fun u => { u with setHeld := onF s SYS_BINN_SET }))
    if anyWake s then s4 else startOffDly s4

/-! ### Start-up (R475–R477) -/

/-- The cores that fail the extended self-test with their MAJOR reports, those that pass with their NOTEs, and the spares that take the positions of the failed (R146, R153). -/
def placeCores (fails : BitVec 14) (s : State) : State :=
  let bad := (List.range 14).filter fun c => fails.getLsbD c
  let s1 := forN (fun c t => if bad.contains c then raise MAJOR (coreLoc c 0xFF) (setCore t c csFAILED) else raise NOTE (coreLoc c 0xFF) t) 0 14 s
  (bad.filter fun c => decide (c < 12)).foldl (fun t c => forN (fun k u =>
    if coreAt u (k / 3) (k % 3) ≠ c then u
    else match ([12, 13] : List Nat).find? fun x => getF u (VTC_CSTAT_CORE x) == csPOOL with
      | some x => setCore (setF u (tmapFld (k / 3) (k % 3)) x) x csLANE
      | none => setF u (tmapFld (k / 3) (k % 3)) 0xF) 0 12 t) s1

/-- DRAM is written with zeros and valid check bytes (R79). -/
def clearDram (s : State) : State :=
  { s with mem := s.mem.filter fun c => !inDram c.1, chk := s.chk.filter fun c => !inDram (8 * c.1), caches := s.caches.filter fun c => !inDram (64 * c.line) }

/-- The boot code commits the active Lodestone table while none is active (R370, R373, R505). -/
def bootTable (s : State) : State :=
  if !unitUp s 5 || s.lod.table.isSome then s
  else
    let p := activePayload s 5
    commitNow (forN (fun i t => setF t (LOD_SHADOW_DATA i) (leAt p (8 * i) 8)) 0 128 s)

/-- Front ends whose firmware or calibration differs from the active package are loaded (R505). -/
def bootFrontEnds (s : State) : State :=
  forN (fun n t =>
    let t1 := if unitUp t (8 + n) then setF t (ANL_CHFW_FWVER n) (actVer t (8 + n)) else t
    if unitUp t1 (16 + n) then setF t1 (ANL_CHFW_CALVER n) (actVer t1 (16 + n)) else t1) 0 8 s

/-- START for each triad that has a verified image (R128, R475). -/
def bootTriads (s : State) : State := forN (fun t x => if (triad x t).image then startTriad (.engine 15 0) t x else x) 0 4 s

/-- VREADY: the Lodestone table is active, and every triad with a verified image has left START after start-up issued it (R476). -/
def checkVready (s : State) : State :=
  let st := getF s SYS_BOOT_STAGE
  if onF s SYS_PWRSTAT_VREADY || !(st == 6 || st == 7) || s.lod.table.isNone then s
  else if (List.range 4).all fun t => !(triad s t).image || tState s t != tsSTART then evtPwr SYS_PWREVT_VREADY (setF s SYS_PWRSTAT_VREADY 1)
  else s

/-- The next stage of start-up: the analog channels are idle after a module reset (R412), its event, then `SYS_BOOT.STAGE` (R475, R477, R485, R506). -/
def nextStage (coreFails : BitVec 14) (countersOk : Bool) (s : State) : State :=
  let st := getF s SYS_BOOT_STAGE
  let onward (t : State) : State := checkVready (setF t SYS_BOOT_STAGE (st + 1))
  if s.pwr.phase ≠ 2 || s.pwr.seq ≠ 0 || s.upd.want then s
  else if st = 1 then
    let s1 := showLog (setF (forN followEn 0 8 s) MEM_STAT_NVREADY 1)
    onward (if s.upd.setHeld && onF s SYS_BINN_SET then modUpd s1 fun u => { u with want := true } else s1)
  else if st = 2 then onward (placeCores coreFails (setF (clearDram s) MEM_STAT_DRREADY 1))
  else if st = 3 then onward (verifyStage countersOk s)
  else if st = 4 then onward (bootTable s)
  else if st = 5 then onward (bootTriads (enableAnl none true (enableFio true (bootFrontEnds s))))
  else if st = 6 && s.pwr.svcImage then onward s
  else s

/-- A write of SVCREADY (R476). -/
def svcIsReady (s : State) : State := evtPwr SYS_PWREVT_FREADY (setF (setF s SYS_PWRSTAT_FREADY 1) SYS_BOOT_SVCREADY 1)

/-! ### Interruptions and the sequence of R480 -/

/-- An interruption begins (R469). -/
def interrupt (s : State) : State :=
  let s1 := modPwr s fun p => { p with batt := false }
  if s.pwr.phase ≠ 2 || onF s SYS_PWRSTAT_INTR then s1
  else evtPwr SYS_PWREVT_INTR (incF (modPwr (setF s1 SYS_PWRSTAT_INTR 1) fun p => { p with intrAt := freeCnt s }) SYS_PWRCNT_INTR)

/-- An interruption ends (R469, R478). -/
def restorePower (s : State) : State :=
  let s1 := modPwr s fun p => { p with batt := true }
  if !onF s SYS_PWRSTAT_INTR then s1
  else
    let s2 := setF s1 SYS_PWRSTAT_INTR 0
    if onF s SYS_PWRSTAT_PFAIL then s2 else raisePwr NOTE 0x00 s2

/-- SVC, NET, TTB, MDB and BRG stop (R401, R480). -/
def shed (s : State) : State :=
  setF (([0x2, 0x6, 0x8, 0x9, 0xA] : List Nat).foldl (fun t i => setF (setF t (SYS_ISL_SHED i) 1) (SYS_ISL_STOPPED i) 1) s) SYS_PWRSTAT_SHED 1

/-- The sequence of R480 starts: the first marker, the flush, the shedding (R461, R480, R483, R484). -/
def startSequence (seq : Nat) (s : State) : State :=
  shed (startFlush (modPwr (setF s SYS_PWRSTAT_OFFPEND 0) fun p => { p with seq := seq, seqAt := freeCnt s, marker := 4, waitOff := seq != 1 && anyWake s }))

/-- A power-fail is declared: 10 ms of interruption, or the bank at its reserve (R479, R480). -/
def declareFail (reserve : Bool) (s : State) : State :=
  if s.pwr.phase ≠ 2 || s.pwr.seq ≠ 0 || !onF s SYS_PWRSTAT_INTR || (!reserve && decide (freeCnt s < s.pwr.intrAt + 10000000)) then s
  else startSequence 1 (raisePwr MAJOR 0x00 (incF (setF s SYS_PWRSTAT_PFAIL 1) SYS_PWRCNT_PFAIL))

/-- OFFDLY has run without a break (R483). -/
def offDlyEnds (s : State) : State :=
  if s.pwr.phase ≠ 2 || s.pwr.seq ≠ 0 || !onF s SYS_PWRSTAT_OFFPEND || decide (freeCnt s < s.pwr.offAt + offDelay s * 1000000000) then s
  else startSequence 2 s

/-- A write to `SYS_PWROFF` (R482, R483). -/
def writePwroff (r : Req) (key : Nat) (s : State) : State :=
  if key = 0x5A3C && isTriadOrMach r && s.pwr.seq = 0 && s.pwr.phase = 2 then startSequence 3 s else s

/-- The sequence ends: its flush and its halts have been made, the second marker is written and the converter switches off; or the supply was lost before
(R480, R484). -/
def endSequence (complete : Bool) (s : State) : State :=
  if s.pwr.seq = 0 then s
  else if complete then unpowered (modPwr (outputsOff (flushAll s)) fun p => { p with marker := p.seq })
  else unpowered s

/-- A write to `SYS_RESET` (R482, R485); it does not end Pilot mode (R507). -/
def writeReset (r : Req) (key : Nat) (s : State) : State := if key = 0xA5C3 && isTriadOrMach r && !onF s UPD_STAT_PILOT then resetModule 1 s else s

/-! ### The thermal state (R526) -/

/-- A measurement, with the runs of each condition. -/
def measureTemp (x : BitVec 8) (s : State) : State :=
  let v := x.toInt
  let run (b : Bool) (n : Nat) : Nat := if b then min (n + 1) 101 else 0
  let h := s.therm
  let ts := getF s SYS_THERM_TSTATE
  let hot := if ts = 1 ∨ ts = 2 then h.tenths + 1 else h.tenths
  let s1 := setF s SYS_THERM_TREF x.toNat
  let s2 := if h.any && decide (v ≤ (BitVec.ofNat 8 (getF s SYS_THERM_TMAX)).toInt) then s1 else setF s1 SYS_THERM_TMAX x.toNat
  let s3 := if hot = 10 then incF s2 SYS_THERM_HOTSEC else s2
  { s3 with therm := { h with ge97 := run (decide (97 ≤ v)) h.ge97, ge102 := run (decide (102 ≤ v)) h.ge102, ge112 := run (decide (112 ≤ v)) h.ge112, lt94 := run (decide (v < 94)) h.lt94, lt99 := run (decide (v < 99)) h.lt99, tenths := hot % 10, any := true } }

/-- The thermal state becomes NORMAL, T75 or T50; the service cluster's clock follows. -/
def setTherm (v : Nat) (s : State) : State :=
  raiseVia 0 { cls := NOTE, loc := ⟨7, 0xF, 0x02, 0x00⟩ } (setF (setF { s with therm := { s.therm with clk := v } } SYS_THERM_TSTATE v) SVC_STAT_THROT v)

/-- The change that a held condition brings: 1 s is 11 measurements, 10 s are 101. -/
def changeTherm (s : State) : State :=
  let ts := getF s SYS_THERM_TSTATE
  let h := s.therm
  if ts = 3 then s
  else if 11 ≤ h.ge112 then raiseCause 2 (setF s SYS_THERM_TSTATE 3)
  else if ts = 0 && decide (11 ≤ h.ge97) then setTherm 1 s
  else if ts = 1 && decide (11 ≤ h.ge102) then setTherm 2 s
  else if ts = 1 && decide (101 ≤ h.lt94) then setTherm 0 s
  else if ts = 2 && decide (101 ≤ h.lt99) then setTherm 1 s
  else s

/-- The cover is removed or refitted (R530). -/
def moveCover (removed : Bool) (s : State) : State :=
  let s1 := setB s SYS_THERM_COVER removed
  if removed && !onF s SYS_THERM_COVER then raiseVia 0 { cls := NOTE, loc := ⟨7, 0xF, 0x02, 0x01⟩ } s1 else s1

/-- A star port's link, with the bytes sent of a frame that is being forwarded from it; ports 16 and 17 lie inside the module (R183, R185, R218). -/
def starLink (p : Nat) (up : Bool) (inFlight : Option Nat) (s : State) : State :=
  let s1 := setB s (RHL_PSTAT_LINK p) up
  match up, inFlight with
  | false, some n => truncateNow p n s1
  | _, _ => s1

/-! ### The commands -/

/-- `WAKE_ACCEPT` (R472, R483). -/
def execWakeAccept (second : Bool) (s : State) : Host.Outcome State Fault Refusal := .next (acceptWake second s)

/-- `WAKE_INPUT_OFF` (R483). -/
def execWakeInputOff (second : Bool) (s : State) : Host.Outcome State Fault Refusal := .next (loseWake second s)

/-- `POWER_UP` (R474). -/
def execPowerUp (s : State) : Host.Outcome State Fault Refusal := .next (powerUp s)

/-- `POWER_GOOD` (R475); `counterOk` tells that the power-cycle counter can be read and advanced. -/
def execPowerGood (counterOk : Bool) (s : State) : Host.Outcome State Fault Refusal := .next (goodPower counterOk s)

/-- `BOOT_STAGE` (R475); `coreFails` are the cores that fail the extended self-test, `countersOk` tells that every version counter can be read. -/
def execBootStage (coreFails : BitVec 14) (countersOk : Bool) (s : State) : Host.Outcome State Fault Refusal := .next (nextStage coreFails countersOk s)

/-- `SVCREADY` (R476). -/
def execSvcready (_r : Req) (s : State) : Host.Outcome State Fault Refusal := .next (svcIsReady s)

/-- `INTERRUPTION_START` (R469). -/
def execInterruptionStart (s : State) : Host.Outcome State Fault Refusal := .next (interrupt s)

/-- `INTERRUPTION_END` (R478). -/
def execInterruptionEnd (s : State) : Host.Outcome State Fault Refusal := .next (restorePower s)

/-- `POWER_FAIL_DECLARE` (R479); `reserve` tells that the bank has reached its reserve. -/
def execPowerFailDeclare (reserve : Bool) (s : State) : Host.Outcome State Fault Refusal := .next (declareFail reserve s)

/-- `POWER_DOWN_END` (R480, R484); `complete` tells that the sequence has run to its end. -/
def execPowerDownEnd (complete : Bool) (s : State) : Host.Outcome State Fault Refusal := .next (endSequence complete s)

/-- `BANK_MEASURE` (R481): the bank is full and holds this usable energy in mJ. -/
def execBankMeasure (mj : BitVec 16) (s : State) : Host.Outcome State Fault Refusal :=
  let s1 := setF (setF s SYS_PWRSTAT_HUFULL 1) SYS_PWRMON_EBANK mj.toNat
  .next (if mj.toNat < 2000 then raisePwr MAJOR 0x01 s1 else s1)

/-- `OFFDLY_EXPIRY` (R483). -/
def execOffdlyExpiry (s : State) : Host.Outcome State Fault Refusal := .next (offDlyEnds s)

/-- `PWROFF` (R483). -/
def execPwroff (r : Req) (key : BitVec 16) (s : State) : Host.Outcome State Fault Refusal := .next (writePwroff r key.toNat s)

/-- `MODULE_RESET` (R485). -/
def execModuleReset (r : Req) (key : BitVec 16) (s : State) : Host.Outcome State Fault Refusal := .next (writeReset r key.toNat s)

/-- `THERMAL_MEASURE` (R526): TREF in signed °C, every 100 ms. -/
def execThermalMeasure (tref : BitVec 8) (s : State) : Host.Outcome State Fault Refusal := .next (measureTemp tref s)

/-- `THERMAL_STATE_CHANGE` (R526). -/
def execThermalStateChange (s : State) : Host.Outcome State Fault Refusal := .next (changeTherm s)

/-- `COVER` (R530). -/
def execCover (removed : Bool) (s : State) : Host.Outcome State Fault Refusal := .next (moveCover removed s)

/-- `STAR_PORT_LINK_CHANGE` (R218); `inFlight` is how many bytes of a frame in progress from the port have been sent. -/
def execStarPortLinkChange (port : Fin 16) (up : Bool) (inFlight : Option Nat) (s : State) : Host.Outcome State Fault Refusal :=
  .next (starLink port.val up inFlight s)

end Sys2Proof.Machine
end

