-- ==== Sys2Proof/Machine/Access.lean ====
section
/-! DEFINITION. Register writes with what each register brings about, alias pages, the boundaries of live fields, the start of a cycle, and the commands that can complete
start-up (R29–R37, R47, R76, R177, R476). -/

namespace Sys2Proof.Machine

/-! ### Fields whose write is an operation of its own -/

/-- The queue of a queue register set, for its `QCTRL` (R46). -/
def queueOf (g : Nat) : Option Nat :=
  let o := g % 2 ^ 24
  let Q := blkOf g * 256 + (o - 0x8000) / 0x80
  if 0x8000 ≤ o ∧ o < 0x10000 ∧ o % 0x80 = 0 ∧ listedQueue Q then some Q else none

/-- The channel of a channel page of a block whose pages start at 0x1_0000, and the offset in the page. -/
def pageOf (g : Nat) : Option (Nat × Nat) :=
  let o := g % 2 ^ 24
  if 0x10000 ≤ o ∧ o < 0x50000 then some ((o - 0x10000) / 0x1000, o % 0x1000) else none

/-- The list of a backbone gate entry (R280). -/
def gateList (g : Nat) : Option (Nat × Nat) :=
  match pageOf g with
  | some (n, p) => if blkOf g = 7 ∧ 0x400 ≤ p ∧ p < 0xC00 then some (n, (p - 0x400) / 0x400) else none
  | none => none

/-- The fields of a register that only their own operation writes. -/
def ownFields (g : Nat) : List Fld :=
  match queueOf g with
  | some Q => [QCTRL_EN Q]
  | none =>
    let b := blkOf g
    let o := g % 2 ^ 24
    match b, pageOf g with
    | 5, some (n, 0) => [RHL_PCTRL_EN n]
    | 7, some (n, 0x28) => [BKB_GCLCTL_CNT0 n, BKB_GCLCTL_CNT1 n]
    | 8, some (n, 0) => [MDB_CCTRL_EN n]
    | 11, some (n, 0) => [ANL_CHCFG_EN n]
    | 11, some (n, 0x10) => [ANL_CHTRIM_ZERO n, ANL_CHTRIM_SPAN n]
    | _, _ =>
      if b = 0 ∧ 0x400 ≤ o ∧ o < 0x480 then [SYS_ISL_QUIESCE ((o - 0x400) / 8)]
      else if b = 1 ∧ 0x2000 ≤ o ∧ o < 0x2080 then regFields 0 g
      else if b = 2 ∧ 0x4000 ≤ o ∧ o < 0x5000 ∧ o % 0x40 = 0 then [SVC_PCTRL_CORES ((o - 0x4000) / 0x40)]
      else if b = 5 ∧ o = 0 then [RHL_CTRL_EN]
      else if b = 7 ∧ 0x4000 ≤ o ∧ o < 0x6000 ∧ o % 0x20 = 0 then [BKB_FC_0_EN ((o - 0x4000) / 0x20)]
      else if b = 9 ∧ o = 0 then [BRG_CTRL_EN]
      else if b = 10 ∧ o = 0 then [FIO_CTRL_EN]
      else if b = 10 ∧ (o = 0x30 ∨ o = 0x48 ∨ o = 0x50) then regFields 0 g
      else if b = 11 ∧ o = 0 then [ANL_CTRL_EN]
      else if b = 13 ∧ o = 0 then [PRL_CTRL_EN]
      else if b = 14 ∧ o = 0x48 then [LOG_CURSOR_SEQ]
      else if b = 15 ∧ o = (UPD_MAPAREA_BASE).addr % 2 ^ 24 then [UPD_MAPAREA_BASE]
      else []

/-! ### What a write brings about -/

/-- A register write after its ordinary fields have been stored: requester, address, size, value, and the state before it. -/
structure Wr where
  r : Req
  a : Nat
  size : Nat
  val : Word
  s0 : State

/-- The 64-bit register written. -/
def Wr.g (w : Wr) : Nat := regOf w.a

/-- The written value at its place in the register. -/
def Wr.v (w : Wr) : Nat := placed w.a w.size w.val

/-- The value written to a field. -/
def Wr.bits (w : Wr) (f : Fld) : Nat := Machine.bits w.v f.lo f.w

/-- The write reaches the field. -/
def Wr.has (w : Wr) (f : Fld) : Bool := covered w.a w.size f

/-- The whole register that the write amounts to. -/
def Wr.whole (w : Wr) : Nat := effective w.s0 w.a w.size w.val (fieldsAt w.s0 w.a)

/-- Where a field is written, what its value brings about. -/
def Wr.on (w : Wr) (f : Fld) (k : Nat → State → State) (s : State) : State := if w.has f then k (w.bits f) s else s

/-- Where an enable is written, what it brings about; in Pilot mode what it enables stays off (R507). -/
def Wr.enable (w : Wr) (f : Fld) (k : Nat → State → State) : State → State := w.on f fun x t => k (if onF t UPD_STAT_PILOT then 0 else x) t

/-- Where a W1S bit is written 1, what it brings about. -/
def Wr.act (w : Wr) (f : Fld) (k : State → State) (s : State) : State := if w.has f && w.bits f == 1 then k s else s

/-- SYS: the collector, the power registers and the islands (R421, R423, R425, R476, R483, R485, R486). -/
def wrSys (w : Wr) (s : State) : State :=
  let o := w.g % 2 ^ 24
  if o = 0x108 then w.act SYS_EFPOP_POP popFifo s
  else if o = 0x150 then w.act SYS_FIRQ0_ARM (armFirq false) s
  else if o = 0x158 then w.act SYS_FIRQ1_ARM (armFirq true) s
  else if o = 0x178 then w.on SYS_MSAFE_KEY (writeMsafe w.r) s
  else if o = 0x310 then w.on SYS_PWROFF_KEY (writePwroff w.r) s
  else if o = 0x318 then w.on SYS_RESET_KEY (writeReset w.r) s
  else if o = 0x320 then w.act SYS_BOOT_SVCREADY svcIsReady s
  else if 0x400 ≤ o ∧ o < 0x480 then
    let i := (o - 0x400) / 8
    if singleIsland i then w.act (SYS_ISL_RESET i) (startReset w.r i []) (w.on (SYS_ISL_QUIESCE i) (fun x => quiesce w.r i (x == 1)) s) else s
  else s

/-- VTC: START and SHALT, the extended self-test, vital regions (R114, R128, R129, R145). -/
def wrVtc (w : Wr) (s : State) : State :=
  let o := w.g % 2 ^ 24
  if o = 0x10 then w.act VTC_XTEST_GO (fun t => xtestGo w.r (getF t VTC_XTEST_CORE) t) s
  else if 0x1000 ≤ o ∧ o < 0x1400 ∧ o % 0x100 = 0 then
    let t := (o - 0x1000) / 0x100
    w.act (VTC_TCTRL_SHALT t) (shaltTriad w.r t) (w.act (VTC_TCTRL_START t) (startTriad w.r t) s)
  else if 0x2000 ≤ o ∧ o < 0x2080 then writeVrgn w.r ((o - 0x2000) / 8) w.whole s
  else s

/-- SVC: partitions (R94). -/
def wrSvc (w : Wr) (s : State) : State :=
  let o := w.g % 2 ^ 24
  if 0x4000 ≤ o ∧ o < 0x5000 ∧ o % 0x40 = 0 then
    let p := (o - 0x4000) / 0x40
    let cores (x : Nat) (t : State) : State := let t1 := setF t (SVC_PCTRL_CORES p) x
      if onF w.s0 (SVC_PCTRL_EN p) then bumpPartition p t1 else t1
    w.act (SVC_PCTRL_RESTART p) (bumpPartition p) (w.on (SVC_PCTRL_CORES p) cores s)
  else s

/-- RHL: the star and its ports (R193, R200, R211). -/
def wrRhl (w : Wr) (s : State) : State :=
  let o := w.g % 2 ^ 24
  if o = 0 then w.enable RHL_CTRL_EN (fun x => if x = 1 then enableRhl else disableRhl []) s
  else if o = 0x30 then w.act RHL_SCHSW_ARM (fun t => armSwitch (getF t RHL_SCHSW_CYC) t) s
  else match pageOf w.g with
    | some (n, 0) =>
      let s1 := w.on (RHL_PCTRL_EN n) (fun x => if x = 1 then enablePort n else disablePort n none) s
      w.act (RHL_PCTRL_RELEASE n) (releasePort n) (w.act (RHL_PCTRL_FORCE n) (forcePort n) s1)
    | _ => s

/-- A count of a gate list: ignored for the active list, where it would change (R267). -/
def writeGateCount (n l : Nat) (f : Fld) (x : Nat) (s : State) : State :=
  if getF s (BKB_GCLCTL_ACTIVE n) ≠ l then setF s f x else if getF s f = x then s else setF s (BKB_GCLCTL_ACTWR n) 1

/-- BKB: mode, flow contexts, gate counts (R261, R267, R272). -/
def wrBkb (w : Wr) (s : State) : State :=
  let o := w.g % 2 ^ 24
  if o = 0 then followBkbCtrl s
  else if 0x4000 ≤ o ∧ o < 0x6000 ∧ o % 0x20 = 0 then
    let f := (o - 0x4000) / 0x20
    w.act (BKB_FC_0_BUMP f) (bumpCtx f) (w.on (BKB_FC_0_EN f) (fun x t => if x = 1 then enableCtx f t else setF t (BKB_FC_0_EN f) 0) s)
  else match pageOf w.g with
    | some (n, 0) => flushPort n s
    | some (n, 0x28) =>
      w.on (BKB_GCLCTL_CNT1 n) (writeGateCount n 1 (BKB_GCLCTL_CNT1 n)) (w.on (BKB_GCLCTL_CNT0 n) (writeGateCount n 0 (BKB_GCLCTL_CNT0 n)) s)
    | _ => s

/-- MDB: CAN channels (R285, R296, R298). -/
def wrMdb (w : Wr) (s : State) : State :=
  match pageOf w.g with
  | some (n, 0) => w.act (MDB_CCTRL_RECOVER n) (recoverCan n) (w.enable (MDB_CCTRL_EN n) (fun x => if x = 1 then enableCan n else disableCan n) s)
  | some (n, 0x68) => w.act (MDB_HPPOP_POP n) (popHp n) s
  | _ => s

/-- BRG: enable, windows, configuration requests and the error log (R307, R311, R316, R317). -/
def wrBrg (w : Wr) (s : State) : State :=
  let o := w.g % 2 ^ 24
  let k := (o - 0x100) / 0x20
  if o = 0 then
    w.enable BRG_CTRL_EN (fun x t => if x = 1 then enableBrg t else if onF t BRG_CTRL_EN then linkDown true 0 t else t) s
  else if 0x100 ≤ o ∧ o < 0x300 ∧ o % 0x20 = 0 then w.on (BRG_OW_0_EN k) (fun x t => if x = 1 then t else dropPf k t) s
  else if o = 0x18 then w.act BRG_CFGREQ_GO (startCfg w.whole) s
  else if o = 0x50 then w.act BRG_ELPOP_POP popLog s
  else if o = 0x58 then w.on BRG_MSIGEN_VEC sendMsiVector s
  else s

/-- A vital-only register of the field outputs. -/
def vitalTo (w : Wr) (f : Fld) (k : Nat → State → State) (s : State) : State :=
  match w.r with
  | .triad t => if w.has f then k t.val s else s
  | _ => notVoted 10 w.r s

/-- The channel of an FIO channel page with its CHSTAT. -/
def fioStat (g : Nat) : Option Nat := fieldChannels.find? fun c => g == fioPage c + 0x10

/-- FIO: enable, watchdog, output commands; every write may move switches (R323, R324, R332–R337). -/
def wrFio (w : Wr) (s : State) : State :=
  let o := w.g % 2 ^ 24
  let start (t : State) : State := if onF t FIO_WDOG_WDEN then t else restartWd (setF t FIO_WDOG_WDEN 1)
  if o = 0 then w.enable FIO_CTRL_EN (fun x => enableFio (x == 1)) s
  else if o = 0x20 then w.act FIO_WDOG_CLEAR clearWd (w.act FIO_WDOG_WDEN start s)
  else if o = 0x28 then w.on FIO_WDKICK_KEY kick s
  else if o = 0x30 then w.on FIO_DOCMD_CMD writeDocmd s
  else if o = 0x48 then vitalTo w FIO_DOSAFE_REQ (fun t => writeDosafe t w.v) s
  else if o = 0x50 then vitalTo w FIO_SOOWN_OWN (fun t => writeSoown t w.v) s
  else match fioStat w.g with
    | some c => w.act (FIO_CHSTAT_CLRF c) (fun t => if isDO c || isSO c then syncSwitch c (clearLatches c t) else t) s
    | none => forN (fun p t => if pairValid w.s0 p == pairValid t p then t else markDirty (0x58 + p) t) 0 8 (syncSwitches s)

/-- ANL: enables, trims and the mismatch latch (R389, R392, R394). -/
def wrAnl (w : Wr) (s : State) : State :=
  if w.g % 2 ^ 24 = 0 then w.enable ANL_CTRL_EN (fun x => enableAnl none (x == 1)) s
  else match pageOf w.g with
    | some (n, 0) => w.enable (ANL_CHCFG_EN n) (fun x => enableAnl (some n) (x == 1)) s
    | some (n, 0x10) => w.on (ANL_CHTRIM_ZERO n) (fun x => writeTrim n x (w.bits (ANL_CHTRIM_SPAN n))) s
    | some (n, 0x20) => w.act (ANL_CHSTAT_CLRF n) (clearMism n) s
    | _ => s

/-- LOD: commits, unlock codes, trips, and the shadow buffer, whose words take free values while a commit is pending, which is withdrawn (R363, R365, R370, UB-20). -/
def wrLod (w : Wr) (s : State) : State :=
  let o := w.g % 2 ^ 24
  match w.r with
  | .triad t =>
    if o = 0x90 then w.on LOD_UNLOCK0_SEQ (fun _ => unlockFirst t.val w.v) s
    else if o = 0x98 then w.on LOD_UNLOCK1_NCODE (unlockSecond t.val) s
    else if o = 0xA0 then w.on LOD_TRIP_KEY (fun _ => tripOutputs w.v) s
    else table o s
  | .engine _ _ => if vitalOrUpdate w.r then table o s else s
  | _ => s
where
  table (o : Nat) (s : State) : State :=
    let req (t : State) : State := if onF t LOD_STAT_LINK then modLod t fun l => { l with checking := true } else t
    if o = 0x10 then
      w.act LOD_CMTCTL_CANCEL (fun t => setF t LOD_CMTCTL_PEND 0) (w.act LOD_CMTCTL_NOW commitNow (w.act LOD_CMTCTL_REQ req s))
    else if 0x1000 ≤ o ∧ o < 0x1400 ∧ onF s LOD_CMTCTL_PEND then setF (setFree s (LOD_SHADOW_DATA ((o - 0x1000) / 8))) LOD_CMTCTL_PEND 0
    else s

/-- PRL: role, swap, blocks (R432, R444, R447). -/
def wrPrl (w : Wr) (s : State) : State :=
  let o := w.g % 2 ^ 24
  let b := (o - 0x100) / 0x20
  if o = 0 then w.act PRL_CTRL_SWAP (requestSwap w.r) (w.enable PRL_CTRL_EN (fun x => enablePair (x == 1)) s)
  else if 0x100 ≤ o ∧ o < 0x900 ∧ o % 0x20 = 0 then (if onF w.s0 (PRL_BLK_0_EN b) && !onF s (PRL_BLK_0_EN b) then disableBlock b s else s)
  else s

/-- LOG: flush, software triggers, the cursor (R450, R460, R464). -/
def wrLog (w : Wr) (s : State) : State :=
  let o := w.g % 2 ^ 24
  if o = 0 then w.act LOG_CTRL_FLUSH startFlush s
  else if o = 0x30 then w.on LOG_SWTRIG_TRIG (fun x => softTrigger x (if w.has LOG_SWTRIG_ARG then w.bits LOG_SWTRIG_ARG else 0)) s
  else if o = 0x48 then
    if w.has LOG_CURSOR_NEXT && w.bits LOG_CURSOR_NEXT == 1 then writeCursor w.r 0 true s
    else if w.has LOG_CURSOR_SEQ then writeCursor w.r (w.bits LOG_CURSOR_SEQ) false s
    else s
  else s

/-- UPD: the map area and READY (R502, R503). -/
def wrUpd (w : Wr) (s : State) : State :=
  let o := w.g % 2 ^ 24
  let t := (o - 0x100) / 0x10
  if w.g = UPD_MAPAREA_BASE.addr then w.on UPD_MAPAREA_BASE writeMapArea s
  else if 0x100 ≤ o ∧ o < 0x140 ∧ o % 0x10 = 8 ∧ vitalMay s w.r (UPD_HO_1_READY t) then w.act (UPD_HO_1_READY t) (readyHandover w.r t) s
  else s

/-- What a write brings about beside its ordinary fields. -/
def writeEffect (w : Wr) (s : State) : State :=
  match queueOf w.g with
  | some Q => w.act (QCTRL_BUMP Q) (fun t => bumpQueue t Q) (w.on (QCTRL_EN Q) (fun x t => if x = 1 then enableQueue t Q else drainQueue t Q) s)
  | none =>
    match blkOf w.g with
    | 0 => wrSys w s
    | 1 => wrVtc w s
    | 2 => wrSvc w s
    | 3 =>
      if w.g = MEM_INJ_ARM.addr then
        w.act MEM_INJ_ARM (fun t => armInjection w.r (getF t MEM_INJ_ADDR) (getF t MEM_INJ_SYMA) (getF t MEM_INJ_SYMB) (getF t MEM_INJ_BEN) (getF t MEM_INJ_VAL) t) s
      else s
    | 5 => wrRhl w s
    | 7 => wrBkb w s
    | 8 => wrMdb w s
    | 9 => wrBrg w s
    | 10 => wrFio w s
    | 11 => wrAnl w s
    | 12 => wrLod w s
    | 13 => wrPrl w s
    | 14 => wrLog w s
    | 15 => wrUpd w s
    | _ => s

/-! ### Register writes -/

/-- A write to the registers of a trigger (R452). -/
def writeTrigger (r : Req) (a size : Nat) (val : Word) (s : State) : State :=
  let g := getF s LOG_TSEL_TRIG
  let o := regOf a % 2 ^ 24
  if o = 0x100 then writeTctl size (a % 8 == 0) val s
  else if o = 0x118 || kindOf s g = 0 then writeFields r a size val (fieldsAt s a) s
  else setF s (LOG_TSTAT_BUSYWR g) 1

/-- A write to a register of a block that answers; an offset that no register map lists ignores it (R11, R16, R29–R33). -/
def writeBlock (r : Req) (a size : Nat) (val : Word) (s : State) : Host.Outcome State Fault Refusal :=
  let g := regOf a
  let w : Wr := { r := r, a := a, size := size, val := val, s0 := s }
  let fs := fieldsAt s a
  if fs.isEmpty then .next s
  else if g = MER_STEP_NS.addr then .next (merStep w.v s)
  else if blkOf g = 4 && fs.contains (MER_ALMC_ARM ((g - (MER_ALMC_ARM 0).addr) / 16)) then
    .next (writeAlarm ((g - (MER_ALMC_ARM 0).addr) / 16) w.whole s)
  else if g = MEM_INJ_ARM.addr && w.has MEM_INJ_ARM && w.bits MEM_INJ_ARM == 1 && injRefused r (if w.has MEM_INJ_ADDR then w.bits MEM_INJ_ADDR else getF s MEM_INJ_ADDR) s then
    .next (refuseInjection r s)
  else if blkOf g = 14 && decide (0x100 ≤ g % 2 ^ 24) && decide (g % 2 ^ 24 < 0x300) then .next (writeTrigger r a size val s)
  else
    match gateList g with
    | some (n, l) =>
      if getF s (BKB_GCLCTL_ACTIVE n) = l then .next (setF s (BKB_GCLCTL_ACTWR n) 1) else .next (writeFields r a size val fs s)
    | none =>
      let own := ownFields g
      let s1 := writeFields r a size val (fs.filter fun f => !own.contains f) s
      let s2 := if own.any (spanned size) then raise NOTE (blkLoc (blkOf a)) s1 else s1
      if g = RHL_SCHLOAD_GO.addr && w.has RHL_SCHLOAD_GO && w.bits RHL_SCHLOAD_GO == 1 then .next (startLoad (getF s2 RHL_SCHLOAD_SRC) (getF s2 RHL_SCHLOAD_BUF) s2)
      else .next (writeEffect w s2)

/-- A write to the register space (R27, R29, R36, R50, R57, R58, R60, R61, R65, R400, R401): doorbell pages, interrupt files, alias pages in ascending channel order, tag areas,
the registers of the blocks, and the bridge's windows; an address that no unit answers is an access fault. -/
def writeRegister (r : Req) (a size : Nat) (val : Word) (s0 : State) : Host.Outcome State Fault Refusal :=
  let Q := (a - 0x2010000000) / 0x1000
  if 0x2010000000 ≤ a ∧ a < 0x2011000000 ∧ a % 0x1000 = 0 ∧ listedQueue Q then
    reached (blkIsland (Q / 256)) r s0 fun s => .next (ringDoorbell r Q size (val.toNat % 2 ^ (8 * size)) s)
  else if 0x4000000000 ≤ a ∧ inIo a then execOutboundAccess r .store (BitVec.ofNat 40 a) size (toLE size val.toNat) s0
  else if !sizeOk a size then .next (deny s0 r (refusal r .store))
  else if 0x2080000000 ≤ a then execInterruptWrite r a val s0
  else if 0x2010000000 ≤ a then .next (if listedQueue Q then s0 else deny s0 r (refusal r .store))
  else reached (blkIsland (blkOf a)) r s0 fun s =>
    match aliasTargets s a with
    | some ts => ts.foldl (fun o b => match o with
        | .next t => writeBlock r b size val t
        | e => e) (.next s)
    | none => if inTagArea a then .next (tagStore s a size val) else writeBlock r a size val s

/-- `REGISTER_WRITE` (R29). -/
def execRegisterWrite (r : Req) (addr size : Nat) (val : Word) (s : State) : Host.Outcome State Fault Refusal := writeRegister r addr size val s

/-- `ALIAS_WRITE` (R36): a write to an alias page; elsewhere it is the register write that it is. -/
def execAliasWrite (r : Req) (addr size : Nat) (val : Word) (s : State) : Host.Outcome State Fault Refusal := writeRegister r addr size val s

/-- A software store into a Chart entry that an engine owns, ENG = 1 (UB-14): the entry takes free bytes (R62, R233; notes/assumptions/1.md). -/
def storeOwned (r : Req) (addr n : Nat) (s : State) : Bool :=
  (hartOf r).isSome && decide (0x0600000000 ≤ addr) && decide (addr < 0x0640000000) && decide (0 < n) && match entryOf s (cwOf addr - 0x30000000) with
    | some e => e.eng
    | none => false

/-- What a descriptor of queue Q lets its engine read: a frame, a package, lines to copy out, a bulk value or an element list (R205, R240, R255, R277, R288, R314, R498). -/
def readSpan (s : State) (Q : Nat) (d : List Byte) : Nat × Nat :=
  let opc := dByte d 0
  if Q = 0x500 ∧ opc = 1 then (dAddr d 8, leAt d 6 2)
  else if Q = 0x700 ∧ opc = 1 then (dAddr d 8, leAt d 4 2)
  else if Q / 256 = 8 ∧ Q % 256 < 6 ∧ opc = 1 then (dAddr d 8, 12 + min (leAt d 4 2) 2048)
  else if Q = 0x900 ∧ opc = 1 then (copyDram d, copyLen d)
  else if Q / 256 = 15 ∧ opc = 1 then (leAt d 8 8, leAt d 4 4)
  else if Q / 256 = 6 ∧ opc = 8 then ((parseDir (d.drop 8)).addr, 8 * (parseDir (d.drop 8)).count)
  else if Q / 256 = 6 ∧ opc = 9 then (dAddr d 8, ((entryOf s (leAt d 4 4)).map Entry.areaLen).getD 0)
  else (0, 0)

/-- A store changes an outstanding descriptor, or a buffer that one reads: UB-03 and UB-06. -/
def storeTaken (a n : Nat) (s : State) : Bool :=
  allQueues.any fun Q => onF s (QCTRL_EN Q) && (outIdx s Q).any fun i =>
    meets a n (entryAddr s Q i) 32 || match descriptor s Q i with
      | some d => meets a n (readSpan s Q d).1 (readSpan s Q d).2
      | none => false

/-- The maps that are pinned or that an enabled port or channel binds (R241): of the own node's entries, of the CAN filters, of the flow contexts. -/
def boundMaps (s : State) : List Nat :=
  s.chart.pins.map (·.1)
    ++ (if onF s RHL_CTRL_EN then ((entries s).filter eMapv).map (·.mapid) else [])
    ++ ((List.range 6).flatMap fun n => if !onF s (MDB_CCTRL_EN n) then [] else
        (((List.range 128).filter fun k => onL s (MDB_FLT_1_MAP n k)).map fun k => liveF s (MDB_FLT_1_MAPID n k))
          ++ (((List.range 8).filter fun k => onL s (MDB_HFLT_1_MAP n k)).map fun k => liveF s (MDB_HFLT_1_MAPID n k)))
    ++ (if onF s BKB_CTRL_EN then ((List.range 256).filter fun c => onF s (BKB_FC_0_EN c) && decide (getF s (BKB_FC_0_KIND c) < 2)).map fun c => getF s (BKB_FC_1_ID c) else [])

/-- A store changes the directory entry or the element list of such a map: UB-15 (R241). -/
def storeInMap (a n : Nat) (s : State) : Bool :=
  match mapDir s with
  | none => false
  | some base => (boundMaps s).any fun m =>
    meets a n (base + 16 * m) 16 || match readMem s (base + 16 * m) 16 with
      | some b => meets a n (parseDir b).addr (8 * (parseDir b).count)
      | none => false

/-- A store whose outcome the catalogue leaves open (R62, R63): UB-03, UB-06, UB-14 and UB-15. -/
def storeOpen (r : Req) (addr n : Nat) (s : State) : Bool :=
  storeOwned r addr n s || match r with
    | .engine _ _ => false
    | _ => decide (0 < n) && (storeTaken addr n s || storeInMap addr n s)

/-- Where a store meets its codeword: the cache named, for DRAM; non-volatile memory holds no store in a cache (R74, R82, R102). -/
def storePlace (src : MemSrc) (a : Nat) : MemSrc :=
  let u := cacheUnit src
  if inDram a && decide (16 ≤ u) && decide (u < 96) then src else homeOf a

/-- What a store to memory puts there; where the catalogue leaves the outcome open, the codewords it touches take free values (R62, R63; notes/assumptions/14.md). -/
def stored (r : Req) (src : MemSrc) (addr : Nat) (d : List Byte) (s : State) : State :=
  if storeOpen r addr d.length s then
    let k := cwOf (addr + d.length - 1) - cwOf addr + 1
    useFree (writeMem s (reqCode r) (32 * cwOf addr) (freeSpan s (32 * k)))
  else writeVia (storePlace src addr) s (reqCode r) addr d

/-- What an atomic operation stores: `a` is the old value and `b` the operand, of w bits (R101). -/
def amoValue (op : AmoOp) (w a b : Nat) : Nat :=
  let x := sgn w a
  let y := sgn w b
  match op with
  | .swap => b
  | .add => a + b
  | .xor => a ^^^ b
  | .and => a &&& b
  | .or => a ||| b
  | .min => if x ≤ y then a else b
  | .max => if y ≤ x then a else b
  | .minu => min a b
  | .maxu => max a b

/-- An atomic operation is performed where the line is: the old value is answered (R76, R111). -/
def atomic (r : Req) (op : AmoOp) (addr : Nat) (d : List Byte) (src : MemSrc) (s : State) : State :=
  let s1 := touch s (reqCode r) addr d.length
  match readMem s1 addr d.length with
  | none => deny s1 r (lostAnswer r (.amo op))
  | some old => answer (stored r src addr (toLE d.length (amoValue op (8 * d.length) (leNat old) (leNat d))) s1) r (leNat old)

/-- A direct store into the tag and counter region (UB-08): the codewords it reaches, and as many bytes of tag areas as it has, take free values (R61, R62; notes/assumptions/14.md). -/
def storeTags (r : Req) (addr n : Nat) (s : State) : State :=
  let s1 := useFree (writeMem s (reqCode r) addr (freeSpan s n))
  forN (fun _ x =>
    let a := 0x2000000000 + free x 28
    let x1 := useFree x
    if inTagArea a then useFree { x1 with tags := kput 0 x1.tags a (BitVec.ofNat 8 (free x1 8)) } else x1) 0 n s1

/-- A requester that may reach the outbound windows (R305). -/
def outboundMay : Req → Bool
  | .triad _ => true
  | .hart _ _ => true
  | .debugger => true
  | _ => false

/-- An engine may reach I/O space: the queue of a partition may not, since its grants cover none of it (R93). -/
def engineIo (s : State) : Req → Bool
  | .engine b q => getF s (QCTRL_OWNCLS (b.val * 256 + q.val)) != 2
  | _ => true

/-- `RC_READ`: a register read; what it returns of RC fields is cleared once (R34). An address of the outbound range is read over the backplane (R64). -/
def execRcRead (r : Req) (addr size : Nat) (s : State) : Host.Outcome State Fault Refusal :=
  if 0x4000000000 ≤ addr && inIo addr then execOutboundAccess r .load (BitVec.ofNat 40 addr) size [] s else .next (readRegister r addr size s)

/-- `MEMORY_READ`: a codeword from the macro that supplies it, or an 8-byte read of I/O space; the ROM's bytes are free (R65, R66, R69, R81–R83, R87, R88, R113; notes/assumptions/1.md). -/
def execMemoryRead (r : Req) (kind : AccKind) (addr : Nat) (src : MemSrc) (upset : List (Fin 36 × Byte)) (hard : Bool) (s : State) :
    Host.Outcome State Fault Refusal :=
  if !mapped addr then .next (deny s r (refusal r kind))
  else
    match kindRefused kind addr with
    | some f => .next (deny s r (match r with | .engine _ _ => .statusAccess | _ => f))
    | none =>
      if inIo addr then
        (if !engineIo s r then .next (deny s r .statusAccess)
         else if addr < 0x4000000000 then .next (readRegister r (regOf addr) 8 s)
         else if outboundMay r then execOutboundAccess r kind (BitVec.ofNat 40 (regOf addr)) 8 [] s else .next (deny s r (refusal r kind)))
      else if !mayRead s r addr then .next (deny s r (refusal r kind))
      else if inRom addr then .next (emit s (.bytes r ((List.range 32).map fun i => Config.freeByte 0 (32 * cwOf addr + i))))
      else .next (readMacro r kind addr src upset hard s)

/-- `MEMORY_WRITE` (R65, R66, R74, R76, R81–R83, R99, R111, R113); a store to register space is a register write. A direct store into the tag and counter region is UB-08. -/
def execMemoryWrite (r : Req) (kind : AccKind) (addr : Nat) (data : List Byte) (src : MemSrc) (s : State) : Host.Outcome State Fault Refusal :=
  if !mapped addr then .next (deny s r (refusal r .store))
  else if inRom addr then .next (deny s r (refusal r .store))
  else
    match kindRefused kind addr with
    | some f => .next (deny s r (match r with | .engine _ _ => .statusAccess | _ => f))
    | none =>
      if inIo addr then
        (if !engineIo s r then .next (deny s r .statusAccess)
         else if addr < 0x4000000000 then writeRegister r addr data.length (BitVec.ofNat 64 (leNat data)) s
         else if outboundMay r then execOutboundAccess r .store (BitVec.ofNat 40 addr) data.length data s else .next (deny s r (refusal r .store)))
      else if 0x1078000000 ≤ addr ∧ addr < 0x1079000000 then
        (match r with
          | .engine _ _ => .next (deny s r .statusAccess)
          | _ => .next (storeTags r addr data.length s))
      else if !mayWrite s r addr data.length then .next (refuseWrite r .store addr data.length s)
      else
        match kind, hartOf r with
        | .amo op, _ => .next (atomic r op addr data src s)
        | .sc, some h =>
          if kget 0 s.resv h = resLine addr then
            .next (answer (stored r src addr data { s with resv := kput 0 s.resv h 0 }) r 0)
          else .next (answer { s with resv := kput 0 s.resv h 0 } r 1)
        | _, _ => .next (stored r src addr data s)

/-! ### Boundaries of live fields -/

/-- What a boundary brings about beside the live fields of its block or channel. -/
def boundaryEffect (blk : Nat) (t : State) : State :=
  if blk = 2 then forN windowOrder 0 16 t
  else if blk = 4 then merBoundary t
  else if blk = 5 then forN checkThresh 0 18 t
  else if blk = 7 then forN (fun n x => setF x (BKB_GCLCTL_ACTIVE n) (liveF x (BKB_GCLCTL_SEL n))) 0 4 t
  else t

/-- The boundary of a CAN channel waits for the end of the frame that it sends (R299). -/
def canBoundary (n : Nat) (s : State) : State := if (canCh s n).sending then s else takeLive 8 (some n) s

/-- The boundary of a block's live fields, or of one channel's (R31, R32): BRG's waits while an outbound request is held, LOG's is the end of a flush, a CAN channel's
waits for the end of the frame on its bus, an analog channel's is its setpoint frame (R299, R317, R382, R467). -/
def boundary (blk : Nat) (chan : Option Nat) (s : State) : State :=
  if blk = 3 then memBoundary s
  else if blk = 0 then sysBoundary s
  else if blk = 9 && !s.brg.held.isEmpty then s
  else if blk = 14 then s
  else match blk, chan with
    | 8, some n => canBoundary n s
    | 8, none => forN canBoundary 0 6 s
    | 11, some n => anlBoundary n s
    | 11, none => forN anlBoundary 0 8 s
    | _, _ => boundaryEffect blk (takeLive blk chan s)

/-- `RWL_BOUNDARY` (R31). -/
def execRwlBoundary (blk : Fin 16) (chan : Option Nat) (s : State) : Host.Outcome State Fault Refusal := .next (boundary blk.val chan s)

/-! ### The start of a cycle -/

/-- What an island does while its clock runs. -/
def awake (i : Nat) (f : State → State) (s : State) : State := if clocked s i then f s else s

/-- The blocks of an island whose live fields take effect at a cycle start: VTC, SVC, RHL, CHT, BKB, PRL and UPD (R31, R95, R130, R217, R257, R279, R447, R509). -/
def cycleBlocks (i : Nat) : List Nat := ([1, 2, 5, 6, 7, 13, 15] : List Nat).filter fun b => blkIsland b == i

/-- A cycle start reaches an island over crossing 17 (R177, R409): the boundaries of its blocks, then the star, which judges the new THRESH by the violations of the last 16 cycles (R199), or
the backbone, the Chart and the pair link, the field and analog refresh, or the Logbook triggers and the updates that wait for a cycle start. -/
def cycleArrives (i : Nat) (s : State) : State :=
  let s0 := (cycleBlocks i).foldl (fun x b => if b = 5 then takeLive 5 none x else boundary b none x) s
  if i = 8 then starCycle s0
  else if i = 6 then pairCycle (chartCycle (bkbCycle s0))
  else if i = 0xB then modFio s0 fun f => { f with refresh := true }
  else if i = 0xC then refreshAnl s0
  else if i = 5 then nowUnits (logCycle s0)
  else s0

/-- The islands that take cycle starts, in the order in which they act (R409). -/
def cycleIslands : List Nat := [1, 2, 8, 6, 3, 4, 9, 0xA, 0xB, 0xC, 5]

/-- A cycle start is offered to an island; one that is in reset, shed or stopped takes the cycle afresh when it runs again (R400, R412). -/
def offerCycle (i : Nat) (s : State) : State := awake i (crossVia i 17 7 i .cycle (cycleArrives i)) s

/-- A cycle starts (R177): Meridian, then every clocked island, and VREADY. -/
def cycleStart (s : State) : State :=
  checkVready (cycleIslands.foldl (fun x i => offerCycle i x) (merCycleStart (boundary 4 none (endPoints s))))

/-! ### The crossings go on (R403, R404) -/

/-- What a receiver does with a value. An interrupt write that has waited in its sender goes on over the fabric (R408, R411). -/
def takeXVal (rx : Nat) : XVal → State → State
  | .report _, s => s
  | .pulses id c ovf, s => takePulses id c ovf s
  | .job j, s => offerJob j s
  | .wrap c m ts f, s => queueWrap c m ts f s
  | .unwrapCan c m f, s => unwrapCan c m f s
  | .unwrapRhl c e f, s => pendTunnel c e f s
  | .msi page eiid, s => if rx = 3 then writeFile s page eiid else setPending s page eiid
  | .chart sig code v ts qual, s => chartIn sig code v ts qual s
  | .packReq e m k, s => packFor e m k s
  | .packed e k p, s => keepPacked e k p s
  | .cycle, s => cycleArrives rx s

/-- A handshake whose value has been taken, or that waits to begin, goes on by a phase: REQ falls once ACK is seen, and ACK once REQ is low; a value that waits in the sender is loaded when
a lane is idle and its sender may offer (R403, R404, R414). -/
def xingPhase (s : State) (done : List Xing) (x : Xing) : List Xing :=
  if x.req && x.ack then done ++ [{ x with req := false }]
  else if x.ack then done
  else if x.req then done ++ [x]
  else if laneFree x.num x.tx x.sub done && (islandAnswers s x.tx || (x.num == 20 && clocked s x.tx)) then done ++ [{ x with req := true, at' := freeCnt s }] else done ++ [x]

/-- The first value of a list that its receiver can take is taken: its ACK rises. -/
def ackFirst (may : Xing → Bool) : List Xing → Option (Xing × List Xing)
  | [] => none
  | x :: r => if may x then some (x, { x with ack := true } :: r) else (ackFirst may r).map fun y => (y.1, x :: y.2)

/-- The oldest value that is offered to a running receiver is taken; reports wait for the collector (R403, R418). -/
def takeNext (s : State) : State :=
  match ackFirst (fun x => x.req && !x.ack && islandAnswers s x.rx && !x.data.isReport) s.xings with
  | some (x, l) => takeXVal x.rx x.data (wakeIsland { s with xings := l } x.rx)
  | none => s

/-- The crossings go on: every handshake by a phase, the values offered are taken in their order, and islands offer their reports. -/
def xingTick (s : State) : State :=
  let s1 : State := { s with xings := s.xings.foldl (fun done x => xingPhase s done x) [] }
  offerReports (forN (fun _ t => takeNext t) 0 s1.xings.length s1)

/-- One nanosecond passes: Meridian's tick, the egress of the backbone ports, a phase of every handshake, and the watch over the islands that may stop (R162, R266, R399, R403;
notes/assumptions/3.md). -/
def clockTick (s : State) : State := ([0x6, 0x8, 0x9, 0xA, 0xC] : List Nat).foldl (fun x i => watchStop i x) (xingTick (awake 6 runPorts (merTick s)))

/-- `CYCLE_START` (R177): once the cycle timer has reached the cycle length. -/
def execCycleStart (s : State) : Host.Outcome State Fault Refusal := .next (if cycleOver s then cycleStart s else s)

/-! ### Commands that can complete start-up (R476) -/

/-- `START_SELFTEST_DONE`, with the operands of `startDone`
(R134, R135, R152, R476, R537). -/
def execStartSelftestDone (t : Fin 4) (fails : BitVec 3) (inj : Option (Fin 10 × Fin 4)) (spareFails : List (Fin 14)) (checker : Option (Fin 10 × Fin 4)) (retire : Nat)
    (s : State) : Host.Outcome State Fault Refusal := .next (checkVready (startDone t.val fails inj spareFails checker retire s))

/-- `SHALT` (R129, R476). -/
def execShalt (r : Req) (t : Fin 4) (s : State) : Host.Outcome State Fault Refusal := .next (checkVready (shaltTriad r t.val s))

/-- `LODESTONE_CYCLE` (R345, R476): the FB samples of the last 50 µs and the rising edges of the speed inputs in them, in ns from their start. -/
def execLodestoneCycle (samples : List FbSample) (edges : List (Fin 4 × Fin 50000)) (s : State) : Host.Outcome State Fault Refusal :=
  .next (checkVready (lodCycle samples (edges.map fun e => (e.1.val, e.2.val)) (takeLive 12 none s)))

end Sys2Proof.Machine
end

