-- ==== Sys2Proof/Machine/Debug.lean ====
section
/-! DEFINITION. Debug sessions on triads (R154–R158). -/

namespace Sys2Proof.Machine

/-- A refused debug request (R155). -/
def refuseDebug (t : Nat) (s : State) : State := refuseDebugAs t .access s

/-- Operations a maintainer certificate permits: reading lane A's registers, main and persistent memory, and the instruction trace, and what the debug module needs for them
(R155). -/
def maintainerMay : DbgOp → Bool
  | .readReg _ => true
  | .readMem a => inDram a || inNvm a
  | .trace => true
  | .dmi _ none => true
  | .dmi reg (some w) =>
    if reg = 0x10 then bits w.toNat 30 2 == 0
    else if reg = 0x17 then !bit w.toNat 16
    else true
  | _ => false

/-- Lane A enters debug mode: dpc is its pc, and dcsr holds the cause and the privilege level, after the registers that its instructions have written (R156). -/
def enterDebug (t cause : Nat) (at' : Stop) (s : State) : State :=
  let s1 := setLane t 0 (at'.regs.map (·.1)) (at'.regs.map (·.2.toNat)) s
  setLane t 0 [0x7B1, 0x7B0] [at'.pc.toNat, putBits (putBits (putBits (kget 0 (laneRegs s1 t 0) 0x7B0) 28 4 4) 6 3 cause) 0 2 (if at'.mach then 3 else 0)] s1

/-- `DEBUG_SESSION_OPEN`: `anchor` is the public key at the root of the certificate. A certificate with neither role, one that rests on no trust anchor, or a triad that a session already
addresses, is refused; a depot session on a HALTED triad opens lane A of the frozen state, which shows in `regs` the registers that its instructions have written (R154, R156, R494). -/
def execDebugSessionOpen (t : Fin 4) (cert : Cert) (anchor : List Byte) (regs : List (Nat × Word)) (s : State) : Host.Outcome State Fault Refusal :=
  if cert = .neither ∨ isAnchor s.upd.keys anchor = false ∨ getF s (VTC_DBG_MODE t) ≠ 0 then .next (refuseDebug t s)
  else if cert = .maintainer then .next (setF s (VTC_DBG_MODE t) 1)
  else
    let s1 := setF s (VTC_DBG_MODE t) 2
    if tState s t = tsHALTED then
      .next (setLane t 0 (regs.map (·.1)) (regs.map (·.2.toNat)) (modTriad (setTState s1 t tsDEBUG) t fun x => { x with dbgRun := false, resumed := false }))
    else .next s1

/-- Writing memory or I/O through lane A's path without a vote: vital-only registers are closed, vital regions open only where the triad's bit is set in OWN, persistent
memory as R81 gives a triad; a store into the tag and counter region is UB-08 (R30, R63, R81, R155). -/
def depotWrite (t : Fin 4) (a : Nat) (d : List Byte) (s : State) : Host.Outcome State Fault Refusal :=
  if !mapped a || inRom a then .next (refuseDebugAs t .store s)
  else if inIo a then writeRegister .debugger a d.length (BitVec.ofNat 64 (leNat d)) s
  else if 0x1078000000 ≤ a ∧ a < 0x1079000000 then .next (storeTags .debugger a d.length s)
  else if mayWrite s (.triad t) a d.length then .next (stored .debugger (.triadL2 t 0x07 0) a d s)
  else .next (refuseDebugAs t .store s)

/-- What a depot certificate permits (R155): lane A's registers while it is halted, and its run control, on a triad in DEBUG; memory, I/O and the trace in any state. -/
def depotDo (t : Fin 4) (op : DbgOp) (s : State) : Host.Outcome State Fault Refusal :=
  match op with
  | .readReg r => .next (if laneHalted s t then answer s .debugger (laneReg s t 0 r) else refuseDebug t s)
  | .writeReg r v => .next (if !laneHalted s t then refuseDebug t s else if readOnlyReg r then s else setLane t 0 [r] [v.toNat] s)
  | .readMem a => .next (debugRead t a s)
  | .readIo a n =>
    if !inIo a then .next (refuseDebugAs t .load s)
    else if a < 0x4000000000 then .next (readRegister .debugger a n s)
    else execOutboundAccess .debugger .load (BitVec.ofNat 40 a) n [] s
  | .writeMem a d => depotWrite t a d s
  | .run .resume => .next (if laneHalted s t then emit (modTriad s t fun x => { x with resumed := true }) (.signal .maintenance t 1 0) else refuseDebug t s)
  | .run (.halt p) => .next (if tState s t = tsDEBUG ∧ (triad s t).resumed = true then stopLane 3 p s else refuseDebug t s)
  | .run (.trigger p) => .next (if tState s t = tsDEBUG ∧ (triad s t).resumed = true then stopLane 2 p s else refuseDebug t s)
  | .run (.step p) => .next (if laneHalted s t then stopLane 4 p s else refuseDebug t s)
  | .trace => .next (emit s (.signal .maintenance t 2 0))
  | .dmi _ _ => .next s
where
  stopLane (cause : Nat) (p : Stop) (s : State) : State :=
    emit (enterDebug t cause p (modTriad s t fun x => { x with resumed := false })) (.signal .maintenance t 1 cause)

/-- One request of a depot session: an operation as such, or an access to the debug module, through which an abstract command brings one about (R154, R155). -/
def depotOp (t : Fin 4) (op : DbgOp) (s : State) : Host.Outcome State Fault Refusal :=
  match op with
  | .dmi reg none => .next (answer s .debugger (dmRead s t reg))
  | .dmi reg (some w) => .next (dmWrite t reg w.toNat (fun o x => match depotDo t o x with
      | .next y => y
      | _ => x) s)
  | o => depotDo t o s

/-- `DEBUG_REQUEST`: a depot session acts at once; a maintainer session's permitted requests on a running triad wait in order for the input agreement stage, at most 16
(R155, R158). -/
def execDebugRequest (t : Fin 4) (op : DbgOp) (s : State) : Host.Outcome State Fault Refusal :=
  if getF s (VTC_DBG_MODE t) = 2 then depotOp t op s
  else if getF s (VTC_DBG_MODE t) = 1 ∧ maintainerMay op = true ∧ running s t = true ∧ (triad s t).maint.length < 16 then
    .next (modTriad s t fun x => { x with maint := x.maint ++ [op] })
  else .next (refuseDebug t s)

/-- `DEPOT_HALT`: lock-step of a running triad splits at once, and lane A enters debug mode (R156, R144). -/
def execDepotHalt (t : Fin 4) (stop : Stop) (s : State) : Host.Outcome State Fault Refusal :=
  if getF s (VTC_DBG_MODE t) = 2 && running s t then
    let s1 := forN (fun p s => let c := coreAt s t p
      if c != 0xF && getF s (VTC_CSTAT_CORE c) == csLANE then setCore s c csHELD else s) 1 2 s
    let s2 := enterDebug t 3 stop (setF (setChecker (setTState (abandonSwitch t s1) t tsDEBUG) t false) (VTC_DBG_SPLIT t) 1)
    .next (raise MAJOR (sxLoc t 0x04) (modTriad s2 t fun x => { x with dbgRun := true, resumed := false, phase := .none, incoming := none, events := x.events.filter fun e => e.2 != .boundary }))
  else .next (refuseDebug t s)

/-- `DEPOT_SESSION_END`: detach, a closed connection or 60 s without a request; the triad follows the DEBUG rows of R134 (R157). DESIGN CHOICE: maintainer requests that wait or are captured when
their session ends stay and are served; and while the module safe state is on, which refuses the restart (R426), a triad that had been split goes to HALTED with HCAUSE 6, as with no image, and
no report is raised (notes/assumptions/66.md). -/
def execDepotSessionEnd (t : Fin 4) (s : State) : Host.Outcome State Fault Refusal :=
  let s1 := setF s (VTC_DBG_MODE t) 0
  if getF s (VTC_DBG_MODE t) = 0 then .next s
  else if tState s t ≠ tsDEBUG then .next s1
  else if (triad s t).dbgRun then
    if (triad s t).image && !onF s SYS_MSTAT_MSAFE then .next (beginStart t s1)
    else .next (safeHalt t 6 s1)
  else .next (setTState s1 t tsHALTED)

/-- `MAINTAINER_REQUEST`: captured as a debugger access; at most one per 10 µs, up to 16 more wait, and a request beyond those is
refused (R158, R115). -/
def execMaintainerRequest (t : Fin 4) (op : DbgOp) (retire : Nat) (s : State) : Host.Outcome State Fault Refusal :=
  let x := triad s t
  if getF s (VTC_DBG_MODE t) ≠ 1 ∨ maintainerMay op = false ∨ running s t = false then .next (refuseDebug t s)
  else
    if maintDue s t then
      let ops := x.maint ++ [op]
      .next (capture t (.dbg (ops.headD op)) retire (modTriad s t fun y => { y with maint := ops.drop 1, lastMaint := freeCnt s + 1 }))
    else if x.maint.length < 16 then .next (modTriad s t fun y => { y with maint := y.maint ++ [op] })
    else .next (refuseDebug t s)

end Sys2Proof.Machine
end

