-- ==== Sys2Proof/Machine/Dispatch.lean ====
section
/-! DEFINITION. One arm per command: the command's meaning, or its rejection by name. -/

namespace Sys2Proof.Machine

def exec (i : Instr) (s : State) : Host.Outcome State Fault Refusal :=
  match i with
  | .registerWrite req addr size val => Sys2Proof.Machine.execRegisterWrite req addr size val s
  | .rcRead req addr size => Sys2Proof.Machine.execRcRead req addr size s
  | .rwlBoundary blk chan => Sys2Proof.Machine.execRwlBoundary blk chan s
  | .aliasWrite req addr size val => Sys2Proof.Machine.execAliasWrite req addr size val s
  | .doorbell req q size val => Sys2Proof.Machine.execDoorbell req q size val s
  | .entryTake q => Sys2Proof.Machine.execEntryTake q s
  | .descriptorWriteback q => Sys2Proof.Machine.execDescriptorWriteback q s
  | .queueEnable req q => Sys2Proof.Machine.execQueueEnable req q s
  | .queueDrain req q => Sys2Proof.Machine.execQueueDrain req q s
  | .drainComplete q => Sys2Proof.Machine.execDrainComplete q s
  | .queueBump req q => Sys2Proof.Machine.execQueueBump req q s
  | .interruptWrite req addr val => Sys2Proof.Machine.execInterruptWrite req addr val s
  | .tagWrite req addr size val => Sys2Proof.Machine.execTagWrite req addr size val s
  | .memoryRead req kind addr src upset hard => Sys2Proof.Machine.execMemoryRead req kind addr src upset hard s
  | .degradationWindowEnd nvm => Sys2Proof.Machine.execDegradationWindowEnd nvm s
  | .memoryWrite req kind addr data src => Sys2Proof.Machine.execMemoryWrite req kind addr data src s
  | .scrubStep nvm upset hard => Sys2Proof.Machine.execScrubStep nvm upset hard s
  | .cacheScrub src addr upset hard => Sys2Proof.Machine.execCacheScrub src addr upset hard s
  | .injectArm req addr syma symb ben val => Sys2Proof.Machine.execInjectArm req addr syma symb ben val s
  | .partitionRestart req p => Sys2Proof.Machine.execPartitionRestart req p s
  | .partitionCoresWrite req p cores => Sys2Proof.Machine.execPartitionCoresWrite req p cores s
  | .windowInterrupt c k acked => Sys2Proof.Machine.execWindowInterrupt c k acked s
  | .sextantCompare t a b c retire kind other checker => Sys2Proof.Machine.execSextantCompare t a b c retire kind other checker s
  | .votedResponse t data wr => Sys2Proof.Machine.execVotedResponse t data wr s
  | .inputCapture t ev retire => Sys2Proof.Machine.execInputCapture t ev retire s
  | .taggedEventEffect t trap regs => Sys2Proof.Machine.execTaggedEventEffect t trap regs s
  | .wfiWake t next mach regs => Sys2Proof.Machine.execWfiWake t next mach regs s
  | .signatureBoundary t a b c lines checker => Sys2Proof.Machine.execSignatureBoundary t a b c lines checker s
  | .vrgnWrite req k val => Sys2Proof.Machine.execVrgnWrite req k val s
  | .triadStart req t => Sys2Proof.Machine.execTriadStart req t s
  | .startSelftestDone t fails inj spareFails checker retire => Sys2Proof.Machine.execStartSelftestDone t fails inj spareFails checker retire s
  | .shalt req t => Sys2Proof.Machine.execShalt req t s
  | .logicSelftestDone t pass => Sys2Proof.Machine.execLogicSelftestDone t pass s
  | .rejoinBoundary t regs => Sys2Proof.Machine.execRejoinBoundary t regs s
  | .rejoinCheck t upset checker => Sys2Proof.Machine.execRejoinCheck t upset checker s
  | .substitutionSwitch t => Sys2Proof.Machine.execSubstitutionSwitch t s
  | .poolSelftest pass => Sys2Proof.Machine.execPoolSelftest pass s
  | .xtestGo req core => Sys2Proof.Machine.execXtestGo req core s
  | .xtestDone pass => Sys2Proof.Machine.execXtestDone pass s
  | .injectionSequence t flagged wrongRelease checker retire => Sys2Proof.Machine.execInjectionSequence t flagged wrongRelease checker retire s
  | .debugSessionOpen t cert anchor regs => Sys2Proof.Machine.execDebugSessionOpen t cert anchor regs s
  | .debugRequest t op => Sys2Proof.Machine.execDebugRequest t op s
  | .depotHalt t stop => Sys2Proof.Machine.execDepotHalt t stop s
  | .depotSessionEnd t => Sys2Proof.Machine.execDepotSessionEnd t s
  | .maintainerRequest t op retire => Sys2Proof.Machine.execMaintainerRequest t op retire s
  | .sourceQualified src offset => Sys2Proof.Machine.execSourceQualified src offset s
  | .sourceDisqualified src => Sys2Proof.Machine.execSourceDisqualified src s
  | .drLimitExpiry => Sys2Proof.Machine.execDrLimitExpiry s
  | .slewDone => Sys2Proof.Machine.execSlewDone s
  | .merStepWrite req val => Sys2Proof.Machine.execMerStepWrite req val s
  | .now0Read req => Sys2Proof.Machine.execNow0Read req s
  | .cycleStart => Sys2Proof.Machine.execCycleStart s
  | .cyclePointFire k => Sys2Proof.Machine.execCyclePointFire k s
  | .alarmFire k => Sys2Proof.Machine.execAlarmFire k s
  | .alarmArm req k val => Sys2Proof.Machine.execAlarmArm req k val s
  | .starFrameReceive port sof frame => Sys2Proof.Machine.execStarFrameReceive port sof frame s
  | .guardianCut port win => Sys2Proof.Machine.execGuardianCut port win s
  | .portEnable req n => Sys2Proof.Machine.execPortEnable req n s
  | .portDisable req n inFlight => Sys2Proof.Machine.execPortDisable req n inFlight s
  | .portForce req n => Sys2Proof.Machine.execPortForce req n s
  | .portRelease req n => Sys2Proof.Machine.execPortRelease req n s
  | .containCountdown n => Sys2Proof.Machine.execContainCountdown n s
  | .ownNodeReceive chan sof frame => Sys2Proof.Machine.execOwnNodeReceive chan sof frame s
  | .statsUpdate e => Sys2Proof.Machine.execStatsUpdate e s
  | .packStart e => Sys2Proof.Machine.execPackStart e s
  | .ownNodeTransmit e => Sys2Proof.Machine.execOwnNodeTransmit e s
  | .slottx => Sys2Proof.Machine.execSlottx s
  | .rhlRxbuf => Sys2Proof.Machine.execRhlRxbuf s
  | .syncpt => Sys2Proof.Machine.execSyncpt s
  | .schloadGo req src buf => Sys2Proof.Machine.execSchloadGo req src buf s
  | .scheduleLoadDone => Sys2Proof.Machine.execScheduleLoadDone s
  | .schswArm req cyc => Sys2Proof.Machine.execSchswArm req cyc s
  | .scheduleSwitch => Sys2Proof.Machine.execScheduleSwitch s
  | .rhlEnable req => Sys2Proof.Machine.execRhlEnable req s
  | .rhlDisable req inFlight => Sys2Proof.Machine.execRhlDisable req inFlight s
  | .listenTimeout => Sys2Proof.Machine.execListenTimeout s
  | .coldstartAccept sof cands => Sys2Proof.Machine.execColdstartAccept sof cands s
  | .collisionWindowClose => Sys2Proof.Machine.execCollisionWindowClose s
  | .coldstartBadFcs => Sys2Proof.Machine.execColdstartBadFcs s
  | .integrate port sof frame => Sys2Proof.Machine.execIntegrate port sof frame s
  | .integrationTimeout => Sys2Proof.Machine.execIntegrationTimeout s
  | .partnerAbsentLt => Sys2Proof.Machine.execPartnerAbsentLt s
  | .unpackFrame => Sys2Proof.Machine.execUnpackFrame s
  | .pub q => Sys2Proof.Machine.execPub q s
  | .pubsub q => Sys2Proof.Machine.execPubsub q s
  | .publim q => Sys2Proof.Machine.execPublim q s
  | .inval q => Sys2Proof.Machine.execInval q s
  | .cfg q => Sys2Proof.Machine.execCfg q s
  | .force q => Sys2Proof.Machine.execForce q s
  | .unforce q => Sys2Proof.Machine.execUnforce q s
  | .mapset q => Sys2Proof.Machine.execMapset q s
  | .mapTakeEffect => Sys2Proof.Machine.execMapTakeEffect s
  | .pubbulk q => Sys2Proof.Machine.execPubbulk q s
  | .snap q => Sys2Proof.Machine.execSnap q s
  | .sweepPass late => Sys2Proof.Machine.execSweepPass late s
  | .bkbFrameReceive port sof frame => Sys2Proof.Machine.execBkbFrameReceive port sof frame s
  | .gateEntryReached port k => Sys2Proof.Machine.execGateEntryReached port k s
  | .supervisionSend => Sys2Proof.Machine.execSupervisionSend s
  | .nodeForget mac => Sys2Proof.Machine.execNodeForget mac s
  | .ringopenDetect => Sys2Proof.Machine.execRingopenDetect s
  | .fdbAgeOut vid mac => Sys2Proof.Machine.execFdbAgeOut vid mac s
  | .gptpSyncSend port => Sys2Proof.Machine.execGptpSyncSend port s
  | .gptpSyncReceive port offset rate capable => Sys2Proof.Machine.execGptpSyncReceive port offset rate capable s
  | .syncReceiptTimeout => Sys2Proof.Machine.execSyncReceiptTimeout s
  | .txFlowSend f => Sys2Proof.Machine.execTxFlowSend f s
  | .flowContextEnable req f => Sys2Proof.Machine.execFlowContextEnable req f s
  | .flowContextBump req f => Sys2Proof.Machine.execFlowContextBump req f s
  | .tunencWrap => Sys2Proof.Machine.execTunencWrap s
  | .bkbTxfrm => Sys2Proof.Machine.execBkbTxfrm s
  | .bkbRxbuf => Sys2Proof.Machine.execBkbRxbuf s
  | .bkbLinkChange port up => Sys2Proof.Machine.execBkbLinkChange port up s
  | .canEnable req n => Sys2Proof.Machine.execCanEnable req n s
  | .canBusIntegrated n => Sys2Proof.Machine.execCanBusIntegrated n s
  | .canTxfrm n => Sys2Proof.Machine.execCanTxfrm n s
  | .arbitrationStart n sof => Sys2Proof.Machine.execArbitrationStart n sof s
  | .attemptEnd n how tec rcv => Sys2Proof.Machine.execAttemptEnd n how tec rcv s
  | .canCancel n => Sys2Proof.Machine.execCanCancel n s
  | .canFrameReceive n sof medium record data lec tec rcv => Sys2Proof.Machine.execCanFrameReceive n sof medium record data lec tec rcv s
  | .hpPop req n => Sys2Proof.Machine.execHpPop req n s
  | .canRxbuf n => Sys2Proof.Machine.execCanRxbuf n s
  | .busOff n => Sys2Proof.Machine.execBusOff n s
  | .canRecover req n => Sys2Proof.Machine.execCanRecover req n s
  | .recoverDone n => Sys2Proof.Machine.execRecoverDone n s
  | .dominantTimeout n => Sys2Proof.Machine.execDominantTimeout n s
  | .canDisable req n => Sys2Proof.Machine.execCanDisable req n s
  | .outboundAccess req kind addr size data => Sys2Proof.Machine.execOutboundAccess req kind addr size data s
  | .completionReceived tag ok data => Sys2Proof.Machine.execCompletionReceived tag ok data s
  | .completionTimeout => Sys2Proof.Machine.execCompletionTimeout s
  | .prefetchExpiry k => Sys2Proof.Machine.execPrefetchExpiry k s
  | .errorMessage rid fatal => Sys2Proof.Machine.execErrorMessage rid fatal s
  | .errorFetchDone reads => Sys2Proof.Machine.execErrorFetchDone reads s
  | .elpop req => Sys2Proof.Machine.execElpop req s
  | .inboundRequest config addr wr len data => Sys2Proof.Machine.execInboundRequest config addr wr len data s
  | .msiReceive intx data => Sys2Proof.Machine.execMsiReceive intx data s
  | .msigen req vec => Sys2Proof.Machine.execMsigen req vec s
  | .cfgreqGo req val => Sys2Proof.Machine.execCfgreqGo req val s
  | .cfgreqDone result data => Sys2Proof.Machine.execCfgreqDone result data s
  | .copyout => Sys2Proof.Machine.execCopyout s
  | .copyin => Sys2Proof.Machine.execCopyin s
  | .bridgeLinkDown disable unsent => Sys2Proof.Machine.execBridgeLinkDown disable unsent s
  | .perstRelease => Sys2Proof.Machine.execPerstRelease s
  | .fioScan mid volts => Sys2Proof.Machine.execFioScan mid volts s
  | .fieldPublish => Sys2Proof.Machine.execFieldPublish s
  | .wettingPulse n => Sys2Proof.Machine.execWettingPulse n s
  | .docmdWrite req cmd => Sys2Proof.Machine.execDocmdWrite req cmd s
  | .outputReadback c u amps tj um => Sys2Proof.Machine.execOutputReadback c u amps tj um s
  | .overload c ms => Sys2Proof.Machine.execOverload c ms s
  | .openwire c => Sys2Proof.Machine.execOpenwire c s
  | .extdrive c => Sys2Proof.Machine.execExtdrive c s
  | .chstatClrf req c => Sys2Proof.Machine.execChstatClrf req c s
  | .tpfault n => Sys2Proof.Machine.execTpfault n s
  | .discfault p => Sys2Proof.Machine.execDiscfault p s
  | .speedEdge n stamp => Sys2Proof.Machine.execSpeedEdge n stamp s
  | .zeroSpeedTimeout n ms => Sys2Proof.Machine.execZeroSpeedTimeout n ms s
  | .supplyMeasure g u => Sys2Proof.Machine.execSupplyMeasure g u s
  | .soownWrite req own => Sys2Proof.Machine.execSoownWrite req own s
  | .dosafeWrite req val => Sys2Proof.Machine.execDosafeWrite req val s
  | .forcedOff t => Sys2Proof.Machine.execForcedOff t s
  | .watchdogStart req => Sys2Proof.Machine.execWatchdogStart req s
  | .watchdogKick req key => Sys2Proof.Machine.execWatchdogKick req key s
  | .watchdogExpiry link => Sys2Proof.Machine.execWatchdogExpiry link s
  | .watchdogClear req => Sys2Proof.Machine.execWatchdogClear req s
  | .fioEnableWrite req en => Sys2Proof.Machine.execFioEnableWrite req en s
  | .lodestoneCycle samples edges => Sys2Proof.Machine.execLodestoneCycle samples edges s
  | .testFrame limited => Sys2Proof.Machine.execTestFrame limited s
  | .discExpiry slot => Sys2Proof.Machine.execDiscExpiry slot s
  | .vigilExpiry slot => Sys2Proof.Machine.execVigilExpiry slot s
  | .tstuckExpiry slot => Sys2Proof.Machine.execTstuckExpiry slot s
  | .edmCheckFail n => Sys2Proof.Machine.execEdmCheckFail n s
  | .spdfault slot => Sys2Proof.Machine.execSpdfault slot s
  | .outputWatch n => Sys2Proof.Machine.execOutputWatch n s
  | .lodSupplyLost => Sys2Proof.Machine.execLodSupplyLost s
  | .lodLinkSilence => Sys2Proof.Machine.execLodLinkSilence s
  | .unlock0 req code => Sys2Proof.Machine.execUnlock0 req code s
  | .unlock1 req code => Sys2Proof.Machine.execUnlock1 req code s
  | .trip req val => Sys2Proof.Machine.execTrip req val s
  | .commitReq req => Sys2Proof.Machine.execCommitReq req s
  | .commitCheckDone => Sys2Proof.Machine.execCommitCheckDone s
  | .commitNow req => Sys2Proof.Machine.execCommitNow req s
  | .commitCancel req => Sys2Proof.Machine.execCommitCancel req s
  | .commitStrobe => Sys2Proof.Machine.execCommitStrobe s
  | .tableEcho => Sys2Proof.Machine.execTableEcho s
  | .tableCrcCheck => Sys2Proof.Machine.execTableCrcCheck s
  | .internalFault osc mac => Sys2Proof.Machine.execInternalFault osc mac s
  | .setpointFrame n valid => Sys2Proof.Machine.execSetpointFrame n valid s
  | .anlStatusFrame n => Sys2Proof.Machine.execAnlStatusFrame n s
  | .analogReadback n carry draw dpri drb vterm vcomp tj refs => Sys2Proof.Machine.execAnalogReadback n carry draw dpri drb vterm vcomp tj refs s
  | .headroom n => Sys2Proof.Machine.execHeadroom n s
  | .openLoop n => Sys2Proof.Machine.execOpenLoop n s
  | .fallbackEnter n => Sys2Proof.Machine.execFallbackEnter n s
  | .fallbackLeave n => Sys2Proof.Machine.execFallbackLeave n s
  | .anlLinkSilent n => Sys2Proof.Machine.execAnlLinkSilent n s
  | .anlSafeRelease n => Sys2Proof.Machine.execAnlSafeRelease n s
  | .anlInterfaceLinkLoss n => Sys2Proof.Machine.execAnlInterfaceLinkLoss n s
  | .anlClrf req n => Sys2Proof.Machine.execAnlClrf req n s
  | .anlEnableWrite req chan en => Sys2Proof.Machine.execAnlEnableWrite req chan en s
  | .trimWrite req n zero span => Sys2Proof.Machine.execTrimWrite req n zero span s
  | .firmwareSwitchHold n running => Sys2Proof.Machine.execFirmwareSwitchHold n running s
  | .binnacleTrimOpen => Sys2Proof.Machine.execBinnacleTrimOpen s
  | .binnacleButton adj ev => Sys2Proof.Machine.execBinnacleButton adj ev s
  | .binnacleTrimAbort => Sys2Proof.Machine.execBinnacleTrimAbort s
  | .infoPageTimeout => Sys2Proof.Machine.execInfoPageTimeout s
  | .islandStop isl => Sys2Proof.Machine.execIslandStop isl s
  | .wakeRequest isl => Sys2Proof.Machine.execWakeRequest isl s
  | .pulseOffer isl counter => Sys2Proof.Machine.execPulseOffer isl counter s
  | .handshakeTimeout xing isl => Sys2Proof.Machine.execHandshakeTimeout xing isl s
  | .linkFrameReceive link inward seq crcOk => Sys2Proof.Machine.execLinkFrameReceive link inward seq crcOk s
  | .islandQuiesce req isl on => Sys2Proof.Machine.execIslandQuiesce req isl on s
  | .islandDrained isl => Sys2Proof.Machine.execIslandDrained isl s
  | .islandReset req isl ended inFlight => Sys2Proof.Machine.execIslandReset req isl ended inFlight s
  | .faultReportTake ready headBad configBad => Sys2Proof.Machine.execFaultReportTake ready headBad configBad s
  | .efpop req headBad => Sys2Proof.Machine.execEfpop req headBad s
  | .firqArm req second => Sys2Proof.Machine.execFirqArm req second s
  | .msafeWrite req key => Sys2Proof.Machine.execMsafeWrite req key s
  | .supervisorCheck pass => Sys2Proof.Machine.execSupervisorCheck pass s
  | .logicSupplyOut => Sys2Proof.Machine.execLogicSupplyOut s
  | .heartbeatSend => Sys2Proof.Machine.execHeartbeatSend s
  | .heartbeatReceive link sof frame => Sys2Proof.Machine.execHeartbeatReceive link sof frame s
  | .missedCycle => Sys2Proof.Machine.execMissedCycle s
  | .prlEnableWrite req en => Sys2Proof.Machine.execPrlEnableWrite req en s
  | .listenRoleTimeout => Sys2Proof.Machine.execListenRoleTimeout s
  | .catchupPass received => Sys2Proof.Machine.execCatchupPass received s
  | .mirrorSend => Sys2Proof.Machine.execMirrorSend s
  | .chartFrameReceive link frame => Sys2Proof.Machine.execChartFrameReceive link frame s
  | .blockFrameReceive link frame => Sys2Proof.Machine.execBlockFrameReceive link frame s
  | .swap req => Sys2Proof.Machine.execSwap req s
  | .swapComplete => Sys2Proof.Machine.execSwapComplete s
  | .logTriggerFire => Sys2Proof.Machine.execLogTriggerFire s
  | .swtrig req t arg => Sys2Proof.Machine.execSwtrig req t arg s
  | .triggerDefine req val => Sys2Proof.Machine.execTriggerDefine req val s
  | .logCapture => Sys2Proof.Machine.execLogCapture s
  | .logFlush => Sys2Proof.Machine.execLogFlush s
  | .logFlushRequest req => Sys2Proof.Machine.execLogFlushRequest req s
  | .logFlushDone => Sys2Proof.Machine.execLogFlushDone s
  | .logCursorWrite req seq next => Sys2Proof.Machine.execLogCursorWrite req seq next s
  | .logInfo cert => Sys2Proof.Machine.execLogInfo cert s
  | .logRead cert first count => Sys2Proof.Machine.execLogRead cert first count s
  | .logGrant cert secs => Sys2Proof.Machine.execLogGrant cert secs s
  | .grantExpiry => Sys2Proof.Machine.execGrantExpiry s
  | .logClear cert digest => Sys2Proof.Machine.execLogClear cert digest s
  | .wakeAccept second => Sys2Proof.Machine.execWakeAccept second s
  | .powerUp => Sys2Proof.Machine.execPowerUp s
  | .powerGood counterOk => Sys2Proof.Machine.execPowerGood counterOk s
  | .bootStage coreFails countersOk => Sys2Proof.Machine.execBootStage coreFails countersOk s
  | .svcready req => Sys2Proof.Machine.execSvcready req s
  | .interruptionStart => Sys2Proof.Machine.execInterruptionStart s
  | .interruptionEnd => Sys2Proof.Machine.execInterruptionEnd s
  | .powerFailDeclare reserve => Sys2Proof.Machine.execPowerFailDeclare reserve s
  | .powerDownEnd complete => Sys2Proof.Machine.execPowerDownEnd complete s
  | .bankMeasure mj => Sys2Proof.Machine.execBankMeasure mj s
  | .offdlyExpiry => Sys2Proof.Machine.execOffdlyExpiry s
  | .pwroff req key => Sys2Proof.Machine.execPwroff req key s
  | .moduleReset req key => Sys2Proof.Machine.execModuleReset req key s
  | .stage q countersOk => Sys2Proof.Machine.execStage q countersOk s
  | .activate q => Sys2Proof.Machine.execActivate q s
  | .confirm q countersOk => Sys2Proof.Machine.execConfirm q countersOk s
  | .fallback q => Sys2Proof.Machine.execFallback q s
  | .cancel q => Sys2Proof.Machine.execCancel q s
  | .pilot q => Sys2Proof.Machine.execPilot q s
  | .waypointReached => Sys2Proof.Machine.execWaypointReached s
  | .handoverRequest t => Sys2Proof.Machine.execHandoverRequest t s
  | .handoverReady req t => Sys2Proof.Machine.execHandoverReady req t s
  | .vitalImageSwitch t => Sys2Proof.Machine.execVitalImageSwitch t s
  | .afwSwitchFail n => Sys2Proof.Machine.execAfwSwitchFail n s
  | .mapareaWrite req base => Sys2Proof.Machine.execMapareaWrite req base s
  | .backgroundCheck => Sys2Proof.Machine.execBackgroundCheck s
  | .pilotEntry => Sys2Proof.Machine.execPilotEntry s
  | .tftpStage package countersOk => Sys2Proof.Machine.execTftpStage package countersOk s
  | .tftpFallback u => Sys2Proof.Machine.execTftpFallback u s
  | .tftpReset => Sys2Proof.Machine.execTftpReset s
  | .tftpStatus => Sys2Proof.Machine.execTftpStatus s
  | .modreset cert pilot => Sys2Proof.Machine.execModreset cert pilot s
  | .thermalMeasure tref => Sys2Proof.Machine.execThermalMeasure tref s
  | .thermalStateChange => Sys2Proof.Machine.execThermalStateChange s
  | .cover removed => Sys2Proof.Machine.execCover removed s
  | .starPortLinkChange port up inFlight => Sys2Proof.Machine.execStarPortLinkChange port up inFlight s
  | .pairLinkChange link up => Sys2Proof.Machine.execPairLinkChange link up s
  | .bridgeLinkUp speed width => Sys2Proof.Machine.execBridgeLinkUp speed width s
  | .wakeInputOff second => Sys2Proof.Machine.execWakeInputOff second s
  | .bestMasterClockDecision heard port prio1 cls acc lvar prio2 ident => Sys2Proof.Machine.execBestMasterClockDecision heard port prio1 cls acc lvar prio2 ident s

end Sys2Proof.Machine
end

