-- ==== Sys2Proof/Safety.lean ====
section
/-! DEFINITION. The terms that statements about the machine use: its canonical form, its parts, and what an operation keeps. -/

namespace Sys2Proof.Machine

/-- Every keyed list of the state that registers, interrupt files, tag areas and memory are read from is in its one canonical form
(notes/assumptions/2.md), and there are four triads, six CAN channels and eight analog channels. -/
structure State.Canon (s : State) : Prop where
  flds : kwf 0 s.flds = true
  live : kwf 0 s.live = true
  ifiles : kwf 0 s.ifiles = true
  tags : Memory.wf s.tags = true
  mem : Memory.wf s.mem = true
  chk : Memory.wf s.chk = true
  triads : s.triads.length = 4
  can : s.can.length = 6
  anl : s.anl.length = 8

/-- The parts of the state, each named as its field of State. -/
inductive Part where
  | pending
  | flds
  | live
  | pendL
  | nfree
  | out
  | qops
  | ifiles
  | tags
  | onceCycle
  | waiting
  | mem
  | chk
  | caches
  | ceHold
  | degCnt
  | degAt
  | degraded
  | triads
  | resv
  | poolNext
  | mer
  | rhl
  | chart
  | bkb
  | can
  | brg
  | fio
  | lod
  | anl
  | binn
  | pulses
  | pulseOvf
  | xings
  | quiet
  | links
  | linkAt
  | linkLost
  | coll
  | prl
  | logb
  | pwr
  | upd
  | therm
  deriving DecidableEq, Repr

/-- The number of a part in a set of parts, which is written as a bit mask. -/
def Part.idx : Part → Nat
  | .pending => 0
  | .flds => 1
  | .live => 2
  | .pendL => 3
  | .nfree => 4
  | .out => 5
  | .qops => 6
  | .ifiles => 7
  | .tags => 8
  | .onceCycle => 9
  | .waiting => 10
  | .mem => 11
  | .chk => 12
  | .caches => 13
  | .ceHold => 14
  | .degCnt => 15
  | .degAt => 16
  | .degraded => 17
  | .triads => 18
  | .resv => 19
  | .poolNext => 20
  | .mer => 21
  | .rhl => 22
  | .chart => 23
  | .bkb => 24
  | .can => 25
  | .brg => 26
  | .fio => 27
  | .lod => 28
  | .anl => 29
  | .binn => 30
  | .pulses => 31
  | .pulseOvf => 32
  | .xings => 33
  | .quiet => 34
  | .links => 35
  | .linkAt => 36
  | .linkLost => 37
  | .coll => 38
  | .prl => 39
  | .logb => 40
  | .pwr => 41
  | .upd => 42
  | .therm => 43

/-- The set of some parts. -/
def Part.mask (l : List Part) : Nat := l.foldl (fun m p => m ||| 2 ^ p.idx) 0

/-- A part is the same in two states. -/
def Part.same (a b : State) : Part → Prop
  | .pending => b.pending = a.pending
  | .flds => b.flds = a.flds
  | .live => b.live = a.live
  | .pendL => b.pendL = a.pendL
  | .nfree => b.nfree = a.nfree
  | .out => b.out = a.out
  | .qops => b.qops = a.qops
  | .ifiles => b.ifiles = a.ifiles
  | .tags => b.tags = a.tags
  | .onceCycle => b.onceCycle = a.onceCycle
  | .waiting => b.waiting = a.waiting
  | .mem => b.mem = a.mem
  | .chk => b.chk = a.chk
  | .caches => b.caches = a.caches
  | .ceHold => b.ceHold = a.ceHold
  | .degCnt => b.degCnt = a.degCnt
  | .degAt => b.degAt = a.degAt
  | .degraded => b.degraded = a.degraded
  | .triads => b.triads = a.triads
  | .resv => b.resv = a.resv
  | .poolNext => b.poolNext = a.poolNext
  | .mer => b.mer = a.mer
  | .rhl => b.rhl = a.rhl
  | .chart => b.chart = a.chart
  | .bkb => b.bkb = a.bkb
  | .can => b.can = a.can
  | .brg => b.brg = a.brg
  | .fio => b.fio = a.fio
  | .lod => b.lod = a.lod
  | .anl => b.anl = a.anl
  | .binn => b.binn = a.binn
  | .pulses => b.pulses = a.pulses
  | .pulseOvf => b.pulseOvf = a.pulseOvf
  | .xings => b.xings = a.xings
  | .quiet => b.quiet = a.quiet
  | .links => b.links = a.links
  | .linkAt => b.linkAt = a.linkAt
  | .linkLost => b.linkLost = a.linkLost
  | .coll => b.coll = a.coll
  | .prl => b.prl = a.prl
  | .logb => b.logb = a.logb
  | .pwr => b.pwr = a.pwr
  | .upd => b.upd = a.upd
  | .therm => b.therm = a.therm

/-- From a to b only the parts in the set m differ. The queue of waiting commands is as it was, the canonical form is kept, nothing that left the
module is taken back, and no free value is used twice. -/
structure Kept (m : Nat) (a b : State) : Prop where
  pending : b.pending = a.pending
  canon : a.Canon → b.Canon
  out : ∃ l, l ++ a.out = b.out
  nfree : a.nfree ≤ b.nfree
  parts : ∀ p : Part, m.testBit p.idx = false → p.same a b

/-- An outcome whose next state, where it answers one, is kept. -/
def KeptO (m : Nat) (a : State) : Host.Outcome State Fault Refusal → Prop
  | .next b => Kept m a b
  | _ => True

/-- The same of an operation that may answer no state. -/
def KeptM (m : Nat) (a : State) : Option State → Prop
  | some b => Kept m a b
  | none => True

/-- The same of an operation that answers a state and something else. -/
def Kept1 {α : Type} (m : Nat) (a : State) (p : State × α) : Prop := Kept m a p.1

/-- The set m takes in the set f. -/
def Covers (m f : Nat) : Prop := m ||| f = m

/-! ### What a command does and what it leaves alone -/

/-- The command completes: it answers a next state, of which P holds. -/
def Completes (c : Instr) (s : State) (P : State → Prop) : Prop := ∃ t, exec c s = .next t ∧ P t

/-- Every register field but those listed reads in t as in s. -/
def Only (l : List Fld) (s t : State) : Prop := ∀ f : Fld, (∀ g ∈ l, g.key ≠ f.key) → getF t f = getF s f

/-- The frame of a command: register fields other than those of l, and parts of the state other than registers and those of ps, are as before; the parts
take in every byte of memory and every check byte, the live fields in force, tag areas and interrupt files. -/
def Frame (l : List Fld) (ps : List Part) (s t : State) : Prop := Only l s t ∧ ∀ p : Part, p ≠ .flds → p ∉ ps → p.same s t

/-- Every part of the state but those of ps is as before. -/
def Rest (ps : List Part) (s t : State) : Prop := ∀ p : Part, p ∉ ps → p.same s t

/-- Memory and its check bytes are as they were but for the codewords that n bytes from address a touch (R68). -/
def MemOutside (a n : Nat) (s t : State) : Prop :=
  (∀ x, (x < 32 * cwOf a ∨ 32 * cwOf (a + n + 31) ≤ x) → memByte t x = memByte s x) ∧
  (∀ x, (x < 4 * cwOf a ∨ 4 * cwOf (a + n + 31) ≤ x) → kget 0 t.chk x = kget 0 s.chk x)

/-- The counters of lost fault reports (R417), which a command that raises a report may count up. -/
def lostCounters : List Fld := [SYS_EFLOST_NOTE, SYS_EFLOST_MINOR, SYS_EFLOST_MAJOR, SYS_EFLOST_VITAL, SYS_EFLOST_MODULE]

/-- What an interrupt write may change besides: it starts the clock of the island whose file it reaches, or is reported where there is no such file (R58, R400). -/
def msiFields : List Fld := SYS_ISL_STOPPED 1 :: SYS_ISL_STOPPED 2 :: lostCounters

/-- What a memory event may change besides: its counters, the last event, an armed injection and the degraded device (R77, R80, R98, R99). -/
def memFields : List Fld :=
  [MEM_INJ_ARM, MEM_CECNT_DRAM, MEM_UECNT_DRAM, MEM_UECNT_POISON, MEM_LASTADR_ADDR, MEM_LASTADR_SRC, MEM_LASTSYN_SYND, MEM_LASTSYN_SYM, MEM_LASTSYN_VAL, MEM_LASTSYN_VERDICT,
    MEM_STAT_DRDEG, MEM_STAT_NVDEG, MEM_STAT_DRDEV, MEM_STAT_NVDEV] ++ (List.range 64).map MEM_DEV_DRAM

/-- An island answers register accesses and its clock runs (R400, R401). -/
abbrev Ready (s : State) (i : Nat) : Prop := islandAnswers s i = true ∧ onF s (SYS_ISL_STOPPED i) = false

/-- What has left the module from one state to a later one, newest first. -/
def leftNow (s t : State) : List Out := t.out.take (t.out.length - s.out.length)

/-- The engines of an island are at work: its clock runs, and it is not quiesced (R399, R414). -/
abbrev Runs (s : State) (i : Nat) : Prop := clocked s i = true ∧ onF s (SYS_ISL_QUIESCE i) = false

/-- What leaves over the pair link for the partner: it goes by the link in use, and with neither link up there is nothing (R428). -/
def toPartner (s : State) (g : Nat → List Out) : List Out :=
  match pairLink s with
  | some k => g k
  | none => []

/-- No register map lists the address a of the register space; tag areas and alias pages are not among these (R11). -/
abbrev Unlisted (s : State) (a : Nat) : Prop :=
  0x2000000000 ≤ a ∧ a < 0x2010000000 ∧ fieldsAt s a = [] ∧ inTagArea a = false ∧ aliasTargets s a = none ∧ logGuarded a = false

/-- The outcome is this next state. -/
def isNext (o : Host.Outcome State Fault Refusal) (t : State) : Bool := match o with
  | .next u => decide (u = t)
  | _ => false

/-- Writes of one value to several registers of a block, in order (R36). -/
def writeEach (r : Req) (size : Nat) (val : Word) (l : List Nat) (s : State) : Host.Outcome State Fault Refusal :=
  l.foldl (fun o b => match o with
    | .next u => writeBlock r b size val u
    | e => e) (.next s)

/-- A value sent over a crossing is taken at once: a lane is idle, nothing waits on it, and both islands run or can (R403, R404, R408). -/
abbrev CrossOpen (s : State) (num tx rx : Nat) : Prop :=
  laneFree num tx 0 s.xings = true ∧ unTaken num tx 0 s = [] ∧ islandAnswers s tx = true ∧ islandAnswers s rx = true

/-- The line of an address is in no cache, and memory is in its one form (notes/assumptions/2.md, 63.md). -/
abbrev Uncached (s : State) (a : Nat) : Prop := (∀ c ∈ s.caches, c.line ≠ cwOf a / 2) ∧ Memory.wf s.mem = true ∧ Memory.wf s.chk = true

/-- No line of the n bytes from a is in a cache, and memory is in its one form (notes/assumptions/2.md, 63.md). -/
abbrev UncachedIn (s : State) (a n : Nat) : Prop :=
  (∀ c ∈ s.caches, 64 * c.line + 64 ≤ 32 * cwOf a ∨ 32 * cwOf (a + n + 31) ≤ 64 * c.line) ∧ Memory.wf s.mem = true ∧ Memory.wf s.chk = true

/-- A line that caches hold is not newer than memory. -/
abbrev AllClean (s : State) : Prop := ∀ c ∈ s.caches, c.dirty = false

/-- An island has one of its four waiting places free for a report (R417). -/
abbrev RoomFor (s : State) (i : Nat) : Prop := (s.waiting.filter fun p => p.1 == i).length < 4

end Sys2Proof.Machine
end

