-- ==== Sys2Proof/WellFormed.lean ====
section
/-! DEFINITION. Which commands a sender can form: the operands that the types alone do not bound. -/

namespace Sys2Proof

/-- The queue exists (R46). -/
def QRef.wf (q : QRef) : Bool := Machine.listedQueue (q.blk.val * 256 + q.num.val)

/-- An island that can be stopped, woken, quiesced or reset by its own request (R399, R486). -/
def singleIslandWf (i : Fin 16) : Bool := decide (i.val ∈ [0x2, 0x6, 0x8, 0x9, 0xA, 0xC])

/-- No symbol of a codeword is named twice in an upset. -/
def upsetWf (e : List (Fin 36 × Byte)) : Bool := decide ((e.map (·.1)).Nodup)

/-- The bytes of a store: 1 to 64, and 4 or 8 of an atomic operation (R101). -/
def storeWf (kind : AccKind) (n : Nat) : Bool :=
  match kind with
  | .amo _ => n == 4 || n == 8
  | _ => decide (0 < n ∧ n ≤ 64)

/-- The well-formed commands: queues that exist, islands with a register of their own, upsets that name each symbol once, a store of 1 to 64 bytes, five samples
of the FB die in a Lodestone cycle, the 92 values of a state signature and the 101 words of a rejoin copy (R120, R136). -/
def Instr.wf : Instr → Bool
  | .doorbell _ q _ _ => q.wf
  | .entryTake q => q.wf
  | .descriptorWriteback q => q.wf
  | .queueEnable _ q => q.wf
  | .queueDrain _ q => q.wf
  | .drainComplete q => q.wf
  | .queueBump _ q => q.wf
  | .memoryRead _ _ _ _ upset _ => upsetWf upset
  | .scrubStep _ upset _ => upsetWf upset
  | .cacheScrub _ _ upset _ => upsetWf upset
  | .memoryWrite _ kind _ data _ => storeWf kind data.length
  | .lodestoneCycle samples _ => samples.length == 5
  | .signatureBoundary _ a b c _ _ => a.length == 92 && b.length == 92 && c.length == 92
  | .rejoinBoundary _ regs => regs.length == 101
  | .islandStop isl => singleIslandWf isl
  | .wakeRequest isl => singleIslandWf isl
  | .islandQuiesce _ isl _ => singleIslandWf isl
  | .islandDrained isl => singleIslandWf isl
  | .islandReset _ isl _ _ => singleIslandWf isl
  | _ => true

end Sys2Proof
end

