-- ==== Sys2Proof/Certificates/Slice0/Obligations.lean ====
section
/-! DEFINITION. The statements for the provers. Each completion statement names its commands, says on which states and operands they complete, what the next
state holds, and what they leave as it was (`Frame`). -/

open Sys2Proof Sys2Proof.Machine

/-- A step runs the command at the front, and idles as a tick. For every state whose queue begins with a command c, step is exec of c on the state with the rest of the queue. With no command waiting a step completes, leaves the queue empty and is one tick of the module's clock (that an idle step is a tick is the model's choice, notes/assumptions/3.md). -/
def Obligations.StepRunsFront : Prop :=
  (∀ (s : State) (c : Instr) (r : List Instr), s.pending = c :: r → step s = exec c { s with pending := r }) ∧
  (∀ s : State, s.pending = [] → ∃ t, step s = .next t ∧ t.pending = [] ∧ t = clockTick s)

/-- A register write follows the access codes. REGISTER_WRITE to a register of a ready island: a RW field takes the written bits, a half-register write leaves the other half, RC and RO fields ignore it, W1C bits written 1 clear, RWL fields read back at once while the values in force stay, UB-01 aside a RWS field of an idle block takes the value; nothing else changes. In general a write to any register of a ready island that brings nothing else about stores each covered field as its access code says and leaves the others. After the RWL_BOUNDARY of the block the written values are in force and nothing of the block is pending; in general every value written since the last boundary is then in force and every other live field is as it was, for every block and channel whose boundary is not held back (a CAN channel that is sending, BRG with a request held; LOG has its own, the end of a flush). -/
def Obligations.RegisterWriteCodes : Prop :=
  (∀ (r : Req) (val : Word) (s : State), Ready s 4 → 
    Completes (.registerWrite r 0x2003000040 8 val) s fun t =>
      getF t MEM_CEHOLD_MS = val.toNat % 256
        ∧ Frame [MEM_CEHOLD_MS] [.quiet] s t) ∧
  (∀ (r : Req) (val : Word) (s : State), Ready s 4 → 
    Completes (.registerWrite r 0x2003000044 4 val) s fun t =>
      Frame [] [.quiet] s t) ∧
  (∀ (r : Req) (val : Word) (s : State), Ready s 4 → 
    Completes (.registerWrite r 0x2003000028 8 val) s fun t =>
      Frame [] [.quiet] s t) ∧
  (∀ (r : Req) (val : Word) (s : State), Ready s 7 → 
    Completes (.registerWrite r 0x2004000058 8 val) s fun t =>
      onF t MER_EVT_STCHG = (onF s MER_EVT_STCHG && !bit val.toNat 0)
        ∧ onF t MER_EVT_STEP = (onF s MER_EVT_STEP && !bit val.toNat 1)
        ∧ onF t MER_EVT_STEPREF = (onF s MER_EVT_STEPREF && !bit val.toNat 2)
        ∧ onF t MER_EVT_CLAMP = (onF s MER_EVT_CLAMP && !bit val.toNat 3)
        ∧ Frame [MER_EVT_STCHG, MER_EVT_STEP, MER_EVT_STEPREF, MER_EVT_CLAMP] [.quiet] s t) ∧
  (∀ (r : Req) (val : Word) (s : State), Ready s 4 → 
    Completes (.registerWrite r 0x2003000008 8 val) s fun t =>
      getF t MEM_SCRUB_DRH = val.toNat % 256
        ∧ getF t MEM_SCRUB_NVD = val.toNat / 256 % 32
        ∧ onF t MEM_SCRUB_DREN = bit val.toNat 16
        ∧ onF t MEM_SCRUB_NVEN = bit val.toNat 17
        ∧ Frame [MEM_SCRUB_DRH, MEM_SCRUB_NVD, MEM_SCRUB_DREN, MEM_SCRUB_NVEN] [.pendL, .quiet] s t) ∧
  (∀ (r : Req) (val : Word) (s : State), Ready s 6 → onF s CHT_CTRL_EN = false → 
    Completes (.registerWrite r 0x2006000018 8 val) s fun t =>
      getF t CHT_WATCHBASE_BASE = val.toNat % 2 ^ 40
        ∧ Frame [CHT_WATCHBASE_BASE] [.quiet] s t) ∧
  (∀ (r : Req) (addr size : Nat) (val : Word) (s : State), 0x2000000000 ≤ addr → addr < 0x2010000000 → Ready s (blkIsland (blkOf addr)) → sizeOk addr size = true → aliasTargets s addr = none → inTagArea addr = false → ((fieldsAt s addr).map Fld.key).Nodup → ((∀ f ∈ fieldsAt s addr, vitalOnly s f = false ∧ spanned size f = false)) → isNext (writeEach r size val [addr] (wakeIsland s (blkIsland (blkOf addr)))) (writeFields r addr size val (fieldsAt s addr) (wakeIsland s (blkIsland (blkOf addr)))) = true → 
    Completes (.registerWrite r addr size val) s fun t =>
      (∀ f ∈ fieldsAt s addr, covered addr size f = true → ((f.acc = .rw ∨ f.acc = .rwl ∨ (f.acc = .rws ∧ rwsLocked s f = false)) → getF t f = bits (placed addr size val) f.lo f.w) ∧ (f.acc = .w1c → getF t f = (getF s f ^^^ (getF s f &&& bits (placed addr size val) f.lo f.w)) % 2 ^ f.w))
        ∧ (∀ f ∈ fieldsAt s addr, (covered addr size f = false ∨ f.acc = .ro ∨ f.acc = .rc ∨ f.acc = .wo ∨ f.acc = .w1s) → getF t f = getF s f)
        ∧ Frame (fieldsAt s addr) [.pendL, .nfree, .quiet] s t) ∧
  (∀ (b : Fin 16) (c : Option Nat) (s : State), b.val ≠ 8 → b.val ≠ 11 → b.val ≠ 14 → ((b.val = 9 → s.brg.held = [])) → ((b.val = 0 ∨ b.val = 3 → c = none)) → 
    Completes (.rwlBoundary b c) s fun t =>
      (∀ p ∈ s.pendL, inBoundary b.val c (p.1 / 64) = true → (∀ q ∈ s.pendL, q.1 = p.1 → q = p) → kget 0 t.live p.1 = p.2)
        ∧ (∀ p, p ∈ t.pendL ↔ p ∈ s.pendL ∧ inBoundary b.val c (p.1 / 64) = false)
        ∧ (∀ k, (∀ p ∈ s.pendL, inBoundary b.val c (p.1 / 64) = true → p.1 ≠ k) → kget 0 t.live k = kget 0 s.live k)) ∧
  (∀ (n : Fin 6) (s : State), (canCh s n).sending = false → 
    Completes (.rwlBoundary 8 (some n)) s fun t =>
      (∀ p ∈ s.pendL, inBoundary 8 (some n.val) (p.1 / 64) = true → (∀ q ∈ s.pendL, q.1 = p.1 → q = p) → kget 0 t.live p.1 = p.2)
        ∧ (∀ p, p ∈ t.pendL ↔ p ∈ s.pendL ∧ inBoundary 8 (some n.val) (p.1 / 64) = false)
        ∧ Frame [] [.live, .pendL] s t) ∧
  (∀ (n : Fin 8) (s : State), ((∀ p ∈ s.pendL, inBoundary 11 (some n.val) (p.1 / 64) = true → p.1 / 64 % 0x1000 ≠ 8 ∧ p.1 / 64 % 0x1000 ≠ 0x10)) → 
    Completes (.rwlBoundary 11 (some n)) s fun t =>
      (∀ p ∈ s.pendL, 0x200b010000 + n.val * 0x1000 ≤ p.1 / 64 → p.1 / 64 < 0x200b011000 + n.val * 0x1000 → (∀ q ∈ s.pendL, q.1 = p.1 → q = p) → kget 0 t.live p.1 = p.2)
        ∧ Frame [] [.live, .pendL] s t) ∧
  (∀ (r : Req) (val : Word) (s : State), Ready s 4 →
    Completes (.registerWrite r 0x2003000008 8 val) s fun t => Completes (.rwlBoundary 3 none) t fun u =>
      liveF u MEM_SCRUB_DRH = val.toNat % 256 ∧ liveF u MEM_SCRUB_NVD = val.toNat / 256 % 32 ∧ onL u MEM_SCRUB_DREN = bit val.toNat 16
        ∧ onL u MEM_SCRUB_NVEN = bit val.toNat 17 ∧ (∀ p ∈ u.pendL, blkOf (p.1 / 64) ≠ 3 ∨ 0x2010000000 ≤ p.1 / 64)
        ∧ Frame [] [.live, .pendL, .degCnt] t u)

/-- A doorbell is accepted, stale or rejected. Doorbells are handled in the order in which they wait, whoever sends them (an update queue, of block 15, takes them from its sender only: doorbellFrom). DOORBELL on a listed queue of a ready island, by the rows of R50 in order: wrong size or a disabled queue counts QDBERR and sets DBERR; another epoch counts QSTALE and sets STALE; an outstanding count above ENTRIES - 1, or below the count under the last accepted PROD, counts QDBERR and sets DBERR; any other is accepted, writes QPROD and lets a paused engine go on; a repeat of the current PROD changes nothing else. -/
def Obligations.Doorbell : Prop :=
  (∀ (s : State) (r : Req) (q : QRef) (n : Nat) (v : Word) (l : List Instr), s.pending = .doorbell r q n v :: l → step s = execDoorbell r q n v { s with pending := l }) ∧
  (∀ (r : Req) (Q : Nat), Q / 256 ≠ 15 → doorbellFrom r Q = true) ∧
  (∀ (r : Req) (q : QRef) (size : Nat) (val : Word) (s : State), q.wf = true → Ready s (blkIsland q.blk.val) → (size ≠ 8 ∨ onF s (QCTRL_EN (gq q)) = false) → 
    Completes (.doorbell r q size val) s fun t =>
      getF t (QDBERR_COUNT (gq q)) = min (getF s (QDBERR_COUNT (gq q)) + 1) (2 ^ 32 - 1)
        ∧ onF t (QSTAT_DBERR (gq q)) = true
        ∧ Frame [QDBERR_COUNT (gq q), QSTAT_DBERR (gq q)] [.quiet] s t) ∧
  (∀ (r : Req) (q : QRef) (val : Word) (s : State), q.wf = true → Ready s (blkIsland q.blk.val) → doorbellFrom r (gq q) = true → onF s (QCTRL_EN (gq q)) = true → bits val.toNat 16 16 ≠ getF s (QEPOCH_EPOCH (gq q)) → 
    Completes (.doorbell r q 8 val) s fun t =>
      getF t (QSTALE_COUNT (gq q)) = min (getF s (QSTALE_COUNT (gq q)) + 1) (2 ^ 32 - 1)
        ∧ onF t (QSTAT_STALE (gq q)) = true
        ∧ Frame (QSTALE_COUNT (gq q) :: QSTAT_STALE (gq q) :: lostCounters) [.waiting, .onceCycle, .quiet] s t) ∧
  (∀ (r : Req) (q : QRef) (val : Word) (s : State), q.wf = true → Ready s (blkIsland q.blk.val) → doorbellFrom r (gq q) = true → onF s (QCTRL_EN (gq q)) = true → bits val.toNat 16 16 = getF s (QEPOCH_EPOCH (gq q)) → (bits val.toNat 0 16 + 65536 - getF s (QCONS_CONS (gq q))) % 65536 < getF s (QSIZE_ENTRIES (gq q)) → outstanding s (gq q) ≤ (bits val.toNat 0 16 + 65536 - getF s (QCONS_CONS (gq q))) % 65536 → 
    Completes (.doorbell r q 8 val) s fun t =>
      getF t (QPROD_PROD (gq q)) = bits val.toNat 0 16
        ∧ getF t (QPROD_EPOCH (gq q)) = bits val.toNat 16 16
        ∧ onF t (QSTAT_PAUSED (gq q)) = false
        ∧ Frame [QPROD_PROD (gq q), QPROD_EPOCH (gq q), QSTAT_PAUSED (gq q)] [.quiet] s t) ∧
  (∀ (r : Req) (q : QRef) (val : Word) (s : State), q.wf = true → Ready s (blkIsland q.blk.val) → doorbellFrom r (gq q) = true → onF s (QCTRL_EN (gq q)) = true → bits val.toNat 16 16 = getF s (QEPOCH_EPOCH (gq q)) → (getF s (QSIZE_ENTRIES (gq q)) ≤ (bits val.toNat 0 16 + 65536 - getF s (QCONS_CONS (gq q))) % 65536 ∨ (bits val.toNat 0 16 + 65536 - getF s (QCONS_CONS (gq q))) % 65536 < outstanding s (gq q)) → 
    Completes (.doorbell r q 8 val) s fun t =>
      getF t (QDBERR_COUNT (gq q)) = min (getF s (QDBERR_COUNT (gq q)) + 1) (2 ^ 32 - 1)
        ∧ onF t (QSTAT_DBERR (gq q)) = true
        ∧ Frame [QDBERR_COUNT (gq q), QSTAT_DBERR (gq q)] [.quiet] s t) ∧
  (∀ (r : Req) (q : QRef) (val : Word) (s : State), q.wf = true → Ready s (blkIsland q.blk.val) → doorbellFrom r (gq q) = true → onF s (QCTRL_EN (gq q)) = true → bits val.toNat 16 16 = getF s (QEPOCH_EPOCH (gq q)) → bits val.toNat 16 16 = getF s (QPROD_EPOCH (gq q)) → bits val.toNat 0 16 = getF s (QPROD_PROD (gq q)) → outstanding s (gq q) < getF s (QSIZE_ENTRIES (gq q)) → 
    Completes (.doorbell r q 8 val) s fun t =>
      onF t (QSTAT_PAUSED (gq q)) = false
        ∧ Frame [QSTAT_PAUSED (gq q)] [.quiet] s t)

/-- Enabling, draining, bumping and serving a queue. QUEUE_ENABLE of an idle ring zeroes its indexes and takes the owner's epoch; QUEUE_DRAIN of a ring with nothing outstanding makes it idle, and with entries outstanding disables it and aborts what has not started; DRAIN_COMPLETE sets CONS to PROD and IDLE; QUEUE_BUMP counts the epoch 1 to 0xFFFF and round; ENTRY_TAKE takes a chain of at most 16 entries of the queue's epoch as an operation with the opcode of its first descriptor that is no NOP, ends one of NOPs alone with OK, one whose first opcode is undefined with BADOP, one whose ring entry its owner may not read (a vital region) with ACCESS, a chain of another epoch with STALE and a longer one with CHAINLEN, and stops at an entry without OWN with PAUSED and NOTOWN set; DESCRIPTOR_WRITEBACK of the first taken operation, if it has ended, advances CONS past its entries and drops it; with one entry it writes the entry back and changes no memory outside it. -/
def Obligations.QueueLife : Prop :=
  (∀ (r : Req) (q : QRef) (s : State), q.wf = true → Ready s (blkIsland q.blk.val) → onF s (QCTRL_EN (gq q)) = false → onF s (QSTAT_IDLE (gq q)) = true → bindingOk s (gq q) = true → ringOk s (gq q) = true → 
    Completes (.queueEnable r q) s fun t =>
      onF t (QCTRL_EN (gq q)) = true
        ∧ onF t (QSTAT_IDLE (gq q)) = false
        ∧ getF t (QPROD_PROD (gq q)) = 0
        ∧ getF t (QCONS_CONS (gq q)) = 0
        ∧ getF t (QEPOCH_EPOCH (gq q)) = ((ownerEpoch s (getF s (QCTRL_OWNCLS (gq q))) (getF s (QCTRL_OWNID (gq q)))).getD (getF s (QEPOCH_EPOCH (gq q)))) % 65536
        ∧ Frame [QCTRL_EN (gq q), QSTAT_IDLE (gq q), QPROD_PROD (gq q), QPROD_EPOCH (gq q), QCONS_CONS (gq q), QEPOCH_EPOCH (gq q)] [.quiet] s t) ∧
  (∀ (r : Req) (q : QRef) (s : State), q.wf = true → Ready s (blkIsland q.blk.val) → onF s (QCTRL_EN (gq q)) = true → 
    Completes (.queueDrain r q) s fun t =>
      onF t (QCTRL_EN (gq q)) = false
        ∧ (outstanding s (gq q) = 0 → onF t (QSTAT_IDLE (gq q)) = true)
        ∧ (outstanding s (gq q) ≠ 0 → onF t (QSTAT_IDLE (gq q)) = onF s (QSTAT_IDLE (gq q)))
        ∧ (∀ o ∈ t.qops, o.q = gq q → o.started = true ∨ o.done ≠ none)
        ∧ Frame [QCTRL_EN (gq q), QSTAT_PAUSED (gq q), QSTAT_IDLE (gq q)] [.qops, .quiet] s t) ∧
  (∀ (q : QRef) (s : State), q.wf = true → Runs s (blkIsland q.blk.val) → onF s (QCTRL_EN (gq q)) = false → onF s (QSTAT_IDLE (gq q)) = false → opsOf s (gq q) = [] → outstanding s (gq q) = 0 → 
    Completes (.drainComplete q) s fun t =>
      getF t (QCONS_CONS (gq q)) = getF s (QPROD_PROD (gq q)) % 65536
        ∧ onF t (QSTAT_IDLE (gq q)) = true
        ∧ Frame [QCONS_CONS (gq q), QSTAT_IDLE (gq q)] [] s t) ∧
  (∀ (r : Req) (q : QRef) (s : State), q.wf = true → Ready s (blkIsland q.blk.val) → 
    Completes (.queueBump r q) s fun t =>
      getF t (QEPOCH_EPOCH (gq q)) = nextEpoch (getF s (QEPOCH_EPOCH (gq q))) % 65536
        ∧ Frame [QEPOCH_EPOCH (gq q)] [.quiet] s t) ∧
  (∀ (q : QRef) (s : State), q.wf = true → Runs s (blkIsland q.blk.val) → onF s (QCTRL_EN (gq q)) = true → onF s (QSTAT_PAUSED (gq q)) = false → engineWaits s (gq q) = false → 0 < untaken s (gq q) → regionMay s (gq q) (entryAddr s (gq q) (nextTake s (gq q))) 32 false = true → Uncached s (entryAddr s (gq q) (nextTake s (gq q))) → classify (syndromes (codeword s (cwOf (entryAddr s (gq q) (nextTake s (gq q)))))) = .clean → (descriptor s (gq q) (nextTake s (gq q))).map dOwn = some false → 
    Completes (.entryTake q) s fun t =>
      onF t (QSTAT_PAUSED (gq q)) = true
        ∧ onF t (QSTAT_NOTOWN (gq q)) = true
        ∧ Frame [QSTAT_PAUSED (gq q), QSTAT_NOTOWN (gq q)] [] s t) ∧
  (∀ (q : QRef) (n : Nat) (eps : List Nat) (k : Nat) (s : State), q.wf = true → Runs s (blkIsland q.blk.val) → onF s (QCTRL_EN (gq q)) = true → onF s (QSTAT_PAUSED (gq q)) = false → engineWaits s (gq q) = false → 0 < untaken s (gq q) → regionMay s (gq q) (entryAddr s (gq q) (nextTake s (gq q))) 32 false = true → scan s (gq q) (untaken s (gq q)) (nextTake s (gq q)) 0 [] = .chain n eps → n ≤ 16 → ((∀ k < n, classify (syndromes (codeword s (cwOf (entryAddr s (gq q) (nextTake s (gq q) + k))))) = .clean)) → ((∀ e ∈ eps, e = getF s (QEPOCH_EPOCH (gq q)))) → afterNops s (gq q) (nextTake s (gq q)) n 0 = some k → opDefined (gq q) (opcodeAt s (gq q) (nextTake s (gq q) + k)) = true → 
    Completes (.entryTake q) s fun t =>
      t.qops = s.qops ++ [({ q := gq q, idx := nextTake s (gq q), n := n, opc := opcodeAt s (gq q) (nextTake s (gq q) + k), started := false, epoch := getF s (QEPOCH_EPOCH (gq q)), at' := freeCnt s, pos := k } : QOp)]
        ∧ Frame [] [.qops] s t) ∧
  (∀ (q : QRef) (n : Nat) (eps : List Nat) (s : State), q.wf = true → Runs s (blkIsland q.blk.val) → onF s (QCTRL_EN (gq q)) = true → onF s (QSTAT_PAUSED (gq q)) = false → engineWaits s (gq q) = false → 0 < untaken s (gq q) → regionMay s (gq q) (entryAddr s (gq q) (nextTake s (gq q))) 32 false = true → scan s (gq q) (untaken s (gq q)) (nextTake s (gq q)) 0 [] = .chain n eps → n ≤ 16 → ((∀ k < n, classify (syndromes (codeword s (cwOf (entryAddr s (gq q) (nextTake s (gq q) + k))))) = .clean)) → ((∀ e ∈ eps, e = getF s (QEPOCH_EPOCH (gq q)))) → afterNops s (gq q) (nextTake s (gq q)) n 0 = none → 
    Completes (.entryTake q) s fun t =>
      t.qops.length = s.qops.length + 1
        ∧ (∀ o ∈ t.qops.drop s.qops.length, o.q = gq q ∧ o.idx = nextTake s (gq q) ∧ o.n = n ∧ ∃ d, o.done = some d ∧ d.whole = false ∧ d.status = stOK)
        ∧ Frame [] [.qops] s t) ∧
  (∀ (q : QRef) (n : Nat) (eps : List Nat) (k : Nat) (s : State), q.wf = true → Runs s (blkIsland q.blk.val) → onF s (QCTRL_EN (gq q)) = true → onF s (QSTAT_PAUSED (gq q)) = false → engineWaits s (gq q) = false → 0 < untaken s (gq q) → regionMay s (gq q) (entryAddr s (gq q) (nextTake s (gq q))) 32 false = true → scan s (gq q) (untaken s (gq q)) (nextTake s (gq q)) 0 [] = .chain n eps → n ≤ 16 → ((∀ k < n, classify (syndromes (codeword s (cwOf (entryAddr s (gq q) (nextTake s (gq q) + k))))) = .clean)) → ((∀ e ∈ eps, e = getF s (QEPOCH_EPOCH (gq q)))) → afterNops s (gq q) (nextTake s (gq q)) n 0 = some k → opDefined (gq q) (opcodeAt s (gq q) (nextTake s (gq q) + k)) = false → 
    Completes (.entryTake q) s fun t =>
      t.qops.length = s.qops.length + 1
        ∧ (∀ o ∈ t.qops.drop s.qops.length, o.q = gq q ∧ o.idx = nextTake s (gq q) ∧ o.n = n ∧ ∃ d, o.done = some d ∧ d.whole = false ∧ d.status = stBADOP)
        ∧ Frame [] [.qops] s t) ∧
  (∀ (q : QRef) (s : State), q.wf = true → Runs s (blkIsland q.blk.val) → onF s (QCTRL_EN (gq q)) = true → onF s (QSTAT_PAUSED (gq q)) = false → engineWaits s (gq q) = false → 0 < untaken s (gq q) → regionMay s (gq q) (entryAddr s (gq q) (nextTake s (gq q))) 32 false = false → 
    Completes (.entryTake q) s fun t =>
      t.qops.length = s.qops.length + 1
        ∧ (∀ o ∈ t.qops.drop s.qops.length, o.q = gq q ∧ o.idx = nextTake s (gq q) ∧ o.n = 1 ∧ ∃ d, o.done = some d ∧ d.whole = true ∧ d.status = stACCESS)
        ∧ Frame [] [.qops] s t) ∧
  (∀ (q : QRef) (n : Nat) (eps : List Nat) (s : State), q.wf = true → Runs s (blkIsland q.blk.val) → onF s (QCTRL_EN (gq q)) = true → onF s (QSTAT_PAUSED (gq q)) = false → engineWaits s (gq q) = false → 0 < untaken s (gq q) → regionMay s (gq q) (entryAddr s (gq q) (nextTake s (gq q))) 32 false = true → scan s (gq q) (untaken s (gq q)) (nextTake s (gq q)) 0 [] = .chain n eps → ((∀ k < n, classify (syndromes (codeword s (cwOf (entryAddr s (gq q) (nextTake s (gq q) + k))))) = .clean)) → 16 < n → 
    Completes (.entryTake q) s fun t =>
      t.qops = s.qops ++ [({ q := gq q, idx := nextTake s (gq q), n := n, opc := 0, started := true, done := some { status := stCHAINLEN, whole := true } } : QOp)]
        ∧ Frame [] [.qops] s t) ∧
  (∀ (q : QRef) (n : Nat) (eps : List Nat) (s : State), q.wf = true → Runs s (blkIsland q.blk.val) → onF s (QCTRL_EN (gq q)) = true → onF s (QSTAT_PAUSED (gq q)) = false → engineWaits s (gq q) = false → 0 < untaken s (gq q) → regionMay s (gq q) (entryAddr s (gq q) (nextTake s (gq q))) 32 false = true → scan s (gq q) (untaken s (gq q)) (nextTake s (gq q)) 0 [] = .chain n eps → n ≤ 16 → ((∀ k < n, classify (syndromes (codeword s (cwOf (entryAddr s (gq q) (nextTake s (gq q) + k))))) = .clean)) → ((∃ e ∈ eps, e ≠ getF s (QEPOCH_EPOCH (gq q)))) → 
    Completes (.entryTake q) s fun t =>
      t.qops = s.qops ++ [({ q := gq q, idx := nextTake s (gq q), n := n, opc := 0, started := true, done := some { status := stSTALE, whole := true } } : QOp)]
        ∧ getF t (QSTALE_COUNT (gq q)) = min (getF s (QSTALE_COUNT (gq q)) + n) (2 ^ 32 - 1)
        ∧ onF t (QSTAT_STALE (gq q)) = true
        ∧ Frame (QSTALE_COUNT (gq q) :: QSTAT_STALE (gq q) :: lostCounters) [.qops, .waiting, .onceCycle] s t) ∧
  (∀ (q : QRef) (o : QOp) (d : QDone) (l : List QOp) (s : State), q.wf = true → Runs s (blkIsland q.blk.val) → opsOf s (gq q) = o :: l → o.done = some d → 
    Completes (.descriptorWriteback q) s fun t =>
      getF t (QCONS_CONS (gq q)) = (o.idx + o.n) % 65536
        ∧ (q.blk.val ≠ 8 → t.qops = dropFirst (fun x => x == o) s.qops)
        ∧ (d.status = stCODE → onF t (QSTAT_CODEERR (gq q)) = true)
        ∧ Frame (QCONS_CONS (gq q) :: QSTAT_CODEERR (gq q) :: memFields ++ msiFields) [.qops, .ifiles, .waiting, .mem, .chk, .caches, .ceHold, .degCnt, .degraded, .triads, .resv, .can, .pulses, .pulseOvf, .xings, .quiet] s t) ∧
  (∀ (q : QRef) (o : QOp) (d : QDone) (l : List QOp) (s : State), q.wf = true → Runs s (blkIsland q.blk.val) → opsOf s (gq q) = o :: l → o.n = 1 → o.done = some d → q.blk.val ≠ 8 → d.status ≠ stCODE → Uncached s (entryAddr s o.q o.idx) → dIrq ((readCw s (cwOf (entryAddr s o.q o.idx))).getD (memRaw s (entryAddr s o.q o.idx) 32)) = false → onF s MEM_INJ_ARM = false → 
    Completes (.descriptorWriteback q) s fun t =>
      getF t (QCONS_CONS (gq q)) = (o.idx + 1) % 65536
        ∧ (t.qops = dropFirst (fun x => x == o) s.qops)
        ∧ memRaw t (32 * cwOf (entryAddr s o.q o.idx)) 32 = writtenBack ((readCw s (cwOf (entryAddr s o.q o.idx))).getD (memRaw s (entryAddr s o.q o.idx) 32)) (d.status + d.detail * 2 ^ 16) d.ts d.res
        ∧ MemOutside (32 * cwOf (entryAddr s o.q o.idx)) 32 s t
        ∧ Frame [QCONS_CONS (gq q)] [.qops, .mem, .chk, .resv] s t)

/-- Reads of RC registers, tag and interrupt-file writes. RC_READ of a counter returns its value and clears it; NOW0_READ returns the time and latches its reader's NOW1; INTERRUPT_WRITE of an identity 1 to 255 to a file that exists makes it pending, starting the clock of the file's island where it had stopped, and to a missing file raises a MINOR report; TAG_WRITE stores its bytes in any tag area; an alias write acts on every channel, whatever ordinary register it names. -/
def Obligations.ReadsClear : Prop :=
  (∀ (r : Req) (s : State), Ready s 4 → 
    Completes (.rcRead r 0x2003000020 8) s fun t =>
      t.out = .value r (getF s MEM_CECNT_DRAM % 2 ^ 32 + getF s MEM_CECNT_OTHER % 2 ^ 32 * 2 ^ 32) :: s.out
        ∧ getF t MEM_CECNT_DRAM = 0
        ∧ getF t MEM_CECNT_OTHER = 0
        ∧ Frame [MEM_CECNT_DRAM, MEM_CECNT_OTHER] [.out, .quiet] s t) ∧
  (∀ (n : Fin 4) (s : State), Ready s 7 → 
    Completes (.now0Read (.triad n)) s fun t =>
      t.out = .value (.triad n) (ts96 s % 2 ^ 64) :: s.out
        ∧ kget 0 t.mer.latches n = now1 s
        ∧ Frame [] [.out, .mer, .quiet] s t) ∧
  (∀ (r : Req) (a p : Nat) (val : Word) (s : State), fileOf a = some p → a % 0x1000 = 0 → 1 ≤ val.toNat % 2 ^ 32 → val.toNat % 2 ^ 32 ≤ 255 → CrossOpen s (fileIsland p) 3 (fileIsland p) → 
    Completes (.interruptWrite r a val) s fun t =>
      isPending t p (val.toNat % 2 ^ 32) = true
        ∧ (∀ p2 k : Nat, p2 + k ≠ p + val.toNat % 2 ^ 32 → isPending t p2 k = isPending s p2 k)
        ∧ onF t (SYS_ISL_STOPPED (fileIsland p)) = false
        ∧ Frame [SYS_ISL_STOPPED (fileIsland p)] [.ifiles, .xings, .quiet] s t) ∧
  (∀ (h : Fin 16) (m : Bool) (val : Word) (s : State), RoomFor s 2 → 
    Completes (.interruptWrite (.hart h m) 0x2080005000 val) s fun t =>
      t.waiting = s.waiting ++ [(2, { cls := MINOR, loc := ⟨0, 2, 0x20 + h.val, 0xFF⟩, req := 0x10 + h.val })]
        ∧ Frame [] [.waiting] s t) ∧
  (∀ (r : Req) (a : Nat) (val : Word) (s : State), Ready s (blkIsland (blkOf a)) → sizeOk a 8 = true → inTagArea a = true → 
    Completes (.tagWrite r a 8 val) s fun t =>
      tagRead t a 8 = val.toNat
        ∧ (∀ x, x < a ∨ a + 8 ≤ x → tagRead t x 1 = tagRead s x 1)
        ∧ Frame [] [.tags, .quiet] s t) ∧
  (∀ (r : Req) (a : Nat) (val : Word) (s : State), Ready s (blkIsland (blkOf a)) → sizeOk a 4 = true → inTagArea a = true → 
    Completes (.tagWrite r a 4 val) s fun t =>
      tagRead t a 4 = val.toNat % 2 ^ 32
        ∧ (∀ x, x < a ∨ a + 4 ≤ x → tagRead t x 1 = tagRead s x 1)
        ∧ Frame [] [.tags, .quiet] s t) ∧
  (∀ (r : Req) (addr size : Nat) (val : Word) (l : List Nat) (s : State), Ready s (blkIsland (blkOf addr)) → 0x2000000000 ≤ addr → addr < 0x2010000000 → sizeOk addr size = true → aliasTargets s addr = some l → ((l.flatMap fun b => (fieldsAt s b).map Fld.key).Nodup) → (isNext (writeEach r size val l (wakeIsland s (blkIsland (blkOf addr)))) (l.foldl (fun u b => writeFields r b size val (fieldsAt s b) u) (wakeIsland s (blkIsland (blkOf addr)))) = true) → ((∀ b ∈ l, ∀ f ∈ fieldsAt s b, (f.acc = .rw ∨ f.acc = .rwl ∨ f.acc = .ro) ∧ spanned size f = false ∧ vitalOnly s f = false)) → 
    Completes (.aliasWrite r addr size val) s fun t =>
      (∀ b ∈ l, ∀ f ∈ fieldsAt s b, covered addr size f = true → f.acc ≠ .ro → getF t f = bits (placed addr size val) f.lo f.w)
        ∧ Frame (l.flatMap fun b => fieldsAt s b) [.pendL, .quiet] s t) ∧
  (∀ (r : Req) (val : Word) (s : State), Ready s 9 → 
    Completes (.aliasWrite r 0x20080FF050 8 val) s fun t =>
      (∀ n : Fin 6, getF t (MDB_IRQ_EIID n) = val.toNat % 256 ∧ getF t (MDB_IRQ_HART n) = val.toNat / 256 % 32 ∧ getF t (MDB_IRQ_LEVEL n) = val.toNat / 2 ^ 16 % 4 ∧ getF t (MDB_IRQ_GUEST n) = val.toNat / 2 ^ 20 % 8)
        ∧ Frame ((List.range 6).flatMap fun n => [MDB_IRQ_EIID n, MDB_IRQ_HART n, MDB_IRQ_LEVEL n, MDB_IRQ_GUEST n]) [.quiet] s t)

/-- Memory reads classify the codeword. MEMORY_READ of any kind, by a requester that may read the address, of a codeword that the macro it names supplies clean returns its 32 data bytes, and of one with one wrong symbol the corrected bytes; of ROM it returns 32 free bytes, and of register space what the register read gives; of a clean DRAM codeword, in a line that no cache has and whose other codeword is clean, it changes no register and no memory; a reservation is taken by a load-reserve; a read of an address no unit answers is refused with an access fault and nothing else; a poisoned codeword is counted and refused. -/
def Obligations.MemoryReads : Prop :=
  (∀ (r : Req) (k : AccKind) (a : Nat) (src : MemSrc) (up : List (Fin 36 × Byte)) (hard : Bool) (s : State), mapped a = true → kindRefused k a = none → inIo a = false → inRom a = false → mayRead s r a = true → classify (syndromes (xorSyms (wordIn (reach r src (cwOf a) s) src (cwOf a)) up)) = .clean → 
    Completes (.memoryRead r k a src up hard) s fun t =>
      t.out.head? = some (.bytes r ((xorSyms (wordIn (reach r src (cwOf a) s) src (cwOf a)) up).take 32))
        ∧ Rest [.flds, .nfree, .out, .waiting, .mem, .chk, .caches, .ceHold, .degCnt, .degraded, .triads, .resv, .mer, .brg, .pulses, .pulseOvf, .quiet] s t) ∧
  (∀ (r : Req) (k : AccKind) (a : Nat) (src : MemSrc) (up : List (Fin 36 × Byte)) (hard : Bool) (sym v : Nat) (s : State), mapped a = true → kindRefused k a = none → inIo a = false → inRom a = false → mayRead s r a = true → classify (syndromes (xorSyms (wordIn (reach r src (cwOf a) s) src (cwOf a)) up)) = .one sym v → 
    Completes (.memoryRead r k a src up hard) s fun t =>
      t.out.head? = some (.bytes r ((modAt (xorSyms (wordIn (reach r src (cwOf a) s) src (cwOf a)) up) sym (· ^^^ BitVec.ofNat 8 v)).take 32))
        ∧ Rest [.flds, .nfree, .out, .waiting, .mem, .chk, .caches, .ceHold, .degCnt, .degraded, .triads, .resv, .mer, .brg, .pulses, .pulseOvf, .quiet] s t) ∧
  (∀ (r : Req) (k : AccKind) (a : Nat) (src : MemSrc) (up : List (Fin 36 × Byte)) (hard : Bool) (s : State), mapped a = true → kindRefused k a = none → mayRead s r a = true → inRom a = true → 
    Completes (.memoryRead r k a src up hard) s fun t =>
      (t.out = .bytes r ((List.range 32).map fun i => Config.freeByte 0 (32 * cwOf a + i)) :: s.out)
        ∧ Frame [] [.out] s t) ∧
  (∀ (r : Req) (k : AccKind) (a : Nat) (src : MemSrc) (up : List (Fin 36 × Byte)) (hard : Bool) (s : State), mapped a = true → kindRefused k a = none → inIo a = true → a < 0x4000000000 → ((∀ b q, r ≠ .engine b q)) → 
    Completes (.memoryRead r k a src up hard) s fun t =>
      t = readRegister r (regOf a) 8 s) ∧
  (∀ (r : Req) (a : Nat) (s : State), inDram a = true → mayRead s r a = true → Uncached s a → AllClean s → classify (syndromes (codeword s (cwOf a / 2 * 2))) = .clean → classify (syndromes (codeword s (cwOf a / 2 * 2 + 1))) = .clean → 
    Completes (.memoryRead r .load a .dram [] false) s fun t =>
      t.out = .bytes r (memRaw s (32 * cwOf a) 32) :: s.out
        ∧ ((∀ n, r ≠ .triad n) → t.caches = s.caches)
        ∧ Frame [] [.out, .caches, .nfree] s t) ∧
  (∀ (n : Fin 4) (a : Nat) (s : State), inDram a = true → Uncached s a → classify (syndromes (codeword s (cwOf a))) = .clean → 
    Completes (.memoryRead (.triad n) .lr a .dram [] false) s fun t =>
      t.out = .bytes (.triad n) (memRaw s (32 * cwOf a) 32) :: s.out
        ∧ kget 0 t.resv n = a / 64 + 1
        ∧ Frame [] [.out, .resv] s t) ∧
  (∀ (n : Fin 4) (a : Nat) (s : State), mapped a = false → 
    Completes (.memoryRead (.triad n) .load a .dram [] false) s fun t =>
      t.out = .denied (.triad n) .load :: s.out
        ∧ Frame [] [.out] s t) ∧
  (∀ (n : Fin 4) (a : Nat) (s : State), inDram a = true → Uncached s a → classify (syndromes (codeword s (cwOf a))) = .poisoned → RoomFor s 4 → 
    Completes (.memoryRead (.triad n) .load a .dram [] false) s fun t =>
      t.out = .denied (.triad n) .load :: s.out
        ∧ (getF t MEM_UECNT_POISON = getF s MEM_UECNT_POISON ∨ getF t MEM_UECNT_POISON = getF s MEM_UECNT_POISON + 1)
        ∧ t.waiting.length = s.waiting.length + 1
        ∧ (∀ p ∈ t.waiting.drop s.waiting.length, p.2.cls = MAJOR ∧ p.2.req = n.val)
        ∧ Frame [MEM_LASTADR_ADDR, MEM_LASTADR_SRC, MEM_LASTSYN_SYND, MEM_LASTSYN_SYM, MEM_LASTSYN_VAL, MEM_LASTSYN_VERDICT, MEM_UECNT_POISON, MEM_UECNT_DRAM] [.out, .waiting] s t)

/-- Memory writes keep the word code. MEMORY_WRITE of a whole aligned DRAM codeword leaves it clean with the data written and every byte outside it as it was; a part of a clean codeword keeps its other bytes; a store the requester may not make is refused and writes nothing; INJECT_ARM arms the injection; a DRAM SCRUB_STEP over a clean codeword moves on by 32; CACHE_SCRUB of a clean codeword changes nothing; DEGRADATION_WINDOW_END restarts the counts of a memory whose scrubber is off once the span of DRH or NVD has passed since the window began, and does nothing before or while the scrubber is on. -/
def Obligations.MemoryWrites : Prop :=
  (∀ (n : Fin 4) (a : Nat) (d : List Byte) (s : State), a % 32 = 0 → d.length = 32 → a + 32 ≤ 0x800000000 → regionsAt s a 32 = [] → onF s MEM_INJ_ARM = false → storeOpen (.triad n) a 32 s = false → Uncached s a → 
    Completes (.memoryWrite (.triad n) .store a d .dram) s fun t =>
      memRaw t a 32 = d
        ∧ (homeWord t (cwOf a)).drop 32 = checkBytes d
        ∧ MemOutside a 32 s t
        ∧ Frame [] [.mem, .chk, .resv] s t) ∧
  (∀ (n : Fin 4) (a : Nat) (b : Byte) (s : State), a < 0x800000000 → regionsAt s a 1 = [] → onF s MEM_INJ_ARM = false → storeOpen (.triad n) a 1 s = false → Uncached s a → classify (syndromes (codeword s (cwOf a))) = .clean → 
    Completes (.memoryWrite (.triad n) .store a [b] .dram) s fun t =>
      memByte t a = b
        ∧ (∀ k : Fin 32, 32 * cwOf a + k.val ≠ a → memByte t (32 * cwOf a + k.val) = memByte s (32 * cwOf a + k.val))
        ∧ MemOutside a 1 s t
        ∧ Frame [] [.mem, .chk, .resv] s t) ∧
  (∀ (n : Fin 4) (a : Nat) (d : List Byte) (s : State), inDram a = true → mayWrite s (.triad n) a d.length = false → regionsAt s a d.length = [] → 
    Completes (.memoryWrite (.triad n) .store a d .dram) s fun t =>
      t.out = .denied (.triad n) .store :: s.out
        ∧ Frame [] [.out] s t) ∧
  (∀ (n : Fin 4) (a : BitVec 40) (x y : Fin 64) (ben : Bool) (v : Byte) (s : State), 
    Completes (.injectArm (.triad n) a.toNat x y ben v) s fun t =>
      onF t MEM_INJ_ARM = true
        ∧ getF t MEM_INJ_ADDR = a.toNat
        ∧ getF t MEM_INJ_SYMA = x
        ∧ getF t MEM_INJ_SYMB = y
        ∧ getF t MEM_INJ_BEN = b2n ben
        ∧ getF t MEM_INJ_VAL = v.toNat
        ∧ Frame [MEM_INJ_ARM, MEM_INJ_ADDR, MEM_INJ_SYMA, MEM_INJ_SYMB, MEM_INJ_BEN, MEM_INJ_VAL] [] s t) ∧
  (∀ (s : State), onL s MEM_SCRUB_DREN = true → s.pendL = [] → getF s MEM_DRPOS_ADDR + 32 < 0x800000000 → Uncached s (getF s MEM_DRPOS_ADDR) → classify (syndromes (codeword s (cwOf (getF s MEM_DRPOS_ADDR)))) = .clean → 
    Completes (.scrubStep false [] false) s fun t =>
      getF t MEM_DRPOS_ADDR = getF s MEM_DRPOS_ADDR + 32
        ∧ Frame [MEM_DRPOS_ADDR] [] s t) ∧
  (∀ (s : State), onL s MEM_SCRUB_DREN = true → s.pendL = [] → getF s MEM_DRPOS_ADDR = 0x7FFFFFFE0 → Uncached s (getF s MEM_DRPOS_ADDR) → classify (syndromes (codeword s (cwOf (getF s MEM_DRPOS_ADDR)))) = .clean → 
    Completes (.scrubStep false [] false) s fun t =>
      getF t MEM_DRPOS_ADDR = 0
        ∧ getF t MEM_DRPOS_PASSES = (getF s MEM_DRPOS_PASSES + 1) % 2 ^ MEM_DRPOS_PASSES.w
        ∧ (∀ p ∈ t.degCnt, p.1 / 64 ≠ 0)
        ∧ kget 0 t.degAt 0 = freeCnt s
        ∧ Frame [MEM_DRPOS_ADDR, MEM_DRPOS_PASSES] [.degCnt, .degAt] s t) ∧
  (∀ (sl : Fin 8) (m w a : Nat) (s : State), lineAt s (16 + sl.val) (cwOf a / 2) = none → 
    Completes (.cacheScrub (.l3 sl m w) a [] false) s fun t =>
      Frame [] [] s t) ∧
  (∀ (sl : Fin 8) (m w a : Nat) (c : CLine) (s : State), lineAt s (16 + sl.val) (cwOf a / 2) = some c → c.sym.length = 72 → classify (syndromes (c.word (cwOf a))) = .clean → 
    Completes (.cacheScrub (.l3 sl m w) a [] false) s fun t =>
      lineAt t (16 + sl.val) (cwOf a / 2) = some c
        ∧ Frame [] [.caches] s t) ∧
  (∀ (sl : Fin 8) (m w a k v : Nat) (c : CLine) (s : State), lineAt s (16 + sl.val) (cwOf a / 2) = some c → c.sym.length = 72 → classify (syndromes (c.word (cwOf a))) = .one k v → 
    Completes (.cacheScrub (.l3 sl m w) a [] false) s fun t =>
      lineAt t (16 + sl.val) (cwOf a / 2) = some (c.put (cwOf a) (modAt (c.word (cwOf a)) k (· ^^^ BitVec.ofNat 8 v)))
        ∧ getF t MEM_LASTADR_ADDR = 32 * cwOf a % 2 ^ MEM_LASTADR_ADDR.w
        ∧ getF t MEM_LASTADR_SRC = 2
        ∧ getF t MEM_LASTSYN_VERDICT = 0
        ∧ Frame (MEM_LASTADR_ADDR :: MEM_LASTADR_SRC :: MEM_LASTSYN_SYND :: MEM_LASTSYN_SYM :: MEM_LASTSYN_VAL :: MEM_LASTSYN_VERDICT :: lostCounters) [.caches, .pulses, .pulseOvf, .ceHold, .waiting] s t) ∧
  (∀ (nvm : Bool) (s : State), (onL s (if nvm then MEM_SCRUB_NVEN else MEM_SCRUB_DREN) = false) → kget 0 s.degAt (b2n nvm) + windowSpan s nvm ≤ freeCnt s → 
    Completes (.degradationWindowEnd nvm) s fun t =>
      (∀ p ∈ t.degCnt, p.1 / 64 ≠ b2n nvm)
        ∧ (∀ p ∈ s.degCnt, p.1 / 64 ≠ b2n nvm → p ∈ t.degCnt)
        ∧ kget 0 t.degAt (b2n nvm) = kget 0 s.degAt (b2n nvm) + windowSpan s nvm
        ∧ Frame [] [.degCnt, .degAt] s t) ∧
  (∀ (nvm : Bool) (s : State), (onL s (if nvm then MEM_SCRUB_NVEN else MEM_SCRUB_DREN) = true ∨ freeCnt s < kget 0 s.degAt (b2n nvm) + windowSpan s nvm) → 
    Completes (.degradationWindowEnd nvm) s fun t =>
      Frame [] [] s t)

/-- Partitions and time windows. PARTITION_RESTART counts the partition's role epoch; PARTITION_CORES_WRITE stores CORES, and counts the epoch exactly while the partition is enabled; WINDOW_INTERRUPT of an entry in use shows the entry and makes the core's identity pending. -/
def Obligations.Partitions : Prop :=
  (∀ (r : Req) (p : Fin 64) (s : State), Ready s 2 → 
    Completes (.partitionRestart r p) s fun t =>
      getF t (SVC_PEPOCH_EPOCH p) = nextEpoch (getF s (SVC_PEPOCH_EPOCH p)) % 65536
        ∧ (∀ q : Fin 64, q ≠ p → getF t (SVC_PEPOCH_EPOCH q) = getF s (SVC_PEPOCH_EPOCH q))
        ∧ Rest [.flds, .out, .quiet] s t) ∧
  (∀ (r : Req) (p : Fin 64) (cores : BitVec 16) (s : State), Ready s 2 → onF s (SVC_PCTRL_EN p) = false → 
    Completes (.partitionCoresWrite r p cores) s fun t =>
      getF t (SVC_PCTRL_CORES p) = cores.toNat
        ∧ Frame [SVC_PCTRL_CORES p] [.quiet] s t) ∧
  (∀ (r : Req) (p : Fin 64) (cores : BitVec 16) (s : State), Ready s 2 → onF s (SVC_PCTRL_EN p) = true → 
    Completes (.partitionCoresWrite r p cores) s fun t =>
      getF t (SVC_PCTRL_CORES p) = cores.toNat
        ∧ getF t (SVC_PEPOCH_EPOCH p) = nextEpoch (getF s (SVC_PEPOCH_EPOCH p)) % 65536
        ∧ (∀ q : Fin 64, q ≠ p → getF t (SVC_PEPOCH_EPOCH q) = getF s (SVC_PEPOCH_EPOCH q))
        ∧ Rest [.flds, .out, .quiet] s t) ∧
  (∀ (c : Fin 16) (k : Fin 32) (s : State), Runs s 2 → windowUsed s c k = true → liveF s (SVC_WINCTRL_EIID c) ≠ 0 → liveF s (SVC_WINCTRL_EIID c) < 256 → liveF s (SVC_WINCTRL_LEVEL c) < 2 → CrossOpen s 2 3 2 → 
    Completes (.windowInterrupt c k true) s fun t =>
      getF t (SVC_WINCUR_ENTRY c) = k
        ∧ getF t (SVC_WINCUR_PART c) = liveF s (SVC_WIN_PART c k) % 64
        ∧ getF t (SVC_WINCUR_IDLE c) = liveF s (SVC_WIN_IDLE c k) % 2
        ∧ isPending t ((filePage (16 + c.val) (liveF s (SVC_WINCTRL_LEVEL c)) 0).getD 0) (liveF s (SVC_WINCTRL_EIID c)) = true
        ∧ Frame [SVC_WINCUR_ENTRY c, SVC_WINCUR_PART c, SVC_WINCUR_IDLE c, SYS_ISL_STOPPED 2] [.ifiles, .xings, .quiet] s t)

/-- The Sextant releases what the lanes agree on and fences the odd one. SEXTANT_COMPARE in a running triad: three equal records leave as the voted request, which waits for the captured invalidations where it is a FENCE with r or a FENCE.I, and nothing else changes but that a WFI begins to wait; one odd lane C in TMR below the resync limit still releases the majority's record, fences lane C, records the mismatch, starts its resync and enters RESYNC with that core's L1s invalidated; three different records halt the triad with HCAUSE 2, so no record leaves. SIGNATURE_BOUNDARY, when its captured event is next, shows the 92 values of the lanes; where they are equal nothing follows. Other triads keep their state. -/
def Obligations.SextantDecides : Prop :=
  (∀ (n : Fin 4) (a : LaneRec) (retire : Nat) (kind : FenceKind) (s : State), s.triads.length = 4 → running s n = true → compared s n ≠ [] → a.present = true → 
    Completes (.sextantCompare n a a a retire kind none none) s fun t =>
      (triad t n).vreq = (triad s n).vreq ++ [⟨a, if kind = .waits then (triad s n).events.filter (fun e => isInval e.2) else []⟩]
        ∧ (triad t n).wfi = (if kind = .wfi then some retire else (triad s n).wfi)
        ∧ (∀ u : Fin 4, u ≠ n → triad t u = triad s u)
        ∧ Frame [] [.triads] s t) ∧
  (∀ (n : Fin 4) (a c : LaneRec) (retire : Nat) (s : State), s.triads.length = 4 → tState s n = tsTMR → compared s n = [0, 1, 2] → a.present = true → c.present = true → a ≠ c → limitReached s n 2 = false → 
    Completes (.sextantCompare n a a c retire .other none none) s fun t =>
      tState t n = tsRESYNC
        ∧ getF t (VTC_TSTAT_FLANE n) = 3
        ∧ getF t (VTC_LASTMM_LANE n) = 3
        ∧ (triad t n).vreq = (triad s n).vreq ++ [⟨a, []⟩]
        ∧ (triad t n).phase = .selftest
        ∧ (t.caches = s.caches.filter (fun c => c.unit / 2 != laneUnit n 2 true / 2))
        ∧ getF t (VTC_RSCNT_LANEC n) = min (getF s (VTC_RSCNT_LANEC n) + 1) (2 ^ (VTC_RSCNT_LANEC n).w - 1)
        ∧ (∀ u : Fin 4, u ≠ n → triad t u = triad s u)
        ∧ Frame ([VTC_TSTAT_STATE n, VTC_STAT_RUN, VTC_STAT_DEGR, VTC_STAT_HALT, VTC_TSTAT_CHKON n, VTC_SXSTAT_CHKON n, VTC_TSTAT_FLANE n, VTC_LASTMM_CLASS n, VTC_LASTMM_LANE n, VTC_LASTMM_PCORE n, VTC_LASTMM_RTYPE n, VTC_LASTMM_ADDR n, VTC_LASTRT_RETIRE n, VTC_MMCNT_REQ n, VTC_MMCNT_SIG n, VTC_MMCNT_L1 n, VTC_RSCNT_LANEC n, VTC_CSTAT_CORE (coreAt s n 2), VTC_STAT_SPARES] ++ lostCounters) [.triads, .waiting, .caches] s t) ∧
  (∀ (n : Fin 4) (a b c : LaneRec) (retire : Nat) (kind : FenceKind) (s : State), s.triads.length = 4 → tState s n = tsTMR → compared s n = [0, 1, 2] → a.present = true → b.present = true → c.present = true → a ≠ b → a ≠ c → b ≠ c → 
    Completes (.sextantCompare n a b c retire kind none none) s fun t =>
      tState t n = tsHALTED
        ∧ getF t (VTC_TSTAT_HCAUSE n) = 2
        ∧ getF t (VTC_LASTMM_CLASS n) = 4
        ∧ (triad t n).vreq = (triad s n).vreq
        ∧ (∀ u : Fin 4, u ≠ n → triad t u = triad s u)
        ∧ Frame ([VTC_TSTAT_STATE n, VTC_STAT_RUN, VTC_STAT_DEGR, VTC_STAT_HALT, VTC_TSTAT_CHKON n, VTC_SXSTAT_CHKON n, VTC_TSTAT_HCAUSE n, VTC_LASTMM_CLASS n, VTC_LASTMM_LANE n, VTC_LASTMM_PCORE n, VTC_LASTMM_RTYPE n, VTC_LASTMM_ADDR n, VTC_LASTRT_RETIRE n] ++ lostCounters) [.triads, .waiting] s t) ∧
  (∀ (n : Fin 4) (a : List Word) (g : Nat) (s : State), s.triads.length = 4 → running s n = true → (triad s n).lanes.length = 3 → a.length = 92 → firstEvent (triad s n).events = some (g, .sig) → 
    Completes (.signatureBoundary n a a a [] none) s fun t =>
      (triad t n).events = dropFirst (fun e => e == (g, .sig)) (triad s n).events
        ∧ (∀ p ∈ compared s n, ∀ i : Fin 92, kget 0 (laneRegs t n p) (sigRegs.getD i 0) = (a.getD i 0).toNat)
        ∧ (∀ u : Fin 4, u ≠ n → triad t u = triad s u)
        ∧ Frame [] [.triads] s t)

/-- Inputs reach the lanes as tagged events. VOTED_RESPONSE answers the oldest voted request and drops it once no invalidation that it waits for is left: a CSR read with the CSR's value, a write of mtopei by claiming the highest identity; INPUT_CAPTURE of an event that is there, outside a WFI, tags it with the larger of the last tag and the retire count plus the margin; TAGGED_EVENT_EFFECT of an interrupt shows it to the lanes, which trap where they say so, and of an invalidation takes the line from their L1s, and leaves the other events; WFI_WAKE wakes a waiting triad on its one interrupt, with mepc after the WFI. -/
def Obligations.TriadInputs : Prop :=
  (∀ (n : Fin 4) (data : Word) (wr : Bool) (x : VReq) (r : List VReq) (s : State), s.triads.length = 4 → running s n = true → (triad s n).vreq = x :: r → ((∀ e ∈ x.wait, e ∉ (triad s n).events)) → x.req.type ≠ 6 → 
    Completes (.votedResponse n data wr) s fun t =>
      t.out = .value (.triad n) data.toNat :: s.out
        ∧ triad t n = { triad s n with vreq := r }
        ∧ (∀ u : Fin 4, u ≠ n → triad t u = triad s u)
        ∧ Frame [] [.triads, .out] s t) ∧
  (∀ (n : Fin 4) (data : Word) (x : VReq) (r : List VReq) (s : State), s.triads.length = 4 → running s n = true → (triad s n).vreq = x :: r → ((∀ e ∈ x.wait, e ∉ (triad s n).events)) → x.req.type = 6 → 
    Completes (.votedResponse n data false) s fun t =>
      t.out = .value (.triad n) (csrValue t n x.req.csr) :: s.out
        ∧ triad t n = { triad s n with vreq := r }
        ∧ (∀ u : Fin 4, u ≠ n → triad t u = triad s u)
        ∧ Frame [] [.triads, .out] s t) ∧
  (∀ (n : Fin 4) (data : Word) (x : VReq) (r : List VReq) (s : State), s.triads.length = 4 → running s n = true → (triad s n).vreq = x :: r → ((∀ e ∈ x.wait, e ∉ (triad s n).events)) → x.req.type = 6 → x.req.csr = 0x35C → fileTop s n ≠ 0 → 
    Completes (.votedResponse n data true) s fun t =>
      isPending t (triadFile n) (fileTop s n) = false
        ∧ (∀ k : Fin 256, k.val ≠ fileTop s n → isPending t (triadFile n) k = isPending s (triadFile n) k)
        ∧ triad t n = { triad s n with vreq := r }
        ∧ (∀ u : Fin 4, u ≠ n → triad t u = triad s u)
        ∧ Frame [] [.triads, .out, .ifiles] s t) ∧
  (∀ (n : Fin 4) (ev : TrEvent) (retire : Nat) (s : State), s.triads.length = 4 → running s n = true → arises s n ev = true → (triad s n).wfi = none → 
    Completes (.inputCapture n ev retire) s fun t =>
      (triad t n).events = (triad s n).events ++ [(max (triad s n).lastTag (retire + max 32 (liveF s (VTC_IAG_MARGIN n))), ev)]
        ∧ (triad t n).lastTag = max (triad s n).lastTag (retire + max 32 (liveF s (VTC_IAG_MARGIN n)))
        ∧ (∀ u : Fin 4, u ≠ n → triad t u = triad s u)
        ∧ Frame [] [.triads] s t) ∧
  (∀ (n : Fin 4) (rs : List (Nat × Word)) (g e : Nat) (s : State), s.triads.length = 4 → running s n = true → firstEvent (triad s n).events = some (g, .irq e) → e ≠ 0 → 
    Completes (.taggedEventEffect n none rs) s fun t =>
      (triad t n).topei = e
        ∧ (triad t n).wfi = none
        ∧ (triad t n).events = dropFirst (fun y => y == (g, .irq e)) (triad s n).events
        ∧ (∀ u : Fin 4, u ≠ n → triad t u = triad s u)
        ∧ Frame [] [.triads] s t) ∧
  (∀ (n : Fin 4) (rs : List (Nat × Word)) (g e : Nat) (pc : Word) (m : Bool) (s : State), s.triads.length = 4 → running s n = true → (triad s n).lanes.length = 3 → firstEvent (triad s n).events = some (g, .irq e) → e ≠ 0 → 
    Completes (.taggedEventEffect n (some (pc, m)) rs) s fun t =>
      (triad t n).topei = e
        ∧ (triad t n).wfi = none
        ∧ (triad t n).events = dropFirst (fun y => y == (g, .irq e)) (triad s n).events
        ∧ (∀ p ∈ compared s n, kget 0 (laneRegs t n p) 0x341 = pc.toNat ∧ kget 0 (laneRegs t n p) 0x342 = 2 ^ 63 + 11)
        ∧ (∀ u : Fin 4, u ≠ n → triad t u = triad s u)
        ∧ Frame [] [.triads] s t) ∧
  (∀ (n : Fin 4) (rs : List (Nat × Word)) (g l : Nat) (trap : Option (Word × Bool)) (s : State), s.triads.length = 4 → running s n = true → firstEvent (triad s n).events = some (g, .inval l) → 
    Completes (.taggedEventEffect n trap rs) s fun t =>
      (triad t n).events = dropFirst (fun y => y == (g, .inval l)) (triad s n).events
        ∧ (t.caches = s.caches.filter (fun c => !(laneUnit n 0 true ≤ c.unit && c.unit ≤ laneUnit n 2 false && c.line == l)))
        ∧ (∀ u : Fin 4, u ≠ n → triad t u = triad s u)
        ∧ Frame [] [.triads, .caches] s t) ∧
  (∀ (n : Fin 4) (rs : List (Nat × Word)) (g e w : Nat) (pc : Word) (m : Bool) (s : State), s.triads.length = 4 → running s n = true → (triad s n).lanes.length = 3 → (triad s n).wfi = some w → (triad s n).events = [(g, .irq e)] → e ≠ 0 → 
    Completes (.wfiWake n pc m rs) s fun t =>
      (triad t n).topei = e
        ∧ (triad t n).wfi = none
        ∧ (triad t n).events = []
        ∧ (∀ p ∈ compared s n, kget 0 (laneRegs t n p) 0x341 = pc.toNat)
        ∧ (∀ u : Fin 4, u ≠ n → triad t u = triad s u)
        ∧ Frame [] [.triads] s t)

/-- A vital region belongs to its owners. VRGN_WRITE from a triad that owns region k, or to a region that is not valid, stores its fields; from a requester that is no triad, or a triad that does not own the valid region, nothing is stored and only a report can follow. -/
def Obligations.VitalRegions : Prop :=
  (∀ (n : Fin 4) (k : Fin 16) (val : Word) (s : State), (onF s (VTC_VRGN_V k) = false ∨ bitF s (VTC_VRGN_OWN k) n = true) → 
    Completes (.vrgnWrite (.triad n) k val) s fun t =>
      getF t (VTC_VRGN_V k) = val.toNat % 2
        ∧ getF t (VTC_VRGN_SVCRD k) = val.toNat / 2 % 2
        ∧ getF t (VTC_VRGN_OWN k) = val.toNat / 2 ^ 4 % 16
        ∧ getF t (VTC_VRGN_BASE k) = val.toNat / 2 ^ 21 % 2 ^ 19
        ∧ getF t (VTC_VRGN_SIZE k) = val.toNat / 2 ^ 48
        ∧ Frame [VTC_VRGN_V k, VTC_VRGN_SVCRD k, VTC_VRGN_OWN k, VTC_VRGN_BASE k, VTC_VRGN_SIZE k] [] s t) ∧
  (∀ (n : Fin 4) (k : Fin 16) (val : Word) (s : State), onF s (VTC_VRGN_V k) = true → bitF s (VTC_VRGN_OWN k) n = false → 
    Completes (.vrgnWrite (.triad n) k val) s fun t =>
      Frame lostCounters [.waiting] s t) ∧
  (∀ (h : Fin 16) (m : Bool) (k : Fin 16) (val : Word) (s : State), RoomFor s 1 → 
    Completes (.vrgnWrite (.hart h m) k val) s fun t =>
      t.waiting = s.waiting ++ [(1, { cls := MINOR, loc := blkLoc 1, req := 0x10 + h.val })]
        ∧ Frame [] [.waiting] s t)

/-- A triad starts, is tested and halts. TRIAD_START from a machine-level service hart in OFF or HALTED with a verified image, outside the safe state and Pilot mode, enters START with the L1s of its lanes invalidated; START_SELFTEST_DONE with every position mapped and passing enters TMR with the lanes at the image's entry address; SHALT of a running triad enters HALTED with HCAUSE 1 and no recovery in progress, and a refused SHALT leaves every triad. -/
def Obligations.TriadLife : Prop :=
  (∀ (h : Fin 16) (n : Fin 4) (s : State), s.triads.length = 4 → (tState s n = tsOFF ∨ tState s n = tsHALTED) → (triad s n).image = true → onF s SYS_MSTAT_MSAFE = false → onF s UPD_STAT_PILOT = false → 
    Completes (.triadStart (.hart h true) n) s fun t =>
      tState t n = tsSTART
        ∧ getF t (VTC_TSTAT_HCAUSE n) = 0
        ∧ getF t (VTC_TSTAT_FLANE n) = 0
        ∧ (triad t n).started = true
        ∧ (triad t n).vreq = []
        ∧ (∀ c ∈ t.caches, c.unit < laneUnit n 0 true ∨ laneUnit n 2 false < c.unit)
        ∧ (∀ u : Fin 4, u ≠ n → triad t u = triad s u)
        ∧ Rest [.flds, .triads, .waiting, .caches] s t) ∧
  (∀ (n : Fin 4) (fails : BitVec 3) (spares : List (Fin 14)) (retire : Nat) (s : State), s.triads.length = 4 → (triad s n).lanes.length = 3 → tState s n = tsSTART → coreAt s n 0 ≠ 0xF → coreAt s n 1 ≠ 0xF → coreAt s n 2 ≠ 0xF → fails = 0 → onF s SYS_PWRSTAT_VREADY = true → 
    Completes (.startSelftestDone n fails none spares none retire) s fun t =>
      tState t n = tsTMR
        ∧ (∀ p ∈ compared t n, kget 0 (laneRegs t n p) 0x7B1 = (triad s n).entry)
        ∧ (triad t n).sigAt = freeCnt s
        ∧ (triad t n).injAt = freeCnt s
        ∧ (∀ u : Fin 4, u ≠ n → triad t u = triad s u)
        ∧ onF t (VTC_TSTAT_CHKON n) = false
        ∧ getF t (VTC_SXTCNT_COUNT n) = min (getF s (VTC_SXTCNT_COUNT n) + 2) (2 ^ (VTC_SXTCNT_COUNT n).w - 1)
        ∧ getF t (VTC_SXSTAT_LASTPT n) = 4
        ∧ Frame [VTC_TSTAT_STATE n, VTC_STAT_RUN, VTC_STAT_DEGR, VTC_STAT_HALT, VTC_TSTAT_CHKON n, VTC_SXSTAT_CHKON n, VTC_SXTCNT_COUNT n, VTC_SXSTAT_LASTPT n] [.triads] s t) ∧
  (∀ (h : Fin 16) (n : Fin 4) (s : State), s.triads.length = 4 → 1 ≤ tState s n → tState s n ≤ 5 → onF s SYS_PWRSTAT_VREADY = true → 
    Completes (.shalt (.hart h true) n) s fun t =>
      tState t n = tsHALTED
        ∧ getF t (VTC_TSTAT_HCAUSE n) = 1
        ∧ (triad t n).phase = .none
        ∧ (triad t n).incoming = none
        ∧ (∀ u : Fin 4, u ≠ n → triad t u = triad s u)
        ∧ Frame ([VTC_TSTAT_STATE n, VTC_STAT_RUN, VTC_STAT_DEGR, VTC_STAT_HALT, VTC_TSTAT_CHKON n, VTC_SXSTAT_CHKON n, VTC_TSTAT_HCAUSE n] ++ msiFields) [.triads, .waiting, .xings, .quiet] s t) ∧
  (∀ (n : Fin 4) (s : State), onF s SYS_PWRSTAT_VREADY = true → 
    Completes (.shalt .debugger n) s fun t =>
      Frame msiFields [.waiting, .xings, .quiet] s t)

/-- Resync and substitution run through their phases. LOGIC_SELFTEST_DONE that passes waits for the rejoin boundary; REJOIN_BOUNDARY, when its captured event is next and no voted request is outstanding, copies the 101 words of the leading survivor into the fenced core and leaves what the other survivor counts for itself; REJOIN_CHECK of three equal signatures brings the fenced core back to its lane and the triad to TMR with the L1s invalidated; SUBSTITUTION_SWITCH maps the incoming core into the fenced position, where it becomes LANE, and starts its self-test. -/
def Obligations.TriadRecovery : Prop :=
  (∀ (n : Fin 4) (s : State), s.triads.length = 4 → (triad s n).phase = .selftest → 
    Completes (.logicSelftestDone n true) s fun t =>
      triad t n = { triad s n with phase := .boundary }
        ∧ (∀ u : Fin 4, u ≠ n → triad t u = triad s u)
        ∧ Frame [] [.triads] s t) ∧
  (∀ (n : Fin 4) (g : Nat) (l : List Word) (s : State), s.triads.length = 4 → running s n = true → (triad s n).lanes.length = 3 → 1 ≤ getF s (VTC_TSTAT_FLANE n) → getF s (VTC_TSTAT_FLANE n) ≤ 3 → l.length = 101 → (triad s n).phase = .boundary → (triad s n).vreq = [] → firstEvent (triad s n).events = some (g, .boundary) → 
    Completes (.rejoinBoundary n l) s fun t =>
      (triad t n).phase = .copied
        ∧ (triad t n).events = dropFirst (fun e => e == (g, .boundary)) (triad s n).events
        ∧ (∀ i : Fin 101, kget 0 (laneRegs t n (fencedPos s n)) (copyRegs.getD i 0) = (l.getD i 0).toNat)
        ∧ (∀ p ∈ compared s n, p ≠ leading s n → p ≠ fencedPos s n → ∀ r ∈ copyRegs, lanePrivate r = true → kget 0 (laneRegs t n p) r = kget 0 (laneRegs s n p) r)
        ∧ (∀ u : Fin 4, u ≠ n → triad t u = triad s u)
        ∧ Frame [] [.triads] s t) ∧
  (∀ (n : Fin 4) (s : State), s.triads.length = 4 → (triad s n).phase = .copied → ((∀ p : Fin 3, laneSignature s n p = laneSignature s n 0)) → 1 ≤ getF s (VTC_TSTAT_FLANE n) → getF s (VTC_TSTAT_FLANE n) ≤ 3 → coreAt s n (getF s (VTC_TSTAT_FLANE n) - 1) < 14 → 
    Completes (.rejoinCheck n [] none) s fun t =>
      tState t n = tsTMR
        ∧ getF t (VTC_TSTAT_FLANE n) = 0
        ∧ getF t (VTC_CSTAT_CORE (coreAt s n (getF s (VTC_TSTAT_FLANE n) - 1))) = csLANE
        ∧ triad t n = { triad s n with phase := .none, incoming := none }
        ∧ (∀ c ∈ t.caches, c.unit < laneUnit n 0 true ∨ laneUnit n 2 false < c.unit)
        ∧ (∀ u : Fin 4, u ≠ n → triad t u = triad s u)
        ∧ Frame ([VTC_TSTAT_STATE n, VTC_STAT_RUN, VTC_STAT_DEGR, VTC_STAT_HALT, VTC_TSTAT_CHKON n, VTC_SXSTAT_CHKON n, VTC_TSTAT_FLANE n, VTC_CSTAT_CORE (coreAt s n (getF s (VTC_TSTAT_FLANE n) - 1)), VTC_STAT_SPARES] ++ lostCounters) [.triads, .waiting, .caches] s t) ∧
  (∀ (n : Fin 4) (c : Nat) (s : State), s.triads.length = 4 → (triad s n).phase = .switching → (triad s n).incoming = some c → c < 14 → 
    Completes (.substitutionSwitch n) s fun t =>
      coreAt t n (fencedPos s n) = c
        ∧ getF t (VTC_CSTAT_CORE c) = csLANE
        ∧ (triad t n).phase = .selftest
        ∧ getF t (VTC_RSCNT_SUBS n) = min (getF s (VTC_RSCNT_SUBS n) + 1) (2 ^ (VTC_RSCNT_SUBS n).w - 1)
        ∧ (∀ u : Fin 4, u ≠ n → triad t u = triad s u)
        ∧ Frame [tmapFld n (fencedPos s n), VTC_RSCNT_SUBS n, VTC_CSTAT_CORE c, VTC_STAT_SPARES] [.triads] s t)

/-- The pool, the extended test and the injection sequence. POOL_SELFTEST that passes moves on past the core it tests, and one that fails puts that core in QUAR; XTEST_GO of a QUAR core of a machine-level hart puts it in XTEST and sets BUSY, and a core in any other state only gives RESULT 3; XTEST_DONE that fails puts the core in FAILED; INJECTION_SEQUENCE that has fallen due or is held and flags the expected lanes in TMR counts one sequence, and one that falls due is held in RESYNC. -/
def Obligations.CoresAndInjection : Prop :=
  (∀ (c : Nat) (r : List Nat) (s : State), (spares s).filter (s.poolNext ≤ ·) = c :: r → 
    Completes (.poolSelftest true) s fun t =>
      t.poolNext = c + 1
        ∧ Frame [] [.poolNext] s t) ∧
  (∀ (c : Nat) (r : List Nat) (s : State), (spares s).filter (s.poolNext ≤ ·) = c :: r → 
    Completes (.poolSelftest false) s fun t =>
      t.poolNext = c + 1
        ∧ getF t (VTC_CSTAT_CORE c) = csQUAR
        ∧ Frame (VTC_CSTAT_CORE c :: VTC_STAT_SPARES :: lostCounters) [.poolNext, .waiting] s t) ∧
  (∀ (h : Fin 16) (core : Fin 16) (s : State), core.val < 14 → getF s (VTC_CSTAT_CORE core) = csQUAR → onF s VTC_XTEST_BUSY = false → 
    Completes (.xtestGo (.hart h true) core) s fun t =>
      getF t VTC_XTEST_CORE = core
        ∧ getF t (VTC_CSTAT_CORE core) = csXTEST
        ∧ onF t VTC_XTEST_BUSY = true
        ∧ Frame [VTC_XTEST_CORE, VTC_CSTAT_CORE core, VTC_STAT_SPARES, VTC_XTEST_BUSY] [] s t) ∧
  (∀ (r : Req) (core : Fin 16) (s : State), getF s (VTC_CSTAT_CORE core) ≠ csQUAR → 
    Completes (.xtestGo r core) s fun t =>
      getF t VTC_XTEST_CORE = core
        ∧ getF t VTC_XTEST_RESULT = 3
        ∧ Frame [VTC_XTEST_CORE, VTC_XTEST_RESULT] [] s t) ∧
  (∀ (c : Nat) (s : State), ((List.range 14).find? (fun k => getF s (VTC_CSTAT_CORE k) == csXTEST) = some c) → 
    Completes (.xtestDone false) s fun t =>
      onF t VTC_XTEST_BUSY = false
        ∧ getF t VTC_XTEST_RESULT = 2
        ∧ getF t (VTC_CSTAT_CORE c) = csFAILED
        ∧ Frame ([VTC_XTEST_BUSY, VTC_XTEST_RESULT, VTC_CSTAT_CORE c, VTC_STAT_SPARES] ++ lostCounters) [.waiting] s t) ∧
  (∀ (n : Fin 4) (retire : Nat) (s : State), s.triads.length = 4 → tState s n = tsTMR → ((triad s n).injHeld = true ∨ (triad s n).injAt + injPeriod s n ≤ freeCnt s) → 
    Completes (.injectionSequence n [1, 2, 3, 1, 2] none none retire) s fun t =>
      getF t (VTC_SXTCNT_COUNT n) = min (getF s (VTC_SXTCNT_COUNT n) + 1) (2 ^ (VTC_SXTCNT_COUNT n).w - 1)
        ∧ getF t (VTC_SXSTAT_LASTPT n) = 4
        ∧ (triad t n).injHeld = false
        ∧ (∀ u : Fin 4, u ≠ n → triad t u = triad s u)
        ∧ Frame [VTC_SXTCNT_COUNT n, VTC_SXSTAT_LASTPT n] [.triads] s t) ∧
  (∀ (n : Fin 4) (flagged : List (Fin 4)) (wrong : Option (Fin 5)) (checker : Option (Fin 5 × Fin 4)) (retire : Nat) (s : State), s.triads.length = 4 → (tState s n = tsRESYNC ∨ tState s n = tsSUBST) → (triad s n).injAt + injPeriod s n ≤ freeCnt s → 
    Completes (.injectionSequence n flagged wrong checker retire) s fun t =>
      triad t n = { triad s n with injHeld := true, injAt := freeCnt s }
        ∧ (∀ u : Fin 4, u ≠ n → triad t u = triad s u)
        ∧ Frame [] [.triads] s t)

/-- Debug sessions. DEBUG_SESSION_OPEN of a certificate under a trust anchor on a free triad: of a maintainer it opens a maintainer session, and of a depot on a HALTED triad a depot session on the frozen state; DEBUG_REQUEST in a depot session on a triad in DEBUG reads and writes lane A's registers while it is halted, resumes and halts it, and reads and writes the debug module's data registers, and a read of a register while lane A runs is refused; in a maintainer session it waits for the input agreement stage; DEPOT_HALT of a running triad splits it into DEBUG; DEPOT_SESSION_END of a frozen triad returns it to HALTED; MAINTAINER_REQUEST that is due is captured as a tagged event; a request without a session is refused. -/
def Obligations.DebugSessions : Prop :=
  (∀ (n : Fin 4) (rs : List (Nat × Word)) (k : List Byte) (s : State), getF s (VTC_DBG_MODE n) = 0 → isAnchor s.upd.keys k = true → 
    Completes (.debugSessionOpen n .maintainer k rs) s fun t =>
      getF t (VTC_DBG_MODE n) = 1
        ∧ Frame [VTC_DBG_MODE n] [] s t) ∧
  (∀ (n : Fin 4) (rs : List (Nat × Word)) (k : List Byte) (s : State), s.triads.length = 4 → getF s (VTC_DBG_MODE n) = 0 → tState s n = tsHALTED → isAnchor s.upd.keys k = true → 
    Completes (.debugSessionOpen n .depot k rs) s fun t =>
      getF t (VTC_DBG_MODE n) = 2
        ∧ tState t n = tsDEBUG
        ∧ (triad t n = { triad s n with dbgRun := false, resumed := false, lanes := modAt (triad s n).lanes 0 fun l => rs.foldl (fun m e => kput 0 m e.1 e.2.toNat) l })
        ∧ (∀ u : Fin 4, u ≠ n → triad t u = triad s u)
        ∧ Frame [VTC_DBG_MODE n, VTC_TSTAT_STATE n, VTC_STAT_RUN, VTC_STAT_DEGR, VTC_STAT_HALT] [.triads] s t) ∧
  (∀ (n : Fin 4) (rs : List (Nat × Word)) (c : Cert) (k : List Byte) (s : State), isAnchor s.upd.keys k = false → 
    Completes (.debugSessionOpen n c k rs) s fun t =>
      t.out = .denied .debugger .access :: s.out
        ∧ Frame lostCounters [.out, .waiting] s t) ∧
  (∀ (n : Fin 4) (rs : List (Nat × Word)) (k : List Byte) (s : State), 
    Completes (.debugSessionOpen n .neither k rs) s fun t =>
      t.out = .denied .debugger .access :: s.out
        ∧ Frame lostCounters [.out, .waiting] s t) ∧
  (∀ (n : Fin 4) (x : Nat) (s : State), getF s (VTC_DBG_MODE n) = 2 → laneHalted s n = true → 
    Completes (.debugRequest n (.readReg x)) s fun t =>
      t.out = .value .debugger (laneReg s n 0 x) :: s.out
        ∧ Frame [] [.out] s t) ∧
  (∀ (n : Fin 4) (x : Nat) (v : Word) (s : State), s.triads.length = 4 → (triad s n).lanes.length = 3 → getF s (VTC_DBG_MODE n) = 2 → laneHalted s n = true → readOnlyReg x = false → 
    Completes (.debugRequest n (.writeReg x v)) s fun t =>
      kget 0 (laneRegs t n 0) x = v.toNat
        ∧ (∀ p : Fin 3, ∀ y : Nat, (p ≠ 0 ∨ y ≠ x) → kget 0 (laneRegs t n p) y = kget 0 (laneRegs s n p) y)
        ∧ (∀ u : Fin 4, u ≠ n → triad t u = triad s u)
        ∧ Frame [] [.triads] s t) ∧
  (∀ (n : Fin 4) (s : State), s.triads.length = 4 → getF s (VTC_DBG_MODE n) = 2 → laneHalted s n = true → 
    Completes (.debugRequest n (.run .resume)) s fun t =>
      (triad t n).resumed = true
        ∧ (∀ u : Fin 4, u ≠ n → triad t u = triad s u)
        ∧ Rest [.triads, .out] s t) ∧
  (∀ (n : Fin 4) (p : Stop) (s : State), s.triads.length = 4 → (triad s n).lanes.length = 3 → getF s (VTC_DBG_MODE n) = 2 → tState s n = tsDEBUG → (triad s n).resumed = true → 
    Completes (.debugRequest n (.run (.halt p))) s fun t =>
      (triad t n).resumed = false
        ∧ kget 0 (laneRegs t n 0) 0x7B1 = p.pc.toNat
        ∧ (bits (kget 0 (laneRegs t n 0) 0x7B0) 0 2 = (if p.mach then 3 else 0))
        ∧ bits (kget 0 (laneRegs t n 0) 0x7B0) 6 3 = 3
        ∧ (∀ u : Fin 4, u ≠ n → triad t u = triad s u)
        ∧ Rest [.triads, .out] s t) ∧
  (∀ (n : Fin 4) (x : Nat) (s : State), getF s (VTC_DBG_MODE n) = 2 → 
    Completes (.debugRequest n (.dmi x none)) s fun t =>
      t.out = .value .debugger (dmRead s n x) :: s.out
        ∧ Frame [] [.out] s t) ∧
  (∀ (n : Fin 4) (w : BitVec 32) (s : State), s.triads.length = 4 → (triad s n).dm.data.length = 4 → getF s (VTC_DBG_MODE n) = 2 → 
    Completes (.debugRequest n (.dmi 4 (some w))) s fun t =>
      (triad t n).dm.data.getD 0 0 = w.toNat
        ∧ (∀ u : Fin 4, u ≠ n → triad t u = triad s u)
        ∧ Frame [] [.triads] s t) ∧
  (∀ (n : Fin 4) (x : Nat) (s : State), getF s (VTC_DBG_MODE n) = 2 → tState s n = tsDEBUG → (triad s n).resumed = true → 
    Completes (.debugRequest n (.readReg x)) s fun t =>
      t.out = .denied .debugger .access :: s.out
        ∧ Frame msiFields [.out, .waiting, .xings, .quiet] s t) ∧
  (∀ (n : Fin 4) (op : DbgOp) (s : State), s.triads.length = 4 → getF s (VTC_DBG_MODE n) = 1 → maintainerMay op = true → running s n = true → (triad s n).maint.length < 16 → 
    Completes (.debugRequest n op) s fun t =>
      triad t n = { triad s n with maint := (triad s n).maint ++ [op] }
        ∧ (∀ u : Fin 4, u ≠ n → triad t u = triad s u)
        ∧ Frame [] [.triads] s t) ∧
  (∀ (n : Fin 4) (op : DbgOp) (s : State), getF s (VTC_DBG_MODE n) = 0 → 
    Completes (.debugRequest n op) s fun t =>
      t.out = .denied .debugger .access :: s.out
        ∧ Frame msiFields [.out, .waiting, .xings, .quiet] s t) ∧
  (∀ (n : Fin 4) (p : Stop) (s : State), s.triads.length = 4 → (triad s n).lanes.length = 3 → getF s (VTC_DBG_MODE n) = 2 → running s n = true → (∀ p : Fin 3, getF s (VTC_CSTAT_CORE (coreAt s n p)) = csLANE ∧ coreAt s n p < 14) → coreAt s n 1 ≠ coreAt s n 2 → 
    Completes (.depotHalt n p) s fun t =>
      tState t n = tsDEBUG
        ∧ onF t (VTC_DBG_SPLIT n) = true
        ∧ (triad t n).dbgRun = true
        ∧ kget 0 (laneRegs t n 0) 0x7B1 = p.pc.toNat
        ∧ (bits (kget 0 (laneRegs t n 0) 0x7B0) 0 2 = (if p.mach then 3 else 0))
        ∧ bits (kget 0 (laneRegs t n 0) 0x7B0) 6 3 = 3
        ∧ getF t (VTC_CSTAT_CORE (coreAt s n 1)) = csHELD
        ∧ getF t (VTC_CSTAT_CORE (coreAt s n 2)) = csHELD
        ∧ (∀ u : Fin 4, u ≠ n → triad t u = triad s u)
        ∧ Frame ([VTC_TSTAT_STATE n, VTC_STAT_RUN, VTC_STAT_DEGR, VTC_STAT_HALT, VTC_TSTAT_CHKON n, VTC_SXSTAT_CHKON n, VTC_DBG_SPLIT n, VTC_CSTAT_CORE (coreAt s n 1), VTC_CSTAT_CORE (coreAt s n 2), VTC_STAT_SPARES, tmapFld n (getF s (VTC_TSTAT_FLANE n) - 1)] ++ lostCounters) [.triads, .waiting] s t) ∧
  (∀ (n : Fin 4) (s : State), getF s (VTC_DBG_MODE n) ≠ 0 → tState s n = tsDEBUG → (triad s n).dbgRun = false → 
    Completes (.depotSessionEnd n) s fun t =>
      getF t (VTC_DBG_MODE n) = 0
        ∧ tState t n = tsHALTED
        ∧ Frame [VTC_DBG_MODE n, VTC_TSTAT_STATE n, VTC_STAT_RUN, VTC_STAT_DEGR, VTC_STAT_HALT] [] s t) ∧
  (∀ (n : Fin 4) (op : DbgOp) (retire : Nat) (s : State), s.triads.length = 4 → getF s (VTC_DBG_MODE n) = 1 → maintainerMay op = true → running s n = true → (triad s n).lastMaint = 0 → (triad s n).maint = [] → (triad s n).wfi = none → 
    Completes (.maintainerRequest n op retire) s fun t =>
      (triad t n).events = (triad s n).events ++ [(max (triad s n).lastTag (retire + max 32 (liveF s (VTC_IAG_MARGIN n))), .dbg op)]
        ∧ (∀ u : Fin 4, u ≠ n → triad t u = triad s u)
        ∧ Frame [] [.triads] s t)

/-- Sources, states and slews. SOURCE_QUALIFIED of a source that its chapter qualifies: one that is not chosen has its offset and its QUAL bit stored alone; one that is chosen in SYNC with an offset within SLEWMAX becomes active and the offset is slewed, the time value not jumping; one whose offset is to be stepped waits for the end of the MER cycle; SOURCE_DISQUALIFIED of the last source in SYNC starts DR at the free-running count; DR_LIMIT_EXPIRY once DR has lasted DRLIM enters LOST and keeps RATE; SLEW_DONE with the offset absorbed clears SLEW, and before that changes nothing. -/
def Obligations.TimeSources : Prop :=
  (∀ (src : Fin 4) (offset : Int) (s : State), src ≠ 0 → mayQualify s src = true → chooseSource (setFBit s MER_STAT_QUAL (src.val - 1) true) = getF s MER_STAT_SRC → 
    Completes (.sourceQualified src offset) s fun t =>
      getF t MER_STAT_QUAL = putBit (getF s MER_STAT_QUAL) (src.val - 1) true % 2 ^ MER_STAT_QUAL.w
        ∧ (t.mer = { s.mer with offs := modAt s.mer.offs (src.val - 1) fun _ => offset * 2 ^ 26 })
        ∧ Frame [MER_STAT_QUAL] [.mer] s t) ∧
  (∀ (src : Fin 4) (offset : Int) (s : State), src ≠ 0 → mayQualify s src = true → chooseSource (setFBit s MER_STAT_QUAL (src.val - 1) true) = src.val → getF s MER_STAT_SRC ≠ src.val → getF s MER_STAT_STATE = 1 → s.mer.due = [] → s.mer.offs.length = 3 → offset ≠ 0 → 1 ≤ liveF s MER_CTRL_SLEWMAX → offset.natAbs ≤ liveF s MER_CTRL_SLEWMAX * 64000 → 
    Completes (.sourceQualified src offset) s fun t =>
      getF t MER_STAT_SRC = src
        ∧ onF t MER_STAT_SLEW = true
        ∧ (t.mer = { s.mer with offs := modAt s.mer.offs (src.val - 1) (fun _ => offset * 2 ^ 26), slewLeft := offset * 2 ^ 26 })
        ∧ Frame [MER_STAT_QUAL, MER_STAT_SRC, MER_STAT_SLEW] [.mer] s t) ∧
  (∀ (src : Fin 4) (offset : Int) (s : State), src ≠ 0 → mayQualify s src = true → chooseSource (setFBit s MER_STAT_QUAL (src.val - 1) true) = src.val → getF s MER_STAT_SRC ≠ src.val → s.mer.offs.length = 3 → (getF s MER_STAT_STATE = 0 ∨ getF s MER_STAT_STATE = 3 ∨ liveF s MER_CTRL_SLEWMAX * 64000 < offset.natAbs) → 
    Completes (.sourceQualified src offset) s fun t =>
      getF t MER_STAT_SRC = src
        ∧ (t.mer = { s.mer with offs := modAt s.mer.offs (src.val - 1) (fun _ => offset * 2 ^ 26), due := s.mer.due ++ [.source src.val] })
        ∧ Frame [MER_STAT_QUAL, MER_STAT_SRC] [.mer] s t) ∧
  (∀ (src : Fin 4) (s : State), src ≠ 0 → mayQualify s src = false → s.mer.due = [] → chooseSource (setFBit s MER_STAT_QUAL (src.val - 1) false) = 0 → getF s MER_STAT_SRC ≠ 0 → getF s MER_STAT_STATE = 1 → 
    Completes (.sourceDisqualified src) s fun t =>
      getF t MER_STAT_SRC = 0
        ∧ getF t MER_STAT_STATE = 2
        ∧ onF t MER_STAT_SLEW = false
        ∧ onF t MER_EVT_STCHG = true
        ∧ t.mer = { s.mer with drStart := freeCnt s, slewLeft := 0, was := (1, nowNs s, nowNs s) :: s.mer.was }
        ∧ Frame ([MER_STAT_QUAL, MER_STAT_SRC, MER_STAT_SLEW, MER_STAT_STATE, MER_STAT_DRLEFT, MER_EVT_STCHG] ++ msiFields) [.mer, .ifiles, .waiting, .xings, .quiet] s t) ∧
  (∀ (s : State), getF s MER_STAT_STATE = 2 → drLim s * 1000000000 ≤ drTime s → 
    Completes (.drLimitExpiry) s fun t =>
      getF t MER_STAT_STATE = 3
        ∧ getF t MER_STAT_DRLEFT = 0
        ∧ onF t MER_EVT_STCHG = true
        ∧ Frame ([MER_STAT_STATE, MER_STAT_DRLEFT, MER_EVT_STCHG] ++ msiFields) [.ifiles, .waiting, .mer, .xings, .quiet] s t) ∧
  (∀ (s : State), s.mer.slewLeft = 0 → 
    Completes (.slewDone) s fun t =>
      onF t MER_STAT_SLEW = false
        ∧ Frame [MER_STAT_SLEW] [] s t) ∧
  (∀ (s : State), s.mer.slewLeft ≠ 0 → 
    Completes (.slewDone) s fun t =>
      Frame [] [] s t)

/-- MER_STEP acts by time state. MER_STEP_WRITE in FREE, with NS over 999,999,999, or in SYNC with Rhumbline disabled, sets STEPREF and leaves the time value; in DR and LOST the signed amount waits for the end of the MER cycle, which then moves the time value by it and counts one step with cause 2; in SYNC with Rhumbline enabled it is entry UB-11 of the catalogue: STEPCNT and LASTSTEP take free values, a step by a free amount waits, and the module goes on (notes/assumptions/14.md). -/
def Obligations.TimeSteps : Prop :=
  (∀ (r : Req) (val : Word) (s : State), (999999999 < bits val.toNat 0 30 ∨ getF s MER_STAT_STATE = 0 ∨ (getF s MER_STAT_STATE = 1 ∧ onF s RHL_CTRL_EN = false)) → 
    Completes (.merStepWrite r val) s fun t =>
      onF t MER_EVT_STEPREF = true
        ∧ Frame (MER_EVT_STEPREF :: msiFields) [.ifiles, .waiting, .xings, .quiet] s t) ∧
  (∀ (r : Req) (val : Word) (s : State), bits val.toNat 0 30 ≤ 999999999 → 2 ≤ getF s MER_STAT_STATE → 
    Completes (.merStepWrite r val) s fun t =>
      (t.mer = { s.mer with due := s.mer.due ++ [.soft ((if bit val.toNat 63 then -((bits val.toNat 32 31 * 1000000000 + bits val.toNat 0 30 : Nat) : Int) else ((bits val.toNat 32 31 * 1000000000 + bits val.toNat 0 30 : Nat) : Int)) * nsU)] })
        ∧ Frame [] [.mer] s t) ∧
  (∀ (r : Req) (val : Word) (s : State), bits val.toNat 0 30 ≤ 999999999 → getF s MER_STAT_STATE = 1 → onF s RHL_CTRL_EN = true → 
    Completes (.merStepWrite r val) s fun t =>
      t.mer.due.length = s.mer.due.length + 1
        ∧ t.mer.t = s.mer.t
        ∧ s.nfree < t.nfree
        ∧ Frame [MER_STEPCNT_COUNT, MER_LASTSTEP_NS, MER_LASTSTEP_CAUSE, MER_LASTSTEP_SEC, MER_LASTSTEP_NEG] [.mer, .nfree] s t) ∧
  (∀ (s : State) (z : Int), s.pending = [] → s.mer.due = [.soft z] → s.mer.slewLeft = 0 → s.mer.corr = 0 → s.mer.corr2 = 0 →
    (merTick s).mer.t = (((((s.mer.t : Int) + nsU + rate s) % (timeMod : Int)).toNat + z) % (timeMod : Int)).toNat
      ∧ getF (merTick s) MER_STEPCNT_COUNT = (getF s MER_STEPCNT_COUNT + 1) % 2 ^ MER_STEPCNT_COUNT.w ∧ getF (merTick s) MER_LASTSTEP_CAUSE = 2
      ∧ onF (merTick s) MER_EVT_STEP = true ∧ (merTick s).mer.due = [] ∧ freeCnt (merTick s) = (freeCnt s + 1) % 2 ^ MER_FREECNT_COUNT.w)

/-- Cycles, cycle points and alarms. CYCLE_START once the cycle timer has reached the cycle length counts CYCLES, forgets what fired and what was reported in the last cycle, and starts the next cycle one cycle length after the last; before that it does nothing; CYCLE_POINT_FIRE of a used point whose offset is reached fires it once, after the points that come before it, and makes its identity pending; ALARM_FIRE of an armed alarm whose instant is reached clears ARM, sets FIRED and makes its identity pending, and an alarm that is not armed does nothing; ALARM_ARM stores the alarm, clears FIRED and LATE as it is told, and arms it for an instant that has not passed, while one whose instant has passed fires at once, late. -/
def Obligations.CyclesAndAlarms : Prop :=
  (∀ (s : State), cycleOver s = true → 
    Completes (.cycleStart) s fun t =>
      getF t MER_CYCPOS_CYCLES = (getF s MER_CYCPOS_CYCLES + 1) % 2 ^ MER_CYCPOS_CYCLES.w
        ∧ Rest [.flds, .live, .pendL, .nfree, .out, .qops, .ifiles, .onceCycle, .waiting, .mem, .chk, .caches, .ceHold, .degCnt, .degAt, .degraded, .triads, .resv, .mer, .rhl, .chart, .bkb, .can, .brg, .fio, .lod, .anl, .binn, .pulses, .pulseOvf, .xings, .quiet, .links, .linkAt, .linkLost, .coll, .prl, .logb, .pwr, .upd] s t) ∧
  (∀ (s : State), cycleOver s = false → 
    Completes (.cycleStart) s fun t =>
      Frame [] [] s t) ∧
  (∀ (s : State), cycleOver s = true → s.mer.t < timeMod → s.mer.cycBase < timeMod → pointsDue (16 * s.mer.cycLen) s = [] → asleep s 6 = true → asleep s 8 = true → asleep s 0xC = true → (∀ g : Fin 256, kindOf s g ≠ 2 ∧ kindOf s g ≠ 4) → s.upd.pend = [] → onF s SYS_PWRSTAT_VREADY = true → s.pendL = [] → chooseSource s = getF s MER_STAT_SRC → drOver s = false → ((∀ p < 18, getF s (RHL_PSTAT_STATE p) ≠ 1)) → 
    Completes (.cycleStart) s fun t =>
      getF t MER_CYCPOS_CYCLES = (getF s MER_CYCPOS_CYCLES + 1) % 2 ^ MER_CYCPOS_CYCLES.w
        ∧ t.mer.fired = []
        ∧ t.onceCycle = []
        ∧ t.mer.t = s.mer.t
        ∧ t.mer.cycBase = (s.mer.cycBase + s.mer.cycLen * nsU) % timeMod
        ∧ t.mer.corr = s.mer.corr + s.rhl.corrNext * 2 ^ 26
        ∧ Frame (MER_CYCPOS_CYCLES :: MER_STAT_DRLEFT :: (List.range 4).map (fun n => BKB_GCLCTL_ACTIVE n) ++ (List.range 16).map fun c => SVC_WINCTRL_ORDERR c) [.onceCycle, .mer, .rhl, .fio, .xings, .quiet] s t) ∧
  (∀ (k : Fin 16) (s : State), pointUsed s k = true → s.mer.fired.contains k.val = false → liveF s (MER_CP_OFFSET k) ≤ cycOffset s → 
    Completes (.cyclePointFire k) s fun t =>
      (∀ j : Fin 16, t.mer.fired.contains j.val = (s.mer.fired.contains j.val || (pointUsed s j && decide (pointKey s j ≤ pointKey s k))))
        ∧ t.mer = { s.mer with fired := t.mer.fired }
        ∧ Rest [.flds, .ifiles, .waiting, .mer, .xings, .quiet, .prl] s t) ∧
  (∀ (k : Fin 16) (s : State), (pointUsed s k = false ∨ cycOffset s < liveF s (MER_CP_OFFSET k)) → 
    Completes (.cyclePointFire k) s fun t =>
      Frame [] [] s t) ∧
  (∀ (k : Fin 16) (s : State), pointUsed s k = true → s.mer.fired.contains k.val = false → liveF s (MER_CP_OFFSET k) ≤ cycOffset s → pointsDue (pointKey s k) s = [pointKey s k] → liveF s (MER_CP_EIID k) = 0 → role s ≠ rolePRIMARY → 
    Completes (.cyclePointFire k) s fun t =>
      t.mer = { s.mer with fired := k.val :: s.mer.fired }
        ∧ Frame [] [.mer, .prl] s t) ∧
  (∀ (k : Fin 16) (p : Nat) (s : State), pointUsed s k = true → s.mer.fired.contains k.val = false → liveF s (MER_CP_OFFSET k) ≤ cycOffset s → 1 ≤ liveF s (MER_CP_EIID k) → liveF s (MER_CP_EIID k) ≤ 255 → filePage (liveF s (MER_CP_HART k)) (liveF s (MER_CP_LEVEL k)) (liveF s (MER_CP_GUEST k)) = some p → pointsDue (pointKey s k) s = [pointKey s k] → onF s (SYS_ISL_QUIESCE 7) = false → CrossOpen s (fileIsland p) 3 (fileIsland p) → role s ≠ rolePRIMARY → 
    Completes (.cyclePointFire k) s fun t =>
      t.mer = { s.mer with fired := k.val :: s.mer.fired }
        ∧ isPending t p (liveF s (MER_CP_EIID k)) = true
        ∧ Frame [SYS_ISL_STOPPED (fileIsland p)] [.mer, .prl, .ifiles, .xings, .quiet] s t) ∧
  (∀ (k : Fin 16) (s : State), s.mer.fired.contains k.val = true → 
    Completes (.cyclePointFire k) s fun t =>
      Frame [] [] s t) ∧
  (∀ (k : Fin 8) (s : State), onF s (MER_ALMC_ARM k) = true → alarmNs s k ≤ nowNs s → 
    Completes (.alarmFire k) s fun t =>
      onF t (MER_ALMC_ARM k) = false
        ∧ onF t (MER_ALMC_FIRED k) = true
        ∧ getF t (MER_ALMC_LATE k) = getF s (MER_ALMC_LATE k)
        ∧ Rest [.flds, .ifiles, .waiting, .xings, .quiet] s t) ∧
  (∀ (r : Req) (k : Fin 8) (val : Word) (s : State), 
    Completes (.alarmArm r k val) s fun t =>
      getF t (MER_ALMC_SECHI k) = bits val.toNat 0 16
        ∧ getF t (MER_ALMC_EIID k) = bits val.toNat 24 8
        ∧ getF t (MER_ALMC_HART k) = bits val.toNat 32 5
        ∧ getF t (MER_ALMC_LEVEL k) = bits val.toNat 40 2
        ∧ getF t (MER_ALMC_GUEST k) = bits val.toNat 44 3
        ∧ (getF t (MER_ALMC_ARM k) = (if (bits val.toNat 16 1 = 1 ∧ (bits val.toNat 0 16 * 2 ^ 32 + getF s (MER_ALMT_SECLO k)) * 1000000000 + getF s (MER_ALMT_NS k) < nowNs s) then 0 else bits val.toNat 16 1))
        ∧ (getF t (MER_ALMC_FIRED k) = (if (bits val.toNat 16 1 = 1 ∧ (bits val.toNat 0 16 * 2 ^ 32 + getF s (MER_ALMT_SECLO k)) * 1000000000 + getF s (MER_ALMT_NS k) < nowNs s) then 1 else if bit val.toNat 17 then 0 else getF s (MER_ALMC_FIRED k)))
        ∧ (getF t (MER_ALMC_LATE k) = (if (bits val.toNat 16 1 = 1 ∧ (bits val.toNat 0 16 * 2 ^ 32 + getF s (MER_ALMT_SECLO k)) * 1000000000 + getF s (MER_ALMT_NS k) < nowNs s) then 1 else if bit val.toNat 18 then 0 else getF s (MER_ALMC_LATE k)))
        ∧ Rest [.flds, .ifiles, .waiting, .xings, .quiet] s t) ∧
  (∀ (k : Fin 8) (p : Nat) (s : State), onF s (MER_ALMC_ARM k) = true → alarmNs s k ≤ nowNs s → 1 ≤ getF s (MER_ALMC_EIID k) → getF s (MER_ALMC_EIID k) ≤ 255 → filePage (getF s (MER_ALMC_HART k)) (getF s (MER_ALMC_LEVEL k)) (getF s (MER_ALMC_GUEST k)) = some p → onF s (SYS_ISL_QUIESCE 7) = false → CrossOpen s (fileIsland p) 3 (fileIsland p) → 
    Completes (.alarmFire k) s fun t =>
      onF t (MER_ALMC_ARM k) = false
        ∧ onF t (MER_ALMC_FIRED k) = true
        ∧ isPending t p (getF s (MER_ALMC_EIID k)) = true
        ∧ Frame [MER_ALMC_ARM k, MER_ALMC_FIRED k, SYS_ISL_STOPPED (fileIsland p)] [.ifiles, .xings, .quiet] s t) ∧
  (∀ (k : Fin 8) (s : State), (onF s (MER_ALMC_ARM k) = false ∨ nowNs s < alarmNs s k) → 
    Completes (.alarmFire k) s fun t =>
      Frame [] [] s t) ∧
  (∀ (r : Req) (k : Fin 8) (val : Word) (s : State), bit val.toNat 17 = false → bit val.toNat 18 = false → bit val.toNat 16 = true → nowNs s ≤ (bits val.toNat 0 16 * 2 ^ 32 + getF s (MER_ALMT_SECLO k)) * 1000000000 + getF s (MER_ALMT_NS k) → 
    Completes (.alarmArm r k val) s fun t =>
      onF t (MER_ALMC_ARM k) = true
        ∧ getF t (MER_ALMC_SECHI k) = bits val.toNat 0 16
        ∧ getF t (MER_ALMC_EIID k) = bits val.toNat 24 8
        ∧ getF t (MER_ALMC_HART k) = bits val.toNat 32 5
        ∧ getF t (MER_ALMC_LEVEL k) = bits val.toNat 40 2
        ∧ getF t (MER_ALMC_GUEST k) = bits val.toNat 44 3
        ∧ Frame [MER_ALMC_ARM k, MER_ALMC_SECHI k, MER_ALMC_EIID k, MER_ALMC_HART k, MER_ALMC_LEVEL k, MER_ALMC_GUEST k] [] s t)

/-- The star forwards what its schedule allows. STAR_FRAME_RECEIVE with windows enforced: a frame in the window of an entry of its port, not forwarded yet and with the right header, leaves on the entry's enabled egress ports, is counted in FWD and marks its entry; a frame in no window goes nowhere and counts in DISC, as does every frame at a disabled or contained port. GUARDIAN_CUT for length ends an overlong frame as its cut form; with nothing in flight it does nothing. -/
def Obligations.StarForwards : Prop :=
  (∀ (n : Fin 18) (sof : Nat) (f : List Byte) (e : SEntry) (i : Nat) (s : State), Runs s 8 → (getF s (RHL_PSTAT_STATE n) = 1 ∨ getF s (RHL_PSTAT_STATE n) = 3) → s.rhl.windows = true → ((portEntries s n).find? (fun x => decide ((devOf s sof x.1).natAbs ≤ 64 * winOf s)) = some (e, i)) → (ecyc s i).fwd = false → headerOk s e f = true → clashPorts s n i e = [] → 
    Completes (.starFrameReceive n sof f) s fun t =>
      (t.out = ((egressOf s n e.outmask).reverse.flatMap fun q => if q = 17 then toPartner s fun k => [.sent .pair k f] else [.sent .star q f]) ++ s.out)
        ∧ (ecyc t i).fwd = true
        ∧ (ecyc t i).dev = devOf s sof e
        ∧ getF t (RHL_PCNT0_FWD n) = min (getF s (RHL_PCNT0_FWD n) + 1) (2 ^ (RHL_PCNT0_FWD n).w - 1)
        ∧ t.rhl.viol = s.rhl.viol
        ∧ Frame [RHL_PCNT0_FWD n, RHL_PCNT1_FCSERR n, PRL_LCNT_TXFRM 0, PRL_LCNT_TXFRM 1, PRL_LCNT_FCSERR 0, PRL_LCNT_FCSERR 1] [.out, .rhl] s t) ∧
  (∀ (n : Fin 18) (sof : Nat) (f : List Byte) (s : State), Runs s 8 → (getF s (RHL_PSTAT_STATE n) = 1 ∨ getF s (RHL_PSTAT_STATE n) = 3) → s.rhl.windows = true → ((portEntries s n).find? (fun x => decide ((devOf s sof x.1).natAbs ≤ 64 * winOf s)) = none) → 
    Completes (.starFrameReceive n sof f) s fun t =>
      getF t (RHL_PCNT0_DISC n) = min (getF s (RHL_PCNT0_DISC n) + 1) (2 ^ (RHL_PCNT0_DISC n).w - 1)
        ∧ getF t (RHL_PCNT0_FWD n) = getF s (RHL_PCNT0_FWD n)
        ∧ Rest [.flds, .rhl, .ifiles, .waiting, .xings, .quiet] s t) ∧
  (∀ (n : Fin 18) (sof : Nat) (f : List Byte) (s : State), Runs s 8 → (getF s (RHL_PSTAT_STATE n) = 0 ∨ getF s (RHL_PSTAT_STATE n) = 2) → 
    Completes (.starFrameReceive n sof f) s fun t =>
      getF t (RHL_PCNT0_DISC n) = min (getF s (RHL_PCNT0_DISC n) + 1) (2 ^ (RHL_PCNT0_DISC n).w - 1)
        ∧ Frame [RHL_PCNT0_DISC n, PRL_LCNT_FCSERR 0, PRL_LCNT_FCSERR 1] [] s t) ∧
  (∀ (n : Fin 18) (x : Fly) (q : Nat) (e : SEntry) (s : State), Runs s 8 → s.rhl.fly = [x] → x.port = n → x.egress = [q] → x.cutLen = false → (entries s)[x.entry]? = some e → e.maxlen < x.frame.length → min x.frame.length e.maxlen ≤ winLimit s x q → 
    Completes (.guardianCut n false) s fun t =>
      (t.out = (if q = 17 then toPartner s fun k => [.sent .pair k (cutFrame x.frame e.maxlen), .signal .pair k 1 e.maxlen] else [.sent .star q (cutFrame x.frame e.maxlen), .signal .star q 1 e.maxlen]) ++ s.out)
        ∧ getF t (RHL_PCNT1_CUT n) = min (getF s (RHL_PCNT1_CUT n) + 1) (2 ^ (RHL_PCNT1_CUT n).w - 1)
        ∧ Rest [.flds, .out, .ifiles, .waiting, .rhl, .xings, .quiet] s t) ∧
  (∀ (n : Fin 18) (win : Bool) (s : State), Runs s 8 → ((s.rhl.fly.find? fun x => x.port == n.val) = none) → 
    Completes (.guardianCut n win) s fun t =>
      Frame [] [] s t)

/-- Star ports: enabling, containment and release. PORT_ENABLE of a DISABLED port makes it NORMAL with a cleared count; PORT_DISABLE makes it DISABLED; PORT_FORCE contains any port that is not DISABLED for CONTAIN cycles, of which fewer than 16 are taken as 16, and leaves a DISABLED one; PORT_RELEASE returns a contained port or one on probation to NORMAL, the latter with a NOTE, and leaves the others; CONTAIN_COUNTDOWN counts REMAIN down, turns containment into a probation of 16 cycles and probation into NORMAL with a NOTE, and leaves NORMAL and DISABLED ports; a link change of a star port shows in LINK. -/
def Obligations.StarPorts : Prop :=
  (∀ (r : Req) (n : Fin 18) (s : State), Ready s 8 → getF s (RHL_PSTAT_STATE n) = 0 → 
    Completes (.portEnable r n) s fun t =>
      onF t (RHL_PCTRL_EN n) = true
        ∧ getF t (RHL_PSTAT_STATE n) = 1
        ∧ getF t (RHL_PSTAT_REMAIN n) = 0
        ∧ getF t (RHL_PSTAT_VIOL n) = 0
        ∧ Frame [RHL_PCTRL_EN n, RHL_PSTAT_STATE n, RHL_PSTAT_REMAIN n, RHL_PSTAT_VIOL n] [.rhl, .quiet] s t) ∧
  (∀ (r : Req) (n : Fin 18) (s : State), Ready s 8 → 
    Completes (.portDisable r n none) s fun t =>
      onF t (RHL_PCTRL_EN n) = false
        ∧ getF t (RHL_PSTAT_STATE n) = 0
        ∧ getF t (RHL_PSTAT_REMAIN n) = 0
        ∧ Frame [RHL_PCTRL_EN n, RHL_PSTAT_STATE n, RHL_PSTAT_REMAIN n, RHL_PSTAT_VIOL n] [.quiet] s t) ∧
  (∀ (r : Req) (n : Fin 18) (s : State), Ready s 8 → getF s (RHL_PSTAT_STATE n) ≠ 0 → 
    Completes (.portForce r n) s fun t =>
      getF t (RHL_PSTAT_STATE n) = 2
        ∧ getF t (RHL_PSTAT_REMAIN n) = max 16 (liveF s (RHL_PCTRL_CONTAIN n)) % 2 ^ (RHL_PSTAT_REMAIN n).w
        ∧ getF t (RHL_PCNT1_CONT n) = min (getF s (RHL_PCNT1_CONT n) + 1) (2 ^ (RHL_PCNT1_CONT n).w - 1)
        ∧ onF t RHL_EVT_CONTAIN = true
        ∧ Frame ([RHL_PSTAT_STATE n, RHL_PSTAT_REMAIN n, RHL_PCNT1_CONT n, RHL_EVT_CONTAIN] ++ msiFields) [.ifiles, .waiting, .xings, .quiet] s t) ∧
  (∀ (r : Req) (n : Fin 18) (s : State), Ready s 8 → getF s (RHL_PSTAT_STATE n) = 0 → 
    Completes (.portForce r n) s fun t =>
      Frame [] [.quiet] s t) ∧
  (∀ (r : Req) (n : Fin 18) (s : State), Ready s 8 → getF s (RHL_PSTAT_STATE n) = 3 → RoomFor s (guardLoc n).isl → 
    Completes (.portRelease r n) s fun t =>
      getF t (RHL_PSTAT_STATE n) = 1
        ∧ getF t (RHL_PSTAT_REMAIN n) = 0
        ∧ getF t (RHL_PSTAT_VIOL n) = 0
        ∧ t.waiting = s.waiting ++ [((guardLoc n).isl, { cls := NOTE, loc := guardLoc n })]
        ∧ Frame [RHL_PCTRL_EN n, RHL_PSTAT_STATE n, RHL_PSTAT_REMAIN n, RHL_PSTAT_VIOL n] [.rhl, .waiting, .quiet] s t) ∧
  (∀ (n : Fin 18) (s : State), Runs s 8 → getF s (RHL_PSTAT_STATE n) = 3 → getF s (RHL_PSTAT_REMAIN n) = 1 → 
    Completes (.containCountdown n) s fun t =>
      getF t (RHL_PSTAT_STATE n) = 1
        ∧ getF t (RHL_PSTAT_REMAIN n) = 0
        ∧ getF t (RHL_PSTAT_VIOL n) = 0
        ∧ Frame [RHL_PCTRL_EN n, RHL_PSTAT_STATE n, RHL_PSTAT_REMAIN n, RHL_PSTAT_VIOL n, SYS_EFLOST_NOTE] [.rhl, .waiting] s t) ∧
  (∀ (r : Req) (n : Fin 18) (s : State), Ready s 8 → 2 ≤ getF s (RHL_PSTAT_STATE n) → getF s (RHL_PSTAT_STATE n) ≠ 3 → 
    Completes (.portRelease r n) s fun t =>
      getF t (RHL_PSTAT_STATE n) = 1
        ∧ getF t (RHL_PSTAT_REMAIN n) = 0
        ∧ getF t (RHL_PSTAT_VIOL n) = 0
        ∧ Frame [RHL_PCTRL_EN n, RHL_PSTAT_STATE n, RHL_PSTAT_REMAIN n, RHL_PSTAT_VIOL n] [.rhl, .quiet] s t) ∧
  (∀ (r : Req) (n : Fin 18) (s : State), Ready s 8 → getF s (RHL_PSTAT_STATE n) < 2 → 
    Completes (.portRelease r n) s fun t =>
      Frame [] [.quiet] s t) ∧
  (∀ (n : Fin 18) (s : State), Runs s 8 → 2 ≤ getF s (RHL_PSTAT_STATE n) → 2 ≤ getF s (RHL_PSTAT_REMAIN n) → 
    Completes (.containCountdown n) s fun t =>
      getF t (RHL_PSTAT_REMAIN n) = (getF s (RHL_PSTAT_REMAIN n) - 1) % 2 ^ (RHL_PSTAT_REMAIN n).w
        ∧ Frame [RHL_PSTAT_REMAIN n] [] s t) ∧
  (∀ (n : Fin 18) (s : State), Runs s 8 → getF s (RHL_PSTAT_STATE n) = 2 → getF s (RHL_PSTAT_REMAIN n) = 1 → 
    Completes (.containCountdown n) s fun t =>
      getF t (RHL_PSTAT_STATE n) = 3
        ∧ getF t (RHL_PSTAT_REMAIN n) = 16
        ∧ Frame [RHL_PSTAT_STATE n, RHL_PSTAT_REMAIN n] [] s t) ∧
  (∀ (n : Fin 18) (s : State), Runs s 8 → getF s (RHL_PSTAT_STATE n) < 2 → 
    Completes (.containCountdown n) s fun t =>
      Frame [] [] s t) ∧
  (∀ (n : Fin 16) (s : State), 
    Completes (.starPortLinkChange n false none) s fun t =>
      onF t (RHL_PSTAT_LINK n) = false
        ∧ Frame [RHL_PSTAT_LINK n] [] s t) ∧
  (∀ (n : Fin 16) (i : Option Nat) (s : State), 
    Completes (.starPortLinkChange n true i) s fun t =>
      onF t (RHL_PSTAT_LINK n) = true
        ∧ Frame [RHL_PSTAT_LINK n] [] s t)

/-- The own node receives and sends. OWN_NODE_RECEIVE below state CATCH or with a bad FCS changes nothing, and a valid first copy of an unmapped entry with no buffer posted counts in NOBUF and is remembered with its epoch; STATS_UPDATE closes an entry once a cycle; PACK_START of a mapped INPORT-16 entry keeps what the Chart packs for its cycle in place of what was packed for it before; OWN_NODE_TRANSMIT sends the frame packed for its cycle on both channels, and with nothing packed only counts not-ready; SLOTTX of a frame for a slot to come waits for it and one with a wrong length ends with BADLEN, RHL_RXBUF of a buffer that is long enough posts it and a shorter one ends with BADLEN, and neither does anything without a descriptor. -/
def Obligations.OwnNode : Prop :=
  (∀ (chan : Bool) (sof : Nat) (f : List Byte) (s : State), Runs s 8 → (getF s RHL_STAT_STATE < 2 ∨ fcsGood f = false) → 
    Completes (.ownNodeReceive chan sof f) s fun t =>
      Frame [] [] s t) ∧
  (∀ (chan : Bool) (sof : Nat) (f : List Byte) (e : SEntry) (i : Nat) (s : State), Runs s 8 → 2 ≤ getF s RHL_STAT_STATE → fcsGood f = true → (((entries s).zipIdx.find? fun x => x.1.frameid == fId f) = some (e, i)) → (bit e.outmask (if chan then 17 else 16) = true) → headerOk s e f = true → epochOld (fEpoch f) (kget 0 s.rhl.lastEp (epKey s i)) = false → (ecyc s i).rx = false → eMapv e = false → firstPosted s 0x501 = none → (((List.range 256).filter fun c => tunencFor s c 1 && bits (fc2 s c) 16 15 == i) = []) → 
    Completes (.ownNodeReceive chan sof f) s fun t =>
      getF t (RHL_NOBUF_COUNT) = min (getF s (RHL_NOBUF_COUNT) + 1) (2 ^ (RHL_NOBUF_COUNT).w - 1)
        ∧ kget 0 t.rhl.lastEp (epKey s i) = fEpoch f
        ∧ (ecyc t i).rx = true
        ∧ Frame [RHL_NOBUF_COUNT] [.rhl] s t) ∧
  (∀ (e : Nat) (s : State), Runs s 8 → ((s.rhl.prev.find? fun p => p.entry == e) = none) → s.rhl.windows = true → s.rhl.statDone.contains e = false → e < (entries s).length → 
    Completes (.statsUpdate e) s fun t =>
      t.rhl = { s.rhl with statDone := e :: s.rhl.statDone }
        ∧ Rest [.flds, .nfree, .waiting, .mem, .chk, .caches, .ceHold, .degCnt, .degraded, .triads, .resv, .rhl, .pulses, .pulseOvf] s t) ∧
  (∀ (e : Nat) (x : SEntry) (o : Option (List Byte)) (s : State), Runs s 8 → (entries s)[e]? = some x → x.inport = 16 → eMapv x = true → mayPack s x = true → CrossOpen s 13 8 6 → CrossOpen s 14 6 8 → (packMap x.mapid s).2 = o → 
    Completes (.packStart e) s fun t =>
      (t.rhl.packed = s.rhl.packed.filter (fun y => y.1 != e || y.2.1 != packCycle s x) ++ (match o with | some p => [(e, packCycle s x, freeCnt s, p)] | none => []))
        ∧ Rest [.flds, .nfree, .waiting, .mem, .chk, .caches, .ceHold, .degCnt, .degraded, .rhl, .pulses, .pulseOvf, .xings, .quiet] s t) ∧
  (∀ (e : Nat) (x : SEntry) (j c a : Nat) (p : List Byte) (s : State), Runs s 8 → (entries s)[e]? = some x → x.inport = 16 → (ecyc s e).slot = false → mayTransmit s = true → ownSilent s = false → eMapv x = true → ((s.rhl.packed.find? fun y => y.1 == e && y.2.1 == s.rhl.cycle && inTime s y.2.2.1) = some (j, c, a, p)) → 
    Completes (.ownNodeTransmit e) s fun t =>
      (t.out = (toPartner s fun k => [.sent .pair k (rhlFrame 0 x.frameid s.rhl.cycle (getF s RHL_NEPOCH_EPOCH) s.rhl.net (eSync x) p)]) ++ .sent .ownNode 16 (rhlFrame 0 x.frameid s.rhl.cycle (getF s RHL_NEPOCH_EPOCH) s.rhl.net (eSync x) p) :: s.out)
        ∧ (ecyc t e).slot = true
        ∧ (t.rhl.packed.find? fun y => y.1 == e && y.2.1 == s.rhl.cycle) = none
        ∧ Frame [PRL_LCNT_TXFRM 0, PRL_LCNT_TXFRM 1] [.out, .rhl] s t) ∧
  (∀ (e : Nat) (x : SEntry) (s : State), Runs s 8 → (entries s)[e]? = some x → x.inport = 16 → (ecyc s e).slot = false → mayTransmit s = true → ownSilent s = false → eMapv x = true → ((s.rhl.packed.find? fun y => y.1 == e && y.2.1 == s.rhl.cycle && inTime s y.2.2.1) = none) → 
    Completes (.ownNodeTransmit e) s fun t =>
      (ecyc t e).slot = true
        ∧ (ecyc t e).nr = (ecyc s e).nr + 1
        ∧ Frame [] [.rhl] s t) ∧
  (∀ (o : QOp) (s : State), Runs s 8 → firstPosted s 0x500 = none → freshOpc s 0x500 1 = some o → o.epoch = getF s (QEPOCH_EPOCH 0x500) → (leAt (opDesc s o) 6 2 < 60 ∨ 1514 < leAt (opDesc s o) 6 2) → 
    Completes (.slottx) s fun t =>
      (t.qops = s.qops.map fun y => if y.q = o.q ∧ y.idx = o.idx then { y with started := true, done := some { status := stBADLEN } } else y)
        ∧ Frame [] [.qops] s t) ∧
  (∀ (o : QOp) (e : SEntry) (s : State), Runs s 8 → firstPosted s 0x500 = none → freshOpc s 0x500 1 = some o → o.epoch = getF s (QEPOCH_EPOCH 0x500) → 60 ≤ leAt (opDesc s o) 6 2 → leAt (opDesc s o) 6 2 ≤ 1514 → (entries s)[leAt (opDesc s o) 4 2]? = some e → e.inport = 16 → eMapv e = false → engineMay s 0x500 (dAddr (opDesc s o) 8) (leAt (opDesc s o) 6 2) false = true → slotPassed s e o = false → 
    Completes (.slottx) s fun t =>
      (t.qops = s.qops.map fun y => if y.q = o.q ∧ y.idx = o.idx then { y with posted := true } else y)
        ∧ Frame [] [.qops] s t) ∧
  (∀ (o : QOp) (s : State), Runs s 8 → freshOpc s 0x501 2 = some o → o.epoch = getF s (QEPOCH_EPOCH 0x501) → leAt (opDesc s o) 4 4 < 1514 → 
    Completes (.rhlRxbuf) s fun t =>
      (t.qops = s.qops.map fun y => if y.q = o.q ∧ y.idx = o.idx then { y with started := true, done := some { status := stBADLEN } } else y)
        ∧ Frame [] [.qops] s t) ∧
  (∀ (o : QOp) (s : State), Runs s 8 → freshOpc s 0x501 2 = some o → o.epoch = getF s (QEPOCH_EPOCH 0x501) → 1514 ≤ leAt (opDesc s o) 4 4 → engineMay s 0x501 (dAddr (opDesc s o) 8) (leAt (opDesc s o) 4 4) true = true → 
    Completes (.rhlRxbuf) s fun t =>
      (t.qops = s.qops.map fun y => if y.q = o.q ∧ y.idx = o.idx then { y with posted := true } else y)
        ∧ Frame [] [.qops] s t) ∧
  (∀ (s : State), Runs s 8 → firstPosted s 0x500 = none → freshOpc s 0x500 1 = none → 
    Completes (.slottx) s fun t =>
      Frame [] [] s t) ∧
  (∀ (s : State), Runs s 8 → freshOpc s 0x501 2 = none → 
    Completes (.rhlRxbuf) s fun t =>
      Frame [] [] s t)

/-- Schedules are loaded and switched. SCHLOAD_GO into the buffer that is not active starts a load and clears SHREADY, and into the active buffer it is entry UB-13: its entries take free values and the module goes on (notes/assumptions/14.md); SCHEDULE_LOAD_DONE of a checked image puts it in its buffer with SHREADY 1, and of a refused one shows the failing check and its entry; SCHSW_ARM 1 to 2^31 - 1 cycles ahead arms the switch, otherwise sets SWREF; SCHEDULE_SWITCH at the armed cycle makes a ready shadow buffer active, and with none ready sets SWREF; without an armed switch it does nothing. -/
def Obligations.Schedules : Prop :=
  (∀ (r : Req) (src : BitVec 40) (buf : Bool) (s : State), Ready s 8 → onF s RHL_SCHSTAT_BUSY = false → s.rhl.active ≠ some (b2n buf) → 
    Completes (.schloadGo r src buf) s fun t =>
      getF t RHL_SCHLOAD_SRC = src.toNat
        ∧ getF t RHL_SCHLOAD_BUF = b2n buf
        ∧ onF t RHL_SCHSTAT_BUSY = true
        ∧ onF t RHL_SCHSTAT_SHREADY = false
        ∧ t.rhl.load = some (src.toNat, b2n buf)
        ∧ schedBuf t (b2n buf) = none
        ∧ Frame [RHL_SCHLOAD_SRC, RHL_SCHLOAD_BUF, RHL_SCHSTAT_BUSY, RHL_SCHSTAT_SHREADY] [.rhl, .quiet] s t) ∧
  (∀ (r : Req) (src : BitVec 40) (buf : Bool) (s : State), Ready s 8 → onF s RHL_SCHSTAT_BUSY = false → s.rhl.active = some (b2n buf) → 
    Completes (.schloadGo r src buf) s fun t =>
      onF t RHL_SCHSTAT_BUSY = true
        ∧ onF t RHL_SCHSTAT_SHREADY = false
        ∧ t.rhl.load = some (src.toNat, b2n buf)
        ∧ (∀ b : Bool, b ≠ buf → schedBuf t (b2n b) = schedBuf s (b2n b))
        ∧ (entries t).length = (entries s).length
        ∧ Frame [RHL_SCHLOAD_SRC, RHL_SCHLOAD_BUF, RHL_SCHSTAT_BUSY, RHL_SCHSTAT_SHREADY] [.rhl, .nfree, .quiet] s t) ∧
  (∀ (src b : Nat) (c : Sched) (s : State), Runs s 8 → s.rhl.load = some (src, b) → b < 2 → ((match checkImage s src with | .ok x => decide (x = c) | .error _ => false) = true) → 
    Completes (.scheduleLoadDone) s fun t =>
      onF t RHL_SCHSTAT_BUSY = false
        ∧ onF t RHL_SCHSTAT_SHREADY = true
        ∧ getF t RHL_SCHSTAT_SHCYCLEN = c.cyclen % 2 ^ RHL_SCHSTAT_SHCYCLEN.w
        ∧ getF t RHL_SCHSTAT_SHENTRIES = c.entries.length % 2 ^ RHL_SCHSTAT_SHENTRIES.w
        ∧ getF t RHL_SCHSTAT_ERR = 0
        ∧ schedBuf t b = some c
        ∧ t.rhl.load = none
        ∧ t.rhl.lastPass = b
        ∧ onF t RHL_EVT_LOADDONE = true
        ∧ Rest [.flds, .nfree, .ifiles, .waiting, .mem, .chk, .caches, .ceHold, .degCnt, .degraded, .triads, .resv, .rhl, .pulses, .pulseOvf, .xings, .quiet] s t) ∧
  (∀ (src b c i : Nat) (s : State), Runs s 8 → s.rhl.load = some (src, b) → ((match checkImage s src with | .ok _ => false | .error e => e == (c, i)) = true) → 
    Completes (.scheduleLoadDone) s fun t =>
      onF t RHL_SCHSTAT_BUSY = false
        ∧ (b = shadowBuf s → onF t RHL_SCHSTAT_SHREADY = false)
        ∧ getF t RHL_SCHSTAT_ERR = c % 16
        ∧ getF t RHL_SCHSTAT_ERRIDX = i % 2 ^ 16
        ∧ t.rhl.load = none
        ∧ onF t RHL_EVT_LOADERR = true
        ∧ Rest [.flds, .nfree, .ifiles, .waiting, .mem, .chk, .caches, .ceHold, .degCnt, .degraded, .triads, .resv, .rhl, .pulses, .pulseOvf, .xings, .quiet] s t) ∧
  (∀ (r : Req) (cyc : BitVec 32) (s : State), Ready s 8 → 1 ≤ (cyc.toNat + 2 ^ 32 - s.rhl.cycle % 2 ^ 32) % 2 ^ 32 → (cyc.toNat + 2 ^ 32 - s.rhl.cycle % 2 ^ 32) % 2 ^ 32 < 2 ^ 31 → 
    Completes (.schswArm r cyc) s fun t =>
      getF t RHL_SCHSW_CYC = cyc.toNat
        ∧ onF t RHL_SCHSW_PEND = true
        ∧ t.rhl = { s.rhl with swCyc := cyc.toNat }
        ∧ Frame [RHL_SCHSW_CYC, RHL_SCHSW_PEND] [.rhl, .quiet] s t) ∧
  (∀ (r : Req) (cyc : BitVec 32) (s : State), Ready s 8 → ((cyc.toNat + 2 ^ 32 - s.rhl.cycle % 2 ^ 32) % 2 ^ 32 = 0 ∨ 2 ^ 31 ≤ (cyc.toNat + 2 ^ 32 - s.rhl.cycle % 2 ^ 32) % 2 ^ 32) → 
    Completes (.schswArm r cyc) s fun t =>
      getF t RHL_SCHSW_CYC = cyc.toNat
        ∧ onF t RHL_EVT_SWREF = true
        ∧ Frame ([RHL_SCHSW_CYC, RHL_EVT_SWREF] ++ msiFields) [.ifiles, .waiting, .xings, .quiet] s t) ∧
  (∀ (c : Sched) (s : State), Runs s 8 → onF s RHL_SCHSW_PEND = true → s.rhl.cycle % 2 ^ 32 = s.rhl.swCyc → onF s RHL_SCHSTAT_SHREADY = true → s.rhl.active = some 0 → s.rhl.buf1 = some c → 
    Completes (.scheduleSwitch) s fun t =>
      sched t = some c
        ∧ t.rhl.active = some 1
        ∧ t.mer.cycLen = c.cyclen * 125000
        ∧ onF t RHL_SCHSW_PEND = false
        ∧ onF t RHL_SCHSTAT_SHREADY = false
        ∧ getF t RHL_SCHSTAT_ACTIVE = 1
        ∧ getF t RHL_STAT_CYCLEN = c.cyclen % 2 ^ 16
        ∧ onF t RHL_EVT_SWDONE = true
        ∧ Frame ([RHL_SCHSW_PEND, RHL_SCHSTAT_SHREADY, RHL_SCHSTAT_SHCYCLEN, RHL_SCHSTAT_SHENTRIES, RHL_SCHSTAT_ACTIVE, RHL_STAT_ACTIVE, RHL_STAT_CYCLEN, RHL_EVT_SWDONE] ++ msiFields) [.rhl, .mer, .ifiles, .waiting, .xings, .quiet] s t) ∧
  (∀ (s : State), Runs s 8 → onF s RHL_SCHSW_PEND = true → s.rhl.cycle % 2 ^ 32 = s.rhl.swCyc → onF s RHL_SCHSTAT_SHREADY = false → 
    Completes (.scheduleSwitch) s fun t =>
      onF t RHL_SCHSW_PEND = false
        ∧ onF t RHL_EVT_SWREF = true
        ∧ Frame ([RHL_SCHSW_PEND, RHL_EVT_SWREF] ++ msiFields) [.ifiles, .waiting, .xings, .quiet] s t) ∧
  (∀ (s : State), Runs s 8 → onF s RHL_SCHSW_PEND = false → 
    Completes (.scheduleSwitch) s fun t =>
      Frame [] [] s t)

/-- Rhumbline starts up, cold-starts and integrates. RHL_ENABLE with an active schedule enters LISTEN, without one sets NOSCHED; RHL_DISABLE returns to state 0; LISTEN_TIMEOUT in LISTEN once LT is over sends a coldstart frame on both channels where CSCAP allows; COLDSTART_ACCEPT of the one candidate its schedule names opens the collision window and starts cycle 0; COLLISION_WINDOW_CLOSE shows winner and losers; COLDSTART_BAD_FCS in cycle 0 returns to LISTEN with its window as it was; INTEGRATE on a sync frame enters state 3; INTEGRATION_TIMEOUT after more than 8 cycles returns to LISTEN; PARTNER_ABSENT_LT notes the absence on channel Y once it has lasted LT. Each leaves everything where its state does not apply. -/
def Obligations.RhumblineStates : Prop :=
  (∀ (r : Req) (b : Nat) (s : State), Ready s 8 → onF s RHL_CTRL_EN = false → s.rhl.active = some b → getF s RHL_STAT_STATE = 0 → 
    Completes (.rhlEnable r) s fun t =>
      onF t RHL_CTRL_EN = true
        ∧ getF t RHL_STAT_STATE = 1
        ∧ getF t RHL_NEPOCH_EPOCH = nextEpoch (getF s RHL_NEPOCH_EPOCH) % 65536
        ∧ t.rhl.windows = false
        ∧ t.rhl.ltStart = freeCnt s
        ∧ Rest [.flds, .rhl, .ifiles, .waiting, .xings, .quiet] s t) ∧
  (∀ (r : Req) (s : State), Ready s 8 → onF s RHL_CTRL_EN = false → s.rhl.active = none → onF s RHL_SCHSTAT_SHREADY = false → 
    Completes (.rhlEnable r) s fun t =>
      onF t RHL_EVT_NOSCHED = true
        ∧ Frame (RHL_EVT_NOSCHED :: msiFields) [.ifiles, .waiting, .xings, .quiet] s t) ∧
  (∀ (r : Req) (s : State), Ready s 8 → onF s RHL_CTRL_EN = true → 
    Completes (.rhlDisable r []) s fun t =>
      onF t RHL_CTRL_EN = false
        ∧ getF t RHL_STAT_STATE = 0
        ∧ t.rhl.windows = false
        ∧ t.rhl.fly = []
        ∧ (∀ n : Fin 18, getF t (RHL_PSTAT_STATE n) = 0 ∨ getF t (RHL_PSTAT_STATE n) = 1)
        ∧ Rest [.flds, .rhl, .mer, .ifiles, .waiting, .xings, .quiet] s t) ∧
  (∀ (e : SEntry) (i : Nat) (s : State), Runs s 8 → getF s RHL_STAT_STATE = 1 → ltOver s s.rhl.ltStart = true → ownSilent s = false → s.rhl.heardCold = false → (((inportEntries s 16).find? fun x => eCold x.1) = some (e, i)) → onF s RHL_CTRL_CSCAP = true → 
    Completes (.listenTimeout) s fun t =>
      (t.out = (toPartner s fun k => [.sent .pair k (rhlFrame 1 e.frameid 0 (getF s RHL_NEPOCH_EPOCH) (slotBase s e.offset) true [])]) ++ .sent .ownNode 16 (rhlFrame 1 e.frameid 0 (getF s RHL_NEPOCH_EPOCH) (slotBase s e.offset) true []) :: s.out)
        ∧ t.rhl = { s.rhl with ltStart := freeCnt s, heardCold := false }
        ∧ Frame [PRL_LCNT_TXFRM 0, PRL_LCNT_TXFRM 1] [.out, .rhl] s t) ∧
  (∀ (s : State), Runs s 8 → (getF s RHL_STAT_STATE ≠ 1 ∨ ltOver s s.rhl.ltStart = false) → 
    Completes (.listenTimeout) s fun t =>
      Frame [] [] s t) ∧
  (∀ (n : Fin 18) (sof : Nat) (f : List Byte) (e : SEntry) (i : Nat) (s : State), Runs s 8 → getF s RHL_STAT_STATE = 1 → mayCold s = true → collOpen s sof = false → coldEntry s n f = some (e, i) → 
    Completes (.coldstartAccept sof [(n, f)]) s fun t =>
      t.rhl.cold = some { winner := n, sof := sof, badFcs := !fcsGood f }
        ∧ getF t RHL_STAT_STATE = 2
        ∧ t.rhl.cycle = 0
        ∧ t.rhl.net = fNet f
        ∧ getF t (RHL_PCNT0_FWD n) = min (getF s (RHL_PCNT0_FWD n) + 1) (2 ^ (RHL_PCNT0_FWD n).w - 1)
        ∧ Rest [.flds, .nfree, .out, .ifiles, .onceCycle, .waiting, .mer, .rhl, .xings, .quiet, .prl] s t) ∧
  (∀ (w : ColdWin) (s : State), Runs s 8 → s.rhl.cold = some w → w.isOpen = true → 
    Completes (.collisionWindowClose) s fun t =>
      getF t RHL_CSRES_WINNER = w.winner % 32
        ∧ getF t RHL_CSRES_LOSERS = w.losers % 2 ^ 18
        ∧ getF t RHL_CSRES_DELTA = w.delta.getD 0 % 2 ^ 32
        ∧ t.rhl = { s.rhl with cold := some { w with isOpen := false } }
        ∧ onF t RHL_EVT_CSRES = true
        ∧ Frame ([RHL_CSRES_WINNER, RHL_CSRES_LOSERS, RHL_CSRES_DELTA, RHL_EVT_CSRES] ++ msiFields) [.rhl, .ifiles, .waiting, .xings, .quiet] s t) ∧
  (∀ (w : ColdWin) (s : State), Runs s 8 → s.rhl.cold = some w → w.badFcs = true → getF s RHL_STAT_STATE = 2 → s.rhl.windows = false → 
    Completes (.coldstartBadFcs) s fun t =>
      getF t RHL_STAT_STATE = 1
        ∧ t.rhl.cold = some { w with badFcs := false }
        ∧ onF t RHL_EVT_STCHG = true
        ∧ Frame ([RHL_STAT_STATE, RHL_EVT_STCHG] ++ msiFields) [.rhl, .ifiles, .waiting, .xings, .quiet] s t) ∧
  (∀ (n : Fin 18) (sof : Nat) (f : List Byte) (e : SEntry) (s : State), Runs s 8 → getF s RHL_STAT_STATE = 1 → integrates s n f = some e → 
    Completes (.integrate n sof f) s fun t =>
      getF t RHL_STAT_STATE = 3
        ∧ t.rhl.cycle = fCycle f
        ∧ t.rhl.net = fNet f
        ∧ t.rhl.waited = 0
        ∧ t.rhl.windows = false
        ∧ Rest [.flds, .ifiles, .onceCycle, .waiting, .mer, .rhl, .xings, .quiet, .prl] s t) ∧
  (∀ (n : Fin 18) (sof : Nat) (f : List Byte) (s : State), Runs s 8 → getF s RHL_STAT_STATE ≠ 1 → 
    Completes (.integrate n sof f) s fun t =>
      Frame [] [] s t) ∧
  (∀ (s : State), Runs s 8 → (getF s RHL_STAT_STATE = 2 ∨ getF s RHL_STAT_STATE = 3) → 8 < s.rhl.waited → 
    Completes (.integrationTimeout) s fun t =>
      getF t RHL_STAT_STATE = 1
        ∧ t.rhl.waited = 0
        ∧ onF t RHL_EVT_STCHG = true
        ∧ Frame ([RHL_STAT_STATE, RHL_EVT_STCHG] ++ msiFields) [.rhl, .ifiles, .waiting, .xings, .quiet] s t) ∧
  (∀ (s : State), Runs s 8 → onF s RHL_CTRL_CHAN = true → onF s RHL_STAT_PARTNER = false → ltOver s s.rhl.absentAt = true → 
    Completes (.partnerAbsentLt) s fun t =>
      t.rhl = { s.rhl with absent := true }
        ∧ Frame [] [.rhl] s t)

/-- A synchronisation point averages the deviations. SYNCPT in SYNC and at least MINSYNC deviations whose correction lies within OFFLIM takes minus their trimmed average as the correction of the next cycle and forgets the deviations; with fewer than MINSYNC deviations SYNCLOSS times in a row it leaves SYNC for LISTEN; with at least MINSYNC of them in COLDSTART or CATCH it enters SYNC with a new node epoch; below those states it changes nothing. -/
def Obligations.SyncPoints : Prop :=
  (∀ (s : State), Runs s 8 → getF s RHL_STAT_STATE = 4 → s.rhl.lastDevs = none → minSync s ≤ s.rhl.devs.length → (corrOf (keptDevs (min 2 (liveF s RHL_SYNCCTL_K)) s.rhl.devs)).natAbs ≤ offLim s → s.rhl.points < 15 → 
    Completes (.syncpt) s fun t =>
      getF t RHL_STAT_NSYNC = s.rhl.devs.length % 16
        ∧ t.rhl.devs = []
        ∧ t.rhl.corrNext = corrOf (keptDevs (min 2 (liveF s RHL_SYNCCTL_K)) s.rhl.devs)
        ∧ t.rhl.lossRun = 0
        ∧ getF t RHL_OFFS_CORR = ofInt 32 (corrOf (keptDevs (min 2 (liveF s RHL_SYNCCTL_K)) s.rhl.devs)) % 2 ^ 32
        ∧ Frame (RHL_STAT_NSYNC :: RHL_OFFS_CORR :: ((List.range 8).flatMap fun k => [RHL_DEV_DEV k, RHL_DEV_ENTRY k, RHL_DEV_VALID k, RHL_DEV_USED k])) [.rhl, .mer] s t) ∧
  (∀ (s : State), Runs s 8 → getF s RHL_STAT_STATE = 4 → s.rhl.lastDevs = none → s.rhl.devs.length < minSync s → max 1 (liveF s RHL_SYNCCTL_SYNCLOSS) ≤ s.rhl.lossRun + 1 → 
    Completes (.syncpt) s fun t =>
      getF t RHL_STAT_STATE = 1
        ∧ t.rhl.devs = []
        ∧ t.rhl.windows = false
        ∧ Rest [.flds, .ifiles, .onceCycle, .waiting, .mer, .rhl, .xings, .quiet, .prl] s t) ∧
  (∀ (s : State), Runs s 8 → (getF s RHL_STAT_STATE = 2 ∨ getF s RHL_STAT_STATE = 3) → s.rhl.lastDevs = none → minSync s ≤ s.rhl.devs.length → 
    Completes (.syncpt) s fun t =>
      getF t RHL_STAT_STATE = 4
        ∧ getF t RHL_NEPOCH_EPOCH = nextEpoch (getF s RHL_NEPOCH_EPOCH) % 65536
        ∧ bitF t MER_STAT_QUAL 0 = true
        ∧ getF t RHL_STAT_NSYNC = s.rhl.devs.length % 16
        ∧ t.rhl.points = 0
        ∧ Rest [.flds, .ifiles, .onceCycle, .waiting, .mer, .rhl, .xings, .quiet, .prl] s t) ∧
  (∀ (s : State), Runs s 8 → getF s RHL_STAT_STATE < 2 → 
    Completes (.syncpt) s fun t =>
      Frame [] [] s t)

/-- Publish descriptors write their entries. With no frame or reading waiting, PUB, PUBSUB, PUBLIM and INVAL of one descriptor whose write R230 accepts, for an entry that is not watched and with no injection armed: the entry's codeword holds the new value (INVAL: the old), TS of this instant, the quality 0x01, 0x05, 0x21 or 0x00, SEQ + 1 and the queue's code, a BULK entry keeping its VALUE; every byte of memory outside the codeword is as before, and the descriptor ends with OK. A descriptor of an engine that is off waits. -/
def Obligations.ChartPublishes : Prop :=
  (∀ (q : Fin 128) (o : QOp) (d : List Byte) (g : Nat) (e : Entry) (c : Nat) (s : State), Runs s 6 → onF s CHT_CTRL_EN = true → s.fio.pubs = [] → s.chart.jobs = [] → currentOpc s (0x600 + q.val) 1 = some o → o.epoch = getF s (QEPOCH_EPOCH (0x600 + q.val)) → o.started = false → o.n = 1 → opDescs s o = [d] → dByte d 0 = 1 → leAt d 4 4 = g → 0 < g → g < 2 ^ 25 → entryOf s g = some e → judge s e (.publish c) false = .write → e.watch = false → onF s MEM_INJ_ARM = false → Uncached s (32 * sigCw g) → queueCode s (0x600 + q.val) = some c → 
    Completes (.pub q) s fun t =>
      memRaw t (32 * sigCw g) 32 = entBytes (updated e ((d.drop 8).take 16) (ts64 s) 0x01 c)
        ∧ MemOutside (32 * sigCw g) 32 s t
        ∧ (t.qops = s.qops.map fun y => if y.q = o.q ∧ y.idx = o.idx then { y with started := true, done := some { status := stOK, ts := ts96 s, res := 0xFF * 2 ^ 56 } } else y)
        ∧ Rest [.flds, .nfree, .out, .qops, .ifiles, .onceCycle, .waiting, .mem, .chk, .caches, .ceHold, .degCnt, .degraded, .triads, .resv, .chart, .fio, .pulses, .pulseOvf, .xings, .quiet, .prl] s t) ∧
  (∀ (q : Fin 128) (o : QOp) (d : List Byte) (g : Nat) (e : Entry) (c : Nat) (s : State), Runs s 6 → onF s CHT_CTRL_EN = true → s.fio.pubs = [] → s.chart.jobs = [] → currentOpc s (0x600 + q.val) 2 = some o → o.epoch = getF s (QEPOCH_EPOCH (0x600 + q.val)) → o.started = false → o.n = 1 → opDescs s o = [d] → dByte d 0 = 2 → leAt d 4 4 = g → 0 < g → g < 2 ^ 25 → entryOf s g = some e → judge s e (.publish c) false = .write → e.watch = false → onF s MEM_INJ_ARM = false → Uncached s (32 * sigCw g) → queueCode s (0x600 + q.val) = some c → 
    Completes (.pubsub q) s fun t =>
      memRaw t (32 * sigCw g) 32 = entBytes (updated e ((d.drop 8).take 16) (ts64 s) 0x05 c)
        ∧ MemOutside (32 * sigCw g) 32 s t
        ∧ (t.qops = s.qops.map fun y => if y.q = o.q ∧ y.idx = o.idx then { y with started := true, done := some { status := stOK, ts := ts96 s, res := 0xFF * 2 ^ 56 } } else y)
        ∧ Rest [.flds, .nfree, .out, .qops, .ifiles, .onceCycle, .waiting, .mem, .chk, .caches, .ceHold, .degCnt, .degraded, .triads, .resv, .chart, .fio, .pulses, .pulseOvf, .xings, .quiet, .prl] s t) ∧
  (∀ (q : Fin 128) (o : QOp) (d : List Byte) (g : Nat) (e : Entry) (c : Nat) (s : State), Runs s 6 → onF s CHT_CTRL_EN = true → s.fio.pubs = [] → s.chart.jobs = [] → currentOpc s (0x600 + q.val) 3 = some o → o.epoch = getF s (QEPOCH_EPOCH (0x600 + q.val)) → o.started = false → o.n = 1 → opDescs s o = [d] → dByte d 0 = 3 → leAt d 4 4 = g → 0 < g → g < 2 ^ 25 → entryOf s g = some e → judge s e (.publish c) false = .write → e.watch = false → onF s MEM_INJ_ARM = false → Uncached s (32 * sigCw g) → queueCode s (0x600 + q.val) = some c → 
    Completes (.publim q) s fun t =>
      memRaw t (32 * sigCw g) 32 = entBytes (updated e ((d.drop 8).take 16) (ts64 s) 0x21 c)
        ∧ MemOutside (32 * sigCw g) 32 s t
        ∧ (t.qops = s.qops.map fun y => if y.q = o.q ∧ y.idx = o.idx then { y with started := true, done := some { status := stOK, ts := ts96 s, res := 0xFF * 2 ^ 56 } } else y)
        ∧ Rest [.flds, .nfree, .out, .qops, .ifiles, .onceCycle, .waiting, .mem, .chk, .caches, .ceHold, .degCnt, .degraded, .triads, .resv, .chart, .fio, .pulses, .pulseOvf, .xings, .quiet, .prl] s t) ∧
  (∀ (q : Fin 128) (o : QOp) (d : List Byte) (g : Nat) (e : Entry) (c : Nat) (s : State), Runs s 6 → onF s CHT_CTRL_EN = true → s.fio.pubs = [] → s.chart.jobs = [] → currentOpc s (0x600 + q.val) 4 = some o → o.epoch = getF s (QEPOCH_EPOCH (0x600 + q.val)) → o.started = false → o.n = 1 → opDescs s o = [d] → dByte d 0 = 4 → leAt d 4 4 = g → 0 < g → g < 2 ^ 25 → entryOf s g = some e → judge s e (.publish c) false = .write → e.watch = false → onF s MEM_INJ_ARM = false → Uncached s (32 * sigCw g) → queueCode s (0x600 + q.val) = some c → 
    Completes (.inval q) s fun t =>
      memRaw t (32 * sigCw g) 32 = entBytes (updated e e.value (ts64 s) 0x00 c)
        ∧ MemOutside (32 * sigCw g) 32 s t
        ∧ (t.qops = s.qops.map fun y => if y.q = o.q ∧ y.idx = o.idx then { y with started := true, done := some { status := stOK, ts := ts96 s, res := 0xFF * 2 ^ 56 } } else y)
        ∧ Rest [.flds, .nfree, .out, .qops, .ifiles, .onceCycle, .waiting, .mem, .chk, .caches, .ceHold, .degCnt, .degraded, .triads, .resv, .chart, .fio, .pulses, .pulseOvf, .xings, .quiet, .prl] s t) ∧
  (∀ (q : Fin 128) (s : State), Runs s 6 → onF s CHT_CTRL_EN = false → s.fio.pubs = [] → s.chart.jobs = [] → 
    Completes (.pub q) s fun t =>
      Frame [] [] s t)

/-- Forces, configuration, bulk values, snapshots and maps. FORCE of an entry that is not vital-owned writes the descriptor's value with quality 0x09 and sets FRZ; UNFORCE clears FRZ with quality 0x00 and keeps the value; CFG writes the whole entry; PUBBULK of aligned codewords copies the data into the entry's area; SNAP copies entries into an aligned buffer; MAPSET of one descriptor holds a map that passes its checks until it takes effect, and ends with status and RESULT of the check where it fails; MAP_TAKE_EFFECT takes the maps that wait longest. -/
def Obligations.ChartDescriptors : Prop :=
  (∀ (q : Fin 128) (o : QOp) (d : List Byte) (g : Nat) (e : Entry) (s : State), Runs s 6 → onF s CHT_CTRL_EN = true → s.fio.pubs = [] → s.chart.jobs = [] → currentOpc s (0x600 + q.val) 6 = some o → o.epoch = getF s (QEPOCH_EPOCH (0x600 + q.val)) → o.started = false → o.n = 1 → opDescs s o = [d] → dByte d 0 = 6 → leAt d 4 4 = g → 0 < g → g < 2 ^ 25 → entryOf s g = some e → judge s e .force false = .write → e.watch = false → onF s MEM_INJ_ARM = false → Uncached s (32 * sigCw g) → e.vown = false → 
    Completes (.force q) s fun t =>
      memRaw t (32 * sigCw g) 32 = entBytes { updated e ((d.drop 8).take 16) (ts64 s) 9 e.source with flags := putBit e.flags 5 true }
        ∧ MemOutside (32 * sigCw g) 32 s t
        ∧ (t.qops = s.qops.map fun y => if y.q = o.q ∧ y.idx = o.idx then { y with started := true, done := some { status := stOK, ts := ts96 s, res := 0xFF * 2 ^ 56 } } else y)
        ∧ Rest [.flds, .nfree, .out, .qops, .ifiles, .onceCycle, .waiting, .mem, .chk, .caches, .ceHold, .degCnt, .degraded, .triads, .resv, .chart, .fio, .pulses, .pulseOvf, .xings, .quiet, .prl] s t) ∧
  (∀ (q : Fin 128) (o : QOp) (d : List Byte) (g : Nat) (e : Entry) (s : State), Runs s 6 → onF s CHT_CTRL_EN = true → s.fio.pubs = [] → s.chart.jobs = [] → currentOpc s (0x600 + q.val) 7 = some o → o.epoch = getF s (QEPOCH_EPOCH (0x600 + q.val)) → o.started = false → o.n = 1 → opDescs s o = [d] → dByte d 0 = 7 → leAt d 4 4 = g → 0 < g → g < 2 ^ 25 → entryOf s g = some e → judge s e .force false = .write → e.watch = false → onF s MEM_INJ_ARM = false → Uncached s (32 * sigCw g) → e.vown = false → 
    Completes (.unforce q) s fun t =>
      memRaw t (32 * sigCw g) 32 = entBytes { updated e e.value (ts64 s) 0 e.source with flags := putBit e.flags 5 false }
        ∧ MemOutside (32 * sigCw g) 32 s t
        ∧ (t.qops = s.qops.map fun y => if y.q = o.q ∧ y.idx = o.idx then { y with started := true, done := some { status := stOK, ts := ts96 s, res := 0xFF * 2 ^ 56 } } else y)
        ∧ Rest [.flds, .nfree, .out, .qops, .ifiles, .onceCycle, .waiting, .mem, .chk, .caches, .ceHold, .degCnt, .degraded, .triads, .resv, .chart, .fio, .pulses, .pulseOvf, .xings, .quiet, .prl] s t) ∧
  (∀ (q : Fin 128) (o : QOp) (d : List Byte) (g : Nat) (e : Entry) (s : State), Runs s 6 → onF s CHT_CTRL_EN = true → s.fio.pubs = [] → s.chart.jobs = [] → currentOpc s (0x600 + q.val) 5 = some o → o.epoch = getF s (QEPOCH_EPOCH (0x600 + q.val)) → o.started = false → o.n = 1 → opDescs s o = [d] → dByte d 0 = 5 → leAt d 4 4 = g → 0 < g → g < 2 ^ 25 → entryOf s g = some e → e.watch = false → onF s MEM_INJ_ARM = false → Uncached s (32 * sigCw g) → leAt d 9 1 < 64 → leAt d 14 2 = 0 → leAt d 8 1 % 16 ≠ 6 → bit (leAt d 9 1) 2 = false → e.vown = false → 
    Completes (.cfg q) s fun t =>
      memRaw t (32 * sigCw g) 32 = entBytes { value := (d.drop 16).take 8 ++ List.replicate 8 0, ts := 0, qual := 0, type := leAt d 8 1, flags := leAt d 9 1, seq := 0, source := leAt d 10 2, limit := leAt d 12 2 }
        ∧ MemOutside (32 * sigCw g) 32 s t
        ∧ (t.qops = s.qops.map fun y => if y.q = o.q ∧ y.idx = o.idx then { y with started := true, done := some { status := stOK, ts := ts96 s, res := 0xFF * 2 ^ 56 } } else y)
        ∧ Rest [.flds, .nfree, .out, .qops, .ifiles, .onceCycle, .waiting, .mem, .chk, .caches, .ceHold, .degCnt, .degraded, .triads, .resv, .chart, .fio, .pulses, .pulseOvf, .xings, .quiet, .prl] s t) ∧
  (∀ (q : Fin 128) (o : QOp) (d : List Byte) (g : Nat) (e : Entry) (c : Nat) (x : List Byte) (s : State), Runs s 6 → onF s CHT_CTRL_EN = true → s.fio.pubs = [] → s.chart.jobs = [] → currentOpc s (0x600 + q.val) 9 = some o → o.epoch = getF s (QEPOCH_EPOCH (0x600 + q.val)) → o.started = false → o.n = 1 → opDescs s o = [d] → dByte d 0 = 9 → leAt d 4 4 = g → 0 < g → g < 2 ^ 25 → entryOf s g = some e → judge s e (.publish c) false = .write → e.watch = false → onF s MEM_INJ_ARM = false → Uncached s (32 * sigCw g) → queueCode s (0x600 + q.val) = some c → UncachedIn s e.area e.areaLen → e.bulk = true → areaShared s g e = false → e.area % 32 = 0 → e.areaLen % 32 = 0 → dramOffChart e.area e.areaLen = true → engineMay s (0x600 + q.val) (dAddr d 8) e.areaLen false = true → regionMay s (0x600 + q.val) e.area e.areaLen true = true → readMem s (dAddr d 8) e.areaLen = some x → 
    Completes (.pubbulk q) s fun t =>
      memRaw t e.area e.areaLen = x
        ∧ (t.qops = s.qops.map fun y => if y.q = o.q ∧ y.idx = o.idx then { y with started := true, done := some { status := stOK, ts := ts96 s, res := 0xFF * 2 ^ 56 } } else y)
        ∧ Rest [.flds, .nfree, .out, .qops, .ifiles, .onceCycle, .waiting, .mem, .chk, .caches, .ceHold, .degCnt, .degraded, .triads, .resv, .chart, .fio, .pulses, .pulseOvf, .xings, .quiet, .prl] s t) ∧
  (∀ (q : Fin 128) (o : QOp) (d : List Byte) (g n : Nat) (x : List Byte) (s : State), Runs s 6 → onF s CHT_CTRL_EN = true → s.fio.pubs = [] → s.chart.jobs = [] → currentOpc s (0x600 + q.val) 10 = some o → o.epoch = getF s (QEPOCH_EPOCH (0x600 + q.val)) → UncachedIn s (dAddr d 8) (32 * n) → o.started = false → o.n = 1 → opDescs s o = [d] → dByte d 0 = 10 → leAt d 4 4 = g → 0 < g → leAt d 16 4 = n → 1 ≤ n → n ≤ 4096 → g + n ≤ 2 ^ 25 → dAddr d 8 % 32 = 0 → engineMay s (0x600 + q.val) (dAddr d 8) (32 * n) true = true → readMem s (32 * sigCw g) (32 * n) = some x → onF s MEM_INJ_ARM = false → 
    Completes (.snap q) s fun t =>
      memRaw t (dAddr d 8) (32 * n) = x
        ∧ (t.qops = s.qops.map fun y => if y.q = o.q ∧ y.idx = o.idx then { y with started := true, done := some { status := stOK, ts := ts96 s, res := 0xFF * 2 ^ 56 } } else y)
        ∧ Rest [.flds, .nfree, .out, .qops, .ifiles, .onceCycle, .waiting, .mem, .chk, .caches, .ceHold, .degCnt, .degraded, .triads, .resv, .chart, .fio, .pulses, .pulseOvf, .xings, .quiet, .prl] s t) ∧
  (∀ (q : Fin 128) (o : QOp) (d : List Byte) (m : Nat) (s : State), Runs s 6 → onF s CHT_CTRL_EN = true → s.fio.pubs = [] → s.chart.jobs = [] → currentOpc s (0x600 + q.val) 8 = some o → o.epoch = getF s (QEPOCH_EPOCH (0x600 + q.val)) → o.started = false → opDescs s o = [d] → dByte d 0 = 8 → leAt d 4 2 = m → checkMap s (listMay s (0x600 + q.val)) [] m ((d.drop 8).take 16) = none → 
    Completes (.mapset q) s fun t =>
      t.chart = { s.chart with pendMaps := s.chart.pendMaps ++ [⟨0x600 + q.val, o.idx, stOK, 0, [(m, ((d.drop 8).take 16))]⟩] }
        ∧ (t.qops = s.qops.map fun y => if y.q = o.q ∧ y.idx = o.idx then { y with started := true } else y)
        ∧ Rest [.flds, .nfree, .out, .qops, .ifiles, .onceCycle, .waiting, .mem, .chk, .caches, .ceHold, .degCnt, .degraded, .triads, .resv, .chart, .fio, .pulses, .pulseOvf, .xings, .quiet, .prl] s t) ∧
  (∀ (q : Fin 128) (o : QOp) (d : List Byte) (m c x : Nat) (s : State), Runs s 6 → onF s CHT_CTRL_EN = true → s.fio.pubs = [] → s.chart.jobs = [] → currentOpc s (0x600 + q.val) 8 = some o → o.epoch = getF s (QEPOCH_EPOCH (0x600 + q.val)) → o.started = false → opDescs s o = [d] → dByte d 0 = 8 → leAt d 4 2 = m → checkMap s (listMay s (0x600 + q.val)) [] m ((d.drop 8).take 16) = some (c, x) → 
    Completes (.mapset q) s fun t =>
      (t.qops = s.qops.map fun y => if y.q = o.q ∧ y.idx = o.idx then { y with started := true, done := some { status := c, res := x } } else y)
        ∧ t.chart = s.chart
        ∧ Rest [.flds, .nfree, .out, .qops, .ifiles, .onceCycle, .waiting, .mem, .chk, .caches, .ceHold, .degCnt, .degraded, .triads, .resv, .chart, .fio, .pulses, .pulseOvf, .xings, .quiet, .prl] s t) ∧
  (∀ (w : MapWait) (r : List MapWait) (s : State), Runs s 6 → s.chart.pendMaps = w :: r → mapDir s ≠ none → 
    Completes (.mapTakeEffect) s fun t =>
      t.chart.pendMaps = r
        ∧ getF t CHT_STAT_PINMAPS = (pinsWith s w.maps).1 % 2 ^ CHT_STAT_PINMAPS.w
        ∧ getF t CHT_STAT_PINELEM = (pinsWith s w.maps).2 % 2 ^ CHT_STAT_PINELEM.w
        ∧ Rest [.flds, .nfree, .qops, .waiting, .mem, .chk, .caches, .ceHold, .degCnt, .degraded, .triads, .resv, .chart, .pulses, .pulseOvf] s t) ∧
  (∀ (s : State), Runs s 6 → s.chart.pendMaps = [] → 
    Completes (.mapTakeEffect) s fun t =>
      Frame [] [] s t)

/-- Frames are unpacked and stale entries found. UNPACK_FRAME takes the oldest waiting frame: through a pinned map of one plain element whose write R230 accepts it writes the value from the payload with the frame's TS and code, and touches no other codeword; without a map NOMAP counts; with no frame it takes the oldest mirror message, whose one record is written with MIRRORED set; with neither nothing happens. SWEEP_PASS marks a listed entry that is older than its LIMIT as STALE; of an empty list it counts a pass, and late also LATE. -/
def Obligations.UnpackAndSweep : Prop :=
  (∀ (j : Job) (s : State), Runs s 6 → onF s CHT_CTRL_EN = true → s.fio.pubs = [] → ((s.chart.jobs.find? fun y => y.mirror.isNone) = some j) → lookupMap s j.map = none → 
    Completes (.unpackFrame) s fun t =>
      t.chart.jobs = s.chart.jobs.erase j
        ∧ getF t (CHT_CNT0_NOMAP) = min (getF s (CHT_CNT0_NOMAP) + 1) (2 ^ (CHT_CNT0_NOMAP).w - 1)
        ∧ Rest [.flds, .nfree, .out, .ifiles, .onceCycle, .waiting, .mem, .chk, .caches, .ceHold, .degCnt, .degraded, .triads, .resv, .chart, .fio, .pulses, .pulseOvf, .xings, .quiet, .prl] s t) ∧
  (∀ (j : Job) (md : MapDir) (el : Elem) (e : Entry) (s : State), Runs s 6 → onF s CHT_CTRL_EN = true → s.fio.pubs = [] → ((s.chart.jobs.find? fun y => y.mirror.isNone) = some j) → (s.chart.pins.any (fun p => p.1 == j.map) = true) → lookupMap s j.map = some (md, [el]) → md.dir = 1 → elemReason 2048 el = none → el.ekind = 0 → el.k0 + el.width ≤ 8 * j.payload.length → jobOld s j = false → entryOf s el.sig = some e → judge s e (.input j.code) false = .write → e.watch = false → onF s MEM_INJ_ARM = false → Uncached s (32 * sigCw el.sig) → 
    Completes (.unpackFrame) s fun t =>
      t.chart.jobs = s.chart.jobs.erase j
        ∧ memRaw t (32 * sigCw el.sig) 32 = entBytes (updated e (plainValue el j.payload) j.ts 1 j.code)
        ∧ MemOutside (32 * sigCw el.sig) 32 s t
        ∧ getF t (CHT_CNT0_WRITES) = min (getF s (CHT_CNT0_WRITES) + 1) (2 ^ (CHT_CNT0_WRITES).w - 1)
        ∧ Rest [.flds, .nfree, .out, .ifiles, .onceCycle, .waiting, .mem, .chk, .caches, .ceHold, .degCnt, .degraded, .triads, .resv, .chart, .fio, .pulses, .pulseOvf, .xings, .quiet, .prl] s t) ∧
  (∀ (j : Job) (r : List Job) (ep : Nat) (e n : Entry) (s : State), Runs s 6 → onF s CHT_CTRL_EN = true → s.fio.pubs = [] → s.chart.jobs = j :: r → ((s.chart.jobs.find? fun y => y.mirror.isNone) = none) → j.mirror = some ep → epochRel ep (getF s PRL_PSTAT_PEPOCH) ≠ .old → j.payload.length = 40 → leAt j.payload 0 4 % 2 ^ 25 ≠ 0 → n = parseEnt (j.payload.drop 8) → entryOf s (leAt j.payload 0 4 % 2 ^ 25) = some e → e.frz = false → e.watch = false → onF s MEM_INJ_ARM = false → Uncached s (32 * sigCw (leAt j.payload 0 4 % 2 ^ 25)) → 
    Completes (.unpackFrame) s fun t =>
      t.chart.jobs = s.chart.jobs.erase j
        ∧ (memRaw t (32 * sigCw (leAt j.payload 0 4 % 2 ^ 25)) 32 = entBytes { e with value := if e.bulk then e.value else n.value, ts := n.ts, qual := putBit n.qual 4 true, seq := n.seq, source := n.source })
        ∧ MemOutside (32 * sigCw (leAt j.payload 0 4 % 2 ^ 25)) 32 s t
        ∧ Rest [.flds, .nfree, .out, .ifiles, .onceCycle, .waiting, .mem, .chk, .caches, .ceHold, .degCnt, .degraded, .triads, .resv, .chart, .fio, .pulses, .pulseOvf, .xings, .quiet, .prl] s t) ∧
  (∀ (s : State), Runs s 6 → s.fio.pubs = [] → s.chart.jobs = [] → 
    Completes (.unpackFrame) s fun t =>
      Frame [] [] s t) ∧
  (∀ (g : Nat) (e : Entry) (s : State), Runs s 6 → onF s CHT_CTRL_EN = true → s.fio.pubs = [] → s.chart.jobs = [] → (∀ o ∈ s.qops, o.q / 128 = 12 → o.started = true ∨ o.done.isSome = true) → onL s CHT_CTRL_SWEEPEN = true → watchedList s = [g] → 0 < g → entryOf s g = some e → e.watch = true → e.frz = false → e.mirror = false → e.mirrored = false → 0 < e.limit → e.valid = true → e.stale = false → e.limit * 100000 < ageNs e.ts (ts64 s) → onF s MEM_INJ_ARM = false → Uncached s (32 * sigCw g) → 
    Completes (.sweepPass false) s fun t =>
      memRaw t (32 * sigCw g) 32 = entBytes { e with qual := putBit e.qual 6 true }
        ∧ getF t CHT_SWEEP_PASSES = (getF s CHT_SWEEP_PASSES + 1) % 2 ^ CHT_SWEEP_PASSES.w
        ∧ Rest [.flds, .nfree, .out, .qops, .ifiles, .onceCycle, .waiting, .mem, .chk, .caches, .ceHold, .degCnt, .degraded, .triads, .resv, .chart, .fio, .pulses, .pulseOvf, .xings, .quiet, .prl] s t) ∧
  (∀ (s : State), Runs s 6 → onF s CHT_CTRL_EN = true → s.fio.pubs = [] → s.chart.jobs = [] → (∀ o ∈ s.qops, o.q / 128 = 12 → o.started = true ∨ o.done.isSome = true) → onL s CHT_CTRL_SWEEPEN = true → liveF s CHT_WATCHCNT_COUNT = 0 → 
    Completes (.sweepPass false) s fun t =>
      getF t CHT_SWEEP_PASSES = (getF s CHT_SWEEP_PASSES + 1) % 2 ^ CHT_SWEEP_PASSES.w
        ∧ Frame [CHT_SWEEP_PASSES] [] s t) ∧
  (∀ (s : State), Runs s 6 → onF s CHT_CTRL_EN = true → s.fio.pubs = [] → s.chart.jobs = [] → (∀ o ∈ s.qops, o.q / 128 = 12 → o.started = true ∨ o.done.isSome = true) → onL s CHT_CTRL_SWEEPEN = true → liveF s CHT_WATCHCNT_COUNT = 0 → 
    Completes (.sweepPass true) s fun t =>
      getF t (CHT_SWEEP_LATE) = min (getF s (CHT_SWEEP_LATE) + 1) (2 ^ (CHT_SWEEP_LATE).w - 1)
        ∧ onF t CHT_EVT_SWEEPLATE = true
        ∧ Frame ([CHT_SWEEP_PASSES, CHT_SWEEP_LATE, CHT_EVT_SWEEPLATE] ++ msiFields) [.onceCycle, .ifiles, .waiting, .xings, .quiet] s t) ∧
  (∀ (late : Bool) (s : State), Runs s 6 → s.fio.pubs = [] → s.chart.jobs = [] → (∀ o ∈ s.qops, o.q / 128 = 12 → o.started = true ∨ o.done.isSome = true) → onF s CHT_CTRL_EN = false → 
    Completes (.sweepPass late) s fun t =>
      Frame [] [] s t)

/-- CAN channels are enabled, integrate, fail and recover. CAN_ENABLE of a channel that is off enters INTEGRATING where its bit timing passes R285, and otherwise sets BTERR; CAN_BUS_INTEGRATED enters ACTIVE; BUS_OFF of an enabled channel enters BUSOFF, or with BOAUTO 1 RECOVER, counts it and empties the FIFO; CAN_RECOVER of a channel in BUSOFF enters RECOVER; RECOVER_DONE enters ACTIVE with cleared error counters; DOMINANT_TIMEOUT enters BUSOFF; CAN_DISABLE of a channel without a queued frame returns it to OFF, and a frame that is being sent is finished first; each leaves a channel in another state, and every other channel, as it was. -/
def Obligations.CanStates : Prop :=
  (∀ (r : Req) (n : Fin 6) (s : State), Ready s 9 → onF s (MDB_CCTRL_EN n) = false → (canCh s n).closing = false → timingOk s n = true → getF s (MDB_CSTAT_STATE n) = 0 → 
    Completes (.canEnable r n) s fun t =>
      onF t (MDB_CCTRL_EN n) = true
        ∧ getF t (MDB_CSTAT_STATE n) = 1
        ∧ bitF t MDB_STAT_EN n = true
        ∧ onF t (MDB_EVT_STCHG n) = true
        ∧ Frame ([MDB_CCTRL_EN n, MDB_STAT_EN, MDB_CSTAT_STATE n, MDB_STAT_BUSOFF, MDB_EVT_STCHG n] ++ msiFields) [.ifiles, .waiting, .xings, .quiet] s t) ∧
  (∀ (r : Req) (n : Fin 6) (s : State), Ready s 9 → onF s (MDB_CCTRL_EN n) = false → (canCh s n).closing = false → timingOk s n = false → 
    Completes (.canEnable r n) s fun t =>
      onF t (MDB_EVT_BTERR n) = true
        ∧ Frame (MDB_EVT_BTERR n :: msiFields) [.ifiles, .waiting, .xings, .quiet] s t) ∧
  (∀ (n : Fin 6) (s : State), Runs s 9 → getF s (MDB_CSTAT_STATE n) = 1 → 
    Completes (.canBusIntegrated n) s fun t =>
      getF t (MDB_CSTAT_STATE n) = 2
        ∧ onF t (MDB_EVT_STCHG n) = true
        ∧ Frame ([MDB_CSTAT_STATE n, MDB_STAT_BUSOFF, MDB_EVT_STCHG n] ++ msiFields) [.ifiles, .waiting, .xings, .quiet] s t) ∧
  (∀ (n : Fin 6) (s : State), Runs s 9 → getF s (MDB_CSTAT_STATE n) ≠ 1 → 
    Completes (.canBusIntegrated n) s fun t =>
      Frame [] [] s t) ∧
  (∀ (n : Fin 6) (s : State), Runs s 9 → s.can.length = 6 → onF s (MDB_CCTRL_EN n) = true → getF s (MDB_CSTAT_STATE n) < 4 → (canCh s n).fifo = [] → onF s (MDB_CCTRL_BOAUTO n) = false → 
    Completes (.busOff n) s fun t =>
      getF t (MDB_CSTAT_STATE n) = 4
        ∧ getF t (MDB_CNT1_BOCNT n) = min (getF s (MDB_CNT1_BOCNT n) + 1) (2 ^ (MDB_CNT1_BOCNT n).w - 1)
        ∧ onF t (MDB_EVT_BUSOFF n) = true
        ∧ canCh t n = { canCh s n with sending := false }
        ∧ (∀ u : Fin 6, u ≠ n → canCh t u = canCh s u)
        ∧ Frame ([MDB_CSTAT_STATE n, MDB_STAT_BUSOFF, MDB_EVT_STCHG n, MDB_EVT_BUSOFF n, MDB_CNT1_BOCNT n, MDB_CSTAT_FIFO n] ++ msiFields) [.can, .ifiles, .waiting, .xings, .quiet] s t) ∧
  (∀ (r : Req) (n : Fin 6) (s : State), Ready s 9 → getF s (MDB_CSTAT_STATE n) = 4 → 
    Completes (.canRecover r n) s fun t =>
      getF t (MDB_CSTAT_STATE n) = 5
        ∧ onF t (MDB_EVT_STCHG n) = true
        ∧ Frame ([MDB_CSTAT_STATE n, MDB_STAT_BUSOFF, MDB_EVT_STCHG n] ++ msiFields) [.ifiles, .waiting, .xings, .quiet] s t) ∧
  (∀ (r : Req) (n : Fin 6) (s : State), Ready s 9 → getF s (MDB_CSTAT_STATE n) ≠ 4 → 
    Completes (.canRecover r n) s fun t =>
      Frame [] [.quiet] s t) ∧
  (∀ (n : Fin 6) (s : State), Runs s 9 → getF s (MDB_CSTAT_STATE n) = 5 → 
    Completes (.recoverDone n) s fun t =>
      getF t (MDB_CSTAT_STATE n) = 2
        ∧ getF t (MDB_CSTAT_TEC n) = 0
        ∧ getF t (MDB_CSTAT_REC n) = 0
        ∧ Frame ([MDB_CSTAT_STATE n, MDB_STAT_BUSOFF, MDB_EVT_STCHG n, MDB_CSTAT_TEC n, MDB_CSTAT_REC n] ++ msiFields) [.ifiles, .waiting, .xings, .quiet] s t) ∧
  (∀ (n : Fin 6) (s : State), Runs s 9 → s.can.length = 6 → onF s (MDB_CCTRL_EN n) = true → getF s (MDB_CSTAT_STATE n) < 4 → (canCh s n).fifo = [] → onF s (MDB_CCTRL_BOAUTO n) = false → 
    Completes (.dominantTimeout n) s fun t =>
      getF t (MDB_CSTAT_STATE n) = 4
        ∧ onF t (MDB_EVT_TDTO n) = true
        ∧ (∀ u : Fin 6, u ≠ n → canCh t u = canCh s u)
        ∧ Frame ([MDB_CSTAT_STATE n, MDB_STAT_BUSOFF, MDB_EVT_STCHG n, MDB_EVT_BUSOFF n, MDB_EVT_TDTO n, MDB_CNT1_BOCNT n, MDB_CSTAT_FIFO n] ++ msiFields) [.can, .ifiles, .waiting, .xings, .quiet] s t) ∧
  (∀ (n : Fin 6) (s : State), Runs s 9 → s.can.length = 6 → onF s (MDB_CCTRL_EN n) = true → getF s (MDB_CSTAT_STATE n) < 4 → 
    Completes (.busOff n) s fun t =>
      (getF t (MDB_CSTAT_STATE n) = if onF s (MDB_CCTRL_BOAUTO n) = true then 5 else 4)
        ∧ getF t (MDB_CNT1_BOCNT n) = min (getF s (MDB_CNT1_BOCNT n) + 1) (2 ^ (MDB_CNT1_BOCNT n).w - 1)
        ∧ (canCh t n).fifo = []
        ∧ (canCh t n).sending = false
        ∧ Rest [.flds, .qops, .ifiles, .waiting, .can, .xings, .quiet] s t) ∧
  (∀ (n : Fin 6) (s : State), Runs s 9 → getF s (MDB_CSTAT_STATE n) ≠ 5 → 
    Completes (.recoverDone n) s fun t =>
      Frame [] [] s t) ∧
  (∀ (n : Fin 6) (s : State), Runs s 9 → (onF s (MDB_CCTRL_EN n) = false ∨ 4 ≤ getF s (MDB_CSTAT_STATE n)) → 
    Completes (.busOff n) s fun t =>
      Frame [] [] s t) ∧
  (∀ (n : Fin 6) (s : State), Runs s 9 → onF s (MDB_CCTRL_EN n) = false → 
    Completes (.dominantTimeout n) s fun t =>
      Frame [] [] s t) ∧
  (∀ (r : Req) (n : Fin 6) (s : State), Ready s 9 → s.can.length = 6 → onF s (MDB_CCTRL_EN n) = true → (canCh s n).fifo = [] → 
    Completes (.canDisable r n) s fun t =>
      onF t (MDB_CCTRL_EN n) = false
        ∧ getF t (MDB_CSTAT_STATE n) = 0
        ∧ bitF t MDB_STAT_EN n = false
        ∧ (∀ u : Fin 6, u ≠ n → canCh t u = canCh s u)
        ∧ Frame ([MDB_CCTRL_EN n, MDB_STAT_EN, MDB_CSTAT_FIFO n, MDB_CSTAT_STATE n, MDB_STAT_BUSOFF, MDB_EVT_STCHG n] ++ msiFields) [.can, .ifiles, .waiting, .xings, .quiet] s t) ∧
  (∀ (r : Req) (n : Fin 6) (f : CanTx) (s : State), Ready s 9 → s.can.length = 6 → onF s (MDB_CCTRL_EN n) = true → (canCh s n).sending = true → (canCh s n).fifo = [f] → 
    Completes (.canDisable r n) s fun t =>
      onF t (MDB_CCTRL_EN n) = false
        ∧ getF t (MDB_CSTAT_STATE n) = getF s (MDB_CSTAT_STATE n)
        ∧ canCh t n = { canCh s n with closing := true }
        ∧ (∀ u : Fin 6, u ≠ n → canCh t u = canCh s u)
        ∧ Frame [MDB_CCTRL_EN n, MDB_STAT_EN, MDB_CSTAT_FIFO n] [.can, .quiet] s t) ∧
  (∀ (r : Req) (n : Fin 6) (s : State), Ready s 9 → onF s (MDB_CCTRL_EN n) = false → 
    Completes (.canDisable r n) s fun t =>
      Frame [] [.quiet] s t)

/-- CAN frames are queued, sent, retried and cancelled. CAN_TXFRM of one descriptor that passes its checks appends its frame to the FIFO, and one whose cancel is latched ends with CANCELLED; ARBITRATION_START offers the head and counts its attempt; ATTEMPT_END with success of a frame without a descriptor sends it once and counts TXOK, and with a lost arbitration below the retry limit keeps it and counts ARBLOST; CAN_CANCEL without a target ends with NOTFOUND, and with one latches the cancel; without a descriptor the two take nothing. -/
def Obligations.CanTransmits : Prop :=
  (∀ (n : Fin 6) (o : QOp) (f : CanTx) (s : State), Runs s 9 → s.can.length = 6 → freshOpc s (0x800 + n.val) 1 = some o → o.epoch = getF s (QEPOCH_EPOCH (0x800 + n.val)) → o.n = 1 → (((canCh s n).cancels.any fun x => x.2 == (o.idx + o.n - 1) % 65536) = false) → ((match checkChain s n 0 (opDescs s o) [] with | .ok l => l == [f] | .error _ => false) = true) → (canCh s n).fifo.length < 64 → 
    Completes (.canTxfrm n) s fun t =>
      canCh t n = { canCh s n with fifo := (canCh s n).fifo ++ [{ f with op := some o.idx, pos := 0, chain := false, final := true }] }
        ∧ (∀ u : Fin 6, u ≠ n → canCh t u = canCh s u)
        ∧ (t.qops = s.qops.map fun y => if y.q = o.q ∧ y.idx = o.idx then { y with started := true } else y)
        ∧ Rest [.flds, .nfree, .qops, .onceCycle, .waiting, .mem, .chk, .caches, .ceHold, .degCnt, .degraded, .can, .pulses, .pulseOvf] s t) ∧
  (∀ (n : Fin 6) (o : QOp) (s : State), Runs s 9 → freshOpc s (0x800 + n.val) 1 = some o → o.epoch = getF s (QEPOCH_EPOCH (0x800 + n.val)) → (((canCh s n).cancels.any fun x => x.2 == (o.idx + o.n - 1) % 65536) = true) → 
    Completes (.canTxfrm n) s fun t =>
      (t.qops = s.qops.map fun y => if y.q = o.q ∧ y.idx = o.idx then { y with started := true, done := some { status := stCANCELLED, res := txResult 0 0 0 0xFF, ts := 0 } } else y)
        ∧ Frame [] [.qops] s t) ∧
  (∀ (n : Fin 6) (s : State), Runs s 9 → freshOpc s (0x800 + n.val) 1 = none → 
    Completes (.canTxfrm n) s fun t =>
      Frame [] [] s t) ∧
  (∀ (n : Fin 6) (sof : Nat) (f : CanTx) (r : List CanTx) (s : State), Runs s 9 → s.can.length = 6 → (canCh s n).sending = false → (canCh s n).fifo = f :: r → (canCh s n).fifo.filter (·.cancel) = [] → canSends s n = true → (getF s (MDB_CSTAT_STATE n) = 2 ∨ getF s (MDB_CSTAT_STATE n) = 3) → 
    Completes (.arbitrationStart n sof) s fun t =>
      canCh t n = { canCh s n with sending := true, fifo := { f with attempts := f.attempts + 1, ts := tsSof s sof } :: r }
        ∧ (∀ u : Fin 6, u ≠ n → canCh t u = canCh s u)
        ∧ Frame [MDB_CSTAT_FIFO n] [.can] s t) ∧
  (∀ (n : Fin 6) (sof : Nat) (s : State), Runs s 9 → (canCh s n).sending = true → 
    Completes (.arbitrationStart n sof) s fun t =>
      Frame [] [] s t) ∧
  (∀ (n : Fin 6) (tec : Fin 512) (rcv : Fin 256) (f : CanTx) (r : List CanTx) (s : State), Runs s 9 → s.can.length = 6 → (canCh s n).sending = true → (canCh s n).fifo = f :: r → f.op = none → f.cancel = false → (canCh s n).closing = false → getF s (MDB_CCTRL_MODE n) ≠ 3 → getF s (MDB_CSTAT_STATE n) = 2 → tec.val < 128 → rcv.val < 128 → 
    Completes (.attemptEnd n .success tec rcv) s fun t =>
      t.out = .sent .can n (toLE 1 f.medium ++ sentRecord s n f ++ f.data) :: s.out
        ∧ getF t (MDB_CNT0_TXOK n) = min (getF s (MDB_CNT0_TXOK n) + 1) (2 ^ (MDB_CNT0_TXOK n).w - 1)
        ∧ canCh t n = { canCh s n with sending := false, fifo := r }
        ∧ getF t (MDB_CSTAT_TEC n) = tec
        ∧ (∀ u : Fin 6, u ≠ n → canCh t u = canCh s u)
        ∧ Frame [MDB_CNT0_TXOK n, MDB_CSTAT_FIFO n, MDB_CSTAT_TEC n, MDB_CSTAT_REC n] [.out, .can] s t) ∧
  (∀ (n : Fin 6) (tec : Fin 512) (rcv : Fin 256) (f : CanTx) (r : List CanTx) (s : State), Runs s 9 → s.can.length = 6 → (canCh s n).sending = true → (canCh s n).fifo = f :: r → (f.retry = 15 ∨ f.attempts < f.retry + 1) → (canCh s n).closing = false → getF s (MDB_CSTAT_STATE n) = 2 → tec.val < 128 → rcv.val < 128 → 
    Completes (.attemptEnd n .lost tec rcv) s fun t =>
      getF t (MDB_CNT1_ARBLOST n) = min (getF s (MDB_CNT1_ARBLOST n) + 1) (2 ^ (MDB_CNT1_ARBLOST n).w - 1)
        ∧ canCh t n = { canCh s n with sending := false, fifo := { f with lost := f.lost + 1 } :: r }
        ∧ (∀ u : Fin 6, u ≠ n → canCh t u = canCh s u)
        ∧ Frame [MDB_CNT1_ARBLOST n, MDB_CSTAT_FIFO n, MDB_CSTAT_TEC n, MDB_CSTAT_REC n] [.can] s t) ∧
  (∀ (n : Fin 6) (o : QOp) (s : State), Runs s 9 → freshOpc s (0x810 + n.val) 3 = some o → o.epoch = getF s (QEPOCH_EPOCH (0x810 + n.val)) → cancelFound s (0x800 + n.val) (leAt (opDesc s o) 4 2) = false → 
    Completes (.canCancel n) s fun t =>
      (t.qops = s.qops.map fun y => if y.q = o.q ∧ y.idx = o.idx then { y with started := true, done := some { status := stNOTFOUND, res := 0, ts := 0 } } else y)
        ∧ Frame [] [.qops] s t) ∧
  (∀ (n : Fin 6) (o : QOp) (s : State), Runs s 9 → s.can.length = 6 → freshOpc s (0x810 + n.val) 3 = some o → o.epoch = getF s (QEPOCH_EPOCH (0x810 + n.val)) → cancelFound s (0x800 + n.val) (leAt (opDesc s o) 4 2) = true → 
    Completes (.canCancel n) s fun t =>
      (canCh t n).cancels = (canCh s n).cancels ++ [(o.idx, leAt (opDesc s o) 4 2)]
        ∧ (canCh t n).fifo.length = (canCh s n).fifo.length
        ∧ (∀ u : Fin 6, u ≠ n → canCh t u = canCh s u)
        ∧ Frame [MDB_CSTAT_FIFO n] [.can, .qops] s t)

/-- CAN frames are filtered, and the high-priority buffer is popped. CAN_FRAME_RECEIVE of a classic frame in ACTIVE that no enabled filter takes counts RXOK and, with NOMATCH off, UNMATCH, and stores nothing, and in NORMAL and RESTRICTED mode is acknowledged; of a format that is not enabled counts FMTERR; that ends in an error counts ERRORS, shows LEC and is answered with an error flag where the mode has one; one that a high-priority filter takes enters the buffer and one that a RING filter takes fills the posted receive buffer; on a channel that is off nothing changes; HP_POP of a buffer that is not empty drops its oldest entry, and of an empty one nothing; CAN_RXBUF below the largest frame ends with BADLEN. -/
def Obligations.CanReceives : Prop :=
  (∀ (n : Fin 6) (sof : Nat) (record data : List Byte) (tec : Fin 512) (rcv : Fin 256) (s : State), Runs s 9 → onF s (MDB_CCTRL_EN n) = true → getF s (MDB_CSTAT_STATE n) = 2 → onF s (MDB_XBT_FAST n) = false → tec.val < 128 → rcv.val < 128 → (∀ k : Fin 8, onL s (MDB_HFLT_1_EN n k) = false) → (∀ k : Fin 128, onL s (MDB_FLT_1_EN n k) = false) → onL s (MDB_CCTRL_NOMATCH n) = false → 
    Completes (.canFrameReceive n sof 1 record data 0 tec rcv) s fun t =>
      getF t (MDB_CNT0_RXOK n) = min (getF s (MDB_CNT0_RXOK n) + 1) (2 ^ (MDB_CNT0_RXOK n).w - 1)
        ∧ getF t (MDB_CNT2_UNMATCH n) = min (getF s (MDB_CNT2_UNMATCH n) + 1) (2 ^ (MDB_CNT2_UNMATCH n).w - 1)
        ∧ getF t (MDB_CSTAT_TEC n) = tec
        ∧ getF t (MDB_CSTAT_REC n) = rcv
        ∧ (t.out = (if getF s (MDB_CCTRL_MODE n) = 0 ∨ getF s (MDB_CCTRL_MODE n) = 2 then [.signal .can n 1 0] else []) ++ s.out)
        ∧ Frame [MDB_CNT0_RXOK n, MDB_CNT2_UNMATCH n, MDB_CSTAT_TEC n, MDB_CSTAT_REC n] [.out] s t) ∧
  (∀ (n : Fin 6) (sof : Nat) (medium : Fin 4) (record data : List Byte) (tec : Fin 512) (rcv : Fin 256) (s : State), Runs s 9 → onF s (MDB_CCTRL_EN n) = true → getF s (MDB_CSTAT_STATE n) = 2 → medium ≠ 0 → mediumOk s n medium = false → tec.val < 128 → rcv.val < 128 → 
    Completes (.canFrameReceive n sof medium record data 0 tec rcv) s fun t =>
      getF t (MDB_CNT2_FMTERR n) = min (getF s (MDB_CNT2_FMTERR n) + 1) (2 ^ (MDB_CNT2_FMTERR n).w - 1)
        ∧ onF t (MDB_EVT_FMTERR n) = true
        ∧ getF t (MDB_CNT0_RXOK n) = getF s (MDB_CNT0_RXOK n)
        ∧ Frame ([MDB_CNT2_FMTERR n, MDB_EVT_FMTERR n, MDB_CSTAT_TEC n, MDB_CSTAT_REC n] ++ msiFields) [.ifiles, .waiting, .xings, .quiet] s t) ∧
  (∀ (n : Fin 6) (sof : Nat) (medium : Fin 4) (record data : List Byte) (lec : Fin 7) (tec : Fin 512) (rcv : Fin 256) (s : State), Runs s 9 → getF s (MDB_CSTAT_STATE n) = 0 → 
    Completes (.canFrameReceive n sof medium record data lec tec rcv) s fun t =>
      Frame [] [] s t) ∧
  (∀ (n : Fin 6) (sof : Nat) (medium : Fin 4) (record data : List Byte) (lec : Fin 7) (tec : Fin 512) (rcv : Fin 256) (s : State), Runs s 9 → onF s (MDB_CCTRL_EN n) = true → getF s (MDB_CSTAT_STATE n) = 2 → lec ≠ 0 → tec.val < 128 → rcv.val < 128 → 
    Completes (.canFrameReceive n sof medium record data lec tec rcv) s fun t =>
      getF t (MDB_CNT1_ERRORS n) = min (getF s (MDB_CNT1_ERRORS n) + 1) (2 ^ (MDB_CNT1_ERRORS n).w - 1)
        ∧ getF t (MDB_CSTAT_LEC n) = lec
        ∧ getF t (MDB_CSTAT_TEC n) = tec
        ∧ getF t (MDB_CSTAT_REC n) = rcv
        ∧ (t.out = (if getF s (MDB_CCTRL_MODE n) = 0 ∧ onF s (MDB_XBT_FAST n) = false then [.signal .can n 2 0] else []) ++ s.out)
        ∧ Frame [MDB_CNT1_ERRORS n, MDB_CSTAT_LEC n, MDB_CSTAT_TEC n, MDB_CSTAT_REC n] [.out] s t) ∧
  (∀ (n : Fin 6) (sof : Nat) (medium : Fin 4) (record data : List Byte) (tec : Fin 512) (rcv : Fin 256) (k : Nat) (f : RxFrame) (s : State), Runs s 9 → onF s (MDB_CCTRL_EN n) = true → getF s (MDB_CSTAT_STATE n) = 2 → medium ≠ 0 → mediumOk s n medium = true → tec.val < 128 → rcv.val < 128 → f = { ts := tsSof s sof, medium := medium.val, record := (record ++ List.replicate 12 0).take 12, data := data.take 2048 } → (((List.range 8).find? fun k => hpMatch s n k f) = some k) → onL s (MDB_HFLT_1_MAP n k) = false → onL s (MDB_HFLT_1_TUN n k) = false → getF s (MDB_HPSTAT_COUNT n) < 16 → 
    Completes (.canFrameReceive n sof medium record data 0 tec rcv) s fun t =>
      getF t (MDB_CNT0_RXOK n) = min (getF s (MDB_CNT0_RXOK n) + 1) (2 ^ (MDB_CNT0_RXOK n).w - 1)
        ∧ getF t (MDB_HPSTAT_COUNT n) = getF s (MDB_HPSTAT_COUNT n) + 1
        ∧ (∀ w : Fin 12, getF t (MDB_HPE_DATA n ((getF s (MDB_HPSTAT_HEAD n) + getF s (MDB_HPSTAT_COUNT n)) % 16) w) = leAt (hpBytes (128 + k) f) (8 * w) 8)
        ∧ Rest [.flds, .nfree, .out, .qops, .ifiles, .onceCycle, .waiting, .mem, .chk, .caches, .ceHold, .degCnt, .degraded, .triads, .resv, .chart, .bkb, .can, .pulses, .pulseOvf, .xings, .quiet] s t) ∧
  (∀ (n : Fin 6) (sof : Nat) (medium : Fin 4) (record data : List Byte) (tec : Fin 512) (rcv : Fin 256) (k : Nat) (f : RxFrame) (o : QOp) (s : State), Runs s 9 → onF s (MDB_CCTRL_EN n) = true → getF s (MDB_CSTAT_STATE n) = 2 → medium ≠ 0 → mediumOk s n medium = true → tec.val < 128 → rcv.val < 128 → f = { ts := tsSof s sof, medium := medium.val, record := (record ++ List.replicate 12 0).take 12, data := data.take 2048 } → (((List.range 8).find? fun k => hpMatch s n k f) = none) → (((List.range 128).find? fun k => rxMatch s n k f) = some k) → onL s (MDB_FLT_1_RING n k) = true → onL s (MDB_FLT_1_MAP n k) = false → onL s (MDB_FLT_1_TUN n k) = false → firstPosted s (0x808 + n) = some o → ((∀ y ∈ s.qops, y.q = 0x808 + n.val → y.epoch = getF s (QEPOCH_EPOCH (0x808 + n)))) → UncachedIn s (dAddr (opDesc s o) 8) 2060 → onF s MEM_INJ_ARM = false → o.n = 1 → engineMay s (0x808 + n) (dAddr (opDesc s o) 8) 32 true = true → buffersMeet s (0x808 + n) ((o.idx + o.pos) % 65536) (dAddr (opDesc s o) 8) 32 = false → dAddr (opDesc s o) 8 % 32 = 0 → 12 + data.length = 32 → 
    Completes (.canFrameReceive n sof medium record data 0 tec rcv) s fun t =>
      getF t (MDB_CNT0_RXOK n) = min (getF s (MDB_CNT0_RXOK n) + 1) (2 ^ (MDB_CNT0_RXOK n).w - 1)
        ∧ memRaw t (dAddr (opDesc s o) 8) 32 = f.record ++ f.data
        ∧ (t.qops = s.qops.map fun y => if y.q = o.q ∧ y.idx = o.idx then { y with started := true, done := some { status := stOK, res := medium + k * 2 ^ 8 + 20 * 2 ^ 16, ts := f.ts } } else y)
        ∧ Rest [.flds, .nfree, .out, .qops, .ifiles, .onceCycle, .waiting, .mem, .chk, .caches, .ceHold, .degCnt, .degraded, .triads, .resv, .chart, .bkb, .can, .pulses, .pulseOvf, .xings, .quiet] s t) ∧
  (∀ (r : Req) (n : Fin 6) (s : State), Ready s 9 → getF s (MDB_HPSTAT_COUNT n) ≠ 0 → 
    Completes (.hpPop r n) s fun t =>
      getF t (MDB_HPSTAT_COUNT n) = (getF s (MDB_HPSTAT_COUNT n) - 1) % 32
        ∧ getF t (MDB_HPSTAT_HEAD n) = (getF s (MDB_HPSTAT_HEAD n) + 1) % 16
        ∧ Frame [MDB_HPSTAT_COUNT n, MDB_HPSTAT_HEAD n] [.quiet] s t) ∧
  (∀ (r : Req) (n : Fin 6) (s : State), Ready s 9 → getF s (MDB_HPSTAT_COUNT n) = 0 → 
    Completes (.hpPop r n) s fun t =>
      Frame [] [.quiet] s t) ∧
  (∀ (n : Fin 6) (o : QOp) (s : State), Runs s 9 → freshOpc s (0x808 + n.val) 2 = some o → o.epoch = getF s (QEPOCH_EPOCH (0x808 + n.val)) → leAt (opDesc s o) 4 4 < 12 + maxData s n → 
    Completes (.canRxbuf n) s fun t =>
      (t.qops = s.qops.map fun y => if y.q = o.q ∧ y.idx = o.idx then { y with started := true, done := some { status := stBADLEN, res := 0, ts := 0 } } else y)
        ∧ Frame [] [.qops] s t) ∧
  (∀ (n : Fin 6) (o : QOp) (s : State), Runs s 9 → freshOpc s (0x808 + n.val) 2 = some o → o.epoch = getF s (QEPOCH_EPOCH (0x808 + n.val)) → 12 + maxData s n ≤ leAt (opDesc s o) 4 4 → engineMay s (0x808 + n.val) (dAddr (opDesc s o) 8) (leAt (opDesc s o) 4 4) true = true → 
    Completes (.canRxbuf n) s fun t =>
      (t.qops = s.qops.map fun y => if y.q = o.q ∧ y.idx = o.idx then { y with posted := true } else y)
        ∧ Frame [] [.qops] s t)

/-- The backbone switch receives and forwards. BKB_FRAME_RECEIVE at a port that is not up changes nothing; a bad FCS counts FCSERR and a frame over MAXFRM counts TOOLONG, and neither goes anywhere; in SWITCH mode a good frame counts RXFRM, one of an unknown VLAN goes nowhere, one to a learnt address leaves by that member port alone where its gate is open and the port idle, counted in TXFRM, and waits in its class queue where the port is busy; one to the host address that no context takes fills the posted buffer of host queue 1. FDB_AGE_OUT forgets an address that is 300 s old. -/
def Obligations.BackboneSwitches : Prop :=
  (∀ (n : Fin 4) (sof : Nat) (f : List Byte) (s : State), Runs s 6 → portUp s n = false → 
    Completes (.bkbFrameReceive n sof f) s fun t =>
      Frame [] [] s t) ∧
  (∀ (n : Fin 4) (sof : Nat) (f : List Byte) (s : State), Runs s 6 → portUp s n = true → fcsGood f = false → 
    Completes (.bkbFrameReceive n sof f) s fun t =>
      getF t (BKB_PCNT1_FCSERR n) = min (getF s (BKB_PCNT1_FCSERR n) + 1) (2 ^ (BKB_PCNT1_FCSERR n).w - 1)
        ∧ Frame [BKB_PCNT1_FCSERR n] [] s t) ∧
  (∀ (n : Fin 4) (sof : Nat) (f : List Byte) (s : State), Runs s 6 → portUp s n = true → fcsGood f = true → maxFrm s < f.length → 
    Completes (.bkbFrameReceive n sof f) s fun t =>
      getF t (BKB_PCNT2_TOOLONG n) = min (getF s (BKB_PCNT2_TOOLONG n) + 1) (2 ^ (BKB_PCNT2_TOOLONG n).w - 1)
        ∧ Frame [BKB_PCNT2_TOOLONG n] [] s t) ∧
  (∀ (n : Fin 4) (sof : Nat) (f : List Byte) (s : State), Runs s 6 → portUp s n = true → fcsGood f = true → f.length ≤ maxFrm s → 64 ≤ f.length → bkbMode s = 0 → etype (parseEth (f.take (f.length - 4)) (getF s (BKB_PCTRL_PVID n)) (getF s (BKB_PCTRL_PPCP n))) ≠ 0x88F7 → vlanOf s (parseEth (f.take (f.length - 4)) (getF s (BKB_PCTRL_PVID n)) (getF s (BKB_PCTRL_PPCP n))).vid = none → 
    Completes (.bkbFrameReceive n sof f) s fun t =>
      getF t (BKB_PCNT0_RXFRM n) = min (getF s (BKB_PCNT0_RXFRM n) + 1) (2 ^ (BKB_PCNT0_RXFRM n).w - 1)
        ∧ Frame [BKB_PCNT0_RXFRM n] [] s t) ∧
  (∀ (n : Fin 4) (sof : Nat) (f : List Byte) (x : EthFrame) (v q : Nat) (s : State), Runs s 6 → portUp s n = true → fcsGood f = true → f.length ≤ maxFrm s → 64 ≤ f.length → bkbMode s = 0 → (parseEth (f.take (f.length - 4)) (getF s (BKB_PCTRL_PVID n)) (getF s (BKB_PCTRL_PPCP n))) = x → etype x ≠ 0x88F7 → vlanOf s x.vid = some v → isMember s v 4 = false → isGroup x.dst = false → x.src ≠ x.dst → x.dst ≠ hostMac s → lookupFdb s x.vid x.dst = some q → q ≠ n.val → q < 4 → isMember s v q = true → portUp s q = true → s.bkb.busy.getD q 0 ≤ freeCnt s → s.bkb.egress = [] → bit (gatesNow s q) x.pcp = true → fitsGate s q x.pcp (ethBytes x (!bit (liveF s (BKB_VLAN_UNTAG v)) q)).length = true → (ethBytes x (!bit (liveF s (BKB_VLAN_UNTAG v)) q)).length ≤ maxFrm s → gateHolds s q x.pcp (ethBytes x (!bit (liveF s (BKB_VLAN_UNTAG v)) q)).length = true → 
    Completes (.bkbFrameReceive n sof f) s fun t =>
      t.out = .sent .backbone q (ethBytes x (!bit (liveF s (BKB_VLAN_UNTAG v)) q)) :: s.out
        ∧ getF t (BKB_PCNT0_RXFRM n) = min (getF s (BKB_PCNT0_RXFRM n) + 1) (2 ^ (BKB_PCNT0_RXFRM n).w - 1)
        ∧ getF t (BKB_PCNT0_TXFRM q) = min (getF s (BKB_PCNT0_TXFRM q) + 1) (2 ^ (BKB_PCNT0_TXFRM q).w - 1)
        ∧ Frame [BKB_PCNT0_RXFRM n, BKB_PCNT0_TXFRM q] [.out, .bkb] s t) ∧
  (∀ (n : Fin 4) (sof : Nat) (f : List Byte) (x : EthFrame) (v q : Nat) (s : State), Runs s 6 → portUp s n = true → fcsGood f = true → f.length ≤ maxFrm s → 64 ≤ f.length → bkbMode s = 0 → (parseEth (f.take (f.length - 4)) (getF s (BKB_PCTRL_PVID n)) (getF s (BKB_PCTRL_PPCP n))) = x → etype x ≠ 0x88F7 → vlanOf s x.vid = some v → isMember s v 4 = false → isGroup x.dst = false → x.src ≠ x.dst → x.dst ≠ hostMac s → lookupFdb s x.vid x.dst = some q → q ≠ n.val → q < 4 → isMember s v q = true → portUp s q = true → freeCnt s < s.bkb.busy.getD q 0 → s.bkb.egress = [] → bit (gatesNow s q) x.pcp = true → fitsGate s q x.pcp (ethBytes x (!bit (liveF s (BKB_VLAN_UNTAG v)) q)).length = true → (ethBytes x (!bit (liveF s (BKB_VLAN_UNTAG v)) q)).length ≤ maxFrm s → gateHolds s q x.pcp (ethBytes x (!bit (liveF s (BKB_VLAN_UNTAG v)) q)).length = true → 
    Completes (.bkbFrameReceive n sof f) s fun t =>
      t.bkb.egress = [⟨q, x.pcp, ethBytes x (!bit (liveF s (BKB_VLAN_UNTAG v)) q), none⟩]
        ∧ getF t (BKB_PCNT0_RXFRM n) = min (getF s (BKB_PCNT0_RXFRM n) + 1) (2 ^ (BKB_PCNT0_RXFRM n).w - 1)
        ∧ Frame [BKB_PCNT0_RXFRM n] [.bkb] s t) ∧
  (∀ (n : Fin 4) (sof : Nat) (f : List Byte) (x : EthFrame) (v : Nat) (o : QOp) (s : State), Runs s 6 → portUp s n = true → fcsGood f = true → f.length ≤ maxFrm s → 64 ≤ f.length → bkbMode s = 0 → (parseEth (f.take (f.length - 4)) (getF s (BKB_PCTRL_PVID n)) (getF s (BKB_PCTRL_PPCP n))) = x → etype x ≠ 0x88F7 → vlanOf s x.vid = some v → isMember s v 4 = true → x.dst = hostMac s → x.src ≠ x.dst → ctxFor s x = none → s.bkb.egress = [] → firstPosted s 0x701 = some o → ((∀ y ∈ s.qops, y.q = 0x701 → y.epoch = getF s (QEPOCH_EPOCH 0x701))) → o.n = 1 → engineMay s 0x701 (dAddr (opDesc s o) 8) 64 true = true → buffersMeet s 0x701 ((o.idx + o.pos) % 65536) (dAddr (opDesc s o) 8) 64 = false → UncachedIn s (dAddr (opDesc s o) 8) 2048 → onF s MEM_INJ_ARM = false → dAddr (opDesc s o) 8 % 32 = 0 → f.length = 64 → 
    Completes (.bkbFrameReceive n sof f) s fun t =>
      getF t (BKB_PCNT0_RXFRM n) = min (getF s (BKB_PCNT0_RXFRM n) + 1) (2 ^ (BKB_PCNT0_RXFRM n).w - 1)
        ∧ memRaw t (dAddr (opDesc s o) 8) 64 = f
        ∧ (t.qops = s.qops.map fun y => if y.q = o.q ∧ y.idx = o.idx then { y with started := true, done := some { status := stOK, res := n + 64 * 2 ^ 16, ts := tsSof s sof } } else y)
        ∧ Rest [.flds, .nfree, .out, .qops, .ifiles, .onceCycle, .waiting, .mem, .chk, .caches, .ceHold, .degCnt, .degraded, .triads, .resv, .rhl, .chart, .bkb, .can, .pulses, .pulseOvf, .xings, .quiet] s t) ∧
  (∀ (vid : BitVec 12) (mac : BitVec 48) (s : State), Runs s 6 → 
    Completes (.fdbAgeOut vid mac) s fun t =>
      (t.bkb = { s.bkb with fdb := s.bkb.fdb.filter fun x => !(x.1 == vid.toNat && x.2.1 == mac.toNat && decide (x.2.2.2 + 300000000000 ≤ freeCnt s)) })
        ∧ Frame [] [.bkb] s t)

/-- Gates, nodes, ring, links and supervision. GATE_ENTRY_REACHED in order puts the entry's gates in force, and the port starts the frame that they let go, and out of order only sets ORDERR; SUPERVISION_SEND outside SWITCH mode, each SVINT, sends one frame on every port that is up; NODE_FORGET drops a node not heard for FORGET; RINGOPEN_DETECT after 3 SVINT without an own frame sets RINGOPEN; BKB_LINK_CHANGE shows the link, counts it and steps the topology counter, with a MINOR report when it goes down; each does nothing where nothing has changed. -/
def Obligations.BackbonePorts : Prop :=
  (∀ (n : Fin 4) (k : Fin 128) (b : Nat) (s : State), Runs s 6 → getF s (BKB_GCLCTL_ACTIVE n) = b → k.val < gateCount s n → getF s (BKB_GCL_OFFSET n b k) ≤ cycOffset s → (k = 0 ∨ getF s (BKB_GCL_OFFSET n b (k.val - 1)) < getF s (BKB_GCL_OFFSET n b k)) → (∀ j : Fin 128, k < j → j.val < gateCount s n → cycOffset s < getF s (BKB_GCL_OFFSET n b j)) → s.bkb.egress = [] → 
    Completes (.gateEntryReached n k) s fun t =>
      gatesNow t n = getF s (BKB_GCL_GATES n b k)
        ∧ Frame [] [] s t) ∧
  (∀ (n : Fin 4) (k : Fin 128) (b : Nat) (f : EgFrame) (s : State), Runs s 6 → getF s (BKB_GCLCTL_ACTIVE n) = b → k.val < gateCount s n → getF s (BKB_GCL_OFFSET n b k) ≤ cycOffset s → (k = 0 ∨ getF s (BKB_GCL_OFFSET n b (k.val - 1)) < getF s (BKB_GCL_OFFSET n b k)) → s.bkb.egress = [f] → f.port = n → f.cls < 8 → f.op = none → portUp s n = true → s.bkb.busy.getD n 0 ≤ freeCnt s → bit (gatesNow s n) f.cls = true → fitsGate s n f.cls f.bytes.length = true → 
    Completes (.gateEntryReached n k) s fun t =>
      t.bkb.egress = []
        ∧ t.out = .sent .backbone n f.bytes :: s.out
        ∧ getF t (BKB_PCNT0_TXFRM n) = min (getF s (BKB_PCNT0_TXFRM n) + 1) (2 ^ (BKB_PCNT0_TXFRM n).w - 1)
        ∧ Frame [BKB_PCNT0_TXFRM n] [.out, .bkb] s t) ∧
  (∀ (n : Fin 4) (k : Fin 128) (b : Nat) (s : State), Runs s 6 → getF s (BKB_GCLCTL_ACTIVE n) = b → k.val < gateCount s n → getF s (BKB_GCL_OFFSET n b k) ≤ cycOffset s → k ≠ 0 → getF s (BKB_GCL_OFFSET n b k) ≤ getF s (BKB_GCL_OFFSET n b (k.val - 1)) → 
    Completes (.gateEntryReached n k) s fun t =>
      onF t (BKB_GCLCTL_ORDERR n) = true
        ∧ Frame [BKB_GCLCTL_ORDERR n] [] s t) ∧
  (∀ (s : State), Runs s 6 → bkbMode s ≠ 0 → onF s BKB_CTRL_EN = true → (s.bkb.svAt = 0 ∨ s.bkb.svAt - 1 + svintNs s ≤ freeCnt s) → s.bkb.egress = [] → (∀ q : Fin 4, gateCount s q = 0 ∧ s.bkb.busy.getD q 0 ≤ freeCnt s) → 
    Completes (.supervisionSend) s fun t =>
      t.bkb.svAt = freeCnt s + 1
        ∧ t.bkb.seqNr = (s.bkb.seqNr + 1) % 65536
        ∧ (t.out.length = s.out.length + ((List.range 4).filter fun q => portUp s q).length)
        ∧ (∀ q : Fin 4, portUp s q = true → getF t (BKB_PCNT0_TXFRM q) = min (getF s (BKB_PCNT0_TXFRM q) + 1) (2 ^ (BKB_PCNT0_TXFRM q).w - 1))
        ∧ Frame ((List.range 4).map fun q => BKB_PCNT0_TXFRM q) [.out, .bkb] s t) ∧
  (∀ (s : State), Runs s 6 → bkbMode s = 0 → 
    Completes (.supervisionSend) s fun t =>
      Frame [] [] s t) ∧
  (∀ (mac : BitVec 48) (s : State), Runs s 6 → ((s.bkb.nodes.any fun x => x.1 == mac.toNat && decide (x.2 + forgetNs s ≤ freeCnt s)) = true) → 
    Completes (.nodeForget mac) s fun t =>
      (t.bkb = { s.bkb with nodes := s.bkb.nodes.filter (·.1 != mac.toNat), seen := s.bkb.seen.filter fun x => x.1 != mac.toNat })
        ∧ getF t BKB_TOPO_NODES = (s.bkb.nodes.filter (·.1 != mac.toNat)).length % 2 ^ BKB_TOPO_NODES.w
        ∧ getF t BKB_TOPO_TOPOCNT = (getF s BKB_TOPO_TOPOCNT + 1) % 2 ^ BKB_TOPO_TOPOCNT.w
        ∧ onF t BKB_EVT_NODECHG = true
        ∧ Frame ([BKB_TOPO_NODES, BKB_TOPO_TOPOCNT, BKB_EVT_NODECHG] ++ msiFields) [.bkb, .ifiles, .waiting, .xings, .quiet] s t) ∧
  (∀ (mac : BitVec 48) (s : State), Runs s 6 → ((s.bkb.nodes.any fun x => x.1 == mac.toNat && decide (x.2 + forgetNs s ≤ freeCnt s)) = false) → 
    Completes (.nodeForget mac) s fun t =>
      Frame [] [] s t) ∧
  (∀ (s : State), Runs s 6 → ringSilent s = true → onF s BKB_STAT_RINGOPEN = false → 
    Completes (.ringopenDetect) s fun t =>
      onF t BKB_STAT_RINGOPEN = true
        ∧ getF t BKB_TOPO_TOPOCNT = (getF s BKB_TOPO_TOPOCNT + 1) % 2 ^ BKB_TOPO_TOPOCNT.w
        ∧ onF t BKB_EVT_RINGOPEN = true
        ∧ Frame ([BKB_STAT_RINGOPEN, BKB_TOPO_TOPOCNT, BKB_EVT_RINGOPEN] ++ msiFields) [.ifiles, .waiting, .xings, .quiet] s t) ∧
  (∀ (s : State), Runs s 6 → (ringSilent s = false ∨ onF s BKB_STAT_RINGOPEN = true) → 
    Completes (.ringopenDetect) s fun t =>
      Frame [] [] s t) ∧
  (∀ (n : Fin 4) (s : State), Runs s 6 → onF s (BKB_PSTAT_LINK n) = false → (bkbMode s ≠ 2 ∨ n.val < 2) → 
    Completes (.bkbLinkChange n true) s fun t =>
      onF t (BKB_PSTAT_LINK n) = true
        ∧ bitF t BKB_STAT_LINK n = true
        ∧ getF t BKB_TOPO_TOPOCNT = (getF s BKB_TOPO_TOPOCNT + 1) % 2 ^ BKB_TOPO_TOPOCNT.w
        ∧ getF t (BKB_PCNT2_LINKCHG n) = min (getF s (BKB_PCNT2_LINKCHG n) + 1) (2 ^ (BKB_PCNT2_LINKCHG n).w - 1)
        ∧ onF t BKB_EVT_LINKCHG = true
        ∧ Frame ([BKB_PSTAT_LINK n, BKB_STAT_LINK, BKB_PCNT2_LINKCHG n, BKB_TOPO_TOPOCNT, BKB_EVT_LINKCHG] ++ msiFields) [.ifiles, .waiting, .xings, .quiet] s t) ∧
  (∀ (n : Fin 4) (s : State), Runs s 6 → onF s (BKB_PSTAT_LINK n) = true → RoomFor s 6 → 
    Completes (.bkbLinkChange n false) s fun t =>
      onF t (BKB_PSTAT_LINK n) = false
        ∧ bitF t BKB_STAT_LINK n = false
        ∧ getF t BKB_TOPO_TOPOCNT = (getF s BKB_TOPO_TOPOCNT + 1) % 2 ^ BKB_TOPO_TOPOCNT.w
        ∧ getF t (BKB_PCNT2_LINKCHG n) = min (getF s (BKB_PCNT2_LINKCHG n) + 1) (2 ^ (BKB_PCNT2_LINKCHG n).w - 1)
        ∧ onF t BKB_EVT_LINKCHG = true
        ∧ t.waiting = s.waiting ++ [(6, { cls := MINOR, loc := ⟨0, 6, 0x50 + n, 0⟩ })]
        ∧ Rest [.flds, .ifiles, .waiting, .xings, .quiet] s t) ∧
  (∀ (n : Fin 4) (up : Bool) (s : State), Runs s 6 → onF s (BKB_PSTAT_LINK n) = up → 
    Completes (.bkbLinkChange n up) s fun t =>
      Frame [] [] s t)

/-- Time over the backbone. GPTP_SYNC_SEND as grandmaster, every 2^LOGSYNC s, sends Sync and Follow_Up with the time value as it stands and an Announce; GPTP_SYNC_RECEIVE at the SlavePort within QLIM before the eighth good offset shows the offset and counts it, and elsewhere changes nothing; SYNC_RECEIPT_TIMEOUT counts, and the third loses source 2; BEST_MASTER_CLOCK_DECISION makes the port that hears a better dataset SlavePort, and otherwise the module grandmaster where GMCAP lets it; with ASEN 0 the role is 0. -/
def Obligations.BackboneTime : Prop :=
  (∀ (n : Fin 4) (s : State), Runs s 6 → onL s BKB_ASCTL_ASEN = true → getF s BKB_ASSTAT_ROLE = 1 → bit (liveF s BKB_ASCTL_PORTS) n = true → portUp s n = true → (s.bkb.syncAt.getD n 0 = 0 ∨ s.bkb.syncAt.getD n 0 - 1 + 1000000000 / 2 ^ syncShift s ≤ freeCnt s) → 
    Completes (.gptpSyncSend n) s fun t =>
      t.out = [.signal .backbone n 4 (liveF s BKB_ASCTL_PRIO1 + liveF s BKB_ASCTL_CLASS * 2 ^ 8 + liveF s BKB_ASCTL_PRIO2 * 2 ^ 16 + 0xA0 * 2 ^ 24), .signal .backbone n 3 s.mer.t, .signal .backbone n 2 s.mer.t] ++ s.out
        ∧ getF t (BKB_PCNT0_TXFRM n) = min (getF s (BKB_PCNT0_TXFRM n) + 3) (2 ^ (BKB_PCNT0_TXFRM n).w - 1)
        ∧ Frame [BKB_PCNT0_TXFRM n] [.out, .bkb] s t) ∧
  (∀ (n : Fin 4) (s : State), Runs s 6 → getF s BKB_ASSTAT_ROLE ≠ 1 → 
    Completes (.gptpSyncSend n) s fun t =>
      Frame [] [] s t) ∧
  (∀ (n : Fin 4) (off rt : Int) (s : State), Runs s 6 → onL s BKB_ASCTL_ASEN = true → getF s BKB_ASSTAT_ROLE = 2 → getF s BKB_ASSTAT_SPORT = n → bit (liveF s BKB_ASCTL_PORTS) n = true → off.natAbs ≤ 64 * orElse (liveF s BKB_ASCTL_QLIM) 50 10000 1000 → onF s BKB_ASSTAT_QUAL = false → s.mer.offs.length = 3 → s.bkb.good < 7 → 
    Completes (.gptpSyncReceive n off rt true) s fun t =>
      t.bkb = { s.bkb with good := s.bkb.good + 1, bad := 0, timeouts := 0 }
        ∧ getF t BKB_ASSTAT_OFFSET = ofInt 32 (clampInt (2 ^ 31 - 1) (wholeNs 64 off)) % 2 ^ 32
        ∧ t.mer.offs.getD 1 0 = off * 2 ^ 26
        ∧ Frame [BKB_ASSTAT_OFFSET] [.bkb, .mer] s t) ∧
  (∀ (n : Fin 4) (off rt : Int) (cap : Bool) (s : State), Runs s 6 → getF s BKB_ASSTAT_ROLE ≠ 2 → 
    Completes (.gptpSyncReceive n off rt cap) s fun t =>
      Frame [] [] s t) ∧
  (∀ (s : State), Runs s 6 → getF s BKB_ASSTAT_ROLE = 2 → s.bkb.timeouts < 2 → 
    Completes (.syncReceiptTimeout) s fun t =>
      t.bkb = { s.bkb with timeouts := s.bkb.timeouts + 1, good := 0 }
        ∧ Frame [] [.bkb] s t) ∧
  (∀ (s : State), Runs s 6 → getF s BKB_ASSTAT_ROLE ≠ 2 → 
    Completes (.syncReceiptTimeout) s fun t =>
      Frame [] [] s t) ∧
  (∀ (s : State), Runs s 6 → getF s BKB_ASSTAT_ROLE = 2 → 2 ≤ s.bkb.timeouts → onF s BKB_ASSTAT_QUAL = true → 
    Completes (.syncReceiptTimeout) s fun t =>
      onF t BKB_ASSTAT_QUAL = false
        ∧ t.bkb = { s.bkb with good := 0, bad := 0, timeouts := 0 }
        ∧ onF t BKB_EVT_ASLOST = true
        ∧ Rest [.flds, .ifiles, .onceCycle, .waiting, .mer, .bkb, .xings, .quiet, .prl] s t) ∧
  (∀ (h : Bool) (n : Fin 4) (p1 cl ac : BitVec 8) (va : BitVec 16) (p2 : BitVec 8) (id : Word) (s : State), Runs s 6 → onL s BKB_ASCTL_ASEN = true → onF s BKB_ASSTAT_QUAL = false → (h = false ∨ bit (liveF s BKB_ASCTL_PORTS) n = false ∨ (onL s BKB_ASCTL_GMCAP = true ∧ (ownAnnounce s).rank ≤ Announce.rank ⟨p1.toNat, cl.toNat, ac.toNat, va.toNat, p2.toNat, id.toNat⟩)) → 
    Completes (.bestMasterClockDecision h n p1 cl ac va p2 id) s fun t =>
      (getF t BKB_ASSTAT_ROLE = if onL s BKB_ASCTL_GMCAP = true then 1 else 3)
        ∧ t.bkb = { s.bkb with good := 0, bad := 0, timeouts := 0 }
        ∧ Frame [BKB_ASSTAT_ROLE] [.bkb] s t) ∧
  (∀ (h : Bool) (n : Fin 4) (p1 cl ac : BitVec 8) (va : BitVec 16) (p2 : BitVec 8) (id : Word) (s : State), Runs s 6 → onL s BKB_ASCTL_ASEN = true → onF s BKB_ASSTAT_QUAL = false → h = true → bit (liveF s BKB_ASCTL_PORTS) n = true → (onL s BKB_ASCTL_GMCAP = false ∨ Announce.rank ⟨p1.toNat, cl.toNat, ac.toNat, va.toNat, p2.toNat, id.toNat⟩ < (ownAnnounce s).rank) → (getF s BKB_ASSTAT_ROLE ≠ 2 ∨ getF s BKB_ASSTAT_SPORT ≠ n) → 
    Completes (.bestMasterClockDecision h n p1 cl ac va p2 id) s fun t =>
      getF t BKB_ASSTAT_ROLE = 2
        ∧ getF t BKB_ASSTAT_SPORT = n
        ∧ t.bkb = { s.bkb with good := 0, bad := 0, timeouts := 0 }
        ∧ Frame [BKB_ASSTAT_ROLE, BKB_ASSTAT_SPORT] [.bkb] s t) ∧
  (∀ (h : Bool) (n : Fin 4) (p1 cl ac : BitVec 8) (va : BitVec 16) (p2 : BitVec 8) (id : Word) (s : State), Runs s 6 → onL s BKB_ASCTL_ASEN = false → onF s BKB_ASSTAT_QUAL = false → 
    Completes (.bestMasterClockDecision h n p1 cl ac va p2 id) s fun t =>
      getF t BKB_ASSTAT_ROLE = 0
        ∧ t.bkb = { s.bkb with good := 0, bad := 0, timeouts := 0 }
        ∧ Frame [BKB_ASSTAT_ROLE] [.bkb] s t)

/-- Flow contexts, tunnels and the host queues. FLOW_CONTEXT_ENABLE of a known kind sets EN and FIRST; FLOW_CONTEXT_BUMP counts the context's epoch; TX_FLOW_SEND of a context of another kind, before TXOFF or a second time in a cycle sends nothing, and otherwise counts the packed payload in FRAMES; TUNENC_WRAP takes the frame that waited longest, counts it in FRAMES and numbers it after LASTSEQ, or drops it where its context is off; BKB_TXFRM of a frame whose VLAN is unknown ends with OK and no stamp, and one that an idle port can send leaves and ends with OK and the stamp of its start; BKB_RXBUF of a buffer that is long enough posts it; a short frame or buffer ends with BADLEN. -/
def Obligations.FlowsAndTunnels : Prop :=
  (∀ (r : Req) (f : Fin 256) (s : State), Ready s 6 → getF s (BKB_FC_0_KIND f) < 5 → 
    Completes (.flowContextEnable r f) s fun t =>
      onF t (BKB_FC_0_EN f) = true
        ∧ onF t (BKB_FC_3_FIRST f) = true
        ∧ Frame [BKB_FC_0_EN f, BKB_FC_3_FIRST f] [.quiet] s t) ∧
  (∀ (r : Req) (f : Fin 256) (s : State), Ready s 6 → 5 ≤ getF s (BKB_FC_0_KIND f) → 
    Completes (.flowContextEnable r f) s fun t =>
      Frame [] [.quiet] s t) ∧
  (∀ (r : Req) (f : Fin 256) (s : State), Ready s 6 → 
    Completes (.flowContextBump r f) s fun t =>
      getF t (BKB_FC_0_EPOCH f) = nextEpoch (getF s (BKB_FC_0_EPOCH f)) % 2 ^ (BKB_FC_0_EPOCH f).w
        ∧ Frame [BKB_FC_0_EPOCH f] [.quiet] s t) ∧
  (∀ (f : Fin 256) (s : State), Runs s 6 → (onF s (BKB_FC_0_EN f) = false ∨ getF s (BKB_FC_0_KIND f) ≠ 1 ∨ s.bkb.txDone.contains f.val = true ∨ cycOffset s < fc2 s f % 2 ^ 27) → 
    Completes (.txFlowSend f) s fun t =>
      Frame [] [] s t) ∧
  (∀ (f : Fin 256) (u : State) (p : List Byte) (s : State), Runs s 6 → onF s (BKB_FC_0_EN f) = true → getF s (BKB_FC_0_KIND f) = 1 → ctxMaySend s f = true → s.bkb.txDone.contains f.val = false → fc2 s f % 2 ^ 27 ≤ cycOffset s → packMap (getF s (BKB_FC_1_ID f)) { s with bkb := { s.bkb with txDone := f.val :: s.bkb.txDone } } = (u, some p) → 
    Completes (.txFlowSend f) s fun t =>
      getF t (BKB_FCCNT0_FRAMES f) = min (getF u (BKB_FCCNT0_FRAMES f) + 1) (2 ^ (BKB_FCCNT0_FRAMES f).w - 1)
        ∧ t.mem = u.mem
        ∧ Rest [.flds, .nfree, .out, .qops, .waiting, .mem, .chk, .caches, .ceHold, .degCnt, .degraded, .bkb, .pulses, .pulseOvf] s t) ∧
  (∀ (c m ts : Nat) (w : List Byte) (r : List (Nat × Nat × Nat × List Byte)) (s : State), Runs s 6 → s.bkb.toWrap = (c, m, ts, w) :: r → onF s (BKB_FC_0_EN c) = false → 
    Completes (.tunencWrap) s fun t =>
      t.bkb = { s.bkb with toWrap := r }
        ∧ Frame [] [.bkb] s t) ∧
  (∀ (c m ts : Nat) (w : List Byte) (r : List (Nat × Nat × Nat × List Byte)) (s : State), Runs s 6 → s.bkb.toWrap = (c, m, ts, w) :: r → c < 256 → onF s (BKB_FC_0_EN c) = true → getF s (BKB_FC_0_KIND c) = 3 → ctxMaySend s c = true → w.length ≤ 1400 → onF s (BKB_FC_3_FIRST c) = false → 
    Completes (.tunencWrap) s fun t =>
      t.bkb.toWrap = r
        ∧ getF t (BKB_FC_3_LASTSEQ c) = (getF s (BKB_FC_3_LASTSEQ c) + 1) % 2 ^ 32
        ∧ getF t (BKB_FCCNT0_FRAMES c) = min (getF s (BKB_FCCNT0_FRAMES c) + 1) (2 ^ (BKB_FCCNT0_FRAMES c).w - 1)
        ∧ Rest [.flds, .out, .qops, .bkb] s t) ∧
  (∀ (s : State), Runs s 6 → s.bkb.toWrap = [] → 
    Completes (.tunencWrap) s fun t =>
      Frame [] [] s t) ∧
  (∀ (o : QOp) (s : State), Runs s 6 → freshOpc s 0x700 1 = some o → o.epoch = getF s (QEPOCH_EPOCH 0x700) → leAt (opDesc s o) 4 2 < 60 → 
    Completes (.bkbTxfrm) s fun t =>
      (t.qops = s.qops.map fun y => if y.q = o.q ∧ y.idx = o.idx then { y with started := true, done := some { status := stBADLEN, res := 0, ts := 0 } } else y)
        ∧ Frame [] [.qops] s t) ∧
  (∀ (o : QOp) (b : List Byte) (x : EthFrame) (v q : Nat) (s : State), Runs s 6 → freshOpc s 0x700 1 = some o → o.epoch = getF s (QEPOCH_EPOCH 0x700) → 60 ≤ leAt (opDesc s o) 4 2 → leAt (opDesc s o) 4 2 + 4 ≤ maxFrm s → engineMay s 0x700 (dAddr (opDesc s o) 8) (leAt (opDesc s o) 4 2) false = true → readMem s (dAddr (opDesc s o) 8) (leAt (opDesc s o) 4 2) = some b → o.n = 1 → parseEth b 1 0 = x → bkbMode s = 0 → vlanOf s x.vid = some v → isGroup x.dst = false → x.src ≠ x.dst → lookupFdb s x.vid x.dst = some q → q < 4 → isMember s v q = true → portUp s q = true → s.bkb.busy.getD q 0 ≤ freeCnt s → s.bkb.egress = [] → bit (gatesNow s q) x.pcp = true → fitsGate s q x.pcp (ethBytes x (!bit (liveF s (BKB_VLAN_UNTAG v)) q)).length = true → (ethBytes x (!bit (liveF s (BKB_VLAN_UNTAG v)) q)).length ≤ maxFrm s → gateHolds s q x.pcp (ethBytes x (!bit (liveF s (BKB_VLAN_UNTAG v)) q)).length = true → 
    Completes (.bkbTxfrm) s fun t =>
      (t.qops = s.qops.map fun y => if y.q = o.q ∧ y.idx = o.idx then { y with started := true, done := some { status := stOK, res := 0, ts := ts96 s } } else y)
        ∧ t.out = .sent .backbone q (ethBytes x (!bit (liveF s (BKB_VLAN_UNTAG v)) q)) :: s.out
        ∧ Rest [.flds, .nfree, .out, .qops, .onceCycle, .waiting, .mem, .chk, .caches, .ceHold, .degCnt, .degraded, .bkb, .pulses, .pulseOvf] s t) ∧
  (∀ (o : QOp) (b : List Byte) (s : State), Runs s 6 → freshOpc s 0x700 1 = some o → o.epoch = getF s (QEPOCH_EPOCH 0x700) → 60 ≤ leAt (opDesc s o) 4 2 → leAt (opDesc s o) 4 2 + 4 ≤ maxFrm s → engineMay s 0x700 (dAddr (opDesc s o) 8) (leAt (opDesc s o) 4 2) false = true → readMem s (dAddr (opDesc s o) 8) (leAt (opDesc s o) 4 2) = some b → o.n = 1 → ((s.bkb.egress.any fun f => f.op == some o.idx) = false) → vlanOf s (parseEth b 1 0).vid = none → 
    Completes (.bkbTxfrm) s fun t =>
      (t.qops = s.qops.map fun y => if y.q = o.q ∧ y.idx = o.idx then { y with started := true, done := some { status := stOK, res := 0, ts := 0 } } else y)
        ∧ Rest [.flds, .nfree, .out, .qops, .onceCycle, .waiting, .mem, .chk, .caches, .ceHold, .degCnt, .degraded, .bkb, .pulses, .pulseOvf] s t) ∧
  (∀ (o : QOp) (s : State), Runs s 6 → freshOpc s 0x701 2 = some o → o.epoch = getF s (QEPOCH_EPOCH 0x701) → leAt (opDesc s o) 4 4 < maxFrm s → 
    Completes (.bkbRxbuf) s fun t =>
      (t.qops = s.qops.map fun y => if y.q = o.q ∧ y.idx = o.idx then { y with started := true, done := some { status := stBADLEN, res := 0, ts := 0 } } else y)
        ∧ Frame [] [.qops] s t) ∧
  (∀ (o : QOp) (s : State), Runs s 6 → freshOpc s 0x701 2 = some o → o.epoch = getF s (QEPOCH_EPOCH 0x701) → maxFrm s ≤ leAt (opDesc s o) 4 4 → engineMay s 0x701 (dAddr (opDesc s o) 8) (leAt (opDesc s o) 4 4) true = true → 
    Completes (.bkbRxbuf) s fun t =>
      (t.qops = s.qops.map fun y => if y.q = o.q ∧ y.idx = o.idx then { y with posted := true } else y)
        ∧ Frame [] [.qops] s t)

/-- Outbound accesses, completions and timeouts. OUTBOUND_ACCESS through a window: a posted write leaves the port at its backplane address and drops the window's prefetch buffers; a read that a prefetch buffer holds is answered from it; a read without prefetch leaves with a free tag and is held; without a window the access is refused. COMPLETION_RECEIVED without error answers the held read and frees its tag, with an error counts and refuses it, for no held request counts as late. COMPLETION_TIMEOUT after 50 µs refuses the one held request and counts it. PREFETCH_EXPIRY drops a buffer that is older than PFAGE. -/
def Obligations.BridgeOutbound : Prop :=
  (∀ (r : Req) (a : BitVec 40) (size : Nat) (d : List Byte) (k : Nat) (s : State), Runs s 0xA → onF s (SYS_ISL_STOPPED 0xA) = false → kindRefused .store a.toNat = none → bridgeUp s = true → windowAt s a.toNat = some k → (size = 1 ∨ size = 2 ∨ size = 4 ∨ size = 8) → toBackplane s k a.toNat % 4096 + size ≤ 4096 → onF s (BRG_OW_0_NP k) = false → 
    Completes (.outboundAccess r .store a size d) s fun t =>
      t.out = .sent .pcie (toBackplane s k a.toNat) (d.take size) :: s.out
        ∧ (t.brg = { s.brg with pf := s.brg.pf.filter (fun p => p.win != k), held := s.brg.held.map fun h => if h.win = k then { h with keep := false } else h })
        ∧ Frame [BRG_STAT_TAGS, BRG_CFGREQ_BUSY] [.out, .brg, .quiet] s t) ∧
  (∀ (r : Req) (a : BitVec 40) (size : Nat) (d : List Byte) (k : Nat) (g : Nat) (s : State), Runs s 0xA → onF s (SYS_ISL_STOPPED 0xA) = false → kindRefused .load a.toNat = none → bridgeUp s = true → windowAt s a.toNat = some k → (size = 1 ∨ size = 2 ∨ size = 4 ∨ size = 8) → toBackplane s k a.toNat % 4096 + size ≤ 4096 → s.brg.pf = [] → pfLen s k = 0 → (s.brg.held.all (fun h => h.tag.isSome) = true) → freeTag s = some g → 
    Completes (.outboundAccess r .load a size d) s fun t =>
      t.out = .signal .pcie size 3 (toBackplane s k a.toNat) :: s.out
        ∧ t.brg = { s.brg with held := s.brg.held ++ [{ who := some (r, .load), win := k, addr := toBackplane s k a.toNat, len := size, flush := false, tag := some g, at' := freeCnt s }] }
        ∧ Frame [BRG_STAT_TAGS, BRG_CFGREQ_BUSY] [.out, .brg, .quiet] s t) ∧
  (∀ (r : Req) (a : BitVec 40) (size : Nat) (d : List Byte) (k : Nat) (p : PfBuf) (s : State), Runs s 0xA → onF s (SYS_ISL_STOPPED 0xA) = false → kindRefused .load a.toNat = none → bridgeUp s = true → windowAt s a.toNat = some k → (size = 1 ∨ size = 2 ∨ size = 4 ∨ size = 8) → toBackplane s k a.toNat % 4096 + size ≤ 4096 → 0 < pfLen s k → ((s.brg.pf.find? fun p => p.win == k && pfFresh s p && decide (p.addr ≤ toBackplane s k a.toNat) && decide (toBackplane s k a.toNat + size ≤ p.addr + p.data.length)) = some p) → 
    Completes (.outboundAccess r .load a size d) s fun t =>
      t.out = .bytes r ((p.data.drop (toBackplane s k a.toNat - p.addr)).take size) :: s.out
        ∧ t.brg = { s.brg with pf := s.brg.pf.filter (· != p) ++ [p] }
        ∧ Frame [BRG_STAT_TAGS, BRG_CFGREQ_BUSY] [.out, .brg, .quiet] s t) ∧
  (∀ (r : Req) (a : BitVec 40) (size : Nat) (d : List Byte) (s : State), Runs s 0xA → onF s (SYS_ISL_STOPPED 0xA) = false → kindRefused .load a.toNat = none → windowAt s a.toNat = none → 
    Completes (.outboundAccess r .load a size d) s fun t =>
      t.out = .denied r (faultOf .load) :: s.out
        ∧ Frame [] [.out, .quiet] s t) ∧
  (∀ (g : Fin 32) (d : List Byte) (h : HeldReq) (r : Req) (kd : AccKind) (s : State), Runs s 0xA → s.brg.held = [h] → h.tag = some g.val → h.who = some (r, kd) → h.flush = false → h.block = none → 
    Completes (.completionReceived (some g) true d) s fun t =>
      t.out = .bytes r (d.take h.len) :: s.out
        ∧ t.brg = { s.brg with held := [] }
        ∧ Frame [BRG_STAT_TAGS, BRG_CFGREQ_BUSY] [.out, .brg] s t) ∧
  (∀ (g : Fin 32) (d : List Byte) (h : HeldReq) (r : Req) (kd : AccKind) (s : State), Runs s 0xA → s.brg.held = [h] → h.tag = some g.val → h.who = some (r, kd) → 
    Completes (.completionReceived (some g) false d) s fun t =>
      t.out = .denied r (faultOf kd) :: s.out
        ∧ t.brg = { s.brg with held := [] }
        ∧ getF t (BRG_CNT0_CPLERR) = min (getF s (BRG_CNT0_CPLERR) + 1) (2 ^ (BRG_CNT0_CPLERR).w - 1)
        ∧ Frame [BRG_CNT0_CPLERR, BRG_STAT_TAGS, BRG_CFGREQ_BUSY] [.out, .brg] s t) ∧
  (∀ (g : Fin 32) (ok : Bool) (d : List Byte) (s : State), Runs s 0xA → ((s.brg.held.find? fun h => h.tag == some g.val) = none) → 
    Completes (.completionReceived (some g) ok d) s fun t =>
      getF t (BRG_CNT0_LATECPL) = min (getF s (BRG_CNT0_LATECPL) + 1) (2 ^ (BRG_CNT0_LATECPL).w - 1)
        ∧ Frame [BRG_CNT0_LATECPL] [] s t) ∧
  (∀ (h : HeldReq) (r : Req) (kd : AccKind) (s : State), Runs s 0xA → s.brg.held = [h] → h.at' + 50000 ≤ freeCnt s → h.who = some (r, kd) → 
    Completes (.completionTimeout) s fun t =>
      t.out = .denied r (faultOf kd) :: s.out
        ∧ t.brg = { s.brg with held := [] }
        ∧ getF t (BRG_CNT0_CPLTO) = min (getF s (BRG_CNT0_CPLTO) + 1) (2 ^ (BRG_CNT0_CPLTO).w - 1)
        ∧ onF t BRG_EVT_CPLTO = true
        ∧ Frame ([BRG_CNT0_CPLTO, BRG_EVT_CPLTO, BRG_STAT_TAGS, BRG_CFGREQ_BUSY] ++ msiFields) [.out, .brg, .ifiles, .waiting, .xings, .quiet] s t) ∧
  (∀ (s : State), Runs s 0xA → (s.brg.held.all (fun h => decide (freeCnt s < h.at' + 50000)) = true) → 
    Completes (.completionTimeout) s fun t =>
      Frame [] [] s t) ∧
  (∀ (k : Fin 4) (p : PfBuf) (s : State), Runs s 0xA → s.brg.pf[k.val]? = some p → p.at' + 1000 * max 1 (liveF s BRG_CTRL_PFAGE) ≤ freeCnt s → 
    Completes (.prefetchExpiry k) s fun t =>
      t.brg = { s.brg with pf := s.brg.pf.eraseIdx k }
        ∧ Frame [BRG_STAT_TAGS, BRG_CFGREQ_BUSY] [.brg] s t)

/-- Inbound requests, messages and the error log. INBOUND_REQUEST through a window: an aligned 32-byte write lands in DRAM and nowhere else, a read of up to 256 bytes answers the bytes; outside every window it counts INREF, and a read is refused; a configuration read of the endpoint answers its function's word, and a write of BAR0 sets it. MSI_RECEIVE as root makes its entry's identity pending; MSIGEN as endpoint with MSI enabled sends the vector's write. ERROR_MESSAGE as root starts a fetch; ERROR_FETCH_DONE without a header log pushes one entry with WIN 0xFF, with one an entry with the address, and writes the status back; ELPOP drops the oldest entry. -/
def Obligations.BridgeInbound : Prop :=
  (∀ (b : Word) (d : List Byte) (x k g : Nat) (s : State), Runs s 0xA → onF s (SYS_ISL_STOPPED 0xA) = false → bridgeUp s = true → (b.toNat ≠ 0xFEE00000 ∨ onF s BRG_CTRL_ROLE = true) → inAddr s b.toNat = some x → (((List.range 8).find? fun j => (inTarget s j x 32).isSome) = some k) → inTarget s k x 32 = some g → Uncached s g → onF s (BRG_IW_0_WR k) = true → regionsAt s g 32 = [] → g % 32 = 0 → d.length = 32 → onF s MEM_INJ_ARM = false → 
    Completes (.inboundRequest false b true 32 d) s fun t =>
      memRaw t g 32 = d
        ∧ MemOutside g 32 s t
        ∧ Frame [] [.mem, .chk, .resv, .quiet] s t) ∧
  (∀ (b : Word) (n : Nat) (d x : List Byte) (y k g : Nat) (s : State), Runs s 0xA → onF s (SYS_ISL_STOPPED 0xA) = false → bridgeUp s = true → inAddr s b.toNat = some y → (((List.range 8).find? fun j => (inTarget s j y n).isSome) = some k) → inTarget s k y n = some g → 1 ≤ n → n ≤ 256 → onF s (BRG_IW_0_RD k) = true → regionsAt s g n = [] → readMem s g n = some x → 
    Completes (.inboundRequest false b false n d) s fun t =>
      t.out = .bytes .bridge x :: s.out
        ∧ Rest [.flds, .out, .waiting, .mem, .chk, .ceHold, .degCnt, .degraded, .pulses, .pulseOvf, .quiet] s t) ∧
  (∀ (o : Fin 1024) (n : Nat) (d : List Byte) (s : State), Runs s 0xA → onF s (SYS_ISL_STOPPED 0xA) = false → bridgeUp s = true → onF s BRG_CTRL_ROLE = true → 1 ≤ n → n ≤ 4 → 
    Completes (.inboundRequest true (BitVec.ofNat 64 (4 * o.val)) false n d) s fun t =>
      t.out = .bytes .bridge ((toLE 4 (epWord s (4 * o.val))).take n) :: s.out
        ∧ Frame [] [.out, .quiet] s t) ∧
  (∀ (d : List Byte) (s : State), Runs s 0xA → onF s (SYS_ISL_STOPPED 0xA) = false → bridgeUp s = true → onF s BRG_CTRL_ROLE = true → d.length = 4 → 
    Completes (.inboundRequest true 0x14 true 4 d) s fun t =>
      t.brg = { s.brg with ep := { s.brg.ep with bar0 := leNat d } }
        ∧ Frame [BRG_STAT_TAGS, BRG_CFGREQ_BUSY] [.brg, .quiet] s t) ∧
  (∀ (b : Word) (n : Nat) (d : List Byte) (s : State), Runs s 0xA → onF s (SYS_ISL_STOPPED 0xA) = false → bridgeUp s = true → ((match inAddr s b.toNat with | none => true | some y => ((List.range 8).find? fun j => (inTarget s j y n).isSome).isNone) = true) → 
    Completes (.inboundRequest false b false n d) s fun t =>
      t.out = .denied .bridge .load :: s.out
        ∧ getF t (BRG_CNT1_INREF) = min (getF s (BRG_CNT1_INREF) + 1) (2 ^ (BRG_CNT1_INREF).w - 1)
        ∧ onF t BRG_EVT_INREF = true
        ∧ (onF s BRG_CTRL_ROLE = false → t.brg = s.brg)
        ∧ Frame ([BRG_CNT1_INREF, BRG_EVT_INREF, BRG_STAT_TAGS, BRG_CFGREQ_BUSY] ++ msiFields) [.out, .ifiles, .waiting, .brg, .xings, .quiet] s t) ∧
  (∀ (i : Option (Fin 4)) (d : BitVec 32) (e p : Nat) (s : State), Runs s 0xA → bridgeUp s = true → onF s BRG_CTRL_ROLE = false → (e = (match i with | some k => 32 + k.val | none => d.toNat % 32)) → 1 ≤ getF s (BRG_MSIRT_EIID e) → getF s (BRG_MSIRT_EIID e) ≤ 255 → filePage (getF s (BRG_MSIRT_HART e)) (getF s (BRG_MSIRT_LEVEL e)) (getF s (BRG_MSIRT_GUEST e)) = some p → CrossOpen s (fileIsland p) 3 (fileIsland p) → 
    Completes (.msiReceive i d) s fun t =>
      isPending t p (getF s (BRG_MSIRT_EIID e)) = true
        ∧ Frame [SYS_ISL_STOPPED (fileIsland p)] [.ifiles, .xings, .quiet] s t) ∧
  (∀ (i : Option (Fin 4)) (d : BitVec 32) (s : State), Runs s 0xA → (bridgeUp s = false ∨ onF s BRG_CTRL_ROLE = true) → 
    Completes (.msiReceive i d) s fun t =>
      Frame [] [] s t) ∧
  (∀ (r : Req) (v : Fin 32) (s : State), Ready s 0xA → bridgeUp s = true → onF s BRG_CTRL_ROLE = true → bit s.brg.ep.msiCtl 0 = true → 
    Completes (.msigen r v) s fun t =>
      t.out = .sent .pcie s.brg.ep.msiAddr (toLE 4 (s.brg.ep.msiData / 32 * 32 + v)) :: s.out
        ∧ Frame [] [.out, .quiet] s t) ∧
  (∀ (r : Req) (v : Fin 32) (s : State), Ready s 0xA → (onF s BRG_CTRL_ROLE = false ∨ bit s.brg.ep.msiCtl 0 = false) → 
    Completes (.msigen r v) s fun t =>
      Frame [] [.quiet] s t) ∧
  (∀ (rid : BitVec 16) (fatal : Bool) (s : State), Runs s 0xA → bridgeUp s = true → onF s BRG_CTRL_ROLE = false → 
    Completes (.errorMessage rid fatal) s fun t =>
      (t.brg = { s.brg with fetches := s.brg.fetches ++ [(rid.toNat, if fatal then 2 else 1, ts96 s)] })
        ∧ onF t BRG_CFGREQ_BUSY = true
        ∧ Frame [BRG_STAT_TAGS, BRG_CFGREQ_BUSY] [.brg] s t) ∧
  (∀ (l : List (Option (BitVec 32))) (rid m x : Nat) (s : State), Runs s 0xA → s.brg.fetches = [(rid, m, x)] → getF s BRG_ELSTAT_COUNT < 16 → (fetchWalk rid 0x100 l s).2 = none → 
    Completes (.errorFetchDone l) s fun t =>
      t.out = (fetchWalk rid 0x100 l s).1.out
        ∧ getF t BRG_ELSTAT_COUNT = getF s BRG_ELSTAT_COUNT + 1
        ∧ getF t (BRG_EL_2_RID ((getF s BRG_ELSTAT_HEAD + getF s BRG_ELSTAT_COUNT) % 16)) = rid % 2 ^ 16
        ∧ getF t (BRG_EL_2_WIN ((getF s BRG_ELSTAT_HEAD + getF s BRG_ELSTAT_COUNT) % 16)) = 0xFF
        ∧ onF t (BRG_EL_2_HLOK ((getF s BRG_ELSTAT_HEAD + getF s BRG_ELSTAT_COUNT) % 16)) = false
        ∧ t.brg = { s.brg with fetches := [] }
        ∧ onF t BRG_EVT_ERRMSG = true
        ∧ Rest [.flds, .out, .brg, .ifiles, .waiting, .xings, .quiet] s t) ∧
  (∀ (l : List (Option (BitVec 32))) (rid m x o sc : Nat) (lg : List Nat) (s : State), Runs s 0xA → s.brg.fetches = [(rid, m, x)] → getF s BRG_ELSTAT_COUNT < 16 → (fetchWalk rid 0x100 l s).2 = some (o, sc, lg) → 
    Completes (.errorFetchDone l) s fun t =>
      t.out = .signal .pcie rid 10 sc :: (fetchWalk rid 0x100 l s).1.out
        ∧ getF t BRG_ELSTAT_COUNT = getF s BRG_ELSTAT_COUNT + 1
        ∧ getF t (BRG_EL_0_ADDR ((getF s BRG_ELSTAT_HEAD + getF s BRG_ELSTAT_COUNT) % 16)) = headerAddr lg % 2 ^ (BRG_EL_0_ADDR 0).w
        ∧ onF t (BRG_EL_2_HLOK ((getF s BRG_ELSTAT_HEAD + getF s BRG_ELSTAT_COUNT) % 16)) = true
        ∧ t.brg = { s.brg with fetches := [] }
        ∧ Rest [.flds, .nfree, .out, .ifiles, .waiting, .brg, .xings, .quiet] s t) ∧
  (∀ (l : List (Option (BitVec 32))) (s : State), Runs s 0xA → s.brg.fetches = [] → 
    Completes (.errorFetchDone l) s fun t =>
      Frame [] [] s t) ∧
  (∀ (r : Req) (s : State), Ready s 0xA → getF s BRG_ELSTAT_COUNT ≠ 0 → 
    Completes (.elpop r) s fun t =>
      getF t BRG_ELSTAT_COUNT = (getF s BRG_ELSTAT_COUNT - 1) % 32
        ∧ getF t BRG_ELSTAT_HEAD = (getF s BRG_ELSTAT_HEAD + 1) % 16
        ∧ Frame [BRG_ELSTAT_COUNT, BRG_ELSTAT_HEAD] [.quiet] s t) ∧
  (∀ (r : Req) (s : State), Ready s 0xA → getF s BRG_ELSTAT_COUNT = 0 → 
    Completes (.elpop r) s fun t =>
      Frame [] [.quiet] s t)

/-- Configuration requests, copies and the link. CFGREQ_GO of an idle root port takes the request and sends it, a misaligned one ends with RESULT 5; CFGREQ_DONE ends it with RESULT and the data of a read, a timeout once 50 µs have passed; COPYOUT of 64 readable bytes posts one line and ends with OK; COPYIN starts with one read; a copy that fails its checks ends with their status; BRIDGE_LINK_DOWN refuses what is held; BRIDGE_LINK_UP shows what trained; PERST_RELEASE lifts PERST# once, 100 ms after EN. -/
def Obligations.BridgeCopies : Prop :=
  (∀ (r : Req) (v : Word) (s : State), Ready s 0xA → onF s BRG_CTRL_ROLE = false → onF s BRG_CTRL_EN = true → onF s BRG_CFGREQ_BUSY = false → bits v.toNat 28 2 ≠ 3 → bits v.toNat 16 12 % 2 ^ bits v.toNat 28 2 = 0 → 
    Completes (.cfgreqGo r v) s fun t =>
      (t.out = .signal .pcie (if bit v.toNat 30 then getF s BRG_CFGDATA_DATA else 0) 4 (bits v.toNat 0 31) :: s.out)
        ∧ onF t BRG_CFGREQ_BUSY = true
        ∧ getF t BRG_CFGREQ_REG = bits v.toNat 16 12
        ∧ t.brg = { s.brg with cfg := true, cfgWr := bit v.toNat 30, cfgAt := freeCnt s }
        ∧ Frame [BRG_CFGREQ_BUS, BRG_CFGREQ_DEV, BRG_CFGREQ_FN, BRG_CFGREQ_REG, BRG_CFGREQ_SIZE, BRG_CFGREQ_WR, BRG_STAT_TAGS, BRG_CFGREQ_BUSY] [.out, .brg, .quiet] s t) ∧
  (∀ (r : Req) (v : Word) (s : State), Ready s 0xA → onF s BRG_CTRL_ROLE = false → onF s BRG_CTRL_EN = true → onF s BRG_CFGREQ_BUSY = false → (bits v.toNat 28 2 = 3 ∨ bits v.toNat 16 12 % 2 ^ bits v.toNat 28 2 ≠ 0) → 
    Completes (.cfgreqGo r v) s fun t =>
      getF t BRG_CFGREQ_RESULT = 5
        ∧ Frame [BRG_CFGREQ_BUS, BRG_CFGREQ_DEV, BRG_CFGREQ_FN, BRG_CFGREQ_REG, BRG_CFGREQ_SIZE, BRG_CFGREQ_WR, BRG_CFGREQ_RESULT] [.quiet] s t) ∧
  (∀ (res : Fin 8) (d : BitVec 32) (s : State), Runs s 0xA → s.brg.cfg = true → 1 ≤ res.val → (res.val ≤ 3 ∨ (res = 4 ∧ s.brg.cfgAt + 50000 ≤ freeCnt s)) → 
    Completes (.cfgreqDone res d) s fun t =>
      getF t BRG_CFGREQ_RESULT = res
        ∧ t.brg = { s.brg with cfg := false }
        ∧ (res = 1 → s.brg.cfgWr = false → getF t BRG_CFGDATA_DATA = d.toNat)
        ∧ Frame [BRG_CFGREQ_RESULT, BRG_CFGDATA_DATA, BRG_STAT_TAGS, BRG_CFGREQ_BUSY] [.brg] s t) ∧
  (∀ (res : Fin 8) (d : BitVec 32) (s : State), Runs s 0xA → (s.brg.cfg = false ∨ res = 0 ∨ 5 ≤ res.val ∨ (res = 4 ∧ freeCnt s < s.brg.cfgAt + 50000)) → 
    Completes (.cfgreqDone res d) s fun t =>
      Frame [] [] s t) ∧
  (∀ (o : QOp) (k : Nat) (x : List Byte) (s : State), Runs s 0xA → freshOpc s 0x900 1 = some o → o.epoch = getF s (QEPOCH_EPOCH 0x900) → s.qops = [o] → o.n = 1 → s.brg.held = [] → checkCopy s (opDesc s o) false = none → copyLen (opDesc s o) = 64 → windowAt s (copyLocal (opDesc s o)) = some k → readMem s (copyDram (opDesc s o)) 64 = some x → onF s (BRG_OW_0_NP k) = false → 
    Completes (.copyout) s fun t =>
      t.out = .sent .pcie (toBackplane s k (copyLocal (opDesc s o))) x :: s.out
        ∧ t.qops = [{ o with started := true, done := some { status := stOK, ts := ts96 s, res := 1 } }]
        ∧ Rest [.flds, .nfree, .out, .qops, .onceCycle, .waiting, .mem, .chk, .caches, .ceHold, .degCnt, .degraded, .brg, .pulses, .pulseOvf] s t) ∧
  (∀ (o : QOp) (c : Nat) (s : State), Runs s 0xA → freshOpc s 0x900 1 = some o → o.epoch = getF s (QEPOCH_EPOCH 0x900) → s.qops = [o] → s.brg.held = [] → checkCopy s (opDesc s o) false = some c → 
    Completes (.copyout) s fun t =>
      t.qops = [{ o with started := true, done := some { status := c } }]
        ∧ Frame [] [.qops] s t) ∧
  (∀ (o : QOp) (k g : Nat) (s : State), Runs s 0xA → freshOpc s 0x900 2 = some o → o.epoch = getF s (QEPOCH_EPOCH 0x900) → s.qops = [o] → s.brg.held = [] → checkCopy s (opDesc s o) true = none → windowAt s (copyLocal (opDesc s o)) = some k → freeTag s = some g → 
    Completes (.copyin) s fun t =>
      t.out = .signal .pcie 64 3 (toBackplane s k (copyLocal (opDesc s o))) :: s.out
        ∧ t.brg.lines = 0
        ∧ t.brg.held = [{ who := none, win := k, addr := toBackplane s k (copyLocal (opDesc s o)), len := 64, flush := false, tag := some g, at' := freeCnt s }]
        ∧ t.qops = [{ o with started := true }]
        ∧ Frame [BRG_STAT_TAGS, BRG_CFGREQ_BUSY] [.out, .qops, .brg] s t) ∧
  (∀ (s : State), Runs s 0xA → freshOpc s 0x900 2 = none → 
    Completes (.copyin) s fun t =>
      Frame [] [] s t) ∧
  (∀ (h : HeldReq) (r : Req) (kd : AccKind) (s : State), Runs s 0xA → s.brg.held = [h] → h.who = some (r, kd) → s.brg.fetches = [] → s.brg.cfg = false → 
    Completes (.bridgeLinkDown false 0) s fun t =>
      t.out = .denied r (faultOf kd) :: s.out
        ∧ t.brg = { s.brg with held := [], pf := [], ep := {} }
        ∧ onF t BRG_STAT_LINK = false
        ∧ getF t BRG_STAT_SPEED = 0
        ∧ getF t BRG_STAT_WIDTH = 0
        ∧ Frame ([BRG_STAT_LINK, BRG_STAT_SPEED, BRG_STAT_WIDTH, BRG_CNT1_PWDROP, BRG_EVT_LINKCHG, BRG_STAT_TAGS, BRG_CFGREQ_BUSY] ++ msiFields) [.out, .brg, .ifiles, .waiting, .xings, .quiet] s t) ∧
  (∀ (dis : Bool) (n : Nat) (s : State), Runs s 0xA → s.brg.held = [] → 1 ≤ n → s.brg.fetches = [] → s.brg.cfg = false → 
    Completes (.bridgeLinkDown dis n) s fun t =>
      t.out = .signal .pcie 0 6 n :: s.out
        ∧ t.brg = { s.brg with held := [], pf := [], ep := {} }
        ∧ onF t BRG_STAT_LINK = false
        ∧ getF t BRG_CNT1_PWDROP = min (getF s BRG_CNT1_PWDROP + n) (2 ^ BRG_CNT1_PWDROP.w - 1)
        ∧ onF t BRG_CTRL_EN = (onF s BRG_CTRL_EN && !dis)
        ∧ Rest [.flds, .nfree, .out, .qops, .ifiles, .waiting, .brg, .xings, .quiet] s t) ∧
  (∀ (sp : Fin 4) (w : Fin 5) (s : State), Runs s 0xA → onF s BRG_CTRL_EN = true → getF s BRG_CTRL_MAXSPD = 0 → getF s BRG_CTRL_MAXW = 0 → 
    Completes (.bridgeLinkUp sp w) s fun t =>
      onF t BRG_STAT_LINK = true
        ∧ getF t BRG_STAT_SPEED = min (max 1 sp.val) 3
        ∧ (getF t BRG_STAT_WIDTH = (if 4 ≤ w.val then 4 else if 2 ≤ w.val then 2 else 1))
        ∧ t.brg = { s.brg with pf := [] }
        ∧ Frame ([BRG_STAT_LINK, BRG_STAT_SPEED, BRG_STAT_WIDTH, BRG_EVT_LINKCHG, BRG_STAT_TAGS, BRG_CFGREQ_BUSY] ++ msiFields) [.brg, .ifiles, .waiting, .xings, .quiet] s t) ∧
  (∀ (sp : Fin 4) (w : Fin 5) (s : State), Runs s 0xA → onF s BRG_CTRL_EN = false → 
    Completes (.bridgeLinkUp sp w) s fun t =>
      Frame [] [] s t) ∧
  (∀ (s : State), Runs s 0xA → onF s BRG_CTRL_EN = true → onF s BRG_CTRL_ROLE = false → s.brg.perst = false → s.brg.enAt ≠ 0 → s.brg.enAt - 1 + 100000000 ≤ freeCnt s → 
    Completes (.perstRelease) s fun t =>
      t.out = .signal .pcie 0 7 1 :: s.out
        ∧ t.brg = { s.brg with perst := true }
        ∧ Frame [BRG_STAT_TAGS, BRG_CFGREQ_BUSY] [.out, .brg] s t) ∧
  (∀ (s : State), Runs s 0xA → (onF s BRG_CTRL_EN = false ∨ onF s BRG_CTRL_ROLE = true ∨ s.brg.perst = true ∨ freeCnt s < s.brg.enAt - 1 + 100000000) → 
    Completes (.perstRelease) s fun t =>
      Frame [] [] s t)

/-- Field inputs: filters, pulses, pairs and speed. FIO_SCAN of voltages that read as every input's accepted level, with nothing to publish, changes no register, and an input that has differed for its filter time takes the new level and counts it, not before; FIELD_PUBLISH takes the oldest queued publication, shows its VALID and writes its Chart entry where R230 accepts it, and without one or without a free lane does nothing; WETTING_PULSE pulses an input with WET when it is due and no other; TPFAULT without the check, or where the frame shows nothing, does nothing, a frame that shows a wrong pattern sets TPFAULT, counts and marks the channel, a right one clears it; DISCFAULT latches where the pair has disagreed long enough and not where it agrees; SPEED_EDGE counts the edge and shows the time since the last one; ZERO_SPEED_TIMEOUT shows no period after ZTIME and nothing before. -/
def Obligations.FieldInputs : Prop :=
  (∀ (mid : BitVec 128) (volts : List (Nat × Int)) (s : State), (∀ c : Fin 118, isInput c = true → bit (sampled mid.toNat volts s) c = level s c) → (∀ p : Fin 8, level s (0x58 + p) = pairActive s p ∧ onF s (FIO_CHSTAT_DISCFAULT (0x58 + p)) = false) → s.fio.dirty = [] → s.fio.refresh = false → 
    Completes (.fioScan mid volts) s fun t =>
      t.fio.pubs = s.fio.pubs
        ∧ (∀ c : Fin 118, isInput c = true → (isSI c && onF s (FIO_CHCFG_TPCHK c) && inWindow s.fio.tf.pos (getF s (FIO_CHCFG_TPSEL c))) = false → kget 0 t.fio.filt c = 0)
        ∧ Frame [] [.fio, .live, .pendL] s t) ∧
  (∀ (mid : BitVec 128) (volts : List (Nat × Int)) (c : Fin 48) (s : State), bit (sampled mid.toNat volts s) c ≠ level s c → filtScans (takeLive 10 none s) c ≤ kget 0 s.fio.filt c → 
    Completes (.fioScan mid volts) s fun t =>
      level t c = bit (sampled mid.toNat volts s) c
        ∧ getF t (FIO_CHCNT_CHANGES c) = min (getF s (FIO_CHCNT_CHANGES c) + 1) (2 ^ (FIO_CHCNT_CHANGES c).w - 1)
        ∧ kget 0 t.fio.filt c = 0
        ∧ Rest [.flds, .live, .pendL, .fio] s t) ∧
  (∀ (mid : BitVec 128) (volts : List (Nat × Int)) (c : Fin 48) (s : State), bit (sampled mid.toNat volts s) c ≠ level s c → kget 0 s.fio.filt c < filtScans (takeLive 10 none s) c → 
    Completes (.fioScan mid volts) s fun t =>
      level t c = level s c
        ∧ kget 0 t.fio.filt c = kget 0 s.fio.filt c + 1
        ∧ Rest [.flds, .live, .pendL, .fio] s t) ∧
  (∀ (s : State), s.fio.pubs = [] → 
    Completes (.fieldPublish) s fun t =>
      Frame [] [] s t) ∧
  (∀ (s : State), laneFree 5 3 0 s.xings = false → 
    Completes (.fieldPublish) s fun t =>
      Frame [] [] s t) ∧
  (∀ (p : FioPub) (q : List FioPub) (s : State), s.fio.pubs = p :: q → laneFree 5 3 0 s.xings = true → onF s CHT_CTRL_EN = false → 
    Completes (.fieldPublish) s fun t =>
      t.fio = { s.fio with pubs := q }
        ∧ onF t (FIO_CHSTAT_VALID p.ch) = p.valid
        ∧ Frame [FIO_CHSTAT_VALID p.ch, SYS_ISL_STOPPED 6] [.fio, .xings, .quiet] s t) ∧
  (∀ (p : FioPub) (q : List FioPub) (e : Entry) (s : State), s.fio.pubs = p :: q → onF s CHT_CTRL_EN = true → CrossOpen s 5 3 6 → liveF s (FIO_CHSIG_SIGID p.ch) ≠ 0 → entryOf s (liveF s (FIO_CHSIG_SIGID p.ch)) = some e → judge s e (.input (20 * 2048 + p.ch)) false = .write → e.watch = false → onF s MEM_INJ_ARM = false → Uncached s (32 * sigCw (liveF s (FIO_CHSIG_SIGID p.ch))) → 
    Completes (.fieldPublish) s fun t =>
      t.fio = { s.fio with pubs := q }
        ∧ onF t (FIO_CHSTAT_VALID p.ch) = p.valid
        ∧ memRaw t (32 * sigCw (liveF s (FIO_CHSIG_SIGID p.ch))) 32 = entBytes (updated e p.value p.ts (b2n p.valid) (20 * 2048 + p.ch))
        ∧ Rest [.flds, .nfree, .ifiles, .onceCycle, .waiting, .mem, .chk, .caches, .ceHold, .degCnt, .degraded, .triads, .resv, .chart, .fio, .pulses, .pulseOvf, .xings, .quiet, .prl] s t) ∧
  (∀ (n : Fin 48) (s : State), wetDue n s = true → onF s (FIO_CHCFG_WET n) = true → 
    Completes (.wettingPulse n) s fun t =>
      t.out = .signal .faLink n 2 1 :: s.out
        ∧ Frame [] [.out] s t) ∧
  (∀ (n : Fin 48) (s : State), (wetDue n s = false ∨ onF s (FIO_CHCFG_WET n) = false) → 
    Completes (.wettingPulse n) s fun t =>
      Frame [] [] s t) ∧
  (∀ (n : Fin 16) (s : State), (onF s (FIO_CHCFG_TPCHK (0x48 + n)) = false ∨ pulseCheck s n = none) → 
    Completes (.tpfault n) s fun t =>
      Frame [] [] s t) ∧
  (∀ (n : Fin 16) (s : State), onF s (FIO_CHCFG_TPCHK (0x48 + n)) = true → pulseCheck s n = some false → onF s (FIO_CHSTAT_TPFAULT (0x48 + n)) = false → 
    Completes (.tpfault n) s fun t =>
      onF t (FIO_CHSTAT_TPFAULT (0x48 + n)) = true
        ∧ getF t (FIO_CHCNT_FAULTS (0x48 + n)) = min (getF s (FIO_CHCNT_FAULTS (0x48 + n)) + 1) (2 ^ (FIO_CHCNT_FAULTS (0x48 + n)).w - 1)
        ∧ onF t FIO_EVT_FAULT = true
        ∧ (t.fio.dirty.contains ((0x48 + n)) = true ∨ (fieldValue t ((0x48 + n)) = fieldValue s ((0x48 + n)) ∧ fieldValid t ((0x48 + n)) = fieldValid s ((0x48 + n))))
        ∧ (t.fio.dirty.contains (0x58 + n / 2) = true ∨ (fieldValue t (0x58 + n / 2) = fieldValue s (0x58 + n / 2) ∧ fieldValid t (0x58 + n / 2) = fieldValid s (0x58 + n / 2)))
        ∧ Frame ([FIO_CHSTAT_TPFAULT (0x48 + n), FIO_CHCNT_FAULTS (0x48 + n), FIO_EVT_FAULT] ++ msiFields) [.fio, .ifiles, .waiting, .xings, .quiet] s t) ∧
  (∀ (n : Fin 16) (s : State), onF s (FIO_CHCFG_TPCHK (0x48 + n)) = true → pulseCheck s n = some true → 
    Completes (.tpfault n) s fun t =>
      onF t (FIO_CHSTAT_TPFAULT (0x48 + n)) = false
        ∧ Frame [FIO_CHSTAT_TPFAULT (0x48 + n)] [.fio] s t) ∧
  (∀ (p : Fin 8) (s : State), onF s (FIO_CHCFG_EN (0x58 + p)) = true → (pairShows s p).1 ≠ (pairShows s p).2 → 100 * orElse (liveF s (FIO_CHCFG_DISC (0x58 + p))) 10 1000 100 < kget 0 s.fio.apart p → onF s (FIO_CHSTAT_DISCFAULT (0x58 + p)) = false → 
    Completes (.discfault p) s fun t =>
      onF t (FIO_CHSTAT_DISCFAULT (0x58 + p)) = true
        ∧ getF t (FIO_CHCNT_FAULTS (0x58 + p)) = min (getF s (FIO_CHCNT_FAULTS (0x58 + p)) + 1) (2 ^ (FIO_CHCNT_FAULTS (0x58 + p)).w - 1)
        ∧ onF t FIO_EVT_FAULT = true
        ∧ (t.fio.dirty.contains ((0x58 + p)) = true ∨ (fieldValue t ((0x58 + p)) = fieldValue s ((0x58 + p)) ∧ fieldValid t ((0x58 + p)) = fieldValid s ((0x58 + p))))
        ∧ Frame ([FIO_CHSTAT_DISCFAULT (0x58 + p), FIO_CHCNT_FAULTS (0x58 + p), FIO_EVT_FAULT] ++ msiFields) [.fio, .ifiles, .waiting, .xings, .quiet] s t) ∧
  (∀ (p : Fin 8) (s : State), (onF s (FIO_CHCFG_EN (0x58 + p)) = false ∨ (pairShows s p).1 = (pairShows s p).2 ∨ kget 0 s.fio.apart p ≤ 100 * orElse (liveF s (FIO_CHCFG_DISC (0x58 + p))) 10 1000 100) → 
    Completes (.discfault p) s fun t =>
      Frame [] [] s t) ∧
  (∀ (n : Fin 4) (x : Nat) (s : State), kget 0 s.fio.edge n = 0 → 
    Completes (.speedEdge n x) s fun t =>
      getF t (FIO_CHRB_EDGES (0x70 + n)) = (getF s (FIO_CHRB_EDGES (0x70 + n)) + 1) % 2 ^ (FIO_CHRB_EDGES (0x70 + n)).w
        ∧ kget 0 t.fio.edge n = x + 1
        ∧ Frame [FIO_CHRB_EDGES (0x70 + n)] [.fio] s t) ∧
  (∀ (n : Fin 4) (x y : Nat) (s : State), kget 0 s.fio.edge n = y + 1 → 4000 ≤ x - y → onF s (FIO_CHSTAT_OVERFREQ (0x70 + n)) = false → 
    Completes (.speedEdge n x) s fun t =>
      getF t (FIO_CHRB_PERIOD (0x70 + n)) = min (x - y) 0xFFFFFFFF % 2 ^ (FIO_CHRB_PERIOD (0x70 + n)).w
        ∧ getF t (FIO_CHRB_EDGES (0x70 + n)) = (getF s (FIO_CHRB_EDGES (0x70 + n)) + 1) % 2 ^ (FIO_CHRB_EDGES (0x70 + n)).w
        ∧ Frame [FIO_CHRB_EDGES (0x70 + n), FIO_CHRB_PERIOD (0x70 + n)] [.fio] s t) ∧
  (∀ (n : Fin 4) (x y : Nat) (s : State), kget 0 s.fio.edge n = y + 1 → x - y < 4000 → onF s (FIO_CHSTAT_OVERFREQ (0x70 + n)) = false → 
    Completes (.speedEdge n x) s fun t =>
      onF t (FIO_CHSTAT_OVERFREQ (0x70 + n)) = true
        ∧ getF t (FIO_CHRB_PERIOD (0x70 + n)) = x - y
        ∧ Frame [FIO_CHRB_EDGES (0x70 + n), FIO_CHRB_PERIOD (0x70 + n), FIO_CHSTAT_OVERFREQ (0x70 + n)] [.fio] s t) ∧
  (∀ (n : Fin 4) (ms : Nat) (s : State), orElse (liveF s (FIO_CHCFG_ZTIME (0x70 + n))) 10 10000 1000 ≤ ms → 
    Completes (.zeroSpeedTimeout n ms) s fun t =>
      getF t (FIO_CHRB_PERIOD (0x70 + n)) = 0xFFFFFFFF
        ∧ Frame [FIO_CHRB_PERIOD (0x70 + n)] [.fio] s t) ∧
  (∀ (n : Fin 4) (ms : Nat) (s : State), ms < orElse (liveF s (FIO_CHCFG_ZTIME (0x70 + n))) 10 10000 1000 → 
    Completes (.zeroSpeedTimeout n ms) s fun t =>
      Frame [] [] s t)

/-- Field outputs: commands, readback and faults. DOCMD_WRITE stores CMD and, unless the watchdog has expired, makes it the commands in force; OUTPUT_READBACK below 160 °C shows voltage, current and junction, and the levels that its voltages read as; OVERLOAD of a closed switch that has been in limit for OLT latches, counts and opens it, and otherwise changes nothing; OPENWIRE of a closed unpaired output after 100 ms of little current is latched with its count, EXTDRIVE of an open one after 1 ms of ON too, a paired one with its partner closed shows PARTNERON, and none where the switch stands the other way; CHSTAT_CLRF clears an overload and leaves an input alone; SUPPLY_MEASURE shows the voltage, keeps a NORMAL supply above 70 % of nominal, and one below 50 % for 1 ms becomes LOST; FIO_ENABLE_WRITE shows EN and, on disabling, drops the queued publications and stops the watchdog. -/
def Obligations.FieldOutputs : Prop :=
  (∀ (r : Req) (cmd : BitVec 24) (s : State), onF s FIO_WDOG_EXP = true → 
    Completes (.docmdWrite r cmd) s fun t =>
      getF t FIO_DOCMD_CMD = cmd.toNat
        ∧ Frame [FIO_DOCMD_CMD] [] s t) ∧
  (∀ (r : Req) (cmd : BitVec 24) (s : State), onF s FIO_WDOG_EXP = false → 
    Completes (.docmdWrite r cmd) s fun t =>
      getF t FIO_DOCMD_CMD = cmd.toNat
        ∧ (∀ n : Fin 24, bit t.fio.doForce n = cmd.getLsbD n)
        ∧ Frame ([FIO_DOCMD_CMD] ++ ((List.range 24).flatMap fun n => [FIO_CHSTAT_OVERLOAD (0x30 + n), FIO_CHSTAT_OVERTEMP (0x30 + n)]) ++ (outputs.flatMap fun c => [FIO_CHSTAT_OPENWIRE c, FIO_CHCNT_CHANGES c])) [.out, .fio] s t) ∧
  (∀ (c : Fin 128) (u i : BitVec 16) (tj : Int) (um : BitVec 16) (s : State), (isDO c.val = true ∨ isSO c.val = true) → tj < 160 → 
    Completes (.outputReadback c u i tj um) s fun t =>
      getF t (FIO_CHRB_U c) = u.toNat
        ∧ getF t (FIO_CHRB_I c) = i.toNat
        ∧ getF t (FIO_CHRB_TJ c) = ofInt 16 tj
        ∧ level t c = pinOn s (groupOf c) u.toNat
        ∧ (isSO c.val = true → bitF t FIO_SOSTAT_FASW (c - 0x60) = pinOn s (groupOf c) um.toNat ∧ bitF t FIO_SOSTAT_OUT (c - 0x60) = pinOn s (groupOf c) u.toNat)
        ∧ Frame [FIO_CHRB_U c, FIO_CHRB_I c, FIO_CHRB_TJ c, FIO_CHSTAT_LEVEL c, FIO_SOSTAT_OUT, FIO_SOSTAT_FASW, FIO_SOSTAT_EXTDRIVE, FIO_CHSTAT_EXTDRIVE c, FIO_CHSTAT_PARTNERON c, FIO_CHSTAT_OPENWIRE c] [.fio] s t) ∧
  (∀ (c : Fin 128) (u i : BitVec 16) (tj : Int) (um : BitVec 16) (s : State), isDO c.val = false → isSO c.val = false → 
    Completes (.outputReadback c u i tj um) s fun t =>
      Frame [] [] s t) ∧
  (∀ (c : Fin 128) (ms : Nat) (s : State), (isDO c.val = true ∨ isSO c.val = true) → bit s.fio.sw (swBit c) = true → oltOf s c ≤ ms → supState s (groupOf c) ≠ 2 → sinceLost s (groupOf c) (oltOf s c) = true → onF s (FIO_CHSTAT_OVERLOAD c) = false → 
    Completes (.overload c ms) s fun t =>
      onF t (FIO_CHSTAT_OVERLOAD c) = true
        ∧ getF t (FIO_CHCNT_FAULTS c.val) = min (getF s (FIO_CHCNT_FAULTS c.val) + 1) (2 ^ (FIO_CHCNT_FAULTS c.val).w - 1)
        ∧ onF t FIO_EVT_FAULT = true
        ∧ (t.fio.dirty.contains (c.val) = true ∨ (fieldValue t (c.val) = fieldValue s (c.val) ∧ fieldValid t (c.val) = fieldValid s (c.val)))
        ∧ bit t.fio.sw (swBit c) = false
        ∧ getF t (FIO_CHCNT_CHANGES c) = min (getF s (FIO_CHCNT_CHANGES c) + 1) (2 ^ (FIO_CHCNT_CHANGES c).w - 1)
        ∧ t.out = .signal .faLink c 1 0 :: s.out
        ∧ Frame ([FIO_CHSTAT_OVERLOAD c, FIO_CHCNT_FAULTS c.val, FIO_EVT_FAULT, FIO_CHSTAT_OPENWIRE c, FIO_CHCNT_CHANGES c] ++ msiFields) [.out, .fio, .ifiles, .waiting, .xings, .quiet] s t) ∧
  (∀ (c : Fin 128) (ms : Nat) (s : State), (bit s.fio.sw (swBit c) = false ∨ ms < oltOf s c ∨ supState s (groupOf c) = 2 ∨ sinceLost s (groupOf c) (oltOf s c) = false) → 
    Completes (.overload c ms) s fun t =>
      Frame [] [] s t) ∧
  (∀ (c : Fin 128) (s : State), isDO c.val = true → 1001 ≤ kget 0 s.fio.lowRun c → bit s.fio.sw (swBit c) = true → onF s (FIO_CHCFG_PAIRED c) = false → supState s (groupOf c) ≠ 2 → onF s (FIO_CHSTAT_OPENWIRE c) = false → 
    Completes (.openwire c) s fun t =>
      onF t (FIO_CHSTAT_OPENWIRE c) = true
        ∧ getF t (FIO_CHCNT_FAULTS c.val) = min (getF s (FIO_CHCNT_FAULTS c.val) + 1) (2 ^ (FIO_CHCNT_FAULTS c.val).w - 1)
        ∧ onF t FIO_EVT_FAULT = true
        ∧ (t.fio.dirty.contains (c.val) = true ∨ (fieldValue t (c.val) = fieldValue s (c.val) ∧ fieldValid t (c.val) = fieldValid s (c.val)))
        ∧ Frame ([FIO_CHSTAT_OPENWIRE c, FIO_CHCNT_FAULTS c.val, FIO_EVT_FAULT] ++ msiFields) [.fio, .ifiles, .waiting, .xings, .quiet] s t) ∧
  (∀ (c : Fin 128) (s : State), (isDO c.val = false ∨ kget 0 s.fio.lowRun c < 1001 ∨ bit s.fio.sw (swBit c) = false ∨ onF s (FIO_CHCFG_PAIRED c) = true ∨ supState s (groupOf c) = 2) → 
    Completes (.openwire c) s fun t =>
      Frame [] [] s t) ∧
  (∀ (c : Fin 128) (s : State), (isDO c.val = true ∨ isSO c.val = true) → bit s.fio.sw (swBit c) = false → 11 ≤ kget 0 s.fio.onRun c → onF s (FIO_CHCFG_PAIRED c) = false → onF s (FIO_CHSTAT_EXTDRIVE c) = false → 
    Completes (.extdrive c) s fun t =>
      onF t (FIO_CHSTAT_EXTDRIVE c) = true
        ∧ getF t (FIO_CHCNT_FAULTS c.val) = min (getF s (FIO_CHCNT_FAULTS c.val) + 1) (2 ^ (FIO_CHCNT_FAULTS c.val).w - 1)
        ∧ onF t FIO_EVT_FAULT = true
        ∧ (t.fio.dirty.contains (c.val) = true ∨ (fieldValue t (c.val) = fieldValue s (c.val) ∧ fieldValid t (c.val) = fieldValid s (c.val)))
        ∧ (isSO c.val = true → bitF t FIO_SOSTAT_EXTDRIVE (c - 0x60) = true)
        ∧ Frame ([FIO_CHSTAT_EXTDRIVE c, FIO_CHCNT_FAULTS c.val, FIO_EVT_FAULT, FIO_SOSTAT_EXTDRIVE] ++ msiFields) [.fio, .ifiles, .waiting, .xings, .quiet] s t) ∧
  (∀ (c : Fin 128) (s : State), isDO c.val = true → bit s.fio.sw (swBit c) = false → 11 ≤ kget 0 s.fio.onRun c → onF s (FIO_CHCFG_PAIRED c) = true → onF s (FIO_CHCFG_PEXT c) = false → getF s (FIO_CHCFG_PARTNER c) < 24 → groupOf (0x30 + getF s (FIO_CHCFG_PARTNER c)) = groupOf c → bit s.fio.sw (getF s (FIO_CHCFG_PARTNER c)) = true → 
    Completes (.extdrive c) s fun t =>
      onF t (FIO_CHSTAT_PARTNERON c) = true
        ∧ Frame [FIO_CHSTAT_PARTNERON c] [] s t) ∧
  (∀ (c : Fin 128) (s : State), (bit s.fio.sw (swBit c) = true ∨ kget 0 s.fio.onRun c < 11) → 
    Completes (.extdrive c) s fun t =>
      Frame [] [] s t) ∧
  (∀ (r : Req) (c : Fin 128) (s : State), (isDO c.val = true ∨ isSO c.val = true) → switchOn s c = false → latched s c = true → 
    Completes (.chstatClrf r c) s fun t =>
      onF t (FIO_CHSTAT_OVERLOAD c) = false
        ∧ (junction s c < 140 → onF t (FIO_CHSTAT_OVERTEMP c) = false)
        ∧ (140 ≤ junction s c → onF t (FIO_CHSTAT_OVERTEMP c) = onF s (FIO_CHSTAT_OVERTEMP c))
        ∧ Frame [FIO_CHSTAT_OVERLOAD c, FIO_CHSTAT_OVERTEMP c, FIO_CHSTAT_OPENWIRE c, FIO_CHCNT_CHANGES c] [.out, .fio] s t) ∧
  (∀ (r : Req) (c : Fin 128) (s : State), isDO c.val = false → isSO c.val = false → 
    Completes (.chstatClrf r c) s fun t =>
      Frame [] [] s t) ∧
  (∀ (g : Fin 3) (u : BitVec 16) (s : State), supState s g = 0 → 70 * (10 * classVolts (bits (getF s FIO_GRPCFG_SUPCLS) (2 * g) 2)) ≤ 100 * u.toNat → 
    Completes (.supplyMeasure g u) s fun t =>
      bits (getF t FIO_SUPV_U) (16 * g) 16 = u.toNat
        ∧ Frame [FIO_SUPV_U] [.fio] s t) ∧
  (∀ (g : Fin 3) (u : BitVec 16) (s : State), supState s g ≠ 2 → 100 * u.toNat < 50 * (10 * classVolts (bits (getF s FIO_GRPCFG_SUPCLS) (2 * g) 2)) → 10 ≤ (s.fio.sup.getD g {}).lo50 → 
    Completes (.supplyMeasure g u) s fun t =>
      supState t g = 2
        ∧ onF t FIO_EVT_SUPCHG = true
        ∧ bits (getF t FIO_SUPV_U) (16 * g) 16 = u.toNat
        ∧ (∀ c : Fin 118, (isDO c = true ∨ isSO c = true) → groupOf c = g.val → onF t (FIO_CHSTAT_SUPLOST c) = true)
        ∧ Rest [.flds, .ifiles, .waiting, .fio, .xings, .quiet] s t) ∧
  (∀ (r : Req) (s : State), 
    Completes (.fioEnableWrite r false) s fun t =>
      onF t FIO_CTRL_EN = false
        ∧ onF t FIO_WDOG_WDEN = false
        ∧ t.fio.pubs = []
        ∧ t.fio.dirty = []
        ∧ t.fio.sw % 2 ^ 32 = 0
        ∧ Frame ([FIO_CTRL_EN, FIO_WDOG_WDEN] ++ (outputs.flatMap fun c => [FIO_CHSTAT_OPENWIRE c, FIO_CHCNT_CHANGES c])) [.out, .fio] s t) ∧
  (∀ (r : Req) (s : State), 
    Completes (.fioEnableWrite r true) s fun t =>
      onF t FIO_CTRL_EN = true
        ∧ t.fio.pubs = s.fio.pubs
        ∧ Frame ([FIO_CTRL_EN] ++ (outputs.flatMap fun c => [FIO_CHSTAT_OPENWIRE c, FIO_CHCNT_CHANGES c])) [.out, .fio] s t)

/-- Ownership, requests, forced-off and the watchdog. SOOWN_WRITE gives each unowned or own output that is not requested its new owner and leaves the others; a write that is not voted changes no ownership; DOSAFE_WRITE with a wrong complement only sets OWNERR, and otherwise sets the named requests of the writer's own outputs; FORCED_OFF clears the requests of the triad's outputs and shows FORCED; WATCHDOG_START enables it once; WATCHDOG_KICK with the key restarts TIME and with another counts BADKEY; WATCHDOG_EXPIRY after TIME, or after 50 µs of silence on the FA link, sets EXP and clears every request, and before changes nothing; WATCHDOG_CLEAR with the link up clears EXP and puts DOCMD in force. -/
def Obligations.SafetyOutputs : Prop :=
  (∀ (k : Fin 4) (own : BitVec 24) (s : State), 
    Completes (.soownWrite (.triad k) own) s fun t =>
      (∀ n : Fin 8, bits (getF t FIO_SOOWN_OWN) (3 * n) 3 = if (bits (getF s FIO_SOOWN_OWN) (3 * n) 3 < 4 ∨ soOwner s n = some k.val) ∧ bitF s FIO_DOSAFE_REQ n = false then bits own.toNat (3 * n) 3 else bits (getF s FIO_SOOWN_OWN) (3 * n) 3)
        ∧ Frame ([FIO_SOOWN_OWN, FIO_EVT_OWNERR] ++ msiFields) [.ifiles, .waiting, .xings, .quiet] s t) ∧
  (∀ (own : BitVec 24) (s : State), 
    Completes (.soownWrite .debugger own) s fun t =>
      getF t (FIO_SOOWN_OWN) = getF s (FIO_SOOWN_OWN)
        ∧ Frame msiFields [.waiting, .xings, .quiet] s t) ∧
  (∀ (k : Fin 4) (v : BitVec 24) (s : State), bits v.toNat 16 8 ≠ 255 - bits v.toNat 0 8 → 
    Completes (.dosafeWrite (.triad k) v) s fun t =>
      onF t FIO_EVT_OWNERR = true
        ∧ Frame (FIO_EVT_OWNERR :: msiFields) [.ifiles, .waiting, .xings, .quiet] s t) ∧
  (∀ (k : Fin 4) (v : BitVec 24) (s : State), bits v.toNat 16 8 = 255 - bits v.toNat 0 8 → onF s FIO_WDOG_EXP = false → (∀ n : Fin 8, v.getLsbD (8 + n) = true → soOwner s n = some k.val) → 
    Completes (.dosafeWrite (.triad k) v) s fun t =>
      (∀ n : Fin 8, bitF t FIO_DOSAFE_REQ n = if v.getLsbD (8 + n) then v.getLsbD n else bitF s FIO_DOSAFE_REQ n)
        ∧ Frame ([FIO_DOSAFE_REQ, FIO_DOSAFE_NREQ, FIO_SOSTAT_FAREQ] ++ ((List.range 8).flatMap fun n => [FIO_CHSTAT_OVERLOAD (0x60 + n), FIO_CHSTAT_OVERTEMP (0x60 + n)]) ++ (outputs.flatMap fun c => [FIO_CHSTAT_OPENWIRE c, FIO_CHCNT_CHANGES c])) [.out, .fio] s t) ∧
  (∀ (k : Fin 4) (s : State), forcedOff s k = true → 
    Completes (.forcedOff k) s fun t =>
      (∀ n : Fin 8, soOwner s n = some k.val → bitF t FIO_DOSAFE_REQ n = false ∧ bitF t FIO_SOSTAT_FORCED n = true)
        ∧ (∀ n : Fin 8, soOwner s n ≠ some k.val → bitF t FIO_DOSAFE_REQ n = bitF s FIO_DOSAFE_REQ n)
        ∧ Frame ([FIO_DOSAFE_REQ, FIO_DOSAFE_NREQ, FIO_SOSTAT_FAREQ, FIO_SOSTAT_FORCED] ++ (outputs.flatMap fun c => [FIO_CHSTAT_OPENWIRE c, FIO_CHCNT_CHANGES c])) [.out, .fio] s t) ∧
  (∀ (k : Fin 4) (s : State), forcedOff s k = false → 
    Completes (.forcedOff k) s fun t =>
      Frame [] [] s t) ∧
  (∀ (r : Req) (s : State), onF s FIO_WDOG_WDEN = false → 
    Completes (.watchdogStart r) s fun t =>
      onF t FIO_WDOG_WDEN = true
        ∧ t.fio = { s.fio with wdKick := freeCnt s }
        ∧ Frame [FIO_WDOG_WDEN] [.fio] s t) ∧
  (∀ (r : Req) (s : State), onF s FIO_WDOG_WDEN = true → 
    Completes (.watchdogStart r) s fun t =>
      Frame [] [] s t) ∧
  (∀ (r : Req) (s : State), 
    Completes (.watchdogKick r 0xC35A) s fun t =>
      t.fio = { s.fio with wdKick := freeCnt s }
        ∧ Frame [] [.fio] s t) ∧
  (∀ (r : Req) (key : BitVec 16) (s : State), key ≠ 0xC35A → 
    Completes (.watchdogKick r key) s fun t =>
      getF t (FIO_WDOG_BADKEY) = min (getF s (FIO_WDOG_BADKEY) + 1) (2 ^ (FIO_WDOG_BADKEY).w - 1)
        ∧ onF t FIO_EVT_BADKEY = true
        ∧ Frame ([FIO_WDOG_BADKEY, FIO_EVT_BADKEY] ++ msiFields) [.ifiles, .waiting, .xings, .quiet] s t) ∧
  (∀ (s : State), wdTimeUp s = true → onF s FIO_WDOG_WDEN = true → onF s FIO_WDOG_EXP = false → 
    Completes (.watchdogExpiry false) s fun t =>
      onF t FIO_WDOG_EXP = true
        ∧ onF t FIO_STAT_WDEXP = true
        ∧ getF t FIO_DOSAFE_REQ % 256 = 0
        ∧ t.fio.doForce % 2 ^ 24 = safeCommands s
        ∧ onF t FIO_EVT_WDEXP = true
        ∧ Frame ([FIO_WDOG_EXP, FIO_STAT_WDEXP, FIO_DOSAFE_REQ, FIO_DOSAFE_NREQ, FIO_SOSTAT_FAREQ, FIO_EVT_WDEXP] ++ ((List.range 24).flatMap fun n => [FIO_CHSTAT_OVERLOAD (0x30 + n), FIO_CHSTAT_OVERTEMP (0x30 + n)]) ++ (outputs.flatMap fun c => [FIO_CHSTAT_OPENWIRE c, FIO_CHCNT_CHANGES c]) ++ msiFields) [.out, .fio, .ifiles, .waiting, .xings, .quiet] s t) ∧
  (∀ (s : State), linkSilent .fa false 50000 s = true → onF s FIO_WDOG_EXP = false → 
    Completes (.watchdogExpiry true) s fun t =>
      onF t FIO_STAT_FALINK = false
        ∧ onF t FIO_WDOG_EXP = true
        ∧ onF t FIO_WDOG_LINKEXP = true
        ∧ getF t FIO_DOSAFE_REQ % 256 = 0
        ∧ t.fio.doForce % 2 ^ 24 = safeCommands s
        ∧ Rest [.flds, .out, .ifiles, .waiting, .fio, .xings, .quiet] s t) ∧
  (∀ (s : State), linkSilent .fa false 50000 s = false → 
    Completes (.watchdogExpiry true) s fun t =>
      Frame [] [] s t) ∧
  (∀ (s : State), (wdTimeUp s = false ∨ onF s FIO_WDOG_WDEN = false ∨ onF s FIO_WDOG_EXP = true) → 
    Completes (.watchdogExpiry false) s fun t =>
      Frame [] [] s t) ∧
  (∀ (r : Req) (s : State), onF s FIO_STAT_FALINK = true → onF s FIO_WDOG_EXP = true → 
    Completes (.watchdogClear r) s fun t =>
      onF t FIO_WDOG_EXP = false
        ∧ onF t FIO_WDOG_LINKEXP = false
        ∧ onF t FIO_STAT_WDEXP = false
        ∧ getF t FIO_WDOG_BADKEY = 0
        ∧ t.fio.wdKick = freeCnt s
        ∧ (∀ n : Fin 24, bit t.fio.doForce n = bitF s FIO_DOCMD_CMD n)
        ∧ Frame ([FIO_WDOG_EXP, FIO_WDOG_LINKEXP, FIO_STAT_WDEXP, FIO_WDOG_BADKEY] ++ ((List.range 24).flatMap fun n => [FIO_CHSTAT_OVERLOAD (0x30 + n), FIO_CHSTAT_OVERTEMP (0x30 + n)]) ++ (outputs.flatMap fun c => [FIO_CHSTAT_OPENWIRE c, FIO_CHCNT_CHANGES c])) [.out, .fio] s t) ∧
  (∀ (r : Req) (s : State), onF s FIO_STAT_FALINK = false → 
    Completes (.watchdogClear r) s fun t =>
      Frame [] [] s t)

/-- The Lodestone cycle and the test frame. LODESTONE_CYCLE under an active table sets each FB switch command ON exactly where the output is enabled, not locked out, named by a slot and every slot that names it is ON, and sends the commands; a trip that has arrived locks out and opens the outputs it names; a strobe that has arrived makes the shadow buffer the active table with RESULT 1; without a table and without a reset event the commands stay. TEST_FRAME starts a frame and sends its marker, and an output that fails its switch test is locked out unless the supply is LOST. LOD_LINK_SILENCE after 200 µs ends LINK once; TABLE_ECHO reads the active table back after a commit and each second; a failed TABLE_CRC_CHECK of an active table and INTERNAL_FAULT lock every output out. -/
def Obligations.LodestoneCycles : Prop :=
  (∀ (x : List FbSample) (y : List (Fin 4 × Fin 50000)) (tb : List Byte) (s : State), s.lod.strobe = false → s.lod.table = some tb → s.lod.off = false → 
    Completes (.lodestoneCycle x y) s fun t =>
      (∀ n : Fin 8, bit t.lod.fbsw n = true ↔ (outEn tb n = true ∧ bit t.lod.lock n = false ∧ (∃ k : Fin 8, (slotRec tb k).func ≠ 0 ∧ bit (slotRec tb k).outmask n = true) ∧ (∀ k : Fin 8, (slotRec tb k).func ≠ 0 → bit (slotRec tb k).outmask n = true → (t.lod.slots.getD k {}).state = 2)))
        ∧ t.lod.table = some tb
        ∧ .signal .lodLink 0 1 t.lod.fbsw ∈ leftNow s t
        ∧ Rest [.flds, .live, .pendL, .out, .ifiles, .waiting, .lod, .xings, .quiet] s t) ∧
  (∀ (x : List FbSample) (y : List (Fin 4 × Fin 50000)) (s : State), s.lod.strobe = true → 
    Completes (.lodestoneCycle x y) s fun t =>
      t.lod.table = some (shadowTable s)
        ∧ t.lod.strobe = false
        ∧ getF t LOD_CMTCTL_RESULT = 1
        ∧ onF t LOD_CMTCTL_PEND = false
        ∧ Rest [.flds, .live, .pendL, .out, .ifiles, .waiting, .lod, .xings, .quiet] s t) ∧
  (∀ (s : State), s.lod.strobe = false → s.lod.table = none → (tickReset (bit s.lod.rst 0) (bit s.lod.rst 1) s.lod.rstIn).2 = (false, false) → s.lod.codes = [] → s.lod.trips = [] → onF s LOD_STAT_LINK = false → 
    Completes (.lodestoneCycle [] []) s fun t =>
      .signal .lodLink 0 1 s.lod.fbsw ∈ leftNow s t
        ∧ t.out = leftNow s t ++ s.out
        ∧ t.lod.cyc = s.lod.cyc + 1
        ∧ t.lod.fbsw = s.lod.fbsw
        ∧ Frame [] [.out, .lod] s t) ∧
  (∀ (y : List (Fin 4 × Fin 50000)) (m : Nat) (s : State), s.lod.strobe = false → s.lod.trips = [m] → (tickReset (bit s.lod.rst 0) (bit s.lod.rst 1) s.lod.rstIn).2 = (false, false) → s.lod.codes = [] → 
    Completes (.lodestoneCycle [] y) s fun t =>
      (∀ n : Fin 8, bit m n = true → bit t.lod.lock n = true ∧ bit t.lod.fbsw n = false)
        ∧ t.lod.trips = []
        ∧ Rest [.flds, .live, .pendL, .out, .ifiles, .waiting, .lod, .xings, .quiet] s t) ∧
  (∀ (m : BitVec 8) (s : State), (s.lod.table = none ∨ s.lod.tf.pos < 800) → onF s LOD_STAT_LINK = false → 
    Completes (.testFrame m) s fun t =>
      t.lod.frames = (s.lod.frames + 1) % 2 ^ 32
        ∧ t.lod.tf.pos = 0
        ∧ t.fio.ended = s.fio.tf
        ∧ .signal .lodLink 0 2 ((s.lod.table.map tblTpen).getD 0) ∈ leftNow s t
        ∧ t.out = leftNow s t ++ s.out
        ∧ Frame [] [.out, .lod, .fio] s t) ∧
  (∀ (m : BitVec 8) (n : Fin 8) (tb : List Byte) (s : State), s.lod.table = some tb → 800 ≤ s.lod.tf.pos → s.lod.lost = false → ((bit s.lod.testFb n = true ∧ (bit s.lod.fbOff n = false ∨ bit s.lod.fbBad n = true)) ∨ (bit s.lod.testFa n = true ∧ bit s.lod.faOff n = false)) → 
    Completes (.testFrame m) s fun t =>
      bit t.lod.lock n = true
        ∧ bit t.lod.fbsw n = false
        ∧ t.lod.tf.pos = 0
        ∧ Rest [.flds, .out, .ifiles, .waiting, .fio, .lod, .xings, .quiet] s t) ∧
  (∀ (s : State), onF s LOD_STAT_LINK = true → linkSilent .lod true 200000 s = true → 
    Completes (.lodLinkSilence) s fun t =>
      onF t LOD_STAT_LINK = false
        ∧ onF t LOD_EVT_LINK = true
        ∧ Frame ([LOD_STAT_LINK, LOD_EVT_LINK] ++ msiFields) [.ifiles, .waiting, .xings, .quiet] s t) ∧
  (∀ (s : State), (onF s LOD_STAT_LINK = false ∨ linkSilent .lod true 200000 s = false) → 
    Completes (.lodLinkSilence) s fun t =>
      Frame [] [] s t) ∧
  (∀ (tb : List Byte) (s : State), onF s LOD_STAT_LINK = true → s.lod.table = some tb → (s.lod.echoDue = true ∨ s.lod.echoAt + 20000 ≤ s.lod.cyc) → 
    Completes (.tableEcho) s fun t =>
      (∀ i : Fin 128, getF t (LOD_ECHO_DATA i) = leAt tb (8 * i) 8 % 2 ^ 64)
        ∧ getF t LOD_ECHOSTAT_ECHOCRC = crc32 (tb.take 1020) % 2 ^ 32
        ∧ getF t LOD_ECHOSTAT_ECHOSEQ = (getF s LOD_ECHOSTAT_ECHOSEQ + 1) % 2 ^ LOD_ECHOSTAT_ECHOSEQ.w
        ∧ t.lod = { s.lod with echoDue := false, echoAt := s.lod.cyc }
        ∧ onF t LOD_EVT_ECHO = true
        ∧ Frame ((List.range 128).map LOD_ECHO_DATA ++ [LOD_ECHOSTAT_ECHOCRC, LOD_ECHOSTAT_ECHOSEQ, LOD_EVT_ECHO] ++ msiFields) [.ifiles, .waiting, .lod, .xings, .quiet] s t) ∧
  (∀ (s : State), (s.lod.table = none ∨ onF s LOD_STAT_LINK = false ∨ (s.lod.echoDue = false ∧ s.lod.cyc < s.lod.echoAt + 20000)) → 
    Completes (.tableEcho) s fun t =>
      Frame [] [] s t) ∧
  (∀ (s : State), s.lod.table ≠ none → 
    Completes (.tableCrcCheck) s fun t =>
      (∀ n : Fin 8, bit t.lod.lock n = true ∧ bit t.lod.fbsw n = false)
        ∧ Rest [.flds, .ifiles, .waiting, .lod, .xings, .quiet] s t) ∧
  (∀ (s : State), s.lod.table = none → 
    Completes (.tableCrcCheck) s fun t =>
      Frame [] [] s t) ∧
  (∀ (osc : Bool) (m : Fin 3) (s : State), 
    Completes (.internalFault osc m) s fun t =>
      (∀ n : Fin 8, bit t.lod.lock n = true ∧ bit t.lod.fbsw n = false)
        ∧ t.lod.internal = true
        ∧ Rest [.flds, .ifiles, .waiting, .lod, .xings, .quiet] s t)

/-- Slot timers and output watches of Lodestone. DISC_EXPIRY of a place whose timer has run out locks out every output of the slots that use the pair, and with no timer run out changes nothing; VIGIL_EXPIRY and TSTUCK_EXPIRY take an ON vigilance slot to OFF and open its outputs, and elsewhere change nothing; SPDFAULT locks out the slot's outputs where its speed inputs disagree for longer than DISC or one shows a short period, once while it lasts; EDM_CHECK_FAIL and OUTPUT_WATCH lock out one output with its cause, event and count, where their condition holds and is not recorded yet; LOD_SUPPLY_LOST after 1 ms below half of Un shows LOST. -/
def Obligations.LodestoneFaults : Prop :=
  (∀ (k : Fin 8) (tb : List Byte) (j : Fin 4) (s : State), s.lod.table = some tb → j < (slotRec tb k).pairs.length → (s.lod.slots.getD k {}).disc.getD j 0 = 1 → 
    Completes (.discExpiry k) s fun t =>
      (∀ n : Fin 8, bit (usersOf tb fun q : SlotRec => q.pairs.contains ((slotRec tb k).pairs.getD j 0)).1 n = true → bit t.lod.lock n = true ∧ bit t.lod.fbsw n = false)
        ∧ Rest [.flds, .ifiles, .waiting, .lod, .xings, .quiet] s t) ∧
  (∀ (k : Fin 8) (s : State), (s.lod.table = none ∨ ∀ j : Fin 4, (s.lod.slots.getD k {}).disc.getD j 0 ≠ 1) → 
    Completes (.discExpiry k) s fun t =>
      Frame [] [] s t) ∧
  (∀ (k : Fin 8) (tb : List Byte) (s : State), s.lod.table = some tb → k < s.lod.slots.length → (slotRec tb k).func = 4 → (s.lod.slots.getD k {}).state = 2 → (s.lod.slots.getD k {}).tv = 0 → 
    Completes (.vigilExpiry k) s fun t =>
      (t.lod.slots.getD k {}).state = 1
        ∧ (t.lod.slots.getD k {}).expired = true
        ∧ (∀ n : Fin 8, bit (slotRec tb k).outmask n = true → bit t.lod.fbsw n = false)
        ∧ Rest [.flds, .ifiles, .waiting, .lod, .xings, .quiet] s t) ∧
  (∀ (k : Fin 8) (s : State), (s.lod.table = none ∨ (s.lod.slots.getD k {}).state ≠ 2 ∨ (s.lod.slots.getD k {}).tv ≠ 0) → 
    Completes (.vigilExpiry k) s fun t =>
      Frame [] [] s t) ∧
  (∀ (k : Fin 8) (tb : List Byte) (s : State), s.lod.table = some tb → k < s.lod.slots.length → (slotRec tb k).func = 4 → 2000 * (slotRec tb k).p3 < (s.lod.slots.getD k {}).pressed → (s.lod.slots.getD k {}).state = 2 → 
    Completes (.tstuckExpiry k) s fun t =>
      (t.lod.slots.getD k {}).state = 1
        ∧ (t.lod.slots.getD k {}).stuck = true
        ∧ (∀ n : Fin 8, bit (slotRec tb k).outmask n = true → bit t.lod.fbsw n = false)
        ∧ Rest [.flds, .ifiles, .waiting, .lod, .xings, .quiet] s t) ∧
  (∀ (k : Fin 8) (s : State), (s.lod.table = none ∨ (s.lod.slots.getD k {}).pressed = 0) → 
    Completes (.tstuckExpiry k) s fun t =>
      Frame [] [] s t) ∧
  (∀ (k : Fin 8) (tb : List Byte) (s : State), s.lod.table = some tb → (slotRec tb k).func = 3 → ((20 * (slotRec tb k).disc < (s.lod.slots.getD k {}).diff ∧ bit s.lod.told (24 + k) = false) ∨ (shortPeriod s.lod (slotRec tb k).spda = true ∧ bit s.lod.told (32 + k) = false) ∨ (shortPeriod s.lod (slotRec tb k).spdb = true ∧ bit s.lod.told (40 + k) = false)) → 
    Completes (.spdfault k) s fun t =>
      (∀ n : Fin 8, bit (slotRec tb k).outmask n = true → bit t.lod.lock n = true ∧ bit t.lod.fbsw n = false)
        ∧ Rest [.flds, .ifiles, .waiting, .lod, .xings, .quiet] s t) ∧
  (∀ (k : Fin 8) (tb : List Byte) (s : State), s.lod.table = some tb → ((slotRec tb k).func ≠ 3 ∨ (((s.lod.slots.getD k {}).diff ≤ 20 * (slotRec tb k).disc ∨ bit s.lod.told (24 + k) = true) ∧ (shortPeriod s.lod (slotRec tb k).spda = false ∨ bit s.lod.told (32 + k) = true) ∧ (shortPeriod s.lod (slotRec tb k).spdb = false ∨ bit s.lod.told (40 + k) = true))) → 
    Completes (.spdfault k) s fun t =>
      Frame [] [] s t) ∧
  (∀ (n : Fin 8) (tb : List Byte) (s : State), onF s LOD_STAT_LINK = true → s.lod.table = some tb → outEdmen tb n = true → s.lod.tedm.getD n 0 = 0 → bit s.lod.edm (outEdmsel tb n) = bit s.lod.out n → bit s.lod.told (16 + n) = false → 
    Completes (.edmCheckFail n) s fun t =>
      (t.lod = { s.lod with told := putBit s.lod.told (16 + n) true, lock := putBit s.lod.lock n true, cause := modAt s.lod.cause n (fun _ => 9), src := modAt s.lod.src n (fun _ => n.val), gone := putBit s.lod.gone n false, fresh := putBit s.lod.fresh n true, fbsw := putBit s.lod.fbsw n false, lkseq := (s.lod.lkseq + 1) % 65536 })
        ∧ onF t LOD_EVT_LOCK = true
        ∧ getF t (LOD_CNT_LOCKS) = min (getF s (LOD_CNT_LOCKS) + 1) (2 ^ (LOD_CNT_LOCKS).w - 1)
        ∧ Frame ([LOD_EVT_LOCK, LOD_CNT_LOCKS] ++ msiFields) [.ifiles, .waiting, .lod, .xings, .quiet] s t) ∧
  (∀ (n : Fin 8) (tb : List Byte) (s : State), s.lod.table = some tb → (outEdmen tb n = false ∨ s.lod.tedm.getD n 0 ≠ 0 ∨ bit s.lod.edm (outEdmsel tb n) ≠ bit s.lod.out n ∨ bit s.lod.told (16 + n) = true) → 
    Completes (.edmCheckFail n) s fun t =>
      Frame [] [] s t) ∧
  (∀ (n : Fin 8) (s : State), onF s LOD_STAT_LINK = true → 101 ≤ s.lod.extRun.getD n 0 → bit s.lod.told n = false → 
    Completes (.outputWatch n) s fun t =>
      (t.lod = { s.lod with told := putBit s.lod.told (n.val) true, lock := putBit s.lod.lock n true, cause := modAt s.lod.cause n (fun _ => 5), src := modAt s.lod.src n (fun _ => n.val), gone := putBit s.lod.gone n false, fresh := putBit s.lod.fresh n true, fbsw := putBit s.lod.fbsw n false, lkseq := (s.lod.lkseq + 1) % 65536 })
        ∧ onF t LOD_EVT_LOCK = true
        ∧ getF t (LOD_CNT_LOCKS) = min (getF s (LOD_CNT_LOCKS) + 1) (2 ^ (LOD_CNT_LOCKS).w - 1)
        ∧ Frame ([LOD_EVT_LOCK, LOD_CNT_LOCKS] ++ msiFields) [.ifiles, .waiting, .lod, .xings, .quiet] s t) ∧
  (∀ (n : Fin 8) (s : State), onF s LOD_STAT_LINK = true → s.lod.extRun.getD n 0 < 101 → 101 ≤ s.lod.noOut.getD n 0 → s.lod.lost = false → bit s.lod.told (8 + n) = false → 
    Completes (.outputWatch n) s fun t =>
      (t.lod = { s.lod with told := putBit s.lod.told (8 + n) true, lock := putBit s.lod.lock n true, cause := modAt s.lod.cause n (fun _ => 8), src := modAt s.lod.src n (fun _ => n.val), gone := putBit s.lod.gone n false, fresh := putBit s.lod.fresh n true, fbsw := putBit s.lod.fbsw n false, lkseq := (s.lod.lkseq + 1) % 65536 })
        ∧ onF t LOD_EVT_LOCK = true
        ∧ getF t (LOD_CNT_LOCKS) = min (getF s (LOD_CNT_LOCKS) + 1) (2 ^ (LOD_CNT_LOCKS).w - 1)
        ∧ Frame ([LOD_EVT_LOCK, LOD_CNT_LOCKS] ++ msiFields) [.ifiles, .waiting, .lod, .xings, .quiet] s t) ∧
  (∀ (n : Fin 8) (s : State), ((101 ≤ s.lod.extRun.getD n 0 ∧ bit s.lod.told n = true) ∨ (s.lod.extRun.getD n 0 < 101 ∧ (s.lod.noOut.getD n 0 < 101 ∨ s.lod.lost = true ∨ bit s.lod.told (8 + n) = true))) → 
    Completes (.outputWatch n) s fun t =>
      Frame [] [] s t) ∧
  (∀ (tb : List Byte) (s : State), s.lod.table = some tb → 101 ≤ s.lod.lo50 → 
    Completes (.lodSupplyLost) s fun t =>
      t.lod.lost = true
        ∧ (∀ k : Fin 8, (slotRec tb k).func ≠ 0 → (slotRec tb k).manual = true → (slotRec tb k).outmask ≠ 0 → (t.lod.slots.getD k {}).state ≠ 2 ∨ s.lod.slots.length ≤ k)
        ∧ Rest [.flds, .ifiles, .waiting, .lod, .xings, .quiet] s t) ∧
  (∀ (s : State), (s.lod.table = none ∨ s.lod.lo50 < 101) → 
    Completes (.lodSupplyLost) s fun t =>
      Frame [] [] s t)

/-- Unlocking, trips and the commit of a table. UNLOCK0 from a triad opens a pair; UNLOCK1 with the complement from the same triad within 1 ms completes it, and without an open pair is refused with an event and a count; TRIP with the key waits for the next cycle, and with another changes nothing. COMMIT_REQ starts the checks; COMMIT_CHECK_DONE makes a good table pend with the Waypoint of CMTWP0 and CMTWP1, keeping the one that is pending, and shows RESULT and ERRIDX of the first failing check; COMMIT_NOW strobes a good table where none is active and is refused with RESULT 5 where one is; COMMIT_CANCEL clears PEND; COMMIT_STROBE at the Waypoint strobes, or defers with RESULT 6 in a state without time. A write that is not voted changes none of it. -/
def Obligations.LodestoneWrites : Prop :=
  (∀ (k : Fin 4) (x : Word) (s : State), onF s LOD_STAT_LINK = true → 
    Completes (.unlock0 (.triad k) x) s fun t =>
      t.lod = { s.lod with code0 := some (x.toNat, k.val, s.lod.cyc) }
        ∧ Frame [] [.lod] s t) ∧
  (∀ (x : Word) (s : State), 
    Completes (.unlock0 .debugger x) s fun t =>
      t.lod = s.lod
        ∧ Frame lostCounters [.waiting] s t) ∧
  (∀ (k : Fin 4) (x : Word) (c u : Nat) (s : State), onF s LOD_STAT_LINK = true → s.lod.code0 = some (c, k.val, u) → s.lod.cyc ≤ u + 20 → x.toNat = 2 ^ 64 - 1 - c → 
    Completes (.unlock1 (.triad k) x) s fun t =>
      t.lod = { s.lod with code0 := none, codes := s.lod.codes ++ [(c, k.val)] }
        ∧ Frame [] [.lod] s t) ∧
  (∀ (k : Fin 4) (x : Word) (s : State), onF s LOD_STAT_LINK = true → (∀ y ∈ s.lod.code0, y.2.1 ≠ k.val ∨ y.2.2 + 20 < s.lod.cyc ∨ x.toNat ≠ 2 ^ 64 - 1 - y.1) → 
    Completes (.unlock1 (.triad k) x) s fun t =>
      t.lod = { s.lod with code0 := none }
        ∧ onF t LOD_EVT_UNLREF = true
        ∧ getF t (LOD_CNT_UNLREF) = min (getF s (LOD_CNT_UNLREF) + 1) (2 ^ (LOD_CNT_UNLREF).w - 1)
        ∧ Frame ([LOD_EVT_UNLREF, LOD_CNT_UNLREF] ++ msiFields) [.ifiles, .waiting, .lod, .xings, .quiet] s t) ∧
  (∀ (x : Word) (s : State), 
    Completes (.unlock1 .debugger x) s fun t =>
      t.lod = s.lod
        ∧ Frame msiFields [.waiting, .xings, .quiet] s t) ∧
  (∀ (k : Fin 4) (v : Word) (s : State), onF s LOD_STAT_LINK = true → bits v.toNat 8 16 = 0xA53C → v.toNat % 256 ≠ 0 → 
    Completes (.trip (.triad k) v) s fun t =>
      t.lod = { s.lod with trips := s.lod.trips ++ [v.toNat % 256] }
        ∧ Frame [] [.lod] s t) ∧
  (∀ (k : Fin 4) (v : Word) (s : State), (bits v.toNat 8 16 ≠ 0xA53C ∨ v.toNat % 256 = 0) → 
    Completes (.trip (.triad k) v) s fun t =>
      Frame [] [] s t) ∧
  (∀ (k : Fin 4) (s : State), onF s LOD_STAT_LINK = true → 
    Completes (.commitReq (.triad k)) s fun t =>
      t.lod = { s.lod with checking := true }
        ∧ Frame [] [.lod] s t) ∧
  (∀ (s : State), 
    Completes (.commitReq .debugger) s fun t =>
      t.lod = s.lod
        ∧ Frame lostCounters [.waiting] s t) ∧
  (∀ (s : State), s.lod.checking = true → checkTable (shadowTable s) = none → onF s LOD_CMTCTL_PEND = false → 
    Completes (.commitCheckDone) s fun t =>
      onF t LOD_CMTCTL_PEND = true
        ∧ t.lod = { s.lod with checking := false, wp := tsNs (getF s LOD_CMTWP0_TSLO + getF s LOD_CMTWP1_TSHI * 2 ^ 64) }
        ∧ Frame [LOD_CMTCTL_PEND] [.lod] s t) ∧
  (∀ (s : State), s.lod.checking = true → checkTable (shadowTable s) = none → onF s LOD_CMTCTL_PEND = true → 
    Completes (.commitCheckDone) s fun t =>
      t.lod = { s.lod with checking := false }
        ∧ Frame [] [.lod] s t) ∧
  (∀ (r i : Nat) (s : State), s.lod.checking = true → checkTable (shadowTable s) = some (r, i) → 
    Completes (.commitCheckDone) s fun t =>
      onF t LOD_CMTCTL_PEND = false
        ∧ getF t LOD_CMTCTL_RESULT = r % 2 ^ LOD_CMTCTL_RESULT.w
        ∧ getF t LOD_CMTCTL_ERRIDX = i % 2 ^ LOD_CMTCTL_ERRIDX.w
        ∧ (getF s LOD_CMTCTL_RESULT ≠ getF t LOD_CMTCTL_RESULT → onF t LOD_EVT_COMMIT = true)
        ∧ t.lod = { s.lod with checking := false }
        ∧ Frame ([LOD_CMTCTL_PEND, LOD_CMTCTL_RESULT, LOD_CMTCTL_ERRIDX, LOD_EVT_COMMIT] ++ msiFields) [.ifiles, .waiting, .lod, .xings, .quiet] s t) ∧
  (∀ (s : State), s.lod.checking = false → 
    Completes (.commitCheckDone) s fun t =>
      Frame [] [] s t) ∧
  (∀ (k : Fin 4) (s : State), onF s LOD_STAT_LINK = true → s.lod.table = none → checkTable (shadowTable s) = none → 
    Completes (.commitNow (.triad k)) s fun t =>
      t.lod = { s.lod with strobe := true }
        ∧ Frame [] [.lod] s t) ∧
  (∀ (k : Fin 4) (s : State), onF s LOD_STAT_LINK = true → s.lod.table ≠ none → 
    Completes (.commitNow (.triad k)) s fun t =>
      t.lod = s.lod
        ∧ getF t LOD_CMTCTL_RESULT = 5
        ∧ (getF s LOD_CMTCTL_RESULT ≠ 5 → onF t LOD_EVT_COMMIT = true)
        ∧ Frame ([LOD_CMTCTL_RESULT, LOD_CMTCTL_ERRIDX, LOD_EVT_COMMIT] ++ msiFields) [.ifiles, .waiting, .xings, .quiet] s t) ∧
  (∀ (k : Fin 4) (s : State), 
    Completes (.commitCancel (.triad k)) s fun t =>
      onF t LOD_CMTCTL_PEND = false
        ∧ Frame [LOD_CMTCTL_PEND] [] s t) ∧
  (∀ (s : State), onF s LOD_STAT_LINK = true → onF s LOD_CMTCTL_PEND = true → s.lod.wp ≤ nowNs s → (getF s MER_STAT_STATE = 1 ∨ getF s MER_STAT_STATE = 2) → 
    Completes (.commitStrobe) s fun t =>
      t.lod = { s.lod with strobe := true }
        ∧ Frame [] [.lod] s t) ∧
  (∀ (s : State), onF s LOD_STAT_LINK = true → onF s LOD_CMTCTL_PEND = true → s.lod.wp ≤ nowNs s → getF s MER_STAT_STATE ≠ 1 → getF s MER_STAT_STATE ≠ 2 → 
    Completes (.commitStrobe) s fun t =>
      t.lod = s.lod
        ∧ getF t LOD_CMTCTL_RESULT = 6
        ∧ onF t LOD_CMTCTL_PEND = false
        ∧ Frame ([LOD_CMTCTL_PEND, LOD_CMTCTL_RESULT, LOD_CMTCTL_ERRIDX, LOD_EVT_COMMIT] ++ msiFields) [.ifiles, .waiting, .xings, .quiet] s t) ∧
  (∀ (s : State), (onF s LOD_CMTCTL_PEND = false ∨ onF s LOD_STAT_LINK = false ∨ nowNs s < s.lod.wp) → 
    Completes (.commitStrobe) s fun t =>
      Frame [] [] s t)

/-- Setpoint and status frames, trims by command. SETPOINT_FRAME of a running interface with nothing written sends the target, which without trims is the setpoint held to 3.8 to 20.5 mA, and gives the front end its configuration only where the frame arrives valid; a stopped interface sends nothing. ANL_STATUS_FRAME shows the readback it carries, or brings the link up. ANL_INTERFACE_LINK_LOSS ends and counts a link that is up after 20 ms. ANL_ENABLE_WRITE starts an idle channel at its target, idles a channel, or all with the block. TRIM_WRITE without an open trim reads back at once and leaves the trims in force; with one open the trims take free values (UB-21). ANL_CLRF clears a mismatch after three good readbacks and not before. -/
def Obligations.AnalogFrames : Prop :=
  (∀ (n : Fin 8) (s : State), Runs s 0xC → onF s ANL_CTRL_EN = true → onF s SYS_MSTAT_MSAFE = false → islandAnswers s 0xC = true → s.anl.length = 8 → s.pendL = [] → (anlCh s n).hold = false → feActs s (anlCh s n) = true → 
    Completes (.setpointFrame n true) s fun t =>
      t.out = .signal .anaLink n 0 (targetOf s n) :: s.out
        ∧ (anlCh t n).target = targetOf s n
        ∧ (anlCh t n).fe = feCfg s n (targetOf s n)
        ∧ (trimOpenOn s n = false → liveF s (ANL_CHTRIM_ZERO n) = 0 → liveF s (ANL_CHTRIM_SPAN n) = 0 → liveF s (ANL_CHSP_CMODE n) = 0 → (anlCh t n).target = min 20500 (max 3800 (liveF s (ANL_CHSP_SP n))))
        ∧ Rest [.flds, .live, .pendL, .out, .ifiles, .waiting, .anl, .binn, .xings, .quiet, .linkAt] s t) ∧
  (∀ (n : Fin 8) (s : State), Runs s 0xC → onF s ANL_CTRL_EN = true → onF s SYS_MSTAT_MSAFE = false → islandAnswers s 0xC = true → s.pendL = [] → (anlCh s n).hold = false → (anlCh s n).latest = none → 
    Completes (.setpointFrame n false) s fun t =>
      t.out = .signal .anaLink n 0 (targetOf s n) :: s.out
        ∧ (t.anl = modAt s.anl n fun c : AnlCh => { c with target := targetOf s n, goodAt := 0 })
        ∧ Frame [] [.out, .anl] s t) ∧
  (∀ (n : Fin 8) (v : Bool) (s : State), Runs s 0xC → (onF s ANL_CTRL_EN = false ∨ onF s SYS_MSTAT_MSAFE = true) → (anlCh s n).hold = false → (anlCh s n).latest = none → 
    Completes (.setpointFrame n v) s fun t =>
      Frame [] [] s t) ∧
  (∀ (n : Fin 8) (s : State), Runs s 0xC → onF s ANL_CTRL_EN = true → islandAnswers s 0xC = true → s.anl.length = 8 → onF s (ANL_CHSTAT_LINK n) = true → (anlCh s n).fresh = true → onF s CHT_CTRL_EN = false → 
    Completes (.anlStatusFrame n) s fun t =>
      getF t (ANL_CHRB_IRB n) = (anlCh s n).irb % 2 ^ (ANL_CHRB_IRB n).w
        ∧ getF t (ANL_CHRB_IPRI n) = (anlCh s n).ipri % 2 ^ (ANL_CHRB_IPRI n).w
        ∧ getF t (ANL_CHRB_VTERM n) = (anlCh s n).vterm % 2 ^ (ANL_CHRB_VTERM n).w
        ∧ getF t (ANL_CHRB_VCOMP n) = (anlCh s n).vcomp % 2 ^ (ANL_CHRB_VCOMP n).w
        ∧ getF t (ANL_CHRB_TJ n) = (anlCh s n).tj % 2 ^ (ANL_CHRB_TJ n).w
        ∧ (anlCh t n).fresh = false
        ∧ Rest [.flds, .live, .nfree, .ifiles, .onceCycle, .waiting, .mem, .chk, .caches, .ceHold, .degCnt, .degraded, .triads, .resv, .chart, .fio, .anl, .pulses, .pulseOvf, .xings, .quiet, .linkAt, .prl] s t) ∧
  (∀ (n : Fin 8) (s : State), Runs s 0xC → onF s ANL_CTRL_EN = true → islandAnswers s 0xC = true → s.anl.length = 8 → onF s (ANL_CHSTAT_LINK n) = false → onF s CHT_CTRL_EN = false → 
    Completes (.anlStatusFrame n) s fun t =>
      onF t (ANL_CHSTAT_LINK n) = true
        ∧ bitF t ANL_STAT_LINK n = true
        ∧ onF t ANL_EVT_LINKCHG = true
        ∧ Rest [.flds, .live, .nfree, .ifiles, .onceCycle, .waiting, .mem, .chk, .caches, .ceHold, .degCnt, .degraded, .triads, .resv, .chart, .fio, .anl, .pulses, .pulseOvf, .xings, .quiet, .linkAt, .prl] s t) ∧
  (∀ (n : Fin 8) (s : State), Runs s 0xC → onF s ANL_CTRL_EN = false → 
    Completes (.anlStatusFrame n) s fun t =>
      Frame [] [] s t) ∧
  (∀ (n : Fin 8) (s : State), Runs s 0xC → onF s (ANL_CHSTAT_LINK n) = true → (anlCh s n).hold = false → linkSilent (.ana n) true 20000000 s = true → onF s CHT_CTRL_EN = false → 
    Completes (.anlInterfaceLinkLoss n) s fun t =>
      onF t (ANL_CHSTAT_LINK n) = false
        ∧ bitF t ANL_STAT_LINK n = false
        ∧ onF t ANL_EVT_LINKCHG = true
        ∧ getF t (ANL_CHCNT_LINKLOSS n) = min (getF s (ANL_CHCNT_LINKLOSS n) + 1) (2 ^ (ANL_CHCNT_LINKLOSS n).w - 1)
        ∧ Rest [.flds, .nfree, .ifiles, .onceCycle, .waiting, .mem, .chk, .caches, .ceHold, .degCnt, .degraded, .triads, .resv, .chart, .fio, .anl, .binn, .pulses, .pulseOvf, .xings, .quiet, .linkAt, .prl] s t) ∧
  (∀ (n : Fin 8) (s : State), Runs s 0xC → (onF s (ANL_CHSTAT_LINK n) = false ∨ (anlCh s n).hold = true ∨ linkSilent (.ana n) true 20000000 s = false) → 
    Completes (.anlInterfaceLinkLoss n) s fun t =>
      Frame [] [] s t) ∧
  (∀ (r : Req) (n : Fin 8) (s : State), Ready s 0xC → onF s ANL_CTRL_EN = true → onF s (UPD_UNIT_1_FAILED (8 + n)) = false → onF s (UPD_UNIT_1_FAILED (16 + n)) = false → (anlCh s n).fe.on = false → s.anl.length = 8 → s.pendL = [] → 
    Completes (.anlEnableWrite r (some n) true) s fun t =>
      onF t (ANL_CHCFG_EN n) = true
        ∧ (anlCh t n).fe.on = true
        ∧ (anlCh t n).fe.target = targetOf s n
        ∧ (anlCh t n).target = targetOf s n
        ∧ Rest [.flds, .live, .pendL, .out, .ifiles, .waiting, .anl, .binn, .xings, .quiet] s t) ∧
  (∀ (r : Req) (n : Fin 8) (s : State), Ready s 0xC → 
    Completes (.anlEnableWrite r (some n) false) s fun t =>
      onF t (ANL_CHCFG_EN n) = false
        ∧ (anlCh t n).fe.on = false
        ∧ onF t (ANL_CHSTAT_ACTIVE n) = false
        ∧ Rest [.flds, .live, .pendL, .out, .ifiles, .waiting, .anl, .binn, .xings, .quiet] s t) ∧
  (∀ (r : Req) (en : Bool) (s : State), Ready s 0xC → 
    Completes (.anlEnableWrite r none en) s fun t =>
      onF t ANL_CTRL_EN = en
        ∧ (en = false → ∀ n : Fin 8, (anlCh t n).fe.on = false)
        ∧ Rest [.flds, .live, .pendL, .out, .ifiles, .waiting, .anl, .binn, .xings, .quiet] s t) ∧
  (∀ (r : Req) (n : Fin 8) (z p : BitVec 11) (s : State), Ready s 0xC → trimOpenOn s n = false → 
    Completes (.trimWrite r n z p) s fun t =>
      getF t (ANL_CHTRIM_ZERO n) = z.toNat
        ∧ getF t (ANL_CHTRIM_SPAN n) = p.toNat
        ∧ Frame [ANL_CHTRIM_ZERO n, ANL_CHTRIM_SPAN n] [.pendL, .quiet] s t) ∧
  (∀ (r : Req) (n : Fin 8) (z p : BitVec 11) (s : State), Ready s 0xC → trimOpenOn s n = true → 
    Completes (.trimWrite r n z p) s fun t =>
      t.nfree = s.nfree + 2
        ∧ liveF t (ANL_CHTRIM_ZERO n) = getF t (ANL_CHTRIM_ZERO n)
        ∧ liveF t (ANL_CHTRIM_SPAN n) = getF t (ANL_CHTRIM_SPAN n)
        ∧ getF t (ANL_CHTRIM_TSRC n) = 1
        ∧ Frame [ANL_CHTRIM_ZERO n, ANL_CHTRIM_SPAN n, ANL_CHTRIM_TSRC n] [.live, .pendL, .nfree, .anl, .quiet] s t) ∧
  (∀ (r : Req) (n : Fin 8) (s : State), Ready s 0xC → 3 ≤ (anlCh s n).clean → 
    Completes (.anlClrf r n) s fun t =>
      (anlCh t n).rbmism = false
        ∧ (∀ m : Fin 8, m ≠ n → anlCh t m = anlCh s m)
        ∧ ((anlCh s n).latest = none → t.anl = modAt s.anl n fun c : AnlCh => regulate { c with rbmism := false })
        ∧ Rest [.flds, .out, .ifiles, .waiting, .anl, .xings, .quiet] s t) ∧
  (∀ (r : Req) (n : Fin 8) (s : State), Ready s 0xC → (anlCh s n).clean < 3 → 
    Completes (.anlClrf r n) s fun t =>
      Frame [] [.quiet] s t)

/-- Analog front ends and the Binnacle trim. ANALOG_READBACK keeps what the converters read of the current that the loop carries, and a third readback more than 40 µA apart latches a mismatch, but none is taken during a firmware switch; HEADROOM and OPEN follow 20 ms of their condition, OPEN in place of HEADROOM; FALLBACK_ENTER only of a running sink, FALLBACK_LEAVE after 100 ms and the hold; a link silent for 10 ms applies the safe current and ANL_SAFE_RELEASE after 10 ms of frames ends it. BINNACLE_TRIM_OPEN after 3 s of SET shows LOCK or begins the choice; BINNACLE_BUTTON chooses, steps, adjusts by one within 999 and stores; BINNACLE_TRIM_ABORT after 60 s ends the trim with the old values; INFO_PAGE_TIMEOUT after 3 s closes the page. -/
def Obligations.AnalogFrontEnds : Prop :=
  (∀ (n : Fin 8) (carry draw : BitVec 16) (dp dr : Int) (x y : BitVec 12) (j : Int) (rf : Bool) (s : State), (anlCh s n).hold = true → ((kget none s.upd.pend (8 + n)).isSome = true ∨ freeCnt s < (anlCh s n).holdAt + 50000000) → (anlCh s n).latest = none → 
    Completes (.analogReadback n carry draw dp dr x y j rf) s fun t =>
      Frame [] [] s t) ∧
  (∀ (n : Fin 8) (carry draw : BitVec 16) (dp dr : Int) (x y : BitVec 12) (j : Int) (rf : Bool) (s : State), (anlCh s n).hold = false → (anlCh s n).latest = none → s.anl.length = 8 → 
    Completes (.analogReadback n carry draw dp dr x y j rf) s fun t =>
      (anlCh t n).ipri = measured (delivered (regulate { (anlCh s n) with tj := j, vterm := x.toNat }) carry.toNat draw.toNat) dp ∧ (anlCh t n).irb = measured (delivered (regulate { (anlCh s n) with tj := j, vterm := x.toNat }) carry.toNat draw.toNat) dr ∧ (anlCh t n).vterm = x.toNat ∧ (anlCh t n).tj = j ∧ (anlCh t n).fresh = true
        ∧ (40 < apart (measured (delivered (regulate { (anlCh s n) with tj := j, vterm := x.toNat }) carry.toNat draw.toNat) dp) (measured (delivered (regulate { (anlCh s n) with tj := j, vterm := x.toNat }) carry.toNat draw.toNat) dr) → 2 ≤ (anlCh s n).misI → (anlCh t n).rbmism = true)
        ∧ (rf = true → 2 ≤ (anlCh s n).misRef → (anlCh t n).rbmism = true)
        ∧ ((anlCh s n).rbmism = true → (anlCh t n).rbmism = true)
        ∧ Rest [.flds, .ifiles, .waiting, .anl, .binn, .xings, .quiet, .linkAt] s t) ∧
  (∀ (n : Fin 8) (s : State), s.anl.length = 8 → onF s (ANL_CHSTAT_LINK n) = true → 21 ≤ (anlCh s n).hdSpan → (anlCh s n).opSpan < 21 → onF s (ANL_CHSTAT_HEADROOM n) = false → 
    Completes (.headroom n) s fun t =>
      (t.anl = modAt s.anl n fun c : AnlCh => regulate { c with headroom := true })
        ∧ onF t (ANL_CHSTAT_HEADROOM n) = true
        ∧ getF t (ANL_CHCNT_HEADROOM n) = min (getF s (ANL_CHCNT_HEADROOM n) + 1) (2 ^ (ANL_CHCNT_HEADROOM n).w - 1)
        ∧ onF t ANL_EVT_FAULT = true
        ∧ Rest [.flds, .ifiles, .waiting, .anl, .xings, .quiet] s t) ∧
  (∀ (n : Fin 8) (s : State), ((anlCh s n).hdSpan < 21 ∨ 21 ≤ (anlCh s n).opSpan) → 
    Completes (.headroom n) s fun t =>
      Frame [] [] s t) ∧
  (∀ (n : Fin 8) (s : State), s.anl.length = 8 → onF s (ANL_CHSTAT_LINK n) = true → 21 ≤ (anlCh s n).opSpan → 
    Completes (.openLoop n) s fun t =>
      (t.anl = modAt s.anl n fun c : AnlCh => regulate { c with openLoop := true, headroom := false })
        ∧ onF t (ANL_CHSTAT_OPEN n) = true
        ∧ onF t (ANL_CHSTAT_HEADROOM n) = false
        ∧ Rest [.flds, .ifiles, .waiting, .anl, .xings, .quiet] s t) ∧
  (∀ (n : Fin 8) (s : State), (anlCh s n).opSpan < 21 → 
    Completes (.openLoop n) s fun t =>
      Frame [] [] s t) ∧
  (∀ (n : Fin 8) (s : State), (anlCh s n).fe.on = true → (anlCh s n).fe.sink = true → (anlCh s n).fallback = false → (anlCh s n).fbLeft = 0 → 
    Completes (.fallbackEnter n) s fun t =>
      (t.anl = modAt s.anl n fun c : AnlCh => regulate { c with fallback := true, fbAt := freeCnt s, fbHold := 0 })
        ∧ Rest [.flds, .ifiles, .waiting, .anl, .xings, .quiet] s t) ∧
  (∀ (n : Fin 8) (s : State), ((anlCh s n).fe.on = false ∨ (anlCh s n).fe.sink = false ∨ (anlCh s n).fallback = true) → 
    Completes (.fallbackEnter n) s fun t =>
      Frame [] [] s t) ∧
  (∀ (n : Fin 8) (s : State), (anlCh s n).fallback = true → (anlCh s n).fbAt + 100000000 ≤ freeCnt s → (anlCh s n).fbHold ≤ freeCnt s → 
    Completes (.fallbackLeave n) s fun t =>
      (anlCh t n).fallback = false
        ∧ (∀ m : Fin 8, m ≠ n → anlCh t m = anlCh s m)
        ∧ ((anlCh s n).latest = none → t.anl = modAt s.anl n fun c : AnlCh => regulate { c with fallback := false, fbLeft := freeCnt s + 1 })
        ∧ Rest [.flds, .ifiles, .waiting, .anl, .xings, .quiet] s t) ∧
  (∀ (n : Fin 8) (s : State), ((anlCh s n).fallback = false ∨ freeCnt s < (anlCh s n).fbAt + 100000000 ∨ freeCnt s < (anlCh s n).fbHold) → 
    Completes (.fallbackLeave n) s fun t =>
      Frame [] [] s t) ∧
  (∀ (n : Fin 8) (s : State), (anlCh s n).fe.on = true → (anlCh s n).hold = false → linkSilent (.ana n) false 10000000 s = true → trimOpenOn s n = false → 
    Completes (.anlLinkSilent n) s fun t =>
      (t.anl = modAt s.anl n fun c : AnlCh => regulate { c with silent := true })
        ∧ (onF s (ANL_CHSTAT_LINK n) = true → s.anl.length = 8 → onF t (ANL_CHSTAT_SAFE n) = true)
        ∧ Rest [.flds, .ifiles, .waiting, .anl, .binn, .xings, .quiet, .linkAt] s t) ∧
  (∀ (n : Fin 8) (s : State), ((anlCh s n).fe.on = false ∨ (anlCh s n).hold = true ∨ linkSilent (.ana n) false 10000000 s = false) → 
    Completes (.anlLinkSilent n) s fun t =>
      Frame [] [] s t) ∧
  (∀ (n : Fin 8) (s : State), sendsSetpoints s = true → (anlCh s n).silent = true → (anlCh s n).goodAt ≠ 0 → (anlCh s n).goodAt + 10000000 ≤ freeCnt s + 1 → 
    Completes (.anlSafeRelease n) s fun t =>
      (anlCh t n).silent = false
        ∧ (∀ m : Fin 8, m ≠ n → anlCh t m = anlCh s m)
        ∧ ((anlCh s n).latest = none → t.anl = modAt s.anl n fun c : AnlCh => regulate { c with silent := false })
        ∧ Rest [.flds, .ifiles, .waiting, .anl, .xings, .quiet] s t) ∧
  (∀ (n : Fin 8) (s : State), (sendsSetpoints s = false ∨ (anlCh s n).silent = false ∨ (anlCh s n).goodAt = 0 ∨ freeCnt s + 1 < (anlCh s n).goodAt + 10000000) → 
    Completes (.anlSafeRelease n) s fun t =>
      Frame [] [] s t) ∧
  (∀ (s : State), moduleRuns s = true → onF s SYS_BINN_SET = true → s.binn.last + 3000000000 ≤ freeCnt s → s.binn.step = 0 → onF s ANL_CTRL_BINTRIM = false → 
    Completes (.binnacleTrimOpen) s fun t =>
      t.binn = { s.binn with msg := chars 0x4C 0x4F 0x43 0x4B, msgEnd := freeCnt s + 2000000000 }
        ∧ Frame [] [.binn] s t) ∧
  (∀ (s : State), moduleRuns s = true → onF s SYS_BINN_SET = true → s.binn.last + 3000000000 ≤ freeCnt s → s.binn.step = 0 → onF s ANL_CTRL_BINTRIM = true → 
    Completes (.binnacleTrimOpen) s fun t =>
      t.binn = { s.binn with step := 1, sel := 0, shown := false, page := 0, last := freeCnt s }
        ∧ Frame [] [.binn] s t) ∧
  (∀ (s : State), (moduleRuns s = false ∨ onF s SYS_BINN_SET = false ∨ freeCnt s < s.binn.last + 3000000000 ∨ s.binn.step ≠ 0) → 
    Completes (.binnacleTrimOpen) s fun t =>
      Frame [] [] s t) ∧
  (∀ (k : Nat) (s : State), s.binn.step = 1 → s.binn.sel = k + 1 → k < 8 → anlOn s k = true → 
    Completes (.binnacleButton false .press) s fun t =>
      t.binn.step = 2 ∧ t.binn.sel = k
        ∧ t.binn.zero = trimVal (liveF s (ANL_CHTRIM_ZERO k))
        ∧ onF t ANL_STAT_TRIMOPEN = true
        ∧ getF t ANL_STAT_TRIMCH = k
        ∧ onF t (ANL_CHSTAT_TRIM k) = true
        ∧ Frame [SYS_BINN_SET, ANL_STAT_TRIMOPEN, ANL_STAT_TRIMCH, ANL_CHSTAT_TRIM k] [.binn] s t) ∧
  (∀ (ms : Nat) (s : State), s.binn.step = 2 → onF s SYS_BINN_ADJ = true → ms < 500 → 
    Completes (.binnacleButton true (.release ms)) s fun t =>
      t.binn = { s.binn with zero := clampInt 999 (s.binn.zero + 1), shown := true }
        ∧ onF t SYS_BINN_ADJ = false
        ∧ Frame [SYS_BINN_ADJ] [.binn] s t) ∧
  (∀ (s : State), s.binn.step = 3 → onF s SYS_BINN_ADJ = true → 
    Completes (.binnacleButton true .held) s fun t =>
      t.binn = { s.binn with span := clampInt 999 (s.binn.span + -1), shown := true }
        ∧ Frame [] [.binn] s t) ∧
  (∀ (s : State), s.binn.step = 3 → s.binn.sel < 8 → 
    Completes (.binnacleButton false .press) s fun t =>
      t.binn.step = 0
        ∧ liveF t (ANL_CHTRIM_ZERO s.binn.sel) = ofInt 11 s.binn.zero % 2 ^ 11
        ∧ liveF t (ANL_CHTRIM_SPAN s.binn.sel) = ofInt 11 s.binn.span % 2 ^ 11
        ∧ getF t (ANL_CHTRIM_TSRC s.binn.sel) = 2
        ∧ onF t ANL_STAT_TRIMOPEN = false
        ∧ onF t ANL_EVT_TRIM = true
        ∧ Rest [.flds, .live, .ifiles, .waiting, .anl, .binn, .xings, .quiet] s t) ∧
  (∀ (s : State), s.binn.last + 60000000000 ≤ freeCnt s → s.binn.step ≠ 0 → 
    Completes (.binnacleTrimAbort) s fun t =>
      t.binn.step = 0
        ∧ t.binn.msg = chars 0x41 0x42 0x52 0x54
        ∧ onF t ANL_STAT_TRIMOPEN = false
        ∧ onF t ANL_EVT_TRIM = true
        ∧ Frame ([ANL_CHSTAT_TRIM s.binn.sel, ANL_STAT_TRIMOPEN, ANL_EVT_TRIM] ++ msiFields) [.binn, .ifiles, .waiting, .xings, .quiet] s t) ∧
  (∀ (s : State), (freeCnt s < s.binn.last + 60000000000 ∨ s.binn.step = 0) → 
    Completes (.binnacleTrimAbort) s fun t =>
      Frame [] [] s t) ∧
  (∀ (s : State), s.binn.last + 3000000000 ≤ freeCnt s → 
    Completes (.infoPageTimeout) s fun t =>
      t.binn = { s.binn with page := 0 }
        ∧ Frame [] [.binn] s t) ∧
  (∀ (s : State), freeCnt s < s.binn.last + 3000000000 → 
    Completes (.infoPageTimeout) s fun t =>
      Frame [] [] s t)

/-- Clock islands stop, wake, drain and reset. ISLAND_STOP where the island answers and may stop sets STOPPED; WAKE_REQUEST clears it unless the island is shed. PULSE_OFFER adds the waiting pulses to the receiver and empties the counter. HANDSHAKE_TIMEOUT of a running receiver waits as one report. LINK_FRAME_RECEIVE ignores a bad CRC or a repeated sequence, and otherwise keeps the sequence and counts what it skipped. ISLAND_QUIESCE from a privileged requester sets QUIESCE, or clears it with DRAINED; ISLAND_DRAINED shows DRAINED of a quiesced island without pulses; ISLAND_RESET puts the island in reset with its registers at reset, its taken descriptors, reports and pulses gone, and its end clears INRESET. -/
def Obligations.IslandLife : Prop :=
  (∀ (isl : Fin 16) (s : State), mayStop s isl = true → clocked s isl = true → lasted s isl 100000 = true → 
    Completes (.islandStop isl) s fun t =>
      onF t (SYS_ISL_STOPPED isl) = true
        ∧ Frame [SYS_ISL_STOPPED isl] [] s t) ∧
  (∀ (isl : Fin 16) (s : State), (mayStop s isl = false ∨ clocked s isl = false ∨ lasted s isl 100000 = false) → 
    Completes (.islandStop isl) s fun t =>
      Frame [] [] s t) ∧
  (∀ (isl : Fin 16) (s : State), islandAnswers s isl = true → 
    Completes (.wakeRequest isl) s fun t =>
      onF t (SYS_ISL_STOPPED isl) = false
        ∧ kget 0 t.quiet isl = 0
        ∧ Frame [SYS_ISL_STOPPED isl] [.quiet] s t) ∧
  (∀ (isl : Fin 16) (s : State), islandAnswers s isl = false → onF s (SYS_ISL_SHED isl) = false → 
    Completes (.wakeRequest isl) s fun t =>
      kget 0 t.quiet isl = 0
        ∧ Frame [] [.quiet] s t) ∧
  (∀ (isl : Fin 16) (s : State), onF s (SYS_ISL_SHED isl) = true → 
    Completes (.wakeRequest isl) s fun t =>
      Frame [] [] s t) ∧
  (∀ (isl : Fin 16) (k : Fin 64) (s : State), kget 0 s.pulses (64 * isl + k) ≠ 0 → laneFree 20 isl k s.xings = true → clocked s isl = true → kget 0 s.pulseOvf (64 * isl + k) = 0 → islandAnswers s 4 = true → 
    Completes (.pulseOffer isl k) s fun t =>
      getF t (pulseFld k) = min (getF s (pulseFld k) + kget 0 s.pulses (64 * isl + k)) (2 ^ (pulseFld k).w - 1)
        ∧ kget 0 t.pulses (64 * isl + k) = 0
        ∧ Frame [pulseFld k] [.pulses, .pulseOvf, .xings] s t) ∧
  (∀ (isl : Fin 16) (k : Fin 64) (s : State), kget 0 s.pulses (64 * isl + k) ≠ 0 → laneFree 20 isl k s.xings = true → clocked s isl = true → kget 0 s.pulseOvf (64 * isl + k) ≠ 0 → islandAnswers s 4 = true → RoomFor s 4 → 
    Completes (.pulseOffer isl k) s fun t =>
      getF t (pulseFld k) = min (getF s (pulseFld k) + kget 0 s.pulses (64 * isl + k)) (2 ^ (pulseFld k).w - 1)
        ∧ kget 0 t.pulses (64 * isl + k) = 0
        ∧ kget 0 t.pulseOvf (64 * isl + k) = 0
        ∧ t.waiting = s.waiting ++ [(4, { cls := NOTE, loc := ⟨0, 4, 0x3A, 0xFF⟩, xing := 20 })]
        ∧ Frame [pulseFld k] [.waiting, .pulses, .pulseOvf, .xings] s t) ∧
  (∀ (isl : Fin 16) (k : Fin 64) (s : State), kget 0 s.pulses (64 * isl + k) ≠ 0 → laneFree 20 isl k s.xings = true → clocked s isl = true → islandAnswers s 4 = false → 
    Completes (.pulseOffer isl k) s fun t =>
      kget 0 t.pulses (64 * isl + k) = 0
        ∧ (∃ x ∈ t.xings, x.num = 20 ∧ x.tx = isl.val ∧ x.rx = 4 ∧ x.sub = k.val ∧ x.ack = false ∧ x.data = .pulses k (kget 0 s.pulses (64 * isl + k)) (kget 0 s.pulseOvf (64 * isl + k)))
        ∧ Frame [] [.pulses, .pulseOvf, .xings] s t) ∧
  (∀ (isl : Fin 16) (k : Fin 64) (s : State), (kget 0 s.pulses (64 * isl + k) = 0 ∨ laneFree 20 isl k s.xings = false ∨ clocked s isl = false) → 
    Completes (.pulseOffer isl k) s fun t =>
      Frame [] [] s t) ∧
  (∀ (x : Fin 33) (isl : Fin 16) (w : Xing) (s : State), clocked s isl = true → ((s.xings.find? fun w => w.num == x.val && w.rx == isl.val && w.busy && decide (w.at' + 100000 ≤ freeCnt s)) = some w) → RoomFor s isl → 
    Completes (.handshakeTimeout x isl) s fun t =>
      t.waiting = s.waiting ++ [(isl.val, { cls := MAJOR, loc := ⟨0, isl.val, rxTile s w.data, 0xFF⟩, xing := x.val })]
        ∧ Frame [] [.waiting] s t) ∧
  (∀ (x : Fin 33) (isl : Fin 16) (s : State), (clocked s isl = false ∨ (s.xings.find? fun w => w.num == x.val && w.rx == isl.val && w.busy && decide (w.at' + 100000 ≤ freeCnt s)) = none) → 
    Completes (.handshakeTimeout x isl) s fun t =>
      Frame [] [] s t) ∧
  (∀ (l : DieLink) (b ok : Bool) (q : Fin 16) (s : State), (ok = false ∨ kget 0 s.links (linkKey l b) = q + 1) → 
    Completes (.linkFrameReceive l b q ok) s fun t =>
      Frame [] [] s t) ∧
  (∀ (l : DieLink) (q : Fin 16) (s : State), kget 0 s.links (linkKey l false) ≠ q + 1 → 
    Completes (.linkFrameReceive l false q true) s fun t =>
      kget 0 t.links (linkKey l false) = q + 1
        ∧ kget 0 t.linkAt (linkKey l false) = freeCnt s + 1
        ∧ (kget 0 t.linkLost (linkKey l false) = kget 0 s.linkLost (linkKey l false) + (if kget 0 s.links (linkKey l false) = 0 then 0 else (q + 16 - kget 0 s.links (linkKey l false)) % 16))
        ∧ Frame [] [.links, .linkAt, .linkLost] s t) ∧
  (∀ (q : Fin 16) (s : State), kget 0 s.links (linkKey .fa true) ≠ q + 1 → 
    Completes (.linkFrameReceive .fa true q true) s fun t =>
      kget 0 t.links (linkKey .fa true) = q + 1
        ∧ onF t FIO_STAT_FALINK = true
        ∧ Frame [FIO_STAT_FALINK] [.links, .linkAt, .linkLost] s t) ∧
  (∀ (q : Fin 16) (s : State), kget 0 s.links (linkKey .lod true) ≠ q + 1 → onF s LOD_STAT_LINK = true → 
    Completes (.linkFrameReceive .lod true q true) s fun t =>
      kget 0 t.links (linkKey .lod true) = q + 1
        ∧ onF t LOD_STAT_LINK = true
        ∧ Rest [.flds, .live, .ifiles, .waiting, .lod, .anl, .xings, .quiet, .links, .linkAt, .linkLost] s t) ∧
  (∀ (q : Fin 16) (n : Fin 8) (s : State), kget 0 s.links (linkKey (.ana n) true) ≠ q + 1 → (onF s ANL_CTRL_EN = false ∨ islandAnswers s 0xC = false ∨ onF s (ANL_CHSTAT_LINK n) = true) → 
    Completes (.linkFrameReceive (.ana n) true q true) s fun t =>
      kget 0 t.links (linkKey (.ana n) true) = q + 1
        ∧ Frame [] [.links, .linkAt, .linkLost] s t) ∧
  (∀ (r : Req) (isl : Fin 16) (s : State), islandMay s r isl = true → 
    Completes (.islandQuiesce r isl true) s fun t =>
      onF t (SYS_ISL_QUIESCE isl) = true
        ∧ (t.xings = s.xings.filter (fun x => !stuck s isl x))
        ∧ Frame [SYS_ISL_QUIESCE isl] [.xings] s t) ∧
  (∀ (r : Req) (isl : Fin 16) (s : State), islandMay s r isl = true → 
    Completes (.islandQuiesce r isl false) s fun t =>
      onF t (SYS_ISL_QUIESCE isl) = false
        ∧ onF t (SYS_ISL_DRAINED isl) = false
        ∧ Frame [SYS_ISL_QUIESCE isl, SYS_ISL_DRAINED isl] [] s t) ∧
  (∀ (r : Req) (isl : Fin 16) (on : Bool) (s : State), islandMay s r isl = false → 
    Completes (.islandQuiesce r isl on) s fun t =>
      Frame [] [] s t) ∧
  (∀ (isl : Fin 16) (s : State), onF s (SYS_ISL_QUIESCE isl) = true → ((s.pulses.all fun p => p.1 / 64 != isl.val) = true) → ((s.xings.all fun x => !busyXing isl x) = true) → 
    Completes (.islandDrained isl) s fun t =>
      onF t (SYS_ISL_DRAINED isl) = true
        ∧ Frame [SYS_ISL_DRAINED isl] [] s t) ∧
  (∀ (isl : Fin 16) (s : State), (onF s (SYS_ISL_QUIESCE isl) = false ∨ (s.pulses.all fun p => p.1 / 64 != isl.val) = false ∨ (s.xings.all fun x => !busyXing isl x) = false) → 
    Completes (.islandDrained isl) s fun t =>
      Frame [] [] s t) ∧
  (∀ (r : Req) (isl : Fin 16) (fl : List (Fin 18 × Nat)) (s : State), islandMay s r isl = true → isl ≠ 2 → 
    Completes (.islandReset r isl false fl) s fun t =>
      onF t (SYS_ISL_INRESET isl) = true
        ∧ onF t (SYS_ISL_STOPPED isl) = false
        ∧ (∀ p ∈ t.flds, islandOfAddr (p.1 / 64) ≠ isl.val ∨ keptField (p.1 / 64) = true)
        ∧ (∀ p ∈ t.live, islandOfAddr (p.1 / 64) ≠ isl.val ∨ keptField (p.1 / 64) = true)
        ∧ (∀ o ∈ t.qops, blkIsland (o.q / 256) ≠ isl.val)
        ∧ (∀ p ∈ t.waiting, p.1 ≠ isl.val)
        ∧ (∀ p ∈ t.pulses, p.1 / 64 ≠ isl.val)
        ∧ t.xings = s.xings.filterMap (resetXing isl)
        ∧ (∀ l ∈ t.caches, srcOn isl l.src = false)
        ∧ Rest [.flds, .live, .pendL, .nfree, .out, .qops, .ifiles, .onceCycle, .waiting, .caches, .resv, .mer, .rhl, .chart, .bkb, .can, .brg, .anl, .binn, .pulses, .pulseOvf, .xings, .quiet, .links, .linkAt, .linkLost, .prl] s t) ∧
  (∀ (r : Req) (isl : Fin 16) (fl : List (Fin 18 × Nat)) (s : State), lasted s (16 + isl) 10000 = true → 
    Completes (.islandReset r isl true fl) s fun t =>
      onF t (SYS_ISL_INRESET isl) = false
        ∧ Frame [SYS_ISL_INRESET isl] [.quiet] s t) ∧
  (∀ (r : Req) (isl : Fin 16) (fl : List (Fin 18 × Nat)) (s : State), lasted s (16 + isl) 10000 = false → 
    Completes (.islandReset r isl true fl) s fun t =>
      Frame [] [] s t) ∧
  (∀ (r : Req) (isl : Fin 16) (fl : List (Fin 18 × Nat)) (s : State), islandMay s r isl = false → 
    Completes (.islandReset r isl false fl) s fun t =>
      Frame [] [] s t)

/-- The collector takes, keeps and releases reports. FAULT_REPORT_TAKE of one waiting report, with no rule, trigger or interrupt in its way, counts its class, stamps and numbers it and appends it to a FIFO with room; in a full FIFO of no lower class it is lost and counted; a MODULE report of a cause of R425 puts the module into the safe state with that cause; with nothing ready nothing changes. EFPOP drops the oldest entry. FIRQ_ARM arms, or, with an identity, fires at once where a stored entry reaches its class. MSAFE_WRITE with the key from a privileged requester, a third failed SUPERVISOR_CHECK and LOGIC_SUPPLY_OUT each leave one MODULE report waiting. -/
def Obligations.FaultCollector : Prop :=
  (∀ (m : BitVec 16) (i : Fin 16) (r : Report) (s : State), s.waiting = [(i.val, r)] → m.getLsbD i = true → (∀ y ∈ s.xings, y.num ≠ 32) → Runs s i → r.cls ≤ 1 → s.coll.fifo.length < 64 → s.pendL = [] → (∀ k : Fin 8, onL s (SYS_ESC_2_EN k) = false) → triggersFire s = false → onF s SYS_FIRQ0_ARMED = false → onF s SYS_FIRQ1_ARMED = false → 
    Completes (.faultReportTake m false false) s fun t =>
      t.waiting = []
        ∧ t.coll = { s.coll with fifo := s.coll.fifo ++ [{ floc := floc r, addr := r.addr, req := r.req, xing := r.xing, ts := ts96 s, seq := getF s SYS_EFSTAT_SEQNEXT, esc := r.esc, rule := r.rule }] }
        ∧ getF t SYS_EFSTAT_SEQNEXT = (getF s SYS_EFSTAT_SEQNEXT + 1) % 2 ^ SYS_EFSTAT_SEQNEXT.w
        ∧ getF t (classCnt r.cls) = min (getF s (classCnt r.cls) + 1) (2 ^ (classCnt r.cls).w - 1)
        ∧ getF t SYS_EFSTAT_COUNT = (s.coll.fifo.length + 1) % 2 ^ SYS_EFSTAT_COUNT.w
        ∧ Frame [SYS_EFSTAT_SEQNEXT, classCnt r.cls, SYS_EFSTAT_COUNT, SYS_EFSTAT_MAXCLS, SYS_EF0_W, SYS_EF1_W, SYS_EF2_W, SYS_EF3_W] [.waiting, .xings, .coll] s t) ∧
  (∀ (m : BitVec 16) (i : Fin 16) (r : Report) (a : Nat) (s : State), s.waiting = [] → s.xings = [⟨32, i.val, 0, 0, true, false, a, .report r⟩] → m.getLsbD i = true → (1 ≤ i.val ∧ i.val ≤ 12) → r.cls ≤ 1 → s.coll.fifo.length < 64 → s.pendL = [] → (∀ k : Fin 8, onL s (SYS_ESC_2_EN k) = false) → triggersFire s = false → onF s SYS_FIRQ0_ARMED = false → onF s SYS_FIRQ1_ARMED = false → 
    Completes (.faultReportTake m false false) s fun t =>
      t.waiting = []
        ∧ t.coll = { s.coll with fifo := s.coll.fifo ++ [{ floc := floc r, addr := r.addr, req := r.req, xing := r.xing, ts := ts96 s, seq := getF s SYS_EFSTAT_SEQNEXT, esc := r.esc, rule := r.rule }] }
        ∧ getF t SYS_EFSTAT_SEQNEXT = (getF s SYS_EFSTAT_SEQNEXT + 1) % 2 ^ SYS_EFSTAT_SEQNEXT.w
        ∧ getF t (classCnt r.cls) = min (getF s (classCnt r.cls) + 1) (2 ^ (classCnt r.cls).w - 1)
        ∧ getF t SYS_EFSTAT_COUNT = (s.coll.fifo.length + 1) % 2 ^ SYS_EFSTAT_COUNT.w
        ∧ (∀ y ∈ t.xings, y.ack = true)
        ∧ Frame [SYS_EFSTAT_SEQNEXT, classCnt r.cls, SYS_EFSTAT_COUNT, SYS_EFSTAT_MAXCLS, SYS_EF0_W, SYS_EF1_W, SYS_EF2_W, SYS_EF3_W] [.waiting, .xings, .coll] s t) ∧
  (∀ (m : BitVec 16) (i : Fin 16) (r : Report) (s : State), s.waiting = [(i.val, r)] → m.getLsbD i = true → (∀ y ∈ s.xings, y.num ≠ 32) → Runs s i → r.cls ≤ 1 → s.coll.fifo.length = 64 → (r.cls ≤ lowest (s.coll.fifo.map fun x => flocCls x.floc)) → s.pendL = [] → (∀ k : Fin 8, onL s (SYS_ESC_2_EN k) = false) → triggersFire s = false → onF s SYS_FIRQ0_ARMED = false → onF s SYS_FIRQ1_ARMED = false → 
    Completes (.faultReportTake m false false) s fun t =>
      t.waiting = []
        ∧ t.coll = s.coll
        ∧ onF t SYS_FEVT_OVF = true
        ∧ getF t (lostFld r.cls) = min (getF s (lostFld r.cls) + 1) (2 ^ (lostFld r.cls).w - 1)
        ∧ getF t (classCnt r.cls) = min (getF s (classCnt r.cls) + 1) (2 ^ (classCnt r.cls).w - 1)
        ∧ Frame [SYS_EFSTAT_SEQNEXT, classCnt r.cls, lostFld r.cls, SYS_FEVT_OVF] [.waiting, .xings] s t) ∧
  (∀ (m : BitVec 16) (c : Nat) (s : State), (c = 1 ∨ c = 2 ∨ c = 3 ∨ c = 4 ∨ c = 6) → s.waiting = [(0, { cls := MODULE, loc := causeLoc c })] → m.getLsbD 0 = true → (∀ y ∈ s.xings, y.num ≠ 32) → onF s SYS_MSTAT_MSAFE = false → 
    Completes (.faultReportTake m false false) s fun t =>
      onF t SYS_MSTAT_MSAFE = true
        ∧ getF t SYS_MSTAT_CAUSE = c
        ∧ onF t SYS_FEVT_MSAFE = true
        ∧ Rest [.flds, .live, .pendL, .out, .ifiles, .waiting, .triads, .fio, .xings, .quiet, .coll, .logb] s t) ∧
  (∀ (m : BitVec 16) (s : State), s.pendL = [] → s.waiting = [] → (∀ y ∈ s.xings, y.num ≠ 32) → 
    Completes (.faultReportTake m false false) s fun t =>
      Frame [] [] s t) ∧
  (∀ (s : State), s.pendL = [] → 
    Completes (.faultReportTake 0 false false) s fun t =>
      t.coll = s.coll
        ∧ Frame [] [.waiting, .xings] s t) ∧
  (∀ (m : BitVec 16) (i : Fin 16) (r : Report) (s : State), s.waiting = [(i.val, r)] → m.getLsbD i = true → (∀ y ∈ s.xings, y.num ≠ 32) → Runs s i → (r.cls = 2 ∨ r.cls = 3) → s.coll.fifo.length < 64 → s.pendL = [] → (∀ k : Fin 8, onL s (SYS_ESC_2_EN k) = false) → triggersFire s = false → onF s SYS_FIRQ0_ARMED = false → onF s SYS_FIRQ1_ARMED = false → 
    Completes (.faultReportTake m false false) s fun t =>
      t.waiting = []
        ∧ t.coll = { s.coll with fifo := s.coll.fifo ++ [{ floc := floc r, addr := r.addr, req := r.req, xing := r.xing, ts := ts96 s, seq := getF s SYS_EFSTAT_SEQNEXT, esc := r.esc, rule := r.rule }] }
        ∧ getF t SYS_EFSTAT_SEQNEXT = (getF s SYS_EFSTAT_SEQNEXT + 1) % 2 ^ SYS_EFSTAT_SEQNEXT.w
        ∧ getF t (classCnt r.cls) = min (getF s (classCnt r.cls) + 1) (2 ^ (classCnt r.cls).w - 1)
        ∧ getF t SYS_EFSTAT_COUNT = (s.coll.fifo.length + 1) % 2 ^ SYS_EFSTAT_COUNT.w
        ∧ (r.cls = 3 → getF t SYS_LASTHI0_FLOC = floc r % 2 ^ SYS_LASTHI0_FLOC.w)
        ∧ Rest [.flds, .live, .pendL, .out, .ifiles, .waiting, .triads, .fio, .xings, .quiet, .coll, .logb] s t) ∧
  (∀ (r : Req) (s : State), 
    Completes (.efpop r false) s fun t =>
      t.coll = { s.coll with fifo := s.coll.fifo.drop 1 }
        ∧ getF t SYS_EFSTAT_COUNT = (s.coll.fifo.length - 1) % 2 ^ SYS_EFSTAT_COUNT.w
        ∧ Frame [SYS_EFSTAT_COUNT, SYS_EFSTAT_MAXCLS, SYS_EF0_W, SYS_EF1_W, SYS_EF2_W, SYS_EF3_W] [.coll] s t) ∧
  (∀ (r : Req) (b : Bool) (s : State), ((s.coll.fifo.any fun e => decide (firqMin s b ≤ flocCls e.floc)) = false ∨ getF s (if b then SYS_FIRQ1_EIID else SYS_FIRQ0_EIID) = 0) → 
    Completes (.firqArm r b) s fun t =>
      onF t (firqArmed b) = true
        ∧ Frame [firqArmed b] [] s t) ∧
  (∀ (r : Req) (b : Bool) (s : State), ((s.coll.fifo.any fun e => decide (firqMin s b ≤ flocCls e.floc)) = true) → (getF s (if b then SYS_FIRQ1_EIID else SYS_FIRQ0_EIID) ≠ 0) → 
    Completes (.firqArm r b) s fun t =>
      onF t (firqArmed b) = false
        ∧ Frame (firqArmed b :: msiFields) [.ifiles, .waiting, .xings, .quiet] s t) ∧
  (∀ (r : Req) (s : State), isTriadOrMach r = true → RoomFor s 0 → 
    Completes (.msafeWrite r 0x3C5A) s fun t =>
      t.waiting = s.waiting ++ [(0, { cls := MODULE, loc := causeLoc 6 })]
        ∧ Frame [] [.waiting] s t) ∧
  (∀ (r : Req) (k : BitVec 16) (s : State), (isTriadOrMach r = false ∨ k ≠ 0x3C5A) → 
    Completes (.msafeWrite r k) s fun t =>
      Frame [] [] s t) ∧
  (∀ (s : State), 
    Completes (.supervisorCheck true) s fun t =>
      t.coll = { s.coll with fails := 0 }
        ∧ Frame [] [.coll] s t) ∧
  (∀ (s : State), s.coll.fails ≠ 2 → 
    Completes (.supervisorCheck false) s fun t =>
      t.coll = { s.coll with fails := s.coll.fails + 1 }
        ∧ Frame [] [.coll] s t) ∧
  (∀ (s : State), s.coll.fails = 2 → RoomFor s 0 → 
    Completes (.supervisorCheck false) s fun t =>
      t.coll = { s.coll with fails := 0 }
        ∧ t.waiting = s.waiting ++ [(0, { cls := MODULE, loc := causeLoc 3 })]
        ∧ Frame [] [.coll, .waiting] s t) ∧
  (∀ (s : State), RoomFor s 0 → 
    Completes (.logicSupplyOut) s fun t =>
      t.waiting = s.waiting ++ [(0, { cls := MODULE, loc := causeLoc 1 })]
        ∧ Frame [] [.waiting] s t)

/-- Heartbeats, roles and the forced swap. HEARTBEAT_SEND once a cycle sends the same payload on both links and notes its stamps; HEARTBEAT_RECEIVE of a frame with a bad FCS counts it, and one from a PRIMARY shows the partner and takes a listening module to STANDBY with the next epoch. MISSED_CYCLE counts a missed cycle, ends PARTNER, and promotes a STANDBY at its second. PRL_ENABLE_WRITE enters LISTEN or OFF; LISTEN_ROLE_TIMEOUT makes a listening module PRIMARY after 3 or 6 quiet cycles; SWAP is taken where R444 allows it and refused with an event elsewhere; SWAP_COMPLETE exchanges the roles and counts; PAIR_LINK_CHANGE shows the link. Where its condition does not hold each changes nothing. -/
def Obligations.PairRoles : Prop :=
  (∀ (s : State), Runs s 6 → onF s PRL_CTRL_EN = true → onF s SYS_MSTAT_MSAFE = false → s.prl.sent = false → bitF s PRL_STAT_LINK 0 = true → bitF s PRL_STAT_LINK 1 = true → 
    Completes (.heartbeatSend) s fun t =>
      t.out = .sent .pair 1 (pairFrame s 1 1 (hbPayload s)) :: .sent .pair 0 (pairFrame s 0 1 (hbPayload s)) :: s.out
        ∧ t.prl.sent = true ∧ t.prl.prevTx = s.prl.txTs ∧ t.prl.txTs = ts96 s ∧ t.prl.cureq = false
        ∧ getF t (PRL_LCNT_TXFRM 0) = min (getF s (PRL_LCNT_TXFRM 0) + 1) (2 ^ (PRL_LCNT_TXFRM 0).w - 1)
        ∧ getF t (PRL_LCNT_TXFRM 1) = min (getF s (PRL_LCNT_TXFRM 1) + 1) (2 ^ (PRL_LCNT_TXFRM 1).w - 1)
        ∧ Frame [PRL_LCNT_TXFRM 0, PRL_LCNT_TXFRM 1] [.out, .prl] s t) ∧
  (∀ (s : State), Runs s 6 → (onF s PRL_CTRL_EN = false ∨ onF s SYS_MSTAT_MSAFE = true ∨ s.prl.sent = true) → 
    Completes (.heartbeatSend) s fun t =>
      Frame [] [] s t) ∧
  (∀ (n : Fin 2) (sof : Nat) (f : List Byte) (s : State), Runs s 6 → onF s PRL_CTRL_EN = true → fcsGood f = false → 
    Completes (.heartbeatReceive n sof f) s fun t =>
      getF t (PRL_LCNT_FCSERR n) = min (getF s (PRL_LCNT_FCSERR n) + 1) (2 ^ (PRL_LCNT_FCSERR n).w - 1)
        ∧ Frame [PRL_LCNT_FCSERR n] [] s t) ∧
  (∀ (n : Fin 2) (sof : Nat) (f : List Byte) (s : State), Runs s 6 → onF s PRL_CTRL_EN = false → 
    Completes (.heartbeatReceive n sof f) s fun t =>
      Frame [] [] s t) ∧
  (∀ (n : Fin 2) (f : List Byte) (sof : Nat) (u : State) (ep : Nat) (p : List Byte) (s : State), Runs s 6 → onF s PRL_CTRL_EN = true → pairReceive n f s = (u, some (1, ep, p)) → 32 ≤ p.length → role s = roleLISTEN → leAt p 0 1 % 4 = rolePRIMARY → ovr s ≠ 1 → onF s SYS_MSTAT_MSAFE = false → 
    Completes (.heartbeatReceive n sof f) s fun t =>
      role t = roleSTANDBY
        ∧ onF t PRL_STAT_PARTNER = true
        ∧ onF t CHT_STAT_STANDBY = true
        ∧ getF t PRL_PSTAT_ROLE = rolePRIMARY
        ∧ getF t PRL_PSTAT_PEPOCH = ep % 65536
        ∧ getF t PRL_EPOCH_EPOCH = nextEpoch (laterEpoch (getF s PRL_EPOCH_EPOCH) (ep % 65536)) % 65536
        ∧ onF t PRL_STAT_READY = false
        ∧ t.prl.beat = true ∧ t.prl.heard = true
        ∧ Rest [.flds, .nfree, .ifiles, .onceCycle, .waiting, .mer, .rhl, .chart, .xings, .quiet, .prl] s t) ∧
  (∀ (s : State), Runs s 6 → onF s PRL_CTRL_EN = true → s.prl.missDue = true → role s ≠ roleSTANDBY → 
    Completes (.missedCycle) s fun t =>
      onF t PRL_STAT_PARTNER = false
        ∧ getF t (PRL_CNT0_MISSED) = min (getF s (PRL_CNT0_MISSED) + 1) (2 ^ (PRL_CNT0_MISSED).w - 1)
        ∧ role t = role s
        ∧ t.prl.missed = s.prl.missed + 1
        ∧ Rest [.flds, .ifiles, .onceCycle, .waiting, .mer, .rhl, .chart, .xings, .quiet, .prl] s t) ∧
  (∀ (s : State), Runs s 6 → onF s PRL_CTRL_EN = true → s.prl.missDue = true → role s = roleSTANDBY → ovr s ≠ 2 → 1 ≤ s.prl.missed → onF s SYS_MSTAT_MSAFE = false → 
    Completes (.missedCycle) s fun t =>
      role t = rolePRIMARY
        ∧ onF t CHT_STAT_STANDBY = false
        ∧ getF t (PRL_CNT0_PROMOTE) = min (getF s (PRL_CNT0_PROMOTE) + 1) (2 ^ (PRL_CNT0_PROMOTE).w - 1)
        ∧ onF t PRL_STAT_PARTNER = false
        ∧ onF t PRL_STAT_COLD = (!onF s PRL_STAT_READY || onF s PRL_STAT_COLD)
        ∧ Rest [.flds, .ifiles, .onceCycle, .waiting, .mer, .rhl, .chart, .xings, .quiet, .prl] s t) ∧
  (∀ (s : State), Runs s 6 → (onF s PRL_CTRL_EN = false ∨ s.prl.missDue = false) → 
    Completes (.missedCycle) s fun t =>
      Frame [] [] s t) ∧
  (∀ (r : Req) (s : State), Ready s 6 → onF s PRL_CTRL_EN = false → 
    Completes (.prlEnableWrite r true) s fun t =>
      onF t PRL_CTRL_EN = true
        ∧ role t = roleLISTEN
        ∧ Frame ([PRL_CTRL_EN, PRL_STAT_ROLE, CHT_STAT_STANDBY, PRL_EVT_ROLECHG] ++ msiFields) [.ifiles, .waiting, .prl, .xings, .quiet] s t) ∧
  (∀ (r : Req) (s : State), Ready s 6 → onF s PRL_CTRL_EN = true → 
    Completes (.prlEnableWrite r false) s fun t =>
      onF t PRL_CTRL_EN = false
        ∧ role t = roleOFF
        ∧ onF t PRL_STAT_PARTNER = false
        ∧ onF t PRL_STAT_READY = false
        ∧ Rest [.flds, .out, .ifiles, .onceCycle, .waiting, .mer, .rhl, .chart, .xings, .quiet, .prl] s t) ∧
  (∀ (r : Req) (b : Bool) (s : State), Ready s 6 → onF s PRL_CTRL_EN = b → 
    Completes (.prlEnableWrite r b) s fun t =>
      Frame [] [.quiet] s t) ∧
  (∀ (s : State), Runs s 6 → onF s PRL_CTRL_EN = true → role s = roleLISTEN → ovr s ≠ 2 → onF s SYS_MSTAT_MSAFE = false → ((if onF s PRL_CTRL_SIDE then 6 else 3) ≤ s.prl.quiet) → 
    Completes (.listenRoleTimeout) s fun t =>
      role t = rolePRIMARY
        ∧ onF t CHT_STAT_STANDBY = false
        ∧ Rest [.flds, .ifiles, .onceCycle, .waiting, .mer, .chart, .xings, .quiet, .prl] s t) ∧
  (∀ (s : State), Runs s 6 → (role s ≠ roleLISTEN ∨ ovr s = 2 ∨ onF s PRL_CTRL_EN = false ∨ onF s SYS_MSTAT_MSAFE = true ∨ s.prl.quiet < (if onF s PRL_CTRL_SIDE then 6 else 3)) → 
    Completes (.listenRoleTimeout) s fun t =>
      Frame [] [] s t) ∧
  (∀ (r : Req) (s : State), Ready s 6 → isTriadOrMach r = true → onF s PRL_CTRL_EN = true → onF s SYS_MSTAT_MSAFE = false → role s = rolePRIMARY → onF s PRL_STAT_PARTNER = true → onF s PRL_STAT_PREADY = true → ovr s = 0 → bits (getF s PRL_PSTAT_FLAGS) 4 2 = 0 → s.prl.swap = 0 → 
    Completes (.swap r) s fun t =>
      t.prl = { s.prl with swap := 1 }
        ∧ Frame [] [.prl, .quiet] s t) ∧
  (∀ (r : Req) (s : State), Ready s 6 → isTriadOrMach r = true → (role s ≠ rolePRIMARY ∨ onF s PRL_STAT_PARTNER = false ∨ onF s PRL_STAT_PREADY = false ∨ ovr s ≠ 0 ∨ bits (getF s PRL_PSTAT_FLAGS) 4 2 ≠ 0 ∨ s.prl.swap ≠ 0 ∨ onF s PRL_CTRL_EN = false ∨ onF s SYS_MSTAT_MSAFE = true) → 
    Completes (.swap r) s fun t =>
      onF t PRL_EVT_SWAPREF = true
        ∧ Frame (PRL_EVT_SWAPREF :: msiFields) [.ifiles, .waiting, .xings, .quiet] s t) ∧
  (∀ (r : Req) (s : State), Ready s 6 → isTriadOrMach r = false → 
    Completes (.swap r) s fun t =>
      Frame [] [.quiet] s t) ∧
  (∀ (s : State), Runs s 6 → onF s PRL_CTRL_EN = true → onF s SYS_MSTAT_MSAFE = false → s.prl.swap = 7 → role s = rolePRIMARY → 
    Completes (.swapComplete) s fun t =>
      role t = roleSTANDBY
        ∧ getF t (PRL_CNT0_SWAPS) = min (getF s (PRL_CNT0_SWAPS) + 1) (2 ^ (PRL_CNT0_SWAPS).w - 1)
        ∧ t.prl.swap = 0
        ∧ Rest [.flds, .ifiles, .onceCycle, .waiting, .mer, .chart, .xings, .quiet, .prl] s t) ∧
  (∀ (s : State), Runs s 6 → onF s PRL_CTRL_EN = true → onF s SYS_MSTAT_MSAFE = false → s.prl.swap = 7 → role s = roleSTANDBY → 
    Completes (.swapComplete) s fun t =>
      role t = rolePRIMARY
        ∧ getF t (PRL_CNT0_SWAPS) = min (getF s (PRL_CNT0_SWAPS) + 1) (2 ^ (PRL_CNT0_SWAPS).w - 1)
        ∧ t.prl.swap = 0
        ∧ Rest [.flds, .ifiles, .onceCycle, .waiting, .mer, .chart, .xings, .quiet, .prl] s t) ∧
  (∀ (s : State), Runs s 6 → (s.prl.swap ≠ 7 ∨ onF s PRL_CTRL_EN = false ∨ onF s SYS_MSTAT_MSAFE = true ∨ role s = roleLISTEN ∨ role s = roleOFF) → 
    Completes (.swapComplete) s fun t =>
      Frame [] [] s t) ∧
  (∀ (n : Fin 2) (up : Bool) (s : State), onF s (PRL_LSTAT_LINK n) = !up → 
    Completes (.pairLinkChange n up) s fun t =>
      onF t (PRL_LSTAT_LINK n) = up
        ∧ bitF t PRL_STAT_LINK n = up
        ∧ onF t (RHL_PSTAT_LINK 17) = (up || onF s (PRL_LSTAT_LINK (1 - n)))
        ∧ onF t (PRL_LSTAT_MASTER n) = (up && !onF s PRL_CTRL_SIDE)
        ∧ onF t PRL_EVT_LINKCHG = true
        ∧ Frame ([PRL_LSTAT_LINK n, PRL_STAT_LINK, PRL_LSTAT_MASTER n, RHL_PSTAT_LINK 17, PRL_EVT_LINKCHG] ++ msiFields) [.ifiles, .waiting, .xings, .quiet] s t) ∧
  (∀ (n : Fin 2) (up : Bool) (s : State), onF s (PRL_LSTAT_LINK n) = up → 
    Completes (.pairLinkChange n up) s fun t =>
      Frame [] [] s t)

/-- Mirroring entries and state blocks to the partner. CATCHUP_PASS of a PRIMARY without a pass in progress changes nothing, of one with no mirrored entry left ends the pass, and of a STANDBY is noted. MIRROR_SEND of a PRIMARY sends one waiting mark with its codeword and drops the mark, and of another role sends nothing. CHART_FRAME_RECEIVE and BLOCK_FRAME_RECEIVE outside STANDBY only count the frame as discarded; in STANDBY and of the same epoch a record is written into its entry, and the lines of a block land at their place in the half of its copy, and no other memory changes. -/
def Obligations.PairMirrors : Prop :=
  (∀ (b : Bool) (s : State), Runs s 6 → role s ≠ roleSTANDBY → s.chart.catchup = none → 
    Completes (.catchupPass b) s fun t =>
      Frame [] [] s t) ∧
  (∀ (b : Bool) (k : Nat) (s : State), Runs s 6 → role s ≠ roleSTANDBY → s.chart.catchup = some k → mirrorEntries s k = [] → 
    Completes (.catchupPass b) s fun t =>
      t.chart = { s.chart with catchup := none }
        ∧ onF t PRL_STAT_CATCHUP = false
        ∧ t.prl = { s.prl with loss := false }
        ∧ Frame [PRL_STAT_CATCHUP] [.chart, .prl] s t) ∧
  (∀ (b : Bool) (k g : Nat) (s : State), Runs s 6 → role s ≠ roleSTANDBY → s.chart.catchup = some k → mirrorEntries s k = [g] → s.chart.marks = [] → 
    Completes (.catchupPass b) s fun t =>
      t.chart = { s.chart with catchup := none, marks := [g] }
        ∧ onF t PRL_STAT_CATCHUP = false
        ∧ bits (readValue t .debugger 0x200D000020) 32 19 = 1
        ∧ t.prl = { s.prl with loss := false }
        ∧ Frame [PRL_STAT_CATCHUP] [.chart, .prl] s t) ∧
  (∀ (s : State), Runs s 6 → role s = roleSTANDBY → 
    Completes (.catchupPass false) s fun t =>
      Frame [] [] s t) ∧
  (∀ (s : State), Runs s 6 → role s = roleSTANDBY → 
    Completes (.catchupPass true) s fun t =>
      t.prl = { s.prl with passDone := true }
        ∧ (onF s PRL_STAT_READY = false → (∀ b : Fin 64, blkUsed s b = true → s.prl.blkDone.contains b.val = true) → onF t PRL_STAT_READY = true)
        ∧ Frame ([PRL_STAT_READY, PRL_EVT_READYCHG] ++ msiFields) [.prl, .ifiles, .waiting, .xings, .quiet] s t) ∧
  (∀ (s : State), Runs s 6 → role s ≠ rolePRIMARY → 
    Completes (.mirrorSend) s fun t =>
      t.out = s.out
        ∧ Frame [] [.prl] s t) ∧
  (∀ (g l : Nat) (d : List Byte) (s : State), Runs s 6 → role s = rolePRIMARY → onF s PRL_STAT_PARTNER = true → mirrorLink s 40 = some l → s.mer.fired = [] → s.chart.marks = [g] → s.prl.tx = [] → s.prl.used + 40 ≤ budget s → readCw s (sigCw g) = some d → 
    Completes (.mirrorSend) s fun t =>
      t.out = .sent .pair l (pairFrame s l 2 (toLE 4 g ++ toLE 4 0 ++ d)) :: s.out
        ∧ t.chart.marks = []
        ∧ bits (readValue t .debugger 0x200D000020) 32 19 = 0
        ∧ t.prl.used = s.prl.used + 8 + d.length
        ∧ Rest [.flds, .nfree, .out, .waiting, .mem, .chk, .caches, .ceHold, .degCnt, .degraded, .chart, .pulses, .pulseOvf, .prl] s t) ∧
  (∀ (n : Fin 2) (f : List Byte) (s : State), Runs s 6 → fcsGood f = false → 
    Completes (.chartFrameReceive n f) s fun t =>
      getF t (PRL_LCNT_FCSERR n) = min (getF s (PRL_LCNT_FCSERR n) + 1) (2 ^ (PRL_LCNT_FCSERR n).w - 1)
        ∧ Frame [PRL_LCNT_FCSERR n] [] s t) ∧
  (∀ (n : Fin 2) (f : List Byte) (u : State) (ep : Nat) (p : List Byte) (s : State), Runs s 6 → pairReceive n f s = (u, some (2, ep, p)) → role s ≠ roleSTANDBY → 
    Completes (.chartFrameReceive n f) s fun t =>
      getF t PRL_CNT1_MIRDISC = min (getF u PRL_CNT1_MIRDISC + 1) (2 ^ PRL_CNT1_MIRDISC.w - 1)
        ∧ Frame [PRL_CNT1_MIRDISC, PRL_CNT1_LOSTFRM, PRL_LCNT_LOSTFRM n] [.prl] s t) ∧
  (∀ (n : Fin 2) (f : List Byte) (u : State) (ep : Nat) (p : List Byte) (s : State), Runs s 6 → pairReceive n f s = (u, some (2, ep, p)) → role s = roleSTANDBY → (s.prl.rxSeq.getD n 0 = 0 ∨ s.prl.rxSeq.getD n 0 = leAt f 18 4) → epochRel ep (getF s PRL_PSTAT_PEPOCH) = .same → onF s CHT_CTRL_EN = true → s.chart.jobs.length < 512 → 
    Completes (.chartFrameReceive n f) s fun t =>
      t.chart = { s.chart with jobs := s.chart.jobs ++ [{ map := 0, code := 0, ts := 0, payload := p, mirror := some ep }] }
        ∧ (t.prl.rxSeq = modAt s.prl.rxSeq n fun _ => leAt f 18 4 + 1)
        ∧ Frame [] [.chart, .prl] s t) ∧
  (∀ (n : Fin 2) (f : List Byte) (s : State), Runs s 6 → fcsGood f = false → 
    Completes (.blockFrameReceive n f) s fun t =>
      getF t (PRL_LCNT_FCSERR n) = min (getF s (PRL_LCNT_FCSERR n) + 1) (2 ^ (PRL_LCNT_FCSERR n).w - 1)
        ∧ Frame [PRL_LCNT_FCSERR n] [] s t) ∧
  (∀ (n : Fin 2) (f : List Byte) (u : State) (ep : Nat) (p : List Byte) (s : State), Runs s 6 → pairReceive n f s = (u, some (3, ep, p)) → role s ≠ roleSTANDBY → 
    Completes (.blockFrameReceive n f) s fun t =>
      getF t PRL_CNT1_MIRDISC = min (getF u PRL_CNT1_MIRDISC + 1) (2 ^ PRL_CNT1_MIRDISC.w - 1)
        ∧ Frame [PRL_CNT1_MIRDISC, PRL_CNT1_LOSTFRM, PRL_LCNT_LOSTFRM n] [.prl] s t) ∧
  (∀ (n : Fin 2) (f : List Byte) (u : State) (ep : Nat) (p : List Byte) (x : BlkRx) (s : State), Runs s 6 → pairReceive n f s = (u, some (3, ep, p)) → role s = roleSTANDBY → epochRel ep (getF u PRL_PSTAT_PEPOCH) = .same → leAt p 0 1 < 64 → blkUsed u (leAt p 0 1) = true → kget {} u.prl.rx (leAt p 0 1) = x → x.got = none → 12 < p.length → (p.length - 12) % 64 = 0 → leAt p 8 4 % 64 = 0 → leAt p 8 4 + (p.length - 12) ≤ blkLen u (leAt p 0 1) → p.length - 12 < blkLen u (leAt p 0 1) → blockMay u (leAt p 0 1) (blkDst u (leAt p 0 1)) (2 * 2 ^ 20) true = true → UncachedIn u (blkDst u (leAt p 0 1) + x.nextHalf * 2 ^ 20 + leAt p 8 4) (p.length - 12) → 
    Completes (.blockFrameReceive n f) s fun t =>
      t.mem = (writeMem u 0x4D (blkDst u (leAt p 0 1) + x.nextHalf * 2 ^ 20 + leAt p 8 4) (p.drop 12)).mem
        ∧ MemOutside (blkDst u (leAt p 0 1) + x.nextHalf * 2 ^ 20 + leAt p 8 4) (p.length - 12) u t
        ∧ onF t (PRL_BLK_3_BUSY (leAt p 0 1)) = true
        ∧ kget {} t.prl.rx (leAt p 0 1) = { x with half := x.nextHalf, cseq := leAt p 4 4, got := some (p.length - 12) }
        ∧ Rest [.flds, .nfree, .ifiles, .onceCycle, .waiting, .mem, .chk, .caches, .ceHold, .degCnt, .degraded, .triads, .resv, .chart, .pulses, .pulseOvf, .xings, .quiet, .prl] s t)

/-- The Logbook fires, captures and flushes. LOG_TRIGGER_FIRE and SWTRIG queue a firing trigger and count it, a full queue drops it with LOST, one that is due while triggers do not fire is forgotten, and with none due, or a trigger that is no software trigger, nothing changes. TRIGGER_DEFINE of an OFF trigger shows the first failing check in ERR and starts the trigger where none fails. LOG_CAPTURE appends one record of the items read. LOG_FLUSH writes an unflushed record to its place in the ring, and no other memory; LOG_FLUSH_REQUEST starts a flush or asks for a further one; LOG_FLUSH_DONE ends it and counts, and in the power-down sequence turns the outputs off. -/
def Obligations.LogbookRecords : Prop :=
  (∀ (s : State), s.logb.due = [] → 
    Completes (.logTriggerFire) s fun t =>
      Frame [] [] s t) ∧
  (∀ (f : Fired) (r : List Fired) (s : State), s.logb.due = f :: r → triggersFire s = false → 
    Completes (.logTriggerFire) s fun t =>
      t.logb = { s.logb with due := r }
        ∧ Frame [] [.logb] s t) ∧
  (∀ (f : Fired) (r : List Fired) (s : State), s.logb.due = f :: r → triggersFire s = true → s.logb.queue.length < 64 → pastFail s = false → 
    Completes (.logTriggerFire) s fun t =>
      t.logb = { s.logb with due := r, queue := s.logb.queue ++ [{ f with pf := s.pwr.seq == 1 }] }
        ∧ getF t (LOG_TSTAT_FIRED f.trig) = min (getF s (LOG_TSTAT_FIRED f.trig) + 1) (2 ^ (LOG_TSTAT_FIRED f.trig).w - 1)
        ∧ getF t LOG_STAT_PEND = (s.logb.queue.length + 1) % 2 ^ LOG_STAT_PEND.w
        ∧ Frame [LOG_TSTAT_FIRED f.trig, LOG_SEQ_OLDEST, LOG_SEQ_NEXT, LOG_FLSEQ_FIRSTUNF, LOG_STAT_PEND, LOG_STAT_UNFL] [.logb] s t) ∧
  (∀ (f : Fired) (r : List Fired) (s : State), s.logb.due = f :: r → triggersFire s = true → 64 ≤ s.logb.queue.length → 
    Completes (.logTriggerFire) s fun t =>
      t.logb.queue = s.logb.queue ∧ t.logb.due = r
        ∧ getF t (LOG_CNT1_LOST) = min (getF s (LOG_CNT1_LOST) + 1) (2 ^ (LOG_CNT1_LOST).w - 1)
        ∧ onF t LOG_EVT_LOST = true
        ∧ Frame ([LOG_TSTAT_FIRED f.trig, LOG_CNT1_LOST, LOG_EVT_LOST] ++ msiFields) [.logb, .ifiles, .waiting, .xings, .quiet] s t) ∧
  (∀ (r : Req) (g : Fin 256) (a : BitVec 48) (s : State), triggersFire s = true → kindOf s g = 3 → s.logb.queue.length < 64 → pastFail s = false → 
    Completes (.swtrig r g a) s fun t =>
      t.logb = { s.logb with queue := s.logb.queue ++ [{ trig := g.val, ts := ts96 s, arg := a.toNat, pf := s.pwr.seq == 1 }] }
        ∧ getF t (LOG_TSTAT_FIRED g) = min (getF s (LOG_TSTAT_FIRED g) + 1) (2 ^ (LOG_TSTAT_FIRED g).w - 1)
        ∧ Frame [LOG_TSTAT_FIRED g, LOG_SEQ_OLDEST, LOG_SEQ_NEXT, LOG_FLSEQ_FIRSTUNF, LOG_STAT_PEND, LOG_STAT_UNFL] [.logb] s t) ∧
  (∀ (r : Req) (g : Fin 256) (a : BitVec 48) (s : State), (triggersFire s = false ∨ kindOf s g ≠ 3) → 
    Completes (.swtrig r g a) s fun t =>
      Frame [] [] s t) ∧
  (∀ (r : Req) (v : Word) (s : State), kindOf s (selTrig s) = 0 → bits v.toNat 0 3 ≠ 0 → trigErr (setF (setF s (LOG_TCTL_MINCLS (selTrig s)) (bits v.toNat (LOG_TCTL_MINCLS (selTrig s)).lo (LOG_TCTL_MINCLS (selTrig s)).w)) (LOG_TCTL_PARAM (selTrig s)) (bits v.toNat (LOG_TCTL_PARAM (selTrig s)).lo (LOG_TCTL_PARAM (selTrig s)).w)) (selTrig s) (bits v.toNat 0 3) = 0 → 
    Completes (.triggerDefine r v) s fun t =>
      getF t (LOG_TCTL_KIND (selTrig s)) = bits v.toNat 0 3
        ∧ onF t (LOG_TSTAT_ACTIVE (selTrig s)) = true
        ∧ getF t (LOG_TSTAT_ERR (selTrig s)) = 0
        ∧ getF t (LOG_TSTAT_FIRED (selTrig s)) = 0
        ∧ getF t (LOG_TSTAT_LEN (selTrig s)) = trigLen s (selTrig s) % 2 ^ (LOG_TSTAT_LEN (selTrig s)).w
        ∧ Frame [LOG_TCTL_KIND (selTrig s), LOG_TCTL_MINCLS (selTrig s), LOG_TCTL_PARAM (selTrig s), LOG_TSTAT_ERR (selTrig s), LOG_TSTAT_ACTIVE (selTrig s), LOG_TSTAT_LEN (selTrig s), LOG_TSTAT_FIRED (selTrig s)] [.logb] s t) ∧
  (∀ (r : Req) (v : Word) (s : State), kindOf s (selTrig s) = 0 → bits v.toNat 0 3 ≠ 0 → trigErr (setF (setF s (LOG_TCTL_MINCLS (selTrig s)) (bits v.toNat (LOG_TCTL_MINCLS (selTrig s)).lo (LOG_TCTL_MINCLS (selTrig s)).w)) (LOG_TCTL_PARAM (selTrig s)) (bits v.toNat (LOG_TCTL_PARAM (selTrig s)).lo (LOG_TCTL_PARAM (selTrig s)).w)) (selTrig s) (bits v.toNat 0 3) ≠ 0 → 
    Completes (.triggerDefine r v) s fun t =>
      getF t (LOG_TSTAT_ERR (selTrig s)) = trigErr (setF (setF s (LOG_TCTL_MINCLS (selTrig s)) (bits v.toNat (LOG_TCTL_MINCLS (selTrig s)).lo (LOG_TCTL_MINCLS (selTrig s)).w)) (LOG_TCTL_PARAM (selTrig s)) (bits v.toNat (LOG_TCTL_PARAM (selTrig s)).lo (LOG_TCTL_PARAM (selTrig s)).w)) (selTrig s) (bits v.toNat 0 3) % 2 ^ (LOG_TSTAT_ERR (selTrig s)).w
        ∧ kindOf t (selTrig s) = 0
        ∧ Frame [LOG_TCTL_MINCLS (selTrig s), LOG_TCTL_PARAM (selTrig s), LOG_TSTAT_ERR (selTrig s)] [] s t) ∧
  (∀ (s : State), s.logb.queue = [] → 
    Completes (.logCapture) s fun t =>
      Frame [] [] s t) ∧
  (∀ (f : Fired) (r : List Fired) (u : State) (p : List Byte) (s : State), s.logb.queue = f :: r → captureItems f (itemsOf s f.trig) { s with logb := { s.logb with queue := r } } = (u, p, 0) → s.logb.newest = none → unflushed s + 32 + (padPayload p).length < 8 * 2 ^ 20 → 
    Completes (.logCapture) s fun t =>
      t.logb.buf = s.logb.buf ++ [{ seq := s.logb.next, trig := f.trig, flags := 2 * b2n f.pf, first := f.ts, items := (itemsOf s f.trig).length, payload := padPayload p }]
        ∧ t.logb.next = (s.logb.next + 1) % 2 ^ 32
        ∧ t.logb.queue = r
        ∧ getF t LOG_CNT0_RECORDS = min (getF u LOG_CNT0_RECORDS + 1) (2 ^ LOG_CNT0_RECORDS.w - 1)
        ∧ Rest [.flds, .nfree, .out, .ifiles, .waiting, .mem, .chk, .caches, .ceHold, .degCnt, .degraded, .pulses, .pulseOvf, .xings, .quiet, .logb] s t) ∧
  (∀ (s : State), onF s LOG_STAT_FLUSHING = false → freeCnt s < s.logb.flushEnd + flushMs s * 1000000 → 
    Completes (.logFlush) s fun t =>
      Frame [] [] s t) ∧
  (∀ (r : LogRec) (s : State), onF s LOG_STAT_FLUSHING = true → s.logb.inFlush = 1 → s.logb.buf = [r] → s.logb.rewrites = [] → s.logb.dir = [] → s.logb.head + r.len ≤ logSize → s.logb.written + r.len < 2 ^ 20 → s.logb.head % 32 = 0 → r.payload.length % 32 = 0 → onF s MEM_INJ_ARM = false → UncachedIn s (logBase + s.logb.head) r.len → 
    Completes (.logFlush) s fun t =>
      t.logb.buf = [] ∧ t.logb.inFlush = 0
        ∧ t.logb.dir = [⟨r.seq, s.logb.head, r.len, false⟩]
        ∧ t.logb.head = s.logb.head + r.len
        ∧ memRaw t (logBase + s.logb.head) r.len = recBytes r
        ∧ MemOutside (logBase + s.logb.head) r.len s t
        ∧ Rest [.flds, .nfree, .ifiles, .waiting, .mem, .chk, .caches, .ceHold, .degCnt, .degraded, .triads, .resv, .pulses, .pulseOvf, .xings, .quiet, .logb] s t) ∧
  (∀ (r : Req) (s : State), onF s LOG_STAT_FLUSHING = false → 
    Completes (.logFlushRequest r) s fun t =>
      onF t LOG_STAT_FLUSHING = true
        ∧ t.logb = { s.logb with inFlush := s.logb.buf.length, written := 0, wrapSaid := false, again := false }
        ∧ Frame [LOG_STAT_FLUSHING] [.logb] s t) ∧
  (∀ (r : Req) (s : State), onF s LOG_STAT_FLUSHING = true → 
    Completes (.logFlushRequest r) s fun t =>
      t.logb = { s.logb with again := true }
        ∧ Frame [] [.logb] s t) ∧
  (∀ (s : State), onF s LOG_STAT_FLUSHING = true → s.logb.buf = [] → s.logb.rewrites = [] → s.logb.again = false → s.pwr.seq = 0 → 
    Completes (.logFlushDone) s fun t =>
      onF t LOG_STAT_FLUSHING = false
        ∧ getF t LOG_FLSEQ_FLUSHES = (getF s LOG_FLSEQ_FLUSHES + 1) % 2 ^ LOG_FLSEQ_FLUSHES.w
        ∧ onF t LOG_EVT_FLUSHED = true
        ∧ t.logb.flushEnd = freeCnt s
        ∧ t.mem = s.mem
        ∧ Rest [.flds, .live, .pendL, .nfree, .out, .ifiles, .waiting, .mem, .chk, .caches, .ceHold, .degCnt, .degraded, .triads, .resv, .fio, .lod, .anl, .binn, .pulses, .pulseOvf, .xings, .quiet, .logb] s t) ∧
  (∀ (s : State), onF s LOG_STAT_FLUSHING = true → s.logb.again = false → s.pwr.seq ≠ 0 → 
    Completes (.logFlushDone) s fun t =>
      onF t LOG_STAT_FLUSHING = false
        ∧ onF t FIO_CTRL_EN = false
        ∧ onF t ANL_CTRL_EN = false
        ∧ t.lod.off = true ∧ t.lod.fbsw = 0
        ∧ Rest [.flds, .live, .pendL, .nfree, .out, .ifiles, .waiting, .mem, .chk, .caches, .ceHold, .degCnt, .degraded, .triads, .resv, .fio, .lod, .anl, .binn, .pulses, .pulseOvf, .xings, .quiet, .logb] s t) ∧
  (∀ (s : State), onF s LOG_STAT_FLUSHING = false → s.pwr.seq = 0 → 
    Completes (.logFlushDone) s fun t =>
      Frame [] [] s t)

/-- Reading, granting and clearing the Logbook. LOG_CURSOR_WRITE from a requester that may read shows the record with that SEQ in the window, or VALID 0 with a window of zeros; any other is refused. LOG_INFO, LOG_READ, LOG_GRANT and LOG_CLEAR answer their session with status, length and data: status 1 and nothing else done without the certificate, 2 where no record has that SEQ, 3 for a grant over a day. A grant opens until its end, and GRANT_EXPIRY closes it then and not before; LOG_CLEAR drops every record but the one that names the depot certificate. -/
def Obligations.LogbookReading : Prop :=
  (∀ (r : Req) (q : BitVec 32) (n : Bool) (s : State), mayCursor s r = false → 
    Completes (.logCursorWrite r q n) s fun t =>
      t.out = .denied r (refusal r .store) :: s.out
        ∧ getF t (LOG_CNT1_DENIED) = min (getF s (LOG_CNT1_DENIED) + 1) (2 ^ (LOG_CNT1_DENIED).w - 1)
        ∧ Frame (LOG_CNT1_DENIED :: lostCounters) [.out, .waiting] s t) ∧
  (∀ (r : Req) (q : BitVec 32) (d : List Byte) (b : Bool) (s : State), mayCursor s r = true → fetchRec s q.toNat = some (d, b) → 
    Completes (.logCursorWrite r q false) s fun t =>
      onF t LOG_CURSOR_VALID = true
        ∧ onF t LOG_CURSOR_CODE = b
        ∧ getF t LOG_CURSOR_SEQ = q.toNat
        ∧ (∀ i : Fin 512, getF t (LOG_WIN_DATA i) = leAt d (8 * i) 8)
        ∧ Rest [.flds, .nfree, .out, .waiting, .mem, .chk, .caches, .ceHold, .degCnt, .degraded, .pulses, .pulseOvf] s t) ∧
  (∀ (r : Req) (q : BitVec 32) (s : State), mayCursor s r = true → fetchRec s q.toNat = none → 
    Completes (.logCursorWrite r q false) s fun t =>
      onF t LOG_CURSOR_VALID = false
        ∧ onF t LOG_CURSOR_CODE = false
        ∧ (∀ i : Fin 512, getF t (LOG_WIN_DATA i) = 0)
        ∧ Rest [.flds, .nfree, .out, .waiting, .mem, .chk, .caches, .ceHold, .degCnt, .degraded, .pulses, .pulseOvf] s t) ∧
  (∀ (c : Cert) (s : State), c ≠ .neither → 
    Completes (.logInfo c) s fun t =>
      t.out = .sent .maintenance 4451 (toLE 4 0 ++ toLE 4 24 ++ (toLE 8 (regValue s (fieldsAt s 0x200E000010)) ++ toLE 8 (regValue s (fieldsAt s 0x200E000018)) ++ toLE 8 (regValue s (fieldsAt s 0x200E000008)))) :: s.out
        ∧ Frame [] [.out] s t) ∧
  (∀ (s : State), 
    Completes (.logInfo .neither) s fun t =>
      t.out = .sent .maintenance 4451 (toLE 4 1 ++ toLE 4 (([] : List Byte)).length ++ ([] : List Byte)) :: s.out
        ∧ Frame lostCounters [.out, .waiting] s t) ∧
  (∀ (q k : BitVec 32) (s : State), 
    Completes (.logRead .neither q k) s fun t =>
      t.out = .sent .maintenance 4451 (toLE 4 1 ++ toLE 4 (([] : List Byte)).length ++ ([] : List Byte)) :: s.out
        ∧ Frame lostCounters [.out, .waiting] s t) ∧
  (∀ (c : Cert) (q k : BitVec 32) (s : State), c ≠ .neither → fetchRec s q.toNat = none → 
    Completes (.logRead c q k) s fun t =>
      t.out = .sent .maintenance 4451 (toLE 4 2 ++ toLE 4 (([] : List Byte)).length ++ ([] : List Byte)) :: s.out
        ∧ Frame [] [.out] s t) ∧
  (∀ (c : Cert) (q : BitVec 32) (d : List Byte) (b : Bool) (s : State), c ≠ .neither → fetchRec s q.toNat = some (d, b) → d.length ≤ 2 ^ 20 → 
    Completes (.logRead c q 1) s fun t =>
      t.out = .sent .maintenance 4451 (toLE 4 0 ++ toLE 4 (d).length ++ d) :: s.out
        ∧ Rest [.flds, .nfree, .out, .waiting, .mem, .chk, .caches, .ceHold, .degCnt, .degraded, .pulses, .pulseOvf] s t) ∧
  (∀ (c : Cert) (k : BitVec 32) (s : State), c ≠ .neither → k ≠ 0 → k.toNat ≤ 86400 → 
    Completes (.logGrant c k) s fun t =>
      t.out = .sent .maintenance 4451 (toLE 4 0 ++ toLE 4 (([] : List Byte)).length ++ ([] : List Byte)) :: s.out
        ∧ t.logb = { s.logb with grantEnd := freeCnt s + k.toNat * 1000000000 }
        ∧ onF t LOG_STAT_GRANT = true
        ∧ onF t LOG_GRANT_DEPOT = decide (c = .depot)
        ∧ Frame [LOG_STAT_GRANT, LOG_GRANT_DEPOT] [.out, .logb] s t) ∧
  (∀ (c : Cert) (k : BitVec 32) (s : State), c ≠ .neither → 86400 < k.toNat → 
    Completes (.logGrant c k) s fun t =>
      t.out = .sent .maintenance 4451 (toLE 4 3 ++ toLE 4 (([] : List Byte)).length ++ ([] : List Byte)) :: s.out
        ∧ Frame [] [.out] s t) ∧
  (∀ (k : BitVec 32) (s : State), 
    Completes (.logGrant .neither k) s fun t =>
      t.out = .sent .maintenance 4451 (toLE 4 1 ++ toLE 4 (([] : List Byte)).length ++ ([] : List Byte)) :: s.out
        ∧ Frame lostCounters [.out, .waiting] s t) ∧
  (∀ (s : State), grantOpen s = false → 
    Completes (.grantExpiry) s fun t =>
      onF t LOG_STAT_GRANT = false
        ∧ onF t LOG_GRANT_DEPOT = false
        ∧ t.logb = { s.logb with grantEnd := 0 }
        ∧ Frame [LOG_STAT_GRANT, LOG_GRANT_DEPOT] [.logb] s t) ∧
  (∀ (s : State), grantOpen s = true → 
    Completes (.grantExpiry) s fun t =>
      Frame [] [] s t) ∧
  (∀ (x : BitVec 256) (s : State), 
    Completes (.logClear .depot x) s fun t =>
      t.out = .sent .maintenance 4451 (toLE 4 0 ++ toLE 4 (([] : List Byte)).length ++ ([] : List Byte)) :: s.out
        ∧ t.logb.buf = [{ seq := s.logb.next, trig := 0, flags := 4, first := ts96 s, items := 0, payload := toLE 32 x.toNat }]
        ∧ t.logb.dir = []
        ∧ t.logb.next = (s.logb.next + 1) % 2 ^ 32
        ∧ onF t LOG_CURSOR_VALID = false
        ∧ onF t LOG_EVT_CLEARED = true
        ∧ onF t LOG_STAT_FLUSHING = true
        ∧ Rest [.flds, .out, .ifiles, .waiting, .xings, .quiet, .logb] s t) ∧
  (∀ (c : Cert) (x : BitVec 256) (s : State), c ≠ .depot → 
    Completes (.logClear c x) s fun t =>
      t.out = .sent .maintenance 4451 (toLE 4 1 ++ toLE 4 (([] : List Byte)).length ++ ([] : List Byte)) :: s.out
        ∧ Frame msiFields [.out, .waiting, .xings, .quiet] s t)

/-- Wake, power-up, start-up and the thermal state. WAKE_ACCEPT and WAKE_INPUT_OFF follow the input, with their event past power-good; the last input going OFF starts OFFDLY, an accepted one ends it. POWER_UP leaves standby where a wake condition holds; POWER_GOOD zeroes time and the free-running counter, advances the power-cycle count and begins start-up; BOOT_STAGE makes the work of its stage and advances. SVCREADY shows FREADY. THERMAL_MEASURE keeps the temperature and its runs, THERMAL_STATE_CHANGE changes the state by them, COVER follows the switch. Where a command has no condition nothing changes. -/
def Obligations.PowerUpAndStartUp : Prop :=
  (∀ (b : Bool) (s : State), onF s (wakeFld b) = true → 
    Completes (.wakeAccept b) s fun t =>
      Frame [] [] s t) ∧
  (∀ (b : Bool) (s : State), onF s (wakeFld b) = false → s.pwr.phase = 2 → 
    Completes (.wakeAccept b) s fun t =>
      onF t (wakeFld b) = true
        ∧ onF t SYS_PWRSTAT_OFFPEND = false
        ∧ onF t SYS_PWREVT_WAKECHG = true
        ∧ Frame ([wakeFld b, SYS_PWREVT_WAKECHG, SYS_PWRSTAT_OFFPEND] ++ msiFields) [.ifiles, .waiting, .xings, .quiet] s t) ∧
  (∀ (b : Bool) (s : State), onF s (wakeFld b) = false → s.pwr.phase ≠ 2 → 
    Completes (.wakeAccept b) s fun t =>
      onF t (wakeFld b) = true
        ∧ Frame [wakeFld b] [] s t) ∧
  (∀ (b : Bool) (s : State), onF s (wakeFld b) = false → 
    Completes (.wakeInputOff b) s fun t =>
      Frame [] [] s t) ∧
  (∀ (b : Bool) (s : State), onF s (wakeFld b) = true → onF s (wakeFld (!b)) = false → s.pwr.phase = 2 → s.pwr.seq = 0 → 
    Completes (.wakeInputOff b) s fun t =>
      onF t (wakeFld b) = false
        ∧ onF t SYS_PWRSTAT_OFFPEND = true
        ∧ t.pwr = { s.pwr with waitOff := false, offAt := freeCnt s }
        ∧ onF t SYS_PWREVT_OFFPEND = true
        ∧ Frame ([wakeFld b, SYS_PWREVT_WAKECHG, SYS_PWRSTAT_OFFPEND, SYS_PWREVT_OFFPEND] ++ msiFields) [.ifiles, .waiting, .pwr, .xings, .quiet] s t) ∧
  (∀ (b : Bool) (s : State), onF s (wakeFld b) = true → onF s (wakeFld (!b)) = true → s.pwr.phase = 2 → 
    Completes (.wakeInputOff b) s fun t =>
      onF t (wakeFld b) = false
        ∧ onF t SYS_PWREVT_WAKECHG = true
        ∧ Frame ([wakeFld b, SYS_PWREVT_WAKECHG] ++ msiFields) [.ifiles, .waiting, .xings, .quiet] s t) ∧
  (∀ (s : State), s.pwr.phase = 0 → s.pwr.batt = true → s.pwr.waitOff = false → anyWake s = true → 
    Completes (.powerUp) s fun t =>
      t.pwr = { s.pwr with phase := 1 }
        ∧ getF t SYS_PWRSTAT_WOKEBY = getF s SYS_PWRSTAT_WAKE1 + 2 * getF s SYS_PWRSTAT_WAKE2
        ∧ getF t SYS_PWRSTAT_LASTOFF = s.pwr.marker % 2 ^ SYS_PWRSTAT_LASTOFF.w
        ∧ Frame [SYS_PWRSTAT_WOKEBY, SYS_PWRSTAT_LASTOFF] [.pwr] s t) ∧
  (∀ (s : State), (s.pwr.phase ≠ 0 ∨ s.pwr.batt = false ∨ s.pwr.waitOff = true ∨ anyWake s = false) → 
    Completes (.powerUp) s fun t =>
      Frame [] [] s t) ∧
  (∀ (s : State), s.pwr.phase = 1 → anyWake s = true → getF s MER_PCC_COUNT < 0xFFFF → 
    Completes (.powerGood true) s fun t =>
      t.pwr = { s.pwr with phase := 2 }
        ∧ t.mer.t = 0
        ∧ getF t MER_FREECNT_COUNT = 0
        ∧ getF t MER_STAT_STATE = 0
        ∧ getF t SYS_BOOT_STAGE = 1
        ∧ getF t MER_PCC_COUNT = getF s MER_PCC_COUNT + 1
        ∧ Rest [.flds, .ifiles, .waiting, .mer, .xings, .quiet, .pwr, .upd] s t) ∧
  (∀ (ok : Bool) (s : State), s.pwr.phase = 1 → anyWake s = false → 
    Completes (.powerGood ok) s fun t =>
      t.pwr = { s.pwr with phase := 2, offAt := 0 }
        ∧ onF t SYS_PWRSTAT_OFFPEND = true
        ∧ getF t MER_FREECNT_COUNT = 0
        ∧ (ok = false → onF t MER_PCC_INVALID = true ∧ getF t MER_PCC_COUNT = getF s MER_PCC_COUNT)
        ∧ (ok = true → getF s MER_PCC_COUNT = 0xFFFF → onF t MER_PCC_SAT = true ∧ getF t MER_PCC_COUNT = 0xFFFF)
        ∧ Rest [.flds, .ifiles, .waiting, .mer, .xings, .quiet, .pwr, .upd] s t) ∧
  (∀ (ok : Bool) (s : State), s.pwr.phase ≠ 1 → 
    Completes (.powerGood ok) s fun t =>
      Frame [] [] s t) ∧
  (∀ (x : BitVec 14) (ok : Bool) (s : State), s.pwr.phase = 2 → s.pwr.seq = 0 → s.upd.want = false → getF s SYS_BOOT_STAGE = 2 → 
    Completes (.bootStage x ok) s fun t =>
      getF t SYS_BOOT_STAGE = 3
        ∧ onF t MEM_STAT_DRREADY = true
        ∧ (∀ c ∈ t.mem, inDram c.1 = false)
        ∧ (∀ c : Fin 14, x.getLsbD c = true → getF t (VTC_CSTAT_CORE c) = csFAILED)
        ∧ Rest [.flds, .live, .pendL, .nfree, .out, .ifiles, .waiting, .mem, .chk, .caches, .ceHold, .degCnt, .degraded, .triads, .fio, .lod, .anl, .binn, .pulses, .pulseOvf, .xings, .quiet, .pwr, .upd] s t) ∧
  (∀ (x : BitVec 14) (ok : Bool) (s : State), s.pwr.phase = 2 → s.pwr.seq = 0 → s.upd.want = false → getF s SYS_BOOT_STAGE = 1 → s.upd.setHeld = false → 
    Completes (.bootStage x ok) s fun t =>
      getF t SYS_BOOT_STAGE = 2
        ∧ onF t MEM_STAT_NVREADY = true
        ∧ Rest [.flds, .live, .pendL, .nfree, .out, .ifiles, .waiting, .mem, .chk, .caches, .ceHold, .degCnt, .degraded, .triads, .fio, .lod, .anl, .binn, .pulses, .pulseOvf, .xings, .quiet, .pwr, .upd] s t) ∧
  (∀ (x : BitVec 14) (ok : Bool) (s : State), s.pwr.phase = 2 → s.pwr.seq = 0 → s.upd.want = false → getF s SYS_BOOT_STAGE = 5 → 
    Completes (.bootStage x ok) s fun t =>
      getF t SYS_BOOT_STAGE = 6
        ∧ onF t FIO_CTRL_EN = true
        ∧ onF t ANL_CTRL_EN = true
        ∧ Rest [.flds, .live, .pendL, .nfree, .out, .ifiles, .waiting, .mem, .chk, .caches, .ceHold, .degCnt, .degraded, .triads, .fio, .lod, .anl, .binn, .pulses, .pulseOvf, .xings, .quiet, .pwr, .upd] s t) ∧
  (∀ (x : BitVec 14) (ok : Bool) (s : State), (s.pwr.phase ≠ 2 ∨ s.pwr.seq ≠ 0 ∨ s.upd.want = true ∨ getF s SYS_BOOT_STAGE = 0 ∨ 7 ≤ getF s SYS_BOOT_STAGE) → 
    Completes (.bootStage x ok) s fun t =>
      Frame [] [] s t) ∧
  (∀ (r : Req) (s : State), 
    Completes (.svcready r) s fun t =>
      onF t SYS_PWRSTAT_FREADY = true
        ∧ onF t SYS_BOOT_SVCREADY = true
        ∧ onF t SYS_PWREVT_FREADY = true
        ∧ Frame ([SYS_PWRSTAT_FREADY, SYS_BOOT_SVCREADY, SYS_PWREVT_FREADY] ++ msiFields) [.ifiles, .waiting, .xings, .quiet] s t) ∧
  (∀ (x : BitVec 8) (s : State), 
    Completes (.thermalMeasure x) s fun t =>
      getF t SYS_THERM_TREF = x.toNat
        ∧ (t.therm.ge97 = (if 97 ≤ x.toInt then min (s.therm.ge97 + 1) 101 else 0))
        ∧ (t.therm.ge112 = (if 112 ≤ x.toInt then min (s.therm.ge112 + 1) 101 else 0))
        ∧ (t.therm.lt94 = (if x.toInt < 94 then min (s.therm.lt94 + 1) 101 else 0))
        ∧ t.therm.any = true ∧ t.therm.clk = s.therm.clk
        ∧ Frame [SYS_THERM_TREF, SYS_THERM_TMAX, SYS_THERM_HOTSEC] [.therm] s t) ∧
  (∀ (s : State), getF s SYS_THERM_TSTATE = 0 → s.therm.ge112 < 11 → 11 ≤ s.therm.ge97 → 
    Completes (.thermalStateChange) s fun t =>
      getF t SYS_THERM_TSTATE = 1
        ∧ getF t SVC_STAT_THROT = 1
        ∧ t.therm = { s.therm with clk := 1 }
        ∧ Frame ([SYS_THERM_TSTATE, SVC_STAT_THROT] ++ lostCounters) [.therm, .waiting] s t) ∧
  (∀ (s : State), getF s SYS_THERM_TSTATE ≠ 3 → 11 ≤ s.therm.ge112 → RoomFor s 0 → 
    Completes (.thermalStateChange) s fun t =>
      getF t SYS_THERM_TSTATE = 3
        ∧ t.waiting = s.waiting ++ [(0, { cls := MODULE, loc := causeLoc 2 })]
        ∧ Frame [SYS_THERM_TSTATE] [.waiting] s t) ∧
  (∀ (s : State), (getF s SYS_THERM_TSTATE = 3 ∨ (s.therm.ge97 < 11 ∧ s.therm.ge102 < 11 ∧ s.therm.ge112 < 11 ∧ s.therm.lt94 < 101 ∧ s.therm.lt99 < 101)) → 
    Completes (.thermalStateChange) s fun t =>
      Frame [] [] s t) ∧
  (∀ (s : State), onF s SYS_THERM_COVER = false → RoomFor s 0 → 
    Completes (.cover true) s fun t =>
      onF t SYS_THERM_COVER = true
        ∧ t.waiting = s.waiting ++ [(0, { cls := NOTE, loc := ⟨7, 0xF, 0x02, 0x01⟩ })]
        ∧ Frame [SYS_THERM_COVER] [.waiting] s t) ∧
  (∀ (s : State), 
    Completes (.cover false) s fun t =>
      onF t SYS_THERM_COVER = false
        ∧ Frame [SYS_THERM_COVER] [] s t)

/-- Interruptions, power-fail and shutdown. INTERRUPTION_START past power-good shows and counts the interruption; INTERRUPTION_END ends it. POWER_FAIL_DECLARE after 10 ms of interruption or at the reserve, OFFDLY_EXPIRY and PWROFF with the key each start the sequence of R480: the first marker, a flush, and the shed islands. POWER_DOWN_END of a sequence leaves the module without power, with non-volatile memory alone and the last marker. BANK_MEASURE shows the energy, and below 2 J leaves a report. MODULE_RESET with the key returns the module group to reset with RSTCAUSE 1. Where its condition does not hold each changes nothing. -/
def Obligations.PowerFailAndShutdown : Prop :=
  (∀ (s : State), s.pwr.phase = 2 → onF s SYS_PWRSTAT_INTR = false → 
    Completes (.interruptionStart) s fun t =>
      onF t SYS_PWRSTAT_INTR = true
        ∧ getF t (SYS_PWRCNT_INTR) = min (getF s (SYS_PWRCNT_INTR) + 1) (2 ^ (SYS_PWRCNT_INTR).w - 1)
        ∧ t.pwr = { s.pwr with batt := false, intrAt := freeCnt s }
        ∧ onF t SYS_PWREVT_INTR = true
        ∧ Frame ([SYS_PWRSTAT_INTR, SYS_PWRCNT_INTR, SYS_PWREVT_INTR] ++ msiFields) [.ifiles, .waiting, .pwr, .xings, .quiet] s t) ∧
  (∀ (s : State), (s.pwr.phase ≠ 2 ∨ onF s SYS_PWRSTAT_INTR = true) → 
    Completes (.interruptionStart) s fun t =>
      t.pwr = { s.pwr with batt := false }
        ∧ Frame [] [.pwr] s t) ∧
  (∀ (s : State), 
    Completes (.interruptionEnd) s fun t =>
      onF t SYS_PWRSTAT_INTR = false
        ∧ t.pwr = { s.pwr with batt := true }
        ∧ Frame (SYS_PWRSTAT_INTR :: lostCounters) [.waiting, .pwr] s t) ∧
  (∀ (b : Bool) (s : State), s.pwr.phase = 2 → s.pwr.seq = 0 → onF s SYS_PWRSTAT_INTR = true → (b = true ∨ s.pwr.intrAt + 10000000 ≤ freeCnt s) → 
    Completes (.powerFailDeclare b) s fun t =>
      onF t SYS_PWRSTAT_PFAIL = true
        ∧ getF t (SYS_PWRCNT_PFAIL) = min (getF s (SYS_PWRCNT_PFAIL) + 1) (2 ^ (SYS_PWRCNT_PFAIL).w - 1)
        ∧ t.pwr = { s.pwr with seq := 1, seqAt := freeCnt s, marker := 4, waitOff := false }
        ∧ onF t LOG_STAT_FLUSHING = true
        ∧ onF t SYS_PWRSTAT_SHED = true
        ∧ (∀ i ∈ ([0x2, 0x6, 0x8, 0x9, 0xA] : List Nat), onF t (SYS_ISL_SHED i) = true ∧ onF t (SYS_ISL_STOPPED i) = true)
        ∧ Frame ([SYS_PWRSTAT_PFAIL, SYS_PWRCNT_PFAIL, SYS_PWRSTAT_OFFPEND, LOG_STAT_FLUSHING, SYS_PWRSTAT_SHED] ++ (([0x2, 0x6, 0x8, 0x9, 0xA] : List Nat).flatMap fun i => [SYS_ISL_SHED i, SYS_ISL_STOPPED i]) ++ lostCounters) [.waiting, .logb, .pwr] s t) ∧
  (∀ (b : Bool) (s : State), (s.pwr.phase ≠ 2 ∨ s.pwr.seq ≠ 0 ∨ onF s SYS_PWRSTAT_INTR = false ∨ (b = false ∧ freeCnt s < s.pwr.intrAt + 10000000)) → 
    Completes (.powerFailDeclare b) s fun t =>
      Frame [] [] s t) ∧
  (∀ (s : State), s.pwr.seq ≠ 0 → 
    Completes (.powerDownEnd true) s fun t =>
      t.pwr = { phase := 0, batt := s.pwr.batt, waitOff := s.pwr.waitOff, marker := s.pwr.seq }
        ∧ (∀ c ∈ t.mem, inNvm c.1 = true)
        ∧ t.qops = [] ∧ t.waiting = [] ∧ t.ifiles = []
        ∧ (∀ p ∈ t.flds, staysOnPower p.1 = true)
        ∧ Rest [.flds, .live, .pendL, .nfree, .out, .qops, .ifiles, .onceCycle, .waiting, .mem, .chk, .caches, .ceHold, .degCnt, .degAt, .degraded, .triads, .resv, .poolNext, .mer, .rhl, .chart, .bkb, .can, .brg, .fio, .lod, .anl, .binn, .pulses, .pulseOvf, .xings, .quiet, .links, .linkAt, .linkLost, .coll, .prl, .logb, .pwr, .upd, .therm] s t) ∧
  (∀ (s : State), s.pwr.seq ≠ 0 → 
    Completes (.powerDownEnd false) s fun t =>
      t.pwr = { phase := 0, batt := s.pwr.batt, waitOff := s.pwr.waitOff, marker := s.pwr.marker }
        ∧ (∀ c ∈ t.mem, inNvm c.1 = true)
        ∧ t.qops = [] ∧ t.waiting = [] ∧ t.ifiles = []
        ∧ Rest [.flds, .live, .pendL, .nfree, .out, .qops, .ifiles, .onceCycle, .waiting, .mem, .chk, .caches, .ceHold, .degCnt, .degAt, .degraded, .triads, .resv, .poolNext, .mer, .rhl, .chart, .bkb, .can, .brg, .fio, .lod, .anl, .binn, .pulses, .pulseOvf, .xings, .quiet, .links, .linkAt, .linkLost, .coll, .prl, .logb, .pwr, .upd, .therm] s t) ∧
  (∀ (b : Bool) (s : State), s.pwr.seq = 0 → 
    Completes (.powerDownEnd b) s fun t =>
      Frame [] [] s t) ∧
  (∀ (m : BitVec 16) (s : State), 2000 ≤ m.toNat → 
    Completes (.bankMeasure m) s fun t =>
      onF t SYS_PWRSTAT_HUFULL = true
        ∧ getF t SYS_PWRMON_EBANK = m.toNat
        ∧ Frame [SYS_PWRSTAT_HUFULL, SYS_PWRMON_EBANK] [] s t) ∧
  (∀ (m : BitVec 16) (s : State), m.toNat < 2000 → RoomFor s 0 → 
    Completes (.bankMeasure m) s fun t =>
      onF t SYS_PWRSTAT_HUFULL = true
        ∧ getF t SYS_PWRMON_EBANK = m.toNat
        ∧ t.waiting = s.waiting ++ [(0, { cls := MAJOR, loc := ⟨7, 0xF, 0x01, 0xFF⟩ })]
        ∧ Frame [SYS_PWRSTAT_HUFULL, SYS_PWRMON_EBANK] [.waiting] s t) ∧
  (∀ (s : State), s.pwr.phase = 2 → s.pwr.seq = 0 → onF s SYS_PWRSTAT_OFFPEND = true → s.pwr.offAt + offDelay s * 1000000000 ≤ freeCnt s → 
    Completes (.offdlyExpiry) s fun t =>
      t.pwr = { s.pwr with seq := 2, seqAt := freeCnt s, marker := 4, waitOff := anyWake s }
        ∧ onF t SYS_PWRSTAT_OFFPEND = false
        ∧ onF t LOG_STAT_FLUSHING = true
        ∧ (∀ i ∈ ([0x2, 0x6, 0x8, 0x9, 0xA] : List Nat), onF t (SYS_ISL_SHED i) = true ∧ onF t (SYS_ISL_STOPPED i) = true)
        ∧ Frame ([SYS_PWRSTAT_OFFPEND, LOG_STAT_FLUSHING, SYS_PWRSTAT_SHED] ++ (([0x2, 0x6, 0x8, 0x9, 0xA] : List Nat).flatMap fun i => [SYS_ISL_SHED i, SYS_ISL_STOPPED i])) [.logb, .pwr] s t) ∧
  (∀ (s : State), (s.pwr.phase ≠ 2 ∨ s.pwr.seq ≠ 0 ∨ onF s SYS_PWRSTAT_OFFPEND = false ∨ freeCnt s < s.pwr.offAt + offDelay s * 1000000000) → 
    Completes (.offdlyExpiry) s fun t =>
      Frame [] [] s t) ∧
  (∀ (r : Req) (s : State), isTriadOrMach r = true → s.pwr.phase = 2 → s.pwr.seq = 0 → 
    Completes (.pwroff r 0x5A3C) s fun t =>
      t.pwr = { s.pwr with seq := 3, seqAt := freeCnt s, marker := 4, waitOff := anyWake s }
        ∧ onF t LOG_STAT_FLUSHING = true
        ∧ (∀ i ∈ ([0x2, 0x6, 0x8, 0x9, 0xA] : List Nat), onF t (SYS_ISL_SHED i) = true ∧ onF t (SYS_ISL_STOPPED i) = true)
        ∧ Frame ([SYS_PWRSTAT_OFFPEND, LOG_STAT_FLUSHING, SYS_PWRSTAT_SHED] ++ (([0x2, 0x6, 0x8, 0x9, 0xA] : List Nat).flatMap fun i => [SYS_ISL_SHED i, SYS_ISL_STOPPED i])) [.logb, .pwr] s t) ∧
  (∀ (r : Req) (k : BitVec 16) (s : State), (isTriadOrMach r = false ∨ k ≠ 0x5A3C ∨ s.pwr.seq ≠ 0) → 
    Completes (.pwroff r k) s fun t =>
      Frame [] [] s t) ∧
  (∀ (r : Req) (s : State), isTriadOrMach r = true → s.pwr.seq = 0 → 
    Completes (.moduleReset r 0xA5C3) s fun t =>
      getF t SYS_PWRSTAT_RSTCAUSE = 1
        ∧ getF t SYS_BOOT_STAGE = 1
        ∧ onF t SYS_MSTAT_MSAFE = false
        ∧ t.qops = [] ∧ t.ifiles = [] ∧ t.resv = []
        ∧ (∀ k : Fin 4, triad t k = { started := (triad s k).started })
        ∧ t.caches = [] ∧ t.degraded = s.degraded
        ∧ t.prl = {} ∧ t.chart = {} ∧ t.bkb = {}
        ∧ Rest [.flds, .live, .pendL, .nfree, .out, .qops, .ifiles, .onceCycle, .waiting, .mem, .chk, .caches, .ceHold, .degCnt, .degraded, .triads, .resv, .poolNext, .mer, .rhl, .chart, .bkb, .can, .brg, .fio, .anl, .binn, .pulses, .pulseOvf, .xings, .quiet, .links, .linkAt, .linkLost, .prl, .logb, .pwr, .upd] s t) ∧
  (∀ (r : Req) (k : BitVec 16) (s : State), (isTriadOrMach r = false ∨ k ≠ 0xA5C3 ∨ s.pwr.seq ≠ 0) → 
    Completes (.moduleReset r k) s fun t =>
      Frame [] [] s t)

/-- Staging, activating, confirming and cancelling. STAGE of a misaligned descriptor ends with BADLEN and of unreachable memory with ACCESS; a package that passes every check of R495 is copied to the other slot, which becomes STAGED, and one that fails a check after the copy leaves it INVALID. ACTIVATE and FALLBACK of a unit the queue may address arm it, or end with their status, which the unit keeps. CONFIRM of the version in force sets CONF and MINVER; CANCEL withdraws what is pending; PILOT with the key resets the module into Pilot mode. A unit the queue may not address ends with NOTALLOWED, and without such a descriptor nothing changes. -/
def Obligations.UpdateQueues : Prop :=
  (∀ (q : Fin 5) (o : QOp) (c : Bool) (s : State), currentOpc s (0xF00 + q) 1 = some o → o.started = false → o.epoch ≠ getF s (QEPOCH_EPOCH (0xF00 + q)) → 
    Completes (.stage q c) s fun t =>
      (∀ y ∈ t.qops, y.q = o.q → y.idx = o.idx → y.done = some { status := stSTALE, whole := true })
        ∧ Rest [.flds, .nfree, .qops, .ifiles, .onceCycle, .waiting, .mem, .chk, .caches, .ceHold, .degCnt, .degraded, .triads, .resv, .pulses, .pulseOvf, .xings, .quiet] s t) ∧
  (∀ (q : Fin 5) (c : Bool) (s : State), currentOpc s (0xF00 + q) 1 = none → 
    Completes (.stage q c) s fun t =>
      Frame [] [] s t) ∧
  (∀ (q : Fin 5) (o : QOp) (c : Bool) (s : State), currentOpc s (0xF00 + q) 1 = some o → (o.started = true ∨ o.epoch = getF s (QEPOCH_EPOCH (0xF00 + q))) → o.n = 1 → leAt (opDesc s o) 8 8 % 32 ≠ 0 → 
    Completes (.stage q c) s fun t =>
      (t.qops = s.qops.map fun y => if y.q = o.q ∧ y.idx = o.idx then { y with started := true, done := some { status := stBADLEN, res := 0, ts := 0 } } else y)
        ∧ Frame [] [.qops] s t) ∧
  (∀ (q : Fin 5) (o : QOp) (c : Bool) (s : State), currentOpc s (0xF00 + q) 1 = some o → (o.started = true ∨ o.epoch = getF s (QEPOCH_EPOCH (0xF00 + q))) → o.n = 1 → leAt (opDesc s o) 8 8 % 32 = 0 → dramSpan (leAt (opDesc s o) 8 8) (leAt (opDesc s o) 4 4) = false → 
    Completes (.stage q c) s fun t =>
      (t.qops = s.qops.map fun y => if y.q = o.q ∧ y.idx = o.idx then { y with started := true, done := some { status := stACCESS, res := 0, ts := 0 } } else y)
        ∧ Frame [] [.qops] s t) ∧
  (∀ (q : Fin 5) (o : QOp) (c : Bool) (p k : List Byte) (u : Nat) (s : State), currentOpc s (0xF00 + q) 1 = some o → (o.started = true ∨ o.epoch = getF s (QEPOCH_EPOCH (0xF00 + q))) → o.n = 1 → leAt (opDesc s o) 8 8 % 32 = 0 → dramSpan (leAt (opDesc s o) 8 8) (leAt (opDesc s o) 4 4) = true → engineMay s (0xF00 + q) (leAt (opDesc s o) 8 8) (leAt (opDesc s o) 4 4) false = true → readMem s (leAt (opDesc s o) 8 8) (leAt (opDesc s o) 4 4) = some p → unitOf (p.take 128) = some u → u ≠ 5 → u ≠ 6 → u ≠ 7 → (stageChecks (touch s updReq (leAt (opDesc s o) 8 8) (leAt (opDesc s o) 4 4)) (queueMay q u) c u (leAt (opDesc s o) 4 4) (p.take 128)).toOption = some k → digestOk p = true → sigOk k p = true → 
    Completes (.stage q c) s fun t =>
      (t.qops = s.qops.map fun y => if y.q = o.q ∧ y.idx = o.idx then { y with started := true, done := some { status := stOK, res := pkVersion (p.take 128) + u * 2 ^ 32 + 0 * 2 ^ 40, ts := ts96 s } } else y)
        ∧ getF t (UPD_UNIT_1_OTHSTATE u) = 1
        ∧ getF t (UPD_UNIT_1_OTHVER u) = pkVersion (p.take 128) % 2 ^ (UPD_UNIT_1_OTHVER u).w
        ∧ t.mem = (writeMem (touch s updReq (leAt (opDesc s o) 8 8) (leAt (opDesc s o) 4 4)) updReq (unitBase u (1 - actSlot (touch s updReq (leAt (opDesc s o) 8 8) (leAt (opDesc s o) 4 4)) u)) p).mem
        ∧ onF t UPD_EVT_STAGED = true
        ∧ Rest [.flds, .nfree, .qops, .ifiles, .onceCycle, .waiting, .mem, .chk, .caches, .ceHold, .degCnt, .degraded, .triads, .resv, .pulses, .pulseOvf, .xings, .quiet] s t) ∧
  (∀ (q : Fin 5) (o : QOp) (c : Bool) (p k : List Byte) (u : Nat) (s : State), currentOpc s (0xF00 + q) 1 = some o → (o.started = true ∨ o.epoch = getF s (QEPOCH_EPOCH (0xF00 + q))) → o.n = 1 → leAt (opDesc s o) 8 8 % 32 = 0 → dramSpan (leAt (opDesc s o) 8 8) (leAt (opDesc s o) 4 4) = true → engineMay s (0xF00 + q) (leAt (opDesc s o) 8 8) (leAt (opDesc s o) 4 4) false = true → readMem s (leAt (opDesc s o) 8 8) (leAt (opDesc s o) 4 4) = some p → unitOf (p.take 128) = some u → (stageChecks (touch s updReq (leAt (opDesc s o) 8 8) (leAt (opDesc s o) 4 4)) (queueMay q u) c u (leAt (opDesc s o) 4 4) (p.take 128)).toOption = some k → digestOk p = false → 
    Completes (.stage q c) s fun t =>
      (t.qops = s.qops.map fun y => if y.q = o.q ∧ y.idx = o.idx then { y with started := true, done := some { status := upDIGEST, res := pkVersion (p.take 128) + u * 2 ^ 32 + 0 * 2 ^ 40, ts := 0 } } else y)
        ∧ getF t (UPD_UNIT_1_OTHSTATE u) = 3
        ∧ getF t (UPD_UNIT_1_LASTERR u) = 8
        ∧ Rest [.flds, .nfree, .qops, .ifiles, .onceCycle, .waiting, .mem, .chk, .caches, .ceHold, .degCnt, .degraded, .triads, .resv, .pulses, .pulseOvf, .xings, .quiet] s t) ∧
  (∀ (q : Fin 5) (s : State), currentOpc s (0xF00 + q) 2 = none → 
    Completes (.activate q) s fun t =>
      Frame [] [] s t) ∧
  (∀ (q : Fin 5) (o : QOp) (s : State), currentOpc s (0xF00 + q) 2 = some o → (o.started = true ∨ o.epoch = getF s (QEPOCH_EPOCH (0xF00 + q))) → o.n = 1 → queueMay q (dByte (opDesc s o) 8) = false → 
    Completes (.activate q) s fun t =>
      (t.qops = s.qops.map fun y => if y.q = o.q ∧ y.idx = o.idx then { y with started := true, done := some { status := upNOTALLOWED, res := 0, ts := 0 } } else y)
        ∧ (dByte (opDesc s o) 8 < 25 → getF t (UPD_UNIT_1_LASTERR (dByte (opDesc s o) 8)) = 1)
        ∧ Frame [UPD_UNIT_1_LASTERR (dByte (opDesc s o) 8)] [.qops] s t) ∧
  (∀ (q : Fin 5) (o : QOp) (e : Nat) (s : State), currentOpc s (0xF00 + q) 2 = some o → (o.started = true ∨ o.epoch = getF s (QEPOCH_EPOCH (0xF00 + q))) → o.n = 1 → queueMay q (dByte (opDesc s o) 8) = true → (armRefused s (dByte (opDesc s o) 8) false (if bit (dByte (opDesc s o) 9) 0 then 1 else if bit (dByte (opDesc s o) 9) 1 then 2 else 0) (tsNs (leAt (opDesc s o) 12 12)) = some e) → 
    Completes (.activate q) s fun t =>
      (t.qops = s.qops.map fun y => if y.q = o.q ∧ y.idx = o.idx then { y with started := true, done := some { status := e, res := 0, ts := 0 } } else y)
        ∧ getF t (UPD_UNIT_1_LASTERR (dByte (opDesc s o) 8)) = e % 256
        ∧ Frame [UPD_UNIT_1_LASTERR (dByte (opDesc s o) 8)] [.qops] s t) ∧
  (∀ (q : Fin 5) (o : QOp) (s : State), currentOpc s (0xF00 + q) 2 = some o → (o.started = true ∨ o.epoch = getF s (QEPOCH_EPOCH (0xF00 + q))) → o.n = 1 → queueMay q (dByte (opDesc s o) 8) = true → (armRefused s (dByte (opDesc s o) 8) false (if bit (dByte (opDesc s o) 9) 0 then 1 else if bit (dByte (opDesc s o) 9) 1 then 2 else 0) (tsNs (leAt (opDesc s o) 12 12)) = none) → 
    Completes (.activate q) s fun t =>
      (t.qops = s.qops.map fun y => if y.q = o.q ∧ y.idx = o.idx then { y with started := true, done := some { status := stOK, res := 0, ts := ts96 s } } else y)
        ∧ (pendOf t (dByte (opDesc s o) 8) = some { fall := false, mode := (if bit (dByte (opDesc s o) 9) 0 then 1 else if bit (dByte (opDesc s o) 9) 1 then 2 else 0), wp := tsNs (leAt (opDesc s o) 12 12), cyc := getF s MER_CYCPOS_CYCLES })
        ∧ onF t (UPD_UNIT_1_PEND (dByte (opDesc s o) 8)) = true
        ∧ Rest [.flds, .nfree, .qops, .ifiles, .onceCycle, .waiting, .mem, .chk, .caches, .ceHold, .degCnt, .degraded, .triads, .resv, .rhl, .lod, .pulses, .pulseOvf, .xings, .quiet, .upd] s t) ∧
  (∀ (q : Fin 5) (s : State), currentOpc s (0xF00 + q) 4 = none → 
    Completes (.fallback q) s fun t =>
      Frame [] [] s t) ∧
  (∀ (q : Fin 5) (o : QOp) (s : State), currentOpc s (0xF00 + q) 4 = some o → (o.started = true ∨ o.epoch = getF s (QEPOCH_EPOCH (0xF00 + q))) → o.n = 1 → queueMay q (dByte (opDesc s o) 8) = false → 
    Completes (.fallback q) s fun t =>
      (t.qops = s.qops.map fun y => if y.q = o.q ∧ y.idx = o.idx then { y with started := true, done := some { status := upNOTALLOWED, res := 0, ts := 0 } } else y)
        ∧ (dByte (opDesc s o) 8 < 25 → getF t (UPD_UNIT_1_LASTERR (dByte (opDesc s o) 8)) = 1)
        ∧ Frame [UPD_UNIT_1_LASTERR (dByte (opDesc s o) 8)] [.qops] s t) ∧
  (∀ (q : Fin 5) (o : QOp) (e : Nat) (s : State), currentOpc s (0xF00 + q) 4 = some o → (o.started = true ∨ o.epoch = getF s (QEPOCH_EPOCH (0xF00 + q))) → o.n = 1 → queueMay q (dByte (opDesc s o) 8) = true → (armRefused s (dByte (opDesc s o) 8) true (if bit (dByte (opDesc s o) 9) 0 then 1 else if bit (dByte (opDesc s o) 9) 1 then 2 else 0) (tsNs (leAt (opDesc s o) 12 12)) = some e) → 
    Completes (.fallback q) s fun t =>
      (t.qops = s.qops.map fun y => if y.q = o.q ∧ y.idx = o.idx then { y with started := true, done := some { status := e, res := 0, ts := 0 } } else y)
        ∧ getF t (UPD_UNIT_1_LASTERR (dByte (opDesc s o) 8)) = e % 256
        ∧ Frame [UPD_UNIT_1_LASTERR (dByte (opDesc s o) 8)] [.qops] s t) ∧
  (∀ (q : Fin 5) (o : QOp) (s : State), currentOpc s (0xF00 + q) 4 = some o → (o.started = true ∨ o.epoch = getF s (QEPOCH_EPOCH (0xF00 + q))) → o.n = 1 → queueMay q (dByte (opDesc s o) 8) = true → (armRefused s (dByte (opDesc s o) 8) true (if bit (dByte (opDesc s o) 9) 0 then 1 else if bit (dByte (opDesc s o) 9) 1 then 2 else 0) (tsNs (leAt (opDesc s o) 12 12)) = none) → 
    Completes (.fallback q) s fun t =>
      (t.qops = s.qops.map fun y => if y.q = o.q ∧ y.idx = o.idx then { y with started := true, done := some { status := stOK, res := 0, ts := ts96 s } } else y)
        ∧ (pendOf t (dByte (opDesc s o) 8) = some { fall := true, mode := (if bit (dByte (opDesc s o) 9) 0 then 1 else if bit (dByte (opDesc s o) 9) 1 then 2 else 0), wp := tsNs (leAt (opDesc s o) 12 12), cyc := getF s MER_CYCPOS_CYCLES })
        ∧ onF t (UPD_UNIT_1_PEND (dByte (opDesc s o) 8)) = true
        ∧ Rest [.flds, .nfree, .qops, .ifiles, .onceCycle, .waiting, .mem, .chk, .caches, .ceHold, .degCnt, .degraded, .triads, .resv, .rhl, .lod, .pulses, .pulseOvf, .xings, .quiet, .upd] s t) ∧
  (∀ (q : Fin 5) (c : Bool) (s : State), currentOpc s (0xF00 + q) 3 = none → 
    Completes (.confirm q c) s fun t =>
      Frame [] [] s t) ∧
  (∀ (q : Fin 5) (o : QOp) (s : State), currentOpc s (0xF00 + q) 3 = some o → (o.started = true ∨ o.epoch = getF s (QEPOCH_EPOCH (0xF00 + q))) → o.n = 1 → queueMay q (dByte (opDesc s o) 8) = true → leAt (opDesc s o) 12 4 = actVer s (dByte (opDesc s o) 8) → actVer s (dByte (opDesc s o) 8) ≠ 0 → confirmed s (dByte (opDesc s o) 8) = false → 
    Completes (.confirm q true) s fun t =>
      (t.qops = s.qops.map fun y => if y.q = o.q ∧ y.idx = o.idx then { y with started := true, done := some { status := stOK, res := 0, ts := ts96 s } } else y)
        ∧ onF t (UPD_UNIT_1_CONF (dByte (opDesc s o) 8)) = true
        ∧ getF t (UPD_UNIT_0_MINVER (dByte (opDesc s o) 8)) = actVer s (dByte (opDesc s o) 8) % 2 ^ (UPD_UNIT_0_MINVER (dByte (opDesc s o) 8)).w
        ∧ getF t (UPD_UNIT_1_TRIES (dByte (opDesc s o) 8)) = 0
        ∧ (getF t (UPD_UNIT_1_OTHSTATE (dByte (opDesc s o) 8)) = (if othState s (dByte (opDesc s o) 8) = 2 then 4 else othState s (dByte (opDesc s o) 8)))
        ∧ Frame ([UPD_UNIT_1_CONF (dByte (opDesc s o) 8), UPD_UNIT_0_MINVER (dByte (opDesc s o) 8), UPD_UNIT_1_TRIES (dByte (opDesc s o) 8), UPD_UNIT_1_OTHSTATE (dByte (opDesc s o) 8)] ++ lostCounters) [.qops, .waiting] s t) ∧
  (∀ (q : Fin 5) (o : QOp) (c : Bool) (s : State), currentOpc s (0xF00 + q) 3 = some o → (o.started = true ∨ o.epoch = getF s (QEPOCH_EPOCH (0xF00 + q))) → o.n = 1 → queueMay q (dByte (opDesc s o) 8) = true → (leAt (opDesc s o) 12 4 ≠ actVer s (dByte (opDesc s o) 8) ∨ confirmed s (dByte (opDesc s o) 8) = true ∨ actVer s (dByte (opDesc s o) 8) = 0) → 
    Completes (.confirm q c) s fun t =>
      (t.qops = s.qops.map fun y => if y.q = o.q ∧ y.idx = o.idx then { y with started := true, done := some { status := upVERSION, res := 0, ts := 0 } } else y)
        ∧ getF t (UPD_UNIT_1_LASTERR (dByte (opDesc s o) 8)) = 15
        ∧ Frame [UPD_UNIT_1_LASTERR (dByte (opDesc s o) 8)] [.qops] s t) ∧
  (∀ (q : Fin 5) (s : State), currentOpc s (0xF00 + q) 5 = none → 
    Completes (.cancel q) s fun t =>
      Frame [] [] s t) ∧
  (∀ (q : Fin 5) (o : QOp) (s : State), currentOpc s (0xF00 + q) 5 = some o → (o.started = true ∨ o.epoch = getF s (QEPOCH_EPOCH (0xF00 + q))) → o.n = 1 → queueMay q (dByte (opDesc s o) 8) = true → ((pendOf s (dByte (opDesc s o) 8)).all (fun a => a.captured || (a.due && decide (8 ≤ dByte (opDesc s o) 8) && decide (dByte (opDesc s o) 8 < 16))) = false) → 
    Completes (.cancel q) s fun t =>
      (t.qops = s.qops.map fun y => if y.q = o.q ∧ y.idx = o.idx then { y with started := true, done := some { status := stOK, res := 0, ts := ts96 s } } else y)
        ∧ pendOf t (dByte (opDesc s o) 8) = none
        ∧ onF t (UPD_UNIT_1_PEND (dByte (opDesc s o) 8)) = false
        ∧ Rest [.flds, .qops, .ifiles, .onceCycle, .waiting, .lod, .anl, .binn, .xings, .quiet, .linkAt, .upd] s t) ∧
  (∀ (q : Fin 5) (o : QOp) (s : State), currentOpc s (0xF00 + q) 5 = some o → (o.started = true ∨ o.epoch = getF s (QEPOCH_EPOCH (0xF00 + q))) → o.n = 1 → queueMay q (dByte (opDesc s o) 8) = true → ((pendOf s (dByte (opDesc s o) 8)).all (fun a => a.captured || (a.due && decide (8 ≤ dByte (opDesc s o) 8) && decide (dByte (opDesc s o) 8 < 16))) = true) → 
    Completes (.cancel q) s fun t =>
      (t.qops = s.qops.map fun y => if y.q = o.q ∧ y.idx = o.idx then { y with started := true, done := some { status := upNOPEND, res := 0, ts := 0 } } else y)
        ∧ getF t (UPD_UNIT_1_LASTERR (dByte (opDesc s o) 8)) = 16
        ∧ Frame [UPD_UNIT_1_LASTERR (dByte (opDesc s o) 8)] [.qops] s t) ∧
  (∀ (q : Fin 5) (s : State), currentOpc s (0xF00 + q) 6 = none → 
    Completes (.pilot q) s fun t =>
      Frame [] [] s t) ∧
  (∀ (q : Fin 5) (o : QOp) (s : State), currentOpc s (0xF00 + q) 6 = some o → (o.started = true ∨ o.epoch = getF s (QEPOCH_EPOCH (0xF00 + q))) → o.n = 1 → leAt (opDesc s o) 4 4 ≠ 0x50494C54 → 
    Completes (.pilot q) s fun t =>
      (t.qops = s.qops.map fun y => if y.q = o.q ∧ y.idx = o.idx then { y with started := true, done := some { status := upNOTALLOWED, res := 0, ts := 0 } } else y)
        ∧ Frame [] [.qops] s t) ∧
  (∀ (q : Fin 5) (o : QOp) (s : State), currentOpc s (0xF00 + q) 6 = some o → (o.started = true ∨ o.epoch = getF s (QEPOCH_EPOCH (0xF00 + q))) → o.n = 1 → leAt (opDesc s o) 4 4 = 0x50494C54 → s.pwr.seq = 0 → 
    Completes (.pilot q) s fun t =>
      t.upd.want = true
        ∧ getF t SYS_PWRSTAT_RSTCAUSE = 2
        ∧ getF t SYS_BOOT_STAGE = 1
        ∧ t.qops = []
        ∧ Rest [.flds, .live, .pendL, .nfree, .out, .qops, .ifiles, .onceCycle, .waiting, .mem, .chk, .caches, .ceHold, .degCnt, .degraded, .triads, .resv, .poolNext, .mer, .rhl, .chart, .bkb, .can, .brg, .fio, .anl, .binn, .pulses, .pulseOvf, .xings, .quiet, .links, .linkAt, .linkLost, .prl, .logb, .pwr, .upd] s t)

/-- Waypoints, switches and Pilot mode. WAYPOINT_REACHED in SYNC or DR switches a pending unit, or marks one that another command switches, and in FREE or LOST defers it; HANDOVER_REQUEST asks the triad once, HANDOVER_READY from it shows READY, VITAL_IMAGE_SWITCH switches its image. FIRMWARE_SWITCH_HOLD holds the front end and ends with the new firmware, AFW_SWITCH_FAIL leaves the slot INVALID. MAPAREA_WRITE is taken until maps have been activated; BACKGROUND_CHECK runs after a day; PILOT_ENTRY, the TFTP commands and MODRESET follow R506 to R508. Where its condition does not hold each changes nothing. -/
def Obligations.UpdateSwitches : Prop :=
  (∀ (s : State), s.upd.pend = [] → 
    Completes (.waypointReached) s fun t =>
      Frame [] [] s t) ∧
  (∀ (u : Nat) (a : PendAct) (s : State), s.upd.pend = [(u, some a)] → (u = 0 ∨ (5 ≤ u ∧ u < 8) ∨ (16 ≤ u ∧ u < 25)) → a.mode = 0 → a.due = false → a.wp ≤ nowNs s → (getF s MER_STAT_STATE = 1 ∨ getF s MER_STAT_STATE = 2) → 
    Completes (.waypointReached) s fun t =>
      getF t (UPD_UNIT_1_ACTSLOT u) = (1 - getF s (UPD_UNIT_1_ACTSLOT u)) % 2
        ∧ getF t (UPD_UNIT_0_ACTVER u) = getF s (UPD_UNIT_1_OTHVER u) % 2 ^ (UPD_UNIT_0_ACTVER u).w
        ∧ getF t (UPD_UNIT_1_OTHVER u) = actVer s u % 2 ^ (UPD_UNIT_1_OTHVER u).w
        ∧ pendOf t u = none
        ∧ onF t (UPD_UNIT_1_PEND u) = false
        ∧ onF t (UPD_UNIT_1_CONF u) = a.fall
        ∧ Rest [.flds, .live, .pendL, .nfree, .out, .qops, .ifiles, .onceCycle, .waiting, .mem, .chk, .caches, .ceHold, .degCnt, .degraded, .triads, .resv, .mer, .rhl, .chart, .bkb, .can, .brg, .lod, .anl, .binn, .pulses, .pulseOvf, .xings, .quiet, .links, .linkAt, .linkLost, .prl, .pwr, .upd] s t) ∧
  (∀ (u : Nat) (a : PendAct) (s : State), s.upd.pend = [(u, some a)] → 8 ≤ u → u < 16 → s.anl.length = 8 → a.mode = 0 → a.due = false → a.wp ≤ nowNs s → (getF s MER_STAT_STATE = 1 ∨ getF s MER_STAT_STATE = 2) → 
    Completes (.waypointReached) s fun t =>
      t.upd.pend = [(u, some { a with due := true, at' := freeCnt s })]
        ∧ (anlCh t (u - 8)).hold = true
        ∧ getF t (UPD_UNIT_1_ACTSLOT u) = getF s (UPD_UNIT_1_ACTSLOT u)
        ∧ Rest [.flds, .live, .pendL, .nfree, .out, .qops, .ifiles, .onceCycle, .waiting, .mem, .chk, .caches, .ceHold, .degCnt, .degraded, .triads, .resv, .mer, .rhl, .chart, .bkb, .can, .brg, .lod, .anl, .binn, .pulses, .pulseOvf, .xings, .quiet, .links, .linkAt, .linkLost, .prl, .pwr, .upd] s t) ∧
  (∀ (u : Nat) (a : PendAct) (s : State), s.upd.pend = [(u, some a)] → u < 25 → a.mode = 0 → a.due = false → a.wp ≤ nowNs s → getF s MER_STAT_STATE ≠ 1 → getF s MER_STAT_STATE ≠ 2 → 
    Completes (.waypointReached) s fun t =>
      pendOf t u = none
        ∧ getF t (UPD_UNIT_1_LASTERR u) = 18
        ∧ onF t UPD_EVT_DEFER = true
        ∧ getF t (UPD_UNIT_1_ACTSLOT u) = getF s (UPD_UNIT_1_ACTSLOT u)
        ∧ Rest [.flds, .live, .pendL, .nfree, .out, .qops, .ifiles, .onceCycle, .waiting, .mem, .chk, .caches, .ceHold, .degCnt, .degraded, .triads, .resv, .mer, .rhl, .chart, .bkb, .can, .brg, .lod, .anl, .binn, .pulses, .pulseOvf, .xings, .quiet, .links, .linkAt, .linkLost, .prl, .pwr, .upd] s t) ∧
  (∀ (n : Fin 4) (s : State), pendOf s (1 + n) = none → 
    Completes (.handoverRequest n) s fun t =>
      Frame [] [] s t) ∧
  (∀ (n : Fin 4) (a : PendAct) (p : List Byte) (s : State), pendOf s (1 + n) = some a → a.mode = 1 → a.asked = false → pkAt s (1 + n) (1 - actSlot s (1 + n)) = some p → digestOk p = true → 
    Completes (.handoverRequest n) s fun t =>
      onF t (UPD_HO_1_HOREQ n) = true
        ∧ onF t UPD_EVT_HOREQ = true
        ∧ pendOf t (1 + n) = some { a with asked := true }
        ∧ Rest [.flds, .nfree, .ifiles, .waiting, .mem, .chk, .caches, .ceHold, .degCnt, .degraded, .lod, .anl, .binn, .pulses, .pulseOvf, .xings, .quiet, .linkAt, .upd] s t) ∧
  (∀ (n : Fin 4) (a : PendAct) (s : State), pendOf s (1 + n) = some a → a.mode = 1 → a.asked = false → pkAt s (1 + n) (1 - actSlot s (1 + n)) = none → 
    Completes (.handoverRequest n) s fun t =>
      pendOf t (1 + n) = none
        ∧ getF t (UPD_UNIT_1_LASTERR (1 + n)) = 8
        ∧ onF t (UPD_HO_1_HOREQ n) = false
        ∧ Rest [.flds, .nfree, .ifiles, .waiting, .mem, .chk, .caches, .ceHold, .degCnt, .degraded, .lod, .anl, .binn, .pulses, .pulseOvf, .xings, .quiet, .linkAt, .upd] s t) ∧
  (∀ (n : Fin 4) (s : State), 
    Completes (.handoverReady (.triad n) n) s fun t =>
      onF t (UPD_HO_1_READY n) = true
        ∧ Frame [UPD_HO_1_READY n] [] s t) ∧
  (∀ (n : Fin 4) (s : State), 
    Completes (.handoverReady .debugger n) s fun t =>
      Frame lostCounters [.waiting] s t) ∧
  (∀ (n : Fin 4) (s : State), pendOf s (1 + n) = none → 
    Completes (.vitalImageSwitch n) s fun t =>
      Frame [] [] s t) ∧
  (∀ (n : Fin 4) (a : PendAct) (s : State), pendOf s (1 + n) = some a → a.due = true → a.mode = 1 → (tState s n = tsOFF ∨ tState s n = tsHALTED) → 
    Completes (.vitalImageSwitch n) s fun t =>
      getF t (UPD_UNIT_1_ACTSLOT (1 + n)) = (1 - getF s (UPD_UNIT_1_ACTSLOT (1 + n))) % 2
        ∧ getF t (UPD_UNIT_0_ACTVER (1 + n)) = getF s (UPD_UNIT_1_OTHVER (1 + n)) % 2 ^ (UPD_UNIT_0_ACTVER (1 + n)).w
        ∧ getF t (UPD_UNIT_1_OTHVER (1 + n)) = actVer s (1 + n) % 2 ^ (UPD_UNIT_1_OTHVER (1 + n)).w
        ∧ pendOf t (1 + n) = none
        ∧ onF t (UPD_UNIT_1_PEND (1 + n)) = false
        ∧ (s.triads.length = 4 → (triad t n).image = true)
        ∧ Rest [.flds, .live, .pendL, .nfree, .out, .qops, .ifiles, .onceCycle, .waiting, .mem, .chk, .caches, .ceHold, .degCnt, .degraded, .triads, .resv, .mer, .rhl, .chart, .bkb, .can, .brg, .lod, .anl, .binn, .pulses, .pulseOvf, .xings, .quiet, .links, .linkAt, .linkLost, .prl, .pwr, .upd] s t) ∧
  (∀ (n : Fin 4) (a : PendAct) (s : State), pendOf s (1 + n) = some a → switchCome a s = true → (tState s n = tsTMR ∨ tState s n = tsDUPLEX) → onF s (UPD_HO_1_READY n) = true → a.captured = false → 
    Completes (.vitalImageSwitch n) s fun t =>
      pendOf t (1 + n) = some { a with captured := true }
        ∧ Frame [] [.upd] s t) ∧
  (∀ (n : Fin 4) (a : PendAct) (k : Nat) (s : State), pendOf s (1 + n) = some a → switchCome a s = true → (tState s n = tsTMR ∨ tState s n = tsDUPLEX) → onF s (UPD_HO_1_READY n) = true → a.captured = true → firstEvent (triad s n).events = some (k, .boundary) → (triad s n).vreq = [] → s.triads.length = 4 → 
    Completes (.vitalImageSwitch n) s fun t =>
      getF t (UPD_UNIT_1_ACTSLOT (1 + n)) = (1 - getF s (UPD_UNIT_1_ACTSLOT (1 + n))) % 2
        ∧ getF t (UPD_UNIT_0_ACTVER (1 + n)) = getF s (UPD_UNIT_1_OTHVER (1 + n)) % 2 ^ (UPD_UNIT_0_ACTVER (1 + n)).w
        ∧ getF t (UPD_UNIT_1_OTHVER (1 + n)) = actVer s (1 + n) % 2 ^ (UPD_UNIT_1_OTHVER (1 + n)).w
        ∧ pendOf t (1 + n) = none
        ∧ onF t (UPD_UNIT_1_PEND (1 + n)) = false
        ∧ (triad t n).events = [] ∧ (triad t n).image = true
        ∧ onF t (UPD_HO_1_HOREQ n) = false
        ∧ Rest [.flds, .live, .pendL, .nfree, .out, .qops, .ifiles, .onceCycle, .waiting, .mem, .chk, .caches, .ceHold, .degCnt, .degraded, .triads, .resv, .mer, .rhl, .chart, .bkb, .can, .brg, .lod, .anl, .binn, .pulses, .pulseOvf, .xings, .quiet, .links, .linkAt, .linkLost, .prl, .pwr, .upd] s t) ∧
  (∀ (n : Fin 4) (a : PendAct) (s : State), pendOf s (1 + n) = some a → switchCome a s = true → (tState s n = tsTMR ∨ tState s n = tsDUPLEX) → onF s (UPD_HO_1_READY n) = false → 
    Completes (.vitalImageSwitch n) s fun t =>
      pendOf t (1 + n) = none
        ∧ getF t (UPD_UNIT_1_LASTERR (1 + n)) = upHOFAIL % 256
        ∧ onF t UPD_EVT_FAIL = true
        ∧ getF t (UPD_UNIT_1_ACTSLOT (1 + n)) = getF s (UPD_UNIT_1_ACTSLOT (1 + n))
        ∧ Rest [.flds, .live, .pendL, .nfree, .out, .qops, .ifiles, .onceCycle, .waiting, .mem, .chk, .caches, .ceHold, .degCnt, .degraded, .triads, .resv, .mer, .rhl, .chart, .bkb, .can, .brg, .lod, .anl, .binn, .pulses, .pulseOvf, .xings, .quiet, .links, .linkAt, .linkLost, .prl, .pwr, .upd] s t) ∧
  (∀ (n : Fin 8) (b : Bool) (s : State), pendOf s (8 + n) = none → 
    Completes (.firmwareSwitchHold n b) s fun t =>
      Frame [] [] s t) ∧
  (∀ (n : Fin 8) (a : PendAct) (s : State), pendOf s (8 + n) = some a → a.due = true → 
    Completes (.firmwareSwitchHold n false) s fun t =>
      (t.anl = modAt s.anl n fun c : AnlCh => regulate { c with hold := true, hdSpan := 0, opSpan := 0 })
        ∧ Rest [.flds, .live, .pendL, .nfree, .out, .qops, .ifiles, .onceCycle, .waiting, .mem, .chk, .caches, .ceHold, .degCnt, .degraded, .triads, .resv, .mer, .rhl, .chart, .bkb, .can, .brg, .lod, .anl, .binn, .pulses, .pulseOvf, .xings, .quiet, .links, .linkAt, .linkLost, .prl, .pwr, .upd] s t) ∧
  (∀ (n : Fin 8) (a : PendAct) (s : State), pendOf s (8 + n) = some a → a.due = true → 
    Completes (.firmwareSwitchHold n true) s fun t =>
      getF t (UPD_UNIT_1_ACTSLOT (8 + n)) = (1 - getF s (UPD_UNIT_1_ACTSLOT (8 + n))) % 2
        ∧ getF t (UPD_UNIT_0_ACTVER (8 + n)) = getF s (UPD_UNIT_1_OTHVER (8 + n)) % 2 ^ (UPD_UNIT_0_ACTVER (8 + n)).w
        ∧ getF t (UPD_UNIT_1_OTHVER (8 + n)) = actVer s (8 + n) % 2 ^ (UPD_UNIT_1_OTHVER (8 + n)).w
        ∧ pendOf t (8 + n) = none
        ∧ onF t (UPD_UNIT_1_PEND (8 + n)) = false
        ∧ (anlCh t n).hold = false
        ∧ getF t (ANL_CHFW_FWVER n) = getF s (UPD_UNIT_1_OTHVER (8 + n)) % 2 ^ (ANL_CHFW_FWVER n).w
        ∧ Rest [.flds, .live, .pendL, .nfree, .out, .qops, .ifiles, .onceCycle, .waiting, .mem, .chk, .caches, .ceHold, .degCnt, .degraded, .triads, .resv, .mer, .rhl, .chart, .bkb, .can, .brg, .lod, .anl, .binn, .pulses, .pulseOvf, .xings, .quiet, .links, .linkAt, .linkLost, .prl, .pwr, .upd] s t) ∧
  (∀ (n : Fin 8) (a : PendAct) (s : State), pendOf s (8 + n) = some a → a.due = true → a.at' + 50000000 ≤ freeCnt s → 
    Completes (.afwSwitchFail n) s fun t =>
      getF t (UPD_UNIT_1_OTHSTATE (8 + n)) = 3
        ∧ getF t (UPD_UNIT_1_LASTERR (8 + n)) = 20
        ∧ pendOf t (8 + n) = none
        ∧ onF t UPD_EVT_FAIL = true
        ∧ (anlCh t n).hold = false
        ∧ Rest [.flds, .ifiles, .waiting, .anl, .binn, .xings, .quiet, .linkAt, .upd] s t) ∧
  (∀ (n : Fin 8) (a : PendAct) (s : State), pendOf s (8 + n) = some a → (a.due = false ∨ freeCnt s < a.at' + 50000000) → 
    Completes (.afwSwitchFail n) s fun t =>
      Frame [] [] s t) ∧
  (∀ (n : Fin 8) (s : State), pendOf s (8 + n) = none → 
    Completes (.afwSwitchFail n) s fun t =>
      Frame [] [] s t) ∧
  (∀ (r : Req) (b : BitVec 40) (s : State), s.upd.mapsUsed = false → 
    Completes (.mapareaWrite r b) s fun t =>
      getF t UPD_MAPAREA_BASE = b.toNat
        ∧ Frame [UPD_MAPAREA_BASE] [] s t) ∧
  (∀ (r : Req) (b : BitVec 40) (s : State), s.upd.mapsUsed = true → 
    Completes (.mapareaWrite r b) s fun t =>
      getF t (UPD_MAPAREA_BASE) = getF s (UPD_MAPAREA_BASE)
        ∧ Frame lostCounters [.waiting] s t) ∧
  (∀ (s : State), s.upd.bgAt + 86400000000000 ≤ freeCnt s → 
    Completes (.backgroundCheck) s fun t =>
      getF t UPD_STAT_BGPASSES = (getF s UPD_STAT_BGPASSES + 1) % 2 ^ UPD_STAT_BGPASSES.w
        ∧ t.upd.bgAt = freeCnt s
        ∧ Rest [.flds, .nfree, .ifiles, .waiting, .mem, .chk, .caches, .ceHold, .degCnt, .degraded, .triads, .pulses, .pulseOvf, .xings, .quiet, .upd] s t) ∧
  (∀ (s : State), freeCnt s < s.upd.bgAt + 86400000000000 → 
    Completes (.backgroundCheck) s fun t =>
      Frame [] [] s t) ∧
  (∀ (s : State), s.upd.want = true → 
    Completes (.pilotEntry) s fun t =>
      onF t UPD_STAT_PILOT = true
        ∧ getF t SYS_BOOT_STAGE = 8
        ∧ t.upd.want = false
        ∧ onF t FIO_CTRL_EN = false
        ∧ onF t ANL_CTRL_EN = false
        ∧ (∀ c ∈ t.mem, c.1 < 0x1079000000 ∨ 0x1080000000 ≤ c.1)
        ∧ Rest [.flds, .live, .pendL, .out, .ifiles, .waiting, .mem, .chk, .caches, .fio, .anl, .binn, .xings, .quiet, .upd] s t) ∧
  (∀ (s : State), s.upd.want = false → 
    Completes (.pilotEntry) s fun t =>
      Frame [] [] s t) ∧
  (∀ (p : List Byte) (c : Bool) (s : State), onF s UPD_STAT_PILOT = true → p.length ≤ 0x10000000 + 224 → ((stagePackage (fun _ : Nat => true) c p.length p s).status = stOK) → ((arm (stagePackage (fun _ : Nat => true) c p.length p s).unit false 2 0 (stagePackage (fun _ : Nat => true) c p.length p s).st).2 = stOK) → 
    Completes (.tftpStage p c) s fun t =>
      t.upd.disp = some (chars 0x4F 0x4B 0x20 0x20)
        ∧ (pendOf t (stagePackage (fun _ : Nat => true) c p.length p s).unit = some { fall := false, mode := 2, wp := 0, cyc := getF (stagePackage (fun _ : Nat => true) c p.length p s).st MER_CYCPOS_CYCLES })
        ∧ t.out = s.out
        ∧ (t.mem = (stagePackage (fun _ : Nat => true) c p.length p s).st.mem)
        ∧ Rest [.flds, .nfree, .out, .ifiles, .waiting, .mem, .chk, .caches, .ceHold, .degCnt, .degraded, .triads, .resv, .rhl, .lod, .pulses, .pulseOvf, .xings, .quiet, .upd] s t) ∧
  (∀ (p : List Byte) (c : Bool) (s : State), onF s UPD_STAT_PILOT = true → unitOf (p.take 128) = none → 
    Completes (.tftpStage p c) s fun t =>
      t.upd.disp = some (errText upBADHDR)
        ∧ t.out = .sent .maintenance 69 (tftpError upBADHDR) :: s.out
        ∧ t.mem = s.mem
        ∧ Frame msiFields [.out, .waiting, .upd, .xings, .quiet] s t) ∧
  (∀ (p : List Byte) (c : Bool) (s : State), onF s UPD_STAT_PILOT = false → 
    Completes (.tftpStage p c) s fun t =>
      Frame [] [] s t) ∧
  (∀ (u : Fin 25) (s : State), onF s UPD_STAT_PILOT = true → armRefused s u true 2 0 = none → 
    Completes (.tftpFallback u) s fun t =>
      t.upd.disp = some (chars 0x4F 0x4B 0x20 0x20)
        ∧ pendOf t u = some { fall := true, mode := 2, wp := 0, cyc := getF s MER_CYCPOS_CYCLES }
        ∧ t.out = s.out
        ∧ Rest [.flds, .nfree, .out, .ifiles, .waiting, .mem, .chk, .caches, .ceHold, .degCnt, .degraded, .triads, .resv, .rhl, .lod, .pulses, .pulseOvf, .xings, .quiet, .upd] s t) ∧
  (∀ (u : Fin 25) (s : State), onF s UPD_STAT_PILOT = false → 
    Completes (.tftpFallback u) s fun t =>
      Frame [] [] s t) ∧
  (∀ (s : State), onF s UPD_STAT_PILOT = true → s.pwr.seq = 0 → 
    Completes (.tftpReset) s fun t =>
      onF t UPD_STAT_PILOT = false
        ∧ getF t SYS_BOOT_STAGE = 1
        ∧ t.qops = [] ∧ t.ifiles = []
        ∧ Rest [.flds, .live, .pendL, .nfree, .out, .qops, .ifiles, .onceCycle, .waiting, .mem, .chk, .caches, .ceHold, .degCnt, .degraded, .triads, .resv, .poolNext, .mer, .rhl, .chart, .bkb, .can, .brg, .fio, .anl, .binn, .pulses, .pulseOvf, .xings, .quiet, .links, .linkAt, .linkLost, .prl, .logb, .pwr, .upd] s t) ∧
  (∀ (s : State), (onF s UPD_STAT_PILOT = false ∨ s.pwr.seq ≠ 0) → 
    Completes (.tftpReset) s fun t =>
      Frame [] [] s t) ∧
  (∀ (s : State), onF s UPD_STAT_PILOT = true → 
    Completes (.tftpStatus) s fun t =>
      t.out = .sent .maintenance 69 ((List.range 25).flatMap (statusRecord s)) :: s.out
        ∧ Frame [] [.out] s t) ∧
  (∀ (s : State), onF s UPD_STAT_PILOT = false → 
    Completes (.tftpStatus) s fun t =>
      Frame [] [] s t) ∧
  (∀ (s : State), s.pwr.seq = 0 → 
    Completes (.modreset .depot false) s fun t =>
      getF t SYS_PWRSTAT_RSTCAUSE = 3
        ∧ getF t SYS_BOOT_STAGE = 1
        ∧ t.upd.want = false
        ∧ t.qops = []
        ∧ Rest [.flds, .live, .pendL, .nfree, .out, .qops, .ifiles, .onceCycle, .waiting, .mem, .chk, .caches, .ceHold, .degCnt, .degraded, .triads, .resv, .poolNext, .mer, .rhl, .chart, .bkb, .can, .brg, .fio, .anl, .binn, .pulses, .pulseOvf, .xings, .quiet, .links, .linkAt, .linkLost, .prl, .logb, .pwr, .upd] s t) ∧
  (∀ (s : State), s.pwr.seq = 0 → 
    Completes (.modreset .depot true) s fun t =>
      getF t SYS_PWRSTAT_RSTCAUSE = 3
        ∧ getF t SYS_BOOT_STAGE = 1
        ∧ t.upd.want = true
        ∧ Rest [.flds, .live, .pendL, .nfree, .out, .qops, .ifiles, .onceCycle, .waiting, .mem, .chk, .caches, .ceHold, .degCnt, .degraded, .triads, .resv, .poolNext, .mer, .rhl, .chart, .bkb, .can, .brg, .fio, .anl, .binn, .pulses, .pulseOvf, .xings, .quiet, .links, .linkAt, .linkLost, .prl, .logb, .pwr, .upd] s t) ∧
  (∀ (c : Cert) (p : Bool) (s : State), c ≠ .depot → 
    Completes (.modreset c p) s fun t =>
      t.out = .denied .debugger .access :: s.out
        ∧ Frame msiFields [.out, .waiting, .xings, .quiet] s t)

/-- An unlisted offset reads 0 and ignores writes. Within a register block, at an offset that no register map lists (and that is no tag area and no alias page), a naturally aligned 32-bit or 64-bit read answers 0 and such a write changes nothing, but that a stopped island starts its clock; neither raises a fault. Any other size and any misaligned access, there as at a listed offset, answers an access fault of the access type (status ACCESS to an engine) and changes nothing. -/
def Obligations.UnlistedOffsets : Prop :=
  (∀ (r : Req) (a size : Nat) (s : State), Unlisted s a → islandAnswers s (blkIsland (blkOf a)) = true → (size = 4 ∨ size = 8) → a % size = 0 → 
    Completes (.rcRead r a size) s fun t =>
      t.out = .value r 0 :: s.out
        ∧ Frame [SYS_ISL_STOPPED (blkIsland (blkOf a))] [.out, .quiet] s t) ∧
  (∀ (r : Req) (a size : Nat) (val : Word) (s : State), Unlisted s a → islandAnswers s (blkIsland (blkOf a)) = true → (size = 4 ∨ size = 8) → a % size = 0 → 
    Completes (.registerWrite r a size val) s fun t =>
      Frame [SYS_ISL_STOPPED (blkIsland (blkOf a))] [.quiet] s t) ∧
  (∀ (r : Req) (a size : Nat) (s : State), 0x2000000000 ≤ a → a < 0x2010000000 → (¬((size = 4 ∨ size = 8) ∧ a % size = 0)) → 
    Completes (.rcRead r a size) s fun t =>
      t.out = .denied r (refusal r .load) :: s.out
        ∧ Frame [] [.out] s t) ∧
  (∀ (r : Req) (a size : Nat) (val : Word) (s : State), 0x2000000000 ≤ a → a < 0x2010000000 → (¬((size = 4 ∨ size = 8) ∧ a % size = 0)) → 
    Completes (.registerWrite r a size val) s fun t =>
      t.out = .denied r (refusal r .store) :: s.out
        ∧ Frame [] [.out] s t)

/-- An interrupt to a missing file is discarded and reported. INTERRUPT_WRITE to a file that does not exist, and an engine's message to a hart, level and guest without a file, make nothing pending and raise one MINOR report at the place of the sender. There is no file for a hart from 4 to 15, no supervisor or guest file of harts 0 to 3, and no guest file 0. -/
def Obligations.MissingInterruptFiles : Prop :=
  (∀ (r : Req) (a : Nat) (val : Word) (s : State), fileOf a = none → RoomFor s (senderLoc r).isl → 
    Completes (.interruptWrite r a val) s fun t =>
      t.waiting = s.waiting ++ [((senderLoc r).isl, { cls := MINOR, loc := senderLoc r, req := reqCode r })]
        ∧ Frame [] [.waiting] s t) ∧
  (∀ (r : Req) (a : Nat) (val : Word) (s : State), fileOf a = none → 
    Completes (.interruptWrite r a val) s fun t =>
      Frame msiFields [.waiting, .xings, .quiet] s t) ∧
  (∀ (l : Loc) (e h v g : Nat) (s : State), e ≠ 0 → filePage h v g = none → RoomFor s l.isl →
    (sendMsi l e h v g s).waiting = s.waiting ++ [(l.isl, { cls := MINOR, loc := l })] ∧ Frame [] [.waiting] s (sendMsi l e h v g s)) ∧
  (∀ h v g : Nat, filePage h v g = none ↔ ¬((v = 0 ∧ (h ≤ 3 ∨ 16 ≤ h ∧ h ≤ 31)) ∨ (v = 1 ∧ 16 ≤ h ∧ h ≤ 31) ∨ (v = 2 ∧ 16 ≤ h ∧ h ≤ 31 ∧ 1 ≤ g ∧ g ≤ 7))) ∧
  (∀ h g o : Nat, o < 0x1000 → g < 8 → (4 ≤ h → h < 16 → fileOf (0x2080000000 + h * 0x1000 + o) = none) ∧
    (h < 4 → fileOf (0x2081000000 + h * 0x1000 + o) = none ∧ fileOf (0x2082000000 + h * 0x8000 + g * 0x1000 + o) = none) ∧
    (h < 32 → fileOf (0x2082000000 + h * 0x8000 + o) = none))

/-- Trigger 255 records every MAJOR report from reset on. At reset trigger 255 is a FAULT trigger with MINCLS MAJOR, MASK 0 and one item of kind FAULT, every other trigger is OFF, and triggers fire. While trigger 255 is as it was at reset and triggers fire, a report of class MAJOR or higher that the collector takes makes trigger 255 due, with the location of the report as its first word. A module reset returns every trigger definition to its value at reset. -/
def Obligations.FactoryTrigger : Prop :=
  (getF State.reset (LOG_TCTL_KIND 255) = 1 ∧ getF State.reset (LOG_TCTL_MINCLS 255) = MAJOR ∧ getF State.reset (LOG_TMASK_MASK 255) = 0 ∧ itemsOf State.reset 255 = [4] ∧ triggersFire State.reset = true) ∧
  (∀ g : Fin 255, kindOf State.reset g = 0 ∧ itemsOf State.reset g = []) ∧
  (∀ (m : BitVec 16) (i : Fin 16) (r : Report) (s : State), s.waiting = [(i.val, r)] → m.getLsbD i = true → (∀ y ∈ s.xings, y.num ≠ 32) → Runs s i → 2 ≤ r.cls → triggersFire s = true → kindOf s 255 = 1 → getF s (LOG_TCTL_MINCLS 255) = MAJOR → getF s (LOG_TMASK_MASK 255) = 0 → 
    Completes (.faultReportTake m false false) s fun t =>
      (∃ f ∈ t.logb.due, f.trig = 255 ∧ f.ef0 = floc r)) ∧
  (∀ (r : Req) (g : Fin 256) (i : Fin 32) (s : State), isTriadOrMach r = true → s.pwr.seq = 0 → 
    Completes (.moduleReset r 0xA5C3) s fun t =>
      getF t (LOG_TCTL_KIND g) = getF State.reset (LOG_TCTL_KIND g)
        ∧ getF t (LOG_TCTL_MINCLS g) = getF State.reset (LOG_TCTL_MINCLS g)
        ∧ getF t (LOG_TCTL_PARAM g) = getF State.reset (LOG_TCTL_PARAM g)
        ∧ getF t (LOG_TMATCH_MATCH g) = getF State.reset (LOG_TMATCH_MATCH g)
        ∧ getF t (LOG_TMASK_MASK g) = getF State.reset (LOG_TMASK_MASK g)
        ∧ getF t (LOG_TITEM_IKIND g i) = getF State.reset (LOG_TITEM_IKIND g i)
        ∧ getF t (LOG_TITEM_ADDR g i) = getF State.reset (LOG_TITEM_ADDR g i)
        ∧ getF t (LOG_TITEM_MLEN g i) = getF State.reset (LOG_TITEM_MLEN g i))

/-- The state at reset is canonical. At reset no command waits, nothing has left the module, every keyed list is in its canonical form with four triads, six CAN channels and eight analog channels, and each register field shows, and has in force, the reset value its register map gives (a field whose map gives none has the model's value: notes/assumptions/4.md). -/
def Obligations.ResetMeetsInvariant : Prop :=
  (State.reset.Canon ∧ State.reset.pending = [] ∧ State.reset.out = [] ∧ ∀ f : Fld, getF State.reset f = f.rst ∧ liveF State.reset f = f.rst)

/-- Every command completes, and every step keeps the canonical form. From every state every command, with any operands, answers a next state and leaves the queue as it was: the module never stops on one. For every state and every command at the front of its queue, or an empty queue: where the step answers a next state, that state is canonical if the state before was, its queue is what was behind the command, nothing that left the module is taken back, and no free value is used twice. -/
def Obligations.StepKeepsInvariant : Prop :=
  (∀ (c : Instr) (s : State), Completes c s fun t => t.pending = s.pending ∧ (∃ l, l ++ s.out = t.out)) ∧
  (∀ s t : State, step s = .next t → (s.Canon → t.Canon) ∧ t.pending = s.pending.tail ∧ (∃ l, l ++ s.out = t.out) ∧ s.nfree ≤ t.nfree)
end

