-- ==== Sys2Proof/Laws/Exec.lean ====
section
/-! SUPPORT. Which meaning each command has: one equation per command. -/

namespace Sys2Proof.Machine

@[simp] theorem exec_registerWrite (req : Req) (addr : Nat) (size : Nat) (val : Word) (s : State) : exec (.registerWrite req addr size val) s = execRegisterWrite req addr size val s := rfl
@[simp] theorem exec_rcRead (req : Req) (addr : Nat) (size : Nat) (s : State) : exec (.rcRead req addr size) s = execRcRead req addr size s := rfl
@[simp] theorem exec_rwlBoundary (blk : Fin 16) (chan : Option Nat) (s : State) : exec (.rwlBoundary blk chan) s = execRwlBoundary blk chan s := rfl
@[simp] theorem exec_aliasWrite (req : Req) (addr : Nat) (size : Nat) (val : Word) (s : State) : exec (.aliasWrite req addr size val) s = execAliasWrite req addr size val s := rfl
@[simp] theorem exec_doorbell (req : Req) (q : QRef) (size : Nat) (val : Word) (s : State) : exec (.doorbell req q size val) s = execDoorbell req q size val s := rfl
@[simp] theorem exec_entryTake (q : QRef) (s : State) : exec (.entryTake q) s = execEntryTake q s := rfl
@[simp] theorem exec_descriptorWriteback (q : QRef) (s : State) : exec (.descriptorWriteback q) s = execDescriptorWriteback q s := rfl
@[simp] theorem exec_queueEnable (req : Req) (q : QRef) (s : State) : exec (.queueEnable req q) s = execQueueEnable req q s := rfl
@[simp] theorem exec_queueDrain (req : Req) (q : QRef) (s : State) : exec (.queueDrain req q) s = execQueueDrain req q s := rfl
@[simp] theorem exec_drainComplete (q : QRef) (s : State) : exec (.drainComplete q) s = execDrainComplete q s := rfl
@[simp] theorem exec_queueBump (req : Req) (q : QRef) (s : State) : exec (.queueBump req q) s = execQueueBump req q s := rfl
@[simp] theorem exec_interruptWrite (req : Req) (addr : Nat) (val : Word) (s : State) : exec (.interruptWrite req addr val) s = execInterruptWrite req addr val s := rfl
@[simp] theorem exec_tagWrite (req : Req) (addr : Nat) (size : Nat) (val : Word) (s : State) : exec (.tagWrite req addr size val) s = execTagWrite req addr size val s := rfl
@[simp] theorem exec_memoryRead (req : Req) (kind : AccKind) (addr : Nat) (src : MemSrc) (upset : List (Fin 36 × Byte)) (hard : Bool) (s : State) : exec (.memoryRead req kind addr src upset hard) s = execMemoryRead req kind addr src upset hard s := rfl
@[simp] theorem exec_degradationWindowEnd (nvm : Bool) (s : State) : exec (.degradationWindowEnd nvm) s = execDegradationWindowEnd nvm s := rfl
@[simp] theorem exec_memoryWrite (req : Req) (kind : AccKind) (addr : Nat) (data : List Byte) (src : MemSrc) (s : State) : exec (.memoryWrite req kind addr data src) s = execMemoryWrite req kind addr data src s := rfl
@[simp] theorem exec_scrubStep (nvm : Bool) (upset : List (Fin 36 × Byte)) (hard : Bool) (s : State) : exec (.scrubStep nvm upset hard) s = execScrubStep nvm upset hard s := rfl
@[simp] theorem exec_cacheScrub (src : MemSrc) (addr : Nat) (upset : List (Fin 36 × Byte)) (hard : Bool) (s : State) : exec (.cacheScrub src addr upset hard) s = execCacheScrub src addr upset hard s := rfl
@[simp] theorem exec_injectArm (req : Req) (addr : Nat) (syma : Fin 64) (symb : Fin 64) (ben : Bool) (val : Byte) (s : State) : exec (.injectArm req addr syma symb ben val) s = execInjectArm req addr syma symb ben val s := rfl
@[simp] theorem exec_partitionRestart (req : Req) (p : Fin 64) (s : State) : exec (.partitionRestart req p) s = execPartitionRestart req p s := rfl
@[simp] theorem exec_partitionCoresWrite (req : Req) (p : Fin 64) (cores : BitVec 16) (s : State) : exec (.partitionCoresWrite req p cores) s = execPartitionCoresWrite req p cores s := rfl
@[simp] theorem exec_windowInterrupt (c : Fin 16) (k : Fin 32) (acked : Bool) (s : State) : exec (.windowInterrupt c k acked) s = execWindowInterrupt c k acked s := rfl
@[simp] theorem exec_sextantCompare (t : Fin 4) (a : LaneRec) (b : LaneRec) (c : LaneRec) (retire : Nat) (kind : FenceKind) (other : Option (Fin 3)) (checker : Option (Fin 4)) (s : State) : exec (.sextantCompare t a b c retire kind other checker) s = execSextantCompare t a b c retire kind other checker s := rfl
@[simp] theorem exec_votedResponse (t : Fin 4) (data : Word) (wr : Bool) (s : State) : exec (.votedResponse t data wr) s = execVotedResponse t data wr s := rfl
@[simp] theorem exec_inputCapture (t : Fin 4) (ev : TrEvent) (retire : Nat) (s : State) : exec (.inputCapture t ev retire) s = execInputCapture t ev retire s := rfl
@[simp] theorem exec_taggedEventEffect (t : Fin 4) (trap : Option (Word × Bool)) (regs : List (Nat × Word)) (s : State) : exec (.taggedEventEffect t trap regs) s = execTaggedEventEffect t trap regs s := rfl
@[simp] theorem exec_wfiWake (t : Fin 4) (next : Word) (mach : Bool) (regs : List (Nat × Word)) (s : State) : exec (.wfiWake t next mach regs) s = execWfiWake t next mach regs s := rfl
@[simp] theorem exec_signatureBoundary (t : Fin 4) (a : List Word) (b : List Word) (c : List Word) (lines : List L1Line) (checker : Option (Fin 4)) (s : State) : exec (.signatureBoundary t a b c lines checker) s = execSignatureBoundary t a b c lines checker s := rfl
@[simp] theorem exec_vrgnWrite (req : Req) (k : Fin 16) (val : Word) (s : State) : exec (.vrgnWrite req k val) s = execVrgnWrite req k val s := rfl
@[simp] theorem exec_triadStart (req : Req) (t : Fin 4) (s : State) : exec (.triadStart req t) s = execTriadStart req t s := rfl
@[simp] theorem exec_startSelftestDone (t : Fin 4) (fails : BitVec 3) (inj : Option (Fin 10 × Fin 4)) (spareFails : List (Fin 14)) (checker : Option (Fin 10 × Fin 4)) (retire : Nat) (s : State) : exec (.startSelftestDone t fails inj spareFails checker retire) s = execStartSelftestDone t fails inj spareFails checker retire s := rfl
@[simp] theorem exec_shalt (req : Req) (t : Fin 4) (s : State) : exec (.shalt req t) s = execShalt req t s := rfl
@[simp] theorem exec_logicSelftestDone (t : Fin 4) (pass : Bool) (s : State) : exec (.logicSelftestDone t pass) s = execLogicSelftestDone t pass s := rfl
@[simp] theorem exec_rejoinBoundary (t : Fin 4) (regs : List Word) (s : State) : exec (.rejoinBoundary t regs) s = execRejoinBoundary t regs s := rfl
@[simp] theorem exec_rejoinCheck (t : Fin 4) (upset : List (Fin 3 × Fin 92 × Word)) (checker : Option (Fin 4)) (s : State) : exec (.rejoinCheck t upset checker) s = execRejoinCheck t upset checker s := rfl
@[simp] theorem exec_substitutionSwitch (t : Fin 4) (s : State) : exec (.substitutionSwitch t) s = execSubstitutionSwitch t s := rfl
@[simp] theorem exec_poolSelftest (pass : Bool) (s : State) : exec (.poolSelftest pass) s = execPoolSelftest pass s := rfl
@[simp] theorem exec_xtestGo (req : Req) (core : Fin 16) (s : State) : exec (.xtestGo req core) s = execXtestGo req core s := rfl
@[simp] theorem exec_xtestDone (pass : Bool) (s : State) : exec (.xtestDone pass) s = execXtestDone pass s := rfl
@[simp] theorem exec_injectionSequence (t : Fin 4) (flagged : List (Fin 4)) (wrongRelease : Option (Fin 5)) (checker : Option (Fin 5 × Fin 4)) (retire : Nat) (s : State) : exec (.injectionSequence t flagged wrongRelease checker retire) s = execInjectionSequence t flagged wrongRelease checker retire s := rfl
@[simp] theorem exec_debugSessionOpen (t : Fin 4) (cert : Cert) (anchor : List Byte) (regs : List (Nat × Word)) (s : State) : exec (.debugSessionOpen t cert anchor regs) s = execDebugSessionOpen t cert anchor regs s := rfl
@[simp] theorem exec_debugRequest (t : Fin 4) (op : DbgOp) (s : State) : exec (.debugRequest t op) s = execDebugRequest t op s := rfl
@[simp] theorem exec_depotHalt (t : Fin 4) (stop : Stop) (s : State) : exec (.depotHalt t stop) s = execDepotHalt t stop s := rfl
@[simp] theorem exec_depotSessionEnd (t : Fin 4) (s : State) : exec (.depotSessionEnd t) s = execDepotSessionEnd t s := rfl
@[simp] theorem exec_maintainerRequest (t : Fin 4) (op : DbgOp) (retire : Nat) (s : State) : exec (.maintainerRequest t op retire) s = execMaintainerRequest t op retire s := rfl
@[simp] theorem exec_sourceQualified (src : Fin 4) (offset : Int) (s : State) : exec (.sourceQualified src offset) s = execSourceQualified src offset s := rfl
@[simp] theorem exec_sourceDisqualified (src : Fin 4) (s : State) : exec (.sourceDisqualified src) s = execSourceDisqualified src s := rfl
@[simp] theorem exec_drLimitExpiry (s : State) : exec .drLimitExpiry s = execDrLimitExpiry s := rfl
@[simp] theorem exec_slewDone (s : State) : exec .slewDone s = execSlewDone s := rfl
@[simp] theorem exec_merStepWrite (req : Req) (val : Word) (s : State) : exec (.merStepWrite req val) s = execMerStepWrite req val s := rfl
@[simp] theorem exec_now0Read (req : Req) (s : State) : exec (.now0Read req) s = execNow0Read req s := rfl
@[simp] theorem exec_cycleStart (s : State) : exec .cycleStart s = execCycleStart s := rfl
@[simp] theorem exec_cyclePointFire (k : Fin 16) (s : State) : exec (.cyclePointFire k) s = execCyclePointFire k s := rfl
@[simp] theorem exec_alarmFire (k : Fin 8) (s : State) : exec (.alarmFire k) s = execAlarmFire k s := rfl
@[simp] theorem exec_alarmArm (req : Req) (k : Fin 8) (val : Word) (s : State) : exec (.alarmArm req k val) s = execAlarmArm req k val s := rfl
@[simp] theorem exec_starFrameReceive (port : Fin 18) (sof : Nat) (frame : List Byte) (s : State) : exec (.starFrameReceive port sof frame) s = execStarFrameReceive port sof frame s := rfl
@[simp] theorem exec_guardianCut (port : Fin 18) (win : Bool) (s : State) : exec (.guardianCut port win) s = execGuardianCut port win s := rfl
@[simp] theorem exec_portEnable (req : Req) (n : Fin 18) (s : State) : exec (.portEnable req n) s = execPortEnable req n s := rfl
@[simp] theorem exec_portDisable (req : Req) (n : Fin 18) (inFlight : Option Nat) (s : State) : exec (.portDisable req n inFlight) s = execPortDisable req n inFlight s := rfl
@[simp] theorem exec_portForce (req : Req) (n : Fin 18) (s : State) : exec (.portForce req n) s = execPortForce req n s := rfl
@[simp] theorem exec_portRelease (req : Req) (n : Fin 18) (s : State) : exec (.portRelease req n) s = execPortRelease req n s := rfl
@[simp] theorem exec_containCountdown (n : Fin 18) (s : State) : exec (.containCountdown n) s = execContainCountdown n s := rfl
@[simp] theorem exec_ownNodeReceive (chan : Bool) (sof : Nat) (frame : List Byte) (s : State) : exec (.ownNodeReceive chan sof frame) s = execOwnNodeReceive chan sof frame s := rfl
@[simp] theorem exec_statsUpdate (e : Nat) (s : State) : exec (.statsUpdate e) s = execStatsUpdate e s := rfl
@[simp] theorem exec_packStart (e : Nat) (s : State) : exec (.packStart e) s = execPackStart e s := rfl
@[simp] theorem exec_ownNodeTransmit (e : Nat) (s : State) : exec (.ownNodeTransmit e) s = execOwnNodeTransmit e s := rfl
@[simp] theorem exec_slottx (s : State) : exec .slottx s = execSlottx s := rfl
@[simp] theorem exec_rhlRxbuf (s : State) : exec .rhlRxbuf s = execRhlRxbuf s := rfl
@[simp] theorem exec_syncpt (s : State) : exec .syncpt s = execSyncpt s := rfl
@[simp] theorem exec_schloadGo (req : Req) (src : BitVec 40) (buf : Bool) (s : State) : exec (.schloadGo req src buf) s = execSchloadGo req src buf s := rfl
@[simp] theorem exec_scheduleLoadDone (s : State) : exec .scheduleLoadDone s = execScheduleLoadDone s := rfl
@[simp] theorem exec_schswArm (req : Req) (cyc : BitVec 32) (s : State) : exec (.schswArm req cyc) s = execSchswArm req cyc s := rfl
@[simp] theorem exec_scheduleSwitch (s : State) : exec .scheduleSwitch s = execScheduleSwitch s := rfl
@[simp] theorem exec_rhlEnable (req : Req) (s : State) : exec (.rhlEnable req) s = execRhlEnable req s := rfl
@[simp] theorem exec_rhlDisable (req : Req) (inFlight : List (Fin 18 × Nat)) (s : State) : exec (.rhlDisable req inFlight) s = execRhlDisable req inFlight s := rfl
@[simp] theorem exec_listenTimeout (s : State) : exec .listenTimeout s = execListenTimeout s := rfl
@[simp] theorem exec_coldstartAccept (sof : Nat) (cands : List (Fin 18 × List Byte)) (s : State) : exec (.coldstartAccept sof cands) s = execColdstartAccept sof cands s := rfl
@[simp] theorem exec_collisionWindowClose (s : State) : exec .collisionWindowClose s = execCollisionWindowClose s := rfl
@[simp] theorem exec_coldstartBadFcs (s : State) : exec .coldstartBadFcs s = execColdstartBadFcs s := rfl
@[simp] theorem exec_integrate (port : Fin 18) (sof : Nat) (frame : List Byte) (s : State) : exec (.integrate port sof frame) s = execIntegrate port sof frame s := rfl
@[simp] theorem exec_integrationTimeout (s : State) : exec .integrationTimeout s = execIntegrationTimeout s := rfl
@[simp] theorem exec_partnerAbsentLt (s : State) : exec .partnerAbsentLt s = execPartnerAbsentLt s := rfl
@[simp] theorem exec_unpackFrame (s : State) : exec .unpackFrame s = execUnpackFrame s := rfl
@[simp] theorem exec_pub (q : Fin 128) (s : State) : exec (.pub q) s = execPub q s := rfl
@[simp] theorem exec_pubsub (q : Fin 128) (s : State) : exec (.pubsub q) s = execPubsub q s := rfl
@[simp] theorem exec_publim (q : Fin 128) (s : State) : exec (.publim q) s = execPublim q s := rfl
@[simp] theorem exec_inval (q : Fin 128) (s : State) : exec (.inval q) s = execInval q s := rfl
@[simp] theorem exec_cfg (q : Fin 128) (s : State) : exec (.cfg q) s = execCfg q s := rfl
@[simp] theorem exec_force (q : Fin 128) (s : State) : exec (.force q) s = execForce q s := rfl
@[simp] theorem exec_unforce (q : Fin 128) (s : State) : exec (.unforce q) s = execUnforce q s := rfl
@[simp] theorem exec_mapset (q : Fin 128) (s : State) : exec (.mapset q) s = execMapset q s := rfl
@[simp] theorem exec_mapTakeEffect (s : State) : exec .mapTakeEffect s = execMapTakeEffect s := rfl
@[simp] theorem exec_pubbulk (q : Fin 128) (s : State) : exec (.pubbulk q) s = execPubbulk q s := rfl
@[simp] theorem exec_snap (q : Fin 128) (s : State) : exec (.snap q) s = execSnap q s := rfl
@[simp] theorem exec_sweepPass (late : Bool) (s : State) : exec (.sweepPass late) s = execSweepPass late s := rfl
@[simp] theorem exec_bkbFrameReceive (port : Fin 4) (sof : Nat) (frame : List Byte) (s : State) : exec (.bkbFrameReceive port sof frame) s = execBkbFrameReceive port sof frame s := rfl
@[simp] theorem exec_gateEntryReached (port : Fin 4) (k : Fin 128) (s : State) : exec (.gateEntryReached port k) s = execGateEntryReached port k s := rfl
@[simp] theorem exec_supervisionSend (s : State) : exec .supervisionSend s = execSupervisionSend s := rfl
@[simp] theorem exec_nodeForget (mac : BitVec 48) (s : State) : exec (.nodeForget mac) s = execNodeForget mac s := rfl
@[simp] theorem exec_ringopenDetect (s : State) : exec .ringopenDetect s = execRingopenDetect s := rfl
@[simp] theorem exec_fdbAgeOut (vid : BitVec 12) (mac : BitVec 48) (s : State) : exec (.fdbAgeOut vid mac) s = execFdbAgeOut vid mac s := rfl
@[simp] theorem exec_gptpSyncSend (port : Fin 4) (s : State) : exec (.gptpSyncSend port) s = execGptpSyncSend port s := rfl
@[simp] theorem exec_gptpSyncReceive (port : Fin 4) (offset : Int) (rate : Int) (capable : Bool) (s : State) : exec (.gptpSyncReceive port offset rate capable) s = execGptpSyncReceive port offset rate capable s := rfl
@[simp] theorem exec_syncReceiptTimeout (s : State) : exec .syncReceiptTimeout s = execSyncReceiptTimeout s := rfl
@[simp] theorem exec_txFlowSend (f : Fin 256) (s : State) : exec (.txFlowSend f) s = execTxFlowSend f s := rfl
@[simp] theorem exec_flowContextEnable (req : Req) (f : Fin 256) (s : State) : exec (.flowContextEnable req f) s = execFlowContextEnable req f s := rfl
@[simp] theorem exec_flowContextBump (req : Req) (f : Fin 256) (s : State) : exec (.flowContextBump req f) s = execFlowContextBump req f s := rfl
@[simp] theorem exec_tunencWrap (s : State) : exec .tunencWrap s = execTunencWrap s := rfl
@[simp] theorem exec_bkbTxfrm (s : State) : exec .bkbTxfrm s = execBkbTxfrm s := rfl
@[simp] theorem exec_bkbRxbuf (s : State) : exec .bkbRxbuf s = execBkbRxbuf s := rfl
@[simp] theorem exec_bkbLinkChange (port : Fin 4) (up : Bool) (s : State) : exec (.bkbLinkChange port up) s = execBkbLinkChange port up s := rfl
@[simp] theorem exec_canEnable (req : Req) (n : Fin 6) (s : State) : exec (.canEnable req n) s = execCanEnable req n s := rfl
@[simp] theorem exec_canBusIntegrated (n : Fin 6) (s : State) : exec (.canBusIntegrated n) s = execCanBusIntegrated n s := rfl
@[simp] theorem exec_canTxfrm (n : Fin 6) (s : State) : exec (.canTxfrm n) s = execCanTxfrm n s := rfl
@[simp] theorem exec_arbitrationStart (n : Fin 6) (sof : Nat) (s : State) : exec (.arbitrationStart n sof) s = execArbitrationStart n sof s := rfl
@[simp] theorem exec_attemptEnd (n : Fin 6) (how : AttemptEnd) (tec : Fin 512) (rcv : Fin 256) (s : State) : exec (.attemptEnd n how tec rcv) s = execAttemptEnd n how tec rcv s := rfl
@[simp] theorem exec_canCancel (n : Fin 6) (s : State) : exec (.canCancel n) s = execCanCancel n s := rfl
@[simp] theorem exec_canFrameReceive (n : Fin 6) (sof : Nat) (medium : Fin 4) (record : List Byte) (data : List Byte) (lec : Fin 7) (tec : Fin 512) (rcv : Fin 256) (s : State) : exec (.canFrameReceive n sof medium record data lec tec rcv) s = execCanFrameReceive n sof medium record data lec tec rcv s := rfl
@[simp] theorem exec_hpPop (req : Req) (n : Fin 6) (s : State) : exec (.hpPop req n) s = execHpPop req n s := rfl
@[simp] theorem exec_canRxbuf (n : Fin 6) (s : State) : exec (.canRxbuf n) s = execCanRxbuf n s := rfl
@[simp] theorem exec_busOff (n : Fin 6) (s : State) : exec (.busOff n) s = execBusOff n s := rfl
@[simp] theorem exec_canRecover (req : Req) (n : Fin 6) (s : State) : exec (.canRecover req n) s = execCanRecover req n s := rfl
@[simp] theorem exec_recoverDone (n : Fin 6) (s : State) : exec (.recoverDone n) s = execRecoverDone n s := rfl
@[simp] theorem exec_dominantTimeout (n : Fin 6) (s : State) : exec (.dominantTimeout n) s = execDominantTimeout n s := rfl
@[simp] theorem exec_canDisable (req : Req) (n : Fin 6) (s : State) : exec (.canDisable req n) s = execCanDisable req n s := rfl
@[simp] theorem exec_outboundAccess (req : Req) (kind : AccKind) (addr : BitVec 40) (size : Nat) (data : List Byte) (s : State) : exec (.outboundAccess req kind addr size data) s = execOutboundAccess req kind addr size data s := rfl
@[simp] theorem exec_completionReceived (tag : Option (Fin 32)) (ok : Bool) (data : List Byte) (s : State) : exec (.completionReceived tag ok data) s = execCompletionReceived tag ok data s := rfl
@[simp] theorem exec_completionTimeout (s : State) : exec .completionTimeout s = execCompletionTimeout s := rfl
@[simp] theorem exec_prefetchExpiry (k : Fin 4) (s : State) : exec (.prefetchExpiry k) s = execPrefetchExpiry k s := rfl
@[simp] theorem exec_errorMessage (rid : BitVec 16) (fatal : Bool) (s : State) : exec (.errorMessage rid fatal) s = execErrorMessage rid fatal s := rfl
@[simp] theorem exec_errorFetchDone (reads : List (Option (BitVec 32))) (s : State) : exec (.errorFetchDone reads) s = execErrorFetchDone reads s := rfl
@[simp] theorem exec_elpop (req : Req) (s : State) : exec (.elpop req) s = execElpop req s := rfl
@[simp] theorem exec_inboundRequest (config : Bool) (addr : Word) (wr : Bool) (len : Nat) (data : List Byte) (s : State) : exec (.inboundRequest config addr wr len data) s = execInboundRequest config addr wr len data s := rfl
@[simp] theorem exec_msiReceive (intx : Option (Fin 4)) (data : BitVec 32) (s : State) : exec (.msiReceive intx data) s = execMsiReceive intx data s := rfl
@[simp] theorem exec_msigen (req : Req) (vec : Fin 32) (s : State) : exec (.msigen req vec) s = execMsigen req vec s := rfl
@[simp] theorem exec_cfgreqGo (req : Req) (val : Word) (s : State) : exec (.cfgreqGo req val) s = execCfgreqGo req val s := rfl
@[simp] theorem exec_cfgreqDone (result : Fin 8) (data : BitVec 32) (s : State) : exec (.cfgreqDone result data) s = execCfgreqDone result data s := rfl
@[simp] theorem exec_copyout (s : State) : exec .copyout s = execCopyout s := rfl
@[simp] theorem exec_copyin (s : State) : exec .copyin s = execCopyin s := rfl
@[simp] theorem exec_bridgeLinkDown (disable : Bool) (unsent : Nat) (s : State) : exec (.bridgeLinkDown disable unsent) s = execBridgeLinkDown disable unsent s := rfl
@[simp] theorem exec_perstRelease (s : State) : exec .perstRelease s = execPerstRelease s := rfl
@[simp] theorem exec_fioScan (mid : BitVec 128) (volts : List (Nat × Int)) (s : State) : exec (.fioScan mid volts) s = execFioScan mid volts s := rfl
@[simp] theorem exec_fieldPublish (s : State) : exec .fieldPublish s = execFieldPublish s := rfl
@[simp] theorem exec_wettingPulse (n : Fin 48) (s : State) : exec (.wettingPulse n) s = execWettingPulse n s := rfl
@[simp] theorem exec_docmdWrite (req : Req) (cmd : BitVec 24) (s : State) : exec (.docmdWrite req cmd) s = execDocmdWrite req cmd s := rfl
@[simp] theorem exec_outputReadback (c : Fin 128) (u : BitVec 16) (amps : BitVec 16) (tj : Int) (um : BitVec 16) (s : State) : exec (.outputReadback c u amps tj um) s = execOutputReadback c u amps tj um s := rfl
@[simp] theorem exec_overload (c : Fin 128) (ms : Nat) (s : State) : exec (.overload c ms) s = execOverload c ms s := rfl
@[simp] theorem exec_openwire (c : Fin 128) (s : State) : exec (.openwire c) s = execOpenwire c s := rfl
@[simp] theorem exec_extdrive (c : Fin 128) (s : State) : exec (.extdrive c) s = execExtdrive c s := rfl
@[simp] theorem exec_chstatClrf (req : Req) (c : Fin 128) (s : State) : exec (.chstatClrf req c) s = execChstatClrf req c s := rfl
@[simp] theorem exec_tpfault (n : Fin 16) (s : State) : exec (.tpfault n) s = execTpfault n s := rfl
@[simp] theorem exec_discfault (p : Fin 8) (s : State) : exec (.discfault p) s = execDiscfault p s := rfl
@[simp] theorem exec_speedEdge (n : Fin 4) (stamp : Nat) (s : State) : exec (.speedEdge n stamp) s = execSpeedEdge n stamp s := rfl
@[simp] theorem exec_zeroSpeedTimeout (n : Fin 4) (ms : Nat) (s : State) : exec (.zeroSpeedTimeout n ms) s = execZeroSpeedTimeout n ms s := rfl
@[simp] theorem exec_supplyMeasure (g : Fin 3) (u : BitVec 16) (s : State) : exec (.supplyMeasure g u) s = execSupplyMeasure g u s := rfl
@[simp] theorem exec_soownWrite (req : Req) (own : BitVec 24) (s : State) : exec (.soownWrite req own) s = execSoownWrite req own s := rfl
@[simp] theorem exec_dosafeWrite (req : Req) (val : BitVec 24) (s : State) : exec (.dosafeWrite req val) s = execDosafeWrite req val s := rfl
@[simp] theorem exec_forcedOff (t : Fin 4) (s : State) : exec (.forcedOff t) s = execForcedOff t s := rfl
@[simp] theorem exec_watchdogStart (req : Req) (s : State) : exec (.watchdogStart req) s = execWatchdogStart req s := rfl
@[simp] theorem exec_watchdogKick (req : Req) (key : BitVec 16) (s : State) : exec (.watchdogKick req key) s = execWatchdogKick req key s := rfl
@[simp] theorem exec_watchdogExpiry (link : Bool) (s : State) : exec (.watchdogExpiry link) s = execWatchdogExpiry link s := rfl
@[simp] theorem exec_watchdogClear (req : Req) (s : State) : exec (.watchdogClear req) s = execWatchdogClear req s := rfl
@[simp] theorem exec_fioEnableWrite (req : Req) (en : Bool) (s : State) : exec (.fioEnableWrite req en) s = execFioEnableWrite req en s := rfl
@[simp] theorem exec_lodestoneCycle (samples : List FbSample) (edges : List (Fin 4 × Fin 50000)) (s : State) : exec (.lodestoneCycle samples edges) s = execLodestoneCycle samples edges s := rfl
@[simp] theorem exec_testFrame (limited : BitVec 8) (s : State) : exec (.testFrame limited) s = execTestFrame limited s := rfl
@[simp] theorem exec_discExpiry (slot : Fin 8) (s : State) : exec (.discExpiry slot) s = execDiscExpiry slot s := rfl
@[simp] theorem exec_vigilExpiry (slot : Fin 8) (s : State) : exec (.vigilExpiry slot) s = execVigilExpiry slot s := rfl
@[simp] theorem exec_tstuckExpiry (slot : Fin 8) (s : State) : exec (.tstuckExpiry slot) s = execTstuckExpiry slot s := rfl
@[simp] theorem exec_edmCheckFail (n : Fin 8) (s : State) : exec (.edmCheckFail n) s = execEdmCheckFail n s := rfl
@[simp] theorem exec_spdfault (slot : Fin 8) (s : State) : exec (.spdfault slot) s = execSpdfault slot s := rfl
@[simp] theorem exec_outputWatch (n : Fin 8) (s : State) : exec (.outputWatch n) s = execOutputWatch n s := rfl
@[simp] theorem exec_lodSupplyLost (s : State) : exec .lodSupplyLost s = execLodSupplyLost s := rfl
@[simp] theorem exec_lodLinkSilence (s : State) : exec .lodLinkSilence s = execLodLinkSilence s := rfl
@[simp] theorem exec_unlock0 (req : Req) (code : Word) (s : State) : exec (.unlock0 req code) s = execUnlock0 req code s := rfl
@[simp] theorem exec_unlock1 (req : Req) (code : Word) (s : State) : exec (.unlock1 req code) s = execUnlock1 req code s := rfl
@[simp] theorem exec_trip (req : Req) (val : Word) (s : State) : exec (.trip req val) s = execTrip req val s := rfl
@[simp] theorem exec_commitReq (req : Req) (s : State) : exec (.commitReq req) s = execCommitReq req s := rfl
@[simp] theorem exec_commitCheckDone (s : State) : exec .commitCheckDone s = execCommitCheckDone s := rfl
@[simp] theorem exec_commitNow (req : Req) (s : State) : exec (.commitNow req) s = execCommitNow req s := rfl
@[simp] theorem exec_commitCancel (req : Req) (s : State) : exec (.commitCancel req) s = execCommitCancel req s := rfl
@[simp] theorem exec_commitStrobe (s : State) : exec .commitStrobe s = execCommitStrobe s := rfl
@[simp] theorem exec_tableEcho (s : State) : exec .tableEcho s = execTableEcho s := rfl
@[simp] theorem exec_tableCrcCheck (s : State) : exec .tableCrcCheck s = execTableCrcCheck s := rfl
@[simp] theorem exec_internalFault (osc : Bool) (mac : Fin 3) (s : State) : exec (.internalFault osc mac) s = execInternalFault osc mac s := rfl
@[simp] theorem exec_setpointFrame (n : Fin 8) (valid : Bool) (s : State) : exec (.setpointFrame n valid) s = execSetpointFrame n valid s := rfl
@[simp] theorem exec_anlStatusFrame (n : Fin 8) (s : State) : exec (.anlStatusFrame n) s = execAnlStatusFrame n s := rfl
@[simp] theorem exec_analogReadback (n : Fin 8) (carry : BitVec 16) (draw : BitVec 16) (dpri : Int) (drb : Int) (vterm : BitVec 12) (vcomp : BitVec 12) (tj : Int) (refs : Bool) (s : State) : exec (.analogReadback n carry draw dpri drb vterm vcomp tj refs) s = execAnalogReadback n carry draw dpri drb vterm vcomp tj refs s := rfl
@[simp] theorem exec_headroom (n : Fin 8) (s : State) : exec (.headroom n) s = execHeadroom n s := rfl
@[simp] theorem exec_openLoop (n : Fin 8) (s : State) : exec (.openLoop n) s = execOpenLoop n s := rfl
@[simp] theorem exec_fallbackEnter (n : Fin 8) (s : State) : exec (.fallbackEnter n) s = execFallbackEnter n s := rfl
@[simp] theorem exec_fallbackLeave (n : Fin 8) (s : State) : exec (.fallbackLeave n) s = execFallbackLeave n s := rfl
@[simp] theorem exec_anlLinkSilent (n : Fin 8) (s : State) : exec (.anlLinkSilent n) s = execAnlLinkSilent n s := rfl
@[simp] theorem exec_anlSafeRelease (n : Fin 8) (s : State) : exec (.anlSafeRelease n) s = execAnlSafeRelease n s := rfl
@[simp] theorem exec_anlInterfaceLinkLoss (n : Fin 8) (s : State) : exec (.anlInterfaceLinkLoss n) s = execAnlInterfaceLinkLoss n s := rfl
@[simp] theorem exec_anlClrf (req : Req) (n : Fin 8) (s : State) : exec (.anlClrf req n) s = execAnlClrf req n s := rfl
@[simp] theorem exec_anlEnableWrite (req : Req) (chan : Option (Fin 8)) (en : Bool) (s : State) : exec (.anlEnableWrite req chan en) s = execAnlEnableWrite req chan en s := rfl
@[simp] theorem exec_trimWrite (req : Req) (n : Fin 8) (zero : BitVec 11) (span : BitVec 11) (s : State) : exec (.trimWrite req n zero span) s = execTrimWrite req n zero span s := rfl
@[simp] theorem exec_firmwareSwitchHold (n : Fin 8) (running : Bool) (s : State) : exec (.firmwareSwitchHold n running) s = execFirmwareSwitchHold n running s := rfl
@[simp] theorem exec_binnacleTrimOpen (s : State) : exec .binnacleTrimOpen s = execBinnacleTrimOpen s := rfl
@[simp] theorem exec_binnacleButton (adj : Bool) (ev : BtnEv) (s : State) : exec (.binnacleButton adj ev) s = execBinnacleButton adj ev s := rfl
@[simp] theorem exec_binnacleTrimAbort (s : State) : exec .binnacleTrimAbort s = execBinnacleTrimAbort s := rfl
@[simp] theorem exec_infoPageTimeout (s : State) : exec .infoPageTimeout s = execInfoPageTimeout s := rfl
@[simp] theorem exec_islandStop (isl : Fin 16) (s : State) : exec (.islandStop isl) s = execIslandStop isl s := rfl
@[simp] theorem exec_wakeRequest (isl : Fin 16) (s : State) : exec (.wakeRequest isl) s = execWakeRequest isl s := rfl
@[simp] theorem exec_pulseOffer (isl : Fin 16) (counter : Fin 64) (s : State) : exec (.pulseOffer isl counter) s = execPulseOffer isl counter s := rfl
@[simp] theorem exec_handshakeTimeout (xing : Fin 33) (isl : Fin 16) (s : State) : exec (.handshakeTimeout xing isl) s = execHandshakeTimeout xing isl s := rfl
@[simp] theorem exec_linkFrameReceive (link : DieLink) (inward : Bool) (seq : Fin 16) (crcOk : Bool) (s : State) : exec (.linkFrameReceive link inward seq crcOk) s = execLinkFrameReceive link inward seq crcOk s := rfl
@[simp] theorem exec_islandQuiesce (req : Req) (isl : Fin 16) (on : Bool) (s : State) : exec (.islandQuiesce req isl on) s = execIslandQuiesce req isl on s := rfl
@[simp] theorem exec_islandDrained (isl : Fin 16) (s : State) : exec (.islandDrained isl) s = execIslandDrained isl s := rfl
@[simp] theorem exec_islandReset (req : Req) (isl : Fin 16) (ended : Bool) (inFlight : List (Fin 18 × Nat)) (s : State) : exec (.islandReset req isl ended inFlight) s = execIslandReset req isl ended inFlight s := rfl
@[simp] theorem exec_faultReportTake (ready : BitVec 16) (headBad : Bool) (configBad : Bool) (s : State) : exec (.faultReportTake ready headBad configBad) s = execFaultReportTake ready headBad configBad s := rfl
@[simp] theorem exec_efpop (req : Req) (headBad : Bool) (s : State) : exec (.efpop req headBad) s = execEfpop req headBad s := rfl
@[simp] theorem exec_firqArm (req : Req) (second : Bool) (s : State) : exec (.firqArm req second) s = execFirqArm req second s := rfl
@[simp] theorem exec_msafeWrite (req : Req) (key : BitVec 16) (s : State) : exec (.msafeWrite req key) s = execMsafeWrite req key s := rfl
@[simp] theorem exec_supervisorCheck (pass : Bool) (s : State) : exec (.supervisorCheck pass) s = execSupervisorCheck pass s := rfl
@[simp] theorem exec_logicSupplyOut (s : State) : exec .logicSupplyOut s = execLogicSupplyOut s := rfl
@[simp] theorem exec_heartbeatSend (s : State) : exec .heartbeatSend s = execHeartbeatSend s := rfl
@[simp] theorem exec_heartbeatReceive (link : Fin 2) (sof : Nat) (frame : List Byte) (s : State) : exec (.heartbeatReceive link sof frame) s = execHeartbeatReceive link sof frame s := rfl
@[simp] theorem exec_missedCycle (s : State) : exec .missedCycle s = execMissedCycle s := rfl
@[simp] theorem exec_prlEnableWrite (req : Req) (en : Bool) (s : State) : exec (.prlEnableWrite req en) s = execPrlEnableWrite req en s := rfl
@[simp] theorem exec_listenRoleTimeout (s : State) : exec .listenRoleTimeout s = execListenRoleTimeout s := rfl
@[simp] theorem exec_catchupPass (received : Bool) (s : State) : exec (.catchupPass received) s = execCatchupPass received s := rfl
@[simp] theorem exec_mirrorSend (s : State) : exec .mirrorSend s = execMirrorSend s := rfl
@[simp] theorem exec_chartFrameReceive (link : Fin 2) (frame : List Byte) (s : State) : exec (.chartFrameReceive link frame) s = execChartFrameReceive link frame s := rfl
@[simp] theorem exec_blockFrameReceive (link : Fin 2) (frame : List Byte) (s : State) : exec (.blockFrameReceive link frame) s = execBlockFrameReceive link frame s := rfl
@[simp] theorem exec_swap (req : Req) (s : State) : exec (.swap req) s = execSwap req s := rfl
@[simp] theorem exec_swapComplete (s : State) : exec .swapComplete s = execSwapComplete s := rfl
@[simp] theorem exec_logTriggerFire (s : State) : exec .logTriggerFire s = execLogTriggerFire s := rfl
@[simp] theorem exec_swtrig (req : Req) (t : Fin 256) (arg : BitVec 48) (s : State) : exec (.swtrig req t arg) s = execSwtrig req t arg s := rfl
@[simp] theorem exec_triggerDefine (req : Req) (val : Word) (s : State) : exec (.triggerDefine req val) s = execTriggerDefine req val s := rfl
@[simp] theorem exec_logCapture (s : State) : exec .logCapture s = execLogCapture s := rfl
@[simp] theorem exec_logFlush (s : State) : exec .logFlush s = execLogFlush s := rfl
@[simp] theorem exec_logFlushRequest (req : Req) (s : State) : exec (.logFlushRequest req) s = execLogFlushRequest req s := rfl
@[simp] theorem exec_logFlushDone (s : State) : exec .logFlushDone s = execLogFlushDone s := rfl
@[simp] theorem exec_logCursorWrite (req : Req) (seq : BitVec 32) (next : Bool) (s : State) : exec (.logCursorWrite req seq next) s = execLogCursorWrite req seq next s := rfl
@[simp] theorem exec_logInfo (cert : Cert) (s : State) : exec (.logInfo cert) s = execLogInfo cert s := rfl
@[simp] theorem exec_logRead (cert : Cert) (first : BitVec 32) (count : BitVec 32) (s : State) : exec (.logRead cert first count) s = execLogRead cert first count s := rfl
@[simp] theorem exec_logGrant (cert : Cert) (secs : BitVec 32) (s : State) : exec (.logGrant cert secs) s = execLogGrant cert secs s := rfl
@[simp] theorem exec_grantExpiry (s : State) : exec .grantExpiry s = execGrantExpiry s := rfl
@[simp] theorem exec_logClear (cert : Cert) (digest : BitVec 256) (s : State) : exec (.logClear cert digest) s = execLogClear cert digest s := rfl
@[simp] theorem exec_wakeAccept (second : Bool) (s : State) : exec (.wakeAccept second) s = execWakeAccept second s := rfl
@[simp] theorem exec_powerUp (s : State) : exec .powerUp s = execPowerUp s := rfl
@[simp] theorem exec_powerGood (counterOk : Bool) (s : State) : exec (.powerGood counterOk) s = execPowerGood counterOk s := rfl
@[simp] theorem exec_bootStage (coreFails : BitVec 14) (countersOk : Bool) (s : State) : exec (.bootStage coreFails countersOk) s = execBootStage coreFails countersOk s := rfl
@[simp] theorem exec_svcready (req : Req) (s : State) : exec (.svcready req) s = execSvcready req s := rfl
@[simp] theorem exec_interruptionStart (s : State) : exec .interruptionStart s = execInterruptionStart s := rfl
@[simp] theorem exec_interruptionEnd (s : State) : exec .interruptionEnd s = execInterruptionEnd s := rfl
@[simp] theorem exec_powerFailDeclare (reserve : Bool) (s : State) : exec (.powerFailDeclare reserve) s = execPowerFailDeclare reserve s := rfl
@[simp] theorem exec_powerDownEnd (complete : Bool) (s : State) : exec (.powerDownEnd complete) s = execPowerDownEnd complete s := rfl
@[simp] theorem exec_bankMeasure (mj : BitVec 16) (s : State) : exec (.bankMeasure mj) s = execBankMeasure mj s := rfl
@[simp] theorem exec_offdlyExpiry (s : State) : exec .offdlyExpiry s = execOffdlyExpiry s := rfl
@[simp] theorem exec_pwroff (req : Req) (key : BitVec 16) (s : State) : exec (.pwroff req key) s = execPwroff req key s := rfl
@[simp] theorem exec_moduleReset (req : Req) (key : BitVec 16) (s : State) : exec (.moduleReset req key) s = execModuleReset req key s := rfl
@[simp] theorem exec_stage (q : Fin 5) (countersOk : Bool) (s : State) : exec (.stage q countersOk) s = execStage q countersOk s := rfl
@[simp] theorem exec_activate (q : Fin 5) (s : State) : exec (.activate q) s = execActivate q s := rfl
@[simp] theorem exec_confirm (q : Fin 5) (countersOk : Bool) (s : State) : exec (.confirm q countersOk) s = execConfirm q countersOk s := rfl
@[simp] theorem exec_fallback (q : Fin 5) (s : State) : exec (.fallback q) s = execFallback q s := rfl
@[simp] theorem exec_cancel (q : Fin 5) (s : State) : exec (.cancel q) s = execCancel q s := rfl
@[simp] theorem exec_pilot (q : Fin 5) (s : State) : exec (.pilot q) s = execPilot q s := rfl
@[simp] theorem exec_waypointReached (s : State) : exec .waypointReached s = execWaypointReached s := rfl
@[simp] theorem exec_handoverRequest (t : Fin 4) (s : State) : exec (.handoverRequest t) s = execHandoverRequest t s := rfl
@[simp] theorem exec_handoverReady (req : Req) (t : Fin 4) (s : State) : exec (.handoverReady req t) s = execHandoverReady req t s := rfl
@[simp] theorem exec_vitalImageSwitch (t : Fin 4) (s : State) : exec (.vitalImageSwitch t) s = execVitalImageSwitch t s := rfl
@[simp] theorem exec_afwSwitchFail (n : Fin 8) (s : State) : exec (.afwSwitchFail n) s = execAfwSwitchFail n s := rfl
@[simp] theorem exec_mapareaWrite (req : Req) (base : BitVec 40) (s : State) : exec (.mapareaWrite req base) s = execMapareaWrite req base s := rfl
@[simp] theorem exec_backgroundCheck (s : State) : exec .backgroundCheck s = execBackgroundCheck s := rfl
@[simp] theorem exec_pilotEntry (s : State) : exec .pilotEntry s = execPilotEntry s := rfl
@[simp] theorem exec_tftpStage (package : List Byte) (countersOk : Bool) (s : State) : exec (.tftpStage package countersOk) s = execTftpStage package countersOk s := rfl
@[simp] theorem exec_tftpFallback (u : Fin 25) (s : State) : exec (.tftpFallback u) s = execTftpFallback u s := rfl
@[simp] theorem exec_tftpReset (s : State) : exec .tftpReset s = execTftpReset s := rfl
@[simp] theorem exec_tftpStatus (s : State) : exec .tftpStatus s = execTftpStatus s := rfl
@[simp] theorem exec_modreset (cert : Cert) (pilot : Bool) (s : State) : exec (.modreset cert pilot) s = execModreset cert pilot s := rfl
@[simp] theorem exec_thermalMeasure (tref : BitVec 8) (s : State) : exec (.thermalMeasure tref) s = execThermalMeasure tref s := rfl
@[simp] theorem exec_thermalStateChange (s : State) : exec .thermalStateChange s = execThermalStateChange s := rfl
@[simp] theorem exec_cover (removed : Bool) (s : State) : exec (.cover removed) s = execCover removed s := rfl
@[simp] theorem exec_starPortLinkChange (port : Fin 16) (up : Bool) (inFlight : Option Nat) (s : State) : exec (.starPortLinkChange port up inFlight) s = execStarPortLinkChange port up inFlight s := rfl
@[simp] theorem exec_pairLinkChange (link : Fin 2) (up : Bool) (s : State) : exec (.pairLinkChange link up) s = execPairLinkChange link up s := rfl
@[simp] theorem exec_bridgeLinkUp (speed : Fin 4) (width : Fin 5) (s : State) : exec (.bridgeLinkUp speed width) s = execBridgeLinkUp speed width s := rfl
@[simp] theorem exec_wakeInputOff (second : Bool) (s : State) : exec (.wakeInputOff second) s = execWakeInputOff second s := rfl
@[simp] theorem exec_bestMasterClockDecision (heard : Bool) (port : Fin 4) (prio1 : BitVec 8) (cls : BitVec 8) (acc : BitVec 8) (lvar : BitVec 16) (prio2 : BitVec 8) (ident : Word) (s : State) : exec (.bestMasterClockDecision heard port prio1 cls acc lvar prio2 ident) s = execBestMasterClockDecision heard port prio1 cls acc lvar prio2 ident s := rfl

end Sys2Proof.Machine
end

