-- ==== Sys2Proof/Laws/Keyed.lean ====
section
/-! SUPPORT. The laws of keyed lists: what is read after a write, and the canonical form. -/

namespace Sys2Proof.Machine

variable {α : Type}

theorem kget_kdel_same (z : α) (l : List (Nat × α)) (k : Nat) : kget z (kdel l k) k = z := by
  induction l with
  | nil => rfl
  | cons p r ih =>
    by_cases h : p.1 = k
    · simp [kdel, h] at ih ⊢; exact ih
    · simp [kdel, h, kget] at ih ⊢; exact ih

theorem kget_kdel_other (z : α) (l : List (Nat × α)) {k k' : Nat} (hk : k' ≠ k) : kget z (kdel l k) k' = kget z l k' := by
  induction l with
  | nil => rfl
  | cons p r ih =>
    by_cases h : p.1 = k
    · have h' : ¬ p.1 = k' := fun e => hk (e.symm.trans h)
      have e : kdel (p :: r) k = kdel r k := by simp [kdel, h]
      rw [e, ih, kget, if_neg h']
    · have e : kdel (p :: r) k = p :: kdel r k := by simp [kdel, h]
      rw [e, kget, kget, ih]

theorem kdel_absent (l : List (Nat × α)) (k : Nat) : ∀ p ∈ kdel l k, p.1 ≠ k := by
  intro p hp; simp [kdel] at hp; exact hp.2

theorem kget_absent (z : α) (l : List (Nat × α)) (k : Nat) (h : ∀ p ∈ l, p.1 ≠ k) : kget z l k = z := by
  induction l with
  | nil => rfl
  | cons p r ih =>
    have hp : ¬ p.1 = k := h p (by simp)
    rw [kget, if_neg hp]; exact ih fun q hq => h q (by simp [hq])

variable [DecidableEq α]

theorem kget_kcons_same (z : α) (k : Nat) (x : α) (r : List (Nat × α)) (h : kget z r k = z) : kget z (kcons z k x r) k = x := by
  unfold kcons; split
  · rename_i e; rw [h, e]
  · simp [kget]

theorem kget_kcons_other (z : α) {k k' : Nat} (hk : k' ≠ k) (x : α) (r : List (Nat × α)) : kget z (kcons z k x r) k' = kget z r k' := by
  unfold kcons; split
  · rfl
  · rw [kget, if_neg (Ne.symm hk)]

theorem kget_kins_same (z : α) (l : List (Nat × α)) (k : Nat) (x : α) (h : ∀ p ∈ l, p.1 ≠ k) : kget z (kins z l k x) k = x := by
  induction l with
  | nil => exact kget_kcons_same z k x [] rfl
  | cons p r ih =>
    have hp : ¬ p.1 = k := h p (by simp)
    have hr : ∀ q ∈ r, q.1 ≠ k := fun q hq => h q (by simp [hq])
    unfold kins; split
    · rw [kget, if_neg hp]; exact ih hr
    · exact kget_kcons_same z k x _ (kget_absent z (p :: r) k h)

theorem kget_kins_other (z : α) (l : List (Nat × α)) {k k' : Nat} (hk : k' ≠ k) (x : α) : kget z (kins z l k x) k' = kget z l k' := by
  induction l with
  | nil => exact kget_kcons_other z hk x []
  | cons p r ih =>
    unfold kins; split
    · rw [kget, kget, ih]
    · exact kget_kcons_other z hk x _

/-- Reading a key just written gives the value written. -/
@[simp] theorem kget_kput_same (z : α) (l : List (Nat × α)) (k : Nat) (x : α) : kget z (kput z l k x) k = x :=
  kget_kins_same z _ k x (kdel_absent l k)

/-- A write leaves every other key alone. -/
theorem kget_kput_other (z : α) (l : List (Nat × α)) {k k' : Nat} (hk : k' ≠ k) (x : α) : kget z (kput z l k x) k' = kget z l k' := by
  rw [kput, kget_kins_other z _ hk, kget_kdel_other z l hk]

/-! ### The canonical form -/

/-- Every key of a list is above a bound. -/
def keysAbove (b : Nat) (l : List (Nat × α)) : Prop := ∀ p ∈ l, b < p.1

theorem kwf_cons_iff (z : α) (p : Nat × α) (r : List (Nat × α)) : kwf z (p :: r) = true ↔ p.2 ≠ z ∧ keysAbove p.1 r ∧ kwf z r = true := by
  induction r generalizing p with
  | nil => simp [kwf, keysAbove]
  | cons q t ih =>
    have hq := ih q
    constructor
    · intro h
      simp only [kwf, Bool.and_eq_true, decide_eq_true_eq] at h
      obtain ⟨⟨h1, h2⟩, h3⟩ := h
      refine ⟨h1, ?_, h3⟩
      intro x hx
      rcases List.mem_cons.1 hx with rfl | hx
      · exact h2
      · exact Nat.lt_trans h2 ((hq.1 h3).2.1 x hx)
    · rintro ⟨h1, h2, h3⟩
      simp only [kwf, Bool.and_eq_true, decide_eq_true_eq]
      exact ⟨⟨h1, h2 q (by simp)⟩, h3⟩

theorem kwf_filter (z : α) (f : Nat × α → Bool) (l : List (Nat × α)) (h : kwf z l = true) : kwf z (l.filter f) = true := by
  induction l with
  | nil => rfl
  | cons p r ih =>
    obtain ⟨h1, h2, h3⟩ := (kwf_cons_iff z p r).1 h
    by_cases hp : f p
    · rw [List.filter_cons_of_pos hp]
      exact (kwf_cons_iff z p _).2 ⟨h1, fun q hq => h2 q ((List.mem_filter.1 hq).1), ih h3⟩
    · rw [List.filter_cons_of_neg hp]; exact ih h3

theorem mem_kins {z : α} {l : List (Nat × α)} {k : Nat} {x : α} {q : Nat × α} (h : q ∈ kins z l k x) : q = (k, x) ∨ q ∈ l := by
  induction l with
  | nil => unfold kins kcons at h; split at h <;> simp_all
  | cons p r ih =>
    unfold kins at h; split at h
    · rcases List.mem_cons.1 h with rfl | h
      · simp
      · rcases ih h with h | h <;> simp [h]
    · unfold kcons at h; split at h
      · exact .inr h
      · rcases List.mem_cons.1 h with h | h
        · exact .inl h
        · exact .inr h

theorem kwf_kins (z : α) (l : List (Nat × α)) (k : Nat) (x : α) (hk : ∀ p ∈ l, p.1 ≠ k) (h : kwf z l = true) : kwf z (kins z l k x) = true := by
  induction l with
  | nil => unfold kins kcons; split <;> simp_all [kwf]
  | cons p r ih =>
    obtain ⟨h1, h2, h3⟩ := (kwf_cons_iff z p r).1 h
    have hr : ∀ q ∈ r, q.1 ≠ k := fun q hq => hk q (by simp [hq])
    unfold kins; split
    · rename_i hlt
      refine (kwf_cons_iff z p _).2 ⟨h1, ?_, ih hr h3⟩
      intro q hq
      rcases mem_kins hq with rfl | hq
      · exact hlt
      · exact h2 q hq
    · rename_i hge
      unfold kcons; split
      · exact h
      · rename_i hx
        have hpk : p.1 ≠ k := hk p (by simp)
        have hlt : k < p.1 := by omega
        refine (kwf_cons_iff z (k, x) _).2 ⟨hx, ?_, h⟩
        intro q hq
        rcases List.mem_cons.1 hq with rfl | hq
        · exact hlt
        · exact Nat.lt_trans hlt (h2 q hq)

/-- A write keeps the canonical form. -/
theorem kwf_kput (z : α) (l : List (Nat × α)) (k : Nat) (x : α) (h : kwf z l = true) : kwf z (kput z l k x) = true :=
  kwf_kins z _ k x (kdel_absent l k) (kwf_filter z _ l h)

end Sys2Proof.Machine
end

