-- ==== Sys2Proof/Laws/KeptBase.lean ====
section
/-! SUPPORT. `Kept` composes: the lemmas that the Kept files use for the forms a meaning is written in. -/

namespace Sys2Proof.Machine

theorem Kept.refl (m : Nat) (s : State) : Kept m s s := ⟨rfl, id, ⟨[], rfl⟩, Nat.le_refl _, fun p _ => by cases p <;> rfl⟩

theorem Part.same_trans {a b c : State} {p : Part} (h : p.same a b) (k : p.same b c) : p.same a c := by
  cases p <;> exact Eq.trans k h

theorem Kept.trans {m : Nat} {a b c : State} (h : Kept m a b) (k : Kept m b c) : Kept m a c := by
  refine ⟨k.pending.trans h.pending, fun x => k.canon (h.canon x), ?_, Nat.le_trans h.nfree k.nfree, fun p hp => Part.same_trans (h.parts p hp) (k.parts p hp)⟩
  obtain ⟨l, hl⟩ := h.out; obtain ⟨m, hm⟩ := k.out
  exact ⟨m ++ l, by rw [List.append_assoc, hl, hm]⟩

theorem Covers.of {m f g : Nat} (h : Covers m f) (e : f ||| g = f) : Covers m g := by
  unfold Covers at *
  rw [← h, Nat.or_assoc, e]

theorem Covers.refl (m : Nat) : Covers m m := Nat.or_self m

/-- A part of a set that m takes in lies in m. -/
theorem Covers.bit {m f i : Nat} (h : Covers m f) (e : f.testBit i = true) : m.testBit i = true := by
  rw [← h, Nat.testBit_or, e, Bool.or_true]

/-- The set that leaves nothing out but the parts outside it: what a part not in m means for an update of some of them. -/
theorem Kept.step {m : Nat} {a s t : State} (h : Kept m a s) (hp : t.pending = s.pending) (hc : s.Canon → t.Canon) (ho : ∃ l, l ++ s.out = t.out)
    (hn : s.nfree ≤ t.nfree) (hs : ∀ p : Part, m.testBit p.idx = false → p.same s t) : Kept m a t :=
  h.trans ⟨hp, hc, ho, hn, hs⟩

theorem length_modAt {α : Type} (l : List α) (n : Nat) (f : α → α) : (modAt l n f).length = l.length := by
  induction l generalizing n with
  | nil => rfl
  | cons x r ih => cases n with
    | zero => rfl
    | succ n => exact congrArg (· + 1) (ih n)

theorem kept_upd_pendL {m : Nat} {s0 s : State} {pendL' : List (Nat × Nat)} (hm : Covers m 0x8) (h : Kept m s0 s) : Kept m s0 (State.mk s.pending s.flds s.live pendL' s.nfree s.out s.qops s.ifiles s.tags s.onceCycle s.waiting s.mem s.chk s.caches s.ceHold s.degCnt s.degAt s.degraded s.triads s.resv s.poolNext s.mer s.rhl s.chart s.bkb s.can s.brg s.fio s.lod s.anl s.binn s.pulses s.pulseOvf s.xings s.quiet s.links s.linkAt s.linkLost s.coll s.prl s.logb s.pwr s.upd s.therm) :=
  h.step rfl (fun c => ⟨c.flds, c.live, c.ifiles, c.tags, c.mem, c.chk, c.triads, c.can, c.anl⟩) ⟨[], rfl⟩ (Nat.le_refl _) fun p hp => by
    cases p <;> first | rfl | exact absurd (hm.bit (i := 3) (by decide)) (Bool.eq_false_iff.1 hp)

theorem kept_upd_qops {m : Nat} {s0 s : State} {qops' : List QOp} (hm : Covers m 0x40) (h : Kept m s0 s) : Kept m s0 (State.mk s.pending s.flds s.live s.pendL s.nfree s.out qops' s.ifiles s.tags s.onceCycle s.waiting s.mem s.chk s.caches s.ceHold s.degCnt s.degAt s.degraded s.triads s.resv s.poolNext s.mer s.rhl s.chart s.bkb s.can s.brg s.fio s.lod s.anl s.binn s.pulses s.pulseOvf s.xings s.quiet s.links s.linkAt s.linkLost s.coll s.prl s.logb s.pwr s.upd s.therm) :=
  h.step rfl (fun c => ⟨c.flds, c.live, c.ifiles, c.tags, c.mem, c.chk, c.triads, c.can, c.anl⟩) ⟨[], rfl⟩ (Nat.le_refl _) fun p hp => by
    cases p <;> first | rfl | exact absurd (hm.bit (i := 6) (by decide)) (Bool.eq_false_iff.1 hp)

theorem kept_upd_onceCycle {m : Nat} {s0 s : State} {onceCycle' : List Nat} (hm : Covers m 0x200) (h : Kept m s0 s) : Kept m s0 (State.mk s.pending s.flds s.live s.pendL s.nfree s.out s.qops s.ifiles s.tags onceCycle' s.waiting s.mem s.chk s.caches s.ceHold s.degCnt s.degAt s.degraded s.triads s.resv s.poolNext s.mer s.rhl s.chart s.bkb s.can s.brg s.fio s.lod s.anl s.binn s.pulses s.pulseOvf s.xings s.quiet s.links s.linkAt s.linkLost s.coll s.prl s.logb s.pwr s.upd s.therm) :=
  h.step rfl (fun c => ⟨c.flds, c.live, c.ifiles, c.tags, c.mem, c.chk, c.triads, c.can, c.anl⟩) ⟨[], rfl⟩ (Nat.le_refl _) fun p hp => by
    cases p <;> first | rfl | exact absurd (hm.bit (i := 9) (by decide)) (Bool.eq_false_iff.1 hp)

theorem kept_upd_waiting {m : Nat} {s0 s : State} {waiting' : List (Nat × Report)} (hm : Covers m 0x400) (h : Kept m s0 s) : Kept m s0 (State.mk s.pending s.flds s.live s.pendL s.nfree s.out s.qops s.ifiles s.tags s.onceCycle waiting' s.mem s.chk s.caches s.ceHold s.degCnt s.degAt s.degraded s.triads s.resv s.poolNext s.mer s.rhl s.chart s.bkb s.can s.brg s.fio s.lod s.anl s.binn s.pulses s.pulseOvf s.xings s.quiet s.links s.linkAt s.linkLost s.coll s.prl s.logb s.pwr s.upd s.therm) :=
  h.step rfl (fun c => ⟨c.flds, c.live, c.ifiles, c.tags, c.mem, c.chk, c.triads, c.can, c.anl⟩) ⟨[], rfl⟩ (Nat.le_refl _) fun p hp => by
    cases p <;> first | rfl | exact absurd (hm.bit (i := 10) (by decide)) (Bool.eq_false_iff.1 hp)

theorem kept_upd_caches {m : Nat} {s0 s : State} {caches' : List CLine} (hm : Covers m 0x2000) (h : Kept m s0 s) : Kept m s0 (State.mk s.pending s.flds s.live s.pendL s.nfree s.out s.qops s.ifiles s.tags s.onceCycle s.waiting s.mem s.chk caches' s.ceHold s.degCnt s.degAt s.degraded s.triads s.resv s.poolNext s.mer s.rhl s.chart s.bkb s.can s.brg s.fio s.lod s.anl s.binn s.pulses s.pulseOvf s.xings s.quiet s.links s.linkAt s.linkLost s.coll s.prl s.logb s.pwr s.upd s.therm) :=
  h.step rfl (fun c => ⟨c.flds, c.live, c.ifiles, c.tags, c.mem, c.chk, c.triads, c.can, c.anl⟩) ⟨[], rfl⟩ (Nat.le_refl _) fun p hp => by
    cases p <;> first | rfl | exact absurd (hm.bit (i := 13) (by decide)) (Bool.eq_false_iff.1 hp)

theorem kept_upd_ceHold {m : Nat} {s0 s : State} {ceHold' : List (Nat × Nat)} (hm : Covers m 0x4000) (h : Kept m s0 s) : Kept m s0 (State.mk s.pending s.flds s.live s.pendL s.nfree s.out s.qops s.ifiles s.tags s.onceCycle s.waiting s.mem s.chk s.caches ceHold' s.degCnt s.degAt s.degraded s.triads s.resv s.poolNext s.mer s.rhl s.chart s.bkb s.can s.brg s.fio s.lod s.anl s.binn s.pulses s.pulseOvf s.xings s.quiet s.links s.linkAt s.linkLost s.coll s.prl s.logb s.pwr s.upd s.therm) :=
  h.step rfl (fun c => ⟨c.flds, c.live, c.ifiles, c.tags, c.mem, c.chk, c.triads, c.can, c.anl⟩) ⟨[], rfl⟩ (Nat.le_refl _) fun p hp => by
    cases p <;> first | rfl | exact absurd (hm.bit (i := 14) (by decide)) (Bool.eq_false_iff.1 hp)

theorem kept_upd_degCnt {m : Nat} {s0 s : State} {degCnt' : List (Nat × Nat)} (hm : Covers m 0x8000) (h : Kept m s0 s) : Kept m s0 (State.mk s.pending s.flds s.live s.pendL s.nfree s.out s.qops s.ifiles s.tags s.onceCycle s.waiting s.mem s.chk s.caches s.ceHold degCnt' s.degAt s.degraded s.triads s.resv s.poolNext s.mer s.rhl s.chart s.bkb s.can s.brg s.fio s.lod s.anl s.binn s.pulses s.pulseOvf s.xings s.quiet s.links s.linkAt s.linkLost s.coll s.prl s.logb s.pwr s.upd s.therm) :=
  h.step rfl (fun c => ⟨c.flds, c.live, c.ifiles, c.tags, c.mem, c.chk, c.triads, c.can, c.anl⟩) ⟨[], rfl⟩ (Nat.le_refl _) fun p hp => by
    cases p <;> first | rfl | exact absurd (hm.bit (i := 15) (by decide)) (Bool.eq_false_iff.1 hp)

theorem kept_upd_degAt {m : Nat} {s0 s : State} {degAt' : List (Nat × Nat)} (hm : Covers m 0x10000) (h : Kept m s0 s) : Kept m s0 (State.mk s.pending s.flds s.live s.pendL s.nfree s.out s.qops s.ifiles s.tags s.onceCycle s.waiting s.mem s.chk s.caches s.ceHold s.degCnt degAt' s.degraded s.triads s.resv s.poolNext s.mer s.rhl s.chart s.bkb s.can s.brg s.fio s.lod s.anl s.binn s.pulses s.pulseOvf s.xings s.quiet s.links s.linkAt s.linkLost s.coll s.prl s.logb s.pwr s.upd s.therm) :=
  h.step rfl (fun c => ⟨c.flds, c.live, c.ifiles, c.tags, c.mem, c.chk, c.triads, c.can, c.anl⟩) ⟨[], rfl⟩ (Nat.le_refl _) fun p hp => by
    cases p <;> first | rfl | exact absurd (hm.bit (i := 16) (by decide)) (Bool.eq_false_iff.1 hp)

theorem kept_upd_degraded {m : Nat} {s0 s : State} {degraded' : List Nat} (hm : Covers m 0x20000) (h : Kept m s0 s) : Kept m s0 (State.mk s.pending s.flds s.live s.pendL s.nfree s.out s.qops s.ifiles s.tags s.onceCycle s.waiting s.mem s.chk s.caches s.ceHold s.degCnt s.degAt degraded' s.triads s.resv s.poolNext s.mer s.rhl s.chart s.bkb s.can s.brg s.fio s.lod s.anl s.binn s.pulses s.pulseOvf s.xings s.quiet s.links s.linkAt s.linkLost s.coll s.prl s.logb s.pwr s.upd s.therm) :=
  h.step rfl (fun c => ⟨c.flds, c.live, c.ifiles, c.tags, c.mem, c.chk, c.triads, c.can, c.anl⟩) ⟨[], rfl⟩ (Nat.le_refl _) fun p hp => by
    cases p <;> first | rfl | exact absurd (hm.bit (i := 17) (by decide)) (Bool.eq_false_iff.1 hp)

theorem kept_upd_resv {m : Nat} {s0 s : State} {resv' : List (Nat × Nat)} (hm : Covers m 0x80000) (h : Kept m s0 s) : Kept m s0 (State.mk s.pending s.flds s.live s.pendL s.nfree s.out s.qops s.ifiles s.tags s.onceCycle s.waiting s.mem s.chk s.caches s.ceHold s.degCnt s.degAt s.degraded s.triads resv' s.poolNext s.mer s.rhl s.chart s.bkb s.can s.brg s.fio s.lod s.anl s.binn s.pulses s.pulseOvf s.xings s.quiet s.links s.linkAt s.linkLost s.coll s.prl s.logb s.pwr s.upd s.therm) :=
  h.step rfl (fun c => ⟨c.flds, c.live, c.ifiles, c.tags, c.mem, c.chk, c.triads, c.can, c.anl⟩) ⟨[], rfl⟩ (Nat.le_refl _) fun p hp => by
    cases p <;> first | rfl | exact absurd (hm.bit (i := 19) (by decide)) (Bool.eq_false_iff.1 hp)

theorem kept_upd_poolNext {m : Nat} {s0 s : State} {poolNext' : Nat} (hm : Covers m 0x100000) (h : Kept m s0 s) : Kept m s0 (State.mk s.pending s.flds s.live s.pendL s.nfree s.out s.qops s.ifiles s.tags s.onceCycle s.waiting s.mem s.chk s.caches s.ceHold s.degCnt s.degAt s.degraded s.triads s.resv poolNext' s.mer s.rhl s.chart s.bkb s.can s.brg s.fio s.lod s.anl s.binn s.pulses s.pulseOvf s.xings s.quiet s.links s.linkAt s.linkLost s.coll s.prl s.logb s.pwr s.upd s.therm) :=
  h.step rfl (fun c => ⟨c.flds, c.live, c.ifiles, c.tags, c.mem, c.chk, c.triads, c.can, c.anl⟩) ⟨[], rfl⟩ (Nat.le_refl _) fun p hp => by
    cases p <;> first | rfl | exact absurd (hm.bit (i := 20) (by decide)) (Bool.eq_false_iff.1 hp)

theorem kept_upd_mer {m : Nat} {s0 s : State} {mer' : Mer} (hm : Covers m 0x200000) (h : Kept m s0 s) : Kept m s0 (State.mk s.pending s.flds s.live s.pendL s.nfree s.out s.qops s.ifiles s.tags s.onceCycle s.waiting s.mem s.chk s.caches s.ceHold s.degCnt s.degAt s.degraded s.triads s.resv s.poolNext mer' s.rhl s.chart s.bkb s.can s.brg s.fio s.lod s.anl s.binn s.pulses s.pulseOvf s.xings s.quiet s.links s.linkAt s.linkLost s.coll s.prl s.logb s.pwr s.upd s.therm) :=
  h.step rfl (fun c => ⟨c.flds, c.live, c.ifiles, c.tags, c.mem, c.chk, c.triads, c.can, c.anl⟩) ⟨[], rfl⟩ (Nat.le_refl _) fun p hp => by
    cases p <;> first | rfl | exact absurd (hm.bit (i := 21) (by decide)) (Bool.eq_false_iff.1 hp)

theorem kept_upd_rhl {m : Nat} {s0 s : State} {rhl' : Rhl} (hm : Covers m 0x400000) (h : Kept m s0 s) : Kept m s0 (State.mk s.pending s.flds s.live s.pendL s.nfree s.out s.qops s.ifiles s.tags s.onceCycle s.waiting s.mem s.chk s.caches s.ceHold s.degCnt s.degAt s.degraded s.triads s.resv s.poolNext s.mer rhl' s.chart s.bkb s.can s.brg s.fio s.lod s.anl s.binn s.pulses s.pulseOvf s.xings s.quiet s.links s.linkAt s.linkLost s.coll s.prl s.logb s.pwr s.upd s.therm) :=
  h.step rfl (fun c => ⟨c.flds, c.live, c.ifiles, c.tags, c.mem, c.chk, c.triads, c.can, c.anl⟩) ⟨[], rfl⟩ (Nat.le_refl _) fun p hp => by
    cases p <;> first | rfl | exact absurd (hm.bit (i := 22) (by decide)) (Bool.eq_false_iff.1 hp)

theorem kept_upd_chart {m : Nat} {s0 s : State} {chart' : Chart} (hm : Covers m 0x800000) (h : Kept m s0 s) : Kept m s0 (State.mk s.pending s.flds s.live s.pendL s.nfree s.out s.qops s.ifiles s.tags s.onceCycle s.waiting s.mem s.chk s.caches s.ceHold s.degCnt s.degAt s.degraded s.triads s.resv s.poolNext s.mer s.rhl chart' s.bkb s.can s.brg s.fio s.lod s.anl s.binn s.pulses s.pulseOvf s.xings s.quiet s.links s.linkAt s.linkLost s.coll s.prl s.logb s.pwr s.upd s.therm) :=
  h.step rfl (fun c => ⟨c.flds, c.live, c.ifiles, c.tags, c.mem, c.chk, c.triads, c.can, c.anl⟩) ⟨[], rfl⟩ (Nat.le_refl _) fun p hp => by
    cases p <;> first | rfl | exact absurd (hm.bit (i := 23) (by decide)) (Bool.eq_false_iff.1 hp)

theorem kept_upd_bkb {m : Nat} {s0 s : State} {bkb' : Bkb} (hm : Covers m 0x1000000) (h : Kept m s0 s) : Kept m s0 (State.mk s.pending s.flds s.live s.pendL s.nfree s.out s.qops s.ifiles s.tags s.onceCycle s.waiting s.mem s.chk s.caches s.ceHold s.degCnt s.degAt s.degraded s.triads s.resv s.poolNext s.mer s.rhl s.chart bkb' s.can s.brg s.fio s.lod s.anl s.binn s.pulses s.pulseOvf s.xings s.quiet s.links s.linkAt s.linkLost s.coll s.prl s.logb s.pwr s.upd s.therm) :=
  h.step rfl (fun c => ⟨c.flds, c.live, c.ifiles, c.tags, c.mem, c.chk, c.triads, c.can, c.anl⟩) ⟨[], rfl⟩ (Nat.le_refl _) fun p hp => by
    cases p <;> first | rfl | exact absurd (hm.bit (i := 24) (by decide)) (Bool.eq_false_iff.1 hp)

theorem kept_upd_brg {m : Nat} {s0 s : State} {brg' : Brg} (hm : Covers m 0x4000000) (h : Kept m s0 s) : Kept m s0 (State.mk s.pending s.flds s.live s.pendL s.nfree s.out s.qops s.ifiles s.tags s.onceCycle s.waiting s.mem s.chk s.caches s.ceHold s.degCnt s.degAt s.degraded s.triads s.resv s.poolNext s.mer s.rhl s.chart s.bkb s.can brg' s.fio s.lod s.anl s.binn s.pulses s.pulseOvf s.xings s.quiet s.links s.linkAt s.linkLost s.coll s.prl s.logb s.pwr s.upd s.therm) :=
  h.step rfl (fun c => ⟨c.flds, c.live, c.ifiles, c.tags, c.mem, c.chk, c.triads, c.can, c.anl⟩) ⟨[], rfl⟩ (Nat.le_refl _) fun p hp => by
    cases p <;> first | rfl | exact absurd (hm.bit (i := 26) (by decide)) (Bool.eq_false_iff.1 hp)

theorem kept_upd_fio {m : Nat} {s0 s : State} {fio' : Fio} (hm : Covers m 0x8000000) (h : Kept m s0 s) : Kept m s0 (State.mk s.pending s.flds s.live s.pendL s.nfree s.out s.qops s.ifiles s.tags s.onceCycle s.waiting s.mem s.chk s.caches s.ceHold s.degCnt s.degAt s.degraded s.triads s.resv s.poolNext s.mer s.rhl s.chart s.bkb s.can s.brg fio' s.lod s.anl s.binn s.pulses s.pulseOvf s.xings s.quiet s.links s.linkAt s.linkLost s.coll s.prl s.logb s.pwr s.upd s.therm) :=
  h.step rfl (fun c => ⟨c.flds, c.live, c.ifiles, c.tags, c.mem, c.chk, c.triads, c.can, c.anl⟩) ⟨[], rfl⟩ (Nat.le_refl _) fun p hp => by
    cases p <;> first | rfl | exact absurd (hm.bit (i := 27) (by decide)) (Bool.eq_false_iff.1 hp)

theorem kept_upd_lod {m : Nat} {s0 s : State} {lod' : Lod} (hm : Covers m 0x10000000) (h : Kept m s0 s) : Kept m s0 (State.mk s.pending s.flds s.live s.pendL s.nfree s.out s.qops s.ifiles s.tags s.onceCycle s.waiting s.mem s.chk s.caches s.ceHold s.degCnt s.degAt s.degraded s.triads s.resv s.poolNext s.mer s.rhl s.chart s.bkb s.can s.brg s.fio lod' s.anl s.binn s.pulses s.pulseOvf s.xings s.quiet s.links s.linkAt s.linkLost s.coll s.prl s.logb s.pwr s.upd s.therm) :=
  h.step rfl (fun c => ⟨c.flds, c.live, c.ifiles, c.tags, c.mem, c.chk, c.triads, c.can, c.anl⟩) ⟨[], rfl⟩ (Nat.le_refl _) fun p hp => by
    cases p <;> first | rfl | exact absurd (hm.bit (i := 28) (by decide)) (Bool.eq_false_iff.1 hp)

theorem kept_upd_binn {m : Nat} {s0 s : State} {binn' : Binn} (hm : Covers m 0x40000000) (h : Kept m s0 s) : Kept m s0 (State.mk s.pending s.flds s.live s.pendL s.nfree s.out s.qops s.ifiles s.tags s.onceCycle s.waiting s.mem s.chk s.caches s.ceHold s.degCnt s.degAt s.degraded s.triads s.resv s.poolNext s.mer s.rhl s.chart s.bkb s.can s.brg s.fio s.lod s.anl binn' s.pulses s.pulseOvf s.xings s.quiet s.links s.linkAt s.linkLost s.coll s.prl s.logb s.pwr s.upd s.therm) :=
  h.step rfl (fun c => ⟨c.flds, c.live, c.ifiles, c.tags, c.mem, c.chk, c.triads, c.can, c.anl⟩) ⟨[], rfl⟩ (Nat.le_refl _) fun p hp => by
    cases p <;> first | rfl | exact absurd (hm.bit (i := 30) (by decide)) (Bool.eq_false_iff.1 hp)

theorem kept_upd_pulses {m : Nat} {s0 s : State} {pulses' : List (Nat × Nat)} (hm : Covers m 0x80000000) (h : Kept m s0 s) : Kept m s0 (State.mk s.pending s.flds s.live s.pendL s.nfree s.out s.qops s.ifiles s.tags s.onceCycle s.waiting s.mem s.chk s.caches s.ceHold s.degCnt s.degAt s.degraded s.triads s.resv s.poolNext s.mer s.rhl s.chart s.bkb s.can s.brg s.fio s.lod s.anl s.binn pulses' s.pulseOvf s.xings s.quiet s.links s.linkAt s.linkLost s.coll s.prl s.logb s.pwr s.upd s.therm) :=
  h.step rfl (fun c => ⟨c.flds, c.live, c.ifiles, c.tags, c.mem, c.chk, c.triads, c.can, c.anl⟩) ⟨[], rfl⟩ (Nat.le_refl _) fun p hp => by
    cases p <;> first | rfl | exact absurd (hm.bit (i := 31) (by decide)) (Bool.eq_false_iff.1 hp)

theorem kept_upd_pulseOvf {m : Nat} {s0 s : State} {pulseOvf' : List (Nat × Nat)} (hm : Covers m 0x100000000) (h : Kept m s0 s) : Kept m s0 (State.mk s.pending s.flds s.live s.pendL s.nfree s.out s.qops s.ifiles s.tags s.onceCycle s.waiting s.mem s.chk s.caches s.ceHold s.degCnt s.degAt s.degraded s.triads s.resv s.poolNext s.mer s.rhl s.chart s.bkb s.can s.brg s.fio s.lod s.anl s.binn s.pulses pulseOvf' s.xings s.quiet s.links s.linkAt s.linkLost s.coll s.prl s.logb s.pwr s.upd s.therm) :=
  h.step rfl (fun c => ⟨c.flds, c.live, c.ifiles, c.tags, c.mem, c.chk, c.triads, c.can, c.anl⟩) ⟨[], rfl⟩ (Nat.le_refl _) fun p hp => by
    cases p <;> first | rfl | exact absurd (hm.bit (i := 32) (by decide)) (Bool.eq_false_iff.1 hp)

theorem kept_upd_xings {m : Nat} {s0 s : State} {xings' : List Xing} (hm : Covers m 0x200000000) (h : Kept m s0 s) : Kept m s0 (State.mk s.pending s.flds s.live s.pendL s.nfree s.out s.qops s.ifiles s.tags s.onceCycle s.waiting s.mem s.chk s.caches s.ceHold s.degCnt s.degAt s.degraded s.triads s.resv s.poolNext s.mer s.rhl s.chart s.bkb s.can s.brg s.fio s.lod s.anl s.binn s.pulses s.pulseOvf xings' s.quiet s.links s.linkAt s.linkLost s.coll s.prl s.logb s.pwr s.upd s.therm) :=
  h.step rfl (fun c => ⟨c.flds, c.live, c.ifiles, c.tags, c.mem, c.chk, c.triads, c.can, c.anl⟩) ⟨[], rfl⟩ (Nat.le_refl _) fun p hp => by
    cases p <;> first | rfl | exact absurd (hm.bit (i := 33) (by decide)) (Bool.eq_false_iff.1 hp)

theorem kept_upd_quiet {m : Nat} {s0 s : State} {quiet' : List (Nat × Nat)} (hm : Covers m 0x400000000) (h : Kept m s0 s) : Kept m s0 (State.mk s.pending s.flds s.live s.pendL s.nfree s.out s.qops s.ifiles s.tags s.onceCycle s.waiting s.mem s.chk s.caches s.ceHold s.degCnt s.degAt s.degraded s.triads s.resv s.poolNext s.mer s.rhl s.chart s.bkb s.can s.brg s.fio s.lod s.anl s.binn s.pulses s.pulseOvf s.xings quiet' s.links s.linkAt s.linkLost s.coll s.prl s.logb s.pwr s.upd s.therm) :=
  h.step rfl (fun c => ⟨c.flds, c.live, c.ifiles, c.tags, c.mem, c.chk, c.triads, c.can, c.anl⟩) ⟨[], rfl⟩ (Nat.le_refl _) fun p hp => by
    cases p <;> first | rfl | exact absurd (hm.bit (i := 34) (by decide)) (Bool.eq_false_iff.1 hp)

theorem kept_upd_links {m : Nat} {s0 s : State} {links' : List (Nat × Nat)} (hm : Covers m 0x800000000) (h : Kept m s0 s) : Kept m s0 (State.mk s.pending s.flds s.live s.pendL s.nfree s.out s.qops s.ifiles s.tags s.onceCycle s.waiting s.mem s.chk s.caches s.ceHold s.degCnt s.degAt s.degraded s.triads s.resv s.poolNext s.mer s.rhl s.chart s.bkb s.can s.brg s.fio s.lod s.anl s.binn s.pulses s.pulseOvf s.xings s.quiet links' s.linkAt s.linkLost s.coll s.prl s.logb s.pwr s.upd s.therm) :=
  h.step rfl (fun c => ⟨c.flds, c.live, c.ifiles, c.tags, c.mem, c.chk, c.triads, c.can, c.anl⟩) ⟨[], rfl⟩ (Nat.le_refl _) fun p hp => by
    cases p <;> first | rfl | exact absurd (hm.bit (i := 35) (by decide)) (Bool.eq_false_iff.1 hp)

theorem kept_upd_linkAt {m : Nat} {s0 s : State} {linkAt' : List (Nat × Nat)} (hm : Covers m 0x1000000000) (h : Kept m s0 s) : Kept m s0 (State.mk s.pending s.flds s.live s.pendL s.nfree s.out s.qops s.ifiles s.tags s.onceCycle s.waiting s.mem s.chk s.caches s.ceHold s.degCnt s.degAt s.degraded s.triads s.resv s.poolNext s.mer s.rhl s.chart s.bkb s.can s.brg s.fio s.lod s.anl s.binn s.pulses s.pulseOvf s.xings s.quiet s.links linkAt' s.linkLost s.coll s.prl s.logb s.pwr s.upd s.therm) :=
  h.step rfl (fun c => ⟨c.flds, c.live, c.ifiles, c.tags, c.mem, c.chk, c.triads, c.can, c.anl⟩) ⟨[], rfl⟩ (Nat.le_refl _) fun p hp => by
    cases p <;> first | rfl | exact absurd (hm.bit (i := 36) (by decide)) (Bool.eq_false_iff.1 hp)

theorem kept_upd_linkLost {m : Nat} {s0 s : State} {linkLost' : List (Nat × Nat)} (hm : Covers m 0x2000000000) (h : Kept m s0 s) : Kept m s0 (State.mk s.pending s.flds s.live s.pendL s.nfree s.out s.qops s.ifiles s.tags s.onceCycle s.waiting s.mem s.chk s.caches s.ceHold s.degCnt s.degAt s.degraded s.triads s.resv s.poolNext s.mer s.rhl s.chart s.bkb s.can s.brg s.fio s.lod s.anl s.binn s.pulses s.pulseOvf s.xings s.quiet s.links s.linkAt linkLost' s.coll s.prl s.logb s.pwr s.upd s.therm) :=
  h.step rfl (fun c => ⟨c.flds, c.live, c.ifiles, c.tags, c.mem, c.chk, c.triads, c.can, c.anl⟩) ⟨[], rfl⟩ (Nat.le_refl _) fun p hp => by
    cases p <;> first | rfl | exact absurd (hm.bit (i := 37) (by decide)) (Bool.eq_false_iff.1 hp)

theorem kept_upd_coll {m : Nat} {s0 s : State} {coll' : Coll} (hm : Covers m 0x4000000000) (h : Kept m s0 s) : Kept m s0 (State.mk s.pending s.flds s.live s.pendL s.nfree s.out s.qops s.ifiles s.tags s.onceCycle s.waiting s.mem s.chk s.caches s.ceHold s.degCnt s.degAt s.degraded s.triads s.resv s.poolNext s.mer s.rhl s.chart s.bkb s.can s.brg s.fio s.lod s.anl s.binn s.pulses s.pulseOvf s.xings s.quiet s.links s.linkAt s.linkLost coll' s.prl s.logb s.pwr s.upd s.therm) :=
  h.step rfl (fun c => ⟨c.flds, c.live, c.ifiles, c.tags, c.mem, c.chk, c.triads, c.can, c.anl⟩) ⟨[], rfl⟩ (Nat.le_refl _) fun p hp => by
    cases p <;> first | rfl | exact absurd (hm.bit (i := 38) (by decide)) (Bool.eq_false_iff.1 hp)

theorem kept_upd_prl {m : Nat} {s0 s : State} {prl' : Prl} (hm : Covers m 0x8000000000) (h : Kept m s0 s) : Kept m s0 (State.mk s.pending s.flds s.live s.pendL s.nfree s.out s.qops s.ifiles s.tags s.onceCycle s.waiting s.mem s.chk s.caches s.ceHold s.degCnt s.degAt s.degraded s.triads s.resv s.poolNext s.mer s.rhl s.chart s.bkb s.can s.brg s.fio s.lod s.anl s.binn s.pulses s.pulseOvf s.xings s.quiet s.links s.linkAt s.linkLost s.coll prl' s.logb s.pwr s.upd s.therm) :=
  h.step rfl (fun c => ⟨c.flds, c.live, c.ifiles, c.tags, c.mem, c.chk, c.triads, c.can, c.anl⟩) ⟨[], rfl⟩ (Nat.le_refl _) fun p hp => by
    cases p <;> first | rfl | exact absurd (hm.bit (i := 39) (by decide)) (Bool.eq_false_iff.1 hp)

theorem kept_upd_logb {m : Nat} {s0 s : State} {logb' : Logb} (hm : Covers m 0x10000000000) (h : Kept m s0 s) : Kept m s0 (State.mk s.pending s.flds s.live s.pendL s.nfree s.out s.qops s.ifiles s.tags s.onceCycle s.waiting s.mem s.chk s.caches s.ceHold s.degCnt s.degAt s.degraded s.triads s.resv s.poolNext s.mer s.rhl s.chart s.bkb s.can s.brg s.fio s.lod s.anl s.binn s.pulses s.pulseOvf s.xings s.quiet s.links s.linkAt s.linkLost s.coll s.prl logb' s.pwr s.upd s.therm) :=
  h.step rfl (fun c => ⟨c.flds, c.live, c.ifiles, c.tags, c.mem, c.chk, c.triads, c.can, c.anl⟩) ⟨[], rfl⟩ (Nat.le_refl _) fun p hp => by
    cases p <;> first | rfl | exact absurd (hm.bit (i := 40) (by decide)) (Bool.eq_false_iff.1 hp)

theorem kept_upd_pwr {m : Nat} {s0 s : State} {pwr' : Pwr} (hm : Covers m 0x20000000000) (h : Kept m s0 s) : Kept m s0 (State.mk s.pending s.flds s.live s.pendL s.nfree s.out s.qops s.ifiles s.tags s.onceCycle s.waiting s.mem s.chk s.caches s.ceHold s.degCnt s.degAt s.degraded s.triads s.resv s.poolNext s.mer s.rhl s.chart s.bkb s.can s.brg s.fio s.lod s.anl s.binn s.pulses s.pulseOvf s.xings s.quiet s.links s.linkAt s.linkLost s.coll s.prl s.logb pwr' s.upd s.therm) :=
  h.step rfl (fun c => ⟨c.flds, c.live, c.ifiles, c.tags, c.mem, c.chk, c.triads, c.can, c.anl⟩) ⟨[], rfl⟩ (Nat.le_refl _) fun p hp => by
    cases p <;> first | rfl | exact absurd (hm.bit (i := 41) (by decide)) (Bool.eq_false_iff.1 hp)

theorem kept_upd_upd {m : Nat} {s0 s : State} {upd' : Upd} (hm : Covers m 0x40000000000) (h : Kept m s0 s) : Kept m s0 (State.mk s.pending s.flds s.live s.pendL s.nfree s.out s.qops s.ifiles s.tags s.onceCycle s.waiting s.mem s.chk s.caches s.ceHold s.degCnt s.degAt s.degraded s.triads s.resv s.poolNext s.mer s.rhl s.chart s.bkb s.can s.brg s.fio s.lod s.anl s.binn s.pulses s.pulseOvf s.xings s.quiet s.links s.linkAt s.linkLost s.coll s.prl s.logb s.pwr upd' s.therm) :=
  h.step rfl (fun c => ⟨c.flds, c.live, c.ifiles, c.tags, c.mem, c.chk, c.triads, c.can, c.anl⟩) ⟨[], rfl⟩ (Nat.le_refl _) fun p hp => by
    cases p <;> first | rfl | exact absurd (hm.bit (i := 42) (by decide)) (Bool.eq_false_iff.1 hp)

theorem kept_upd_therm {m : Nat} {s0 s : State} {therm' : Therm} (hm : Covers m 0x80000000000) (h : Kept m s0 s) : Kept m s0 (State.mk s.pending s.flds s.live s.pendL s.nfree s.out s.qops s.ifiles s.tags s.onceCycle s.waiting s.mem s.chk s.caches s.ceHold s.degCnt s.degAt s.degraded s.triads s.resv s.poolNext s.mer s.rhl s.chart s.bkb s.can s.brg s.fio s.lod s.anl s.binn s.pulses s.pulseOvf s.xings s.quiet s.links s.linkAt s.linkLost s.coll s.prl s.logb s.pwr s.upd therm') :=
  h.step rfl (fun c => ⟨c.flds, c.live, c.ifiles, c.tags, c.mem, c.chk, c.triads, c.can, c.anl⟩) ⟨[], rfl⟩ (Nat.le_refl _) fun p hp => by
    cases p <;> first | rfl | exact absurd (hm.bit (i := 43) (by decide)) (Bool.eq_false_iff.1 hp)

theorem kept_upd_ifiles {m : Nat} {s0 s : State} {ifiles' : List (Nat × Nat)} (hm : Covers m 0x80) (hifiles : kwf 0 s.ifiles = true → kwf 0 ifiles' = true) (h : Kept m s0 s) :
    Kept m s0 (State.mk s.pending s.flds s.live s.pendL s.nfree s.out s.qops ifiles' s.tags s.onceCycle s.waiting s.mem s.chk s.caches s.ceHold s.degCnt s.degAt s.degraded s.triads s.resv s.poolNext s.mer s.rhl s.chart s.bkb s.can s.brg s.fio s.lod s.anl s.binn s.pulses s.pulseOvf s.xings s.quiet s.links s.linkAt s.linkLost s.coll s.prl s.logb s.pwr s.upd s.therm) :=
  h.step rfl (fun c => ⟨c.flds, c.live, hifiles c.ifiles, c.tags, c.mem, c.chk, c.triads, c.can, c.anl⟩) ⟨[], rfl⟩ (Nat.le_refl _) fun p hp => by
    cases p <;> first | rfl | exact absurd (hm.bit (i := 7) (by decide)) (Bool.eq_false_iff.1 hp)

theorem kept_upd_live_pendL {m : Nat} {s0 s : State} {live' : List (Nat × Nat)} {pendL' : List (Nat × Nat)} (hm : Covers m 0xc) (hlive : kwf 0 s.live = true → kwf 0 live' = true) (h : Kept m s0 s) :
    Kept m s0 (State.mk s.pending s.flds live' pendL' s.nfree s.out s.qops s.ifiles s.tags s.onceCycle s.waiting s.mem s.chk s.caches s.ceHold s.degCnt s.degAt s.degraded s.triads s.resv s.poolNext s.mer s.rhl s.chart s.bkb s.can s.brg s.fio s.lod s.anl s.binn s.pulses s.pulseOvf s.xings s.quiet s.links s.linkAt s.linkLost s.coll s.prl s.logb s.pwr s.upd s.therm) :=
  h.step rfl (fun c => ⟨c.flds, hlive c.live, c.ifiles, c.tags, c.mem, c.chk, c.triads, c.can, c.anl⟩) ⟨[], rfl⟩ (Nat.le_refl _) fun p hp => by
    cases p <;> first | rfl | exact absurd (hm.bit (i := 2) (by decide)) (Bool.eq_false_iff.1 hp) | exact absurd (hm.bit (i := 3) (by decide)) (Bool.eq_false_iff.1 hp)

theorem kept_upd_waiting_pulses_pulseOvf_xings {m : Nat} {s0 s : State} {waiting' : List (Nat × Report)} {pulses' : List (Nat × Nat)} {pulseOvf' : List (Nat × Nat)} {xings' : List Xing} (hm : Covers m 0x380000400) (h : Kept m s0 s) :
    Kept m s0 (State.mk s.pending s.flds s.live s.pendL s.nfree s.out s.qops s.ifiles s.tags s.onceCycle waiting' s.mem s.chk s.caches s.ceHold s.degCnt s.degAt s.degraded s.triads s.resv s.poolNext s.mer s.rhl s.chart s.bkb s.can s.brg s.fio s.lod s.anl s.binn pulses' pulseOvf' xings' s.quiet s.links s.linkAt s.linkLost s.coll s.prl s.logb s.pwr s.upd s.therm) :=
  h.step rfl (fun c => ⟨c.flds, c.live, c.ifiles, c.tags, c.mem, c.chk, c.triads, c.can, c.anl⟩) ⟨[], rfl⟩ (Nat.le_refl _) fun p hp => by
    cases p <;> first | rfl | exact absurd (hm.bit (i := 10) (by decide)) (Bool.eq_false_iff.1 hp) | exact absurd (hm.bit (i := 31) (by decide)) (Bool.eq_false_iff.1 hp) | exact absurd (hm.bit (i := 32) (by decide)) (Bool.eq_false_iff.1 hp) | exact absurd (hm.bit (i := 33) (by decide)) (Bool.eq_false_iff.1 hp)

theorem kept_upd_mem_chk_caches {m : Nat} {s0 s : State} {mem' : List Host.Cell} {chk' : List Host.Cell} {caches' : List CLine} (hm : Covers m 0x3800) (hmem : Memory.wf s.mem = true → Memory.wf mem' = true) (hchk : Memory.wf s.chk = true → Memory.wf chk' = true) (h : Kept m s0 s) :
    Kept m s0 (State.mk s.pending s.flds s.live s.pendL s.nfree s.out s.qops s.ifiles s.tags s.onceCycle s.waiting mem' chk' caches' s.ceHold s.degCnt s.degAt s.degraded s.triads s.resv s.poolNext s.mer s.rhl s.chart s.bkb s.can s.brg s.fio s.lod s.anl s.binn s.pulses s.pulseOvf s.xings s.quiet s.links s.linkAt s.linkLost s.coll s.prl s.logb s.pwr s.upd s.therm) :=
  h.step rfl (fun c => ⟨c.flds, c.live, c.ifiles, c.tags, hmem c.mem, hchk c.chk, c.triads, c.can, c.anl⟩) ⟨[], rfl⟩ (Nat.le_refl _) fun p hp => by
    cases p <;> first | rfl | exact absurd (hm.bit (i := 11) (by decide)) (Bool.eq_false_iff.1 hp) | exact absurd (hm.bit (i := 12) (by decide)) (Bool.eq_false_iff.1 hp) | exact absurd (hm.bit (i := 13) (by decide)) (Bool.eq_false_iff.1 hp)

theorem kept_upd_ifiles_resv_rhl_chart_bkb_can_prl {m : Nat} {s0 s : State} {ifiles' : List (Nat × Nat)} {resv' : List (Nat × Nat)} {rhl' : Rhl} {chart' : Chart} {bkb' : Bkb} {can' : List CanCh} {prl' : Prl} (hm : Covers m 0x8003c80080) (hifiles : kwf 0 s.ifiles = true → kwf 0 ifiles' = true) (hcan : s.can.length = 6 → can'.length = 6) (h : Kept m s0 s) :
    Kept m s0 (State.mk s.pending s.flds s.live s.pendL s.nfree s.out s.qops ifiles' s.tags s.onceCycle s.waiting s.mem s.chk s.caches s.ceHold s.degCnt s.degAt s.degraded s.triads resv' s.poolNext s.mer rhl' chart' bkb' can' s.brg s.fio s.lod s.anl s.binn s.pulses s.pulseOvf s.xings s.quiet s.links s.linkAt s.linkLost s.coll prl' s.logb s.pwr s.upd s.therm) :=
  h.step rfl (fun c => ⟨c.flds, c.live, hifiles c.ifiles, c.tags, c.mem, c.chk, c.triads, hcan c.can, c.anl⟩) ⟨[], rfl⟩ (Nat.le_refl _) fun p hp => by
    cases p <;> first | rfl | exact absurd (hm.bit (i := 7) (by decide)) (Bool.eq_false_iff.1 hp) | exact absurd (hm.bit (i := 19) (by decide)) (Bool.eq_false_iff.1 hp) | exact absurd (hm.bit (i := 22) (by decide)) (Bool.eq_false_iff.1 hp) | exact absurd (hm.bit (i := 23) (by decide)) (Bool.eq_false_iff.1 hp) | exact absurd (hm.bit (i := 24) (by decide)) (Bool.eq_false_iff.1 hp) | exact absurd (hm.bit (i := 25) (by decide)) (Bool.eq_false_iff.1 hp) | exact absurd (hm.bit (i := 39) (by decide)) (Bool.eq_false_iff.1 hp)

theorem kept_upd_flds_live_pendL {m : Nat} {s0 s : State} {flds' : List (Nat × Nat)} {live' : List (Nat × Nat)} {pendL' : List (Nat × Nat)} (hm : Covers m 0xe) (hflds : kwf 0 s.flds = true → kwf 0 flds' = true) (hlive : kwf 0 s.live = true → kwf 0 live' = true) (h : Kept m s0 s) :
    Kept m s0 (State.mk s.pending flds' live' pendL' s.nfree s.out s.qops s.ifiles s.tags s.onceCycle s.waiting s.mem s.chk s.caches s.ceHold s.degCnt s.degAt s.degraded s.triads s.resv s.poolNext s.mer s.rhl s.chart s.bkb s.can s.brg s.fio s.lod s.anl s.binn s.pulses s.pulseOvf s.xings s.quiet s.links s.linkAt s.linkLost s.coll s.prl s.logb s.pwr s.upd s.therm) :=
  h.step rfl (fun c => ⟨hflds c.flds, hlive c.live, c.ifiles, c.tags, c.mem, c.chk, c.triads, c.can, c.anl⟩) ⟨[], rfl⟩ (Nat.le_refl _) fun p hp => by
    cases p <;> first | rfl | exact absurd (hm.bit (i := 1) (by decide)) (Bool.eq_false_iff.1 hp) | exact absurd (hm.bit (i := 2) (by decide)) (Bool.eq_false_iff.1 hp) | exact absurd (hm.bit (i := 3) (by decide)) (Bool.eq_false_iff.1 hp)

theorem kept_upd_links_linkAt_linkLost {m : Nat} {s0 s : State} {links' : List (Nat × Nat)} {linkAt' : List (Nat × Nat)} {linkLost' : List (Nat × Nat)} (hm : Covers m 0x3800000000) (h : Kept m s0 s) :
    Kept m s0 (State.mk s.pending s.flds s.live s.pendL s.nfree s.out s.qops s.ifiles s.tags s.onceCycle s.waiting s.mem s.chk s.caches s.ceHold s.degCnt s.degAt s.degraded s.triads s.resv s.poolNext s.mer s.rhl s.chart s.bkb s.can s.brg s.fio s.lod s.anl s.binn s.pulses s.pulseOvf s.xings s.quiet links' linkAt' linkLost' s.coll s.prl s.logb s.pwr s.upd s.therm) :=
  h.step rfl (fun c => ⟨c.flds, c.live, c.ifiles, c.tags, c.mem, c.chk, c.triads, c.can, c.anl⟩) ⟨[], rfl⟩ (Nat.le_refl _) fun p hp => by
    cases p <;> first | rfl | exact absurd (hm.bit (i := 35) (by decide)) (Bool.eq_false_iff.1 hp) | exact absurd (hm.bit (i := 36) (by decide)) (Bool.eq_false_iff.1 hp) | exact absurd (hm.bit (i := 37) (by decide)) (Bool.eq_false_iff.1 hp)

theorem kept_upd_qops_can {m : Nat} {s0 s : State} {qops' : List QOp} {can' : List CanCh} (hm : Covers m 0x2000040) (hcan : s.can.length = 6 → can'.length = 6) (h : Kept m s0 s) :
    Kept m s0 (State.mk s.pending s.flds s.live s.pendL s.nfree s.out qops' s.ifiles s.tags s.onceCycle s.waiting s.mem s.chk s.caches s.ceHold s.degCnt s.degAt s.degraded s.triads s.resv s.poolNext s.mer s.rhl s.chart s.bkb can' s.brg s.fio s.lod s.anl s.binn s.pulses s.pulseOvf s.xings s.quiet s.links s.linkAt s.linkLost s.coll s.prl s.logb s.pwr s.upd s.therm) :=
  h.step rfl (fun c => ⟨c.flds, c.live, c.ifiles, c.tags, c.mem, c.chk, c.triads, hcan c.can, c.anl⟩) ⟨[], rfl⟩ (Nat.le_refl _) fun p hp => by
    cases p <;> first | rfl | exact absurd (hm.bit (i := 6) (by decide)) (Bool.eq_false_iff.1 hp) | exact absurd (hm.bit (i := 25) (by decide)) (Bool.eq_false_iff.1 hp)

theorem kept_upd_chart_bkb {m : Nat} {s0 s : State} {chart' : Chart} {bkb' : Bkb} (hm : Covers m 0x1800000) (h : Kept m s0 s) :
    Kept m s0 (State.mk s.pending s.flds s.live s.pendL s.nfree s.out s.qops s.ifiles s.tags s.onceCycle s.waiting s.mem s.chk s.caches s.ceHold s.degCnt s.degAt s.degraded s.triads s.resv s.poolNext s.mer s.rhl chart' bkb' s.can s.brg s.fio s.lod s.anl s.binn s.pulses s.pulseOvf s.xings s.quiet s.links s.linkAt s.linkLost s.coll s.prl s.logb s.pwr s.upd s.therm) :=
  h.step rfl (fun c => ⟨c.flds, c.live, c.ifiles, c.tags, c.mem, c.chk, c.triads, c.can, c.anl⟩) ⟨[], rfl⟩ (Nat.le_refl _) fun p hp => by
    cases p <;> first | rfl | exact absurd (hm.bit (i := 23) (by decide)) (Bool.eq_false_iff.1 hp) | exact absurd (hm.bit (i := 24) (by decide)) (Bool.eq_false_iff.1 hp)

theorem kept_upd_pulses_pulseOvf {m : Nat} {s0 s : State} {pulses' : List (Nat × Nat)} {pulseOvf' : List (Nat × Nat)} (hm : Covers m 0x180000000) (h : Kept m s0 s) :
    Kept m s0 (State.mk s.pending s.flds s.live s.pendL s.nfree s.out s.qops s.ifiles s.tags s.onceCycle s.waiting s.mem s.chk s.caches s.ceHold s.degCnt s.degAt s.degraded s.triads s.resv s.poolNext s.mer s.rhl s.chart s.bkb s.can s.brg s.fio s.lod s.anl s.binn pulses' pulseOvf' s.xings s.quiet s.links s.linkAt s.linkLost s.coll s.prl s.logb s.pwr s.upd s.therm) :=
  h.step rfl (fun c => ⟨c.flds, c.live, c.ifiles, c.tags, c.mem, c.chk, c.triads, c.can, c.anl⟩) ⟨[], rfl⟩ (Nat.le_refl _) fun p hp => by
    cases p <;> first | rfl | exact absurd (hm.bit (i := 31) (by decide)) (Bool.eq_false_iff.1 hp) | exact absurd (hm.bit (i := 32) (by decide)) (Bool.eq_false_iff.1 hp)

theorem kept_upd_waiting_xings {m : Nat} {s0 s : State} {waiting' : List (Nat × Report)} {xings' : List Xing} (hm : Covers m 0x200000400) (h : Kept m s0 s) :
    Kept m s0 (State.mk s.pending s.flds s.live s.pendL s.nfree s.out s.qops s.ifiles s.tags s.onceCycle waiting' s.mem s.chk s.caches s.ceHold s.degCnt s.degAt s.degraded s.triads s.resv s.poolNext s.mer s.rhl s.chart s.bkb s.can s.brg s.fio s.lod s.anl s.binn s.pulses s.pulseOvf xings' s.quiet s.links s.linkAt s.linkLost s.coll s.prl s.logb s.pwr s.upd s.therm) :=
  h.step rfl (fun c => ⟨c.flds, c.live, c.ifiles, c.tags, c.mem, c.chk, c.triads, c.can, c.anl⟩) ⟨[], rfl⟩ (Nat.le_refl _) fun p hp => by
    cases p <;> first | rfl | exact absurd (hm.bit (i := 10) (by decide)) (Bool.eq_false_iff.1 hp) | exact absurd (hm.bit (i := 33) (by decide)) (Bool.eq_false_iff.1 hp)

theorem kept_upd_tags {m : Nat} {s0 s : State} {tags' : List Host.Cell} (hm : Covers m 0x100) (htags : Memory.wf s.tags = true → Memory.wf tags' = true) (h : Kept m s0 s) :
    Kept m s0 (State.mk s.pending s.flds s.live s.pendL s.nfree s.out s.qops s.ifiles tags' s.onceCycle s.waiting s.mem s.chk s.caches s.ceHold s.degCnt s.degAt s.degraded s.triads s.resv s.poolNext s.mer s.rhl s.chart s.bkb s.can s.brg s.fio s.lod s.anl s.binn s.pulses s.pulseOvf s.xings s.quiet s.links s.linkAt s.linkLost s.coll s.prl s.logb s.pwr s.upd s.therm) :=
  h.step rfl (fun c => ⟨c.flds, c.live, c.ifiles, htags c.tags, c.mem, c.chk, c.triads, c.can, c.anl⟩) ⟨[], rfl⟩ (Nat.le_refl _) fun p hp => by
    cases p <;> first | rfl | exact absurd (hm.bit (i := 8) (by decide)) (Bool.eq_false_iff.1 hp)

theorem kept_upd_degCnt_degAt {m : Nat} {s0 s : State} {degCnt' : List (Nat × Nat)} {degAt' : List (Nat × Nat)} (hm : Covers m 0x18000) (h : Kept m s0 s) :
    Kept m s0 (State.mk s.pending s.flds s.live s.pendL s.nfree s.out s.qops s.ifiles s.tags s.onceCycle s.waiting s.mem s.chk s.caches s.ceHold degCnt' degAt' s.degraded s.triads s.resv s.poolNext s.mer s.rhl s.chart s.bkb s.can s.brg s.fio s.lod s.anl s.binn s.pulses s.pulseOvf s.xings s.quiet s.links s.linkAt s.linkLost s.coll s.prl s.logb s.pwr s.upd s.therm) :=
  h.step rfl (fun c => ⟨c.flds, c.live, c.ifiles, c.tags, c.mem, c.chk, c.triads, c.can, c.anl⟩) ⟨[], rfl⟩ (Nat.le_refl _) fun p hp => by
    cases p <;> first | rfl | exact absurd (hm.bit (i := 15) (by decide)) (Bool.eq_false_iff.1 hp) | exact absurd (hm.bit (i := 16) (by decide)) (Bool.eq_false_iff.1 hp)

theorem kept_upd_triads {m : Nat} {s0 s : State} {triads' : List Triad} (hm : Covers m 0x40000) (htriads : s.triads.length = 4 → triads'.length = 4) (h : Kept m s0 s) :
    Kept m s0 (State.mk s.pending s.flds s.live s.pendL s.nfree s.out s.qops s.ifiles s.tags s.onceCycle s.waiting s.mem s.chk s.caches s.ceHold s.degCnt s.degAt s.degraded triads' s.resv s.poolNext s.mer s.rhl s.chart s.bkb s.can s.brg s.fio s.lod s.anl s.binn s.pulses s.pulseOvf s.xings s.quiet s.links s.linkAt s.linkLost s.coll s.prl s.logb s.pwr s.upd s.therm) :=
  h.step rfl (fun c => ⟨c.flds, c.live, c.ifiles, c.tags, c.mem, c.chk, htriads c.triads, c.can, c.anl⟩) ⟨[], rfl⟩ (Nat.le_refl _) fun p hp => by
    cases p <;> first | rfl | exact absurd (hm.bit (i := 18) (by decide)) (Bool.eq_false_iff.1 hp)

theorem kept_upd_can {m : Nat} {s0 s : State} {can' : List CanCh} (hm : Covers m 0x2000000) (hcan : s.can.length = 6 → can'.length = 6) (h : Kept m s0 s) :
    Kept m s0 (State.mk s.pending s.flds s.live s.pendL s.nfree s.out s.qops s.ifiles s.tags s.onceCycle s.waiting s.mem s.chk s.caches s.ceHold s.degCnt s.degAt s.degraded s.triads s.resv s.poolNext s.mer s.rhl s.chart s.bkb can' s.brg s.fio s.lod s.anl s.binn s.pulses s.pulseOvf s.xings s.quiet s.links s.linkAt s.linkLost s.coll s.prl s.logb s.pwr s.upd s.therm) :=
  h.step rfl (fun c => ⟨c.flds, c.live, c.ifiles, c.tags, c.mem, c.chk, c.triads, hcan c.can, c.anl⟩) ⟨[], rfl⟩ (Nat.le_refl _) fun p hp => by
    cases p <;> first | rfl | exact absurd (hm.bit (i := 25) (by decide)) (Bool.eq_false_iff.1 hp)

theorem kept_upd_anl {m : Nat} {s0 s : State} {anl' : List AnlCh} (hm : Covers m 0x20000000) (hanl : s.anl.length = 8 → anl'.length = 8) (h : Kept m s0 s) :
    Kept m s0 (State.mk s.pending s.flds s.live s.pendL s.nfree s.out s.qops s.ifiles s.tags s.onceCycle s.waiting s.mem s.chk s.caches s.ceHold s.degCnt s.degAt s.degraded s.triads s.resv s.poolNext s.mer s.rhl s.chart s.bkb s.can s.brg s.fio s.lod anl' s.binn s.pulses s.pulseOvf s.xings s.quiet s.links s.linkAt s.linkLost s.coll s.prl s.logb s.pwr s.upd s.therm) :=
  h.step rfl (fun c => ⟨c.flds, c.live, c.ifiles, c.tags, c.mem, c.chk, c.triads, c.can, hanl c.anl⟩) ⟨[], rfl⟩ (Nat.le_refl _) fun p hp => by
    cases p <;> first | rfl | exact absurd (hm.bit (i := 29) (by decide)) (Bool.eq_false_iff.1 hp)

theorem kept_ite {m : Nat} {s0 a b : State} {c : Prop} [Decidable c] (ha : Kept m s0 a) (hb : Kept m s0 b) : Kept m s0 (if c then a else b) := by
  split <;> assumption

theorem kept1_mk {m : Nat} {α : Type} {s0 s : State} (x : α) (h : Kept m s0 s) : Kept1 m s0 (s, x) := h

theorem kept1_of {m : Nat} {α : Type} {s0 : State} (p : State × α) (h : Kept m s0 p.1) : Kept1 m s0 p := h

theorem kept1_ite {m : Nat} {α : Type} {s0 : State} {a b : State × α} {c : Prop} [Decidable c] (ha : Kept1 m s0 a) (hb : Kept1 m s0 b) : Kept1 m s0 (if c then a else b) := by
  split <;> assumption

theorem Kept1.of_eq {m : Nat} {α : Type} {s0 s : State} {x : α} {p : State × α} (h : Kept m s0 p.1) (e : p = (s, x)) : Kept m s0 s := by subst e; exact h

theorem keptM_some {m : Nat} {s0 s : State} (h : Kept m s0 s) : KeptM m s0 (some s) := h

theorem keptM_none {m : Nat} {s0 : State} : KeptM m s0 none := trivial

theorem keptM_ite {m : Nat} {s0 : State} {a b : Option State} {c : Prop} [Decidable c] (ha : KeptM m s0 a) (hb : KeptM m s0 b) : KeptM m s0 (if c then a else b) := by
  split <;> assumption

theorem KeptM.of_eq {m : Nat} {s0 s : State} {o : Option State} (h : KeptM m s0 o) (e : o = some s) : Kept m s0 s := by subst e; exact h

theorem keptO_ite {m : Nat} {s0 : State} {a b : Host.Outcome State Fault Refusal} {c : Prop} [Decidable c] (ha : KeptO m s0 a) (hb : KeptO m s0 b) :
    KeptO m s0 (if c then a else b) := by
  split <;> assumption

theorem KeptO.of_eq {m : Nat} {s0 s : State} {o : Host.Outcome State Fault Refusal} (h : KeptO m s0 o) (e : o = .next s) : Kept m s0 s := by subst e; exact h

theorem keptO_next {m : Nat} {s0 s : State} (h : Kept m s0 s) : KeptO m s0 (.next s) := h

theorem keptO_fault {m : Nat} {s0 : State} (f : Fault) : KeptO m s0 (.fault f) := trivial

/-- A value bound once is judged once. -/
theorem kept_cut {m : Nat} {s0 x : State} {P : Prop} (hx : Kept m s0 x) (h : Kept m s0 x → P) : P := h hx

theorem kept_cutF1 {m : Nat} {s0 : State} {x : State → State} {P : Prop} (hx : ∀ t, Kept m s0 t → Kept m s0 (x t)) (h : (∀ t, Kept m s0 t → Kept m s0 (x t)) → P) : P := h hx

theorem kept_cutF2 {m : Nat} {α : Type} {s0 : State} {x : α → State → State} {P : Prop} (hx : ∀ a t, Kept m s0 t → Kept m s0 (x a t))
    (h : (∀ a t, Kept m s0 t → Kept m s0 (x a t)) → P) : P := h hx

theorem kept_cutF0 {m : Nat} {α : Type} {s0 : State} {x : α → State} {P : Prop} (hx : ∀ a, Kept m s0 (x a)) (h : (∀ a, Kept m s0 (x a)) → P) : P := h hx

theorem kept_foldl {m : Nat} {α : Type} {s0 : State} (f : State → α → State) (l : List α) (s : State) (hf : ∀ t x, Kept m s0 t → Kept m s0 (f t x)) (h : Kept m s0 s) :
    Kept m s0 (l.foldl f s) := by
  induction l generalizing s with
  | nil => exact h
  | cons x r ih => exact ih _ (hf s x h)

theorem kept_foldr {m : Nat} {α : Type} {s0 : State} (f : α → State → State) (l : List α) (s : State) (hf : ∀ x t, Kept m s0 t → Kept m s0 (f x t)) (h : Kept m s0 s) :
    Kept m s0 (l.foldr f s) := by
  induction l with
  | nil => exact h
  | cons x r ih => exact hf x _ ih

theorem kept_foldl1 {m : Nat} {α β : Type} {s0 : State} (f : State × β → α → State × β) (l : List α) (p : State × β)
    (hf : ∀ t x, Kept m s0 t.1 → Kept m s0 (f t x).1) (h : Kept m s0 p.1) : Kept m s0 (l.foldl f p).1 := by
  induction l generalizing p with
  | nil => exact h
  | cons x r ih => exact ih _ (hf p x h)

theorem keptO_foldl {m : Nat} {α : Type} {s0 : State} (g : α → State → Host.Outcome State Fault Refusal) (l : List α) (o : Host.Outcome State Fault Refusal)
    (hg : ∀ a t, Kept m s0 t → KeptO m s0 (g a t)) (h : KeptO m s0 o) :
    KeptO m s0 (l.foldl (fun o b => match o with
      | .next t => g b t
      | e => e) o) := by
  induction l generalizing o with
  | nil => exact h
  | cons x r ih =>
    refine ih _ ?_
    cases o with
    | next t => exact hg x t h
    | fault f => trivial
    | refused f => trivial

theorem kept_forN {m : Nat} {s0 : State} (f : Nat → State → State) (lo n : Nat) (s : State) (hf : ∀ i t, Kept m s0 t → Kept m s0 (f i t)) (h : Kept m s0 s) :
    Kept m s0 (forN f lo n s) := by
  induction n generalizing lo s with
  | zero => exact h
  | succ n ih => exact ih _ _ (hf lo s h)

theorem kept_iter {m : Nat} {s0 : State} (f : State → State) (n : Nat) (s : State) (hf : ∀ t, Kept m s0 t → Kept m s0 (f t)) (h : Kept m s0 s) :
    Kept m s0 (iter f n s) := by
  induction n generalizing s with
  | zero => exact h
  | succ n ih => exact ih _ (hf s h)

theorem kwf_foldl_kput {α : Type} [DecidableEq α] (z : α) (l m : List (Nat × α)) (h : kwf z m = true) :
    kwf z (l.foldl (fun (a : List (Nat × α)) p => kput z a p.1 p.2) m) = true := by
  induction l generalizing m with
  | nil => exact h
  | cons p r ih => exact ih _ (kwf_kput z m p.1 p.2 h)

theorem kwf_putFile (l : List (Nat × Nat)) (off base v : Nat) (h : kwf 0 l = true) : kwf 0 (putFile l off base v) = true := by
  unfold putFile
  generalize List.range 64 = r
  induction r generalizing l with
  | nil => exact h
  | cons k r ih =>
    refine ih _ ?_
    dsimp only
    split
    · exact kwf_kput 0 _ _ _ h
    · exact h

end Sys2Proof.Machine
end

