-- ==== Sys2Proof/Laws/KeptOps.lean ====
section
/-! SUPPORT. What the operations of Machine/Ops.lean keep (Safety.lean, `Kept`): one lemma each, which cites those of the operations it calls. -/

namespace Sys2Proof.Machine

theorem kept_setF {m : Nat} {s0 : State} {s : State} (f : Fld) (v : Nat) (hm : Covers m 0x2) (h1 : Kept m s0 s) :
    Kept m s0 (setF s f v) :=
  h1.step rfl (fun c => ⟨kwf_kput 0 _ _ _ c.flds, c.live, c.ifiles, c.tags, c.mem, c.chk, c.triads, c.can, c.anl⟩) ⟨[], rfl⟩ (Nat.le_refl _) fun p hp => by
    cases p <;> first | rfl | exact absurd (hm.bit (i := 1) (by decide)) (Bool.eq_false_iff.1 hp)

theorem kept_setLive {m : Nat} {s0 : State} {s : State} (f : Fld) (v : Nat) (hm : Covers m 0x4) (h1 : Kept m s0 s) :
    Kept m s0 (setLive s f v) :=
  h1.step rfl (fun c => ⟨c.flds, kwf_kput 0 _ _ _ c.live, c.ifiles, c.tags, c.mem, c.chk, c.triads, c.can, c.anl⟩) ⟨[], rfl⟩ (Nat.le_refl _) fun p hp => by
    cases p <;> first | rfl | exact absurd (hm.bit (i := 2) (by decide)) (Bool.eq_false_iff.1 hp)

theorem kept_setB {m : Nat} {s0 : State} {s : State} (f : Fld) (b : Bool) (hm : Covers m 0x2) (h1 : Kept m s0 s) :
    Kept m s0 (setB s f b) := by
  unfold setB
  repeat' first
    | with_reducible assumption
    | intro _
    | with_reducible exact hm.of rfl
    | with_reducible apply kept_setF

theorem kept_addF {m : Nat} {s0 : State} {s : State} (f : Fld) (n : Nat) (hm : Covers m 0x2) (h1 : Kept m s0 s) :
    Kept m s0 (addF s f n) := by
  unfold addF
  repeat' first
    | with_reducible assumption
    | intro _
    | with_reducible exact hm.of rfl
    | with_reducible apply kept_setF

theorem kept_incF {m : Nat} {s0 : State} {s : State} (f : Fld) (hm : Covers m 0x2) (h1 : Kept m s0 s) :
    Kept m s0 (incF s f) := by
  unfold incF
  repeat' first
    | with_reducible assumption
    | intro _
    | with_reducible exact hm.of rfl
    | with_reducible apply kept_addF

theorem kept_incW {m : Nat} {s0 : State} {s : State} (f : Fld) (hm : Covers m 0x2) (h1 : Kept m s0 s) :
    Kept m s0 (incW s f) := by
  unfold incW
  repeat' first
    | with_reducible assumption
    | intro _
    | with_reducible exact hm.of rfl
    | with_reducible apply kept_setF

theorem kept_setFBit {m : Nat} {s0 : State} {s : State} (f : Fld) (i : Nat) (b : Bool) (hm : Covers m 0x2) (h1 : Kept m s0 s) :
    Kept m s0 (setFBit s f i b) := by
  unfold setFBit
  repeat' first
    | with_reducible assumption
    | intro _
    | with_reducible exact hm.of rfl
    | with_reducible apply kept_setF

theorem kept_useFree {m : Nat} {s0 : State} {s : State} (hm : Covers m 0x10) (h1 : Kept m s0 s) :
    Kept m s0 (useFree s) :=
  h1.step rfl (fun c => ⟨c.flds, c.live, c.ifiles, c.tags, c.mem, c.chk, c.triads, c.can, c.anl⟩) ⟨[], rfl⟩ (Nat.le_succ _) fun p hp => by
    cases p <;> first | rfl | exact absurd (hm.bit (i := 4) (by decide)) (Bool.eq_false_iff.1 hp)

theorem kept_setFree {m : Nat} {s0 : State} {s : State} (f : Fld) (hm : Covers m 0x12) (h1 : Kept m s0 s) :
    Kept m s0 (setFree s f) := by
  unfold setFree
  repeat' first
    | with_reducible assumption
    | intro _
    | with_reducible exact hm.of rfl
    | with_reducible apply kept_useFree
    | with_reducible apply kept_setF

theorem kept_emit {m : Nat} {s0 : State} {s : State} (o : Out) (hm : Covers m 0x20) (h1 : Kept m s0 s) :
    Kept m s0 (emit s o) :=
  h1.step rfl (fun c => ⟨c.flds, c.live, c.ifiles, c.tags, c.mem, c.chk, c.triads, c.can, c.anl⟩) ⟨[o], rfl⟩ (Nat.le_refl _) fun p hp => by
    cases p <;> first | rfl | exact absurd (hm.bit (i := 5) (by decide)) (Bool.eq_false_iff.1 hp)

theorem kept_answer {m : Nat} {s0 : State} {s : State} (r : Req) (a3 : Nat) (hm : Covers m 0x20) (h1 : Kept m s0 s) :
    Kept m s0 (answer s r a3) := by
  unfold answer
  repeat' first
    | with_reducible assumption
    | intro _
    | with_reducible exact hm.of rfl
    | with_reducible apply kept_emit

theorem kept_deny {m : Nat} {s0 : State} {s : State} (r : Req) (a3 : AccFault) (hm : Covers m 0x20) (h1 : Kept m s0 s) :
    Kept m s0 (deny s r a3) := by
  unfold deny
  repeat' first
    | with_reducible assumption
    | intro _
    | with_reducible exact hm.of rfl
    | with_reducible apply kept_emit

theorem kept_raiseVia {m : Nat} {s0 : State} (via : Nat) (r : Report) {s : State} (hm : Covers m 0x402) (h1 : Kept m s0 s) :
    Kept m s0 (raiseVia via r s) := by
  unfold raiseVia
  repeat' first
    | with_reducible assumption
    | intro _
    | (extract_lets +onlyGivenNames x; clear_value x; revert x; intro y)
    | with_reducible exact hm.of rfl
    | (with_reducible refine kept_upd_waiting (hm.of rfl) ?_; with_reducible assumption)
    | with_reducible apply kept_incF
    | with_reducible apply kept_ite

theorem kept_raise {m : Nat} {s0 : State} (cls : Nat) (l : Loc) {s : State} (hm : Covers m 0x402) (h1 : Kept m s0 s) :
    Kept m s0 (raise cls l s) := by
  unfold raise
  repeat' first
    | with_reducible assumption
    | intro _
    | with_reducible exact hm.of rfl
    | with_reducible apply kept_raiseVia

theorem kept_raiseReq {m : Nat} {s0 : State} (cls : Nat) (l : Loc) (req : Nat) {s : State} (hm : Covers m 0x402) (h1 : Kept m s0 s) :
    Kept m s0 (raiseReq cls l req s) := by
  unfold raiseReq
  repeat' first
    | with_reducible assumption
    | intro _
    | with_reducible exact hm.of rfl
    | with_reducible apply kept_raiseVia

theorem kept_raiseOnce {m : Nat} {s0 : State} (key : Nat) (cls : Nat) (l : Loc) {s : State} (hm : Covers m 0x602) (h1 : Kept m s0 s) :
    Kept m s0 (raiseOnce key cls l s) := by
  unfold raiseOnce
  repeat' first
    | with_reducible assumption
    | intro _
    | with_reducible exact hm.of rfl
    | (with_reducible refine kept_upd_onceCycle (hm.of rfl) ?_; with_reducible assumption)
    | with_reducible apply kept_raise
    | with_reducible apply kept_ite

theorem kept_wakeIsland {m : Nat} {s0 : State} {s : State} (i : Nat) (hm : Covers m 0x400000002) (h1 : Kept m s0 s) :
    Kept m s0 (wakeIsland s i) := by
  unfold wakeIsland
  repeat' first
    | with_reducible assumption
    | (intro hx; clear_value x; revert hx; revert x; intro y hy)
    | intro _
    | (subst x)
    | (extract_lets +onlyGivenNames x; refine kept_cut (m := m) (s0 := s0) (x := x) ?_ ?_)
    | (extract_lets +onlyGivenNames x; clear_value x; revert x; intro y)
    | with_reducible exact hm.of rfl
    | (with_reducible refine kept_upd_quiet (hm.of rfl) ?_; with_reducible assumption)
    | with_reducible apply kept_setF
    | with_reducible apply kept_ite

theorem kept_loadXing {m : Nat} {s0 : State} (num : Nat) (tx : Nat) (rx : Nat) (sub : Nat) (req : Bool) (taken : Bool) (a7 : XVal) {s : State} (hm : Covers m 0x200000000) (h1 : Kept m s0 s) :
    Kept m s0 (loadXing num tx rx sub req taken a7 s) := by
  unfold loadXing
  repeat' first
    | with_reducible assumption
    | intro _
    | with_reducible exact hm.of rfl
    | (with_reducible refine kept_upd_xings (hm.of rfl) ?_; with_reducible assumption)

theorem kept_crossVia {m : Nat} {s0 : State} (sub : Nat) (num : Nat) (tx : Nat) (rx : Nat) (a5 : XVal) (f : State → State) {s : State} (hm : Covers m 0x600000002) (h1 : ∀ v0 : State, Kept m s0 v0 → Kept m s0 (f v0)) (h2 : Kept m s0 s) :
    Kept m s0 (crossVia sub num tx rx a5 f s) := by
  unfold crossVia
  repeat' first
    | with_reducible assumption
    | intro _
    | (extract_lets +onlyGivenNames x; clear_value x; revert x; intro y)
    | with_reducible exact hm.of rfl
    | with_reducible apply h1
    | with_reducible apply kept_loadXing
    | with_reducible apply kept_wakeIsland
    | with_reducible apply kept_ite

theorem kept_cross {m : Nat} {s0 : State} (num : Nat) (tx : Nat) (rx : Nat) (a4 : XVal) (f : State → State) {s : State} (hm : Covers m 0x600000002) (h1 : ∀ v0 : State, Kept m s0 v0 → Kept m s0 (f v0)) (h2 : Kept m s0 s) :
    Kept m s0 (cross num tx rx a4 f s) := by
  unfold cross
  repeat' first
    | with_reducible assumption
    | intro _
    | with_reducible exact hm.of rfl
    | with_reducible apply h1
    | with_reducible apply kept_crossVia

theorem kept_setPending {m : Nat} {s0 : State} {s : State} (page eiid : Nat) (hm : Covers m 0x80) (h1 : Kept m s0 s) : Kept m s0 (setPending s page eiid) := by
  unfold setPending; split
  · exact kept_upd_ifiles hm (kwf_kput 0 _ _ _) h1
  · exact h1

theorem kept_writeFile {m : Nat} {s0 : State} {s : State} (page : Nat) (eiid : Nat) (hm : Covers m 0x600000082) (h1 : Kept m s0 s) :
    Kept m s0 (writeFile s page eiid) := by
  unfold writeFile
  repeat' first
    | with_reducible assumption
    | intro _
    | with_reducible exact hm.of rfl
    | with_reducible apply kept_cross
    | with_reducible apply kept_setPending

theorem kept_offerMsi {m : Nat} {s0 : State} (isl : Nat) (page : Nat) (eiid : Nat) {s : State} (hm : Covers m 0x600000082) (h1 : Kept m s0 s) :
    Kept m s0 (offerMsi isl page eiid s) := by
  unfold offerMsi
  repeat' first
    | with_reducible assumption
    | intro _
    | with_reducible exact hm.of rfl
    | with_reducible apply kept_loadXing
    | with_reducible apply kept_writeFile
    | with_reducible apply kept_ite

theorem kept_sendMsi {m : Nat} {s0 : State} (l : Loc) (eiid : Nat) (hart : Nat) (level : Nat) (guest : Nat) {s : State} (hm : Covers m 0x600000482) (h1 : Kept m s0 s) :
    Kept m s0 (sendMsi l eiid hart level guest s) := by
  unfold sendMsi
  repeat' first
    | with_reducible assumption
    | intro _
    | with_reducible exact hm.of rfl
    | with_reducible apply kept_offerMsi
    | with_reducible apply kept_raise
    | with_reducible apply kept_ite
    | split

theorem kept_sendTarget {m : Nat} {s0 : State} (l : Loc) (a : Nat) {s : State} (hm : Covers m 0x600000482) (h1 : Kept m s0 s) :
    Kept m s0 (sendTarget l a s) := by
  unfold sendTarget
  repeat' first
    | with_reducible assumption
    | intro _
    | with_reducible exact hm.of rfl
    | with_reducible apply kept_sendMsi

theorem kept_setEvt {m : Nat} {s0 : State} (l : Loc) (f : Fld) (irq : Nat) {s : State} (hm : Covers m 0x600000482) (h1 : Kept m s0 s) :
    Kept m s0 (setEvt l f irq s) := by
  unfold setEvt
  repeat' first
    | with_reducible assumption
    | intro _
    | with_reducible exact hm.of rfl
    | with_reducible apply kept_sendTarget
    | with_reducible apply kept_setF
    | with_reducible apply kept_ite

theorem kept_modTriad {m : Nat} {s0 : State} {s : State} (t : Nat) (f : Triad → Triad) (hm : Covers m 0x40000) (h1 : Kept m s0 s) :
    Kept m s0 (modTriad s t f) := by
  unfold modTriad
  repeat' first
    | with_reducible assumption
    | intro _
    | with_reducible exact hm.of rfl
    | ((with_reducible refine kept_upd_triads (hm.of rfl) ?_ ?_) <;> first | with_reducible exact id | with_reducible exact kwf_putFile _ _ _ _ | with_reducible exact kwf_kput 0 _ _ _ | exact fun e => (length_modAt _ _ _).trans e | exact fun e => (List.length_map ..).trans e | exact fun _ => rfl | exact kwf_filter 0 _ _ | exact kwf_foldl_kput 0 _ _ | exact kwf_kput 0 _ _ _ | (with_reducible assumption))

/-- Storing bytes keeps memory's canonical form. -/
theorem kwf_putBytes (m : List Host.Cell) (a : Nat) (d : List Byte) (h : Memory.wf m = true) : Memory.wf (putBytes m a d) = true := by
  induction d generalizing m a with
  | nil => exact h
  | cons b r ih => exact ih _ _ (kwf_kput 0 m a b h)

theorem kept_putHome {m : Nat} {s0 : State} {s : State} (cw : Nat) (w : List Byte) (hm : Covers m 0x1800) (h1 : Kept m s0 s) :
    Kept m s0 (putHome s cw w) :=
  h1.step rfl (fun c => ⟨c.flds, c.live, c.ifiles, c.tags, kwf_putBytes _ _ _ c.mem, kwf_putBytes _ _ _ c.chk, c.triads, c.can, c.anl⟩) ⟨[], rfl⟩ (Nat.le_refl _) fun p hp => by
    cases p <;> first | rfl | exact absurd (hm.bit (i := 11) (by decide)) (Bool.eq_false_iff.1 hp) | exact absurd (hm.bit (i := 12) (by decide)) (Bool.eq_false_iff.1 hp)

theorem kept_modLine {m : Nat} {s0 : State} {s : State} (u : Nat) (line : Nat) (f : CLine → CLine) (hm : Covers m 0x2000) (h1 : Kept m s0 s) :
    Kept m s0 (modLine s u line f) := by
  unfold modLine
  repeat' first
    | with_reducible assumption
    | intro _
    | with_reducible exact hm.of rfl
    | (with_reducible refine kept_upd_caches (hm.of rfl) ?_; with_reducible assumption)
    | with_reducible apply kept_ite

theorem kept_putIn {m : Nat} {s0 : State} (src : MemSrc) (cw : Nat) (a3 : List Byte) {s : State} (hm : Covers m 0x3800) (h1 : Kept m s0 s) :
    Kept m s0 (putIn src cw a3 s) := by
  unfold putIn
  repeat' first
    | with_reducible assumption
    | intro _
    | with_reducible exact hm.of rfl
    | with_reducible apply kept_putHome
    | with_reducible apply kept_modLine
    | with_reducible apply kept_ite

theorem kept_putSymbols {m : Nat} {s0 : State} {s : State} (cw : Nat) (d : List Byte) (c : List Byte) (hm : Covers m 0x3800) (h1 : Kept m s0 s) :
    Kept m s0 (putSymbols s cw d c) := by
  unfold putSymbols
  repeat' first
    | with_reducible assumption
    | intro _
    | with_reducible exact hm.of rfl
    | with_reducible apply kept_modLine
    | with_reducible apply kept_putHome
    | split

theorem kept_putCodeword {m : Nat} {s0 : State} {s : State} (cw : Nat) (d : List Byte) (hm : Covers m 0x3800) (h1 : Kept m s0 s) :
    Kept m s0 (putCodeword s cw d) := by
  unfold putCodeword
  repeat' first
    | with_reducible assumption
    | intro _
    | with_reducible exact hm.of rfl
    | with_reducible apply kept_putSymbols

theorem kept_putPoisoned {m : Nat} {s0 : State} {s : State} (cw : Nat) (d : List Byte) (hm : Covers m 0x3800) (h1 : Kept m s0 s) :
    Kept m s0 (putPoisoned s cw d) := by
  unfold putPoisoned
  repeat' first
    | with_reducible assumption
    | intro _
    | with_reducible exact hm.of rfl
    | with_reducible apply kept_putSymbols

theorem kept_addPulse {m : Nat} {s0 : State} {s : State} (isl : Nat) (id : Nat) (hm : Covers m 0x180000000) (h1 : Kept m s0 s) :
    Kept m s0 (addPulse s isl id) := by
  unfold addPulse
  repeat' first
    | with_reducible assumption
    | intro _
    | (extract_lets +onlyGivenNames x; clear_value x; revert x; intro y)
    | with_reducible exact hm.of rfl
    | (with_reducible refine kept_upd_pulses (hm.of rfl) ?_; with_reducible assumption)
    | (with_reducible refine kept_upd_pulseOvf (hm.of rfl) ?_; with_reducible assumption)
    | with_reducible apply kept_ite

theorem kept_countMem {m : Nat} {s0 : State} {s : State} (a2 : Macro) (f : Fld) (id : Nat) (hm : Covers m 0x180000002) (h1 : Kept m s0 s) :
    Kept m s0 (countMem s a2 f id) := by
  unfold countMem
  repeat' first
    | with_reducible assumption
    | intro _
    | with_reducible exact hm.of rfl
    | with_reducible apply kept_incF
    | with_reducible apply kept_addPulse
    | with_reducible apply kept_ite

theorem kept_lastMem {m : Nat} {s0 : State} {s : State} (a2 : Macro) (a : Nat) (sy : Nat) (sym : Nat) (val : Nat) (verdict : Nat) (hm : Covers m 0x2) (h1 : Kept m s0 s) :
    Kept m s0 (lastMem s a2 a sy sym val verdict) := by
  unfold lastMem
  repeat' first
    | with_reducible assumption
    | intro _
    | with_reducible exact hm.of rfl
    | with_reducible apply kept_setF

theorem kept_degrade {m : Nat} {s0 : State} {s : State} (a2 : Macro) (mem : Nat) (dev : Nat) (hm : Covers m 0x20402) (h1 : Kept m s0 s) :
    Kept m s0 (degrade s a2 mem dev) := by
  unfold degrade
  repeat' first
    | with_reducible assumption
    | (intro hx; clear_value x; revert hx; revert x; intro y hy)
    | intro _
    | (subst x)
    | (extract_lets +onlyGivenNames x; refine kept_cut (m := m) (s0 := s0) (x := x) ?_ ?_)
    | (extract_lets +onlyGivenNames x; clear_value x; revert x; intro y)
    | with_reducible exact hm.of rfl
    | (with_reducible refine kept_upd_degraded (hm.of rfl) ?_; with_reducible assumption)
    | with_reducible apply kept_setF
    | with_reducible apply kept_raiseVia
    | with_reducible apply kept_ite

theorem kept_countDevice {m : Nat} {s0 : State} {s : State} (a2 : Macro) (sym : Nat) (hm : Covers m 0x180028402) (h1 : Kept m s0 s) :
    Kept m s0 (countDevice s a2 sym) := by
  unfold countDevice
  repeat' first
    | with_reducible assumption
    | (intro hx; clear_value x; revert hx; revert x; intro y hy)
    | intro _
    | (subst x)
    | (extract_lets +onlyGivenNames x; refine kept_cut (m := m) (s0 := s0) (x := x) ?_ ?_)
    | (extract_lets +onlyGivenNames x; clear_value x; revert x; intro y)
    | with_reducible exact hm.of rfl
    | (with_reducible refine kept_upd_degCnt (hm.of rfl) ?_; with_reducible assumption)
    | with_reducible apply kept_incF
    | with_reducible apply kept_addPulse
    | with_reducible apply kept_degrade
    | with_reducible apply kept_ite

theorem kept_recordCorrection {m : Nat} {s0 : State} {s : State} (a2 : Macro) (a : Nat) (sy : Nat) (sym : Nat) (val : Nat) (hard : Bool) (hm : Covers m 0x18002c402) (h1 : Kept m s0 s) :
    Kept m s0 (recordCorrection s a2 a sy sym val hard) := by
  unfold recordCorrection
  repeat' first
    | with_reducible assumption
    | (intro hx; clear_value x; revert hx; revert x; intro y hy)
    | intro _
    | (subst x)
    | (extract_lets +onlyGivenNames x; refine kept_cut (m := m) (s0 := s0) (x := x) ?_ ?_)
    | (extract_lets +onlyGivenNames x; clear_value x; revert x; intro y)
    | with_reducible exact hm.of rfl
    | (with_reducible refine kept_upd_ceHold (hm.of rfl) ?_; with_reducible assumption)
    | with_reducible apply kept_lastMem
    | with_reducible apply kept_countDevice
    | with_reducible apply kept_countMem
    | with_reducible apply kept_raiseVia
    | with_reducible apply kept_ite

theorem kept_recordLost {m : Nat} {s0 : State} {s : State} (a2 : Macro) (a : Nat) (sy : Nat) (poisoned : Bool) (req : Nat) (entry : Bool) (hm : Covers m 0x180000402) (h1 : Kept m s0 s) :
    Kept m s0 (recordLost s a2 a sy poisoned req entry) := by
  unfold recordLost
  repeat' first
    | with_reducible assumption
    | (intro hx; clear_value x; revert hx; revert x; intro y hy)
    | intro _
    | (subst x)
    | (extract_lets +onlyGivenNames x; refine kept_cut (m := m) (s0 := s0) (x := x) ?_ ?_)
    | (extract_lets +onlyGivenNames x; clear_value x; revert x; intro y)
    | with_reducible exact hm.of rfl
    | with_reducible apply kept_lastMem
    | with_reducible apply kept_countMem
    | with_reducible apply kept_addPulse
    | with_reducible apply kept_raiseVia
    | with_reducible apply kept_ite

theorem kept_writeOut {m : Nat} {s0 : State} {s : State} (c : CLine) (hm : Covers m 0x3800) (h1 : Kept m s0 s) :
    Kept m s0 (writeOut s c) := by
  unfold writeOut
  repeat' first
    | with_reducible assumption
    | (intro hx; clear_value x; revert hx; revert x; intro y hy)
    | intro _
    | (subst x)
    | (extract_lets +onlyGivenNames x; refine kept_cut (m := m) (s0 := s0) (x := x) ?_ ?_)
    | (extract_lets +onlyGivenNames x; clear_value x; revert x; intro y)
    | with_reducible exact hm.of rfl
    | (with_reducible refine kept_upd_caches (hm.of rfl) ?_; with_reducible assumption)
    | with_reducible apply kept_putHome
    | with_reducible apply kept_ite

theorem kept_poisonIn {m : Nat} {s0 : State} (src : MemSrc) (cw : Nat) (d : List Byte) {s : State} (hm : Covers m 0x3800) (h1 : Kept m s0 s) :
    Kept m s0 (poisonIn src cw d s) := by
  unfold poisonIn
  repeat' first
    | with_reducible assumption
    | (intro hx; clear_value x; revert hx; revert x; intro y hy)
    | intro _
    | (subst x)
    | (extract_lets +onlyGivenNames x; refine kept_cut (m := m) (s0 := s0) (x := x) ?_ ?_)
    | (extract_lets +onlyGivenNames x; clear_value x; revert x; intro y)
    | with_reducible exact hm.of rfl
    | (with_reducible refine kept_upd_caches (hm.of rfl) ?_; with_reducible assumption)
    | with_reducible apply kept_putIn
    | with_reducible apply kept_ite

theorem kept_checkOut {m : Nat} {s0 : State} (u : Nat) (line : Nat) (cw : Nat) {s : State} (hm : Covers m 0x18002fc02) (h1 : Kept m s0 s) :
    Kept m s0 (checkOut u line cw s) := by
  unfold checkOut
  repeat' first
    | with_reducible assumption
    | intro _
    | (extract_lets +onlyGivenNames x; clear_value x; revert x; intro y)
    | with_reducible exact hm.of rfl
    | with_reducible apply kept_putIn
    | with_reducible apply kept_recordCorrection
    | with_reducible apply kept_recordLost
    | split

theorem kept_evict {m : Nat} {s0 : State} (p : CLine → Bool) {s : State} (hm : Covers m 0x18002fc02) (h1 : Kept m s0 s) :
    Kept m s0 (evict p s) := by
  unfold evict
  repeat' first
    | with_reducible assumption
    | (intro hx; clear_value x; revert hx; revert x; intro y hy)
    | intro _
    | (subst x)
    | (extract_lets +onlyGivenNames x; refine kept_cut (m := m) (s0 := s0) (x := x) ?_ ?_)
    | (extract_lets +onlyGivenNames x; clear_value x; revert x; intro y)
    | with_reducible exact hm.of rfl
    | (with_reducible refine kept_upd_caches (hm.of rfl) ?_; with_reducible assumption)
    | with_reducible apply kept_checkOut
    | with_reducible apply kept_writeOut
    | with_reducible apply kept_foldr
    | split

theorem kept_makeRoom {m : Nat} {s0 : State} (u : Nat) (line : Nat) {s : State} (hm : Covers m 0x18002fc12) (h1 : Kept m s0 s) :
    Kept m s0 (makeRoom u line s) := by
  unfold makeRoom
  repeat' first
    | with_reducible assumption
    | intro _
    | (extract_lets +onlyGivenNames x; clear_value x; revert x; intro y)
    | with_reducible exact hm.of rfl
    | with_reducible apply kept_evict
    | with_reducible apply kept_useFree
    | with_reducible apply kept_ite
    | split

theorem kept_afterCorrection {m : Nat} {s0 : State} (src : MemSrc) (cw : Nat) {s : State} (hm : Covers m 0x18002fc02) (h1 : Kept m s0 s) :
    Kept m s0 (afterCorrection src cw s) := by
  unfold afterCorrection
  repeat' first
    | with_reducible assumption
    | intro _
    | with_reducible exact hm.of rfl
    | with_reducible apply kept_evict
    | with_reducible apply kept_ite
    | split

theorem kept_touchAt {m : Nat} {s0 : State} (req : Nat) (src : MemSrc) {s : State} (cw : Nat) (hm : Covers m 0x18002fc12) (h1 : Kept m s0 s) :
    Kept m s0 (touchAt req src s cw) := by
  unfold touchAt
  repeat' first
    | with_reducible assumption
    | (intro hx; clear_value x; revert hx; revert x; intro y hy)
    | intro _
    | (subst x)
    | (extract_lets +onlyGivenNames x; refine kept_cut (m := m) (s0 := s0) (x := x) ?_ ?_)
    | (extract_lets +onlyGivenNames x; clear_value x; revert x; intro y)
    | with_reducible exact hm.of rfl
    | with_reducible apply kept_recordCorrection
    | with_reducible apply kept_useFree
    | with_reducible apply kept_afterCorrection
    | with_reducible apply kept_putIn
    | with_reducible apply kept_recordLost
    | with_reducible apply kept_poisonIn
    | with_reducible apply kept_ite
    | split

theorem kept_touchCw {m : Nat} {s0 : State} (req : Nat) {s : State} (cw : Nat) (hm : Covers m 0x18002fc12) (h1 : Kept m s0 s) :
    Kept m s0 (touchCw req s cw) := by
  unfold touchCw
  repeat' first
    | with_reducible assumption
    | intro _
    | with_reducible exact hm.of rfl
    | with_reducible apply kept_touchAt

theorem kept_fillLine {m : Nat} {s0 : State} (req : Nat) (src : MemSrc) (line : Nat) {s : State} (hm : Covers m 0x18002fc12) (h1 : Kept m s0 s) :
    Kept m s0 (fillLine req src line s) := by
  unfold fillLine
  repeat' first
    | with_reducible assumption
    | (intro hx; clear_value x; revert hx; revert x; intro y hy)
    | intro _
    | (subst x)
    | (extract_lets +onlyGivenNames x; refine kept_cut (m := m) (s0 := s0) (x := x) ?_ ?_)
    | (extract_lets +onlyGivenNames x; clear_value x; revert x; intro y)
    | with_reducible exact hm.of rfl
    | (with_reducible refine kept_upd_caches (hm.of rfl) ?_; with_reducible assumption)
    | with_reducible apply kept_makeRoom
    | with_reducible apply kept_touchAt
    | with_reducible apply kept_ite

theorem kept_touch {m : Nat} {s0 : State} {s : State} (req : Nat) (a : Nat) (n : Nat) (hm : Covers m 0x18002fc12) (h1 : Kept m s0 s) :
    Kept m s0 (touch s req a n) := by
  unfold touch
  repeat' first
    | with_reducible assumption
    | intro _
    | with_reducible exact hm.of rfl
    | with_reducible apply kept_touchCw
    | with_reducible apply kept_ite
    | with_reducible apply kept_forN

theorem kept_injectAt {m : Nat} {s0 : State} {s : State} (cw : Nat) (hm : Covers m 0x3802) (h1 : Kept m s0 s) :
    Kept m s0 (injectAt s cw) := by
  unfold injectAt
  repeat' first
    | with_reducible assumption
    | intro _
    | (extract_lets +onlyGivenNames x; clear_value x; revert x; intro y)
    | with_reducible exact hm.of rfl
    | with_reducible apply kept_setF
    | with_reducible apply kept_putSymbols
    | with_reducible apply kept_ite

theorem kept_breakRes {m : Nat} {s0 : State} {s : State} (req : Nat) (cw : Nat) (hm : Covers m 0x80000) (h1 : Kept m s0 s) :
    Kept m s0 (breakRes s req cw) := by
  unfold breakRes
  repeat' first
    | with_reducible assumption
    | intro _
    | with_reducible exact hm.of rfl
    | (with_reducible refine kept_upd_resv (hm.of rfl) ?_; with_reducible assumption)
    | with_reducible apply kept_ite

theorem kept_owe {m : Nat} {s0 : State} (req : Nat) (line : Nat) {s : State} (hm : Covers m 0x40000) (h1 : Kept m s0 s) :
    Kept m s0 (owe req line s) := by
  unfold owe
  repeat' first
    | with_reducible assumption
    | intro _
    | with_reducible exact hm.of rfl
    | with_reducible apply kept_modTriad
    | with_reducible apply kept_ite
    | with_reducible apply kept_forN

theorem kept_storeThrough {m : Nat} {s0 : State} (req : Nat) (cw : Nat) {s : State} (hm : Covers m 0x2000) (h1 : Kept m s0 s) :
    Kept m s0 (storeThrough req cw s) := by
  unfold storeThrough
  repeat' first
    | with_reducible assumption
    | intro _
    | (extract_lets +onlyGivenNames x; clear_value x; revert x; intro y)
    | with_reducible exact hm.of rfl
    | (with_reducible refine kept_upd_caches (hm.of rfl) ?_; with_reducible assumption)
    | with_reducible apply kept_ite
    | split

theorem kept_storeAt {m : Nat} {s0 : State} (src : MemSrc) {s : State} (req : Nat) (cw : Nat) (d : List Byte) (hm : Covers m 0x1800efc02) (h1 : Kept m s0 s) :
    Kept m s0 (storeAt src s req cw d) := by
  unfold storeAt
  repeat' first
    | with_reducible assumption
    | (intro hx; clear_value x; revert hx; revert x; intro y hy)
    | intro _
    | (subst x)
    | (extract_lets +onlyGivenNames x; refine kept_cut (m := m) (s0 := s0) (x := x) ?_ ?_)
    | (extract_lets +onlyGivenNames x; clear_value x; revert x; intro y)
    | with_reducible exact hm.of rfl
    | with_reducible apply kept_evict
    | with_reducible apply kept_breakRes
    | with_reducible apply kept_putHome
    | with_reducible apply kept_modLine
    | with_reducible apply kept_injectAt
    | with_reducible apply kept_storeThrough
    | with_reducible apply kept_owe
    | with_reducible apply kept_ite

theorem kept_storeCw {m : Nat} {s0 : State} {s : State} (req : Nat) (cw : Nat) (d : List Byte) (hm : Covers m 0x1800efc02) (h1 : Kept m s0 s) :
    Kept m s0 (storeCw s req cw d) := by
  unfold storeCw
  repeat' first
    | with_reducible assumption
    | intro _
    | with_reducible exact hm.of rfl
    | with_reducible apply kept_storeAt

theorem kept_writePart {m : Nat} {s0 : State} (src : MemSrc) {a2 : State} (req : Nat) (cw : Nat) (o : Nat) (d : List Byte) (hm : Covers m 0x1800efc12) (h1 : Kept m s0 a2) :
    Kept m s0 (writePart src a2 req cw o d) := by
  unfold writePart
  repeat' first
    | with_reducible assumption
    | (intro hx; clear_value x; revert hx; revert x; intro y hy)
    | intro _
    | (subst x)
    | (extract_lets +onlyGivenNames x; refine kept_cut (m := m) (s0 := s0) (x := x) ?_ ?_)
    | (extract_lets +onlyGivenNames x; clear_value x; revert x; intro y)
    | with_reducible exact hm.of rfl
    | with_reducible apply kept_fillLine
    | with_reducible apply kept_storeAt
    | with_reducible apply kept_recordCorrection
    | with_reducible apply kept_recordLost
    | with_reducible apply kept_poisonIn
    | with_reducible apply kept_ite
    | split

theorem kept_writeMemAux {m : Nat} {s0 : State} (src : MemSrc) (n : Nat) {s : State} (req a : Nat) (d : List Byte) (hm : Covers m 0x1800efc12) (h1 : Kept m s0 s) :
    Kept m s0 (writeMemAux src n s req a d) := by
  induction n generalizing s a d with
  | zero => exact h1
  | succ n ih =>
    unfold writeMemAux
    split
    · exact h1
    · exact ih _ _ (kept_writePart _ _ _ _ _ hm h1)

theorem kept_writeVia {m : Nat} {s0 : State} (src : MemSrc) {s : State} (req : Nat) (a : Nat) (d : List Byte) (hm : Covers m 0x1800efc12) (h1 : Kept m s0 s) :
    Kept m s0 (writeVia src s req a d) := by
  unfold writeVia
  repeat' first
    | with_reducible assumption
    | intro _
    | with_reducible exact hm.of rfl
    | with_reducible apply kept_writeMemAux

theorem kept_writeMem {m : Nat} {s0 : State} {s : State} (req : Nat) (a : Nat) (d : List Byte) (hm : Covers m 0x1800efc12) (h1 : Kept m s0 s) :
    Kept m s0 (writeMem s req a d) := by
  unfold writeMem
  repeat' first
    | with_reducible assumption
    | intro _
    | with_reducible exact hm.of rfl
    | with_reducible apply kept_writeVia

theorem kept_followEpoch {m : Nat} {s0 : State} (cls : Nat) (id : Nat) {s : State} (hm : Covers m 0x2) (h1 : Kept m s0 s) :
    Kept m s0 (followEpoch cls id s) := by
  unfold followEpoch
  repeat' first
    | with_reducible assumption
    | (intro hx; clear_value x; revert hx; revert x; intro y hy)
    | intro _
    | (subst x)
    | (extract_lets +onlyGivenNames x; refine kept_cut (m := m) (s0 := s0) (x := x) ?_ ?_)
    | (extract_lets +onlyGivenNames x; clear_value x; revert x; intro y)
    | with_reducible exact hm.of rfl
    | with_reducible apply kept_setF
    | with_reducible apply kept_ite
    | with_reducible apply kept_foldl
    | with_reducible apply kept_foldl1
    | with_reducible apply kept_forN

theorem kept_bumpTriad {m : Nat} {s0 : State} (t : Nat) {s : State} (hm : Covers m 0x2) (h1 : Kept m s0 s) :
    Kept m s0 (bumpTriad t s) := by
  unfold bumpTriad
  repeat' first
    | with_reducible assumption
    | intro _
    | with_reducible exact hm.of rfl
    | with_reducible apply kept_followEpoch
    | with_reducible apply kept_setF

theorem kept_bumpPartition {m : Nat} {s0 : State} (p : Nat) {s : State} (hm : Covers m 0x2) (h1 : Kept m s0 s) :
    Kept m s0 (bumpPartition p s) := by
  unfold bumpPartition
  repeat' first
    | with_reducible assumption
    | intro _
    | with_reducible exact hm.of rfl
    | with_reducible apply kept_followEpoch
    | with_reducible apply kept_setF

theorem kept_bumpPair {m : Nat} {s0 : State} {s : State} (hm : Covers m 0x2) (h1 : Kept m s0 s) :
    Kept m s0 (bumpPair s) := by
  unfold bumpPair
  repeat' first
    | with_reducible assumption
    | intro _
    | with_reducible exact hm.of rfl
    | with_reducible apply kept_followEpoch
    | with_reducible apply kept_setF

theorem kept_bumpNode {m : Nat} {s0 : State} {s : State} (hm : Covers m 0x2) (h1 : Kept m s0 s) :
    Kept m s0 (bumpNode s) := by
  unfold bumpNode
  repeat' first
    | with_reducible assumption
    | intro _
    | with_reducible exact hm.of rfl
    | with_reducible apply kept_followEpoch
    | with_reducible apply kept_setF

end Sys2Proof.Machine
end

