-- ==== Sys2Proof/Laws/KeptFlags.lean ====
section
/-! SUPPORT. What the operations of Machine/Flags.lean keep (Safety.lean, `Kept`): one lemma each, which cites those of the operations it calls. -/

namespace Sys2Proof.Machine

theorem kept_evtMer {m : Nat} {s0 : State} (f : Fld) {s : State} (hm : Covers m 0x600000482) (h1 : Kept m s0 s) :
    Kept m s0 (evtMer f s) := by
  unfold evtMer
  repeat' first
    | with_reducible assumption
    | intro _
    | with_reducible exact hm.of rfl
    | with_reducible apply kept_setEvt

theorem kept_evtRhl {m : Nat} {s0 : State} (f : Fld) {s : State} (hm : Covers m 0x600000482) (h1 : Kept m s0 s) :
    Kept m s0 (evtRhl f s) := by
  unfold evtRhl
  repeat' first
    | with_reducible assumption
    | intro _
    | with_reducible exact hm.of rfl
    | with_reducible apply kept_setEvt

theorem kept_evtCht {m : Nat} {s0 : State} (f : Fld) {s : State} (hm : Covers m 0x600000482) (h1 : Kept m s0 s) :
    Kept m s0 (evtCht f s) := by
  unfold evtCht
  repeat' first
    | with_reducible assumption
    | intro _
    | with_reducible exact hm.of rfl
    | with_reducible apply kept_setEvt

theorem kept_evtBkb {m : Nat} {s0 : State} (f : Fld) {s : State} (hm : Covers m 0x600000482) (h1 : Kept m s0 s) :
    Kept m s0 (evtBkb f s) := by
  unfold evtBkb
  repeat' first
    | with_reducible assumption
    | intro _
    | with_reducible exact hm.of rfl
    | with_reducible apply kept_setEvt

theorem kept_evtCan {m : Nat} {s0 : State} (n : Nat) (f : Fld) {s : State} (hm : Covers m 0x600000482) (h1 : Kept m s0 s) :
    Kept m s0 (evtCan n f s) := by
  unfold evtCan
  repeat' first
    | with_reducible assumption
    | intro _
    | with_reducible exact hm.of rfl
    | with_reducible apply kept_setEvt

theorem kept_evtBrg {m : Nat} {s0 : State} (f : Fld) {s : State} (hm : Covers m 0x600000482) (h1 : Kept m s0 s) :
    Kept m s0 (evtBrg f s) := by
  unfold evtBrg
  repeat' first
    | with_reducible assumption
    | intro _
    | with_reducible exact hm.of rfl
    | with_reducible apply kept_setEvt

theorem kept_evtFio {m : Nat} {s0 : State} (f : Fld) {s : State} (hm : Covers m 0x600000482) (h1 : Kept m s0 s) :
    Kept m s0 (evtFio f s) := by
  unfold evtFio
  repeat' first
    | with_reducible assumption
    | intro _
    | with_reducible exact hm.of rfl
    | with_reducible apply kept_setEvt

theorem kept_evtLod {m : Nat} {s0 : State} (f : Fld) {s : State} (hm : Covers m 0x600000482) (h1 : Kept m s0 s) :
    Kept m s0 (evtLod f s) := by
  unfold evtLod
  repeat' first
    | with_reducible assumption
    | intro _
    | with_reducible exact hm.of rfl
    | with_reducible apply kept_setEvt

theorem kept_evtAnl {m : Nat} {s0 : State} (f : Fld) {s : State} (hm : Covers m 0x600000482) (h1 : Kept m s0 s) :
    Kept m s0 (evtAnl f s) := by
  unfold evtAnl
  repeat' first
    | with_reducible assumption
    | intro _
    | with_reducible exact hm.of rfl
    | with_reducible apply kept_setEvt

theorem kept_evtPrl {m : Nat} {s0 : State} (f : Fld) {s : State} (hm : Covers m 0x600000482) (h1 : Kept m s0 s) :
    Kept m s0 (evtPrl f s) := by
  unfold evtPrl
  repeat' first
    | with_reducible assumption
    | intro _
    | with_reducible exact hm.of rfl
    | with_reducible apply kept_setEvt

theorem kept_evtLog {m : Nat} {s0 : State} (f : Fld) {s : State} (hm : Covers m 0x600000482) (h1 : Kept m s0 s) :
    Kept m s0 (evtLog f s) := by
  unfold evtLog
  repeat' first
    | with_reducible assumption
    | intro _
    | with_reducible exact hm.of rfl
    | with_reducible apply kept_setEvt

theorem kept_evtPwr {m : Nat} {s0 : State} (f : Fld) {s : State} (hm : Covers m 0x600000482) (h1 : Kept m s0 s) :
    Kept m s0 (evtPwr f s) := by
  unfold evtPwr
  repeat' first
    | with_reducible assumption
    | intro _
    | with_reducible exact hm.of rfl
    | with_reducible apply kept_setEvt

theorem kept_evtUpd {m : Nat} {s0 : State} (f : Fld) {s : State} (hm : Covers m 0x600000482) (h1 : Kept m s0 s) :
    Kept m s0 (evtUpd f s) := by
  unfold evtUpd
  repeat' first
    | with_reducible assumption
    | intro _
    | with_reducible exact hm.of rfl
    | with_reducible apply kept_setEvt

theorem kept_evtFault {m : Nat} {s0 : State} (f : Fld) {s : State} (hm : Covers m 0x2) (h1 : Kept m s0 s) :
    Kept m s0 (evtFault f s) := by
  unfold evtFault
  repeat' first
    | with_reducible assumption
    | intro _
    | with_reducible exact hm.of rfl
    | with_reducible apply kept_setF

theorem kept_clearForced {m : Nat} {s0 : State} (t : Nat) {s : State} (hm : Covers m 0x2) (h1 : Kept m s0 s) :
    Kept m s0 (clearForced t s) := by
  unfold clearForced
  repeat' first
    | with_reducible assumption
    | intro _
    | with_reducible exact hm.of rfl
    | with_reducible apply kept_setFBit
    | with_reducible apply kept_ite
    | with_reducible apply kept_forN

end Sys2Proof.Machine
end

