-- ==== Sys2Proof/Laws/KeptOperands.lean ====
section
/-! SUPPORT. What the operations of Machine/Operands.lean keep (Safety.lean, `Kept`): one lemma each, which cites those of the operations it calls. -/

namespace Sys2Proof.Machine

theorem kept_onIsland {m : Nat} {s0 : State} (i : Nat) {s : State} (f : State → Host.Outcome State Fault Refusal) (h1 : Kept m s0 s) (h2 : ∀ v0 : State, Kept m s0 v0 → KeptO m s0 (f v0)) :
    KeptO m s0 (onIsland i s f) := by
  unfold onIsland
  repeat' first
    | with_reducible assumption
    | intro _
    | with_reducible apply h2
    | with_reducible apply keptO_ite
    | with_reducible apply kept_ite
    | with_reducible apply keptO_next
    | with_reducible apply keptO_fault

theorem kept_onEngine {m : Nat} {s0 : State} (i : Nat) {s : State} (f : State → Host.Outcome State Fault Refusal) (h1 : Kept m s0 s) (h2 : ∀ v0 : State, Kept m s0 v0 → KeptO m s0 (f v0)) :
    KeptO m s0 (onEngine i s f) := by
  unfold onEngine
  repeat' first
    | with_reducible assumption
    | intro _
    | with_reducible apply h2
    | with_reducible apply kept_onIsland
    | with_reducible apply keptO_ite
    | with_reducible apply kept_ite
    | with_reducible apply keptO_next
    | with_reducible apply keptO_fault

theorem kept_reached {m : Nat} {s0 : State} (i : Nat) (r : Req) {s : State} (f : State → Host.Outcome State Fault Refusal) (hm : Covers m 0x400000022) (h1 : Kept m s0 s) (h2 : ∀ v0 : State, Kept m s0 v0 → KeptO m s0 (f v0)) :
    KeptO m s0 (reached i r s f) := by
  unfold reached
  repeat' first
    | with_reducible assumption
    | intro _
    | with_reducible exact hm.of rfl
    | with_reducible apply h2
    | with_reducible apply kept_wakeIsland
    | with_reducible apply kept_deny
    | with_reducible apply keptO_ite
    | with_reducible apply kept_ite
    | with_reducible apply keptO_next
    | with_reducible apply keptO_fault

theorem kept_writeFld {m : Nat} {s0 : State} (locked : Bool) {s : State} (f : Fld) (a4 : Nat) (hm : Covers m 0x1a) (h1 : Kept m s0 s) :
    Kept m s0 (writeFld locked s f a4) := by
  unfold writeFld
  repeat' first
    | with_reducible assumption
    | (intro hx; clear_value x; revert hx; revert x; intro y hy)
    | intro _
    | (subst x)
    | (extract_lets +onlyGivenNames x; refine kept_cut (m := m) (s0 := s0) (x := x) ?_ ?_)
    | (extract_lets +onlyGivenNames x; clear_value x; revert x; intro y)
    | with_reducible exact hm.of rfl
    | (with_reducible refine kept_upd_pendL (hm.of rfl) ?_; with_reducible assumption)
    | with_reducible apply kept_setF
    | with_reducible apply kept_setFree
    | with_reducible apply kept_ite
    | split

theorem kept_writeFields {m : Nat} {s0 : State} (r : Req) (a : Nat) (size : Nat) (val : Word) (fs : List Fld) {s : State} (hm : Covers m 0x41a) (h1 : Kept m s0 s) :
    Kept m s0 (writeFields r a size val fs s) := by
  unfold writeFields
  repeat' first
    | with_reducible assumption
    | (intro hx; clear_value x; revert hx; revert x; intro y hy)
    | intro _
    | (subst x)
    | (extract_lets +onlyGivenNames x; refine kept_cut (m := m) (s0 := s0) (x := x) ?_ ?_)
    | (extract_lets +onlyGivenNames x; clear_value x; revert x; intro y)
    | with_reducible exact hm.of rfl
    | with_reducible apply kept_writeFld
    | with_reducible apply kept_raise
    | with_reducible apply kept_raiseReq
    | with_reducible apply kept_ite
    | with_reducible apply kept_foldl
    | with_reducible apply kept_foldl1

theorem kept_deniedLog {m : Nat} {s0 : State} (r : Req) (k : AccKind) {s : State} (hm : Covers m 0x422) (h1 : Kept m s0 s) :
    Kept m s0 (deniedLog r k s) := by
  unfold deniedLog
  repeat' first
    | with_reducible assumption
    | intro _
    | with_reducible exact hm.of rfl
    | with_reducible apply kept_raiseReq
    | with_reducible apply kept_incF
    | with_reducible apply kept_deny

theorem kept_clearRC {m : Nat} {s0 : State} (a : Nat) (size : Nat) (fs : List Fld) {s : State} (hm : Covers m 0x2) (h1 : Kept m s0 s) :
    Kept m s0 (clearRC a size fs s) := by
  unfold clearRC
  repeat' first
    | with_reducible assumption
    | intro _
    | with_reducible exact hm.of rfl
    | with_reducible apply kept_setF
    | with_reducible apply kept_ite
    | with_reducible apply kept_foldl
    | with_reducible apply kept_foldl1

theorem kept_tagStore {m : Nat} {s0 : State} {s : State} (a size : Nat) (val : Word) (hm : Covers m 0x100) (h1 : Kept m s0 s) :
    Kept m s0 (tagStore s a size val) :=
  h1.step rfl (fun c => ⟨c.flds, c.live, c.ifiles, kwf_putBytes _ _ _ c.tags, c.mem, c.chk, c.triads, c.can, c.anl⟩) ⟨[], rfl⟩ (Nat.le_refl _) fun p hp => by
    cases p <;> first | rfl | exact absurd (hm.bit (i := 8) (by decide)) (Bool.eq_false_iff.1 hp)

end Sys2Proof.Machine
end

