-- ==== Sys2Proof/Laws/KeptTriads.lean ====
section
/-! SUPPORT. What the operations of Machine/Triads.lean keep (Safety.lean, `Kept`): one lemma each, which cites those of the operations it calls. -/

namespace Sys2Proof.Machine

theorem kept_setCore {m : Nat} {s0 : State} {s : State} (c : Nat) (a3 : Nat) (hm : Covers m 0x2) (h1 : Kept m s0 s) :
    Kept m s0 (setCore s c a3) := by
  unfold setCore
  repeat' first
    | with_reducible assumption
    | (intro hx; clear_value x; revert hx; revert x; intro y hy)
    | intro _
    | (subst x)
    | (extract_lets +onlyGivenNames x; refine kept_cut (m := m) (s0 := s0) (x := x) ?_ ?_)
    | (extract_lets +onlyGivenNames x; clear_value x; revert x; intro y)
    | with_reducible exact hm.of rfl
    | with_reducible apply kept_setF
    | with_reducible apply kept_ite

theorem kept_setLane {m : Nat} {s0 : State} (t : Nat) (p : Nat) (regs : List Nat) (vals : List Nat) {s : State} (hm : Covers m 0x40000) (h1 : Kept m s0 s) :
    Kept m s0 (setLane t p regs vals s) := by
  unfold setLane
  repeat' first
    | with_reducible assumption
    | intro _
    | with_reducible exact hm.of rfl
    | with_reducible apply kept_modTriad
    | with_reducible apply kept_ite
    | with_reducible apply kept_foldl
    | with_reducible apply kept_foldl1

theorem kept_countEvent {m : Nat} {s0 : State} (t : Nat) (p : Nat) (ev : Nat) {s : State} (hm : Covers m 0x40000) (h1 : Kept m s0 s) :
    Kept m s0 (countEvent t p ev s) := by
  unfold countEvent
  repeat' first
    | with_reducible assumption
    | intro _
    | with_reducible exact hm.of rfl
    | with_reducible apply kept_setLane
    | with_reducible apply kept_ite
    | with_reducible apply kept_forN

theorem kept_dropLanes {m : Nat} {s0 : State} (t : Nat) (p : CLine → Bool) {s : State} (hm : Covers m 0x2000) (h1 : Kept m s0 s) :
    Kept m s0 (dropLanes t p s) := by
  unfold dropLanes
  repeat' first
    | with_reducible assumption
    | intro _
    | with_reducible exact hm.of rfl
    | (with_reducible refine kept_upd_caches (hm.of rfl) ?_; with_reducible assumption)

theorem kept_dropL1 {m : Nat} {s0 : State} (t : Nat) (p : Nat) {s : State} (hm : Covers m 0x2000) (h1 : Kept m s0 s) :
    Kept m s0 (dropL1 t p s) := by
  unfold dropL1
  repeat' first
    | with_reducible assumption
    | intro _
    | with_reducible exact hm.of rfl
    | with_reducible apply kept_dropLanes
    | with_reducible apply kept_ite

theorem kept_writeMireg {m : Nat} {s0 : State} (t : Nat) (a2 : Nat) {s : State} (hm : Covers m 0x40080) (h1 : Kept m s0 s) :
    Kept m s0 (writeMireg t a2 s) := by
  unfold writeMireg
  repeat' first
    | with_reducible assumption
    | (intro hx; clear_value x; revert hx; revert x; intro y hy)
    | (intro hz; clear_value z; revert hz; revert z; intro y hy)
    | intro _
    | (subst x)
    | (subst z)
    | (extract_lets +onlyGivenNames x; refine kept_cut (m := m) (s0 := s0) (x := x) ?_ ?_)
    | (extract_lets +onlyGivenNames z; refine kept_cut (m := m) (s0 := s0) (x := z.1) ?_ ?_)
    | (extract_lets +onlyGivenNames x; clear_value x; revert x; intro y)
    | with_reducible exact hm.of rfl
    | ((with_reducible refine kept_upd_ifiles (hm.of rfl) ?_ ?_) <;> first | with_reducible exact id | with_reducible exact kwf_putFile _ _ _ _ | with_reducible exact kwf_kput 0 _ _ _ | exact fun e => (length_modAt _ _ _).trans e | exact fun e => (List.length_map ..).trans e | exact fun _ => rfl | exact kwf_filter 0 _ _ | exact kwf_foldl_kput 0 _ _ | exact kwf_kput 0 _ _ _ | (with_reducible assumption))
    | with_reducible apply kept_modTriad
    | with_reducible apply kept_ite

theorem kept_setTState {m : Nat} {s0 : State} {s : State} (t : Nat) (a3 : Nat) (hm : Covers m 0x2) (h1 : Kept m s0 s) :
    Kept m s0 (setTState s t a3) := by
  unfold setTState
  repeat' first
    | with_reducible assumption
    | intro _
    | with_reducible exact hm.of rfl
    | with_reducible apply kept_setFBit
    | with_reducible apply kept_setF
    | with_reducible apply kept_ite

theorem kept_setChecker {m : Nat} {s0 : State} {s : State} (t : Nat) (b : Bool) (hm : Covers m 0x2) (h1 : Kept m s0 s) :
    Kept m s0 (setChecker s t b) := by
  unfold setChecker
  repeat' first
    | with_reducible assumption
    | intro _
    | with_reducible exact hm.of rfl
    | with_reducible apply kept_setB

theorem kept_abandonSwitch {m : Nat} {s0 : State} (t : Nat) {s : State} (hm : Covers m 0x2) (h1 : Kept m s0 s) :
    Kept m s0 (abandonSwitch t s) := by
  unfold abandonSwitch
  repeat' first
    | with_reducible assumption
    | intro _
    | with_reducible exact hm.of rfl
    | with_reducible apply kept_setF
    | with_reducible apply kept_ite

theorem kept_safeHalt {m : Nat} {s0 : State} (t : Nat) (cause : Nat) {s : State} (hm : Covers m 0x40002) (h1 : Kept m s0 s) :
    Kept m s0 (safeHalt t cause s) := by
  unfold safeHalt
  repeat' first
    | with_reducible assumption
    | (intro hx; clear_value x; revert hx; revert x; intro y hy)
    | intro _
    | (subst x)
    | (extract_lets +onlyGivenNames x; refine kept_cut (m := m) (s0 := s0) (x := x) ?_ ?_)
    | (extract_lets +onlyGivenNames x; clear_value x; revert x; intro y)
    | with_reducible exact hm.of rfl
    | with_reducible apply kept_setChecker
    | with_reducible apply kept_setF
    | with_reducible apply kept_setTState
    | with_reducible apply kept_abandonSwitch
    | with_reducible apply kept_modTriad

theorem kept_recordMismatch {m : Nat} {s0 : State} (t : Nat) (cls : Nat) (lane : Nat) (rtype : Nat) (addr : Nat) (retire : Nat) {s : State} (hm : Covers m 0x2) (h1 : Kept m s0 s) :
    Kept m s0 (recordMismatch t cls lane rtype addr retire s) := by
  unfold recordMismatch
  repeat' first
    | with_reducible assumption
    | (intro hx; clear_value x; revert hx; revert x; intro y hy)
    | intro _
    | (subst x)
    | (extract_lets +onlyGivenNames x; refine kept_cut (m := m) (s0 := s0) (x := x) ?_ ?_)
    | (extract_lets +onlyGivenNames x; clear_value x; revert x; intro y)
    | with_reducible exact hm.of rfl
    | with_reducible apply kept_setF
    | with_reducible apply kept_incF
    | with_reducible apply kept_ite

theorem kept_sextantFault {m : Nat} {s0 : State} (t : Nat) (cls : Nat) (point : Nat) (expect : Nat) (flagged : Nat) (mac : Nat) (cause : Nat) (rtype : Nat) (addr : Nat) (retire : Nat) {s : State} (hm : Covers m 0x40402) (h1 : Kept m s0 s) :
    Kept m s0 (sextantFault t cls point expect flagged mac cause rtype addr retire s) := by
  unfold sextantFault
  repeat' first
    | with_reducible assumption
    | (intro hx; clear_value x; revert hx; revert x; intro y hy)
    | intro _
    | (subst x)
    | (extract_lets +onlyGivenNames x; refine kept_cut (m := m) (s0 := s0) (x := x) ?_ ?_)
    | (extract_lets +onlyGivenNames x; clear_value x; revert x; intro y)
    | with_reducible exact hm.of rfl
    | with_reducible apply kept_setF
    | with_reducible apply kept_raise
    | with_reducible apply kept_safeHalt
    | with_reducible apply kept_recordMismatch

theorem kept_startResync {m : Nat} {s0 : State} (t : Nat) (p : Nat) {s : State} (hm : Covers m 0x42402) (h1 : Kept m s0 s) :
    Kept m s0 (startResync t p s) := by
  unfold startResync
  repeat' first
    | with_reducible assumption
    | (intro hx; clear_value x; revert hx; revert x; intro y hy)
    | intro _
    | (subst x)
    | (extract_lets +onlyGivenNames x; refine kept_cut (m := m) (s0 := s0) (x := x) ?_ ?_)
    | (extract_lets +onlyGivenNames x; clear_value x; revert x; intro y)
    | with_reducible exact hm.of rfl
    | with_reducible apply kept_dropL1
    | with_reducible apply kept_setChecker
    | with_reducible apply kept_setF
    | with_reducible apply kept_setTState
    | with_reducible apply kept_setCore
    | with_reducible apply kept_modTriad
    | with_reducible apply kept_incF
    | with_reducible apply kept_raise

theorem kept_substituteOrDuplex {m : Nat} {s0 : State} (t : Nat) (p : Nat) (out : Option Nat) {s : State} (hm : Covers m 0x42402) (h1 : Kept m s0 s) :
    Kept m s0 (substituteOrDuplex t p out s) := by
  unfold substituteOrDuplex
  repeat' first
    | with_reducible assumption
    | (intro hx; clear_value x; revert hx; revert x; intro y hy)
    | intro _
    | (subst x)
    | (extract_lets +onlyGivenNames x; refine kept_cut (m := m) (s0 := s0) (x := x) ?_ ?_)
    | (extract_lets +onlyGivenNames x; clear_value x; revert x; intro y)
    | with_reducible exact hm.of rfl
    | with_reducible apply kept_dropL1
    | with_reducible apply kept_setCore
    | with_reducible apply kept_setChecker
    | with_reducible apply kept_setF
    | with_reducible apply kept_setTState
    | with_reducible apply kept_raise
    | with_reducible apply kept_modTriad
    | split

theorem kept_oddLane {m : Nat} {s0 : State} (t : Nat) (cls : Nat) (p : Nat) (rtype : Nat) (addr : Nat) (retire : Nat) {s : State} (hm : Covers m 0x42402) (h1 : Kept m s0 s) :
    Kept m s0 (oddLane t cls p rtype addr retire s) := by
  unfold oddLane
  repeat' first
    | with_reducible assumption
    | (intro hx; clear_value x; revert hx; revert x; intro y hy)
    | intro _
    | (subst x)
    | (extract_lets +onlyGivenNames x; refine kept_cut (m := m) (s0 := s0) (x := x) ?_ ?_)
    | (extract_lets +onlyGivenNames x; clear_value x; revert x; intro y)
    | with_reducible exact hm.of rfl
    | with_reducible apply kept_recordMismatch
    | with_reducible apply kept_startResync
    | with_reducible apply kept_setF
    | with_reducible apply kept_raise
    | with_reducible apply kept_safeHalt
    | with_reducible apply kept_incF
    | with_reducible apply kept_substituteOrDuplex
    | with_reducible apply kept_ite

theorem kept_undecided {m : Nat} {s0 : State} (t : Nat) (rtype : Nat) (addr : Nat) (retire : Nat) {s : State} (hm : Covers m 0x40402) (h1 : Kept m s0 s) :
    Kept m s0 (undecided t rtype addr retire s) := by
  unfold undecided
  repeat' first
    | with_reducible assumption
    | intro _
    | with_reducible exact hm.of rfl
    | with_reducible apply kept_raise
    | with_reducible apply kept_safeHalt
    | with_reducible apply kept_recordMismatch
    | with_reducible apply kept_ite

theorem kept_selfOdd {m : Nat} {s0 : State} (t : Nat) (p : Nat) (instr : Bool) (addr : Nat) (retire : Nat) (twin : Option Nat) {s : State} (hm : Covers m 0x42402) (h1 : Kept m s0 s) :
    Kept m s0 (selfOdd t p instr addr retire twin s) := by
  unfold selfOdd
  repeat' first
    | with_reducible assumption
    | intro _
    | (extract_lets +onlyGivenNames x; clear_value x; revert x; intro y)
    | with_reducible exact hm.of rfl
    | with_reducible apply kept_oddLane
    | with_reducible apply kept_undecided
    | with_reducible apply kept_ite
    | split

theorem kept_applyDecision {m : Nat} {s0 : State} (t : Nat) (d : Decision) (ty : Nat) (cls : Nat) (addr : Nat) (retire : Nat) {s : State} (hm : Covers m 0x42402) (h1 : Kept m s0 s) :
    Kept m s0 (applyDecision t d ty cls addr retire s) := by
  unfold applyDecision
  repeat' first
    | with_reducible assumption
    | intro _
    | with_reducible exact hm.of rfl
    | with_reducible apply kept_oddLane
    | with_reducible apply kept_undecided
    | split

theorem kept_release {m : Nat} {s0 : State} (t : Nat) (r : LaneRec) (waits : Bool) {s : State} (hm : Covers m 0x40000) (h1 : Kept m s0 s) :
    Kept m s0 (release t r waits s) := by
  unfold release
  repeat' first
    | with_reducible assumption
    | intro _
    | with_reducible exact hm.of rfl
    | with_reducible apply kept_modTriad
    | with_reducible apply kept_ite

theorem kept_checkerDisagree {m : Nat} {s0 : State} (t : Nat) (checkLane : Nat) (sxLane : Nat) (cause : Nat) (rtype : Nat) (addr : Nat) (retire : Nat) {s : State} (hm : Covers m 0x40402) (h1 : Kept m s0 s) :
    Kept m s0 (checkerDisagree t checkLane sxLane cause rtype addr retire s) := by
  unfold checkerDisagree
  repeat' first
    | with_reducible assumption
    | intro _
    | with_reducible exact hm.of rfl
    | with_reducible apply kept_sextantFault

theorem kept_execSextantCompare {m : Nat} {s0 : State} (t : Fin 4) (a : LaneRec) (b : LaneRec) (c : LaneRec) (retire : Nat) (kind : FenceKind) (other : Option (Fin 3)) (checker : Option (Fin 4)) {s : State} (hm : Covers m 0x42402) (h1 : Kept m s0 s) :
    KeptO m s0 (execSextantCompare t a b c retire kind other checker s) := by
  unfold execSextantCompare
  repeat' first
    | with_reducible assumption
    | (intro hx; clear_value x; revert hx; revert x; intro y hy)
    | (intro (hw : ∀ t, Kept m s0 t → Kept m s0 (w t)); clear_value w; revert hw; revert w; intro v hv)
    | (intro (hw : ∀ a t, Kept m s0 t → Kept m s0 (w a t)); clear_value w; revert hw; revert w; intro v hv)
    | (intro (hw : ∀ a, Kept m s0 (w a)); clear_value w; revert hw; revert w; intro v hv)
    | intro _
    | (subst x)
    | (extract_lets +onlyGivenNames x; refine kept_cut (m := m) (s0 := s0) (x := x) ?_ ?_)
    | (subst w)
    | (extract_lets +onlyGivenNames w; refine kept_cutF1 (m := m) (s0 := s0) (x := w) ?_ ?_)
    | (extract_lets +onlyGivenNames w; refine kept_cutF2 (m := m) (s0 := s0) (x := w) ?_ ?_)
    | (extract_lets +onlyGivenNames w; refine kept_cutF0 (m := m) (s0 := s0) (x := w) ?_ ?_)
    | (extract_lets +onlyGivenNames x; clear_value x; revert x; intro y)
    | with_reducible apply hv
    | with_reducible exact hm.of rfl
    | with_reducible apply kept_release
    | with_reducible apply kept_modTriad
    | with_reducible apply kept_checkerDisagree
    | with_reducible apply kept_undecided
    | with_reducible apply kept_oddLane
    | with_reducible apply keptO_ite
    | with_reducible apply kept_ite
    | with_reducible apply keptO_next
    | with_reducible apply keptO_fault
    | split

theorem kept_claim {m : Nat} {s0 : State} (t : Nat) (e : Nat) {s : State} (hm : Covers m 0x80) (h1 : Kept m s0 s) :
    Kept m s0 (claim t e s) := by
  unfold claim
  repeat' first
    | with_reducible assumption
    | intro _
    | with_reducible exact hm.of rfl
    | ((with_reducible refine kept_upd_ifiles (hm.of rfl) ?_ ?_) <;> first | with_reducible exact id | with_reducible exact kwf_putFile _ _ _ _ | with_reducible exact kwf_kput 0 _ _ _ | exact fun e => (length_modAt _ _ _).trans e | exact fun e => (List.length_map ..).trans e | exact fun _ => rfl | exact kwf_filter 0 _ _ | exact kwf_foldl_kput 0 _ _ | exact kwf_kput 0 _ _ _ | (with_reducible assumption))
    | with_reducible apply kept_ite

theorem kept_csrWrite {m : Nat} {s0 : State} (t : Nat) (r : LaneRec) {s : State} (hm : Covers m 0x40080) (h1 : Kept m s0 s) :
    Kept m s0 (csrWrite t r s) := by
  unfold csrWrite
  repeat' first
    | with_reducible assumption
    | intro _
    | with_reducible exact hm.of rfl
    | with_reducible apply kept_claim
    | with_reducible apply kept_modTriad
    | with_reducible apply kept_writeMireg
    | with_reducible apply kept_ite

theorem kept_execVotedResponse {m : Nat} {s0 : State} (t : Fin 4) (data : Word) (wr : Bool) {s : State} (hm : Covers m 0x400a0) (h1 : Kept m s0 s) :
    KeptO m s0 (execVotedResponse t data wr s) := by
  unfold execVotedResponse
  repeat' first
    | with_reducible assumption
    | (intro hx; clear_value x; revert hx; revert x; intro y hy)
    | (intro hz; clear_value z; revert hz; revert z; intro y hy)
    | intro _
    | (subst x)
    | (subst z)
    | (extract_lets +onlyGivenNames x; refine kept_cut (m := m) (s0 := s0) (x := x) ?_ ?_)
    | (extract_lets +onlyGivenNames z; refine kept_cut (m := m) (s0 := s0) (x := z.1) ?_ ?_)
    | (extract_lets +onlyGivenNames x; clear_value x; revert x; intro y)
    | with_reducible exact hm.of rfl
    | with_reducible apply kept_modTriad
    | with_reducible apply kept_answer
    | with_reducible apply kept_csrWrite
    | with_reducible apply keptO_ite
    | with_reducible apply kept_ite
    | with_reducible apply keptO_next
    | with_reducible apply keptO_fault
    | split

theorem kept_capture {m : Nat} {s0 : State} (t : Nat) (ev : TrEvent) (retire : Nat) {s : State} (hm : Covers m 0x40000) (h1 : Kept m s0 s) :
    Kept m s0 (capture t ev retire s) := by
  unfold capture
  repeat' first
    | with_reducible assumption
    | intro _
    | (extract_lets +onlyGivenNames x; clear_value x; revert x; intro y)
    | with_reducible exact hm.of rfl
    | with_reducible apply kept_modTriad
    | split

theorem kept_captured {m : Nat} {s0 : State} (t : Nat) (ev : TrEvent) {s : State} (hm : Covers m 0x40000) (h1 : Kept m s0 s) :
    Kept m s0 (captured t ev s) := by
  unfold captured
  repeat' first
    | with_reducible assumption
    | intro _
    | with_reducible exact hm.of rfl
    | with_reducible apply kept_modTriad
    | split

theorem kept_execInputCapture {m : Nat} {s0 : State} (t : Fin 4) (ev : TrEvent) (retire : Nat) {s : State} (hm : Covers m 0x40000) (h1 : Kept m s0 s) :
    KeptO m s0 (execInputCapture t ev retire s) := by
  unfold execInputCapture
  repeat' first
    | with_reducible assumption
    | intro _
    | with_reducible exact hm.of rfl
    | with_reducible apply kept_capture
    | with_reducible apply kept_captured
    | with_reducible apply keptO_ite
    | with_reducible apply kept_ite
    | with_reducible apply keptO_next
    | with_reducible apply keptO_fault

theorem kept_refuseDebugAs {m : Nat} {s0 : State} (t : Nat) (why : AccFault) {s : State} (hm : Covers m 0x422) (h1 : Kept m s0 s) :
    Kept m s0 (refuseDebugAs t why s) := by
  unfold refuseDebugAs
  repeat' first
    | with_reducible assumption
    | intro _
    | with_reducible exact hm.of rfl
    | with_reducible apply kept_raiseReq
    | with_reducible apply kept_deny

theorem kept_debugRead {m : Nat} {s0 : State} (t : Fin 4) (a : Nat) {s : State} (hm : Covers m 0x18002fc32) (h1 : Kept m s0 s) :
    Kept m s0 (debugRead t a s) := by
  unfold debugRead
  repeat' first
    | with_reducible assumption
    | (intro hx; clear_value x; revert hx; revert x; intro y hy)
    | intro _
    | (subst x)
    | (extract_lets +onlyGivenNames x; refine kept_cut (m := m) (s0 := s0) (x := x) ?_ ?_)
    | (extract_lets +onlyGivenNames x; clear_value x; revert x; intro y)
    | with_reducible exact hm.of rfl
    | with_reducible apply kept_refuseDebugAs
    | with_reducible apply kept_fillLine
    | with_reducible apply kept_touchAt
    | with_reducible apply kept_emit
    | with_reducible apply kept_deny
    | with_reducible apply kept_ite
    | split

theorem kept_showLanes {m : Nat} {s0 : State} (t : Nat) (regs : List (Nat × Word)) {s : State} (hm : Covers m 0x40000) (h1 : Kept m s0 s) :
    Kept m s0 (showLanes t regs s) := by
  unfold showLanes
  repeat' first
    | with_reducible assumption
    | intro _
    | (extract_lets +onlyGivenNames x; clear_value x; revert x; intro y)
    | with_reducible exact hm.of rfl
    | with_reducible apply kept_setLane
    | with_reducible apply kept_ite
    | with_reducible apply kept_foldl
    | with_reducible apply kept_foldl1

theorem kept_since {m : Nat} {s0 : State} {a s : State} (r : List Out) (hm : Covers m 0x20) (ha : Kept m s0 a) (h1 : Kept m s0 s) :
    Kept m s0 (since a s r) := by
  obtain ⟨l, hl⟩ := ha.out
  exact ⟨h1.pending, fun c => ⟨(h1.canon c).flds, (h1.canon c).live, (h1.canon c).ifiles, (h1.canon c).tags, (h1.canon c).mem, (h1.canon c).chk, (h1.canon c).triads, (h1.canon c).can, (h1.canon c).anl⟩,
    ⟨r ++ l, by rw [List.append_assoc, hl]; rfl⟩, h1.nfree, fun p hp => by
      cases p <;> first | exact h1.parts _ hp | exact absurd (hm.bit (i := 5) (by decide)) (Bool.eq_false_iff.1 hp)⟩

theorem kept_dmPut {m : Nat} {s0 : State} (t : Nat) (a2 : Nat) {s : State} (hm : Covers m 0x40000) (h1 : Kept m s0 s) :
    Kept m s0 (dmPut t a2 s) := by
  unfold dmPut
  repeat' first
    | with_reducible assumption
    | intro _
    | (extract_lets +onlyGivenNames x; clear_value x; revert x; intro y)
    | with_reducible exact hm.of rfl
    | with_reducible apply kept_modTriad

theorem kept_dmTake {m : Nat} {s0 : State} (t : Nat) (op : DbgOp) (n : Nat) {a : State} {s : State} (hm : Covers m 0x40020) (h1 : Kept m s0 a) (h2 : Kept m s0 s) :
    Kept m s0 (dmTake t op n a s) := by
  unfold dmTake
  repeat' first
    | with_reducible assumption
    | (intro hx; clear_value x; revert hx; revert x; intro y hy)
    | (intro hz; clear_value z; revert hz; revert z; intro y hy)
    | intro _
    | (subst x)
    | (subst z)
    | (extract_lets +onlyGivenNames x; refine kept_cut (m := m) (s0 := s0) (x := x) ?_ ?_)
    | (extract_lets +onlyGivenNames z; refine kept_cut (m := m) (s0 := s0) (x := z.1) ?_ ?_)
    | (extract_lets +onlyGivenNames x; clear_value x; revert x; intro y)
    | with_reducible exact hm.of rfl
    | with_reducible apply kept_dmPut
    | with_reducible apply kept_since
    | with_reducible apply kept_modTriad
    | split

theorem kept_dmWrite {m : Nat} {s0 : State} (t : Nat) (reg : Nat) (a3 : Nat) (run : DbgOp → State → State) {s : State} (hm : Covers m 0x40020) (h1 : ∀ v0 : DbgOp, ∀ v1 : State, Kept m s0 v1 → Kept m s0 (run v0 v1)) (h2 : Kept m s0 s) :
    Kept m s0 (dmWrite t reg a3 run s) := by
  unfold dmWrite
  repeat' first
    | with_reducible assumption
    | (intro hx; clear_value x; revert hx; revert x; intro y hy)
    | (intro (hw : ∀ t, Kept m s0 t → Kept m s0 (w t)); clear_value w; revert hw; revert w; intro v hv)
    | (intro (hw : ∀ a t, Kept m s0 t → Kept m s0 (w a t)); clear_value w; revert hw; revert w; intro v hv)
    | (intro (hw : ∀ a, Kept m s0 (w a)); clear_value w; revert hw; revert w; intro v hv)
    | intro _
    | (subst x)
    | (extract_lets +onlyGivenNames x; refine kept_cut (m := m) (s0 := s0) (x := x) ?_ ?_)
    | (subst w)
    | (extract_lets +onlyGivenNames w; refine kept_cutF1 (m := m) (s0 := s0) (x := w) ?_ ?_)
    | (extract_lets +onlyGivenNames w; refine kept_cutF2 (m := m) (s0 := s0) (x := w) ?_ ?_)
    | (extract_lets +onlyGivenNames w; refine kept_cutF0 (m := m) (s0 := s0) (x := w) ?_ ?_)
    | (extract_lets +onlyGivenNames x; clear_value x; revert x; intro y)
    | with_reducible apply hv
    | with_reducible exact hm.of rfl
    | with_reducible apply h1
    | with_reducible apply kept_modTriad
    | with_reducible apply kept_dmTake
    | with_reducible apply kept_ite
    | split

theorem kept_serveMaint_plain {m : Nat} {s0 : State} (t : Fin 4) (op : DbgOp) {s : State} (hm : Covers m 0x18002fc32) (h1 : Kept m s0 s) :
    Kept m s0 (serveMaint.plain t op s) := by
  unfold serveMaint.plain
  repeat' first
    | with_reducible assumption
    | intro _
    | with_reducible exact hm.of rfl
    | with_reducible apply kept_answer
    | with_reducible apply kept_debugRead
    | with_reducible apply kept_emit
    | split

theorem kept_serveMaint {m : Nat} {s0 : State} (t : Fin 4) (op : DbgOp) {s : State} (hm : Covers m 0x18006fc32) (h1 : Kept m s0 s) :
    Kept m s0 (serveMaint t op s) := by
  unfold serveMaint
  repeat' first
    | with_reducible assumption
    | intro _
    | with_reducible exact hm.of rfl
    | with_reducible apply kept_answer
    | with_reducible apply kept_dmWrite
    | with_reducible apply kept_serveMaint_plain
    | split

theorem kept_trapLanes {m : Nat} {s0 : State} (t : Nat) (pc : Word) (mach : Bool) {s : State} (hm : Covers m 0x40000) (h1 : Kept m s0 s) :
    Kept m s0 (trapLanes t pc mach s) := by
  unfold trapLanes
  repeat' first
    | with_reducible assumption
    | intro _
    | (extract_lets +onlyGivenNames x; clear_value x; revert x; intro y)
    | with_reducible exact hm.of rfl
    | with_reducible apply kept_setLane
    | with_reducible apply kept_ite
    | with_reducible apply kept_foldl
    | with_reducible apply kept_foldl1

theorem kept_effectOf {m : Nat} {s0 : State} (t : Fin 4) (ev : TrEvent) (trap : Option (Word × Bool)) {s : State} (hm : Covers m 0x18006fc32) (h1 : Kept m s0 s) :
    Kept m s0 (effectOf t ev trap s) := by
  unfold effectOf
  repeat' first
    | with_reducible assumption
    | (intro hx; clear_value x; revert hx; revert x; intro y hy)
    | intro _
    | (subst x)
    | (extract_lets +onlyGivenNames x; refine kept_cut (m := m) (s0 := s0) (x := x) ?_ ?_)
    | (extract_lets +onlyGivenNames x; clear_value x; revert x; intro y)
    | with_reducible exact hm.of rfl
    | with_reducible apply kept_modTriad
    | with_reducible apply kept_trapLanes
    | with_reducible apply kept_dropLanes
    | with_reducible apply kept_serveMaint
    | with_reducible apply kept_ite
    | split

theorem kept_takeEffect {m : Nat} {s0 : State} (t : Fin 4) (trap : Option (Word × Bool)) {s : State} (hm : Covers m 0x18006fc32) (h1 : Kept m s0 s) :
    Kept m s0 (takeEffect t trap s) := by
  unfold takeEffect
  repeat' first
    | with_reducible assumption
    | intro _
    | with_reducible exact hm.of rfl
    | with_reducible apply kept_effectOf
    | with_reducible apply kept_modTriad
    | with_reducible apply kept_ite
    | split

theorem kept_execTaggedEventEffect {m : Nat} {s0 : State} (t : Fin 4) (trap : Option (Word × Bool)) (regs : List (Nat × Word)) {s : State} (hm : Covers m 0x18006fc32) (h1 : Kept m s0 s) :
    KeptO m s0 (execTaggedEventEffect t trap regs s) := by
  unfold execTaggedEventEffect
  repeat' first
    | with_reducible assumption
    | intro _
    | with_reducible exact hm.of rfl
    | with_reducible apply kept_takeEffect
    | with_reducible apply kept_showLanes
    | with_reducible apply keptO_ite
    | with_reducible apply kept_ite
    | with_reducible apply keptO_next
    | with_reducible apply keptO_fault

theorem kept_execWfiWake {m : Nat} {s0 : State} (t : Fin 4) (next : Word) (mach : Bool) (regs : List (Nat × Word)) {s : State} (hm : Covers m 0x18006fc32) (h1 : Kept m s0 s) :
    KeptO m s0 (execWfiWake t next mach regs s) := by
  unfold execWfiWake
  repeat' first
    | with_reducible assumption
    | (intro hx; clear_value x; revert hx; revert x; intro y hy)
    | intro _
    | (subst x)
    | (extract_lets +onlyGivenNames x; refine kept_cut (m := m) (s0 := s0) (x := x) ?_ ?_)
    | (extract_lets +onlyGivenNames x; clear_value x; revert x; intro y)
    | with_reducible exact hm.of rfl
    | with_reducible apply kept_modTriad
    | with_reducible apply kept_showLanes
    | with_reducible apply kept_takeEffect
    | with_reducible apply keptO_ite
    | with_reducible apply kept_ite
    | with_reducible apply keptO_next
    | with_reducible apply keptO_fault
    | with_reducible apply kept_iter
    | split

theorem kept_scrubbed {m : Nat} {s0 : State} (t : Nat) (l : L1Line) (p : Nat) {s : State} (hm : Covers m 0x2000) (h1 : Kept m s0 s) :
    Kept m s0 (scrubbed t l p s) := by
  unfold scrubbed
  repeat' first
    | with_reducible assumption
    | (intro hx; clear_value x; revert hx; revert x; intro y hy)
    | intro _
    | (subst x)
    | (extract_lets +onlyGivenNames x; refine kept_cut (m := m) (s0 := s0) (x := x) ?_ ?_)
    | (extract_lets +onlyGivenNames x; clear_value x; revert x; intro y)
    | with_reducible exact hm.of rfl
    | (with_reducible refine kept_upd_caches (hm.of rfl) ?_; with_reducible assumption)
    | with_reducible apply kept_modLine
    | with_reducible apply kept_ite
    | with_reducible apply kept_foldl
    | with_reducible apply kept_foldl1

theorem kept_scrubLaneWord {m : Nat} {s0 : State} (t : Nat) (p : Nat) (cw : Nat) (tag : Nat) (l : L1Line) {s : State} (hm : Covers m 0x18006fc02) (h1 : Kept m s0 s) :
    Kept m s0 (scrubLaneWord t p cw tag l s) := by
  unfold scrubLaneWord
  repeat' first
    | with_reducible assumption
    | intro _
    | (extract_lets +onlyGivenNames x; clear_value x; revert x; intro y)
    | with_reducible exact hm.of rfl
    | with_reducible apply kept_countEvent
    | with_reducible apply kept_modTriad
    | with_reducible apply kept_modLine
    | with_reducible apply kept_recordCorrection
    | with_reducible apply kept_selfOdd
    | with_reducible apply kept_recordLost
    | with_reducible apply kept_poisonIn
    | with_reducible apply kept_ite
    | split

theorem kept_scrubLine {m : Nat} {s0 : State} (t : Nat) (tag : Nat) {s : State} (l : L1Line) (hm : Covers m 0x18006fc02) (h1 : Kept m s0 s) :
    Kept m s0 (scrubLine t tag s l) := by
  unfold scrubLine
  repeat' first
    | with_reducible assumption
    | (intro hx; clear_value x; revert hx; revert x; intro y hy)
    | intro _
    | (subst x)
    | (extract_lets +onlyGivenNames x; refine kept_cut (m := m) (s0 := s0) (x := x) ?_ ?_)
    | (extract_lets +onlyGivenNames x; clear_value x; revert x; intro y)
    | with_reducible exact hm.of rfl
    | with_reducible apply kept_scrubbed
    | with_reducible apply kept_scrubLaneWord
    | with_reducible apply kept_checkerDisagree
    | with_reducible apply kept_applyDecision
    | with_reducible apply kept_ite
    | with_reducible apply kept_foldl
    | with_reducible apply kept_foldl1
    | split

theorem kept_execSignatureBoundary {m : Nat} {s0 : State} (t : Fin 4) (a : List Word) (b : List Word) (c : List Word) (lines : List L1Line) (checker : Option (Fin 4)) {s : State} (hm : Covers m 0x18006fc02) (h1 : Kept m s0 s) :
    KeptO m s0 (execSignatureBoundary t a b c lines checker s) := by
  unfold execSignatureBoundary
  repeat' first
    | with_reducible assumption
    | (intro hx; clear_value x; revert hx; revert x; intro y hy)
    | intro _
    | (subst x)
    | (extract_lets +onlyGivenNames x; refine kept_cut (m := m) (s0 := s0) (x := x) ?_ ?_)
    | (extract_lets +onlyGivenNames x; clear_value x; revert x; intro y)
    | with_reducible exact hm.of rfl
    | with_reducible apply kept_modTriad
    | with_reducible apply kept_setLane
    | with_reducible apply kept_checkerDisagree
    | with_reducible apply kept_scrubLine
    | with_reducible apply kept_applyDecision
    | with_reducible apply keptO_ite
    | with_reducible apply kept_ite
    | with_reducible apply keptO_next
    | with_reducible apply keptO_fault
    | with_reducible apply kept_foldl
    | with_reducible apply kept_foldl1
    | split

theorem kept_writeVrgn {m : Nat} {s0 : State} (r : Req) (k : Nat) (a3 : Nat) {s : State} (hm : Covers m 0x402) (h1 : Kept m s0 s) :
    Kept m s0 (writeVrgn r k a3 s) := by
  unfold writeVrgn
  repeat' first
    | with_reducible assumption
    | intro _
    | (extract_lets +onlyGivenNames x; clear_value x; revert x; intro y)
    | with_reducible exact hm.of rfl
    | with_reducible apply kept_setF
    | with_reducible apply kept_raiseReq
    | with_reducible apply kept_ite
    | split

theorem kept_execVrgnWrite {m : Nat} {s0 : State} (r : Req) (k : Fin 16) (val : Word) {s : State} (hm : Covers m 0x402) (h1 : Kept m s0 s) :
    KeptO m s0 (execVrgnWrite r k val s) := by
  unfold execVrgnWrite
  repeat' first
    | with_reducible assumption
    | intro _
    | with_reducible exact hm.of rfl
    | with_reducible apply kept_writeVrgn
    | with_reducible apply keptO_next
    | with_reducible apply keptO_fault

theorem kept_emptyQuar {m : Nat} {s0 : State} (t : Nat) (p : Nat) {s : State} (hm : Covers m 0x2) (h1 : Kept m s0 s) :
    Kept m s0 (emptyQuar t p s) := by
  unfold emptyQuar
  repeat' first
    | with_reducible assumption
    | intro _
    | (extract_lets +onlyGivenNames x; clear_value x; revert x; intro y)
    | with_reducible exact hm.of rfl
    | with_reducible apply kept_setF
    | with_reducible apply kept_ite

theorem kept_beginStart {m : Nat} {s0 : State} (t : Nat) {s : State} (hm : Covers m 0x42002) (h1 : Kept m s0 s) :
    Kept m s0 (beginStart t s) := by
  unfold beginStart
  repeat' first
    | with_reducible assumption
    | (intro hx; clear_value x; revert hx; revert x; intro y hy)
    | intro _
    | (subst x)
    | (extract_lets +onlyGivenNames x; refine kept_cut (m := m) (s0 := s0) (x := x) ?_ ?_)
    | (extract_lets +onlyGivenNames x; clear_value x; revert x; intro y)
    | with_reducible exact hm.of rfl
    | with_reducible apply kept_clearForced
    | with_reducible apply kept_emptyQuar
    | with_reducible apply kept_bumpTriad
    | with_reducible apply kept_dropLanes
    | with_reducible apply kept_setCore
    | with_reducible apply kept_setChecker
    | with_reducible apply kept_setF
    | with_reducible apply kept_setTState
    | with_reducible apply kept_modTriad
    | with_reducible apply kept_ite
    | with_reducible apply kept_forN

theorem kept_enterRun {m : Nat} {s0 : State} (t : Nat) (a2 : Nat) {s : State} (hm : Covers m 0x40002) (h1 : Kept m s0 s) :
    Kept m s0 (enterRun t a2 s) := by
  unfold enterRun
  repeat' first
    | with_reducible assumption
    | (intro hx; clear_value x; revert hx; revert x; intro y hy)
    | intro _
    | (subst x)
    | (extract_lets +onlyGivenNames x; refine kept_cut (m := m) (s0 := s0) (x := x) ?_ ?_)
    | (extract_lets +onlyGivenNames x; clear_value x; revert x; intro y)
    | with_reducible exact hm.of rfl
    | with_reducible apply kept_setChecker
    | with_reducible apply kept_setTState
    | with_reducible apply kept_modTriad
    | with_reducible apply kept_setLane
    | with_reducible apply kept_foldl
    | with_reducible apply kept_foldl1

theorem kept_startTriad {m : Nat} {s0 : State} (r : Req) (t : Nat) {s : State} (hm : Covers m 0x42402) (h1 : Kept m s0 s) :
    Kept m s0 (startTriad r t s) := by
  unfold startTriad
  repeat' first
    | with_reducible assumption
    | intro _
    | (extract_lets +onlyGivenNames x; clear_value x; revert x; intro y)
    | with_reducible exact hm.of rfl
    | with_reducible apply kept_beginStart
    | with_reducible apply kept_raiseReq
    | with_reducible apply kept_ite
    | split

theorem kept_execTriadStart {m : Nat} {s0 : State} (r : Req) (t : Fin 4) {s : State} (hm : Covers m 0x42402) (h1 : Kept m s0 s) :
    KeptO m s0 (execTriadStart r t s) := by
  unfold execTriadStart
  repeat' first
    | with_reducible assumption
    | intro _
    | with_reducible exact hm.of rfl
    | with_reducible apply kept_startTriad
    | with_reducible apply keptO_next
    | with_reducible apply keptO_fault

theorem kept_placeSpares {m : Nat} {s0 : State} (t : Nat) (p : Nat) (f : List (Fin 14)) (l : List Nat) {s : State} (hm : Covers m 0x402) (h1 : Kept m s0 s) :
    Kept m s0 (placeSpares t p f l s).1 := by
  induction l generalizing s with
  | nil => exact h1
  | cons e r ih =>
    unfold placeSpares
    show Kept1 m s0 _
    repeat' first
      | with_reducible assumption
      | intro _
      | with_reducible exact hm.of rfl
      | with_reducible apply ih
      | with_reducible apply kept_setCore
      | with_reducible apply kept_raise
      | with_reducible apply kept_setF
      | with_reducible apply kept1_ite
      | with_reducible apply kept_ite
      | with_reducible apply kept1_mk
      | with_reducible apply kept1_of
      | split

theorem kept_startDone {m : Nat} {s0 : State} (t : Nat) (fails : BitVec 3) (inj : Option (Fin 10 × Fin 4)) (spareFails : List (Fin 14)) (checker : Option (Fin 10 × Fin 4)) (retire : Nat) {s : State} (hm : Covers m 0x40402) (h1 : Kept m s0 s) :
    Kept m s0 (startDone t fails inj spareFails checker retire s) := by
  unfold startDone
  repeat' first
    | with_reducible assumption
    | (intro hx; clear_value x; revert hx; revert x; intro y hy)
    | (intro (hw : ∀ t, Kept m s0 t → Kept m s0 (w t)); clear_value w; revert hw; revert w; intro v hv)
    | (intro (hw : ∀ a t, Kept m s0 t → Kept m s0 (w a t)); clear_value w; revert hw; revert w; intro v hv)
    | (intro (hw : ∀ a, Kept m s0 (w a)); clear_value w; revert hw; revert w; intro v hv)
    | intro _
    | (subst x)
    | (extract_lets +onlyGivenNames x; refine kept_cut (m := m) (s0 := s0) (x := x) ?_ ?_)
    | (subst w)
    | (extract_lets +onlyGivenNames w; refine kept_cutF1 (m := m) (s0 := s0) (x := w) ?_ ?_)
    | (extract_lets +onlyGivenNames w; refine kept_cutF2 (m := m) (s0 := s0) (x := w) ?_ ?_)
    | (extract_lets +onlyGivenNames w; refine kept_cutF0 (m := m) (s0 := s0) (x := w) ?_ ?_)
    | (extract_lets +onlyGivenNames x; clear_value x; revert x; intro y)
    | with_reducible apply hv
    | with_reducible exact hm.of rfl
    | with_reducible apply kept_raise
    | with_reducible apply kept_setF
    | with_reducible apply kept_incF
    | with_reducible apply kept_checkerDisagree
    | with_reducible apply kept_sextantFault
    | with_reducible apply kept_addF
    | with_reducible apply kept_enterRun
    | with_reducible apply kept_setCore
    | with_reducible apply kept_placeSpares
    | with_reducible apply kept_safeHalt
    | with_reducible apply kept_ite
    | with_reducible apply kept_foldl
    | with_reducible apply kept_foldl1
    | (with_reducible refine Kept1.of_eq (kept_placeSpares _ _ (hm.of rfl) ?_) (by assumption))
    | (with_reducible refine Kept1.of_eq (kept_placeSpares _ _ _ (hm.of rfl) ?_) (by assumption))
    | (with_reducible refine Kept1.of_eq (kept_placeSpares _ (hm.of rfl) ?_) (by assumption))
    | split

theorem kept_shaltTriad {m : Nat} {s0 : State} (r : Req) (t : Nat) {s : State} (hm : Covers m 0x40402) (h1 : Kept m s0 s) :
    Kept m s0 (shaltTriad r t s) := by
  unfold shaltTriad
  repeat' first
    | with_reducible assumption
    | intro _
    | with_reducible exact hm.of rfl
    | with_reducible apply kept_raise
    | with_reducible apply kept_safeHalt
    | with_reducible apply kept_raiseReq
    | with_reducible apply kept_ite

theorem kept_fencedFailed {m : Nat} {s0 : State} (t : Nat) {s : State} (hm : Covers m 0x42402) (h1 : Kept m s0 s) :
    Kept m s0 (fencedFailed t s) := by
  unfold fencedFailed
  repeat' first
    | with_reducible assumption
    | intro _
    | (extract_lets +onlyGivenNames x; clear_value x; revert x; intro y)
    | with_reducible exact hm.of rfl
    | with_reducible apply kept_substituteOrDuplex
    | with_reducible apply kept_setF
    | with_reducible apply kept_ite

theorem kept_execLogicSelftestDone {m : Nat} {s0 : State} (t : Fin 4) (pass : Bool) {s : State} (hm : Covers m 0x42402) (h1 : Kept m s0 s) :
    KeptO m s0 (execLogicSelftestDone t pass s) := by
  unfold execLogicSelftestDone
  repeat' first
    | with_reducible assumption
    | intro _
    | with_reducible exact hm.of rfl
    | with_reducible apply kept_modTriad
    | with_reducible apply kept_fencedFailed
    | with_reducible apply kept_raise
    | with_reducible apply keptO_ite
    | with_reducible apply kept_ite
    | with_reducible apply keptO_next
    | with_reducible apply keptO_fault

theorem kept_execRejoinBoundary {m : Nat} {s0 : State} (t : Fin 4) (regs : List Word) {s : State} (hm : Covers m 0x40000) (h1 : Kept m s0 s) :
    KeptO m s0 (execRejoinBoundary t regs s) := by
  unfold execRejoinBoundary
  repeat' first
    | with_reducible assumption
    | (intro hx; clear_value x; revert hx; revert x; intro y hy)
    | intro _
    | (subst x)
    | (extract_lets +onlyGivenNames x; refine kept_cut (m := m) (s0 := s0) (x := x) ?_ ?_)
    | (extract_lets +onlyGivenNames x; clear_value x; revert x; intro y)
    | with_reducible exact hm.of rfl
    | with_reducible apply kept_modTriad
    | with_reducible apply kept_setLane
    | with_reducible apply kept_showLanes
    | with_reducible apply keptO_ite
    | with_reducible apply kept_ite
    | with_reducible apply keptO_next
    | with_reducible apply keptO_fault
    | split

theorem kept_flipReg {m : Nat} {s0 : State} (t : Nat) {s : State} (e : Fin 3 × Fin 92 × Word) (hm : Covers m 0x40000) (h1 : Kept m s0 s) :
    Kept m s0 (flipReg t s e) := by
  unfold flipReg
  repeat' first
    | with_reducible assumption
    | intro _
    | (extract_lets +onlyGivenNames x; clear_value x; revert x; intro y)
    | with_reducible exact hm.of rfl
    | with_reducible apply kept_setLane

theorem kept_execRejoinCheck {m : Nat} {s0 : State} (t : Fin 4) (upset : List (Fin 3 × Fin 92 × Word)) (checker : Option (Fin 4)) {s : State} (hm : Covers m 0x42402) (h1 : Kept m s0 s) :
    KeptO m s0 (execRejoinCheck t upset checker s) := by
  unfold execRejoinCheck
  repeat' first
    | with_reducible assumption
    | (intro hx; clear_value x; revert hx; revert x; intro y hy)
    | intro _
    | (subst x)
    | (extract_lets +onlyGivenNames x; refine kept_cut (m := m) (s0 := s0) (x := x) ?_ ?_)
    | (extract_lets +onlyGivenNames x; clear_value x; revert x; intro y)
    | with_reducible exact hm.of rfl
    | with_reducible apply kept_flipReg
    | with_reducible apply kept_checkerDisagree
    | with_reducible apply kept_undecided
    | with_reducible apply kept_fencedFailed
    | with_reducible apply kept_dropLanes
    | with_reducible apply kept_setChecker
    | with_reducible apply kept_setF
    | with_reducible apply kept_setTState
    | with_reducible apply kept_setCore
    | with_reducible apply kept_raise
    | with_reducible apply kept_modTriad
    | with_reducible apply keptO_ite
    | with_reducible apply kept_ite
    | with_reducible apply keptO_next
    | with_reducible apply keptO_fault
    | with_reducible apply kept_foldl
    | with_reducible apply kept_foldl1
    | split

theorem kept_execSubstitutionSwitch {m : Nat} {s0 : State} (t : Fin 4) {s : State} (hm : Covers m 0x40002) (h1 : Kept m s0 s) :
    KeptO m s0 (execSubstitutionSwitch t s) := by
  unfold execSubstitutionSwitch
  repeat' first
    | with_reducible assumption
    | (intro hx; clear_value x; revert hx; revert x; intro y hy)
    | intro _
    | (subst x)
    | (extract_lets +onlyGivenNames x; refine kept_cut (m := m) (s0 := s0) (x := x) ?_ ?_)
    | (extract_lets +onlyGivenNames x; clear_value x; revert x; intro y)
    | with_reducible exact hm.of rfl
    | with_reducible apply kept_incF
    | with_reducible apply kept_setF
    | with_reducible apply kept_setCore
    | with_reducible apply kept_modTriad
    | with_reducible apply keptO_ite
    | with_reducible apply kept_ite
    | with_reducible apply keptO_next
    | with_reducible apply keptO_fault
    | split

theorem kept_execPoolSelftest {m : Nat} {s0 : State} (pass : Bool) {s : State} (hm : Covers m 0x100402) (h1 : Kept m s0 s) :
    KeptO m s0 (execPoolSelftest pass s) := by
  unfold execPoolSelftest
  repeat' first
    | with_reducible assumption
    | (intro hx; clear_value x; revert hx; revert x; intro y hy)
    | intro _
    | (subst x)
    | (extract_lets +onlyGivenNames x; refine kept_cut (m := m) (s0 := s0) (x := x) ?_ ?_)
    | (extract_lets +onlyGivenNames x; clear_value x; revert x; intro y)
    | with_reducible exact hm.of rfl
    | (with_reducible refine kept_upd_poolNext (hm.of rfl) ?_; with_reducible assumption)
    | with_reducible apply kept_raise
    | with_reducible apply kept_setCore
    | with_reducible apply keptO_ite
    | with_reducible apply kept_ite
    | with_reducible apply keptO_next
    | with_reducible apply keptO_fault
    | split

theorem kept_xtestGo {m : Nat} {s0 : State} (r : Req) (core : Nat) {s : State} (hm : Covers m 0x2) (h1 : Kept m s0 s) :
    Kept m s0 (xtestGo r core s) := by
  unfold xtestGo
  repeat' first
    | with_reducible assumption
    | (intro hx; clear_value x; revert hx; revert x; intro y hy)
    | intro _
    | (subst x)
    | (extract_lets +onlyGivenNames x; refine kept_cut (m := m) (s0 := s0) (x := x) ?_ ?_)
    | (extract_lets +onlyGivenNames x; clear_value x; revert x; intro y)
    | with_reducible exact hm.of rfl
    | with_reducible apply kept_setF
    | with_reducible apply kept_setCore
    | with_reducible apply kept_ite

theorem kept_execXtestGo {m : Nat} {s0 : State} (r : Req) (core : Fin 16) {s : State} (hm : Covers m 0x2) (h1 : Kept m s0 s) :
    KeptO m s0 (execXtestGo r core s) := by
  unfold execXtestGo
  repeat' first
    | with_reducible assumption
    | intro _
    | with_reducible exact hm.of rfl
    | with_reducible apply kept_xtestGo
    | with_reducible apply keptO_next
    | with_reducible apply keptO_fault

theorem kept_poolEntered {m : Nat} {s0 : State} {s : State} (hm : Covers m 0x42402) (h1 : Kept m s0 s) :
    Kept m s0 (poolEntered s) := by
  unfold poolEntered
  repeat' first
    | with_reducible assumption
    | intro _
    | with_reducible exact hm.of rfl
    | with_reducible apply kept_substituteOrDuplex
    | with_reducible apply kept_ite
    | split

theorem kept_execXtestDone {m : Nat} {s0 : State} (pass : Bool) {s : State} (hm : Covers m 0x42402) (h1 : Kept m s0 s) :
    KeptO m s0 (execXtestDone pass s) := by
  unfold execXtestDone
  repeat' first
    | with_reducible assumption
    | (intro hx; clear_value x; revert hx; revert x; intro y hy)
    | intro _
    | (subst x)
    | (extract_lets +onlyGivenNames x; refine kept_cut (m := m) (s0 := s0) (x := x) ?_ ?_)
    | (extract_lets +onlyGivenNames x; clear_value x; revert x; intro y)
    | with_reducible exact hm.of rfl
    | with_reducible apply kept_setF
    | with_reducible apply kept_poolEntered
    | with_reducible apply kept_raise
    | with_reducible apply kept_setCore
    | with_reducible apply keptO_ite
    | with_reducible apply kept_ite
    | with_reducible apply keptO_next
    | with_reducible apply keptO_fault
    | split

theorem kept_injPoints {m : Nat} {s0 : State} (t : Nat) (fl : List (Fin 4)) (wrong : Option (Fin 5)) (checker : Option (Fin 5 × Fin 4)) (rt : Nat) (n : Nat) (p : Nat) {s : State} (hm : Covers m 0x40402) (h1 : Kept m s0 s) :
    Kept m s0 (injPoints t fl wrong checker rt n p s) := by
  induction n generalizing p s with
  | zero =>
    unfold injPoints
    repeat' first
      | with_reducible assumption
      | with_reducible exact hm.of rfl
      | with_reducible apply kept_incF
      | with_reducible apply kept_sextantFault
      | with_reducible apply kept_checkerDisagree
      | with_reducible apply kept_setF
  | succ n ih =>
    unfold injPoints
    repeat' first
      | with_reducible assumption
      | (intro hx; clear_value x; revert hx; revert x; intro y hy)
      | (intro hz; clear_value z; revert hz; revert z; intro y hy)
      | (intro (hw : ∀ t, Kept m s0 t → Kept m s0 (w t)); clear_value w; revert hw; revert w; intro v hv)
      | (intro (hw : ∀ a t, Kept m s0 t → Kept m s0 (w a t)); clear_value w; revert hw; revert w; intro v hv)
      | (intro (hw : ∀ a, Kept m s0 (w a)); clear_value w; revert hw; revert w; intro v hv)
      | intro _
      | (subst x)
      | (subst z)
      | (extract_lets +onlyGivenNames x; refine kept_cut (m := m) (s0 := s0) (x := x) ?_ ?_)
      | (extract_lets +onlyGivenNames z; refine kept_cut (m := m) (s0 := s0) (x := z.1) ?_ ?_)
      | (subst w)
      | (extract_lets +onlyGivenNames w; refine kept_cutF1 (m := m) (s0 := s0) (x := w) ?_ ?_)
      | (extract_lets +onlyGivenNames w; refine kept_cutF2 (m := m) (s0 := s0) (x := w) ?_ ?_)
      | (extract_lets +onlyGivenNames w; refine kept_cutF0 (m := m) (s0 := s0) (x := w) ?_ ?_)
      | (extract_lets +onlyGivenNames x; clear_value x; revert x; intro y)
      | with_reducible apply hv
      | with_reducible exact hm.of rfl
      | with_reducible apply ih
      | with_reducible apply kept_incF
      | with_reducible apply kept_sextantFault
      | with_reducible apply kept_checkerDisagree
      | with_reducible apply kept_setF
      | with_reducible apply kept_ite
      | split

theorem kept_execInjectionSequence {m : Nat} {s0 : State} (t : Fin 4) (flagged : List (Fin 4)) (wrongRelease : Option (Fin 5)) (checker : Option (Fin 5 × Fin 4)) (retire : Nat) {s : State} (hm : Covers m 0x40402) (h1 : Kept m s0 s) :
    KeptO m s0 (execInjectionSequence t flagged wrongRelease checker retire s) := by
  unfold execInjectionSequence
  repeat' first
    | with_reducible assumption
    | (intro hx; clear_value x; revert hx; revert x; intro y hy)
    | intro _
    | (subst x)
    | (extract_lets +onlyGivenNames x; refine kept_cut (m := m) (s0 := s0) (x := x) ?_ ?_)
    | (extract_lets +onlyGivenNames x; clear_value x; revert x; intro y)
    | with_reducible exact hm.of rfl
    | with_reducible apply kept_modTriad
    | with_reducible apply kept_injPoints
    | with_reducible apply keptO_ite
    | with_reducible apply kept_ite
    | with_reducible apply keptO_next
    | with_reducible apply keptO_fault

end Sys2Proof.Machine
end

