-- ==== Sys2Proof/Laws/KeptRings.lean ====
section
/-! SUPPORT. What the operations of Machine/Rings.lean keep (Safety.lean, `Kept`): one lemma each, which cites those of the operations it calls. -/

namespace Sys2Proof.Machine

theorem kept_pushOp {m : Nat} {s0 : State} {s : State} (o : QOp) (hm : Covers m 0x40) (h1 : Kept m s0 s) :
    Kept m s0 (pushOp s o) := by
  unfold pushOp
  repeat' first
    | with_reducible assumption
    | intro _
    | with_reducible exact hm.of rfl
    | (with_reducible refine kept_upd_qops (hm.of rfl) ?_; with_reducible assumption)

theorem kept_pauseQueue {m : Nat} {s0 : State} {s : State} (Q : Nat) (hm : Covers m 0x2) (h1 : Kept m s0 s) :
    Kept m s0 (pauseQueue s Q) := by
  unfold pauseQueue
  repeat' first
    | with_reducible assumption
    | intro _
    | with_reducible exact hm.of rfl
    | with_reducible apply kept_setF

theorem kept_staleDrop {m : Nat} {s0 : State} {s : State} (Q : Nat) (n : Nat) (hm : Covers m 0x602) (h1 : Kept m s0 s) :
    Kept m s0 (staleDrop s Q n) := by
  unfold staleDrop
  repeat' first
    | with_reducible assumption
    | intro _
    | with_reducible exact hm.of rfl
    | with_reducible apply kept_raiseOnce
    | with_reducible apply kept_setF
    | with_reducible apply kept_addF
    | with_reducible apply kept_ite

theorem kept_touchEntries {m : Nat} {s0 : State} {s : State} (Q : Nat) (i : Nat) (a : Scan) (hm : Covers m 0x18002fc12) (h1 : Kept m s0 s) :
    Kept m s0 (touchEntries s Q i a) := by
  unfold touchEntries
  repeat' first
    | with_reducible assumption
    | intro _
    | with_reducible exact hm.of rfl
    | with_reducible apply kept_touchCw
    | with_reducible apply kept_forN
    | split

theorem kept_takeEntry {m : Nat} {s0 : State} {s : State} (Q : Nat) (hm : Covers m 0x18002fe52) (h1 : Kept m s0 s) :
    Kept m s0 (takeEntry s Q) := by
  unfold takeEntry
  repeat' first
    | with_reducible assumption
    | (intro hx; clear_value x; revert hx; revert x; intro y hy)
    | intro _
    | (subst x)
    | (extract_lets +onlyGivenNames x; refine kept_cut (m := m) (s0 := s0) (x := x) ?_ ?_)
    | (extract_lets +onlyGivenNames x; clear_value x; revert x; intro y)
    | with_reducible exact hm.of rfl
    | with_reducible apply kept_pushOp
    | with_reducible apply kept_touchEntries
    | with_reducible apply kept_pauseQueue
    | with_reducible apply kept_setF
    | with_reducible apply kept_staleDrop
    | with_reducible apply kept_ite
    | split

theorem kept_modOp {m : Nat} {s0 : State} {s : State} (Q : Nat) (idx : Nat) (f : QOp → QOp) (hm : Covers m 0x40) (h1 : Kept m s0 s) :
    Kept m s0 (modOp s Q idx f) := by
  unfold modOp
  repeat' first
    | with_reducible assumption
    | intro _
    | with_reducible exact hm.of rfl
    | (with_reducible refine kept_upd_qops (hm.of rfl) ?_; with_reducible assumption)
    | with_reducible apply kept_ite

theorem kept_finish {m : Nat} {s0 : State} {s : State} (o : QOp) (d : QDone) (hm : Covers m 0x40) (h1 : Kept m s0 s) :
    Kept m s0 (finish s o d) := by
  unfold finish
  repeat' first
    | with_reducible assumption
    | intro _
    | with_reducible exact hm.of rfl
    | with_reducible apply kept_modOp

theorem kept_starting {m : Nat} {s0 : State} (Q : Nat) (a2 : Option QOp) {s : State} (k : QOp → State) (hm : Covers m 0x642) (h1 : Kept m s0 s) (h2 : ∀ v0 : QOp, Kept m s0 (k v0)) :
    Kept m s0 (starting Q a2 s k) := by
  unfold starting
  repeat' first
    | with_reducible assumption
    | intro _
    | with_reducible exact hm.of rfl
    | with_reducible apply h2
    | with_reducible apply kept_finish
    | with_reducible apply kept_staleDrop
    | with_reducible apply kept_ite
    | split

theorem kept_takePosted {m : Nat} {s0 : State} (Q : Nat) {a2 : State} (none' : State → State) (k : QOp → State → State) (hm : Covers m 0x642) (h1 : Kept m s0 a2) (h2 : ∀ v0 : State, Kept m s0 v0 → Kept m s0 (none' v0)) (h3 : ∀ v0 : QOp, ∀ v1 : State, Kept m s0 v1 → Kept m s0 (k v0 v1)) :
    Kept m s0 (takePosted Q a2 none' k) := by
  unfold takePosted
  repeat' first
    | with_reducible assumption
    | (intro hx; clear_value x; revert hx; revert x; intro y hy)
    | intro _
    | (subst x)
    | (extract_lets +onlyGivenNames x; refine kept_cut (m := m) (s0 := s0) (x := x) ?_ ?_)
    | (extract_lets +onlyGivenNames x; clear_value x; revert x; intro y)
    | with_reducible exact hm.of rfl
    | with_reducible apply h2
    | with_reducible apply h3
    | with_reducible apply kept_finish
    | with_reducible apply kept_staleDrop
    | with_reducible apply kept_ite
    | with_reducible apply kept_foldl
    | with_reducible apply kept_foldl1
    | split

theorem kept_fillPosted {m : Nat} {s0 : State} (Q : Nat) (req : Nat) (o : QOp) (b : List Byte) (d : QDone) {s : State} (hm : Covers m 0x1800efc52) (h1 : Kept m s0 s) :
    Kept m s0 (fillPosted Q req o b d s) := by
  unfold fillPosted
  repeat' first
    | with_reducible assumption
    | intro _
    | (extract_lets +onlyGivenNames x; clear_value x; revert x; intro y)
    | with_reducible exact hm.of rfl
    | with_reducible apply kept_finish
    | with_reducible apply kept_useFree
    | with_reducible apply kept_writeMem
    | with_reducible apply kept_ite

theorem kept_startOp {m : Nat} {s0 : State} {s : State} (o : QOp) (hm : Covers m 0x40) (h1 : Kept m s0 s) :
    Kept m s0 (startOp s o) := by
  unfold startOp
  repeat' first
    | with_reducible assumption
    | intro _
    | with_reducible exact hm.of rfl
    | with_reducible apply kept_modOp

theorem kept_postOp {m : Nat} {s0 : State} {s : State} (o : QOp) (hm : Covers m 0x40) (h1 : Kept m s0 s) :
    Kept m s0 (postOp s o) := by
  unfold postOp
  repeat' first
    | with_reducible assumption
    | intro _
    | with_reducible exact hm.of rfl
    | with_reducible apply kept_modOp

theorem kept_writeEntryBack {m : Nat} {s0 : State} {s : State} (Q : Nat) (i : Nat) (status : Nat) (ts : Nat) (res : Nat) (hm : Covers m 0x7800efc82) (h1 : Kept m s0 s) :
    Kept m s0 (writeEntryBack s Q i status ts res) := by
  unfold writeEntryBack
  repeat' first
    | with_reducible assumption
    | (intro hx; clear_value x; revert hx; revert x; intro y hy)
    | intro _
    | (subst x)
    | (extract_lets +onlyGivenNames x; refine kept_cut (m := m) (s0 := s0) (x := x) ?_ ?_)
    | (extract_lets +onlyGivenNames x; clear_value x; revert x; intro y)
    | with_reducible exact hm.of rfl
    | with_reducible apply kept_storeCw
    | with_reducible apply kept_sendTarget
    | with_reducible apply kept_ite

theorem kept_endCancels {m : Nat} {s0 : State} (Q : Nat) (last : Nat) (status : Nat) {s : State} (hm : Covers m 0x2000040) (h1 : Kept m s0 s) :
    Kept m s0 (endCancels Q last status s) := by
  unfold endCancels
  repeat' first
    | with_reducible assumption
    | (intro hx; clear_value x; revert hx; revert x; intro y hy)
    | intro _
    | (subst x)
    | (extract_lets +onlyGivenNames x; refine kept_cut (m := m) (s0 := s0) (x := x) ?_ ?_)
    | (extract_lets +onlyGivenNames x; clear_value x; revert x; intro y)
    | with_reducible exact hm.of rfl
    | (with_reducible refine kept_upd_qops (hm.of rfl) ?_; with_reducible assumption)
    | ((with_reducible refine kept_upd_can (hm.of rfl) ?_ ?_) <;> first | with_reducible exact id | with_reducible exact kwf_putFile _ _ _ _ | with_reducible exact kwf_kput 0 _ _ _ | exact fun e => (length_modAt _ _ _).trans e | exact fun e => (List.length_map ..).trans e | exact fun _ => rfl | exact kwf_filter 0 _ _ | exact kwf_foldl_kput 0 _ _ | exact kwf_kput 0 _ _ _ | (with_reducible assumption))
    | with_reducible apply kept_ite

theorem kept_writeOpBack {m : Nat} {s0 : State} {s : State} (o : QOp) (d : QDone) (hm : Covers m 0x7820efcc2) (h1 : Kept m s0 s) :
    Kept m s0 (writeOpBack s o d) := by
  unfold writeOpBack
  repeat' first
    | with_reducible assumption
    | (intro hx; clear_value x; revert hx; revert x; intro y hy)
    | intro _
    | (subst x)
    | (extract_lets +onlyGivenNames x; refine kept_cut (m := m) (s0 := s0) (x := x) ?_ ?_)
    | (extract_lets +onlyGivenNames x; clear_value x; revert x; intro y)
    | with_reducible exact hm.of rfl
    | (with_reducible refine kept_upd_qops (hm.of rfl) ?_; with_reducible assumption)
    | with_reducible apply kept_writeEntryBack
    | with_reducible apply kept_endCancels
    | with_reducible apply kept_setF
    | with_reducible apply kept_ite
    | with_reducible apply kept_forN

theorem kept_writeback {m : Nat} {s0 : State} {s : State} (Q : Nat) (hm : Covers m 0x7820efcc2) (h1 : Kept m s0 s) :
    Kept m s0 (writeback s Q) := by
  unfold writeback
  repeat' first
    | with_reducible assumption
    | (intro hx; clear_value x; revert hx; revert x; intro y hy)
    | intro _
    | (subst x)
    | (extract_lets +onlyGivenNames x; refine kept_cut (m := m) (s0 := s0) (x := x) ?_ ?_)
    | (extract_lets +onlyGivenNames x; clear_value x; revert x; intro y)
    | with_reducible exact hm.of rfl
    | with_reducible apply kept_writeOpBack
    | with_reducible apply kept_setF
    | with_reducible apply kept_ite
    | split

theorem kept_rejectDoorbell {m : Nat} {s0 : State} {s : State} (Q : Nat) (hm : Covers m 0x2) (h1 : Kept m s0 s) :
    Kept m s0 (rejectDoorbell s Q) := by
  unfold rejectDoorbell
  repeat' first
    | with_reducible assumption
    | intro _
    | with_reducible exact hm.of rfl
    | with_reducible apply kept_setF
    | with_reducible apply kept_incF

theorem kept_ringDoorbell {m : Nat} {s0 : State} (r : Req) (Q : Nat) (size : Nat) (a4 : Nat) {s : State} (hm : Covers m 0x602) (h1 : Kept m s0 s) :
    Kept m s0 (ringDoorbell r Q size a4 s) := by
  unfold ringDoorbell
  repeat' first
    | with_reducible assumption
    | intro _
    | (extract_lets +onlyGivenNames x; clear_value x; revert x; intro y)
    | with_reducible exact hm.of rfl
    | with_reducible apply kept_rejectDoorbell
    | with_reducible apply kept_staleDrop
    | with_reducible apply kept_setF
    | with_reducible apply kept_ite

theorem kept_enableQueue {m : Nat} {s0 : State} {s : State} (Q : Nat) (hm : Covers m 0x412) (h1 : Kept m s0 s) :
    Kept m s0 (enableQueue s Q) := by
  unfold enableQueue
  repeat' first
    | with_reducible assumption
    | (intro hx; clear_value x; revert hx; revert x; intro y hy)
    | intro _
    | (subst x)
    | (extract_lets +onlyGivenNames x; refine kept_cut (m := m) (s0 := s0) (x := x) ?_ ?_)
    | (extract_lets +onlyGivenNames x; clear_value x; revert x; intro y)
    | with_reducible exact hm.of rfl
    | with_reducible apply kept_raise
    | with_reducible apply kept_setF
    | with_reducible apply kept_setFree
    | with_reducible apply kept_ite
    | split

theorem kept_drainQueue {m : Nat} {s0 : State} {s : State} (Q : Nat) (hm : Covers m 0x42) (h1 : Kept m s0 s) :
    Kept m s0 (drainQueue s Q) := by
  unfold drainQueue
  repeat' first
    | with_reducible assumption
    | (intro hx; clear_value x; revert hx; revert x; intro y hy)
    | intro _
    | (subst x)
    | (extract_lets +onlyGivenNames x; refine kept_cut (m := m) (s0 := s0) (x := x) ?_ ?_)
    | (extract_lets +onlyGivenNames x; clear_value x; revert x; intro y)
    | with_reducible exact hm.of rfl
    | (with_reducible refine kept_upd_qops (hm.of rfl) ?_; with_reducible assumption)
    | with_reducible apply kept_setF
    | with_reducible apply kept_ite

theorem kept_abortRest {m : Nat} {s0 : State} {s : State} (Q : Nat) (hm : Covers m 0x7820efcc2) (h1 : Kept m s0 s) :
    Kept m s0 (abortRest s Q) := by
  unfold abortRest
  repeat' first
    | with_reducible assumption
    | intro _
    | with_reducible exact hm.of rfl
    | with_reducible apply kept_endCancels
    | with_reducible apply kept_writeEntryBack
    | with_reducible apply kept_ite
    | with_reducible apply kept_forN
    | split

theorem kept_flushOps {m : Nat} {s0 : State} {s : State} (Q : Nat) (hm : Covers m 0x7820efcc2) (h1 : Kept m s0 s) :
    Kept m s0 (flushOps s Q) := by
  unfold flushOps
  repeat' first
    | with_reducible assumption
    | intro _
    | with_reducible exact hm.of rfl
    | with_reducible apply kept_writeback
    | with_reducible apply kept_iter

theorem kept_completeDrain {m : Nat} {s0 : State} {s : State} (Q : Nat) (hm : Covers m 0x7820efcc2) (h1 : Kept m s0 s) :
    Kept m s0 (completeDrain s Q) := by
  unfold completeDrain
  repeat' first
    | with_reducible assumption
    | (intro hx; clear_value x; revert hx; revert x; intro y hy)
    | intro _
    | (subst x)
    | (extract_lets +onlyGivenNames x; refine kept_cut (m := m) (s0 := s0) (x := x) ?_ ?_)
    | (extract_lets +onlyGivenNames x; clear_value x; revert x; intro y)
    | with_reducible exact hm.of rfl
    | with_reducible apply kept_abortRest
    | with_reducible apply kept_flushOps
    | with_reducible apply kept_setF
    | with_reducible apply kept_ite

theorem kept_bumpQueue {m : Nat} {s0 : State} {s : State} (Q : Nat) (hm : Covers m 0x2) (h1 : Kept m s0 s) :
    Kept m s0 (bumpQueue s Q) := by
  unfold bumpQueue
  repeat' first
    | with_reducible assumption
    | intro _
    | with_reducible exact hm.of rfl
    | with_reducible apply kept_setF

theorem kept_execDoorbell {m : Nat} {s0 : State} (r : Req) (q : QRef) (size : Nat) (val : Word) {s : State} (hm : Covers m 0x400000622) (h1 : Kept m s0 s) :
    KeptO m s0 (execDoorbell r q size val s) := by
  unfold execDoorbell
  repeat' first
    | with_reducible assumption
    | intro _
    | with_reducible exact hm.of rfl
    | with_reducible apply kept_reached
    | with_reducible apply kept_ringDoorbell
    | with_reducible apply keptO_next
    | with_reducible apply keptO_fault

theorem kept_execEntryTake {m : Nat} {s0 : State} (q : QRef) {s : State} (hm : Covers m 0x18002fe52) (h1 : Kept m s0 s) :
    KeptO m s0 (execEntryTake q s) := by
  unfold execEntryTake
  repeat' first
    | with_reducible assumption
    | intro _
    | with_reducible exact hm.of rfl
    | with_reducible apply kept_onEngine
    | with_reducible apply kept_takeEntry
    | with_reducible apply keptO_next
    | with_reducible apply keptO_fault

theorem kept_execDescriptorWriteback {m : Nat} {s0 : State} (q : QRef) {s : State} (hm : Covers m 0x7820efcc2) (h1 : Kept m s0 s) :
    KeptO m s0 (execDescriptorWriteback q s) := by
  unfold execDescriptorWriteback
  repeat' first
    | with_reducible assumption
    | intro _
    | with_reducible exact hm.of rfl
    | with_reducible apply kept_onEngine
    | with_reducible apply kept_writeback
    | with_reducible apply keptO_next
    | with_reducible apply keptO_fault

theorem kept_execQueueEnable {m : Nat} {s0 : State} (r : Req) (q : QRef) {s : State} (hm : Covers m 0x400000432) (h1 : Kept m s0 s) :
    KeptO m s0 (execQueueEnable r q s) := by
  unfold execQueueEnable
  repeat' first
    | with_reducible assumption
    | intro _
    | with_reducible exact hm.of rfl
    | with_reducible apply kept_reached
    | with_reducible apply kept_enableQueue
    | with_reducible apply keptO_ite
    | with_reducible apply kept_ite
    | with_reducible apply keptO_next
    | with_reducible apply keptO_fault

theorem kept_execQueueDrain {m : Nat} {s0 : State} (r : Req) (q : QRef) {s : State} (hm : Covers m 0x400000062) (h1 : Kept m s0 s) :
    KeptO m s0 (execQueueDrain r q s) := by
  unfold execQueueDrain
  repeat' first
    | with_reducible assumption
    | intro _
    | with_reducible exact hm.of rfl
    | with_reducible apply kept_reached
    | with_reducible apply kept_drainQueue
    | with_reducible apply keptO_ite
    | with_reducible apply kept_ite
    | with_reducible apply keptO_next
    | with_reducible apply keptO_fault

theorem kept_execDrainComplete {m : Nat} {s0 : State} (q : QRef) {s : State} (hm : Covers m 0x7820efcc2) (h1 : Kept m s0 s) :
    KeptO m s0 (execDrainComplete q s) := by
  unfold execDrainComplete
  repeat' first
    | with_reducible assumption
    | intro _
    | with_reducible exact hm.of rfl
    | with_reducible apply kept_onEngine
    | with_reducible apply kept_completeDrain
    | with_reducible apply keptO_next
    | with_reducible apply keptO_fault

theorem kept_execQueueBump {m : Nat} {s0 : State} (r : Req) (q : QRef) {s : State} (hm : Covers m 0x400000022) (h1 : Kept m s0 s) :
    KeptO m s0 (execQueueBump r q s) := by
  unfold execQueueBump
  repeat' first
    | with_reducible assumption
    | intro _
    | with_reducible exact hm.of rfl
    | with_reducible apply kept_reached
    | with_reducible apply kept_bumpQueue
    | with_reducible apply keptO_ite
    | with_reducible apply kept_ite
    | with_reducible apply keptO_next
    | with_reducible apply keptO_fault

end Sys2Proof.Machine
end

