-- ==== Sys2Proof/Laws/KeptRegisters.lean ====
section
/-! SUPPORT. What the operations of Machine/Registers.lean keep (Safety.lean, `Kept`): one lemma each, which cites those of the operations it calls. -/

namespace Sys2Proof.Machine

theorem kept_readRegister {m : Nat} {s0 : State} (r : Req) (a : Nat) (size : Nat) {a4 : State} (hm : Covers m 0x400200432) (h1 : Kept m s0 a4) :
    Kept m s0 (readRegister r a size a4) := by
  unfold readRegister
  repeat' first
    | with_reducible assumption
    | (intro hx; clear_value x; revert hx; revert x; intro y hy)
    | intro _
    | (subst x)
    | (extract_lets +onlyGivenNames x; refine kept_cut (m := m) (s0 := s0) (x := x) ?_ ?_)
    | (extract_lets +onlyGivenNames x; clear_value x; revert x; intro y)
    | with_reducible exact hm.of rfl
    | (with_reducible refine kept_upd_mer (hm.of rfl) ?_; with_reducible assumption)
    | with_reducible apply kept_deny
    | with_reducible apply kept_wakeIsland
    | with_reducible apply kept_answer
    | with_reducible apply kept_useFree
    | with_reducible apply kept_deniedLog
    | with_reducible apply kept_clearRC
    | with_reducible apply kept_raise
    | with_reducible apply kept_ite
    | split

theorem kept_execNow0Read {m : Nat} {s0 : State} (r : Req) {s : State} (hm : Covers m 0x400200432) (h1 : Kept m s0 s) :
    KeptO m s0 (execNow0Read r s) := by
  unfold execNow0Read
  repeat' first
    | with_reducible assumption
    | intro _
    | with_reducible exact hm.of rfl
    | with_reducible apply kept_readRegister
    | with_reducible apply keptO_next
    | with_reducible apply keptO_fault

theorem kept_takeLive {m : Nat} {s0 : State} (blk : Nat) (chan : Option Nat) {s : State} (hm : Covers m 0xc) (h1 : Kept m s0 s) :
    Kept m s0 (takeLive blk chan s) := by
  unfold takeLive
  repeat' first
    | with_reducible assumption
    | intro _
    | (extract_lets +onlyGivenNames x; clear_value x; revert x; intro y)
    | with_reducible exact hm.of rfl
    | ((with_reducible refine kept_upd_live_pendL (hm.of rfl) ?_ ?_) <;> first | with_reducible exact id | with_reducible exact kwf_putFile _ _ _ _ | with_reducible exact kwf_kput 0 _ _ _ | exact fun e => (length_modAt _ _ _).trans e | exact fun e => (List.length_map ..).trans e | exact fun _ => rfl | exact kwf_filter 0 _ _ | exact kwf_foldl_kput 0 _ _ | exact kwf_kput 0 _ _ _ | (with_reducible assumption))
    | with_reducible apply kept_ite
    | with_reducible apply kept_foldl
    | with_reducible apply kept_foldl1

theorem kept_endWindow {m : Nat} {s0 : State} (mem : Nat) (at' : Nat) {s : State} (hm : Covers m 0x18000) (h1 : Kept m s0 s) :
    Kept m s0 (endWindow mem at' s) := by
  unfold endWindow
  repeat' first
    | with_reducible assumption
    | intro _
    | with_reducible exact hm.of rfl
    | (with_reducible refine kept_upd_degCnt_degAt (hm.of rfl) ?_; with_reducible assumption)
    | with_reducible apply kept_ite

theorem kept_windowOrder {m : Nat} {s0 : State} (c : Nat) {s : State} (hm : Covers m 0x2) (h1 : Kept m s0 s) :
    Kept m s0 (windowOrder c s) := by
  unfold windowOrder
  repeat' first
    | with_reducible assumption
    | intro _
    | (extract_lets +onlyGivenNames x; clear_value x; revert x; intro y)
    | with_reducible exact hm.of rfl
    | with_reducible apply kept_setF
    | with_reducible apply kept_ite

theorem kept_execInterruptWrite {m : Nat} {s0 : State} (r : Req) (addr : Nat) (val : Word) {s : State} (hm : Covers m 0x6000004a2) (h1 : Kept m s0 s) :
    KeptO m s0 (execInterruptWrite r addr val s) := by
  unfold execInterruptWrite
  repeat' first
    | with_reducible assumption
    | intro _
    | with_reducible exact hm.of rfl
    | with_reducible apply kept_deny
    | with_reducible apply kept_writeFile
    | with_reducible apply kept_raiseReq
    | with_reducible apply keptO_ite
    | with_reducible apply kept_ite
    | with_reducible apply keptO_next
    | with_reducible apply keptO_fault
    | split

theorem kept_execTagWrite {m : Nat} {s0 : State} (r : Req) (addr : Nat) (size : Nat) (val : Word) {s : State} (hm : Covers m 0x400000122) (h1 : Kept m s0 s) :
    KeptO m s0 (execTagWrite r addr size val s) := by
  unfold execTagWrite
  repeat' first
    | with_reducible assumption
    | intro _
    | with_reducible exact hm.of rfl
    | with_reducible apply kept_deny
    | with_reducible apply kept_reached
    | with_reducible apply kept_tagStore
    | with_reducible apply keptO_ite
    | with_reducible apply kept_ite
    | with_reducible apply keptO_next
    | with_reducible apply keptO_fault

end Sys2Proof.Machine
end

