-- ==== Sys2Proof/Laws/KeptMemory.lean ====
section
/-! SUPPORT. What the operations of Machine/Memory.lean keep (Safety.lean, `Kept`): one lemma each, which cites those of the operations it calls. -/

namespace Sys2Proof.Machine

theorem kept_deliver {m : Nat} {s0 : State} (r : Req) (k : AccKind) (a : Nat) (d : List Byte) {s : State} (hm : Covers m 0x80020) (h1 : Kept m s0 s) :
    Kept m s0 (deliver r k a d s) := by
  unfold deliver
  repeat' first
    | with_reducible assumption
    | (intro hx; clear_value x; revert hx; revert x; intro y hy)
    | intro _
    | (subst x)
    | (extract_lets +onlyGivenNames x; refine kept_cut (m := m) (s0 := s0) (x := x) ?_ ?_)
    | (extract_lets +onlyGivenNames x; clear_value x; revert x; intro y)
    | with_reducible exact hm.of rfl
    | (with_reducible refine kept_upd_resv (hm.of rfl) ?_; with_reducible assumption)
    | with_reducible apply kept_emit
    | with_reducible apply kept_ite
    | split

theorem kept_reach {m : Nat} {s0 : State} (r : Req) (src : MemSrc) (cw : Nat) {s : State} (hm : Covers m 0x18002fc12) (h1 : Kept m s0 s) :
    Kept m s0 (reach r src cw s) := by
  unfold reach
  repeat' first
    | with_reducible assumption
    | (intro hx; clear_value x; revert hx; revert x; intro y hy)
    | intro _
    | (subst x)
    | (extract_lets +onlyGivenNames x; refine kept_cut (m := m) (s0 := s0) (x := x) ?_ ?_)
    | (extract_lets +onlyGivenNames x; clear_value x; revert x; intro y)
    | with_reducible exact hm.of rfl
    | with_reducible apply kept_evict
    | with_reducible apply kept_fillLine
    | with_reducible apply kept_ite

theorem kept_laneMiss {m : Nat} {s0 : State} (t : Fin 4) (instr : Bool) (line : Nat) (p : Nat) {s : State} (hm : Covers m 0x18006fc12) (h1 : Kept m s0 s) :
    Kept m s0 (laneMiss t instr line p s) := by
  unfold laneMiss
  repeat' first
    | with_reducible assumption
    | intro _
    | (extract_lets +onlyGivenNames x; clear_value x; revert x; intro y)
    | with_reducible exact hm.of rfl
    | with_reducible apply kept_countEvent
    | with_reducible apply kept_fillLine
    | with_reducible apply kept_ite

theorem kept_fillLanes {m : Nat} {s0 : State} (r : Req) (k : AccKind) (src : MemSrc) (cw : Nat) {s : State} (hm : Covers m 0x18006fc12) (h1 : Kept m s0 s) :
    Kept m s0 (fillLanes r k src cw s) := by
  unfold fillLanes
  repeat' first
    | with_reducible assumption
    | intro _
    | with_reducible exact hm.of rfl
    | with_reducible apply kept_laneMiss
    | with_reducible apply kept_ite
    | with_reducible apply kept_foldl
    | with_reducible apply kept_foldl1
    | split

theorem kept_keepCorrected {m : Nat} {s0 : State} (src : MemSrc) (cw : Nat) (a3 : List Byte) (w' : List Byte) (hard : Bool) {s : State} (hm : Covers m 0x18006fc02) (h1 : Kept m s0 s) :
    Kept m s0 (keepCorrected src cw a3 w' hard s) := by
  unfold keepCorrected
  repeat' first
    | with_reducible assumption
    | intro _
    | with_reducible exact hm.of rfl
    | with_reducible apply kept_countEvent
    | with_reducible apply kept_modTriad
    | with_reducible apply kept_putIn
    | with_reducible apply kept_evict
    | with_reducible apply kept_ite
    | split

theorem kept_readMacro {m : Nat} {s0 : State} (r : Req) (k : AccKind) (a : Nat) (src : MemSrc) (upset : List (Fin 36 × Byte)) (hard : Bool) {a7 : State} (hm : Covers m 0x1800efc32) (h1 : Kept m s0 a7) :
    Kept m s0 (readMacro r k a src upset hard a7) := by
  unfold readMacro
  repeat' first
    | with_reducible assumption
    | (intro hx; clear_value x; revert hx; revert x; intro y hy)
    | intro _
    | (subst x)
    | (extract_lets +onlyGivenNames x; refine kept_cut (m := m) (s0 := s0) (x := x) ?_ ?_)
    | (extract_lets +onlyGivenNames x; clear_value x; revert x; intro y)
    | with_reducible exact hm.of rfl
    | with_reducible apply kept_reach
    | with_reducible apply kept_deliver
    | with_reducible apply kept_fillLanes
    | with_reducible apply kept_putIn
    | with_reducible apply kept_keepCorrected
    | with_reducible apply kept_recordCorrection
    | with_reducible apply kept_poisonIn
    | with_reducible apply kept_recordLost
    | with_reducible apply kept_selfOdd
    | with_reducible apply kept_deny
    | with_reducible apply kept_ite
    | split

theorem kept_execDegradationWindowEnd {m : Nat} {s0 : State} (nvm : Bool) {s : State} (hm : Covers m 0x18000) (h1 : Kept m s0 s) :
    KeptO m s0 (execDegradationWindowEnd nvm s) := by
  unfold execDegradationWindowEnd
  repeat' first
    | with_reducible assumption
    | intro _
    | (extract_lets +onlyGivenNames x; clear_value x; revert x; intro y)
    | with_reducible exact hm.of rfl
    | with_reducible apply kept_endWindow
    | with_reducible apply keptO_ite
    | with_reducible apply kept_ite
    | with_reducible apply keptO_next
    | with_reducible apply keptO_fault

theorem kept_refuseWrite {m : Nat} {s0 : State} (r : Req) (k : AccKind) (a : Nat) (n : Nat) {s : State} (hm : Covers m 0x422) (h1 : Kept m s0 s) :
    Kept m s0 (refuseWrite r k a n s) := by
  unfold refuseWrite
  repeat' first
    | with_reducible assumption
    | (intro hx; clear_value x; revert hx; revert x; intro y hy)
    | intro _
    | (subst x)
    | (extract_lets +onlyGivenNames x; refine kept_cut (m := m) (s0 := s0) (x := x) ?_ ?_)
    | (extract_lets +onlyGivenNames x; clear_value x; revert x; intro y)
    | with_reducible exact hm.of rfl
    | with_reducible apply kept_raiseReq
    | with_reducible apply kept_deny
    | with_reducible apply kept_ite
    | split

theorem kept_advanceScrub {m : Nat} {s0 : State} (nvm : Bool) {s : State} (hm : Covers m 0x18002) (h1 : Kept m s0 s) :
    Kept m s0 (advanceScrub nvm s) := by
  unfold advanceScrub
  repeat' first
    | with_reducible assumption
    | intro _
    | (extract_lets +onlyGivenNames x; clear_value x; revert x; intro y)
    | with_reducible exact hm.of rfl
    | with_reducible apply kept_endWindow
    | with_reducible apply kept_incW
    | with_reducible apply kept_setF
    | with_reducible apply kept_ite

theorem kept_scrubWord {m : Nat} {s0 : State} (src : MemSrc) (a : Nat) (upset : List (Fin 36 × Byte)) (hard : Bool) {s : State} (hm : Covers m 0x18002fc02) (h1 : Kept m s0 s) :
    Kept m s0 (scrubWord src a upset hard s) := by
  unfold scrubWord
  repeat' first
    | with_reducible assumption
    | (intro hx; clear_value x; revert hx; revert x; intro y hy)
    | intro _
    | (subst x)
    | (extract_lets +onlyGivenNames x; refine kept_cut (m := m) (s0 := s0) (x := x) ?_ ?_)
    | (extract_lets +onlyGivenNames x; clear_value x; revert x; intro y)
    | with_reducible exact hm.of rfl
    | with_reducible apply kept_putIn
    | with_reducible apply kept_recordCorrection
    | with_reducible apply kept_recordLost
    | with_reducible apply kept_poisonIn
    | with_reducible apply kept_ite
    | split

theorem kept_memBoundary {m : Nat} {s0 : State} {s : State} (hm : Covers m 0x1800c) (h1 : Kept m s0 s) :
    Kept m s0 (memBoundary s) := by
  unfold memBoundary
  repeat' first
    | with_reducible assumption
    | (intro hx; clear_value x; revert hx; revert x; intro y hy)
    | intro _
    | (subst x)
    | (extract_lets +onlyGivenNames x; refine kept_cut (m := m) (s0 := s0) (x := x) ?_ ?_)
    | (extract_lets +onlyGivenNames x; clear_value x; revert x; intro y)
    | with_reducible exact hm.of rfl
    | with_reducible apply kept_takeLive
    | with_reducible apply kept_endWindow
    | with_reducible apply kept_ite

theorem kept_execScrubStep {m : Nat} {s0 : State} (nvm : Bool) (upset : List (Fin 36 × Byte)) (hard : Bool) {a4 : State} (hm : Covers m 0x18003fc0e) (h1 : Kept m s0 a4) :
    KeptO m s0 (execScrubStep nvm upset hard a4) := by
  unfold execScrubStep
  repeat' first
    | with_reducible assumption
    | (intro hx; clear_value x; revert hx; revert x; intro y hy)
    | intro _
    | (subst x)
    | (extract_lets +onlyGivenNames x; refine kept_cut (m := m) (s0 := s0) (x := x) ?_ ?_)
    | (extract_lets +onlyGivenNames x; clear_value x; revert x; intro y)
    | with_reducible exact hm.of rfl
    | with_reducible apply kept_memBoundary
    | with_reducible apply kept_advanceScrub
    | with_reducible apply kept_scrubWord
    | with_reducible apply keptO_ite
    | with_reducible apply kept_ite
    | with_reducible apply keptO_next
    | with_reducible apply keptO_fault

theorem kept_execCacheScrub {m : Nat} {s0 : State} (src : MemSrc) (addr : Nat) (upset : List (Fin 36 × Byte)) (hard : Bool) {s : State} (hm : Covers m 0x18002fc02) (h1 : Kept m s0 s) :
    KeptO m s0 (execCacheScrub src addr upset hard s) := by
  unfold execCacheScrub
  repeat' first
    | with_reducible assumption
    | intro _
    | (extract_lets +onlyGivenNames x; clear_value x; revert x; intro y)
    | with_reducible exact hm.of rfl
    | with_reducible apply kept_scrubWord
    | with_reducible apply keptO_ite
    | with_reducible apply kept_ite
    | with_reducible apply keptO_next
    | with_reducible apply keptO_fault
    | split

theorem kept_refuseInjection {m : Nat} {s0 : State} (r : Req) {s : State} (hm : Covers m 0x402) (h1 : Kept m s0 s) :
    Kept m s0 (refuseInjection r s) := by
  unfold refuseInjection
  repeat' first
    | with_reducible assumption
    | intro _
    | with_reducible exact hm.of rfl
    | with_reducible apply kept_raiseReq

theorem kept_armInjection {m : Nat} {s0 : State} (r : Req) (addr : Nat) (a : Nat) (b : Nat) (ben : Nat) (val : Nat) {s : State} (hm : Covers m 0x402) (h1 : Kept m s0 s) :
    Kept m s0 (armInjection r addr a b ben val s) := by
  unfold armInjection
  repeat' first
    | with_reducible assumption
    | (intro hx; clear_value x; revert hx; revert x; intro y hy)
    | intro _
    | (subst x)
    | (extract_lets +onlyGivenNames x; refine kept_cut (m := m) (s0 := s0) (x := x) ?_ ?_)
    | (extract_lets +onlyGivenNames x; clear_value x; revert x; intro y)
    | with_reducible exact hm.of rfl
    | with_reducible apply kept_setF
    | with_reducible apply kept_refuseInjection
    | with_reducible apply kept_ite

theorem kept_execInjectArm {m : Nat} {s0 : State} (r : Req) (addr : Nat) (syma : Fin 64) (symb : Fin 64) (ben : Bool) (val : Byte) {s : State} (hm : Covers m 0x402) (h1 : Kept m s0 s) :
    KeptO m s0 (execInjectArm r addr syma symb ben val s) := by
  unfold execInjectArm
  repeat' first
    | with_reducible assumption
    | intro _
    | with_reducible exact hm.of rfl
    | with_reducible apply kept_armInjection
    | with_reducible apply keptO_next
    | with_reducible apply keptO_fault

theorem kept_execPartitionRestart {m : Nat} {s0 : State} (r : Req) (p : Fin 64) {s : State} (hm : Covers m 0x400000022) (h1 : Kept m s0 s) :
    KeptO m s0 (execPartitionRestart r p s) := by
  unfold execPartitionRestart
  repeat' first
    | with_reducible assumption
    | intro _
    | with_reducible exact hm.of rfl
    | with_reducible apply kept_reached
    | with_reducible apply kept_bumpPartition
    | with_reducible apply keptO_next
    | with_reducible apply keptO_fault

theorem kept_writeCores {m : Nat} {s0 : State} (p : Nat) (cores : Nat) {s : State} (hm : Covers m 0x2) (h1 : Kept m s0 s) :
    Kept m s0 (writeCores p cores s) := by
  unfold writeCores
  repeat' first
    | with_reducible assumption
    | (intro hx; clear_value x; revert hx; revert x; intro y hy)
    | intro _
    | (subst x)
    | (extract_lets +onlyGivenNames x; refine kept_cut (m := m) (s0 := s0) (x := x) ?_ ?_)
    | (extract_lets +onlyGivenNames x; clear_value x; revert x; intro y)
    | with_reducible exact hm.of rfl
    | with_reducible apply kept_setF
    | with_reducible apply kept_bumpPartition
    | with_reducible apply kept_ite

theorem kept_execPartitionCoresWrite {m : Nat} {s0 : State} (r : Req) (p : Fin 64) (cores : BitVec 16) {s : State} (hm : Covers m 0x400000022) (h1 : Kept m s0 s) :
    KeptO m s0 (execPartitionCoresWrite r p cores s) := by
  unfold execPartitionCoresWrite
  repeat' first
    | with_reducible assumption
    | intro _
    | with_reducible exact hm.of rfl
    | with_reducible apply kept_reached
    | with_reducible apply kept_writeCores
    | with_reducible apply keptO_next
    | with_reducible apply keptO_fault

theorem kept_execWindowInterrupt {m : Nat} {s0 : State} (c : Fin 16) (k : Fin 32) (acked : Bool) {s : State} (hm : Covers m 0x600000482) (h1 : Kept m s0 s) :
    KeptO m s0 (execWindowInterrupt c k acked s) := by
  unfold execWindowInterrupt
  repeat' first
    | with_reducible assumption
    | (intro hx; clear_value x; revert hx; revert x; intro y hy)
    | intro _
    | (subst x)
    | (extract_lets +onlyGivenNames x; refine kept_cut (m := m) (s0 := s0) (x := x) ?_ ?_)
    | (extract_lets +onlyGivenNames x; clear_value x; revert x; intro y)
    | with_reducible exact hm.of rfl
    | with_reducible apply kept_onIsland
    | with_reducible apply kept_setF
    | with_reducible apply kept_incF
    | with_reducible apply kept_sendMsi
    | with_reducible apply keptO_ite
    | with_reducible apply kept_ite
    | with_reducible apply keptO_next
    | with_reducible apply keptO_fault

end Sys2Proof.Machine
end

