-- ==== Sys2Proof/Laws/KeptMeridian.lean ====
section
/-! SUPPORT. What the operations of Machine/Meridian.lean keep (Safety.lean, `Kept`): one lemma each, which cites those of the operations it calls. -/

namespace Sys2Proof.Machine

theorem kept_modMer {m : Nat} {s0 : State} {s : State} (f : Mer → Mer) (hm : Covers m 0x200000) (h1 : Kept m s0 s) :
    Kept m s0 (modMer s f) := by
  unfold modMer
  repeat' first
    | with_reducible assumption
    | intro _
    | with_reducible exact hm.of rfl
    | (with_reducible refine kept_upd_mer (hm.of rfl) ?_; with_reducible assumption)

theorem kept_setRate {m : Nat} {s0 : State} (a1 : Int) {s : State} (hm : Covers m 0x600000482) (h1 : Kept m s0 s) :
    Kept m s0 (setRate a1 s) := by
  unfold setRate
  repeat' first
    | with_reducible assumption
    | (intro hx; clear_value x; revert hx; revert x; intro y hy)
    | intro _
    | (subst x)
    | (extract_lets +onlyGivenNames x; refine kept_cut (m := m) (s0 := s0) (x := x) ?_ ?_)
    | (extract_lets +onlyGivenNames x; clear_value x; revert x; intro y)
    | with_reducible exact hm.of rfl
    | with_reducible apply kept_setF
    | with_reducible apply kept_evtMer
    | with_reducible apply kept_ite

theorem kept_showDr {m : Nat} {s0 : State} {s : State} (hm : Covers m 0x2) (h1 : Kept m s0 s) :
    Kept m s0 (showDr s) := by
  unfold showDr
  repeat' first
    | with_reducible assumption
    | intro _
    | with_reducible exact hm.of rfl
    | with_reducible apply kept_setF
    | with_reducible apply kept_ite

theorem kept_setTime {m : Nat} {s0 : State} (a1 : Nat) {s : State} (hm : Covers m 0x600200482) (h1 : Kept m s0 s) :
    Kept m s0 (setTime a1 s) := by
  unfold setTime
  repeat' first
    | with_reducible assumption
    | (intro hx; clear_value x; revert hx; revert x; intro y hy)
    | intro _
    | (subst x)
    | (extract_lets +onlyGivenNames x; refine kept_cut (m := m) (s0 := s0) (x := x) ?_ ?_)
    | (extract_lets +onlyGivenNames x; clear_value x; revert x; intro y)
    | with_reducible exact hm.of rfl
    | with_reducible apply kept_modMer
    | with_reducible apply kept_setF
    | with_reducible apply kept_raise
    | with_reducible apply kept_evtMer
    | with_reducible apply kept_showDr
    | with_reducible apply kept_ite

theorem kept_sendPoint {m : Nat} {s0 : State} (k : Nat) {s : State} (hm : Covers m 0x600000482) (h1 : Kept m s0 s) :
    Kept m s0 (sendPoint k s) := by
  unfold sendPoint
  repeat' first
    | with_reducible assumption
    | intro _
    | with_reducible exact hm.of rfl
    | with_reducible apply kept_sendMsi

theorem kept_modPrl {m : Nat} {s0 : State} {s : State} (f : Prl → Prl) (hm : Covers m 0x8000000000) (h1 : Kept m s0 s) :
    Kept m s0 (modPrl s f) := by
  unfold modPrl
  repeat' first
    | with_reducible assumption
    | intro _
    | with_reducible exact hm.of rfl
    | (with_reducible refine kept_upd_prl (hm.of rfl) ?_; with_reducible assumption)

theorem kept_setTx {m : Nat} {s0 : State} (b : Nat) (a2 : Option BlkTx) {s : State} (hm : Covers m 0x8000000002) (h1 : Kept m s0 s) :
    Kept m s0 (setTx b a2 s) := by
  unfold setTx
  repeat' first
    | with_reducible assumption
    | intro _
    | with_reducible exact hm.of rfl
    | with_reducible apply kept_setB
    | with_reducible apply kept_modPrl

theorem kept_startCopy {m : Nat} {s0 : State} (b : Nat) {s : State} (hm : Covers m 0x8000000002) (h1 : Kept m s0 s) :
    Kept m s0 (startCopy b s) := by
  unfold startCopy
  repeat' first
    | with_reducible assumption
    | intro _
    | with_reducible exact hm.of rfl
    | with_reducible apply kept_incF
    | with_reducible apply kept_setF
    | with_reducible apply kept_setTx
    | with_reducible apply kept_ite

theorem kept_startCopies {m : Nat} {s0 : State} (k : Nat) {s : State} (hm : Covers m 0x8000000002) (h1 : Kept m s0 s) :
    Kept m s0 (startCopies k s) := by
  unfold startCopies
  repeat' first
    | with_reducible assumption
    | intro _
    | with_reducible exact hm.of rfl
    | with_reducible apply kept_startCopy
    | with_reducible apply kept_ite
    | with_reducible apply kept_forN

theorem kept_firePoint {m : Nat} {s0 : State} (k : Nat) {s : State} (hm : Covers m 0x8600200482) (h1 : Kept m s0 s) :
    Kept m s0 (firePoint k s) := by
  unfold firePoint
  repeat' first
    | with_reducible assumption
    | intro _
    | with_reducible exact hm.of rfl
    | with_reducible apply kept_startCopies
    | with_reducible apply kept_sendPoint
    | with_reducible apply kept_modMer

theorem kept_firePoints {m : Nat} {s0 : State} (lim : Nat) {s : State} (hm : Covers m 0x8600200482) (h1 : Kept m s0 s) :
    Kept m s0 (firePoints lim s) := by
  unfold firePoints
  repeat' first
    | with_reducible assumption
    | intro _
    | with_reducible exact hm.of rfl
    | with_reducible apply kept_firePoint
    | with_reducible apply kept_foldl
    | with_reducible apply kept_foldl1

theorem kept_enterCycle {m : Nat} {s0 : State} (off : Nat) {s : State} (hm : Covers m 0x200202) (h1 : Kept m s0 s) :
    Kept m s0 (enterCycle off s) := by
  unfold enterCycle
  repeat' first
    | with_reducible assumption
    | (intro hx; clear_value x; revert hx; revert x; intro y hy)
    | intro _
    | (subst x)
    | (extract_lets +onlyGivenNames x; refine kept_cut (m := m) (s0 := s0) (x := x) ?_ ?_)
    | (extract_lets +onlyGivenNames x; clear_value x; revert x; intro y)
    | with_reducible exact hm.of rfl
    | (with_reducible refine kept_upd_onceCycle (hm.of rfl) ?_; with_reducible assumption)
    | with_reducible apply kept_modMer
    | with_reducible apply kept_incW

theorem kept_endCycleAt {m : Nat} {s0 : State} (off : Nat) {s : State} (hm : Covers m 0x8600200682) (h1 : Kept m s0 s) :
    Kept m s0 (endCycleAt off s) := by
  unfold endCycleAt
  repeat' first
    | with_reducible assumption
    | (intro hx; clear_value x; revert hx; revert x; intro y hy)
    | intro _
    | (subst x)
    | (extract_lets +onlyGivenNames x; refine kept_cut (m := m) (s0 := s0) (x := x) ?_ ?_)
    | (extract_lets +onlyGivenNames x; clear_value x; revert x; intro y)
    | with_reducible exact hm.of rfl
    | with_reducible apply kept_enterCycle
    | with_reducible apply kept_addF
    | with_reducible apply kept_incF
    | with_reducible apply kept_firePoint
    | with_reducible apply kept_ite
    | with_reducible apply kept_foldl
    | with_reducible apply kept_foldl1

theorem kept_fireAlarm {m : Nat} {s0 : State} (k : Nat) (late : Bool) {s : State} (hm : Covers m 0x600000482) (h1 : Kept m s0 s) :
    Kept m s0 (fireAlarm k late s) := by
  unfold fireAlarm
  repeat' first
    | with_reducible assumption
    | (intro hx; clear_value x; revert hx; revert x; intro y hy)
    | intro _
    | (subst x)
    | (extract_lets +onlyGivenNames x; refine kept_cut (m := m) (s0 := s0) (x := x) ?_ ?_)
    | (extract_lets +onlyGivenNames x; clear_value x; revert x; intro y)
    | with_reducible exact hm.of rfl
    | with_reducible apply kept_setF
    | with_reducible apply kept_sendMsi
    | with_reducible apply kept_ite

theorem kept_stepAlarms {m : Nat} {s0 : State} (before : Nat) {s : State} (hm : Covers m 0x600000482) (h1 : Kept m s0 s) :
    Kept m s0 (stepAlarms before s) := by
  unfold stepAlarms
  repeat' first
    | with_reducible assumption
    | intro _
    | with_reducible exact hm.of rfl
    | with_reducible apply kept_fireAlarm
    | with_reducible apply kept_ite
    | with_reducible apply kept_foldl
    | with_reducible apply kept_foldl1

theorem kept_shiftTime {m : Nat} {s0 : State} (a1 : Int) {s : State} (hm : Covers m 0x200000) (h1 : Kept m s0 s) :
    Kept m s0 (shiftTime a1 s) := by
  unfold shiftTime
  repeat' first
    | with_reducible assumption
    | intro _
    | with_reducible exact hm.of rfl
    | with_reducible apply kept_modMer

theorem kept_timeStep {m : Nat} {s0 : State} (amt : Int) (cause : Nat) {s : State} (hm : Covers m 0x8600200682) (h1 : Kept m s0 s) :
    Kept m s0 (timeStep amt cause s) := by
  unfold timeStep
  repeat' first
    | with_reducible assumption
    | (intro hx; clear_value x; revert hx; revert x; intro y hy)
    | intro _
    | (subst x)
    | (extract_lets +onlyGivenNames x; refine kept_cut (m := m) (s0 := s0) (x := x) ?_ ?_)
    | (extract_lets +onlyGivenNames x; clear_value x; revert x; intro y)
    | with_reducible exact hm.of rfl
    | with_reducible apply kept_shiftTime
    | with_reducible apply kept_setF
    | with_reducible apply kept_modMer
    | with_reducible apply kept_raise
    | with_reducible apply kept_evtMer
    | with_reducible apply kept_incW
    | with_reducible apply kept_endCycleAt
    | with_reducible apply kept_stepAlarms

theorem kept_noSlew {m : Nat} {s0 : State} {s : State} (hm : Covers m 0x200002) (h1 : Kept m s0 s) :
    Kept m s0 (noSlew s) := by
  unfold noSlew
  repeat' first
    | with_reducible assumption
    | intro _
    | with_reducible exact hm.of rfl
    | with_reducible apply kept_setF
    | with_reducible apply kept_modMer

theorem kept_startSlew {m : Nat} {s0 : State} (amt : Int) {s : State} (hm : Covers m 0x200002) (h1 : Kept m s0 s) :
    Kept m s0 (startSlew amt s) := by
  unfold startSlew
  repeat' first
    | with_reducible assumption
    | intro _
    | with_reducible exact hm.of rfl
    | with_reducible apply kept_noSlew
    | with_reducible apply kept_setF
    | with_reducible apply kept_modMer
    | with_reducible apply kept_ite

theorem kept_becomeActive {m : Nat} {s0 : State} (src : Nat) {s : State} (hm : Covers m 0x8600200682) (h1 : Kept m s0 s) :
    Kept m s0 (becomeActive src s) := by
  unfold becomeActive
  repeat' first
    | with_reducible assumption
    | intro _
    | (extract_lets +onlyGivenNames x; clear_value x; revert x; intro y)
    | with_reducible exact hm.of rfl
    | with_reducible apply kept_setTime
    | with_reducible apply kept_timeStep
    | with_reducible apply kept_startSlew
    | with_reducible apply kept_noSlew
    | with_reducible apply kept_ite

theorem kept_loseSync {m : Nat} {s0 : State} {s : State} (hm : Covers m 0x600200482) (h1 : Kept m s0 s) :
    Kept m s0 (loseSync s) := by
  unfold loseSync
  repeat' first
    | with_reducible assumption
    | intro _
    | with_reducible exact hm.of rfl
    | with_reducible apply kept_setTime
    | with_reducible apply kept_noSlew
    | with_reducible apply kept_modMer
    | with_reducible apply kept_ite

theorem kept_merAct {m : Nat} {s0 : State} (a : MerAct) {s : State} (hm : Covers m 0x8600200682) (h1 : Kept m s0 s) :
    Kept m s0 (merAct a s) := by
  unfold merAct
  repeat' first
    | with_reducible assumption
    | intro _
    | with_reducible exact hm.of rfl
    | with_reducible apply kept_becomeActive
    | with_reducible apply kept_timeStep
    | with_reducible apply kept_loseSync
    | split

theorem kept_decideMer {m : Nat} {s0 : State} (a : MerAct) {s : State} (hm : Covers m 0x8600200682) (h1 : Kept m s0 s) :
    Kept m s0 (decideMer a s) := by
  unfold decideMer
  repeat' first
    | with_reducible assumption
    | intro _
    | (extract_lets +onlyGivenNames x; clear_value x; revert x; intro y)
    | with_reducible exact hm.of rfl
    | with_reducible apply kept_merAct
    | with_reducible apply kept_modMer
    | with_reducible apply kept_ite
    | split

theorem kept_evalSources {m : Nat} {s0 : State} {s : State} (hm : Covers m 0x8600200682) (h1 : Kept m s0 s) :
    Kept m s0 (evalSources s) := by
  unfold evalSources
  repeat' first
    | with_reducible assumption
    | (intro hx; clear_value x; revert hx; revert x; intro y hy)
    | intro _
    | (subst x)
    | (extract_lets +onlyGivenNames x; refine kept_cut (m := m) (s0 := s0) (x := x) ?_ ?_)
    | (extract_lets +onlyGivenNames x; clear_value x; revert x; intro y)
    | with_reducible exact hm.of rfl
    | with_reducible apply kept_decideMer
    | with_reducible apply kept_setF
    | with_reducible apply kept_ite

theorem kept_reportOffset {m : Nat} {s0 : State} (src : Nat) (off : Int) {s : State} (hm : Covers m 0x200000) (h1 : Kept m s0 s) :
    Kept m s0 (reportOffset src off s) := by
  unfold reportOffset
  repeat' first
    | with_reducible assumption
    | intro _
    | with_reducible exact hm.of rfl
    | with_reducible apply kept_modMer

theorem kept_qualify {m : Nat} {s0 : State} (src : Nat) (off : Int) {s : State} (hm : Covers m 0x8600200682) (h1 : Kept m s0 s) :
    Kept m s0 (qualify src off s) := by
  unfold qualify
  repeat' first
    | with_reducible assumption
    | intro _
    | with_reducible exact hm.of rfl
    | with_reducible apply kept_evalSources
    | with_reducible apply kept_setFBit
    | with_reducible apply kept_reportOffset

theorem kept_disqualify {m : Nat} {s0 : State} (src : Nat) {s : State} (hm : Covers m 0x8600200682) (h1 : Kept m s0 s) :
    Kept m s0 (disqualify src s) := by
  unfold disqualify
  repeat' first
    | with_reducible assumption
    | intro _
    | with_reducible exact hm.of rfl
    | with_reducible apply kept_evalSources
    | with_reducible apply kept_setFBit

theorem kept_execSourceQualified {m : Nat} {s0 : State} (src : Fin 4) (offset : Int) {s : State} (hm : Covers m 0x8600200682) (h1 : Kept m s0 s) :
    KeptO m s0 (execSourceQualified src offset s) := by
  unfold execSourceQualified
  repeat' first
    | with_reducible assumption
    | intro _
    | with_reducible exact hm.of rfl
    | with_reducible apply kept_qualify
    | with_reducible apply keptO_ite
    | with_reducible apply kept_ite
    | with_reducible apply keptO_next
    | with_reducible apply keptO_fault

theorem kept_execSourceDisqualified {m : Nat} {s0 : State} (src : Fin 4) {s : State} (hm : Covers m 0x8600200682) (h1 : Kept m s0 s) :
    KeptO m s0 (execSourceDisqualified src s) := by
  unfold execSourceDisqualified
  repeat' first
    | with_reducible assumption
    | intro _
    | with_reducible exact hm.of rfl
    | with_reducible apply kept_disqualify
    | with_reducible apply keptO_ite
    | with_reducible apply kept_ite
    | with_reducible apply keptO_next
    | with_reducible apply keptO_fault

theorem kept_drExpire {m : Nat} {s0 : State} {s : State} (hm : Covers m 0x600200482) (h1 : Kept m s0 s) :
    Kept m s0 (drExpire s) := by
  unfold drExpire
  repeat' first
    | with_reducible assumption
    | intro _
    | with_reducible exact hm.of rfl
    | with_reducible apply kept_setTime
    | with_reducible apply kept_ite

theorem kept_execDrLimitExpiry {m : Nat} {s0 : State} {s : State} (hm : Covers m 0x600200482) (h1 : Kept m s0 s) :
    KeptO m s0 (execDrLimitExpiry s) := by
  unfold execDrLimitExpiry
  repeat' first
    | with_reducible assumption
    | intro _
    | with_reducible exact hm.of rfl
    | with_reducible apply kept_drExpire
    | with_reducible apply keptO_ite
    | with_reducible apply kept_ite
    | with_reducible apply keptO_next
    | with_reducible apply keptO_fault

theorem kept_execSlewDone {m : Nat} {s0 : State} {s : State} (hm : Covers m 0x2) (h1 : Kept m s0 s) :
    KeptO m s0 (execSlewDone s) := by
  unfold execSlewDone
  repeat' first
    | with_reducible assumption
    | intro _
    | with_reducible exact hm.of rfl
    | with_reducible apply kept_setF
    | with_reducible apply keptO_ite
    | with_reducible apply kept_ite
    | with_reducible apply keptO_next
    | with_reducible apply keptO_fault

theorem kept_merStep {m : Nat} {s0 : State} (a1 : Nat) {s : State} (hm : Covers m 0x8600200692) (h1 : Kept m s0 s) :
    Kept m s0 (merStep a1 s) := by
  unfold merStep
  repeat' first
    | with_reducible assumption
    | (intro hx; clear_value x; revert hx; revert x; intro y hy)
    | intro _
    | (subst x)
    | (extract_lets +onlyGivenNames x; refine kept_cut (m := m) (s0 := s0) (x := x) ?_ ?_)
    | (extract_lets +onlyGivenNames x; clear_value x; revert x; intro y)
    | with_reducible exact hm.of rfl
    | with_reducible apply kept_evtMer
    | with_reducible apply kept_setFree
    | with_reducible apply kept_decideMer
    | with_reducible apply kept_useFree
    | with_reducible apply kept_ite

theorem kept_execMerStepWrite {m : Nat} {s0 : State} (_r : Req) (val : Word) {s : State} (hm : Covers m 0x8600200692) (h1 : Kept m s0 s) :
    KeptO m s0 (execMerStepWrite _r val s) := by
  unfold execMerStepWrite
  repeat' first
    | with_reducible assumption
    | intro _
    | with_reducible exact hm.of rfl
    | with_reducible apply kept_merStep
    | with_reducible apply keptO_next
    | with_reducible apply keptO_fault

theorem kept_endPoints {m : Nat} {s0 : State} {s : State} (hm : Covers m 0x8600200482) (h1 : Kept m s0 s) :
    Kept m s0 (endPoints s) := by
  unfold endPoints
  repeat' first
    | with_reducible assumption
    | intro _
    | with_reducible exact hm.of rfl
    | with_reducible apply kept_firePoints

theorem kept_merCycleStart {m : Nat} {s0 : State} {s : State} (hm : Covers m 0x600202) (h1 : Kept m s0 s) :
    Kept m s0 (merCycleStart s) := by
  unfold merCycleStart
  repeat' first
    | with_reducible assumption
    | (intro hx; clear_value x; revert hx; revert x; intro y hy)
    | (intro hz; clear_value z; revert hz; revert z; intro y hy)
    | intro _
    | (subst x)
    | (subst z)
    | (extract_lets +onlyGivenNames x; refine kept_cut (m := m) (s0 := s0) (x := x) ?_ ?_)
    | (extract_lets +onlyGivenNames z; refine kept_cut (m := m) (s0 := s0) (x := z.1) ?_ ?_)
    | (extract_lets +onlyGivenNames x; clear_value x; revert x; intro y)
    | with_reducible exact hm.of rfl
    | (with_reducible refine kept_upd_rhl (hm.of rfl) ?_; with_reducible assumption)
    | with_reducible apply kept_modMer
    | with_reducible apply kept_windowOrder
    | with_reducible apply kept_enterCycle
    | with_reducible apply kept_forN

theorem kept_execCyclePointFire {m : Nat} {s0 : State} (k : Fin 16) {s : State} (hm : Covers m 0x8600200482) (h1 : Kept m s0 s) :
    KeptO m s0 (execCyclePointFire k s) := by
  unfold execCyclePointFire
  repeat' first
    | with_reducible assumption
    | intro _
    | with_reducible exact hm.of rfl
    | with_reducible apply kept_firePoints
    | with_reducible apply keptO_ite
    | with_reducible apply kept_ite
    | with_reducible apply keptO_next
    | with_reducible apply keptO_fault

theorem kept_execAlarmFire {m : Nat} {s0 : State} (k : Fin 8) {s : State} (hm : Covers m 0x600000482) (h1 : Kept m s0 s) :
    KeptO m s0 (execAlarmFire k s) := by
  unfold execAlarmFire
  repeat' first
    | with_reducible assumption
    | intro _
    | with_reducible exact hm.of rfl
    | with_reducible apply kept_fireAlarm
    | with_reducible apply keptO_ite
    | with_reducible apply kept_ite
    | with_reducible apply keptO_next
    | with_reducible apply keptO_fault

theorem kept_writeAlarm {m : Nat} {s0 : State} (k : Nat) (a2 : Nat) {s : State} (hm : Covers m 0x600000482) (h1 : Kept m s0 s) :
    Kept m s0 (writeAlarm k a2 s) := by
  unfold writeAlarm
  repeat' first
    | with_reducible assumption
    | (intro hx; clear_value x; revert hx; revert x; intro y hy)
    | intro _
    | (subst x)
    | (extract_lets +onlyGivenNames x; refine kept_cut (m := m) (s0 := s0) (x := x) ?_ ?_)
    | (extract_lets +onlyGivenNames x; clear_value x; revert x; intro y)
    | with_reducible exact hm.of rfl
    | with_reducible apply kept_setF
    | with_reducible apply kept_fireAlarm
    | with_reducible apply kept_ite

theorem kept_execAlarmArm {m : Nat} {s0 : State} (_r : Req) (k : Fin 8) (val : Word) {s : State} (hm : Covers m 0x600000482) (h1 : Kept m s0 s) :
    KeptO m s0 (execAlarmArm _r k val s) := by
  unfold execAlarmArm
  repeat' first
    | with_reducible assumption
    | intro _
    | with_reducible exact hm.of rfl
    | with_reducible apply kept_writeAlarm
    | with_reducible apply keptO_next
    | with_reducible apply keptO_fault

theorem kept_merTick {m : Nat} {s0 : State} {s : State} (hm : Covers m 0x8600200682) (h1 : Kept m s0 s) :
    Kept m s0 (merTick s) := by
  unfold merTick
  repeat' first
    | with_reducible assumption
    | (intro hx; clear_value x; revert hx; revert x; intro y hy)
    | intro _
    | (subst x)
    | (extract_lets +onlyGivenNames x; refine kept_cut (m := m) (s0 := s0) (x := x) ?_ ?_)
    | (extract_lets +onlyGivenNames x; clear_value x; revert x; intro y)
    | with_reducible exact hm.of rfl
    | with_reducible apply kept_setF
    | with_reducible apply kept_modMer
    | with_reducible apply kept_showDr
    | with_reducible apply kept_merAct
    | with_reducible apply kept_foldl
    | with_reducible apply kept_foldl1

theorem kept_merBoundary {m : Nat} {s0 : State} {s : State} (hm : Covers m 0x8600200682) (h1 : Kept m s0 s) :
    Kept m s0 (merBoundary s) := by
  unfold merBoundary
  repeat' first
    | with_reducible assumption
    | (intro hx; clear_value x; revert hx; revert x; intro y hy)
    | intro _
    | (subst x)
    | (extract_lets +onlyGivenNames x; refine kept_cut (m := m) (s0 := s0) (x := x) ?_ ?_)
    | (extract_lets +onlyGivenNames x; clear_value x; revert x; intro y)
    | with_reducible exact hm.of rfl
    | with_reducible apply kept_evalSources
    | with_reducible apply kept_drExpire
    | with_reducible apply kept_showDr
    | with_reducible apply kept_ite

end Sys2Proof.Machine
end

