-- ==== Sys2Proof/Laws/KeptRhumbline.lean ====
section
/-! SUPPORT. What the operations of Machine/Rhumbline.lean keep (Safety.lean, `Kept`): one lemma each, which cites those of the operations it calls. -/

namespace Sys2Proof.Machine

theorem kept_modRhl {m : Nat} {s0 : State} {s : State} (f : Rhl → Rhl) (hm : Covers m 0x400000) (h1 : Kept m s0 s) :
    Kept m s0 (modRhl s f) := by
  unfold modRhl
  repeat' first
    | with_reducible assumption
    | intro _
    | with_reducible exact hm.of rfl
    | (with_reducible refine kept_upd_rhl (hm.of rfl) ?_; with_reducible assumption)

theorem kept_setSchedBuf {m : Nat} {s0 : State} {s : State} (b : Nat) (a3 : Option Sched) (hm : Covers m 0x400000) (h1 : Kept m s0 s) :
    Kept m s0 (setSchedBuf s b a3) := by
  unfold setSchedBuf
  repeat' first
    | with_reducible assumption
    | intro _
    | with_reducible exact hm.of rfl
    | with_reducible apply kept_modRhl
    | with_reducible apply kept_ite

theorem kept_freeBuf {m : Nat} {s0 : State} {s : State} (b : Nat) (hm : Covers m 0x400010) (h1 : Kept m s0 s) :
    Kept m s0 (freeBuf s b) := by
  unfold freeBuf
  repeat' first
    | with_reducible assumption
    | intro _
    | with_reducible exact hm.of rfl
    | with_reducible apply kept_useFree
    | with_reducible apply kept_setSchedBuf
    | with_reducible apply kept_iter
    | split

theorem kept_startLoad {m : Nat} {s0 : State} (src : Nat) (buf : Nat) {a3 : State} (hm : Covers m 0x400012) (h1 : Kept m s0 a3) :
    Kept m s0 (startLoad src buf a3) := by
  unfold startLoad
  repeat' first
    | with_reducible assumption
    | (intro hx; clear_value x; revert hx; revert x; intro y hy)
    | intro _
    | (subst x)
    | (extract_lets +onlyGivenNames x; refine kept_cut (m := m) (s0 := s0) (x := x) ?_ ?_)
    | (extract_lets +onlyGivenNames x; clear_value x; revert x; intro y)
    | with_reducible exact hm.of rfl
    | with_reducible apply kept_setF
    | with_reducible apply kept_freeBuf
    | with_reducible apply kept_setSchedBuf
    | with_reducible apply kept_modRhl
    | with_reducible apply kept_ite

theorem kept_showShadow {m : Nat} {s0 : State} (ready : Nat) (cyclen : Nat) (n : Nat) {s : State} (hm : Covers m 0x2) (h1 : Kept m s0 s) :
    Kept m s0 (showShadow ready cyclen n s) := by
  unfold showShadow
  repeat' first
    | with_reducible assumption
    | intro _
    | with_reducible exact hm.of rfl
    | with_reducible apply kept_setF

theorem kept_finishLoad {m : Nat} {s0 : State} {s : State} (hm : Covers m 0x7804efc92) (h1 : Kept m s0 s) :
    Kept m s0 (finishLoad s) := by
  unfold finishLoad
  repeat' first
    | with_reducible assumption
    | (intro hx; clear_value x; revert hx; revert x; intro y hy)
    | intro _
    | (subst x)
    | (extract_lets +onlyGivenNames x; refine kept_cut (m := m) (s0 := s0) (x := x) ?_ ?_)
    | (extract_lets +onlyGivenNames x; clear_value x; revert x; intro y)
    | with_reducible exact hm.of rfl
    | with_reducible apply kept_setF
    | with_reducible apply kept_modRhl
    | with_reducible apply kept_touch
    | with_reducible apply kept_setSchedBuf
    | with_reducible apply kept_storeCw
    | with_reducible apply kept_evtRhl
    | with_reducible apply kept_showShadow
    | with_reducible apply kept_raise
    | with_reducible apply kept_ite
    | with_reducible apply kept_forN
    | split

theorem kept_activateShadow {m : Nat} {s0 : State} {s : State} (hm : Covers m 0x600002) (h1 : Kept m s0 s) :
    Kept m s0 (activateShadow s) := by
  unfold activateShadow
  repeat' first
    | with_reducible assumption
    | (intro hx; clear_value x; revert hx; revert x; intro y hy)
    | intro _
    | (subst x)
    | (extract_lets +onlyGivenNames x; refine kept_cut (m := m) (s0 := s0) (x := x) ?_ ?_)
    | (extract_lets +onlyGivenNames x; clear_value x; revert x; intro y)
    | with_reducible exact hm.of rfl
    | with_reducible apply kept_modMer
    | with_reducible apply kept_modRhl
    | with_reducible apply kept_showShadow
    | with_reducible apply kept_setF
    | with_reducible apply kept_ite
    | split

theorem kept_refuseSwitch {m : Nat} {s0 : State} {s : State} (hm : Covers m 0x600000482) (h1 : Kept m s0 s) :
    Kept m s0 (refuseSwitch s) := by
  unfold refuseSwitch
  repeat' first
    | with_reducible assumption
    | intro _
    | with_reducible exact hm.of rfl
    | with_reducible apply kept_raise
    | with_reducible apply kept_evtRhl

theorem kept_armSwitch {m : Nat} {s0 : State} (cyc : Nat) {a2 : State} (hm : Covers m 0x600400482) (h1 : Kept m s0 a2) :
    Kept m s0 (armSwitch cyc a2) := by
  unfold armSwitch
  repeat' first
    | with_reducible assumption
    | intro _
    | (extract_lets +onlyGivenNames x; clear_value x; revert x; intro y)
    | with_reducible exact hm.of rfl
    | with_reducible apply kept_setF
    | with_reducible apply kept_modRhl
    | with_reducible apply kept_refuseSwitch
    | with_reducible apply kept_ite

theorem kept_doSwitch {m : Nat} {s0 : State} {s : State} (hm : Covers m 0x600600482) (h1 : Kept m s0 s) :
    Kept m s0 (doSwitch s) := by
  unfold doSwitch
  repeat' first
    | with_reducible assumption
    | (intro hx; clear_value x; revert hx; revert x; intro y hy)
    | intro _
    | (subst x)
    | (extract_lets +onlyGivenNames x; refine kept_cut (m := m) (s0 := s0) (x := x) ?_ ?_)
    | (extract_lets +onlyGivenNames x; clear_value x; revert x; intro y)
    | with_reducible exact hm.of rfl
    | with_reducible apply kept_setF
    | with_reducible apply kept_evtRhl
    | with_reducible apply kept_activateShadow
    | with_reducible apply kept_refuseSwitch
    | with_reducible apply kept_ite

theorem kept_showViol {m : Nat} {s0 : State} (p : Nat) {s : State} (hm : Covers m 0x2) (h1 : Kept m s0 s) :
    Kept m s0 (showViol p s) := by
  unfold showViol
  repeat' first
    | with_reducible assumption
    | intro _
    | with_reducible exact hm.of rfl
    | with_reducible apply kept_setF

theorem kept_clearViol {m : Nat} {s0 : State} (p : Nat) {s : State} (hm : Covers m 0x400002) (h1 : Kept m s0 s) :
    Kept m s0 (clearViol p s) := by
  unfold clearViol
  repeat' first
    | with_reducible assumption
    | intro _
    | with_reducible exact hm.of rfl
    | with_reducible apply kept_showViol
    | with_reducible apply kept_modRhl

theorem kept_containPort {m : Nat} {s0 : State} (p : Nat) {s : State} (hm : Covers m 0x600000482) (h1 : Kept m s0 s) :
    Kept m s0 (containPort p s) := by
  unfold containPort
  repeat' first
    | with_reducible assumption
    | intro _
    | with_reducible exact hm.of rfl
    | with_reducible apply kept_raise
    | with_reducible apply kept_evtRhl
    | with_reducible apply kept_incF
    | with_reducible apply kept_setF

theorem kept_normalPort {m : Nat} {s0 : State} (p : Nat) {s : State} (hm : Covers m 0x400002) (h1 : Kept m s0 s) :
    Kept m s0 (normalPort p s) := by
  unfold normalPort
  repeat' first
    | with_reducible assumption
    | intro _
    | with_reducible exact hm.of rfl
    | with_reducible apply kept_clearViol
    | with_reducible apply kept_setF

theorem kept_checkThresh {m : Nat} {s0 : State} (p : Nat) {s : State} (hm : Covers m 0x600000482) (h1 : Kept m s0 s) :
    Kept m s0 (checkThresh p s) := by
  unfold checkThresh
  repeat' first
    | with_reducible assumption
    | intro _
    | with_reducible exact hm.of rfl
    | with_reducible apply kept_containPort
    | with_reducible apply kept_ite

theorem kept_violation {m : Nat} {s0 : State} (p : Nat) (kind : Nat) (fid : Nat) (dev : Int) {s : State} (hm : Covers m 0x600400482) (h1 : Kept m s0 s) :
    Kept m s0 (violation p kind fid dev s) := by
  unfold violation
  repeat' first
    | with_reducible assumption
    | (intro hx; clear_value x; revert hx; revert x; intro y hy)
    | intro _
    | (subst x)
    | (extract_lets +onlyGivenNames x; refine kept_cut (m := m) (s0 := s0) (x := x) ?_ ?_)
    | (extract_lets +onlyGivenNames x; clear_value x; revert x; intro y)
    | with_reducible exact hm.of rfl
    | with_reducible apply kept_setF
    | with_reducible apply kept_showViol
    | with_reducible apply kept_modRhl
    | with_reducible apply kept_containPort
    | with_reducible apply kept_checkThresh
    | with_reducible apply kept_ite

theorem kept_modEcyc {m : Nat} {s0 : State} {s : State} (i : Nat) (f : ECyc → ECyc) (hm : Covers m 0x400000) (h1 : Kept m s0 s) :
    Kept m s0 (modEcyc s i f) := by
  unfold modEcyc
  repeat' first
    | with_reducible assumption
    | intro _
    | with_reducible exact hm.of rfl
    | with_reducible apply kept_modRhl

theorem kept_sendPartner {m : Nat} {s0 : State} (f : List Byte) {s : State} (hm : Covers m 0x22) (h1 : Kept m s0 s) :
    Kept m s0 (sendPartner f s) := by
  unfold sendPartner
  repeat' first
    | with_reducible assumption
    | intro _
    | with_reducible exact hm.of rfl
    | with_reducible apply kept_incF
    | with_reducible apply kept_emit
    | split

theorem kept_checkPartner {m : Nat} {s0 : State} (f : List Byte) {s : State} (hm : Covers m 0x2) (h1 : Kept m s0 s) :
    Kept m s0 (checkPartner f s) := by
  unfold checkPartner
  repeat' first
    | with_reducible assumption
    | intro _
    | with_reducible exact hm.of rfl
    | with_reducible apply kept_incF
    | with_reducible apply kept_ite
    | split

theorem kept_sendStar {m : Nat} {s0 : State} (ports : List Nat) (f : List Byte) {s : State} (hm : Covers m 0x22) (h1 : Kept m s0 s) :
    Kept m s0 (sendStar ports f s) := by
  unfold sendStar
  repeat' first
    | with_reducible assumption
    | intro _
    | with_reducible exact hm.of rfl
    | with_reducible apply kept_sendPartner
    | with_reducible apply kept_emit
    | with_reducible apply kept_ite
    | with_reducible apply kept_foldl
    | with_reducible apply kept_foldl1

theorem kept_endEarly {m : Nat} {s0 : State} (q : Nat) (n : Nat) (b : List Byte) {s : State} (hm : Covers m 0x20) (h1 : Kept m s0 s) :
    Kept m s0 (endEarly q n b s) := by
  unfold endEarly
  repeat' first
    | with_reducible assumption
    | intro _
    | with_reducible exact hm.of rfl
    | with_reducible apply kept_emit
    | with_reducible apply kept_ite
    | split

theorem kept_forwardFrame {m : Nat} {s0 : State} (p : Nat) (i : Nat) (e : SEntry) (off : Int) (f : List Byte) {s : State} (hm : Covers m 0x400032) (h1 : Kept m s0 s) :
    Kept m s0 (forwardFrame p i e off f s) := by
  unfold forwardFrame
  repeat' first
    | with_reducible assumption
    | (intro hx; clear_value x; revert hx; revert x; intro y hy)
    | intro _
    | (subst x)
    | (extract_lets +onlyGivenNames x; refine kept_cut (m := m) (s0 := s0) (x := x) ?_ ?_)
    | (extract_lets +onlyGivenNames x; clear_value x; revert x; intro y)
    | with_reducible exact hm.of rfl
    | with_reducible apply kept_incF
    | with_reducible apply kept_sendStar
    | with_reducible apply kept_modRhl
    | with_reducible apply kept_useFree
    | with_reducible apply kept_ite

theorem kept_coldLoser {m : Nat} {s0 : State} (p : Nat) (delta : Nat) {s : State} (hm : Covers m 0x400002) (h1 : Kept m s0 s) :
    Kept m s0 (coldLoser p delta s) := by
  unfold coldLoser
  repeat' first
    | with_reducible assumption
    | intro _
    | with_reducible exact hm.of rfl
    | with_reducible apply kept_incF
    | with_reducible apply kept_modRhl

theorem kept_unwindowed {m : Nat} {s0 : State} (p : Nat) (sof : Nat) (f : List Byte) {s : State} (hm : Covers m 0x400002) (h1 : Kept m s0 s) :
    Kept m s0 (unwindowed p sof f s) := by
  unfold unwindowed
  repeat' first
    | with_reducible assumption
    | intro _
    | with_reducible exact hm.of rfl
    | with_reducible apply kept_coldLoser
    | with_reducible apply kept_ite
    | split

theorem kept_starReceive {m : Nat} {s0 : State} (p : Nat) (sof : Nat) (f : List Byte) {s : State} (hm : Covers m 0x6004004b2) (h1 : Kept m s0 s) :
    Kept m s0 (starReceive p sof f s) := by
  unfold starReceive
  repeat' first
    | with_reducible assumption
    | (intro hx; clear_value x; revert hx; revert x; intro y hy)
    | intro _
    | (subst x)
    | (extract_lets +onlyGivenNames x; refine kept_cut (m := m) (s0 := s0) (x := x) ?_ ?_)
    | (extract_lets +onlyGivenNames x; clear_value x; revert x; intro y)
    | with_reducible exact hm.of rfl
    | with_reducible apply kept_incF
    | with_reducible apply kept_unwindowed
    | with_reducible apply kept_violation
    | with_reducible apply kept_modEcyc
    | with_reducible apply kept_modRhl
    | with_reducible apply kept_forwardFrame
    | with_reducible apply kept_ite
    | split

theorem kept_sendCut {m : Nat} {s0 : State} (q : Nat) (f : List Byte) (n : Nat) {s : State} (hm : Covers m 0x20) (h1 : Kept m s0 s) :
    Kept m s0 (sendCut q f n s) := by
  unfold sendCut
  repeat' first
    | with_reducible assumption
    | intro _
    | with_reducible exact hm.of rfl
    | with_reducible apply kept_endEarly

theorem kept_countCut {m : Nat} {s0 : State} (a1 : Fly) (kind : Nat) {s : State} (hm : Covers m 0x600400482) (h1 : Kept m s0 s) :
    Kept m s0 (countCut a1 kind s) := by
  unfold countCut
  repeat' first
    | with_reducible assumption
    | intro _
    | (extract_lets +onlyGivenNames x; clear_value x; revert x; intro y)
    | with_reducible exact hm.of rfl
    | with_reducible apply kept_violation
    | with_reducible apply kept_modEcyc
    | with_reducible apply kept_incF

theorem kept_guardCut {m : Nat} {s0 : State} (p : Nat) (win : Bool) {s : State} (hm : Covers m 0x6004004a2) (h1 : Kept m s0 s) :
    Kept m s0 (guardCut p win s) := by
  unfold guardCut
  repeat' first
    | with_reducible assumption
    | (intro hx; clear_value x; revert hx; revert x; intro y hy)
    | intro _
    | (subst x)
    | (extract_lets +onlyGivenNames x; refine kept_cut (m := m) (s0 := s0) (x := x) ?_ ?_)
    | (extract_lets +onlyGivenNames x; clear_value x; revert x; intro y)
    | with_reducible exact hm.of rfl
    | with_reducible apply kept_sendCut
    | with_reducible apply kept_countCut
    | with_reducible apply kept_modRhl
    | with_reducible apply kept_ite
    | with_reducible apply kept_foldl
    | with_reducible apply kept_foldl1
    | split

theorem kept_cutNow {m : Nat} {s0 : State} (p : Nat) (n : Nat) {s : State} (hm : Covers m 0x6004004b2) (h1 : Kept m s0 s) :
    Kept m s0 (cutNow p n s) := by
  unfold cutNow
  repeat' first
    | with_reducible assumption
    | (intro hx; clear_value x; revert hx; revert x; intro y hy)
    | intro _
    | (subst x)
    | (extract_lets +onlyGivenNames x; refine kept_cut (m := m) (s0 := s0) (x := x) ?_ ?_)
    | (extract_lets +onlyGivenNames x; clear_value x; revert x; intro y)
    | with_reducible exact hm.of rfl
    | with_reducible apply kept_sendCut
    | with_reducible apply kept_countCut
    | with_reducible apply kept_useFree
    | with_reducible apply kept_modRhl
    | with_reducible apply kept_ite
    | with_reducible apply kept_foldl
    | with_reducible apply kept_foldl1
    | split

theorem kept_truncateNow {m : Nat} {s0 : State} (p : Nat) (n : Nat) {s : State} (hm : Covers m 0x400022) (h1 : Kept m s0 s) :
    Kept m s0 (truncateNow p n s) := by
  unfold truncateNow
  repeat' first
    | with_reducible assumption
    | (intro hx; clear_value x; revert hx; revert x; intro y hy)
    | intro _
    | (subst x)
    | (extract_lets +onlyGivenNames x; refine kept_cut (m := m) (s0 := s0) (x := x) ?_ ?_)
    | (extract_lets +onlyGivenNames x; clear_value x; revert x; intro y)
    | with_reducible exact hm.of rfl
    | with_reducible apply kept_endEarly
    | with_reducible apply kept_incF
    | with_reducible apply kept_modRhl
    | with_reducible apply kept_ite
    | with_reducible apply kept_foldl
    | with_reducible apply kept_foldl1
    | split

theorem kept_enablePort {m : Nat} {s0 : State} (p : Nat) {s : State} (hm : Covers m 0x400002) (h1 : Kept m s0 s) :
    Kept m s0 (enablePort p s) := by
  unfold enablePort
  repeat' first
    | with_reducible assumption
    | (intro hx; clear_value x; revert hx; revert x; intro y hy)
    | intro _
    | (subst x)
    | (extract_lets +onlyGivenNames x; refine kept_cut (m := m) (s0 := s0) (x := x) ?_ ?_)
    | (extract_lets +onlyGivenNames x; clear_value x; revert x; intro y)
    | with_reducible exact hm.of rfl
    | with_reducible apply kept_setF
    | with_reducible apply kept_normalPort
    | with_reducible apply kept_ite

theorem kept_disablePort {m : Nat} {s0 : State} (p : Nat) (inFlight : Option Nat) {s : State} (hm : Covers m 0x6004004b2) (h1 : Kept m s0 s) :
    Kept m s0 (disablePort p inFlight s) := by
  unfold disablePort
  repeat' first
    | with_reducible assumption
    | (intro hx; clear_value x; revert hx; revert x; intro y hy)
    | intro _
    | (subst x)
    | (extract_lets +onlyGivenNames x; refine kept_cut (m := m) (s0 := s0) (x := x) ?_ ?_)
    | (extract_lets +onlyGivenNames x; clear_value x; revert x; intro y)
    | with_reducible exact hm.of rfl
    | with_reducible apply kept_cutNow
    | with_reducible apply kept_setF
    | split

theorem kept_forcePort {m : Nat} {s0 : State} (p : Nat) {s : State} (hm : Covers m 0x600000482) (h1 : Kept m s0 s) :
    Kept m s0 (forcePort p s) := by
  unfold forcePort
  repeat' first
    | with_reducible assumption
    | intro _
    | with_reducible exact hm.of rfl
    | with_reducible apply kept_containPort
    | with_reducible apply kept_ite

theorem kept_backToNormal {m : Nat} {s0 : State} (p : Nat) {s : State} (hm : Covers m 0x400402) (h1 : Kept m s0 s) :
    Kept m s0 (backToNormal p s) := by
  unfold backToNormal
  repeat' first
    | with_reducible assumption
    | intro _
    | with_reducible exact hm.of rfl
    | with_reducible apply kept_raise
    | with_reducible apply kept_normalPort
    | with_reducible apply kept_ite

theorem kept_releasePort {m : Nat} {s0 : State} (p : Nat) {s : State} (hm : Covers m 0x400402) (h1 : Kept m s0 s) :
    Kept m s0 (releasePort p s) := by
  unfold releasePort
  repeat' first
    | with_reducible assumption
    | intro _
    | with_reducible exact hm.of rfl
    | with_reducible apply kept_backToNormal
    | with_reducible apply kept_ite

theorem kept_countdown {m : Nat} {s0 : State} (p : Nat) {s : State} (hm : Covers m 0x400402) (h1 : Kept m s0 s) :
    Kept m s0 (countdown p s) := by
  unfold countdown
  repeat' first
    | with_reducible assumption
    | intro _
    | (extract_lets +onlyGivenNames x; clear_value x; revert x; intro y)
    | with_reducible exact hm.of rfl
    | with_reducible apply kept_setF
    | with_reducible apply kept_backToNormal
    | with_reducible apply kept_ite

theorem kept_setRhlState {m : Nat} {s0 : State} (a1 : Nat) {s : State} (hm : Covers m 0x600000482) (h1 : Kept m s0 s) :
    Kept m s0 (setRhlState a1 s) := by
  unfold setRhlState
  repeat' first
    | with_reducible assumption
    | intro _
    | with_reducible exact hm.of rfl
    | with_reducible apply kept_evtRhl
    | with_reducible apply kept_setF
    | with_reducible apply kept_ite

theorem kept_dropWindows {m : Nat} {s0 : State} {s : State} (hm : Covers m 0x400000) (h1 : Kept m s0 s) :
    Kept m s0 (dropWindows s) := by
  unfold dropWindows
  repeat' first
    | with_reducible assumption
    | intro _
    | (extract_lets +onlyGivenNames x; clear_value x; revert x; intro y)
    | with_reducible exact hm.of rfl
    | with_reducible apply kept_modRhl
    | with_reducible apply kept_ite

theorem kept_toListen {m : Nat} {s0 : State} {s : State} (hm : Covers m 0x8600600682) (h1 : Kept m s0 s) :
    Kept m s0 (toListen s) := by
  unfold toListen
  repeat' first
    | with_reducible assumption
    | (intro hx; clear_value x; revert hx; revert x; intro y hy)
    | intro _
    | (subst x)
    | (extract_lets +onlyGivenNames x; refine kept_cut (m := m) (s0 := s0) (x := x) ?_ ?_)
    | (extract_lets +onlyGivenNames x; clear_value x; revert x; intro y)
    | with_reducible exact hm.of rfl
    | with_reducible apply kept_raise
    | with_reducible apply kept_disqualify
    | with_reducible apply kept_setRhlState
    | with_reducible apply kept_modRhl
    | with_reducible apply kept_dropWindows
    | with_reducible apply kept_ite

theorem kept_adopt {m : Nat} {s0 : State} (base : Int) (cycle : Nat) (net : Nat) (st : Nat) {s : State} (hm : Covers m 0x8600600682) (h1 : Kept m s0 s) :
    Kept m s0 (adopt base cycle net st s) := by
  unfold adopt
  repeat' first
    | with_reducible assumption
    | (intro hx; clear_value x; revert hx; revert x; intro y hy)
    | intro _
    | (subst x)
    | (extract_lets +onlyGivenNames x; refine kept_cut (m := m) (s0 := s0) (x := x) ?_ ?_)
    | (extract_lets +onlyGivenNames x; clear_value x; revert x; intro y)
    | with_reducible exact hm.of rfl
    | with_reducible apply kept_endCycleAt
    | with_reducible apply kept_modRhl
    | with_reducible apply kept_modMer
    | with_reducible apply kept_setRhlState
    | with_reducible apply kept_setF

theorem kept_coldAccept {m : Nat} {s0 : State} (sof : Nat) (cands : List (Fin 18 × List Byte)) {s : State} (hm : Covers m 0x86006006b2) (h1 : Kept m s0 s) :
    Kept m s0 (coldAccept sof cands s) := by
  unfold coldAccept
  repeat' first
    | with_reducible assumption
    | (intro hx; clear_value x; revert hx; revert x; intro y hy)
    | intro _
    | (subst x)
    | (extract_lets +onlyGivenNames x; refine kept_cut (m := m) (s0 := s0) (x := x) ?_ ?_)
    | (extract_lets +onlyGivenNames x; clear_value x; revert x; intro y)
    | with_reducible exact hm.of rfl
    | with_reducible apply kept_incF
    | with_reducible apply kept_unwindowed
    | with_reducible apply kept_adopt
    | with_reducible apply kept_modRhl
    | with_reducible apply kept_forwardFrame
    | with_reducible apply kept_coldLoser
    | with_reducible apply kept_evtRhl
    | with_reducible apply kept_ite
    | with_reducible apply kept_foldl
    | with_reducible apply kept_foldl1
    | split

theorem kept_coldClose {m : Nat} {s0 : State} {s : State} (hm : Covers m 0x600400482) (h1 : Kept m s0 s) :
    Kept m s0 (coldClose s) := by
  unfold coldClose
  repeat' first
    | with_reducible assumption
    | (intro hx; clear_value x; revert hx; revert x; intro y hy)
    | intro _
    | (subst x)
    | (extract_lets +onlyGivenNames x; refine kept_cut (m := m) (s0 := s0) (x := x) ?_ ?_)
    | (extract_lets +onlyGivenNames x; clear_value x; revert x; intro y)
    | with_reducible exact hm.of rfl
    | with_reducible apply kept_modRhl
    | with_reducible apply kept_setF
    | with_reducible apply kept_raise
    | with_reducible apply kept_evtRhl
    | with_reducible apply kept_ite
    | split

theorem kept_coldBad {m : Nat} {s0 : State} {s : State} (hm : Covers m 0x8600600682) (h1 : Kept m s0 s) :
    Kept m s0 (coldBad s) := by
  unfold coldBad
  repeat' first
    | with_reducible assumption
    | intro _
    | with_reducible exact hm.of rfl
    | with_reducible apply kept_modRhl
    | with_reducible apply kept_toListen
    | with_reducible apply kept_ite
    | split

theorem kept_integrateOn {m : Nat} {s0 : State} (p : Nat) (sof : Nat) (f : List Byte) {s : State} (hm : Covers m 0x8600600682) (h1 : Kept m s0 s) :
    Kept m s0 (integrateOn p sof f s) := by
  unfold integrateOn
  repeat' first
    | with_reducible assumption
    | intro _
    | with_reducible exact hm.of rfl
    | with_reducible apply kept_adopt
    | with_reducible apply kept_incF
    | with_reducible apply kept_ite
    | split

theorem kept_enableRhl {m : Nat} {s0 : State} {s : State} (hm : Covers m 0x8600600682) (h1 : Kept m s0 s) :
    Kept m s0 (enableRhl s) := by
  unfold enableRhl
  repeat' first
    | with_reducible assumption
    | (intro hx; clear_value x; revert hx; revert x; intro y hy)
    | intro _
    | (subst x)
    | (extract_lets +onlyGivenNames x; refine kept_cut (m := m) (s0 := s0) (x := x) ?_ ?_)
    | (extract_lets +onlyGivenNames x; clear_value x; revert x; intro y)
    | with_reducible exact hm.of rfl
    | with_reducible apply kept_evtRhl
    | with_reducible apply kept_activateShadow
    | with_reducible apply kept_toListen
    | with_reducible apply kept_bumpNode
    | with_reducible apply kept_setF
    | with_reducible apply kept_ite

theorem kept_disableRhl {m : Nat} {s0 : State} (inFlight : List (Nat × Nat)) {s : State} (hm : Covers m 0x86006006b2) (h1 : Kept m s0 s) :
    Kept m s0 (disableRhl inFlight s) := by
  unfold disableRhl
  repeat' first
    | with_reducible assumption
    | (intro hx; clear_value x; revert hx; revert x; intro y hy)
    | intro _
    | (subst x)
    | (extract_lets +onlyGivenNames x; refine kept_cut (m := m) (s0 := s0) (x := x) ?_ ?_)
    | (extract_lets +onlyGivenNames x; clear_value x; revert x; intro y)
    | with_reducible exact hm.of rfl
    | with_reducible apply kept_cutNow
    | with_reducible apply kept_setF
    | with_reducible apply kept_backToNormal
    | with_reducible apply kept_setRhlState
    | with_reducible apply kept_modRhl
    | with_reducible apply kept_dropWindows
    | with_reducible apply kept_disqualify
    | with_reducible apply kept_ite
    | with_reducible apply kept_foldl
    | with_reducible apply kept_foldl1
    | with_reducible apply kept_forN

theorem kept_listenExpire {m : Nat} {s0 : State} {s : State} (hm : Covers m 0x400022) (h1 : Kept m s0 s) :
    Kept m s0 (listenExpire s) := by
  unfold listenExpire
  repeat' first
    | with_reducible assumption
    | (intro hx; clear_value x; revert hx; revert x; intro y hy)
    | intro _
    | (subst x)
    | (extract_lets +onlyGivenNames x; refine kept_cut (m := m) (s0 := s0) (x := x) ?_ ?_)
    | (extract_lets +onlyGivenNames x; clear_value x; revert x; intro y)
    | with_reducible exact hm.of rfl
    | with_reducible apply kept_modRhl
    | with_reducible apply kept_sendPartner
    | with_reducible apply kept_emit
    | with_reducible apply kept_ite
    | split

theorem kept_showDevs {m : Nat} {s0 : State} (devs : List (Nat × Int)) (used : List (Nat × Int)) {s : State} (hm : Covers m 0x2) (h1 : Kept m s0 s) :
    Kept m s0 (showDevs devs used s) := by
  unfold showDevs
  repeat' first
    | with_reducible assumption
    | intro _
    | (extract_lets +onlyGivenNames x; clear_value x; revert x; intro y)
    | with_reducible exact hm.of rfl
    | with_reducible apply kept_setF
    | with_reducible apply kept_ite
    | with_reducible apply kept_forN

theorem kept_enterSync {m : Nat} {s0 : State} {s : State} (hm : Covers m 0x8600600682) (h1 : Kept m s0 s) :
    Kept m s0 (enterSync s) := by
  unfold enterSync
  repeat' first
    | with_reducible assumption
    | (intro hx; clear_value x; revert hx; revert x; intro y hy)
    | intro _
    | (subst x)
    | (extract_lets +onlyGivenNames x; refine kept_cut (m := m) (s0 := s0) (x := x) ?_ ?_)
    | (extract_lets +onlyGivenNames x; clear_value x; revert x; intro y)
    | with_reducible exact hm.of rfl
    | with_reducible apply kept_bumpNode
    | with_reducible apply kept_setRhlState
    | with_reducible apply kept_modRhl
    | with_reducible apply kept_modMer
    | with_reducible apply kept_raise
    | with_reducible apply kept_qualify

theorem kept_rateUpdate {m : Nat} {s0 : State} {s : State} (hm : Covers m 0x600400482) (h1 : Kept m s0 s) :
    Kept m s0 (rateUpdate s) := by
  unfold rateUpdate
  repeat' first
    | with_reducible assumption
    | intro _
    | (extract_lets +onlyGivenNames x; clear_value x; revert x; intro y)
    | with_reducible exact hm.of rfl
    | with_reducible apply kept_setRate
    | with_reducible apply kept_setF
    | with_reducible apply kept_modRhl
    | with_reducible apply kept_ite

theorem kept_syncPoint {m : Nat} {s0 : State} (corr : Option Int) {s : State} (hm : Covers m 0x8600600682) (h1 : Kept m s0 s) :
    Kept m s0 (syncPoint corr s) := by
  unfold syncPoint
  repeat' first
    | with_reducible assumption
    | (intro hx; clear_value x; revert hx; revert x; intro y hy)
    | intro _
    | (subst x)
    | (extract_lets +onlyGivenNames x; refine kept_cut (m := m) (s0 := s0) (x := x) ?_ ?_)
    | (extract_lets +onlyGivenNames x; clear_value x; revert x; intro y)
    | with_reducible exact hm.of rfl
    | with_reducible apply kept_modRhl
    | with_reducible apply kept_toListen
    | with_reducible apply kept_rateUpdate
    | with_reducible apply kept_reportOffset
    | with_reducible apply kept_ite
    | split

theorem kept_syncpt {m : Nat} {s0 : State} {s : State} (hm : Covers m 0x8600600682) (h1 : Kept m s0 s) :
    Kept m s0 (syncpt s) := by
  unfold syncpt
  repeat' first
    | with_reducible assumption
    | (intro hx; clear_value x; revert hx; revert x; intro y hy)
    | intro _
    | (subst x)
    | (extract_lets +onlyGivenNames x; refine kept_cut (m := m) (s0 := s0) (x := x) ?_ ?_)
    | (extract_lets +onlyGivenNames x; clear_value x; revert x; intro y)
    | with_reducible exact hm.of rfl
    | with_reducible apply kept_setF
    | with_reducible apply kept_showDevs
    | with_reducible apply kept_modRhl
    | with_reducible apply kept_syncPoint
    | with_reducible apply kept_enterSync
    | with_reducible apply kept_ite
    | split

theorem kept_integrationExpire {m : Nat} {s0 : State} {s : State} (hm : Covers m 0x8600600682) (h1 : Kept m s0 s) :
    Kept m s0 (integrationExpire s) := by
  unfold integrationExpire
  repeat' first
    | with_reducible assumption
    | intro _
    | (extract_lets +onlyGivenNames x; clear_value x; revert x; intro y)
    | with_reducible exact hm.of rfl
    | with_reducible apply kept_toListen
    | with_reducible apply kept_ite

theorem kept_starCycle {m : Nat} {s0 : State} {s : State} (hm : Covers m 0x600400482) (h1 : Kept m s0 s) :
    Kept m s0 (starCycle s) := by
  unfold starCycle
  repeat' first
    | with_reducible assumption
    | (intro hx; clear_value x; revert hx; revert x; intro y hy)
    | intro _
    | (subst x)
    | (extract_lets +onlyGivenNames x; refine kept_cut (m := m) (s0 := s0) (x := x) ?_ ?_)
    | (extract_lets +onlyGivenNames x; clear_value x; revert x; intro y)
    | with_reducible exact hm.of rfl
    | with_reducible apply kept_modRhl
    | with_reducible apply kept_checkThresh
    | with_reducible apply kept_showViol
    | with_reducible apply kept_setF
    | with_reducible apply kept_ite
    | with_reducible apply kept_forN

theorem kept_chartCycle {m : Nat} {s0 : State} {s : State} (hm : Covers m 0x800002) (h1 : Kept m s0 s) :
    Kept m s0 (chartCycle s) := by
  unfold chartCycle
  repeat' first
    | with_reducible assumption
    | (intro hx; clear_value x; revert hx; revert x; intro y hy)
    | (intro hz; clear_value z; revert hz; revert z; intro y hy)
    | intro _
    | (subst x)
    | (subst z)
    | (extract_lets +onlyGivenNames x; refine kept_cut (m := m) (s0 := s0) (x := x) ?_ ?_)
    | (extract_lets +onlyGivenNames z; refine kept_cut (m := m) (s0 := s0) (x := z.1) ?_ ?_)
    | (extract_lets +onlyGivenNames x; clear_value x; revert x; intro y)
    | with_reducible exact hm.of rfl
    | (with_reducible refine kept_upd_chart (hm.of rfl) ?_; with_reducible assumption)
    | with_reducible apply kept_setF

theorem kept_execStarFrameReceive {m : Nat} {s0 : State} (port : Fin 18) (sof : Nat) (frame : List Byte) {s : State} (hm : Covers m 0x6004004b2) (h1 : Kept m s0 s) :
    KeptO m s0 (execStarFrameReceive port sof frame s) := by
  unfold execStarFrameReceive
  repeat' first
    | with_reducible assumption
    | intro _
    | with_reducible exact hm.of rfl
    | with_reducible apply kept_onEngine
    | with_reducible apply kept_starReceive
    | with_reducible apply kept_checkPartner
    | with_reducible apply keptO_ite
    | with_reducible apply kept_ite
    | with_reducible apply keptO_next
    | with_reducible apply keptO_fault

theorem kept_execGuardianCut {m : Nat} {s0 : State} (port : Fin 18) (win : Bool) {s : State} (hm : Covers m 0x6004004a2) (h1 : Kept m s0 s) :
    KeptO m s0 (execGuardianCut port win s) := by
  unfold execGuardianCut
  repeat' first
    | with_reducible assumption
    | intro _
    | with_reducible exact hm.of rfl
    | with_reducible apply kept_onEngine
    | with_reducible apply kept_guardCut
    | with_reducible apply keptO_next
    | with_reducible apply keptO_fault

theorem kept_execPortEnable {m : Nat} {s0 : State} (r : Req) (n : Fin 18) {s : State} (hm : Covers m 0x400400022) (h1 : Kept m s0 s) :
    KeptO m s0 (execPortEnable r n s) := by
  unfold execPortEnable
  repeat' first
    | with_reducible assumption
    | intro _
    | with_reducible exact hm.of rfl
    | with_reducible apply kept_reached
    | with_reducible apply kept_enablePort
    | with_reducible apply keptO_next
    | with_reducible apply keptO_fault

theorem kept_execPortDisable {m : Nat} {s0 : State} (r : Req) (n : Fin 18) (inFlight : Option Nat) {s : State} (hm : Covers m 0x6004004b2) (h1 : Kept m s0 s) :
    KeptO m s0 (execPortDisable r n inFlight s) := by
  unfold execPortDisable
  repeat' first
    | with_reducible assumption
    | intro _
    | with_reducible exact hm.of rfl
    | with_reducible apply kept_reached
    | with_reducible apply kept_disablePort
    | with_reducible apply keptO_next
    | with_reducible apply keptO_fault

theorem kept_execPortForce {m : Nat} {s0 : State} (r : Req) (n : Fin 18) {s : State} (hm : Covers m 0x6000004a2) (h1 : Kept m s0 s) :
    KeptO m s0 (execPortForce r n s) := by
  unfold execPortForce
  repeat' first
    | with_reducible assumption
    | intro _
    | with_reducible exact hm.of rfl
    | with_reducible apply kept_reached
    | with_reducible apply kept_forcePort
    | with_reducible apply keptO_next
    | with_reducible apply keptO_fault

theorem kept_execPortRelease {m : Nat} {s0 : State} (r : Req) (n : Fin 18) {s : State} (hm : Covers m 0x400400422) (h1 : Kept m s0 s) :
    KeptO m s0 (execPortRelease r n s) := by
  unfold execPortRelease
  repeat' first
    | with_reducible assumption
    | intro _
    | with_reducible exact hm.of rfl
    | with_reducible apply kept_reached
    | with_reducible apply kept_releasePort
    | with_reducible apply keptO_next
    | with_reducible apply keptO_fault

theorem kept_execContainCountdown {m : Nat} {s0 : State} (n : Fin 18) {s : State} (hm : Covers m 0x400402) (h1 : Kept m s0 s) :
    KeptO m s0 (execContainCountdown n s) := by
  unfold execContainCountdown
  repeat' first
    | with_reducible assumption
    | intro _
    | with_reducible exact hm.of rfl
    | with_reducible apply kept_onEngine
    | with_reducible apply kept_countdown
    | with_reducible apply keptO_next
    | with_reducible apply keptO_fault

theorem kept_execSyncpt {m : Nat} {s0 : State} {s : State} (hm : Covers m 0x8600600682) (h1 : Kept m s0 s) :
    KeptO m s0 (execSyncpt s) := by
  unfold execSyncpt
  repeat' first
    | with_reducible assumption
    | intro _
    | with_reducible exact hm.of rfl
    | with_reducible apply kept_onEngine
    | with_reducible apply kept_syncpt
    | with_reducible apply keptO_next
    | with_reducible apply keptO_fault

theorem kept_execSchloadGo {m : Nat} {s0 : State} (r : Req) (src : BitVec 40) (buf : Bool) {s : State} (hm : Covers m 0x400400032) (h1 : Kept m s0 s) :
    KeptO m s0 (execSchloadGo r src buf s) := by
  unfold execSchloadGo
  repeat' first
    | with_reducible assumption
    | intro _
    | with_reducible exact hm.of rfl
    | with_reducible apply kept_reached
    | with_reducible apply kept_startLoad
    | with_reducible apply keptO_next
    | with_reducible apply keptO_fault

theorem kept_execScheduleLoadDone {m : Nat} {s0 : State} {s : State} (hm : Covers m 0x7804efc92) (h1 : Kept m s0 s) :
    KeptO m s0 (execScheduleLoadDone s) := by
  unfold execScheduleLoadDone
  repeat' first
    | with_reducible assumption
    | intro _
    | with_reducible exact hm.of rfl
    | with_reducible apply kept_onEngine
    | with_reducible apply kept_finishLoad
    | with_reducible apply keptO_next
    | with_reducible apply keptO_fault

theorem kept_execSchswArm {m : Nat} {s0 : State} (r : Req) (cyc : BitVec 32) {s : State} (hm : Covers m 0x6004004a2) (h1 : Kept m s0 s) :
    KeptO m s0 (execSchswArm r cyc s) := by
  unfold execSchswArm
  repeat' first
    | with_reducible assumption
    | intro _
    | with_reducible exact hm.of rfl
    | with_reducible apply kept_reached
    | with_reducible apply kept_armSwitch
    | with_reducible apply keptO_next
    | with_reducible apply keptO_fault

theorem kept_execScheduleSwitch {m : Nat} {s0 : State} {s : State} (hm : Covers m 0x600600482) (h1 : Kept m s0 s) :
    KeptO m s0 (execScheduleSwitch s) := by
  unfold execScheduleSwitch
  repeat' first
    | with_reducible assumption
    | intro _
    | with_reducible exact hm.of rfl
    | with_reducible apply kept_onEngine
    | with_reducible apply kept_doSwitch
    | with_reducible apply keptO_next
    | with_reducible apply keptO_fault

theorem kept_execRhlEnable {m : Nat} {s0 : State} (r : Req) {s : State} (hm : Covers m 0x86006006a2) (h1 : Kept m s0 s) :
    KeptO m s0 (execRhlEnable r s) := by
  unfold execRhlEnable
  repeat' first
    | with_reducible assumption
    | intro _
    | with_reducible exact hm.of rfl
    | with_reducible apply kept_reached
    | with_reducible apply kept_enableRhl
    | with_reducible apply keptO_next
    | with_reducible apply keptO_fault

theorem kept_execRhlDisable {m : Nat} {s0 : State} (r : Req) (inFlight : List (Fin 18 × Nat)) {s : State} (hm : Covers m 0x86006006b2) (h1 : Kept m s0 s) :
    KeptO m s0 (execRhlDisable r inFlight s) := by
  unfold execRhlDisable
  repeat' first
    | with_reducible assumption
    | intro _
    | with_reducible exact hm.of rfl
    | with_reducible apply kept_reached
    | with_reducible apply kept_disableRhl
    | with_reducible apply keptO_next
    | with_reducible apply keptO_fault

theorem kept_execListenTimeout {m : Nat} {s0 : State} {s : State} (hm : Covers m 0x400022) (h1 : Kept m s0 s) :
    KeptO m s0 (execListenTimeout s) := by
  unfold execListenTimeout
  repeat' first
    | with_reducible assumption
    | intro _
    | with_reducible exact hm.of rfl
    | with_reducible apply kept_onEngine
    | with_reducible apply kept_listenExpire
    | with_reducible apply keptO_next
    | with_reducible apply keptO_fault

theorem kept_execColdstartAccept {m : Nat} {s0 : State} (sof : Nat) (cands : List (Fin 18 × List Byte)) {s : State} (hm : Covers m 0x86006006b2) (h1 : Kept m s0 s) :
    KeptO m s0 (execColdstartAccept sof cands s) := by
  unfold execColdstartAccept
  repeat' first
    | with_reducible assumption
    | intro _
    | with_reducible exact hm.of rfl
    | with_reducible apply kept_onEngine
    | with_reducible apply kept_coldAccept
    | with_reducible apply kept_checkPartner
    | with_reducible apply keptO_ite
    | with_reducible apply kept_ite
    | with_reducible apply keptO_next
    | with_reducible apply keptO_fault
    | with_reducible apply kept_foldl
    | with_reducible apply kept_foldl1

theorem kept_execCollisionWindowClose {m : Nat} {s0 : State} {s : State} (hm : Covers m 0x600400482) (h1 : Kept m s0 s) :
    KeptO m s0 (execCollisionWindowClose s) := by
  unfold execCollisionWindowClose
  repeat' first
    | with_reducible assumption
    | intro _
    | with_reducible exact hm.of rfl
    | with_reducible apply kept_onEngine
    | with_reducible apply kept_coldClose
    | with_reducible apply keptO_next
    | with_reducible apply keptO_fault

theorem kept_execColdstartBadFcs {m : Nat} {s0 : State} {s : State} (hm : Covers m 0x8600600682) (h1 : Kept m s0 s) :
    KeptO m s0 (execColdstartBadFcs s) := by
  unfold execColdstartBadFcs
  repeat' first
    | with_reducible assumption
    | intro _
    | with_reducible exact hm.of rfl
    | with_reducible apply kept_onEngine
    | with_reducible apply kept_coldBad
    | with_reducible apply keptO_next
    | with_reducible apply keptO_fault

theorem kept_execIntegrate {m : Nat} {s0 : State} (port : Fin 18) (sof : Nat) (frame : List Byte) {s : State} (hm : Covers m 0x8600600682) (h1 : Kept m s0 s) :
    KeptO m s0 (execIntegrate port sof frame s) := by
  unfold execIntegrate
  repeat' first
    | with_reducible assumption
    | intro _
    | with_reducible exact hm.of rfl
    | with_reducible apply kept_onEngine
    | with_reducible apply kept_integrateOn
    | with_reducible apply keptO_next
    | with_reducible apply keptO_fault

theorem kept_execIntegrationTimeout {m : Nat} {s0 : State} {s : State} (hm : Covers m 0x8600600682) (h1 : Kept m s0 s) :
    KeptO m s0 (execIntegrationTimeout s) := by
  unfold execIntegrationTimeout
  repeat' first
    | with_reducible assumption
    | intro _
    | with_reducible exact hm.of rfl
    | with_reducible apply kept_onEngine
    | with_reducible apply kept_integrationExpire
    | with_reducible apply keptO_next
    | with_reducible apply keptO_fault

theorem kept_execPartnerAbsentLt {m : Nat} {s0 : State} {s : State} (hm : Covers m 0x400000) (h1 : Kept m s0 s) :
    KeptO m s0 (execPartnerAbsentLt s) := by
  unfold execPartnerAbsentLt
  repeat' first
    | with_reducible assumption
    | intro _
    | with_reducible exact hm.of rfl
    | with_reducible apply kept_onEngine
    | with_reducible apply kept_modRhl
    | with_reducible apply keptO_ite
    | with_reducible apply kept_ite
    | with_reducible apply keptO_next
    | with_reducible apply keptO_fault

end Sys2Proof.Machine
end

