-- ==== Sys2Proof/Laws/KeptChart.lean ====
section
/-! SUPPORT. What the operations of Machine/Chart.lean keep (Safety.lean, `Kept`): one lemma each, which cites those of the operations it calls. -/

namespace Sys2Proof.Machine

theorem kept_modChart {m : Nat} {s0 : State} {s : State} (f : Chart → Chart) (hm : Covers m 0x800000) (h1 : Kept m s0 s) :
    Kept m s0 (modChart s f) := by
  unfold modChart
  repeat' first
    | with_reducible assumption
    | intro _
    | with_reducible exact hm.of rfl
    | (with_reducible refine kept_upd_chart (hm.of rfl) ?_; with_reducible assumption)

theorem kept_modFio {m : Nat} {s0 : State} {s : State} (f : Fio → Fio) (hm : Covers m 0x8000000) (h1 : Kept m s0 s) :
    Kept m s0 (modFio s f) := by
  unfold modFio
  repeat' first
    | with_reducible assumption
    | intro _
    | with_reducible exact hm.of rfl
    | (with_reducible refine kept_upd_fio (hm.of rfl) ?_; with_reducible assumption)

theorem kept_seeEntry {m : Nat} {s0 : State} {s : State} (sig : Nat) (hm : Covers m 0x18002fc12) (h1 : Kept m s0 s) :
    Kept m s0 (seeEntry s sig) := by
  unfold seeEntry
  repeat' first
    | with_reducible assumption
    | intro _
    | with_reducible exact hm.of rfl
    | with_reducible apply kept_touchCw

theorem kept_loseEvent {m : Nat} {s0 : State} {s : State} (hm : Covers m 0x600000682) (h1 : Kept m s0 s) :
    Kept m s0 (loseEvent s) := by
  unfold loseEvent
  repeat' first
    | with_reducible assumption
    | intro _
    | with_reducible exact hm.of rfl
    | with_reducible apply kept_raiseOnce
    | with_reducible apply kept_evtCht
    | with_reducible apply kept_incF

theorem kept_eventRecord {m : Nat} {s0 : State} (sig : Nat) (kind : Nat) (qual : Nat) (seq : Nat) {s : State} (hm : Covers m 0x7800efe92) (h1 : Kept m s0 s) :
    Kept m s0 (eventRecord sig kind qual seq s) := by
  unfold eventRecord
  repeat' first
    | with_reducible assumption
    | intro _
    | (extract_lets +onlyGivenNames x; clear_value x; revert x; intro y)
    | with_reducible exact hm.of rfl
    | with_reducible apply kept_loseEvent
    | with_reducible apply kept_evtCht
    | with_reducible apply kept_incW
    | with_reducible apply kept_writeMem
    | with_reducible apply kept_ite

theorem kept_markSignal {m : Nat} {s0 : State} (sig : Nat) {s : State} (hm : Covers m 0x8600800482) (h1 : Kept m s0 s) :
    Kept m s0 (markSignal sig s) := by
  unfold markSignal
  repeat' first
    | with_reducible assumption
    | (intro hx; clear_value x; revert hx; revert x; intro y hy)
    | intro _
    | (subst x)
    | (extract_lets +onlyGivenNames x; refine kept_cut (m := m) (s0 := s0) (x := x) ?_ ?_)
    | (extract_lets +onlyGivenNames x; clear_value x; revert x; intro y)
    | with_reducible exact hm.of rfl
    | (with_reducible refine kept_upd_prl (hm.of rfl) ?_; with_reducible assumption)
    | with_reducible apply kept_modChart
    | with_reducible apply kept_raise
    | with_reducible apply kept_evtPrl
    | with_reducible apply kept_setF
    | with_reducible apply kept_ite

theorem kept_putEntry {m : Nat} {s0 : State} (sig : Nat) (old : Entry) (new : Entry) {s : State} (hm : Covers m 0x87808efe92) (h1 : Kept m s0 s) :
    Kept m s0 (putEntry sig old new s) := by
  unfold putEntry
  repeat' first
    | with_reducible assumption
    | (intro hx; clear_value x; revert hx; revert x; intro y hy)
    | intro _
    | (subst x)
    | (extract_lets +onlyGivenNames x; refine kept_cut (m := m) (s0 := s0) (x := x) ?_ ?_)
    | (extract_lets +onlyGivenNames x; clear_value x; revert x; intro y)
    | with_reducible exact hm.of rfl
    | with_reducible apply kept_writePart
    | with_reducible apply kept_modChart
    | with_reducible apply kept_incF
    | with_reducible apply kept_setF
    | with_reducible apply kept_markSignal
    | with_reducible apply kept_eventRecord
    | with_reducible apply kept_ite

theorem kept_dropInput {m : Nat} {s0 : State} (j : Judged) {s : State} (hm : Covers m 0x602) (h1 : Kept m s0 s) :
    Kept m s0 (dropInput j s) := by
  unfold dropInput
  repeat' first
    | with_reducible assumption
    | intro _
    | with_reducible exact hm.of rfl
    | with_reducible apply kept_incF
    | with_reducible apply kept_raiseOnce
    | split

theorem kept_inputWrite {m : Nat} {s0 : State} (sig : Nat) (code : Nat) (value : List Byte) (ts : Nat) (qual : Nat) (old : Bool) {s : State} (hm : Covers m 0x87808efe92) (h1 : Kept m s0 s) :
    Kept m s0 (inputWrite sig code value ts qual old s) := by
  unfold inputWrite
  repeat' first
    | with_reducible assumption
    | (intro hx; clear_value x; revert hx; revert x; intro y hy)
    | intro _
    | (subst x)
    | (extract_lets +onlyGivenNames x; refine kept_cut (m := m) (s0 := s0) (x := x) ?_ ?_)
    | (extract_lets +onlyGivenNames x; clear_value x; revert x; intro y)
    | with_reducible exact hm.of rfl
    | with_reducible apply kept_seeEntry
    | with_reducible apply kept_incF
    | with_reducible apply kept_putEntry
    | with_reducible apply kept_dropInput
    | split

theorem kept_putBulk {m : Nat} {s0 : State} (sig : Nat) (e : Entry) (data : List Byte) (ts : Nat) (qual : Nat) (source : Nat) {s : State} (hm : Covers m 0x87808efe92) (h1 : Kept m s0 s) :
    Kept m s0 (putBulk sig e data ts qual source s) := by
  unfold putBulk
  repeat' first
    | with_reducible assumption
    | (intro hx; clear_value x; revert hx; revert x; intro y hy)
    | intro _
    | (subst x)
    | (extract_lets +onlyGivenNames x; refine kept_cut (m := m) (s0 := s0) (x := x) ?_ ?_)
    | (extract_lets +onlyGivenNames x; clear_value x; revert x; intro y)
    | with_reducible exact hm.of rfl
    | with_reducible apply kept_putEntry
    | with_reducible apply kept_useFree
    | with_reducible apply kept_writeMem
    | with_reducible apply kept_ite

theorem kept_inputBulk {m : Nat} {s0 : State} (sig : Nat) (code : Nat) (data : List Byte) (ts : Nat) (old : Bool) {s : State} (hm : Covers m 0x87808efe92) (h1 : Kept m s0 s) :
    Kept m s0 (inputBulk sig code data ts old s) := by
  unfold inputBulk
  repeat' first
    | with_reducible assumption
    | (intro hx; clear_value x; revert hx; revert x; intro y hy)
    | intro _
    | (subst x)
    | (extract_lets +onlyGivenNames x; refine kept_cut (m := m) (s0 := s0) (x := x) ?_ ?_)
    | (extract_lets +onlyGivenNames x; clear_value x; revert x; intro y)
    | with_reducible exact hm.of rfl
    | with_reducible apply kept_seeEntry
    | with_reducible apply kept_incF
    | with_reducible apply kept_putBulk
    | with_reducible apply kept_dropInput
    | with_reducible apply kept_ite
    | split

theorem kept_sealFail {m : Nat} {s0 : State} (sig : Nat) (kind : Nat) (e : Entry) (seq : Nat) {s : State} (hm : Covers m 0x7800efe92) (h1 : Kept m s0 s) :
    Kept m s0 (sealFail sig kind e seq s) := by
  unfold sealFail
  repeat' first
    | with_reducible assumption
    | (intro hx; clear_value x; revert hx; revert x; intro y hy)
    | intro _
    | (subst x)
    | (extract_lets +onlyGivenNames x; refine kept_cut (m := m) (s0 := s0) (x := x) ?_ ?_)
    | (extract_lets +onlyGivenNames x; clear_value x; revert x; intro y)
    | with_reducible exact hm.of rfl
    | with_reducible apply kept_raiseOnce
    | with_reducible apply kept_eventRecord
    | with_reducible apply kept_ite

theorem kept_inputSealed {m : Nat} {s0 : State} (sig : Nat) (code : Nat) (flow : Nat) (el : List Byte) (ts : Nat) (old : Bool) {s : State} (hm : Covers m 0x87808efe92) (h1 : Kept m s0 s) :
    Kept m s0 (inputSealed sig code flow el ts old s) := by
  unfold inputSealed
  repeat' first
    | with_reducible assumption
    | (intro hx; clear_value x; revert hx; revert x; intro y hy)
    | intro _
    | (subst x)
    | (extract_lets +onlyGivenNames x; refine kept_cut (m := m) (s0 := s0) (x := x) ?_ ?_)
    | (extract_lets +onlyGivenNames x; clear_value x; revert x; intro y)
    | with_reducible exact hm.of rfl
    | with_reducible apply kept_seeEntry
    | with_reducible apply kept_incF
    | with_reducible apply kept_sealFail
    | with_reducible apply kept_evtCht
    | with_reducible apply kept_putEntry
    | with_reducible apply kept_dropInput
    | with_reducible apply kept_ite
    | split

theorem kept_touchMap {m : Nat} {s0 : State} {s : State} (a2 : Nat) (hm : Covers m 0x18002fc12) (h1 : Kept m s0 s) :
    Kept m s0 (touchMap s a2) := by
  unfold touchMap
  repeat' first
    | with_reducible assumption
    | (intro hx; clear_value x; revert hx; revert x; intro y hy)
    | intro _
    | (subst x)
    | (extract_lets +onlyGivenNames x; refine kept_cut (m := m) (s0 := s0) (x := x) ?_ ?_)
    | (extract_lets +onlyGivenNames x; clear_value x; revert x; intro y)
    | with_reducible exact hm.of rfl
    | with_reducible apply kept_touch
    | with_reducible apply kept_ite
    | split

theorem kept_unpackElem {m : Nat} {s0 : State} (j : Job) (old : Bool) (e : Elem) (x : State × Bool) (hm : Covers m 0x87808efe92) (h1 : Kept m s0 x.1) :
    Kept m s0 (unpackElem j old e x).1 := by
  unfold unpackElem
  obtain ⟨s, short⟩ := x
  replace h1 : Kept m s0 s := h1
  show Kept1 m s0 _
  repeat' first
    | with_reducible assumption
    | intro _
    | (extract_lets +onlyGivenNames x; clear_value x; revert x; intro y)
    | with_reducible exact hm.of rfl
    | with_reducible apply kept_inputWrite
    | with_reducible apply kept_inputSealed
    | with_reducible apply kept_seeEntry
    | with_reducible apply kept_inputBulk
    | with_reducible apply kept1_ite
    | with_reducible apply kept_ite
    | with_reducible apply kept1_mk
    | with_reducible apply kept1_of
    | split

theorem kept_unpackJob {m : Nat} {s0 : State} (j : Job) {a2 : State} (hm : Covers m 0x87808efe92) (h1 : Kept m s0 a2) :
    Kept m s0 (unpackJob j a2) := by
  unfold unpackJob
  repeat' first
    | with_reducible assumption
    | (intro hx; clear_value x; revert hx; revert x; intro y hy)
    | (intro hz; clear_value z; revert hz; revert z; intro y hy)
    | intro _
    | (subst x)
    | (subst z)
    | (extract_lets +onlyGivenNames x; refine kept_cut (m := m) (s0 := s0) (x := x) ?_ ?_)
    | (extract_lets +onlyGivenNames z; refine kept_cut (m := m) (s0 := s0) (x := z.1) ?_ ?_)
    | (extract_lets +onlyGivenNames x; clear_value x; revert x; intro y)
    | with_reducible exact hm.of rfl
    | with_reducible apply kept_touchMap
    | with_reducible apply kept_unpackElem
    | with_reducible apply kept_incF
    | with_reducible apply kept_ite
    | with_reducible apply kept_foldl
    | with_reducible apply kept_foldl1
    | (with_reducible refine Kept1.of_eq (kept_unpackElem _ _ (hm.of rfl) ?_) (by assumption))
    | (with_reducible refine Kept1.of_eq (kept_unpackElem _ _ _ (hm.of rfl) ?_) (by assumption))
    | (with_reducible refine Kept1.of_eq (kept_unpackElem _ (hm.of rfl) ?_) (by assumption))
    | split

theorem kept_mirrorRecord {m : Nat} {s0 : State} (old : Bool) (d : List Byte) {s : State} (hm : Covers m 0x87808efe92) (h1 : Kept m s0 s) :
    Kept m s0 (mirrorRecord old d s) := by
  unfold mirrorRecord
  repeat' first
    | with_reducible assumption
    | (intro hx; clear_value x; revert hx; revert x; intro y hy)
    | intro _
    | (subst x)
    | (extract_lets +onlyGivenNames x; refine kept_cut (m := m) (s0 := s0) (x := x) ?_ ?_)
    | (extract_lets +onlyGivenNames x; clear_value x; revert x; intro y)
    | with_reducible exact hm.of rfl
    | with_reducible apply kept_seeEntry
    | with_reducible apply kept_incF
    | with_reducible apply kept_dropInput
    | with_reducible apply kept_putEntry
    | with_reducible apply kept_ite
    | split

theorem kept_mirrorRecords {m : Nat} {s0 : State} (old : Bool) (n : Nat) (d : List Byte) {s : State} (hm : Covers m 0x87808efeb2) (h1 : Kept m s0 s) :
    Kept m s0 (mirrorRecords old n d s) := by
  induction n generalizing d s with
  | zero => exact h1
  | succ n ih =>
    unfold mirrorRecords
    repeat' first
      | with_reducible assumption
      | intro _
      | with_reducible exact hm.of rfl
      | with_reducible apply ih
      | with_reducible apply kept_mirrorRecord
      | with_reducible apply kept_ite
      | split

theorem kept_clearReady {m : Nat} {s0 : State} (cu : Bool) {s : State} (hm : Covers m 0x8600000482) (h1 : Kept m s0 s) :
    Kept m s0 (clearReady cu s) := by
  unfold clearReady
  repeat' first
    | with_reducible assumption
    | (intro hx; clear_value x; revert hx; revert x; intro y hy)
    | intro _
    | (subst x)
    | (extract_lets +onlyGivenNames x; refine kept_cut (m := m) (s0 := s0) (x := x) ?_ ?_)
    | (extract_lets +onlyGivenNames x; clear_value x; revert x; intro y)
    | with_reducible exact hm.of rfl
    | with_reducible apply kept_modPrl
    | with_reducible apply kept_raise
    | with_reducible apply kept_evtPrl
    | with_reducible apply kept_setF
    | with_reducible apply kept_ite

theorem kept_mirrorJob {m : Nat} {s0 : State} (ep : Nat) (p : List Byte) {s : State} (hm : Covers m 0x87808efeb2) (h1 : Kept m s0 s) :
    Kept m s0 (mirrorJob ep p s) := by
  unfold mirrorJob
  repeat' first
    | with_reducible assumption
    | intro _
    | with_reducible exact hm.of rfl
    | with_reducible apply kept_clearReady
    | with_reducible apply kept_mirrorRecords
    | with_reducible apply kept_ite

theorem kept_offerJob {m : Nat} {s0 : State} (j : Job) {s : State} (hm : Covers m 0x600800682) (h1 : Kept m s0 s) :
    Kept m s0 (offerJob j s) := by
  unfold offerJob
  repeat' first
    | with_reducible assumption
    | intro _
    | with_reducible exact hm.of rfl
    | with_reducible apply kept_modChart
    | with_reducible apply kept_raiseOnce
    | with_reducible apply kept_evtCht
    | with_reducible apply kept_incF
    | with_reducible apply kept_ite

theorem kept_sendJob {m : Nat} {s0 : State} (num : Nat) (tx : Nat) (j : Job) {s : State} (hm : Covers m 0x600800682) (h1 : Kept m s0 s) :
    Kept m s0 (sendJob num tx j s) := by
  unfold sendJob
  repeat' first
    | with_reducible assumption
    | intro _
    | with_reducible exact hm.of rfl
    | with_reducible apply kept_cross
    | with_reducible apply kept_offerJob

theorem kept_queueWrap {m : Nat} {s0 : State} (c : Nat) (a2 : Nat) (ts : Nat) (f : List Byte) {s : State} (hm : Covers m 0x1000000) (h1 : Kept m s0 s) :
    Kept m s0 (queueWrap c a2 ts f s) := by
  unfold queueWrap
  repeat' first
    | with_reducible assumption
    | intro _
    | (extract_lets +onlyGivenNames x; clear_value x; revert x; intro y)
    | with_reducible exact hm.of rfl
    | (with_reducible refine kept_upd_bkb (hm.of rfl) ?_; with_reducible assumption)

theorem kept_sendWrap {m : Nat} {s0 : State} (num : Nat) (tx : Nat) (c : Nat) (a4 : Nat) (ts : Nat) (f : List Byte) {s : State} (hm : Covers m 0x601000002) (h1 : Kept m s0 s) :
    Kept m s0 (sendWrap num tx c a4 ts f s) := by
  unfold sendWrap
  repeat' first
    | with_reducible assumption
    | intro _
    | with_reducible exact hm.of rfl
    | with_reducible apply kept_cross
    | with_reducible apply kept_queueWrap

theorem kept_packElem {m : Nat} {s0 : State} (md : MapDir) (e : Elem) (x : State × List Byte × Bool) (hm : Covers m 0x18002fc12) (h1 : Kept m s0 x.1) :
    Kept m s0 (packElem md e x).1 := by
  unfold packElem
  obtain ⟨s, pay, short⟩ := x
  replace h1 : Kept m s0 s := h1
  show Kept1 m s0 _
  repeat' first
    | with_reducible assumption
    | (intro hx; clear_value x; revert hx; revert x; intro y hy)
    | intro _
    | (subst x)
    | (extract_lets +onlyGivenNames x; refine kept_cut (m := m) (s0 := s0) (x := x) ?_ ?_)
    | (extract_lets +onlyGivenNames x; clear_value x; revert x; intro y)
    | with_reducible exact hm.of rfl
    | with_reducible apply kept_seeEntry
    | with_reducible apply kept_touch
    | with_reducible apply kept1_ite
    | with_reducible apply kept_ite
    | with_reducible apply kept1_mk
    | with_reducible apply kept1_of
    | split

theorem kept_packMap {m : Nat} {s0 : State} (a1 : Nat) {a2 : State} (hm : Covers m 0x18002fc12) (h1 : Kept m s0 a2) :
    Kept m s0 (packMap a1 a2).1 := by
  unfold packMap
  show Kept1 m s0 _
  repeat' first
    | with_reducible assumption
    | (intro hx; clear_value x; revert hx; revert x; intro y hy)
    | (intro hz; clear_value z; revert hz; revert z; intro y hy)
    | intro _
    | (subst x)
    | (subst z)
    | (extract_lets +onlyGivenNames x; refine kept_cut (m := m) (s0 := s0) (x := x) ?_ ?_)
    | (extract_lets +onlyGivenNames z; refine kept_cut (m := m) (s0 := s0) (x := z.1) ?_ ?_)
    | (extract_lets +onlyGivenNames x; clear_value x; revert x; intro y)
    | with_reducible exact hm.of rfl
    | with_reducible apply kept_touchMap
    | with_reducible apply kept_packElem
    | with_reducible apply kept_incF
    | with_reducible apply kept1_ite
    | with_reducible apply kept_ite
    | with_reducible apply kept1_mk
    | with_reducible apply kept1_of
    | with_reducible apply kept_foldl
    | with_reducible apply kept_foldl1
    | (with_reducible refine Kept1.of_eq (kept_packElem _ _ (hm.of rfl) ?_) (by assumption))
    | (with_reducible refine Kept1.of_eq (kept_packElem _ _ _ (hm.of rfl) ?_) (by assumption))
    | (with_reducible refine Kept1.of_eq (kept_packElem _ (hm.of rfl) ?_) (by assumption))
    | split

theorem kept_chartIn {m : Nat} {s0 : State} (sig : Nat) (code : Nat) (value : List Byte) (ts : Nat) (qual : Nat) {s : State} (hm : Covers m 0x87808efe92) (h1 : Kept m s0 s) :
    Kept m s0 (chartIn sig code value ts qual s) := by
  unfold chartIn
  repeat' first
    | with_reducible assumption
    | intro _
    | with_reducible exact hm.of rfl
    | with_reducible apply kept_inputWrite
    | with_reducible apply kept_ite

theorem kept_sendChart {m : Nat} {s0 : State} (sig : Nat) (code : Nat) (value : List Byte) (ts : Nat) (qual : Nat) {s : State} (hm : Covers m 0x87808efe92) (h1 : Kept m s0 s) :
    Kept m s0 (sendChart sig code value ts qual s) := by
  unfold sendChart
  repeat' first
    | with_reducible assumption
    | intro _
    | with_reducible exact hm.of rfl
    | with_reducible apply kept_cross
    | with_reducible apply kept_chartIn

theorem kept_publishField {m : Nat} {s0 : State} {a1 : State} (hm : Covers m 0x87888efe92) (h1 : Kept m s0 a1) :
    Kept m s0 (publishField a1) := by
  unfold publishField
  repeat' first
    | with_reducible assumption
    | (intro hx; clear_value x; revert hx; revert x; intro y hy)
    | intro _
    | (subst x)
    | (extract_lets +onlyGivenNames x; refine kept_cut (m := m) (s0 := s0) (x := x) ?_ ?_)
    | (extract_lets +onlyGivenNames x; clear_value x; revert x; intro y)
    | with_reducible exact hm.of rfl
    | with_reducible apply kept_modFio
    | with_reducible apply kept_setB
    | with_reducible apply kept_sendChart
    | with_reducible apply kept_ite
    | split

theorem kept_serveFields {m : Nat} {s0 : State} {s : State} (hm : Covers m 0x87888efe92) (h1 : Kept m s0 s) :
    Kept m s0 (serveFields s) := by
  unfold serveFields
  repeat' first
    | with_reducible assumption
    | intro _
    | with_reducible exact hm.of rfl
    | with_reducible apply kept_publishField
    | with_reducible apply kept_forN

theorem kept_takeJob {m : Nat} {s0 : State} (j : Job) {s : State} (hm : Covers m 0x87808efeb2) (h1 : Kept m s0 s) :
    Kept m s0 (takeJob j s) := by
  unfold takeJob
  repeat' first
    | with_reducible assumption
    | intro _
    | with_reducible exact hm.of rfl
    | with_reducible apply kept_mirrorJob
    | with_reducible apply kept_unpackJob
    | with_reducible apply kept_ite
    | split

theorem kept_serveJob {m : Nat} {s0 : State} {s : State} (hm : Covers m 0x87808efeb2) (h1 : Kept m s0 s) :
    Kept m s0 (serveJob s) := by
  unfold serveJob
  repeat' first
    | with_reducible assumption
    | intro _
    | with_reducible exact hm.of rfl
    | with_reducible apply kept_takeJob
    | with_reducible apply kept_modChart
    | split

theorem kept_serveInputs {m : Nat} {s0 : State} {a1 : State} (hm : Covers m 0x87888efeb2) (h1 : Kept m s0 a1) :
    Kept m s0 (serveInputs a1) := by
  unfold serveInputs
  repeat' first
    | with_reducible assumption
    | (intro hx; clear_value x; revert hx; revert x; intro y hy)
    | intro _
    | (subst x)
    | (extract_lets +onlyGivenNames x; refine kept_cut (m := m) (s0 := s0) (x := x) ?_ ?_)
    | (extract_lets +onlyGivenNames x; clear_value x; revert x; intro y)
    | with_reducible exact hm.of rfl
    | with_reducible apply kept_serveFields
    | with_reducible apply kept_serveJob
    | with_reducible apply kept_forN

theorem kept_publish {m : Nat} {s0 : State} (Q : Nat) (sig : Nat) (qual : Nat) (value : Option (List Byte)) {s : State} (hm : Covers m 0x87808efe92) (h1 : Kept m s0 s) :
    Kept m s0 (publish Q sig qual value s).1 := by
  unfold publish
  show Kept1 m s0 _
  repeat' first
    | with_reducible assumption
    | (intro hx; clear_value x; revert hx; revert x; intro y hy)
    | intro _
    | (subst x)
    | (extract_lets +onlyGivenNames x; refine kept_cut (m := m) (s0 := s0) (x := x) ?_ ?_)
    | (extract_lets +onlyGivenNames x; clear_value x; revert x; intro y)
    | with_reducible exact hm.of rfl
    | with_reducible apply kept_seeEntry
    | with_reducible apply kept_putEntry
    | with_reducible apply kept_incF
    | with_reducible apply kept1_ite
    | with_reducible apply kept_ite
    | with_reducible apply kept1_mk
    | with_reducible apply kept1_of
    | split

theorem kept_publishBulk {m : Nat} {s0 : State} (Q : Nat) (sig : Nat) (a : Nat) {s : State} (hm : Covers m 0x87808efe92) (h1 : Kept m s0 s) :
    Kept m s0 (publishBulk Q sig a s).1 := by
  unfold publishBulk
  show Kept1 m s0 _
  repeat' first
    | with_reducible assumption
    | (intro hx; clear_value x; revert hx; revert x; intro y hy)
    | intro _
    | (subst x)
    | (extract_lets +onlyGivenNames x; refine kept_cut (m := m) (s0 := s0) (x := x) ?_ ?_)
    | (extract_lets +onlyGivenNames x; clear_value x; revert x; intro y)
    | with_reducible exact hm.of rfl
    | with_reducible apply kept_seeEntry
    | with_reducible apply kept_putBulk
    | with_reducible apply kept_touch
    | with_reducible apply kept_incF
    | with_reducible apply kept1_ite
    | with_reducible apply kept_ite
    | with_reducible apply kept1_mk
    | with_reducible apply kept1_of
    | split

theorem kept_forceEntry {m : Nat} {s0 : State} (sig : Nat) (value : Option (List Byte)) {s : State} (hm : Covers m 0x87808efe92) (h1 : Kept m s0 s) :
    Kept m s0 (forceEntry sig value s).1 := by
  unfold forceEntry
  show Kept1 m s0 _
  repeat' first
    | with_reducible assumption
    | (intro hx; clear_value x; revert hx; revert x; intro y hy)
    | intro _
    | (subst x)
    | (extract_lets +onlyGivenNames x; refine kept_cut (m := m) (s0 := s0) (x := x) ?_ ?_)
    | (extract_lets +onlyGivenNames x; clear_value x; revert x; intro y)
    | with_reducible exact hm.of rfl
    | with_reducible apply kept_seeEntry
    | with_reducible apply kept_putEntry
    | with_reducible apply kept_incF
    | with_reducible apply kept1_ite
    | with_reducible apply kept_ite
    | with_reducible apply kept1_mk
    | with_reducible apply kept1_of
    | split

theorem kept_configure {m : Nat} {s0 : State} (Q : Nat) (sig : Nat) (d : List Byte) {s : State} (hm : Covers m 0x87808efe92) (h1 : Kept m s0 s) :
    Kept m s0 (configure Q sig d s).1 := by
  unfold configure
  show Kept1 m s0 _
  repeat' first
    | with_reducible assumption
    | (intro hx; clear_value x; revert hx; revert x; intro y hy)
    | intro _
    | (subst x)
    | (extract_lets +onlyGivenNames x; refine kept_cut (m := m) (s0 := s0) (x := x) ?_ ?_)
    | (extract_lets +onlyGivenNames x; clear_value x; revert x; intro y)
    | with_reducible exact hm.of rfl
    | with_reducible apply kept_seeEntry
    | with_reducible apply kept_putEntry
    | with_reducible apply kept1_ite
    | with_reducible apply kept_ite
    | with_reducible apply kept1_mk
    | with_reducible apply kept1_of

theorem kept_snapshot {m : Nat} {s0 : State} (Q : Nat) (sig : Nat) (a : Nat) (n : Nat) {s : State} (hm : Covers m 0x1800efc12) (h1 : Kept m s0 s) :
    Kept m s0 (snapshot Q sig a n s).1 := by
  unfold snapshot
  show Kept1 m s0 _
  repeat' first
    | with_reducible assumption
    | (intro hx; clear_value x; revert hx; revert x; intro y hy)
    | intro _
    | (subst x)
    | (extract_lets +onlyGivenNames x; refine kept_cut (m := m) (s0 := s0) (x := x) ?_ ?_)
    | (extract_lets +onlyGivenNames x; clear_value x; revert x; intro y)
    | with_reducible exact hm.of rfl
    | with_reducible apply kept_touch
    | with_reducible apply kept_writeMem
    | with_reducible apply kept1_ite
    | with_reducible apply kept_ite
    | with_reducible apply kept1_mk
    | with_reducible apply kept1_of
    | split

theorem kept_doDescriptor {m : Nat} {s0 : State} (Q : Nat) (d : List Byte) {s : State} (hm : Covers m 0x87808efe92) (h1 : Kept m s0 s) :
    Kept m s0 (doDescriptor Q d s).1 := by
  unfold doDescriptor
  show Kept1 m s0 _
  repeat' first
    | with_reducible assumption
    | intro _
    | (extract_lets +onlyGivenNames x; clear_value x; revert x; intro y)
    | with_reducible exact hm.of rfl
    | with_reducible apply kept_publish
    | with_reducible apply kept_configure
    | with_reducible apply kept_forceEntry
    | with_reducible apply kept_publishBulk
    | with_reducible apply kept_snapshot
    | with_reducible apply kept1_ite
    | with_reducible apply kept_ite
    | with_reducible apply kept1_mk
    | with_reducible apply kept1_of
    | (with_reducible refine Kept1.of_eq (kept_publish _ _ (hm.of rfl) ?_) (by assumption))
    | (with_reducible refine Kept1.of_eq (kept_publish _ _ _ (hm.of rfl) ?_) (by assumption))
    | (with_reducible refine Kept1.of_eq (kept_publish _ (hm.of rfl) ?_) (by assumption))
    | (with_reducible refine Kept1.of_eq (kept_configure _ _ (hm.of rfl) ?_) (by assumption))
    | (with_reducible refine Kept1.of_eq (kept_configure _ _ _ (hm.of rfl) ?_) (by assumption))
    | (with_reducible refine Kept1.of_eq (kept_configure _ (hm.of rfl) ?_) (by assumption))
    | (with_reducible refine Kept1.of_eq (kept_forceEntry _ _ (hm.of rfl) ?_) (by assumption))
    | (with_reducible refine Kept1.of_eq (kept_forceEntry _ _ _ (hm.of rfl) ?_) (by assumption))
    | (with_reducible refine Kept1.of_eq (kept_forceEntry _ (hm.of rfl) ?_) (by assumption))
    | (with_reducible refine Kept1.of_eq (kept_publishBulk _ _ (hm.of rfl) ?_) (by assumption))
    | (with_reducible refine Kept1.of_eq (kept_publishBulk _ _ _ (hm.of rfl) ?_) (by assumption))
    | (with_reducible refine Kept1.of_eq (kept_publishBulk _ (hm.of rfl) ?_) (by assumption))
    | (with_reducible refine Kept1.of_eq (kept_snapshot _ _ (hm.of rfl) ?_) (by assumption))
    | (with_reducible refine Kept1.of_eq (kept_snapshot _ _ _ (hm.of rfl) ?_) (by assumption))
    | (with_reducible refine Kept1.of_eq (kept_snapshot _ (hm.of rfl) ?_) (by assumption))

theorem kept_touchList {m : Nat} {s0 : State} (Q : Nat) (de : List Byte) {s : State} (hm : Covers m 0x18002fc12) (h1 : Kept m s0 s) :
    Kept m s0 (touchList Q de s) := by
  unfold touchList
  repeat' first
    | with_reducible assumption
    | intro _
    | (extract_lets +onlyGivenNames x; clear_value x; revert x; intro y)
    | with_reducible exact hm.of rfl
    | with_reducible apply kept_touch
    | with_reducible apply kept_ite

theorem kept_installMaps {m : Nat} {s0 : State} (ms : List (Nat × List Byte)) {s : State} (hm : Covers m 0x1808efc12) (h1 : Kept m s0 s) :
    Kept m s0 (installMaps ms s) := by
  unfold installMaps
  repeat' first
    | with_reducible assumption
    | (intro hx; clear_value x; revert hx; revert x; intro y hy)
    | intro _
    | (subst x)
    | (extract_lets +onlyGivenNames x; refine kept_cut (m := m) (s0 := s0) (x := x) ?_ ?_)
    | (extract_lets +onlyGivenNames x; clear_value x; revert x; intro y)
    | with_reducible exact hm.of rfl
    | with_reducible apply kept_writeMem
    | with_reducible apply kept_setF
    | with_reducible apply kept_modChart
    | with_reducible apply kept_ite
    | with_reducible apply kept_foldl
    | with_reducible apply kept_foldl1
    | split

theorem kept_runChain {m : Nat} {s0 : State} (Q : Nat) (k : Nat) (l : List (List Byte)) (acc : List (Nat × List Byte)) {s : State} (hm : Covers m 0x87808efe92) (h1 : Kept m s0 s) :
    Kept m s0 (runChain Q k l acc s).1 := by
  induction l generalizing k acc s with
  | nil => exact h1
  | cons e r ih =>
    unfold runChain
    show Kept1 m s0 _
    repeat' first
      | with_reducible assumption
      | (intro hx; clear_value x; revert hx; revert x; intro y hy)
      | (intro hz; clear_value z; revert hz; revert z; intro y hy)
      | intro _
      | (subst x)
      | (subst z)
      | (extract_lets +onlyGivenNames x; refine kept_cut (m := m) (s0 := s0) (x := x) ?_ ?_)
      | (extract_lets +onlyGivenNames z; refine kept_cut (m := m) (s0 := s0) (x := z.1) ?_ ?_)
      | (extract_lets +onlyGivenNames x; clear_value x; revert x; intro y)
      | with_reducible exact hm.of rfl
      | with_reducible apply ih
      | with_reducible apply kept_touchList
      | with_reducible apply kept_doDescriptor
      | with_reducible apply kept1_ite
      | with_reducible apply kept_ite
      | with_reducible apply kept1_mk
      | with_reducible apply kept1_of
      | (with_reducible refine Kept1.of_eq (kept_doDescriptor _ _ (hm.of rfl) ?_) (by assumption))
      | (with_reducible refine Kept1.of_eq (kept_doDescriptor _ _ _ (hm.of rfl) ?_) (by assumption))
      | (with_reducible refine Kept1.of_eq (kept_doDescriptor _ (hm.of rfl) ?_) (by assumption))
      | split

theorem kept_publishOp {m : Nat} {s0 : State} (o : QOp) {s : State} (hm : Covers m 0x87808efed2) (h1 : Kept m s0 s) :
    Kept m s0 (publishOp o s) := by
  unfold publishOp
  repeat' first
    | with_reducible assumption
    | (intro hx; clear_value x; revert hx; revert x; intro y hy)
    | (intro hz; clear_value z; revert hz; revert z; intro y hy)
    | intro _
    | (subst x)
    | (subst z)
    | (extract_lets +onlyGivenNames x; refine kept_cut (m := m) (s0 := s0) (x := x) ?_ ?_)
    | (extract_lets +onlyGivenNames z; refine kept_cut (m := m) (s0 := s0) (x := z.1) ?_ ?_)
    | (extract_lets +onlyGivenNames x; clear_value x; revert x; intro y)
    | with_reducible exact hm.of rfl
    | with_reducible apply kept_starting
    | with_reducible apply kept_runChain
    | with_reducible apply kept_finish
    | with_reducible apply kept_modChart
    | with_reducible apply kept_startOp
    | with_reducible apply kept_ite
    | (with_reducible refine Kept1.of_eq (kept_runChain _ _ (hm.of rfl) ?_) (by assumption))
    | (with_reducible refine Kept1.of_eq (kept_runChain _ _ _ (hm.of rfl) ?_) (by assumption))
    | (with_reducible refine Kept1.of_eq (kept_runChain _ (hm.of rfl) ?_) (by assumption))
    | split

theorem kept_runPublish {m : Nat} {s0 : State} (q : Nat) (opc : Nat) {a3 : State} (hm : Covers m 0x87888efef2) (h1 : Kept m s0 a3) :
    Kept m s0 (runPublish q opc a3) := by
  unfold runPublish
  repeat' first
    | with_reducible assumption
    | (intro hx; clear_value x; revert hx; revert x; intro y hy)
    | (intro hz; clear_value z; revert hz; revert z; intro y hy)
    | intro _
    | (subst x)
    | (subst z)
    | (extract_lets +onlyGivenNames x; refine kept_cut (m := m) (s0 := s0) (x := x) ?_ ?_)
    | (extract_lets +onlyGivenNames z; refine kept_cut (m := m) (s0 := s0) (x := z.1) ?_ ?_)
    | (extract_lets +onlyGivenNames x; clear_value x; revert x; intro y)
    | with_reducible exact hm.of rfl
    | with_reducible apply kept_serveInputs
    | with_reducible apply kept_publishOp
    | with_reducible apply kept_ite
    | with_reducible apply kept_foldl
    | with_reducible apply kept_foldl1
    | split

theorem kept_mapsTakeEffect {m : Nat} {s0 : State} {s : State} (hm : Covers m 0x1808efc52) (h1 : Kept m s0 s) :
    Kept m s0 (mapsTakeEffect s) := by
  unfold mapsTakeEffect
  repeat' first
    | with_reducible assumption
    | (intro hx; clear_value x; revert hx; revert x; intro y hy)
    | intro _
    | (subst x)
    | (extract_lets +onlyGivenNames x; refine kept_cut (m := m) (s0 := s0) (x := x) ?_ ?_)
    | (extract_lets +onlyGivenNames x; clear_value x; revert x; intro y)
    | with_reducible exact hm.of rfl
    | with_reducible apply kept_modChart
    | with_reducible apply kept_installMaps
    | with_reducible apply kept_finish
    | with_reducible apply kept_ite
    | split

theorem kept_sweepEntry {m : Nat} {s0 : State} (sig : Nat) {s : State} (hm : Covers m 0x87808efe92) (h1 : Kept m s0 s) :
    Kept m s0 (sweepEntry sig s) := by
  unfold sweepEntry
  repeat' first
    | with_reducible assumption
    | (intro hx; clear_value x; revert hx; revert x; intro y hy)
    | intro _
    | (subst x)
    | (extract_lets +onlyGivenNames x; refine kept_cut (m := m) (s0 := s0) (x := x) ?_ ?_)
    | (extract_lets +onlyGivenNames x; clear_value x; revert x; intro y)
    | with_reducible exact hm.of rfl
    | with_reducible apply kept_seeEntry
    | with_reducible apply kept_incF
    | with_reducible apply kept_eventRecord
    | with_reducible apply kept_putEntry
    | with_reducible apply kept_ite
    | split

theorem kept_serveDescriptors {m : Nat} {s0 : State} {a1 : State} (hm : Covers m 0x87888efef2) (h1 : Kept m s0 a1) :
    Kept m s0 (serveDescriptors a1) := by
  unfold serveDescriptors
  repeat' first
    | with_reducible assumption
    | (intro hx; clear_value x; revert hx; revert x; intro y hy)
    | intro _
    | (subst x)
    | (extract_lets +onlyGivenNames x; refine kept_cut (m := m) (s0 := s0) (x := x) ?_ ?_)
    | (extract_lets +onlyGivenNames x; clear_value x; revert x; intro y)
    | with_reducible exact hm.of rfl
    | with_reducible apply kept_serveInputs
    | with_reducible apply kept_publishOp
    | with_reducible apply kept_ite
    | with_reducible apply kept_foldl
    | with_reducible apply kept_foldl1

theorem kept_sweep {m : Nat} {s0 : State} (late : Bool) {a2 : State} (hm : Covers m 0x87888efef2) (h1 : Kept m s0 a2) :
    Kept m s0 (sweep late a2) := by
  unfold sweep
  repeat' first
    | with_reducible assumption
    | (intro hx; clear_value x; revert hx; revert x; intro y hy)
    | intro _
    | (subst x)
    | (extract_lets +onlyGivenNames x; refine kept_cut (m := m) (s0 := s0) (x := x) ?_ ?_)
    | (extract_lets +onlyGivenNames x; clear_value x; revert x; intro y)
    | with_reducible exact hm.of rfl
    | with_reducible apply kept_serveDescriptors
    | with_reducible apply kept_touch
    | with_reducible apply kept_sweepEntry
    | with_reducible apply kept_raiseOnce
    | with_reducible apply kept_evtCht
    | with_reducible apply kept_incF
    | with_reducible apply kept_incW
    | with_reducible apply kept_ite
    | with_reducible apply kept_foldl
    | with_reducible apply kept_foldl1

theorem kept_execUnpackFrame {m : Nat} {s0 : State} {s : State} (hm : Covers m 0x87888efeb2) (h1 : Kept m s0 s) :
    KeptO m s0 (execUnpackFrame s) := by
  unfold execUnpackFrame
  repeat' first
    | with_reducible assumption
    | intro _
    | with_reducible exact hm.of rfl
    | with_reducible apply kept_onEngine
    | with_reducible apply kept_serveJob
    | with_reducible apply kept_serveFields
    | with_reducible apply keptO_next
    | with_reducible apply keptO_fault

theorem kept_execPub {m : Nat} {s0 : State} (q : Fin 128) {s : State} (hm : Covers m 0x87888efef2) (h1 : Kept m s0 s) :
    KeptO m s0 (execPub q s) := by
  unfold execPub
  repeat' first
    | with_reducible assumption
    | intro _
    | with_reducible exact hm.of rfl
    | with_reducible apply kept_onEngine
    | with_reducible apply kept_runPublish
    | with_reducible apply keptO_next
    | with_reducible apply keptO_fault

theorem kept_execPubsub {m : Nat} {s0 : State} (q : Fin 128) {s : State} (hm : Covers m 0x87888efef2) (h1 : Kept m s0 s) :
    KeptO m s0 (execPubsub q s) := by
  unfold execPubsub
  repeat' first
    | with_reducible assumption
    | intro _
    | with_reducible exact hm.of rfl
    | with_reducible apply kept_onEngine
    | with_reducible apply kept_runPublish
    | with_reducible apply keptO_next
    | with_reducible apply keptO_fault

theorem kept_execPublim {m : Nat} {s0 : State} (q : Fin 128) {s : State} (hm : Covers m 0x87888efef2) (h1 : Kept m s0 s) :
    KeptO m s0 (execPublim q s) := by
  unfold execPublim
  repeat' first
    | with_reducible assumption
    | intro _
    | with_reducible exact hm.of rfl
    | with_reducible apply kept_onEngine
    | with_reducible apply kept_runPublish
    | with_reducible apply keptO_next
    | with_reducible apply keptO_fault

theorem kept_execInval {m : Nat} {s0 : State} (q : Fin 128) {s : State} (hm : Covers m 0x87888efef2) (h1 : Kept m s0 s) :
    KeptO m s0 (execInval q s) := by
  unfold execInval
  repeat' first
    | with_reducible assumption
    | intro _
    | with_reducible exact hm.of rfl
    | with_reducible apply kept_onEngine
    | with_reducible apply kept_runPublish
    | with_reducible apply keptO_next
    | with_reducible apply keptO_fault

theorem kept_execCfg {m : Nat} {s0 : State} (q : Fin 128) {s : State} (hm : Covers m 0x87888efef2) (h1 : Kept m s0 s) :
    KeptO m s0 (execCfg q s) := by
  unfold execCfg
  repeat' first
    | with_reducible assumption
    | intro _
    | with_reducible exact hm.of rfl
    | with_reducible apply kept_onEngine
    | with_reducible apply kept_runPublish
    | with_reducible apply keptO_next
    | with_reducible apply keptO_fault

theorem kept_execForce {m : Nat} {s0 : State} (q : Fin 128) {s : State} (hm : Covers m 0x87888efef2) (h1 : Kept m s0 s) :
    KeptO m s0 (execForce q s) := by
  unfold execForce
  repeat' first
    | with_reducible assumption
    | intro _
    | with_reducible exact hm.of rfl
    | with_reducible apply kept_onEngine
    | with_reducible apply kept_runPublish
    | with_reducible apply keptO_next
    | with_reducible apply keptO_fault

theorem kept_execUnforce {m : Nat} {s0 : State} (q : Fin 128) {s : State} (hm : Covers m 0x87888efef2) (h1 : Kept m s0 s) :
    KeptO m s0 (execUnforce q s) := by
  unfold execUnforce
  repeat' first
    | with_reducible assumption
    | intro _
    | with_reducible exact hm.of rfl
    | with_reducible apply kept_onEngine
    | with_reducible apply kept_runPublish
    | with_reducible apply keptO_next
    | with_reducible apply keptO_fault

theorem kept_execMapset {m : Nat} {s0 : State} (q : Fin 128) {s : State} (hm : Covers m 0x87888efef2) (h1 : Kept m s0 s) :
    KeptO m s0 (execMapset q s) := by
  unfold execMapset
  repeat' first
    | with_reducible assumption
    | intro _
    | with_reducible exact hm.of rfl
    | with_reducible apply kept_onEngine
    | with_reducible apply kept_runPublish
    | with_reducible apply keptO_next
    | with_reducible apply keptO_fault

theorem kept_execMapTakeEffect {m : Nat} {s0 : State} {s : State} (hm : Covers m 0x1808efc52) (h1 : Kept m s0 s) :
    KeptO m s0 (execMapTakeEffect s) := by
  unfold execMapTakeEffect
  repeat' first
    | with_reducible assumption
    | intro _
    | with_reducible exact hm.of rfl
    | with_reducible apply kept_onEngine
    | with_reducible apply kept_mapsTakeEffect
    | with_reducible apply keptO_next
    | with_reducible apply keptO_fault

theorem kept_execPubbulk {m : Nat} {s0 : State} (q : Fin 128) {s : State} (hm : Covers m 0x87888efef2) (h1 : Kept m s0 s) :
    KeptO m s0 (execPubbulk q s) := by
  unfold execPubbulk
  repeat' first
    | with_reducible assumption
    | intro _
    | with_reducible exact hm.of rfl
    | with_reducible apply kept_onEngine
    | with_reducible apply kept_runPublish
    | with_reducible apply keptO_next
    | with_reducible apply keptO_fault

theorem kept_execSnap {m : Nat} {s0 : State} (q : Fin 128) {s : State} (hm : Covers m 0x87888efef2) (h1 : Kept m s0 s) :
    KeptO m s0 (execSnap q s) := by
  unfold execSnap
  repeat' first
    | with_reducible assumption
    | intro _
    | with_reducible exact hm.of rfl
    | with_reducible apply kept_onEngine
    | with_reducible apply kept_runPublish
    | with_reducible apply keptO_next
    | with_reducible apply keptO_fault

theorem kept_execSweepPass {m : Nat} {s0 : State} (late : Bool) {s : State} (hm : Covers m 0x87888efef2) (h1 : Kept m s0 s) :
    KeptO m s0 (execSweepPass late s) := by
  unfold execSweepPass
  repeat' first
    | with_reducible assumption
    | intro _
    | with_reducible exact hm.of rfl
    | with_reducible apply kept_onEngine
    | with_reducible apply kept_sweep
    | with_reducible apply keptO_next
    | with_reducible apply keptO_fault

end Sys2Proof.Machine
end

