-- ==== Sys2Proof/Laws/KeptCan.lean ====
section
/-! SUPPORT. What the operations of Machine/Can.lean keep (Safety.lean, `Kept`): one lemma each, which cites those of the operations it calls. -/

namespace Sys2Proof.Machine

theorem kept_modCan {m : Nat} {s0 : State} {s : State} (n : Nat) (f : CanCh → CanCh) (hm : Covers m 0x2000002) (h1 : Kept m s0 s) :
    Kept m s0 (modCan s n f) := by
  unfold modCan
  repeat' first
    | with_reducible assumption
    | (intro hx; clear_value x; revert hx; revert x; intro y hy)
    | intro _
    | (subst x)
    | (extract_lets +onlyGivenNames x; refine kept_cut (m := m) (s0 := s0) (x := x) ?_ ?_)
    | (extract_lets +onlyGivenNames x; clear_value x; revert x; intro y)
    | with_reducible exact hm.of rfl
    | ((with_reducible refine kept_upd_can (hm.of rfl) ?_ ?_) <;> first | with_reducible exact id | with_reducible exact kwf_putFile _ _ _ _ | with_reducible exact kwf_kput 0 _ _ _ | exact fun e => (length_modAt _ _ _).trans e | exact fun e => (List.length_map ..).trans e | exact fun _ => rfl | exact kwf_filter 0 _ _ | exact kwf_foldl_kput 0 _ _ | exact kwf_kput 0 _ _ _ | (with_reducible assumption))
    | with_reducible apply kept_setF

theorem kept_setCanState {m : Nat} {s0 : State} (n : Nat) (a2 : Nat) {s : State} (hm : Covers m 0x600000482) (h1 : Kept m s0 s) :
    Kept m s0 (setCanState n a2 s) := by
  unfold setCanState
  repeat' first
    | with_reducible assumption
    | (intro hx; clear_value x; revert hx; revert x; intro y hy)
    | intro _
    | (subst x)
    | (extract_lets +onlyGivenNames x; refine kept_cut (m := m) (s0 := s0) (x := x) ?_ ?_)
    | (extract_lets +onlyGivenNames x; clear_value x; revert x; intro y)
    | with_reducible exact hm.of rfl
    | with_reducible apply kept_evtCan
    | with_reducible apply kept_setFBit
    | with_reducible apply kept_setF
    | with_reducible apply kept_raise
    | with_reducible apply kept_ite

theorem kept_enableCan {m : Nat} {s0 : State} (n : Nat) {s : State} (hm : Covers m 0x600000482) (h1 : Kept m s0 s) :
    Kept m s0 (enableCan n s) := by
  unfold enableCan
  repeat' first
    | with_reducible assumption
    | intro _
    | with_reducible exact hm.of rfl
    | with_reducible apply kept_evtCan
    | with_reducible apply kept_setCanState
    | with_reducible apply kept_setFBit
    | with_reducible apply kept_setF
    | with_reducible apply kept_ite

theorem kept_storeHp {m : Nat} {s0 : State} (n : Nat) (idx : Nat) (f : RxFrame) {s : State} (hm : Covers m 0x600000682) (h1 : Kept m s0 s) :
    Kept m s0 (storeHp n idx f s) := by
  unfold storeHp
  repeat' first
    | with_reducible assumption
    | (intro hx; clear_value x; revert hx; revert x; intro y hy)
    | intro _
    | (subst x)
    | (extract_lets +onlyGivenNames x; refine kept_cut (m := m) (s0 := s0) (x := x) ?_ ?_)
    | (extract_lets +onlyGivenNames x; clear_value x; revert x; intro y)
    | with_reducible exact hm.of rfl
    | with_reducible apply kept_raiseOnce
    | with_reducible apply kept_evtCan
    | with_reducible apply kept_incF
    | with_reducible apply kept_setF
    | with_reducible apply kept_sendTarget
    | with_reducible apply kept_ite
    | with_reducible apply kept_forN

theorem kept_storeRing {m : Nat} {s0 : State} (n : Nat) (idx : Nat) (f : RxFrame) {s : State} (hm : Covers m 0x7800efed2) (h1 : Kept m s0 s) :
    Kept m s0 (storeRing n idx f s) := by
  unfold storeRing
  repeat' first
    | with_reducible assumption
    | intro _
    | with_reducible exact hm.of rfl
    | with_reducible apply kept_takePosted
    | with_reducible apply kept_evtCan
    | with_reducible apply kept_incF
    | with_reducible apply kept_fillPosted

theorem kept_mapAction {m : Nat} {s0 : State} (n : Nat) (idx : Nat) (map : Nat) (f : RxFrame) {s : State} (hm : Covers m 0x600800682) (h1 : Kept m s0 s) :
    Kept m s0 (mapAction n idx map f s) := by
  unfold mapAction
  repeat' first
    | with_reducible assumption
    | intro _
    | with_reducible exact hm.of rfl
    | with_reducible apply kept_sendJob

theorem kept_tunAction {m : Nat} {s0 : State} (n : Nat) (c : Nat) (f : RxFrame) {s : State} (hm : Covers m 0x601000002) (h1 : Kept m s0 s) :
    Kept m s0 (tunAction n c f s) := by
  unfold tunAction
  repeat' first
    | with_reducible assumption
    | intro _
    | with_reducible exact hm.of rfl
    | with_reducible apply kept_sendWrap
    | with_reducible apply kept_incF
    | with_reducible apply kept_ite

theorem kept_filterFrame {m : Nat} {s0 : State} (n : Nat) (f : RxFrame) {s : State} (hm : Covers m 0x7818efed2) (h1 : Kept m s0 s) :
    Kept m s0 (filterFrame n f s) := by
  unfold filterFrame
  repeat' first
    | with_reducible assumption
    | (intro hx; clear_value x; revert hx; revert x; intro y hy)
    | intro _
    | (subst x)
    | (extract_lets +onlyGivenNames x; refine kept_cut (m := m) (s0 := s0) (x := x) ?_ ?_)
    | (extract_lets +onlyGivenNames x; clear_value x; revert x; intro y)
    | with_reducible exact hm.of rfl
    | with_reducible apply kept_storeHp
    | with_reducible apply kept_mapAction
    | with_reducible apply kept_tunAction
    | with_reducible apply kept_storeRing
    | with_reducible apply kept_incF
    | with_reducible apply kept_ite
    | split

theorem kept_touchTx {m : Nat} {s0 : State} {s : State} (n : Nat) (ds : List (List Byte)) (hm : Covers m 0x18002fc12) (h1 : Kept m s0 s) :
    Kept m s0 (touchTx s n ds) := by
  unfold touchTx
  repeat' first
    | with_reducible assumption
    | intro _
    | with_reducible exact hm.of rfl
    | with_reducible apply kept_touch
    | with_reducible apply kept_ite
    | with_reducible apply kept_foldl
    | with_reducible apply kept_foldl1

theorem kept_takeTx {m : Nat} {s0 : State} (n : Nat) {s : State} (hm : Covers m 0x18202fe52) (h1 : Kept m s0 s) :
    Kept m s0 (takeTx n s) := by
  unfold takeTx
  repeat' first
    | with_reducible assumption
    | intro _
    | (extract_lets +onlyGivenNames x; clear_value x; revert x; intro y)
    | with_reducible exact hm.of rfl
    | with_reducible apply kept_starting
    | with_reducible apply kept_finish
    | with_reducible apply kept_touchTx
    | with_reducible apply kept_modCan
    | with_reducible apply kept_startOp
    | with_reducible apply kept_ite
    | split

theorem kept_endTx {m : Nat} {s0 : State} (n : Nat) (f : CanTx) (st : Nat) {s : State} (hm : Covers m 0x42) (h1 : Kept m s0 s) :
    Kept m s0 (endTx n f st s) := by
  unfold endTx
  repeat' first
    | with_reducible assumption
    | intro _
    | with_reducible exact hm.of rfl
    | with_reducible apply kept_finish
    | with_reducible apply kept_incF
    | with_reducible apply kept_ite
    | split

theorem kept_dropTx {m : Nat} {s0 : State} (n : Nat) (f : CanTx) (st : Nat) {s : State} (hm : Covers m 0x2000042) (h1 : Kept m s0 s) :
    Kept m s0 (dropTx n f st s) := by
  unfold dropTx
  repeat' first
    | with_reducible assumption
    | intro _
    | with_reducible exact hm.of rfl
    | with_reducible apply kept_endTx
    | with_reducible apply kept_modCan
    | with_reducible apply kept_ite
    | split

theorem kept_removeCancelled {m : Nat} {s0 : State} (n : Nat) {s : State} (hm : Covers m 0x2000042) (h1 : Kept m s0 s) :
    Kept m s0 (removeCancelled n s) := by
  unfold removeCancelled
  repeat' first
    | with_reducible assumption
    | intro _
    | with_reducible exact hm.of rfl
    | with_reducible apply kept_dropTx
    | with_reducible apply kept_ite
    | with_reducible apply kept_foldl
    | with_reducible apply kept_foldl1

theorem kept_arbitrate {m : Nat} {s0 : State} (n : Nat) (sof : Nat) {s : State} (hm : Covers m 0x2000042) (h1 : Kept m s0 s) :
    Kept m s0 (arbitrate n sof s) := by
  unfold arbitrate
  repeat' first
    | with_reducible assumption
    | (intro hx; clear_value x; revert hx; revert x; intro y hy)
    | intro _
    | (subst x)
    | (extract_lets +onlyGivenNames x; refine kept_cut (m := m) (s0 := s0) (x := x) ?_ ?_)
    | (extract_lets +onlyGivenNames x; clear_value x; revert x; intro y)
    | with_reducible exact hm.of rfl
    | with_reducible apply kept_removeCancelled
    | with_reducible apply kept_modCan
    | with_reducible apply kept_ite

theorem kept_flushIf {m : Nat} {s0 : State} (n : Nat) (st : Nat) (p : CanTx → Bool) {s : State} (hm : Covers m 0x2000042) (h1 : Kept m s0 s) :
    Kept m s0 (flushIf n st p s) := by
  unfold flushIf
  repeat' first
    | with_reducible assumption
    | intro _
    | (extract_lets +onlyGivenNames x; clear_value x; revert x; intro y)
    | with_reducible exact hm.of rfl
    | with_reducible apply kept_endTx
    | with_reducible apply kept_modCan
    | with_reducible apply kept_ite
    | with_reducible apply kept_foldl
    | with_reducible apply kept_foldl1

theorem kept_flushFifo {m : Nat} {s0 : State} (n : Nat) (st : Nat) {s : State} (hm : Covers m 0x2000042) (h1 : Kept m s0 s) :
    Kept m s0 (flushFifo n st s) := by
  unfold flushFifo
  repeat' first
    | with_reducible assumption
    | intro _
    | with_reducible exact hm.of rfl
    | with_reducible apply kept_flushIf
    | with_reducible apply kept_modCan

theorem kept_sentFrame {m : Nat} {s0 : State} (n : Nat) (f : CanTx) {s : State} (hm : Covers m 0x7818efef2) (h1 : Kept m s0 s) :
    Kept m s0 (sentFrame n f s) := by
  unfold sentFrame
  repeat' first
    | with_reducible assumption
    | intro _
    | with_reducible exact hm.of rfl
    | with_reducible apply kept_filterFrame
    | with_reducible apply kept_incF
    | with_reducible apply kept_emit
    | with_reducible apply kept_ite

theorem kept_errorFlag {m : Nat} {s0 : State} (n : Nat) {s : State} (hm : Covers m 0x20) (h1 : Kept m s0 s) :
    Kept m s0 (errorFlag n s) := by
  unfold errorFlag
  repeat' first
    | with_reducible assumption
    | intro _
    | with_reducible exact hm.of rfl
    | with_reducible apply kept_emit
    | with_reducible apply kept_ite

theorem kept_closeCan {m : Nat} {s0 : State} (n : Nat) {s : State} (hm : Covers m 0x6020004c2) (h1 : Kept m s0 s) :
    Kept m s0 (closeCan n s) := by
  unfold closeCan
  repeat' first
    | with_reducible assumption
    | intro _
    | with_reducible exact hm.of rfl
    | with_reducible apply kept_setCanState
    | with_reducible apply kept_flushFifo
    | with_reducible apply kept_modCan
    | with_reducible apply kept_ite

theorem kept_endAttempt {m : Nat} {s0 : State} (n : Nat) (how : AttemptEnd) {s : State} (hm : Covers m 0x7838efef2) (h1 : Kept m s0 s) :
    Kept m s0 (endAttempt n how s) := by
  unfold endAttempt
  repeat' first
    | with_reducible assumption
    | (intro hx; clear_value x; revert hx; revert x; intro y hy)
    | intro _
    | (subst x)
    | (extract_lets +onlyGivenNames x; refine kept_cut (m := m) (s0 := s0) (x := x) ?_ ?_)
    | (extract_lets +onlyGivenNames x; clear_value x; revert x; intro y)
    | with_reducible exact hm.of rfl
    | with_reducible apply kept_modCan
    | with_reducible apply kept_closeCan
    | with_reducible apply kept_incF
    | with_reducible apply kept_sentFrame
    | with_reducible apply kept_endTx
    | with_reducible apply kept_dropTx
    | with_reducible apply kept_errorFlag
    | with_reducible apply kept_setF
    | with_reducible apply kept_ite
    | split

theorem kept_takeCancel {m : Nat} {s0 : State} (n : Nat) {s : State} (hm : Covers m 0x2000642) (h1 : Kept m s0 s) :
    Kept m s0 (takeCancel n s) := by
  unfold takeCancel
  repeat' first
    | with_reducible assumption
    | intro _
    | (extract_lets +onlyGivenNames x; clear_value x; revert x; intro y)
    | with_reducible exact hm.of rfl
    | with_reducible apply kept_starting
    | with_reducible apply kept_finish
    | with_reducible apply kept_modCan
    | with_reducible apply kept_startOp
    | with_reducible apply kept_ite

theorem kept_tunnelTx {m : Nat} {s0 : State} (n : Nat) (a2 : Nat) (record : List Byte) (data : List Byte) {s : State} (hm : Covers m 0x2000002) (h1 : Kept m s0 s) :
    KeptM m s0 (tunnelTx n a2 record data s) := by
  unfold tunnelTx
  repeat' first
    | with_reducible assumption
    | intro _
    | with_reducible exact hm.of rfl
    | with_reducible apply kept_modCan
    | with_reducible apply keptM_ite
    | with_reducible apply kept_ite
    | with_reducible apply keptM_some
    | with_reducible apply keptM_none

theorem kept_acknowledge {m : Nat} {s0 : State} (n : Nat) {s : State} (hm : Covers m 0x20) (h1 : Kept m s0 s) :
    Kept m s0 (acknowledge n s) := by
  unfold acknowledge
  repeat' first
    | with_reducible assumption
    | intro _
    | with_reducible exact hm.of rfl
    | with_reducible apply kept_emit
    | with_reducible apply kept_ite

theorem kept_canReceive {m : Nat} {s0 : State} (n : Nat) (lec : Nat) (f : RxFrame) {s : State} (hm : Covers m 0x7818efef2) (h1 : Kept m s0 s) :
    Kept m s0 (canReceive n lec f s) := by
  unfold canReceive
  repeat' first
    | with_reducible assumption
    | intro _
    | with_reducible exact hm.of rfl
    | with_reducible apply kept_errorFlag
    | with_reducible apply kept_setF
    | with_reducible apply kept_incF
    | with_reducible apply kept_evtCan
    | with_reducible apply kept_filterFrame
    | with_reducible apply kept_acknowledge
    | with_reducible apply kept_ite

theorem kept_popHp {m : Nat} {s0 : State} (n : Nat) {s : State} (hm : Covers m 0x2) (h1 : Kept m s0 s) :
    Kept m s0 (popHp n s) := by
  unfold popHp
  repeat' first
    | with_reducible assumption
    | intro _
    | (extract_lets +onlyGivenNames x; clear_value x; revert x; intro y)
    | with_reducible exact hm.of rfl
    | with_reducible apply kept_setF
    | with_reducible apply kept_ite

theorem kept_postRxbuf {m : Nat} {s0 : State} (Q : Nat) (least : Nat) {s : State} (hm : Covers m 0x642) (h1 : Kept m s0 s) :
    Kept m s0 (postRxbuf Q least s) := by
  unfold postRxbuf
  repeat' first
    | with_reducible assumption
    | intro _
    | (extract_lets +onlyGivenNames x; clear_value x; revert x; intro y)
    | with_reducible exact hm.of rfl
    | with_reducible apply kept_starting
    | with_reducible apply kept_finish
    | with_reducible apply kept_postOp
    | with_reducible apply kept_ite

theorem kept_enterBusOff {m : Nat} {s0 : State} (n : Nat) {s : State} (hm : Covers m 0x6020004c2) (h1 : Kept m s0 s) :
    Kept m s0 (enterBusOff n s) := by
  unfold enterBusOff
  repeat' first
    | with_reducible assumption
    | (intro hx; clear_value x; revert hx; revert x; intro y hy)
    | intro _
    | (subst x)
    | (extract_lets +onlyGivenNames x; refine kept_cut (m := m) (s0 := s0) (x := x) ?_ ?_)
    | (extract_lets +onlyGivenNames x; clear_value x; revert x; intro y)
    | with_reducible exact hm.of rfl
    | with_reducible apply kept_evtCan
    | with_reducible apply kept_incF
    | with_reducible apply kept_setCanState
    | with_reducible apply kept_flushFifo
    | with_reducible apply kept_raise
    | with_reducible apply kept_ite

theorem kept_setErrors {m : Nat} {s0 : State} (n : Nat) (tec : Nat) (rcv : Nat) {s : State} (hm : Covers m 0x6020004c2) (h1 : Kept m s0 s) :
    Kept m s0 (setErrors n tec rcv s) := by
  unfold setErrors
  repeat' first
    | with_reducible assumption
    | (intro hx; clear_value x; revert hx; revert x; intro y hy)
    | intro _
    | (subst x)
    | (extract_lets +onlyGivenNames x; refine kept_cut (m := m) (s0 := s0) (x := x) ?_ ?_)
    | (extract_lets +onlyGivenNames x; clear_value x; revert x; intro y)
    | with_reducible exact hm.of rfl
    | with_reducible apply kept_setF
    | with_reducible apply kept_enterBusOff
    | with_reducible apply kept_setCanState
    | with_reducible apply kept_ite

theorem kept_recoverCan {m : Nat} {s0 : State} (n : Nat) {s : State} (hm : Covers m 0x600000482) (h1 : Kept m s0 s) :
    Kept m s0 (recoverCan n s) := by
  unfold recoverCan
  repeat' first
    | with_reducible assumption
    | intro _
    | with_reducible exact hm.of rfl
    | with_reducible apply kept_setCanState
    | with_reducible apply kept_ite

theorem kept_disableCan {m : Nat} {s0 : State} (n : Nat) {s : State} (hm : Covers m 0x6020004c2) (h1 : Kept m s0 s) :
    Kept m s0 (disableCan n s) := by
  unfold disableCan
  repeat' first
    | with_reducible assumption
    | (intro hx; clear_value x; revert hx; revert x; intro y hy)
    | intro _
    | (subst x)
    | (extract_lets +onlyGivenNames x; refine kept_cut (m := m) (s0 := s0) (x := x) ?_ ?_)
    | (extract_lets +onlyGivenNames x; clear_value x; revert x; intro y)
    | with_reducible exact hm.of rfl
    | with_reducible apply kept_setFBit
    | with_reducible apply kept_setF
    | with_reducible apply kept_modCan
    | with_reducible apply kept_flushIf
    | with_reducible apply kept_setCanState
    | with_reducible apply kept_flushFifo
    | with_reducible apply kept_ite

theorem kept_execCanEnable {m : Nat} {s0 : State} (r : Req) (n : Fin 6) {s : State} (hm : Covers m 0x6000004a2) (h1 : Kept m s0 s) :
    KeptO m s0 (execCanEnable r n s) := by
  unfold execCanEnable
  repeat' first
    | with_reducible assumption
    | intro _
    | with_reducible exact hm.of rfl
    | with_reducible apply kept_reached
    | with_reducible apply kept_enableCan
    | with_reducible apply keptO_next
    | with_reducible apply keptO_fault

theorem kept_execCanBusIntegrated {m : Nat} {s0 : State} (n : Fin 6) {s : State} (hm : Covers m 0x600000482) (h1 : Kept m s0 s) :
    KeptO m s0 (execCanBusIntegrated n s) := by
  unfold execCanBusIntegrated
  repeat' first
    | with_reducible assumption
    | intro _
    | with_reducible exact hm.of rfl
    | with_reducible apply kept_onEngine
    | with_reducible apply kept_setCanState
    | with_reducible apply keptO_ite
    | with_reducible apply kept_ite
    | with_reducible apply keptO_next
    | with_reducible apply keptO_fault

theorem kept_execCanTxfrm {m : Nat} {s0 : State} (n : Fin 6) {s : State} (hm : Covers m 0x18202fe52) (h1 : Kept m s0 s) :
    KeptO m s0 (execCanTxfrm n s) := by
  unfold execCanTxfrm
  repeat' first
    | with_reducible assumption
    | intro _
    | with_reducible exact hm.of rfl
    | with_reducible apply kept_onEngine
    | with_reducible apply kept_takeTx
    | with_reducible apply keptO_next
    | with_reducible apply keptO_fault

theorem kept_execArbitrationStart {m : Nat} {s0 : State} (n : Fin 6) (sof : Nat) {s : State} (hm : Covers m 0x2000042) (h1 : Kept m s0 s) :
    KeptO m s0 (execArbitrationStart n sof s) := by
  unfold execArbitrationStart
  repeat' first
    | with_reducible assumption
    | intro _
    | with_reducible exact hm.of rfl
    | with_reducible apply kept_onEngine
    | with_reducible apply kept_arbitrate
    | with_reducible apply keptO_next
    | with_reducible apply keptO_fault

theorem kept_execAttemptEnd {m : Nat} {s0 : State} (n : Fin 6) (how : AttemptEnd) (tec : Fin 512) (rcv : Fin 256) {s : State} (hm : Covers m 0x7838efef2) (h1 : Kept m s0 s) :
    KeptO m s0 (execAttemptEnd n how tec rcv s) := by
  unfold execAttemptEnd
  repeat' first
    | with_reducible assumption
    | intro _
    | with_reducible exact hm.of rfl
    | with_reducible apply kept_onEngine
    | with_reducible apply kept_setErrors
    | with_reducible apply kept_endAttempt
    | with_reducible apply keptO_ite
    | with_reducible apply kept_ite
    | with_reducible apply keptO_next
    | with_reducible apply keptO_fault

theorem kept_execCanCancel {m : Nat} {s0 : State} (n : Fin 6) {s : State} (hm : Covers m 0x2000642) (h1 : Kept m s0 s) :
    KeptO m s0 (execCanCancel n s) := by
  unfold execCanCancel
  repeat' first
    | with_reducible assumption
    | intro _
    | with_reducible exact hm.of rfl
    | with_reducible apply kept_onEngine
    | with_reducible apply kept_takeCancel
    | with_reducible apply keptO_next
    | with_reducible apply keptO_fault

theorem kept_execCanFrameReceive {m : Nat} {s0 : State} (n : Fin 6) (sof : Nat) (medium : Fin 4) (record : List Byte) (data : List Byte) (lec : Fin 7) (tec : Fin 512) (rcv : Fin 256) {s : State} (hm : Covers m 0x7838efef2) (h1 : Kept m s0 s) :
    KeptO m s0 (execCanFrameReceive n sof medium record data lec tec rcv s) := by
  unfold execCanFrameReceive
  repeat' first
    | with_reducible assumption
    | intro _
    | with_reducible exact hm.of rfl
    | with_reducible apply kept_onEngine
    | with_reducible apply kept_setErrors
    | with_reducible apply kept_canReceive
    | with_reducible apply keptO_next
    | with_reducible apply keptO_fault

theorem kept_execHpPop {m : Nat} {s0 : State} (r : Req) (n : Fin 6) {s : State} (hm : Covers m 0x400000022) (h1 : Kept m s0 s) :
    KeptO m s0 (execHpPop r n s) := by
  unfold execHpPop
  repeat' first
    | with_reducible assumption
    | intro _
    | with_reducible exact hm.of rfl
    | with_reducible apply kept_reached
    | with_reducible apply kept_popHp
    | with_reducible apply keptO_next
    | with_reducible apply keptO_fault

theorem kept_execCanRxbuf {m : Nat} {s0 : State} (n : Fin 6) {s : State} (hm : Covers m 0x642) (h1 : Kept m s0 s) :
    KeptO m s0 (execCanRxbuf n s) := by
  unfold execCanRxbuf
  repeat' first
    | with_reducible assumption
    | intro _
    | with_reducible exact hm.of rfl
    | with_reducible apply kept_onEngine
    | with_reducible apply kept_postRxbuf
    | with_reducible apply keptO_next
    | with_reducible apply keptO_fault

theorem kept_execBusOff {m : Nat} {s0 : State} (n : Fin 6) {s : State} (hm : Covers m 0x6020004c2) (h1 : Kept m s0 s) :
    KeptO m s0 (execBusOff n s) := by
  unfold execBusOff
  repeat' first
    | with_reducible assumption
    | intro _
    | with_reducible exact hm.of rfl
    | with_reducible apply kept_onEngine
    | with_reducible apply kept_enterBusOff
    | with_reducible apply keptO_next
    | with_reducible apply keptO_fault

theorem kept_execCanRecover {m : Nat} {s0 : State} (r : Req) (n : Fin 6) {s : State} (hm : Covers m 0x6000004a2) (h1 : Kept m s0 s) :
    KeptO m s0 (execCanRecover r n s) := by
  unfold execCanRecover
  repeat' first
    | with_reducible assumption
    | intro _
    | with_reducible exact hm.of rfl
    | with_reducible apply kept_reached
    | with_reducible apply kept_recoverCan
    | with_reducible apply keptO_next
    | with_reducible apply keptO_fault

theorem kept_execRecoverDone {m : Nat} {s0 : State} (n : Fin 6) {s : State} (hm : Covers m 0x600000482) (h1 : Kept m s0 s) :
    KeptO m s0 (execRecoverDone n s) := by
  unfold execRecoverDone
  repeat' first
    | with_reducible assumption
    | intro _
    | with_reducible exact hm.of rfl
    | with_reducible apply kept_onEngine
    | with_reducible apply kept_setCanState
    | with_reducible apply kept_setF
    | with_reducible apply keptO_ite
    | with_reducible apply kept_ite
    | with_reducible apply keptO_next
    | with_reducible apply keptO_fault

theorem kept_execDominantTimeout {m : Nat} {s0 : State} (n : Fin 6) {s : State} (hm : Covers m 0x6020004c2) (h1 : Kept m s0 s) :
    KeptO m s0 (execDominantTimeout n s) := by
  unfold execDominantTimeout
  repeat' first
    | with_reducible assumption
    | intro _
    | with_reducible exact hm.of rfl
    | with_reducible apply kept_onEngine
    | with_reducible apply kept_enterBusOff
    | with_reducible apply kept_raise
    | with_reducible apply kept_evtCan
    | with_reducible apply keptO_ite
    | with_reducible apply kept_ite
    | with_reducible apply keptO_next
    | with_reducible apply keptO_fault

theorem kept_execCanDisable {m : Nat} {s0 : State} (r : Req) (n : Fin 6) {s : State} (hm : Covers m 0x6020004e2) (h1 : Kept m s0 s) :
    KeptO m s0 (execCanDisable r n s) := by
  unfold execCanDisable
  repeat' first
    | with_reducible assumption
    | intro _
    | with_reducible exact hm.of rfl
    | with_reducible apply kept_reached
    | with_reducible apply kept_disableCan
    | with_reducible apply keptO_next
    | with_reducible apply keptO_fault

end Sys2Proof.Machine
end

