-- ==== Sys2Proof/Laws/KeptBackbone.lean ====
section
/-! SUPPORT. What the operations of Machine/Backbone.lean keep (Safety.lean, `Kept`): one lemma each, which cites those of the operations it calls. -/

namespace Sys2Proof.Machine

theorem kept_modBkb {m : Nat} {s0 : State} {s : State} (f : Bkb → Bkb) (hm : Covers m 0x1000000) (h1 : Kept m s0 s) :
    Kept m s0 (modBkb s f) := by
  unfold modBkb
  repeat' first
    | with_reducible assumption
    | intro _
    | with_reducible exact hm.of rfl
    | (with_reducible refine kept_upd_bkb (hm.of rfl) ?_; with_reducible assumption)

theorem kept_topoStep {m : Nat} {s0 : State} {s : State} (hm : Covers m 0x2) (h1 : Kept m s0 s) :
    Kept m s0 (topoStep s) := by
  unfold topoStep
  repeat' first
    | with_reducible assumption
    | intro _
    | with_reducible exact hm.of rfl
    | with_reducible apply kept_incW

theorem kept_learn {m : Nat} {s0 : State} (vid : Nat) (mac : Nat) (port : Nat) {s : State} (hm : Covers m 0x1000000) (h1 : Kept m s0 s) :
    Kept m s0 (learn vid mac port s) := by
  unfold learn
  repeat' first
    | with_reducible assumption
    | intro _
    | (extract_lets +onlyGivenNames x; clear_value x; revert x; intro y)
    | with_reducible exact hm.of rfl
    | with_reducible apply kept_modBkb
    | with_reducible apply kept_ite

theorem kept_endTxfrm {m : Nat} {s0 : State} (op : Option Nat) (ts : Nat) {s : State} (hm : Covers m 0x40) (h1 : Kept m s0 s) :
    Kept m s0 (endTxfrm op ts s) := by
  unfold endTxfrm
  repeat' first
    | with_reducible assumption
    | intro _
    | with_reducible exact hm.of rfl
    | with_reducible apply kept_finish
    | with_reducible apply kept_ite
    | split

theorem kept_runPort {m : Nat} {s0 : State} (p : Nat) {s : State} (hm : Covers m 0x1000062) (h1 : Kept m s0 s) :
    Kept m s0 (runPort p s) := by
  unfold runPort
  repeat' first
    | with_reducible assumption
    | (intro hx; clear_value x; revert hx; revert x; intro y hy)
    | intro _
    | (subst x)
    | (extract_lets +onlyGivenNames x; refine kept_cut (m := m) (s0 := s0) (x := x) ?_ ?_)
    | (extract_lets +onlyGivenNames x; clear_value x; revert x; intro y)
    | with_reducible exact hm.of rfl
    | with_reducible apply kept_modBkb
    | with_reducible apply kept_endTxfrm
    | with_reducible apply kept_emit
    | with_reducible apply kept_incF
    | split

theorem kept_runPorts {m : Nat} {s0 : State} {s : State} (hm : Covers m 0x1000062) (h1 : Kept m s0 s) :
    Kept m s0 (runPorts s) := by
  unfold runPorts
  repeat' first
    | with_reducible assumption
    | intro _
    | with_reducible exact hm.of rfl
    | with_reducible apply kept_runPort
    | with_reducible apply kept_forN

theorem kept_queueFrame {m : Nat} {s0 : State} (f : EgFrame) {s : State} (hm : Covers m 0x1000002) (h1 : Kept m s0 s) :
    Kept m s0 (queueFrame f s) := by
  unfold queueFrame
  repeat' first
    | with_reducible assumption
    | intro _
    | (extract_lets +onlyGivenNames x; clear_value x; revert x; intro y)
    | with_reducible exact hm.of rfl
    | with_reducible apply kept_incF
    | with_reducible apply kept_modBkb
    | with_reducible apply kept_ite
    | with_reducible apply kept_foldl
    | with_reducible apply kept_foldl1

theorem kept_egressBkb {m : Nat} {s0 : State} (q : Nat) (a2 : Nat) (op : Option Nat) (f : EthFrame) {s : State} (hm : Covers m 0x1000002) (h1 : Kept m s0 s) :
    Kept m s0 (egressBkb q a2 op f s) := by
  unfold egressBkb
  repeat' first
    | with_reducible assumption
    | intro _
    | with_reducible exact hm.of rfl
    | with_reducible apply kept_queueFrame

theorem kept_flushPort {m : Nat} {s0 : State} (p : Nat) {s : State} (hm : Covers m 0x1000040) (h1 : Kept m s0 s) :
    Kept m s0 (flushPort p s) := by
  unfold flushPort
  repeat' first
    | with_reducible assumption
    | (intro hx; clear_value x; revert hx; revert x; intro y hy)
    | intro _
    | (subst x)
    | (extract_lets +onlyGivenNames x; refine kept_cut (m := m) (s0 := s0) (x := x) ?_ ?_)
    | (extract_lets +onlyGivenNames x; clear_value x; revert x; intro y)
    | with_reducible exact hm.of rfl
    | with_reducible apply kept_modBkb
    | with_reducible apply kept_endTxfrm
    | with_reducible apply kept_ite
    | with_reducible apply kept_foldl
    | with_reducible apply kept_foldl1

theorem kept_useSeq {m : Nat} {s0 : State} {s : State} (hm : Covers m 0x1000000) (h1 : Kept m s0 s) :
    Kept m s0 (useSeq s) := by
  unfold useSeq
  repeat' first
    | with_reducible assumption
    | intro _
    | with_reducible exact hm.of rfl
    | with_reducible apply kept_modBkb

theorem kept_noteCopy {m : Nat} {s0 : State} (src : Nat) (q : Nat) (port : Nat) {s : State} (hm : Covers m 0x1000000) (h1 : Kept m s0 s) :
    Kept m s0 (noteCopy src q port s) := by
  unfold noteCopy
  repeat' first
    | with_reducible assumption
    | intro _
    | with_reducible exact hm.of rfl
    | with_reducible apply kept_modBkb

theorem kept_hostSend {m : Nat} {s0 : State} (op : Option Nat) (f : EthFrame) {a3 : State} (hm : Covers m 0x1000062) (h1 : Kept m s0 a3) :
    Kept m s0 (hostSend op f a3) := by
  unfold hostSend
  repeat' first
    | with_reducible assumption
    | (intro hx; clear_value x; revert hx; revert x; intro y hy)
    | intro _
    | (subst x)
    | (extract_lets +onlyGivenNames x; refine kept_cut (m := m) (s0 := s0) (x := x) ?_ ?_)
    | (extract_lets +onlyGivenNames x; clear_value x; revert x; intro y)
    | with_reducible exact hm.of rfl
    | with_reducible apply kept_learn
    | with_reducible apply kept_runPorts
    | with_reducible apply kept_egressBkb
    | with_reducible apply kept_noteCopy
    | with_reducible apply kept_useSeq
    | with_reducible apply kept_ite
    | with_reducible apply kept_foldl
    | with_reducible apply kept_foldl1
    | split

theorem kept_pendTunnel {m : Nat} {s0 : State} (c : Nat) (e : Nat) (b : List Byte) {s : State} (hm : Covers m 0x400002) (h1 : Kept m s0 s) :
    Kept m s0 (pendTunnel c e b s) := by
  unfold pendTunnel
  repeat' first
    | with_reducible assumption
    | (intro hx; clear_value x; revert hx; revert x; intro y hy)
    | intro _
    | (subst x)
    | (extract_lets +onlyGivenNames x; refine kept_cut (m := m) (s0 := s0) (x := x) ?_ ?_)
    | (extract_lets +onlyGivenNames x; clear_value x; revert x; intro y)
    | with_reducible exact hm.of rfl
    | with_reducible apply kept_incF
    | with_reducible apply kept_modRhl
    | with_reducible apply kept_ite
    | split

theorem kept_orState {m : Nat} {s0 s : State} (o : Option State) (h1 : KeptM m s0 o) (h2 : Kept m s0 s) : Kept m s0 (orState o s) := by
  cases o with
  | some t => exact h1
  | none => exact h2

theorem kept_unwrapCan {m : Nat} {s0 : State} (c : Nat) (a2 : Nat) (a3 : List Byte) {s : State} (hm : Covers m 0x2000002) (h1 : Kept m s0 s) :
    Kept m s0 (unwrapCan c a2 a3 s) := by
  unfold unwrapCan
  repeat' first
    | with_reducible assumption
    | intro _
    | with_reducible exact hm.of rfl
    | with_reducible apply kept_orState
    | with_reducible apply kept_tunnelTx
    | with_reducible apply kept_incF
    | (with_reducible refine KeptM.of_eq (o := _) ?_ (by assumption))
    | with_reducible apply keptM_ite
    | with_reducible apply keptM_none

theorem kept_tundec {m : Nat} {s0 : State} (c : Nat) (f : EthFrame) {a3 : State} (hm : Covers m 0x602400602) (h1 : Kept m s0 a3) :
    Kept m s0 (tundec c f a3) := by
  unfold tundec
  repeat' first
    | with_reducible assumption
    | (intro hx; clear_value x; revert hx; revert x; intro y hy)
    | intro _
    | (subst x)
    | (extract_lets +onlyGivenNames x; refine kept_cut (m := m) (s0 := s0) (x := x) ?_ ?_)
    | (extract_lets +onlyGivenNames x; clear_value x; revert x; intro y)
    | with_reducible exact hm.of rfl
    | with_reducible apply kept_incF
    | with_reducible apply kept_raiseOnce
    | with_reducible apply kept_setF
    | with_reducible apply kept_addF
    | with_reducible apply kept_cross
    | with_reducible apply kept_unwrapCan
    | with_reducible apply kept_pendTunnel
    | with_reducible apply kept_ite

theorem kept_hostQueue {m : Nat} {s0 : State} (port : Nat) (sof : Nat) (b : List Byte) {s : State} (hm : Covers m 0x1800efe52) (h1 : Kept m s0 s) :
    Kept m s0 (hostQueue port sof b s) := by
  unfold hostQueue
  repeat' first
    | with_reducible assumption
    | intro _
    | with_reducible exact hm.of rfl
    | with_reducible apply kept_takePosted
    | with_reducible apply kept_incF
    | with_reducible apply kept_fillPosted

theorem kept_hostReceive {m : Nat} {s0 : State} (port : Nat) (sof : Nat) (f : EthFrame) (b : List Byte) {s : State} (hm : Covers m 0x782cefed2) (h1 : Kept m s0 s) :
    Kept m s0 (hostReceive port sof f b s) := by
  unfold hostReceive
  repeat' first
    | with_reducible assumption
    | intro _
    | with_reducible exact hm.of rfl
    | with_reducible apply kept_hostQueue
    | with_reducible apply kept_offerJob
    | with_reducible apply kept_incF
    | with_reducible apply kept_tundec
    | with_reducible apply kept_ite
    | split

theorem kept_addNode {m : Nat} {s0 : State} (mac : Nat) {s : State} (hm : Covers m 0x601000482) (h1 : Kept m s0 s) :
    Kept m s0 (addNode mac s) := by
  unfold addNode
  repeat' first
    | with_reducible assumption
    | (intro hx; clear_value x; revert hx; revert x; intro y hy)
    | intro _
    | (subst x)
    | (extract_lets +onlyGivenNames x; refine kept_cut (m := m) (s0 := s0) (x := x) ?_ ?_)
    | (extract_lets +onlyGivenNames x; clear_value x; revert x; intro y)
    | with_reducible exact hm.of rfl
    | with_reducible apply kept_modBkb
    | with_reducible apply kept_evtBkb
    | with_reducible apply kept_topoStep
    | with_reducible apply kept_setF
    | with_reducible apply kept_ite

theorem kept_setRing {m : Nat} {s0 : State} (a1 : Bool) {s : State} (hm : Covers m 0x600000482) (h1 : Kept m s0 s) :
    Kept m s0 (setRing a1 s) := by
  unfold setRing
  repeat' first
    | with_reducible assumption
    | (intro hx; clear_value x; revert hx; revert x; intro y hy)
    | intro _
    | (subst x)
    | (extract_lets +onlyGivenNames x; refine kept_cut (m := m) (s0 := s0) (x := x) ?_ ?_)
    | (extract_lets +onlyGivenNames x; clear_value x; revert x; intro y)
    | with_reducible exact hm.of rfl
    | with_reducible apply kept_evtBkb
    | with_reducible apply kept_topoStep
    | with_reducible apply kept_setB
    | with_reducible apply kept_raise
    | with_reducible apply kept_ite

theorem kept_ringReturn {m : Nat} {s0 : State} (port : Nat) (f : EthFrame) {s : State} (hm : Covers m 0x601000482) (h1 : Kept m s0 s) :
    Kept m s0 (ringReturn port f s) := by
  unfold ringReturn
  repeat' first
    | with_reducible assumption
    | intro _
    | with_reducible exact hm.of rfl
    | with_reducible apply kept_setRing
    | with_reducible apply kept_modBkb
    | with_reducible apply kept_ite

theorem kept_switchFrame {m : Nat} {s0 : State} (port : Nat) (sof : Nat) (first : Bool) (f : EthFrame) (b : List Byte) {a6 : State} (hm : Covers m 0x783cefef2) (h1 : Kept m s0 a6) :
    Kept m s0 (switchFrame port sof first f b a6) := by
  unfold switchFrame
  repeat' first
    | with_reducible assumption
    | (intro hx; clear_value x; revert hx; revert x; intro y hy)
    | intro _
    | (subst x)
    | (extract_lets +onlyGivenNames x; refine kept_cut (m := m) (s0 := s0) (x := x) ?_ ?_)
    | (extract_lets +onlyGivenNames x; clear_value x; revert x; intro y)
    | with_reducible exact hm.of rfl
    | with_reducible apply kept_learn
    | with_reducible apply kept_runPorts
    | with_reducible apply kept_egressBkb
    | with_reducible apply kept_hostReceive
    | with_reducible apply kept_ite
    | with_reducible apply kept_foldl
    | with_reducible apply kept_foldl1
    | split

theorem kept_receiveCopyBkb {m : Nat} {s0 : State} (port : Nat) (sof : Nat) (f : EthFrame) (b : List Byte) {s : State} (hm : Covers m 0x783cefef2) (h1 : Kept m s0 s) :
    Kept m s0 (receiveCopyBkb port sof f b s) := by
  unfold receiveCopyBkb
  repeat' first
    | with_reducible assumption
    | (intro hx; clear_value x; revert hx; revert x; intro y hy)
    | intro _
    | (subst x)
    | (extract_lets +onlyGivenNames x; refine kept_cut (m := m) (s0 := s0) (x := x) ?_ ?_)
    | (extract_lets +onlyGivenNames x; clear_value x; revert x; intro y)
    | with_reducible exact hm.of rfl
    | with_reducible apply kept_switchFrame
    | with_reducible apply kept_addNode
    | with_reducible apply kept_noteCopy
    | with_reducible apply kept_incF
    | with_reducible apply kept_ite
    | split

theorem kept_receiveBkb {m : Nat} {s0 : State} (port : Nat) (sof : Nat) (b : List Byte) {s : State} (hm : Covers m 0x783cefef2) (h1 : Kept m s0 s) :
    Kept m s0 (receiveBkb port sof b s) := by
  unfold receiveBkb
  repeat' first
    | with_reducible assumption
    | (intro hx; clear_value x; revert hx; revert x; intro y hy)
    | intro _
    | (subst x)
    | (extract_lets +onlyGivenNames x; refine kept_cut (m := m) (s0 := s0) (x := x) ?_ ?_)
    | (extract_lets +onlyGivenNames x; clear_value x; revert x; intro y)
    | with_reducible exact hm.of rfl
    | with_reducible apply kept_incF
    | with_reducible apply kept_ringReturn
    | with_reducible apply kept_receiveCopyBkb
    | with_reducible apply kept_ite

theorem kept_sendSupervision {m : Nat} {s0 : State} {s : State} (hm : Covers m 0x1000062) (h1 : Kept m s0 s) :
    Kept m s0 (sendSupervision s) := by
  unfold sendSupervision
  repeat' first
    | with_reducible assumption
    | intro _
    | (extract_lets +onlyGivenNames x; clear_value x; revert x; intro y)
    | with_reducible exact hm.of rfl
    | with_reducible apply kept_runPorts
    | with_reducible apply kept_queueFrame
    | with_reducible apply kept_modBkb
    | with_reducible apply kept_useSeq
    | with_reducible apply kept_ite
    | with_reducible apply kept_foldl
    | with_reducible apply kept_foldl1

theorem kept_forgetNode {m : Nat} {s0 : State} (mac : Nat) {s : State} (hm : Covers m 0x601000482) (h1 : Kept m s0 s) :
    Kept m s0 (forgetNode mac s) := by
  unfold forgetNode
  repeat' first
    | with_reducible assumption
    | (intro hx; clear_value x; revert hx; revert x; intro y hy)
    | intro _
    | (subst x)
    | (extract_lets +onlyGivenNames x; refine kept_cut (m := m) (s0 := s0) (x := x) ?_ ?_)
    | (extract_lets +onlyGivenNames x; clear_value x; revert x; intro y)
    | with_reducible exact hm.of rfl
    | with_reducible apply kept_modBkb
    | with_reducible apply kept_evtBkb
    | with_reducible apply kept_topoStep
    | with_reducible apply kept_setF
    | with_reducible apply kept_ite

theorem kept_gateReached {m : Nat} {s0 : State} (p : Nat) (k : Nat) {s : State} (hm : Covers m 0x1000062) (h1 : Kept m s0 s) :
    Kept m s0 (gateReached p k s) := by
  unfold gateReached
  repeat' first
    | with_reducible assumption
    | intro _
    | (extract_lets +onlyGivenNames x; clear_value x; revert x; intro y)
    | with_reducible exact hm.of rfl
    | with_reducible apply kept_setF
    | with_reducible apply kept_runPort
    | with_reducible apply kept_ite

theorem kept_linkBkb {m : Nat} {s0 : State} (p : Nat) (up : Bool) {s : State} (hm : Covers m 0x600000482) (h1 : Kept m s0 s) :
    Kept m s0 (linkBkb p up s) := by
  unfold linkBkb
  repeat' first
    | with_reducible assumption
    | (intro hx; clear_value x; revert hx; revert x; intro y hy)
    | intro _
    | (subst x)
    | (extract_lets +onlyGivenNames x; refine kept_cut (m := m) (s0 := s0) (x := x) ?_ ?_)
    | (extract_lets +onlyGivenNames x; clear_value x; revert x; intro y)
    | with_reducible exact hm.of rfl
    | with_reducible apply kept_setFBit
    | with_reducible apply kept_setB
    | with_reducible apply kept_evtBkb
    | with_reducible apply kept_topoStep
    | with_reducible apply kept_incF
    | with_reducible apply kept_raise
    | with_reducible apply kept_ite

theorem kept_loseGptp {m : Nat} {s0 : State} {s : State} (hm : Covers m 0x8601200682) (h1 : Kept m s0 s) :
    Kept m s0 (loseGptp s) := by
  unfold loseGptp
  repeat' first
    | with_reducible assumption
    | (intro hx; clear_value x; revert hx; revert x; intro y hy)
    | intro _
    | (subst x)
    | (extract_lets +onlyGivenNames x; refine kept_cut (m := m) (s0 := s0) (x := x) ?_ ?_)
    | (extract_lets +onlyGivenNames x; clear_value x; revert x; intro y)
    | with_reducible exact hm.of rfl
    | with_reducible apply kept_modBkb
    | with_reducible apply kept_disqualify
    | with_reducible apply kept_raise
    | with_reducible apply kept_evtBkb
    | with_reducible apply kept_modMer
    | with_reducible apply kept_setF
    | with_reducible apply kept_ite

theorem kept_gptpSync {m : Nat} {s0 : State} (port : Nat) (offset : Int) (rate : Int) (capable : Bool) {s : State} (hm : Covers m 0x8601200682) (h1 : Kept m s0 s) :
    Kept m s0 (gptpSync port offset rate capable s) := by
  unfold gptpSync
  repeat' first
    | with_reducible assumption
    | (intro hx; clear_value x; revert hx; revert x; intro y hy)
    | intro _
    | (subst x)
    | (extract_lets +onlyGivenNames x; refine kept_cut (m := m) (s0 := s0) (x := x) ?_ ?_)
    | (extract_lets +onlyGivenNames x; clear_value x; revert x; intro y)
    | with_reducible exact hm.of rfl
    | with_reducible apply kept_reportOffset
    | with_reducible apply kept_setF
    | with_reducible apply kept_modBkb
    | with_reducible apply kept_loseGptp
    | with_reducible apply kept_setRate
    | with_reducible apply kept_modMer
    | with_reducible apply kept_qualify
    | with_reducible apply kept_raise
    | with_reducible apply kept_evtBkb
    | with_reducible apply kept_ite

theorem kept_setAsRole {m : Nat} {s0 : State} (r : Nat) (port : Nat) {s : State} (hm : Covers m 0x8601200682) (h1 : Kept m s0 s) :
    Kept m s0 (setAsRole r port s) := by
  unfold setAsRole
  repeat' first
    | with_reducible assumption
    | (intro hx; clear_value x; revert hx; revert x; intro y hy)
    | intro _
    | (subst x)
    | (extract_lets +onlyGivenNames x; refine kept_cut (m := m) (s0 := s0) (x := x) ?_ ?_)
    | (extract_lets +onlyGivenNames x; clear_value x; revert x; intro y)
    | with_reducible exact hm.of rfl
    | with_reducible apply kept_loseGptp
    | with_reducible apply kept_setF
    | with_reducible apply kept_ite

theorem kept_decideMaster {m : Nat} {s0 : State} (heard : Option (Nat × Announce)) {s : State} (hm : Covers m 0x8601200682) (h1 : Kept m s0 s) :
    Kept m s0 (decideMaster heard s) := by
  unfold decideMaster
  repeat' first
    | with_reducible assumption
    | (intro hx; clear_value x; revert hx; revert x; intro y hy)
    | intro _
    | (subst x)
    | (extract_lets +onlyGivenNames x; refine kept_cut (m := m) (s0 := s0) (x := x) ?_ ?_)
    | (extract_lets +onlyGivenNames x; clear_value x; revert x; intro y)
    | with_reducible exact hm.of rfl
    | with_reducible apply kept_setAsRole
    | with_reducible apply kept_ite
    | split

theorem kept_followAsctl {m : Nat} {s0 : State} {s : State} (hm : Covers m 0x8601200682) (h1 : Kept m s0 s) :
    Kept m s0 (followAsctl s) := by
  unfold followAsctl
  repeat' first
    | with_reducible assumption
    | intro _
    | (extract_lets +onlyGivenNames x; clear_value x; revert x; intro y)
    | with_reducible exact hm.of rfl
    | with_reducible apply kept_setAsRole
    | with_reducible apply kept_ite

theorem kept_sendSync {m : Nat} {s0 : State} (p : Nat) {s : State} (hm : Covers m 0x1000022) (h1 : Kept m s0 s) :
    Kept m s0 (sendSync p s) := by
  unfold sendSync
  repeat' first
    | with_reducible assumption
    | (intro hx; clear_value x; revert hx; revert x; intro y hy)
    | intro _
    | (subst x)
    | (extract_lets +onlyGivenNames x; refine kept_cut (m := m) (s0 := s0) (x := x) ?_ ?_)
    | (extract_lets +onlyGivenNames x; clear_value x; revert x; intro y)
    | with_reducible exact hm.of rfl
    | with_reducible apply kept_modBkb
    | with_reducible apply kept_emit
    | with_reducible apply kept_incF
    | with_reducible apply kept_ite
    | with_reducible apply kept_foldl
    | with_reducible apply kept_foldl1

theorem kept_syncTimeout {m : Nat} {s0 : State} {s : State} (hm : Covers m 0x8601200682) (h1 : Kept m s0 s) :
    Kept m s0 (syncTimeout s) := by
  unfold syncTimeout
  repeat' first
    | with_reducible assumption
    | (intro hx; clear_value x; revert hx; revert x; intro y hy)
    | intro _
    | (subst x)
    | (extract_lets +onlyGivenNames x; refine kept_cut (m := m) (s0 := s0) (x := x) ?_ ?_)
    | (extract_lets +onlyGivenNames x; clear_value x; revert x; intro y)
    | with_reducible exact hm.of rfl
    | with_reducible apply kept_modBkb
    | with_reducible apply kept_loseGptp
    | with_reducible apply kept_ite

theorem kept_txFlow {m : Nat} {s0 : State} (c : Nat) {a2 : State} (hm : Covers m 0x18102fc72) (h1 : Kept m s0 a2) :
    Kept m s0 (txFlow c a2) := by
  unfold txFlow
  repeat' first
    | with_reducible assumption
    | (intro hx; clear_value x; revert hx; revert x; intro y hy)
    | (intro hz; clear_value z; revert hz; revert z; intro y hy)
    | intro _
    | (subst x)
    | (subst z)
    | (extract_lets +onlyGivenNames x; refine kept_cut (m := m) (s0 := s0) (x := x) ?_ ?_)
    | (extract_lets +onlyGivenNames z; refine kept_cut (m := m) (s0 := s0) (x := z.1) ?_ ?_)
    | (extract_lets +onlyGivenNames x; clear_value x; revert x; intro y)
    | with_reducible exact hm.of rfl
    | with_reducible apply kept_modBkb
    | with_reducible apply kept_packMap
    | with_reducible apply kept_hostSend
    | with_reducible apply kept_incF
    | with_reducible apply kept_ite
    | (with_reducible refine Kept1.of_eq (kept_packMap _ _ (hm.of rfl) ?_) (by assumption))
    | (with_reducible refine Kept1.of_eq (kept_packMap _ _ _ (hm.of rfl) ?_) (by assumption))
    | (with_reducible refine Kept1.of_eq (kept_packMap _ (hm.of rfl) ?_) (by assumption))
    | split

theorem kept_wrapTunnel {m : Nat} {s0 : State} {a1 : State} (hm : Covers m 0x1000062) (h1 : Kept m s0 a1) :
    Kept m s0 (wrapTunnel a1) := by
  unfold wrapTunnel
  repeat' first
    | with_reducible assumption
    | (intro hx; clear_value x; revert hx; revert x; intro y hy)
    | intro _
    | (subst x)
    | (extract_lets +onlyGivenNames x; refine kept_cut (m := m) (s0 := s0) (x := x) ?_ ?_)
    | (extract_lets +onlyGivenNames x; clear_value x; revert x; intro y)
    | with_reducible exact hm.of rfl
    | with_reducible apply kept_modBkb
    | with_reducible apply kept_incF
    | with_reducible apply kept_hostSend
    | with_reducible apply kept_setF
    | with_reducible apply kept_ite
    | split

theorem kept_takeBkbTx {m : Nat} {s0 : State} {s : State} (hm : Covers m 0x18102fe72) (h1 : Kept m s0 s) :
    Kept m s0 (takeBkbTx s) := by
  unfold takeBkbTx
  repeat' first
    | with_reducible assumption
    | (intro hx; clear_value x; revert hx; revert x; intro y hy)
    | intro _
    | (subst x)
    | (extract_lets +onlyGivenNames x; refine kept_cut (m := m) (s0 := s0) (x := x) ?_ ?_)
    | (extract_lets +onlyGivenNames x; clear_value x; revert x; intro y)
    | with_reducible exact hm.of rfl
    | with_reducible apply kept_starting
    | with_reducible apply kept_finish
    | with_reducible apply kept_touch
    | with_reducible apply kept_hostSend
    | with_reducible apply kept_startOp
    | with_reducible apply kept_endTxfrm
    | with_reducible apply kept_ite
    | split

theorem kept_enableCtx {m : Nat} {s0 : State} (c : Nat) {s : State} (hm : Covers m 0x2) (h1 : Kept m s0 s) :
    Kept m s0 (enableCtx c s) := by
  unfold enableCtx
  repeat' first
    | with_reducible assumption
    | intro _
    | with_reducible exact hm.of rfl
    | with_reducible apply kept_setF
    | with_reducible apply kept_ite

theorem kept_bumpCtx {m : Nat} {s0 : State} (c : Nat) {s : State} (hm : Covers m 0x2) (h1 : Kept m s0 s) :
    Kept m s0 (bumpCtx c s) := by
  unfold bumpCtx
  repeat' first
    | with_reducible assumption
    | intro _
    | with_reducible exact hm.of rfl
    | with_reducible apply kept_setF

theorem kept_showMode {m : Nat} {s0 : State} {s : State} (hm : Covers m 0x601000482) (h1 : Kept m s0 s) :
    Kept m s0 (showMode s) := by
  unfold showMode
  repeat' first
    | with_reducible assumption
    | (intro hx; clear_value x; revert hx; revert x; intro y hy)
    | intro _
    | (subst x)
    | (extract_lets +onlyGivenNames x; refine kept_cut (m := m) (s0 := s0) (x := x) ?_ ?_)
    | (extract_lets +onlyGivenNames x; clear_value x; revert x; intro y)
    | with_reducible exact hm.of rfl
    | with_reducible apply kept_setF
    | with_reducible apply kept_linkBkb
    | with_reducible apply kept_modBkb
    | with_reducible apply kept_ite
    | with_reducible apply kept_forN

theorem kept_followBkbCtrl {m : Nat} {s0 : State} {s : State} (hm : Covers m 0x6010004c2) (h1 : Kept m s0 s) :
    Kept m s0 (followBkbCtrl s) := by
  unfold followBkbCtrl
  repeat' first
    | with_reducible assumption
    | intro _
    | with_reducible exact hm.of rfl
    | with_reducible apply kept_flushPort
    | with_reducible apply kept_showMode
    | with_reducible apply kept_forN

theorem kept_bkbCycle {m : Nat} {s0 : State} {s : State} (hm : Covers m 0x86012006e2) (h1 : Kept m s0 s) :
    Kept m s0 (bkbCycle s) := by
  unfold bkbCycle
  repeat' first
    | with_reducible assumption
    | intro _
    | with_reducible exact hm.of rfl
    | with_reducible apply kept_runPorts
    | with_reducible apply kept_followAsctl
    | with_reducible apply kept_modBkb

theorem kept_execBkbFrameReceive {m : Nat} {s0 : State} (port : Fin 4) (sof : Nat) (frame : List Byte) {s : State} (hm : Covers m 0x783cefef2) (h1 : Kept m s0 s) :
    KeptO m s0 (execBkbFrameReceive port sof frame s) := by
  unfold execBkbFrameReceive
  repeat' first
    | with_reducible assumption
    | intro _
    | with_reducible exact hm.of rfl
    | with_reducible apply kept_onEngine
    | with_reducible apply kept_receiveBkb
    | with_reducible apply keptO_next
    | with_reducible apply keptO_fault

theorem kept_execGateEntryReached {m : Nat} {s0 : State} (port : Fin 4) (k : Fin 128) {s : State} (hm : Covers m 0x1000062) (h1 : Kept m s0 s) :
    KeptO m s0 (execGateEntryReached port k s) := by
  unfold execGateEntryReached
  repeat' first
    | with_reducible assumption
    | intro _
    | with_reducible exact hm.of rfl
    | with_reducible apply kept_onEngine
    | with_reducible apply kept_gateReached
    | with_reducible apply keptO_next
    | with_reducible apply keptO_fault

theorem kept_execSupervisionSend {m : Nat} {s0 : State} {s : State} (hm : Covers m 0x1000062) (h1 : Kept m s0 s) :
    KeptO m s0 (execSupervisionSend s) := by
  unfold execSupervisionSend
  repeat' first
    | with_reducible assumption
    | intro _
    | with_reducible exact hm.of rfl
    | with_reducible apply kept_onEngine
    | with_reducible apply kept_sendSupervision
    | with_reducible apply keptO_next
    | with_reducible apply keptO_fault

theorem kept_execNodeForget {m : Nat} {s0 : State} (mac : BitVec 48) {s : State} (hm : Covers m 0x601000482) (h1 : Kept m s0 s) :
    KeptO m s0 (execNodeForget mac s) := by
  unfold execNodeForget
  repeat' first
    | with_reducible assumption
    | intro _
    | with_reducible exact hm.of rfl
    | with_reducible apply kept_onEngine
    | with_reducible apply kept_forgetNode
    | with_reducible apply keptO_next
    | with_reducible apply keptO_fault

theorem kept_execRingopenDetect {m : Nat} {s0 : State} {s : State} (hm : Covers m 0x600000482) (h1 : Kept m s0 s) :
    KeptO m s0 (execRingopenDetect s) := by
  unfold execRingopenDetect
  repeat' first
    | with_reducible assumption
    | intro _
    | with_reducible exact hm.of rfl
    | with_reducible apply kept_onEngine
    | with_reducible apply kept_setRing
    | with_reducible apply keptO_ite
    | with_reducible apply kept_ite
    | with_reducible apply keptO_next
    | with_reducible apply keptO_fault

theorem kept_execFdbAgeOut {m : Nat} {s0 : State} (vid : BitVec 12) (mac : BitVec 48) {s : State} (hm : Covers m 0x1000000) (h1 : Kept m s0 s) :
    KeptO m s0 (execFdbAgeOut vid mac s) := by
  unfold execFdbAgeOut
  repeat' first
    | with_reducible assumption
    | intro _
    | with_reducible exact hm.of rfl
    | with_reducible apply kept_onEngine
    | with_reducible apply kept_modBkb
    | with_reducible apply keptO_ite
    | with_reducible apply kept_ite
    | with_reducible apply keptO_next
    | with_reducible apply keptO_fault

theorem kept_execGptpSyncSend {m : Nat} {s0 : State} (port : Fin 4) {s : State} (hm : Covers m 0x1000022) (h1 : Kept m s0 s) :
    KeptO m s0 (execGptpSyncSend port s) := by
  unfold execGptpSyncSend
  repeat' first
    | with_reducible assumption
    | intro _
    | with_reducible exact hm.of rfl
    | with_reducible apply kept_onEngine
    | with_reducible apply kept_sendSync
    | with_reducible apply keptO_next
    | with_reducible apply keptO_fault

theorem kept_execGptpSyncReceive {m : Nat} {s0 : State} (port : Fin 4) (offset : Int) (rate : Int) (capable : Bool) {s : State} (hm : Covers m 0x8601200682) (h1 : Kept m s0 s) :
    KeptO m s0 (execGptpSyncReceive port offset rate capable s) := by
  unfold execGptpSyncReceive
  repeat' first
    | with_reducible assumption
    | intro _
    | with_reducible exact hm.of rfl
    | with_reducible apply kept_onEngine
    | with_reducible apply kept_gptpSync
    | with_reducible apply keptO_next
    | with_reducible apply keptO_fault

theorem kept_execSyncReceiptTimeout {m : Nat} {s0 : State} {s : State} (hm : Covers m 0x8601200682) (h1 : Kept m s0 s) :
    KeptO m s0 (execSyncReceiptTimeout s) := by
  unfold execSyncReceiptTimeout
  repeat' first
    | with_reducible assumption
    | intro _
    | with_reducible exact hm.of rfl
    | with_reducible apply kept_onEngine
    | with_reducible apply kept_syncTimeout
    | with_reducible apply keptO_next
    | with_reducible apply keptO_fault

theorem kept_execTxFlowSend {m : Nat} {s0 : State} (f : Fin 256) {s : State} (hm : Covers m 0x18102fc72) (h1 : Kept m s0 s) :
    KeptO m s0 (execTxFlowSend f s) := by
  unfold execTxFlowSend
  repeat' first
    | with_reducible assumption
    | intro _
    | with_reducible exact hm.of rfl
    | with_reducible apply kept_onEngine
    | with_reducible apply kept_txFlow
    | with_reducible apply keptO_next
    | with_reducible apply keptO_fault

theorem kept_execFlowContextEnable {m : Nat} {s0 : State} (r : Req) (f : Fin 256) {s : State} (hm : Covers m 0x400000022) (h1 : Kept m s0 s) :
    KeptO m s0 (execFlowContextEnable r f s) := by
  unfold execFlowContextEnable
  repeat' first
    | with_reducible assumption
    | intro _
    | with_reducible exact hm.of rfl
    | with_reducible apply kept_reached
    | with_reducible apply kept_enableCtx
    | with_reducible apply keptO_next
    | with_reducible apply keptO_fault

theorem kept_execFlowContextBump {m : Nat} {s0 : State} (r : Req) (f : Fin 256) {s : State} (hm : Covers m 0x400000022) (h1 : Kept m s0 s) :
    KeptO m s0 (execFlowContextBump r f s) := by
  unfold execFlowContextBump
  repeat' first
    | with_reducible assumption
    | intro _
    | with_reducible exact hm.of rfl
    | with_reducible apply kept_reached
    | with_reducible apply kept_bumpCtx
    | with_reducible apply keptO_next
    | with_reducible apply keptO_fault

theorem kept_execTunencWrap {m : Nat} {s0 : State} {s : State} (hm : Covers m 0x1000062) (h1 : Kept m s0 s) :
    KeptO m s0 (execTunencWrap s) := by
  unfold execTunencWrap
  repeat' first
    | with_reducible assumption
    | intro _
    | with_reducible exact hm.of rfl
    | with_reducible apply kept_onEngine
    | with_reducible apply kept_wrapTunnel
    | with_reducible apply keptO_next
    | with_reducible apply keptO_fault

theorem kept_execBkbTxfrm {m : Nat} {s0 : State} {s : State} (hm : Covers m 0x18102fe72) (h1 : Kept m s0 s) :
    KeptO m s0 (execBkbTxfrm s) := by
  unfold execBkbTxfrm
  repeat' first
    | with_reducible assumption
    | intro _
    | with_reducible exact hm.of rfl
    | with_reducible apply kept_onEngine
    | with_reducible apply kept_takeBkbTx
    | with_reducible apply keptO_next
    | with_reducible apply keptO_fault

theorem kept_execBkbRxbuf {m : Nat} {s0 : State} {s : State} (hm : Covers m 0x642) (h1 : Kept m s0 s) :
    KeptO m s0 (execBkbRxbuf s) := by
  unfold execBkbRxbuf
  repeat' first
    | with_reducible assumption
    | intro _
    | with_reducible exact hm.of rfl
    | with_reducible apply kept_onEngine
    | with_reducible apply kept_postRxbuf
    | with_reducible apply keptO_next
    | with_reducible apply keptO_fault

theorem kept_execBkbLinkChange {m : Nat} {s0 : State} (port : Fin 4) (up : Bool) {s : State} (hm : Covers m 0x600000482) (h1 : Kept m s0 s) :
    KeptO m s0 (execBkbLinkChange port up s) := by
  unfold execBkbLinkChange
  repeat' first
    | with_reducible assumption
    | intro _
    | with_reducible exact hm.of rfl
    | with_reducible apply kept_onIsland
    | with_reducible apply kept_linkBkb
    | with_reducible apply keptO_next
    | with_reducible apply keptO_fault

theorem kept_execBestMasterClockDecision {m : Nat} {s0 : State} (heard : Bool) (port : Fin 4) (prio1 : BitVec 8) (cls : BitVec 8) (acc : BitVec 8) (lvar : BitVec 16) (prio2 : BitVec 8) (ident : Word) {s : State} (hm : Covers m 0x8601200682) (h1 : Kept m s0 s) :
    KeptO m s0 (execBestMasterClockDecision heard port prio1 cls acc lvar prio2 ident s) := by
  unfold execBestMasterClockDecision
  repeat' first
    | with_reducible assumption
    | intro _
    | with_reducible exact hm.of rfl
    | with_reducible apply kept_onEngine
    | with_reducible apply kept_decideMaster
    | with_reducible apply keptO_ite
    | with_reducible apply kept_ite
    | with_reducible apply keptO_next
    | with_reducible apply keptO_fault

end Sys2Proof.Machine
end

