-- ==== Sys2Proof/Laws/KeptOwnNode.lean ====
section
/-! SUPPORT. What the operations of Machine/OwnNode.lean keep (Safety.lean, `Kept`): one lemma each, which cites those of the operations it calls. -/

namespace Sys2Proof.Machine

theorem kept_deliverCopy {m : Nat} {s0 : State} (chan : Bool) (sof : Nat) (i : Nat) (e : SEntry) (f : List Byte) {s : State} (hm : Covers m 0x7808efed2) (h1 : Kept m s0 s) :
    Kept m s0 (deliverCopy chan sof i e f s) := by
  unfold deliverCopy
  repeat' first
    | with_reducible assumption
    | intro _
    | with_reducible exact hm.of rfl
    | with_reducible apply kept_sendJob
    | with_reducible apply kept_takePosted
    | with_reducible apply kept_incF
    | with_reducible apply kept_fillPosted
    | with_reducible apply kept_ite

theorem kept_wrapCopy {m : Nat} {s0 : State} (sof : Nat) (i : Nat) (f : List Byte) {s : State} (hm : Covers m 0x601000002) (h1 : Kept m s0 s) :
    Kept m s0 (wrapCopy sof i f s) := by
  unfold wrapCopy
  repeat' first
    | with_reducible assumption
    | intro _
    | (extract_lets +onlyGivenNames x; clear_value x; revert x; intro y)
    | with_reducible exact hm.of rfl
    | with_reducible apply kept_sendWrap
    | with_reducible apply kept_ite
    | with_reducible apply kept_foldl
    | with_reducible apply kept_foldl1

theorem kept_hearCold {m : Nat} {s0 : State} (sof : Nat) (f : List Byte) {s : State} (hm : Covers m 0x8600600682) (h1 : Kept m s0 s) :
    Kept m s0 (hearCold sof f s) := by
  unfold hearCold
  repeat' first
    | with_reducible assumption
    | intro _
    | with_reducible exact hm.of rfl
    | with_reducible apply kept_modRhl
    | with_reducible apply kept_adopt
    | with_reducible apply kept_ite
    | split

theorem kept_receiveCopy {m : Nat} {s0 : State} (chan : Bool) (sof : Nat) (f : List Byte) {s : State} (hm : Covers m 0x8781eefed2) (h1 : Kept m s0 s) :
    Kept m s0 (receiveCopy chan sof f s) := by
  unfold receiveCopy
  repeat' first
    | with_reducible assumption
    | (intro hx; clear_value x; revert hx; revert x; intro y hy)
    | intro _
    | (subst x)
    | (extract_lets +onlyGivenNames x; refine kept_cut (m := m) (s0 := s0) (x := x) ?_ ?_)
    | (extract_lets +onlyGivenNames x; clear_value x; revert x; intro y)
    | with_reducible exact hm.of rfl
    | with_reducible apply kept_hearCold
    | with_reducible apply kept_raiseOnce
    | with_reducible apply kept_modRhl
    | with_reducible apply kept_modEcyc
    | with_reducible apply kept_wrapCopy
    | with_reducible apply kept_deliverCopy
    | with_reducible apply kept_ite
    | split

theorem kept_writeStat {m : Nat} {s0 : State} (a1 : StatDue) {s : State} (hm : Covers m 0x1800efc12) (h1 : Kept m s0 s) :
    Kept m s0 (writeStat a1 s) := by
  unfold writeStat
  repeat' first
    | with_reducible assumption
    | (intro hx; clear_value x; revert hx; revert x; intro y hy)
    | intro _
    | (subst x)
    | (extract_lets +onlyGivenNames x; refine kept_cut (m := m) (s0 := s0) (x := x) ?_ ?_)
    | (extract_lets +onlyGivenNames x; clear_value x; revert x; intro y)
    | with_reducible exact hm.of rfl
    | with_reducible apply kept_touchCw
    | with_reducible apply kept_writeMem
    | with_reducible apply kept_ite
    | split

theorem kept_statsUpdate {m : Nat} {s0 : State} (i : Nat) {s : State} (hm : Covers m 0x1804efc12) (h1 : Kept m s0 s) :
    Kept m s0 (statsUpdate i s) := by
  unfold statsUpdate
  repeat' first
    | with_reducible assumption
    | intro _
    | with_reducible exact hm.of rfl
    | with_reducible apply kept_writeStat
    | with_reducible apply kept_modRhl
    | with_reducible apply kept_ite
    | split

theorem kept_keepPacked {m : Nat} {s0 : State} (i : Nat) (k : Nat) (p : List Byte) {s : State} (hm : Covers m 0x400000) (h1 : Kept m s0 s) :
    Kept m s0 (keepPacked i k p s) := by
  unfold keepPacked
  repeat' first
    | with_reducible assumption
    | intro _
    | with_reducible exact hm.of rfl
    | with_reducible apply kept_modRhl

theorem kept_packFor {m : Nat} {s0 : State} (i : Nat) (a2 : Nat) (k : Nat) {s : State} (hm : Covers m 0x78042fc12) (h1 : Kept m s0 s) :
    Kept m s0 (packFor i a2 k s) := by
  unfold packFor
  repeat' first
    | with_reducible assumption
    | intro _
    | with_reducible exact hm.of rfl
    | with_reducible apply kept_packMap
    | with_reducible apply kept_cross
    | with_reducible apply kept_keepPacked
    | (with_reducible refine Kept1.of_eq (kept_packMap _ _ (hm.of rfl) ?_) (by assumption))
    | (with_reducible refine Kept1.of_eq (kept_packMap _ _ _ (hm.of rfl) ?_) (by assumption))
    | (with_reducible refine Kept1.of_eq (kept_packMap _ (hm.of rfl) ?_) (by assumption))
    | split

theorem kept_packStart {m : Nat} {s0 : State} (i : Nat) {s : State} (hm : Covers m 0x78042fc12) (h1 : Kept m s0 s) :
    Kept m s0 (packStart i s) := by
  unfold packStart
  repeat' first
    | with_reducible assumption
    | (intro hx; clear_value x; revert hx; revert x; intro y hy)
    | (intro hz; clear_value z; revert hz; revert z; intro y hy)
    | intro _
    | (subst x)
    | (subst z)
    | (extract_lets +onlyGivenNames x; refine kept_cut (m := m) (s0 := s0) (x := x) ?_ ?_)
    | (extract_lets +onlyGivenNames z; refine kept_cut (m := m) (s0 := s0) (x := z.1) ?_ ?_)
    | (extract_lets +onlyGivenNames x; clear_value x; revert x; intro y)
    | with_reducible exact hm.of rfl
    | with_reducible apply kept_cross
    | with_reducible apply kept_packFor
    | with_reducible apply kept_modRhl
    | with_reducible apply kept_ite
    | split

theorem kept_dropPacked {m : Nat} {s0 : State} (i : Nat) {s : State} (hm : Covers m 0x400000) (h1 : Kept m s0 s) :
    Kept m s0 (dropPacked i s) := by
  unfold dropPacked
  repeat' first
    | with_reducible assumption
    | intro _
    | with_reducible exact hm.of rfl
    | with_reducible apply kept_modRhl
    | with_reducible apply kept_ite

theorem kept_sendOwn {m : Nat} {s0 : State} (i : Nat) (e : SEntry) (f : List Byte) {s : State} (hm : Covers m 0x400022) (h1 : Kept m s0 s) :
    Kept m s0 (sendOwn i e f s) := by
  unfold sendOwn
  repeat' first
    | with_reducible assumption
    | (intro hx; clear_value x; revert hx; revert x; intro y hy)
    | intro _
    | (subst x)
    | (extract_lets +onlyGivenNames x; refine kept_cut (m := m) (s0 := s0) (x := x) ?_ ?_)
    | (extract_lets +onlyGivenNames x; clear_value x; revert x; intro y)
    | with_reducible exact hm.of rfl
    | with_reducible apply kept_modRhl
    | with_reducible apply kept_sendPartner
    | with_reducible apply kept_emit
    | with_reducible apply kept_ite

theorem kept_notReady {m : Nat} {s0 : State} (i : Nat) {s : State} (hm : Covers m 0x400000) (h1 : Kept m s0 s) :
    Kept m s0 (notReady i s) := by
  unfold notReady
  repeat' first
    | with_reducible assumption
    | intro _
    | with_reducible exact hm.of rfl
    | with_reducible apply kept_modEcyc

theorem kept_sendPending {m : Nat} {s0 : State} (i : Nat) (e : SEntry) {s : State} (hm : Covers m 0x400022) (h1 : Kept m s0 s) :
    Kept m s0 (sendPending i e s) := by
  unfold sendPending
  repeat' first
    | with_reducible assumption
    | intro _
    | with_reducible exact hm.of rfl
    | with_reducible apply kept_sendOwn
    | with_reducible apply kept_modRhl
    | with_reducible apply kept_notReady
    | with_reducible apply kept_ite
    | split

theorem kept_sendDescriptor {m : Nat} {s0 : State} (i : Nat) (e : SEntry) (o : QOp) {s : State} (hm : Covers m 0x18042fc72) (h1 : Kept m s0 s) :
    Kept m s0 (sendDescriptor i e o s) := by
  unfold sendDescriptor
  repeat' first
    | with_reducible assumption
    | (intro hx; clear_value x; revert hx; revert x; intro y hy)
    | intro _
    | (subst x)
    | (extract_lets +onlyGivenNames x; refine kept_cut (m := m) (s0 := s0) (x := x) ?_ ?_)
    | (extract_lets +onlyGivenNames x; clear_value x; revert x; intro y)
    | with_reducible exact hm.of rfl
    | with_reducible apply kept_notReady
    | with_reducible apply kept_finish
    | with_reducible apply kept_touch
    | with_reducible apply kept_sendOwn
    | with_reducible apply kept_ite
    | split

theorem kept_transmit {m : Nat} {s0 : State} (i : Nat) {a2 : State} (hm : Covers m 0x18042fe72) (h1 : Kept m s0 a2) :
    Kept m s0 (transmit i a2) := by
  unfold transmit
  repeat' first
    | with_reducible assumption
    | (intro hx; clear_value x; revert hx; revert x; intro y hy)
    | intro _
    | (subst x)
    | (extract_lets +onlyGivenNames x; refine kept_cut (m := m) (s0 := s0) (x := x) ?_ ?_)
    | (extract_lets +onlyGivenNames x; clear_value x; revert x; intro y)
    | with_reducible exact hm.of rfl
    | with_reducible apply kept_modEcyc
    | with_reducible apply kept_finish
    | with_reducible apply kept_dropPacked
    | with_reducible apply kept_sendOwn
    | with_reducible apply kept_notReady
    | with_reducible apply kept_sendDescriptor
    | with_reducible apply kept_sendPending
    | with_reducible apply kept_starting
    | with_reducible apply kept_ite
    | split

theorem kept_judgeSlottx {m : Nat} {s0 : State} (o : QOp) {s : State} (hm : Covers m 0x40) (h1 : Kept m s0 s) :
    Kept m s0 (judgeSlottx o s) := by
  unfold judgeSlottx
  repeat' first
    | with_reducible assumption
    | intro _
    | (extract_lets +onlyGivenNames x; clear_value x; revert x; intro y)
    | with_reducible exact hm.of rfl
    | with_reducible apply kept_finish
    | with_reducible apply kept_postOp
    | with_reducible apply kept_ite
    | split

theorem kept_takeSlottx {m : Nat} {s0 : State} {a1 : State} (hm : Covers m 0x642) (h1 : Kept m s0 a1) :
    Kept m s0 (takeSlottx a1) := by
  unfold takeSlottx
  repeat' first
    | with_reducible assumption
    | (intro hx; clear_value x; revert hx; revert x; intro y hy)
    | intro _
    | (subst x)
    | (extract_lets +onlyGivenNames x; refine kept_cut (m := m) (s0 := s0) (x := x) ?_ ?_)
    | (extract_lets +onlyGivenNames x; clear_value x; revert x; intro y)
    | with_reducible exact hm.of rfl
    | with_reducible apply kept_judgeSlottx
    | with_reducible apply kept_starting
    | with_reducible apply kept_ite
    | split

theorem kept_execOwnNodeReceive {m : Nat} {s0 : State} (chan : Bool) (sof : Nat) (frame : List Byte) {s : State} (hm : Covers m 0x8781eefed2) (h1 : Kept m s0 s) :
    KeptO m s0 (execOwnNodeReceive chan sof frame s) := by
  unfold execOwnNodeReceive
  repeat' first
    | with_reducible assumption
    | intro _
    | with_reducible exact hm.of rfl
    | with_reducible apply kept_onEngine
    | with_reducible apply kept_receiveCopy
    | with_reducible apply kept_checkPartner
    | with_reducible apply keptO_ite
    | with_reducible apply kept_ite
    | with_reducible apply keptO_next
    | with_reducible apply keptO_fault

theorem kept_execStatsUpdate {m : Nat} {s0 : State} (e : Nat) {s : State} (hm : Covers m 0x1804efc12) (h1 : Kept m s0 s) :
    KeptO m s0 (execStatsUpdate e s) := by
  unfold execStatsUpdate
  repeat' first
    | with_reducible assumption
    | intro _
    | with_reducible exact hm.of rfl
    | with_reducible apply kept_onEngine
    | with_reducible apply kept_statsUpdate
    | with_reducible apply keptO_next
    | with_reducible apply keptO_fault

theorem kept_execPackStart {m : Nat} {s0 : State} (e : Nat) {s : State} (hm : Covers m 0x78042fc12) (h1 : Kept m s0 s) :
    KeptO m s0 (execPackStart e s) := by
  unfold execPackStart
  repeat' first
    | with_reducible assumption
    | intro _
    | with_reducible exact hm.of rfl
    | with_reducible apply kept_onEngine
    | with_reducible apply kept_packStart
    | with_reducible apply keptO_next
    | with_reducible apply keptO_fault

theorem kept_execOwnNodeTransmit {m : Nat} {s0 : State} (e : Nat) {s : State} (hm : Covers m 0x18042fe72) (h1 : Kept m s0 s) :
    KeptO m s0 (execOwnNodeTransmit e s) := by
  unfold execOwnNodeTransmit
  repeat' first
    | with_reducible assumption
    | intro _
    | with_reducible exact hm.of rfl
    | with_reducible apply kept_onEngine
    | with_reducible apply kept_transmit
    | with_reducible apply keptO_next
    | with_reducible apply keptO_fault

theorem kept_execSlottx {m : Nat} {s0 : State} {s : State} (hm : Covers m 0x642) (h1 : Kept m s0 s) :
    KeptO m s0 (execSlottx s) := by
  unfold execSlottx
  repeat' first
    | with_reducible assumption
    | intro _
    | with_reducible exact hm.of rfl
    | with_reducible apply kept_onEngine
    | with_reducible apply kept_takeSlottx
    | with_reducible apply keptO_next
    | with_reducible apply keptO_fault

theorem kept_execRhlRxbuf {m : Nat} {s0 : State} {s : State} (hm : Covers m 0x642) (h1 : Kept m s0 s) :
    KeptO m s0 (execRhlRxbuf s) := by
  unfold execRhlRxbuf
  repeat' first
    | with_reducible assumption
    | intro _
    | with_reducible exact hm.of rfl
    | with_reducible apply kept_onEngine
    | with_reducible apply kept_postRxbuf
    | with_reducible apply keptO_next
    | with_reducible apply keptO_fault

end Sys2Proof.Machine
end

