-- ==== Sys2Proof/Laws/KeptBridge.lean ====
section
/-! SUPPORT. What the operations of Machine/Bridge.lean keep (Safety.lean, `Kept`): one lemma each, which cites those of the operations it calls. -/

namespace Sys2Proof.Machine

theorem kept_modBrg {m : Nat} {s0 : State} {s : State} (f : Brg → Brg) (hm : Covers m 0x4000002) (h1 : Kept m s0 s) :
    Kept m s0 (modBrg s f) := by
  unfold modBrg
  repeat' first
    | with_reducible assumption
    | (intro hx; clear_value x; revert hx; revert x; intro y hy)
    | intro _
    | (subst x)
    | (extract_lets +onlyGivenNames x; refine kept_cut (m := m) (s0 := s0) (x := x) ?_ ?_)
    | (extract_lets +onlyGivenNames x; clear_value x; revert x; intro y)
    | with_reducible exact hm.of rfl
    | (with_reducible refine kept_upd_brg (hm.of rfl) ?_; with_reducible assumption)
    | with_reducible apply kept_setB
    | with_reducible apply kept_setF

theorem kept_sendRead {m : Nat} {s0 : State} (b : Nat) (n : Nat) {s : State} (hm : Covers m 0x20) (h1 : Kept m s0 s) :
    Kept m s0 (sendRead b n s) := by
  unfold sendRead
  repeat' first
    | with_reducible assumption
    | intro _
    | with_reducible exact hm.of rfl
    | with_reducible apply kept_emit

theorem kept_sendWrite {m : Nat} {s0 : State} (b : Nat) (d : List Byte) {s : State} (hm : Covers m 0x20) (h1 : Kept m s0 s) :
    Kept m s0 (sendWrite b d s) := by
  unfold sendWrite
  repeat' first
    | with_reducible assumption
    | intro _
    | with_reducible exact hm.of rfl
    | with_reducible apply kept_emit

theorem kept_assignTag {m : Nat} {s0 : State} {s : State} (hm : Covers m 0x4000022) (h1 : Kept m s0 s) :
    Kept m s0 (assignTag s) := by
  unfold assignTag
  repeat' first
    | with_reducible assumption
    | (intro hx; clear_value x; revert hx; revert x; intro y hy)
    | intro _
    | (subst x)
    | (extract_lets +onlyGivenNames x; refine kept_cut (m := m) (s0 := s0) (x := x) ?_ ?_)
    | (extract_lets +onlyGivenNames x; clear_value x; revert x; intro y)
    | with_reducible exact hm.of rfl
    | with_reducible apply kept_modBrg
    | with_reducible apply kept_sendRead
    | with_reducible apply kept_ite
    | split

theorem kept_hold {m : Nat} {s0 : State} (a1 : HeldReq) {s : State} (hm : Covers m 0x4000022) (h1 : Kept m s0 s) :
    Kept m s0 (hold a1 s) := by
  unfold hold
  repeat' first
    | with_reducible assumption
    | intro _
    | with_reducible exact hm.of rfl
    | with_reducible apply kept_assignTag
    | with_reducible apply kept_modBrg

theorem kept_dropPf {m : Nat} {s0 : State} (k : Nat) {s : State} (hm : Covers m 0x4000002) (h1 : Kept m s0 s) :
    Kept m s0 (dropPf k s) := by
  unfold dropPf
  repeat' first
    | with_reducible assumption
    | intro _
    | with_reducible exact hm.of rfl
    | with_reducible apply kept_modBrg
    | with_reducible apply kept_ite

theorem kept_outRead {m : Nat} {s0 : State} (r : Req) (kind : AccKind) (k : Nat) (b : Nat) (n : Nat) {s : State} (hm : Covers m 0x4000022) (h1 : Kept m s0 s) :
    Kept m s0 (outRead r kind k b n s) := by
  unfold outRead
  repeat' first
    | with_reducible assumption
    | intro _
    | (extract_lets +onlyGivenNames x; clear_value x; revert x; intro y)
    | with_reducible exact hm.of rfl
    | with_reducible apply kept_hold
    | with_reducible apply kept_emit
    | with_reducible apply kept_modBrg
    | with_reducible apply kept_ite
    | split

theorem kept_outWrite {m : Nat} {s0 : State} (r : Req) (kind : AccKind) (k : Nat) (b : Nat) (d : List Byte) {s : State} (hm : Covers m 0x4000022) (h1 : Kept m s0 s) :
    Kept m s0 (outWrite r kind k b d s) := by
  unfold outWrite
  repeat' first
    | with_reducible assumption
    | (intro hx; clear_value x; revert hx; revert x; intro y hy)
    | intro _
    | (subst x)
    | (extract_lets +onlyGivenNames x; refine kept_cut (m := m) (s0 := s0) (x := x) ?_ ?_)
    | (extract_lets +onlyGivenNames x; clear_value x; revert x; intro y)
    | with_reducible exact hm.of rfl
    | with_reducible apply kept_sendWrite
    | with_reducible apply kept_dropPf
    | with_reducible apply kept_hold
    | with_reducible apply kept_ite

theorem kept_outbound {m : Nat} {s0 : State} (r : Req) (kind : AccKind) (a : Nat) (n : Nat) (d : List Byte) {a6 : State} (hm : Covers m 0x404000022) (h1 : Kept m s0 a6) :
    Kept m s0 (outbound r kind a n d a6) := by
  unfold outbound
  repeat' first
    | with_reducible assumption
    | (intro hx; clear_value x; revert hx; revert x; intro y hy)
    | intro _
    | (subst x)
    | (extract_lets +onlyGivenNames x; refine kept_cut (m := m) (s0 := s0) (x := x) ?_ ?_)
    | (extract_lets +onlyGivenNames x; clear_value x; revert x; intro y)
    | with_reducible exact hm.of rfl
    | with_reducible apply kept_deny
    | with_reducible apply kept_wakeIsland
    | with_reducible apply kept_incF
    | with_reducible apply kept_outWrite
    | with_reducible apply kept_outRead
    | with_reducible apply kept_ite
    | split

theorem kept_endCopy {m : Nat} {s0 : State} (st : Nat) {s : State} (hm : Covers m 0x40) (h1 : Kept m s0 s) :
    Kept m s0 (endCopy st s) := by
  unfold endCopy
  repeat' first
    | with_reducible assumption
    | intro _
    | with_reducible exact hm.of rfl
    | with_reducible apply kept_finish
    | with_reducible apply kept_ite
    | split

theorem kept_unhold {m : Nat} {s0 : State} (a1 : HeldReq) {s : State} (hm : Covers m 0x4000022) (h1 : Kept m s0 s) :
    Kept m s0 (unhold a1 s) := by
  unfold unhold
  repeat' first
    | with_reducible assumption
    | intro _
    | with_reducible exact hm.of rfl
    | with_reducible apply kept_assignTag
    | with_reducible apply kept_modBrg

theorem kept_failHeld {m : Nat} {s0 : State} (a1 : HeldReq) (st : Nat) {s : State} (hm : Covers m 0x60) (h1 : Kept m s0 s) :
    Kept m s0 (failHeld a1 st s) := by
  unfold failHeld
  repeat' first
    | with_reducible assumption
    | intro _
    | with_reducible exact hm.of rfl
    | with_reducible apply kept_deny
    | with_reducible apply kept_endCopy
    | split

theorem kept_nextLine {m : Nat} {s0 : State} {s : State} (hm : Covers m 0x4000062) (h1 : Kept m s0 s) :
    Kept m s0 (nextLine s) := by
  unfold nextLine
  repeat' first
    | with_reducible assumption
    | intro _
    | (extract_lets +onlyGivenNames x; clear_value x; revert x; intro y)
    | with_reducible exact hm.of rfl
    | with_reducible apply kept_endCopy
    | with_reducible apply kept_hold
    | with_reducible apply kept_ite
    | split

theorem kept_lineIn {m : Nat} {s0 : State} (data : List Byte) {s : State} (hm : Covers m 0x1840efc72) (h1 : Kept m s0 s) :
    Kept m s0 (lineIn data s) := by
  unfold lineIn
  repeat' first
    | with_reducible assumption
    | (intro hx; clear_value x; revert hx; revert x; intro y hy)
    | intro _
    | (subst x)
    | (extract_lets +onlyGivenNames x; refine kept_cut (m := m) (s0 := s0) (x := x) ?_ ?_)
    | (extract_lets +onlyGivenNames x; clear_value x; revert x; intro y)
    | with_reducible exact hm.of rfl
    | with_reducible apply kept_writeMem
    | with_reducible apply kept_nextLine
    | with_reducible apply kept_modBrg
    | split

theorem kept_served {m : Nat} {s0 : State} (a1 : HeldReq) (data : List Byte) {s : State} (hm : Covers m 0x1840efc72) (h1 : Kept m s0 s) :
    Kept m s0 (served a1 data s) := by
  unfold served
  repeat' first
    | with_reducible assumption
    | (intro hx; clear_value x; revert hx; revert x; intro y hy)
    | intro _
    | (subst x)
    | (extract_lets +onlyGivenNames x; refine kept_cut (m := m) (s0 := s0) (x := x) ?_ ?_)
    | (extract_lets +onlyGivenNames x; clear_value x; revert x; intro y)
    | with_reducible exact hm.of rfl
    | with_reducible apply kept_endCopy
    | with_reducible apply kept_lineIn
    | with_reducible apply kept_emit
    | with_reducible apply kept_modBrg
    | with_reducible apply kept_ite
    | split

theorem kept_completion {m : Nat} {s0 : State} (tag : Option Nat) (ok : Bool) (data : List Byte) {s : State} (hm : Covers m 0x1840efc72) (h1 : Kept m s0 s) :
    Kept m s0 (completion tag ok data s) := by
  unfold completion
  repeat' first
    | with_reducible assumption
    | intro _
    | with_reducible exact hm.of rfl
    | with_reducible apply kept_incF
    | with_reducible apply kept_served
    | with_reducible apply kept_unhold
    | with_reducible apply kept_failHeld
    | with_reducible apply kept_ite
    | split

theorem kept_timeoutHeld {m : Nat} {s0 : State} {s : State} (hm : Covers m 0x6040004e2) (h1 : Kept m s0 s) :
    Kept m s0 (timeoutHeld s) := by
  unfold timeoutHeld
  repeat' first
    | with_reducible assumption
    | (intro hx; clear_value x; revert hx; revert x; intro y hy)
    | intro _
    | (subst x)
    | (extract_lets +onlyGivenNames x; refine kept_cut (m := m) (s0 := s0) (x := x) ?_ ?_)
    | (extract_lets +onlyGivenNames x; clear_value x; revert x; intro y)
    | with_reducible exact hm.of rfl
    | with_reducible apply kept_evtBrg
    | with_reducible apply kept_incF
    | with_reducible apply kept_unhold
    | with_reducible apply kept_failHeld
    | with_reducible apply kept_raiseReq
    | with_reducible apply kept_ite
    | split

theorem kept_pushLog {m : Nat} {s0 : State} (rid : Nat) (msg : Nat) (ts : Nat) (hlok : Bool) (addr : Nat) {s : State} (hm : Covers m 0x600000492) (h1 : Kept m s0 s) :
    Kept m s0 (pushLog rid msg ts hlok addr s) := by
  unfold pushLog
  repeat' first
    | with_reducible assumption
    | (intro hx; clear_value x; revert hx; revert x; intro y hy)
    | intro _
    | (subst x)
    | (extract_lets +onlyGivenNames x; refine kept_cut (m := m) (s0 := s0) (x := x) ?_ ?_)
    | (extract_lets +onlyGivenNames x; clear_value x; revert x; intro y)
    | with_reducible exact hm.of rfl
    | with_reducible apply kept_raise
    | with_reducible apply kept_evtBrg
    | with_reducible apply kept_incF
    | with_reducible apply kept_setF
    | with_reducible apply kept_setB
    | with_reducible apply kept_setFree
    | with_reducible apply kept_ite

theorem kept_fetchRead {m : Nat} {s0 : State} (rid : Nat) (off : Nat) {s : State} (hm : Covers m 0x20) (h1 : Kept m s0 s) :
    Kept m s0 (fetchRead rid off s) := by
  unfold fetchRead
  repeat' first
    | with_reducible assumption
    | intro _
    | with_reducible exact hm.of rfl
    | with_reducible apply kept_emit

theorem kept_fetchWalk {m : Nat} {s0 : State} (rid off : Nat) (l : List (Option (BitVec 32))) {s : State} (hm : Covers m 0x20) (h1 : Kept m s0 s) :
    Kept m s0 (fetchWalk rid off l s).1 := by
  induction l generalizing off s with
  | nil => exact kept_fetchRead _ _ (hm.of rfl) h1
  | cons e r ih =>
    have h2 := kept_fetchRead rid off (hm.of rfl) h1
    cases e with
    | none => exact h2
    | some d =>
      unfold fetchWalk
      dsimp only
      split
      · exact kept_foldl _ _ _ (fun _ _ => kept_fetchRead _ _ (hm.of rfl)) h2
      · split
        · exact h2
        · exact ih _ h2

theorem kept_fetchDone {m : Nat} {s0 : State} (reads : List (Option (BitVec 32))) {s : State} (hm : Covers m 0x6040004b2) (h1 : Kept m s0 s) :
    Kept m s0 (fetchDone reads s) := by
  unfold fetchDone
  repeat' first
    | with_reducible assumption
    | (intro hx; clear_value x; revert hx; revert x; intro y hy)
    | (intro hz; clear_value z; revert hz; revert z; intro y hy)
    | intro _
    | (subst x)
    | (subst z)
    | (extract_lets +onlyGivenNames x; refine kept_cut (m := m) (s0 := s0) (x := x) ?_ ?_)
    | (extract_lets +onlyGivenNames z; refine kept_cut (m := m) (s0 := s0) (x := z.1) ?_ ?_)
    | (extract_lets +onlyGivenNames x; clear_value x; revert x; intro y)
    | with_reducible exact hm.of rfl
    | with_reducible apply kept_fetchWalk
    | with_reducible apply kept_modBrg
    | with_reducible apply kept_pushLog
    | with_reducible apply kept_emit
    | (with_reducible refine Kept1.of_eq (kept_fetchWalk _ _ (hm.of rfl) ?_) (by assumption))
    | (with_reducible refine Kept1.of_eq (kept_fetchWalk _ _ _ (hm.of rfl) ?_) (by assumption))
    | (with_reducible refine Kept1.of_eq (kept_fetchWalk _ (hm.of rfl) ?_) (by assumption))
    | split

theorem kept_popLog {m : Nat} {s0 : State} {s : State} (hm : Covers m 0x2) (h1 : Kept m s0 s) :
    Kept m s0 (popLog s) := by
  unfold popLog
  repeat' first
    | with_reducible assumption
    | intro _
    | (extract_lets +onlyGivenNames x; clear_value x; revert x; intro y)
    | with_reducible exact hm.of rfl
    | with_reducible apply kept_setF
    | with_reducible apply kept_ite

theorem kept_epSet {m : Nat} {s0 : State} (o : Nat) (a2 : Nat) {s : State} (hm : Covers m 0x4000002) (h1 : Kept m s0 s) :
    Kept m s0 (epSet o a2 s) := by
  unfold epSet
  repeat' first
    | with_reducible assumption
    | (intro (hw : ∀ t, Kept m s0 t → Kept m s0 (w t)); clear_value w; revert hw; revert w; intro v hv)
    | (intro (hw : ∀ a t, Kept m s0 t → Kept m s0 (w a t)); clear_value w; revert hw; revert w; intro v hv)
    | (intro (hw : ∀ a, Kept m s0 (w a)); clear_value w; revert hw; revert w; intro v hv)
    | intro _
    | (subst w)
    | (extract_lets +onlyGivenNames w; refine kept_cutF1 (m := m) (s0 := s0) (x := w) ?_ ?_)
    | (extract_lets +onlyGivenNames w; refine kept_cutF2 (m := m) (s0 := s0) (x := w) ?_ ?_)
    | (extract_lets +onlyGivenNames w; refine kept_cutF0 (m := m) (s0 := s0) (x := w) ?_ ?_)
    | (extract_lets +onlyGivenNames x; clear_value x; revert x; intro y)
    | with_reducible apply hv
    | with_reducible exact hm.of rfl
    | with_reducible apply kept_modBrg
    | split

theorem kept_epError {m : Nat} {s0 : State} (k : Nat) (b : Nat) (wr : Bool) (n : Nat) {s : State} (hm : Covers m 0x4000002) (h1 : Kept m s0 s) :
    Kept m s0 (epError k b wr n s) := by
  unfold epError
  repeat' first
    | with_reducible assumption
    | intro _
    | (extract_lets +onlyGivenNames x; clear_value x; revert x; intro y)
    | with_reducible exact hm.of rfl
    | with_reducible apply kept_modBrg
    | with_reducible apply kept_ite

theorem kept_epConfig {m : Nat} {s0 : State} (a : Nat) (wr : Bool) (n : Nat) (d : List Byte) {s : State} (hm : Covers m 0x4000022) (h1 : Kept m s0 s) :
    Kept m s0 (epConfig a wr n d s) := by
  unfold epConfig
  repeat' first
    | with_reducible assumption
    | intro _
    | (extract_lets +onlyGivenNames x; clear_value x; revert x; intro y)
    | with_reducible exact hm.of rfl
    | with_reducible apply kept_deny
    | with_reducible apply kept_epSet
    | with_reducible apply kept_emit
    | with_reducible apply kept_ite

theorem kept_sendMsiVector {m : Nat} {s0 : State} (a1 : Nat) {s : State} (hm : Covers m 0x20) (h1 : Kept m s0 s) :
    Kept m s0 (sendMsiVector a1 s) := by
  unfold sendMsiVector
  repeat' first
    | with_reducible assumption
    | intro _
    | (extract_lets +onlyGivenNames x; clear_value x; revert x; intro y)
    | with_reducible exact hm.of rfl
    | with_reducible apply kept_sendWrite
    | with_reducible apply kept_ite

theorem kept_routeMsi {m : Nat} {s0 : State} (e : Nat) {s : State} (hm : Covers m 0x600000482) (h1 : Kept m s0 s) :
    Kept m s0 (routeMsi e s) := by
  unfold routeMsi
  repeat' first
    | with_reducible assumption
    | intro _
    | with_reducible exact hm.of rfl
    | with_reducible apply kept_sendTarget
    | with_reducible apply kept_ite

theorem kept_refuseIn {m : Nat} {s0 : State} (b : Nat) (wr : Bool) (n : Nat) {s : State} (hm : Covers m 0x6040004a2) (h1 : Kept m s0 s) :
    Kept m s0 (refuseIn b wr n s) := by
  unfold refuseIn
  repeat' first
    | with_reducible assumption
    | (intro hx; clear_value x; revert hx; revert x; intro y hy)
    | intro _
    | (subst x)
    | (extract_lets +onlyGivenNames x; refine kept_cut (m := m) (s0 := s0) (x := x) ?_ ?_)
    | (extract_lets +onlyGivenNames x; clear_value x; revert x; intro y)
    | with_reducible exact hm.of rfl
    | with_reducible apply kept_epError
    | with_reducible apply kept_evtBrg
    | with_reducible apply kept_incF
    | with_reducible apply kept_emit
    | with_reducible apply kept_deny
    | with_reducible apply kept_ite

theorem kept_complete {m : Nat} {s0 : State} (n : Nat) (d : List Byte) {s : State} (hm : Covers m 0x20) (h1 : Kept m s0 s) :
    Kept m s0 (complete n d s) := by
  induction n generalizing d s with
  | zero => exact h1
  | succ n ih =>
    unfold complete
    repeat' first
      | with_reducible assumption
      | (intro hx; clear_value x; revert hx; revert x; intro y hy)
      | intro _
      | (subst x)
      | (extract_lets +onlyGivenNames x; refine kept_cut (m := m) (s0 := s0) (x := x) ?_ ?_)
      | (extract_lets +onlyGivenNames x; clear_value x; revert x; intro y)
      | with_reducible exact hm.of rfl
      | with_reducible apply ih
      | with_reducible apply kept_emit
      | with_reducible apply kept_ite
      | split

theorem kept_inbound {m : Nat} {s0 : State} (b0 : Nat) (wr : Bool) (n : Nat) (d : List Byte) {a5 : State} (hm : Covers m 0x7840efcb2) (h1 : Kept m s0 a5) :
    Kept m s0 (inbound b0 wr n d a5) := by
  unfold inbound
  repeat' first
    | with_reducible assumption
    | (intro hx; clear_value x; revert hx; revert x; intro y hy)
    | intro _
    | (subst x)
    | (extract_lets +onlyGivenNames x; refine kept_cut (m := m) (s0 := s0) (x := x) ?_ ?_)
    | (extract_lets +onlyGivenNames x; clear_value x; revert x; intro y)
    | with_reducible exact hm.of rfl
    | with_reducible apply kept_wakeIsland
    | with_reducible apply kept_epError
    | with_reducible apply kept_routeMsi
    | with_reducible apply kept_refuseIn
    | with_reducible apply kept_raise
    | with_reducible apply kept_writeMem
    | with_reducible apply kept_complete
    | with_reducible apply kept_touch
    | with_reducible apply kept_deny
    | with_reducible apply kept_incF
    | with_reducible apply kept_ite
    | split

theorem kept_startCfg {m : Nat} {s0 : State} (a1 : Nat) {s : State} (hm : Covers m 0x4000022) (h1 : Kept m s0 s) :
    Kept m s0 (startCfg a1 s) := by
  unfold startCfg
  repeat' first
    | with_reducible assumption
    | (intro hx; clear_value x; revert hx; revert x; intro y hy)
    | intro _
    | (subst x)
    | (extract_lets +onlyGivenNames x; refine kept_cut (m := m) (s0 := s0) (x := x) ?_ ?_)
    | (extract_lets +onlyGivenNames x; clear_value x; revert x; intro y)
    | with_reducible exact hm.of rfl
    | with_reducible apply kept_setF
    | with_reducible apply kept_emit
    | with_reducible apply kept_modBrg
    | with_reducible apply kept_ite

theorem kept_endCfg {m : Nat} {s0 : State} (res : Nat) (data : Nat) {s : State} (hm : Covers m 0x4000002) (h1 : Kept m s0 s) :
    Kept m s0 (endCfg res data s) := by
  unfold endCfg
  repeat' first
    | with_reducible assumption
    | (intro hx; clear_value x; revert hx; revert x; intro y hy)
    | intro _
    | (subst x)
    | (extract_lets +onlyGivenNames x; refine kept_cut (m := m) (s0 := s0) (x := x) ?_ ?_)
    | (extract_lets +onlyGivenNames x; clear_value x; revert x; intro y)
    | with_reducible exact hm.of rfl
    | with_reducible apply kept_setF
    | with_reducible apply kept_modBrg
    | with_reducible apply kept_ite

theorem kept_cfgDone {m : Nat} {s0 : State} (res : Nat) (data : Nat) {s : State} (hm : Covers m 0x4000002) (h1 : Kept m s0 s) :
    Kept m s0 (cfgDone res data s) := by
  unfold cfgDone
  repeat' first
    | with_reducible assumption
    | intro _
    | with_reducible exact hm.of rfl
    | with_reducible apply kept_endCfg
    | with_reducible apply kept_ite

theorem kept_postLines {m : Nat} {s0 : State} (k : Nat) (d : List Byte) (n : Nat) (i : Nat) {s : State} (hm : Covers m 0x18402fc32) (h1 : Kept m s0 s) :
    Kept m s0 (postLines k d n i s).1 := by
  induction n generalizing i s with
  | zero => exact h1
  | succ n ih =>
    unfold postLines
    show Kept1 m s0 _
    repeat' first
      | with_reducible assumption
      | (intro hx; clear_value x; revert hx; revert x; intro y hy)
      | intro _
      | (subst x)
      | (extract_lets +onlyGivenNames x; refine kept_cut (m := m) (s0 := s0) (x := x) ?_ ?_)
      | (extract_lets +onlyGivenNames x; clear_value x; revert x; intro y)
      | with_reducible exact hm.of rfl
      | with_reducible apply ih
      | with_reducible apply kept_modBrg
      | with_reducible apply kept_touch
      | with_reducible apply kept_sendWrite
      | with_reducible apply kept1_ite
      | with_reducible apply kept_ite
      | with_reducible apply kept1_mk
      | with_reducible apply kept1_of
      | split

theorem kept_runCopyout {m : Nat} {s0 : State} {s : State} (hm : Covers m 0x18402fe72) (h1 : Kept m s0 s) :
    Kept m s0 (runCopyout s) := by
  unfold runCopyout
  repeat' first
    | with_reducible assumption
    | (intro hx; clear_value x; revert hx; revert x; intro y hy)
    | intro _
    | (subst x)
    | (extract_lets +onlyGivenNames x; refine kept_cut (m := m) (s0 := s0) (x := x) ?_ ?_)
    | (extract_lets +onlyGivenNames x; clear_value x; revert x; intro y)
    | with_reducible exact hm.of rfl
    | with_reducible apply kept_starting
    | with_reducible apply kept_finish
    | with_reducible apply kept_modBrg
    | with_reducible apply kept_dropPf
    | with_reducible apply kept_startOp
    | with_reducible apply kept_postLines
    | with_reducible apply kept_endCopy
    | with_reducible apply kept_hold
    | with_reducible apply kept_ite
    | (with_reducible refine Kept1.of_eq (kept_postLines _ _ (hm.of rfl) ?_) (by assumption))
    | (with_reducible refine Kept1.of_eq (kept_postLines _ _ _ (hm.of rfl) ?_) (by assumption))
    | (with_reducible refine Kept1.of_eq (kept_postLines _ (hm.of rfl) ?_) (by assumption))
    | split

theorem kept_runCopyin {m : Nat} {s0 : State} {s : State} (hm : Covers m 0x4000662) (h1 : Kept m s0 s) :
    Kept m s0 (runCopyin s) := by
  unfold runCopyin
  repeat' first
    | with_reducible assumption
    | intro _
    | with_reducible exact hm.of rfl
    | with_reducible apply kept_starting
    | with_reducible apply kept_finish
    | with_reducible apply kept_nextLine
    | with_reducible apply kept_modBrg
    | with_reducible apply kept_startOp
    | with_reducible apply kept_ite
    | split

theorem kept_setLinkBrg {m : Nat} {s0 : State} (up : Bool) (speed : Nat) (width : Nat) {s : State} (hm : Covers m 0x604000482) (h1 : Kept m s0 s) :
    Kept m s0 (setLinkBrg up speed width s) := by
  unfold setLinkBrg
  repeat' first
    | with_reducible assumption
    | (intro hx; clear_value x; revert hx; revert x; intro y hy)
    | intro _
    | (subst x)
    | (extract_lets +onlyGivenNames x; refine kept_cut (m := m) (s0 := s0) (x := x) ?_ ?_)
    | (extract_lets +onlyGivenNames x; clear_value x; revert x; intro y)
    | with_reducible exact hm.of rfl
    | with_reducible apply kept_modBrg
    | with_reducible apply kept_setF
    | with_reducible apply kept_setB
    | with_reducible apply kept_evtBrg
    | with_reducible apply kept_ite

theorem kept_linkDown {m : Nat} {s0 : State} (disable : Bool) (unsent : Nat) {s : State} (hm : Covers m 0x6040004f2) (h1 : Kept m s0 s) :
    Kept m s0 (linkDown disable unsent s) := by
  unfold linkDown
  repeat' first
    | with_reducible assumption
    | (intro hx; clear_value x; revert hx; revert x; intro y hy)
    | intro _
    | (subst x)
    | (extract_lets +onlyGivenNames x; refine kept_cut (m := m) (s0 := s0) (x := x) ?_ ?_)
    | (extract_lets +onlyGivenNames x; clear_value x; revert x; intro y)
    | with_reducible exact hm.of rfl
    | with_reducible apply kept_setF
    | with_reducible apply kept_addF
    | with_reducible apply kept_emit
    | with_reducible apply kept_failHeld
    | with_reducible apply kept_modBrg
    | with_reducible apply kept_pushLog
    | with_reducible apply kept_setLinkBrg
    | with_reducible apply kept_endCfg
    | with_reducible apply kept_ite
    | with_reducible apply kept_foldl
    | with_reducible apply kept_foldl1

theorem kept_linkUp {m : Nat} {s0 : State} (speed : Nat) (width : Nat) {s : State} (hm : Covers m 0x604000482) (h1 : Kept m s0 s) :
    Kept m s0 (linkUp speed width s) := by
  unfold linkUp
  repeat' first
    | with_reducible assumption
    | intro _
    | (extract_lets +onlyGivenNames x; clear_value x; revert x; intro y)
    | with_reducible exact hm.of rfl
    | with_reducible apply kept_setLinkBrg
    | with_reducible apply kept_ite

theorem kept_enableBrg {m : Nat} {s0 : State} {s : State} (hm : Covers m 0x4000002) (h1 : Kept m s0 s) :
    Kept m s0 (enableBrg s) := by
  unfold enableBrg
  repeat' first
    | with_reducible assumption
    | intro _
    | with_reducible exact hm.of rfl
    | with_reducible apply kept_modBrg
    | with_reducible apply kept_setF
    | with_reducible apply kept_ite

theorem kept_releasePerst {m : Nat} {s0 : State} {s : State} (hm : Covers m 0x4000022) (h1 : Kept m s0 s) :
    Kept m s0 (releasePerst s) := by
  unfold releasePerst
  repeat' first
    | with_reducible assumption
    | intro _
    | with_reducible exact hm.of rfl
    | with_reducible apply kept_emit
    | with_reducible apply kept_modBrg
    | with_reducible apply kept_ite

theorem kept_execOutboundAccess {m : Nat} {s0 : State} (r : Req) (kind : AccKind) (addr : BitVec 40) (size : Nat) (data : List Byte) {s : State} (hm : Covers m 0x404000022) (h1 : Kept m s0 s) :
    KeptO m s0 (execOutboundAccess r kind addr size data s) := by
  unfold execOutboundAccess
  repeat' first
    | with_reducible assumption
    | intro _
    | with_reducible exact hm.of rfl
    | with_reducible apply kept_onEngine
    | with_reducible apply kept_outbound
    | with_reducible apply keptO_next
    | with_reducible apply keptO_fault

theorem kept_execCompletionReceived {m : Nat} {s0 : State} (tag : Option (Fin 32)) (ok : Bool) (data : List Byte) {s : State} (hm : Covers m 0x1840efc72) (h1 : Kept m s0 s) :
    KeptO m s0 (execCompletionReceived tag ok data s) := by
  unfold execCompletionReceived
  repeat' first
    | with_reducible assumption
    | intro _
    | with_reducible exact hm.of rfl
    | with_reducible apply kept_onEngine
    | with_reducible apply kept_completion
    | with_reducible apply keptO_next
    | with_reducible apply keptO_fault

theorem kept_execCompletionTimeout {m : Nat} {s0 : State} {s : State} (hm : Covers m 0x6040004e2) (h1 : Kept m s0 s) :
    KeptO m s0 (execCompletionTimeout s) := by
  unfold execCompletionTimeout
  repeat' first
    | with_reducible assumption
    | intro _
    | with_reducible exact hm.of rfl
    | with_reducible apply kept_onEngine
    | with_reducible apply kept_timeoutHeld
    | with_reducible apply keptO_next
    | with_reducible apply keptO_fault

theorem kept_execPrefetchExpiry {m : Nat} {s0 : State} (k : Fin 4) {s : State} (hm : Covers m 0x4000002) (h1 : Kept m s0 s) :
    KeptO m s0 (execPrefetchExpiry k s) := by
  unfold execPrefetchExpiry
  repeat' first
    | with_reducible assumption
    | intro _
    | with_reducible exact hm.of rfl
    | with_reducible apply kept_onEngine
    | with_reducible apply kept_modBrg
    | with_reducible apply keptO_ite
    | with_reducible apply kept_ite
    | with_reducible apply keptO_next
    | with_reducible apply keptO_fault
    | split

theorem kept_execErrorMessage {m : Nat} {s0 : State} (rid : BitVec 16) (fatal : Bool) {s : State} (hm : Covers m 0x4000002) (h1 : Kept m s0 s) :
    KeptO m s0 (execErrorMessage rid fatal s) := by
  unfold execErrorMessage
  repeat' first
    | with_reducible assumption
    | intro _
    | with_reducible exact hm.of rfl
    | with_reducible apply kept_onEngine
    | with_reducible apply kept_modBrg
    | with_reducible apply keptO_ite
    | with_reducible apply kept_ite
    | with_reducible apply keptO_next
    | with_reducible apply keptO_fault

theorem kept_execErrorFetchDone {m : Nat} {s0 : State} (reads : List (Option (BitVec 32))) {s : State} (hm : Covers m 0x6040004b2) (h1 : Kept m s0 s) :
    KeptO m s0 (execErrorFetchDone reads s) := by
  unfold execErrorFetchDone
  repeat' first
    | with_reducible assumption
    | intro _
    | with_reducible exact hm.of rfl
    | with_reducible apply kept_onEngine
    | with_reducible apply kept_fetchDone
    | with_reducible apply keptO_next
    | with_reducible apply keptO_fault

theorem kept_execElpop {m : Nat} {s0 : State} (r : Req) {s : State} (hm : Covers m 0x400000022) (h1 : Kept m s0 s) :
    KeptO m s0 (execElpop r s) := by
  unfold execElpop
  repeat' first
    | with_reducible assumption
    | intro _
    | with_reducible exact hm.of rfl
    | with_reducible apply kept_reached
    | with_reducible apply kept_popLog
    | with_reducible apply keptO_next
    | with_reducible apply keptO_fault

theorem kept_execInboundRequest {m : Nat} {s0 : State} (config : Bool) (addr : Word) (wr : Bool) (len : Nat) (data : List Byte) {s : State} (hm : Covers m 0x7840efcb2) (h1 : Kept m s0 s) :
    KeptO m s0 (execInboundRequest config addr wr len data s) := by
  unfold execInboundRequest
  repeat' first
    | with_reducible assumption
    | intro _
    | with_reducible exact hm.of rfl
    | with_reducible apply kept_onEngine
    | with_reducible apply kept_epConfig
    | with_reducible apply kept_wakeIsland
    | with_reducible apply kept_inbound
    | with_reducible apply keptO_ite
    | with_reducible apply kept_ite
    | with_reducible apply keptO_next
    | with_reducible apply keptO_fault

theorem kept_execMsiReceive {m : Nat} {s0 : State} (intx : Option (Fin 4)) (data : BitVec 32) {s : State} (hm : Covers m 0x600000482) (h1 : Kept m s0 s) :
    KeptO m s0 (execMsiReceive intx data s) := by
  unfold execMsiReceive
  repeat' first
    | with_reducible assumption
    | intro _
    | with_reducible exact hm.of rfl
    | with_reducible apply kept_onEngine
    | with_reducible apply kept_routeMsi
    | with_reducible apply keptO_next
    | with_reducible apply keptO_fault
    | split

theorem kept_execMsigen {m : Nat} {s0 : State} (r : Req) (vec : Fin 32) {s : State} (hm : Covers m 0x400000022) (h1 : Kept m s0 s) :
    KeptO m s0 (execMsigen r vec s) := by
  unfold execMsigen
  repeat' first
    | with_reducible assumption
    | intro _
    | with_reducible exact hm.of rfl
    | with_reducible apply kept_reached
    | with_reducible apply kept_sendMsiVector
    | with_reducible apply keptO_next
    | with_reducible apply keptO_fault

theorem kept_execCfgreqGo {m : Nat} {s0 : State} (r : Req) (val : Word) {s : State} (hm : Covers m 0x404000022) (h1 : Kept m s0 s) :
    KeptO m s0 (execCfgreqGo r val s) := by
  unfold execCfgreqGo
  repeat' first
    | with_reducible assumption
    | intro _
    | with_reducible exact hm.of rfl
    | with_reducible apply kept_reached
    | with_reducible apply kept_startCfg
    | with_reducible apply keptO_next
    | with_reducible apply keptO_fault

theorem kept_execCfgreqDone {m : Nat} {s0 : State} (result : Fin 8) (data : BitVec 32) {s : State} (hm : Covers m 0x4000002) (h1 : Kept m s0 s) :
    KeptO m s0 (execCfgreqDone result data s) := by
  unfold execCfgreqDone
  repeat' first
    | with_reducible assumption
    | intro _
    | with_reducible exact hm.of rfl
    | with_reducible apply kept_onEngine
    | with_reducible apply kept_cfgDone
    | with_reducible apply keptO_next
    | with_reducible apply keptO_fault

theorem kept_execCopyout {m : Nat} {s0 : State} {s : State} (hm : Covers m 0x18402fe72) (h1 : Kept m s0 s) :
    KeptO m s0 (execCopyout s) := by
  unfold execCopyout
  repeat' first
    | with_reducible assumption
    | intro _
    | with_reducible exact hm.of rfl
    | with_reducible apply kept_onEngine
    | with_reducible apply kept_runCopyout
    | with_reducible apply keptO_next
    | with_reducible apply keptO_fault

theorem kept_execCopyin {m : Nat} {s0 : State} {s : State} (hm : Covers m 0x4000662) (h1 : Kept m s0 s) :
    KeptO m s0 (execCopyin s) := by
  unfold execCopyin
  repeat' first
    | with_reducible assumption
    | intro _
    | with_reducible exact hm.of rfl
    | with_reducible apply kept_onEngine
    | with_reducible apply kept_runCopyin
    | with_reducible apply keptO_next
    | with_reducible apply keptO_fault

theorem kept_execBridgeLinkDown {m : Nat} {s0 : State} (disable : Bool) (unsent : Nat) {s : State} (hm : Covers m 0x6040004f2) (h1 : Kept m s0 s) :
    KeptO m s0 (execBridgeLinkDown disable unsent s) := by
  unfold execBridgeLinkDown
  repeat' first
    | with_reducible assumption
    | intro _
    | with_reducible exact hm.of rfl
    | with_reducible apply kept_onIsland
    | with_reducible apply kept_linkDown
    | with_reducible apply keptO_next
    | with_reducible apply keptO_fault

theorem kept_execBridgeLinkUp {m : Nat} {s0 : State} (speed : Fin 4) (width : Fin 5) {s : State} (hm : Covers m 0x604000482) (h1 : Kept m s0 s) :
    KeptO m s0 (execBridgeLinkUp speed width s) := by
  unfold execBridgeLinkUp
  repeat' first
    | with_reducible assumption
    | intro _
    | with_reducible exact hm.of rfl
    | with_reducible apply kept_onIsland
    | with_reducible apply kept_linkUp
    | with_reducible apply keptO_next
    | with_reducible apply keptO_fault

theorem kept_execPerstRelease {m : Nat} {s0 : State} {s : State} (hm : Covers m 0x4000022) (h1 : Kept m s0 s) :
    KeptO m s0 (execPerstRelease s) := by
  unfold execPerstRelease
  repeat' first
    | with_reducible assumption
    | intro _
    | with_reducible exact hm.of rfl
    | with_reducible apply kept_onEngine
    | with_reducible apply kept_releasePerst
    | with_reducible apply keptO_next
    | with_reducible apply keptO_fault

end Sys2Proof.Machine
end

