-- ==== Sys2Proof/Laws/KeptField.lean ====
section
/-! SUPPORT. What the operations of Machine/Field.lean keep (Safety.lean, `Kept`): one lemma each, which cites those of the operations it calls. -/

namespace Sys2Proof.Machine

theorem kept_markDirty {m : Nat} {s0 : State} (c : Nat) {s : State} (hm : Covers m 0x8000000) (h1 : Kept m s0 s) :
    Kept m s0 (markDirty c s) := by
  unfold markDirty
  repeat' first
    | with_reducible assumption
    | intro _
    | with_reducible exact hm.of rfl
    | with_reducible apply kept_modFio
    | with_reducible apply kept_ite

theorem kept_noted {m : Nat} {s0 : State} (c : Nat) (s : State) {t : State} (hm : Covers m 0x8000000) (h1 : Kept m s0 t) :
    Kept m s0 (noted c s t) := by
  unfold noted
  repeat' first
    | with_reducible assumption
    | intro _
    | with_reducible exact hm.of rfl
    | with_reducible apply kept_markDirty
    | with_reducible apply kept_ite

theorem kept_queuePubs {m : Nat} {s0 : State} {s : State} (hm : Covers m 0x8000000) (h1 : Kept m s0 s) :
    Kept m s0 (queuePubs s) := by
  unfold queuePubs
  repeat' first
    | with_reducible assumption
    | intro _
    | (extract_lets +onlyGivenNames x; clear_value x; revert x; intro y)
    | with_reducible exact hm.of rfl
    | with_reducible apply kept_modFio
    | with_reducible apply kept_ite

theorem kept_acceptLevel {m : Nat} {s0 : State} (c : Nat) (a2 : Bool) {s : State} (hm : Covers m 0x8000002) (h1 : Kept m s0 s) :
    Kept m s0 (acceptLevel c a2 s) := by
  unfold acceptLevel
  repeat' first
    | with_reducible assumption
    | (intro hx; clear_value x; revert hx; revert x; intro y hy)
    | intro _
    | (subst x)
    | (extract_lets +onlyGivenNames x; refine kept_cut (m := m) (s0 := s0) (x := x) ?_ ?_)
    | (extract_lets +onlyGivenNames x; clear_value x; revert x; intro y)
    | with_reducible exact hm.of rfl
    | with_reducible apply kept_setB
    | with_reducible apply kept_noted
    | with_reducible apply kept_incF
    | with_reducible apply kept_setFBit
    | with_reducible apply kept_ite

theorem kept_scanInput {m : Nat} {s0 : State} (levels : Nat) (c : Nat) {s : State} (hm : Covers m 0x8000002) (h1 : Kept m s0 s) :
    Kept m s0 (scanInput levels c s) := by
  unfold scanInput
  repeat' first
    | with_reducible assumption
    | intro _
    | (extract_lets +onlyGivenNames x; clear_value x; revert x; intro y)
    | with_reducible exact hm.of rfl
    | with_reducible apply kept_modFio
    | with_reducible apply kept_acceptLevel
    | with_reducible apply kept_ite

theorem kept_scanPair {m : Nat} {s0 : State} (p : Nat) {s : State} (hm : Covers m 0x8000002) (h1 : Kept m s0 s) :
    Kept m s0 (scanPair p s) := by
  unfold scanPair
  repeat' first
    | with_reducible assumption
    | (intro hx; clear_value x; revert hx; revert x; intro y hy)
    | intro _
    | (subst x)
    | (extract_lets +onlyGivenNames x; refine kept_cut (m := m) (s0 := s0) (x := x) ?_ ?_)
    | (extract_lets +onlyGivenNames x; clear_value x; revert x; intro y)
    | with_reducible exact hm.of rfl
    | with_reducible apply kept_setF
    | with_reducible apply kept_modFio
    | with_reducible apply kept_noted
    | with_reducible apply kept_incF
    | with_reducible apply kept_setFBit
    | with_reducible apply kept_setB
    | with_reducible apply kept_ite

theorem kept_fieldScan {m : Nat} {s0 : State} (levels : Nat) {s : State} (hm : Covers m 0x8000002) (h1 : Kept m s0 s) :
    Kept m s0 (fieldScan levels s) := by
  unfold fieldScan
  repeat' first
    | with_reducible assumption
    | (intro hx; clear_value x; revert hx; revert x; intro y hy)
    | intro _
    | (subst x)
    | (extract_lets +onlyGivenNames x; refine kept_cut (m := m) (s0 := s0) (x := x) ?_ ?_)
    | (extract_lets +onlyGivenNames x; clear_value x; revert x; intro y)
    | with_reducible exact hm.of rfl
    | with_reducible apply kept_scanInput
    | with_reducible apply kept_modFio
    | with_reducible apply kept_queuePubs
    | with_reducible apply kept_scanPair
    | with_reducible apply kept_foldl
    | with_reducible apply kept_foldl1
    | with_reducible apply kept_forN

theorem kept_syncSwitch {m : Nat} {s0 : State} (c : Nat) {s : State} (hm : Covers m 0x8000022) (h1 : Kept m s0 s) :
    Kept m s0 (syncSwitch c s) := by
  unfold syncSwitch
  repeat' first
    | with_reducible assumption
    | (intro hx; clear_value x; revert hx; revert x; intro y hy)
    | intro _
    | (subst x)
    | (extract_lets +onlyGivenNames x; refine kept_cut (m := m) (s0 := s0) (x := x) ?_ ?_)
    | (extract_lets +onlyGivenNames x; clear_value x; revert x; intro y)
    | with_reducible exact hm.of rfl
    | with_reducible apply kept_setF
    | with_reducible apply kept_emit
    | with_reducible apply kept_incF
    | with_reducible apply kept_modFio
    | with_reducible apply kept_ite

theorem kept_syncSwitches {m : Nat} {s0 : State} {s : State} (hm : Covers m 0x8000022) (h1 : Kept m s0 s) :
    Kept m s0 (syncSwitches s) := by
  unfold syncSwitches
  repeat' first
    | with_reducible assumption
    | intro _
    | with_reducible exact hm.of rfl
    | with_reducible apply kept_syncSwitch
    | with_reducible apply kept_foldl
    | with_reducible apply kept_foldl1

theorem kept_clearLatches {m : Nat} {s0 : State} (c : Nat) {s : State} (hm : Covers m 0x8000002) (h1 : Kept m s0 s) :
    Kept m s0 (clearLatches c s) := by
  unfold clearLatches
  repeat' first
    | with_reducible assumption
    | (intro hx; clear_value x; revert hx; revert x; intro y hy)
    | intro _
    | (subst x)
    | (extract_lets +onlyGivenNames x; refine kept_cut (m := m) (s0 := s0) (x := x) ?_ ?_)
    | (extract_lets +onlyGivenNames x; clear_value x; revert x; intro y)
    | with_reducible exact hm.of rfl
    | with_reducible apply kept_setF
    | with_reducible apply kept_noted
    | with_reducible apply kept_ite

theorem kept_commandDO {m : Nat} {s0 : State} (n : Nat) (a2 : Bool) {s : State} (hm : Covers m 0x8000002) (h1 : Kept m s0 s) :
    Kept m s0 (commandDO n a2 s) := by
  unfold commandDO
  repeat' first
    | with_reducible assumption
    | (intro hx; clear_value x; revert hx; revert x; intro y hy)
    | intro _
    | (subst x)
    | (extract_lets +onlyGivenNames x; refine kept_cut (m := m) (s0 := s0) (x := x) ?_ ?_)
    | (extract_lets +onlyGivenNames x; clear_value x; revert x; intro y)
    | with_reducible exact hm.of rfl
    | with_reducible apply kept_modFio
    | with_reducible apply kept_markDirty
    | with_reducible apply kept_clearLatches
    | with_reducible apply kept_ite

theorem kept_commandDOs {m : Nat} {s0 : State} (cmd : Nat) {s : State} (hm : Covers m 0x8000022) (h1 : Kept m s0 s) :
    Kept m s0 (commandDOs cmd s) := by
  unfold commandDOs
  repeat' first
    | with_reducible assumption
    | intro _
    | with_reducible exact hm.of rfl
    | with_reducible apply kept_syncSwitches
    | with_reducible apply kept_commandDO
    | with_reducible apply kept_forN

theorem kept_requestSO {m : Nat} {s0 : State} (n : Nat) (a2 : Bool) {s : State} (hm : Covers m 0x8000002) (h1 : Kept m s0 s) :
    Kept m s0 (requestSO n a2 s) := by
  unfold requestSO
  repeat' first
    | with_reducible assumption
    | (intro hx; clear_value x; revert hx; revert x; intro y hy)
    | intro _
    | (subst x)
    | (extract_lets +onlyGivenNames x; refine kept_cut (m := m) (s0 := s0) (x := x) ?_ ?_)
    | (extract_lets +onlyGivenNames x; clear_value x; revert x; intro y)
    | with_reducible exact hm.of rfl
    | with_reducible apply kept_setF
    | with_reducible apply kept_markDirty
    | with_reducible apply kept_clearLatches
    | with_reducible apply kept_ite

theorem kept_channelFault {m : Nat} {s0 : State} (c : Nat) (f : Fld) (cls : Nat) (mac : Nat) {s : State} (hm : Covers m 0x608000482) (h1 : Kept m s0 s) :
    Kept m s0 (channelFault c f cls mac s) := by
  unfold channelFault
  repeat' first
    | with_reducible assumption
    | intro _
    | with_reducible exact hm.of rfl
    | with_reducible apply kept_noted
    | with_reducible apply kept_raise
    | with_reducible apply kept_incF
    | with_reducible apply kept_evtFio
    | with_reducible apply kept_setF
    | with_reducible apply kept_ite

theorem kept_setExt {m : Nat} {s0 : State} (c : Nat) (b : Bool) {s : State} (hm : Covers m 0x2) (h1 : Kept m s0 s) :
    Kept m s0 (setExt c b s) := by
  unfold setExt
  repeat' first
    | with_reducible assumption
    | (intro hx; clear_value x; revert hx; revert x; intro y hy)
    | intro _
    | (subst x)
    | (extract_lets +onlyGivenNames x; refine kept_cut (m := m) (s0 := s0) (x := x) ?_ ?_)
    | (extract_lets +onlyGivenNames x; clear_value x; revert x; intro y)
    | with_reducible exact hm.of rfl
    | with_reducible apply kept_setB
    | with_reducible apply kept_setFBit
    | with_reducible apply kept_ite

theorem kept_showOutput {m : Nat} {s0 : State} (c : Nat) (u : Nat) (i : Nat) (tj : Int) (pin : Bool) (mid : Bool) {s : State} (hm : Covers m 0x8000002) (h1 : Kept m s0 s) :
    Kept m s0 (showOutput c u i tj pin mid s) := by
  unfold showOutput
  repeat' first
    | with_reducible assumption
    | (intro hx; clear_value x; revert hx; revert x; intro y hy)
    | intro _
    | (subst x)
    | (extract_lets +onlyGivenNames x; refine kept_cut (m := m) (s0 := s0) (x := x) ?_ ?_)
    | (extract_lets +onlyGivenNames x; clear_value x; revert x; intro y)
    | with_reducible exact hm.of rfl
    | with_reducible apply kept_setB
    | with_reducible apply kept_setF
    | with_reducible apply kept_noted
    | with_reducible apply kept_setFBit
    | with_reducible apply kept_ite

theorem kept_readback {m : Nat} {s0 : State} (c : Nat) (u : Nat) (i : Nat) (tj : Int) (um : Nat) {s : State} (hm : Covers m 0x6080004a2) (h1 : Kept m s0 s) :
    Kept m s0 (readback c u i tj um s) := by
  unfold readback
  repeat' first
    | with_reducible assumption
    | (intro hx; clear_value x; revert hx; revert x; intro y hy)
    | intro _
    | (subst x)
    | (extract_lets +onlyGivenNames x; refine kept_cut (m := m) (s0 := s0) (x := x) ?_ ?_)
    | (extract_lets +onlyGivenNames x; clear_value x; revert x; intro y)
    | with_reducible exact hm.of rfl
    | with_reducible apply kept_showOutput
    | with_reducible apply kept_modFio
    | with_reducible apply kept_setF
    | with_reducible apply kept_setExt
    | with_reducible apply kept_syncSwitch
    | with_reducible apply kept_channelFault
    | with_reducible apply kept_ite

theorem kept_overloaded {m : Nat} {s0 : State} (c : Nat) (ms : Nat) {s : State} (hm : Covers m 0x6080004a2) (h1 : Kept m s0 s) :
    Kept m s0 (overloaded c ms s) := by
  unfold overloaded
  repeat' first
    | with_reducible assumption
    | intro _
    | with_reducible exact hm.of rfl
    | with_reducible apply kept_syncSwitch
    | with_reducible apply kept_channelFault
    | with_reducible apply kept_ite

theorem kept_openWire {m : Nat} {s0 : State} (c : Nat) {s : State} (hm : Covers m 0x608000482) (h1 : Kept m s0 s) :
    Kept m s0 (openWire c s) := by
  unfold openWire
  repeat' first
    | with_reducible assumption
    | intro _
    | with_reducible exact hm.of rfl
    | with_reducible apply kept_channelFault
    | with_reducible apply kept_ite

theorem kept_extDrive {m : Nat} {s0 : State} (c : Nat) {s : State} (hm : Covers m 0x608000492) (h1 : Kept m s0 s) :
    Kept m s0 (extDrive c s) := by
  unfold extDrive
  repeat' first
    | with_reducible assumption
    | (intro (hw : ∀ t, Kept m s0 t → Kept m s0 (w t)); clear_value w; revert hw; revert w; intro v hv)
    | (intro (hw : ∀ a t, Kept m s0 t → Kept m s0 (w a t)); clear_value w; revert hw; revert w; intro v hv)
    | (intro (hw : ∀ a, Kept m s0 (w a)); clear_value w; revert hw; revert w; intro v hv)
    | intro _
    | (subst w)
    | (extract_lets +onlyGivenNames w; refine kept_cutF1 (m := m) (s0 := s0) (x := w) ?_ ?_)
    | (extract_lets +onlyGivenNames w; refine kept_cutF2 (m := m) (s0 := s0) (x := w) ?_ ?_)
    | (extract_lets +onlyGivenNames w; refine kept_cutF0 (m := m) (s0 := s0) (x := w) ?_ ?_)
    | (extract_lets +onlyGivenNames x; clear_value x; revert x; intro y)
    | with_reducible apply hv
    | with_reducible exact hm.of rfl
    | with_reducible apply kept_setExt
    | with_reducible apply kept_channelFault
    | with_reducible apply kept_setFree
    | with_reducible apply kept_setF
    | with_reducible apply kept_ite

theorem kept_checkPulses {m : Nat} {s0 : State} (n : Nat) {s : State} (hm : Covers m 0x608000482) (h1 : Kept m s0 s) :
    Kept m s0 (checkPulses n s) := by
  unfold checkPulses
  repeat' first
    | with_reducible assumption
    | intro _
    | (extract_lets +onlyGivenNames x; clear_value x; revert x; intro y)
    | with_reducible exact hm.of rfl
    | with_reducible apply kept_noted
    | with_reducible apply kept_setF
    | with_reducible apply kept_channelFault
    | with_reducible apply kept_ite
    | split

theorem kept_pairDisagrees {m : Nat} {s0 : State} (p : Nat) {s : State} (hm : Covers m 0x608000482) (h1 : Kept m s0 s) :
    Kept m s0 (pairDisagrees p s) := by
  unfold pairDisagrees
  repeat' first
    | with_reducible assumption
    | intro _
    | (extract_lets +onlyGivenNames x; clear_value x; revert x; intro y)
    | with_reducible exact hm.of rfl
    | with_reducible apply kept_channelFault
    | with_reducible apply kept_ite

theorem kept_judgePeriod {m : Nat} {s0 : State} (n : Nat) (per : Nat) {s : State} (hm : Covers m 0x8000002) (h1 : Kept m s0 s) :
    Kept m s0 (judgePeriod n per s) := by
  unfold judgePeriod
  repeat' first
    | with_reducible assumption
    | (intro (hw : ∀ t, Kept m s0 t → Kept m s0 (w t)); clear_value w; revert hw; revert w; intro v hv)
    | (intro (hw : ∀ a t, Kept m s0 t → Kept m s0 (w a t)); clear_value w; revert hw; revert w; intro v hv)
    | (intro (hw : ∀ a, Kept m s0 (w a)); clear_value w; revert hw; revert w; intro v hv)
    | intro _
    | (subst w)
    | (extract_lets +onlyGivenNames w; refine kept_cutF1 (m := m) (s0 := s0) (x := w) ?_ ?_)
    | (extract_lets +onlyGivenNames w; refine kept_cutF2 (m := m) (s0 := s0) (x := w) ?_ ?_)
    | (extract_lets +onlyGivenNames w; refine kept_cutF0 (m := m) (s0 := s0) (x := w) ?_ ?_)
    | (extract_lets +onlyGivenNames x; clear_value x; revert x; intro y)
    | with_reducible apply hv
    | with_reducible exact hm.of rfl
    | with_reducible apply kept_modFio
    | with_reducible apply kept_setF
    | with_reducible apply kept_ite

theorem kept_risingEdge {m : Nat} {s0 : State} (n : Nat) (stamp : Nat) {s : State} (hm : Covers m 0x8000002) (h1 : Kept m s0 s) :
    Kept m s0 (risingEdge n stamp s) := by
  unfold risingEdge
  repeat' first
    | with_reducible assumption
    | (intro hx; clear_value x; revert hx; revert x; intro y hy)
    | intro _
    | (subst x)
    | (extract_lets +onlyGivenNames x; refine kept_cut (m := m) (s0 := s0) (x := x) ?_ ?_)
    | (extract_lets +onlyGivenNames x; clear_value x; revert x; intro y)
    | with_reducible exact hm.of rfl
    | with_reducible apply kept_incW
    | with_reducible apply kept_modFio
    | with_reducible apply kept_noted
    | with_reducible apply kept_judgePeriod
    | with_reducible apply kept_setF
    | with_reducible apply kept_ite
    | split

theorem kept_zeroSpeed {m : Nat} {s0 : State} (n : Nat) (ms : Nat) {s : State} (hm : Covers m 0x8000002) (h1 : Kept m s0 s) :
    Kept m s0 (zeroSpeed n ms s) := by
  unfold zeroSpeed
  repeat' first
    | with_reducible assumption
    | intro _
    | (extract_lets +onlyGivenNames x; clear_value x; revert x; intro y)
    | with_reducible exact hm.of rfl
    | with_reducible apply kept_noted
    | with_reducible apply kept_setF
    | with_reducible apply kept_ite

theorem kept_measureSupply {m : Nat} {s0 : State} (g : Nat) (u : Nat) {s : State} (hm : Covers m 0x608000482) (h1 : Kept m s0 s) :
    Kept m s0 (measureSupply g u s) := by
  unfold measureSupply
  repeat' first
    | with_reducible assumption
    | (intro hx; clear_value x; revert hx; revert x; intro y hy)
    | intro _
    | (subst x)
    | (extract_lets +onlyGivenNames x; refine kept_cut (m := m) (s0 := s0) (x := x) ?_ ?_)
    | (extract_lets +onlyGivenNames x; clear_value x; revert x; intro y)
    | with_reducible exact hm.of rfl
    | with_reducible apply kept_setF
    | with_reducible apply kept_modFio
    | with_reducible apply kept_raise
    | with_reducible apply kept_evtFio
    | with_reducible apply kept_markDirty
    | with_reducible apply kept_setB
    | with_reducible apply kept_ite
    | with_reducible apply kept_foldl
    | with_reducible apply kept_foldl1

theorem kept_ownErr {m : Nat} {s0 : State} {s : State} (hm : Covers m 0x600000482) (h1 : Kept m s0 s) :
    Kept m s0 (ownErr s) := by
  unfold ownErr
  repeat' first
    | with_reducible assumption
    | intro _
    | with_reducible exact hm.of rfl
    | with_reducible apply kept_raise
    | with_reducible apply kept_evtFio

theorem kept_notVoted {m : Nat} {s0 : State} (blk : Nat) (r : Req) {s : State} (hm : Covers m 0x402) (h1 : Kept m s0 s) :
    Kept m s0 (notVoted blk r s) := by
  unfold notVoted
  repeat' first
    | with_reducible assumption
    | intro _
    | with_reducible exact hm.of rfl
    | with_reducible apply kept_raiseReq

theorem kept_writeSoown {m : Nat} {s0 : State} (t : Nat) (a2 : Nat) {s : State} (hm : Covers m 0x600000482) (h1 : Kept m s0 s) :
    Kept m s0 (writeSoown t a2 s) := by
  unfold writeSoown
  repeat' first
    | with_reducible assumption
    | (intro hx; clear_value x; revert hx; revert x; intro y hy)
    | intro _
    | (subst x)
    | (extract_lets +onlyGivenNames x; refine kept_cut (m := m) (s0 := s0) (x := x) ?_ ?_)
    | (extract_lets +onlyGivenNames x; clear_value x; revert x; intro y)
    | with_reducible exact hm.of rfl
    | with_reducible apply kept_setF
    | with_reducible apply kept_ownErr
    | with_reducible apply kept_ite
    | with_reducible apply kept_foldl
    | with_reducible apply kept_foldl1

theorem kept_writeDosafe {m : Nat} {s0 : State} (t : Nat) (a2 : Nat) {s : State} (hm : Covers m 0x6080004a2) (h1 : Kept m s0 s) :
    Kept m s0 (writeDosafe t a2 s) := by
  unfold writeDosafe
  repeat' first
    | with_reducible assumption
    | (intro hx; clear_value x; revert hx; revert x; intro y hy)
    | intro _
    | (subst x)
    | (extract_lets +onlyGivenNames x; refine kept_cut (m := m) (s0 := s0) (x := x) ?_ ?_)
    | (extract_lets +onlyGivenNames x; clear_value x; revert x; intro y)
    | with_reducible exact hm.of rfl
    | with_reducible apply kept_ownErr
    | with_reducible apply kept_requestSO
    | with_reducible apply kept_syncSwitches
    | with_reducible apply kept_ite
    | with_reducible apply kept_foldl
    | with_reducible apply kept_foldl1

theorem kept_forceOff {m : Nat} {s0 : State} (t : Nat) {s : State} (hm : Covers m 0x8000022) (h1 : Kept m s0 s) :
    Kept m s0 (forceOff t s) := by
  unfold forceOff
  repeat' first
    | with_reducible assumption
    | intro _
    | with_reducible exact hm.of rfl
    | with_reducible apply kept_syncSwitches
    | with_reducible apply kept_setFBit
    | with_reducible apply kept_requestSO
    | with_reducible apply kept_ite
    | with_reducible apply kept_foldl
    | with_reducible apply kept_foldl1

theorem kept_restartWd {m : Nat} {s0 : State} {s : State} (hm : Covers m 0x8000000) (h1 : Kept m s0 s) :
    Kept m s0 (restartWd s) := by
  unfold restartWd
  repeat' first
    | with_reducible assumption
    | intro _
    | with_reducible exact hm.of rfl
    | with_reducible apply kept_modFio

theorem kept_kick {m : Nat} {s0 : State} (key : Nat) {s : State} (hm : Covers m 0x608000482) (h1 : Kept m s0 s) :
    Kept m s0 (kick key s) := by
  unfold kick
  repeat' first
    | with_reducible assumption
    | intro _
    | with_reducible exact hm.of rfl
    | with_reducible apply kept_restartWd
    | with_reducible apply kept_evtFio
    | with_reducible apply kept_incF
    | with_reducible apply kept_ite

theorem kept_fallSilent {m : Nat} {s0 : State} (link : Bool) {s : State} (hm : Covers m 0x6080004a2) (h1 : Kept m s0 s) :
    Kept m s0 (fallSilent link s) := by
  unfold fallSilent
  repeat' first
    | with_reducible assumption
    | (intro hx; clear_value x; revert hx; revert x; intro y hy)
    | intro _
    | (subst x)
    | (extract_lets +onlyGivenNames x; refine kept_cut (m := m) (s0 := s0) (x := x) ?_ ?_)
    | (extract_lets +onlyGivenNames x; clear_value x; revert x; intro y)
    | with_reducible exact hm.of rfl
    | with_reducible apply kept_setF
    | with_reducible apply kept_requestSO
    | with_reducible apply kept_commandDOs
    | with_reducible apply kept_raise
    | with_reducible apply kept_evtFio
    | with_reducible apply kept_syncSwitches
    | with_reducible apply kept_ite
    | with_reducible apply kept_forN

theorem kept_expireWd {m : Nat} {s0 : State} (link : Bool) {s : State} (hm : Covers m 0x6080004a2) (h1 : Kept m s0 s) :
    Kept m s0 (expireWd link s) := by
  unfold expireWd
  repeat' first
    | with_reducible assumption
    | intro _
    | with_reducible exact hm.of rfl
    | with_reducible apply kept_fallSilent
    | with_reducible apply kept_setF
    | with_reducible apply kept_ite

theorem kept_silenceWd {m : Nat} {s0 : State} {s : State} (hm : Covers m 0x6080004a2) (h1 : Kept m s0 s) :
    Kept m s0 (silenceWd s) := by
  unfold silenceWd
  repeat' first
    | with_reducible assumption
    | intro _
    | with_reducible exact hm.of rfl
    | with_reducible apply kept_fallSilent

theorem kept_clearWd {m : Nat} {s0 : State} {s : State} (hm : Covers m 0x8000022) (h1 : Kept m s0 s) :
    Kept m s0 (clearWd s) := by
  unfold clearWd
  repeat' first
    | with_reducible assumption
    | (intro hx; clear_value x; revert hx; revert x; intro y hy)
    | intro _
    | (subst x)
    | (extract_lets +onlyGivenNames x; refine kept_cut (m := m) (s0 := s0) (x := x) ?_ ?_)
    | (extract_lets +onlyGivenNames x; clear_value x; revert x; intro y)
    | with_reducible exact hm.of rfl
    | with_reducible apply kept_restartWd
    | with_reducible apply kept_setF
    | with_reducible apply kept_commandDOs
    | with_reducible apply kept_ite

theorem kept_writeDocmd {m : Nat} {s0 : State} (a1 : Nat) {s : State} (hm : Covers m 0x8000022) (h1 : Kept m s0 s) :
    Kept m s0 (writeDocmd a1 s) := by
  unfold writeDocmd
  repeat' first
    | with_reducible assumption
    | (intro hx; clear_value x; revert hx; revert x; intro y hy)
    | intro _
    | (subst x)
    | (extract_lets +onlyGivenNames x; refine kept_cut (m := m) (s0 := s0) (x := x) ?_ ?_)
    | (extract_lets +onlyGivenNames x; clear_value x; revert x; intro y)
    | with_reducible exact hm.of rfl
    | with_reducible apply kept_setF
    | with_reducible apply kept_commandDOs
    | with_reducible apply kept_ite

theorem kept_enableFio {m : Nat} {s0 : State} (en : Bool) {s : State} (hm : Covers m 0x8000022) (h1 : Kept m s0 s) :
    Kept m s0 (enableFio en s) := by
  unfold enableFio
  repeat' first
    | with_reducible assumption
    | (intro hx; clear_value x; revert hx; revert x; intro y hy)
    | intro _
    | (subst x)
    | (extract_lets +onlyGivenNames x; refine kept_cut (m := m) (s0 := s0) (x := x) ?_ ?_)
    | (extract_lets +onlyGivenNames x; clear_value x; revert x; intro y)
    | with_reducible exact hm.of rfl
    | with_reducible apply kept_setB
    | with_reducible apply kept_syncSwitches
    | with_reducible apply kept_setF
    | with_reducible apply kept_modFio
    | with_reducible apply kept_ite

theorem kept_execFioScan {m : Nat} {s0 : State} (mid : BitVec 128) (volts : List (Nat × Int)) {s : State} (hm : Covers m 0x800000e) (h1 : Kept m s0 s) :
    KeptO m s0 (execFioScan mid volts s) := by
  unfold execFioScan
  repeat' first
    | with_reducible assumption
    | intro _
    | with_reducible exact hm.of rfl
    | with_reducible apply kept_fieldScan
    | with_reducible apply kept_takeLive
    | with_reducible apply keptO_next
    | with_reducible apply keptO_fault

theorem kept_execFieldPublish {m : Nat} {s0 : State} {s : State} (hm : Covers m 0x87888efe92) (h1 : Kept m s0 s) :
    KeptO m s0 (execFieldPublish s) := by
  unfold execFieldPublish
  repeat' first
    | with_reducible assumption
    | intro _
    | with_reducible exact hm.of rfl
    | with_reducible apply kept_publishField
    | with_reducible apply keptO_next
    | with_reducible apply keptO_fault

theorem kept_execWettingPulse {m : Nat} {s0 : State} (n : Fin 48) {s : State} (hm : Covers m 0x20) (h1 : Kept m s0 s) :
    KeptO m s0 (execWettingPulse n s) := by
  unfold execWettingPulse
  repeat' first
    | with_reducible assumption
    | intro _
    | with_reducible exact hm.of rfl
    | with_reducible apply kept_emit
    | with_reducible apply keptO_ite
    | with_reducible apply kept_ite
    | with_reducible apply keptO_next
    | with_reducible apply keptO_fault

theorem kept_execDocmdWrite {m : Nat} {s0 : State} (_r : Req) (cmd : BitVec 24) {s : State} (hm : Covers m 0x8000022) (h1 : Kept m s0 s) :
    KeptO m s0 (execDocmdWrite _r cmd s) := by
  unfold execDocmdWrite
  repeat' first
    | with_reducible assumption
    | intro _
    | with_reducible exact hm.of rfl
    | with_reducible apply kept_writeDocmd
    | with_reducible apply keptO_next
    | with_reducible apply keptO_fault

theorem kept_execOutputReadback {m : Nat} {s0 : State} (c : Fin 128) (u : BitVec 16) (i : BitVec 16) (tj : Int) (um : BitVec 16) {s : State} (hm : Covers m 0x6080004a2) (h1 : Kept m s0 s) :
    KeptO m s0 (execOutputReadback c u i tj um s) := by
  unfold execOutputReadback
  repeat' first
    | with_reducible assumption
    | intro _
    | with_reducible exact hm.of rfl
    | with_reducible apply kept_readback
    | with_reducible apply keptO_next
    | with_reducible apply keptO_fault

theorem kept_execOverload {m : Nat} {s0 : State} (c : Fin 128) (ms : Nat) {s : State} (hm : Covers m 0x6080004a2) (h1 : Kept m s0 s) :
    KeptO m s0 (execOverload c ms s) := by
  unfold execOverload
  repeat' first
    | with_reducible assumption
    | intro _
    | with_reducible exact hm.of rfl
    | with_reducible apply kept_overloaded
    | with_reducible apply keptO_next
    | with_reducible apply keptO_fault

theorem kept_execOpenwire {m : Nat} {s0 : State} (c : Fin 128) {s : State} (hm : Covers m 0x608000482) (h1 : Kept m s0 s) :
    KeptO m s0 (execOpenwire c s) := by
  unfold execOpenwire
  repeat' first
    | with_reducible assumption
    | intro _
    | with_reducible exact hm.of rfl
    | with_reducible apply kept_openWire
    | with_reducible apply keptO_next
    | with_reducible apply keptO_fault

theorem kept_execExtdrive {m : Nat} {s0 : State} (c : Fin 128) {s : State} (hm : Covers m 0x608000492) (h1 : Kept m s0 s) :
    KeptO m s0 (execExtdrive c s) := by
  unfold execExtdrive
  repeat' first
    | with_reducible assumption
    | intro _
    | with_reducible exact hm.of rfl
    | with_reducible apply kept_extDrive
    | with_reducible apply keptO_next
    | with_reducible apply keptO_fault

theorem kept_execChstatClrf {m : Nat} {s0 : State} (_r : Req) (c : Fin 128) {s : State} (hm : Covers m 0x8000022) (h1 : Kept m s0 s) :
    KeptO m s0 (execChstatClrf _r c s) := by
  unfold execChstatClrf
  repeat' first
    | with_reducible assumption
    | intro _
    | with_reducible exact hm.of rfl
    | with_reducible apply kept_syncSwitch
    | with_reducible apply kept_clearLatches
    | with_reducible apply keptO_ite
    | with_reducible apply kept_ite
    | with_reducible apply keptO_next
    | with_reducible apply keptO_fault

theorem kept_execTpfault {m : Nat} {s0 : State} (n : Fin 16) {s : State} (hm : Covers m 0x608000482) (h1 : Kept m s0 s) :
    KeptO m s0 (execTpfault n s) := by
  unfold execTpfault
  repeat' first
    | with_reducible assumption
    | intro _
    | with_reducible exact hm.of rfl
    | with_reducible apply kept_checkPulses
    | with_reducible apply keptO_next
    | with_reducible apply keptO_fault

theorem kept_execDiscfault {m : Nat} {s0 : State} (p : Fin 8) {s : State} (hm : Covers m 0x608000482) (h1 : Kept m s0 s) :
    KeptO m s0 (execDiscfault p s) := by
  unfold execDiscfault
  repeat' first
    | with_reducible assumption
    | intro _
    | with_reducible exact hm.of rfl
    | with_reducible apply kept_pairDisagrees
    | with_reducible apply keptO_next
    | with_reducible apply keptO_fault

theorem kept_execSpeedEdge {m : Nat} {s0 : State} (n : Fin 4) (stamp : Nat) {s : State} (hm : Covers m 0x8000002) (h1 : Kept m s0 s) :
    KeptO m s0 (execSpeedEdge n stamp s) := by
  unfold execSpeedEdge
  repeat' first
    | with_reducible assumption
    | intro _
    | with_reducible exact hm.of rfl
    | with_reducible apply kept_risingEdge
    | with_reducible apply keptO_next
    | with_reducible apply keptO_fault

theorem kept_execZeroSpeedTimeout {m : Nat} {s0 : State} (n : Fin 4) (ms : Nat) {s : State} (hm : Covers m 0x8000002) (h1 : Kept m s0 s) :
    KeptO m s0 (execZeroSpeedTimeout n ms s) := by
  unfold execZeroSpeedTimeout
  repeat' first
    | with_reducible assumption
    | intro _
    | with_reducible exact hm.of rfl
    | with_reducible apply kept_zeroSpeed
    | with_reducible apply keptO_next
    | with_reducible apply keptO_fault

theorem kept_execSupplyMeasure {m : Nat} {s0 : State} (g : Fin 3) (u : BitVec 16) {s : State} (hm : Covers m 0x608000482) (h1 : Kept m s0 s) :
    KeptO m s0 (execSupplyMeasure g u s) := by
  unfold execSupplyMeasure
  repeat' first
    | with_reducible assumption
    | intro _
    | with_reducible exact hm.of rfl
    | with_reducible apply kept_measureSupply
    | with_reducible apply keptO_next
    | with_reducible apply keptO_fault

theorem kept_execSoownWrite {m : Nat} {s0 : State} (r : Req) (own : BitVec 24) {s : State} (hm : Covers m 0x600000482) (h1 : Kept m s0 s) :
    KeptO m s0 (execSoownWrite r own s) := by
  unfold execSoownWrite
  repeat' first
    | with_reducible assumption
    | intro _
    | with_reducible exact hm.of rfl
    | with_reducible apply kept_writeSoown
    | with_reducible apply kept_notVoted
    | with_reducible apply keptO_next
    | with_reducible apply keptO_fault
    | split

theorem kept_execDosafeWrite {m : Nat} {s0 : State} (r : Req) (val : BitVec 24) {s : State} (hm : Covers m 0x6080004a2) (h1 : Kept m s0 s) :
    KeptO m s0 (execDosafeWrite r val s) := by
  unfold execDosafeWrite
  repeat' first
    | with_reducible assumption
    | intro _
    | with_reducible exact hm.of rfl
    | with_reducible apply kept_writeDosafe
    | with_reducible apply kept_notVoted
    | with_reducible apply keptO_next
    | with_reducible apply keptO_fault
    | split

theorem kept_execForcedOff {m : Nat} {s0 : State} (t : Fin 4) {s : State} (hm : Covers m 0x8000022) (h1 : Kept m s0 s) :
    KeptO m s0 (execForcedOff t s) := by
  unfold execForcedOff
  repeat' first
    | with_reducible assumption
    | intro _
    | with_reducible exact hm.of rfl
    | with_reducible apply kept_forceOff
    | with_reducible apply keptO_next
    | with_reducible apply keptO_fault

theorem kept_execWatchdogStart {m : Nat} {s0 : State} (_r : Req) {s : State} (hm : Covers m 0x8000002) (h1 : Kept m s0 s) :
    KeptO m s0 (execWatchdogStart _r s) := by
  unfold execWatchdogStart
  repeat' first
    | with_reducible assumption
    | intro _
    | with_reducible exact hm.of rfl
    | with_reducible apply kept_restartWd
    | with_reducible apply kept_setF
    | with_reducible apply keptO_ite
    | with_reducible apply kept_ite
    | with_reducible apply keptO_next
    | with_reducible apply keptO_fault

theorem kept_execWatchdogKick {m : Nat} {s0 : State} (_r : Req) (key : BitVec 16) {s : State} (hm : Covers m 0x608000482) (h1 : Kept m s0 s) :
    KeptO m s0 (execWatchdogKick _r key s) := by
  unfold execWatchdogKick
  repeat' first
    | with_reducible assumption
    | intro _
    | with_reducible exact hm.of rfl
    | with_reducible apply kept_kick
    | with_reducible apply keptO_next
    | with_reducible apply keptO_fault

theorem kept_execWatchdogExpiry {m : Nat} {s0 : State} (link : Bool) {s : State} (hm : Covers m 0x6080004a2) (h1 : Kept m s0 s) :
    KeptO m s0 (execWatchdogExpiry link s) := by
  unfold execWatchdogExpiry
  repeat' first
    | with_reducible assumption
    | intro _
    | with_reducible exact hm.of rfl
    | with_reducible apply kept_expireWd
    | with_reducible apply keptO_next
    | with_reducible apply keptO_fault

theorem kept_execWatchdogClear {m : Nat} {s0 : State} (_r : Req) {s : State} (hm : Covers m 0x8000022) (h1 : Kept m s0 s) :
    KeptO m s0 (execWatchdogClear _r s) := by
  unfold execWatchdogClear
  repeat' first
    | with_reducible assumption
    | intro _
    | with_reducible exact hm.of rfl
    | with_reducible apply kept_clearWd
    | with_reducible apply keptO_next
    | with_reducible apply keptO_fault

theorem kept_execFioEnableWrite {m : Nat} {s0 : State} (_r : Req) (en : Bool) {s : State} (hm : Covers m 0x8000022) (h1 : Kept m s0 s) :
    KeptO m s0 (execFioEnableWrite _r en s) := by
  unfold execFioEnableWrite
  repeat' first
    | with_reducible assumption
    | intro _
    | with_reducible exact hm.of rfl
    | with_reducible apply kept_enableFio
    | with_reducible apply keptO_next
    | with_reducible apply keptO_fault

end Sys2Proof.Machine
end

