-- ==== Sys2Proof/Laws/KeptLodestone.lean ====
section
/-! SUPPORT. What the operations of Machine/Lodestone.lean keep (Safety.lean, `Kept`): one lemma each, which cites those of the operations it calls. -/

namespace Sys2Proof.Machine

theorem kept_modLod {m : Nat} {s0 : State} {s : State} (f : Lod → Lod) (hm : Covers m 0x10000000) (h1 : Kept m s0 s) :
    Kept m s0 (modLod s f) := by
  unfold modLod
  repeat' first
    | with_reducible assumption
    | intro _
    | with_reducible exact hm.of rfl
    | (with_reducible refine kept_upd_lod (hm.of rfl) ?_; with_reducible assumption)

theorem kept_lodEvt {m : Nat} {s0 : State} (f : Fld) {s : State} (hm : Covers m 0x610000482) (h1 : Kept m s0 s) :
    Kept m s0 (lodEvt f s) := by
  unfold lodEvt
  repeat' first
    | with_reducible assumption
    | intro _
    | with_reducible exact hm.of rfl
    | with_reducible apply kept_evtLod
    | with_reducible apply kept_modLod
    | with_reducible apply kept_ite

theorem kept_lodCnt {m : Nat} {s0 : State} (f : Fld) {s : State} (hm : Covers m 0x10000002) (h1 : Kept m s0 s) :
    Kept m s0 (lodCnt f s) := by
  unfold lodCnt
  repeat' first
    | with_reducible assumption
    | intro _
    | with_reducible exact hm.of rfl
    | with_reducible apply kept_incF
    | with_reducible apply kept_modLod
    | with_reducible apply kept_ite

theorem kept_lockOutputs {m : Nat} {s0 : State} (mask : Nat) (cause : Nat) (src : Nat) {s : State} (hm : Covers m 0x610000482) (h1 : Kept m s0 s) :
    Kept m s0 (lockOutputs mask cause src s) := by
  unfold lockOutputs
  repeat' first
    | with_reducible assumption
    | intro _
    | with_reducible exact hm.of rfl
    | with_reducible apply kept_lodCnt
    | with_reducible apply kept_lodEvt
    | with_reducible apply kept_modLod
    | with_reducible apply kept_foldl
    | with_reducible apply kept_foldl1

theorem kept_recordCause {m : Nat} {s0 : State} (mask : Nat) (cause : Nat) (src : Nat) (cls : Nat) (place : Loc) (slots : List Nat) {s : State} (hm : Covers m 0x610000482) (h1 : Kept m s0 s) :
    Kept m s0 (recordCause mask cause src cls place slots s) := by
  unfold recordCause
  repeat' first
    | with_reducible assumption
    | (intro hx; clear_value x; revert hx; revert x; intro y hy)
    | intro _
    | (subst x)
    | (extract_lets +onlyGivenNames x; refine kept_cut (m := m) (s0 := s0) (x := x) ?_ ?_)
    | (extract_lets +onlyGivenNames x; clear_value x; revert x; intro y)
    | with_reducible exact hm.of rfl
    | with_reducible apply kept_modLod
    | with_reducible apply kept_raise
    | with_reducible apply kept_lockOutputs
    | with_reducible apply kept_foldl
    | with_reducible apply kept_foldl1

theorem kept_clearLock {m : Nat} {s0 : State} (n : Nat) {s : State} (hm : Covers m 0x610000482) (h1 : Kept m s0 s) :
    Kept m s0 (clearLock n s) := by
  unfold clearLock
  repeat' first
    | with_reducible assumption
    | intro _
    | with_reducible exact hm.of rfl
    | with_reducible apply kept_raise
    | with_reducible apply kept_lodEvt
    | with_reducible apply kept_modLod

theorem kept_enterSlot {m : Nat} {s0 : State} (t : List Byte) (k : Nat) (st : Nat) {s : State} (hm : Covers m 0x610000482) (h1 : Kept m s0 s) :
    Kept m s0 (enterSlot t k st s) := by
  unfold enterSlot
  repeat' first
    | with_reducible assumption
    | (intro hx; clear_value x; revert hx; revert x; intro y hy)
    | intro _
    | (subst x)
    | (extract_lets +onlyGivenNames x; refine kept_cut (m := m) (s0 := s0) (x := x) ?_ ?_)
    | (extract_lets +onlyGivenNames x; clear_value x; revert x; intro y)
    | with_reducible exact hm.of rfl
    | with_reducible apply kept_modLod
    | with_reducible apply kept_lodEvt
    | with_reducible apply kept_ite

theorem kept_evalSlot {m : Nat} {s0 : State} (t : List Byte) (k : Nat) {a3 : State} (hm : Covers m 0x610000482) (h1 : Kept m s0 a3) :
    Kept m s0 (evalSlot t k a3) := by
  unfold evalSlot
  repeat' first
    | with_reducible assumption
    | (intro hx; clear_value x; revert hx; revert x; intro y hy)
    | intro _
    | (subst x)
    | (extract_lets +onlyGivenNames x; refine kept_cut (m := m) (s0 := s0) (x := x) ?_ ?_)
    | (extract_lets +onlyGivenNames x; clear_value x; revert x; intro y)
    | with_reducible exact hm.of rfl
    | with_reducible apply kept_modLod
    | with_reducible apply kept_enterSlot
    | with_reducible apply kept_ite

theorem kept_resetOutputs {m : Nat} {s0 : State} (mask : Nat) (may : SlotRec → Bool) {s : State} (hm : Covers m 0x610000482) (h1 : Kept m s0 s) :
    Kept m s0 (resetOutputs mask may s) := by
  unfold resetOutputs
  repeat' first
    | with_reducible assumption
    | (intro hx; clear_value x; revert hx; revert x; intro y hy)
    | intro _
    | (subst x)
    | (extract_lets +onlyGivenNames x; refine kept_cut (m := m) (s0 := s0) (x := x) ?_ ?_)
    | (extract_lets +onlyGivenNames x; clear_value x; revert x; intro y)
    | with_reducible exact hm.of rfl
    | with_reducible apply kept_clearLock
    | with_reducible apply kept_enterSlot
    | with_reducible apply kept_lodCnt
    | with_reducible apply kept_ite
    | with_reducible apply kept_foldl
    | with_reducible apply kept_foldl1
    | split

theorem kept_refuseReset {m : Nat} {s0 : State} (evt : Fld) (cnt : Fld) {s : State} (hm : Covers m 0x610000482) (h1 : Kept m s0 s) :
    Kept m s0 (refuseReset evt cnt s) := by
  unfold refuseReset
  repeat' first
    | with_reducible assumption
    | intro _
    | with_reducible exact hm.of rfl
    | with_reducible apply kept_raise
    | with_reducible apply kept_lodCnt
    | with_reducible apply kept_lodEvt

theorem kept_applyUnlocks {m : Nat} {s0 : State} {s : State} (hm : Covers m 0x610000482) (h1 : Kept m s0 s) :
    Kept m s0 (applyUnlocks s) := by
  unfold applyUnlocks
  repeat' first
    | with_reducible assumption
    | intro _
    | with_reducible exact hm.of rfl
    | with_reducible apply kept_resetOutputs
    | with_reducible apply kept_refuseReset
    | with_reducible apply kept_modLod
    | with_reducible apply kept_ite
    | with_reducible apply kept_foldl
    | with_reducible apply kept_foldl1
    | split

theorem kept_setResult {m : Nat} {s0 : State} (r : Nat) (idx : Nat) {s : State} (hm : Covers m 0x600000482) (h1 : Kept m s0 s) :
    Kept m s0 (setResult r idx s) := by
  unfold setResult
  repeat' first
    | with_reducible assumption
    | (intro hx; clear_value x; revert hx; revert x; intro y hy)
    | intro _
    | (subst x)
    | (extract_lets +onlyGivenNames x; refine kept_cut (m := m) (s0 := s0) (x := x) ?_ ?_)
    | (extract_lets +onlyGivenNames x; clear_value x; revert x; intro y)
    | with_reducible exact hm.of rfl
    | with_reducible apply kept_setF
    | with_reducible apply kept_evtLod
    | with_reducible apply kept_raise
    | with_reducible apply kept_ite

theorem kept_commitSlot {m : Nat} {s0 : State} (old : Option (List Byte)) (t : List Byte) (k : Nat) {s : State} (hm : Covers m 0x610000482) (h1 : Kept m s0 s) :
    Kept m s0 (commitSlot old t k s) := by
  unfold commitSlot
  repeat' first
    | with_reducible assumption
    | (intro hx; clear_value x; revert hx; revert x; intro y hy)
    | intro _
    | (subst x)
    | (extract_lets +onlyGivenNames x; refine kept_cut (m := m) (s0 := s0) (x := x) ?_ ?_)
    | (extract_lets +onlyGivenNames x; clear_value x; revert x; intro y)
    | with_reducible exact hm.of rfl
    | with_reducible apply kept_enterSlot
    | with_reducible apply kept_modLod
    | with_reducible apply kept_ite

theorem kept_applyCommit {m : Nat} {s0 : State} {s : State} (hm : Covers m 0x610000482) (h1 : Kept m s0 s) :
    Kept m s0 (applyCommit s) := by
  unfold applyCommit
  repeat' first
    | with_reducible assumption
    | (intro hx; clear_value x; revert hx; revert x; intro y hy)
    | intro _
    | (subst x)
    | (extract_lets +onlyGivenNames x; refine kept_cut (m := m) (s0 := s0) (x := x) ?_ ?_)
    | (extract_lets +onlyGivenNames x; clear_value x; revert x; intro y)
    | with_reducible exact hm.of rfl
    | with_reducible apply kept_modLod
    | with_reducible apply kept_setResult
    | with_reducible apply kept_setF
    | with_reducible apply kept_commitSlot
    | with_reducible apply kept_ite
    | with_reducible apply kept_foldl
    | with_reducible apply kept_foldl1
    | with_reducible apply kept_forN

theorem kept_pushLod {m : Nat} {s0 : State} {a1 : State} (hm : Covers m 0x610000482) (h1 : Kept m s0 a1) :
    Kept m s0 (pushLod a1) := by
  unfold pushLod
  repeat' first
    | with_reducible assumption
    | (intro hx; clear_value x; revert hx; revert x; intro y hy)
    | intro _
    | (subst x)
    | (extract_lets +onlyGivenNames x; refine kept_cut (m := m) (s0 := s0) (x := x) ?_ ?_)
    | (extract_lets +onlyGivenNames x; clear_value x; revert x; intro y)
    | with_reducible exact hm.of rfl
    | with_reducible apply kept_modLod
    | with_reducible apply kept_incF
    | with_reducible apply kept_evtLod
    | with_reducible apply kept_setF
    | with_reducible apply kept_setB
    | with_reducible apply kept_ite
    | with_reducible apply kept_foldl
    | with_reducible apply kept_foldl1
    | with_reducible apply kept_forN

theorem kept_takeSamples {m : Nat} {s0 : State} (samples : List FbSample) (edges : List (Nat × Nat)) {s : State} (hm : Covers m 0x10000000) (h1 : Kept m s0 s) :
    Kept m s0 (takeSamples samples edges s) := by
  unfold takeSamples
  repeat' first
    | with_reducible assumption
    | intro _
    | (extract_lets +onlyGivenNames x; clear_value x; revert x; intro y)
    | with_reducible exact hm.of rfl
    | with_reducible apply kept_modLod
    | with_reducible apply kept_foldl
    | with_reducible apply kept_foldl1
    | split

theorem kept_applyTrips {m : Nat} {s0 : State} {s : State} (hm : Covers m 0x610000482) (h1 : Kept m s0 s) :
    Kept m s0 (applyTrips s) := by
  unfold applyTrips
  repeat' first
    | with_reducible assumption
    | intro _
    | with_reducible exact hm.of rfl
    | with_reducible apply kept_recordCause
    | with_reducible apply kept_modLod
    | with_reducible apply kept_foldl
    | with_reducible apply kept_foldl1

theorem kept_lodResets {m : Nat} {s0 : State} {a1 : State} (hm : Covers m 0x610000482) (h1 : Kept m s0 a1) :
    Kept m s0 (lodResets a1) := by
  unfold lodResets
  repeat' first
    | with_reducible assumption
    | (intro hx; clear_value x; revert hx; revert x; intro y hy)
    | intro _
    | (subst x)
    | (extract_lets +onlyGivenNames x; refine kept_cut (m := m) (s0 := s0) (x := x) ?_ ?_)
    | (extract_lets +onlyGivenNames x; clear_value x; revert x; intro y)
    | with_reducible exact hm.of rfl
    | with_reducible apply kept_applyTrips
    | with_reducible apply kept_modLod
    | with_reducible apply kept_resetOutputs
    | with_reducible apply kept_refuseReset
    | with_reducible apply kept_applyUnlocks
    | with_reducible apply kept_ite

theorem kept_judgeFb {m : Nat} {s0 : State} (n : Nat) {s : State} (hm : Covers m 0x610000482) (h1 : Kept m s0 s) :
    Kept m s0 (judgeFb n s) := by
  unfold judgeFb
  repeat' first
    | with_reducible assumption
    | intro _
    | with_reducible exact hm.of rfl
    | with_reducible apply kept_recordCause
    | with_reducible apply kept_ite

theorem kept_judgeFa {m : Nat} {s0 : State} (n : Nat) {s : State} (hm : Covers m 0x610000482) (h1 : Kept m s0 s) :
    Kept m s0 (judgeFa n s) := by
  unfold judgeFa
  repeat' first
    | with_reducible assumption
    | intro _
    | with_reducible exact hm.of rfl
    | with_reducible apply kept_recordCause
    | with_reducible apply kept_ite

theorem kept_judgeTest {m : Nat} {s0 : State} (n : Nat) {s : State} (hm : Covers m 0x610000482) (h1 : Kept m s0 s) :
    Kept m s0 (judgeTest n s) := by
  unfold judgeTest
  repeat' first
    | with_reducible assumption
    | intro _
    | with_reducible exact hm.of rfl
    | with_reducible apply kept_judgeFa
    | with_reducible apply kept_judgeFb

theorem kept_judgeEnded {m : Nat} {s0 : State} (t : List Byte) (n : Nat) {s : State} (hm : Covers m 0x610000482) (h1 : Kept m s0 s) :
    Kept m s0 (judgeEnded t n s) := by
  unfold judgeEnded
  repeat' first
    | with_reducible assumption
    | (intro hx; clear_value x; revert hx; revert x; intro y hy)
    | intro _
    | (subst x)
    | (extract_lets +onlyGivenNames x; refine kept_cut (m := m) (s0 := s0) (x := x) ?_ ?_)
    | (extract_lets +onlyGivenNames x; clear_value x; revert x; intro y)
    | with_reducible exact hm.of rfl
    | with_reducible apply kept_modLod
    | with_reducible apply kept_judgeFb
    | with_reducible apply kept_judgeFa
    | with_reducible apply kept_ite

theorem kept_pulseSwitches {m : Nat} {s0 : State} (a1 : State) {s : State} (hm : Covers m 0x22) (h1 : Kept m s0 s) :
    Kept m s0 (pulseSwitches a1 s) := by
  unfold pulseSwitches
  repeat' first
    | with_reducible assumption
    | (intro hx; clear_value x; revert hx; revert x; intro y hy)
    | intro _
    | (subst x)
    | (extract_lets +onlyGivenNames x; refine kept_cut (m := m) (s0 := s0) (x := x) ?_ ?_)
    | (extract_lets +onlyGivenNames x; clear_value x; revert x; intro y)
    | with_reducible exact hm.of rfl
    | with_reducible apply kept_emit
    | with_reducible apply kept_incF
    | with_reducible apply kept_ite
    | with_reducible apply kept_forN

theorem kept_driveTp {m : Nat} {s0 : State} {s : State} (hm : Covers m 0x10000020) (h1 : Kept m s0 s) :
    Kept m s0 (driveTp s) := by
  unfold driveTp
  repeat' first
    | with_reducible assumption
    | intro _
    | (extract_lets +onlyGivenNames x; clear_value x; revert x; intro y)
    | with_reducible exact hm.of rfl
    | with_reducible apply kept_emit
    | with_reducible apply kept_modLod
    | with_reducible apply kept_ite

theorem kept_lodCycle {m : Nat} {s0 : State} (samples : List FbSample) (edges : List (Nat × Nat)) {s : State} (hm : Covers m 0x6100004a2) (h1 : Kept m s0 s) :
    Kept m s0 (lodCycle samples edges s) := by
  unfold lodCycle
  repeat' first
    | with_reducible assumption
    | (intro hx; clear_value x; revert hx; revert x; intro y hy)
    | intro _
    | (subst x)
    | (extract_lets +onlyGivenNames x; refine kept_cut (m := m) (s0 := s0) (x := x) ?_ ?_)
    | (extract_lets +onlyGivenNames x; clear_value x; revert x; intro y)
    | with_reducible exact hm.of rfl
    | with_reducible apply kept_pulseSwitches
    | with_reducible apply kept_takeSamples
    | with_reducible apply kept_applyCommit
    | with_reducible apply kept_modLod
    | with_reducible apply kept_lodResets
    | with_reducible apply kept_judgeEnded
    | with_reducible apply kept_evalSlot
    | with_reducible apply kept_pushLod
    | with_reducible apply kept_driveTp
    | with_reducible apply kept_emit
    | with_reducible apply kept_forN
    | split

theorem kept_judgeInput {m : Nat} {s0 : State} (t : List Byte) (i : Nat) {s : State} (hm : Covers m 0x610000482) (h1 : Kept m s0 s) :
    Kept m s0 (judgeInput t i s) := by
  unfold judgeInput
  repeat' first
    | with_reducible assumption
    | (intro hx; clear_value x; revert hx; revert x; intro y hy)
    | intro _
    | (subst x)
    | (extract_lets +onlyGivenNames x; refine kept_cut (m := m) (s0 := s0) (x := x) ?_ ?_)
    | (extract_lets +onlyGivenNames x; clear_value x; revert x; intro y)
    | with_reducible exact hm.of rfl
    | with_reducible apply kept_modLod
    | with_reducible apply kept_recordCause
    | with_reducible apply kept_ite
    | with_reducible apply kept_foldl
    | with_reducible apply kept_foldl1
    | split

theorem kept_tpOut {m : Nat} {s0 : State} (t : List Byte) (was : Bool) (k : Nat) {s : State} (hm : Covers m 0x610000482) (h1 : Kept m s0 s) :
    Kept m s0 (tpOut t was k s) := by
  unfold tpOut
  repeat' first
    | with_reducible assumption
    | intro _
    | (extract_lets +onlyGivenNames x; clear_value x; revert x; intro y)
    | with_reducible exact hm.of rfl
    | with_reducible apply kept_recordCause
    | with_reducible apply kept_modLod
    | with_reducible apply kept_ite
    | with_reducible apply kept_foldl
    | with_reducible apply kept_foldl1

theorem kept_judgeLine {m : Nat} {s0 : State} (t : List Byte) (lim : Nat) (k : Nat) {s : State} (hm : Covers m 0x610000482) (h1 : Kept m s0 s) :
    Kept m s0 (judgeLine t lim k s) := by
  unfold judgeLine
  repeat' first
    | with_reducible assumption
    | (intro hx; clear_value x; revert hx; revert x; intro y hy)
    | intro _
    | (subst x)
    | (extract_lets +onlyGivenNames x; refine kept_cut (m := m) (s0 := s0) (x := x) ?_ ?_)
    | (extract_lets +onlyGivenNames x; clear_value x; revert x; intro y)
    | with_reducible exact hm.of rfl
    | with_reducible apply kept_modLod
    | with_reducible apply kept_tpOut
    | with_reducible apply kept_ite
    | with_reducible apply kept_foldl
    | with_reducible apply kept_foldl1

theorem kept_testFrame {m : Nat} {s0 : State} (lim : Nat) {s : State} (hm : Covers m 0x6180004a2) (h1 : Kept m s0 s) :
    Kept m s0 (testFrame lim s) := by
  unfold testFrame
  repeat' first
    | with_reducible assumption
    | (intro hx; clear_value x; revert hx; revert x; intro y hy)
    | intro _
    | (subst x)
    | (extract_lets +onlyGivenNames x; refine kept_cut (m := m) (s0 := s0) (x := x) ?_ ?_)
    | (extract_lets +onlyGivenNames x; clear_value x; revert x; intro y)
    | with_reducible exact hm.of rfl
    | with_reducible apply kept_judgeTest
    | with_reducible apply kept_judgeLine
    | with_reducible apply kept_judgeInput
    | with_reducible apply kept_modLod
    | with_reducible apply kept_modFio
    | with_reducible apply kept_pushLod
    | with_reducible apply kept_driveTp
    | with_reducible apply kept_emit
    | with_reducible apply kept_ite
    | with_reducible apply kept_forN
    | split

theorem kept_discExpired {m : Nat} {s0 : State} (k : Nat) {s : State} (hm : Covers m 0x610000482) (h1 : Kept m s0 s) :
    Kept m s0 (discExpired k s) := by
  unfold discExpired
  repeat' first
    | with_reducible assumption
    | (intro hx; clear_value x; revert hx; revert x; intro y hy)
    | intro _
    | (subst x)
    | (extract_lets +onlyGivenNames x; refine kept_cut (m := m) (s0 := s0) (x := x) ?_ ?_)
    | (extract_lets +onlyGivenNames x; clear_value x; revert x; intro y)
    | with_reducible exact hm.of rfl
    | with_reducible apply kept_modLod
    | with_reducible apply kept_recordCause
    | with_reducible apply kept_ite
    | with_reducible apply kept_foldl
    | with_reducible apply kept_foldl1
    | split

theorem kept_vigilDemand {m : Nat} {s0 : State} (k : Nat) (f : LSlot → LSlot) {s : State} (hm : Covers m 0x610000482) (h1 : Kept m s0 s) :
    Kept m s0 (vigilDemand k f s) := by
  unfold vigilDemand
  repeat' first
    | with_reducible assumption
    | (intro hx; clear_value x; revert hx; revert x; intro y hy)
    | intro _
    | (subst x)
    | (extract_lets +onlyGivenNames x; refine kept_cut (m := m) (s0 := s0) (x := x) ?_ ?_)
    | (extract_lets +onlyGivenNames x; clear_value x; revert x; intro y)
    | with_reducible exact hm.of rfl
    | with_reducible apply kept_modLod
    | with_reducible apply kept_enterSlot
    | with_reducible apply kept_pushLod
    | with_reducible apply kept_ite
    | split

theorem kept_tellOnce {m : Nat} {s0 : State} (b : Nat) (k : State → State) {s : State} (hm : Covers m 0x10000000) (h1 : ∀ v0 : State, Kept m s0 v0 → Kept m s0 (k v0)) (h2 : Kept m s0 s) :
    Kept m s0 (tellOnce b k s) := by
  unfold tellOnce
  repeat' first
    | with_reducible assumption
    | intro _
    | with_reducible exact hm.of rfl
    | with_reducible apply h1
    | with_reducible apply kept_modLod
    | with_reducible apply kept_ite

theorem kept_edmFail {m : Nat} {s0 : State} (n : Nat) {s : State} (hm : Covers m 0x610000482) (h1 : Kept m s0 s) :
    Kept m s0 (edmFail n s) := by
  unfold edmFail
  repeat' first
    | with_reducible assumption
    | intro _
    | with_reducible exact hm.of rfl
    | with_reducible apply kept_tellOnce
    | with_reducible apply kept_recordCause
    | with_reducible apply kept_ite
    | split

theorem kept_spdCause {m : Nat} {s0 : State} (t : List Byte) (k : Nat) (b : Nat) (ks : List Nat) {s : State} (hm : Covers m 0x610000482) (h1 : Kept m s0 s) :
    Kept m s0 (spdCause t k b ks s) := by
  unfold spdCause
  repeat' first
    | with_reducible assumption
    | intro _
    | (extract_lets +onlyGivenNames x; clear_value x; revert x; intro y)
    | with_reducible exact hm.of rfl
    | with_reducible apply kept_tellOnce
    | with_reducible apply kept_recordCause
    | with_reducible apply kept_ite

theorem kept_spdFault {m : Nat} {s0 : State} (k : Nat) {s : State} (hm : Covers m 0x610000482) (h1 : Kept m s0 s) :
    Kept m s0 (spdFault k s) := by
  unfold spdFault
  repeat' first
    | with_reducible assumption
    | (intro hx; clear_value x; revert hx; revert x; intro y hy)
    | intro _
    | (subst x)
    | (extract_lets +onlyGivenNames x; refine kept_cut (m := m) (s0 := s0) (x := x) ?_ ?_)
    | (extract_lets +onlyGivenNames x; clear_value x; revert x; intro y)
    | with_reducible exact hm.of rfl
    | with_reducible apply kept_spdCause
    | with_reducible apply kept_ite
    | split

theorem kept_watchOutput {m : Nat} {s0 : State} (n : Nat) {s : State} (hm : Covers m 0x610000482) (h1 : Kept m s0 s) :
    Kept m s0 (watchOutput n s) := by
  unfold watchOutput
  repeat' first
    | with_reducible assumption
    | intro _
    | (extract_lets +onlyGivenNames x; clear_value x; revert x; intro y)
    | with_reducible exact hm.of rfl
    | with_reducible apply kept_tellOnce
    | with_reducible apply kept_recordCause
    | with_reducible apply kept_ite

theorem kept_supplyLost {m : Nat} {s0 : State} {s : State} (hm : Covers m 0x610000482) (h1 : Kept m s0 s) :
    Kept m s0 (supplyLost s) := by
  unfold supplyLost
  repeat' first
    | with_reducible assumption
    | (intro hx; clear_value x; revert hx; revert x; intro y hy)
    | intro _
    | (subst x)
    | (extract_lets +onlyGivenNames x; refine kept_cut (m := m) (s0 := s0) (x := x) ?_ ?_)
    | (extract_lets +onlyGivenNames x; clear_value x; revert x; intro y)
    | with_reducible exact hm.of rfl
    | with_reducible apply kept_modLod
    | with_reducible apply kept_enterSlot
    | with_reducible apply kept_pushLod
    | with_reducible apply kept_ite
    | with_reducible apply kept_foldl
    | with_reducible apply kept_foldl1
    | split

theorem kept_checksDone {m : Nat} {s0 : State} {s : State} (hm : Covers m 0x610000482) (h1 : Kept m s0 s) :
    Kept m s0 (checksDone s) := by
  unfold checksDone
  repeat' first
    | with_reducible assumption
    | (intro hx; clear_value x; revert hx; revert x; intro y hy)
    | intro _
    | (subst x)
    | (extract_lets +onlyGivenNames x; refine kept_cut (m := m) (s0 := s0) (x := x) ?_ ?_)
    | (extract_lets +onlyGivenNames x; clear_value x; revert x; intro y)
    | with_reducible exact hm.of rfl
    | with_reducible apply kept_modLod
    | with_reducible apply kept_setResult
    | with_reducible apply kept_setF
    | with_reducible apply kept_ite
    | split

theorem kept_commitNow {m : Nat} {s0 : State} {s : State} (hm : Covers m 0x610000482) (h1 : Kept m s0 s) :
    Kept m s0 (commitNow s) := by
  unfold commitNow
  repeat' first
    | with_reducible assumption
    | intro _
    | with_reducible exact hm.of rfl
    | with_reducible apply kept_setResult
    | with_reducible apply kept_setF
    | with_reducible apply kept_modLod
    | with_reducible apply kept_ite
    | split

theorem kept_strobe {m : Nat} {s0 : State} {s : State} (hm : Covers m 0x610000482) (h1 : Kept m s0 s) :
    Kept m s0 (strobe s) := by
  unfold strobe
  repeat' first
    | with_reducible assumption
    | intro _
    | (extract_lets +onlyGivenNames x; clear_value x; revert x; intro y)
    | with_reducible exact hm.of rfl
    | with_reducible apply kept_modLod
    | with_reducible apply kept_setResult
    | with_reducible apply kept_setF
    | with_reducible apply kept_ite

theorem kept_unlockFirst {m : Nat} {s0 : State} (t : Nat) (code : Nat) {s : State} (hm : Covers m 0x10000000) (h1 : Kept m s0 s) :
    Kept m s0 (unlockFirst t code s) := by
  unfold unlockFirst
  repeat' first
    | with_reducible assumption
    | intro _
    | with_reducible exact hm.of rfl
    | with_reducible apply kept_modLod
    | with_reducible apply kept_ite

theorem kept_unlockSecond {m : Nat} {s0 : State} (t : Nat) (code : Nat) {s : State} (hm : Covers m 0x610000482) (h1 : Kept m s0 s) :
    Kept m s0 (unlockSecond t code s) := by
  unfold unlockSecond
  repeat' first
    | with_reducible assumption
    | (intro hx; clear_value x; revert hx; revert x; intro y hy)
    | intro _
    | (subst x)
    | (extract_lets +onlyGivenNames x; refine kept_cut (m := m) (s0 := s0) (x := x) ?_ ?_)
    | (extract_lets +onlyGivenNames x; clear_value x; revert x; intro y)
    | with_reducible exact hm.of rfl
    | with_reducible apply kept_modLod
    | with_reducible apply kept_refuseReset
    | with_reducible apply kept_ite
    | split

theorem kept_tripOutputs {m : Nat} {s0 : State} (a1 : Nat) {s : State} (hm : Covers m 0x10000000) (h1 : Kept m s0 s) :
    Kept m s0 (tripOutputs a1 s) := by
  unfold tripOutputs
  repeat' first
    | with_reducible assumption
    | intro _
    | with_reducible exact hm.of rfl
    | with_reducible apply kept_modLod
    | with_reducible apply kept_ite

theorem kept_echoTable {m : Nat} {s0 : State} {s : State} (hm : Covers m 0x610000482) (h1 : Kept m s0 s) :
    Kept m s0 (echoTable s) := by
  unfold echoTable
  repeat' first
    | with_reducible assumption
    | (intro hx; clear_value x; revert hx; revert x; intro y hy)
    | intro _
    | (subst x)
    | (extract_lets +onlyGivenNames x; refine kept_cut (m := m) (s0 := s0) (x := x) ?_ ?_)
    | (extract_lets +onlyGivenNames x; clear_value x; revert x; intro y)
    | with_reducible exact hm.of rfl
    | with_reducible apply kept_setF
    | with_reducible apply kept_modLod
    | with_reducible apply kept_evtLod
    | with_reducible apply kept_incW
    | with_reducible apply kept_ite
    | with_reducible apply kept_forN
    | split

theorem kept_execTestFrame {m : Nat} {s0 : State} (limited : BitVec 8) {s : State} (hm : Covers m 0x6180004a2) (h1 : Kept m s0 s) :
    KeptO m s0 (execTestFrame limited s) := by
  unfold execTestFrame
  repeat' first
    | with_reducible assumption
    | intro _
    | with_reducible exact hm.of rfl
    | with_reducible apply kept_testFrame
    | with_reducible apply keptO_next
    | with_reducible apply keptO_fault

theorem kept_execDiscExpiry {m : Nat} {s0 : State} (slot : Fin 8) {s : State} (hm : Covers m 0x610000482) (h1 : Kept m s0 s) :
    KeptO m s0 (execDiscExpiry slot s) := by
  unfold execDiscExpiry
  repeat' first
    | with_reducible assumption
    | intro _
    | with_reducible exact hm.of rfl
    | with_reducible apply kept_discExpired
    | with_reducible apply keptO_next
    | with_reducible apply keptO_fault

theorem kept_execVigilExpiry {m : Nat} {s0 : State} (slot : Fin 8) {s : State} (hm : Covers m 0x610000482) (h1 : Kept m s0 s) :
    KeptO m s0 (execVigilExpiry slot s) := by
  unfold execVigilExpiry
  repeat' first
    | with_reducible assumption
    | intro _
    | with_reducible exact hm.of rfl
    | with_reducible apply kept_vigilDemand
    | with_reducible apply keptO_ite
    | with_reducible apply kept_ite
    | with_reducible apply keptO_next
    | with_reducible apply keptO_fault
    | split

theorem kept_execTstuckExpiry {m : Nat} {s0 : State} (slot : Fin 8) {s : State} (hm : Covers m 0x610000482) (h1 : Kept m s0 s) :
    KeptO m s0 (execTstuckExpiry slot s) := by
  unfold execTstuckExpiry
  repeat' first
    | with_reducible assumption
    | intro _
    | with_reducible exact hm.of rfl
    | with_reducible apply kept_vigilDemand
    | with_reducible apply keptO_ite
    | with_reducible apply kept_ite
    | with_reducible apply keptO_next
    | with_reducible apply keptO_fault
    | split

theorem kept_execEdmCheckFail {m : Nat} {s0 : State} (n : Fin 8) {s : State} (hm : Covers m 0x610000482) (h1 : Kept m s0 s) :
    KeptO m s0 (execEdmCheckFail n s) := by
  unfold execEdmCheckFail
  repeat' first
    | with_reducible assumption
    | intro _
    | with_reducible exact hm.of rfl
    | with_reducible apply kept_edmFail
    | with_reducible apply keptO_next
    | with_reducible apply keptO_fault

theorem kept_execSpdfault {m : Nat} {s0 : State} (slot : Fin 8) {s : State} (hm : Covers m 0x610000482) (h1 : Kept m s0 s) :
    KeptO m s0 (execSpdfault slot s) := by
  unfold execSpdfault
  repeat' first
    | with_reducible assumption
    | intro _
    | with_reducible exact hm.of rfl
    | with_reducible apply kept_spdFault
    | with_reducible apply keptO_next
    | with_reducible apply keptO_fault

theorem kept_execOutputWatch {m : Nat} {s0 : State} (n : Fin 8) {s : State} (hm : Covers m 0x610000482) (h1 : Kept m s0 s) :
    KeptO m s0 (execOutputWatch n s) := by
  unfold execOutputWatch
  repeat' first
    | with_reducible assumption
    | intro _
    | with_reducible exact hm.of rfl
    | with_reducible apply kept_watchOutput
    | with_reducible apply keptO_next
    | with_reducible apply keptO_fault

theorem kept_execLodSupplyLost {m : Nat} {s0 : State} {s : State} (hm : Covers m 0x610000482) (h1 : Kept m s0 s) :
    KeptO m s0 (execLodSupplyLost s) := by
  unfold execLodSupplyLost
  repeat' first
    | with_reducible assumption
    | intro _
    | with_reducible exact hm.of rfl
    | with_reducible apply kept_supplyLost
    | with_reducible apply keptO_next
    | with_reducible apply keptO_fault

theorem kept_execLodLinkSilence {m : Nat} {s0 : State} {s : State} (hm : Covers m 0x600000482) (h1 : Kept m s0 s) :
    KeptO m s0 (execLodLinkSilence s) := by
  unfold execLodLinkSilence
  repeat' first
    | with_reducible assumption
    | intro _
    | with_reducible exact hm.of rfl
    | with_reducible apply kept_raise
    | with_reducible apply kept_evtLod
    | with_reducible apply kept_setF
    | with_reducible apply keptO_ite
    | with_reducible apply kept_ite
    | with_reducible apply keptO_next
    | with_reducible apply keptO_fault

theorem kept_execUnlock0 {m : Nat} {s0 : State} (r : Req) (code : Word) {s : State} (hm : Covers m 0x10000402) (h1 : Kept m s0 s) :
    KeptO m s0 (execUnlock0 r code s) := by
  unfold execUnlock0
  repeat' first
    | with_reducible assumption
    | intro _
    | with_reducible exact hm.of rfl
    | with_reducible apply kept_unlockFirst
    | with_reducible apply kept_notVoted
    | with_reducible apply keptO_next
    | with_reducible apply keptO_fault
    | split

theorem kept_execUnlock1 {m : Nat} {s0 : State} (r : Req) (code : Word) {s : State} (hm : Covers m 0x610000482) (h1 : Kept m s0 s) :
    KeptO m s0 (execUnlock1 r code s) := by
  unfold execUnlock1
  repeat' first
    | with_reducible assumption
    | intro _
    | with_reducible exact hm.of rfl
    | with_reducible apply kept_unlockSecond
    | with_reducible apply kept_notVoted
    | with_reducible apply keptO_next
    | with_reducible apply keptO_fault
    | split

theorem kept_execTrip {m : Nat} {s0 : State} (r : Req) (val : Word) {s : State} (hm : Covers m 0x10000402) (h1 : Kept m s0 s) :
    KeptO m s0 (execTrip r val s) := by
  unfold execTrip
  repeat' first
    | with_reducible assumption
    | intro _
    | with_reducible exact hm.of rfl
    | with_reducible apply kept_tripOutputs
    | with_reducible apply kept_notVoted
    | with_reducible apply keptO_next
    | with_reducible apply keptO_fault
    | split

theorem kept_execCommitReq {m : Nat} {s0 : State} (r : Req) {s : State} (hm : Covers m 0x10000402) (h1 : Kept m s0 s) :
    KeptO m s0 (execCommitReq r s) := by
  unfold execCommitReq
  repeat' first
    | with_reducible assumption
    | intro _
    | with_reducible exact hm.of rfl
    | with_reducible apply kept_modLod
    | with_reducible apply kept_notVoted
    | with_reducible apply keptO_ite
    | with_reducible apply kept_ite
    | with_reducible apply keptO_next
    | with_reducible apply keptO_fault

theorem kept_execCommitCheckDone {m : Nat} {s0 : State} {s : State} (hm : Covers m 0x610000482) (h1 : Kept m s0 s) :
    KeptO m s0 (execCommitCheckDone s) := by
  unfold execCommitCheckDone
  repeat' first
    | with_reducible assumption
    | intro _
    | with_reducible exact hm.of rfl
    | with_reducible apply kept_checksDone
    | with_reducible apply keptO_next
    | with_reducible apply keptO_fault

theorem kept_execCommitNow {m : Nat} {s0 : State} (r : Req) {s : State} (hm : Covers m 0x610000482) (h1 : Kept m s0 s) :
    KeptO m s0 (execCommitNow r s) := by
  unfold execCommitNow
  repeat' first
    | with_reducible assumption
    | intro _
    | with_reducible exact hm.of rfl
    | with_reducible apply kept_commitNow
    | with_reducible apply kept_notVoted
    | with_reducible apply keptO_ite
    | with_reducible apply kept_ite
    | with_reducible apply keptO_next
    | with_reducible apply keptO_fault

theorem kept_execCommitCancel {m : Nat} {s0 : State} (r : Req) {s : State} (hm : Covers m 0x402) (h1 : Kept m s0 s) :
    KeptO m s0 (execCommitCancel r s) := by
  unfold execCommitCancel
  repeat' first
    | with_reducible assumption
    | intro _
    | with_reducible exact hm.of rfl
    | with_reducible apply kept_setF
    | with_reducible apply kept_notVoted
    | with_reducible apply keptO_ite
    | with_reducible apply kept_ite
    | with_reducible apply keptO_next
    | with_reducible apply keptO_fault

theorem kept_execCommitStrobe {m : Nat} {s0 : State} {s : State} (hm : Covers m 0x610000482) (h1 : Kept m s0 s) :
    KeptO m s0 (execCommitStrobe s) := by
  unfold execCommitStrobe
  repeat' first
    | with_reducible assumption
    | intro _
    | with_reducible exact hm.of rfl
    | with_reducible apply kept_strobe
    | with_reducible apply keptO_next
    | with_reducible apply keptO_fault

theorem kept_execTableEcho {m : Nat} {s0 : State} {s : State} (hm : Covers m 0x610000482) (h1 : Kept m s0 s) :
    KeptO m s0 (execTableEcho s) := by
  unfold execTableEcho
  repeat' first
    | with_reducible assumption
    | intro _
    | with_reducible exact hm.of rfl
    | with_reducible apply kept_echoTable
    | with_reducible apply keptO_next
    | with_reducible apply keptO_fault

theorem kept_execTableCrcCheck {m : Nat} {s0 : State} {s : State} (hm : Covers m 0x610000482) (h1 : Kept m s0 s) :
    KeptO m s0 (execTableCrcCheck s) := by
  unfold execTableCrcCheck
  repeat' first
    | with_reducible assumption
    | intro _
    | with_reducible exact hm.of rfl
    | with_reducible apply kept_pushLod
    | with_reducible apply kept_recordCause
    | with_reducible apply keptO_ite
    | with_reducible apply kept_ite
    | with_reducible apply keptO_next
    | with_reducible apply keptO_fault

theorem kept_execInternalFault {m : Nat} {s0 : State} (osc : Bool) (mac : Fin 3) {s : State} (hm : Covers m 0x610000482) (h1 : Kept m s0 s) :
    KeptO m s0 (execInternalFault osc mac s) := by
  unfold execInternalFault
  repeat' first
    | with_reducible assumption
    | intro _
    | with_reducible exact hm.of rfl
    | with_reducible apply kept_pushLod
    | with_reducible apply kept_recordCause
    | with_reducible apply kept_modLod
    | with_reducible apply keptO_ite
    | with_reducible apply kept_ite
    | with_reducible apply keptO_next
    | with_reducible apply keptO_fault

end Sys2Proof.Machine
end

