-- ==== Sys2Proof/Laws/KeptAnalog.lean ====
section
/-! SUPPORT. What the operations of Machine/Analog.lean keep (Safety.lean, `Kept`): one lemma each, which cites those of the operations it calls. -/

namespace Sys2Proof.Machine

theorem kept_modAnl {m : Nat} {s0 : State} (n : Nat) {s : State} (f : AnlCh → AnlCh) (hm : Covers m 0x20000000) (h1 : Kept m s0 s) :
    Kept m s0 (modAnl n s f) := by
  unfold modAnl
  repeat' first
    | with_reducible assumption
    | intro _
    | with_reducible exact hm.of rfl
    | ((with_reducible refine kept_upd_anl (hm.of rfl) ?_ ?_) <;> first | with_reducible exact id | with_reducible exact kwf_putFile _ _ _ _ | with_reducible exact kwf_kput 0 _ _ _ | exact fun e => (length_modAt _ _ _).trans e | exact fun e => (List.length_map ..).trans e | exact fun _ => rfl | exact kwf_filter 0 _ _ | exact kwf_foldl_kput 0 _ _ | exact kwf_kput 0 _ _ _ | (with_reducible assumption))

theorem kept_told {m : Nat} {s0 : State} (f : Fld) (b : Bool) (act : State → State) {s : State} (hm : Covers m 0x2) (h1 : ∀ v0 : State, Kept m s0 v0 → Kept m s0 (act v0)) (h2 : Kept m s0 s) :
    Kept m s0 (told f b act s) := by
  unfold told
  repeat' first
    | with_reducible assumption
    | intro _
    | with_reducible exact hm.of rfl
    | with_reducible apply h1
    | with_reducible apply kept_setF
    | with_reducible apply kept_ite

theorem kept_anlFault {m : Nat} {s0 : State} (cls : Nat) (l : Loc) {s : State} (hm : Covers m 0x600000482) (h1 : Kept m s0 s) :
    Kept m s0 (anlFault cls l s) := by
  unfold anlFault
  repeat' first
    | with_reducible assumption
    | intro _
    | with_reducible exact hm.of rfl
    | with_reducible apply kept_raise
    | with_reducible apply kept_evtAnl

theorem kept_syncAnl {m : Nat} {s0 : State} (n : Nat) {a2 : State} (hm : Covers m 0x620000482) (h1 : Kept m s0 a2) :
    Kept m s0 (syncAnl n a2) := by
  unfold syncAnl
  repeat' first
    | with_reducible assumption
    | (intro hx; clear_value x; revert hx; revert x; intro y hy)
    | intro _
    | (subst x)
    | (extract_lets +onlyGivenNames x; refine kept_cut (m := m) (s0 := s0) (x := x) ?_ ?_)
    | (extract_lets +onlyGivenNames x; clear_value x; revert x; intro y)
    | with_reducible exact hm.of rfl
    | with_reducible apply kept_modAnl
    | with_reducible apply kept_setB
    | with_reducible apply kept_told
    | with_reducible apply kept_raise
    | with_reducible apply kept_evtAnl
    | with_reducible apply kept_incF
    | with_reducible apply kept_anlFault
    | with_reducible apply kept_ite

theorem kept_modBinn {m : Nat} {s0 : State} {s : State} (f : Binn → Binn) (hm : Covers m 0x40000000) (h1 : Kept m s0 s) :
    Kept m s0 (modBinn s f) := by
  unfold modBinn
  repeat' first
    | with_reducible assumption
    | intro _
    | with_reducible exact hm.of rfl
    | (with_reducible refine kept_upd_binn (hm.of rfl) ?_; with_reducible assumption)

theorem kept_showMsg {m : Nat} {s0 : State} (a1 : Nat) {s : State} (hm : Covers m 0x40000000) (h1 : Kept m s0 s) :
    Kept m s0 (showMsg a1 s) := by
  unfold showMsg
  repeat' first
    | with_reducible assumption
    | intro _
    | with_reducible exact hm.of rfl
    | with_reducible apply kept_modBinn

theorem kept_closeTrim {m : Nat} {s0 : State} {s : State} (hm : Covers m 0x40000002) (h1 : Kept m s0 s) :
    Kept m s0 (closeTrim s) := by
  unfold closeTrim
  repeat' first
    | with_reducible assumption
    | (intro hx; clear_value x; revert hx; revert x; intro y hy)
    | intro _
    | (subst x)
    | (extract_lets +onlyGivenNames x; refine kept_cut (m := m) (s0 := s0) (x := x) ?_ ?_)
    | (extract_lets +onlyGivenNames x; clear_value x; revert x; intro y)
    | with_reducible exact hm.of rfl
    | with_reducible apply kept_setF
    | with_reducible apply kept_modBinn
    | with_reducible apply kept_ite

theorem kept_trimReport {m : Nat} {s0 : State} (a : State) {s : State} (hm : Covers m 0x600000482) (h1 : Kept m s0 s) : Kept m s0 (trimReport a s) := by
  unfold trimReport
  extract_lets n
  exact kept_raise _ _ (hm.of rfl) (kept_evtAnl _ (hm.of rfl) h1)

theorem kept_abortTrim {m : Nat} {s0 : State} {s : State} (hm : Covers m 0x640000482) (h1 : Kept m s0 s) :
    Kept m s0 (abortTrim s) := by
  unfold abortTrim
  repeat' first
    | with_reducible assumption
    | intro _
    | with_reducible exact hm.of rfl
    | with_reducible apply kept_showMsg
    | with_reducible apply kept_trimReport
    | with_reducible apply kept_closeTrim
    | with_reducible apply kept_ite

theorem kept_abortOn {m : Nat} {s0 : State} (n : Nat) {s : State} (hm : Covers m 0x640000482) (h1 : Kept m s0 s) :
    Kept m s0 (abortOn n s) := by
  unfold abortOn
  repeat' first
    | with_reducible assumption
    | intro _
    | with_reducible exact hm.of rfl
    | with_reducible apply kept_abortTrim
    | with_reducible apply kept_ite

theorem kept_storeTrim {m : Nat} {s0 : State} (n : Nat) (ze : Nat) (span : Nat) (src : Nat) {s : State} (hm : Covers m 0x20000006) (h1 : Kept m s0 s) :
    Kept m s0 (storeTrim n ze span src s) := by
  unfold storeTrim
  repeat' first
    | with_reducible assumption
    | intro _
    | (extract_lets +onlyGivenNames x; clear_value x; revert x; intro y)
    | with_reducible exact hm.of rfl
    | with_reducible apply kept_modAnl
    | with_reducible apply kept_setF
    | with_reducible apply kept_setLive

theorem kept_finishTrim {m : Nat} {s0 : State} {s : State} (hm : Covers m 0x660000486) (h1 : Kept m s0 s) :
    Kept m s0 (finishTrim s) := by
  unfold finishTrim
  repeat' first
    | with_reducible assumption
    | intro _
    | with_reducible exact hm.of rfl
    | with_reducible apply kept_showMsg
    | with_reducible apply kept_trimReport
    | with_reducible apply kept_closeTrim
    | with_reducible apply kept_storeTrim

theorem kept_adjust {m : Nat} {s0 : State} (d : Int) {s : State} (hm : Covers m 0x40000000) (h1 : Kept m s0 s) :
    Kept m s0 (adjust d s) := by
  unfold adjust
  repeat' first
    | with_reducible assumption
    | intro _
    | with_reducible exact hm.of rfl
    | with_reducible apply kept_modBinn
    | with_reducible apply kept_ite

theorem kept_pressSet {m : Nat} {s0 : State} {s : State} (hm : Covers m 0x660000486) (h1 : Kept m s0 s) :
    Kept m s0 (pressSet s) := by
  unfold pressSet
  repeat' first
    | with_reducible assumption
    | (intro hx; clear_value x; revert hx; revert x; intro y hy)
    | intro _
    | (subst x)
    | (extract_lets +onlyGivenNames x; refine kept_cut (m := m) (s0 := s0) (x := x) ?_ ?_)
    | (extract_lets +onlyGivenNames x; clear_value x; revert x; intro y)
    | with_reducible exact hm.of rfl
    | with_reducible apply kept_closeTrim
    | with_reducible apply kept_setF
    | with_reducible apply kept_modBinn
    | with_reducible apply kept_finishTrim
    | with_reducible apply kept_ite

theorem kept_shortAdj {m : Nat} {s0 : State} {s : State} (hm : Covers m 0x40000000) (h1 : Kept m s0 s) :
    Kept m s0 (shortAdj s) := by
  unfold shortAdj
  repeat' first
    | with_reducible assumption
    | intro _
    | with_reducible exact hm.of rfl
    | with_reducible apply kept_modBinn
    | with_reducible apply kept_adjust
    | with_reducible apply kept_ite

theorem kept_button {m : Nat} {s0 : State} (adj : Bool) (ev : BtnEv) {s : State} (hm : Covers m 0x660000486) (h1 : Kept m s0 s) :
    Kept m s0 (button adj ev s) := by
  unfold button
  repeat' first
    | with_reducible assumption
    | (intro hx; clear_value x; revert hx; revert x; intro y hy)
    | intro _
    | (subst x)
    | (extract_lets +onlyGivenNames x; refine kept_cut (m := m) (s0 := s0) (x := x) ?_ ?_)
    | (extract_lets +onlyGivenNames x; clear_value x; revert x; intro y)
    | with_reducible exact hm.of rfl
    | with_reducible apply kept_modBinn
    | with_reducible apply kept_setF
    | with_reducible apply kept_pressSet
    | with_reducible apply kept_adjust
    | with_reducible apply kept_shortAdj
    | with_reducible apply kept_ite
    | split

theorem kept_openTrim {m : Nat} {s0 : State} {s : State} (hm : Covers m 0x40000000) (h1 : Kept m s0 s) :
    Kept m s0 (openTrim s) := by
  unfold openTrim
  repeat' first
    | with_reducible assumption
    | intro _
    | with_reducible exact hm.of rfl
    | with_reducible apply kept_showMsg
    | with_reducible apply kept_modBinn
    | with_reducible apply kept_ite

theorem kept_anlBoundary {m : Nat} {s0 : State} (n : Nat) {s : State} (hm : Covers m 0x2000000e) (h1 : Kept m s0 s) :
    Kept m s0 (anlBoundary n s) := by
  unfold anlBoundary
  repeat' first
    | with_reducible assumption
    | (intro hx; clear_value x; revert hx; revert x; intro y hy)
    | intro _
    | (subst x)
    | (extract_lets +onlyGivenNames x; refine kept_cut (m := m) (s0 := s0) (x := x) ?_ ?_)
    | (extract_lets +onlyGivenNames x; clear_value x; revert x; intro y)
    | with_reducible exact hm.of rfl
    | ((with_reducible refine kept_upd_live_pendL (hm.of rfl) ?_ ?_) <;> first | with_reducible exact id | with_reducible exact kwf_putFile _ _ _ _ | with_reducible exact kwf_kput 0 _ _ _ | exact fun e => (length_modAt _ _ _).trans e | exact fun e => (List.length_map ..).trans e | exact fun _ => rfl | exact kwf_filter 0 _ _ | exact kwf_foldl_kput 0 _ _ | exact kwf_kput 0 _ _ _ | (with_reducible assumption))
    | with_reducible apply kept_storeTrim
    | with_reducible apply kept_ite
    | with_reducible apply kept_foldl
    | with_reducible apply kept_foldl1

theorem kept_feStep {m : Nat} {s0 : State} (n : Nat) {s : State} (hm : Covers m 0x620000482) (h1 : Kept m s0 s) :
    Kept m s0 (feStep n s) := by
  unfold feStep
  repeat' first
    | with_reducible assumption
    | intro _
    | (extract_lets +onlyGivenNames x; clear_value x; revert x; intro y)
    | with_reducible exact hm.of rfl
    | with_reducible apply kept_syncAnl
    | with_reducible apply kept_modAnl
    | with_reducible apply kept_ite
    | split

theorem kept_unholdAnl {m : Nat} {s0 : State} (n : Nat) (failed : Bool) {s : State} (hm : Covers m 0x1660000482) (h1 : Kept m s0 s) :
    Kept m s0 (unholdAnl n failed s) := by
  unfold unholdAnl
  repeat' first
    | with_reducible assumption
    | (intro hx; clear_value x; revert hx; revert x; intro y hy)
    | intro _
    | (subst x)
    | (extract_lets +onlyGivenNames x; refine kept_cut (m := m) (s0 := s0) (x := x) ?_ ?_)
    | (extract_lets +onlyGivenNames x; clear_value x; revert x; intro y)
    | with_reducible exact hm.of rfl
    | (with_reducible refine kept_upd_linkAt (hm.of rfl) ?_; with_reducible assumption)
    | with_reducible apply kept_syncAnl
    | with_reducible apply kept_modAnl
    | with_reducible apply kept_abortOn
    | with_reducible apply kept_ite

theorem kept_holdOver {m : Nat} {s0 : State} (n : Nat) {s : State} (hm : Covers m 0x1660000482) (h1 : Kept m s0 s) :
    Kept m s0 (holdOver n s) := by
  unfold holdOver
  repeat' first
    | with_reducible assumption
    | intro _
    | with_reducible exact hm.of rfl
    | with_reducible apply kept_unholdAnl
    | with_reducible apply kept_ite

theorem kept_heardFrame {m : Nat} {s0 : State} (n : Nat) (valid : Bool) {s : State} (hm : Covers m 0x1020000000) (h1 : Kept m s0 s) :
    Kept m s0 (heardFrame n valid s) := by
  unfold heardFrame
  repeat' first
    | with_reducible assumption
    | intro _
    | (extract_lets +onlyGivenNames x; clear_value x; revert x; intro y)
    | with_reducible exact hm.of rfl
    | (with_reducible refine kept_upd_linkAt (hm.of rfl) ?_; with_reducible assumption)
    | with_reducible apply kept_modAnl
    | with_reducible apply kept_ite

theorem kept_setpointFrame {m : Nat} {s0 : State} (n : Nat) (valid : Bool) {a3 : State} (hm : Covers m 0x16600004ae) (h1 : Kept m s0 a3) :
    Kept m s0 (setpointFrame n valid a3) := by
  unfold setpointFrame
  repeat' first
    | with_reducible assumption
    | (intro hx; clear_value x; revert hx; revert x; intro y hy)
    | intro _
    | (subst x)
    | (extract_lets +onlyGivenNames x; refine kept_cut (m := m) (s0 := s0) (x := x) ?_ ?_)
    | (extract_lets +onlyGivenNames x; clear_value x; revert x; intro y)
    | with_reducible exact hm.of rfl
    | with_reducible apply kept_holdOver
    | with_reducible apply kept_feStep
    | with_reducible apply kept_anlBoundary
    | with_reducible apply kept_heardFrame
    | with_reducible apply kept_emit
    | with_reducible apply kept_modAnl
    | with_reducible apply kept_ite

theorem kept_idleCh {m : Nat} {s0 : State} (n : Nat) {s : State} (hm : Covers m 0x660000482) (h1 : Kept m s0 s) :
    Kept m s0 (idleCh n s) := by
  unfold idleCh
  repeat' first
    | with_reducible assumption
    | intro _
    | (extract_lets +onlyGivenNames x; clear_value x; revert x; intro y)
    | with_reducible exact hm.of rfl
    | with_reducible apply kept_modAnl
    | with_reducible apply kept_abortOn
    | with_reducible apply kept_ite

theorem kept_startCh {m : Nat} {s0 : State} (n : Nat) {s : State} (hm : Covers m 0x2000000e) (h1 : Kept m s0 s) :
    Kept m s0 (startCh n s) := by
  unfold startCh
  repeat' first
    | with_reducible assumption
    | (intro hx; clear_value x; revert hx; revert x; intro y hy)
    | intro _
    | (subst x)
    | (extract_lets +onlyGivenNames x; refine kept_cut (m := m) (s0 := s0) (x := x) ?_ ?_)
    | (extract_lets +onlyGivenNames x; clear_value x; revert x; intro y)
    | with_reducible exact hm.of rfl
    | with_reducible apply kept_anlBoundary
    | with_reducible apply kept_modAnl
    | with_reducible apply kept_ite

theorem kept_followEn {m : Nat} {s0 : State} (n : Nat) {s : State} (hm : Covers m 0x66000048e) (h1 : Kept m s0 s) :
    Kept m s0 (followEn n s) := by
  unfold followEn
  repeat' first
    | with_reducible assumption
    | intro _
    | with_reducible exact hm.of rfl
    | with_reducible apply kept_syncAnl
    | with_reducible apply kept_startCh
    | with_reducible apply kept_idleCh

theorem kept_enableAnl_abortIf {m : Nat} {s0 : State} (n : Nat) {s : State} (hm : Covers m 0x640000482) (h1 : Kept m s0 s) :
    Kept m s0 (enableAnl.abortIf n s) := by
  unfold enableAnl.abortIf
  repeat' first
    | with_reducible assumption
    | intro _
    | with_reducible exact hm.of rfl
    | with_reducible apply kept_abortOn
    | with_reducible apply kept_ite

theorem kept_enableAnl {m : Nat} {s0 : State} (chan : Option Nat) (en : Bool) {s : State} (hm : Covers m 0x66000048e) (h1 : Kept m s0 s) :
    Kept m s0 (enableAnl chan en s) := by
  unfold enableAnl
  repeat' first
    | with_reducible assumption
    | (intro hx; clear_value x; revert hx; revert x; intro y hy)
    | intro _
    | (subst x)
    | (extract_lets +onlyGivenNames x; refine kept_cut (m := m) (s0 := s0) (x := x) ?_ ?_)
    | (extract_lets +onlyGivenNames x; clear_value x; revert x; intro y)
    | with_reducible exact hm.of rfl
    | with_reducible apply kept_followEn
    | with_reducible apply kept_enableAnl_abortIf
    | with_reducible apply kept_setB
    | with_reducible apply kept_abortTrim
    | with_reducible apply kept_ite
    | with_reducible apply kept_forN
    | split

theorem kept_afterSafe {m : Nat} {s0 : State} (n : Nat) {s : State} (hm : Covers m 0x640000482) (h1 : Kept m s0 s) :
    Kept m s0 (afterSafe n s) := by
  unfold afterSafe
  repeat' first
    | with_reducible assumption
    | intro _
    | with_reducible exact hm.of rfl
    | with_reducible apply kept_abortOn
    | with_reducible apply kept_ite

theorem kept_readbackAnl {m : Nat} {s0 : State} (n : Nat) (carry : Nat) (draw : Nat) (dpri : Int) (drb : Int) (vterm : Nat) (vcomp : Nat) (tj : Int) (refs : Bool) {a10 : State} (hm : Covers m 0x1660000482) (h1 : Kept m s0 a10) :
    Kept m s0 (readbackAnl n carry draw dpri drb vterm vcomp tj refs a10) := by
  unfold readbackAnl
  repeat' first
    | with_reducible assumption
    | (intro hx; clear_value x; revert hx; revert x; intro y hy)
    | intro _
    | (subst x)
    | (extract_lets +onlyGivenNames x; refine kept_cut (m := m) (s0 := s0) (x := x) ?_ ?_)
    | (extract_lets +onlyGivenNames x; clear_value x; revert x; intro y)
    | with_reducible exact hm.of rfl
    | with_reducible apply kept_feStep
    | with_reducible apply kept_holdOver
    | with_reducible apply kept_afterSafe
    | with_reducible apply kept_syncAnl
    | with_reducible apply kept_modAnl
    | with_reducible apply kept_ite

theorem kept_setHeadroom {m : Nat} {s0 : State} (n : Nat) {s : State} (hm : Covers m 0x620000482) (h1 : Kept m s0 s) :
    Kept m s0 (setHeadroom n s) := by
  unfold setHeadroom
  repeat' first
    | with_reducible assumption
    | intro _
    | (extract_lets +onlyGivenNames x; clear_value x; revert x; intro y)
    | with_reducible exact hm.of rfl
    | with_reducible apply kept_syncAnl
    | with_reducible apply kept_modAnl
    | with_reducible apply kept_ite

theorem kept_setOpen {m : Nat} {s0 : State} (n : Nat) {s : State} (hm : Covers m 0x620000482) (h1 : Kept m s0 s) :
    Kept m s0 (setOpen n s) := by
  unfold setOpen
  repeat' first
    | with_reducible assumption
    | intro _
    | with_reducible exact hm.of rfl
    | with_reducible apply kept_syncAnl
    | with_reducible apply kept_modAnl
    | with_reducible apply kept_ite

theorem kept_enterFallback {m : Nat} {s0 : State} (n : Nat) {s : State} (hm : Covers m 0x620000482) (h1 : Kept m s0 s) :
    Kept m s0 (enterFallback n s) := by
  unfold enterFallback
  repeat' first
    | with_reducible assumption
    | intro _
    | (extract_lets +onlyGivenNames x; clear_value x; revert x; intro y)
    | with_reducible exact hm.of rfl
    | with_reducible apply kept_syncAnl
    | with_reducible apply kept_modAnl
    | with_reducible apply kept_ite

theorem kept_leaveFallback {m : Nat} {s0 : State} (n : Nat) {s : State} (hm : Covers m 0x620000482) (h1 : Kept m s0 s) :
    Kept m s0 (leaveFallback n s) := by
  unfold leaveFallback
  repeat' first
    | with_reducible assumption
    | intro _
    | (extract_lets +onlyGivenNames x; clear_value x; revert x; intro y)
    | with_reducible exact hm.of rfl
    | with_reducible apply kept_feStep
    | with_reducible apply kept_syncAnl
    | with_reducible apply kept_modAnl
    | with_reducible apply kept_ite

theorem kept_feSilent {m : Nat} {s0 : State} (n : Fin 8) {a2 : State} (hm : Covers m 0x1660000482) (h1 : Kept m s0 a2) :
    Kept m s0 (feSilent n a2) := by
  unfold feSilent
  repeat' first
    | with_reducible assumption
    | (intro hx; clear_value x; revert hx; revert x; intro y hy)
    | intro _
    | (subst x)
    | (extract_lets +onlyGivenNames x; refine kept_cut (m := m) (s0 := s0) (x := x) ?_ ?_)
    | (extract_lets +onlyGivenNames x; clear_value x; revert x; intro y)
    | with_reducible exact hm.of rfl
    | with_reducible apply kept_holdOver
    | with_reducible apply kept_afterSafe
    | with_reducible apply kept_syncAnl
    | with_reducible apply kept_modAnl
    | with_reducible apply kept_ite

theorem kept_safeRelease {m : Nat} {s0 : State} (n : Nat) {s : State} (hm : Covers m 0x620000482) (h1 : Kept m s0 s) :
    Kept m s0 (safeRelease n s) := by
  unfold safeRelease
  repeat' first
    | with_reducible assumption
    | intro _
    | (extract_lets +onlyGivenNames x; clear_value x; revert x; intro y)
    | with_reducible exact hm.of rfl
    | with_reducible apply kept_feStep
    | with_reducible apply kept_syncAnl
    | with_reducible apply kept_modAnl
    | with_reducible apply kept_ite

theorem kept_clearMism {m : Nat} {s0 : State} (n : Nat) {s : State} (hm : Covers m 0x620000482) (h1 : Kept m s0 s) :
    Kept m s0 (clearMism n s) := by
  unfold clearMism
  repeat' first
    | with_reducible assumption
    | intro _
    | with_reducible exact hm.of rfl
    | with_reducible apply kept_feStep
    | with_reducible apply kept_syncAnl
    | with_reducible apply kept_modAnl
    | with_reducible apply kept_ite

theorem kept_writeAnl {m : Nat} {s0 : State} (n : Nat) (value : List Byte) (ts : Nat) (qual : Nat) {s : State} (hm : Covers m 0x87888efe92) (h1 : Kept m s0 s) :
    Kept m s0 (writeAnl n value ts qual s) := by
  unfold writeAnl
  repeat' first
    | with_reducible assumption
    | intro _
    | with_reducible exact hm.of rfl
    | with_reducible apply kept_sendChart
    | with_reducible apply kept_serveFields

theorem kept_publishAnl {m : Nat} {s0 : State} (n : Nat) {s : State} (hm : Covers m 0x87a88efe92) (h1 : Kept m s0 s) :
    Kept m s0 (publishAnl n s) := by
  unfold publishAnl
  repeat' first
    | with_reducible assumption
    | intro _
    | (extract_lets +onlyGivenNames x; clear_value x; revert x; intro y)
    | with_reducible exact hm.of rfl
    | with_reducible apply kept_writeAnl
    | with_reducible apply kept_modAnl

theorem kept_setAnlLink {m : Nat} {s0 : State} (n : Nat) (b : Bool) {s : State} (hm : Covers m 0x600000482) (h1 : Kept m s0 s) :
    Kept m s0 (setAnlLink n b s) := by
  unfold setAnlLink
  repeat' first
    | with_reducible assumption
    | intro _
    | with_reducible exact hm.of rfl
    | with_reducible apply kept_evtAnl
    | with_reducible apply kept_setFBit
    | with_reducible apply kept_setB

theorem kept_anlLinkUp {m : Nat} {s0 : State} (n : Nat) {s : State} (hm : Covers m 0x620000486) (h1 : Kept m s0 s) :
    Kept m s0 (anlLinkUp n s) := by
  unfold anlLinkUp
  repeat' first
    | with_reducible assumption
    | (intro hx; clear_value x; revert hx; revert x; intro y hy)
    | intro _
    | (subst x)
    | (extract_lets +onlyGivenNames x; refine kept_cut (m := m) (s0 := s0) (x := x) ?_ ?_)
    | (extract_lets +onlyGivenNames x; clear_value x; revert x; intro y)
    | with_reducible exact hm.of rfl
    | with_reducible apply kept_setAnlLink
    | with_reducible apply kept_storeTrim
    | with_reducible apply kept_ite

theorem kept_statusFrame {m : Nat} {s0 : State} (n : Nat) {s : State} (hm : Covers m 0x97a88efe96) (h1 : Kept m s0 s) :
    Kept m s0 (statusFrame n s) := by
  unfold statusFrame
  repeat' first
    | with_reducible assumption
    | (intro hx; clear_value x; revert hx; revert x; intro y hy)
    | intro _
    | (subst x)
    | (extract_lets +onlyGivenNames x; refine kept_cut (m := m) (s0 := s0) (x := x) ?_ ?_)
    | (extract_lets +onlyGivenNames x; clear_value x; revert x; intro y)
    | with_reducible exact hm.of rfl
    | (with_reducible refine kept_upd_linkAt (hm.of rfl) ?_; with_reducible assumption)
    | with_reducible apply kept_syncAnl
    | with_reducible apply kept_anlLinkUp
    | with_reducible apply kept_setF
    | with_reducible apply kept_modAnl
    | with_reducible apply kept_publishAnl
    | with_reducible apply kept_ite

theorem kept_refreshAnl {m : Nat} {s0 : State} {s : State} (hm : Covers m 0x87a88efe92) (h1 : Kept m s0 s) :
    Kept m s0 (refreshAnl s) := by
  unfold refreshAnl
  repeat' first
    | with_reducible assumption
    | intro _
    | with_reducible exact hm.of rfl
    | with_reducible apply kept_publishAnl
    | with_reducible apply kept_ite
    | with_reducible apply kept_forN

theorem kept_anlLinkLost {m : Nat} {s0 : State} (n : Fin 8) {a2 : State} (hm : Covers m 0x97e88efe92) (h1 : Kept m s0 a2) :
    Kept m s0 (anlLinkLost n a2) := by
  unfold anlLinkLost
  repeat' first
    | with_reducible assumption
    | (intro hx; clear_value x; revert hx; revert x; intro y hy)
    | intro _
    | (subst x)
    | (extract_lets +onlyGivenNames x; refine kept_cut (m := m) (s0 := s0) (x := x) ?_ ?_)
    | (extract_lets +onlyGivenNames x; clear_value x; revert x; intro y)
    | with_reducible exact hm.of rfl
    | with_reducible apply kept_holdOver
    | with_reducible apply kept_abortOn
    | with_reducible apply kept_raise
    | with_reducible apply kept_incF
    | with_reducible apply kept_setAnlLink
    | with_reducible apply kept_writeAnl
    | with_reducible apply kept_modAnl
    | with_reducible apply kept_ite

theorem kept_holdAnl {m : Nat} {s0 : State} (n : Nat) {s : State} (hm : Covers m 0x620000482) (h1 : Kept m s0 s) :
    Kept m s0 (holdAnl n s) := by
  unfold holdAnl
  repeat' first
    | with_reducible assumption
    | intro _
    | with_reducible exact hm.of rfl
    | with_reducible apply kept_syncAnl
    | with_reducible apply kept_modAnl

theorem kept_execSetpointFrame {m : Nat} {s0 : State} (n : Fin 8) (valid : Bool) {s : State} (hm : Covers m 0x16600004ae) (h1 : Kept m s0 s) :
    KeptO m s0 (execSetpointFrame n valid s) := by
  unfold execSetpointFrame
  repeat' first
    | with_reducible assumption
    | intro _
    | with_reducible exact hm.of rfl
    | with_reducible apply kept_onIsland
    | with_reducible apply kept_setpointFrame
    | with_reducible apply keptO_next
    | with_reducible apply keptO_fault

theorem kept_execAnlStatusFrame {m : Nat} {s0 : State} (n : Fin 8) {s : State} (hm : Covers m 0x97a88efe96) (h1 : Kept m s0 s) :
    KeptO m s0 (execAnlStatusFrame n s) := by
  unfold execAnlStatusFrame
  repeat' first
    | with_reducible assumption
    | intro _
    | with_reducible exact hm.of rfl
    | with_reducible apply kept_onIsland
    | with_reducible apply kept_statusFrame
    | with_reducible apply keptO_next
    | with_reducible apply keptO_fault

theorem kept_execAnalogReadback {m : Nat} {s0 : State} (n : Fin 8) (carry : BitVec 16) (draw : BitVec 16) (dpri : Int) (drb : Int) (vterm : BitVec 12) (vcomp : BitVec 12) (tj : Int) (refs : Bool) {s : State} (hm : Covers m 0x1660000482) (h1 : Kept m s0 s) :
    KeptO m s0 (execAnalogReadback n carry draw dpri drb vterm vcomp tj refs s) := by
  unfold execAnalogReadback
  repeat' first
    | with_reducible assumption
    | intro _
    | with_reducible exact hm.of rfl
    | with_reducible apply kept_readbackAnl
    | with_reducible apply keptO_next
    | with_reducible apply keptO_fault

theorem kept_execHeadroom {m : Nat} {s0 : State} (n : Fin 8) {s : State} (hm : Covers m 0x620000482) (h1 : Kept m s0 s) :
    KeptO m s0 (execHeadroom n s) := by
  unfold execHeadroom
  repeat' first
    | with_reducible assumption
    | intro _
    | with_reducible exact hm.of rfl
    | with_reducible apply kept_setHeadroom
    | with_reducible apply keptO_next
    | with_reducible apply keptO_fault

theorem kept_execOpenLoop {m : Nat} {s0 : State} (n : Fin 8) {s : State} (hm : Covers m 0x620000482) (h1 : Kept m s0 s) :
    KeptO m s0 (execOpenLoop n s) := by
  unfold execOpenLoop
  repeat' first
    | with_reducible assumption
    | intro _
    | with_reducible exact hm.of rfl
    | with_reducible apply kept_setOpen
    | with_reducible apply keptO_next
    | with_reducible apply keptO_fault

theorem kept_execFallbackEnter {m : Nat} {s0 : State} (n : Fin 8) {s : State} (hm : Covers m 0x620000482) (h1 : Kept m s0 s) :
    KeptO m s0 (execFallbackEnter n s) := by
  unfold execFallbackEnter
  repeat' first
    | with_reducible assumption
    | intro _
    | with_reducible exact hm.of rfl
    | with_reducible apply kept_enterFallback
    | with_reducible apply keptO_next
    | with_reducible apply keptO_fault

theorem kept_execFallbackLeave {m : Nat} {s0 : State} (n : Fin 8) {s : State} (hm : Covers m 0x620000482) (h1 : Kept m s0 s) :
    KeptO m s0 (execFallbackLeave n s) := by
  unfold execFallbackLeave
  repeat' first
    | with_reducible assumption
    | intro _
    | with_reducible exact hm.of rfl
    | with_reducible apply kept_leaveFallback
    | with_reducible apply keptO_next
    | with_reducible apply keptO_fault

theorem kept_execAnlLinkSilent {m : Nat} {s0 : State} (n : Fin 8) {s : State} (hm : Covers m 0x1660000482) (h1 : Kept m s0 s) :
    KeptO m s0 (execAnlLinkSilent n s) := by
  unfold execAnlLinkSilent
  repeat' first
    | with_reducible assumption
    | intro _
    | with_reducible exact hm.of rfl
    | with_reducible apply kept_feSilent
    | with_reducible apply keptO_next
    | with_reducible apply keptO_fault

theorem kept_execAnlSafeRelease {m : Nat} {s0 : State} (n : Fin 8) {s : State} (hm : Covers m 0x620000482) (h1 : Kept m s0 s) :
    KeptO m s0 (execAnlSafeRelease n s) := by
  unfold execAnlSafeRelease
  repeat' first
    | with_reducible assumption
    | intro _
    | with_reducible exact hm.of rfl
    | with_reducible apply kept_safeRelease
    | with_reducible apply keptO_next
    | with_reducible apply keptO_fault

theorem kept_execAnlInterfaceLinkLoss {m : Nat} {s0 : State} (n : Fin 8) {s : State} (hm : Covers m 0x97e88efe92) (h1 : Kept m s0 s) :
    KeptO m s0 (execAnlInterfaceLinkLoss n s) := by
  unfold execAnlInterfaceLinkLoss
  repeat' first
    | with_reducible assumption
    | intro _
    | with_reducible exact hm.of rfl
    | with_reducible apply kept_onIsland
    | with_reducible apply kept_anlLinkLost
    | with_reducible apply keptO_next
    | with_reducible apply keptO_fault

theorem kept_execAnlClrf {m : Nat} {s0 : State} (r : Req) (n : Fin 8) {s : State} (hm : Covers m 0x6200004a2) (h1 : Kept m s0 s) :
    KeptO m s0 (execAnlClrf r n s) := by
  unfold execAnlClrf
  repeat' first
    | with_reducible assumption
    | intro _
    | with_reducible exact hm.of rfl
    | with_reducible apply kept_reached
    | with_reducible apply kept_clearMism
    | with_reducible apply keptO_next
    | with_reducible apply keptO_fault

theorem kept_execAnlEnableWrite {m : Nat} {s0 : State} (r : Req) (chan : Option (Fin 8)) (en : Bool) {s : State} (hm : Covers m 0x6600004ae) (h1 : Kept m s0 s) :
    KeptO m s0 (execAnlEnableWrite r chan en s) := by
  unfold execAnlEnableWrite
  repeat' first
    | with_reducible assumption
    | intro _
    | with_reducible exact hm.of rfl
    | with_reducible apply kept_reached
    | with_reducible apply kept_enableAnl
    | with_reducible apply keptO_next
    | with_reducible apply keptO_fault

theorem kept_writeTrim {m : Nat} {s0 : State} (n : Nat) (ze : Nat) (span : Nat) {s : State} (hm : Covers m 0x2000001e) (h1 : Kept m s0 s) :
    Kept m s0 (writeTrim n ze span s) := by
  unfold writeTrim
  repeat' first
    | with_reducible assumption
    | (intro hx; clear_value x; revert hx; revert x; intro y hy)
    | intro _
    | (subst x)
    | (extract_lets +onlyGivenNames x; refine kept_cut (m := m) (s0 := s0) (x := x) ?_ ?_)
    | (extract_lets +onlyGivenNames x; clear_value x; revert x; intro y)
    | with_reducible exact hm.of rfl
    | with_reducible apply kept_setFree
    | with_reducible apply kept_storeTrim
    | with_reducible apply kept_writeFld
    | with_reducible apply kept_ite

theorem kept_execTrimWrite {m : Nat} {s0 : State} (r : Req) (n : Fin 8) (ze : BitVec 11) (span : BitVec 11) {s : State} (hm : Covers m 0x42000003e) (h1 : Kept m s0 s) :
    KeptO m s0 (execTrimWrite r n ze span s) := by
  unfold execTrimWrite
  repeat' first
    | with_reducible assumption
    | intro _
    | with_reducible exact hm.of rfl
    | with_reducible apply kept_reached
    | with_reducible apply kept_writeTrim
    | with_reducible apply keptO_next
    | with_reducible apply keptO_fault

theorem kept_execBinnacleTrimOpen {m : Nat} {s0 : State} {s : State} (hm : Covers m 0x40000000) (h1 : Kept m s0 s) :
    KeptO m s0 (execBinnacleTrimOpen s) := by
  unfold execBinnacleTrimOpen
  repeat' first
    | with_reducible assumption
    | intro _
    | with_reducible exact hm.of rfl
    | with_reducible apply kept_openTrim
    | with_reducible apply keptO_ite
    | with_reducible apply kept_ite
    | with_reducible apply keptO_next
    | with_reducible apply keptO_fault

theorem kept_execBinnacleButton {m : Nat} {s0 : State} (adj : Bool) (ev : BtnEv) {s : State} (hm : Covers m 0x660000486) (h1 : Kept m s0 s) :
    KeptO m s0 (execBinnacleButton adj ev s) := by
  unfold execBinnacleButton
  repeat' first
    | with_reducible assumption
    | intro _
    | with_reducible exact hm.of rfl
    | with_reducible apply kept_button
    | with_reducible apply keptO_next
    | with_reducible apply keptO_fault

theorem kept_execBinnacleTrimAbort {m : Nat} {s0 : State} {s : State} (hm : Covers m 0x640000482) (h1 : Kept m s0 s) :
    KeptO m s0 (execBinnacleTrimAbort s) := by
  unfold execBinnacleTrimAbort
  repeat' first
    | with_reducible assumption
    | intro _
    | with_reducible exact hm.of rfl
    | with_reducible apply kept_abortTrim
    | with_reducible apply keptO_ite
    | with_reducible apply kept_ite
    | with_reducible apply keptO_next
    | with_reducible apply keptO_fault

theorem kept_execInfoPageTimeout {m : Nat} {s0 : State} {s : State} (hm : Covers m 0x40000000) (h1 : Kept m s0 s) :
    KeptO m s0 (execInfoPageTimeout s) := by
  unfold execInfoPageTimeout
  repeat' first
    | with_reducible assumption
    | intro _
    | with_reducible exact hm.of rfl
    | with_reducible apply kept_modBinn
    | with_reducible apply keptO_ite
    | with_reducible apply kept_ite
    | with_reducible apply keptO_next
    | with_reducible apply keptO_fault

end Sys2Proof.Machine
end

