-- ==== Sys2Proof/Laws/KeptLogbook.lean ====
section
/-! SUPPORT. What the operations of Machine/Logbook.lean keep (Safety.lean, `Kept`): one lemma each, which cites those of the operations it calls. -/

namespace Sys2Proof.Machine

theorem kept_modLog {m : Nat} {s0 : State} {s : State} (f : Logb → Logb) (hm : Covers m 0x10000000000) (h1 : Kept m s0 s) :
    Kept m s0 (modLog s f) := by
  unfold modLog
  repeat' first
    | with_reducible assumption
    | intro _
    | with_reducible exact hm.of rfl
    | (with_reducible refine kept_upd_logb (hm.of rfl) ?_; with_reducible assumption)

theorem kept_showLog {m : Nat} {s0 : State} {s : State} (hm : Covers m 0x2) (h1 : Kept m s0 s) :
    Kept m s0 (showLog s) := by
  unfold showLog
  repeat' first
    | with_reducible assumption
    | intro _
    | (extract_lets +onlyGivenNames x; clear_value x; revert x; intro y)
    | with_reducible exact hm.of rfl
    | with_reducible apply kept_setF
    | split

theorem kept_reportLoss {m : Nat} {s0 : State} (mac : Nat) {s : State} (hm : Covers m 0x10000000402) (h1 : Kept m s0 s) :
    Kept m s0 (reportLoss mac s) := by
  unfold reportLoss
  repeat' first
    | with_reducible assumption
    | intro _
    | (extract_lets +onlyGivenNames x; clear_value x; revert x; intro y)
    | with_reducible exact hm.of rfl
    | with_reducible apply kept_raise
    | with_reducible apply kept_modLog
    | with_reducible apply kept_ite

theorem kept_startFlush {m : Nat} {s0 : State} {s : State} (hm : Covers m 0x10000000002) (h1 : Kept m s0 s) :
    Kept m s0 (startFlush s) := by
  unfold startFlush
  repeat' first
    | with_reducible assumption
    | intro _
    | with_reducible exact hm.of rfl
    | with_reducible apply kept_modLog
    | with_reducible apply kept_setF
    | with_reducible apply kept_ite

theorem kept_wrapped {m : Nat} {s0 : State} {s : State} (hm : Covers m 0x10600000482) (h1 : Kept m s0 s) :
    Kept m s0 (wrapped s) := by
  unfold wrapped
  repeat' first
    | with_reducible assumption
    | (intro hx; clear_value x; revert hx; revert x; intro y hy)
    | intro _
    | (subst x)
    | (extract_lets +onlyGivenNames x; refine kept_cut (m := m) (s0 := s0) (x := x) ?_ ?_)
    | (extract_lets +onlyGivenNames x; clear_value x; revert x; intro y)
    | with_reducible exact hm.of rfl
    | with_reducible apply kept_evtLog
    | with_reducible apply kept_raise
    | with_reducible apply kept_modLog
    | with_reducible apply kept_ite

theorem kept_placeRec {m : Nat} {s0 : State} (r : LogRec) {s : State} (hm : Covers m 0x107800efc92) (h1 : Kept m s0 s) :
    Kept m s0 (placeRec r s) := by
  unfold placeRec
  repeat' first
    | with_reducible assumption
    | intro _
    | (extract_lets +onlyGivenNames x; clear_value x; revert x; intro y)
    | with_reducible exact hm.of rfl
    | with_reducible apply kept_wrapped
    | with_reducible apply kept_writeMem
    | with_reducible apply kept_modLog
    | with_reducible apply kept_ite

theorem kept_rewriteHeader {m : Nat} {s0 : State} (r : LogRec) {s : State} (hm : Covers m 0x1800efc12) (h1 : Kept m s0 s) :
    Kept m s0 (rewriteHeader r s) := by
  unfold rewriteHeader
  repeat' first
    | with_reducible assumption
    | intro _
    | with_reducible exact hm.of rfl
    | with_reducible apply kept_writeMem
    | with_reducible apply kept_ite
    | split

theorem kept_writeFlush {m : Nat} {s0 : State} {s : State} (hm : Covers m 0x107800efc92) (h1 : Kept m s0 s) :
    Kept m s0 (writeFlush s) := by
  unfold writeFlush
  repeat' first
    | with_reducible assumption
    | (intro hx; clear_value x; revert hx; revert x; intro y hy)
    | intro _
    | (subst x)
    | (extract_lets +onlyGivenNames x; refine kept_cut (m := m) (s0 := s0) (x := x) ?_ ?_)
    | (extract_lets +onlyGivenNames x; clear_value x; revert x; intro y)
    | with_reducible exact hm.of rfl
    | with_reducible apply kept_placeRec
    | with_reducible apply kept_rewriteHeader
    | with_reducible apply kept_showLog
    | with_reducible apply kept_modLog
    | with_reducible apply kept_ite
    | with_reducible apply kept_foldl
    | with_reducible apply kept_foldl1

theorem kept_endFlush {m : Nat} {s0 : State} {a1 : State} (hm : Covers m 0x107800efc9e) (h1 : Kept m s0 a1) :
    Kept m s0 (endFlush a1) := by
  unfold endFlush
  repeat' first
    | with_reducible assumption
    | (intro hx; clear_value x; revert hx; revert x; intro y hy)
    | intro _
    | (subst x)
    | (extract_lets +onlyGivenNames x; refine kept_cut (m := m) (s0 := s0) (x := x) ?_ ?_)
    | (extract_lets +onlyGivenNames x; clear_value x; revert x; intro y)
    | with_reducible exact hm.of rfl
    | with_reducible apply kept_writeFlush
    | with_reducible apply kept_evtLog
    | with_reducible apply kept_incW
    | with_reducible apply kept_setF
    | with_reducible apply kept_takeLive
    | with_reducible apply kept_showLog
    | with_reducible apply kept_modLog
    | with_reducible apply kept_startFlush
    | with_reducible apply kept_ite

theorem kept_flushAll {m : Nat} {s0 : State} {s : State} (hm : Covers m 0x107800efc9e) (h1 : Kept m s0 s) :
    Kept m s0 (flushAll s) := by
  unfold flushAll
  repeat' first
    | with_reducible assumption
    | intro _
    | with_reducible exact hm.of rfl
    | with_reducible apply kept_endFlush
    | with_reducible apply kept_startFlush

theorem kept_loseTrigger {m : Nat} {s0 : State} {s : State} (hm : Covers m 0x10600000482) (h1 : Kept m s0 s) :
    Kept m s0 (loseTrigger s) := by
  unfold loseTrigger
  repeat' first
    | with_reducible assumption
    | intro _
    | with_reducible exact hm.of rfl
    | with_reducible apply kept_reportLoss
    | with_reducible apply kept_evtLog
    | with_reducible apply kept_incF

theorem kept_fire {m : Nat} {s0 : State} (f : Fired) {s : State} (hm : Covers m 0x10600000482) (h1 : Kept m s0 s) :
    Kept m s0 (fire f s) := by
  unfold fire
  repeat' first
    | with_reducible assumption
    | (intro hx; clear_value x; revert hx; revert x; intro y hy)
    | intro _
    | (subst x)
    | (extract_lets +onlyGivenNames x; refine kept_cut (m := m) (s0 := s0) (x := x) ?_ ?_)
    | (extract_lets +onlyGivenNames x; clear_value x; revert x; intro y)
    | with_reducible exact hm.of rfl
    | with_reducible apply kept_incF
    | with_reducible apply kept_loseTrigger
    | with_reducible apply kept_showLog
    | with_reducible apply kept_modLog
    | with_reducible apply kept_ite

theorem kept_makeDue {m : Nat} {s0 : State} (fs : List Fired) {s : State} (hm : Covers m 0x10000000000) (h1 : Kept m s0 s) :
    Kept m s0 (makeDue fs s) := by
  unfold makeDue
  repeat' first
    | with_reducible assumption
    | intro _
    | with_reducible exact hm.of rfl
    | with_reducible apply kept_modLog

theorem kept_matchReport {m : Nat} {s0 : State} (fl : Nat) (cls : Nat) (ts : Nat) (ef1 : Nat) {s : State} (hm : Covers m 0x10000000000) (h1 : Kept m s0 s) :
    Kept m s0 (matchReport fl cls ts ef1 s) := by
  unfold matchReport
  repeat' first
    | with_reducible assumption
    | intro _
    | (extract_lets +onlyGivenNames x; clear_value x; revert x; intro y)
    | with_reducible exact hm.of rfl
    | with_reducible apply kept_makeDue
    | with_reducible apply kept_ite

theorem kept_checkSignal {m : Nat} {s0 : State} (g : Nat) {s : State} (hm : Covers m 0x1018002fc12) (h1 : Kept m s0 s) :
    Kept m s0 (checkSignal g s) := by
  unfold checkSignal
  repeat' first
    | with_reducible assumption
    | (intro hx; clear_value x; revert hx; revert x; intro y hy)
    | intro _
    | (subst x)
    | (extract_lets +onlyGivenNames x; refine kept_cut (m := m) (s0 := s0) (x := x) ?_ ?_)
    | (extract_lets +onlyGivenNames x; clear_value x; revert x; intro y)
    | with_reducible exact hm.of rfl
    | with_reducible apply kept_modLog
    | with_reducible apply kept_touchCw
    | with_reducible apply kept_makeDue
    | with_reducible apply kept_ite

theorem kept_checkPeriod {m : Nat} {s0 : State} (g : Nat) {s : State} (hm : Covers m 0x10000000000) (h1 : Kept m s0 s) :
    Kept m s0 (checkPeriod g s) := by
  unfold checkPeriod
  repeat' first
    | with_reducible assumption
    | (intro hx; clear_value x; revert hx; revert x; intro y hy)
    | intro _
    | (subst x)
    | (extract_lets +onlyGivenNames x; refine kept_cut (m := m) (s0 := s0) (x := x) ?_ ?_)
    | (extract_lets +onlyGivenNames x; clear_value x; revert x; intro y)
    | with_reducible exact hm.of rfl
    | with_reducible apply kept_modLog
    | with_reducible apply kept_makeDue
    | with_reducible apply kept_ite

theorem kept_logCycle {m : Nat} {s0 : State} {s : State} (hm : Covers m 0x1018002fc12) (h1 : Kept m s0 s) :
    Kept m s0 (logCycle s) := by
  unfold logCycle
  repeat' first
    | with_reducible assumption
    | intro _
    | with_reducible exact hm.of rfl
    | with_reducible apply kept_checkSignal
    | with_reducible apply kept_checkPeriod
    | with_reducible apply kept_ite
    | with_reducible apply kept_forN

theorem kept_writeKind {m : Nat} {s0 : State} (g : Nat) (kind : Nat) {s : State} (hm : Covers m 0x10000000002) (h1 : Kept m s0 s) :
    Kept m s0 (writeKind g kind s) := by
  unfold writeKind
  repeat' first
    | with_reducible assumption
    | (intro hx; clear_value x; revert hx; revert x; intro y hy)
    | intro _
    | (subst x)
    | (extract_lets +onlyGivenNames x; refine kept_cut (m := m) (s0 := s0) (x := x) ?_ ?_)
    | (extract_lets +onlyGivenNames x; clear_value x; revert x; intro y)
    | with_reducible exact hm.of rfl
    | with_reducible apply kept_setF
    | with_reducible apply kept_modLog
    | with_reducible apply kept_ite

theorem kept_writeTctl {m : Nat} {s0 : State} (size : Nat) (low : Bool) (val : Word) {s : State} (hm : Covers m 0x10000000402) (h1 : Kept m s0 s) :
    Kept m s0 (writeTctl size low val s) := by
  unfold writeTctl
  repeat' first
    | with_reducible assumption
    | (intro hx; clear_value x; revert hx; revert x; intro y hy)
    | intro _
    | (subst x)
    | (extract_lets +onlyGivenNames x; refine kept_cut (m := m) (s0 := s0) (x := x) ?_ ?_)
    | (extract_lets +onlyGivenNames x; clear_value x; revert x; intro y)
    | with_reducible exact hm.of rfl
    | with_reducible apply kept_raise
    | with_reducible apply kept_setF
    | with_reducible apply kept_writeKind
    | with_reducible apply kept_ite
    | with_reducible apply kept_foldl
    | with_reducible apply kept_foldl1

theorem kept_readItem {m : Nat} {s0 : State} (a1 : Nat) {s : State} (hm : Covers m 0x18002fc32) (h1 : Kept m s0 s) :
    Kept m s0 (readItem a1 s) := by
  unfold readItem
  repeat' first
    | with_reducible assumption
    | intro _
    | (extract_lets +onlyGivenNames x; clear_value x; revert x; intro y)
    | with_reducible exact hm.of rfl
    | with_reducible apply kept_deniedLog
    | with_reducible apply kept_useFree
    | with_reducible apply kept_setFree
    | with_reducible apply kept_touchCw
    | with_reducible apply kept_touch
    | with_reducible apply kept_ite
    | with_reducible apply kept_foldl
    | with_reducible apply kept_foldl1
    | split

theorem kept_captureItems {m : Nat} {s0 : State} (f : Fired) (l : List Nat) {s : State} (hm : Covers m 0x18002fc32) (h1 : Kept m s0 s) :
    Kept m s0 (captureItems f l s).1 := by
  induction l generalizing s with
  | nil => exact h1
  | cons e r ih =>
    unfold captureItems
    show Kept1 m s0 _
    repeat' first
      | with_reducible assumption
      | (intro hx; clear_value x; revert hx; revert x; intro y hy)
      | (intro hz; clear_value z; revert hz; revert z; intro y hy)
      | intro _
      | (subst x)
      | (subst z)
      | (extract_lets +onlyGivenNames x; refine kept_cut (m := m) (s0 := s0) (x := x) ?_ ?_)
      | (extract_lets +onlyGivenNames z; refine kept_cut (m := m) (s0 := s0) (x := z.1) ?_ ?_)
      | (extract_lets +onlyGivenNames x; clear_value x; revert x; intro y)
      | with_reducible exact hm.of rfl
      | with_reducible apply ih
      | with_reducible apply kept_readItem
      | with_reducible apply kept1_ite
      | with_reducible apply kept_ite
      | with_reducible apply kept1_mk
      | with_reducible apply kept1_of
      | split

theorem kept_appendRec {m : Nat} {s0 : State} (trig : Nat) (flags : Nat) (first : Nat) (items : Nat) (payload : List Byte) {s : State} (hm : Covers m 0x10000000002) (h1 : Kept m s0 s) :
    Kept m s0 (appendRec trig flags first items payload s) := by
  unfold appendRec
  repeat' first
    | with_reducible assumption
    | (intro hx; clear_value x; revert hx; revert x; intro y hy)
    | intro _
    | (subst x)
    | (extract_lets +onlyGivenNames x; refine kept_cut (m := m) (s0 := s0) (x := x) ?_ ?_)
    | (extract_lets +onlyGivenNames x; clear_value x; revert x; intro y)
    | with_reducible exact hm.of rfl
    | with_reducible apply kept_incF
    | with_reducible apply kept_modLog
    | with_reducible apply kept_showLog
    | with_reducible apply kept_startFlush
    | with_reducible apply kept_ite

theorem kept_mergeRepeat {m : Nat} {s0 : State} (r : LogRec) (ts : Nat) {s : State} (hm : Covers m 0x10000000002) (h1 : Kept m s0 s) :
    Kept m s0 (mergeRepeat r ts s) := by
  unfold mergeRepeat
  repeat' first
    | with_reducible assumption
    | intro _
    | (extract_lets +onlyGivenNames x; clear_value x; revert x; intro y)
    | with_reducible exact hm.of rfl
    | with_reducible apply kept_modLog
    | with_reducible apply kept_incF
    | with_reducible apply kept_ite

theorem kept_keepRecord {m : Nat} {s0 : State} (f : Fired) (flags : Nat) (items : Nat) (payload : List Byte) {s : State} (hm : Covers m 0x10600000482) (h1 : Kept m s0 s) :
    Kept m s0 (keepRecord f flags items payload s) := by
  unfold keepRecord
  repeat' first
    | with_reducible assumption
    | (intro (hw : ∀ t, Kept m s0 t → Kept m s0 (w t)); clear_value w; revert hw; revert w; intro v hv)
    | (intro (hw : ∀ a t, Kept m s0 t → Kept m s0 (w a t)); clear_value w; revert hw; revert w; intro v hv)
    | (intro (hw : ∀ a, Kept m s0 (w a)); clear_value w; revert hw; revert w; intro v hv)
    | intro _
    | (subst w)
    | (extract_lets +onlyGivenNames w; refine kept_cutF1 (m := m) (s0 := s0) (x := w) ?_ ?_)
    | (extract_lets +onlyGivenNames w; refine kept_cutF2 (m := m) (s0 := s0) (x := w) ?_ ?_)
    | (extract_lets +onlyGivenNames w; refine kept_cutF0 (m := m) (s0 := s0) (x := w) ?_ ?_)
    | (extract_lets +onlyGivenNames x; clear_value x; revert x; intro y)
    | with_reducible apply hv
    | with_reducible exact hm.of rfl
    | with_reducible apply kept_reportLoss
    | with_reducible apply kept_evtLog
    | with_reducible apply kept_incF
    | with_reducible apply kept_appendRec
    | with_reducible apply kept_mergeRepeat
    | with_reducible apply kept_ite
    | split

theorem kept_keepCaptured {m : Nat} {s0 : State} (f : Fired) (n : Nat) (bad : Nat) (payload : List Byte) {s : State} (hm : Covers m 0x10600000482) (h1 : Kept m s0 s) :
    Kept m s0 (keepCaptured f n bad payload s) := by
  unfold keepCaptured
  repeat' first
    | with_reducible assumption
    | (intro hx; clear_value x; revert hx; revert x; intro y hy)
    | intro _
    | (subst x)
    | (extract_lets +onlyGivenNames x; refine kept_cut (m := m) (s0 := s0) (x := x) ?_ ?_)
    | (extract_lets +onlyGivenNames x; clear_value x; revert x; intro y)
    | with_reducible exact hm.of rfl
    | with_reducible apply kept_evtLog
    | with_reducible apply kept_addF
    | with_reducible apply kept_showLog
    | with_reducible apply kept_keepRecord
    | with_reducible apply kept_ite

theorem kept_captureNext {m : Nat} {s0 : State} {s : State} (hm : Covers m 0x1078002fcb2) (h1 : Kept m s0 s) : Kept m s0 (captureNext s) := by
  unfold captureNext
  split
  · exact h1
  · rename_i f r _
    exact kept_keepCaptured f (itemsOf s f.trig).length _ _ (hm.of rfl) (kept_captureItems f (itemsOf s f.trig) (hm.of rfl) (kept_modLog _ (hm.of rfl) h1))

theorem kept_touchRec {m : Nat} {s0 : State} (seq : Nat) {s : State} (hm : Covers m 0x18002fc12) (h1 : Kept m s0 s) :
    Kept m s0 (touchRec seq s) := by
  unfold touchRec
  repeat' first
    | with_reducible assumption
    | intro _
    | with_reducible exact hm.of rfl
    | with_reducible apply kept_touch
    | with_reducible apply kept_ite
    | split

theorem kept_setWindow {m : Nat} {s0 : State} (d : List Byte) {s : State} (hm : Covers m 0x2) (h1 : Kept m s0 s) :
    Kept m s0 (setWindow d s) := by
  unfold setWindow
  repeat' first
    | with_reducible assumption
    | intro _
    | with_reducible exact hm.of rfl
    | with_reducible apply kept_setF
    | with_reducible apply kept_forN

theorem kept_latch {m : Nat} {s0 : State} {s : State} (hm : Covers m 0x18002fc12) (h1 : Kept m s0 s) :
    Kept m s0 (latch s) := by
  unfold latch
  repeat' first
    | with_reducible assumption
    | intro _
    | (extract_lets +onlyGivenNames x; clear_value x; revert x; intro y)
    | with_reducible exact hm.of rfl
    | with_reducible apply kept_setB
    | with_reducible apply kept_setF
    | with_reducible apply kept_setWindow
    | with_reducible apply kept_touchRec
    | split

theorem kept_writeCursor {m : Nat} {s0 : State} (r : Req) (seq : Nat) (next : Bool) {s : State} (hm : Covers m 0x18002fc32) (h1 : Kept m s0 s) :
    Kept m s0 (writeCursor r seq next s) := by
  unfold writeCursor
  repeat' first
    | with_reducible assumption
    | intro _
    | with_reducible exact hm.of rfl
    | with_reducible apply kept_deniedLog
    | with_reducible apply kept_latch
    | with_reducible apply kept_setF
    | with_reducible apply kept_ite

theorem kept_reply {m : Nat} {s0 : State} (status : Nat) (d : List Byte) {s : State} (hm : Covers m 0x20) (h1 : Kept m s0 s) :
    Kept m s0 (reply status d s) := by
  unfold reply
  repeat' first
    | with_reducible assumption
    | intro _
    | with_reducible exact hm.of rfl
    | with_reducible apply kept_emit

theorem kept_refuseLog {m : Nat} {s0 : State} {s : State} (hm : Covers m 0x422) (h1 : Kept m s0 s) :
    Kept m s0 (refuseLog s) := by
  unfold refuseLog
  repeat' first
    | with_reducible assumption
    | intro _
    | with_reducible exact hm.of rfl
    | with_reducible apply kept_raise
    | with_reducible apply kept_reply

theorem kept_touchRecs {m : Nat} {s0 : State} (n : Nat) (q : Nat) (len : Nat) {s : State} (hm : Covers m 0x18002fc12) (h1 : Kept m s0 s) :
    Kept m s0 (touchRecs n q len s) := by
  induction n generalizing q len s with
  | zero => exact h1
  | succ n ih =>
    unfold touchRecs
    repeat' first
      | with_reducible assumption
      | intro _
      | with_reducible exact hm.of rfl
      | with_reducible apply ih
      | with_reducible apply kept_touchRec
      | with_reducible apply kept_ite
      | split

theorem kept_clearLog {m : Nat} {s0 : State} (digest : List Byte) {s : State} (hm : Covers m 0x10600000482) (h1 : Kept m s0 s) :
    Kept m s0 (clearLog digest s) := by
  unfold clearLog
  repeat' first
    | with_reducible assumption
    | (intro hx; clear_value x; revert hx; revert x; intro y hy)
    | intro _
    | (subst x)
    | (extract_lets +onlyGivenNames x; refine kept_cut (m := m) (s0 := s0) (x := x) ?_ ?_)
    | (extract_lets +onlyGivenNames x; clear_value x; revert x; intro y)
    | with_reducible exact hm.of rfl
    | with_reducible apply kept_modLog
    | with_reducible apply kept_setF
    | with_reducible apply kept_setWindow
    | with_reducible apply kept_raise
    | with_reducible apply kept_evtLog
    | with_reducible apply kept_startFlush
    | with_reducible apply kept_appendRec

theorem kept_execLogTriggerFire {m : Nat} {s0 : State} {s : State} (hm : Covers m 0x10600000482) (h1 : Kept m s0 s) :
    KeptO m s0 (execLogTriggerFire s) := by
  unfold execLogTriggerFire
  repeat' first
    | with_reducible assumption
    | intro _
    | with_reducible exact hm.of rfl
    | with_reducible apply kept_fire
    | with_reducible apply kept_modLog
    | with_reducible apply keptO_next
    | with_reducible apply keptO_fault
    | split

theorem kept_softTrigger {m : Nat} {s0 : State} (t : Nat) (arg : Nat) {s : State} (hm : Covers m 0x10600000482) (h1 : Kept m s0 s) :
    Kept m s0 (softTrigger t arg s) := by
  unfold softTrigger
  repeat' first
    | with_reducible assumption
    | intro _
    | with_reducible exact hm.of rfl
    | with_reducible apply kept_fire
    | with_reducible apply kept_ite

theorem kept_execSwtrig {m : Nat} {s0 : State} (_r : Req) (t : Fin 256) (arg : BitVec 48) {s : State} (hm : Covers m 0x10600000482) (h1 : Kept m s0 s) :
    KeptO m s0 (execSwtrig _r t arg s) := by
  unfold execSwtrig
  repeat' first
    | with_reducible assumption
    | intro _
    | with_reducible exact hm.of rfl
    | with_reducible apply kept_softTrigger
    | with_reducible apply keptO_next
    | with_reducible apply keptO_fault

theorem kept_execTriggerDefine {m : Nat} {s0 : State} (_r : Req) (val : Word) {s : State} (hm : Covers m 0x10000000402) (h1 : Kept m s0 s) :
    KeptO m s0 (execTriggerDefine _r val s) := by
  unfold execTriggerDefine
  repeat' first
    | with_reducible assumption
    | intro _
    | with_reducible exact hm.of rfl
    | with_reducible apply kept_writeTctl
    | with_reducible apply keptO_next
    | with_reducible apply keptO_fault

theorem kept_execLogCapture {m : Nat} {s0 : State} {s : State} (hm : Covers m 0x1078002fcb2) (h1 : Kept m s0 s) :
    KeptO m s0 (execLogCapture s) := by
  unfold execLogCapture
  repeat' first
    | with_reducible assumption
    | intro _
    | with_reducible exact hm.of rfl
    | with_reducible apply kept_captureNext
    | with_reducible apply keptO_next
    | with_reducible apply keptO_fault

theorem kept_execLogFlush {m : Nat} {s0 : State} {s : State} (hm : Covers m 0x107800efc92) (h1 : Kept m s0 s) :
    KeptO m s0 (execLogFlush s) := by
  unfold execLogFlush
  repeat' first
    | with_reducible assumption
    | intro _
    | with_reducible exact hm.of rfl
    | with_reducible apply kept_writeFlush
    | with_reducible apply kept_startFlush
    | with_reducible apply keptO_ite
    | with_reducible apply kept_ite
    | with_reducible apply keptO_next
    | with_reducible apply keptO_fault

theorem kept_execLogFlushRequest {m : Nat} {s0 : State} (_r : Req) {s : State} (hm : Covers m 0x10000000002) (h1 : Kept m s0 s) :
    KeptO m s0 (execLogFlushRequest _r s) := by
  unfold execLogFlushRequest
  repeat' first
    | with_reducible assumption
    | intro _
    | with_reducible exact hm.of rfl
    | with_reducible apply kept_startFlush
    | with_reducible apply keptO_next
    | with_reducible apply keptO_fault

theorem kept_outputsOff {m : Nat} {s0 : State} {s : State} (hm : Covers m 0x6780404ae) (h1 : Kept m s0 s) :
    Kept m s0 (outputsOff s) := by
  unfold outputsOff
  repeat' first
    | with_reducible assumption
    | (intro hx; clear_value x; revert hx; revert x; intro y hy)
    | intro _
    | (subst x)
    | (extract_lets +onlyGivenNames x; refine kept_cut (m := m) (s0 := s0) (x := x) ?_ ?_)
    | (extract_lets +onlyGivenNames x; clear_value x; revert x; intro y)
    | with_reducible exact hm.of rfl
    | with_reducible apply kept_forceOff
    | with_reducible apply kept_shaltTriad
    | with_reducible apply kept_pushLod
    | with_reducible apply kept_modLod
    | with_reducible apply kept_enableAnl
    | with_reducible apply kept_enableFio
    | with_reducible apply kept_ite
    | with_reducible apply kept_forN

theorem kept_execLogFlushDone {m : Nat} {s0 : State} {s : State} (hm : Covers m 0x107f80efcbe) (h1 : Kept m s0 s) :
    KeptO m s0 (execLogFlushDone s) := by
  unfold execLogFlushDone
  repeat' first
    | with_reducible assumption
    | intro _
    | with_reducible exact hm.of rfl
    | with_reducible apply kept_outputsOff
    | with_reducible apply kept_endFlush
    | with_reducible apply keptO_next
    | with_reducible apply keptO_fault

theorem kept_execLogCursorWrite {m : Nat} {s0 : State} (r : Req) (seq : BitVec 32) (next : Bool) {s : State} (hm : Covers m 0x18002fc32) (h1 : Kept m s0 s) :
    KeptO m s0 (execLogCursorWrite r seq next s) := by
  unfold execLogCursorWrite
  repeat' first
    | with_reducible assumption
    | intro _
    | with_reducible exact hm.of rfl
    | with_reducible apply kept_writeCursor
    | with_reducible apply keptO_next
    | with_reducible apply keptO_fault

theorem kept_execLogInfo {m : Nat} {s0 : State} (cert : Cert) {s : State} (hm : Covers m 0x422) (h1 : Kept m s0 s) :
    KeptO m s0 (execLogInfo cert s) := by
  unfold execLogInfo
  repeat' first
    | with_reducible assumption
    | intro _
    | with_reducible exact hm.of rfl
    | with_reducible apply kept_refuseLog
    | with_reducible apply kept_reply
    | with_reducible apply keptO_ite
    | with_reducible apply kept_ite
    | with_reducible apply keptO_next
    | with_reducible apply keptO_fault

theorem kept_execLogRead {m : Nat} {s0 : State} (cert : Cert) (first : BitVec 32) (count : BitVec 32) {s : State} (hm : Covers m 0x18002fc32) (h1 : Kept m s0 s) :
    KeptO m s0 (execLogRead cert first count s) := by
  unfold execLogRead
  repeat' first
    | with_reducible assumption
    | intro _
    | (extract_lets +onlyGivenNames x; clear_value x; revert x; intro y)
    | with_reducible exact hm.of rfl
    | with_reducible apply kept_refuseLog
    | with_reducible apply kept_reply
    | with_reducible apply kept_touchRecs
    | with_reducible apply keptO_ite
    | with_reducible apply kept_ite
    | with_reducible apply keptO_next
    | with_reducible apply keptO_fault

theorem kept_execLogGrant {m : Nat} {s0 : State} (cert : Cert) (secs : BitVec 32) {s : State} (hm : Covers m 0x10000000422) (h1 : Kept m s0 s) :
    KeptO m s0 (execLogGrant cert secs s) := by
  unfold execLogGrant
  repeat' first
    | with_reducible assumption
    | (intro hx; clear_value x; revert hx; revert x; intro y hy)
    | intro _
    | (subst x)
    | (extract_lets +onlyGivenNames x; refine kept_cut (m := m) (s0 := s0) (x := x) ?_ ?_)
    | (extract_lets +onlyGivenNames x; clear_value x; revert x; intro y)
    | with_reducible exact hm.of rfl
    | with_reducible apply kept_refuseLog
    | with_reducible apply kept_reply
    | with_reducible apply kept_modLog
    | with_reducible apply kept_setB
    | with_reducible apply keptO_ite
    | with_reducible apply kept_ite
    | with_reducible apply keptO_next
    | with_reducible apply keptO_fault

theorem kept_execGrantExpiry {m : Nat} {s0 : State} {s : State} (hm : Covers m 0x10000000002) (h1 : Kept m s0 s) :
    KeptO m s0 (execGrantExpiry s) := by
  unfold execGrantExpiry
  repeat' first
    | with_reducible assumption
    | intro _
    | with_reducible exact hm.of rfl
    | with_reducible apply kept_modLog
    | with_reducible apply kept_setF
    | with_reducible apply keptO_ite
    | with_reducible apply kept_ite
    | with_reducible apply keptO_next
    | with_reducible apply keptO_fault

theorem kept_execLogClear {m : Nat} {s0 : State} (cert : Cert) (digest : BitVec 256) {s : State} (hm : Covers m 0x106000004a2) (h1 : Kept m s0 s) :
    KeptO m s0 (execLogClear cert digest s) := by
  unfold execLogClear
  repeat' first
    | with_reducible assumption
    | intro _
    | with_reducible exact hm.of rfl
    | with_reducible apply kept_reply
    | with_reducible apply kept_clearLog
    | with_reducible apply kept_refuseLog
    | with_reducible apply keptO_ite
    | with_reducible apply kept_ite
    | with_reducible apply keptO_next
    | with_reducible apply keptO_fault

end Sys2Proof.Machine
end

