-- ==== Sys2Proof/Laws/KeptIslands.lean ====
section
/-! SUPPORT. What the operations of Machine/Islands.lean keep (Safety.lean, `Kept`): one lemma each, which cites those of the operations it calls. -/

namespace Sys2Proof.Machine

theorem kept_watchStop {m : Nat} {s0 : State} (i : Nat) {s : State} (hm : Covers m 0x400000000) (h1 : Kept m s0 s) :
    Kept m s0 (watchStop i s) := by
  unfold watchStop
  repeat' first
    | with_reducible assumption
    | intro _
    | with_reducible exact hm.of rfl
    | (with_reducible refine kept_upd_quiet (hm.of rfl) ?_; with_reducible assumption)
    | with_reducible apply kept_ite

theorem kept_execIslandStop {m : Nat} {s0 : State} (isl : Fin 16) {s : State} (hm : Covers m 0x2) (h1 : Kept m s0 s) :
    KeptO m s0 (execIslandStop isl s) := by
  unfold execIslandStop
  repeat' first
    | with_reducible assumption
    | intro _
    | with_reducible exact hm.of rfl
    | with_reducible apply kept_setF
    | with_reducible apply keptO_ite
    | with_reducible apply kept_ite
    | with_reducible apply keptO_next
    | with_reducible apply keptO_fault

theorem kept_execWakeRequest {m : Nat} {s0 : State} (isl : Fin 16) {s : State} (hm : Covers m 0x400000002) (h1 : Kept m s0 s) :
    KeptO m s0 (execWakeRequest isl s) := by
  unfold execWakeRequest
  repeat' first
    | with_reducible assumption
    | intro _
    | with_reducible exact hm.of rfl
    | with_reducible apply kept_wakeIsland
    | with_reducible apply keptO_ite
    | with_reducible apply kept_ite
    | with_reducible apply keptO_next
    | with_reducible apply keptO_fault

theorem kept_takePulses {m : Nat} {s0 : State} (id : Nat) (c : Nat) (ovf : Nat) {s : State} (hm : Covers m 0x402) (h1 : Kept m s0 s) :
    Kept m s0 (takePulses id c ovf s) := by
  unfold takePulses
  repeat' first
    | with_reducible assumption
    | (intro hx; clear_value x; revert hx; revert x; intro y hy)
    | intro _
    | (subst x)
    | (extract_lets +onlyGivenNames x; refine kept_cut (m := m) (s0 := s0) (x := x) ?_ ?_)
    | (extract_lets +onlyGivenNames x; clear_value x; revert x; intro y)
    | with_reducible exact hm.of rfl
    | with_reducible apply kept_addF
    | with_reducible apply kept_raiseVia
    | with_reducible apply kept_ite

theorem kept_offerPulse {m : Nat} {s0 : State} (isl : Nat) (id : Nat) {s : State} (hm : Covers m 0x380000402) (h1 : Kept m s0 s) :
    Kept m s0 (offerPulse isl id s) := by
  unfold offerPulse
  repeat' first
    | with_reducible assumption
    | (intro hx; clear_value x; revert hx; revert x; intro y hy)
    | (intro hz; clear_value z; revert hz; revert z; intro y hy)
    | intro _
    | (subst x)
    | (subst z)
    | (extract_lets +onlyGivenNames x; refine kept_cut (m := m) (s0 := s0) (x := x) ?_ ?_)
    | (extract_lets +onlyGivenNames z; refine kept_cut (m := m) (s0 := s0) (x := z.1) ?_ ?_)
    | (extract_lets +onlyGivenNames x; clear_value x; revert x; intro y)
    | with_reducible exact hm.of rfl
    | (with_reducible refine kept_upd_pulses_pulseOvf (hm.of rfl) ?_; with_reducible assumption)
    | with_reducible apply kept_takePulses
    | with_reducible apply kept_loadXing
    | with_reducible apply kept_ite

theorem kept_execPulseOffer {m : Nat} {s0 : State} (isl : Fin 16) (counter : Fin 64) {s : State} (hm : Covers m 0x380000402) (h1 : Kept m s0 s) :
    KeptO m s0 (execPulseOffer isl counter s) := by
  unfold execPulseOffer
  repeat' first
    | with_reducible assumption
    | intro _
    | with_reducible exact hm.of rfl
    | with_reducible apply kept_offerPulse
    | with_reducible apply keptO_next
    | with_reducible apply keptO_fault

theorem kept_execHandshakeTimeout {m : Nat} {s0 : State} (xing : Fin 33) (isl : Fin 16) {s : State} (hm : Covers m 0x402) (h1 : Kept m s0 s) :
    KeptO m s0 (execHandshakeTimeout xing isl s) := by
  unfold execHandshakeTimeout
  repeat' first
    | with_reducible assumption
    | intro _
    | with_reducible exact hm.of rfl
    | with_reducible apply kept_raiseVia
    | with_reducible apply keptO_ite
    | with_reducible apply kept_ite
    | with_reducible apply keptO_next
    | with_reducible apply keptO_fault
    | split

theorem kept_offerReport {m : Nat} {s0 : State} (i : Nat) {s : State} (hm : Covers m 0x200000400) (h1 : Kept m s0 s) :
    Kept m s0 (offerReport i s) := by
  unfold offerReport
  repeat' first
    | with_reducible assumption
    | intro _
    | with_reducible exact hm.of rfl
    | (with_reducible refine kept_upd_waiting (hm.of rfl) ?_; with_reducible assumption)
    | with_reducible apply kept_loadXing
    | with_reducible apply kept_ite
    | split

theorem kept_offerReports {m : Nat} {s0 : State} {s : State} (hm : Covers m 0x200000400) (h1 : Kept m s0 s) :
    Kept m s0 (offerReports s) := by
  unfold offerReports
  repeat' first
    | with_reducible assumption
    | intro _
    | with_reducible exact hm.of rfl
    | with_reducible apply kept_offerReport
    | with_reducible apply kept_forN

theorem kept_linkAlive {m : Nat} {s0 : State} (l : DieLink) {s : State} (hm : Covers m 0x630000486) (h1 : Kept m s0 s) :
    Kept m s0 (linkAlive l s) := by
  unfold linkAlive
  repeat' first
    | with_reducible assumption
    | intro _
    | with_reducible exact hm.of rfl
    | with_reducible apply kept_setF
    | with_reducible apply kept_pushLod
    | with_reducible apply kept_evtLod
    | with_reducible apply kept_syncAnl
    | with_reducible apply kept_anlLinkUp
    | with_reducible apply kept_ite
    | split

theorem kept_receiveLink {m : Nat} {s0 : State} (l : DieLink) (inward : Bool) (seq : Nat) (crcOk : Bool) {s : State} (hm : Covers m 0x3e30000486) (h1 : Kept m s0 s) :
    Kept m s0 (receiveLink l inward seq crcOk s) := by
  unfold receiveLink
  repeat' first
    | with_reducible assumption
    | (intro hx; clear_value x; revert hx; revert x; intro y hy)
    | intro _
    | (subst x)
    | (extract_lets +onlyGivenNames x; refine kept_cut (m := m) (s0 := s0) (x := x) ?_ ?_)
    | (extract_lets +onlyGivenNames x; clear_value x; revert x; intro y)
    | with_reducible exact hm.of rfl
    | (with_reducible refine kept_upd_links_linkAt_linkLost (hm.of rfl) ?_; with_reducible assumption)
    | with_reducible apply kept_linkAlive
    | with_reducible apply kept_ite

theorem kept_execLinkFrameReceive {m : Nat} {s0 : State} (link : DieLink) (inward : Bool) (seq : Fin 16) (crcOk : Bool) {s : State} (hm : Covers m 0x3e30000486) (h1 : Kept m s0 s) :
    KeptO m s0 (execLinkFrameReceive link inward seq crcOk s) := by
  unfold execLinkFrameReceive
  repeat' first
    | with_reducible assumption
    | intro _
    | with_reducible exact hm.of rfl
    | with_reducible apply kept_receiveLink
    | with_reducible apply keptO_next
    | with_reducible apply keptO_fault

theorem kept_clearRegs {m : Nat} {s0 : State} (i : Nat) {s : State} (hm : Covers m 0xe) (h1 : Kept m s0 s) :
    Kept m s0 (clearRegs i s) := by
  unfold clearRegs
  repeat' first
    | with_reducible assumption
    | intro _
    | (extract_lets +onlyGivenNames x; clear_value x; revert x; intro y)
    | with_reducible exact hm.of rfl
    | ((with_reducible refine kept_upd_flds_live_pendL (hm.of rfl) ?_ ?_ ?_) <;> first | with_reducible exact id | with_reducible exact kwf_putFile _ _ _ _ | with_reducible exact kwf_kput 0 _ _ _ | exact fun e => (length_modAt _ _ _).trans e | exact fun e => (List.length_map ..).trans e | exact fun _ => rfl | exact kwf_filter 0 _ _ | exact kwf_foldl_kput 0 _ _ | exact kwf_kput 0 _ _ _ | (with_reducible assumption))
    | with_reducible apply kept_ite

theorem kept_clearOps {m : Nat} {s0 : State} (i : Nat) {s : State} (hm : Covers m 0x40) (h1 : Kept m s0 s) :
    Kept m s0 (clearOps i s) := by
  unfold clearOps
  repeat' first
    | with_reducible assumption
    | intro _
    | with_reducible exact hm.of rfl
    | (with_reducible refine kept_upd_qops (hm.of rfl) ?_; with_reducible assumption)
    | with_reducible apply kept_ite

theorem kept_clearCrossings {m : Nat} {s0 : State} (i : Nat) {s : State} (hm : Covers m 0x380000400) (h1 : Kept m s0 s) :
    Kept m s0 (clearCrossings i s) := by
  unfold clearCrossings
  repeat' first
    | with_reducible assumption
    | intro _
    | with_reducible exact hm.of rfl
    | (with_reducible refine kept_upd_waiting_pulses_pulseOvf_xings (hm.of rfl) ?_; with_reducible assumption)
    | with_reducible apply kept_ite

theorem kept_resetBridge {m : Nat} {s0 : State} {s : State} (hm : Covers m 0x6040004f2) (h1 : Kept m s0 s) :
    Kept m s0 (resetBridge s) := by
  unfold resetBridge
  repeat' first
    | with_reducible assumption
    | (intro hx; clear_value x; revert hx; revert x; intro y hy)
    | intro _
    | (subst x)
    | (extract_lets +onlyGivenNames x; refine kept_cut (m := m) (s0 := s0) (x := x) ?_ ?_)
    | (extract_lets +onlyGivenNames x; clear_value x; revert x; intro y)
    | with_reducible exact hm.of rfl
    | (with_reducible refine kept_upd_brg (hm.of rfl) ?_; with_reducible assumption)
    | with_reducible apply kept_linkDown
    | with_reducible apply kept_emit
    | with_reducible apply kept_ite

theorem kept_resetAnl {m : Nat} {s0 : State} {s : State} (hm : Covers m 0x20000000) (h1 : Kept m s0 s) :
    Kept m s0 (resetAnl s) := by
  unfold resetAnl
  repeat' first
    | with_reducible assumption
    | (intro hx; clear_value x; revert hx; revert x; intro y hy)
    | (intro hz; clear_value z; revert hz; revert z; intro y hy)
    | intro _
    | (subst x)
    | (subst z)
    | (extract_lets +onlyGivenNames x; refine kept_cut (m := m) (s0 := s0) (x := x) ?_ ?_)
    | (extract_lets +onlyGivenNames z; refine kept_cut (m := m) (s0 := s0) (x := z.1) ?_ ?_)
    | (extract_lets +onlyGivenNames x; clear_value x; revert x; intro y)
    | with_reducible exact hm.of rfl
    | ((with_reducible refine kept_upd_anl (hm.of rfl) ?_ ?_) <;> first | with_reducible exact id | with_reducible exact kwf_putFile _ _ _ _ | with_reducible exact kwf_kput 0 _ _ _ | exact fun e => (length_modAt _ _ _).trans e | exact fun e => (List.length_map ..).trans e | exact fun _ => rfl | exact kwf_filter 0 _ _ | exact kwf_foldl_kput 0 _ _ | exact kwf_kput 0 _ _ _ | (with_reducible assumption))

theorem kept_forgetLinks {m : Nat} {s0 : State} (mine : Nat → Bool) {s : State} (hm : Covers m 0x3800000000) (h1 : Kept m s0 s) :
    Kept m s0 (forgetLinks mine s) := by
  unfold forgetLinks
  repeat' first
    | with_reducible assumption
    | (intro hx; clear_value x; revert hx; revert x; intro y hy)
    | (intro hz; clear_value z; revert hz; revert z; intro y hy)
    | intro _
    | (subst x)
    | (subst z)
    | (extract_lets +onlyGivenNames x; refine kept_cut (m := m) (s0 := s0) (x := x) ?_ ?_)
    | (extract_lets +onlyGivenNames z; refine kept_cut (m := m) (s0 := s0) (x := z.1) ?_ ?_)
    | (extract_lets +onlyGivenNames x; clear_value x; revert x; intro y)
    | with_reducible exact hm.of rfl
    | (with_reducible refine kept_upd_links_linkAt_linkLost (hm.of rfl) ?_; with_reducible assumption)
    | with_reducible apply kept_ite

theorem kept_dropSource {m : Nat} {s0 : State} (src : Nat) {s : State} (hm : Covers m 0x8600200682) (h1 : Kept m s0 s) :
    Kept m s0 (dropSource src s) := by
  unfold dropSource
  repeat' first
    | with_reducible assumption
    | intro _
    | with_reducible exact hm.of rfl
    | with_reducible apply kept_disqualify
    | with_reducible apply kept_ite

theorem kept_clearInner {m : Nat} {s0 : State} (i : Nat) (inFlight : List (Nat × Nat)) {s : State} (hm : Covers m 0xbe67e806f2) (h1 : Kept m s0 s) :
    Kept m s0 (clearInner i inFlight s) := by
  unfold clearInner
  repeat' first
    | with_reducible assumption
    | (intro hx; clear_value x; revert hx; revert x; intro y hy)
    | intro _
    | (subst x)
    | (extract_lets +onlyGivenNames x; refine kept_cut (m := m) (s0 := s0) (x := x) ?_ ?_)
    | (extract_lets +onlyGivenNames x; clear_value x; revert x; intro y)
    | with_reducible exact hm.of rfl
    | ((with_reducible refine kept_upd_ifiles_resv_rhl_chart_bkb_can_prl (hm.of rfl) ?_ ?_ ?_) <;> first | with_reducible exact id | with_reducible exact kwf_putFile _ _ _ _ | with_reducible exact kwf_kput 0 _ _ _ | exact fun e => (length_modAt _ _ _).trans e | exact fun e => (List.length_map ..).trans e | exact fun _ => rfl | exact kwf_filter 0 _ _ | exact kwf_foldl_kput 0 _ _ | exact kwf_kput 0 _ _ _ | (with_reducible assumption))
    | with_reducible apply kept_setF
    | with_reducible apply kept_dropSource
    | with_reducible apply kept_disableRhl
    | with_reducible apply kept_resetBridge
    | with_reducible apply kept_forgetLinks
    | with_reducible apply kept_resetAnl
    | with_reducible apply kept_abortTrim
    | with_reducible apply kept_ite

theorem kept_afterReset {m : Nat} {s0 : State} (i : Nat) {s : State} (hm : Covers m 0x2) (h1 : Kept m s0 s) :
    Kept m s0 (afterReset i s) := by
  unfold afterReset
  repeat' first
    | with_reducible assumption
    | intro _
    | with_reducible exact hm.of rfl
    | with_reducible apply kept_bumpPartition
    | with_reducible apply kept_setF
    | with_reducible apply kept_ite
    | with_reducible apply kept_forN

theorem kept_resetIsland {m : Nat} {s0 : State} (i : Nat) (inFlight : List (Nat × Nat)) {s : State} (hm : Covers m 0xbfe7e826fe) (h1 : Kept m s0 s) :
    Kept m s0 (resetIsland i inFlight s) := by
  unfold resetIsland
  repeat' first
    | with_reducible assumption
    | intro _
    | with_reducible exact hm.of rfl
    | (with_reducible refine kept_upd_caches (hm.of rfl) ?_; with_reducible assumption)
    | with_reducible apply kept_afterReset
    | with_reducible apply kept_clearCrossings
    | with_reducible apply kept_clearOps
    | with_reducible apply kept_clearRegs
    | with_reducible apply kept_clearInner

theorem kept_quiesce {m : Nat} {s0 : State} (r : Req) (i : Nat) (on : Bool) {s : State} (hm : Covers m 0x200000002) (h1 : Kept m s0 s) :
    Kept m s0 (quiesce r i on s) := by
  unfold quiesce
  repeat' first
    | with_reducible assumption
    | intro _
    | with_reducible exact hm.of rfl
    | (with_reducible refine kept_upd_xings (hm.of rfl) ?_; with_reducible assumption)
    | with_reducible apply kept_setF
    | with_reducible apply kept_ite

theorem kept_execIslandQuiesce {m : Nat} {s0 : State} (r : Req) (isl : Fin 16) (on : Bool) {s : State} (hm : Covers m 0x200000002) (h1 : Kept m s0 s) :
    KeptO m s0 (execIslandQuiesce r isl on s) := by
  unfold execIslandQuiesce
  repeat' first
    | with_reducible assumption
    | intro _
    | with_reducible exact hm.of rfl
    | with_reducible apply kept_quiesce
    | with_reducible apply keptO_next
    | with_reducible apply keptO_fault

theorem kept_execIslandDrained {m : Nat} {s0 : State} (isl : Fin 16) {s : State} (hm : Covers m 0x2) (h1 : Kept m s0 s) :
    KeptO m s0 (execIslandDrained isl s) := by
  unfold execIslandDrained
  repeat' first
    | with_reducible assumption
    | intro _
    | with_reducible exact hm.of rfl
    | with_reducible apply kept_setF
    | with_reducible apply keptO_ite
    | with_reducible apply kept_ite
    | with_reducible apply keptO_next
    | with_reducible apply keptO_fault

theorem kept_holdReset {m : Nat} {s0 : State} (i : Nat) (inFlight : List (Nat × Nat)) {s : State} (hm : Covers m 0xbfe7e826fe) (h1 : Kept m s0 s) :
    Kept m s0 (holdReset i inFlight s) := by
  unfold holdReset
  repeat' first
    | with_reducible assumption
    | (intro hx; clear_value x; revert hx; revert x; intro y hy)
    | intro _
    | (subst x)
    | (extract_lets +onlyGivenNames x; refine kept_cut (m := m) (s0 := s0) (x := x) ?_ ?_)
    | (extract_lets +onlyGivenNames x; clear_value x; revert x; intro y)
    | with_reducible exact hm.of rfl
    | (with_reducible refine kept_upd_quiet (hm.of rfl) ?_; with_reducible assumption)
    | with_reducible apply kept_setF
    | with_reducible apply kept_resetIsland
    | with_reducible apply kept_ite

theorem kept_startReset {m : Nat} {s0 : State} (r : Req) (i : Nat) (inFlight : List (Nat × Nat)) {s : State} (hm : Covers m 0xbfe7e826fe) (h1 : Kept m s0 s) :
    Kept m s0 (startReset r i inFlight s) := by
  unfold startReset
  repeat' first
    | with_reducible assumption
    | intro _
    | with_reducible exact hm.of rfl
    | with_reducible apply kept_holdReset
    | with_reducible apply kept_ite

theorem kept_execIslandReset {m : Nat} {s0 : State} (r : Req) (isl : Fin 16) (ended : Bool) (inFlight : List (Fin 18 × Nat)) {s : State} (hm : Covers m 0xbfe7e826fe) (h1 : Kept m s0 s) :
    KeptO m s0 (execIslandReset r isl ended inFlight s) := by
  unfold execIslandReset
  repeat' first
    | with_reducible assumption
    | intro _
    | with_reducible exact hm.of rfl
    | (with_reducible refine kept_upd_quiet (hm.of rfl) ?_; with_reducible assumption)
    | with_reducible apply kept_setF
    | with_reducible apply kept_startReset
    | with_reducible apply keptO_ite
    | with_reducible apply kept_ite
    | with_reducible apply keptO_next
    | with_reducible apply keptO_fault

end Sys2Proof.Machine
end

