-- ==== Sys2Proof/Laws/KeptFaults.lean ====
section
/-! SUPPORT. What the operations of Machine/Faults.lean keep (Safety.lean, `Kept`): one lemma each, which cites those of the operations it calls. -/

namespace Sys2Proof.Machine

theorem kept_modColl {m : Nat} {s0 : State} {s : State} (f : Coll → Coll) (hm : Covers m 0x4000000000) (h1 : Kept m s0 s) :
    Kept m s0 (modColl s f) := by
  unfold modColl
  repeat' first
    | with_reducible assumption
    | intro _
    | with_reducible exact hm.of rfl
    | (with_reducible refine kept_upd_coll (hm.of rfl) ?_; with_reducible assumption)

theorem kept_showFifo {m : Nat} {s0 : State} {s : State} (hm : Covers m 0x2) (h1 : Kept m s0 s) :
    Kept m s0 (showFifo s) := by
  unfold showFifo
  repeat' first
    | with_reducible assumption
    | intro _
    | (extract_lets +onlyGivenNames x; clear_value x; revert x; intro y)
    | with_reducible exact hm.of rfl
    | with_reducible apply kept_setF
    | split

theorem kept_checkHead {m : Nat} {s0 : State} (bad : Bool) {s : State} (hm : Covers m 0x4000000002) (h1 : Kept m s0 s) :
    Kept m s0 (checkHead bad s) := by
  unfold checkHead
  repeat' first
    | with_reducible assumption
    | intro _
    | (extract_lets +onlyGivenNames x; clear_value x; revert x; intro y)
    | with_reducible exact hm.of rfl
    | with_reducible apply kept_showFifo
    | with_reducible apply kept_evtFault
    | with_reducible apply kept_modColl
    | with_reducible apply kept_ite
    | split

theorem kept_fireFirq {m : Nat} {s0 : State} (second : Bool) {s : State} (hm : Covers m 0x600000482) (h1 : Kept m s0 s) :
    Kept m s0 (fireFirq second s) := by
  unfold fireFirq
  repeat' first
    | with_reducible assumption
    | intro _
    | (extract_lets +onlyGivenNames x; clear_value x; revert x; intro y)
    | with_reducible exact hm.of rfl
    | with_reducible apply kept_sendTarget
    | with_reducible apply kept_setF
    | with_reducible apply kept_ite

theorem kept_storedFirq {m : Nat} {s0 : State} (cls : Nat) (second : Bool) {s : State} (hm : Covers m 0x600000482) (h1 : Kept m s0 s) :
    Kept m s0 (storedFirq cls second s) := by
  unfold storedFirq
  repeat' first
    | with_reducible assumption
    | intro _
    | with_reducible exact hm.of rfl
    | with_reducible apply kept_fireFirq
    | with_reducible apply kept_ite

theorem kept_armFirq {m : Nat} {s0 : State} (second : Bool) {s : State} (hm : Covers m 0x600000482) (h1 : Kept m s0 s) :
    Kept m s0 (armFirq second s) := by
  unfold armFirq
  repeat' first
    | with_reducible assumption
    | (intro hx; clear_value x; revert hx; revert x; intro y hy)
    | intro _
    | (subst x)
    | (extract_lets +onlyGivenNames x; refine kept_cut (m := m) (s0 := s0) (x := x) ?_ ?_)
    | (extract_lets +onlyGivenNames x; clear_value x; revert x; intro y)
    | with_reducible exact hm.of rfl
    | with_reducible apply kept_setF
    | with_reducible apply kept_fireFirq
    | with_reducible apply kept_ite

theorem kept_appendEntry {m : Nat} {s0 : State} (e : FifoEntry) {s : State} (hm : Covers m 0x4600000482) (h1 : Kept m s0 s) :
    Kept m s0 (appendEntry e s) := by
  unfold appendEntry
  repeat' first
    | with_reducible assumption
    | intro _
    | with_reducible exact hm.of rfl
    | with_reducible apply kept_storedFirq
    | with_reducible apply kept_showFifo
    | with_reducible apply kept_modColl

theorem kept_storeEntry {m : Nat} {s0 : State} (e : FifoEntry) {s : State} (hm : Covers m 0x4600000482) (h1 : Kept m s0 s) :
    Kept m s0 (storeEntry e s) := by
  unfold storeEntry
  repeat' first
    | with_reducible assumption
    | (intro hx; clear_value x; revert hx; revert x; intro y hy)
    | intro _
    | (subst x)
    | (extract_lets +onlyGivenNames x; refine kept_cut (m := m) (s0 := s0) (x := x) ?_ ?_)
    | (extract_lets +onlyGivenNames x; clear_value x; revert x; intro y)
    | with_reducible exact hm.of rfl
    | with_reducible apply kept_appendEntry
    | with_reducible apply kept_modColl
    | with_reducible apply kept_evtFault
    | with_reducible apply kept_incF
    | with_reducible apply kept_ite

theorem kept_escalate {m : Nat} {s0 : State} (r : Report) (k : Nat) {s : State} (hm : Covers m 0x4000000402) (h1 : Kept m s0 s) :
    Kept m s0 (escalate r k s) := by
  unfold escalate
  repeat' first
    | with_reducible assumption
    | (intro hx; clear_value x; revert hx; revert x; intro y hy)
    | intro _
    | (subst x)
    | (extract_lets +onlyGivenNames x; refine kept_cut (m := m) (s0 := s0) (x := x) ?_ ?_)
    | (extract_lets +onlyGivenNames x; clear_value x; revert x; intro y)
    | with_reducible exact hm.of rfl
    | with_reducible apply kept_modColl
    | with_reducible apply kept_raiseVia
    | with_reducible apply kept_incF
    | with_reducible apply kept_evtFault
    | with_reducible apply kept_ite

theorem kept_forgetRule {m : Nat} {s0 : State} (k : Nat) {s : State} (hm : Covers m 0x4000000002) (h1 : Kept m s0 s) :
    Kept m s0 (forgetRule k s) := by
  unfold forgetRule
  repeat' first
    | with_reducible assumption
    | intro _
    | with_reducible exact hm.of rfl
    | with_reducible apply kept_setF
    | with_reducible apply kept_modColl

theorem kept_sysBoundary {m : Nat} {s0 : State} {s : State} (hm : Covers m 0x400000000e) (h1 : Kept m s0 s) :
    Kept m s0 (sysBoundary s) := by
  unfold sysBoundary
  repeat' first
    | with_reducible assumption
    | intro _
    | with_reducible exact hm.of rfl
    | with_reducible apply kept_forgetRule
    | with_reducible apply kept_takeLive
    | with_reducible apply kept_ite
    | with_reducible apply kept_forN

theorem kept_raiseCause {m : Nat} {s0 : State} (c : Nat) {s : State} (hm : Covers m 0x402) (h1 : Kept m s0 s) :
    Kept m s0 (raiseCause c s) := by
  unfold raiseCause
  repeat' first
    | with_reducible assumption
    | intro _
    | with_reducible exact hm.of rfl
    | with_reducible apply kept_raiseVia

theorem kept_enterSafe {m : Nat} {s0 : State} (cause : Nat) {s : State} (hm : Covers m 0x6080404a2) (h1 : Kept m s0 s) :
    Kept m s0 (enterSafe cause s) := by
  unfold enterSafe
  repeat' first
    | with_reducible assumption
    | (intro hx; clear_value x; revert hx; revert x; intro y hy)
    | (intro (hw : ∀ t, Kept m s0 t → Kept m s0 (w t)); clear_value w; revert hw; revert w; intro v hv)
    | (intro (hw : ∀ a t, Kept m s0 t → Kept m s0 (w a t)); clear_value w; revert hw; revert w; intro v hv)
    | (intro (hw : ∀ a, Kept m s0 (w a)); clear_value w; revert hw; revert w; intro v hv)
    | intro _
    | (subst x)
    | (extract_lets +onlyGivenNames x; refine kept_cut (m := m) (s0 := s0) (x := x) ?_ ?_)
    | (subst w)
    | (extract_lets +onlyGivenNames w; refine kept_cutF1 (m := m) (s0 := s0) (x := w) ?_ ?_)
    | (extract_lets +onlyGivenNames w; refine kept_cutF2 (m := m) (s0 := s0) (x := w) ?_ ?_)
    | (extract_lets +onlyGivenNames w; refine kept_cutF0 (m := m) (s0 := s0) (x := w) ?_ ?_)
    | (extract_lets +onlyGivenNames x; clear_value x; revert x; intro y)
    | with_reducible apply hv
    | with_reducible exact hm.of rfl
    | with_reducible apply kept_evtFault
    | with_reducible apply kept_setF
    | with_reducible apply kept_forceOff
    | with_reducible apply kept_shaltTriad
    | with_reducible apply kept_silenceWd
    | with_reducible apply kept_forN

theorem kept_pickReport {m : Nat} {s0 : State} (via : Nat) {s : State} (hm : Covers m 0x200000400) (h1 : Kept m s0 s) :
    Kept m s0 (pickReport via s) := by
  unfold pickReport
  repeat' first
    | with_reducible assumption
    | intro _
    | with_reducible exact hm.of rfl
    | (with_reducible refine kept_upd_waiting_xings (hm.of rfl) ?_; with_reducible assumption)
    | with_reducible apply kept_ite

theorem kept_takeReport {m : Nat} {s0 : State} (via : Nat) (r : Report) {a3 : State} (hm : Covers m 0x146080404a2) (h1 : Kept m s0 a3) :
    Kept m s0 (takeReport via r a3) := by
  unfold takeReport
  repeat' first
    | with_reducible assumption
    | (intro hx; clear_value x; revert hx; revert x; intro y hy)
    | intro _
    | (subst x)
    | (extract_lets +onlyGivenNames x; refine kept_cut (m := m) (s0 := s0) (x := x) ?_ ?_)
    | (extract_lets +onlyGivenNames x; clear_value x; revert x; intro y)
    | with_reducible exact hm.of rfl
    | with_reducible apply kept_pickReport
    | with_reducible apply kept_incF
    | with_reducible apply kept_setF
    | with_reducible apply kept_matchReport
    | with_reducible apply kept_escalate
    | with_reducible apply kept_storeEntry
    | with_reducible apply kept_startFlush
    | with_reducible apply kept_enterSafe
    | with_reducible apply kept_ite
    | with_reducible apply kept_forN

theorem kept_writeMsafe {m : Nat} {s0 : State} (r : Req) (key : Nat) {s : State} (hm : Covers m 0x402) (h1 : Kept m s0 s) :
    Kept m s0 (writeMsafe r key s) := by
  unfold writeMsafe
  repeat' first
    | with_reducible assumption
    | intro _
    | with_reducible exact hm.of rfl
    | with_reducible apply kept_raiseCause
    | with_reducible apply kept_ite

theorem kept_execFaultReportTake {m : Nat} {s0 : State} (ready : BitVec 16) (headBad : Bool) (configBad : Bool) {s : State} (hm : Covers m 0x146080404ae) (h1 : Kept m s0 s) :
    KeptO m s0 (execFaultReportTake ready headBad configBad s) := by
  unfold execFaultReportTake
  repeat' first
    | with_reducible assumption
    | (intro hx; clear_value x; revert hx; revert x; intro y hy)
    | intro _
    | (subst x)
    | (extract_lets +onlyGivenNames x; refine kept_cut (m := m) (s0 := s0) (x := x) ?_ ?_)
    | (extract_lets +onlyGivenNames x; clear_value x; revert x; intro y)
    | with_reducible exact hm.of rfl
    | with_reducible apply kept_checkHead
    | with_reducible apply kept_offerReports
    | with_reducible apply kept_sysBoundary
    | with_reducible apply kept_raiseCause
    | with_reducible apply kept_takeReport
    | with_reducible apply keptO_ite
    | with_reducible apply kept_ite
    | with_reducible apply keptO_next
    | with_reducible apply keptO_fault
    | split

theorem kept_popFifo {m : Nat} {s0 : State} {s : State} (hm : Covers m 0x4000000002) (h1 : Kept m s0 s) :
    Kept m s0 (popFifo s) := by
  unfold popFifo
  repeat' first
    | with_reducible assumption
    | intro _
    | with_reducible exact hm.of rfl
    | with_reducible apply kept_showFifo
    | with_reducible apply kept_modColl

theorem kept_execEfpop {m : Nat} {s0 : State} (_r : Req) (headBad : Bool) {s : State} (hm : Covers m 0x4000000002) (h1 : Kept m s0 s) :
    KeptO m s0 (execEfpop _r headBad s) := by
  unfold execEfpop
  repeat' first
    | with_reducible assumption
    | intro _
    | with_reducible exact hm.of rfl
    | with_reducible apply kept_checkHead
    | with_reducible apply kept_popFifo
    | with_reducible apply keptO_next
    | with_reducible apply keptO_fault

theorem kept_execFirqArm {m : Nat} {s0 : State} (_r : Req) (second : Bool) {s : State} (hm : Covers m 0x600000482) (h1 : Kept m s0 s) :
    KeptO m s0 (execFirqArm _r second s) := by
  unfold execFirqArm
  repeat' first
    | with_reducible assumption
    | intro _
    | with_reducible exact hm.of rfl
    | with_reducible apply kept_armFirq
    | with_reducible apply keptO_next
    | with_reducible apply keptO_fault

theorem kept_execMsafeWrite {m : Nat} {s0 : State} (r : Req) (key : BitVec 16) {s : State} (hm : Covers m 0x402) (h1 : Kept m s0 s) :
    KeptO m s0 (execMsafeWrite r key s) := by
  unfold execMsafeWrite
  repeat' first
    | with_reducible assumption
    | intro _
    | with_reducible exact hm.of rfl
    | with_reducible apply kept_writeMsafe
    | with_reducible apply keptO_next
    | with_reducible apply keptO_fault

theorem kept_execSupervisorCheck {m : Nat} {s0 : State} (pass : Bool) {s : State} (hm : Covers m 0x4000000402) (h1 : Kept m s0 s) :
    KeptO m s0 (execSupervisorCheck pass s) := by
  unfold execSupervisorCheck
  repeat' first
    | with_reducible assumption
    | intro _
    | with_reducible exact hm.of rfl
    | with_reducible apply kept_modColl
    | with_reducible apply kept_raiseCause
    | with_reducible apply keptO_ite
    | with_reducible apply kept_ite
    | with_reducible apply keptO_next
    | with_reducible apply keptO_fault

theorem kept_execLogicSupplyOut {m : Nat} {s0 : State} {s : State} (hm : Covers m 0x402) (h1 : Kept m s0 s) :
    KeptO m s0 (execLogicSupplyOut s) := by
  unfold execLogicSupplyOut
  repeat' first
    | with_reducible assumption
    | intro _
    | with_reducible exact hm.of rfl
    | with_reducible apply kept_raiseCause
    | with_reducible apply keptO_next
    | with_reducible apply keptO_fault

end Sys2Proof.Machine
end

