-- ==== Sys2Proof/Laws/KeptPair.lean ====
section
/-! SUPPORT. What the operations of Machine/Pair.lean keep (Safety.lean, `Kept`): one lemma each, which cites those of the operations it calls. -/

namespace Sys2Proof.Machine

theorem kept_sendPair {m : Nat} {s0 : State} (n : Nat) (type : Nat) (payload : List Byte) {s : State} (hm : Covers m 0x8000000022) (h1 : Kept m s0 s) :
    Kept m s0 (sendPair n type payload s) := by
  unfold sendPair
  repeat' first
    | with_reducible assumption
    | (intro hx; clear_value x; revert hx; revert x; intro y hy)
    | intro _
    | (subst x)
    | (extract_lets +onlyGivenNames x; refine kept_cut (m := m) (s0 := s0) (x := x) ?_ ?_)
    | (extract_lets +onlyGivenNames x; clear_value x; revert x; intro y)
    | with_reducible exact hm.of rfl
    | with_reducible apply kept_emit
    | with_reducible apply kept_incF
    | with_reducible apply kept_modPrl
    | with_reducible apply kept_ite

theorem kept_checkReady {m : Nat} {s0 : State} {s : State} (hm : Covers m 0x600000482) (h1 : Kept m s0 s) :
    Kept m s0 (checkReady s) := by
  unfold checkReady
  repeat' first
    | with_reducible assumption
    | intro _
    | with_reducible exact hm.of rfl
    | with_reducible apply kept_evtPrl
    | with_reducible apply kept_setF
    | with_reducible apply kept_ite

theorem kept_countSeq {m : Nat} {s0 : State} (n : Nat) (seq : Nat) {s : State} (hm : Covers m 0x8600000482) (h1 : Kept m s0 s) :
    Kept m s0 (countSeq n seq s) := by
  unfold countSeq
  repeat' first
    | with_reducible assumption
    | intro _
    | (extract_lets +onlyGivenNames x; clear_value x; revert x; intro y)
    | with_reducible exact hm.of rfl
    | with_reducible apply kept_modPrl
    | with_reducible apply kept_clearReady
    | with_reducible apply kept_addF
    | with_reducible apply kept_ite

theorem kept_pairReceive {m : Nat} {s0 : State} (n : Nat) (f : List Byte) {s : State} (hm : Covers m 0x8600000482) (h1 : Kept m s0 s) :
    Kept m s0 (pairReceive n f s).1 := by
  unfold pairReceive
  show Kept1 m s0 _
  repeat' first
    | with_reducible assumption
    | intro _
    | with_reducible exact hm.of rfl
    | with_reducible apply kept_incF
    | with_reducible apply kept_countSeq
    | with_reducible apply kept1_ite
    | with_reducible apply kept_ite
    | with_reducible apply kept1_mk
    | with_reducible apply kept1_of
    | split

theorem kept_setBound {m : Nat} {s0 : State} (cls : Nat) (e : Nat) {s : State} (hm : Covers m 0x2) (h1 : Kept m s0 s) :
    Kept m s0 (setBound cls e s) := by
  unfold setBound
  repeat' first
    | with_reducible assumption
    | (intro hx; clear_value x; revert hx; revert x; intro y hy)
    | intro _
    | (subst x)
    | (extract_lets +onlyGivenNames x; refine kept_cut (m := m) (s0 := s0) (x := x) ?_ ?_)
    | (extract_lets +onlyGivenNames x; clear_value x; revert x; intro y)
    | with_reducible exact hm.of rfl
    | with_reducible apply kept_setF
    | with_reducible apply kept_ite
    | with_reducible apply kept_foldl
    | with_reducible apply kept_foldl1
    | with_reducible apply kept_forN

theorem kept_setRole {m : Nat} {s0 : State} (r : Nat) {s : State} (hm : Covers m 0x600000482) (h1 : Kept m s0 s) :
    Kept m s0 (setRole r s) := by
  unfold setRole
  repeat' first
    | with_reducible assumption
    | intro _
    | with_reducible exact hm.of rfl
    | with_reducible apply kept_evtPrl
    | with_reducible apply kept_setB
    | with_reducible apply kept_setF
    | with_reducible apply kept_ite

theorem kept_loseTime {m : Nat} {s0 : State} {s : State} (hm : Covers m 0x8600200682) (h1 : Kept m s0 s) :
    Kept m s0 (loseTime s) := by
  unfold loseTime
  repeat' first
    | with_reducible assumption
    | (intro hx; clear_value x; revert hx; revert x; intro y hy)
    | intro _
    | (subst x)
    | (extract_lets +onlyGivenNames x; refine kept_cut (m := m) (s0 := s0) (x := x) ?_ ?_)
    | (extract_lets +onlyGivenNames x; clear_value x; revert x; intro y)
    | with_reducible exact hm.of rfl
    | with_reducible apply kept_modPrl
    | with_reducible apply kept_disqualify
    | with_reducible apply kept_setF
    | with_reducible apply kept_ite

theorem kept_setPready {m : Nat} {s0 : State} (b : Bool) {s : State} (hm : Covers m 0x600000482) (h1 : Kept m s0 s) :
    Kept m s0 (setPready b s) := by
  unfold setPready
  repeat' first
    | with_reducible assumption
    | intro _
    | with_reducible exact hm.of rfl
    | with_reducible apply kept_evtPrl
    | with_reducible apply kept_setB
    | with_reducible apply kept_ite

theorem kept_leaveRole {m : Nat} {s0 : State} {s : State} (hm : Covers m 0x8600800482) (h1 : Kept m s0 s) :
    Kept m s0 (leaveRole s) := by
  unfold leaveRole
  repeat' first
    | with_reducible assumption
    | (intro hx; clear_value x; revert hx; revert x; intro y hy)
    | intro _
    | (subst x)
    | (extract_lets +onlyGivenNames x; refine kept_cut (m := m) (s0 := s0) (x := x) ?_ ?_)
    | (extract_lets +onlyGivenNames x; clear_value x; revert x; intro y)
    | with_reducible exact hm.of rfl
    | with_reducible apply kept_setF
    | with_reducible apply kept_modChart
    | with_reducible apply kept_setPready
    | with_reducible apply kept_modPrl
    | with_reducible apply kept_forN

theorem kept_dropReady {m : Nat} {s0 : State} {s : State} (hm : Covers m 0x600000482) (h1 : Kept m s0 s) :
    Kept m s0 (dropReady s) := by
  unfold dropReady
  repeat' first
    | with_reducible assumption
    | intro _
    | with_reducible exact hm.of rfl
    | with_reducible apply kept_evtPrl
    | with_reducible apply kept_setF
    | with_reducible apply kept_ite

theorem kept_enterRole {m : Nat} {s0 : State} (r : Nat) {s : State} (hm : Covers m 0x8600a00682) (h1 : Kept m s0 s) :
    Kept m s0 (enterRole r s) := by
  unfold enterRole
  repeat' first
    | with_reducible assumption
    | (intro hx; clear_value x; revert hx; revert x; intro y hy)
    | intro _
    | (subst x)
    | (extract_lets +onlyGivenNames x; refine kept_cut (m := m) (s0 := s0) (x := x) ?_ ?_)
    | (extract_lets +onlyGivenNames x; clear_value x; revert x; intro y)
    | with_reducible exact hm.of rfl
    | with_reducible apply kept_setBound
    | with_reducible apply kept_setF
    | with_reducible apply kept_setRole
    | with_reducible apply kept_dropReady
    | with_reducible apply kept_leaveRole
    | with_reducible apply kept_loseTime
    | with_reducible apply kept_ite

theorem kept_promote {m : Nat} {s0 : State} {s : State} (hm : Covers m 0x8600a00682) (h1 : Kept m s0 s) :
    Kept m s0 (promote s) := by
  unfold promote
  repeat' first
    | with_reducible assumption
    | (intro hx; clear_value x; revert hx; revert x; intro y hy)
    | intro _
    | (subst x)
    | (extract_lets +onlyGivenNames x; refine kept_cut (m := m) (s0 := s0) (x := x) ?_ ?_)
    | (extract_lets +onlyGivenNames x; clear_value x; revert x; intro y)
    | with_reducible exact hm.of rfl
    | with_reducible apply kept_enterRole
    | with_reducible apply kept_raise
    | with_reducible apply kept_incF
    | with_reducible apply kept_setF
    | with_reducible apply kept_ite

theorem kept_setPartner {m : Nat} {s0 : State} (b : Bool) {s : State} (hm : Covers m 0x600400482) (h1 : Kept m s0 s) :
    Kept m s0 (setPartner b s) := by
  unfold setPartner
  repeat' first
    | with_reducible assumption
    | (intro hx; clear_value x; revert hx; revert x; intro y hy)
    | intro _
    | (subst x)
    | (extract_lets +onlyGivenNames x; refine kept_cut (m := m) (s0 := s0) (x := x) ?_ ?_)
    | (extract_lets +onlyGivenNames x; clear_value x; revert x; intro y)
    | with_reducible exact hm.of rfl
    | with_reducible apply kept_modRhl
    | with_reducible apply kept_evtPrl
    | with_reducible apply kept_setB
    | with_reducible apply kept_ite

theorem kept_startCatchup {m : Nat} {s0 : State} {s : State} (hm : Covers m 0x800002) (h1 : Kept m s0 s) :
    Kept m s0 (startCatchup s) := by
  unfold startCatchup
  repeat' first
    | with_reducible assumption
    | intro _
    | with_reducible exact hm.of rfl
    | with_reducible apply kept_setF
    | with_reducible apply kept_modChart

theorem kept_followPartner {m : Nat} {s0 : State} (off : Int) {s : State} (hm : Covers m 0x8600000482) (h1 : Kept m s0 s) :
    Kept m s0 (followPartner off s) := by
  unfold followPartner
  repeat' first
    | with_reducible assumption
    | (intro hx; clear_value x; revert hx; revert x; intro y hy)
    | intro _
    | (subst x)
    | (extract_lets +onlyGivenNames x; refine kept_cut (m := m) (s0 := s0) (x := x) ?_ ?_)
    | (extract_lets +onlyGivenNames x; clear_value x; revert x; intro y)
    | with_reducible exact hm.of rfl
    | with_reducible apply kept_modPrl
    | with_reducible apply kept_setRate
    | with_reducible apply kept_ite

theorem kept_partnerOffset {m : Nat} {s0 : State} (off : Int) (delay : Int) (sync : Bool) {a4 : State} (hm : Covers m 0x8600200682) (h1 : Kept m s0 a4) :
    Kept m s0 (partnerOffset off delay sync a4) := by
  unfold partnerOffset
  repeat' first
    | with_reducible assumption
    | (intro hx; clear_value x; revert hx; revert x; intro y hy)
    | intro _
    | (subst x)
    | (extract_lets +onlyGivenNames x; refine kept_cut (m := m) (s0 := s0) (x := x) ?_ ?_)
    | (extract_lets +onlyGivenNames x; clear_value x; revert x; intro y)
    | with_reducible exact hm.of rfl
    | with_reducible apply kept_reportOffset
    | with_reducible apply kept_setF
    | with_reducible apply kept_modPrl
    | with_reducible apply kept_loseTime
    | with_reducible apply kept_followPartner
    | with_reducible apply kept_qualify
    | with_reducible apply kept_ite

theorem kept_timeFrom {m : Nat} {s0 : State} (sof : Int) (p : List Byte) {s : State} (hm : Covers m 0x8600200682) (h1 : Kept m s0 s) :
    Kept m s0 (timeFrom sof p s) := by
  unfold timeFrom
  repeat' first
    | with_reducible assumption
    | intro _
    | (extract_lets +onlyGivenNames x; clear_value x; revert x; intro y)
    | with_reducible exact hm.of rfl
    | with_reducible apply kept_loseTime
    | with_reducible apply kept_partnerOffset
    | with_reducible apply kept_ite

theorem kept_sendHeartbeat {m : Nat} {s0 : State} {s : State} (hm : Covers m 0x8000000022) (h1 : Kept m s0 s) :
    Kept m s0 (sendHeartbeat s) := by
  unfold sendHeartbeat
  repeat' first
    | with_reducible assumption
    | (intro hx; clear_value x; revert hx; revert x; intro y hy)
    | intro _
    | (subst x)
    | (extract_lets +onlyGivenNames x; refine kept_cut (m := m) (s0 := s0) (x := x) ?_ ?_)
    | (extract_lets +onlyGivenNames x; clear_value x; revert x; intro y)
    | with_reducible exact hm.of rfl
    | with_reducible apply kept_sendPair
    | with_reducible apply kept_modPrl
    | with_reducible apply kept_ite

theorem kept_dualPrimary {m : Nat} {s0 : State} (flags : Nat) (ep : Nat) {s : State} (hm : Covers m 0x8600000492) (h1 : Kept m s0 s) :
    Kept m s0 (dualPrimary flags ep s) := by
  unfold dualPrimary
  repeat' first
    | with_reducible assumption
    | (intro hx; clear_value x; revert hx; revert x; intro y hy)
    | intro _
    | (subst x)
    | (extract_lets +onlyGivenNames x; refine kept_cut (m := m) (s0 := s0) (x := x) ?_ ?_)
    | (extract_lets +onlyGivenNames x; clear_value x; revert x; intro y)
    | with_reducible exact hm.of rfl
    | with_reducible apply kept_raise
    | with_reducible apply kept_evtPrl
    | with_reducible apply kept_incF
    | with_reducible apply kept_modPrl
    | with_reducible apply kept_useFree
    | with_reducible apply kept_ite

theorem kept_hbRole {m : Nat} {s0 : State} (r : Nat) (flags : Nat) (ep : Nat) (entered : Bool) {s : State} (hm : Covers m 0x8600a00692) (h1 : Kept m s0 s) :
    Kept m s0 (hbRole r flags ep entered s) := by
  unfold hbRole
  repeat' first
    | with_reducible assumption
    | (intro hx; clear_value x; revert hx; revert x; intro y hy)
    | intro _
    | (subst x)
    | (extract_lets +onlyGivenNames x; refine kept_cut (m := m) (s0 := s0) (x := x) ?_ ?_)
    | (extract_lets +onlyGivenNames x; clear_value x; revert x; intro y)
    | with_reducible exact hm.of rfl
    | with_reducible apply kept_enterRole
    | with_reducible apply kept_modPrl
    | with_reducible apply kept_setPready
    | with_reducible apply kept_startCatchup
    | with_reducible apply kept_dualPrimary
    | with_reducible apply kept_clearReady
    | with_reducible apply kept_ite

theorem kept_takeHeartbeat {m : Nat} {s0 : State} (sof : Nat) (ep : Nat) (p : List Byte) {s : State} (hm : Covers m 0x8600e00692) (h1 : Kept m s0 s) :
    Kept m s0 (takeHeartbeat sof ep p s) := by
  unfold takeHeartbeat
  repeat' first
    | with_reducible assumption
    | (intro hx; clear_value x; revert hx; revert x; intro y hy)
    | intro _
    | (subst x)
    | (extract_lets +onlyGivenNames x; refine kept_cut (m := m) (s0 := s0) (x := x) ?_ ?_)
    | (extract_lets +onlyGivenNames x; clear_value x; revert x; intro y)
    | with_reducible exact hm.of rfl
    | with_reducible apply kept_setF
    | with_reducible apply kept_timeFrom
    | with_reducible apply kept_modPrl
    | with_reducible apply kept_setPartner
    | with_reducible apply kept_hbRole
    | with_reducible apply kept_ite

theorem kept_receiveHeartbeat {m : Nat} {s0 : State} (n : Nat) (sof : Nat) (f : List Byte) {s : State} (hm : Covers m 0x8600e00692) (h1 : Kept m s0 s) :
    Kept m s0 (receiveHeartbeat n sof f s) := by
  unfold receiveHeartbeat
  repeat' first
    | with_reducible assumption
    | (intro hx; clear_value x; revert hx; revert x; intro y hy)
    | (intro hz; clear_value z; revert hz; revert z; intro y hy)
    | intro _
    | (subst x)
    | (subst z)
    | (extract_lets +onlyGivenNames x; refine kept_cut (m := m) (s0 := s0) (x := x) ?_ ?_)
    | (extract_lets +onlyGivenNames z; refine kept_cut (m := m) (s0 := s0) (x := z.1) ?_ ?_)
    | (extract_lets +onlyGivenNames x; clear_value x; revert x; intro y)
    | with_reducible exact hm.of rfl
    | with_reducible apply kept_pairReceive
    | with_reducible apply kept_takeHeartbeat
    | with_reducible apply kept_ite
    | (with_reducible refine Kept1.of_eq (kept_pairReceive _ _ (hm.of rfl) ?_) (by assumption))
    | (with_reducible refine Kept1.of_eq (kept_pairReceive _ _ _ (hm.of rfl) ?_) (by assumption))
    | (with_reducible refine Kept1.of_eq (kept_pairReceive _ (hm.of rfl) ?_) (by assumption))
    | split

theorem kept_refuseSwap {m : Nat} {s0 : State} {s : State} (hm : Covers m 0x8600000482) (h1 : Kept m s0 s) :
    Kept m s0 (refuseSwap s) := by
  unfold refuseSwap
  repeat' first
    | with_reducible assumption
    | intro _
    | with_reducible exact hm.of rfl
    | with_reducible apply kept_raise
    | with_reducible apply kept_evtPrl
    | with_reducible apply kept_modPrl

theorem kept_swapCycle {m : Nat} {s0 : State} {s : State} (hm : Covers m 0x8600000482) (h1 : Kept m s0 s) :
    Kept m s0 (swapCycle s) := by
  unfold swapCycle
  repeat' first
    | with_reducible assumption
    | (intro (hw : ∀ t, Kept m s0 t → Kept m s0 (w t)); clear_value w; revert hw; revert w; intro v hv)
    | (intro (hw : ∀ a t, Kept m s0 t → Kept m s0 (w a t)); clear_value w; revert hw; revert w; intro v hv)
    | (intro (hw : ∀ a, Kept m s0 (w a)); clear_value w; revert hw; revert w; intro v hv)
    | intro _
    | (subst w)
    | (extract_lets +onlyGivenNames w; refine kept_cutF1 (m := m) (s0 := s0) (x := w) ?_ ?_)
    | (extract_lets +onlyGivenNames w; refine kept_cutF2 (m := m) (s0 := s0) (x := w) ?_ ?_)
    | (extract_lets +onlyGivenNames w; refine kept_cutF0 (m := m) (s0 := s0) (x := w) ?_ ?_)
    | (extract_lets +onlyGivenNames x; clear_value x; revert x; intro y)
    | with_reducible apply hv
    | with_reducible exact hm.of rfl
    | with_reducible apply kept_modPrl
    | with_reducible apply kept_refuseSwap
    | with_reducible apply kept_ite

theorem kept_missCycle {m : Nat} {s0 : State} {s : State} (hm : Covers m 0x8600e00682) (h1 : Kept m s0 s) :
    Kept m s0 (missCycle s) := by
  unfold missCycle
  repeat' first
    | with_reducible assumption
    | (intro hx; clear_value x; revert hx; revert x; intro y hy)
    | intro _
    | (subst x)
    | (extract_lets +onlyGivenNames x; refine kept_cut (m := m) (s0 := s0) (x := x) ?_ ?_)
    | (extract_lets +onlyGivenNames x; clear_value x; revert x; intro y)
    | with_reducible exact hm.of rfl
    | with_reducible apply kept_setPartner
    | with_reducible apply kept_incF
    | with_reducible apply kept_modPrl
    | with_reducible apply kept_loseTime
    | with_reducible apply kept_raise
    | with_reducible apply kept_promote
    | with_reducible apply kept_ite

theorem kept_pairCycle {m : Nat} {s0 : State} {a1 : State} (hm : Covers m 0x8600e00682) (h1 : Kept m s0 a1) :
    Kept m s0 (pairCycle a1) := by
  unfold pairCycle
  repeat' first
    | with_reducible assumption
    | (intro hx; clear_value x; revert hx; revert x; intro y hy)
    | intro _
    | (subst x)
    | (extract_lets +onlyGivenNames x; refine kept_cut (m := m) (s0 := s0) (x := x) ?_ ?_)
    | (extract_lets +onlyGivenNames x; clear_value x; revert x; intro y)
    | with_reducible exact hm.of rfl
    | with_reducible apply kept_missCycle
    | with_reducible apply kept_modPrl
    | with_reducible apply kept_modMer
    | with_reducible apply kept_setF
    | with_reducible apply kept_enterRole
    | with_reducible apply kept_checkReady
    | with_reducible apply kept_swapCycle
    | with_reducible apply kept_ite

theorem kept_listenEnds {m : Nat} {s0 : State} {s : State} (hm : Covers m 0x8600a00682) (h1 : Kept m s0 s) :
    Kept m s0 (listenEnds s) := by
  unfold listenEnds
  repeat' first
    | with_reducible assumption
    | intro _
    | with_reducible exact hm.of rfl
    | with_reducible apply kept_enterRole
    | with_reducible apply kept_ite

theorem kept_enablePair {m : Nat} {s0 : State} (en : Bool) {s : State} (hm : Covers m 0x8600e00682) (h1 : Kept m s0 s) :
    Kept m s0 (enablePair en s) := by
  unfold enablePair
  repeat' first
    | with_reducible assumption
    | (intro hx; clear_value x; revert hx; revert x; intro y hy)
    | intro _
    | (subst x)
    | (extract_lets +onlyGivenNames x; refine kept_cut (m := m) (s0 := s0) (x := x) ?_ ?_)
    | (extract_lets +onlyGivenNames x; clear_value x; revert x; intro y)
    | with_reducible exact hm.of rfl
    | with_reducible apply kept_setB
    | with_reducible apply kept_modPrl
    | with_reducible apply kept_setRole
    | with_reducible apply kept_setPartner
    | with_reducible apply kept_dropReady
    | with_reducible apply kept_leaveRole
    | with_reducible apply kept_loseTime
    | with_reducible apply kept_ite

theorem kept_requestSwap {m : Nat} {s0 : State} (r : Req) {s : State} (hm : Covers m 0x8600000482) (h1 : Kept m s0 s) :
    Kept m s0 (requestSwap r s) := by
  unfold requestSwap
  repeat' first
    | with_reducible assumption
    | intro _
    | with_reducible exact hm.of rfl
    | with_reducible apply kept_modPrl
    | with_reducible apply kept_raise
    | with_reducible apply kept_evtPrl
    | with_reducible apply kept_ite

theorem kept_completeSwap {m : Nat} {s0 : State} {s : State} (hm : Covers m 0x8600a00682) (h1 : Kept m s0 s) :
    Kept m s0 (completeSwap s) := by
  unfold completeSwap
  repeat' first
    | with_reducible assumption
    | intro _
    | with_reducible exact hm.of rfl
    | with_reducible apply kept_raise
    | with_reducible apply kept_incF
    | with_reducible apply kept_enterRole
    | with_reducible apply kept_ite

theorem kept_markAll {m : Nat} {s0 : State} (l : List Nat) {s : State} (hm : Covers m 0x800000) (h1 : Kept m s0 s) :
    Kept m s0 (markAll l s).1 := by
  induction l generalizing s with
  | nil => exact h1
  | cons e r ih =>
    unfold markAll
    show Kept1 m s0 _
    repeat' first
      | with_reducible assumption
      | intro _
      | with_reducible exact hm.of rfl
      | with_reducible apply ih
      | with_reducible apply kept_modChart
      | with_reducible apply kept1_ite
      | with_reducible apply kept_ite
      | with_reducible apply kept1_mk
      | with_reducible apply kept1_of
      | split

theorem kept_catchUp {m : Nat} {s0 : State} {s : State} (hm : Covers m 0x8000800002) (h1 : Kept m s0 s) :
    Kept m s0 (catchUp s) := by
  unfold catchUp
  repeat' first
    | with_reducible assumption
    | (intro hx; clear_value x; revert hx; revert x; intro y hy)
    | (intro hz; clear_value z; revert hz; revert z; intro y hy)
    | intro _
    | (subst x)
    | (subst z)
    | (extract_lets +onlyGivenNames x; refine kept_cut (m := m) (s0 := s0) (x := x) ?_ ?_)
    | (extract_lets +onlyGivenNames z; refine kept_cut (m := m) (s0 := s0) (x := z.1) ?_ ?_)
    | (extract_lets +onlyGivenNames x; clear_value x; revert x; intro y)
    | with_reducible exact hm.of rfl
    | with_reducible apply kept_markAll
    | with_reducible apply kept_modChart
    | with_reducible apply kept_modPrl
    | with_reducible apply kept_setF
    | (with_reducible refine Kept1.of_eq (kept_markAll _ _ (hm.of rfl) ?_) (by assumption))
    | (with_reducible refine Kept1.of_eq (kept_markAll _ _ _ (hm.of rfl) ?_) (by assumption))
    | (with_reducible refine Kept1.of_eq (kept_markAll _ (hm.of rfl) ?_) (by assumption))
    | split

theorem kept_sendMirror {m : Nat} {s0 : State} (n : Nat) (type : Nat) (p : List Byte) {s : State} (hm : Covers m 0x8000000022) (h1 : Kept m s0 s) :
    Kept m s0 (sendMirror n type p s) := by
  unfold sendMirror
  repeat' first
    | with_reducible assumption
    | intro _
    | with_reducible exact hm.of rfl
    | with_reducible apply kept_modPrl
    | with_reducible apply kept_sendPair

theorem kept_sendMarks {m : Nat} {s0 : State} (n : Nat) {s : State} (hm : Covers m 0x818082fc32) (h1 : Kept m s0 s) :
    Kept m s0 (sendMarks n s) := by
  induction n generalizing s with
  | zero => exact h1
  | succ n ih =>
    unfold sendMarks
    repeat' first
      | with_reducible assumption
      | (intro hx; clear_value x; revert hx; revert x; intro y hy)
      | intro _
      | (subst x)
      | (extract_lets +onlyGivenNames x; refine kept_cut (m := m) (s0 := s0) (x := x) ?_ ?_)
      | (extract_lets +onlyGivenNames x; clear_value x; revert x; intro y)
      | with_reducible exact hm.of rfl
      | with_reducible apply ih
      | with_reducible apply kept_seeEntry
      | with_reducible apply kept_sendMirror
      | with_reducible apply kept_modChart
      | with_reducible apply kept_ite
      | with_reducible apply kept_foldl
      | with_reducible apply kept_foldl1
      | split

theorem kept_sendBlock {m : Nat} {s0 : State} (b : Nat) (n : Nat) {s : State} (hm : Covers m 0x818002fc32) (h1 : Kept m s0 s) :
    Kept m s0 (sendBlock b n s) := by
  induction n generalizing s with
  | zero => exact h1
  | succ n ih =>
    unfold sendBlock
    repeat' first
      | with_reducible assumption
      | (intro hx; clear_value x; revert hx; revert x; intro y hy)
      | intro _
      | (subst x)
      | (extract_lets +onlyGivenNames x; refine kept_cut (m := m) (s0 := s0) (x := x) ?_ ?_)
      | (extract_lets +onlyGivenNames x; clear_value x; revert x; intro y)
      | with_reducible exact hm.of rfl
      | with_reducible apply ih
      | with_reducible apply kept_setTx
      | with_reducible apply kept_sendMirror
      | with_reducible apply kept_touch
      | with_reducible apply kept_setF
      | with_reducible apply kept_ite
      | split

theorem kept_mirror {m : Nat} {s0 : State} {s : State} (hm : Covers m 0x818082fc32) (h1 : Kept m s0 s) :
    Kept m s0 (mirror s) := by
  unfold mirror
  repeat' first
    | with_reducible assumption
    | (intro hx; clear_value x; revert hx; revert x; intro y hy)
    | intro _
    | (subst x)
    | (extract_lets +onlyGivenNames x; refine kept_cut (m := m) (s0 := s0) (x := x) ?_ ?_)
    | (extract_lets +onlyGivenNames x; clear_value x; revert x; intro y)
    | with_reducible exact hm.of rfl
    | with_reducible apply kept_sendMarks
    | with_reducible apply kept_sendBlock
    | with_reducible apply kept_ite
    | with_reducible apply kept_foldl
    | with_reducible apply kept_foldl1
    | split

theorem kept_judgePair {m : Nat} {s0 : State} (ep : Nat) (chart : Bool) {s : State} (hm : Covers m 0x8600000682) (h1 : Kept m s0 s) :
    Kept m s0 (judgePair ep chart s).1 := by
  unfold judgePair
  show Kept1 m s0 _
  repeat' first
    | with_reducible assumption
    | (intro hx; clear_value x; revert hx; revert x; intro y hy)
    | intro _
    | (subst x)
    | (extract_lets +onlyGivenNames x; refine kept_cut (m := m) (s0 := s0) (x := x) ?_ ?_)
    | (extract_lets +onlyGivenNames x; clear_value x; revert x; intro y)
    | with_reducible exact hm.of rfl
    | with_reducible apply kept_incF
    | with_reducible apply kept_raiseOnce
    | with_reducible apply kept_clearReady
    | with_reducible apply kept1_ite
    | with_reducible apply kept_ite
    | with_reducible apply kept1_mk
    | with_reducible apply kept1_of
    | split

theorem kept_takeChart {m : Nat} {s0 : State} (ep : Nat) (p : List Byte) {s : State} (hm : Covers m 0x8600800682) (h1 : Kept m s0 s) :
    Kept m s0 (takeChart ep p s) := by
  unfold takeChart
  repeat' first
    | with_reducible assumption
    | (intro hx; clear_value x; revert hx; revert x; intro y hy)
    | intro _
    | (subst x)
    | (extract_lets +onlyGivenNames x; refine kept_cut (m := m) (s0 := s0) (x := x) ?_ ?_)
    | (extract_lets +onlyGivenNames x; clear_value x; revert x; intro y)
    | with_reducible exact hm.of rfl
    | with_reducible apply kept_offerJob
    | with_reducible apply kept_clearReady
    | with_reducible apply kept_ite

theorem kept_takeBlock {m : Nat} {s0 : State} (p : List Byte) {s : State} (hm : Covers m 0x87800efc92) (h1 : Kept m s0 s) :
    Kept m s0 (takeBlock p s) := by
  unfold takeBlock
  repeat' first
    | with_reducible assumption
    | (intro hx; clear_value x; revert hx; revert x; intro y hy)
    | intro _
    | (subst x)
    | (extract_lets +onlyGivenNames x; refine kept_cut (m := m) (s0 := s0) (x := x) ?_ ?_)
    | (extract_lets +onlyGivenNames x; clear_value x; revert x; intro y)
    | with_reducible exact hm.of rfl
    | with_reducible apply kept_setF
    | with_reducible apply kept_writeMem
    | with_reducible apply kept_modPrl
    | with_reducible apply kept_checkReady
    | with_reducible apply kept_ite
    | split

theorem kept_receiveMirror {m : Nat} {s0 : State} (n : Nat) (f : List Byte) (want : Nat) {s : State} (hm : Covers m 0x87808efe92) (h1 : Kept m s0 s) :
    Kept m s0 (receiveMirror n f want s) := by
  unfold receiveMirror
  repeat' first
    | with_reducible assumption
    | (intro hx; clear_value x; revert hx; revert x; intro y hy)
    | (intro hz; clear_value z; revert hz; revert z; intro y hy)
    | intro _
    | (subst x)
    | (subst z)
    | (extract_lets +onlyGivenNames x; refine kept_cut (m := m) (s0 := s0) (x := x) ?_ ?_)
    | (extract_lets +onlyGivenNames z; refine kept_cut (m := m) (s0 := s0) (x := z.1) ?_ ?_)
    | (extract_lets +onlyGivenNames x; clear_value x; revert x; intro y)
    | with_reducible exact hm.of rfl
    | with_reducible apply kept_pairReceive
    | with_reducible apply kept_judgePair
    | with_reducible apply kept_takeChart
    | with_reducible apply kept_takeBlock
    | with_reducible apply kept_ite
    | (with_reducible refine Kept1.of_eq (kept_pairReceive _ _ (hm.of rfl) ?_) (by assumption))
    | (with_reducible refine Kept1.of_eq (kept_pairReceive _ _ _ (hm.of rfl) ?_) (by assumption))
    | (with_reducible refine Kept1.of_eq (kept_pairReceive _ (hm.of rfl) ?_) (by assumption))
    | (with_reducible refine Kept1.of_eq (kept_judgePair _ _ (hm.of rfl) ?_) (by assumption))
    | (with_reducible refine Kept1.of_eq (kept_judgePair _ _ _ (hm.of rfl) ?_) (by assumption))
    | (with_reducible refine Kept1.of_eq (kept_judgePair _ (hm.of rfl) ?_) (by assumption))
    | split

theorem kept_disableBlock {m : Nat} {s0 : State} (b : Nat) {s : State} (hm : Covers m 0x8000000002) (h1 : Kept m s0 s) :
    Kept m s0 (disableBlock b s) := by
  unfold disableBlock
  repeat' first
    | with_reducible assumption
    | intro _
    | with_reducible exact hm.of rfl
    | with_reducible apply kept_setF
    | with_reducible apply kept_modPrl

theorem kept_linkPair {m : Nat} {s0 : State} (n : Nat) (up : Bool) {s : State} (hm : Covers m 0x600000482) (h1 : Kept m s0 s) :
    Kept m s0 (linkPair n up s) := by
  unfold linkPair
  repeat' first
    | with_reducible assumption
    | (intro hx; clear_value x; revert hx; revert x; intro y hy)
    | intro _
    | (subst x)
    | (extract_lets +onlyGivenNames x; refine kept_cut (m := m) (s0 := s0) (x := x) ?_ ?_)
    | (extract_lets +onlyGivenNames x; clear_value x; revert x; intro y)
    | with_reducible exact hm.of rfl
    | with_reducible apply kept_setB
    | with_reducible apply kept_setFBit
    | with_reducible apply kept_evtPrl
    | with_reducible apply kept_raise
    | with_reducible apply kept_ite

theorem kept_execHeartbeatSend {m : Nat} {s0 : State} {s : State} (hm : Covers m 0x8000000022) (h1 : Kept m s0 s) :
    KeptO m s0 (execHeartbeatSend s) := by
  unfold execHeartbeatSend
  repeat' first
    | with_reducible assumption
    | intro _
    | with_reducible exact hm.of rfl
    | with_reducible apply kept_onEngine
    | with_reducible apply kept_sendHeartbeat
    | with_reducible apply keptO_next
    | with_reducible apply keptO_fault

theorem kept_execHeartbeatReceive {m : Nat} {s0 : State} (link : Fin 2) (sof : Nat) (frame : List Byte) {s : State} (hm : Covers m 0x8600e00692) (h1 : Kept m s0 s) :
    KeptO m s0 (execHeartbeatReceive link sof frame s) := by
  unfold execHeartbeatReceive
  repeat' first
    | with_reducible assumption
    | intro _
    | with_reducible exact hm.of rfl
    | with_reducible apply kept_onEngine
    | with_reducible apply kept_receiveHeartbeat
    | with_reducible apply keptO_next
    | with_reducible apply keptO_fault

theorem kept_execMissedCycle {m : Nat} {s0 : State} {s : State} (hm : Covers m 0x8600e00682) (h1 : Kept m s0 s) :
    KeptO m s0 (execMissedCycle s) := by
  unfold execMissedCycle
  repeat' first
    | with_reducible assumption
    | intro _
    | with_reducible exact hm.of rfl
    | with_reducible apply kept_onEngine
    | with_reducible apply kept_missCycle
    | with_reducible apply keptO_next
    | with_reducible apply keptO_fault

theorem kept_execPrlEnableWrite {m : Nat} {s0 : State} (r : Req) (en : Bool) {s : State} (hm : Covers m 0x8600e006a2) (h1 : Kept m s0 s) :
    KeptO m s0 (execPrlEnableWrite r en s) := by
  unfold execPrlEnableWrite
  repeat' first
    | with_reducible assumption
    | intro _
    | with_reducible exact hm.of rfl
    | with_reducible apply kept_reached
    | with_reducible apply kept_enablePair
    | with_reducible apply keptO_next
    | with_reducible apply keptO_fault

theorem kept_execListenRoleTimeout {m : Nat} {s0 : State} {s : State} (hm : Covers m 0x8600a00682) (h1 : Kept m s0 s) :
    KeptO m s0 (execListenRoleTimeout s) := by
  unfold execListenRoleTimeout
  repeat' first
    | with_reducible assumption
    | intro _
    | with_reducible exact hm.of rfl
    | with_reducible apply kept_onEngine
    | with_reducible apply kept_listenEnds
    | with_reducible apply keptO_next
    | with_reducible apply keptO_fault

theorem kept_execCatchupPass {m : Nat} {s0 : State} (received : Bool) {s : State} (hm : Covers m 0x8600800482) (h1 : Kept m s0 s) :
    KeptO m s0 (execCatchupPass received s) := by
  unfold execCatchupPass
  repeat' first
    | with_reducible assumption
    | intro _
    | with_reducible exact hm.of rfl
    | with_reducible apply kept_onEngine
    | with_reducible apply kept_checkReady
    | with_reducible apply kept_modPrl
    | with_reducible apply kept_catchUp
    | with_reducible apply keptO_ite
    | with_reducible apply kept_ite
    | with_reducible apply keptO_next
    | with_reducible apply keptO_fault

theorem kept_execMirrorSend {m : Nat} {s0 : State} {s : State} (hm : Covers m 0x818082fc32) (h1 : Kept m s0 s) :
    KeptO m s0 (execMirrorSend s) := by
  unfold execMirrorSend
  repeat' first
    | with_reducible assumption
    | intro _
    | with_reducible exact hm.of rfl
    | with_reducible apply kept_onEngine
    | with_reducible apply kept_mirror
    | with_reducible apply keptO_next
    | with_reducible apply keptO_fault

theorem kept_execChartFrameReceive {m : Nat} {s0 : State} (link : Fin 2) (frame : List Byte) {s : State} (hm : Covers m 0x87808efe92) (h1 : Kept m s0 s) :
    KeptO m s0 (execChartFrameReceive link frame s) := by
  unfold execChartFrameReceive
  repeat' first
    | with_reducible assumption
    | intro _
    | with_reducible exact hm.of rfl
    | with_reducible apply kept_onEngine
    | with_reducible apply kept_receiveMirror
    | with_reducible apply keptO_next
    | with_reducible apply keptO_fault

theorem kept_execBlockFrameReceive {m : Nat} {s0 : State} (link : Fin 2) (frame : List Byte) {s : State} (hm : Covers m 0x87808efe92) (h1 : Kept m s0 s) :
    KeptO m s0 (execBlockFrameReceive link frame s) := by
  unfold execBlockFrameReceive
  repeat' first
    | with_reducible assumption
    | intro _
    | with_reducible exact hm.of rfl
    | with_reducible apply kept_onEngine
    | with_reducible apply kept_receiveMirror
    | with_reducible apply keptO_next
    | with_reducible apply keptO_fault

theorem kept_execSwap {m : Nat} {s0 : State} (r : Req) {s : State} (hm : Covers m 0x86000004a2) (h1 : Kept m s0 s) :
    KeptO m s0 (execSwap r s) := by
  unfold execSwap
  repeat' first
    | with_reducible assumption
    | intro _
    | with_reducible exact hm.of rfl
    | with_reducible apply kept_reached
    | with_reducible apply kept_requestSwap
    | with_reducible apply keptO_next
    | with_reducible apply keptO_fault

theorem kept_execSwapComplete {m : Nat} {s0 : State} {s : State} (hm : Covers m 0x8600a00682) (h1 : Kept m s0 s) :
    KeptO m s0 (execSwapComplete s) := by
  unfold execSwapComplete
  repeat' first
    | with_reducible assumption
    | intro _
    | with_reducible exact hm.of rfl
    | with_reducible apply kept_onEngine
    | with_reducible apply kept_completeSwap
    | with_reducible apply keptO_next
    | with_reducible apply keptO_fault

theorem kept_execPairLinkChange {m : Nat} {s0 : State} (link : Fin 2) (up : Bool) {s : State} (hm : Covers m 0x600000482) (h1 : Kept m s0 s) :
    KeptO m s0 (execPairLinkChange link up s) := by
  unfold execPairLinkChange
  repeat' first
    | with_reducible assumption
    | intro _
    | with_reducible exact hm.of rfl
    | with_reducible apply kept_linkPair
    | with_reducible apply keptO_next
    | with_reducible apply keptO_fault

end Sys2Proof.Machine
end

