-- ==== Sys2Proof/Laws/KeptReset.lean ====
section
/-! SUPPORT. What the operations of Machine/Reset.lean keep (Safety.lean, `Kept`): one lemma each, which cites those of the operations it calls. -/

namespace Sys2Proof.Machine

theorem kept_showPend {m : Nat} {s0 : State} {s : State} (hm : Covers m 0x2) (h1 : Kept m s0 s) :
    Kept m s0 (showPend s) := by
  unfold showPend
  repeat' first
    | with_reducible assumption
    | intro _
    | with_reducible exact hm.of rfl
    | with_reducible apply kept_setF
    | with_reducible apply kept_forN
    | split

theorem kept_clearModule {m : Nat} {s0 a : State} (hm : Covers m 0x7bfeffce6fe) (h : Kept m s0 a) : Kept m s0 (clearModule a) := by
  have h1 : Kept m s0 (dropSource 3 (dropSource 2 (dropSource 1 (forgetLinks (fun _ => true)
      (modFio (abortTrim (resetBridge (silenceWd a))) fun f => { f with pubs := [], dirty := [], refresh := false }))))) :=
    kept_dropSource _ (hm.of rfl) (kept_dropSource _ (hm.of rfl) (kept_dropSource _ (hm.of rfl) (kept_forgetLinks _ (hm.of rfl)
      (kept_modFio _ (hm.of rfl) (kept_abortTrim (hm.of rfl) (kept_resetBridge (hm.of rfl) (kept_silenceWd (hm.of rfl) h)))))))
  refine h1.step rfl (fun c => ⟨kwf_filter 0 _ _ c.flds, kwf_filter 0 _ _ c.live, rfl, c.tags, c.mem, c.chk, (List.length_map ..).trans c.triads, rfl, (List.length_map ..).trans c.anl⟩) ⟨[], rfl⟩ (Nat.le_refl _) fun p hp => ?_
  have hb : ∀ i, (0x7bfeffce6fe : Nat).testBit i = true → m.testBit i = true := fun i e => hm.bit e
  cases p <;> first | rfl | exact absurd (hb _ (by decide)) (Bool.eq_false_iff.1 hp)

theorem kept_restart {m : Nat} {s0 : State} {s : State} (hm : Covers m 0x2) (h1 : Kept m s0 s) :
    Kept m s0 (restart s) := by
  unfold restart
  repeat' first
    | with_reducible assumption
    | (intro hx; clear_value x; revert hx; revert x; intro y hy)
    | intro _
    | (subst x)
    | (extract_lets +onlyGivenNames x; refine kept_cut (m := m) (s0 := s0) (x := x) ?_ ?_)
    | (extract_lets +onlyGivenNames x; clear_value x; revert x; intro y)
    | with_reducible exact hm.of rfl
    | with_reducible apply kept_setF
    | with_reducible apply kept_showLog
    | with_reducible apply kept_showPend

theorem kept_resetModule {m : Nat} {s0 : State} (cause : Nat) {s : State} (hm : Covers m 0x7bfeffefefe) (h1 : Kept m s0 s) :
    Kept m s0 (resetModule cause s) := by
  unfold resetModule
  repeat' first
    | with_reducible assumption
    | intro _
    | with_reducible exact hm.of rfl
    | with_reducible apply kept_restart
    | with_reducible apply kept_setF
    | with_reducible apply kept_clearModule
    | with_reducible apply kept_flushAll
    | with_reducible apply kept_ite

theorem kept_unpowered {m : Nat} {s0 : State} {s : State} (hm : Covers m 0xffffffffece) (h1 : Kept m s0 s) : Kept m s0 (unpowered s) :=
  h1.step rfl (fun c => ⟨kwf_filter 0 _ _ c.flds, rfl, rfl, c.tags, kwf_filter 0 _ _ c.mem, kwf_filter 0 _ _ c.chk, rfl, rfl, (List.length_map ..).trans c.anl⟩) ⟨[], rfl⟩ (Nat.le_refl _) fun p hp => by
    have hb : ∀ i, (0xffffffffece : Nat).testBit i = true → m.testBit i = true := fun i e => hm.bit e
    cases p <;> first | rfl | exact absurd (hb _ (by decide)) (Bool.eq_false_iff.1 hp)

end Sys2Proof.Machine
end

