-- ==== Sys2Proof/Laws/KeptUpdate.lean ====
section
/-! SUPPORT. What the operations of Machine/Update.lean keep (Safety.lean, `Kept`): one lemma each, which cites those of the operations it calls. -/

namespace Sys2Proof.Machine

theorem kept_modUpd {m : Nat} {s0 : State} {s : State} (f : Upd → Upd) (hm : Covers m 0x40000000000) (h1 : Kept m s0 s) :
    Kept m s0 (modUpd s f) := by
  unfold modUpd
  repeat' first
    | with_reducible assumption
    | intro _
    | with_reducible exact hm.of rfl
    | (with_reducible refine kept_upd_upd (hm.of rfl) ?_; with_reducible assumption)

theorem kept_touchSlot {m : Nat} {s0 : State} (u : Nat) (k : Nat) {s : State} (hm : Covers m 0x18002fc12) (h1 : Kept m s0 s) :
    Kept m s0 (touchSlot u k s) := by
  unfold touchSlot
  repeat' first
    | with_reducible assumption
    | intro _
    | with_reducible exact hm.of rfl
    | with_reducible apply kept_touch
    | split

theorem kept_raiseUpd {m : Nat} {s0 : State} (cls : Nat) (u : Nat) {s : State} (hm : Covers m 0x402) (h1 : Kept m s0 s) :
    Kept m s0 (raiseUpd cls u s) := by
  unfold raiseUpd
  repeat' first
    | with_reducible assumption
    | intro _
    | with_reducible exact hm.of rfl
    | with_reducible apply kept_raiseVia

theorem kept_setErr {m : Nat} {s0 : State} (u : Nat) (status : Nat) {s : State} (hm : Covers m 0x2) (h1 : Kept m s0 s) :
    Kept m s0 (setErr u status s) := by
  unfold setErr
  repeat' first
    | with_reducible assumption
    | intro _
    | with_reducible exact hm.of rfl
    | with_reducible apply kept_setF

theorem kept_notAllowed {m : Nat} {s0 : State} (o : QOp) (u : Nat) {s : State} (hm : Covers m 0x42) (h1 : Kept m s0 s) :
    Kept m s0 (notAllowed o u s) := by
  unfold notAllowed
  repeat' first
    | with_reducible assumption
    | intro _
    | with_reducible exact hm.of rfl
    | with_reducible apply kept_finish
    | with_reducible apply kept_setErr
    | with_reducible apply kept_ite

theorem kept_dropPend {m : Nat} {s0 : State} (u : Nat) {s : State} (hm : Covers m 0x40000000002) (h1 : Kept m s0 s) :
    Kept m s0 (dropPend u s) := by
  unfold dropPend
  repeat' first
    | with_reducible assumption
    | intro _
    | with_reducible exact hm.of rfl
    | with_reducible apply kept_showPend
    | with_reducible apply kept_modUpd

theorem kept_stageFails {m : Nat} {s0 : State} (u : Nat) (status : Nat) {s : State} (hm : Covers m 0x402) (h1 : Kept m s0 s) :
    Kept m s0 (stageFails u status s) := by
  unfold stageFails
  repeat' first
    | with_reducible assumption
    | (intro hx; clear_value x; revert hx; revert x; intro y hy)
    | intro _
    | (subst x)
    | (extract_lets +onlyGivenNames x; refine kept_cut (m := m) (s0 := s0) (x := x) ?_ ?_)
    | (extract_lets +onlyGivenNames x; clear_value x; revert x; intro y)
    | with_reducible exact hm.of rfl
    | with_reducible apply kept_raiseUpd
    | with_reducible apply kept_setErr
    | with_reducible apply kept_ite

theorem kept_stagePackage {m : Nat} {s0 : State} (al : Nat → Bool) (co : Bool) (plen : Nat) (p : List Byte) {s : State} (hm : Covers m 0x7800efc92) (h1 : Kept m s0 s) :
    Kept m s0 (stagePackage al co plen p s).st := by
  unfold stagePackage
  extract_lets h
  split
  · exact kept_raiseVia _ _ (hm.of rfl) h1
  · rename_i u _
    extract_lets k s1 bad
    split
    · exact kept_stageFails _ _ (hm.of rfl) h1
    · have h2 : Kept m s0 (setF (writeMem s updReq (unitBase u k) p) (UPD_UNIT_1_OTHVER u) (pkVersion h)) :=
        kept_setF _ _ (hm.of rfl) (kept_writeMem _ _ _ (hm.of rfl) h1)
      have hb : ∀ e d, Kept m s0 (bad e d).st := fun e d => kept_stageFails _ _ (hm.of rfl) (kept_setF _ _ (hm.of rfl) h2)
      have h3 : Kept m s0 (raiseUpd NOTE u (evtUpd UPD_EVT_STAGED (setF s1 (UPD_UNIT_1_OTHSTATE u) 1))) := kept_raiseUpd _ _ (hm.of rfl) (kept_evtUpd _ (hm.of rfl) (kept_setF _ _ (hm.of rfl) h2))
      clear_value bad
      split
      · exact hb _ _
      · split
        · exact hb _ _
        · split
          · exact hb _ _
          · exact h3

theorem kept_runStage {m : Nat} {s0 : State} (q : Nat) (co : Bool) {s : State} (hm : Covers m 0x7800efed2) (h1 : Kept m s0 s) :
    Kept m s0 (runStage q co s) := by
  unfold runStage
  extract_lets Q
  refine kept_starting _ _ _ (hm.of rfl) h1 fun o => ?_
  extract_lets d a n
  refine kept_ite (kept_finish _ _ (hm.of rfl) h1) (kept_ite (kept_finish _ _ (hm.of rfl) h1) ?_)
  split
  · exact kept_finish _ _ (hm.of rfl) (kept_touch _ _ _ (hm.of rfl) h1)
  · exact kept_finish _ _ (hm.of rfl) (kept_stagePackage _ _ _ _ (hm.of rfl) (kept_touch _ _ _ (hm.of rfl) h1))

theorem kept_swapSlots {m : Nat} {s0 : State} (u : Nat) (fall : Bool) {s : State} (hm : Covers m 0x2) (h1 : Kept m s0 s) :
    Kept m s0 (swapSlots u fall s) := by
  unfold swapSlots
  repeat' first
    | with_reducible assumption
    | (intro hx; clear_value x; revert hx; revert x; intro y hy)
    | intro _
    | (subst x)
    | (extract_lets +onlyGivenNames x; refine kept_cut (m := m) (s0 := s0) (x := x) ?_ ?_)
    | (extract_lets +onlyGivenNames x; clear_value x; revert x; intro y)
    | with_reducible exact hm.of rfl
    | with_reducible apply kept_setF
    | with_reducible apply kept_ite

theorem kept_unitSwitched {m : Nat} {s0 : State} (u : Nat) (fall : Bool) {s : State} (hm : Covers m 0x40600000482) (h1 : Kept m s0 s) :
    Kept m s0 (unitSwitched u fall s) := by
  unfold unitSwitched
  repeat' first
    | with_reducible assumption
    | (intro hx; clear_value x; revert hx; revert x; intro y hy)
    | intro _
    | (subst x)
    | (extract_lets +onlyGivenNames x; refine kept_cut (m := m) (s0 := s0) (x := x) ?_ ?_)
    | (extract_lets +onlyGivenNames x; clear_value x; revert x; intro y)
    | with_reducible exact hm.of rfl
    | with_reducible apply kept_evtUpd
    | with_reducible apply kept_dropPend
    | with_reducible apply kept_swapSlots
    | with_reducible apply kept_raiseUpd
    | with_reducible apply kept_ite

theorem kept_applyChain {m : Nat} {s0 : State} (ms : List (Nat × List Byte)) {s : State} (hm : Covers m 0x1808efc12) (h1 : Kept m s0 s) :
    Kept m s0 (applyChain ms s) := by
  unfold applyChain
  repeat' first
    | with_reducible assumption
    | intro _
    | with_reducible exact hm.of rfl
    | with_reducible apply kept_installMaps
    | with_reducible apply kept_modChart
    | with_reducible apply kept_ite

theorem kept_installChains {m : Nat} {s0 : State} (n : Nat) (l : List (Nat × List Byte)) {s : State} (hm : Covers m 0x1808efc12) (h1 : Kept m s0 s) :
    Kept m s0 (installChains n l s) := by
  induction n generalizing l s with
  | zero => exact h1
  | succ n ih =>
    unfold installChains
    repeat' first
      | with_reducible assumption
      | intro _
      | with_reducible exact hm.of rfl
      | with_reducible apply ih
      | with_reducible apply kept_applyChain
      | with_reducible apply kept_ite
      | split

theorem kept_setImage {m : Nat} {s0 : State} (t : Nat) (ok : Bool) {s : State} (hm : Covers m 0x40000) (h1 : Kept m s0 s) :
    Kept m s0 (setImage t ok s) := by
  unfold setImage
  repeat' first
    | with_reducible assumption
    | intro _
    | with_reducible exact hm.of rfl
    | with_reducible apply kept_modTriad

theorem kept_applyUnit {m : Nat} {s0 : State} (u : Nat) {s : State} (hm : Covers m 0x6bff7eefefe) (h1 : Kept m s0 s) :
    Kept m s0 (applyUnit u s) := by
  unfold applyUnit
  repeat' first
    | with_reducible assumption
    | intro _
    | (extract_lets +onlyGivenNames x; clear_value x; revert x; intro y)
    | with_reducible exact hm.of rfl
    | (with_reducible refine kept_upd_pwr (hm.of rfl) ?_; with_reducible assumption)
    | with_reducible apply kept_holdReset
    | with_reducible apply kept_setImage
    | with_reducible apply kept_strobe
    | with_reducible apply kept_modUpd
    | with_reducible apply kept_installChains
    | with_reducible apply kept_setF
    | with_reducible apply kept_ite

theorem kept_switchUnit {m : Nat} {s0 : State} (u : Nat) (fall : Bool) {s : State} (hm : Covers m 0x6bff7eefefe) (h1 : Kept m s0 s) :
    Kept m s0 (switchUnit u fall s) := by
  unfold switchUnit
  repeat' first
    | with_reducible assumption
    | intro _
    | with_reducible exact hm.of rfl
    | with_reducible apply kept_applyUnit
    | with_reducible apply kept_unitSwitched

theorem kept_armTable {m : Nat} {s0 : State} (wp : Nat) {s : State} (hm : Covers m 0x10000002) (h1 : Kept m s0 s) :
    Kept m s0 (armTable wp s) := by
  unfold armTable
  repeat' first
    | with_reducible assumption
    | (intro hx; clear_value x; revert hx; revert x; intro y hy)
    | intro _
    | (subst x)
    | (extract_lets +onlyGivenNames x; refine kept_cut (m := m) (s0 := s0) (x := x) ?_ ?_)
    | (extract_lets +onlyGivenNames x; clear_value x; revert x; intro y)
    | with_reducible exact hm.of rfl
    | with_reducible apply kept_setF
    | with_reducible apply kept_modLod
    | with_reducible apply kept_ite
    | with_reducible apply kept_forN

theorem kept_armSchedule {m : Nat} {s0 : State} (wp : Nat) {s : State} (hm : Covers m 0x7804efc92) (h1 : Kept m s0 s) :
    Kept m s0 (armSchedule wp s) := by
  unfold armSchedule
  repeat' first
    | with_reducible assumption
    | (intro hx; clear_value x; revert hx; revert x; intro y hy)
    | intro _
    | (subst x)
    | (extract_lets +onlyGivenNames x; refine kept_cut (m := m) (s0 := s0) (x := x) ?_ ?_)
    | (extract_lets +onlyGivenNames x; clear_value x; revert x; intro y)
    | with_reducible exact hm.of rfl
    | with_reducible apply kept_finishLoad
    | with_reducible apply kept_startLoad
    | with_reducible apply kept_armSwitch

theorem kept_armMaps {m : Nat} {s0 : State} {s : State} (hm : Covers m 0x401800efc12) (h1 : Kept m s0 s) :
    Kept m s0 (armMaps s) := by
  unfold armMaps
  repeat' first
    | with_reducible assumption
    | intro _
    | (extract_lets +onlyGivenNames x; clear_value x; revert x; intro y)
    | with_reducible exact hm.of rfl
    | with_reducible apply kept_modUpd
    | with_reducible apply kept_writeMem
    | with_reducible apply kept_ite

theorem kept_armUnit {m : Nat} {s0 : State} (u : Nat) (mode : Nat) (wp : Nat) {s : State} (hm : Covers m 0x407904efc92) (h1 : Kept m s0 s) :
    Kept m s0 (armUnit u mode wp s) := by
  unfold armUnit
  repeat' first
    | with_reducible assumption
    | intro _
    | (extract_lets +onlyGivenNames x; clear_value x; revert x; intro y)
    | with_reducible exact hm.of rfl
    | with_reducible apply kept_armTable
    | with_reducible apply kept_armSchedule
    | with_reducible apply kept_armMaps
    | with_reducible apply kept_ite

theorem kept_arm {m : Nat} {s0 : State} (u : Nat) (fall : Bool) (mode : Nat) (wpTs : Nat) {s : State} (hm : Covers m 0x407904efc92) (h1 : Kept m s0 s) :
    Kept m s0 (arm u fall mode wpTs s).1 := by
  unfold arm
  show Kept1 m s0 _
  repeat' first
    | with_reducible assumption
    | (intro hx; clear_value x; revert hx; revert x; intro y hy)
    | intro _
    | (subst x)
    | (extract_lets +onlyGivenNames x; refine kept_cut (m := m) (s0 := s0) (x := x) ?_ ?_)
    | (extract_lets +onlyGivenNames x; clear_value x; revert x; intro y)
    | with_reducible exact hm.of rfl
    | with_reducible apply kept_setErr
    | with_reducible apply kept_armUnit
    | with_reducible apply kept_showPend
    | with_reducible apply kept_modUpd
    | with_reducible apply kept_setF
    | with_reducible apply kept1_ite
    | with_reducible apply kept_ite
    | with_reducible apply kept1_mk
    | with_reducible apply kept1_of
    | split

theorem kept_runArm {m : Nat} {s0 : State} (q : Nat) (opc : Nat) (fall : Bool) {s : State} (hm : Covers m 0x407904efed2) (h1 : Kept m s0 s) :
    Kept m s0 (runArm q opc fall s) := by
  unfold runArm
  repeat' first
    | with_reducible assumption
    | (intro hx; clear_value x; revert hx; revert x; intro y hy)
    | (intro hz; clear_value z; revert hz; revert z; intro y hy)
    | intro _
    | (subst x)
    | (subst z)
    | (extract_lets +onlyGivenNames x; refine kept_cut (m := m) (s0 := s0) (x := x) ?_ ?_)
    | (extract_lets +onlyGivenNames z; refine kept_cut (m := m) (s0 := s0) (x := z.1) ?_ ?_)
    | (extract_lets +onlyGivenNames x; clear_value x; revert x; intro y)
    | with_reducible exact hm.of rfl
    | with_reducible apply kept_starting
    | with_reducible apply kept_notAllowed
    | with_reducible apply kept_arm
    | with_reducible apply kept_finish
    | with_reducible apply kept_ite
    | (with_reducible refine Kept1.of_eq (kept_arm _ _ (hm.of rfl) ?_) (by assumption))
    | (with_reducible refine Kept1.of_eq (kept_arm _ _ _ (hm.of rfl) ?_) (by assumption))
    | (with_reducible refine Kept1.of_eq (kept_arm _ (hm.of rfl) ?_) (by assumption))

theorem kept_confirmUnit {m : Nat} {s0 : State} (u : Nat) (version : Nat) (countersOk : Bool) {s : State} (hm : Covers m 0x402) (h1 : Kept m s0 s) :
    Kept m s0 (confirmUnit u version countersOk s).1 := by
  unfold confirmUnit
  show Kept1 m s0 _
  repeat' first
    | with_reducible assumption
    | (intro hx; clear_value x; revert hx; revert x; intro y hy)
    | intro _
    | (subst x)
    | (extract_lets +onlyGivenNames x; refine kept_cut (m := m) (s0 := s0) (x := x) ?_ ?_)
    | (extract_lets +onlyGivenNames x; clear_value x; revert x; intro y)
    | with_reducible exact hm.of rfl
    | with_reducible apply kept_setErr
    | with_reducible apply kept_raiseUpd
    | with_reducible apply kept_setF
    | with_reducible apply kept1_ite
    | with_reducible apply kept_ite
    | with_reducible apply kept1_mk
    | with_reducible apply kept1_of

theorem kept_endHandover {m : Nat} {s0 : State} (u : Nat) {s : State} (hm : Covers m 0x2) (h1 : Kept m s0 s) :
    Kept m s0 (endHandover u s) := by
  unfold endHandover
  repeat' first
    | with_reducible assumption
    | intro _
    | with_reducible exact hm.of rfl
    | with_reducible apply kept_setF
    | with_reducible apply kept_ite

theorem kept_withdraw {m : Nat} {s0 : State} (u : Nat) {s : State} (hm : Covers m 0x41670000482) (h1 : Kept m s0 s) :
    Kept m s0 (withdraw u s) := by
  unfold withdraw
  repeat' first
    | with_reducible assumption
    | (intro hx; clear_value x; revert hx; revert x; intro y hy)
    | intro _
    | (subst x)
    | (extract_lets +onlyGivenNames x; refine kept_cut (m := m) (s0 := s0) (x := x) ?_ ?_)
    | (extract_lets +onlyGivenNames x; clear_value x; revert x; intro y)
    | with_reducible exact hm.of rfl
    | with_reducible apply kept_dropPend
    | with_reducible apply kept_endHandover
    | with_reducible apply kept_modLod
    | with_reducible apply kept_setF
    | with_reducible apply kept_modUpd
    | with_reducible apply kept_unholdAnl
    | with_reducible apply kept_ite

theorem kept_unitDue {m : Nat} {s0 : State} (u : Nat) (a : PendAct) {s : State} (hm : Covers m 0x6bff7eefefe) (h1 : Kept m s0 s) :
    Kept m s0 (unitDue u a s) := by
  unfold unitDue
  repeat' first
    | with_reducible assumption
    | (intro hx; clear_value x; revert hx; revert x; intro y hy)
    | intro _
    | (subst x)
    | (extract_lets +onlyGivenNames x; refine kept_cut (m := m) (s0 := s0) (x := x) ?_ ?_)
    | (extract_lets +onlyGivenNames x; clear_value x; revert x; intro y)
    | with_reducible exact hm.of rfl
    | with_reducible apply kept_modUpd
    | with_reducible apply kept_switchUnit
    | with_reducible apply kept_endHandover
    | with_reducible apply kept_holdAnl
    | with_reducible apply kept_ite

theorem kept_deferUnit {m : Nat} {s0 : State} (u : Nat) {s : State} (hm : Covers m 0x41670000482) (h1 : Kept m s0 s) :
    Kept m s0 (deferUnit u s) := by
  unfold deferUnit
  repeat' first
    | with_reducible assumption
    | (intro hx; clear_value x; revert hx; revert x; intro y hy)
    | intro _
    | (subst x)
    | (extract_lets +onlyGivenNames x; refine kept_cut (m := m) (s0 := s0) (x := x) ?_ ?_)
    | (extract_lets +onlyGivenNames x; clear_value x; revert x; intro y)
    | with_reducible exact hm.of rfl
    | with_reducible apply kept_strobe
    | with_reducible apply kept_raiseUpd
    | with_reducible apply kept_evtUpd
    | with_reducible apply kept_setErr
    | with_reducible apply kept_withdraw
    | with_reducible apply kept_ite

theorem kept_reachUnit {m : Nat} {s0 : State} (u : Nat) {s : State} (hm : Covers m 0x6bff7eefefe) (h1 : Kept m s0 s) :
    Kept m s0 (reachUnit u s) := by
  unfold reachUnit
  repeat' first
    | with_reducible assumption
    | intro _
    | (extract_lets +onlyGivenNames x; clear_value x; revert x; intro y)
    | with_reducible exact hm.of rfl
    | with_reducible apply kept_unitDue
    | with_reducible apply kept_deferUnit
    | with_reducible apply kept_ite
    | split

theorem kept_nowUnits {m : Nat} {s0 : State} {s : State} (hm : Covers m 0x6bff7eefefe) (h1 : Kept m s0 s) :
    Kept m s0 (nowUnits s) := by
  unfold nowUnits
  repeat' first
    | with_reducible assumption
    | intro _
    | with_reducible exact hm.of rfl
    | with_reducible apply kept_unitDue
    | with_reducible apply kept_ite
    | with_reducible apply kept_forN
    | split

theorem kept_askHandover {m : Nat} {s0 : State} (t : Nat) {s : State} (hm : Covers m 0x417f002fc92) (h1 : Kept m s0 s) :
    Kept m s0 (askHandover t s) := by
  unfold askHandover
  repeat' first
    | with_reducible assumption
    | (intro hx; clear_value x; revert hx; revert x; intro y hy)
    | intro _
    | (subst x)
    | (extract_lets +onlyGivenNames x; refine kept_cut (m := m) (s0 := s0) (x := x) ?_ ?_)
    | (extract_lets +onlyGivenNames x; clear_value x; revert x; intro y)
    | with_reducible exact hm.of rfl
    | with_reducible apply kept_touchSlot
    | with_reducible apply kept_modUpd
    | with_reducible apply kept_sendMsi
    | with_reducible apply kept_evtUpd
    | with_reducible apply kept_setF
    | with_reducible apply kept_setErr
    | with_reducible apply kept_withdraw
    | with_reducible apply kept_ite
    | split

theorem kept_readyHandover {m : Nat} {s0 : State} (r : Req) (t : Nat) {s : State} (hm : Covers m 0x402) (h1 : Kept m s0 s) :
    Kept m s0 (readyHandover r t s) := by
  unfold readyHandover
  repeat' first
    | with_reducible assumption
    | intro _
    | with_reducible exact hm.of rfl
    | with_reducible apply kept_setF
    | with_reducible apply kept_raiseReq
    | with_reducible apply kept_ite
    | split

theorem kept_enterImage {m : Nat} {s0 : State} (t : Nat) (old : Nat) {s : State} (hm : Covers m 0x42002) (h1 : Kept m s0 s) :
    Kept m s0 (enterImage t old s) := by
  unfold enterImage
  repeat' first
    | with_reducible assumption
    | (intro hx; clear_value x; revert hx; revert x; intro y hy)
    | intro _
    | (subst x)
    | (extract_lets +onlyGivenNames x; refine kept_cut (m := m) (s0 := s0) (x := x) ?_ ?_)
    | (extract_lets +onlyGivenNames x; clear_value x; revert x; intro y)
    | with_reducible exact hm.of rfl
    | with_reducible apply kept_modTriad
    | with_reducible apply kept_dropLanes
    | with_reducible apply kept_bumpTriad
    | with_reducible apply kept_setImage
    | with_reducible apply kept_setLane
    | with_reducible apply kept_foldl
    | with_reducible apply kept_foldl1
    | split

theorem kept_switchImage {m : Nat} {s0 : State} (t : Nat) {s : State} (hm : Covers m 0x6bff7eefefe) (h1 : Kept m s0 s) :
    Kept m s0 (switchImage t s) := by
  unfold switchImage
  repeat' first
    | with_reducible assumption
    | (intro (hw : ∀ t, Kept m s0 t → Kept m s0 (w t)); clear_value w; revert hw; revert w; intro v hv)
    | (intro (hw : ∀ a t, Kept m s0 t → Kept m s0 (w a t)); clear_value w; revert hw; revert w; intro v hv)
    | (intro (hw : ∀ a, Kept m s0 (w a)); clear_value w; revert hw; revert w; intro v hv)
    | intro _
    | (subst w)
    | (extract_lets +onlyGivenNames w; refine kept_cutF1 (m := m) (s0 := s0) (x := w) ?_ ?_)
    | (extract_lets +onlyGivenNames w; refine kept_cutF2 (m := m) (s0 := s0) (x := w) ?_ ?_)
    | (extract_lets +onlyGivenNames w; refine kept_cutF0 (m := m) (s0 := s0) (x := w) ?_ ?_)
    | (extract_lets +onlyGivenNames x; clear_value x; revert x; intro y)
    | with_reducible apply hv
    | with_reducible exact hm.of rfl
    | with_reducible apply kept_modUpd
    | with_reducible apply kept_switchUnit
    | with_reducible apply kept_endHandover
    | with_reducible apply kept_enterImage
    | with_reducible apply kept_unitSwitched
    | with_reducible apply kept_raiseUpd
    | with_reducible apply kept_evtUpd
    | with_reducible apply kept_setErr
    | with_reducible apply kept_withdraw
    | with_reducible apply kept_ite
    | split

theorem kept_firmware {m : Nat} {s0 : State} (n : Nat) (running : Bool) {s : State} (hm : Covers m 0x6bff7eefefe) (h1 : Kept m s0 s) :
    Kept m s0 (firmware n running s) := by
  unfold firmware
  repeat' first
    | with_reducible assumption
    | intro _
    | with_reducible exact hm.of rfl
    | with_reducible apply kept_unholdAnl
    | with_reducible apply kept_switchUnit
    | with_reducible apply kept_holdAnl
    | with_reducible apply kept_ite
    | split

theorem kept_firmwareFails {m : Nat} {s0 : State} (n : Nat) {s : State} (hm : Covers m 0x41660000482) (h1 : Kept m s0 s) :
    Kept m s0 (firmwareFails n s) := by
  unfold firmwareFails
  repeat' first
    | with_reducible assumption
    | (intro hx; clear_value x; revert hx; revert x; intro y hy)
    | intro _
    | (subst x)
    | (extract_lets +onlyGivenNames x; refine kept_cut (m := m) (s0 := s0) (x := x) ?_ ?_)
    | (extract_lets +onlyGivenNames x; clear_value x; revert x; intro y)
    | with_reducible exact hm.of rfl
    | with_reducible apply kept_setErr
    | with_reducible apply kept_setF
    | with_reducible apply kept_dropPend
    | with_reducible apply kept_unholdAnl
    | with_reducible apply kept_raiseUpd
    | with_reducible apply kept_evtUpd
    | with_reducible apply kept_ite
    | split

theorem kept_writeMapArea {m : Nat} {s0 : State} (base : Nat) {s : State} (hm : Covers m 0x402) (h1 : Kept m s0 s) :
    Kept m s0 (writeMapArea base s) := by
  unfold writeMapArea
  repeat' first
    | with_reducible assumption
    | intro _
    | with_reducible exact hm.of rfl
    | with_reducible apply kept_raiseUpd
    | with_reducible apply kept_setF
    | with_reducible apply kept_ite

theorem kept_checkUnit {m : Nat} {s0 : State} (u : Nat) {s : State} (hm : Covers m 0x78006fc92) (h1 : Kept m s0 s) :
    Kept m s0 (checkUnit u s) := by
  unfold checkUnit
  repeat' first
    | with_reducible assumption
    | (intro hx; clear_value x; revert hx; revert x; intro y hy)
    | intro _
    | (subst x)
    | (extract_lets +onlyGivenNames x; refine kept_cut (m := m) (s0 := s0) (x := x) ?_ ?_)
    | (extract_lets +onlyGivenNames x; clear_value x; revert x; intro y)
    | with_reducible exact hm.of rfl
    | with_reducible apply kept_touchSlot
    | with_reducible apply kept_evtUpd
    | with_reducible apply kept_setErr
    | with_reducible apply kept_raiseUpd
    | with_reducible apply kept_safeHalt
    | with_reducible apply kept_ite

theorem kept_background {m : Nat} {s0 : State} {s : State} (hm : Covers m 0x4078006fc92) (h1 : Kept m s0 s) :
    Kept m s0 (background s) := by
  unfold background
  repeat' first
    | with_reducible assumption
    | intro _
    | with_reducible exact hm.of rfl
    | with_reducible apply kept_incW
    | with_reducible apply kept_checkUnit
    | with_reducible apply kept_modUpd
    | with_reducible apply kept_ite
    | with_reducible apply kept_forN

theorem kept_noteErr {m : Nat} {s0 : State} (c : Nat) {s : State} (hm : Covers m 0x2) (h1 : Kept m s0 s) :
    Kept m s0 (noteErr c s) := by
  unfold noteErr
  repeat' first
    | with_reducible assumption
    | intro _
    | with_reducible exact hm.of rfl
    | with_reducible apply kept_setF
    | with_reducible apply kept_ite

theorem kept_autoFall {m : Nat} {s0 : State} (u : Nat) {s : State} (hm : Covers m 0x600000482) (h1 : Kept m s0 s) :
    Kept m s0 (autoFall u s) := by
  unfold autoFall
  repeat' first
    | with_reducible assumption
    | intro _
    | with_reducible exact hm.of rfl
    | with_reducible apply kept_raiseUpd
    | with_reducible apply kept_noteErr
    | with_reducible apply kept_setErr
    | with_reducible apply kept_evtUpd
    | with_reducible apply kept_swapSlots
    | with_reducible apply kept_ite

theorem kept_takeKeys {m : Nat} {s0 : State} (u : Nat) {s : State} (hm : Covers m 0x40000000000) (h1 : Kept m s0 s) :
    Kept m s0 (takeKeys u s) := by
  unfold takeKeys
  repeat' first
    | with_reducible assumption
    | intro _
    | with_reducible exact hm.of rfl
    | with_reducible apply kept_modUpd
    | with_reducible apply kept_ite

theorem kept_bootUnit {m : Nat} {s0 : State} (u : Nat) {a2 : State} (hm : Covers m 0x4078002fc92) (h1 : Kept m s0 a2) :
    Kept m s0 (bootUnit u a2) := by
  unfold bootUnit
  repeat' first
    | with_reducible assumption
    | (intro hx; clear_value x; revert hx; revert x; intro y hy)
    | intro _
    | (subst x)
    | (extract_lets +onlyGivenNames x; refine kept_cut (m := m) (s0 := s0) (x := x) ?_ ?_)
    | (extract_lets +onlyGivenNames x; clear_value x; revert x; intro y)
    | with_reducible exact hm.of rfl
    | with_reducible apply kept_unitSwitched
    | with_reducible apply kept_incF
    | with_reducible apply kept_autoFall
    | with_reducible apply kept_takeKeys
    | with_reducible apply kept_touchSlot
    | with_reducible apply kept_setF
    | with_reducible apply kept_noteErr
    | with_reducible apply kept_modUpd
    | with_reducible apply kept_ite
    | split

theorem kept_verifyStage {m : Nat} {s0 : State} (countersOk : Bool) {s : State} (hm : Covers m 0x6078006fc92) (h1 : Kept m s0 s) :
    Kept m s0 (verifyStage countersOk s) := by
  unfold verifyStage
  repeat' first
    | with_reducible assumption
    | (intro hx; clear_value x; revert hx; revert x; intro y hy)
    | intro _
    | (subst x)
    | (extract_lets +onlyGivenNames x; refine kept_cut (m := m) (s0 := s0) (x := x) ?_ ?_)
    | (extract_lets +onlyGivenNames x; clear_value x; revert x; intro y)
    | with_reducible exact hm.of rfl
    | (with_reducible refine kept_upd_pwr (hm.of rfl) ?_; with_reducible assumption)
    | with_reducible apply kept_bootUnit
    | with_reducible apply kept_setFBit
    | with_reducible apply kept_setImage
    | with_reducible apply kept_noteErr
    | with_reducible apply kept_modUpd
    | with_reducible apply kept_ite
    | with_reducible apply kept_forN

theorem kept_clearScratch {m : Nat} {s0 : State} {s : State} (hm : Covers m 0x3800) (h1 : Kept m s0 s) :
    Kept m s0 (clearScratch s) := by
  unfold clearScratch
  repeat' first
    | with_reducible assumption
    | intro _
    | (extract_lets +onlyGivenNames x; clear_value x; revert x; intro y)
    | with_reducible exact hm.of rfl
    | ((with_reducible refine kept_upd_mem_chk_caches (hm.of rfl) ?_ ?_ ?_) <;> first | with_reducible exact id | with_reducible exact kwf_putFile _ _ _ _ | with_reducible exact kwf_kput 0 _ _ _ | exact fun e => (length_modAt _ _ _).trans e | exact fun e => (List.length_map ..).trans e | exact fun _ => rfl | exact kwf_filter 0 _ _ | exact kwf_foldl_kput 0 _ _ | exact kwf_kput 0 _ _ _ | (with_reducible assumption))

theorem kept_enterPilot {m : Nat} {s0 : State} {s : State} (hm : Covers m 0x40668003cae) (h1 : Kept m s0 s) :
    Kept m s0 (enterPilot s) := by
  unfold enterPilot
  repeat' first
    | with_reducible assumption
    | (intro hx; clear_value x; revert hx; revert x; intro y hy)
    | intro _
    | (subst x)
    | (extract_lets +onlyGivenNames x; refine kept_cut (m := m) (s0 := s0) (x := x) ?_ ?_)
    | (extract_lets +onlyGivenNames x; clear_value x; revert x; intro y)
    | with_reducible exact hm.of rfl
    | with_reducible apply kept_setF
    | with_reducible apply kept_modUpd
    | with_reducible apply kept_clearScratch
    | with_reducible apply kept_enableAnl
    | with_reducible apply kept_enableFio
    | with_reducible apply kept_ite

theorem kept_resetToPilot {m : Nat} {s0 : State} (cause : Nat) {s : State} (hm : Covers m 0x7bfeffefefe) (h1 : Kept m s0 s) :
    Kept m s0 (resetToPilot cause s) := by
  unfold resetToPilot
  repeat' first
    | with_reducible assumption
    | intro _
    | with_reducible exact hm.of rfl
    | with_reducible apply kept_modUpd
    | with_reducible apply kept_resetModule
    | with_reducible apply kept_ite

theorem kept_tftpReply {m : Nat} {s0 : State} (d : List Byte) {s : State} (hm : Covers m 0x20) (h1 : Kept m s0 s) :
    Kept m s0 (tftpReply d s) := by
  unfold tftpReply
  repeat' first
    | with_reducible assumption
    | intro _
    | with_reducible exact hm.of rfl
    | with_reducible apply kept_emit

theorem kept_tftpDone {m : Nat} {s0 : State} (status : Nat) {s : State} (hm : Covers m 0x40000000020) (h1 : Kept m s0 s) :
    Kept m s0 (tftpDone status s) := by
  unfold tftpDone
  repeat' first
    | with_reducible assumption
    | (intro hx; clear_value x; revert hx; revert x; intro y hy)
    | intro _
    | (subst x)
    | (extract_lets +onlyGivenNames x; refine kept_cut (m := m) (s0 := s0) (x := x) ?_ ?_)
    | (extract_lets +onlyGivenNames x; clear_value x; revert x; intro y)
    | with_reducible exact hm.of rfl
    | with_reducible apply kept_modUpd
    | with_reducible apply kept_tftpReply
    | with_reducible apply kept_ite

theorem kept_pilotStage {m : Nat} {s0 : State} (p : List Byte) (countersOk : Bool) {s : State} (hm : Covers m 0x407904efcb2) (h1 : Kept m s0 s) :
    Kept m s0 (pilotStage p countersOk s) := by
  unfold pilotStage
  repeat' first
    | with_reducible assumption
    | (intro hx; clear_value x; revert hx; revert x; intro y hy)
    | (intro hz; clear_value z; revert hz; revert z; intro y hy)
    | intro _
    | (subst x)
    | (subst z)
    | (extract_lets +onlyGivenNames x; refine kept_cut (m := m) (s0 := s0) (x := x) ?_ ?_)
    | (extract_lets +onlyGivenNames z; refine kept_cut (m := m) (s0 := s0) (x := z.1) ?_ ?_)
    | (extract_lets +onlyGivenNames x; clear_value x; revert x; intro y)
    | with_reducible exact hm.of rfl
    | with_reducible apply kept_stagePackage
    | with_reducible apply kept_tftpDone
    | with_reducible apply kept_arm
    | with_reducible apply kept_ite
    | (with_reducible refine Kept1.of_eq (kept_arm _ _ (hm.of rfl) ?_) (by assumption))
    | (with_reducible refine Kept1.of_eq (kept_arm _ _ _ (hm.of rfl) ?_) (by assumption))
    | (with_reducible refine Kept1.of_eq (kept_arm _ (hm.of rfl) ?_) (by assumption))

theorem kept_execStage {m : Nat} {s0 : State} (q : Fin 5) (countersOk : Bool) {s : State} (hm : Covers m 0x7800efed2) (h1 : Kept m s0 s) :
    KeptO m s0 (execStage q countersOk s) := by
  unfold execStage
  repeat' first
    | with_reducible assumption
    | intro _
    | with_reducible exact hm.of rfl
    | with_reducible apply kept_runStage
    | with_reducible apply keptO_next
    | with_reducible apply keptO_fault

theorem kept_execActivate {m : Nat} {s0 : State} (q : Fin 5) {s : State} (hm : Covers m 0x407904efed2) (h1 : Kept m s0 s) :
    KeptO m s0 (execActivate q s) := by
  unfold execActivate
  repeat' first
    | with_reducible assumption
    | intro _
    | with_reducible exact hm.of rfl
    | with_reducible apply kept_runArm
    | with_reducible apply keptO_next
    | with_reducible apply keptO_fault

theorem kept_execConfirm {m : Nat} {s0 : State} (q : Fin 5) (countersOk : Bool) {s : State} (hm : Covers m 0x642) (h1 : Kept m s0 s) :
    KeptO m s0 (execConfirm q countersOk s) := by
  unfold execConfirm
  repeat' first
    | with_reducible assumption
    | (intro hx; clear_value x; revert hx; revert x; intro y hy)
    | (intro hz; clear_value z; revert hz; revert z; intro y hy)
    | intro _
    | (subst x)
    | (subst z)
    | (extract_lets +onlyGivenNames x; refine kept_cut (m := m) (s0 := s0) (x := x) ?_ ?_)
    | (extract_lets +onlyGivenNames z; refine kept_cut (m := m) (s0 := s0) (x := z.1) ?_ ?_)
    | (extract_lets +onlyGivenNames x; clear_value x; revert x; intro y)
    | with_reducible exact hm.of rfl
    | with_reducible apply kept_starting
    | with_reducible apply kept_notAllowed
    | with_reducible apply kept_confirmUnit
    | with_reducible apply kept_finish
    | with_reducible apply keptO_ite
    | with_reducible apply kept_ite
    | with_reducible apply keptO_next
    | with_reducible apply keptO_fault
    | (with_reducible refine Kept1.of_eq (kept_confirmUnit _ _ (hm.of rfl) ?_) (by assumption))
    | (with_reducible refine Kept1.of_eq (kept_confirmUnit _ _ _ (hm.of rfl) ?_) (by assumption))
    | (with_reducible refine Kept1.of_eq (kept_confirmUnit _ (hm.of rfl) ?_) (by assumption))

theorem kept_execFallback {m : Nat} {s0 : State} (q : Fin 5) {s : State} (hm : Covers m 0x407904efed2) (h1 : Kept m s0 s) :
    KeptO m s0 (execFallback q s) := by
  unfold execFallback
  repeat' first
    | with_reducible assumption
    | intro _
    | with_reducible exact hm.of rfl
    | with_reducible apply kept_runArm
    | with_reducible apply keptO_next
    | with_reducible apply keptO_fault

theorem kept_execCancel {m : Nat} {s0 : State} (q : Fin 5) {s : State} (hm : Covers m 0x416700006c2) (h1 : Kept m s0 s) :
    KeptO m s0 (execCancel q s) := by
  unfold execCancel
  repeat' first
    | with_reducible assumption
    | intro _
    | (extract_lets +onlyGivenNames x; clear_value x; revert x; intro y)
    | with_reducible exact hm.of rfl
    | with_reducible apply kept_starting
    | with_reducible apply kept_notAllowed
    | with_reducible apply kept_finish
    | with_reducible apply kept_setErr
    | with_reducible apply kept_withdraw
    | with_reducible apply keptO_ite
    | with_reducible apply kept_ite
    | with_reducible apply keptO_next
    | with_reducible apply keptO_fault

theorem kept_execPilot {m : Nat} {s0 : State} (q : Fin 5) {s : State} (hm : Covers m 0x7bfeffefefe) (h1 : Kept m s0 s) :
    KeptO m s0 (execPilot q s) := by
  unfold execPilot
  repeat' first
    | with_reducible assumption
    | intro _
    | with_reducible exact hm.of rfl
    | with_reducible apply kept_starting
    | with_reducible apply kept_resetToPilot
    | with_reducible apply kept_finish
    | with_reducible apply keptO_ite
    | with_reducible apply kept_ite
    | with_reducible apply keptO_next
    | with_reducible apply keptO_fault

theorem kept_execWaypointReached {m : Nat} {s0 : State} {s : State} (hm : Covers m 0x6bff7eefefe) (h1 : Kept m s0 s) :
    KeptO m s0 (execWaypointReached s) := by
  unfold execWaypointReached
  repeat' first
    | with_reducible assumption
    | intro _
    | with_reducible exact hm.of rfl
    | with_reducible apply kept_reachUnit
    | with_reducible apply keptO_next
    | with_reducible apply keptO_fault
    | with_reducible apply kept_forN

theorem kept_execHandoverRequest {m : Nat} {s0 : State} (t : Fin 4) {s : State} (hm : Covers m 0x417f002fc92) (h1 : Kept m s0 s) :
    KeptO m s0 (execHandoverRequest t s) := by
  unfold execHandoverRequest
  repeat' first
    | with_reducible assumption
    | intro _
    | with_reducible exact hm.of rfl
    | with_reducible apply kept_askHandover
    | with_reducible apply keptO_next
    | with_reducible apply keptO_fault

theorem kept_execHandoverReady {m : Nat} {s0 : State} (r : Req) (t : Fin 4) {s : State} (hm : Covers m 0x402) (h1 : Kept m s0 s) :
    KeptO m s0 (execHandoverReady r t s) := by
  unfold execHandoverReady
  repeat' first
    | with_reducible assumption
    | intro _
    | with_reducible exact hm.of rfl
    | with_reducible apply kept_readyHandover
    | with_reducible apply keptO_next
    | with_reducible apply keptO_fault

theorem kept_execVitalImageSwitch {m : Nat} {s0 : State} (t : Fin 4) {s : State} (hm : Covers m 0x6bff7eefefe) (h1 : Kept m s0 s) :
    KeptO m s0 (execVitalImageSwitch t s) := by
  unfold execVitalImageSwitch
  repeat' first
    | with_reducible assumption
    | intro _
    | with_reducible exact hm.of rfl
    | with_reducible apply kept_switchImage
    | with_reducible apply keptO_next
    | with_reducible apply keptO_fault

theorem kept_execFirmwareSwitchHold {m : Nat} {s0 : State} (n : Fin 8) (running : Bool) {s : State} (hm : Covers m 0x6bff7eefefe) (h1 : Kept m s0 s) :
    KeptO m s0 (execFirmwareSwitchHold n running s) := by
  unfold execFirmwareSwitchHold
  repeat' first
    | with_reducible assumption
    | intro _
    | with_reducible exact hm.of rfl
    | with_reducible apply kept_firmware
    | with_reducible apply keptO_next
    | with_reducible apply keptO_fault

theorem kept_execAfwSwitchFail {m : Nat} {s0 : State} (n : Fin 8) {s : State} (hm : Covers m 0x41660000482) (h1 : Kept m s0 s) :
    KeptO m s0 (execAfwSwitchFail n s) := by
  unfold execAfwSwitchFail
  repeat' first
    | with_reducible assumption
    | intro _
    | with_reducible exact hm.of rfl
    | with_reducible apply kept_firmwareFails
    | with_reducible apply keptO_next
    | with_reducible apply keptO_fault

theorem kept_execMapareaWrite {m : Nat} {s0 : State} (_r : Req) (base : BitVec 40) {s : State} (hm : Covers m 0x402) (h1 : Kept m s0 s) :
    KeptO m s0 (execMapareaWrite _r base s) := by
  unfold execMapareaWrite
  repeat' first
    | with_reducible assumption
    | intro _
    | with_reducible exact hm.of rfl
    | with_reducible apply kept_writeMapArea
    | with_reducible apply keptO_next
    | with_reducible apply keptO_fault

theorem kept_execBackgroundCheck {m : Nat} {s0 : State} {s : State} (hm : Covers m 0x4078006fc92) (h1 : Kept m s0 s) :
    KeptO m s0 (execBackgroundCheck s) := by
  unfold execBackgroundCheck
  repeat' first
    | with_reducible assumption
    | intro _
    | with_reducible exact hm.of rfl
    | with_reducible apply kept_background
    | with_reducible apply keptO_next
    | with_reducible apply keptO_fault

theorem kept_execPilotEntry {m : Nat} {s0 : State} {s : State} (hm : Covers m 0x40668003cae) (h1 : Kept m s0 s) :
    KeptO m s0 (execPilotEntry s) := by
  unfold execPilotEntry
  repeat' first
    | with_reducible assumption
    | intro _
    | with_reducible exact hm.of rfl
    | with_reducible apply kept_enterPilot
    | with_reducible apply keptO_next
    | with_reducible apply keptO_fault

theorem kept_execTftpStage {m : Nat} {s0 : State} (package : List Byte) (countersOk : Bool) {s : State} (hm : Covers m 0x407904efcb2) (h1 : Kept m s0 s) :
    KeptO m s0 (execTftpStage package countersOk s) := by
  unfold execTftpStage
  repeat' first
    | with_reducible assumption
    | intro _
    | with_reducible exact hm.of rfl
    | with_reducible apply kept_pilotStage
    | with_reducible apply keptO_next
    | with_reducible apply keptO_fault

theorem kept_execTftpFallback {m : Nat} {s0 : State} (u : Fin 25) {s : State} (hm : Covers m 0x407904efcb2) (h1 : Kept m s0 s) :
    KeptO m s0 (execTftpFallback u s) := by
  unfold execTftpFallback
  repeat' first
    | with_reducible assumption
    | (intro hx; clear_value x; revert hx; revert x; intro y hy)
    | (intro hz; clear_value z; revert hz; revert z; intro y hy)
    | intro _
    | (subst x)
    | (subst z)
    | (extract_lets +onlyGivenNames x; refine kept_cut (m := m) (s0 := s0) (x := x) ?_ ?_)
    | (extract_lets +onlyGivenNames z; refine kept_cut (m := m) (s0 := s0) (x := z.1) ?_ ?_)
    | (extract_lets +onlyGivenNames x; clear_value x; revert x; intro y)
    | with_reducible exact hm.of rfl
    | with_reducible apply kept_arm
    | with_reducible apply kept_tftpDone
    | with_reducible apply keptO_ite
    | with_reducible apply kept_ite
    | with_reducible apply keptO_next
    | with_reducible apply keptO_fault
    | (with_reducible refine Kept1.of_eq (kept_arm _ _ (hm.of rfl) ?_) (by assumption))
    | (with_reducible refine Kept1.of_eq (kept_arm _ _ _ (hm.of rfl) ?_) (by assumption))
    | (with_reducible refine Kept1.of_eq (kept_arm _ (hm.of rfl) ?_) (by assumption))

theorem kept_execTftpReset {m : Nat} {s0 : State} {s : State} (hm : Covers m 0x7bfeffefefe) (h1 : Kept m s0 s) :
    KeptO m s0 (execTftpReset s) := by
  unfold execTftpReset
  repeat' first
    | with_reducible assumption
    | intro _
    | with_reducible exact hm.of rfl
    | with_reducible apply kept_setFree
    | with_reducible apply kept_resetModule
    | with_reducible apply keptO_ite
    | with_reducible apply kept_ite
    | with_reducible apply keptO_next
    | with_reducible apply keptO_fault

theorem kept_execTftpStatus {m : Nat} {s0 : State} {s : State} (hm : Covers m 0x20) (h1 : Kept m s0 s) :
    KeptO m s0 (execTftpStatus s) := by
  unfold execTftpStatus
  repeat' first
    | with_reducible assumption
    | intro _
    | with_reducible exact hm.of rfl
    | with_reducible apply kept_tftpReply
    | with_reducible apply keptO_ite
    | with_reducible apply kept_ite
    | with_reducible apply keptO_next
    | with_reducible apply keptO_fault

theorem kept_execModreset {m : Nat} {s0 : State} (cert : Cert) (pilot : Bool) {s : State} (hm : Covers m 0x7bfeffefefe) (h1 : Kept m s0 s) :
    KeptO m s0 (execModreset cert pilot s) := by
  unfold execModreset
  repeat' first
    | with_reducible assumption
    | intro _
    | with_reducible exact hm.of rfl
    | with_reducible apply kept_resetToPilot
    | with_reducible apply kept_resetModule
    | with_reducible apply kept_raiseReq
    | with_reducible apply kept_deny
    | with_reducible apply keptO_ite
    | with_reducible apply kept_ite
    | with_reducible apply keptO_next
    | with_reducible apply keptO_fault

end Sys2Proof.Machine
end

