-- ==== Sys2Proof/Laws/KeptPower.lean ====
section
/-! SUPPORT. What the operations of Machine/Power.lean keep (Safety.lean, `Kept`): one lemma each, which cites those of the operations it calls. -/

namespace Sys2Proof.Machine

theorem kept_modPwr {m : Nat} {s0 : State} {s : State} (f : Pwr → Pwr) (hm : Covers m 0x20000000000) (h1 : Kept m s0 s) :
    Kept m s0 (modPwr s f) := by
  unfold modPwr
  repeat' first
    | with_reducible assumption
    | intro _
    | with_reducible exact hm.of rfl
    | (with_reducible refine kept_upd_pwr (hm.of rfl) ?_; with_reducible assumption)

theorem kept_raisePwr {m : Nat} {s0 : State} (cls : Nat) (tile : Nat) {s : State} (hm : Covers m 0x402) (h1 : Kept m s0 s) :
    Kept m s0 (raisePwr cls tile s) := by
  unfold raisePwr
  repeat' first
    | with_reducible assumption
    | intro _
    | with_reducible exact hm.of rfl
    | with_reducible apply kept_raiseVia

theorem kept_startOffDly {m : Nat} {s0 : State} {s : State} (hm : Covers m 0x20600000482) (h1 : Kept m s0 s) :
    Kept m s0 (startOffDly s) := by
  unfold startOffDly
  repeat' first
    | with_reducible assumption
    | intro _
    | with_reducible exact hm.of rfl
    | with_reducible apply kept_evtPwr
    | with_reducible apply kept_modPwr
    | with_reducible apply kept_setF

theorem kept_acceptWake {m : Nat} {s0 : State} (second : Bool) {s : State} (hm : Covers m 0x600000482) (h1 : Kept m s0 s) :
    Kept m s0 (acceptWake second s) := by
  unfold acceptWake
  repeat' first
    | with_reducible assumption
    | (intro hx; clear_value x; revert hx; revert x; intro y hy)
    | intro _
    | (subst x)
    | (extract_lets +onlyGivenNames x; refine kept_cut (m := m) (s0 := s0) (x := x) ?_ ?_)
    | (extract_lets +onlyGivenNames x; clear_value x; revert x; intro y)
    | with_reducible exact hm.of rfl
    | with_reducible apply kept_setF
    | with_reducible apply kept_evtPwr
    | with_reducible apply kept_ite

theorem kept_loseWake {m : Nat} {s0 : State} (second : Bool) {s : State} (hm : Covers m 0x20600000482) (h1 : Kept m s0 s) :
    Kept m s0 (loseWake second s) := by
  unfold loseWake
  repeat' first
    | with_reducible assumption
    | (intro hx; clear_value x; revert hx; revert x; intro y hy)
    | intro _
    | (subst x)
    | (extract_lets +onlyGivenNames x; refine kept_cut (m := m) (s0 := s0) (x := x) ?_ ?_)
    | (extract_lets +onlyGivenNames x; clear_value x; revert x; intro y)
    | with_reducible exact hm.of rfl
    | with_reducible apply kept_setF
    | with_reducible apply kept_modPwr
    | with_reducible apply kept_evtPwr
    | with_reducible apply kept_startOffDly
    | with_reducible apply kept_ite

theorem kept_powerUp {m : Nat} {s0 : State} {s : State} (hm : Covers m 0x20000000002) (h1 : Kept m s0 s) :
    Kept m s0 (powerUp s) := by
  unfold powerUp
  repeat' first
    | with_reducible assumption
    | intro _
    | (extract_lets +onlyGivenNames x; clear_value x; revert x; intro y)
    | with_reducible exact hm.of rfl
    | with_reducible apply kept_setF
    | with_reducible apply kept_modPwr
    | with_reducible apply kept_ite

theorem kept_advanceCount {m : Nat} {s0 : State} (ok : Bool) {s : State} (hm : Covers m 0x402) (h1 : Kept m s0 s) :
    Kept m s0 (advanceCount ok s) := by
  unfold advanceCount
  repeat' first
    | with_reducible assumption
    | intro _
    | with_reducible exact hm.of rfl
    | with_reducible apply kept_raise
    | with_reducible apply kept_setF
    | with_reducible apply kept_incF
    | with_reducible apply kept_ite

theorem kept_meridianStart {m : Nat} {s0 : State} {s : State} (hm : Covers m 0x200002) (h1 : Kept m s0 s) :
    Kept m s0 (meridianStart s) := by
  unfold meridianStart
  repeat' first
    | with_reducible assumption
    | (intro hx; clear_value x; revert hx; revert x; intro y hy)
    | intro _
    | (subst x)
    | (extract_lets +onlyGivenNames x; refine kept_cut (m := m) (s0 := s0) (x := x) ?_ ?_)
    | (extract_lets +onlyGivenNames x; clear_value x; revert x; intro y)
    | with_reducible exact hm.of rfl
    | (with_reducible refine kept_upd_mer (hm.of rfl) ?_; with_reducible assumption)
    | with_reducible apply kept_setF
    | with_reducible apply kept_forN

theorem kept_goodPower {m : Nat} {s0 : State} (counterOk : Bool) {s : State} (hm : Covers m 0x60600200482) (h1 : Kept m s0 s) :
    Kept m s0 (goodPower counterOk s) := by
  unfold goodPower
  repeat' first
    | with_reducible assumption
    | (intro hx; clear_value x; revert hx; revert x; intro y hy)
    | intro _
    | (subst x)
    | (extract_lets +onlyGivenNames x; refine kept_cut (m := m) (s0 := s0) (x := x) ?_ ?_)
    | (extract_lets +onlyGivenNames x; clear_value x; revert x; intro y)
    | with_reducible exact hm.of rfl
    | with_reducible apply kept_meridianStart
    | with_reducible apply kept_modPwr
    | with_reducible apply kept_advanceCount
    | with_reducible apply kept_setF
    | with_reducible apply kept_raisePwr
    | with_reducible apply kept_showLog
    | with_reducible apply kept_showPend
    | with_reducible apply kept_modUpd
    | with_reducible apply kept_startOffDly
    | with_reducible apply kept_ite

theorem kept_placeCores {m : Nat} {s0 : State} (fails : BitVec 14) {s : State} (hm : Covers m 0x402) (h1 : Kept m s0 s) :
    Kept m s0 (placeCores fails s) := by
  unfold placeCores
  repeat' first
    | with_reducible assumption
    | (intro hx; clear_value x; revert hx; revert x; intro y hy)
    | intro _
    | (subst x)
    | (extract_lets +onlyGivenNames x; refine kept_cut (m := m) (s0 := s0) (x := x) ?_ ?_)
    | (extract_lets +onlyGivenNames x; clear_value x; revert x; intro y)
    | with_reducible exact hm.of rfl
    | with_reducible apply kept_raise
    | with_reducible apply kept_setCore
    | with_reducible apply kept_setF
    | with_reducible apply kept_ite
    | with_reducible apply kept_foldl
    | with_reducible apply kept_foldl1
    | with_reducible apply kept_forN
    | split

theorem kept_clearDram {m : Nat} {s0 : State} {s : State} (hm : Covers m 0x3800) (h1 : Kept m s0 s) :
    Kept m s0 (clearDram s) := by
  unfold clearDram
  repeat' first
    | with_reducible assumption
    | intro _
    | with_reducible exact hm.of rfl
    | ((with_reducible refine kept_upd_mem_chk_caches (hm.of rfl) ?_ ?_ ?_) <;> first | with_reducible exact id | with_reducible exact kwf_putFile _ _ _ _ | with_reducible exact kwf_kput 0 _ _ _ | exact fun e => (length_modAt _ _ _).trans e | exact fun e => (List.length_map ..).trans e | exact fun _ => rfl | exact kwf_filter 0 _ _ | exact kwf_foldl_kput 0 _ _ | exact kwf_kput 0 _ _ _ | (with_reducible assumption))

theorem kept_bootTable {m : Nat} {s0 : State} {s : State} (hm : Covers m 0x610000482) (h1 : Kept m s0 s) :
    Kept m s0 (bootTable s) := by
  unfold bootTable
  repeat' first
    | with_reducible assumption
    | intro _
    | (extract_lets +onlyGivenNames x; clear_value x; revert x; intro y)
    | with_reducible exact hm.of rfl
    | with_reducible apply kept_commitNow
    | with_reducible apply kept_setF
    | with_reducible apply kept_ite
    | with_reducible apply kept_forN

theorem kept_bootFrontEnds {m : Nat} {s0 : State} {s : State} (hm : Covers m 0x2) (h1 : Kept m s0 s) :
    Kept m s0 (bootFrontEnds s) := by
  unfold bootFrontEnds
  repeat' first
    | with_reducible assumption
    | (intro hx; clear_value x; revert hx; revert x; intro y hy)
    | intro _
    | (subst x)
    | (extract_lets +onlyGivenNames x; refine kept_cut (m := m) (s0 := s0) (x := x) ?_ ?_)
    | (extract_lets +onlyGivenNames x; clear_value x; revert x; intro y)
    | with_reducible exact hm.of rfl
    | with_reducible apply kept_setF
    | with_reducible apply kept_ite
    | with_reducible apply kept_forN

theorem kept_bootTriads {m : Nat} {s0 : State} {s : State} (hm : Covers m 0x42402) (h1 : Kept m s0 s) :
    Kept m s0 (bootTriads s) := by
  unfold bootTriads
  repeat' first
    | with_reducible assumption
    | intro _
    | with_reducible exact hm.of rfl
    | with_reducible apply kept_startTriad
    | with_reducible apply kept_ite
    | with_reducible apply kept_forN

theorem kept_checkVready {m : Nat} {s0 : State} {s : State} (hm : Covers m 0x600000482) (h1 : Kept m s0 s) :
    Kept m s0 (checkVready s) := by
  unfold checkVready
  repeat' first
    | with_reducible assumption
    | intro _
    | (extract_lets +onlyGivenNames x; clear_value x; revert x; intro y)
    | with_reducible exact hm.of rfl
    | with_reducible apply kept_evtPwr
    | with_reducible apply kept_setF
    | with_reducible apply kept_ite

theorem kept_nextStage {m : Nat} {s0 : State} (coreFails : BitVec 14) (countersOk : Bool) {s : State} (hm : Covers m 0x607f806fcbe) (h1 : Kept m s0 s) :
    Kept m s0 (nextStage coreFails countersOk s) := by
  unfold nextStage
  repeat' first
    | with_reducible assumption
    | (intro hx; clear_value x; revert hx; revert x; intro y hy)
    | (intro (hw : ∀ t, Kept m s0 t → Kept m s0 (w t)); clear_value w; revert hw; revert w; intro v hv)
    | (intro (hw : ∀ a t, Kept m s0 t → Kept m s0 (w a t)); clear_value w; revert hw; revert w; intro v hv)
    | (intro (hw : ∀ a, Kept m s0 (w a)); clear_value w; revert hw; revert w; intro v hv)
    | intro _
    | (subst x)
    | (extract_lets +onlyGivenNames x; refine kept_cut (m := m) (s0 := s0) (x := x) ?_ ?_)
    | (subst w)
    | (extract_lets +onlyGivenNames w; refine kept_cutF1 (m := m) (s0 := s0) (x := w) ?_ ?_)
    | (extract_lets +onlyGivenNames w; refine kept_cutF2 (m := m) (s0 := s0) (x := w) ?_ ?_)
    | (extract_lets +onlyGivenNames w; refine kept_cutF0 (m := m) (s0 := s0) (x := w) ?_ ?_)
    | (extract_lets +onlyGivenNames x; clear_value x; revert x; intro y)
    | with_reducible apply hv
    | with_reducible exact hm.of rfl
    | with_reducible apply kept_checkVready
    | with_reducible apply kept_setF
    | with_reducible apply kept_showLog
    | with_reducible apply kept_followEn
    | with_reducible apply kept_modUpd
    | with_reducible apply kept_placeCores
    | with_reducible apply kept_clearDram
    | with_reducible apply kept_verifyStage
    | with_reducible apply kept_bootTable
    | with_reducible apply kept_bootTriads
    | with_reducible apply kept_enableAnl
    | with_reducible apply kept_enableFio
    | with_reducible apply kept_bootFrontEnds
    | with_reducible apply kept_ite
    | with_reducible apply kept_forN

theorem kept_svcIsReady {m : Nat} {s0 : State} {s : State} (hm : Covers m 0x600000482) (h1 : Kept m s0 s) :
    Kept m s0 (svcIsReady s) := by
  unfold svcIsReady
  repeat' first
    | with_reducible assumption
    | intro _
    | with_reducible exact hm.of rfl
    | with_reducible apply kept_evtPwr
    | with_reducible apply kept_setF

theorem kept_interrupt {m : Nat} {s0 : State} {s : State} (hm : Covers m 0x20600000482) (h1 : Kept m s0 s) :
    Kept m s0 (interrupt s) := by
  unfold interrupt
  repeat' first
    | with_reducible assumption
    | (intro hx; clear_value x; revert hx; revert x; intro y hy)
    | intro _
    | (subst x)
    | (extract_lets +onlyGivenNames x; refine kept_cut (m := m) (s0 := s0) (x := x) ?_ ?_)
    | (extract_lets +onlyGivenNames x; clear_value x; revert x; intro y)
    | with_reducible exact hm.of rfl
    | with_reducible apply kept_modPwr
    | with_reducible apply kept_evtPwr
    | with_reducible apply kept_incF
    | with_reducible apply kept_setF
    | with_reducible apply kept_ite

theorem kept_restorePower {m : Nat} {s0 : State} {s : State} (hm : Covers m 0x20000000402) (h1 : Kept m s0 s) :
    Kept m s0 (restorePower s) := by
  unfold restorePower
  repeat' first
    | with_reducible assumption
    | (intro hx; clear_value x; revert hx; revert x; intro y hy)
    | intro _
    | (subst x)
    | (extract_lets +onlyGivenNames x; refine kept_cut (m := m) (s0 := s0) (x := x) ?_ ?_)
    | (extract_lets +onlyGivenNames x; clear_value x; revert x; intro y)
    | with_reducible exact hm.of rfl
    | with_reducible apply kept_modPwr
    | with_reducible apply kept_setF
    | with_reducible apply kept_raisePwr
    | with_reducible apply kept_ite

theorem kept_shed {m : Nat} {s0 : State} {s : State} (hm : Covers m 0x2) (h1 : Kept m s0 s) :
    Kept m s0 (shed s) := by
  unfold shed
  repeat' first
    | with_reducible assumption
    | intro _
    | with_reducible exact hm.of rfl
    | with_reducible apply kept_setF
    | with_reducible apply kept_foldl
    | with_reducible apply kept_foldl1

theorem kept_startSequence {m : Nat} {s0 : State} (seq : Nat) {s : State} (hm : Covers m 0x30000000002) (h1 : Kept m s0 s) :
    Kept m s0 (startSequence seq s) := by
  unfold startSequence
  repeat' first
    | with_reducible assumption
    | intro _
    | with_reducible exact hm.of rfl
    | with_reducible apply kept_shed
    | with_reducible apply kept_startFlush
    | with_reducible apply kept_modPwr
    | with_reducible apply kept_setF
    | with_reducible apply kept_ite

theorem kept_declareFail {m : Nat} {s0 : State} (reserve : Bool) {s : State} (hm : Covers m 0x30000000402) (h1 : Kept m s0 s) :
    Kept m s0 (declareFail reserve s) := by
  unfold declareFail
  repeat' first
    | with_reducible assumption
    | intro _
    | with_reducible exact hm.of rfl
    | with_reducible apply kept_startSequence
    | with_reducible apply kept_raisePwr
    | with_reducible apply kept_incF
    | with_reducible apply kept_setF
    | with_reducible apply kept_ite

theorem kept_offDlyEnds {m : Nat} {s0 : State} {s : State} (hm : Covers m 0x30000000002) (h1 : Kept m s0 s) :
    Kept m s0 (offDlyEnds s) := by
  unfold offDlyEnds
  repeat' first
    | with_reducible assumption
    | intro _
    | with_reducible exact hm.of rfl
    | with_reducible apply kept_startSequence
    | with_reducible apply kept_ite

theorem kept_writePwroff {m : Nat} {s0 : State} (r : Req) (key : Nat) {s : State} (hm : Covers m 0x30000000002) (h1 : Kept m s0 s) :
    Kept m s0 (writePwroff r key s) := by
  unfold writePwroff
  repeat' first
    | with_reducible assumption
    | intro _
    | with_reducible exact hm.of rfl
    | with_reducible apply kept_startSequence
    | with_reducible apply kept_ite

theorem kept_endSequence {m : Nat} {s0 : State} (complete : Bool) {s : State} (hm : Covers m 0xffffffffefe) (h1 : Kept m s0 s) :
    Kept m s0 (endSequence complete s) := by
  unfold endSequence
  repeat' first
    | with_reducible assumption
    | intro _
    | with_reducible exact hm.of rfl
    | with_reducible apply kept_unpowered
    | with_reducible apply kept_modPwr
    | with_reducible apply kept_outputsOff
    | with_reducible apply kept_flushAll
    | with_reducible apply kept_ite

theorem kept_writeReset {m : Nat} {s0 : State} (r : Req) (key : Nat) {s : State} (hm : Covers m 0x7bfeffefefe) (h1 : Kept m s0 s) :
    Kept m s0 (writeReset r key s) := by
  unfold writeReset
  repeat' first
    | with_reducible assumption
    | intro _
    | with_reducible exact hm.of rfl
    | with_reducible apply kept_resetModule
    | with_reducible apply kept_ite

theorem kept_measureTemp {m : Nat} {s0 : State} (a1 : BitVec 8) {s : State} (hm : Covers m 0x80000000002) (h1 : Kept m s0 s) :
    Kept m s0 (measureTemp a1 s) := by
  unfold measureTemp
  repeat' first
    | with_reducible assumption
    | (intro hx; clear_value x; revert hx; revert x; intro y hy)
    | intro _
    | (subst x)
    | (extract_lets +onlyGivenNames x; refine kept_cut (m := m) (s0 := s0) (x := x) ?_ ?_)
    | (extract_lets +onlyGivenNames x; clear_value x; revert x; intro y)
    | with_reducible exact hm.of rfl
    | (with_reducible refine kept_upd_therm (hm.of rfl) ?_; with_reducible assumption)
    | with_reducible apply kept_setF
    | with_reducible apply kept_incF
    | with_reducible apply kept_ite

theorem kept_setTherm {m : Nat} {s0 : State} (a1 : Nat) {s : State} (hm : Covers m 0x80000000402) (h1 : Kept m s0 s) :
    Kept m s0 (setTherm a1 s) := by
  unfold setTherm
  repeat' first
    | with_reducible assumption
    | intro _
    | (extract_lets +onlyGivenNames x; clear_value x; revert x; intro y)
    | with_reducible exact hm.of rfl
    | (with_reducible refine kept_upd_therm (hm.of rfl) ?_; with_reducible assumption)
    | with_reducible apply kept_raiseVia
    | with_reducible apply kept_setF

theorem kept_changeTherm {m : Nat} {s0 : State} {s : State} (hm : Covers m 0x80000000402) (h1 : Kept m s0 s) :
    Kept m s0 (changeTherm s) := by
  unfold changeTherm
  repeat' first
    | with_reducible assumption
    | intro _
    | (extract_lets +onlyGivenNames x; clear_value x; revert x; intro y)
    | with_reducible exact hm.of rfl
    | with_reducible apply kept_raiseCause
    | with_reducible apply kept_setF
    | with_reducible apply kept_setTherm
    | with_reducible apply kept_ite

theorem kept_moveCover {m : Nat} {s0 : State} (removed : Bool) {s : State} (hm : Covers m 0x402) (h1 : Kept m s0 s) :
    Kept m s0 (moveCover removed s) := by
  unfold moveCover
  repeat' first
    | with_reducible assumption
    | (intro hx; clear_value x; revert hx; revert x; intro y hy)
    | intro _
    | (subst x)
    | (extract_lets +onlyGivenNames x; refine kept_cut (m := m) (s0 := s0) (x := x) ?_ ?_)
    | (extract_lets +onlyGivenNames x; clear_value x; revert x; intro y)
    | with_reducible exact hm.of rfl
    | with_reducible apply kept_setB
    | with_reducible apply kept_raiseVia
    | with_reducible apply kept_ite

theorem kept_starLink {m : Nat} {s0 : State} (p : Nat) (up : Bool) (inFlight : Option Nat) {s : State} (hm : Covers m 0x400022) (h1 : Kept m s0 s) :
    Kept m s0 (starLink p up inFlight s) := by
  unfold starLink
  repeat' first
    | with_reducible assumption
    | (intro hx; clear_value x; revert hx; revert x; intro y hy)
    | intro _
    | (subst x)
    | (extract_lets +onlyGivenNames x; refine kept_cut (m := m) (s0 := s0) (x := x) ?_ ?_)
    | (extract_lets +onlyGivenNames x; clear_value x; revert x; intro y)
    | with_reducible exact hm.of rfl
    | with_reducible apply kept_setB
    | with_reducible apply kept_truncateNow
    | split

theorem kept_execWakeAccept {m : Nat} {s0 : State} (second : Bool) {s : State} (hm : Covers m 0x600000482) (h1 : Kept m s0 s) :
    KeptO m s0 (execWakeAccept second s) := by
  unfold execWakeAccept
  repeat' first
    | with_reducible assumption
    | intro _
    | with_reducible exact hm.of rfl
    | with_reducible apply kept_acceptWake
    | with_reducible apply keptO_next
    | with_reducible apply keptO_fault

theorem kept_execWakeInputOff {m : Nat} {s0 : State} (second : Bool) {s : State} (hm : Covers m 0x20600000482) (h1 : Kept m s0 s) :
    KeptO m s0 (execWakeInputOff second s) := by
  unfold execWakeInputOff
  repeat' first
    | with_reducible assumption
    | intro _
    | with_reducible exact hm.of rfl
    | with_reducible apply kept_loseWake
    | with_reducible apply keptO_next
    | with_reducible apply keptO_fault

theorem kept_execPowerUp {m : Nat} {s0 : State} {s : State} (hm : Covers m 0x20000000002) (h1 : Kept m s0 s) :
    KeptO m s0 (execPowerUp s) := by
  unfold execPowerUp
  repeat' first
    | with_reducible assumption
    | intro _
    | with_reducible exact hm.of rfl
    | with_reducible apply kept_powerUp
    | with_reducible apply keptO_next
    | with_reducible apply keptO_fault

theorem kept_execPowerGood {m : Nat} {s0 : State} (counterOk : Bool) {s : State} (hm : Covers m 0x60600200482) (h1 : Kept m s0 s) :
    KeptO m s0 (execPowerGood counterOk s) := by
  unfold execPowerGood
  repeat' first
    | with_reducible assumption
    | intro _
    | with_reducible exact hm.of rfl
    | with_reducible apply kept_goodPower
    | with_reducible apply keptO_next
    | with_reducible apply keptO_fault

theorem kept_execBootStage {m : Nat} {s0 : State} (coreFails : BitVec 14) (countersOk : Bool) {s : State} (hm : Covers m 0x607f806fcbe) (h1 : Kept m s0 s) :
    KeptO m s0 (execBootStage coreFails countersOk s) := by
  unfold execBootStage
  repeat' first
    | with_reducible assumption
    | intro _
    | with_reducible exact hm.of rfl
    | with_reducible apply kept_nextStage
    | with_reducible apply keptO_next
    | with_reducible apply keptO_fault

theorem kept_execSvcready {m : Nat} {s0 : State} (_r : Req) {s : State} (hm : Covers m 0x600000482) (h1 : Kept m s0 s) :
    KeptO m s0 (execSvcready _r s) := by
  unfold execSvcready
  repeat' first
    | with_reducible assumption
    | intro _
    | with_reducible exact hm.of rfl
    | with_reducible apply kept_svcIsReady
    | with_reducible apply keptO_next
    | with_reducible apply keptO_fault

theorem kept_execInterruptionStart {m : Nat} {s0 : State} {s : State} (hm : Covers m 0x20600000482) (h1 : Kept m s0 s) :
    KeptO m s0 (execInterruptionStart s) := by
  unfold execInterruptionStart
  repeat' first
    | with_reducible assumption
    | intro _
    | with_reducible exact hm.of rfl
    | with_reducible apply kept_interrupt
    | with_reducible apply keptO_next
    | with_reducible apply keptO_fault

theorem kept_execInterruptionEnd {m : Nat} {s0 : State} {s : State} (hm : Covers m 0x20000000402) (h1 : Kept m s0 s) :
    KeptO m s0 (execInterruptionEnd s) := by
  unfold execInterruptionEnd
  repeat' first
    | with_reducible assumption
    | intro _
    | with_reducible exact hm.of rfl
    | with_reducible apply kept_restorePower
    | with_reducible apply keptO_next
    | with_reducible apply keptO_fault

theorem kept_execPowerFailDeclare {m : Nat} {s0 : State} (reserve : Bool) {s : State} (hm : Covers m 0x30000000402) (h1 : Kept m s0 s) :
    KeptO m s0 (execPowerFailDeclare reserve s) := by
  unfold execPowerFailDeclare
  repeat' first
    | with_reducible assumption
    | intro _
    | with_reducible exact hm.of rfl
    | with_reducible apply kept_declareFail
    | with_reducible apply keptO_next
    | with_reducible apply keptO_fault

theorem kept_execPowerDownEnd {m : Nat} {s0 : State} (complete : Bool) {s : State} (hm : Covers m 0xffffffffefe) (h1 : Kept m s0 s) :
    KeptO m s0 (execPowerDownEnd complete s) := by
  unfold execPowerDownEnd
  repeat' first
    | with_reducible assumption
    | intro _
    | with_reducible exact hm.of rfl
    | with_reducible apply kept_endSequence
    | with_reducible apply keptO_next
    | with_reducible apply keptO_fault

theorem kept_execBankMeasure {m : Nat} {s0 : State} (mj : BitVec 16) {s : State} (hm : Covers m 0x402) (h1 : Kept m s0 s) :
    KeptO m s0 (execBankMeasure mj s) := by
  unfold execBankMeasure
  repeat' first
    | with_reducible assumption
    | (intro hx; clear_value x; revert hx; revert x; intro y hy)
    | intro _
    | (subst x)
    | (extract_lets +onlyGivenNames x; refine kept_cut (m := m) (s0 := s0) (x := x) ?_ ?_)
    | (extract_lets +onlyGivenNames x; clear_value x; revert x; intro y)
    | with_reducible exact hm.of rfl
    | with_reducible apply kept_setF
    | with_reducible apply kept_raisePwr
    | with_reducible apply keptO_ite
    | with_reducible apply kept_ite
    | with_reducible apply keptO_next
    | with_reducible apply keptO_fault

theorem kept_execOffdlyExpiry {m : Nat} {s0 : State} {s : State} (hm : Covers m 0x30000000002) (h1 : Kept m s0 s) :
    KeptO m s0 (execOffdlyExpiry s) := by
  unfold execOffdlyExpiry
  repeat' first
    | with_reducible assumption
    | intro _
    | with_reducible exact hm.of rfl
    | with_reducible apply kept_offDlyEnds
    | with_reducible apply keptO_next
    | with_reducible apply keptO_fault

theorem kept_execPwroff {m : Nat} {s0 : State} (r : Req) (key : BitVec 16) {s : State} (hm : Covers m 0x30000000002) (h1 : Kept m s0 s) :
    KeptO m s0 (execPwroff r key s) := by
  unfold execPwroff
  repeat' first
    | with_reducible assumption
    | intro _
    | with_reducible exact hm.of rfl
    | with_reducible apply kept_writePwroff
    | with_reducible apply keptO_next
    | with_reducible apply keptO_fault

theorem kept_execModuleReset {m : Nat} {s0 : State} (r : Req) (key : BitVec 16) {s : State} (hm : Covers m 0x7bfeffefefe) (h1 : Kept m s0 s) :
    KeptO m s0 (execModuleReset r key s) := by
  unfold execModuleReset
  repeat' first
    | with_reducible assumption
    | intro _
    | with_reducible exact hm.of rfl
    | with_reducible apply kept_writeReset
    | with_reducible apply keptO_next
    | with_reducible apply keptO_fault

theorem kept_execThermalMeasure {m : Nat} {s0 : State} (tref : BitVec 8) {s : State} (hm : Covers m 0x80000000002) (h1 : Kept m s0 s) :
    KeptO m s0 (execThermalMeasure tref s) := by
  unfold execThermalMeasure
  repeat' first
    | with_reducible assumption
    | intro _
    | with_reducible exact hm.of rfl
    | with_reducible apply kept_measureTemp
    | with_reducible apply keptO_next
    | with_reducible apply keptO_fault

theorem kept_execThermalStateChange {m : Nat} {s0 : State} {s : State} (hm : Covers m 0x80000000402) (h1 : Kept m s0 s) :
    KeptO m s0 (execThermalStateChange s) := by
  unfold execThermalStateChange
  repeat' first
    | with_reducible assumption
    | intro _
    | with_reducible exact hm.of rfl
    | with_reducible apply kept_changeTherm
    | with_reducible apply keptO_next
    | with_reducible apply keptO_fault

theorem kept_execCover {m : Nat} {s0 : State} (removed : Bool) {s : State} (hm : Covers m 0x402) (h1 : Kept m s0 s) :
    KeptO m s0 (execCover removed s) := by
  unfold execCover
  repeat' first
    | with_reducible assumption
    | intro _
    | with_reducible exact hm.of rfl
    | with_reducible apply kept_moveCover
    | with_reducible apply keptO_next
    | with_reducible apply keptO_fault

theorem kept_execStarPortLinkChange {m : Nat} {s0 : State} (port : Fin 16) (up : Bool) (inFlight : Option Nat) {s : State} (hm : Covers m 0x400022) (h1 : Kept m s0 s) :
    KeptO m s0 (execStarPortLinkChange port up inFlight s) := by
  unfold execStarPortLinkChange
  repeat' first
    | with_reducible assumption
    | intro _
    | with_reducible exact hm.of rfl
    | with_reducible apply kept_starLink
    | with_reducible apply keptO_next
    | with_reducible apply keptO_fault

end Sys2Proof.Machine
end

