-- ==== Sys2Proof/Laws/KeptAccess.lean ====
section
/-! SUPPORT. What the operations of Machine/Access.lean keep (Safety.lean, `Kept`): one lemma each, which cites those of the operations it calls. -/

namespace Sys2Proof.Machine

theorem kept_Wr_on {m : Nat} {s0 : State} (a1 : Wr) (f : Fld) (k : Nat → State → State) {s : State} (h1 : ∀ v0 : Nat, ∀ v1 : State, Kept m s0 v1 → Kept m s0 (k v0 v1)) (h2 : Kept m s0 s) :
    Kept m s0 (Wr.on a1 f k s) := by
  unfold Wr.on
  repeat' first
    | with_reducible assumption
    | intro _
    | with_reducible apply h1
    | with_reducible apply kept_ite

theorem kept_Wr_enable {m : Nat} {s0 : State} (a1 : Wr) (f : Fld) (k : Nat → State → State) {a : State} (h1 : ∀ v0 : Nat, ∀ v1 : State, Kept m s0 v1 → Kept m s0 (k v0 v1)) (h2 : Kept m s0 a) :
    Kept m s0 (Wr.enable a1 f k a) := by
  unfold Wr.enable
  repeat' first
    | with_reducible assumption
    | intro _
    | with_reducible apply h1
    | with_reducible apply kept_Wr_on
    | with_reducible apply kept_ite

theorem kept_Wr_act {m : Nat} {s0 : State} (a1 : Wr) (f : Fld) (k : State → State) {s : State} (h1 : ∀ v0 : State, Kept m s0 v0 → Kept m s0 (k v0)) (h2 : Kept m s0 s) :
    Kept m s0 (Wr.act a1 f k s) := by
  unfold Wr.act
  repeat' first
    | with_reducible assumption
    | intro _
    | with_reducible apply h1
    | with_reducible apply kept_ite

theorem kept_wrSys {m : Nat} {s0 : State} (a1 : Wr) {s : State} (hm : Covers m 0x7ffeffefefe) (h1 : Kept m s0 s) :
    Kept m s0 (wrSys a1 s) := by
  unfold wrSys
  repeat' first
    | with_reducible assumption
    | intro _
    | (extract_lets +onlyGivenNames x; clear_value x; revert x; intro y)
    | with_reducible exact hm.of rfl
    | with_reducible apply kept_Wr_act
    | with_reducible apply kept_popFifo
    | with_reducible apply kept_armFirq
    | with_reducible apply kept_Wr_on
    | with_reducible apply kept_writeMsafe
    | with_reducible apply kept_writePwroff
    | with_reducible apply kept_writeReset
    | with_reducible apply kept_svcIsReady
    | with_reducible apply kept_startReset
    | with_reducible apply kept_quiesce
    | with_reducible apply kept_ite

theorem kept_wrVtc {m : Nat} {s0 : State} (a1 : Wr) {s : State} (hm : Covers m 0x42402) (h1 : Kept m s0 s) :
    Kept m s0 (wrVtc a1 s) := by
  unfold wrVtc
  repeat' first
    | with_reducible assumption
    | intro _
    | (extract_lets +onlyGivenNames x; clear_value x; revert x; intro y)
    | with_reducible exact hm.of rfl
    | with_reducible apply kept_Wr_act
    | with_reducible apply kept_xtestGo
    | with_reducible apply kept_shaltTriad
    | with_reducible apply kept_startTriad
    | with_reducible apply kept_writeVrgn
    | with_reducible apply kept_ite

theorem kept_wrSvc {m : Nat} {s0 : State} (a1 : Wr) {s : State} (hm : Covers m 0x2) (h1 : Kept m s0 s) :
    Kept m s0 (wrSvc a1 s) := by
  unfold wrSvc
  repeat' first
    | with_reducible assumption
    | (intro (hw : ∀ t, Kept m s0 t → Kept m s0 (w t)); clear_value w; revert hw; revert w; intro v hv)
    | (intro (hw : ∀ a t, Kept m s0 t → Kept m s0 (w a t)); clear_value w; revert hw; revert w; intro v hv)
    | (intro (hw : ∀ a, Kept m s0 (w a)); clear_value w; revert hw; revert w; intro v hv)
    | intro _
    | (subst w)
    | (extract_lets +onlyGivenNames w; refine kept_cutF1 (m := m) (s0 := s0) (x := w) ?_ ?_)
    | (extract_lets +onlyGivenNames w; refine kept_cutF2 (m := m) (s0 := s0) (x := w) ?_ ?_)
    | (extract_lets +onlyGivenNames w; refine kept_cutF0 (m := m) (s0 := s0) (x := w) ?_ ?_)
    | (extract_lets +onlyGivenNames x; clear_value x; revert x; intro y)
    | with_reducible apply hv
    | with_reducible exact hm.of rfl
    | with_reducible apply kept_setF
    | with_reducible apply kept_bumpPartition
    | with_reducible apply kept_Wr_act
    | with_reducible apply kept_Wr_on
    | with_reducible apply kept_ite

theorem kept_wrRhl {m : Nat} {s0 : State} (a1 : Wr) {s : State} (hm : Covers m 0x86006006b2) (h1 : Kept m s0 s) :
    Kept m s0 (wrRhl a1 s) := by
  unfold wrRhl
  repeat' first
    | with_reducible assumption
    | (intro hx; clear_value x; revert hx; revert x; intro y hy)
    | intro _
    | (subst x)
    | (extract_lets +onlyGivenNames x; refine kept_cut (m := m) (s0 := s0) (x := x) ?_ ?_)
    | (extract_lets +onlyGivenNames x; clear_value x; revert x; intro y)
    | with_reducible exact hm.of rfl
    | with_reducible apply kept_Wr_enable
    | with_reducible apply kept_enableRhl
    | with_reducible apply kept_disableRhl
    | with_reducible apply kept_Wr_act
    | with_reducible apply kept_armSwitch
    | with_reducible apply kept_Wr_on
    | with_reducible apply kept_enablePort
    | with_reducible apply kept_disablePort
    | with_reducible apply kept_releasePort
    | with_reducible apply kept_forcePort
    | with_reducible apply kept_ite
    | split

theorem kept_writeGateCount {m : Nat} {s0 : State} (n : Nat) (l : Nat) (f : Fld) (a4 : Nat) {s : State} (hm : Covers m 0x2) (h1 : Kept m s0 s) :
    Kept m s0 (writeGateCount n l f a4 s) := by
  unfold writeGateCount
  repeat' first
    | with_reducible assumption
    | intro _
    | with_reducible exact hm.of rfl
    | with_reducible apply kept_setF
    | with_reducible apply kept_ite

theorem kept_wrBkb {m : Nat} {s0 : State} (a1 : Wr) {s : State} (hm : Covers m 0x6010004c2) (h1 : Kept m s0 s) :
    Kept m s0 (wrBkb a1 s) := by
  unfold wrBkb
  repeat' first
    | with_reducible assumption
    | intro _
    | (extract_lets +onlyGivenNames x; clear_value x; revert x; intro y)
    | with_reducible exact hm.of rfl
    | with_reducible apply kept_followBkbCtrl
    | with_reducible apply kept_Wr_act
    | with_reducible apply kept_bumpCtx
    | with_reducible apply kept_Wr_on
    | with_reducible apply kept_enableCtx
    | with_reducible apply kept_setF
    | with_reducible apply kept_flushPort
    | with_reducible apply kept_writeGateCount
    | with_reducible apply kept_ite
    | split

theorem kept_wrMdb {m : Nat} {s0 : State} (a1 : Wr) {s : State} (hm : Covers m 0x6020004c2) (h1 : Kept m s0 s) :
    Kept m s0 (wrMdb a1 s) := by
  unfold wrMdb
  repeat' first
    | with_reducible assumption
    | intro _
    | with_reducible exact hm.of rfl
    | with_reducible apply kept_Wr_act
    | with_reducible apply kept_recoverCan
    | with_reducible apply kept_Wr_enable
    | with_reducible apply kept_enableCan
    | with_reducible apply kept_disableCan
    | with_reducible apply kept_popHp
    | with_reducible apply kept_ite
    | split

theorem kept_wrBrg {m : Nat} {s0 : State} (a1 : Wr) {s : State} (hm : Covers m 0x6040004f2) (h1 : Kept m s0 s) :
    Kept m s0 (wrBrg a1 s) := by
  unfold wrBrg
  repeat' first
    | with_reducible assumption
    | intro _
    | (extract_lets +onlyGivenNames x; clear_value x; revert x; intro y)
    | with_reducible exact hm.of rfl
    | with_reducible apply kept_Wr_enable
    | with_reducible apply kept_enableBrg
    | with_reducible apply kept_linkDown
    | with_reducible apply kept_Wr_on
    | with_reducible apply kept_dropPf
    | with_reducible apply kept_Wr_act
    | with_reducible apply kept_startCfg
    | with_reducible apply kept_popLog
    | with_reducible apply kept_sendMsiVector
    | with_reducible apply kept_ite

theorem kept_vitalTo {m : Nat} {s0 : State} (a1 : Wr) (f : Fld) (k : Nat → State → State) {s : State} (hm : Covers m 0x402) (h1 : ∀ v0 : Nat, ∀ v1 : State, Kept m s0 v1 → Kept m s0 (k v0 v1)) (h2 : Kept m s0 s) :
    Kept m s0 (vitalTo a1 f k s) := by
  unfold vitalTo
  repeat' first
    | with_reducible assumption
    | intro _
    | with_reducible exact hm.of rfl
    | with_reducible apply h1
    | with_reducible apply kept_notVoted
    | with_reducible apply kept_ite
    | split

theorem kept_wrFio {m : Nat} {s0 : State} (a1 : Wr) {s : State} (hm : Covers m 0x6080004a2) (h1 : Kept m s0 s) :
    Kept m s0 (wrFio a1 s) := by
  unfold wrFio
  repeat' first
    | with_reducible assumption
    | (intro (hw : ∀ t, Kept m s0 t → Kept m s0 (w t)); clear_value w; revert hw; revert w; intro v hv)
    | (intro (hw : ∀ a t, Kept m s0 t → Kept m s0 (w a t)); clear_value w; revert hw; revert w; intro v hv)
    | (intro (hw : ∀ a, Kept m s0 (w a)); clear_value w; revert hw; revert w; intro v hv)
    | intro _
    | (subst w)
    | (extract_lets +onlyGivenNames w; refine kept_cutF1 (m := m) (s0 := s0) (x := w) ?_ ?_)
    | (extract_lets +onlyGivenNames w; refine kept_cutF2 (m := m) (s0 := s0) (x := w) ?_ ?_)
    | (extract_lets +onlyGivenNames w; refine kept_cutF0 (m := m) (s0 := s0) (x := w) ?_ ?_)
    | (extract_lets +onlyGivenNames x; clear_value x; revert x; intro y)
    | with_reducible apply hv
    | with_reducible exact hm.of rfl
    | with_reducible apply kept_restartWd
    | with_reducible apply kept_setF
    | with_reducible apply kept_Wr_enable
    | with_reducible apply kept_enableFio
    | with_reducible apply kept_Wr_act
    | with_reducible apply kept_clearWd
    | with_reducible apply kept_Wr_on
    | with_reducible apply kept_kick
    | with_reducible apply kept_writeDocmd
    | with_reducible apply kept_vitalTo
    | with_reducible apply kept_writeDosafe
    | with_reducible apply kept_writeSoown
    | with_reducible apply kept_syncSwitch
    | with_reducible apply kept_clearLatches
    | with_reducible apply kept_markDirty
    | with_reducible apply kept_syncSwitches
    | with_reducible apply kept_ite
    | with_reducible apply kept_forN
    | split

theorem kept_wrAnl {m : Nat} {s0 : State} (a1 : Wr) {s : State} (hm : Covers m 0x66000049e) (h1 : Kept m s0 s) :
    Kept m s0 (wrAnl a1 s) := by
  unfold wrAnl
  repeat' first
    | with_reducible assumption
    | intro _
    | with_reducible exact hm.of rfl
    | with_reducible apply kept_Wr_enable
    | with_reducible apply kept_enableAnl
    | with_reducible apply kept_Wr_on
    | with_reducible apply kept_writeTrim
    | with_reducible apply kept_Wr_act
    | with_reducible apply kept_clearMism
    | with_reducible apply kept_ite
    | split

theorem kept_wrLod_table {m : Nat} {s0 : State} (a1 : Wr) (o : Nat) {s : State} (hm : Covers m 0x610000492) (h1 : Kept m s0 s) :
    Kept m s0 (wrLod.table a1 o s) := by
  unfold wrLod.table
  repeat' first
    | with_reducible assumption
    | (intro (hw : ∀ t, Kept m s0 t → Kept m s0 (w t)); clear_value w; revert hw; revert w; intro v hv)
    | (intro (hw : ∀ a t, Kept m s0 t → Kept m s0 (w a t)); clear_value w; revert hw; revert w; intro v hv)
    | (intro (hw : ∀ a, Kept m s0 (w a)); clear_value w; revert hw; revert w; intro v hv)
    | intro _
    | (subst w)
    | (extract_lets +onlyGivenNames w; refine kept_cutF1 (m := m) (s0 := s0) (x := w) ?_ ?_)
    | (extract_lets +onlyGivenNames w; refine kept_cutF2 (m := m) (s0 := s0) (x := w) ?_ ?_)
    | (extract_lets +onlyGivenNames w; refine kept_cutF0 (m := m) (s0 := s0) (x := w) ?_ ?_)
    | (extract_lets +onlyGivenNames x; clear_value x; revert x; intro y)
    | with_reducible apply hv
    | with_reducible exact hm.of rfl
    | with_reducible apply kept_modLod
    | with_reducible apply kept_Wr_act
    | with_reducible apply kept_setF
    | with_reducible apply kept_commitNow
    | with_reducible apply kept_setFree
    | with_reducible apply kept_ite

theorem kept_wrLod {m : Nat} {s0 : State} (a1 : Wr) {s : State} (hm : Covers m 0x610000492) (h1 : Kept m s0 s) :
    Kept m s0 (wrLod a1 s) := by
  unfold wrLod
  repeat' first
    | with_reducible assumption
    | (intro (hw : ∀ t, Kept m s0 t → Kept m s0 (w t)); clear_value w; revert hw; revert w; intro v hv)
    | (intro (hw : ∀ a t, Kept m s0 t → Kept m s0 (w a t)); clear_value w; revert hw; revert w; intro v hv)
    | (intro (hw : ∀ a, Kept m s0 (w a)); clear_value w; revert hw; revert w; intro v hv)
    | intro _
    | (subst w)
    | (extract_lets +onlyGivenNames w; refine kept_cutF1 (m := m) (s0 := s0) (x := w) ?_ ?_)
    | (extract_lets +onlyGivenNames w; refine kept_cutF2 (m := m) (s0 := s0) (x := w) ?_ ?_)
    | (extract_lets +onlyGivenNames w; refine kept_cutF0 (m := m) (s0 := s0) (x := w) ?_ ?_)
    | (extract_lets +onlyGivenNames x; clear_value x; revert x; intro y)
    | with_reducible apply hv
    | with_reducible exact hm.of rfl
    | with_reducible apply kept_Wr_on
    | with_reducible apply kept_unlockFirst
    | with_reducible apply kept_unlockSecond
    | with_reducible apply kept_tripOutputs
    | with_reducible apply kept_wrLod_table
    | with_reducible apply kept_ite
    | split

theorem kept_wrPrl {m : Nat} {s0 : State} (a1 : Wr) {s : State} (hm : Covers m 0x8600e00682) (h1 : Kept m s0 s) :
    Kept m s0 (wrPrl a1 s) := by
  unfold wrPrl
  repeat' first
    | with_reducible assumption
    | intro _
    | (extract_lets +onlyGivenNames x; clear_value x; revert x; intro y)
    | with_reducible exact hm.of rfl
    | with_reducible apply kept_Wr_act
    | with_reducible apply kept_requestSwap
    | with_reducible apply kept_Wr_enable
    | with_reducible apply kept_enablePair
    | with_reducible apply kept_disableBlock
    | with_reducible apply kept_ite

theorem kept_wrLog {m : Nat} {s0 : State} (a1 : Wr) {s : State} (hm : Covers m 0x1078002fcb2) (h1 : Kept m s0 s) :
    Kept m s0 (wrLog a1 s) := by
  unfold wrLog
  repeat' first
    | with_reducible assumption
    | intro _
    | (extract_lets +onlyGivenNames x; clear_value x; revert x; intro y)
    | with_reducible exact hm.of rfl
    | with_reducible apply kept_Wr_act
    | with_reducible apply kept_startFlush
    | with_reducible apply kept_Wr_on
    | with_reducible apply kept_softTrigger
    | with_reducible apply kept_writeCursor
    | with_reducible apply kept_ite

theorem kept_wrUpd {m : Nat} {s0 : State} (a1 : Wr) {s : State} (hm : Covers m 0x402) (h1 : Kept m s0 s) :
    Kept m s0 (wrUpd a1 s) := by
  unfold wrUpd
  repeat' first
    | with_reducible assumption
    | intro _
    | (extract_lets +onlyGivenNames x; clear_value x; revert x; intro y)
    | with_reducible exact hm.of rfl
    | with_reducible apply kept_Wr_on
    | with_reducible apply kept_writeMapArea
    | with_reducible apply kept_Wr_act
    | with_reducible apply kept_readyHandover
    | with_reducible apply kept_ite

theorem kept_writeEffect {m : Nat} {s0 : State} (a1 : Wr) {s : State} (hm : Covers m 0x7fffffefefe) (h1 : Kept m s0 s) :
    Kept m s0 (writeEffect a1 s) := by
  unfold writeEffect
  repeat' first
    | with_reducible assumption
    | intro _
    | with_reducible exact hm.of rfl
    | with_reducible apply kept_Wr_act
    | with_reducible apply kept_bumpQueue
    | with_reducible apply kept_Wr_on
    | with_reducible apply kept_enableQueue
    | with_reducible apply kept_drainQueue
    | with_reducible apply kept_wrSys
    | with_reducible apply kept_wrVtc
    | with_reducible apply kept_wrSvc
    | with_reducible apply kept_armInjection
    | with_reducible apply kept_wrRhl
    | with_reducible apply kept_wrBkb
    | with_reducible apply kept_wrMdb
    | with_reducible apply kept_wrBrg
    | with_reducible apply kept_wrFio
    | with_reducible apply kept_wrAnl
    | with_reducible apply kept_wrLod
    | with_reducible apply kept_wrPrl
    | with_reducible apply kept_wrLog
    | with_reducible apply kept_wrUpd
    | with_reducible apply kept_ite
    | split

theorem kept_writeTrigger {m : Nat} {s0 : State} (r : Req) (a : Nat) (size : Nat) (val : Word) {s : State} (hm : Covers m 0x1000000041a) (h1 : Kept m s0 s) :
    Kept m s0 (writeTrigger r a size val s) := by
  unfold writeTrigger
  repeat' first
    | with_reducible assumption
    | intro _
    | (extract_lets +onlyGivenNames x; clear_value x; revert x; intro y)
    | with_reducible exact hm.of rfl
    | with_reducible apply kept_writeTctl
    | with_reducible apply kept_writeFields
    | with_reducible apply kept_setF
    | with_reducible apply kept_ite

theorem kept_writeBlock {m : Nat} {s0 : State} (r : Req) (a : Nat) (size : Nat) (val : Word) {s : State} (hm : Covers m 0x7fffffefefe) (h1 : Kept m s0 s) :
    KeptO m s0 (writeBlock r a size val s) := by
  unfold writeBlock
  repeat' first
    | with_reducible assumption
    | (intro hx; clear_value x; revert hx; revert x; intro y hy)
    | intro _
    | (subst x)
    | (extract_lets +onlyGivenNames x; refine kept_cut (m := m) (s0 := s0) (x := x) ?_ ?_)
    | (extract_lets +onlyGivenNames x; clear_value x; revert x; intro y)
    | with_reducible exact hm.of rfl
    | with_reducible apply kept_merStep
    | with_reducible apply kept_writeAlarm
    | with_reducible apply kept_refuseInjection
    | with_reducible apply kept_writeTrigger
    | with_reducible apply kept_setF
    | with_reducible apply kept_writeFields
    | with_reducible apply kept_raise
    | with_reducible apply kept_startLoad
    | with_reducible apply kept_writeEffect
    | with_reducible apply keptO_ite
    | with_reducible apply kept_ite
    | with_reducible apply keptO_next
    | with_reducible apply keptO_fault
    | split

theorem kept_writeRegister {m : Nat} {s0 : State} (r : Req) (a : Nat) (size : Nat) (val : Word) {a5 : State} (hm : Covers m 0x7fffffefffe) (h1 : Kept m s0 a5) :
    KeptO m s0 (writeRegister r a size val a5) := by
  unfold writeRegister
  repeat' first
    | with_reducible assumption
    | intro _
    | (extract_lets +onlyGivenNames x; clear_value x; revert x; intro y)
    | with_reducible exact hm.of rfl
    | (refine keptO_foldl _ _ _ ?_ ?_)
    | with_reducible apply kept_reached
    | with_reducible apply kept_ringDoorbell
    | with_reducible apply kept_execOutboundAccess
    | with_reducible apply kept_deny
    | with_reducible apply kept_execInterruptWrite
    | with_reducible apply kept_writeBlock
    | with_reducible apply kept_tagStore
    | with_reducible apply keptO_ite
    | with_reducible apply kept_ite
    | with_reducible apply keptO_next
    | with_reducible apply keptO_fault
    | with_reducible apply kept_foldl
    | with_reducible apply kept_foldl1
    | split

theorem kept_execRegisterWrite {m : Nat} {s0 : State} (r : Req) (addr : Nat) (size : Nat) (val : Word) {s : State} (hm : Covers m 0x7fffffefffe) (h1 : Kept m s0 s) :
    KeptO m s0 (execRegisterWrite r addr size val s) := by
  unfold execRegisterWrite
  repeat' first
    | with_reducible assumption
    | intro _
    | with_reducible exact hm.of rfl
    | with_reducible apply kept_writeRegister
    | with_reducible apply keptO_next
    | with_reducible apply keptO_fault

theorem kept_execAliasWrite {m : Nat} {s0 : State} (r : Req) (addr : Nat) (size : Nat) (val : Word) {s : State} (hm : Covers m 0x7fffffefffe) (h1 : Kept m s0 s) :
    KeptO m s0 (execAliasWrite r addr size val s) := by
  unfold execAliasWrite
  repeat' first
    | with_reducible assumption
    | intro _
    | with_reducible exact hm.of rfl
    | with_reducible apply kept_writeRegister
    | with_reducible apply keptO_next
    | with_reducible apply keptO_fault

theorem kept_stored {m : Nat} {s0 : State} (r : Req) (src : MemSrc) (addr : Nat) (d : List Byte) {s : State} (hm : Covers m 0x1800efc12) (h1 : Kept m s0 s) :
    Kept m s0 (stored r src addr d s) := by
  unfold stored
  repeat' first
    | with_reducible assumption
    | intro _
    | (extract_lets +onlyGivenNames x; clear_value x; revert x; intro y)
    | with_reducible exact hm.of rfl
    | with_reducible apply kept_useFree
    | with_reducible apply kept_writeMem
    | with_reducible apply kept_writeVia
    | with_reducible apply kept_ite

theorem kept_atomic {m : Nat} {s0 : State} (r : Req) (op : AmoOp) (addr : Nat) (d : List Byte) (src : MemSrc) {s : State} (hm : Covers m 0x1800efc32) (h1 : Kept m s0 s) :
    Kept m s0 (atomic r op addr d src s) := by
  unfold atomic
  repeat' first
    | with_reducible assumption
    | (intro hx; clear_value x; revert hx; revert x; intro y hy)
    | intro _
    | (subst x)
    | (extract_lets +onlyGivenNames x; refine kept_cut (m := m) (s0 := s0) (x := x) ?_ ?_)
    | (extract_lets +onlyGivenNames x; clear_value x; revert x; intro y)
    | with_reducible exact hm.of rfl
    | with_reducible apply kept_touch
    | with_reducible apply kept_deny
    | with_reducible apply kept_answer
    | with_reducible apply kept_stored
    | split

theorem kept_storeTags {m : Nat} {s0 : State} (r : Req) (addr : Nat) (n : Nat) {s : State} (hm : Covers m 0x1800efd12) (h1 : Kept m s0 s) :
    Kept m s0 (storeTags r addr n s) := by
  unfold storeTags
  repeat' first
    | with_reducible assumption
    | (intro hx; clear_value x; revert hx; revert x; intro y hy)
    | (intro hz; clear_value z; revert hz; revert z; intro y hy)
    | intro _
    | (subst x)
    | (subst z)
    | (extract_lets +onlyGivenNames x; refine kept_cut (m := m) (s0 := s0) (x := x) ?_ ?_)
    | (extract_lets +onlyGivenNames z; refine kept_cut (m := m) (s0 := s0) (x := z.1) ?_ ?_)
    | (extract_lets +onlyGivenNames x; clear_value x; revert x; intro y)
    | with_reducible exact hm.of rfl
    | ((with_reducible refine kept_upd_tags (hm.of rfl) ?_ ?_) <;> first | with_reducible exact id | with_reducible exact kwf_putFile _ _ _ _ | with_reducible exact kwf_kput 0 _ _ _ | exact fun e => (length_modAt _ _ _).trans e | exact fun e => (List.length_map ..).trans e | exact fun _ => rfl | exact kwf_filter 0 _ _ | exact kwf_foldl_kput 0 _ _ | exact kwf_kput 0 _ _ _ | (with_reducible assumption))
    | with_reducible apply kept_useFree
    | with_reducible apply kept_writeMem
    | with_reducible apply kept_ite
    | with_reducible apply kept_forN

theorem kept_execRcRead {m : Nat} {s0 : State} (r : Req) (addr : Nat) (size : Nat) {s : State} (hm : Covers m 0x404200432) (h1 : Kept m s0 s) :
    KeptO m s0 (execRcRead r addr size s) := by
  unfold execRcRead
  repeat' first
    | with_reducible assumption
    | intro _
    | with_reducible exact hm.of rfl
    | with_reducible apply kept_execOutboundAccess
    | with_reducible apply kept_readRegister
    | with_reducible apply keptO_ite
    | with_reducible apply kept_ite
    | with_reducible apply keptO_next
    | with_reducible apply keptO_fault

theorem kept_execMemoryRead {m : Nat} {s0 : State} (r : Req) (kind : AccKind) (addr : Nat) (src : MemSrc) (upset : List (Fin 36 × Byte)) (hard : Bool) {s : State} (hm : Covers m 0x5842efc32) (h1 : Kept m s0 s) :
    KeptO m s0 (execMemoryRead r kind addr src upset hard s) := by
  unfold execMemoryRead
  repeat' first
    | with_reducible assumption
    | intro _
    | with_reducible exact hm.of rfl
    | with_reducible apply kept_deny
    | with_reducible apply kept_readRegister
    | with_reducible apply kept_execOutboundAccess
    | with_reducible apply kept_emit
    | with_reducible apply kept_readMacro
    | with_reducible apply keptO_ite
    | with_reducible apply kept_ite
    | with_reducible apply keptO_next
    | with_reducible apply keptO_fault
    | split

theorem kept_execMemoryWrite {m : Nat} {s0 : State} (r : Req) (kind : AccKind) (addr : Nat) (data : List Byte) (src : MemSrc) {s : State} (hm : Covers m 0x7fffffefffe) (h1 : Kept m s0 s) :
    KeptO m s0 (execMemoryWrite r kind addr data src s) := by
  unfold execMemoryWrite
  repeat' first
    | with_reducible assumption
    | intro _
    | with_reducible exact hm.of rfl
    | (with_reducible refine kept_upd_resv (hm.of rfl) ?_; with_reducible assumption)
    | with_reducible apply kept_deny
    | with_reducible apply kept_writeRegister
    | with_reducible apply kept_execOutboundAccess
    | with_reducible apply kept_storeTags
    | with_reducible apply kept_refuseWrite
    | with_reducible apply kept_atomic
    | with_reducible apply kept_answer
    | with_reducible apply kept_stored
    | with_reducible apply keptO_ite
    | with_reducible apply kept_ite
    | with_reducible apply keptO_next
    | with_reducible apply keptO_fault
    | split

theorem kept_boundaryEffect {m : Nat} {s0 : State} (blk : Nat) {t : State} (hm : Covers m 0x8600200682) (h1 : Kept m s0 t) :
    Kept m s0 (boundaryEffect blk t) := by
  unfold boundaryEffect
  repeat' first
    | with_reducible assumption
    | intro _
    | with_reducible exact hm.of rfl
    | with_reducible apply kept_windowOrder
    | with_reducible apply kept_merBoundary
    | with_reducible apply kept_checkThresh
    | with_reducible apply kept_setF
    | with_reducible apply kept_ite
    | with_reducible apply kept_forN

theorem kept_canBoundary {m : Nat} {s0 : State} (n : Nat) {s : State} (hm : Covers m 0xc) (h1 : Kept m s0 s) :
    Kept m s0 (canBoundary n s) := by
  unfold canBoundary
  repeat' first
    | with_reducible assumption
    | intro _
    | with_reducible exact hm.of rfl
    | with_reducible apply kept_takeLive
    | with_reducible apply kept_ite

theorem kept_boundary {m : Nat} {s0 : State} (blk : Nat) (chan : Option Nat) {s : State} (hm : Covers m 0xc62021868e) (h1 : Kept m s0 s) :
    Kept m s0 (boundary blk chan s) := by
  unfold boundary
  repeat' first
    | with_reducible assumption
    | intro _
    | with_reducible exact hm.of rfl
    | with_reducible apply kept_memBoundary
    | with_reducible apply kept_sysBoundary
    | with_reducible apply kept_canBoundary
    | with_reducible apply kept_anlBoundary
    | with_reducible apply kept_boundaryEffect
    | with_reducible apply kept_takeLive
    | with_reducible apply kept_ite
    | with_reducible apply kept_forN
    | split

theorem kept_execRwlBoundary {m : Nat} {s0 : State} (blk : Fin 16) (chan : Option Nat) {s : State} (hm : Covers m 0xc62021868e) (h1 : Kept m s0 s) :
    KeptO m s0 (execRwlBoundary blk chan s) := by
  unfold execRwlBoundary
  repeat' first
    | with_reducible assumption
    | intro _
    | with_reducible exact hm.of rfl
    | with_reducible apply kept_boundary
    | with_reducible apply keptO_next
    | with_reducible apply keptO_fault

theorem kept_awake {m : Nat} {s0 : State} (i : Nat) (f : State → State) {s : State} (h1 : ∀ v0 : State, Kept m s0 v0 → Kept m s0 (f v0)) (h2 : Kept m s0 s) :
    Kept m s0 (awake i f s) := by
  unfold awake
  repeat' first
    | with_reducible assumption
    | intro _
    | with_reducible apply h1
    | with_reducible apply kept_ite

theorem kept_cycleArrives {m : Nat} {s0 : State} (i : Nat) {s : State} (hm : Covers m 0x7ffffeffefe) (h1 : Kept m s0 s) :
    Kept m s0 (cycleArrives i s) := by
  unfold cycleArrives
  repeat' first
    | with_reducible assumption
    | (intro hx; clear_value x; revert hx; revert x; intro y hy)
    | intro _
    | (subst x)
    | (extract_lets +onlyGivenNames x; refine kept_cut (m := m) (s0 := s0) (x := x) ?_ ?_)
    | (extract_lets +onlyGivenNames x; clear_value x; revert x; intro y)
    | with_reducible exact hm.of rfl
    | with_reducible apply kept_takeLive
    | with_reducible apply kept_boundary
    | with_reducible apply kept_starCycle
    | with_reducible apply kept_pairCycle
    | with_reducible apply kept_chartCycle
    | with_reducible apply kept_bkbCycle
    | with_reducible apply kept_modFio
    | with_reducible apply kept_refreshAnl
    | with_reducible apply kept_nowUnits
    | with_reducible apply kept_logCycle
    | with_reducible apply kept_ite
    | with_reducible apply kept_foldl
    | with_reducible apply kept_foldl1

theorem kept_offerCycle {m : Nat} {s0 : State} (i : Nat) {s : State} (hm : Covers m 0x7ffffeffefe) (h1 : Kept m s0 s) :
    Kept m s0 (offerCycle i s) := by
  unfold offerCycle
  repeat' first
    | with_reducible assumption
    | intro _
    | with_reducible exact hm.of rfl
    | with_reducible apply kept_awake
    | with_reducible apply kept_crossVia
    | with_reducible apply kept_cycleArrives

theorem kept_cycleStart {m : Nat} {s0 : State} {s : State} (hm : Covers m 0x7ffffeffefe) (h1 : Kept m s0 s) :
    Kept m s0 (cycleStart s) := by
  unfold cycleStart
  repeat' first
    | with_reducible assumption
    | intro _
    | with_reducible exact hm.of rfl
    | with_reducible apply kept_checkVready
    | with_reducible apply kept_offerCycle
    | with_reducible apply kept_merCycleStart
    | with_reducible apply kept_boundary
    | with_reducible apply kept_endPoints
    | with_reducible apply kept_foldl
    | with_reducible apply kept_foldl1

theorem kept_takeXVal {m : Nat} {s0 : State} (rx : Nat) (a2 : XVal) {a3 : State} (hm : Covers m 0x7ffffeffefe) (h1 : Kept m s0 a3) :
    Kept m s0 (takeXVal rx a2 a3) := by
  unfold takeXVal
  repeat' first
    | with_reducible assumption
    | intro _
    | with_reducible exact hm.of rfl
    | with_reducible apply kept_takePulses
    | with_reducible apply kept_offerJob
    | with_reducible apply kept_queueWrap
    | with_reducible apply kept_unwrapCan
    | with_reducible apply kept_pendTunnel
    | with_reducible apply kept_writeFile
    | with_reducible apply kept_setPending
    | with_reducible apply kept_chartIn
    | with_reducible apply kept_packFor
    | with_reducible apply kept_keepPacked
    | with_reducible apply kept_cycleArrives
    | with_reducible apply kept_ite
    | split

theorem kept_takeNext {m : Nat} {s0 : State} {s : State} (hm : Covers m 0x7ffffeffefe) (h1 : Kept m s0 s) :
    Kept m s0 (takeNext s) := by
  unfold takeNext
  repeat' first
    | with_reducible assumption
    | intro _
    | with_reducible exact hm.of rfl
    | (with_reducible refine kept_upd_xings (hm.of rfl) ?_; with_reducible assumption)
    | with_reducible apply kept_takeXVal
    | with_reducible apply kept_wakeIsland
    | split

theorem kept_xingTick {m : Nat} {s0 : State} {s : State} (hm : Covers m 0x7ffffeffefe) (h1 : Kept m s0 s) :
    Kept m s0 (xingTick s) := by
  unfold xingTick
  repeat' first
    | with_reducible assumption
    | (intro hx; clear_value x; revert hx; revert x; intro y hy)
    | intro _
    | (subst x)
    | (extract_lets +onlyGivenNames x; refine kept_cut (m := m) (s0 := s0) (x := x) ?_ ?_)
    | (extract_lets +onlyGivenNames x; clear_value x; revert x; intro y)
    | with_reducible exact hm.of rfl
    | (with_reducible refine kept_upd_xings (hm.of rfl) ?_; with_reducible assumption)
    | with_reducible apply kept_offerReports
    | with_reducible apply kept_takeNext
    | with_reducible apply kept_foldl
    | with_reducible apply kept_foldl1
    | with_reducible apply kept_forN

theorem kept_clockTick {m : Nat} {s0 : State} {s : State} (hm : Covers m 0x7ffffeffefe) (h1 : Kept m s0 s) :
    Kept m s0 (clockTick s) := by
  unfold clockTick
  repeat' first
    | with_reducible assumption
    | intro _
    | with_reducible exact hm.of rfl
    | with_reducible apply kept_watchStop
    | with_reducible apply kept_xingTick
    | with_reducible apply kept_awake
    | with_reducible apply kept_runPorts
    | with_reducible apply kept_merTick
    | with_reducible apply kept_foldl
    | with_reducible apply kept_foldl1

theorem kept_execCycleStart {m : Nat} {s0 : State} {s : State} (hm : Covers m 0x7ffffeffefe) (h1 : Kept m s0 s) :
    KeptO m s0 (execCycleStart s) := by
  unfold execCycleStart
  repeat' first
    | with_reducible assumption
    | intro _
    | with_reducible exact hm.of rfl
    | with_reducible apply kept_cycleStart
    | with_reducible apply keptO_ite
    | with_reducible apply kept_ite
    | with_reducible apply keptO_next
    | with_reducible apply keptO_fault

theorem kept_execStartSelftestDone {m : Nat} {s0 : State} (t : Fin 4) (fails : BitVec 3) (inj : Option (Fin 10 × Fin 4)) (spareFails : List (Fin 14)) (checker : Option (Fin 10 × Fin 4)) (retire : Nat) {s : State} (hm : Covers m 0x600040482) (h1 : Kept m s0 s) :
    KeptO m s0 (execStartSelftestDone t fails inj spareFails checker retire s) := by
  unfold execStartSelftestDone
  repeat' first
    | with_reducible assumption
    | intro _
    | with_reducible exact hm.of rfl
    | with_reducible apply kept_checkVready
    | with_reducible apply kept_startDone
    | with_reducible apply keptO_next
    | with_reducible apply keptO_fault

theorem kept_execShalt {m : Nat} {s0 : State} (r : Req) (t : Fin 4) {s : State} (hm : Covers m 0x600040482) (h1 : Kept m s0 s) :
    KeptO m s0 (execShalt r t s) := by
  unfold execShalt
  repeat' first
    | with_reducible assumption
    | intro _
    | with_reducible exact hm.of rfl
    | with_reducible apply kept_checkVready
    | with_reducible apply kept_shaltTriad
    | with_reducible apply keptO_next
    | with_reducible apply keptO_fault

theorem kept_execLodestoneCycle {m : Nat} {s0 : State} (samples : List FbSample) (edges : List (Fin 4 × Fin 50000)) {s : State} (hm : Covers m 0x6100004ae) (h1 : Kept m s0 s) :
    KeptO m s0 (execLodestoneCycle samples edges s) := by
  unfold execLodestoneCycle
  repeat' first
    | with_reducible assumption
    | intro _
    | with_reducible exact hm.of rfl
    | with_reducible apply kept_checkVready
    | with_reducible apply kept_lodCycle
    | with_reducible apply kept_takeLive
    | with_reducible apply keptO_next
    | with_reducible apply keptO_fault

end Sys2Proof.Machine
end

