-- ==== Sys2Proof/Laws/KeptDebug.lean ====
section
/-! SUPPORT. What the operations of Machine/Debug.lean keep (Safety.lean, `Kept`): one lemma each, which cites those of the operations it calls. -/

namespace Sys2Proof.Machine

theorem kept_refuseDebug {m : Nat} {s0 : State} (t : Nat) {s : State} (hm : Covers m 0x422) (h1 : Kept m s0 s) :
    Kept m s0 (refuseDebug t s) := by
  unfold refuseDebug
  repeat' first
    | with_reducible assumption
    | intro _
    | with_reducible exact hm.of rfl
    | with_reducible apply kept_refuseDebugAs

theorem kept_enterDebug {m : Nat} {s0 : State} (t : Nat) (cause : Nat) (at' : Stop) {s : State} (hm : Covers m 0x40000) (h1 : Kept m s0 s) :
    Kept m s0 (enterDebug t cause at' s) := by
  unfold enterDebug
  repeat' first
    | with_reducible assumption
    | (intro hx; clear_value x; revert hx; revert x; intro y hy)
    | intro _
    | (subst x)
    | (extract_lets +onlyGivenNames x; refine kept_cut (m := m) (s0 := s0) (x := x) ?_ ?_)
    | (extract_lets +onlyGivenNames x; clear_value x; revert x; intro y)
    | with_reducible exact hm.of rfl
    | with_reducible apply kept_setLane
    | with_reducible apply kept_ite

theorem kept_execDebugSessionOpen {m : Nat} {s0 : State} (t : Fin 4) (cert : Cert) (anchor : List Byte) (regs : List (Nat × Word)) {s : State} (hm : Covers m 0x40422) (h1 : Kept m s0 s) :
    KeptO m s0 (execDebugSessionOpen t cert anchor regs s) := by
  unfold execDebugSessionOpen
  repeat' first
    | with_reducible assumption
    | (intro hx; clear_value x; revert hx; revert x; intro y hy)
    | intro _
    | (subst x)
    | (extract_lets +onlyGivenNames x; refine kept_cut (m := m) (s0 := s0) (x := x) ?_ ?_)
    | (extract_lets +onlyGivenNames x; clear_value x; revert x; intro y)
    | with_reducible exact hm.of rfl
    | with_reducible apply kept_refuseDebug
    | with_reducible apply kept_setF
    | with_reducible apply kept_setLane
    | with_reducible apply kept_modTriad
    | with_reducible apply kept_setTState
    | with_reducible apply keptO_ite
    | with_reducible apply kept_ite
    | with_reducible apply keptO_next
    | with_reducible apply keptO_fault

theorem kept_depotWrite {m : Nat} {s0 : State} (t : Fin 4) (a : Nat) (d : List Byte) {s : State} (hm : Covers m 0x7fffffefffe) (h1 : Kept m s0 s) :
    KeptO m s0 (depotWrite t a d s) := by
  unfold depotWrite
  repeat' first
    | with_reducible assumption
    | intro _
    | with_reducible exact hm.of rfl
    | with_reducible apply kept_refuseDebugAs
    | with_reducible apply kept_writeRegister
    | with_reducible apply kept_storeTags
    | with_reducible apply kept_stored
    | with_reducible apply keptO_ite
    | with_reducible apply kept_ite
    | with_reducible apply keptO_next
    | with_reducible apply keptO_fault

theorem kept_depotDo_stopLane {m : Nat} {s0 : State} (t : Fin 4) (cause : Nat) (p : Stop) {s : State} (hm : Covers m 0x40020) (h1 : Kept m s0 s) :
    Kept m s0 (depotDo.stopLane t cause p s) := by
  unfold depotDo.stopLane
  repeat' first
    | with_reducible assumption
    | intro _
    | with_reducible exact hm.of rfl
    | with_reducible apply kept_emit
    | with_reducible apply kept_enterDebug
    | with_reducible apply kept_modTriad

theorem kept_depotDo {m : Nat} {s0 : State} (t : Fin 4) (op : DbgOp) {s : State} (hm : Covers m 0x7fffffefffe) (h1 : Kept m s0 s) :
    KeptO m s0 (depotDo t op s) := by
  unfold depotDo
  repeat' first
    | with_reducible assumption
    | intro _
    | with_reducible exact hm.of rfl
    | with_reducible apply kept_answer
    | with_reducible apply kept_refuseDebug
    | with_reducible apply kept_setLane
    | with_reducible apply kept_debugRead
    | with_reducible apply kept_refuseDebugAs
    | with_reducible apply kept_readRegister
    | with_reducible apply kept_execOutboundAccess
    | with_reducible apply kept_depotWrite
    | with_reducible apply kept_emit
    | with_reducible apply kept_modTriad
    | with_reducible apply kept_depotDo_stopLane
    | with_reducible apply keptO_ite
    | with_reducible apply kept_ite
    | with_reducible apply keptO_next
    | with_reducible apply keptO_fault
    | split

theorem kept_depotOp {m : Nat} {s0 : State} (t : Fin 4) (op : DbgOp) {s : State} (hm : Covers m 0x7fffffefffe) (h1 : Kept m s0 s) :
    KeptO m s0 (depotOp t op s) := by
  unfold depotOp
  repeat' first
    | with_reducible assumption
    | intro _
    | with_reducible exact hm.of rfl
    | exact KeptO.of_eq (kept_depotDo _ _ (hm.of rfl) (by assumption)) (by assumption)
    | with_reducible apply kept_answer
    | with_reducible apply kept_dmWrite
    | with_reducible apply kept_depotDo
    | with_reducible apply keptO_next
    | with_reducible apply keptO_fault
    | split

theorem kept_execDebugRequest {m : Nat} {s0 : State} (t : Fin 4) (op : DbgOp) {s : State} (hm : Covers m 0x7fffffefffe) (h1 : Kept m s0 s) :
    KeptO m s0 (execDebugRequest t op s) := by
  unfold execDebugRequest
  repeat' first
    | with_reducible assumption
    | intro _
    | with_reducible exact hm.of rfl
    | with_reducible apply kept_depotOp
    | with_reducible apply kept_modTriad
    | with_reducible apply kept_refuseDebug
    | with_reducible apply keptO_ite
    | with_reducible apply kept_ite
    | with_reducible apply keptO_next
    | with_reducible apply keptO_fault

theorem kept_execDepotHalt {m : Nat} {s0 : State} (t : Fin 4) (stop : Stop) {s : State} (hm : Covers m 0x40422) (h1 : Kept m s0 s) :
    KeptO m s0 (execDepotHalt t stop s) := by
  unfold execDepotHalt
  repeat' first
    | with_reducible assumption
    | (intro hx; clear_value x; revert hx; revert x; intro y hy)
    | intro _
    | (subst x)
    | (extract_lets +onlyGivenNames x; refine kept_cut (m := m) (s0 := s0) (x := x) ?_ ?_)
    | (extract_lets +onlyGivenNames x; clear_value x; revert x; intro y)
    | with_reducible exact hm.of rfl
    | with_reducible apply kept_setCore
    | with_reducible apply kept_enterDebug
    | with_reducible apply kept_setF
    | with_reducible apply kept_setChecker
    | with_reducible apply kept_setTState
    | with_reducible apply kept_abandonSwitch
    | with_reducible apply kept_raise
    | with_reducible apply kept_modTriad
    | with_reducible apply kept_refuseDebug
    | with_reducible apply keptO_ite
    | with_reducible apply kept_ite
    | with_reducible apply keptO_next
    | with_reducible apply keptO_fault
    | with_reducible apply kept_forN

theorem kept_execDepotSessionEnd {m : Nat} {s0 : State} (t : Fin 4) {s : State} (hm : Covers m 0x42002) (h1 : Kept m s0 s) :
    KeptO m s0 (execDepotSessionEnd t s) := by
  unfold execDepotSessionEnd
  repeat' first
    | with_reducible assumption
    | (intro hx; clear_value x; revert hx; revert x; intro y hy)
    | intro _
    | (subst x)
    | (extract_lets +onlyGivenNames x; refine kept_cut (m := m) (s0 := s0) (x := x) ?_ ?_)
    | (extract_lets +onlyGivenNames x; clear_value x; revert x; intro y)
    | with_reducible exact hm.of rfl
    | with_reducible apply kept_setF
    | with_reducible apply kept_beginStart
    | with_reducible apply kept_safeHalt
    | with_reducible apply kept_setTState
    | with_reducible apply keptO_ite
    | with_reducible apply kept_ite
    | with_reducible apply keptO_next
    | with_reducible apply keptO_fault

theorem kept_execMaintainerRequest {m : Nat} {s0 : State} (t : Fin 4) (op : DbgOp) (retire : Nat) {s : State} (hm : Covers m 0x40422) (h1 : Kept m s0 s) :
    KeptO m s0 (execMaintainerRequest t op retire s) := by
  unfold execMaintainerRequest
  repeat' first
    | with_reducible assumption
    | intro _
    | (extract_lets +onlyGivenNames x; clear_value x; revert x; intro y)
    | with_reducible exact hm.of rfl
    | with_reducible apply kept_refuseDebug
    | with_reducible apply kept_capture
    | with_reducible apply kept_modTriad
    | with_reducible apply keptO_ite
    | with_reducible apply kept_ite
    | with_reducible apply keptO_next
    | with_reducible apply keptO_fault

end Sys2Proof.Machine
end

