-- ==== Sys2Proof/Laws/State.lean ====
section
/-! SUPPORT. The laws of State: what each update of one part leaves, field by field, and what a register field reads after a write. -/

namespace Sys2Proof.Machine

@[simp] theorem setF_pending (s : State) (f : Fld) (v : Nat) : (setF s f v).pending = s.pending := rfl
@[simp] theorem setF_live (s : State) (f : Fld) (v : Nat) : (setF s f v).live = s.live := rfl
@[simp] theorem setF_pendL (s : State) (f : Fld) (v : Nat) : (setF s f v).pendL = s.pendL := rfl
@[simp] theorem setF_nfree (s : State) (f : Fld) (v : Nat) : (setF s f v).nfree = s.nfree := rfl
@[simp] theorem setF_out (s : State) (f : Fld) (v : Nat) : (setF s f v).out = s.out := rfl
@[simp] theorem setF_qops (s : State) (f : Fld) (v : Nat) : (setF s f v).qops = s.qops := rfl
@[simp] theorem setF_ifiles (s : State) (f : Fld) (v : Nat) : (setF s f v).ifiles = s.ifiles := rfl
@[simp] theorem setF_tags (s : State) (f : Fld) (v : Nat) : (setF s f v).tags = s.tags := rfl
@[simp] theorem setF_onceCycle (s : State) (f : Fld) (v : Nat) : (setF s f v).onceCycle = s.onceCycle := rfl
@[simp] theorem setF_waiting (s : State) (f : Fld) (v : Nat) : (setF s f v).waiting = s.waiting := rfl
@[simp] theorem setF_mem (s : State) (f : Fld) (v : Nat) : (setF s f v).mem = s.mem := rfl
@[simp] theorem setF_chk (s : State) (f : Fld) (v : Nat) : (setF s f v).chk = s.chk := rfl
@[simp] theorem setF_caches (s : State) (f : Fld) (v : Nat) : (setF s f v).caches = s.caches := rfl
@[simp] theorem setF_ceHold (s : State) (f : Fld) (v : Nat) : (setF s f v).ceHold = s.ceHold := rfl
@[simp] theorem setF_degCnt (s : State) (f : Fld) (v : Nat) : (setF s f v).degCnt = s.degCnt := rfl
@[simp] theorem setF_degAt (s : State) (f : Fld) (v : Nat) : (setF s f v).degAt = s.degAt := rfl
@[simp] theorem setF_degraded (s : State) (f : Fld) (v : Nat) : (setF s f v).degraded = s.degraded := rfl
@[simp] theorem setF_triads (s : State) (f : Fld) (v : Nat) : (setF s f v).triads = s.triads := rfl
@[simp] theorem setF_resv (s : State) (f : Fld) (v : Nat) : (setF s f v).resv = s.resv := rfl
@[simp] theorem setF_poolNext (s : State) (f : Fld) (v : Nat) : (setF s f v).poolNext = s.poolNext := rfl
@[simp] theorem setF_mer (s : State) (f : Fld) (v : Nat) : (setF s f v).mer = s.mer := rfl
@[simp] theorem setF_rhl (s : State) (f : Fld) (v : Nat) : (setF s f v).rhl = s.rhl := rfl
@[simp] theorem setF_chart (s : State) (f : Fld) (v : Nat) : (setF s f v).chart = s.chart := rfl
@[simp] theorem setF_bkb (s : State) (f : Fld) (v : Nat) : (setF s f v).bkb = s.bkb := rfl
@[simp] theorem setF_can (s : State) (f : Fld) (v : Nat) : (setF s f v).can = s.can := rfl
@[simp] theorem setF_brg (s : State) (f : Fld) (v : Nat) : (setF s f v).brg = s.brg := rfl
@[simp] theorem setF_fio (s : State) (f : Fld) (v : Nat) : (setF s f v).fio = s.fio := rfl
@[simp] theorem setF_lod (s : State) (f : Fld) (v : Nat) : (setF s f v).lod = s.lod := rfl
@[simp] theorem setF_anl (s : State) (f : Fld) (v : Nat) : (setF s f v).anl = s.anl := rfl
@[simp] theorem setF_binn (s : State) (f : Fld) (v : Nat) : (setF s f v).binn = s.binn := rfl
@[simp] theorem setF_pulses (s : State) (f : Fld) (v : Nat) : (setF s f v).pulses = s.pulses := rfl
@[simp] theorem setF_pulseOvf (s : State) (f : Fld) (v : Nat) : (setF s f v).pulseOvf = s.pulseOvf := rfl
@[simp] theorem setF_xings (s : State) (f : Fld) (v : Nat) : (setF s f v).xings = s.xings := rfl
@[simp] theorem setF_quiet (s : State) (f : Fld) (v : Nat) : (setF s f v).quiet = s.quiet := rfl
@[simp] theorem setF_links (s : State) (f : Fld) (v : Nat) : (setF s f v).links = s.links := rfl
@[simp] theorem setF_linkAt (s : State) (f : Fld) (v : Nat) : (setF s f v).linkAt = s.linkAt := rfl
@[simp] theorem setF_linkLost (s : State) (f : Fld) (v : Nat) : (setF s f v).linkLost = s.linkLost := rfl
@[simp] theorem setF_coll (s : State) (f : Fld) (v : Nat) : (setF s f v).coll = s.coll := rfl
@[simp] theorem setF_prl (s : State) (f : Fld) (v : Nat) : (setF s f v).prl = s.prl := rfl
@[simp] theorem setF_logb (s : State) (f : Fld) (v : Nat) : (setF s f v).logb = s.logb := rfl
@[simp] theorem setF_pwr (s : State) (f : Fld) (v : Nat) : (setF s f v).pwr = s.pwr := rfl
@[simp] theorem setF_upd (s : State) (f : Fld) (v : Nat) : (setF s f v).upd = s.upd := rfl
@[simp] theorem setF_therm (s : State) (f : Fld) (v : Nat) : (setF s f v).therm = s.therm := rfl

@[simp] theorem setLive_pending (s : State) (f : Fld) (v : Nat) : (setLive s f v).pending = s.pending := rfl
@[simp] theorem setLive_flds (s : State) (f : Fld) (v : Nat) : (setLive s f v).flds = s.flds := rfl
@[simp] theorem setLive_pendL (s : State) (f : Fld) (v : Nat) : (setLive s f v).pendL = s.pendL := rfl
@[simp] theorem setLive_nfree (s : State) (f : Fld) (v : Nat) : (setLive s f v).nfree = s.nfree := rfl
@[simp] theorem setLive_out (s : State) (f : Fld) (v : Nat) : (setLive s f v).out = s.out := rfl
@[simp] theorem setLive_qops (s : State) (f : Fld) (v : Nat) : (setLive s f v).qops = s.qops := rfl
@[simp] theorem setLive_ifiles (s : State) (f : Fld) (v : Nat) : (setLive s f v).ifiles = s.ifiles := rfl
@[simp] theorem setLive_tags (s : State) (f : Fld) (v : Nat) : (setLive s f v).tags = s.tags := rfl
@[simp] theorem setLive_onceCycle (s : State) (f : Fld) (v : Nat) : (setLive s f v).onceCycle = s.onceCycle := rfl
@[simp] theorem setLive_waiting (s : State) (f : Fld) (v : Nat) : (setLive s f v).waiting = s.waiting := rfl
@[simp] theorem setLive_mem (s : State) (f : Fld) (v : Nat) : (setLive s f v).mem = s.mem := rfl
@[simp] theorem setLive_chk (s : State) (f : Fld) (v : Nat) : (setLive s f v).chk = s.chk := rfl
@[simp] theorem setLive_caches (s : State) (f : Fld) (v : Nat) : (setLive s f v).caches = s.caches := rfl
@[simp] theorem setLive_ceHold (s : State) (f : Fld) (v : Nat) : (setLive s f v).ceHold = s.ceHold := rfl
@[simp] theorem setLive_degCnt (s : State) (f : Fld) (v : Nat) : (setLive s f v).degCnt = s.degCnt := rfl
@[simp] theorem setLive_degAt (s : State) (f : Fld) (v : Nat) : (setLive s f v).degAt = s.degAt := rfl
@[simp] theorem setLive_degraded (s : State) (f : Fld) (v : Nat) : (setLive s f v).degraded = s.degraded := rfl
@[simp] theorem setLive_triads (s : State) (f : Fld) (v : Nat) : (setLive s f v).triads = s.triads := rfl
@[simp] theorem setLive_resv (s : State) (f : Fld) (v : Nat) : (setLive s f v).resv = s.resv := rfl
@[simp] theorem setLive_poolNext (s : State) (f : Fld) (v : Nat) : (setLive s f v).poolNext = s.poolNext := rfl
@[simp] theorem setLive_mer (s : State) (f : Fld) (v : Nat) : (setLive s f v).mer = s.mer := rfl
@[simp] theorem setLive_rhl (s : State) (f : Fld) (v : Nat) : (setLive s f v).rhl = s.rhl := rfl
@[simp] theorem setLive_chart (s : State) (f : Fld) (v : Nat) : (setLive s f v).chart = s.chart := rfl
@[simp] theorem setLive_bkb (s : State) (f : Fld) (v : Nat) : (setLive s f v).bkb = s.bkb := rfl
@[simp] theorem setLive_can (s : State) (f : Fld) (v : Nat) : (setLive s f v).can = s.can := rfl
@[simp] theorem setLive_brg (s : State) (f : Fld) (v : Nat) : (setLive s f v).brg = s.brg := rfl
@[simp] theorem setLive_fio (s : State) (f : Fld) (v : Nat) : (setLive s f v).fio = s.fio := rfl
@[simp] theorem setLive_lod (s : State) (f : Fld) (v : Nat) : (setLive s f v).lod = s.lod := rfl
@[simp] theorem setLive_anl (s : State) (f : Fld) (v : Nat) : (setLive s f v).anl = s.anl := rfl
@[simp] theorem setLive_binn (s : State) (f : Fld) (v : Nat) : (setLive s f v).binn = s.binn := rfl
@[simp] theorem setLive_pulses (s : State) (f : Fld) (v : Nat) : (setLive s f v).pulses = s.pulses := rfl
@[simp] theorem setLive_pulseOvf (s : State) (f : Fld) (v : Nat) : (setLive s f v).pulseOvf = s.pulseOvf := rfl
@[simp] theorem setLive_xings (s : State) (f : Fld) (v : Nat) : (setLive s f v).xings = s.xings := rfl
@[simp] theorem setLive_quiet (s : State) (f : Fld) (v : Nat) : (setLive s f v).quiet = s.quiet := rfl
@[simp] theorem setLive_links (s : State) (f : Fld) (v : Nat) : (setLive s f v).links = s.links := rfl
@[simp] theorem setLive_linkAt (s : State) (f : Fld) (v : Nat) : (setLive s f v).linkAt = s.linkAt := rfl
@[simp] theorem setLive_linkLost (s : State) (f : Fld) (v : Nat) : (setLive s f v).linkLost = s.linkLost := rfl
@[simp] theorem setLive_coll (s : State) (f : Fld) (v : Nat) : (setLive s f v).coll = s.coll := rfl
@[simp] theorem setLive_prl (s : State) (f : Fld) (v : Nat) : (setLive s f v).prl = s.prl := rfl
@[simp] theorem setLive_logb (s : State) (f : Fld) (v : Nat) : (setLive s f v).logb = s.logb := rfl
@[simp] theorem setLive_pwr (s : State) (f : Fld) (v : Nat) : (setLive s f v).pwr = s.pwr := rfl
@[simp] theorem setLive_upd (s : State) (f : Fld) (v : Nat) : (setLive s f v).upd = s.upd := rfl
@[simp] theorem setLive_therm (s : State) (f : Fld) (v : Nat) : (setLive s f v).therm = s.therm := rfl

@[simp] theorem useFree_pending (s : State)  : (useFree s).pending = s.pending := rfl
@[simp] theorem useFree_flds (s : State)  : (useFree s).flds = s.flds := rfl
@[simp] theorem useFree_live (s : State)  : (useFree s).live = s.live := rfl
@[simp] theorem useFree_pendL (s : State)  : (useFree s).pendL = s.pendL := rfl
@[simp] theorem useFree_out (s : State)  : (useFree s).out = s.out := rfl
@[simp] theorem useFree_qops (s : State)  : (useFree s).qops = s.qops := rfl
@[simp] theorem useFree_ifiles (s : State)  : (useFree s).ifiles = s.ifiles := rfl
@[simp] theorem useFree_tags (s : State)  : (useFree s).tags = s.tags := rfl
@[simp] theorem useFree_onceCycle (s : State)  : (useFree s).onceCycle = s.onceCycle := rfl
@[simp] theorem useFree_waiting (s : State)  : (useFree s).waiting = s.waiting := rfl
@[simp] theorem useFree_mem (s : State)  : (useFree s).mem = s.mem := rfl
@[simp] theorem useFree_chk (s : State)  : (useFree s).chk = s.chk := rfl
@[simp] theorem useFree_caches (s : State)  : (useFree s).caches = s.caches := rfl
@[simp] theorem useFree_ceHold (s : State)  : (useFree s).ceHold = s.ceHold := rfl
@[simp] theorem useFree_degCnt (s : State)  : (useFree s).degCnt = s.degCnt := rfl
@[simp] theorem useFree_degAt (s : State)  : (useFree s).degAt = s.degAt := rfl
@[simp] theorem useFree_degraded (s : State)  : (useFree s).degraded = s.degraded := rfl
@[simp] theorem useFree_triads (s : State)  : (useFree s).triads = s.triads := rfl
@[simp] theorem useFree_resv (s : State)  : (useFree s).resv = s.resv := rfl
@[simp] theorem useFree_poolNext (s : State)  : (useFree s).poolNext = s.poolNext := rfl
@[simp] theorem useFree_mer (s : State)  : (useFree s).mer = s.mer := rfl
@[simp] theorem useFree_rhl (s : State)  : (useFree s).rhl = s.rhl := rfl
@[simp] theorem useFree_chart (s : State)  : (useFree s).chart = s.chart := rfl
@[simp] theorem useFree_bkb (s : State)  : (useFree s).bkb = s.bkb := rfl
@[simp] theorem useFree_can (s : State)  : (useFree s).can = s.can := rfl
@[simp] theorem useFree_brg (s : State)  : (useFree s).brg = s.brg := rfl
@[simp] theorem useFree_fio (s : State)  : (useFree s).fio = s.fio := rfl
@[simp] theorem useFree_lod (s : State)  : (useFree s).lod = s.lod := rfl
@[simp] theorem useFree_anl (s : State)  : (useFree s).anl = s.anl := rfl
@[simp] theorem useFree_binn (s : State)  : (useFree s).binn = s.binn := rfl
@[simp] theorem useFree_pulses (s : State)  : (useFree s).pulses = s.pulses := rfl
@[simp] theorem useFree_pulseOvf (s : State)  : (useFree s).pulseOvf = s.pulseOvf := rfl
@[simp] theorem useFree_xings (s : State)  : (useFree s).xings = s.xings := rfl
@[simp] theorem useFree_quiet (s : State)  : (useFree s).quiet = s.quiet := rfl
@[simp] theorem useFree_links (s : State)  : (useFree s).links = s.links := rfl
@[simp] theorem useFree_linkAt (s : State)  : (useFree s).linkAt = s.linkAt := rfl
@[simp] theorem useFree_linkLost (s : State)  : (useFree s).linkLost = s.linkLost := rfl
@[simp] theorem useFree_coll (s : State)  : (useFree s).coll = s.coll := rfl
@[simp] theorem useFree_prl (s : State)  : (useFree s).prl = s.prl := rfl
@[simp] theorem useFree_logb (s : State)  : (useFree s).logb = s.logb := rfl
@[simp] theorem useFree_pwr (s : State)  : (useFree s).pwr = s.pwr := rfl
@[simp] theorem useFree_upd (s : State)  : (useFree s).upd = s.upd := rfl
@[simp] theorem useFree_therm (s : State)  : (useFree s).therm = s.therm := rfl

@[simp] theorem emit_pending (s : State) (o : Out) : (emit s o).pending = s.pending := rfl
@[simp] theorem emit_flds (s : State) (o : Out) : (emit s o).flds = s.flds := rfl
@[simp] theorem emit_live (s : State) (o : Out) : (emit s o).live = s.live := rfl
@[simp] theorem emit_pendL (s : State) (o : Out) : (emit s o).pendL = s.pendL := rfl
@[simp] theorem emit_nfree (s : State) (o : Out) : (emit s o).nfree = s.nfree := rfl
@[simp] theorem emit_qops (s : State) (o : Out) : (emit s o).qops = s.qops := rfl
@[simp] theorem emit_ifiles (s : State) (o : Out) : (emit s o).ifiles = s.ifiles := rfl
@[simp] theorem emit_tags (s : State) (o : Out) : (emit s o).tags = s.tags := rfl
@[simp] theorem emit_onceCycle (s : State) (o : Out) : (emit s o).onceCycle = s.onceCycle := rfl
@[simp] theorem emit_waiting (s : State) (o : Out) : (emit s o).waiting = s.waiting := rfl
@[simp] theorem emit_mem (s : State) (o : Out) : (emit s o).mem = s.mem := rfl
@[simp] theorem emit_chk (s : State) (o : Out) : (emit s o).chk = s.chk := rfl
@[simp] theorem emit_caches (s : State) (o : Out) : (emit s o).caches = s.caches := rfl
@[simp] theorem emit_ceHold (s : State) (o : Out) : (emit s o).ceHold = s.ceHold := rfl
@[simp] theorem emit_degCnt (s : State) (o : Out) : (emit s o).degCnt = s.degCnt := rfl
@[simp] theorem emit_degAt (s : State) (o : Out) : (emit s o).degAt = s.degAt := rfl
@[simp] theorem emit_degraded (s : State) (o : Out) : (emit s o).degraded = s.degraded := rfl
@[simp] theorem emit_triads (s : State) (o : Out) : (emit s o).triads = s.triads := rfl
@[simp] theorem emit_resv (s : State) (o : Out) : (emit s o).resv = s.resv := rfl
@[simp] theorem emit_poolNext (s : State) (o : Out) : (emit s o).poolNext = s.poolNext := rfl
@[simp] theorem emit_mer (s : State) (o : Out) : (emit s o).mer = s.mer := rfl
@[simp] theorem emit_rhl (s : State) (o : Out) : (emit s o).rhl = s.rhl := rfl
@[simp] theorem emit_chart (s : State) (o : Out) : (emit s o).chart = s.chart := rfl
@[simp] theorem emit_bkb (s : State) (o : Out) : (emit s o).bkb = s.bkb := rfl
@[simp] theorem emit_can (s : State) (o : Out) : (emit s o).can = s.can := rfl
@[simp] theorem emit_brg (s : State) (o : Out) : (emit s o).brg = s.brg := rfl
@[simp] theorem emit_fio (s : State) (o : Out) : (emit s o).fio = s.fio := rfl
@[simp] theorem emit_lod (s : State) (o : Out) : (emit s o).lod = s.lod := rfl
@[simp] theorem emit_anl (s : State) (o : Out) : (emit s o).anl = s.anl := rfl
@[simp] theorem emit_binn (s : State) (o : Out) : (emit s o).binn = s.binn := rfl
@[simp] theorem emit_pulses (s : State) (o : Out) : (emit s o).pulses = s.pulses := rfl
@[simp] theorem emit_pulseOvf (s : State) (o : Out) : (emit s o).pulseOvf = s.pulseOvf := rfl
@[simp] theorem emit_xings (s : State) (o : Out) : (emit s o).xings = s.xings := rfl
@[simp] theorem emit_quiet (s : State) (o : Out) : (emit s o).quiet = s.quiet := rfl
@[simp] theorem emit_links (s : State) (o : Out) : (emit s o).links = s.links := rfl
@[simp] theorem emit_linkAt (s : State) (o : Out) : (emit s o).linkAt = s.linkAt := rfl
@[simp] theorem emit_linkLost (s : State) (o : Out) : (emit s o).linkLost = s.linkLost := rfl
@[simp] theorem emit_coll (s : State) (o : Out) : (emit s o).coll = s.coll := rfl
@[simp] theorem emit_prl (s : State) (o : Out) : (emit s o).prl = s.prl := rfl
@[simp] theorem emit_logb (s : State) (o : Out) : (emit s o).logb = s.logb := rfl
@[simp] theorem emit_pwr (s : State) (o : Out) : (emit s o).pwr = s.pwr := rfl
@[simp] theorem emit_upd (s : State) (o : Out) : (emit s o).upd = s.upd := rfl
@[simp] theorem emit_therm (s : State) (o : Out) : (emit s o).therm = s.therm := rfl

@[simp] theorem putHome_pending (s : State) (cw : Nat) (w : List Byte) : (putHome s cw w).pending = s.pending := rfl
@[simp] theorem putHome_flds (s : State) (cw : Nat) (w : List Byte) : (putHome s cw w).flds = s.flds := rfl
@[simp] theorem putHome_live (s : State) (cw : Nat) (w : List Byte) : (putHome s cw w).live = s.live := rfl
@[simp] theorem putHome_pendL (s : State) (cw : Nat) (w : List Byte) : (putHome s cw w).pendL = s.pendL := rfl
@[simp] theorem putHome_nfree (s : State) (cw : Nat) (w : List Byte) : (putHome s cw w).nfree = s.nfree := rfl
@[simp] theorem putHome_out (s : State) (cw : Nat) (w : List Byte) : (putHome s cw w).out = s.out := rfl
@[simp] theorem putHome_qops (s : State) (cw : Nat) (w : List Byte) : (putHome s cw w).qops = s.qops := rfl
@[simp] theorem putHome_ifiles (s : State) (cw : Nat) (w : List Byte) : (putHome s cw w).ifiles = s.ifiles := rfl
@[simp] theorem putHome_tags (s : State) (cw : Nat) (w : List Byte) : (putHome s cw w).tags = s.tags := rfl
@[simp] theorem putHome_onceCycle (s : State) (cw : Nat) (w : List Byte) : (putHome s cw w).onceCycle = s.onceCycle := rfl
@[simp] theorem putHome_waiting (s : State) (cw : Nat) (w : List Byte) : (putHome s cw w).waiting = s.waiting := rfl
@[simp] theorem putHome_caches (s : State) (cw : Nat) (w : List Byte) : (putHome s cw w).caches = s.caches := rfl
@[simp] theorem putHome_ceHold (s : State) (cw : Nat) (w : List Byte) : (putHome s cw w).ceHold = s.ceHold := rfl
@[simp] theorem putHome_degCnt (s : State) (cw : Nat) (w : List Byte) : (putHome s cw w).degCnt = s.degCnt := rfl
@[simp] theorem putHome_degAt (s : State) (cw : Nat) (w : List Byte) : (putHome s cw w).degAt = s.degAt := rfl
@[simp] theorem putHome_degraded (s : State) (cw : Nat) (w : List Byte) : (putHome s cw w).degraded = s.degraded := rfl
@[simp] theorem putHome_triads (s : State) (cw : Nat) (w : List Byte) : (putHome s cw w).triads = s.triads := rfl
@[simp] theorem putHome_resv (s : State) (cw : Nat) (w : List Byte) : (putHome s cw w).resv = s.resv := rfl
@[simp] theorem putHome_poolNext (s : State) (cw : Nat) (w : List Byte) : (putHome s cw w).poolNext = s.poolNext := rfl
@[simp] theorem putHome_mer (s : State) (cw : Nat) (w : List Byte) : (putHome s cw w).mer = s.mer := rfl
@[simp] theorem putHome_rhl (s : State) (cw : Nat) (w : List Byte) : (putHome s cw w).rhl = s.rhl := rfl
@[simp] theorem putHome_chart (s : State) (cw : Nat) (w : List Byte) : (putHome s cw w).chart = s.chart := rfl
@[simp] theorem putHome_bkb (s : State) (cw : Nat) (w : List Byte) : (putHome s cw w).bkb = s.bkb := rfl
@[simp] theorem putHome_can (s : State) (cw : Nat) (w : List Byte) : (putHome s cw w).can = s.can := rfl
@[simp] theorem putHome_brg (s : State) (cw : Nat) (w : List Byte) : (putHome s cw w).brg = s.brg := rfl
@[simp] theorem putHome_fio (s : State) (cw : Nat) (w : List Byte) : (putHome s cw w).fio = s.fio := rfl
@[simp] theorem putHome_lod (s : State) (cw : Nat) (w : List Byte) : (putHome s cw w).lod = s.lod := rfl
@[simp] theorem putHome_anl (s : State) (cw : Nat) (w : List Byte) : (putHome s cw w).anl = s.anl := rfl
@[simp] theorem putHome_binn (s : State) (cw : Nat) (w : List Byte) : (putHome s cw w).binn = s.binn := rfl
@[simp] theorem putHome_pulses (s : State) (cw : Nat) (w : List Byte) : (putHome s cw w).pulses = s.pulses := rfl
@[simp] theorem putHome_pulseOvf (s : State) (cw : Nat) (w : List Byte) : (putHome s cw w).pulseOvf = s.pulseOvf := rfl
@[simp] theorem putHome_xings (s : State) (cw : Nat) (w : List Byte) : (putHome s cw w).xings = s.xings := rfl
@[simp] theorem putHome_quiet (s : State) (cw : Nat) (w : List Byte) : (putHome s cw w).quiet = s.quiet := rfl
@[simp] theorem putHome_links (s : State) (cw : Nat) (w : List Byte) : (putHome s cw w).links = s.links := rfl
@[simp] theorem putHome_linkAt (s : State) (cw : Nat) (w : List Byte) : (putHome s cw w).linkAt = s.linkAt := rfl
@[simp] theorem putHome_linkLost (s : State) (cw : Nat) (w : List Byte) : (putHome s cw w).linkLost = s.linkLost := rfl
@[simp] theorem putHome_coll (s : State) (cw : Nat) (w : List Byte) : (putHome s cw w).coll = s.coll := rfl
@[simp] theorem putHome_prl (s : State) (cw : Nat) (w : List Byte) : (putHome s cw w).prl = s.prl := rfl
@[simp] theorem putHome_logb (s : State) (cw : Nat) (w : List Byte) : (putHome s cw w).logb = s.logb := rfl
@[simp] theorem putHome_pwr (s : State) (cw : Nat) (w : List Byte) : (putHome s cw w).pwr = s.pwr := rfl
@[simp] theorem putHome_upd (s : State) (cw : Nat) (w : List Byte) : (putHome s cw w).upd = s.upd := rfl
@[simp] theorem putHome_therm (s : State) (cw : Nat) (w : List Byte) : (putHome s cw w).therm = s.therm := rfl

@[simp] theorem modLine_pending (s : State) (u line : Nat) (g : CLine → CLine) : (modLine s u line g).pending = s.pending := rfl
@[simp] theorem modLine_flds (s : State) (u line : Nat) (g : CLine → CLine) : (modLine s u line g).flds = s.flds := rfl
@[simp] theorem modLine_live (s : State) (u line : Nat) (g : CLine → CLine) : (modLine s u line g).live = s.live := rfl
@[simp] theorem modLine_pendL (s : State) (u line : Nat) (g : CLine → CLine) : (modLine s u line g).pendL = s.pendL := rfl
@[simp] theorem modLine_nfree (s : State) (u line : Nat) (g : CLine → CLine) : (modLine s u line g).nfree = s.nfree := rfl
@[simp] theorem modLine_out (s : State) (u line : Nat) (g : CLine → CLine) : (modLine s u line g).out = s.out := rfl
@[simp] theorem modLine_qops (s : State) (u line : Nat) (g : CLine → CLine) : (modLine s u line g).qops = s.qops := rfl
@[simp] theorem modLine_ifiles (s : State) (u line : Nat) (g : CLine → CLine) : (modLine s u line g).ifiles = s.ifiles := rfl
@[simp] theorem modLine_tags (s : State) (u line : Nat) (g : CLine → CLine) : (modLine s u line g).tags = s.tags := rfl
@[simp] theorem modLine_onceCycle (s : State) (u line : Nat) (g : CLine → CLine) : (modLine s u line g).onceCycle = s.onceCycle := rfl
@[simp] theorem modLine_waiting (s : State) (u line : Nat) (g : CLine → CLine) : (modLine s u line g).waiting = s.waiting := rfl
@[simp] theorem modLine_mem (s : State) (u line : Nat) (g : CLine → CLine) : (modLine s u line g).mem = s.mem := rfl
@[simp] theorem modLine_chk (s : State) (u line : Nat) (g : CLine → CLine) : (modLine s u line g).chk = s.chk := rfl
@[simp] theorem modLine_ceHold (s : State) (u line : Nat) (g : CLine → CLine) : (modLine s u line g).ceHold = s.ceHold := rfl
@[simp] theorem modLine_degCnt (s : State) (u line : Nat) (g : CLine → CLine) : (modLine s u line g).degCnt = s.degCnt := rfl
@[simp] theorem modLine_degAt (s : State) (u line : Nat) (g : CLine → CLine) : (modLine s u line g).degAt = s.degAt := rfl
@[simp] theorem modLine_degraded (s : State) (u line : Nat) (g : CLine → CLine) : (modLine s u line g).degraded = s.degraded := rfl
@[simp] theorem modLine_triads (s : State) (u line : Nat) (g : CLine → CLine) : (modLine s u line g).triads = s.triads := rfl
@[simp] theorem modLine_resv (s : State) (u line : Nat) (g : CLine → CLine) : (modLine s u line g).resv = s.resv := rfl
@[simp] theorem modLine_poolNext (s : State) (u line : Nat) (g : CLine → CLine) : (modLine s u line g).poolNext = s.poolNext := rfl
@[simp] theorem modLine_mer (s : State) (u line : Nat) (g : CLine → CLine) : (modLine s u line g).mer = s.mer := rfl
@[simp] theorem modLine_rhl (s : State) (u line : Nat) (g : CLine → CLine) : (modLine s u line g).rhl = s.rhl := rfl
@[simp] theorem modLine_chart (s : State) (u line : Nat) (g : CLine → CLine) : (modLine s u line g).chart = s.chart := rfl
@[simp] theorem modLine_bkb (s : State) (u line : Nat) (g : CLine → CLine) : (modLine s u line g).bkb = s.bkb := rfl
@[simp] theorem modLine_can (s : State) (u line : Nat) (g : CLine → CLine) : (modLine s u line g).can = s.can := rfl
@[simp] theorem modLine_brg (s : State) (u line : Nat) (g : CLine → CLine) : (modLine s u line g).brg = s.brg := rfl
@[simp] theorem modLine_fio (s : State) (u line : Nat) (g : CLine → CLine) : (modLine s u line g).fio = s.fio := rfl
@[simp] theorem modLine_lod (s : State) (u line : Nat) (g : CLine → CLine) : (modLine s u line g).lod = s.lod := rfl
@[simp] theorem modLine_anl (s : State) (u line : Nat) (g : CLine → CLine) : (modLine s u line g).anl = s.anl := rfl
@[simp] theorem modLine_binn (s : State) (u line : Nat) (g : CLine → CLine) : (modLine s u line g).binn = s.binn := rfl
@[simp] theorem modLine_pulses (s : State) (u line : Nat) (g : CLine → CLine) : (modLine s u line g).pulses = s.pulses := rfl
@[simp] theorem modLine_pulseOvf (s : State) (u line : Nat) (g : CLine → CLine) : (modLine s u line g).pulseOvf = s.pulseOvf := rfl
@[simp] theorem modLine_xings (s : State) (u line : Nat) (g : CLine → CLine) : (modLine s u line g).xings = s.xings := rfl
@[simp] theorem modLine_quiet (s : State) (u line : Nat) (g : CLine → CLine) : (modLine s u line g).quiet = s.quiet := rfl
@[simp] theorem modLine_links (s : State) (u line : Nat) (g : CLine → CLine) : (modLine s u line g).links = s.links := rfl
@[simp] theorem modLine_linkAt (s : State) (u line : Nat) (g : CLine → CLine) : (modLine s u line g).linkAt = s.linkAt := rfl
@[simp] theorem modLine_linkLost (s : State) (u line : Nat) (g : CLine → CLine) : (modLine s u line g).linkLost = s.linkLost := rfl
@[simp] theorem modLine_coll (s : State) (u line : Nat) (g : CLine → CLine) : (modLine s u line g).coll = s.coll := rfl
@[simp] theorem modLine_prl (s : State) (u line : Nat) (g : CLine → CLine) : (modLine s u line g).prl = s.prl := rfl
@[simp] theorem modLine_logb (s : State) (u line : Nat) (g : CLine → CLine) : (modLine s u line g).logb = s.logb := rfl
@[simp] theorem modLine_pwr (s : State) (u line : Nat) (g : CLine → CLine) : (modLine s u line g).pwr = s.pwr := rfl
@[simp] theorem modLine_upd (s : State) (u line : Nat) (g : CLine → CLine) : (modLine s u line g).upd = s.upd := rfl
@[simp] theorem modLine_therm (s : State) (u line : Nat) (g : CLine → CLine) : (modLine s u line g).therm = s.therm := rfl

@[simp] theorem putSymbols_pending (s : State) (cw : Nat) (d c : List Byte) : (putSymbols s cw d c).pending = s.pending := by unfold putSymbols; split <;> rfl
@[simp] theorem putSymbols_flds (s : State) (cw : Nat) (d c : List Byte) : (putSymbols s cw d c).flds = s.flds := by unfold putSymbols; split <;> rfl
@[simp] theorem putSymbols_live (s : State) (cw : Nat) (d c : List Byte) : (putSymbols s cw d c).live = s.live := by unfold putSymbols; split <;> rfl
@[simp] theorem putSymbols_pendL (s : State) (cw : Nat) (d c : List Byte) : (putSymbols s cw d c).pendL = s.pendL := by unfold putSymbols; split <;> rfl
@[simp] theorem putSymbols_nfree (s : State) (cw : Nat) (d c : List Byte) : (putSymbols s cw d c).nfree = s.nfree := by unfold putSymbols; split <;> rfl
@[simp] theorem putSymbols_out (s : State) (cw : Nat) (d c : List Byte) : (putSymbols s cw d c).out = s.out := by unfold putSymbols; split <;> rfl
@[simp] theorem putSymbols_qops (s : State) (cw : Nat) (d c : List Byte) : (putSymbols s cw d c).qops = s.qops := by unfold putSymbols; split <;> rfl
@[simp] theorem putSymbols_ifiles (s : State) (cw : Nat) (d c : List Byte) : (putSymbols s cw d c).ifiles = s.ifiles := by unfold putSymbols; split <;> rfl
@[simp] theorem putSymbols_tags (s : State) (cw : Nat) (d c : List Byte) : (putSymbols s cw d c).tags = s.tags := by unfold putSymbols; split <;> rfl
@[simp] theorem putSymbols_onceCycle (s : State) (cw : Nat) (d c : List Byte) : (putSymbols s cw d c).onceCycle = s.onceCycle := by unfold putSymbols; split <;> rfl
@[simp] theorem putSymbols_waiting (s : State) (cw : Nat) (d c : List Byte) : (putSymbols s cw d c).waiting = s.waiting := by unfold putSymbols; split <;> rfl
@[simp] theorem putSymbols_ceHold (s : State) (cw : Nat) (d c : List Byte) : (putSymbols s cw d c).ceHold = s.ceHold := by unfold putSymbols; split <;> rfl
@[simp] theorem putSymbols_degCnt (s : State) (cw : Nat) (d c : List Byte) : (putSymbols s cw d c).degCnt = s.degCnt := by unfold putSymbols; split <;> rfl
@[simp] theorem putSymbols_degAt (s : State) (cw : Nat) (d c : List Byte) : (putSymbols s cw d c).degAt = s.degAt := by unfold putSymbols; split <;> rfl
@[simp] theorem putSymbols_degraded (s : State) (cw : Nat) (d c : List Byte) : (putSymbols s cw d c).degraded = s.degraded := by unfold putSymbols; split <;> rfl
@[simp] theorem putSymbols_triads (s : State) (cw : Nat) (d c : List Byte) : (putSymbols s cw d c).triads = s.triads := by unfold putSymbols; split <;> rfl
@[simp] theorem putSymbols_resv (s : State) (cw : Nat) (d c : List Byte) : (putSymbols s cw d c).resv = s.resv := by unfold putSymbols; split <;> rfl
@[simp] theorem putSymbols_poolNext (s : State) (cw : Nat) (d c : List Byte) : (putSymbols s cw d c).poolNext = s.poolNext := by unfold putSymbols; split <;> rfl
@[simp] theorem putSymbols_mer (s : State) (cw : Nat) (d c : List Byte) : (putSymbols s cw d c).mer = s.mer := by unfold putSymbols; split <;> rfl
@[simp] theorem putSymbols_rhl (s : State) (cw : Nat) (d c : List Byte) : (putSymbols s cw d c).rhl = s.rhl := by unfold putSymbols; split <;> rfl
@[simp] theorem putSymbols_chart (s : State) (cw : Nat) (d c : List Byte) : (putSymbols s cw d c).chart = s.chart := by unfold putSymbols; split <;> rfl
@[simp] theorem putSymbols_bkb (s : State) (cw : Nat) (d c : List Byte) : (putSymbols s cw d c).bkb = s.bkb := by unfold putSymbols; split <;> rfl
@[simp] theorem putSymbols_can (s : State) (cw : Nat) (d c : List Byte) : (putSymbols s cw d c).can = s.can := by unfold putSymbols; split <;> rfl
@[simp] theorem putSymbols_brg (s : State) (cw : Nat) (d c : List Byte) : (putSymbols s cw d c).brg = s.brg := by unfold putSymbols; split <;> rfl
@[simp] theorem putSymbols_fio (s : State) (cw : Nat) (d c : List Byte) : (putSymbols s cw d c).fio = s.fio := by unfold putSymbols; split <;> rfl
@[simp] theorem putSymbols_lod (s : State) (cw : Nat) (d c : List Byte) : (putSymbols s cw d c).lod = s.lod := by unfold putSymbols; split <;> rfl
@[simp] theorem putSymbols_anl (s : State) (cw : Nat) (d c : List Byte) : (putSymbols s cw d c).anl = s.anl := by unfold putSymbols; split <;> rfl
@[simp] theorem putSymbols_binn (s : State) (cw : Nat) (d c : List Byte) : (putSymbols s cw d c).binn = s.binn := by unfold putSymbols; split <;> rfl
@[simp] theorem putSymbols_pulses (s : State) (cw : Nat) (d c : List Byte) : (putSymbols s cw d c).pulses = s.pulses := by unfold putSymbols; split <;> rfl
@[simp] theorem putSymbols_pulseOvf (s : State) (cw : Nat) (d c : List Byte) : (putSymbols s cw d c).pulseOvf = s.pulseOvf := by unfold putSymbols; split <;> rfl
@[simp] theorem putSymbols_xings (s : State) (cw : Nat) (d c : List Byte) : (putSymbols s cw d c).xings = s.xings := by unfold putSymbols; split <;> rfl
@[simp] theorem putSymbols_quiet (s : State) (cw : Nat) (d c : List Byte) : (putSymbols s cw d c).quiet = s.quiet := by unfold putSymbols; split <;> rfl
@[simp] theorem putSymbols_links (s : State) (cw : Nat) (d c : List Byte) : (putSymbols s cw d c).links = s.links := by unfold putSymbols; split <;> rfl
@[simp] theorem putSymbols_linkAt (s : State) (cw : Nat) (d c : List Byte) : (putSymbols s cw d c).linkAt = s.linkAt := by unfold putSymbols; split <;> rfl
@[simp] theorem putSymbols_linkLost (s : State) (cw : Nat) (d c : List Byte) : (putSymbols s cw d c).linkLost = s.linkLost := by unfold putSymbols; split <;> rfl
@[simp] theorem putSymbols_coll (s : State) (cw : Nat) (d c : List Byte) : (putSymbols s cw d c).coll = s.coll := by unfold putSymbols; split <;> rfl
@[simp] theorem putSymbols_prl (s : State) (cw : Nat) (d c : List Byte) : (putSymbols s cw d c).prl = s.prl := by unfold putSymbols; split <;> rfl
@[simp] theorem putSymbols_logb (s : State) (cw : Nat) (d c : List Byte) : (putSymbols s cw d c).logb = s.logb := by unfold putSymbols; split <;> rfl
@[simp] theorem putSymbols_pwr (s : State) (cw : Nat) (d c : List Byte) : (putSymbols s cw d c).pwr = s.pwr := by unfold putSymbols; split <;> rfl
@[simp] theorem putSymbols_upd (s : State) (cw : Nat) (d c : List Byte) : (putSymbols s cw d c).upd = s.upd := by unfold putSymbols; split <;> rfl
@[simp] theorem putSymbols_therm (s : State) (cw : Nat) (d c : List Byte) : (putSymbols s cw d c).therm = s.therm := by unfold putSymbols; split <;> rfl

@[simp] theorem tagStore_pending (s : State) (a n : Nat) (v : Word) : (tagStore s a n v).pending = s.pending := rfl
@[simp] theorem tagStore_flds (s : State) (a n : Nat) (v : Word) : (tagStore s a n v).flds = s.flds := rfl
@[simp] theorem tagStore_live (s : State) (a n : Nat) (v : Word) : (tagStore s a n v).live = s.live := rfl
@[simp] theorem tagStore_pendL (s : State) (a n : Nat) (v : Word) : (tagStore s a n v).pendL = s.pendL := rfl
@[simp] theorem tagStore_nfree (s : State) (a n : Nat) (v : Word) : (tagStore s a n v).nfree = s.nfree := rfl
@[simp] theorem tagStore_out (s : State) (a n : Nat) (v : Word) : (tagStore s a n v).out = s.out := rfl
@[simp] theorem tagStore_qops (s : State) (a n : Nat) (v : Word) : (tagStore s a n v).qops = s.qops := rfl
@[simp] theorem tagStore_ifiles (s : State) (a n : Nat) (v : Word) : (tagStore s a n v).ifiles = s.ifiles := rfl
@[simp] theorem tagStore_onceCycle (s : State) (a n : Nat) (v : Word) : (tagStore s a n v).onceCycle = s.onceCycle := rfl
@[simp] theorem tagStore_waiting (s : State) (a n : Nat) (v : Word) : (tagStore s a n v).waiting = s.waiting := rfl
@[simp] theorem tagStore_mem (s : State) (a n : Nat) (v : Word) : (tagStore s a n v).mem = s.mem := rfl
@[simp] theorem tagStore_chk (s : State) (a n : Nat) (v : Word) : (tagStore s a n v).chk = s.chk := rfl
@[simp] theorem tagStore_caches (s : State) (a n : Nat) (v : Word) : (tagStore s a n v).caches = s.caches := rfl
@[simp] theorem tagStore_ceHold (s : State) (a n : Nat) (v : Word) : (tagStore s a n v).ceHold = s.ceHold := rfl
@[simp] theorem tagStore_degCnt (s : State) (a n : Nat) (v : Word) : (tagStore s a n v).degCnt = s.degCnt := rfl
@[simp] theorem tagStore_degAt (s : State) (a n : Nat) (v : Word) : (tagStore s a n v).degAt = s.degAt := rfl
@[simp] theorem tagStore_degraded (s : State) (a n : Nat) (v : Word) : (tagStore s a n v).degraded = s.degraded := rfl
@[simp] theorem tagStore_triads (s : State) (a n : Nat) (v : Word) : (tagStore s a n v).triads = s.triads := rfl
@[simp] theorem tagStore_resv (s : State) (a n : Nat) (v : Word) : (tagStore s a n v).resv = s.resv := rfl
@[simp] theorem tagStore_poolNext (s : State) (a n : Nat) (v : Word) : (tagStore s a n v).poolNext = s.poolNext := rfl
@[simp] theorem tagStore_mer (s : State) (a n : Nat) (v : Word) : (tagStore s a n v).mer = s.mer := rfl
@[simp] theorem tagStore_rhl (s : State) (a n : Nat) (v : Word) : (tagStore s a n v).rhl = s.rhl := rfl
@[simp] theorem tagStore_chart (s : State) (a n : Nat) (v : Word) : (tagStore s a n v).chart = s.chart := rfl
@[simp] theorem tagStore_bkb (s : State) (a n : Nat) (v : Word) : (tagStore s a n v).bkb = s.bkb := rfl
@[simp] theorem tagStore_can (s : State) (a n : Nat) (v : Word) : (tagStore s a n v).can = s.can := rfl
@[simp] theorem tagStore_brg (s : State) (a n : Nat) (v : Word) : (tagStore s a n v).brg = s.brg := rfl
@[simp] theorem tagStore_fio (s : State) (a n : Nat) (v : Word) : (tagStore s a n v).fio = s.fio := rfl
@[simp] theorem tagStore_lod (s : State) (a n : Nat) (v : Word) : (tagStore s a n v).lod = s.lod := rfl
@[simp] theorem tagStore_anl (s : State) (a n : Nat) (v : Word) : (tagStore s a n v).anl = s.anl := rfl
@[simp] theorem tagStore_binn (s : State) (a n : Nat) (v : Word) : (tagStore s a n v).binn = s.binn := rfl
@[simp] theorem tagStore_pulses (s : State) (a n : Nat) (v : Word) : (tagStore s a n v).pulses = s.pulses := rfl
@[simp] theorem tagStore_pulseOvf (s : State) (a n : Nat) (v : Word) : (tagStore s a n v).pulseOvf = s.pulseOvf := rfl
@[simp] theorem tagStore_xings (s : State) (a n : Nat) (v : Word) : (tagStore s a n v).xings = s.xings := rfl
@[simp] theorem tagStore_quiet (s : State) (a n : Nat) (v : Word) : (tagStore s a n v).quiet = s.quiet := rfl
@[simp] theorem tagStore_links (s : State) (a n : Nat) (v : Word) : (tagStore s a n v).links = s.links := rfl
@[simp] theorem tagStore_linkAt (s : State) (a n : Nat) (v : Word) : (tagStore s a n v).linkAt = s.linkAt := rfl
@[simp] theorem tagStore_linkLost (s : State) (a n : Nat) (v : Word) : (tagStore s a n v).linkLost = s.linkLost := rfl
@[simp] theorem tagStore_coll (s : State) (a n : Nat) (v : Word) : (tagStore s a n v).coll = s.coll := rfl
@[simp] theorem tagStore_prl (s : State) (a n : Nat) (v : Word) : (tagStore s a n v).prl = s.prl := rfl
@[simp] theorem tagStore_logb (s : State) (a n : Nat) (v : Word) : (tagStore s a n v).logb = s.logb := rfl
@[simp] theorem tagStore_pwr (s : State) (a n : Nat) (v : Word) : (tagStore s a n v).pwr = s.pwr := rfl
@[simp] theorem tagStore_upd (s : State) (a n : Nat) (v : Word) : (tagStore s a n v).upd = s.upd := rfl
@[simp] theorem tagStore_therm (s : State) (a n : Nat) (v : Word) : (tagStore s a n v).therm = s.therm := rfl

@[simp] theorem modTriad_pending (s : State) (n : Nat) (g : Triad → Triad) : (modTriad s n g).pending = s.pending := rfl
@[simp] theorem modTriad_flds (s : State) (n : Nat) (g : Triad → Triad) : (modTriad s n g).flds = s.flds := rfl
@[simp] theorem modTriad_live (s : State) (n : Nat) (g : Triad → Triad) : (modTriad s n g).live = s.live := rfl
@[simp] theorem modTriad_pendL (s : State) (n : Nat) (g : Triad → Triad) : (modTriad s n g).pendL = s.pendL := rfl
@[simp] theorem modTriad_nfree (s : State) (n : Nat) (g : Triad → Triad) : (modTriad s n g).nfree = s.nfree := rfl
@[simp] theorem modTriad_out (s : State) (n : Nat) (g : Triad → Triad) : (modTriad s n g).out = s.out := rfl
@[simp] theorem modTriad_qops (s : State) (n : Nat) (g : Triad → Triad) : (modTriad s n g).qops = s.qops := rfl
@[simp] theorem modTriad_ifiles (s : State) (n : Nat) (g : Triad → Triad) : (modTriad s n g).ifiles = s.ifiles := rfl
@[simp] theorem modTriad_tags (s : State) (n : Nat) (g : Triad → Triad) : (modTriad s n g).tags = s.tags := rfl
@[simp] theorem modTriad_onceCycle (s : State) (n : Nat) (g : Triad → Triad) : (modTriad s n g).onceCycle = s.onceCycle := rfl
@[simp] theorem modTriad_waiting (s : State) (n : Nat) (g : Triad → Triad) : (modTriad s n g).waiting = s.waiting := rfl
@[simp] theorem modTriad_mem (s : State) (n : Nat) (g : Triad → Triad) : (modTriad s n g).mem = s.mem := rfl
@[simp] theorem modTriad_chk (s : State) (n : Nat) (g : Triad → Triad) : (modTriad s n g).chk = s.chk := rfl
@[simp] theorem modTriad_caches (s : State) (n : Nat) (g : Triad → Triad) : (modTriad s n g).caches = s.caches := rfl
@[simp] theorem modTriad_ceHold (s : State) (n : Nat) (g : Triad → Triad) : (modTriad s n g).ceHold = s.ceHold := rfl
@[simp] theorem modTriad_degCnt (s : State) (n : Nat) (g : Triad → Triad) : (modTriad s n g).degCnt = s.degCnt := rfl
@[simp] theorem modTriad_degAt (s : State) (n : Nat) (g : Triad → Triad) : (modTriad s n g).degAt = s.degAt := rfl
@[simp] theorem modTriad_degraded (s : State) (n : Nat) (g : Triad → Triad) : (modTriad s n g).degraded = s.degraded := rfl
@[simp] theorem modTriad_resv (s : State) (n : Nat) (g : Triad → Triad) : (modTriad s n g).resv = s.resv := rfl
@[simp] theorem modTriad_poolNext (s : State) (n : Nat) (g : Triad → Triad) : (modTriad s n g).poolNext = s.poolNext := rfl
@[simp] theorem modTriad_mer (s : State) (n : Nat) (g : Triad → Triad) : (modTriad s n g).mer = s.mer := rfl
@[simp] theorem modTriad_rhl (s : State) (n : Nat) (g : Triad → Triad) : (modTriad s n g).rhl = s.rhl := rfl
@[simp] theorem modTriad_chart (s : State) (n : Nat) (g : Triad → Triad) : (modTriad s n g).chart = s.chart := rfl
@[simp] theorem modTriad_bkb (s : State) (n : Nat) (g : Triad → Triad) : (modTriad s n g).bkb = s.bkb := rfl
@[simp] theorem modTriad_can (s : State) (n : Nat) (g : Triad → Triad) : (modTriad s n g).can = s.can := rfl
@[simp] theorem modTriad_brg (s : State) (n : Nat) (g : Triad → Triad) : (modTriad s n g).brg = s.brg := rfl
@[simp] theorem modTriad_fio (s : State) (n : Nat) (g : Triad → Triad) : (modTriad s n g).fio = s.fio := rfl
@[simp] theorem modTriad_lod (s : State) (n : Nat) (g : Triad → Triad) : (modTriad s n g).lod = s.lod := rfl
@[simp] theorem modTriad_anl (s : State) (n : Nat) (g : Triad → Triad) : (modTriad s n g).anl = s.anl := rfl
@[simp] theorem modTriad_binn (s : State) (n : Nat) (g : Triad → Triad) : (modTriad s n g).binn = s.binn := rfl
@[simp] theorem modTriad_pulses (s : State) (n : Nat) (g : Triad → Triad) : (modTriad s n g).pulses = s.pulses := rfl
@[simp] theorem modTriad_pulseOvf (s : State) (n : Nat) (g : Triad → Triad) : (modTriad s n g).pulseOvf = s.pulseOvf := rfl
@[simp] theorem modTriad_xings (s : State) (n : Nat) (g : Triad → Triad) : (modTriad s n g).xings = s.xings := rfl
@[simp] theorem modTriad_quiet (s : State) (n : Nat) (g : Triad → Triad) : (modTriad s n g).quiet = s.quiet := rfl
@[simp] theorem modTriad_links (s : State) (n : Nat) (g : Triad → Triad) : (modTriad s n g).links = s.links := rfl
@[simp] theorem modTriad_linkAt (s : State) (n : Nat) (g : Triad → Triad) : (modTriad s n g).linkAt = s.linkAt := rfl
@[simp] theorem modTriad_linkLost (s : State) (n : Nat) (g : Triad → Triad) : (modTriad s n g).linkLost = s.linkLost := rfl
@[simp] theorem modTriad_coll (s : State) (n : Nat) (g : Triad → Triad) : (modTriad s n g).coll = s.coll := rfl
@[simp] theorem modTriad_prl (s : State) (n : Nat) (g : Triad → Triad) : (modTriad s n g).prl = s.prl := rfl
@[simp] theorem modTriad_logb (s : State) (n : Nat) (g : Triad → Triad) : (modTriad s n g).logb = s.logb := rfl
@[simp] theorem modTriad_pwr (s : State) (n : Nat) (g : Triad → Triad) : (modTriad s n g).pwr = s.pwr := rfl
@[simp] theorem modTriad_upd (s : State) (n : Nat) (g : Triad → Triad) : (modTriad s n g).upd = s.upd := rfl
@[simp] theorem modTriad_therm (s : State) (n : Nat) (g : Triad → Triad) : (modTriad s n g).therm = s.therm := rfl

@[simp] theorem modMer_pending (s : State) (g : Mer → Mer) : (modMer s g).pending = s.pending := rfl
@[simp] theorem modMer_flds (s : State) (g : Mer → Mer) : (modMer s g).flds = s.flds := rfl
@[simp] theorem modMer_live (s : State) (g : Mer → Mer) : (modMer s g).live = s.live := rfl
@[simp] theorem modMer_pendL (s : State) (g : Mer → Mer) : (modMer s g).pendL = s.pendL := rfl
@[simp] theorem modMer_nfree (s : State) (g : Mer → Mer) : (modMer s g).nfree = s.nfree := rfl
@[simp] theorem modMer_out (s : State) (g : Mer → Mer) : (modMer s g).out = s.out := rfl
@[simp] theorem modMer_qops (s : State) (g : Mer → Mer) : (modMer s g).qops = s.qops := rfl
@[simp] theorem modMer_ifiles (s : State) (g : Mer → Mer) : (modMer s g).ifiles = s.ifiles := rfl
@[simp] theorem modMer_tags (s : State) (g : Mer → Mer) : (modMer s g).tags = s.tags := rfl
@[simp] theorem modMer_onceCycle (s : State) (g : Mer → Mer) : (modMer s g).onceCycle = s.onceCycle := rfl
@[simp] theorem modMer_waiting (s : State) (g : Mer → Mer) : (modMer s g).waiting = s.waiting := rfl
@[simp] theorem modMer_mem (s : State) (g : Mer → Mer) : (modMer s g).mem = s.mem := rfl
@[simp] theorem modMer_chk (s : State) (g : Mer → Mer) : (modMer s g).chk = s.chk := rfl
@[simp] theorem modMer_caches (s : State) (g : Mer → Mer) : (modMer s g).caches = s.caches := rfl
@[simp] theorem modMer_ceHold (s : State) (g : Mer → Mer) : (modMer s g).ceHold = s.ceHold := rfl
@[simp] theorem modMer_degCnt (s : State) (g : Mer → Mer) : (modMer s g).degCnt = s.degCnt := rfl
@[simp] theorem modMer_degAt (s : State) (g : Mer → Mer) : (modMer s g).degAt = s.degAt := rfl
@[simp] theorem modMer_degraded (s : State) (g : Mer → Mer) : (modMer s g).degraded = s.degraded := rfl
@[simp] theorem modMer_triads (s : State) (g : Mer → Mer) : (modMer s g).triads = s.triads := rfl
@[simp] theorem modMer_resv (s : State) (g : Mer → Mer) : (modMer s g).resv = s.resv := rfl
@[simp] theorem modMer_poolNext (s : State) (g : Mer → Mer) : (modMer s g).poolNext = s.poolNext := rfl
@[simp] theorem modMer_rhl (s : State) (g : Mer → Mer) : (modMer s g).rhl = s.rhl := rfl
@[simp] theorem modMer_chart (s : State) (g : Mer → Mer) : (modMer s g).chart = s.chart := rfl
@[simp] theorem modMer_bkb (s : State) (g : Mer → Mer) : (modMer s g).bkb = s.bkb := rfl
@[simp] theorem modMer_can (s : State) (g : Mer → Mer) : (modMer s g).can = s.can := rfl
@[simp] theorem modMer_brg (s : State) (g : Mer → Mer) : (modMer s g).brg = s.brg := rfl
@[simp] theorem modMer_fio (s : State) (g : Mer → Mer) : (modMer s g).fio = s.fio := rfl
@[simp] theorem modMer_lod (s : State) (g : Mer → Mer) : (modMer s g).lod = s.lod := rfl
@[simp] theorem modMer_anl (s : State) (g : Mer → Mer) : (modMer s g).anl = s.anl := rfl
@[simp] theorem modMer_binn (s : State) (g : Mer → Mer) : (modMer s g).binn = s.binn := rfl
@[simp] theorem modMer_pulses (s : State) (g : Mer → Mer) : (modMer s g).pulses = s.pulses := rfl
@[simp] theorem modMer_pulseOvf (s : State) (g : Mer → Mer) : (modMer s g).pulseOvf = s.pulseOvf := rfl
@[simp] theorem modMer_xings (s : State) (g : Mer → Mer) : (modMer s g).xings = s.xings := rfl
@[simp] theorem modMer_quiet (s : State) (g : Mer → Mer) : (modMer s g).quiet = s.quiet := rfl
@[simp] theorem modMer_links (s : State) (g : Mer → Mer) : (modMer s g).links = s.links := rfl
@[simp] theorem modMer_linkAt (s : State) (g : Mer → Mer) : (modMer s g).linkAt = s.linkAt := rfl
@[simp] theorem modMer_linkLost (s : State) (g : Mer → Mer) : (modMer s g).linkLost = s.linkLost := rfl
@[simp] theorem modMer_coll (s : State) (g : Mer → Mer) : (modMer s g).coll = s.coll := rfl
@[simp] theorem modMer_prl (s : State) (g : Mer → Mer) : (modMer s g).prl = s.prl := rfl
@[simp] theorem modMer_logb (s : State) (g : Mer → Mer) : (modMer s g).logb = s.logb := rfl
@[simp] theorem modMer_pwr (s : State) (g : Mer → Mer) : (modMer s g).pwr = s.pwr := rfl
@[simp] theorem modMer_upd (s : State) (g : Mer → Mer) : (modMer s g).upd = s.upd := rfl
@[simp] theorem modMer_therm (s : State) (g : Mer → Mer) : (modMer s g).therm = s.therm := rfl

@[simp] theorem modRhl_pending (s : State) (g : Rhl → Rhl) : (modRhl s g).pending = s.pending := rfl
@[simp] theorem modRhl_flds (s : State) (g : Rhl → Rhl) : (modRhl s g).flds = s.flds := rfl
@[simp] theorem modRhl_live (s : State) (g : Rhl → Rhl) : (modRhl s g).live = s.live := rfl
@[simp] theorem modRhl_pendL (s : State) (g : Rhl → Rhl) : (modRhl s g).pendL = s.pendL := rfl
@[simp] theorem modRhl_nfree (s : State) (g : Rhl → Rhl) : (modRhl s g).nfree = s.nfree := rfl
@[simp] theorem modRhl_out (s : State) (g : Rhl → Rhl) : (modRhl s g).out = s.out := rfl
@[simp] theorem modRhl_qops (s : State) (g : Rhl → Rhl) : (modRhl s g).qops = s.qops := rfl
@[simp] theorem modRhl_ifiles (s : State) (g : Rhl → Rhl) : (modRhl s g).ifiles = s.ifiles := rfl
@[simp] theorem modRhl_tags (s : State) (g : Rhl → Rhl) : (modRhl s g).tags = s.tags := rfl
@[simp] theorem modRhl_onceCycle (s : State) (g : Rhl → Rhl) : (modRhl s g).onceCycle = s.onceCycle := rfl
@[simp] theorem modRhl_waiting (s : State) (g : Rhl → Rhl) : (modRhl s g).waiting = s.waiting := rfl
@[simp] theorem modRhl_mem (s : State) (g : Rhl → Rhl) : (modRhl s g).mem = s.mem := rfl
@[simp] theorem modRhl_chk (s : State) (g : Rhl → Rhl) : (modRhl s g).chk = s.chk := rfl
@[simp] theorem modRhl_caches (s : State) (g : Rhl → Rhl) : (modRhl s g).caches = s.caches := rfl
@[simp] theorem modRhl_ceHold (s : State) (g : Rhl → Rhl) : (modRhl s g).ceHold = s.ceHold := rfl
@[simp] theorem modRhl_degCnt (s : State) (g : Rhl → Rhl) : (modRhl s g).degCnt = s.degCnt := rfl
@[simp] theorem modRhl_degAt (s : State) (g : Rhl → Rhl) : (modRhl s g).degAt = s.degAt := rfl
@[simp] theorem modRhl_degraded (s : State) (g : Rhl → Rhl) : (modRhl s g).degraded = s.degraded := rfl
@[simp] theorem modRhl_triads (s : State) (g : Rhl → Rhl) : (modRhl s g).triads = s.triads := rfl
@[simp] theorem modRhl_resv (s : State) (g : Rhl → Rhl) : (modRhl s g).resv = s.resv := rfl
@[simp] theorem modRhl_poolNext (s : State) (g : Rhl → Rhl) : (modRhl s g).poolNext = s.poolNext := rfl
@[simp] theorem modRhl_mer (s : State) (g : Rhl → Rhl) : (modRhl s g).mer = s.mer := rfl
@[simp] theorem modRhl_chart (s : State) (g : Rhl → Rhl) : (modRhl s g).chart = s.chart := rfl
@[simp] theorem modRhl_bkb (s : State) (g : Rhl → Rhl) : (modRhl s g).bkb = s.bkb := rfl
@[simp] theorem modRhl_can (s : State) (g : Rhl → Rhl) : (modRhl s g).can = s.can := rfl
@[simp] theorem modRhl_brg (s : State) (g : Rhl → Rhl) : (modRhl s g).brg = s.brg := rfl
@[simp] theorem modRhl_fio (s : State) (g : Rhl → Rhl) : (modRhl s g).fio = s.fio := rfl
@[simp] theorem modRhl_lod (s : State) (g : Rhl → Rhl) : (modRhl s g).lod = s.lod := rfl
@[simp] theorem modRhl_anl (s : State) (g : Rhl → Rhl) : (modRhl s g).anl = s.anl := rfl
@[simp] theorem modRhl_binn (s : State) (g : Rhl → Rhl) : (modRhl s g).binn = s.binn := rfl
@[simp] theorem modRhl_pulses (s : State) (g : Rhl → Rhl) : (modRhl s g).pulses = s.pulses := rfl
@[simp] theorem modRhl_pulseOvf (s : State) (g : Rhl → Rhl) : (modRhl s g).pulseOvf = s.pulseOvf := rfl
@[simp] theorem modRhl_xings (s : State) (g : Rhl → Rhl) : (modRhl s g).xings = s.xings := rfl
@[simp] theorem modRhl_quiet (s : State) (g : Rhl → Rhl) : (modRhl s g).quiet = s.quiet := rfl
@[simp] theorem modRhl_links (s : State) (g : Rhl → Rhl) : (modRhl s g).links = s.links := rfl
@[simp] theorem modRhl_linkAt (s : State) (g : Rhl → Rhl) : (modRhl s g).linkAt = s.linkAt := rfl
@[simp] theorem modRhl_linkLost (s : State) (g : Rhl → Rhl) : (modRhl s g).linkLost = s.linkLost := rfl
@[simp] theorem modRhl_coll (s : State) (g : Rhl → Rhl) : (modRhl s g).coll = s.coll := rfl
@[simp] theorem modRhl_prl (s : State) (g : Rhl → Rhl) : (modRhl s g).prl = s.prl := rfl
@[simp] theorem modRhl_logb (s : State) (g : Rhl → Rhl) : (modRhl s g).logb = s.logb := rfl
@[simp] theorem modRhl_pwr (s : State) (g : Rhl → Rhl) : (modRhl s g).pwr = s.pwr := rfl
@[simp] theorem modRhl_upd (s : State) (g : Rhl → Rhl) : (modRhl s g).upd = s.upd := rfl
@[simp] theorem modRhl_therm (s : State) (g : Rhl → Rhl) : (modRhl s g).therm = s.therm := rfl

@[simp] theorem modChart_pending (s : State) (g : Chart → Chart) : (modChart s g).pending = s.pending := rfl
@[simp] theorem modChart_flds (s : State) (g : Chart → Chart) : (modChart s g).flds = s.flds := rfl
@[simp] theorem modChart_live (s : State) (g : Chart → Chart) : (modChart s g).live = s.live := rfl
@[simp] theorem modChart_pendL (s : State) (g : Chart → Chart) : (modChart s g).pendL = s.pendL := rfl
@[simp] theorem modChart_nfree (s : State) (g : Chart → Chart) : (modChart s g).nfree = s.nfree := rfl
@[simp] theorem modChart_out (s : State) (g : Chart → Chart) : (modChart s g).out = s.out := rfl
@[simp] theorem modChart_qops (s : State) (g : Chart → Chart) : (modChart s g).qops = s.qops := rfl
@[simp] theorem modChart_ifiles (s : State) (g : Chart → Chart) : (modChart s g).ifiles = s.ifiles := rfl
@[simp] theorem modChart_tags (s : State) (g : Chart → Chart) : (modChart s g).tags = s.tags := rfl
@[simp] theorem modChart_onceCycle (s : State) (g : Chart → Chart) : (modChart s g).onceCycle = s.onceCycle := rfl
@[simp] theorem modChart_waiting (s : State) (g : Chart → Chart) : (modChart s g).waiting = s.waiting := rfl
@[simp] theorem modChart_mem (s : State) (g : Chart → Chart) : (modChart s g).mem = s.mem := rfl
@[simp] theorem modChart_chk (s : State) (g : Chart → Chart) : (modChart s g).chk = s.chk := rfl
@[simp] theorem modChart_caches (s : State) (g : Chart → Chart) : (modChart s g).caches = s.caches := rfl
@[simp] theorem modChart_ceHold (s : State) (g : Chart → Chart) : (modChart s g).ceHold = s.ceHold := rfl
@[simp] theorem modChart_degCnt (s : State) (g : Chart → Chart) : (modChart s g).degCnt = s.degCnt := rfl
@[simp] theorem modChart_degAt (s : State) (g : Chart → Chart) : (modChart s g).degAt = s.degAt := rfl
@[simp] theorem modChart_degraded (s : State) (g : Chart → Chart) : (modChart s g).degraded = s.degraded := rfl
@[simp] theorem modChart_triads (s : State) (g : Chart → Chart) : (modChart s g).triads = s.triads := rfl
@[simp] theorem modChart_resv (s : State) (g : Chart → Chart) : (modChart s g).resv = s.resv := rfl
@[simp] theorem modChart_poolNext (s : State) (g : Chart → Chart) : (modChart s g).poolNext = s.poolNext := rfl
@[simp] theorem modChart_mer (s : State) (g : Chart → Chart) : (modChart s g).mer = s.mer := rfl
@[simp] theorem modChart_rhl (s : State) (g : Chart → Chart) : (modChart s g).rhl = s.rhl := rfl
@[simp] theorem modChart_bkb (s : State) (g : Chart → Chart) : (modChart s g).bkb = s.bkb := rfl
@[simp] theorem modChart_can (s : State) (g : Chart → Chart) : (modChart s g).can = s.can := rfl
@[simp] theorem modChart_brg (s : State) (g : Chart → Chart) : (modChart s g).brg = s.brg := rfl
@[simp] theorem modChart_fio (s : State) (g : Chart → Chart) : (modChart s g).fio = s.fio := rfl
@[simp] theorem modChart_lod (s : State) (g : Chart → Chart) : (modChart s g).lod = s.lod := rfl
@[simp] theorem modChart_anl (s : State) (g : Chart → Chart) : (modChart s g).anl = s.anl := rfl
@[simp] theorem modChart_binn (s : State) (g : Chart → Chart) : (modChart s g).binn = s.binn := rfl
@[simp] theorem modChart_pulses (s : State) (g : Chart → Chart) : (modChart s g).pulses = s.pulses := rfl
@[simp] theorem modChart_pulseOvf (s : State) (g : Chart → Chart) : (modChart s g).pulseOvf = s.pulseOvf := rfl
@[simp] theorem modChart_xings (s : State) (g : Chart → Chart) : (modChart s g).xings = s.xings := rfl
@[simp] theorem modChart_quiet (s : State) (g : Chart → Chart) : (modChart s g).quiet = s.quiet := rfl
@[simp] theorem modChart_links (s : State) (g : Chart → Chart) : (modChart s g).links = s.links := rfl
@[simp] theorem modChart_linkAt (s : State) (g : Chart → Chart) : (modChart s g).linkAt = s.linkAt := rfl
@[simp] theorem modChart_linkLost (s : State) (g : Chart → Chart) : (modChart s g).linkLost = s.linkLost := rfl
@[simp] theorem modChart_coll (s : State) (g : Chart → Chart) : (modChart s g).coll = s.coll := rfl
@[simp] theorem modChart_prl (s : State) (g : Chart → Chart) : (modChart s g).prl = s.prl := rfl
@[simp] theorem modChart_logb (s : State) (g : Chart → Chart) : (modChart s g).logb = s.logb := rfl
@[simp] theorem modChart_pwr (s : State) (g : Chart → Chart) : (modChart s g).pwr = s.pwr := rfl
@[simp] theorem modChart_upd (s : State) (g : Chart → Chart) : (modChart s g).upd = s.upd := rfl
@[simp] theorem modChart_therm (s : State) (g : Chart → Chart) : (modChart s g).therm = s.therm := rfl

@[simp] theorem modBkb_pending (s : State) (g : Bkb → Bkb) : (modBkb s g).pending = s.pending := rfl
@[simp] theorem modBkb_flds (s : State) (g : Bkb → Bkb) : (modBkb s g).flds = s.flds := rfl
@[simp] theorem modBkb_live (s : State) (g : Bkb → Bkb) : (modBkb s g).live = s.live := rfl
@[simp] theorem modBkb_pendL (s : State) (g : Bkb → Bkb) : (modBkb s g).pendL = s.pendL := rfl
@[simp] theorem modBkb_nfree (s : State) (g : Bkb → Bkb) : (modBkb s g).nfree = s.nfree := rfl
@[simp] theorem modBkb_out (s : State) (g : Bkb → Bkb) : (modBkb s g).out = s.out := rfl
@[simp] theorem modBkb_qops (s : State) (g : Bkb → Bkb) : (modBkb s g).qops = s.qops := rfl
@[simp] theorem modBkb_ifiles (s : State) (g : Bkb → Bkb) : (modBkb s g).ifiles = s.ifiles := rfl
@[simp] theorem modBkb_tags (s : State) (g : Bkb → Bkb) : (modBkb s g).tags = s.tags := rfl
@[simp] theorem modBkb_onceCycle (s : State) (g : Bkb → Bkb) : (modBkb s g).onceCycle = s.onceCycle := rfl
@[simp] theorem modBkb_waiting (s : State) (g : Bkb → Bkb) : (modBkb s g).waiting = s.waiting := rfl
@[simp] theorem modBkb_mem (s : State) (g : Bkb → Bkb) : (modBkb s g).mem = s.mem := rfl
@[simp] theorem modBkb_chk (s : State) (g : Bkb → Bkb) : (modBkb s g).chk = s.chk := rfl
@[simp] theorem modBkb_caches (s : State) (g : Bkb → Bkb) : (modBkb s g).caches = s.caches := rfl
@[simp] theorem modBkb_ceHold (s : State) (g : Bkb → Bkb) : (modBkb s g).ceHold = s.ceHold := rfl
@[simp] theorem modBkb_degCnt (s : State) (g : Bkb → Bkb) : (modBkb s g).degCnt = s.degCnt := rfl
@[simp] theorem modBkb_degAt (s : State) (g : Bkb → Bkb) : (modBkb s g).degAt = s.degAt := rfl
@[simp] theorem modBkb_degraded (s : State) (g : Bkb → Bkb) : (modBkb s g).degraded = s.degraded := rfl
@[simp] theorem modBkb_triads (s : State) (g : Bkb → Bkb) : (modBkb s g).triads = s.triads := rfl
@[simp] theorem modBkb_resv (s : State) (g : Bkb → Bkb) : (modBkb s g).resv = s.resv := rfl
@[simp] theorem modBkb_poolNext (s : State) (g : Bkb → Bkb) : (modBkb s g).poolNext = s.poolNext := rfl
@[simp] theorem modBkb_mer (s : State) (g : Bkb → Bkb) : (modBkb s g).mer = s.mer := rfl
@[simp] theorem modBkb_rhl (s : State) (g : Bkb → Bkb) : (modBkb s g).rhl = s.rhl := rfl
@[simp] theorem modBkb_chart (s : State) (g : Bkb → Bkb) : (modBkb s g).chart = s.chart := rfl
@[simp] theorem modBkb_can (s : State) (g : Bkb → Bkb) : (modBkb s g).can = s.can := rfl
@[simp] theorem modBkb_brg (s : State) (g : Bkb → Bkb) : (modBkb s g).brg = s.brg := rfl
@[simp] theorem modBkb_fio (s : State) (g : Bkb → Bkb) : (modBkb s g).fio = s.fio := rfl
@[simp] theorem modBkb_lod (s : State) (g : Bkb → Bkb) : (modBkb s g).lod = s.lod := rfl
@[simp] theorem modBkb_anl (s : State) (g : Bkb → Bkb) : (modBkb s g).anl = s.anl := rfl
@[simp] theorem modBkb_binn (s : State) (g : Bkb → Bkb) : (modBkb s g).binn = s.binn := rfl
@[simp] theorem modBkb_pulses (s : State) (g : Bkb → Bkb) : (modBkb s g).pulses = s.pulses := rfl
@[simp] theorem modBkb_pulseOvf (s : State) (g : Bkb → Bkb) : (modBkb s g).pulseOvf = s.pulseOvf := rfl
@[simp] theorem modBkb_xings (s : State) (g : Bkb → Bkb) : (modBkb s g).xings = s.xings := rfl
@[simp] theorem modBkb_quiet (s : State) (g : Bkb → Bkb) : (modBkb s g).quiet = s.quiet := rfl
@[simp] theorem modBkb_links (s : State) (g : Bkb → Bkb) : (modBkb s g).links = s.links := rfl
@[simp] theorem modBkb_linkAt (s : State) (g : Bkb → Bkb) : (modBkb s g).linkAt = s.linkAt := rfl
@[simp] theorem modBkb_linkLost (s : State) (g : Bkb → Bkb) : (modBkb s g).linkLost = s.linkLost := rfl
@[simp] theorem modBkb_coll (s : State) (g : Bkb → Bkb) : (modBkb s g).coll = s.coll := rfl
@[simp] theorem modBkb_prl (s : State) (g : Bkb → Bkb) : (modBkb s g).prl = s.prl := rfl
@[simp] theorem modBkb_logb (s : State) (g : Bkb → Bkb) : (modBkb s g).logb = s.logb := rfl
@[simp] theorem modBkb_pwr (s : State) (g : Bkb → Bkb) : (modBkb s g).pwr = s.pwr := rfl
@[simp] theorem modBkb_upd (s : State) (g : Bkb → Bkb) : (modBkb s g).upd = s.upd := rfl
@[simp] theorem modBkb_therm (s : State) (g : Bkb → Bkb) : (modBkb s g).therm = s.therm := rfl

@[simp] theorem modCan_pending (s : State) (n : Nat) (g : CanCh → CanCh) : (modCan s n g).pending = s.pending := rfl
@[simp] theorem modCan_live (s : State) (n : Nat) (g : CanCh → CanCh) : (modCan s n g).live = s.live := rfl
@[simp] theorem modCan_pendL (s : State) (n : Nat) (g : CanCh → CanCh) : (modCan s n g).pendL = s.pendL := rfl
@[simp] theorem modCan_nfree (s : State) (n : Nat) (g : CanCh → CanCh) : (modCan s n g).nfree = s.nfree := rfl
@[simp] theorem modCan_out (s : State) (n : Nat) (g : CanCh → CanCh) : (modCan s n g).out = s.out := rfl
@[simp] theorem modCan_qops (s : State) (n : Nat) (g : CanCh → CanCh) : (modCan s n g).qops = s.qops := rfl
@[simp] theorem modCan_ifiles (s : State) (n : Nat) (g : CanCh → CanCh) : (modCan s n g).ifiles = s.ifiles := rfl
@[simp] theorem modCan_tags (s : State) (n : Nat) (g : CanCh → CanCh) : (modCan s n g).tags = s.tags := rfl
@[simp] theorem modCan_onceCycle (s : State) (n : Nat) (g : CanCh → CanCh) : (modCan s n g).onceCycle = s.onceCycle := rfl
@[simp] theorem modCan_waiting (s : State) (n : Nat) (g : CanCh → CanCh) : (modCan s n g).waiting = s.waiting := rfl
@[simp] theorem modCan_mem (s : State) (n : Nat) (g : CanCh → CanCh) : (modCan s n g).mem = s.mem := rfl
@[simp] theorem modCan_chk (s : State) (n : Nat) (g : CanCh → CanCh) : (modCan s n g).chk = s.chk := rfl
@[simp] theorem modCan_caches (s : State) (n : Nat) (g : CanCh → CanCh) : (modCan s n g).caches = s.caches := rfl
@[simp] theorem modCan_ceHold (s : State) (n : Nat) (g : CanCh → CanCh) : (modCan s n g).ceHold = s.ceHold := rfl
@[simp] theorem modCan_degCnt (s : State) (n : Nat) (g : CanCh → CanCh) : (modCan s n g).degCnt = s.degCnt := rfl
@[simp] theorem modCan_degAt (s : State) (n : Nat) (g : CanCh → CanCh) : (modCan s n g).degAt = s.degAt := rfl
@[simp] theorem modCan_degraded (s : State) (n : Nat) (g : CanCh → CanCh) : (modCan s n g).degraded = s.degraded := rfl
@[simp] theorem modCan_triads (s : State) (n : Nat) (g : CanCh → CanCh) : (modCan s n g).triads = s.triads := rfl
@[simp] theorem modCan_resv (s : State) (n : Nat) (g : CanCh → CanCh) : (modCan s n g).resv = s.resv := rfl
@[simp] theorem modCan_poolNext (s : State) (n : Nat) (g : CanCh → CanCh) : (modCan s n g).poolNext = s.poolNext := rfl
@[simp] theorem modCan_mer (s : State) (n : Nat) (g : CanCh → CanCh) : (modCan s n g).mer = s.mer := rfl
@[simp] theorem modCan_rhl (s : State) (n : Nat) (g : CanCh → CanCh) : (modCan s n g).rhl = s.rhl := rfl
@[simp] theorem modCan_chart (s : State) (n : Nat) (g : CanCh → CanCh) : (modCan s n g).chart = s.chart := rfl
@[simp] theorem modCan_bkb (s : State) (n : Nat) (g : CanCh → CanCh) : (modCan s n g).bkb = s.bkb := rfl
@[simp] theorem modCan_brg (s : State) (n : Nat) (g : CanCh → CanCh) : (modCan s n g).brg = s.brg := rfl
@[simp] theorem modCan_fio (s : State) (n : Nat) (g : CanCh → CanCh) : (modCan s n g).fio = s.fio := rfl
@[simp] theorem modCan_lod (s : State) (n : Nat) (g : CanCh → CanCh) : (modCan s n g).lod = s.lod := rfl
@[simp] theorem modCan_anl (s : State) (n : Nat) (g : CanCh → CanCh) : (modCan s n g).anl = s.anl := rfl
@[simp] theorem modCan_binn (s : State) (n : Nat) (g : CanCh → CanCh) : (modCan s n g).binn = s.binn := rfl
@[simp] theorem modCan_pulses (s : State) (n : Nat) (g : CanCh → CanCh) : (modCan s n g).pulses = s.pulses := rfl
@[simp] theorem modCan_pulseOvf (s : State) (n : Nat) (g : CanCh → CanCh) : (modCan s n g).pulseOvf = s.pulseOvf := rfl
@[simp] theorem modCan_xings (s : State) (n : Nat) (g : CanCh → CanCh) : (modCan s n g).xings = s.xings := rfl
@[simp] theorem modCan_quiet (s : State) (n : Nat) (g : CanCh → CanCh) : (modCan s n g).quiet = s.quiet := rfl
@[simp] theorem modCan_links (s : State) (n : Nat) (g : CanCh → CanCh) : (modCan s n g).links = s.links := rfl
@[simp] theorem modCan_linkAt (s : State) (n : Nat) (g : CanCh → CanCh) : (modCan s n g).linkAt = s.linkAt := rfl
@[simp] theorem modCan_linkLost (s : State) (n : Nat) (g : CanCh → CanCh) : (modCan s n g).linkLost = s.linkLost := rfl
@[simp] theorem modCan_coll (s : State) (n : Nat) (g : CanCh → CanCh) : (modCan s n g).coll = s.coll := rfl
@[simp] theorem modCan_prl (s : State) (n : Nat) (g : CanCh → CanCh) : (modCan s n g).prl = s.prl := rfl
@[simp] theorem modCan_logb (s : State) (n : Nat) (g : CanCh → CanCh) : (modCan s n g).logb = s.logb := rfl
@[simp] theorem modCan_pwr (s : State) (n : Nat) (g : CanCh → CanCh) : (modCan s n g).pwr = s.pwr := rfl
@[simp] theorem modCan_upd (s : State) (n : Nat) (g : CanCh → CanCh) : (modCan s n g).upd = s.upd := rfl
@[simp] theorem modCan_therm (s : State) (n : Nat) (g : CanCh → CanCh) : (modCan s n g).therm = s.therm := rfl

@[simp] theorem modBrg_pending (s : State) (g : Brg → Brg) : (modBrg s g).pending = s.pending := rfl
@[simp] theorem modBrg_live (s : State) (g : Brg → Brg) : (modBrg s g).live = s.live := rfl
@[simp] theorem modBrg_pendL (s : State) (g : Brg → Brg) : (modBrg s g).pendL = s.pendL := rfl
@[simp] theorem modBrg_nfree (s : State) (g : Brg → Brg) : (modBrg s g).nfree = s.nfree := rfl
@[simp] theorem modBrg_out (s : State) (g : Brg → Brg) : (modBrg s g).out = s.out := rfl
@[simp] theorem modBrg_qops (s : State) (g : Brg → Brg) : (modBrg s g).qops = s.qops := rfl
@[simp] theorem modBrg_ifiles (s : State) (g : Brg → Brg) : (modBrg s g).ifiles = s.ifiles := rfl
@[simp] theorem modBrg_tags (s : State) (g : Brg → Brg) : (modBrg s g).tags = s.tags := rfl
@[simp] theorem modBrg_onceCycle (s : State) (g : Brg → Brg) : (modBrg s g).onceCycle = s.onceCycle := rfl
@[simp] theorem modBrg_waiting (s : State) (g : Brg → Brg) : (modBrg s g).waiting = s.waiting := rfl
@[simp] theorem modBrg_mem (s : State) (g : Brg → Brg) : (modBrg s g).mem = s.mem := rfl
@[simp] theorem modBrg_chk (s : State) (g : Brg → Brg) : (modBrg s g).chk = s.chk := rfl
@[simp] theorem modBrg_caches (s : State) (g : Brg → Brg) : (modBrg s g).caches = s.caches := rfl
@[simp] theorem modBrg_ceHold (s : State) (g : Brg → Brg) : (modBrg s g).ceHold = s.ceHold := rfl
@[simp] theorem modBrg_degCnt (s : State) (g : Brg → Brg) : (modBrg s g).degCnt = s.degCnt := rfl
@[simp] theorem modBrg_degAt (s : State) (g : Brg → Brg) : (modBrg s g).degAt = s.degAt := rfl
@[simp] theorem modBrg_degraded (s : State) (g : Brg → Brg) : (modBrg s g).degraded = s.degraded := rfl
@[simp] theorem modBrg_triads (s : State) (g : Brg → Brg) : (modBrg s g).triads = s.triads := rfl
@[simp] theorem modBrg_resv (s : State) (g : Brg → Brg) : (modBrg s g).resv = s.resv := rfl
@[simp] theorem modBrg_poolNext (s : State) (g : Brg → Brg) : (modBrg s g).poolNext = s.poolNext := rfl
@[simp] theorem modBrg_mer (s : State) (g : Brg → Brg) : (modBrg s g).mer = s.mer := rfl
@[simp] theorem modBrg_rhl (s : State) (g : Brg → Brg) : (modBrg s g).rhl = s.rhl := rfl
@[simp] theorem modBrg_chart (s : State) (g : Brg → Brg) : (modBrg s g).chart = s.chart := rfl
@[simp] theorem modBrg_bkb (s : State) (g : Brg → Brg) : (modBrg s g).bkb = s.bkb := rfl
@[simp] theorem modBrg_can (s : State) (g : Brg → Brg) : (modBrg s g).can = s.can := rfl
@[simp] theorem modBrg_fio (s : State) (g : Brg → Brg) : (modBrg s g).fio = s.fio := rfl
@[simp] theorem modBrg_lod (s : State) (g : Brg → Brg) : (modBrg s g).lod = s.lod := rfl
@[simp] theorem modBrg_anl (s : State) (g : Brg → Brg) : (modBrg s g).anl = s.anl := rfl
@[simp] theorem modBrg_binn (s : State) (g : Brg → Brg) : (modBrg s g).binn = s.binn := rfl
@[simp] theorem modBrg_pulses (s : State) (g : Brg → Brg) : (modBrg s g).pulses = s.pulses := rfl
@[simp] theorem modBrg_pulseOvf (s : State) (g : Brg → Brg) : (modBrg s g).pulseOvf = s.pulseOvf := rfl
@[simp] theorem modBrg_xings (s : State) (g : Brg → Brg) : (modBrg s g).xings = s.xings := rfl
@[simp] theorem modBrg_quiet (s : State) (g : Brg → Brg) : (modBrg s g).quiet = s.quiet := rfl
@[simp] theorem modBrg_links (s : State) (g : Brg → Brg) : (modBrg s g).links = s.links := rfl
@[simp] theorem modBrg_linkAt (s : State) (g : Brg → Brg) : (modBrg s g).linkAt = s.linkAt := rfl
@[simp] theorem modBrg_linkLost (s : State) (g : Brg → Brg) : (modBrg s g).linkLost = s.linkLost := rfl
@[simp] theorem modBrg_coll (s : State) (g : Brg → Brg) : (modBrg s g).coll = s.coll := rfl
@[simp] theorem modBrg_prl (s : State) (g : Brg → Brg) : (modBrg s g).prl = s.prl := rfl
@[simp] theorem modBrg_logb (s : State) (g : Brg → Brg) : (modBrg s g).logb = s.logb := rfl
@[simp] theorem modBrg_pwr (s : State) (g : Brg → Brg) : (modBrg s g).pwr = s.pwr := rfl
@[simp] theorem modBrg_upd (s : State) (g : Brg → Brg) : (modBrg s g).upd = s.upd := rfl
@[simp] theorem modBrg_therm (s : State) (g : Brg → Brg) : (modBrg s g).therm = s.therm := rfl

@[simp] theorem modFio_pending (s : State) (g : Fio → Fio) : (modFio s g).pending = s.pending := rfl
@[simp] theorem modFio_flds (s : State) (g : Fio → Fio) : (modFio s g).flds = s.flds := rfl
@[simp] theorem modFio_live (s : State) (g : Fio → Fio) : (modFio s g).live = s.live := rfl
@[simp] theorem modFio_pendL (s : State) (g : Fio → Fio) : (modFio s g).pendL = s.pendL := rfl
@[simp] theorem modFio_nfree (s : State) (g : Fio → Fio) : (modFio s g).nfree = s.nfree := rfl
@[simp] theorem modFio_out (s : State) (g : Fio → Fio) : (modFio s g).out = s.out := rfl
@[simp] theorem modFio_qops (s : State) (g : Fio → Fio) : (modFio s g).qops = s.qops := rfl
@[simp] theorem modFio_ifiles (s : State) (g : Fio → Fio) : (modFio s g).ifiles = s.ifiles := rfl
@[simp] theorem modFio_tags (s : State) (g : Fio → Fio) : (modFio s g).tags = s.tags := rfl
@[simp] theorem modFio_onceCycle (s : State) (g : Fio → Fio) : (modFio s g).onceCycle = s.onceCycle := rfl
@[simp] theorem modFio_waiting (s : State) (g : Fio → Fio) : (modFio s g).waiting = s.waiting := rfl
@[simp] theorem modFio_mem (s : State) (g : Fio → Fio) : (modFio s g).mem = s.mem := rfl
@[simp] theorem modFio_chk (s : State) (g : Fio → Fio) : (modFio s g).chk = s.chk := rfl
@[simp] theorem modFio_caches (s : State) (g : Fio → Fio) : (modFio s g).caches = s.caches := rfl
@[simp] theorem modFio_ceHold (s : State) (g : Fio → Fio) : (modFio s g).ceHold = s.ceHold := rfl
@[simp] theorem modFio_degCnt (s : State) (g : Fio → Fio) : (modFio s g).degCnt = s.degCnt := rfl
@[simp] theorem modFio_degAt (s : State) (g : Fio → Fio) : (modFio s g).degAt = s.degAt := rfl
@[simp] theorem modFio_degraded (s : State) (g : Fio → Fio) : (modFio s g).degraded = s.degraded := rfl
@[simp] theorem modFio_triads (s : State) (g : Fio → Fio) : (modFio s g).triads = s.triads := rfl
@[simp] theorem modFio_resv (s : State) (g : Fio → Fio) : (modFio s g).resv = s.resv := rfl
@[simp] theorem modFio_poolNext (s : State) (g : Fio → Fio) : (modFio s g).poolNext = s.poolNext := rfl
@[simp] theorem modFio_mer (s : State) (g : Fio → Fio) : (modFio s g).mer = s.mer := rfl
@[simp] theorem modFio_rhl (s : State) (g : Fio → Fio) : (modFio s g).rhl = s.rhl := rfl
@[simp] theorem modFio_chart (s : State) (g : Fio → Fio) : (modFio s g).chart = s.chart := rfl
@[simp] theorem modFio_bkb (s : State) (g : Fio → Fio) : (modFio s g).bkb = s.bkb := rfl
@[simp] theorem modFio_can (s : State) (g : Fio → Fio) : (modFio s g).can = s.can := rfl
@[simp] theorem modFio_brg (s : State) (g : Fio → Fio) : (modFio s g).brg = s.brg := rfl
@[simp] theorem modFio_lod (s : State) (g : Fio → Fio) : (modFio s g).lod = s.lod := rfl
@[simp] theorem modFio_anl (s : State) (g : Fio → Fio) : (modFio s g).anl = s.anl := rfl
@[simp] theorem modFio_binn (s : State) (g : Fio → Fio) : (modFio s g).binn = s.binn := rfl
@[simp] theorem modFio_pulses (s : State) (g : Fio → Fio) : (modFio s g).pulses = s.pulses := rfl
@[simp] theorem modFio_pulseOvf (s : State) (g : Fio → Fio) : (modFio s g).pulseOvf = s.pulseOvf := rfl
@[simp] theorem modFio_xings (s : State) (g : Fio → Fio) : (modFio s g).xings = s.xings := rfl
@[simp] theorem modFio_quiet (s : State) (g : Fio → Fio) : (modFio s g).quiet = s.quiet := rfl
@[simp] theorem modFio_links (s : State) (g : Fio → Fio) : (modFio s g).links = s.links := rfl
@[simp] theorem modFio_linkAt (s : State) (g : Fio → Fio) : (modFio s g).linkAt = s.linkAt := rfl
@[simp] theorem modFio_linkLost (s : State) (g : Fio → Fio) : (modFio s g).linkLost = s.linkLost := rfl
@[simp] theorem modFio_coll (s : State) (g : Fio → Fio) : (modFio s g).coll = s.coll := rfl
@[simp] theorem modFio_prl (s : State) (g : Fio → Fio) : (modFio s g).prl = s.prl := rfl
@[simp] theorem modFio_logb (s : State) (g : Fio → Fio) : (modFio s g).logb = s.logb := rfl
@[simp] theorem modFio_pwr (s : State) (g : Fio → Fio) : (modFio s g).pwr = s.pwr := rfl
@[simp] theorem modFio_upd (s : State) (g : Fio → Fio) : (modFio s g).upd = s.upd := rfl
@[simp] theorem modFio_therm (s : State) (g : Fio → Fio) : (modFio s g).therm = s.therm := rfl

@[simp] theorem modLod_pending (s : State) (g : Lod → Lod) : (modLod s g).pending = s.pending := rfl
@[simp] theorem modLod_flds (s : State) (g : Lod → Lod) : (modLod s g).flds = s.flds := rfl
@[simp] theorem modLod_live (s : State) (g : Lod → Lod) : (modLod s g).live = s.live := rfl
@[simp] theorem modLod_pendL (s : State) (g : Lod → Lod) : (modLod s g).pendL = s.pendL := rfl
@[simp] theorem modLod_nfree (s : State) (g : Lod → Lod) : (modLod s g).nfree = s.nfree := rfl
@[simp] theorem modLod_out (s : State) (g : Lod → Lod) : (modLod s g).out = s.out := rfl
@[simp] theorem modLod_qops (s : State) (g : Lod → Lod) : (modLod s g).qops = s.qops := rfl
@[simp] theorem modLod_ifiles (s : State) (g : Lod → Lod) : (modLod s g).ifiles = s.ifiles := rfl
@[simp] theorem modLod_tags (s : State) (g : Lod → Lod) : (modLod s g).tags = s.tags := rfl
@[simp] theorem modLod_onceCycle (s : State) (g : Lod → Lod) : (modLod s g).onceCycle = s.onceCycle := rfl
@[simp] theorem modLod_waiting (s : State) (g : Lod → Lod) : (modLod s g).waiting = s.waiting := rfl
@[simp] theorem modLod_mem (s : State) (g : Lod → Lod) : (modLod s g).mem = s.mem := rfl
@[simp] theorem modLod_chk (s : State) (g : Lod → Lod) : (modLod s g).chk = s.chk := rfl
@[simp] theorem modLod_caches (s : State) (g : Lod → Lod) : (modLod s g).caches = s.caches := rfl
@[simp] theorem modLod_ceHold (s : State) (g : Lod → Lod) : (modLod s g).ceHold = s.ceHold := rfl
@[simp] theorem modLod_degCnt (s : State) (g : Lod → Lod) : (modLod s g).degCnt = s.degCnt := rfl
@[simp] theorem modLod_degAt (s : State) (g : Lod → Lod) : (modLod s g).degAt = s.degAt := rfl
@[simp] theorem modLod_degraded (s : State) (g : Lod → Lod) : (modLod s g).degraded = s.degraded := rfl
@[simp] theorem modLod_triads (s : State) (g : Lod → Lod) : (modLod s g).triads = s.triads := rfl
@[simp] theorem modLod_resv (s : State) (g : Lod → Lod) : (modLod s g).resv = s.resv := rfl
@[simp] theorem modLod_poolNext (s : State) (g : Lod → Lod) : (modLod s g).poolNext = s.poolNext := rfl
@[simp] theorem modLod_mer (s : State) (g : Lod → Lod) : (modLod s g).mer = s.mer := rfl
@[simp] theorem modLod_rhl (s : State) (g : Lod → Lod) : (modLod s g).rhl = s.rhl := rfl
@[simp] theorem modLod_chart (s : State) (g : Lod → Lod) : (modLod s g).chart = s.chart := rfl
@[simp] theorem modLod_bkb (s : State) (g : Lod → Lod) : (modLod s g).bkb = s.bkb := rfl
@[simp] theorem modLod_can (s : State) (g : Lod → Lod) : (modLod s g).can = s.can := rfl
@[simp] theorem modLod_brg (s : State) (g : Lod → Lod) : (modLod s g).brg = s.brg := rfl
@[simp] theorem modLod_fio (s : State) (g : Lod → Lod) : (modLod s g).fio = s.fio := rfl
@[simp] theorem modLod_anl (s : State) (g : Lod → Lod) : (modLod s g).anl = s.anl := rfl
@[simp] theorem modLod_binn (s : State) (g : Lod → Lod) : (modLod s g).binn = s.binn := rfl
@[simp] theorem modLod_pulses (s : State) (g : Lod → Lod) : (modLod s g).pulses = s.pulses := rfl
@[simp] theorem modLod_pulseOvf (s : State) (g : Lod → Lod) : (modLod s g).pulseOvf = s.pulseOvf := rfl
@[simp] theorem modLod_xings (s : State) (g : Lod → Lod) : (modLod s g).xings = s.xings := rfl
@[simp] theorem modLod_quiet (s : State) (g : Lod → Lod) : (modLod s g).quiet = s.quiet := rfl
@[simp] theorem modLod_links (s : State) (g : Lod → Lod) : (modLod s g).links = s.links := rfl
@[simp] theorem modLod_linkAt (s : State) (g : Lod → Lod) : (modLod s g).linkAt = s.linkAt := rfl
@[simp] theorem modLod_linkLost (s : State) (g : Lod → Lod) : (modLod s g).linkLost = s.linkLost := rfl
@[simp] theorem modLod_coll (s : State) (g : Lod → Lod) : (modLod s g).coll = s.coll := rfl
@[simp] theorem modLod_prl (s : State) (g : Lod → Lod) : (modLod s g).prl = s.prl := rfl
@[simp] theorem modLod_logb (s : State) (g : Lod → Lod) : (modLod s g).logb = s.logb := rfl
@[simp] theorem modLod_pwr (s : State) (g : Lod → Lod) : (modLod s g).pwr = s.pwr := rfl
@[simp] theorem modLod_upd (s : State) (g : Lod → Lod) : (modLod s g).upd = s.upd := rfl
@[simp] theorem modLod_therm (s : State) (g : Lod → Lod) : (modLod s g).therm = s.therm := rfl

@[simp] theorem modAnl_pending (s : State) (n : Nat) (g : AnlCh → AnlCh) : (modAnl n s g).pending = s.pending := rfl
@[simp] theorem modAnl_flds (s : State) (n : Nat) (g : AnlCh → AnlCh) : (modAnl n s g).flds = s.flds := rfl
@[simp] theorem modAnl_live (s : State) (n : Nat) (g : AnlCh → AnlCh) : (modAnl n s g).live = s.live := rfl
@[simp] theorem modAnl_pendL (s : State) (n : Nat) (g : AnlCh → AnlCh) : (modAnl n s g).pendL = s.pendL := rfl
@[simp] theorem modAnl_nfree (s : State) (n : Nat) (g : AnlCh → AnlCh) : (modAnl n s g).nfree = s.nfree := rfl
@[simp] theorem modAnl_out (s : State) (n : Nat) (g : AnlCh → AnlCh) : (modAnl n s g).out = s.out := rfl
@[simp] theorem modAnl_qops (s : State) (n : Nat) (g : AnlCh → AnlCh) : (modAnl n s g).qops = s.qops := rfl
@[simp] theorem modAnl_ifiles (s : State) (n : Nat) (g : AnlCh → AnlCh) : (modAnl n s g).ifiles = s.ifiles := rfl
@[simp] theorem modAnl_tags (s : State) (n : Nat) (g : AnlCh → AnlCh) : (modAnl n s g).tags = s.tags := rfl
@[simp] theorem modAnl_onceCycle (s : State) (n : Nat) (g : AnlCh → AnlCh) : (modAnl n s g).onceCycle = s.onceCycle := rfl
@[simp] theorem modAnl_waiting (s : State) (n : Nat) (g : AnlCh → AnlCh) : (modAnl n s g).waiting = s.waiting := rfl
@[simp] theorem modAnl_mem (s : State) (n : Nat) (g : AnlCh → AnlCh) : (modAnl n s g).mem = s.mem := rfl
@[simp] theorem modAnl_chk (s : State) (n : Nat) (g : AnlCh → AnlCh) : (modAnl n s g).chk = s.chk := rfl
@[simp] theorem modAnl_caches (s : State) (n : Nat) (g : AnlCh → AnlCh) : (modAnl n s g).caches = s.caches := rfl
@[simp] theorem modAnl_ceHold (s : State) (n : Nat) (g : AnlCh → AnlCh) : (modAnl n s g).ceHold = s.ceHold := rfl
@[simp] theorem modAnl_degCnt (s : State) (n : Nat) (g : AnlCh → AnlCh) : (modAnl n s g).degCnt = s.degCnt := rfl
@[simp] theorem modAnl_degAt (s : State) (n : Nat) (g : AnlCh → AnlCh) : (modAnl n s g).degAt = s.degAt := rfl
@[simp] theorem modAnl_degraded (s : State) (n : Nat) (g : AnlCh → AnlCh) : (modAnl n s g).degraded = s.degraded := rfl
@[simp] theorem modAnl_triads (s : State) (n : Nat) (g : AnlCh → AnlCh) : (modAnl n s g).triads = s.triads := rfl
@[simp] theorem modAnl_resv (s : State) (n : Nat) (g : AnlCh → AnlCh) : (modAnl n s g).resv = s.resv := rfl
@[simp] theorem modAnl_poolNext (s : State) (n : Nat) (g : AnlCh → AnlCh) : (modAnl n s g).poolNext = s.poolNext := rfl
@[simp] theorem modAnl_mer (s : State) (n : Nat) (g : AnlCh → AnlCh) : (modAnl n s g).mer = s.mer := rfl
@[simp] theorem modAnl_rhl (s : State) (n : Nat) (g : AnlCh → AnlCh) : (modAnl n s g).rhl = s.rhl := rfl
@[simp] theorem modAnl_chart (s : State) (n : Nat) (g : AnlCh → AnlCh) : (modAnl n s g).chart = s.chart := rfl
@[simp] theorem modAnl_bkb (s : State) (n : Nat) (g : AnlCh → AnlCh) : (modAnl n s g).bkb = s.bkb := rfl
@[simp] theorem modAnl_can (s : State) (n : Nat) (g : AnlCh → AnlCh) : (modAnl n s g).can = s.can := rfl
@[simp] theorem modAnl_brg (s : State) (n : Nat) (g : AnlCh → AnlCh) : (modAnl n s g).brg = s.brg := rfl
@[simp] theorem modAnl_fio (s : State) (n : Nat) (g : AnlCh → AnlCh) : (modAnl n s g).fio = s.fio := rfl
@[simp] theorem modAnl_lod (s : State) (n : Nat) (g : AnlCh → AnlCh) : (modAnl n s g).lod = s.lod := rfl
@[simp] theorem modAnl_binn (s : State) (n : Nat) (g : AnlCh → AnlCh) : (modAnl n s g).binn = s.binn := rfl
@[simp] theorem modAnl_pulses (s : State) (n : Nat) (g : AnlCh → AnlCh) : (modAnl n s g).pulses = s.pulses := rfl
@[simp] theorem modAnl_pulseOvf (s : State) (n : Nat) (g : AnlCh → AnlCh) : (modAnl n s g).pulseOvf = s.pulseOvf := rfl
@[simp] theorem modAnl_xings (s : State) (n : Nat) (g : AnlCh → AnlCh) : (modAnl n s g).xings = s.xings := rfl
@[simp] theorem modAnl_quiet (s : State) (n : Nat) (g : AnlCh → AnlCh) : (modAnl n s g).quiet = s.quiet := rfl
@[simp] theorem modAnl_links (s : State) (n : Nat) (g : AnlCh → AnlCh) : (modAnl n s g).links = s.links := rfl
@[simp] theorem modAnl_linkAt (s : State) (n : Nat) (g : AnlCh → AnlCh) : (modAnl n s g).linkAt = s.linkAt := rfl
@[simp] theorem modAnl_linkLost (s : State) (n : Nat) (g : AnlCh → AnlCh) : (modAnl n s g).linkLost = s.linkLost := rfl
@[simp] theorem modAnl_coll (s : State) (n : Nat) (g : AnlCh → AnlCh) : (modAnl n s g).coll = s.coll := rfl
@[simp] theorem modAnl_prl (s : State) (n : Nat) (g : AnlCh → AnlCh) : (modAnl n s g).prl = s.prl := rfl
@[simp] theorem modAnl_logb (s : State) (n : Nat) (g : AnlCh → AnlCh) : (modAnl n s g).logb = s.logb := rfl
@[simp] theorem modAnl_pwr (s : State) (n : Nat) (g : AnlCh → AnlCh) : (modAnl n s g).pwr = s.pwr := rfl
@[simp] theorem modAnl_upd (s : State) (n : Nat) (g : AnlCh → AnlCh) : (modAnl n s g).upd = s.upd := rfl
@[simp] theorem modAnl_therm (s : State) (n : Nat) (g : AnlCh → AnlCh) : (modAnl n s g).therm = s.therm := rfl

@[simp] theorem modBinn_pending (s : State) (g : Binn → Binn) : (modBinn s g).pending = s.pending := rfl
@[simp] theorem modBinn_flds (s : State) (g : Binn → Binn) : (modBinn s g).flds = s.flds := rfl
@[simp] theorem modBinn_live (s : State) (g : Binn → Binn) : (modBinn s g).live = s.live := rfl
@[simp] theorem modBinn_pendL (s : State) (g : Binn → Binn) : (modBinn s g).pendL = s.pendL := rfl
@[simp] theorem modBinn_nfree (s : State) (g : Binn → Binn) : (modBinn s g).nfree = s.nfree := rfl
@[simp] theorem modBinn_out (s : State) (g : Binn → Binn) : (modBinn s g).out = s.out := rfl
@[simp] theorem modBinn_qops (s : State) (g : Binn → Binn) : (modBinn s g).qops = s.qops := rfl
@[simp] theorem modBinn_ifiles (s : State) (g : Binn → Binn) : (modBinn s g).ifiles = s.ifiles := rfl
@[simp] theorem modBinn_tags (s : State) (g : Binn → Binn) : (modBinn s g).tags = s.tags := rfl
@[simp] theorem modBinn_onceCycle (s : State) (g : Binn → Binn) : (modBinn s g).onceCycle = s.onceCycle := rfl
@[simp] theorem modBinn_waiting (s : State) (g : Binn → Binn) : (modBinn s g).waiting = s.waiting := rfl
@[simp] theorem modBinn_mem (s : State) (g : Binn → Binn) : (modBinn s g).mem = s.mem := rfl
@[simp] theorem modBinn_chk (s : State) (g : Binn → Binn) : (modBinn s g).chk = s.chk := rfl
@[simp] theorem modBinn_caches (s : State) (g : Binn → Binn) : (modBinn s g).caches = s.caches := rfl
@[simp] theorem modBinn_ceHold (s : State) (g : Binn → Binn) : (modBinn s g).ceHold = s.ceHold := rfl
@[simp] theorem modBinn_degCnt (s : State) (g : Binn → Binn) : (modBinn s g).degCnt = s.degCnt := rfl
@[simp] theorem modBinn_degAt (s : State) (g : Binn → Binn) : (modBinn s g).degAt = s.degAt := rfl
@[simp] theorem modBinn_degraded (s : State) (g : Binn → Binn) : (modBinn s g).degraded = s.degraded := rfl
@[simp] theorem modBinn_triads (s : State) (g : Binn → Binn) : (modBinn s g).triads = s.triads := rfl
@[simp] theorem modBinn_resv (s : State) (g : Binn → Binn) : (modBinn s g).resv = s.resv := rfl
@[simp] theorem modBinn_poolNext (s : State) (g : Binn → Binn) : (modBinn s g).poolNext = s.poolNext := rfl
@[simp] theorem modBinn_mer (s : State) (g : Binn → Binn) : (modBinn s g).mer = s.mer := rfl
@[simp] theorem modBinn_rhl (s : State) (g : Binn → Binn) : (modBinn s g).rhl = s.rhl := rfl
@[simp] theorem modBinn_chart (s : State) (g : Binn → Binn) : (modBinn s g).chart = s.chart := rfl
@[simp] theorem modBinn_bkb (s : State) (g : Binn → Binn) : (modBinn s g).bkb = s.bkb := rfl
@[simp] theorem modBinn_can (s : State) (g : Binn → Binn) : (modBinn s g).can = s.can := rfl
@[simp] theorem modBinn_brg (s : State) (g : Binn → Binn) : (modBinn s g).brg = s.brg := rfl
@[simp] theorem modBinn_fio (s : State) (g : Binn → Binn) : (modBinn s g).fio = s.fio := rfl
@[simp] theorem modBinn_lod (s : State) (g : Binn → Binn) : (modBinn s g).lod = s.lod := rfl
@[simp] theorem modBinn_anl (s : State) (g : Binn → Binn) : (modBinn s g).anl = s.anl := rfl
@[simp] theorem modBinn_pulses (s : State) (g : Binn → Binn) : (modBinn s g).pulses = s.pulses := rfl
@[simp] theorem modBinn_pulseOvf (s : State) (g : Binn → Binn) : (modBinn s g).pulseOvf = s.pulseOvf := rfl
@[simp] theorem modBinn_xings (s : State) (g : Binn → Binn) : (modBinn s g).xings = s.xings := rfl
@[simp] theorem modBinn_quiet (s : State) (g : Binn → Binn) : (modBinn s g).quiet = s.quiet := rfl
@[simp] theorem modBinn_links (s : State) (g : Binn → Binn) : (modBinn s g).links = s.links := rfl
@[simp] theorem modBinn_linkAt (s : State) (g : Binn → Binn) : (modBinn s g).linkAt = s.linkAt := rfl
@[simp] theorem modBinn_linkLost (s : State) (g : Binn → Binn) : (modBinn s g).linkLost = s.linkLost := rfl
@[simp] theorem modBinn_coll (s : State) (g : Binn → Binn) : (modBinn s g).coll = s.coll := rfl
@[simp] theorem modBinn_prl (s : State) (g : Binn → Binn) : (modBinn s g).prl = s.prl := rfl
@[simp] theorem modBinn_logb (s : State) (g : Binn → Binn) : (modBinn s g).logb = s.logb := rfl
@[simp] theorem modBinn_pwr (s : State) (g : Binn → Binn) : (modBinn s g).pwr = s.pwr := rfl
@[simp] theorem modBinn_upd (s : State) (g : Binn → Binn) : (modBinn s g).upd = s.upd := rfl
@[simp] theorem modBinn_therm (s : State) (g : Binn → Binn) : (modBinn s g).therm = s.therm := rfl

@[simp] theorem modColl_pending (s : State) (g : Coll → Coll) : (modColl s g).pending = s.pending := rfl
@[simp] theorem modColl_flds (s : State) (g : Coll → Coll) : (modColl s g).flds = s.flds := rfl
@[simp] theorem modColl_live (s : State) (g : Coll → Coll) : (modColl s g).live = s.live := rfl
@[simp] theorem modColl_pendL (s : State) (g : Coll → Coll) : (modColl s g).pendL = s.pendL := rfl
@[simp] theorem modColl_nfree (s : State) (g : Coll → Coll) : (modColl s g).nfree = s.nfree := rfl
@[simp] theorem modColl_out (s : State) (g : Coll → Coll) : (modColl s g).out = s.out := rfl
@[simp] theorem modColl_qops (s : State) (g : Coll → Coll) : (modColl s g).qops = s.qops := rfl
@[simp] theorem modColl_ifiles (s : State) (g : Coll → Coll) : (modColl s g).ifiles = s.ifiles := rfl
@[simp] theorem modColl_tags (s : State) (g : Coll → Coll) : (modColl s g).tags = s.tags := rfl
@[simp] theorem modColl_onceCycle (s : State) (g : Coll → Coll) : (modColl s g).onceCycle = s.onceCycle := rfl
@[simp] theorem modColl_waiting (s : State) (g : Coll → Coll) : (modColl s g).waiting = s.waiting := rfl
@[simp] theorem modColl_mem (s : State) (g : Coll → Coll) : (modColl s g).mem = s.mem := rfl
@[simp] theorem modColl_chk (s : State) (g : Coll → Coll) : (modColl s g).chk = s.chk := rfl
@[simp] theorem modColl_caches (s : State) (g : Coll → Coll) : (modColl s g).caches = s.caches := rfl
@[simp] theorem modColl_ceHold (s : State) (g : Coll → Coll) : (modColl s g).ceHold = s.ceHold := rfl
@[simp] theorem modColl_degCnt (s : State) (g : Coll → Coll) : (modColl s g).degCnt = s.degCnt := rfl
@[simp] theorem modColl_degAt (s : State) (g : Coll → Coll) : (modColl s g).degAt = s.degAt := rfl
@[simp] theorem modColl_degraded (s : State) (g : Coll → Coll) : (modColl s g).degraded = s.degraded := rfl
@[simp] theorem modColl_triads (s : State) (g : Coll → Coll) : (modColl s g).triads = s.triads := rfl
@[simp] theorem modColl_resv (s : State) (g : Coll → Coll) : (modColl s g).resv = s.resv := rfl
@[simp] theorem modColl_poolNext (s : State) (g : Coll → Coll) : (modColl s g).poolNext = s.poolNext := rfl
@[simp] theorem modColl_mer (s : State) (g : Coll → Coll) : (modColl s g).mer = s.mer := rfl
@[simp] theorem modColl_rhl (s : State) (g : Coll → Coll) : (modColl s g).rhl = s.rhl := rfl
@[simp] theorem modColl_chart (s : State) (g : Coll → Coll) : (modColl s g).chart = s.chart := rfl
@[simp] theorem modColl_bkb (s : State) (g : Coll → Coll) : (modColl s g).bkb = s.bkb := rfl
@[simp] theorem modColl_can (s : State) (g : Coll → Coll) : (modColl s g).can = s.can := rfl
@[simp] theorem modColl_brg (s : State) (g : Coll → Coll) : (modColl s g).brg = s.brg := rfl
@[simp] theorem modColl_fio (s : State) (g : Coll → Coll) : (modColl s g).fio = s.fio := rfl
@[simp] theorem modColl_lod (s : State) (g : Coll → Coll) : (modColl s g).lod = s.lod := rfl
@[simp] theorem modColl_anl (s : State) (g : Coll → Coll) : (modColl s g).anl = s.anl := rfl
@[simp] theorem modColl_binn (s : State) (g : Coll → Coll) : (modColl s g).binn = s.binn := rfl
@[simp] theorem modColl_pulses (s : State) (g : Coll → Coll) : (modColl s g).pulses = s.pulses := rfl
@[simp] theorem modColl_pulseOvf (s : State) (g : Coll → Coll) : (modColl s g).pulseOvf = s.pulseOvf := rfl
@[simp] theorem modColl_xings (s : State) (g : Coll → Coll) : (modColl s g).xings = s.xings := rfl
@[simp] theorem modColl_quiet (s : State) (g : Coll → Coll) : (modColl s g).quiet = s.quiet := rfl
@[simp] theorem modColl_links (s : State) (g : Coll → Coll) : (modColl s g).links = s.links := rfl
@[simp] theorem modColl_linkAt (s : State) (g : Coll → Coll) : (modColl s g).linkAt = s.linkAt := rfl
@[simp] theorem modColl_linkLost (s : State) (g : Coll → Coll) : (modColl s g).linkLost = s.linkLost := rfl
@[simp] theorem modColl_prl (s : State) (g : Coll → Coll) : (modColl s g).prl = s.prl := rfl
@[simp] theorem modColl_logb (s : State) (g : Coll → Coll) : (modColl s g).logb = s.logb := rfl
@[simp] theorem modColl_pwr (s : State) (g : Coll → Coll) : (modColl s g).pwr = s.pwr := rfl
@[simp] theorem modColl_upd (s : State) (g : Coll → Coll) : (modColl s g).upd = s.upd := rfl
@[simp] theorem modColl_therm (s : State) (g : Coll → Coll) : (modColl s g).therm = s.therm := rfl

@[simp] theorem modPrl_pending (s : State) (g : Prl → Prl) : (modPrl s g).pending = s.pending := rfl
@[simp] theorem modPrl_flds (s : State) (g : Prl → Prl) : (modPrl s g).flds = s.flds := rfl
@[simp] theorem modPrl_live (s : State) (g : Prl → Prl) : (modPrl s g).live = s.live := rfl
@[simp] theorem modPrl_pendL (s : State) (g : Prl → Prl) : (modPrl s g).pendL = s.pendL := rfl
@[simp] theorem modPrl_nfree (s : State) (g : Prl → Prl) : (modPrl s g).nfree = s.nfree := rfl
@[simp] theorem modPrl_out (s : State) (g : Prl → Prl) : (modPrl s g).out = s.out := rfl
@[simp] theorem modPrl_qops (s : State) (g : Prl → Prl) : (modPrl s g).qops = s.qops := rfl
@[simp] theorem modPrl_ifiles (s : State) (g : Prl → Prl) : (modPrl s g).ifiles = s.ifiles := rfl
@[simp] theorem modPrl_tags (s : State) (g : Prl → Prl) : (modPrl s g).tags = s.tags := rfl
@[simp] theorem modPrl_onceCycle (s : State) (g : Prl → Prl) : (modPrl s g).onceCycle = s.onceCycle := rfl
@[simp] theorem modPrl_waiting (s : State) (g : Prl → Prl) : (modPrl s g).waiting = s.waiting := rfl
@[simp] theorem modPrl_mem (s : State) (g : Prl → Prl) : (modPrl s g).mem = s.mem := rfl
@[simp] theorem modPrl_chk (s : State) (g : Prl → Prl) : (modPrl s g).chk = s.chk := rfl
@[simp] theorem modPrl_caches (s : State) (g : Prl → Prl) : (modPrl s g).caches = s.caches := rfl
@[simp] theorem modPrl_ceHold (s : State) (g : Prl → Prl) : (modPrl s g).ceHold = s.ceHold := rfl
@[simp] theorem modPrl_degCnt (s : State) (g : Prl → Prl) : (modPrl s g).degCnt = s.degCnt := rfl
@[simp] theorem modPrl_degAt (s : State) (g : Prl → Prl) : (modPrl s g).degAt = s.degAt := rfl
@[simp] theorem modPrl_degraded (s : State) (g : Prl → Prl) : (modPrl s g).degraded = s.degraded := rfl
@[simp] theorem modPrl_triads (s : State) (g : Prl → Prl) : (modPrl s g).triads = s.triads := rfl
@[simp] theorem modPrl_resv (s : State) (g : Prl → Prl) : (modPrl s g).resv = s.resv := rfl
@[simp] theorem modPrl_poolNext (s : State) (g : Prl → Prl) : (modPrl s g).poolNext = s.poolNext := rfl
@[simp] theorem modPrl_mer (s : State) (g : Prl → Prl) : (modPrl s g).mer = s.mer := rfl
@[simp] theorem modPrl_rhl (s : State) (g : Prl → Prl) : (modPrl s g).rhl = s.rhl := rfl
@[simp] theorem modPrl_chart (s : State) (g : Prl → Prl) : (modPrl s g).chart = s.chart := rfl
@[simp] theorem modPrl_bkb (s : State) (g : Prl → Prl) : (modPrl s g).bkb = s.bkb := rfl
@[simp] theorem modPrl_can (s : State) (g : Prl → Prl) : (modPrl s g).can = s.can := rfl
@[simp] theorem modPrl_brg (s : State) (g : Prl → Prl) : (modPrl s g).brg = s.brg := rfl
@[simp] theorem modPrl_fio (s : State) (g : Prl → Prl) : (modPrl s g).fio = s.fio := rfl
@[simp] theorem modPrl_lod (s : State) (g : Prl → Prl) : (modPrl s g).lod = s.lod := rfl
@[simp] theorem modPrl_anl (s : State) (g : Prl → Prl) : (modPrl s g).anl = s.anl := rfl
@[simp] theorem modPrl_binn (s : State) (g : Prl → Prl) : (modPrl s g).binn = s.binn := rfl
@[simp] theorem modPrl_pulses (s : State) (g : Prl → Prl) : (modPrl s g).pulses = s.pulses := rfl
@[simp] theorem modPrl_pulseOvf (s : State) (g : Prl → Prl) : (modPrl s g).pulseOvf = s.pulseOvf := rfl
@[simp] theorem modPrl_xings (s : State) (g : Prl → Prl) : (modPrl s g).xings = s.xings := rfl
@[simp] theorem modPrl_quiet (s : State) (g : Prl → Prl) : (modPrl s g).quiet = s.quiet := rfl
@[simp] theorem modPrl_links (s : State) (g : Prl → Prl) : (modPrl s g).links = s.links := rfl
@[simp] theorem modPrl_linkAt (s : State) (g : Prl → Prl) : (modPrl s g).linkAt = s.linkAt := rfl
@[simp] theorem modPrl_linkLost (s : State) (g : Prl → Prl) : (modPrl s g).linkLost = s.linkLost := rfl
@[simp] theorem modPrl_coll (s : State) (g : Prl → Prl) : (modPrl s g).coll = s.coll := rfl
@[simp] theorem modPrl_logb (s : State) (g : Prl → Prl) : (modPrl s g).logb = s.logb := rfl
@[simp] theorem modPrl_pwr (s : State) (g : Prl → Prl) : (modPrl s g).pwr = s.pwr := rfl
@[simp] theorem modPrl_upd (s : State) (g : Prl → Prl) : (modPrl s g).upd = s.upd := rfl
@[simp] theorem modPrl_therm (s : State) (g : Prl → Prl) : (modPrl s g).therm = s.therm := rfl

@[simp] theorem modLog_pending (s : State) (g : Logb → Logb) : (modLog s g).pending = s.pending := rfl
@[simp] theorem modLog_flds (s : State) (g : Logb → Logb) : (modLog s g).flds = s.flds := rfl
@[simp] theorem modLog_live (s : State) (g : Logb → Logb) : (modLog s g).live = s.live := rfl
@[simp] theorem modLog_pendL (s : State) (g : Logb → Logb) : (modLog s g).pendL = s.pendL := rfl
@[simp] theorem modLog_nfree (s : State) (g : Logb → Logb) : (modLog s g).nfree = s.nfree := rfl
@[simp] theorem modLog_out (s : State) (g : Logb → Logb) : (modLog s g).out = s.out := rfl
@[simp] theorem modLog_qops (s : State) (g : Logb → Logb) : (modLog s g).qops = s.qops := rfl
@[simp] theorem modLog_ifiles (s : State) (g : Logb → Logb) : (modLog s g).ifiles = s.ifiles := rfl
@[simp] theorem modLog_tags (s : State) (g : Logb → Logb) : (modLog s g).tags = s.tags := rfl
@[simp] theorem modLog_onceCycle (s : State) (g : Logb → Logb) : (modLog s g).onceCycle = s.onceCycle := rfl
@[simp] theorem modLog_waiting (s : State) (g : Logb → Logb) : (modLog s g).waiting = s.waiting := rfl
@[simp] theorem modLog_mem (s : State) (g : Logb → Logb) : (modLog s g).mem = s.mem := rfl
@[simp] theorem modLog_chk (s : State) (g : Logb → Logb) : (modLog s g).chk = s.chk := rfl
@[simp] theorem modLog_caches (s : State) (g : Logb → Logb) : (modLog s g).caches = s.caches := rfl
@[simp] theorem modLog_ceHold (s : State) (g : Logb → Logb) : (modLog s g).ceHold = s.ceHold := rfl
@[simp] theorem modLog_degCnt (s : State) (g : Logb → Logb) : (modLog s g).degCnt = s.degCnt := rfl
@[simp] theorem modLog_degAt (s : State) (g : Logb → Logb) : (modLog s g).degAt = s.degAt := rfl
@[simp] theorem modLog_degraded (s : State) (g : Logb → Logb) : (modLog s g).degraded = s.degraded := rfl
@[simp] theorem modLog_triads (s : State) (g : Logb → Logb) : (modLog s g).triads = s.triads := rfl
@[simp] theorem modLog_resv (s : State) (g : Logb → Logb) : (modLog s g).resv = s.resv := rfl
@[simp] theorem modLog_poolNext (s : State) (g : Logb → Logb) : (modLog s g).poolNext = s.poolNext := rfl
@[simp] theorem modLog_mer (s : State) (g : Logb → Logb) : (modLog s g).mer = s.mer := rfl
@[simp] theorem modLog_rhl (s : State) (g : Logb → Logb) : (modLog s g).rhl = s.rhl := rfl
@[simp] theorem modLog_chart (s : State) (g : Logb → Logb) : (modLog s g).chart = s.chart := rfl
@[simp] theorem modLog_bkb (s : State) (g : Logb → Logb) : (modLog s g).bkb = s.bkb := rfl
@[simp] theorem modLog_can (s : State) (g : Logb → Logb) : (modLog s g).can = s.can := rfl
@[simp] theorem modLog_brg (s : State) (g : Logb → Logb) : (modLog s g).brg = s.brg := rfl
@[simp] theorem modLog_fio (s : State) (g : Logb → Logb) : (modLog s g).fio = s.fio := rfl
@[simp] theorem modLog_lod (s : State) (g : Logb → Logb) : (modLog s g).lod = s.lod := rfl
@[simp] theorem modLog_anl (s : State) (g : Logb → Logb) : (modLog s g).anl = s.anl := rfl
@[simp] theorem modLog_binn (s : State) (g : Logb → Logb) : (modLog s g).binn = s.binn := rfl
@[simp] theorem modLog_pulses (s : State) (g : Logb → Logb) : (modLog s g).pulses = s.pulses := rfl
@[simp] theorem modLog_pulseOvf (s : State) (g : Logb → Logb) : (modLog s g).pulseOvf = s.pulseOvf := rfl
@[simp] theorem modLog_xings (s : State) (g : Logb → Logb) : (modLog s g).xings = s.xings := rfl
@[simp] theorem modLog_quiet (s : State) (g : Logb → Logb) : (modLog s g).quiet = s.quiet := rfl
@[simp] theorem modLog_links (s : State) (g : Logb → Logb) : (modLog s g).links = s.links := rfl
@[simp] theorem modLog_linkAt (s : State) (g : Logb → Logb) : (modLog s g).linkAt = s.linkAt := rfl
@[simp] theorem modLog_linkLost (s : State) (g : Logb → Logb) : (modLog s g).linkLost = s.linkLost := rfl
@[simp] theorem modLog_coll (s : State) (g : Logb → Logb) : (modLog s g).coll = s.coll := rfl
@[simp] theorem modLog_prl (s : State) (g : Logb → Logb) : (modLog s g).prl = s.prl := rfl
@[simp] theorem modLog_pwr (s : State) (g : Logb → Logb) : (modLog s g).pwr = s.pwr := rfl
@[simp] theorem modLog_upd (s : State) (g : Logb → Logb) : (modLog s g).upd = s.upd := rfl
@[simp] theorem modLog_therm (s : State) (g : Logb → Logb) : (modLog s g).therm = s.therm := rfl

@[simp] theorem modPwr_pending (s : State) (g : Pwr → Pwr) : (modPwr s g).pending = s.pending := rfl
@[simp] theorem modPwr_flds (s : State) (g : Pwr → Pwr) : (modPwr s g).flds = s.flds := rfl
@[simp] theorem modPwr_live (s : State) (g : Pwr → Pwr) : (modPwr s g).live = s.live := rfl
@[simp] theorem modPwr_pendL (s : State) (g : Pwr → Pwr) : (modPwr s g).pendL = s.pendL := rfl
@[simp] theorem modPwr_nfree (s : State) (g : Pwr → Pwr) : (modPwr s g).nfree = s.nfree := rfl
@[simp] theorem modPwr_out (s : State) (g : Pwr → Pwr) : (modPwr s g).out = s.out := rfl
@[simp] theorem modPwr_qops (s : State) (g : Pwr → Pwr) : (modPwr s g).qops = s.qops := rfl
@[simp] theorem modPwr_ifiles (s : State) (g : Pwr → Pwr) : (modPwr s g).ifiles = s.ifiles := rfl
@[simp] theorem modPwr_tags (s : State) (g : Pwr → Pwr) : (modPwr s g).tags = s.tags := rfl
@[simp] theorem modPwr_onceCycle (s : State) (g : Pwr → Pwr) : (modPwr s g).onceCycle = s.onceCycle := rfl
@[simp] theorem modPwr_waiting (s : State) (g : Pwr → Pwr) : (modPwr s g).waiting = s.waiting := rfl
@[simp] theorem modPwr_mem (s : State) (g : Pwr → Pwr) : (modPwr s g).mem = s.mem := rfl
@[simp] theorem modPwr_chk (s : State) (g : Pwr → Pwr) : (modPwr s g).chk = s.chk := rfl
@[simp] theorem modPwr_caches (s : State) (g : Pwr → Pwr) : (modPwr s g).caches = s.caches := rfl
@[simp] theorem modPwr_ceHold (s : State) (g : Pwr → Pwr) : (modPwr s g).ceHold = s.ceHold := rfl
@[simp] theorem modPwr_degCnt (s : State) (g : Pwr → Pwr) : (modPwr s g).degCnt = s.degCnt := rfl
@[simp] theorem modPwr_degAt (s : State) (g : Pwr → Pwr) : (modPwr s g).degAt = s.degAt := rfl
@[simp] theorem modPwr_degraded (s : State) (g : Pwr → Pwr) : (modPwr s g).degraded = s.degraded := rfl
@[simp] theorem modPwr_triads (s : State) (g : Pwr → Pwr) : (modPwr s g).triads = s.triads := rfl
@[simp] theorem modPwr_resv (s : State) (g : Pwr → Pwr) : (modPwr s g).resv = s.resv := rfl
@[simp] theorem modPwr_poolNext (s : State) (g : Pwr → Pwr) : (modPwr s g).poolNext = s.poolNext := rfl
@[simp] theorem modPwr_mer (s : State) (g : Pwr → Pwr) : (modPwr s g).mer = s.mer := rfl
@[simp] theorem modPwr_rhl (s : State) (g : Pwr → Pwr) : (modPwr s g).rhl = s.rhl := rfl
@[simp] theorem modPwr_chart (s : State) (g : Pwr → Pwr) : (modPwr s g).chart = s.chart := rfl
@[simp] theorem modPwr_bkb (s : State) (g : Pwr → Pwr) : (modPwr s g).bkb = s.bkb := rfl
@[simp] theorem modPwr_can (s : State) (g : Pwr → Pwr) : (modPwr s g).can = s.can := rfl
@[simp] theorem modPwr_brg (s : State) (g : Pwr → Pwr) : (modPwr s g).brg = s.brg := rfl
@[simp] theorem modPwr_fio (s : State) (g : Pwr → Pwr) : (modPwr s g).fio = s.fio := rfl
@[simp] theorem modPwr_lod (s : State) (g : Pwr → Pwr) : (modPwr s g).lod = s.lod := rfl
@[simp] theorem modPwr_anl (s : State) (g : Pwr → Pwr) : (modPwr s g).anl = s.anl := rfl
@[simp] theorem modPwr_binn (s : State) (g : Pwr → Pwr) : (modPwr s g).binn = s.binn := rfl
@[simp] theorem modPwr_pulses (s : State) (g : Pwr → Pwr) : (modPwr s g).pulses = s.pulses := rfl
@[simp] theorem modPwr_pulseOvf (s : State) (g : Pwr → Pwr) : (modPwr s g).pulseOvf = s.pulseOvf := rfl
@[simp] theorem modPwr_xings (s : State) (g : Pwr → Pwr) : (modPwr s g).xings = s.xings := rfl
@[simp] theorem modPwr_quiet (s : State) (g : Pwr → Pwr) : (modPwr s g).quiet = s.quiet := rfl
@[simp] theorem modPwr_links (s : State) (g : Pwr → Pwr) : (modPwr s g).links = s.links := rfl
@[simp] theorem modPwr_linkAt (s : State) (g : Pwr → Pwr) : (modPwr s g).linkAt = s.linkAt := rfl
@[simp] theorem modPwr_linkLost (s : State) (g : Pwr → Pwr) : (modPwr s g).linkLost = s.linkLost := rfl
@[simp] theorem modPwr_coll (s : State) (g : Pwr → Pwr) : (modPwr s g).coll = s.coll := rfl
@[simp] theorem modPwr_prl (s : State) (g : Pwr → Pwr) : (modPwr s g).prl = s.prl := rfl
@[simp] theorem modPwr_logb (s : State) (g : Pwr → Pwr) : (modPwr s g).logb = s.logb := rfl
@[simp] theorem modPwr_upd (s : State) (g : Pwr → Pwr) : (modPwr s g).upd = s.upd := rfl
@[simp] theorem modPwr_therm (s : State) (g : Pwr → Pwr) : (modPwr s g).therm = s.therm := rfl

@[simp] theorem modUpd_pending (s : State) (g : Upd → Upd) : (modUpd s g).pending = s.pending := rfl
@[simp] theorem modUpd_flds (s : State) (g : Upd → Upd) : (modUpd s g).flds = s.flds := rfl
@[simp] theorem modUpd_live (s : State) (g : Upd → Upd) : (modUpd s g).live = s.live := rfl
@[simp] theorem modUpd_pendL (s : State) (g : Upd → Upd) : (modUpd s g).pendL = s.pendL := rfl
@[simp] theorem modUpd_nfree (s : State) (g : Upd → Upd) : (modUpd s g).nfree = s.nfree := rfl
@[simp] theorem modUpd_out (s : State) (g : Upd → Upd) : (modUpd s g).out = s.out := rfl
@[simp] theorem modUpd_qops (s : State) (g : Upd → Upd) : (modUpd s g).qops = s.qops := rfl
@[simp] theorem modUpd_ifiles (s : State) (g : Upd → Upd) : (modUpd s g).ifiles = s.ifiles := rfl
@[simp] theorem modUpd_tags (s : State) (g : Upd → Upd) : (modUpd s g).tags = s.tags := rfl
@[simp] theorem modUpd_onceCycle (s : State) (g : Upd → Upd) : (modUpd s g).onceCycle = s.onceCycle := rfl
@[simp] theorem modUpd_waiting (s : State) (g : Upd → Upd) : (modUpd s g).waiting = s.waiting := rfl
@[simp] theorem modUpd_mem (s : State) (g : Upd → Upd) : (modUpd s g).mem = s.mem := rfl
@[simp] theorem modUpd_chk (s : State) (g : Upd → Upd) : (modUpd s g).chk = s.chk := rfl
@[simp] theorem modUpd_caches (s : State) (g : Upd → Upd) : (modUpd s g).caches = s.caches := rfl
@[simp] theorem modUpd_ceHold (s : State) (g : Upd → Upd) : (modUpd s g).ceHold = s.ceHold := rfl
@[simp] theorem modUpd_degCnt (s : State) (g : Upd → Upd) : (modUpd s g).degCnt = s.degCnt := rfl
@[simp] theorem modUpd_degAt (s : State) (g : Upd → Upd) : (modUpd s g).degAt = s.degAt := rfl
@[simp] theorem modUpd_degraded (s : State) (g : Upd → Upd) : (modUpd s g).degraded = s.degraded := rfl
@[simp] theorem modUpd_triads (s : State) (g : Upd → Upd) : (modUpd s g).triads = s.triads := rfl
@[simp] theorem modUpd_resv (s : State) (g : Upd → Upd) : (modUpd s g).resv = s.resv := rfl
@[simp] theorem modUpd_poolNext (s : State) (g : Upd → Upd) : (modUpd s g).poolNext = s.poolNext := rfl
@[simp] theorem modUpd_mer (s : State) (g : Upd → Upd) : (modUpd s g).mer = s.mer := rfl
@[simp] theorem modUpd_rhl (s : State) (g : Upd → Upd) : (modUpd s g).rhl = s.rhl := rfl
@[simp] theorem modUpd_chart (s : State) (g : Upd → Upd) : (modUpd s g).chart = s.chart := rfl
@[simp] theorem modUpd_bkb (s : State) (g : Upd → Upd) : (modUpd s g).bkb = s.bkb := rfl
@[simp] theorem modUpd_can (s : State) (g : Upd → Upd) : (modUpd s g).can = s.can := rfl
@[simp] theorem modUpd_brg (s : State) (g : Upd → Upd) : (modUpd s g).brg = s.brg := rfl
@[simp] theorem modUpd_fio (s : State) (g : Upd → Upd) : (modUpd s g).fio = s.fio := rfl
@[simp] theorem modUpd_lod (s : State) (g : Upd → Upd) : (modUpd s g).lod = s.lod := rfl
@[simp] theorem modUpd_anl (s : State) (g : Upd → Upd) : (modUpd s g).anl = s.anl := rfl
@[simp] theorem modUpd_binn (s : State) (g : Upd → Upd) : (modUpd s g).binn = s.binn := rfl
@[simp] theorem modUpd_pulses (s : State) (g : Upd → Upd) : (modUpd s g).pulses = s.pulses := rfl
@[simp] theorem modUpd_pulseOvf (s : State) (g : Upd → Upd) : (modUpd s g).pulseOvf = s.pulseOvf := rfl
@[simp] theorem modUpd_xings (s : State) (g : Upd → Upd) : (modUpd s g).xings = s.xings := rfl
@[simp] theorem modUpd_quiet (s : State) (g : Upd → Upd) : (modUpd s g).quiet = s.quiet := rfl
@[simp] theorem modUpd_links (s : State) (g : Upd → Upd) : (modUpd s g).links = s.links := rfl
@[simp] theorem modUpd_linkAt (s : State) (g : Upd → Upd) : (modUpd s g).linkAt = s.linkAt := rfl
@[simp] theorem modUpd_linkLost (s : State) (g : Upd → Upd) : (modUpd s g).linkLost = s.linkLost := rfl
@[simp] theorem modUpd_coll (s : State) (g : Upd → Upd) : (modUpd s g).coll = s.coll := rfl
@[simp] theorem modUpd_prl (s : State) (g : Upd → Upd) : (modUpd s g).prl = s.prl := rfl
@[simp] theorem modUpd_logb (s : State) (g : Upd → Upd) : (modUpd s g).logb = s.logb := rfl
@[simp] theorem modUpd_pwr (s : State) (g : Upd → Upd) : (modUpd s g).pwr = s.pwr := rfl
@[simp] theorem modUpd_therm (s : State) (g : Upd → Upd) : (modUpd s g).therm = s.therm := rfl

@[simp] theorem pushOp_pending (s : State) (o : QOp) : (pushOp s o).pending = s.pending := rfl
@[simp] theorem pushOp_flds (s : State) (o : QOp) : (pushOp s o).flds = s.flds := rfl
@[simp] theorem pushOp_live (s : State) (o : QOp) : (pushOp s o).live = s.live := rfl
@[simp] theorem pushOp_pendL (s : State) (o : QOp) : (pushOp s o).pendL = s.pendL := rfl
@[simp] theorem pushOp_nfree (s : State) (o : QOp) : (pushOp s o).nfree = s.nfree := rfl
@[simp] theorem pushOp_out (s : State) (o : QOp) : (pushOp s o).out = s.out := rfl
@[simp] theorem pushOp_ifiles (s : State) (o : QOp) : (pushOp s o).ifiles = s.ifiles := rfl
@[simp] theorem pushOp_tags (s : State) (o : QOp) : (pushOp s o).tags = s.tags := rfl
@[simp] theorem pushOp_onceCycle (s : State) (o : QOp) : (pushOp s o).onceCycle = s.onceCycle := rfl
@[simp] theorem pushOp_waiting (s : State) (o : QOp) : (pushOp s o).waiting = s.waiting := rfl
@[simp] theorem pushOp_mem (s : State) (o : QOp) : (pushOp s o).mem = s.mem := rfl
@[simp] theorem pushOp_chk (s : State) (o : QOp) : (pushOp s o).chk = s.chk := rfl
@[simp] theorem pushOp_caches (s : State) (o : QOp) : (pushOp s o).caches = s.caches := rfl
@[simp] theorem pushOp_ceHold (s : State) (o : QOp) : (pushOp s o).ceHold = s.ceHold := rfl
@[simp] theorem pushOp_degCnt (s : State) (o : QOp) : (pushOp s o).degCnt = s.degCnt := rfl
@[simp] theorem pushOp_degAt (s : State) (o : QOp) : (pushOp s o).degAt = s.degAt := rfl
@[simp] theorem pushOp_degraded (s : State) (o : QOp) : (pushOp s o).degraded = s.degraded := rfl
@[simp] theorem pushOp_triads (s : State) (o : QOp) : (pushOp s o).triads = s.triads := rfl
@[simp] theorem pushOp_resv (s : State) (o : QOp) : (pushOp s o).resv = s.resv := rfl
@[simp] theorem pushOp_poolNext (s : State) (o : QOp) : (pushOp s o).poolNext = s.poolNext := rfl
@[simp] theorem pushOp_mer (s : State) (o : QOp) : (pushOp s o).mer = s.mer := rfl
@[simp] theorem pushOp_rhl (s : State) (o : QOp) : (pushOp s o).rhl = s.rhl := rfl
@[simp] theorem pushOp_chart (s : State) (o : QOp) : (pushOp s o).chart = s.chart := rfl
@[simp] theorem pushOp_bkb (s : State) (o : QOp) : (pushOp s o).bkb = s.bkb := rfl
@[simp] theorem pushOp_can (s : State) (o : QOp) : (pushOp s o).can = s.can := rfl
@[simp] theorem pushOp_brg (s : State) (o : QOp) : (pushOp s o).brg = s.brg := rfl
@[simp] theorem pushOp_fio (s : State) (o : QOp) : (pushOp s o).fio = s.fio := rfl
@[simp] theorem pushOp_lod (s : State) (o : QOp) : (pushOp s o).lod = s.lod := rfl
@[simp] theorem pushOp_anl (s : State) (o : QOp) : (pushOp s o).anl = s.anl := rfl
@[simp] theorem pushOp_binn (s : State) (o : QOp) : (pushOp s o).binn = s.binn := rfl
@[simp] theorem pushOp_pulses (s : State) (o : QOp) : (pushOp s o).pulses = s.pulses := rfl
@[simp] theorem pushOp_pulseOvf (s : State) (o : QOp) : (pushOp s o).pulseOvf = s.pulseOvf := rfl
@[simp] theorem pushOp_xings (s : State) (o : QOp) : (pushOp s o).xings = s.xings := rfl
@[simp] theorem pushOp_quiet (s : State) (o : QOp) : (pushOp s o).quiet = s.quiet := rfl
@[simp] theorem pushOp_links (s : State) (o : QOp) : (pushOp s o).links = s.links := rfl
@[simp] theorem pushOp_linkAt (s : State) (o : QOp) : (pushOp s o).linkAt = s.linkAt := rfl
@[simp] theorem pushOp_linkLost (s : State) (o : QOp) : (pushOp s o).linkLost = s.linkLost := rfl
@[simp] theorem pushOp_coll (s : State) (o : QOp) : (pushOp s o).coll = s.coll := rfl
@[simp] theorem pushOp_prl (s : State) (o : QOp) : (pushOp s o).prl = s.prl := rfl
@[simp] theorem pushOp_logb (s : State) (o : QOp) : (pushOp s o).logb = s.logb := rfl
@[simp] theorem pushOp_pwr (s : State) (o : QOp) : (pushOp s o).pwr = s.pwr := rfl
@[simp] theorem pushOp_upd (s : State) (o : QOp) : (pushOp s o).upd = s.upd := rfl
@[simp] theorem pushOp_therm (s : State) (o : QOp) : (pushOp s o).therm = s.therm := rfl

/-! ### Register fields after an update -/

/-- A field that was written reads the value, cut to its width. -/
@[simp] theorem getF_setF_same (s : State) (f : Fld) (v : Nat) : getF (setF s f v) f = v % 2 ^ f.w := by
  show kget 0 (kput 0 s.flds f.key ((v % 2 ^ f.w) ^^^ f.rst)) f.key ^^^ f.rst = _
  rw [kget_kput_same, Nat.xor_assoc, Nat.xor_self, Nat.xor_zero]

/-- The same of a field of one bit written 1. -/
theorem onF_setF_one (s : State) (f : Fld) (h : 0 < f.w) : onF (setF s f 1) f = true := by
  have h2 : 1 < 2 ^ f.w := Nat.one_lt_two_pow (by omega)
  simp [onF, Nat.mod_eq_of_lt h2]

/-- Every other field reads as before. -/
theorem getF_setF_other (s : State) {f g : Fld} (h : g.key ≠ f.key) (v : Nat) : getF (setF s f v) g = getF s g := by
  show kget 0 (kput 0 s.flds f.key _) g.key ^^^ g.rst = _
  rw [kget_kput_other 0 s.flds h]; rfl

@[simp] theorem liveF_setLive_same (s : State) (f : Fld) (v : Nat) : liveF (setLive s f v) f = v % 2 ^ f.w := by
  show kget 0 (kput 0 s.live f.key ((v % 2 ^ f.w) ^^^ f.rst)) f.key ^^^ f.rst = _
  rw [kget_kput_same, Nat.xor_assoc, Nat.xor_self, Nat.xor_zero]

theorem liveF_setLive_other (s : State) {f g : Fld} (h : g.key ≠ f.key) (v : Nat) : liveF (setLive s f v) g = liveF s g := by
  show kget 0 (kput 0 s.live f.key _) g.key ^^^ g.rst = _
  rw [kget_kput_other 0 s.live h]; rfl

/-- What a field reads depends on the list of fields alone. -/
theorem getF_congr {s t : State} (h : t.flds = s.flds) (f : Fld) : getF t f = getF s f := by unfold getF; rw [h]

theorem liveF_congr {s t : State} (h : t.live = s.live) (f : Fld) : liveF t f = liveF s f := by unfold liveF; rw [h]

@[simp] theorem liveF_setF (s : State) (f1 : Fld) (v : Nat) (f : Fld) : liveF (setF s f1 v) f = liveF s f := rfl
@[simp] theorem memByte_setF (s : State) (f : Fld) (v : Nat) (x : Nat) : memByte (setF s f v) x = memByte s x := rfl
@[simp] theorem getF_setLive (s : State) (f1 : Fld) (v : Nat) (f : Fld) : getF (setLive s f1 v) f = getF s f := rfl
@[simp] theorem memByte_setLive (s : State) (f : Fld) (v : Nat) (x : Nat) : memByte (setLive s f v) x = memByte s x := rfl
@[simp] theorem getF_useFree (s : State)  (f : Fld) : getF (useFree s) f = getF s f := rfl
@[simp] theorem liveF_useFree (s : State)  (f : Fld) : liveF (useFree s) f = liveF s f := rfl
@[simp] theorem memByte_useFree (s : State)  (x : Nat) : memByte (useFree s) x = memByte s x := rfl
@[simp] theorem getF_emit (s : State) (o : Out) (f : Fld) : getF (emit s o) f = getF s f := rfl
@[simp] theorem liveF_emit (s : State) (o : Out) (f : Fld) : liveF (emit s o) f = liveF s f := rfl
@[simp] theorem memByte_emit (s : State) (o : Out) (x : Nat) : memByte (emit s o) x = memByte s x := rfl
@[simp] theorem getF_putHome (s : State) (cw : Nat) (w : List Byte) (f : Fld) : getF (putHome s cw w) f = getF s f := rfl
@[simp] theorem liveF_putHome (s : State) (cw : Nat) (w : List Byte) (f : Fld) : liveF (putHome s cw w) f = liveF s f := rfl
@[simp] theorem getF_modLine (s : State) (u line : Nat) (g : CLine → CLine) (f : Fld) : getF (modLine s u line g) f = getF s f := rfl
@[simp] theorem liveF_modLine (s : State) (u line : Nat) (g : CLine → CLine) (f : Fld) : liveF (modLine s u line g) f = liveF s f := rfl
@[simp] theorem getF_putSymbols (s : State) (cw : Nat) (d c : List Byte) (f : Fld) : getF (putSymbols s cw d c) f = getF s f := by unfold putSymbols; split <;> rfl
@[simp] theorem liveF_putSymbols (s : State) (cw : Nat) (d c : List Byte) (f : Fld) : liveF (putSymbols s cw d c) f = liveF s f := by unfold putSymbols; split <;> rfl
@[simp] theorem getF_tagStore (s : State) (a n : Nat) (v : Word) (f : Fld) : getF (tagStore s a n v) f = getF s f := rfl
@[simp] theorem liveF_tagStore (s : State) (a n : Nat) (v : Word) (f : Fld) : liveF (tagStore s a n v) f = liveF s f := rfl
@[simp] theorem memByte_tagStore (s : State) (a n : Nat) (v : Word) (x : Nat) : memByte (tagStore s a n v) x = memByte s x := rfl
@[simp] theorem getF_modTriad (s : State) (n : Nat) (g : Triad → Triad) (f : Fld) : getF (modTriad s n g) f = getF s f := rfl
@[simp] theorem liveF_modTriad (s : State) (n : Nat) (g : Triad → Triad) (f : Fld) : liveF (modTriad s n g) f = liveF s f := rfl
@[simp] theorem memByte_modTriad (s : State) (n : Nat) (g : Triad → Triad) (x : Nat) : memByte (modTriad s n g) x = memByte s x := rfl
@[simp] theorem getF_modMer (s : State) (g : Mer → Mer) (f : Fld) : getF (modMer s g) f = getF s f := rfl
@[simp] theorem liveF_modMer (s : State) (g : Mer → Mer) (f : Fld) : liveF (modMer s g) f = liveF s f := rfl
@[simp] theorem memByte_modMer (s : State) (g : Mer → Mer) (x : Nat) : memByte (modMer s g) x = memByte s x := rfl
@[simp] theorem getF_modRhl (s : State) (g : Rhl → Rhl) (f : Fld) : getF (modRhl s g) f = getF s f := rfl
@[simp] theorem liveF_modRhl (s : State) (g : Rhl → Rhl) (f : Fld) : liveF (modRhl s g) f = liveF s f := rfl
@[simp] theorem memByte_modRhl (s : State) (g : Rhl → Rhl) (x : Nat) : memByte (modRhl s g) x = memByte s x := rfl
@[simp] theorem getF_modChart (s : State) (g : Chart → Chart) (f : Fld) : getF (modChart s g) f = getF s f := rfl
@[simp] theorem liveF_modChart (s : State) (g : Chart → Chart) (f : Fld) : liveF (modChart s g) f = liveF s f := rfl
@[simp] theorem memByte_modChart (s : State) (g : Chart → Chart) (x : Nat) : memByte (modChart s g) x = memByte s x := rfl
@[simp] theorem getF_modBkb (s : State) (g : Bkb → Bkb) (f : Fld) : getF (modBkb s g) f = getF s f := rfl
@[simp] theorem liveF_modBkb (s : State) (g : Bkb → Bkb) (f : Fld) : liveF (modBkb s g) f = liveF s f := rfl
@[simp] theorem memByte_modBkb (s : State) (g : Bkb → Bkb) (x : Nat) : memByte (modBkb s g) x = memByte s x := rfl
@[simp] theorem liveF_modCan (s : State) (n : Nat) (g : CanCh → CanCh) (f : Fld) : liveF (modCan s n g) f = liveF s f := rfl
@[simp] theorem memByte_modCan (s : State) (n : Nat) (g : CanCh → CanCh) (x : Nat) : memByte (modCan s n g) x = memByte s x := rfl
@[simp] theorem liveF_modBrg (s : State) (g : Brg → Brg) (f : Fld) : liveF (modBrg s g) f = liveF s f := rfl
@[simp] theorem memByte_modBrg (s : State) (g : Brg → Brg) (x : Nat) : memByte (modBrg s g) x = memByte s x := rfl
@[simp] theorem getF_modFio (s : State) (g : Fio → Fio) (f : Fld) : getF (modFio s g) f = getF s f := rfl
@[simp] theorem liveF_modFio (s : State) (g : Fio → Fio) (f : Fld) : liveF (modFio s g) f = liveF s f := rfl
@[simp] theorem memByte_modFio (s : State) (g : Fio → Fio) (x : Nat) : memByte (modFio s g) x = memByte s x := rfl
@[simp] theorem getF_modLod (s : State) (g : Lod → Lod) (f : Fld) : getF (modLod s g) f = getF s f := rfl
@[simp] theorem liveF_modLod (s : State) (g : Lod → Lod) (f : Fld) : liveF (modLod s g) f = liveF s f := rfl
@[simp] theorem memByte_modLod (s : State) (g : Lod → Lod) (x : Nat) : memByte (modLod s g) x = memByte s x := rfl
@[simp] theorem getF_modAnl (s : State) (n : Nat) (g : AnlCh → AnlCh) (f : Fld) : getF (modAnl n s g) f = getF s f := rfl
@[simp] theorem liveF_modAnl (s : State) (n : Nat) (g : AnlCh → AnlCh) (f : Fld) : liveF (modAnl n s g) f = liveF s f := rfl
@[simp] theorem memByte_modAnl (s : State) (n : Nat) (g : AnlCh → AnlCh) (x : Nat) : memByte (modAnl n s g) x = memByte s x := rfl
@[simp] theorem getF_modBinn (s : State) (g : Binn → Binn) (f : Fld) : getF (modBinn s g) f = getF s f := rfl
@[simp] theorem liveF_modBinn (s : State) (g : Binn → Binn) (f : Fld) : liveF (modBinn s g) f = liveF s f := rfl
@[simp] theorem memByte_modBinn (s : State) (g : Binn → Binn) (x : Nat) : memByte (modBinn s g) x = memByte s x := rfl
@[simp] theorem getF_modColl (s : State) (g : Coll → Coll) (f : Fld) : getF (modColl s g) f = getF s f := rfl
@[simp] theorem liveF_modColl (s : State) (g : Coll → Coll) (f : Fld) : liveF (modColl s g) f = liveF s f := rfl
@[simp] theorem memByte_modColl (s : State) (g : Coll → Coll) (x : Nat) : memByte (modColl s g) x = memByte s x := rfl
@[simp] theorem getF_modPrl (s : State) (g : Prl → Prl) (f : Fld) : getF (modPrl s g) f = getF s f := rfl
@[simp] theorem liveF_modPrl (s : State) (g : Prl → Prl) (f : Fld) : liveF (modPrl s g) f = liveF s f := rfl
@[simp] theorem memByte_modPrl (s : State) (g : Prl → Prl) (x : Nat) : memByte (modPrl s g) x = memByte s x := rfl
@[simp] theorem getF_modLog (s : State) (g : Logb → Logb) (f : Fld) : getF (modLog s g) f = getF s f := rfl
@[simp] theorem liveF_modLog (s : State) (g : Logb → Logb) (f : Fld) : liveF (modLog s g) f = liveF s f := rfl
@[simp] theorem memByte_modLog (s : State) (g : Logb → Logb) (x : Nat) : memByte (modLog s g) x = memByte s x := rfl
@[simp] theorem getF_modPwr (s : State) (g : Pwr → Pwr) (f : Fld) : getF (modPwr s g) f = getF s f := rfl
@[simp] theorem liveF_modPwr (s : State) (g : Pwr → Pwr) (f : Fld) : liveF (modPwr s g) f = liveF s f := rfl
@[simp] theorem memByte_modPwr (s : State) (g : Pwr → Pwr) (x : Nat) : memByte (modPwr s g) x = memByte s x := rfl
@[simp] theorem getF_modUpd (s : State) (g : Upd → Upd) (f : Fld) : getF (modUpd s g) f = getF s f := rfl
@[simp] theorem liveF_modUpd (s : State) (g : Upd → Upd) (f : Fld) : liveF (modUpd s g) f = liveF s f := rfl
@[simp] theorem memByte_modUpd (s : State) (g : Upd → Upd) (x : Nat) : memByte (modUpd s g) x = memByte s x := rfl
@[simp] theorem getF_pushOp (s : State) (o : QOp) (f : Fld) : getF (pushOp s o) f = getF s f := rfl
@[simp] theorem liveF_pushOp (s : State) (o : QOp) (f : Fld) : liveF (pushOp s o) f = liveF s f := rfl
@[simp] theorem memByte_pushOp (s : State) (o : QOp) (x : Nat) : memByte (pushOp s o) x = memByte s x := rfl

/-! ### Memory after a store -/

theorem kget_putBytes_below (m : List Host.Cell) (a : Nat) (d : List Byte) {x : Nat} (h : x < a) : kget 0 (putBytes m a d) x = kget 0 m x := by
  induction d generalizing m a with
  | nil => rfl
  | cons b r ih => rw [putBytes, ih _ _ (by omega), kget_kput_other 0 m (by omega)]

/-- A store of bytes leaves every byte outside them alone. -/
theorem kget_putBytes_outside (m : List Host.Cell) (a : Nat) (d : List Byte) {x : Nat} (h : x < a ∨ a + d.length ≤ x) :
    kget 0 (putBytes m a d) x = kget 0 m x := by
  induction d generalizing m a with
  | nil => rfl
  | cons b r ih =>
    have hl : (b :: r).length = r.length + 1 := rfl
    rw [putBytes, ih _ _ (by omega), kget_kput_other 0 m (by omega)]

/-- Reading a byte just stored gives the byte stored. -/
theorem kget_putBytes_inside (m : List Host.Cell) (a : Nat) (d : List Byte) (i : Nat) (h : i < d.length) :
    kget 0 (putBytes m a d) (a + i) = d[i] := by
  induction d generalizing m a i with
  | nil => simp at h
  | cons b r ih =>
    rw [putBytes]
    cases i with
    | zero => rw [kget_putBytes_below _ _ _ (by omega)]; exact kget_kput_same 0 m a b
    | succ i =>
      have := ih (kput 0 m a b) (a + 1) i (by simpa using h)
      rw [show a + (i + 1) = a + 1 + i by omega, this]; rfl

end Sys2Proof.Machine
end

