-- ==== Sys2Proof/Laws/Only.lean ====
section
/-! SUPPORT. Which register fields the shared operations may change (`Only`), and the frame of a command from its two halves. -/

namespace Sys2Proof.Machine

theorem Only.refl (l : List Fld) (s : State) : Only l s s := fun _ _ => rfl

/-- An update that leaves the list of fields alone. -/
theorem only_upd {l : List Fld} {a s t : State} (e : t.flds = s.flds) (h : Only l a s) : Only l a t :=
  fun f hf => (getF_congr e f).trans (h f hf)

theorem only_setF {l : List Fld} {a s : State} {f : Fld} (v : Nat) (hf : f ∈ l) (h : Only l a s) : Only l a (setF s f v) :=
  fun g hg => (getF_setF_other s (fun e => hg f hf e.symm) v).trans (h g hg)

theorem only_ite {l : List Fld} {a s t : State} {c : Prop} [Decidable c] (h : Only l a s) (k : Only l a t) : Only l a (if c then s else t) := by
  split <;> assumption

theorem only_setB {l : List Fld} {a s : State} {f : Fld} (b : Bool) (hf : f ∈ l) (h : Only l a s) : Only l a (setB s f b) := only_setF _ hf h

theorem only_addF {l : List Fld} {a s : State} {f : Fld} (n : Nat) (hf : f ∈ l) (h : Only l a s) : Only l a (addF s f n) := only_setF _ hf h

theorem only_incF {l : List Fld} {a s : State} {f : Fld} (hf : f ∈ l) (h : Only l a s) : Only l a (incF s f) := only_setF _ hf h

theorem only_incW {l : List Fld} {a s : State} {f : Fld} (hf : f ∈ l) (h : Only l a s) : Only l a (incW s f) := only_setF _ hf h

theorem only_setFBit {l : List Fld} {a s : State} {f : Fld} (i : Nat) (b : Bool) (hf : f ∈ l) (h : Only l a s) : Only l a (setFBit s f i b) := only_setF _ hf h

theorem only_setFree {l : List Fld} {a s : State} {f : Fld} (hf : f ∈ l) (h : Only l a s) : Only l a (setFree s f) := only_upd rfl (only_setF _ hf h)

theorem only_useFree {l : List Fld} {a s : State} (h : Only l a s) : Only l a (useFree s) := only_upd rfl h

theorem only_emit {l : List Fld} {a s : State} (o : Out) (h : Only l a s) : Only l a (emit s o) := only_upd rfl h

theorem only_answer {l : List Fld} {a s : State} (r : Req) (v : Nat) (h : Only l a s) : Only l a (answer s r v) := only_upd rfl h

theorem only_deny {l : List Fld} {a s : State} (r : Req) (w : AccFault) (h : Only l a s) : Only l a (deny s r w) := only_upd rfl h

theorem lostFld_mem (cls : Nat) : lostFld cls ∈ lostCounters := by
  unfold lostFld lostCounters
  repeat' split
  all_goals simp

/-- A fault report changes no register but the counters of lost reports. -/
theorem only_raiseVia {l : List Fld} {a s : State} (via : Nat) (r : Report) (hl : lostCounters ⊆ l) (h : Only l a s) : Only l a (raiseVia via r s) := by
  unfold raiseVia
  extract_lets mine low
  refine only_ite (only_upd rfl h) (only_ite ?_ ?_)
  · exact only_incF (hl (lostFld_mem _)) (only_upd rfl h)
  · exact only_incF (hl (lostFld_mem _)) h

theorem only_raise {l : List Fld} {a s : State} (cls : Nat) (x : Loc) (hl : lostCounters ⊆ l) (h : Only l a s) : Only l a (raise cls x s) := only_raiseVia _ _ hl h

theorem only_raiseReq {l : List Fld} {a s : State} (cls : Nat) (x : Loc) (req : Nat) (hl : lostCounters ⊆ l) (h : Only l a s) :
    Only l a (raiseReq cls x req s) := only_raiseVia _ _ hl h

theorem only_raiseOnce {l : List Fld} {a s : State} (key cls : Nat) (x : Loc) (hl : lostCounters ⊆ l) (h : Only l a s) : Only l a (raiseOnce key cls x s) := by
  unfold raiseOnce
  exact only_ite h (only_raise _ _ hl (only_upd rfl h))

theorem only_setPending {l : List Fld} {a s : State} (page eiid : Nat) (h : Only l a s) : Only l a (setPending s page eiid) := by
  unfold setPending
  exact only_ite (only_upd rfl h) h

/-- Starting an island's clock changes its STOPPED bit and no other register. -/
theorem only_wakeIsland {l : List Fld} {a s : State} (i : Nat) (hf : SYS_ISL_STOPPED i ∈ l) (h : Only l a s) : Only l a (wakeIsland s i) := by
  unfold wakeIsland
  extract_lets s1
  exact only_ite (only_setF _ hf (only_upd rfl h)) (only_upd rfl h)

/-- A value that crosses starts the receiver's clock; the rest is what its delivery does. -/
theorem only_cross {l : List Fld} {a s : State} {f : State → State} (num tx rx : Nat) (v : XVal) (hr : SYS_ISL_STOPPED rx ∈ l) (hf : ∀ t, Only l a t → Only l a (f t))
    (h : Only l a s) : Only l a (cross num tx rx v f s) := by
  unfold cross
  exact only_ite (only_upd rfl (hf _ (only_wakeIsland _ hr h))) (only_upd rfl h)

theorem only_writeFile {l : List Fld} {a s : State} (page eiid : Nat) (hl : msiFields ⊆ l) (h : Only l a s) : Only l a (writeFile s page eiid) := by
  refine only_cross _ _ _ _ (hl ?_) (fun t => only_setPending _ _) h
  unfold fileIsland
  split <;> simp [msiFields]

/-- A quiesced island keeps the interrupt write that it would send. -/
theorem only_offerMsi {l : List Fld} {a s : State} (isl page eiid : Nat) (hl : msiFields ⊆ l) (h : Only l a s) : Only l a (offerMsi isl page eiid s) := by
  unfold offerMsi
  exact only_ite (only_upd rfl h) (only_writeFile _ _ hl h)

theorem only_sendMsi {l : List Fld} {a s : State} (x : Loc) (eiid hart level guest : Nat) (hl : msiFields ⊆ l) (h : Only l a s) :
    Only l a (sendMsi x eiid hart level guest s) := by
  unfold sendMsi
  split
  · exact h
  · split
    · exact only_offerMsi _ _ _ hl h
    · exact only_raise _ _ (fun _ k => hl (List.mem_cons_of_mem _ (List.mem_cons_of_mem _ k))) h

theorem only_sendTarget {l : List Fld} {a s : State} (x : Loc) (r : Nat) (hl : msiFields ⊆ l) (h : Only l a s) : Only l a (sendTarget x r s) :=
  only_sendMsi _ _ _ _ _ hl h

/-- An event bit and its interrupt change no other register but those of `msiFields`. -/
theorem only_setEvt {l : List Fld} {a s : State} {f : Fld} (x : Loc) (irq : Nat) (hf : f ∈ l) (hl : msiFields ⊆ l) (h : Only l a s) :
    Only l a (setEvt x f irq s) := by
  unfold setEvt
  exact only_ite h (only_sendTarget _ _ hl (only_setF _ hf h))

/-- A report with a place free in its island waits there. -/
theorem raiseVia_room {s : State} {via : Nat} (r : Report) (h : RoomFor s via) : raiseVia via r s = { s with waiting := s.waiting ++ [(via, r)] } := by
  unfold RoomFor at h
  unfold raiseVia
  rw [if_pos h]

/-- The frame of a command from its two halves: which fields it sets, and which parts its operations may change. -/
theorem Frame.of_kept {l : List Fld} {ps : List Part} {m : Nat} {s t : State} (h : Only l s t) (k : Kept m s t)
    (e : ∀ p : Part, p ≠ .flds → p ∉ ps → m.testBit p.idx = false) : Frame l ps s t :=
  ⟨h, fun p hp hq => k.parts p (e p hp hq)⟩

end Sys2Proof.Machine
end

