-- ==== Sys2Proof/Tests/Build.lean ====
section
/-! SUPPORT. The small states and values that the tests and witnesses use. -/

namespace Sys2Proof.Machine

/-- The reset state with some register fields set. -/
def st (l : List (Fld × Nat)) : State := l.foldl (fun s p => setF s p.1 p.2) State.reset

/-- A state with some live fields in force. -/
def lv (s : State) (l : List (Fld × Nat)) : State := l.foldl (fun s p => setLive s p.1 p.2) s

/-- A state with n ns on the free-running counter and on the time value. -/
def tk (s : State) (n : Nat) : State := let u := setF s MER_FREECNT_COUNT n
  { u with mer := { u.mer with t := n * nsU } }

/-- A state whose memory holds codewords with these bytes from codeword cw on. -/
def putBytesSt (s : State) (cw : Nat) (d : List Byte) : State :=
  (List.range (d.length / 32)).foldl (fun x k => putCodeword x (cw + k) ((d.drop (32 * k)).take 32)) s

/-- Lanes that show the same registers have the same signature. -/
theorem sameSignature {s : State} {n p q : Nat} (h : laneRegs s n p = laneRegs s n q) : laneSignature s n p = laneSignature s n q := by
  unfold laneSignature; rw [h]

/-- A firmware package for front end 0 with a payload of 32 zeros. The digest is that of SHA-384; the signature was made for this package so that both
scalars of its verification are 1, which keeps the check short. -/
def demoPackage : List Byte :=
  toLE 4 0x4B505857 ++ [1, 0, 6, 0] ++ toLE 4 2 ++ toLE 4 32 ++ List.replicate 8 0
    ++ toBE 48 0xa38fff4ba26c15e4ac9cde8c03103ac89080fd47545fde9446c8f192729eab7bd03a4d5c3187f75fe2a71b0ee50a4a40
    ++ List.replicate 88 0
    ++ toBE 48 0x199fc787d59a6388100038d678a950c16276aecb97f4979bdb070694e49e0605dd760a5888e4fe2c0b84d12a91452aa7
    ++ toBE 48 0x199fc787d59a6388100038d678a950c16276aecb97f4979bdb070694e49e0605dd760a5888e4fe2c0b84d12a91452aa7

/-- A key list whose key 0 may sign it. -/
def demoKeys : List Byte :=
  [1, 0, 64, 0, 4] ++ toBE 48 0x41aefc7d51f1b50fe9b106b6c4c724f11141ee43d9e17a38348388dc988958a120d34c984f2cd8a5f3633a18a6aa2353
    ++ toBE 48 0xec5e5b536dedb5aa297d90e6f9f7db4c1dd3c1430d1d2be6cdf446f56214ebb3067194521213a134713a13be1e72f913 ++ List.replicate 27 0

end Sys2Proof.Machine
end

