-- ==== Sys2Proof/Tests/Slice0.lean ====
section
/-! SUPPORT. Tests of the model against worked examples and tables of the spec, the ill-formed commands that the checks refuse, and, for each statement with
hypotheses, concrete states and operands that meet them. -/

namespace Sys2Proof.Machine

set_option linter.unusedVariables false
set_option Elab.async false

/-! ### Ill-formed commands are refused -/

theorem test_wf_missing_queue : (Instr.queueEnable .debugger ⟨6, 200⟩).wf = false := by decide
theorem test_wf_queue : (Instr.queueEnable .debugger ⟨6, 5⟩).wf = true := by decide
theorem test_wf_doorbell : (Instr.doorbell .debugger ⟨3, 0⟩ 8 0).wf = false := by decide
theorem test_wf_upset_twice : (Instr.memoryRead .debugger .load 0 .dram [(3, 1), (3, 2)] false).wf = false := by decide
theorem test_wf_empty_store : (Instr.memoryWrite .debugger .store 0 [] .dram).wf = false := by decide
theorem test_wf_lodestone_samples : (Instr.lodestoneCycle [] []).wf = false := by decide
theorem test_wf_island : (Instr.islandStop 3).wf = false ∧ (Instr.islandStop 8).wf = true := by decide

theorem test_wf_amo : (Instr.memoryWrite (.triad 0) (.amo .add) 0 [1, 2] .dram).wf = false ∧ (Instr.memoryWrite (.triad 0) (.amo .add) 0 [1, 2, 3, 4] .dram).wf = true := by decide
theorem test_wf_signature : (Instr.signatureBoundary 0 [] [] [] [] none).wf = false := by decide
theorem test_wf_rejoin : (Instr.rejoinBoundary 0 [1, 2]).wf = false := by decide
theorem test_wf_scrub_twice : (Instr.scrubStep false [(3, 1), (3, 2)] false).wf = false := by decide

/-- No row of the opcode table gives bits, so no word spells a command. -/
theorem test_decode_none : decodeTableWord 32 0x12345678 = none ∧ (State.reset.withFetchWord 32 5).pending = [] := by decide

/-! ### Worked examples of the spec -/

/-- R46 and the example after R52: the register set of queue 2 of block 8. -/
theorem test_queue_register_set : gq ⟨8, 2⟩ = 0x802 ∧ (QBASE_BASE 0x802).addr / 0x80 * 0x80 = 0x2008008100 := by decide

/-- The example after R52: CONS 0xFFF0, PROD 3, a ring of 64: accepted with 19 outstanding. -/
theorem test_doorbell_wraps :
    Completes (.doorbell (.triad 0) ⟨8, 2⟩ 8 0x30003)
      (st [(QCTRL_EN 0x802, 1), (QSIZE_ENTRIES 0x802, 64), (QEPOCH_EPOCH 0x802, 3), (QCONS_CONS 0x802, 0xFFF0), (QPROD_PROD 0x802, 0xFFF8)])
      fun t => outstanding t 0x802 = 19 ∧ getF t (QDBERR_COUNT 0x802) = 0 := ⟨_, rfl, by decide⟩

/-- The same ring: 64 outstanding entries are one too many (R50). -/
theorem test_doorbell_full :
    Completes (.doorbell (.triad 0) ⟨8, 2⟩ 8 0x30030)
      (st [(QCTRL_EN 0x802, 1), (QSIZE_ENTRIES 0x802, 64), (QEPOCH_EPOCH 0x802, 3), (QCONS_CONS 0x802, 0xFFF0), (QPROD_PROD 0x802, 0xFFF8)])
      fun t => outstanding t 0x802 = 8 ∧ getF t (QDBERR_COUNT 0x802) = 1 := ⟨_, rfl, by decide⟩

/-- R53: the epoch after 0xFFFF is 1. -/
theorem test_epoch_wraps : nextEpoch 0xFFFF = 1 := by decide

/-- The trace of chapter 6: the stamp at 1.234567890 s, FREE, power-cycle count 23. -/
theorem test_ts96 : ts96 { (st [(MER_PCC_COUNT, 23), (MER_STAT_STATE, 0)]) with mer := { t := 1234567890 * nsU } } = 0x0017000000000001_0DFB38D2 := by decide

/-- The synchronisation point of chapter 7: +140 and −15 ns are discarded, and CORR is −405 in 1/64 ns. -/
theorem test_sync_point :
    corrOf (keptDevs 1 ((([12, -8, 30, 5, -15, 3, 140, -4] : List Int).map (· * 64)).zipIdx.map fun x => (x.2, x.1))) = -405
      ∧ ofInt 32 (-405) = 0xFFFFFE6B := by decide

/-- The same example: 16 such corrections ask for a rate change of −27,179. -/
theorem test_rate_request :
    getF (rateUpdate { State.reset with rhl := { points := 16, corrSum := -6480 }, mer := { cycLen := 1000000 } }) RHL_OFFS_RATEREQ
      = ofInt 32 (-27179) := by decide +kernel

/-- R225 and the brake signal of chapter 8: the entry of signal 0x012A40. -/
theorem test_chart_entry : 32 * sigCw 0x12A40 = 0x0600254800 := by decide

/-- The sealed example of chapter 8: the 19 bytes of the code. -/
theorem test_seal_bytes :
    toLE 4 0x5EED0042 ++ toLE 2 0x0B07 ++ toLE 1 0x3C ++ (1 :: List.replicate 11 (0 : Byte))
      = [0x42, 0x00, 0xED, 0x5E, 0x07, 0x0B, 0x3C, 1, 0, 0, 0, 0, 0, 0, 0, 0, 0, 0, 0] := by decide

/-- The bridge example of chapter 11: a store to 0x40_0010_0404 leaves the port at 0xE000_0404. -/
theorem test_bridge_window :
    toBackplane (st [(BRG_OW_0_EN 3, 1), (BRG_OW_1_LBASE 3, 0x4000100), (BRG_OW_2_TBASE 3, 0xE0000000)]) 3 0x4000100404 = 0xE0000404 := by decide

/-- R191: the check value of CRC-32C and of the frame check sequence for the bytes of "123456789". -/
theorem test_crc : crc32c [0x31, 0x32, 0x33, 0x34, 0x35, 0x36, 0x37, 0x38, 0x39] = 0xE3069283
    ∧ crc32 [0x31, 0x32, 0x33, 0x34, 0x35, 0x36, 0x37, 0x38, 0x39] = 0xCBF43926 := by decide +kernel

/-- FIPS 180-4: SHA-384 of "abc". -/
theorem test_sha384 : sha384 [0x61, 0x62, 0x63]
    = toBE 48 0xcb00753f45a35e8bb5a03d699ac65007272c32ab0eded1631a8b605a43ff5bed8086072ba1e7cc2358baeca134c825a7 := by decide +kernel

/-! ### Witnesses -/

theorem witness_step_runs_front :
    (∃ (s : State) (c : Instr) (r : List Instr), s.pending = c :: r) ∧
    (∃ (s : State), s.pending = []) :=
  ⟨⟨{ State.reset with pending := [.slewDone] }, .slewDone, [], by decide +kernel⟩,
   ⟨State.reset, by decide +kernel⟩⟩

theorem witness_register_write_codes :
    (∃ (r : Req) (val : Word) (s : State), Ready s 4) ∧
    (∃ (r : Req) (val : Word) (s : State), Ready s 4) ∧
    (∃ (r : Req) (val : Word) (s : State), Ready s 4) ∧
    (∃ (r : Req) (val : Word) (s : State), Ready s 7) ∧
    (∃ (r : Req) (val : Word) (s : State), Ready s 4) ∧
    (∃ (r : Req) (val : Word) (s : State), Ready s 6 ∧ onF s CHT_CTRL_EN = false) ∧
    (∃ (r : Req) (addr : Nat) (size : Nat) (val : Word) (s : State), 0x2000000000 ≤ addr ∧ addr < 0x2010000000 ∧ Ready s (blkIsland (blkOf addr)) ∧ sizeOk addr size = true ∧ aliasTargets s addr = none ∧ inTagArea addr = false ∧ ((fieldsAt s addr).map Fld.key).Nodup ∧ ((∀ f ∈ fieldsAt s addr, vitalOnly s f = false ∧ spanned size f = false)) ∧ isNext (writeEach r size val [addr] (wakeIsland s (blkIsland (blkOf addr)))) (writeFields r addr size val (fieldsAt s addr) (wakeIsland s (blkIsland (blkOf addr)))) = true) ∧
    (∃ (b : Fin 16) (c : Option Nat) (s : State), b.val ≠ 8 ∧ b.val ≠ 11 ∧ b.val ≠ 14 ∧ ((b.val = 9 → s.brg.held = [])) ∧ ((b.val = 0 ∨ b.val = 3 → c = none))) ∧
    (∃ (n : Fin 6) (s : State), (canCh s n).sending = false) ∧
    (∃ (n : Fin 8) (s : State), ((∀ p ∈ s.pendL, inBoundary 11 (some n.val) (p.1 / 64) = true → p.1 / 64 % 0x1000 ≠ 8 ∧ p.1 / 64 % 0x1000 ≠ 0x10))) ∧
    (∃ (s : State), Ready s 4) :=
  ⟨⟨.debugger, 0x1234, State.reset, by decide +kernel⟩,
   ⟨.debugger, 0x1234, State.reset, by decide +kernel⟩,
   ⟨.debugger, 0xFFFFFFFF, State.reset, by decide +kernel⟩,
   ⟨.debugger, 5, st [(MER_EVT_STCHG, 1), (MER_EVT_STEP, 1), (MER_EVT_CLAMP, 1)], by decide +kernel⟩,
   ⟨.debugger, 0x20345, State.reset, by decide +kernel⟩,
   ⟨.debugger, 0x20345, State.reset, by decide +kernel⟩,
   ⟨.debugger, 0x2003000008, 8, 0x20345, State.reset, by decide +kernel⟩,
   ⟨3, none, { State.reset with pendL := [((MEM_SCRUB_DRH).key, 7)] }, by decide, by decide, by decide, by decide, by decide⟩,
   ⟨2, State.reset, by decide⟩,
   ⟨2, State.reset, by decide⟩,
   ⟨State.reset, by decide +kernel⟩⟩

theorem witness_doorbell :
    (∃ (s : State) (r : Req) (q : QRef) (n : Nat) (v : Word) (l : List Instr), s.pending = .doorbell r q n v :: l) ∧
    (∃ (Q : Nat), Q / 256 ≠ 15) ∧
    (∃ (r : Req) (q : QRef) (size : Nat) (val : Word) (s : State), q.wf = true ∧ Ready s (blkIsland q.blk.val) ∧ (size ≠ 8 ∨ onF s (QCTRL_EN (gq q)) = false)) ∧
    (∃ (r : Req) (q : QRef) (val : Word) (s : State), q.wf = true ∧ Ready s (blkIsland q.blk.val) ∧ doorbellFrom r (gq q) = true ∧ onF s (QCTRL_EN (gq q)) = true ∧ bits val.toNat 16 16 ≠ getF s (QEPOCH_EPOCH (gq q))) ∧
    (∃ (r : Req) (q : QRef) (val : Word) (s : State), q.wf = true ∧ Ready s (blkIsland q.blk.val) ∧ doorbellFrom r (gq q) = true ∧ onF s (QCTRL_EN (gq q)) = true ∧ bits val.toNat 16 16 = getF s (QEPOCH_EPOCH (gq q)) ∧ (bits val.toNat 0 16 + 65536 - getF s (QCONS_CONS (gq q))) % 65536 < getF s (QSIZE_ENTRIES (gq q)) ∧ outstanding s (gq q) ≤ (bits val.toNat 0 16 + 65536 - getF s (QCONS_CONS (gq q))) % 65536) ∧
    (∃ (r : Req) (q : QRef) (val : Word) (s : State), q.wf = true ∧ Ready s (blkIsland q.blk.val) ∧ doorbellFrom r (gq q) = true ∧ onF s (QCTRL_EN (gq q)) = true ∧ bits val.toNat 16 16 = getF s (QEPOCH_EPOCH (gq q)) ∧ (getF s (QSIZE_ENTRIES (gq q)) ≤ (bits val.toNat 0 16 + 65536 - getF s (QCONS_CONS (gq q))) % 65536 ∨ (bits val.toNat 0 16 + 65536 - getF s (QCONS_CONS (gq q))) % 65536 < outstanding s (gq q))) ∧
    (∃ (r : Req) (q : QRef) (val : Word) (s : State), q.wf = true ∧ Ready s (blkIsland q.blk.val) ∧ doorbellFrom r (gq q) = true ∧ onF s (QCTRL_EN (gq q)) = true ∧ bits val.toNat 16 16 = getF s (QEPOCH_EPOCH (gq q)) ∧ bits val.toNat 16 16 = getF s (QPROD_EPOCH (gq q)) ∧ bits val.toNat 0 16 = getF s (QPROD_PROD (gq q)) ∧ outstanding s (gq q) < getF s (QSIZE_ENTRIES (gq q))) :=
  ⟨⟨{ State.reset with pending := [.doorbell .debugger ⟨6, 5⟩ 8 7] }, .debugger, ⟨6, 5⟩, 8, 7, [], by decide +kernel⟩,
   ⟨0x605, by decide +kernel⟩,
   ⟨.debugger, ⟨6, 5⟩, 4, 7, st [(QCTRL_EN 0x605, 1), (QSIZE_ENTRIES 0x605, 16), (QEPOCH_EPOCH 0x605, 7), (QSTAT_PAUSED 0x605, 1)], by decide +kernel⟩,
   ⟨.debugger, ⟨6, 5⟩, 0x80003, st [(QCTRL_EN 0x605, 1), (QSIZE_ENTRIES 0x605, 16), (QEPOCH_EPOCH 0x605, 7), (QSTAT_PAUSED 0x605, 1)], by decide +kernel⟩,
   ⟨.debugger, ⟨6, 5⟩, 0x70003, st [(QCTRL_EN 0x605, 1), (QSIZE_ENTRIES 0x605, 16), (QEPOCH_EPOCH 0x605, 7), (QSTAT_PAUSED 0x605, 1)], by decide +kernel⟩,
   ⟨.debugger, ⟨6, 5⟩, 0x70010, st [(QCTRL_EN 0x605, 1), (QSIZE_ENTRIES 0x605, 16), (QEPOCH_EPOCH 0x605, 7), (QSTAT_PAUSED 0x605, 1)], by decide +kernel⟩,
   ⟨.debugger, ⟨6, 5⟩, 0x70002, st [(QPROD_PROD 0x605, 2), (QPROD_EPOCH 0x605, 7), (QCTRL_EN 0x605, 1), (QSIZE_ENTRIES 0x605, 16), (QEPOCH_EPOCH 0x605, 7), (QSTAT_PAUSED 0x605, 1)], by decide +kernel⟩⟩

theorem witness_queue_life :
    (∃ (r : Req) (q : QRef) (s : State), q.wf = true ∧ Ready s (blkIsland q.blk.val) ∧ onF s (QCTRL_EN (gq q)) = false ∧ onF s (QSTAT_IDLE (gq q)) = true ∧ bindingOk s (gq q) = true ∧ ringOk s (gq q) = true) ∧
    (∃ (r : Req) (q : QRef) (s : State), q.wf = true ∧ Ready s (blkIsland q.blk.val) ∧ onF s (QCTRL_EN (gq q)) = true) ∧
    (∃ (q : QRef) (s : State), q.wf = true ∧ Runs s (blkIsland q.blk.val) ∧ onF s (QCTRL_EN (gq q)) = false ∧ onF s (QSTAT_IDLE (gq q)) = false ∧ opsOf s (gq q) = [] ∧ outstanding s (gq q) = 0) ∧
    (∃ (r : Req) (q : QRef) (s : State), q.wf = true ∧ Ready s (blkIsland q.blk.val)) ∧
    (∃ (q : QRef) (s : State), q.wf = true ∧ Runs s (blkIsland q.blk.val) ∧ onF s (QCTRL_EN (gq q)) = true ∧ onF s (QSTAT_PAUSED (gq q)) = false ∧ engineWaits s (gq q) = false ∧ 0 < untaken s (gq q) ∧ regionMay s (gq q) (entryAddr s (gq q) (nextTake s (gq q))) 32 false = true ∧ Uncached s (entryAddr s (gq q) (nextTake s (gq q))) ∧ classify (syndromes (codeword s (cwOf (entryAddr s (gq q) (nextTake s (gq q)))))) = .clean ∧ (descriptor s (gq q) (nextTake s (gq q))).map dOwn = some false) ∧
    (∃ (q : QRef) (n : Nat) (eps : List Nat) (k : Nat) (s : State), q.wf = true ∧ Runs s (blkIsland q.blk.val) ∧ onF s (QCTRL_EN (gq q)) = true ∧ onF s (QSTAT_PAUSED (gq q)) = false ∧ engineWaits s (gq q) = false ∧ 0 < untaken s (gq q) ∧ regionMay s (gq q) (entryAddr s (gq q) (nextTake s (gq q))) 32 false = true ∧ scan s (gq q) (untaken s (gq q)) (nextTake s (gq q)) 0 [] = .chain n eps ∧ n ≤ 16 ∧ ((∀ k < n, classify (syndromes (codeword s (cwOf (entryAddr s (gq q) (nextTake s (gq q) + k))))) = .clean)) ∧ ((∀ e ∈ eps, e = getF s (QEPOCH_EPOCH (gq q)))) ∧ afterNops s (gq q) (nextTake s (gq q)) n 0 = some k ∧ opDefined (gq q) (opcodeAt s (gq q) (nextTake s (gq q) + k)) = true) ∧
    (∃ (q : QRef) (n : Nat) (eps : List Nat) (s : State), q.wf = true ∧ Runs s (blkIsland q.blk.val) ∧ onF s (QCTRL_EN (gq q)) = true ∧ onF s (QSTAT_PAUSED (gq q)) = false ∧ engineWaits s (gq q) = false ∧ 0 < untaken s (gq q) ∧ regionMay s (gq q) (entryAddr s (gq q) (nextTake s (gq q))) 32 false = true ∧ scan s (gq q) (untaken s (gq q)) (nextTake s (gq q)) 0 [] = .chain n eps ∧ n ≤ 16 ∧ ((∀ k < n, classify (syndromes (codeword s (cwOf (entryAddr s (gq q) (nextTake s (gq q) + k))))) = .clean)) ∧ ((∀ e ∈ eps, e = getF s (QEPOCH_EPOCH (gq q)))) ∧ afterNops s (gq q) (nextTake s (gq q)) n 0 = none) ∧
    (∃ (q : QRef) (n : Nat) (eps : List Nat) (k : Nat) (s : State), q.wf = true ∧ Runs s (blkIsland q.blk.val) ∧ onF s (QCTRL_EN (gq q)) = true ∧ onF s (QSTAT_PAUSED (gq q)) = false ∧ engineWaits s (gq q) = false ∧ 0 < untaken s (gq q) ∧ regionMay s (gq q) (entryAddr s (gq q) (nextTake s (gq q))) 32 false = true ∧ scan s (gq q) (untaken s (gq q)) (nextTake s (gq q)) 0 [] = .chain n eps ∧ n ≤ 16 ∧ ((∀ k < n, classify (syndromes (codeword s (cwOf (entryAddr s (gq q) (nextTake s (gq q) + k))))) = .clean)) ∧ ((∀ e ∈ eps, e = getF s (QEPOCH_EPOCH (gq q)))) ∧ afterNops s (gq q) (nextTake s (gq q)) n 0 = some k ∧ opDefined (gq q) (opcodeAt s (gq q) (nextTake s (gq q) + k)) = false) ∧
    (∃ (q : QRef) (s : State), q.wf = true ∧ Runs s (blkIsland q.blk.val) ∧ onF s (QCTRL_EN (gq q)) = true ∧ onF s (QSTAT_PAUSED (gq q)) = false ∧ engineWaits s (gq q) = false ∧ 0 < untaken s (gq q) ∧ regionMay s (gq q) (entryAddr s (gq q) (nextTake s (gq q))) 32 false = false) ∧
    (∃ (q : QRef) (n : Nat) (eps : List Nat) (s : State), q.wf = true ∧ Runs s (blkIsland q.blk.val) ∧ onF s (QCTRL_EN (gq q)) = true ∧ onF s (QSTAT_PAUSED (gq q)) = false ∧ engineWaits s (gq q) = false ∧ 0 < untaken s (gq q) ∧ regionMay s (gq q) (entryAddr s (gq q) (nextTake s (gq q))) 32 false = true ∧ scan s (gq q) (untaken s (gq q)) (nextTake s (gq q)) 0 [] = .chain n eps ∧ ((∀ k < n, classify (syndromes (codeword s (cwOf (entryAddr s (gq q) (nextTake s (gq q) + k))))) = .clean)) ∧ 16 < n) ∧
    (∃ (q : QRef) (n : Nat) (eps : List Nat) (s : State), q.wf = true ∧ Runs s (blkIsland q.blk.val) ∧ onF s (QCTRL_EN (gq q)) = true ∧ onF s (QSTAT_PAUSED (gq q)) = false ∧ engineWaits s (gq q) = false ∧ 0 < untaken s (gq q) ∧ regionMay s (gq q) (entryAddr s (gq q) (nextTake s (gq q))) 32 false = true ∧ scan s (gq q) (untaken s (gq q)) (nextTake s (gq q)) 0 [] = .chain n eps ∧ n ≤ 16 ∧ ((∀ k < n, classify (syndromes (codeword s (cwOf (entryAddr s (gq q) (nextTake s (gq q) + k))))) = .clean)) ∧ ((∃ e ∈ eps, e ≠ getF s (QEPOCH_EPOCH (gq q))))) ∧
    (∃ (q : QRef) (o : QOp) (d : QDone) (l : List QOp) (s : State), q.wf = true ∧ Runs s (blkIsland q.blk.val) ∧ opsOf s (gq q) = o :: l ∧ o.done = some d) ∧
    (∃ (q : QRef) (o : QOp) (d : QDone) (l : List QOp) (s : State), q.wf = true ∧ Runs s (blkIsland q.blk.val) ∧ opsOf s (gq q) = o :: l ∧ o.n = 1 ∧ o.done = some d ∧ q.blk.val ≠ 8 ∧ d.status ≠ stCODE ∧ Uncached s (entryAddr s o.q o.idx) ∧ dIrq ((readCw s (cwOf (entryAddr s o.q o.idx))).getD (memRaw s (entryAddr s o.q o.idx) 32)) = false ∧ onF s MEM_INJ_ARM = false) :=
  ⟨⟨.debugger, ⟨6, 5⟩, st [(QSIZE_ENTRIES 0x605, 16), (QBASE_BASE 0x605, 0x1000), (QCONS_CONS 0x605, 9)], by decide +kernel⟩,
   ⟨.debugger, ⟨6, 5⟩, st [(QCTRL_EN 0x605, 1), (QSIZE_ENTRIES 0x605, 16), (QEPOCH_EPOCH 0x605, 7), (QSTAT_PAUSED 0x605, 1)], by decide +kernel⟩,
   ⟨⟨6, 5⟩, st [(QSTAT_IDLE 0x605, 0), (QPROD_PROD 0x605, 3), (QCONS_CONS 0x605, 3)], by decide +kernel⟩,
   ⟨.debugger, ⟨6, 5⟩, st [(QCTRL_EN 0x605, 1), (QSIZE_ENTRIES 0x605, 16), (QEPOCH_EPOCH 0x605, 7), (QSTAT_PAUSED 0x605, 1)], by decide +kernel⟩,
   ⟨⟨6, 5⟩, st [(QCTRL_EN 0x605, 1), (QSIZE_ENTRIES 0x605, 16), (QEPOCH_EPOCH 0x605, 7), (QPROD_PROD 0x605, 2), (CHT_CTRL_EN, 1)], by decide +kernel⟩,
   ⟨⟨6, 5⟩, 1, [7], 0, putBytesSt (st [(QCTRL_EN 0x605, 1), (QSIZE_ENTRIES 0x605, 16), (QBASE_BASE 0x605, 0x1000), (QEPOCH_EPOCH 0x605, 7), (QPROD_PROD 0x605, 2), (CHT_CTRL_EN, 1)]) 128 (toLE 2 (1 + 256 * 128) ++ toLE 2 7 ++ List.replicate 28 0), by decide +kernel⟩,
   ⟨⟨6, 5⟩, 1, [7], putBytesSt (st [(QCTRL_EN 0x605, 1), (QSIZE_ENTRIES 0x605, 16), (QBASE_BASE 0x605, 0x1000), (QEPOCH_EPOCH 0x605, 7), (QPROD_PROD 0x605, 2), (CHT_CTRL_EN, 1)]) 128 (toLE 2 (0 + 256 * 128) ++ toLE 2 7 ++ List.replicate 28 0), by decide +kernel⟩,
   ⟨⟨6, 5⟩, 1, [7], 0, putBytesSt (st [(QCTRL_EN 0x605, 1), (QSIZE_ENTRIES 0x605, 16), (QBASE_BASE 0x605, 0x1000), (QEPOCH_EPOCH 0x605, 7), (QPROD_PROD 0x605, 2), (CHT_CTRL_EN, 1)]) 128 (toLE 2 (99 + 256 * 128) ++ toLE 2 7 ++ List.replicate 28 0), by decide +kernel⟩,
   ⟨⟨6, 5⟩, st [(QCTRL_EN 0x605, 1), (QSIZE_ENTRIES 0x605, 16), (QBASE_BASE 0x605, 0x1000), (QEPOCH_EPOCH 0x605, 7), (QPROD_PROD 0x605, 2), (CHT_CTRL_EN, 1), (VTC_VRGN_V 0, 1), (VTC_VRGN_SIZE 0, 1)], by decide +kernel⟩,
   ⟨⟨6, 5⟩, 17, List.replicate 17 7, putBytesSt (st [(QCTRL_EN 0x605, 1), (QSIZE_ENTRIES 0x605, 32), (QBASE_BASE 0x605, 0x1000), (QEPOCH_EPOCH 0x605, 7), (QPROD_PROD 0x605, 20), (CHT_CTRL_EN, 1)]) 128 ((List.range 16).flatMap (fun _ => (toLE 2 (1 + 256 * 144) ++ toLE 2 7 ++ List.replicate 28 0)) ++ (toLE 2 (1 + 256 * 128) ++ toLE 2 7 ++ List.replicate 28 0)), by decide +kernel⟩,
   ⟨⟨6, 5⟩, 1, [6], putBytesSt (st [(QCTRL_EN 0x605, 1), (QSIZE_ENTRIES 0x605, 16), (QBASE_BASE 0x605, 0x1000), (QEPOCH_EPOCH 0x605, 7), (QPROD_PROD 0x605, 2), (CHT_CTRL_EN, 1)]) 128 (toLE 2 (1 + 256 * 128) ++ toLE 2 6 ++ List.replicate 28 0), by decide +kernel⟩,
   ⟨⟨6, 5⟩, { q := 0x605, idx := 0, n := 1, opc := 1, started := true, done := some { status := 0 } }, { status := 0 }, [], { st [(QCTRL_EN 0x605, 1), (QSIZE_ENTRIES 0x605, 16), (QPROD_PROD 0x605, 1)] with qops := [{ q := 0x605, idx := 0, n := 1, opc := 1, started := true, done := some { status := 0 } }] }, by decide +kernel⟩,
   ⟨⟨6, 5⟩, { q := 0x605, idx := 0, n := 1, opc := 1, started := true, done := some { status := 0 } }, { status := 0 }, [], { st [(QCTRL_EN 0x605, 1), (QSIZE_ENTRIES 0x605, 16), (QPROD_PROD 0x605, 1)] with qops := [{ q := 0x605, idx := 0, n := 1, opc := 1, started := true, done := some { status := 0 } }] }, by decide +kernel⟩⟩

theorem witness_reads_clear :
    (∃ (r : Req) (s : State), Ready s 4) ∧
    (∃ (n : Fin 4) (s : State), Ready s 7) ∧
    (∃ (r : Req) (a : Nat) (p : Nat) (val : Word) (s : State), fileOf a = some p ∧ a % 0x1000 = 0 ∧ 1 ≤ val.toNat % 2 ^ 32 ∧ val.toNat % 2 ^ 32 ≤ 255 ∧ CrossOpen s (fileIsland p) 3 (fileIsland p)) ∧
    (∃ (h : Fin 16) (m : Bool) (val : Word) (s : State), RoomFor s 2) ∧
    (∃ (r : Req) (a : Nat) (val : Word) (s : State), Ready s (blkIsland (blkOf a)) ∧ sizeOk a 8 = true ∧ inTagArea a = true) ∧
    (∃ (r : Req) (a : Nat) (val : Word) (s : State), Ready s (blkIsland (blkOf a)) ∧ sizeOk a 4 = true ∧ inTagArea a = true) ∧
    (∃ (r : Req) (addr : Nat) (size : Nat) (val : Word) (l : List Nat) (s : State), Ready s (blkIsland (blkOf addr)) ∧ 0x2000000000 ≤ addr ∧ addr < 0x2010000000 ∧ sizeOk addr size = true ∧ aliasTargets s addr = some l ∧ ((l.flatMap fun b => (fieldsAt s b).map Fld.key).Nodup) ∧ (isNext (writeEach r size val l (wakeIsland s (blkIsland (blkOf addr)))) (l.foldl (fun u b => writeFields r b size val (fieldsAt s b) u) (wakeIsland s (blkIsland (blkOf addr)))) = true) ∧ ((∀ b ∈ l, ∀ f ∈ fieldsAt s b, (f.acc = .rw ∨ f.acc = .rwl ∨ f.acc = .ro) ∧ spanned size f = false ∧ vitalOnly s f = false))) ∧
    (∃ (r : Req) (val : Word) (s : State), Ready s 9) :=
  ⟨⟨.debugger, st [(MEM_CECNT_DRAM, 7), (MEM_CECNT_OTHER, 9)], by decide +kernel⟩,
   ⟨2, { State.reset with mer := { t := 123456789012345 } }, by decide +kernel⟩,
   ⟨.debugger, 0x2081013000, 0x2081013000, 255, State.reset, by decide +kernel⟩,
   ⟨3, true, 255, State.reset, by decide +kernel⟩,
   ⟨.debugger, 0x2000F00008, 0x1122334455667788, State.reset, by decide +kernel⟩,
   ⟨.debugger, 0x2000F0000C, 0x11223344, State.reset, by decide +kernel⟩,
   ⟨.debugger, 0x20080FF050, 8, 0x711217, [0x2008010050, 0x2008011050, 0x2008012050, 0x2008013050, 0x2008014050, 0x2008015050], State.reset, by decide +kernel⟩,
   ⟨.debugger, 0x711217, State.reset, by decide +kernel⟩⟩

theorem witness_memory_reads :
    (∃ (r : Req) (k : AccKind) (a : Nat) (src : MemSrc) (up : List (Fin 36 × Byte)) (hard : Bool) (s : State), mapped a = true ∧ kindRefused k a = none ∧ inIo a = false ∧ inRom a = false ∧ mayRead s r a = true ∧ classify (syndromes (xorSyms (wordIn (reach r src (cwOf a) s) src (cwOf a)) up)) = .clean) ∧
    (∃ (r : Req) (k : AccKind) (a : Nat) (src : MemSrc) (up : List (Fin 36 × Byte)) (hard : Bool) (sym : Nat) (v : Nat) (s : State), mapped a = true ∧ kindRefused k a = none ∧ inIo a = false ∧ inRom a = false ∧ mayRead s r a = true ∧ classify (syndromes (xorSyms (wordIn (reach r src (cwOf a) s) src (cwOf a)) up)) = .one sym v) ∧
    (∃ (r : Req) (k : AccKind) (a : Nat) (src : MemSrc) (up : List (Fin 36 × Byte)) (hard : Bool) (s : State), mapped a = true ∧ kindRefused k a = none ∧ mayRead s r a = true ∧ inRom a = true) ∧
    (∃ (r : Req) (k : AccKind) (a : Nat) (src : MemSrc) (up : List (Fin 36 × Byte)) (hard : Bool) (s : State), mapped a = true ∧ kindRefused k a = none ∧ inIo a = true ∧ a < 0x4000000000 ∧ ((∀ b q, r ≠ .engine b q))) ∧
    (∃ (r : Req) (a : Nat) (s : State), inDram a = true ∧ mayRead s r a = true ∧ Uncached s a ∧ AllClean s ∧ classify (syndromes (codeword s (cwOf a / 2 * 2))) = .clean ∧ classify (syndromes (codeword s (cwOf a / 2 * 2 + 1))) = .clean) ∧
    (∃ (n : Fin 4) (a : Nat) (s : State), inDram a = true ∧ Uncached s a ∧ classify (syndromes (codeword s (cwOf a))) = .clean) ∧
    (∃ (n : Fin 4) (a : Nat) (s : State), mapped a = false) ∧
    (∃ (n : Fin 4) (a : Nat) (s : State), inDram a = true ∧ Uncached s a ∧ classify (syndromes (codeword s (cwOf a))) = .poisoned ∧ RoomFor s 4) :=
  ⟨⟨.debugger, .load, 0x1234, .dram, [], false, State.reset, by decide +kernel⟩,
   ⟨.debugger, .load, 0x1234, .dram, [(5, 3)], false, 5, 3, State.reset, by decide +kernel⟩,
   ⟨.hart 3 true, .fetch, 0x3000000040, .dram, [], false, State.reset, by decide +kernel⟩,
   ⟨.hart 3 true, .load, 0x2003000020, .dram, [], false, State.reset, by decide +kernel, by decide +kernel, by decide +kernel, by decide +kernel, nofun⟩,
   ⟨.debugger, 0x1234, State.reset, by decide +kernel⟩,
   ⟨1, 0x1234, State.reset, by decide +kernel⟩,
   ⟨1, 0x900000000, State.reset, by decide +kernel⟩,
   ⟨1, 0x1234, putPoisoned State.reset (0x1234 / 32) (List.replicate 32 0), by decide +kernel⟩⟩

theorem witness_memory_writes :
    (∃ (n : Fin 4) (a : Nat) (d : List Byte) (s : State), a % 32 = 0 ∧ d.length = 32 ∧ a + 32 ≤ 0x800000000 ∧ regionsAt s a 32 = [] ∧ onF s MEM_INJ_ARM = false ∧ storeOpen (.triad n) a 32 s = false ∧ Uncached s a) ∧
    (∃ (n : Fin 4) (a : Nat) (b : Byte) (s : State), a < 0x800000000 ∧ regionsAt s a 1 = [] ∧ onF s MEM_INJ_ARM = false ∧ storeOpen (.triad n) a 1 s = false ∧ Uncached s a ∧ classify (syndromes (codeword s (cwOf a))) = .clean) ∧
    (∃ (n : Fin 4) (a : Nat) (d : List Byte) (s : State), inDram a = true ∧ mayWrite s (.triad n) a d.length = false ∧ regionsAt s a d.length = []) ∧
    (∃ (s : State), onL s MEM_SCRUB_DREN = true ∧ s.pendL = [] ∧ getF s MEM_DRPOS_ADDR + 32 < 0x800000000 ∧ Uncached s (getF s MEM_DRPOS_ADDR) ∧ classify (syndromes (codeword s (cwOf (getF s MEM_DRPOS_ADDR)))) = .clean) ∧
    (∃ (s : State), onL s MEM_SCRUB_DREN = true ∧ s.pendL = [] ∧ getF s MEM_DRPOS_ADDR = 0x7FFFFFFE0 ∧ Uncached s (getF s MEM_DRPOS_ADDR) ∧ classify (syndromes (codeword s (cwOf (getF s MEM_DRPOS_ADDR)))) = .clean) ∧
    (∃ (sl : Fin 8) (m : Nat) (w : Nat) (a : Nat) (s : State), lineAt s (16 + sl.val) (cwOf a / 2) = none) ∧
    (∃ (sl : Fin 8) (m : Nat) (w : Nat) (a : Nat) (c : CLine) (s : State), lineAt s (16 + sl.val) (cwOf a / 2) = some c ∧ c.sym.length = 72 ∧ classify (syndromes (c.word (cwOf a))) = .clean) ∧
    (∃ (sl : Fin 8) (m : Nat) (w : Nat) (a : Nat) (k : Nat) (v : Nat) (c : CLine) (s : State), lineAt s (16 + sl.val) (cwOf a / 2) = some c ∧ c.sym.length = 72 ∧ classify (syndromes (c.word (cwOf a))) = .one k v) ∧
    (∃ (nvm : Bool) (s : State), (onL s (if nvm then MEM_SCRUB_NVEN else MEM_SCRUB_DREN) = false) ∧ kget 0 s.degAt (b2n nvm) + windowSpan s nvm ≤ freeCnt s) ∧
    (∃ (nvm : Bool) (s : State), (onL s (if nvm then MEM_SCRUB_NVEN else MEM_SCRUB_DREN) = true ∨ freeCnt s < kget 0 s.degAt (b2n nvm) + windowSpan s nvm)) :=
  ⟨⟨1, 0x1240, (List.range 32).map fun i => BitVec.ofNat 8 (i + 200), State.reset, by decide +kernel⟩,
   ⟨1, 0x1243, 0x5A, State.reset, by decide +kernel⟩,
   ⟨1, 0x7FFFFFFFF, [1, 2], State.reset, by decide +kernel⟩,
   ⟨State.reset, by decide +kernel⟩,
   ⟨st [(MEM_DRPOS_ADDR, 0x7FFFFFFE0)], by decide +kernel⟩,
   ⟨1, 2, 3, 0x40, State.reset, by decide +kernel⟩,
   ⟨1, 2, 3, 0x40, { src := .l3 1 2 3, line := 1, dirty := false, sym := List.replicate 72 0 }, { State.reset with caches := [{ src := .l3 1 2 3, line := 1, dirty := false, sym := List.replicate 72 0 }] }, by decide +kernel⟩,
   ⟨1, 2, 3, 0x40, 0, 5, { src := .l3 1 2 3, line := 1, dirty := false, sym := (5 : Byte) :: List.replicate 71 0 }, { State.reset with caches := [{ src := .l3 1 2 3, line := 1, dirty := false, sym := (5 : Byte) :: List.replicate 71 0 }] }, by decide +kernel⟩,
   ⟨true, lv { st [(MER_FREECNT_COUNT, 2 ^ 62)] with degCnt := [(3, 5), (70, 9)] } [(MEM_SCRUB_NVEN, 0)], by decide +kernel⟩,
   ⟨true, State.reset, by decide +kernel⟩⟩

theorem witness_partitions :
    (∃ (r : Req) (p : Fin 64) (s : State), Ready s 2) ∧
    (∃ (r : Req) (p : Fin 64) (cores : BitVec 16) (s : State), Ready s 2 ∧ onF s (SVC_PCTRL_EN p) = false) ∧
    (∃ (r : Req) (p : Fin 64) (cores : BitVec 16) (s : State), Ready s 2 ∧ onF s (SVC_PCTRL_EN p) = true) ∧
    (∃ (c : Fin 16) (k : Fin 32) (s : State), Runs s 2 ∧ windowUsed s c k = true ∧ liveF s (SVC_WINCTRL_EIID c) ≠ 0 ∧ liveF s (SVC_WINCTRL_EIID c) < 256 ∧ liveF s (SVC_WINCTRL_LEVEL c) < 2 ∧ CrossOpen s 2 3 2) :=
  ⟨⟨.debugger, 5, st [(SVC_PCTRL_EN 5, 1), (SVC_PEPOCH_EPOCH 5, 0xFFFF)], by decide +kernel⟩,
   ⟨.debugger, 5, 0x1234, State.reset, by decide +kernel⟩,
   ⟨.debugger, 5, 0x1234, st [(SVC_PCTRL_EN 5, 1), (SVC_PEPOCH_EPOCH 5, 0xFFFF)], by decide +kernel⟩,
   ⟨3, 1, lv State.reset [(SVC_WINCTRL_COUNT 3, 2), (SVC_WINCTRL_EIID 3, 40), (SVC_WIN_OFFSET 3 0, 10), (SVC_WIN_OFFSET 3 1, 500), (SVC_WIN_PART 3 1, 9), (SVC_WIN_IDLE 3 1, 1)], by decide +kernel⟩⟩

theorem witness_sextant_decides :
    (∃ (n : Fin 4) (a : LaneRec) (retire : Nat) (kind : FenceKind) (s : State), s.triads.length = 4 ∧ running s n = true ∧ compared s n ≠ [] ∧ a.present = true) ∧
    (∃ (n : Fin 4) (a : LaneRec) (c : LaneRec) (retire : Nat) (s : State), s.triads.length = 4 ∧ tState s n = tsTMR ∧ compared s n = [0, 1, 2] ∧ a.present = true ∧ c.present = true ∧ a ≠ c ∧ limitReached s n 2 = false) ∧
    (∃ (n : Fin 4) (a : LaneRec) (b : LaneRec) (c : LaneRec) (retire : Nat) (kind : FenceKind) (s : State), s.triads.length = 4 ∧ tState s n = tsTMR ∧ compared s n = [0, 1, 2] ∧ a.present = true ∧ b.present = true ∧ c.present = true ∧ a ≠ b ∧ a ≠ c ∧ b ≠ c) ∧
    (∃ (n : Fin 4) (a : List Word) (g : Nat) (s : State), s.triads.length = 4 ∧ running s n = true ∧ (triad s n).lanes.length = 3 ∧ a.length = 92 ∧ firstEvent (triad s n).events = some (g, .sig)) :=
  ⟨⟨2, ⟨true, 1, 3, 0x1240, 8, 255, 7, 0, 0⟩, 100, .waits, (modTriad (st [(VTC_TSTAT_STATE 2, 2), (VTC_TMAP_CA 2, 4), (VTC_TMAP_CB 2, 5), (VTC_TMAP_CC 2, 6)]) 2 fun x => { x with events := [(4, .inval 9), (5, .sig)] }), by decide +kernel⟩,
   ⟨2, ⟨true, 1, 3, 0x1240, 8, 255, 7, 0, 0⟩, ⟨true, 1, 3, 0x1240, 8, 255, 9, 0, 0⟩, 100, (modTriad (st [(VTC_TSTAT_STATE 2, 2), (VTC_TMAP_CA 2, 4), (VTC_TMAP_CB 2, 5), (VTC_TMAP_CC 2, 6)]) 2 fun x => { x with lastTag := x.lastTag }), by decide +kernel⟩,
   ⟨2, ⟨true, 1, 3, 0x1240, 8, 255, 7, 0, 0⟩, ⟨true, 1, 3, 0x1240, 8, 255, 9, 0, 0⟩, ⟨true, 1, 3, 0x1240, 8, 255, 11, 0, 0⟩, 100, .other, (modTriad (st [(VTC_TSTAT_STATE 2, 2), (VTC_TMAP_CA 2, 4), (VTC_TMAP_CB 2, 5), (VTC_TMAP_CC 2, 6)]) 2 fun x => { x with lastTag := x.lastTag }), by decide +kernel⟩,
   ⟨2, (List.range 92).map fun i => BitVec.ofNat 64 (i + 7), 5, (modTriad (st [(VTC_TSTAT_STATE 2, 2), (VTC_TMAP_CA 2, 4), (VTC_TMAP_CB 2, 5), (VTC_TMAP_CC 2, 6)]) 2 fun x => { x with events := [(5, .sig), (6, .sig)] }), by decide +kernel⟩⟩

theorem witness_triad_inputs :
    (∃ (n : Fin 4) (data : Word) (wr : Bool) (x : VReq) (r : List VReq) (s : State), s.triads.length = 4 ∧ running s n = true ∧ (triad s n).vreq = x :: r ∧ ((∀ e ∈ x.wait, e ∉ (triad s n).events)) ∧ x.req.type ≠ 6) ∧
    (∃ (n : Fin 4) (data : Word) (x : VReq) (r : List VReq) (s : State), s.triads.length = 4 ∧ running s n = true ∧ (triad s n).vreq = x :: r ∧ ((∀ e ∈ x.wait, e ∉ (triad s n).events)) ∧ x.req.type = 6) ∧
    (∃ (n : Fin 4) (data : Word) (x : VReq) (r : List VReq) (s : State), s.triads.length = 4 ∧ running s n = true ∧ (triad s n).vreq = x :: r ∧ ((∀ e ∈ x.wait, e ∉ (triad s n).events)) ∧ x.req.type = 6 ∧ x.req.csr = 0x35C ∧ fileTop s n ≠ 0) ∧
    (∃ (n : Fin 4) (ev : TrEvent) (retire : Nat) (s : State), s.triads.length = 4 ∧ running s n = true ∧ arises s n ev = true ∧ (triad s n).wfi = none) ∧
    (∃ (n : Fin 4) (rs : List (Nat × Word)) (g : Nat) (e : Nat) (s : State), s.triads.length = 4 ∧ running s n = true ∧ firstEvent (triad s n).events = some (g, .irq e) ∧ e ≠ 0) ∧
    (∃ (n : Fin 4) (rs : List (Nat × Word)) (g : Nat) (e : Nat) (pc : Word) (m : Bool) (s : State), s.triads.length = 4 ∧ running s n = true ∧ (triad s n).lanes.length = 3 ∧ firstEvent (triad s n).events = some (g, .irq e) ∧ e ≠ 0) ∧
    (∃ (n : Fin 4) (rs : List (Nat × Word)) (g : Nat) (l : Nat) (trap : Option (Word × Bool)) (s : State), s.triads.length = 4 ∧ running s n = true ∧ firstEvent (triad s n).events = some (g, .inval l)) ∧
    (∃ (n : Fin 4) (rs : List (Nat × Word)) (g : Nat) (e : Nat) (w : Nat) (pc : Word) (m : Bool) (s : State), s.triads.length = 4 ∧ running s n = true ∧ (triad s n).lanes.length = 3 ∧ (triad s n).wfi = some w ∧ (triad s n).events = [(g, .irq e)] ∧ e ≠ 0) :=
  ⟨⟨2, 0x55, true, ⟨⟨true, 1, 3, 0x1240, 8, 255, 7, 0, 0⟩, []⟩, [⟨⟨true, 1, 3, 0x1240, 8, 255, 9, 0, 0⟩, []⟩], (modTriad (st [(VTC_TSTAT_STATE 2, 2), (VTC_TMAP_CA 2, 4), (VTC_TMAP_CB 2, 5), (VTC_TMAP_CC 2, 6)]) 2 fun x => { x with vreq := [⟨⟨true, 1, 3, 0x1240, 8, 255, 7, 0, 0⟩, []⟩, ⟨⟨true, 1, 3, 0x1240, 8, 255, 9, 0, 0⟩, []⟩] }), by decide +kernel⟩,
   ⟨2, 0x55, ⟨⟨true, 6, 3, 0, 8, 255, 7, 0x35C, 0⟩, []⟩, [], (modTriad (st [(VTC_TSTAT_STATE 2, 2), (VTC_TMAP_CA 2, 4), (VTC_TMAP_CB 2, 5), (VTC_TMAP_CC 2, 6)]) 2 fun x => { x with vreq := [⟨⟨true, 6, 3, 0, 8, 255, 7, 0x35C, 0⟩, []⟩] }), by decide +kernel⟩,
   ⟨2, 0x55, ⟨⟨true, 6, 3, 0, 8, 255, 7, 0x35C, 0⟩, []⟩, [], { (modTriad (st [(VTC_TSTAT_STATE 2, 2), (VTC_TMAP_CA 2, 4), (VTC_TMAP_CB 2, 5), (VTC_TMAP_CC 2, 6)]) 2 fun x => { x with vreq := [⟨⟨true, 6, 3, 0, 8, 255, 7, 0x35C, 0⟩, []⟩], delivery := 1, enables := [(7, 1)] }) with ifiles := [(0x2080002007, 1)] }, by decide +kernel⟩,
   ⟨2, .irq 7, 1000, { (modTriad (st [(VTC_TSTAT_STATE 2, 2), (VTC_TMAP_CA 2, 4), (VTC_TMAP_CB 2, 5), (VTC_TMAP_CC 2, 6)]) 2 fun x => { x with delivery := 1, enables := [(7, 1)] }) with ifiles := [(0x2080002007, 1)] }, by decide +kernel⟩,
   ⟨2, [(5, 0x77), (0x305, 0x8000)], 5, 7, (modTriad (st [(VTC_TSTAT_STATE 2, 2), (VTC_TMAP_CA 2, 4), (VTC_TMAP_CB 2, 5), (VTC_TMAP_CC 2, 6)]) 2 fun x => { x with events := [(9, .sig), (5, .irq 7)] }), by decide +kernel⟩,
   ⟨2, [(5, 0x77), (0x305, 0x8000)], 5, 7, 0x4000, true, (modTriad (st [(VTC_TSTAT_STATE 2, 2), (VTC_TMAP_CA 2, 4), (VTC_TMAP_CB 2, 5), (VTC_TMAP_CC 2, 6)]) 2 fun x => { x with events := [(9, .sig), (5, .irq 7)] }), by decide +kernel⟩,
   ⟨2, [(5, 0x77), (0x305, 0x8000)], 5, 7, none, (modTriad (st [(VTC_TSTAT_STATE 2, 2), (VTC_TMAP_CA 2, 4), (VTC_TMAP_CB 2, 5), (VTC_TMAP_CC 2, 6)]) 2 fun x => { x with events := [(9, .sig), (5, .inval 7)] }), by decide +kernel⟩,
   ⟨2, [(5, 0x77), (0x305, 0x8000)], 9, 7, 4, 0x4004, true, (modTriad (st [(VTC_TSTAT_STATE 2, 2), (VTC_TMAP_CA 2, 4), (VTC_TMAP_CB 2, 5), (VTC_TMAP_CC 2, 6)]) 2 fun x => { x with events := [(9, .irq 7)], wfi := some 4 }), by decide +kernel⟩⟩

theorem witness_vital_regions :
    (∃ (n : Fin 4) (k : Fin 16) (val : Word) (s : State), (onF s (VTC_VRGN_V k) = false ∨ bitF s (VTC_VRGN_OWN k) n = true)) ∧
    (∃ (n : Fin 4) (k : Fin 16) (val : Word) (s : State), onF s (VTC_VRGN_V k) = true ∧ bitF s (VTC_VRGN_OWN k) n = false) ∧
    (∃ (h : Fin 16) (m : Bool) (k : Fin 16) (val : Word) (s : State), RoomFor s 1) :=
  ⟨⟨2, 5, 0x0012000012600047, State.reset, by decide +kernel⟩,
   ⟨2, 5, 0x0012000012600047, st [(VTC_VRGN_V 5, 1), (VTC_VRGN_OWN 5, 11)], by decide +kernel⟩,
   ⟨2, true, 5, 0x0012000012600047, State.reset, by decide +kernel⟩⟩

theorem witness_triad_life :
    (∃ (h : Fin 16) (n : Fin 4) (s : State), s.triads.length = 4 ∧ (tState s n = tsOFF ∨ tState s n = tsHALTED) ∧ (triad s n).image = true ∧ onF s SYS_MSTAT_MSAFE = false ∧ onF s UPD_STAT_PILOT = false) ∧
    (∃ (n : Fin 4) (fails : BitVec 3) (spares : List (Fin 14)) (retire : Nat) (s : State), s.triads.length = 4 ∧ (triad s n).lanes.length = 3 ∧ tState s n = tsSTART ∧ coreAt s n 0 ≠ 0xF ∧ coreAt s n 1 ≠ 0xF ∧ coreAt s n 2 ≠ 0xF ∧ fails = 0 ∧ onF s SYS_PWRSTAT_VREADY = true) ∧
    (∃ (h : Fin 16) (n : Fin 4) (s : State), s.triads.length = 4 ∧ 1 ≤ tState s n ∧ tState s n ≤ 5 ∧ onF s SYS_PWRSTAT_VREADY = true) ∧
    (∃ (n : Fin 4) (s : State), onF s SYS_PWRSTAT_VREADY = true) :=
  ⟨⟨3, 2, (modTriad (st [(VTC_TSTAT_STATE 2, 0), (VTC_TMAP_CA 2, 4), (VTC_TMAP_CB 2, 5), (VTC_TMAP_CC 2, 6)]) 2 fun x => { x with image := true }), by decide +kernel⟩,
   ⟨2, 0, [], 7, (modTriad (st [(VTC_TSTAT_STATE 2, 1), (VTC_TMAP_CA 2, 4), (VTC_TMAP_CB 2, 5), (VTC_TMAP_CC 2, 6), (SYS_PWRSTAT_VREADY, 1)]) 2 fun x => { x with entry := 0x1234 }), by decide +kernel⟩,
   ⟨3, 2, (modTriad (st [(VTC_TSTAT_STATE 2, 3), (VTC_TMAP_CA 2, 4), (VTC_TMAP_CB 2, 5), (VTC_TMAP_CC 2, 6), (SYS_PWRSTAT_VREADY, 1)]) 2 fun x => { x with lastTag := x.lastTag }), by decide +kernel⟩,
   ⟨2, (modTriad (st [(VTC_TSTAT_STATE 2, 3), (VTC_TMAP_CA 2, 4), (VTC_TMAP_CB 2, 5), (VTC_TMAP_CC 2, 6), (SYS_PWRSTAT_VREADY, 1)]) 2 fun x => { x with lastTag := x.lastTag }), by decide +kernel⟩⟩

theorem witness_triad_recovery :
    (∃ (n : Fin 4) (s : State), s.triads.length = 4 ∧ (triad s n).phase = .selftest) ∧
    (∃ (n : Fin 4) (g : Nat) (l : List Word) (s : State), s.triads.length = 4 ∧ running s n = true ∧ (triad s n).lanes.length = 3 ∧ 1 ≤ getF s (VTC_TSTAT_FLANE n) ∧ getF s (VTC_TSTAT_FLANE n) ≤ 3 ∧ l.length = 101 ∧ (triad s n).phase = .boundary ∧ (triad s n).vreq = [] ∧ firstEvent (triad s n).events = some (g, .boundary)) ∧
    (∃ (n : Fin 4) (s : State), s.triads.length = 4 ∧ (triad s n).phase = .copied ∧ ((∀ p : Fin 3, laneSignature s n p = laneSignature s n 0)) ∧ 1 ≤ getF s (VTC_TSTAT_FLANE n) ∧ getF s (VTC_TSTAT_FLANE n) ≤ 3 ∧ coreAt s n (getF s (VTC_TSTAT_FLANE n) - 1) < 14) ∧
    (∃ (n : Fin 4) (c : Nat) (s : State), s.triads.length = 4 ∧ (triad s n).phase = .switching ∧ (triad s n).incoming = some c ∧ c < 14) :=
  ⟨⟨2, (modTriad (st [(VTC_TSTAT_STATE 2, 3), (VTC_TMAP_CA 2, 4), (VTC_TMAP_CB 2, 5), (VTC_TMAP_CC 2, 6)]) 2 fun x => { x with phase := .selftest }), by decide +kernel⟩,
   ⟨2, 8, (List.range 101).map fun i => BitVec.ofNat 64 (i + 9), (modTriad (st [(VTC_TSTAT_STATE 2, 3), (VTC_TMAP_CA 2, 4), (VTC_TMAP_CB 2, 5), (VTC_TMAP_CC 2, 6), (VTC_TSTAT_FLANE 2, 2)]) 2 fun x => { x with phase := .boundary, events := [(8, .boundary)] }), by decide +kernel⟩,
   ⟨2, (modTriad (st [(VTC_TSTAT_STATE 2, 3), (VTC_TMAP_CA 2, 4), (VTC_TMAP_CB 2, 5), (VTC_TMAP_CC 2, 6), (VTC_TSTAT_FLANE 2, 2), (VTC_CSTAT_CORE 5, 2)]) 2 fun x => { x with phase := .copied }), by decide +kernel, by decide +kernel, fun p => sameSignature (by revert p; decide +kernel), by decide +kernel⟩,
   ⟨2, 12, (modTriad (st [(VTC_TSTAT_STATE 2, 4), (VTC_TMAP_CA 2, 4), (VTC_TMAP_CB 2, 5), (VTC_TMAP_CC 2, 6), (VTC_TSTAT_FLANE 2, 3)]) 2 fun x => { x with phase := .switching, incoming := some 12 }), by decide +kernel⟩⟩

theorem witness_cores_and_injection :
    (∃ (c : Nat) (r : List Nat) (s : State), (spares s).filter (s.poolNext ≤ ·) = c :: r) ∧
    (∃ (c : Nat) (r : List Nat) (s : State), (spares s).filter (s.poolNext ≤ ·) = c :: r) ∧
    (∃ (h : Fin 16) (core : Fin 16) (s : State), core.val < 14 ∧ getF s (VTC_CSTAT_CORE core) = csQUAR ∧ onF s VTC_XTEST_BUSY = false) ∧
    (∃ (r : Req) (core : Fin 16) (s : State), getF s (VTC_CSTAT_CORE core) ≠ csQUAR) ∧
    (∃ (c : Nat) (s : State), ((List.range 14).find? (fun k => getF s (VTC_CSTAT_CORE k) == csXTEST) = some c)) ∧
    (∃ (n : Fin 4) (retire : Nat) (s : State), s.triads.length = 4 ∧ tState s n = tsTMR ∧ ((triad s n).injHeld = true ∨ (triad s n).injAt + injPeriod s n ≤ freeCnt s)) ∧
    (∃ (n : Fin 4) (flagged : List (Fin 4)) (wrong : Option (Fin 5)) (checker : Option (Fin 5 × Fin 4)) (retire : Nat) (s : State), s.triads.length = 4 ∧ (tState s n = tsRESYNC ∨ tState s n = tsSUBST) ∧ (triad s n).injAt + injPeriod s n ≤ freeCnt s) :=
  ⟨⟨12, [13], st [(VTC_CSTAT_CORE 12, 1), (VTC_CSTAT_CORE 13, 1)], by decide +kernel⟩,
   ⟨12, [13], st [(VTC_CSTAT_CORE 12, 1), (VTC_CSTAT_CORE 13, 1)], by decide +kernel⟩,
   ⟨3, 13, st [(VTC_CSTAT_CORE 13, 3)], by decide +kernel⟩,
   ⟨.debugger, 12, State.reset, by decide +kernel⟩,
   ⟨13, st [(VTC_CSTAT_CORE 13, 4), (VTC_XTEST_BUSY, 1)], by decide +kernel⟩,
   ⟨2, 5, (modTriad (st [(VTC_TSTAT_STATE 2, 2), (VTC_TMAP_CA 2, 4), (VTC_TMAP_CB 2, 5), (VTC_TMAP_CC 2, 6), (MER_FREECNT_COUNT, 100000000)]) 2 fun x => { x with lastTag := x.lastTag }), by decide +kernel⟩,
   ⟨2, [], none, none, 5, (modTriad (st [(VTC_TSTAT_STATE 2, 3), (VTC_TMAP_CA 2, 4), (VTC_TMAP_CB 2, 5), (VTC_TMAP_CC 2, 6), (MER_FREECNT_COUNT, 100000000)]) 2 fun x => { x with lastTag := x.lastTag }), by decide +kernel⟩⟩

theorem witness_debug_sessions :
    (∃ (n : Fin 4) (rs : List (Nat × Word)) (k : List Byte) (s : State), getF s (VTC_DBG_MODE n) = 0 ∧ isAnchor s.upd.keys k = true) ∧
    (∃ (n : Fin 4) (rs : List (Nat × Word)) (k : List Byte) (s : State), s.triads.length = 4 ∧ getF s (VTC_DBG_MODE n) = 0 ∧ tState s n = tsHALTED ∧ isAnchor s.upd.keys k = true) ∧
    (∃ (n : Fin 4) (rs : List (Nat × Word)) (c : Cert) (k : List Byte) (s : State), isAnchor s.upd.keys k = false) ∧
    (∃ (n : Fin 4) (x : Nat) (s : State), getF s (VTC_DBG_MODE n) = 2 ∧ laneHalted s n = true) ∧
    (∃ (n : Fin 4) (x : Nat) (v : Word) (s : State), s.triads.length = 4 ∧ (triad s n).lanes.length = 3 ∧ getF s (VTC_DBG_MODE n) = 2 ∧ laneHalted s n = true ∧ readOnlyReg x = false) ∧
    (∃ (n : Fin 4) (s : State), s.triads.length = 4 ∧ getF s (VTC_DBG_MODE n) = 2 ∧ laneHalted s n = true) ∧
    (∃ (n : Fin 4) (p : Stop) (s : State), s.triads.length = 4 ∧ (triad s n).lanes.length = 3 ∧ getF s (VTC_DBG_MODE n) = 2 ∧ tState s n = tsDEBUG ∧ (triad s n).resumed = true) ∧
    (∃ (n : Fin 4) (x : Nat) (s : State), getF s (VTC_DBG_MODE n) = 2) ∧
    (∃ (n : Fin 4) (w : BitVec 32) (s : State), s.triads.length = 4 ∧ (triad s n).dm.data.length = 4 ∧ getF s (VTC_DBG_MODE n) = 2) ∧
    (∃ (n : Fin 4) (x : Nat) (s : State), getF s (VTC_DBG_MODE n) = 2 ∧ tState s n = tsDEBUG ∧ (triad s n).resumed = true) ∧
    (∃ (n : Fin 4) (op : DbgOp) (s : State), s.triads.length = 4 ∧ getF s (VTC_DBG_MODE n) = 1 ∧ maintainerMay op = true ∧ running s n = true ∧ (triad s n).maint.length < 16) ∧
    (∃ (n : Fin 4) (op : DbgOp) (s : State), getF s (VTC_DBG_MODE n) = 0) ∧
    (∃ (n : Fin 4) (p : Stop) (s : State), s.triads.length = 4 ∧ (triad s n).lanes.length = 3 ∧ getF s (VTC_DBG_MODE n) = 2 ∧ running s n = true ∧ (∀ p : Fin 3, getF s (VTC_CSTAT_CORE (coreAt s n p)) = csLANE ∧ coreAt s n p < 14) ∧ coreAt s n 1 ≠ coreAt s n 2) ∧
    (∃ (n : Fin 4) (s : State), getF s (VTC_DBG_MODE n) ≠ 0 ∧ tState s n = tsDEBUG ∧ (triad s n).dbgRun = false) ∧
    (∃ (n : Fin 4) (op : DbgOp) (retire : Nat) (s : State), s.triads.length = 4 ∧ getF s (VTC_DBG_MODE n) = 1 ∧ maintainerMay op = true ∧ running s n = true ∧ (triad s n).lastMaint = 0 ∧ (triad s n).maint = [] ∧ (triad s n).wfi = none) :=
  ⟨⟨2, [(5, 0x77), (0x305, 0x8000)], (demoKeys.drop 4).take 97, { State.reset with upd := { keys := [5] ++ demoKeys.drop 1 } }, by decide +kernel⟩,
   ⟨2, [(5, 0x77), (0x305, 0x8000)], (demoKeys.drop 4).take 97, { (modTriad (st [(VTC_TSTAT_STATE 2, 6)]) 2 fun x => { x with lastTag := x.lastTag }) with upd := { keys := [5] ++ demoKeys.drop 1 } }, by decide +kernel⟩,
   ⟨2, [(5, 0x77), (0x305, 0x8000)], .depot, [], State.reset, by decide +kernel⟩,
   ⟨2, 11, (modTriad (st [(VTC_TSTAT_STATE 2, 7), (VTC_DBG_MODE 2, 2)]) 2 fun x => { x with lanes := [[(11, 99)], [], []] }), by decide +kernel⟩,
   ⟨2, 0x1008, 77, (modTriad (st [(VTC_TSTAT_STATE 2, 7), (VTC_DBG_MODE 2, 2)]) 2 fun x => { x with lastTag := x.lastTag }), by decide⟩,
   ⟨2, (modTriad (st [(VTC_TSTAT_STATE 2, 7), (VTC_DBG_MODE 2, 2)]) 2 fun x => { x with lastTag := x.lastTag }), by decide +kernel⟩,
   ⟨2, ⟨0x4000, true, [(5, 9)]⟩, (modTriad (st [(VTC_TSTAT_STATE 2, 7), (VTC_DBG_MODE 2, 2)]) 2 fun x => { x with resumed := true }), by decide +kernel⟩,
   ⟨2, 0x11, (modTriad (st [(VTC_TSTAT_STATE 2, 7), (VTC_DBG_MODE 2, 2)]) 2 fun x => { x with lastTag := x.lastTag }), by decide +kernel⟩,
   ⟨2, 77, (modTriad (st [(VTC_TSTAT_STATE 2, 7), (VTC_DBG_MODE 2, 2)]) 2 fun x => { x with lastTag := x.lastTag }), by decide +kernel⟩,
   ⟨2, 11, (modTriad (st [(VTC_TSTAT_STATE 2, 7), (VTC_DBG_MODE 2, 2)]) 2 fun x => { x with resumed := true }), by decide +kernel⟩,
   ⟨2, .trace, (modTriad (st [(VTC_TSTAT_STATE 2, 2), (VTC_DBG_MODE 2, 1)]) 2 fun x => { x with lastTag := x.lastTag }), by decide +kernel⟩,
   ⟨2, .trace, State.reset, by decide +kernel⟩,
   ⟨2, ⟨0x4000, true, [(5, 9)]⟩, (modTriad (st [(VTC_TSTAT_STATE 2, 2), (VTC_TMAP_CA 2, 4), (VTC_TMAP_CB 2, 5), (VTC_TMAP_CC 2, 6), (VTC_DBG_MODE 2, 2)]) 2 fun x => { x with lastTag := x.lastTag }), by decide +kernel⟩,
   ⟨2, (modTriad (st [(VTC_TSTAT_STATE 2, 7), (VTC_DBG_MODE 2, 2)]) 2 fun x => { x with lastTag := x.lastTag }), by decide +kernel⟩,
   ⟨2, .readReg 3, 77, (modTriad (st [(VTC_TSTAT_STATE 2, 2), (VTC_DBG_MODE 2, 1)]) 2 fun x => { x with lastTag := x.lastTag }), by decide +kernel⟩⟩

theorem witness_time_sources :
    (∃ (src : Fin 4) (offset : Int) (s : State), src ≠ 0 ∧ mayQualify s src = true ∧ chooseSource (setFBit s MER_STAT_QUAL (src.val - 1) true) = getF s MER_STAT_SRC) ∧
    (∃ (src : Fin 4) (offset : Int) (s : State), src ≠ 0 ∧ mayQualify s src = true ∧ chooseSource (setFBit s MER_STAT_QUAL (src.val - 1) true) = src.val ∧ getF s MER_STAT_SRC ≠ src.val ∧ getF s MER_STAT_STATE = 1 ∧ s.mer.due = [] ∧ s.mer.offs.length = 3 ∧ offset ≠ 0 ∧ 1 ≤ liveF s MER_CTRL_SLEWMAX ∧ offset.natAbs ≤ liveF s MER_CTRL_SLEWMAX * 64000) ∧
    (∃ (src : Fin 4) (offset : Int) (s : State), src ≠ 0 ∧ mayQualify s src = true ∧ chooseSource (setFBit s MER_STAT_QUAL (src.val - 1) true) = src.val ∧ getF s MER_STAT_SRC ≠ src.val ∧ s.mer.offs.length = 3 ∧ (getF s MER_STAT_STATE = 0 ∨ getF s MER_STAT_STATE = 3 ∨ liveF s MER_CTRL_SLEWMAX * 64000 < offset.natAbs)) ∧
    (∃ (src : Fin 4) (s : State), src ≠ 0 ∧ mayQualify s src = false ∧ s.mer.due = [] ∧ chooseSource (setFBit s MER_STAT_QUAL (src.val - 1) false) = 0 ∧ getF s MER_STAT_SRC ≠ 0 ∧ getF s MER_STAT_STATE = 1) ∧
    (∃ (s : State), getF s MER_STAT_STATE = 2 ∧ drLim s * 1000000000 ≤ drTime s) ∧
    (∃ (s : State), s.mer.slewLeft = 0) ∧
    (∃ (s : State), s.mer.slewLeft ≠ 0) :=
  ⟨⟨2, -55, lv (st [(MER_STAT_SRC, 1), (MER_STAT_QUAL, 1), (MER_STAT_STATE, 1), (BKB_ASSTAT_QUAL, 1)]) [(MER_CTRL_SRC0, 1), (MER_CTRL_SRC1, 2)], by decide +kernel⟩,
   ⟨1, -55, lv (st [(MER_STAT_SRC, 2), (MER_STAT_QUAL, 2), (MER_STAT_STATE, 1), (RHL_STAT_STATE, 4)]) [(MER_CTRL_SRC0, 1), (MER_CTRL_SRC1, 2), (MER_CTRL_SLEWMAX, 1)], by decide +kernel⟩,
   ⟨1, -55, lv (st [(RHL_STAT_STATE, 4)]) [(MER_CTRL_SRC0, 1)], by decide +kernel⟩,
   ⟨1, lv (st [(MER_STAT_SRC, 1), (MER_STAT_QUAL, 1), (MER_STAT_STATE, 1)]) [(MER_CTRL_SRC0, 1), (MER_CTRL_SRC1, 2)], by decide +kernel⟩,
   ⟨st [(MER_STAT_STATE, 2), (MER_STAT_DRLEFT, 4), (MER_FREECNT_COUNT, 120000000000)], by decide +kernel⟩,
   ⟨{ (st [(MER_STAT_SLEW, 1)]) with mer := { t := 5000000000 } }, by decide +kernel⟩,
   ⟨{ (st [(MER_STAT_SLEW, 1)]) with mer := { t := 5000000000, slewLeft := -77 } }, by decide +kernel⟩⟩

theorem witness_time_steps :
    (∃ (r : Req) (val : Word) (s : State), (999999999 < bits val.toNat 0 30 ∨ getF s MER_STAT_STATE = 0 ∨ (getF s MER_STAT_STATE = 1 ∧ onF s RHL_CTRL_EN = false))) ∧
    (∃ (r : Req) (val : Word) (s : State), bits val.toNat 0 30 ≤ 999999999 ∧ 2 ≤ getF s MER_STAT_STATE) ∧
    (∃ (r : Req) (val : Word) (s : State), bits val.toNat 0 30 ≤ 999999999 ∧ getF s MER_STAT_STATE = 1 ∧ onF s RHL_CTRL_EN = true) ∧
    (∃ (s : State) (z : Int), s.pending = [] ∧ s.mer.due = [.soft z] ∧ s.mer.slewLeft = 0 ∧ s.mer.corr = 0 ∧ s.mer.corr2 = 0) :=
  ⟨⟨.debugger, 5, State.reset, by decide +kernel⟩,
   ⟨.debugger, 0x8000000000000007, { (st [(MER_STAT_STATE, 2)]) with mer := { t := 5000000000000 } }, by decide +kernel⟩,
   ⟨.debugger, 5, st [(MER_STAT_STATE, 1), (RHL_CTRL_EN, 1)], by decide +kernel⟩,
   ⟨{ State.reset with mer := { due := [.soft (-7)] } }, -7, by decide +kernel⟩⟩

theorem witness_cycles_and_alarms :
    (∃ (s : State), cycleOver s = true) ∧
    (∃ (s : State), cycleOver s = false) ∧
    (∃ (s : State), cycleOver s = true ∧ s.mer.t < timeMod ∧ s.mer.cycBase < timeMod ∧ pointsDue (16 * s.mer.cycLen) s = [] ∧ asleep s 6 = true ∧ asleep s 8 = true ∧ asleep s 0xC = true ∧ (∀ g : Fin 256, kindOf s g ≠ 2 ∧ kindOf s g ≠ 4) ∧ s.upd.pend = [] ∧ onF s SYS_PWRSTAT_VREADY = true ∧ s.pendL = [] ∧ chooseSource s = getF s MER_STAT_SRC ∧ drOver s = false ∧ ((∀ p < 18, getF s (RHL_PSTAT_STATE p) ≠ 1))) ∧
    (∃ (k : Fin 16) (s : State), pointUsed s k = true ∧ s.mer.fired.contains k.val = false ∧ liveF s (MER_CP_OFFSET k) ≤ cycOffset s) ∧
    (∃ (k : Fin 16) (s : State), (pointUsed s k = false ∨ cycOffset s < liveF s (MER_CP_OFFSET k))) ∧
    (∃ (k : Fin 16) (s : State), pointUsed s k = true ∧ s.mer.fired.contains k.val = false ∧ liveF s (MER_CP_OFFSET k) ≤ cycOffset s ∧ pointsDue (pointKey s k) s = [pointKey s k] ∧ liveF s (MER_CP_EIID k) = 0 ∧ role s ≠ rolePRIMARY) ∧
    (∃ (k : Fin 16) (p : Nat) (s : State), pointUsed s k = true ∧ s.mer.fired.contains k.val = false ∧ liveF s (MER_CP_OFFSET k) ≤ cycOffset s ∧ 1 ≤ liveF s (MER_CP_EIID k) ∧ liveF s (MER_CP_EIID k) ≤ 255 ∧ filePage (liveF s (MER_CP_HART k)) (liveF s (MER_CP_LEVEL k)) (liveF s (MER_CP_GUEST k)) = some p ∧ pointsDue (pointKey s k) s = [pointKey s k] ∧ onF s (SYS_ISL_QUIESCE 7) = false ∧ CrossOpen s (fileIsland p) 3 (fileIsland p) ∧ role s ≠ rolePRIMARY) ∧
    (∃ (k : Fin 16) (s : State), s.mer.fired.contains k.val = true) ∧
    (∃ (k : Fin 8) (s : State), onF s (MER_ALMC_ARM k) = true ∧ alarmNs s k ≤ nowNs s) ∧
    (∃ (k : Fin 8) (p : Nat) (s : State), onF s (MER_ALMC_ARM k) = true ∧ alarmNs s k ≤ nowNs s ∧ 1 ≤ getF s (MER_ALMC_EIID k) ∧ getF s (MER_ALMC_EIID k) ≤ 255 ∧ filePage (getF s (MER_ALMC_HART k)) (getF s (MER_ALMC_LEVEL k)) (getF s (MER_ALMC_GUEST k)) = some p ∧ onF s (SYS_ISL_QUIESCE 7) = false ∧ CrossOpen s (fileIsland p) 3 (fileIsland p)) ∧
    (∃ (k : Fin 8) (s : State), (onF s (MER_ALMC_ARM k) = false ∨ nowNs s < alarmNs s k)) ∧
    (∃ (r : Req) (k : Fin 8) (val : Word) (s : State), bit val.toNat 17 = false ∧ bit val.toNat 18 = false ∧ bit val.toNat 16 = true ∧ nowNs s ≤ (bits val.toNat 0 16 * 2 ^ 32 + getF s (MER_ALMT_SECLO k)) * 1000000000 + getF s (MER_ALMT_NS k)) :=
  ⟨⟨{ State.reset with mer := { t := 9000000 * nsU } }, by decide +kernel⟩,
   ⟨State.reset, by decide +kernel⟩,
   ⟨{ st [(SYS_ISL_SHED 6, 1), (SYS_ISL_SHED 8, 1), (SYS_ISL_SHED 0xC, 1), (SYS_PWRSTAT_VREADY, 1), (LOG_CTRL_EN, 0)] with onceCycle := [5], mer := { t := 9000000 * nsU } }, by decide +kernel⟩,
   ⟨3, { (lv State.reset [(MER_CP_EN 2, 1), (MER_CP_OFFSET 2, 10), (MER_CP_EN 3, 1), (MER_CP_OFFSET 3, 10), (MER_CP_EIID 3, 40), (MER_CP_HART 3, 18)]) with mer := { t := 20 * nsU } }, by decide +kernel⟩,
   ⟨3, State.reset, by decide +kernel⟩,
   ⟨3, { (lv State.reset [(MER_CP_EN 3, 1), (MER_CP_OFFSET 3, 10)]) with mer := { t := 20 * nsU } }, by decide +kernel⟩,
   ⟨3, 0x2080012000, { (lv State.reset [(MER_CP_EN 3, 1), (MER_CP_OFFSET 3, 10), (MER_CP_EIID 3, 40), (MER_CP_HART 3, 18)]) with mer := { t := 20 * nsU } }, by decide +kernel⟩,
   ⟨3, { State.reset with mer := { fired := [3] } }, by decide +kernel⟩,
   ⟨3, { st [(MER_ALMC_ARM 3, 1)] with mer := { t := 20 * nsU } }, by decide +kernel⟩,
   ⟨3, 0x2080012000, { st [(MER_ALMC_ARM 3, 1), (MER_ALMC_EIID 3, 40), (MER_ALMC_HART 3, 18), (MER_ALMT_NS 3, 3)] with mer := { t := 20 * nsU } }, by decide +kernel⟩,
   ⟨3, st [(MER_ALMC_ARM 3, 1), (MER_ALMC_EIID 3, 40), (MER_ALMC_HART 3, 18), (MER_ALMT_NS 3, 3)], by decide +kernel⟩,
   ⟨.debugger, 3, 0x0000101228010000, st [(MER_ALMT_NS 3, 3)], by decide +kernel⟩⟩

theorem witness_star_forwards :
    (∃ (n : Fin 18) (sof : Nat) (f : List Byte) (e : SEntry) (i : Nat) (s : State), Runs s 8 ∧ (getF s (RHL_PSTAT_STATE n) = 1 ∨ getF s (RHL_PSTAT_STATE n) = 3) ∧ s.rhl.windows = true ∧ ((portEntries s n).find? (fun x => decide ((devOf s sof x.1).natAbs ≤ 64 * winOf s)) = some (e, i)) ∧ (ecyc s i).fwd = false ∧ headerOk s e f = true ∧ clashPorts s n i e = []) ∧
    (∃ (n : Fin 18) (sof : Nat) (f : List Byte) (s : State), Runs s 8 ∧ (getF s (RHL_PSTAT_STATE n) = 1 ∨ getF s (RHL_PSTAT_STATE n) = 3) ∧ s.rhl.windows = true ∧ ((portEntries s n).find? (fun x => decide ((devOf s sof x.1).natAbs ≤ 64 * winOf s)) = none)) ∧
    (∃ (n : Fin 18) (sof : Nat) (f : List Byte) (s : State), Runs s 8 ∧ (getF s (RHL_PSTAT_STATE n) = 0 ∨ getF s (RHL_PSTAT_STATE n) = 2)) ∧
    (∃ (n : Fin 18) (x : Fly) (q : Nat) (e : SEntry) (s : State), Runs s 8 ∧ s.rhl.fly = [x] ∧ x.port = n ∧ x.egress = [q] ∧ x.cutLen = false ∧ (entries s)[x.entry]? = some e ∧ e.maxlen < x.frame.length ∧ min x.frame.length e.maxlen ≤ winLimit s x q) ∧
    (∃ (n : Fin 18) (win : Bool) (s : State), Runs s 8 ∧ ((s.rhl.fly.find? fun x => x.port == n.val) = none)) :=
  ⟨⟨3, 64050, ((List.replicate 12 0) ++ [0x88, 0xB5, 1, 0, 7, 0, 5, 0, 0, 0] ++ List.replicate 24 0), ⟨1000, 7, 3, 0, 0x10060, 200, 0⟩, 0, { (st [(RHL_PSTAT_STATE 3, 1), (RHL_PSTAT_STATE 5, 1), (RHL_PSTAT_STATE 6, 1), (RHL_PSTAT_STATE 4, 1)]) with rhl := { buf0 := some ⟨8, 100, [⟨1000, 7, 3, 0, 0x10060, 200, 0⟩, ⟨5000, 9, 16, 4, 0x60, 200, 11⟩, ⟨9000, 10, 16, 3, 0x60, 200, 0⟩, ⟨20000, 11, 4, 3, 0x60, 200, 0⟩]⟩, active := some 0, windows := true, cycle := 5 } }, by decide +kernel⟩,
   ⟨3, 640500, ((List.replicate 12 0) ++ [0x88, 0xB5, 1, 0, 7, 0, 5, 0, 0, 0] ++ List.replicate 24 0), { (st [(RHL_PSTAT_STATE 3, 1), (RHL_PSTAT_STATE 5, 1), (RHL_PSTAT_STATE 6, 1), (RHL_PSTAT_STATE 4, 1)]) with rhl := { buf0 := some ⟨8, 100, [⟨1000, 7, 3, 0, 0x10060, 200, 0⟩, ⟨5000, 9, 16, 4, 0x60, 200, 11⟩, ⟨9000, 10, 16, 3, 0x60, 200, 0⟩, ⟨20000, 11, 4, 3, 0x60, 200, 0⟩]⟩, active := some 0, windows := true, cycle := 5 } }, by decide +kernel⟩,
   ⟨3, 640500, ((List.replicate 12 0) ++ [0x88, 0xB5, 1, 0, 7, 0, 5, 0, 0, 0] ++ List.replicate 24 0), st [(RHL_PSTAT_STATE 3, 2)], by decide +kernel⟩,
   ⟨3, { port := 3, entry := 0, sof := 64000, frame := List.replicate 300 0, egress := [5] }, 5, ⟨1000, 7, 3, 0, 0x10060, 200, 0⟩, { (st [(RHL_PSTAT_STATE 3, 1), (RHL_PSTAT_STATE 5, 1), (RHL_PSTAT_STATE 6, 1), (RHL_PSTAT_STATE 4, 1)]) with rhl := { buf0 := some ⟨8, 100, [⟨1000, 7, 3, 0, 0x10060, 200, 0⟩, ⟨5000, 9, 16, 4, 0x60, 200, 11⟩, ⟨9000, 10, 16, 3, 0x60, 200, 0⟩, ⟨20000, 11, 4, 3, 0x60, 200, 0⟩]⟩, active := some 0, windows := true, cycle := 5, fly := [{ port := 3, entry := 0, sof := 64000, frame := List.replicate 300 0, egress := [5] }] } }, by decide +kernel⟩,
   ⟨3, true, State.reset, by decide +kernel⟩⟩

theorem witness_star_ports :
    (∃ (r : Req) (n : Fin 18) (s : State), Ready s 8 ∧ getF s (RHL_PSTAT_STATE n) = 0) ∧
    (∃ (r : Req) (n : Fin 18) (s : State), Ready s 8) ∧
    (∃ (r : Req) (n : Fin 18) (s : State), Ready s 8 ∧ getF s (RHL_PSTAT_STATE n) ≠ 0) ∧
    (∃ (r : Req) (n : Fin 18) (s : State), Ready s 8 ∧ getF s (RHL_PSTAT_STATE n) = 0) ∧
    (∃ (r : Req) (n : Fin 18) (s : State), Ready s 8 ∧ getF s (RHL_PSTAT_STATE n) = 3 ∧ RoomFor s (guardLoc n).isl) ∧
    (∃ (n : Fin 18) (s : State), Runs s 8 ∧ getF s (RHL_PSTAT_STATE n) = 3 ∧ getF s (RHL_PSTAT_REMAIN n) = 1) ∧
    (∃ (r : Req) (n : Fin 18) (s : State), Ready s 8 ∧ 2 ≤ getF s (RHL_PSTAT_STATE n) ∧ getF s (RHL_PSTAT_STATE n) ≠ 3) ∧
    (∃ (r : Req) (n : Fin 18) (s : State), Ready s 8 ∧ getF s (RHL_PSTAT_STATE n) < 2) ∧
    (∃ (n : Fin 18) (s : State), Runs s 8 ∧ 2 ≤ getF s (RHL_PSTAT_STATE n) ∧ 2 ≤ getF s (RHL_PSTAT_REMAIN n)) ∧
    (∃ (n : Fin 18) (s : State), Runs s 8 ∧ getF s (RHL_PSTAT_STATE n) = 2 ∧ getF s (RHL_PSTAT_REMAIN n) = 1) ∧
    (∃ (n : Fin 18) (s : State), Runs s 8 ∧ getF s (RHL_PSTAT_STATE n) < 2) :=
  ⟨⟨.debugger, 3, State.reset, by decide +kernel⟩,
   ⟨.debugger, 3, st [(RHL_PCTRL_EN 3, 1), (RHL_PSTAT_STATE 3, 3)], by decide +kernel⟩,
   ⟨.debugger, 3, st [(RHL_PSTAT_STATE 3, 1)], by decide +kernel⟩,
   ⟨.debugger, 3, State.reset, by decide +kernel⟩,
   ⟨.debugger, 3, st [(RHL_PSTAT_STATE 3, 3), (RHL_PSTAT_VIOL 3, 5)], by decide +kernel⟩,
   ⟨3, st [(RHL_PSTAT_STATE 3, 3), (RHL_PSTAT_REMAIN 3, 1)], by decide +kernel⟩,
   ⟨.debugger, 3, st [(RHL_PSTAT_STATE 3, 2), (RHL_PSTAT_VIOL 3, 5)], by decide +kernel⟩,
   ⟨.debugger, 3, State.reset, by decide +kernel⟩,
   ⟨3, st [(RHL_PSTAT_STATE 3, 2), (RHL_PSTAT_REMAIN 3, 500)], by decide +kernel⟩,
   ⟨3, st [(RHL_PSTAT_STATE 3, 2), (RHL_PSTAT_REMAIN 3, 1)], by decide +kernel⟩,
   ⟨3, State.reset, by decide +kernel⟩⟩

theorem witness_own_node :
    (∃ (chan : Bool) (sof : Nat) (f : List Byte) (s : State), Runs s 8 ∧ (getF s RHL_STAT_STATE < 2 ∨ fcsGood f = false)) ∧
    (∃ (chan : Bool) (sof : Nat) (f : List Byte) (e : SEntry) (i : Nat) (s : State), Runs s 8 ∧ 2 ≤ getF s RHL_STAT_STATE ∧ fcsGood f = true ∧ (((entries s).zipIdx.find? fun x => x.1.frameid == fId f) = some (e, i)) ∧ (bit e.outmask (if chan then 17 else 16) = true) ∧ headerOk s e f = true ∧ epochOld (fEpoch f) (kget 0 s.rhl.lastEp (epKey s i)) = false ∧ (ecyc s i).rx = false ∧ eMapv e = false ∧ firstPosted s 0x501 = none ∧ (((List.range 256).filter fun c => tunencFor s c 1 && bits (fc2 s c) 16 15 == i) = [])) ∧
    (∃ (e : Nat) (s : State), Runs s 8 ∧ ((s.rhl.prev.find? fun p => p.entry == e) = none) ∧ s.rhl.windows = true ∧ s.rhl.statDone.contains e = false ∧ e < (entries s).length) ∧
    (∃ (e : Nat) (x : SEntry) (o : Option (List Byte)) (s : State), Runs s 8 ∧ (entries s)[e]? = some x ∧ x.inport = 16 ∧ eMapv x = true ∧ mayPack s x = true ∧ CrossOpen s 13 8 6 ∧ CrossOpen s 14 6 8 ∧ (packMap x.mapid s).2 = o) ∧
    (∃ (e : Nat) (x : SEntry) (j : Nat) (c : Nat) (a : Nat) (p : List Byte) (s : State), Runs s 8 ∧ (entries s)[e]? = some x ∧ x.inport = 16 ∧ (ecyc s e).slot = false ∧ mayTransmit s = true ∧ ownSilent s = false ∧ eMapv x = true ∧ ((s.rhl.packed.find? fun y => y.1 == e && y.2.1 == s.rhl.cycle && inTime s y.2.2.1) = some (j, c, a, p))) ∧
    (∃ (e : Nat) (x : SEntry) (s : State), Runs s 8 ∧ (entries s)[e]? = some x ∧ x.inport = 16 ∧ (ecyc s e).slot = false ∧ mayTransmit s = true ∧ ownSilent s = false ∧ eMapv x = true ∧ ((s.rhl.packed.find? fun y => y.1 == e && y.2.1 == s.rhl.cycle && inTime s y.2.2.1) = none)) ∧
    (∃ (o : QOp) (s : State), Runs s 8 ∧ firstPosted s 0x500 = none ∧ freshOpc s 0x500 1 = some o ∧ o.epoch = getF s (QEPOCH_EPOCH 0x500) ∧ (leAt (opDesc s o) 6 2 < 60 ∨ 1514 < leAt (opDesc s o) 6 2)) ∧
    (∃ (o : QOp) (e : SEntry) (s : State), Runs s 8 ∧ firstPosted s 0x500 = none ∧ freshOpc s 0x500 1 = some o ∧ o.epoch = getF s (QEPOCH_EPOCH 0x500) ∧ 60 ≤ leAt (opDesc s o) 6 2 ∧ leAt (opDesc s o) 6 2 ≤ 1514 ∧ (entries s)[leAt (opDesc s o) 4 2]? = some e ∧ e.inport = 16 ∧ eMapv e = false ∧ engineMay s 0x500 (dAddr (opDesc s o) 8) (leAt (opDesc s o) 6 2) false = true ∧ slotPassed s e o = false) ∧
    (∃ (o : QOp) (s : State), Runs s 8 ∧ freshOpc s 0x501 2 = some o ∧ o.epoch = getF s (QEPOCH_EPOCH 0x501) ∧ leAt (opDesc s o) 4 4 < 1514) ∧
    (∃ (o : QOp) (s : State), Runs s 8 ∧ freshOpc s 0x501 2 = some o ∧ o.epoch = getF s (QEPOCH_EPOCH 0x501) ∧ 1514 ≤ leAt (opDesc s o) 4 4 ∧ engineMay s 0x501 (dAddr (opDesc s o) 8) (leAt (opDesc s o) 4 4) true = true) ∧
    (∃ (s : State), Runs s 8 ∧ firstPosted s 0x500 = none ∧ freshOpc s 0x500 1 = none) ∧
    (∃ (s : State), Runs s 8 ∧ freshOpc s 0x501 2 = none) :=
  ⟨⟨true, 7, [], State.reset, by decide +kernel⟩,
   ⟨false, 7, (withFcs ((List.replicate 12 0) ++ [0x88, 0xB5, 1, 0, 7, 0, 5, 0, 0, 0, 1] ++ List.replicate 23 0)), ⟨1000, 7, 3, 0, 0x10060, 200, 0⟩, 0, { (st [(RHL_STAT_STATE, 4)]) with rhl := { buf0 := some ⟨8, 100, [⟨1000, 7, 3, 0, 0x10060, 200, 0⟩, ⟨5000, 9, 16, 4, 0x60, 200, 11⟩, ⟨9000, 10, 16, 3, 0x60, 200, 0⟩, ⟨20000, 11, 4, 3, 0x60, 200, 0⟩]⟩, active := some 0, windows := true, cycle := 5 } }, by decide +kernel⟩,
   ⟨1, { (st []) with rhl := { buf0 := some ⟨8, 100, [⟨1000, 7, 3, 0, 0x10060, 200, 0⟩, ⟨5000, 9, 16, 4, 0x60, 200, 11⟩, ⟨9000, 10, 16, 3, 0x60, 200, 0⟩, ⟨20000, 11, 4, 3, 0x60, 200, 0⟩]⟩, active := some 0, windows := true } }, by decide +kernel⟩,
   ⟨1, ⟨5000, 9, 16, 4, 0x60, 200, 11⟩, none, { (st [(RHL_STAT_STATE, 4)]) with rhl := { buf0 := some ⟨8, 100, [⟨1000, 7, 3, 0, 0x10060, 200, 0⟩, ⟨5000, 9, 16, 4, 0x60, 200, 11⟩, ⟨9000, 10, 16, 3, 0x60, 200, 0⟩, ⟨20000, 11, 4, 3, 0x60, 200, 0⟩]⟩, active := some 0, packed := [(1, 0, 5, [7]), (2, 0, 5, [8])] } }, by decide +kernel⟩,
   ⟨1, ⟨5000, 9, 16, 4, 0x60, 200, 11⟩, 1, 0, 0, [9, 9], { (st [(RHL_STAT_STATE, 4), (PRL_STAT_LINK, 2), (MER_FREECNT_COUNT, 1000)]) with rhl := { buf0 := some ⟨8, 100, [⟨1000, 7, 3, 0, 0x10060, 200, 0⟩, ⟨5000, 9, 16, 4, 0x60, 200, 11⟩, ⟨9000, 10, 16, 3, 0x60, 200, 0⟩, ⟨20000, 11, 4, 3, 0x60, 200, 0⟩]⟩, active := some 0, packed := [(1, 0, 0, [9, 9])] } }, by decide +kernel⟩,
   ⟨1, ⟨5000, 9, 16, 4, 0x60, 200, 11⟩, { (st [(RHL_STAT_STATE, 4)]) with rhl := { buf0 := some ⟨8, 100, [⟨1000, 7, 3, 0, 0x10060, 200, 0⟩, ⟨5000, 9, 16, 4, 0x60, 200, 11⟩, ⟨9000, 10, 16, 3, 0x60, 200, 0⟩, ⟨20000, 11, 4, 3, 0x60, 200, 0⟩]⟩, active := some 0 } }, by decide +kernel⟩,
   ⟨{ q := 0x500, idx := 0, n := 1, opc := 1, started := false, epoch := 1 }, { st [(QBASE_BASE 0x500, 0x1000), (QSIZE_ENTRIES 0x500, 16), (QCTRL_EN 0x500, 1)] with qops := [{ q := 0x500, idx := 0, n := 1, opc := 1, started := false, epoch := 1 }] }, by decide +kernel⟩,
   ⟨{ q := 0x500, idx := 0, n := 1, opc := 1, started := false, epoch := 1 }, ⟨9000, 10, 16, 3, 0x60, 200, 0⟩, putBytesSt ({ { st [(QBASE_BASE 0x500, 0x1000), (QSIZE_ENTRIES 0x500, 16), (QCTRL_EN 0x500, 1)] with qops := [{ q := 0x500, idx := 0, n := 1, opc := 1, started := false, epoch := 1 }] } with rhl := { buf0 := some ⟨8, 100, [⟨1000, 7, 3, 0, 0x10060, 200, 0⟩, ⟨5000, 9, 16, 4, 0x60, 200, 11⟩, ⟨9000, 10, 16, 3, 0x60, 200, 0⟩, ⟨20000, 11, 4, 3, 0x60, 200, 0⟩]⟩, active := some 0, cycle := 5 } }) 128 ([1, 0x80, 1, 0, 2, 0, 100, 0, 0, 0x20, 0, 0, 0, 0, 0, 0, 6, 0, 0, 0] ++ List.replicate 12 0), by decide +kernel⟩,
   ⟨{ q := 0x501, idx := 0, n := 1, opc := 2, started := false, epoch := 1 }, { st [(QBASE_BASE 0x501, 0x1000), (QSIZE_ENTRIES 0x501, 16), (QCTRL_EN 0x501, 1)] with qops := [{ q := 0x501, idx := 0, n := 1, opc := 2, started := false, epoch := 1 }] }, by decide +kernel⟩,
   ⟨{ q := 0x501, idx := 0, n := 1, opc := 2, started := false, epoch := 1 }, putBytesSt ({ st [(QBASE_BASE 0x501, 0x1000), (QSIZE_ENTRIES 0x501, 16), (QCTRL_EN 0x501, 1)] with qops := [{ q := 0x501, idx := 0, n := 1, opc := 2, started := false, epoch := 1 }] }) 128 ([2, 0x80, 1, 0] ++ toLE 4 2000 ++ [0, 0x20] ++ List.replicate 22 0), by decide +kernel⟩,
   ⟨State.reset, by decide +kernel⟩,
   ⟨State.reset, by decide +kernel⟩⟩

theorem witness_schedules :
    (∃ (r : Req) (src : BitVec 40) (buf : Bool) (s : State), Ready s 8 ∧ onF s RHL_SCHSTAT_BUSY = false ∧ s.rhl.active ≠ some (b2n buf)) ∧
    (∃ (r : Req) (src : BitVec 40) (buf : Bool) (s : State), Ready s 8 ∧ onF s RHL_SCHSTAT_BUSY = false ∧ s.rhl.active = some (b2n buf)) ∧
    (∃ (src : Nat) (b : Nat) (c : Sched) (s : State), Runs s 8 ∧ s.rhl.load = some (src, b) ∧ b < 2 ∧ ((match checkImage s src with | .ok x => decide (x = c) | .error _ => false) = true)) ∧
    (∃ (src : Nat) (b : Nat) (c : Nat) (i : Nat) (s : State), Runs s 8 ∧ s.rhl.load = some (src, b) ∧ ((match checkImage s src with | .ok _ => false | .error e => e == (c, i)) = true)) ∧
    (∃ (r : Req) (cyc : BitVec 32) (s : State), Ready s 8 ∧ 1 ≤ (cyc.toNat + 2 ^ 32 - s.rhl.cycle % 2 ^ 32) % 2 ^ 32 ∧ (cyc.toNat + 2 ^ 32 - s.rhl.cycle % 2 ^ 32) % 2 ^ 32 < 2 ^ 31) ∧
    (∃ (r : Req) (cyc : BitVec 32) (s : State), Ready s 8 ∧ ((cyc.toNat + 2 ^ 32 - s.rhl.cycle % 2 ^ 32) % 2 ^ 32 = 0 ∨ 2 ^ 31 ≤ (cyc.toNat + 2 ^ 32 - s.rhl.cycle % 2 ^ 32) % 2 ^ 32)) ∧
    (∃ (c : Sched) (s : State), Runs s 8 ∧ onF s RHL_SCHSW_PEND = true ∧ s.rhl.cycle % 2 ^ 32 = s.rhl.swCyc ∧ onF s RHL_SCHSTAT_SHREADY = true ∧ s.rhl.active = some 0 ∧ s.rhl.buf1 = some c) ∧
    (∃ (s : State), Runs s 8 ∧ onF s RHL_SCHSW_PEND = true ∧ s.rhl.cycle % 2 ^ 32 = s.rhl.swCyc ∧ onF s RHL_SCHSTAT_SHREADY = false) ∧
    (∃ (s : State), Runs s 8 ∧ onF s RHL_SCHSW_PEND = false) :=
  ⟨⟨.debugger, 0x4000, true, { (st []) with rhl := { buf0 := some ⟨8, 100, [⟨1000, 7, 3, 0, 0x10060, 200, 0⟩, ⟨5000, 9, 16, 4, 0x60, 200, 11⟩, ⟨9000, 10, 16, 3, 0x60, 200, 0⟩, ⟨20000, 11, 4, 3, 0x60, 200, 0⟩]⟩, active := some 0 } }, by decide +kernel⟩,
   ⟨.debugger, 0x4000, false, { (st []) with rhl := { buf0 := some ⟨8, 100, [⟨1000, 7, 3, 0, 0x10060, 200, 0⟩, ⟨5000, 9, 16, 4, 0x60, 200, 11⟩, ⟨9000, 10, 16, 3, 0x60, 200, 0⟩, ⟨20000, 11, 4, 3, 0x60, 200, 0⟩]⟩, active := some 0 } }, by decide +kernel⟩,
   ⟨0x4000, 1, ⟨8, 100, [⟨1000, 7, 3, 0, 0x60, 200, 0⟩]⟩, putBytesSt ({ (st []) with rhl := { buf0 := some ⟨8, 100, [⟨1000, 7, 3, 0, 0x10060, 200, 0⟩, ⟨5000, 9, 16, 4, 0x60, 200, 11⟩, ⟨9000, 10, 16, 3, 0x60, 200, 0⟩, ⟨20000, 11, 4, 3, 0x60, 200, 0⟩]⟩, active := some 0, load := some (0x4000, 1) } }) 512 (toLE 4 0x4C485352 ++ toLE 2 1 ++ toLE 2 8 ++ toLE 4 1 ++ toLE 2 100 ++ List.replicate 50 0 ++ toLE 4 1000 ++ toLE 2 7 ++ [3, 0] ++ toLE 3 0x60 ++ [0] ++ toLE 2 200 ++ List.replicate 18 0), by decide +kernel⟩,
   ⟨0x4001, 1, 1, 0, { (st []) with rhl := { buf0 := some ⟨8, 100, [⟨1000, 7, 3, 0, 0x10060, 200, 0⟩, ⟨5000, 9, 16, 4, 0x60, 200, 11⟩, ⟨9000, 10, 16, 3, 0x60, 200, 0⟩, ⟨20000, 11, 4, 3, 0x60, 200, 0⟩]⟩, active := some 0, load := some (0x4001, 1) } }, by decide +kernel⟩,
   ⟨.debugger, 3, { (st []) with rhl := { buf0 := some ⟨8, 100, [⟨1000, 7, 3, 0, 0x10060, 200, 0⟩, ⟨5000, 9, 16, 4, 0x60, 200, 11⟩, ⟨9000, 10, 16, 3, 0x60, 200, 0⟩, ⟨20000, 11, 4, 3, 0x60, 200, 0⟩]⟩, active := some 0, cycle := 0xFFFFFFFE } }, by decide +kernel⟩,
   ⟨.debugger, 5, { (st []) with rhl := { buf0 := some ⟨8, 100, [⟨1000, 7, 3, 0, 0x10060, 200, 0⟩, ⟨5000, 9, 16, 4, 0x60, 200, 11⟩, ⟨9000, 10, 16, 3, 0x60, 200, 0⟩, ⟨20000, 11, 4, 3, 0x60, 200, 0⟩]⟩, active := some 0, cycle := 5 } }, by decide +kernel⟩,
   ⟨⟨16, 50, []⟩, { (st [(RHL_SCHSW_PEND, 1), (RHL_SCHSTAT_SHREADY, 1)]) with rhl := { buf0 := some ⟨8, 100, [⟨1000, 7, 3, 0, 0x10060, 200, 0⟩, ⟨5000, 9, 16, 4, 0x60, 200, 11⟩, ⟨9000, 10, 16, 3, 0x60, 200, 0⟩, ⟨20000, 11, 4, 3, 0x60, 200, 0⟩]⟩, active := some 0, buf1 := some ⟨16, 50, []⟩ } }, by decide +kernel⟩,
   ⟨{ (st [(RHL_SCHSW_PEND, 1)]) with rhl := { buf0 := some ⟨8, 100, [⟨1000, 7, 3, 0, 0x10060, 200, 0⟩, ⟨5000, 9, 16, 4, 0x60, 200, 11⟩, ⟨9000, 10, 16, 3, 0x60, 200, 0⟩, ⟨20000, 11, 4, 3, 0x60, 200, 0⟩]⟩, active := some 0 } }, by decide +kernel⟩,
   ⟨State.reset, by decide +kernel⟩⟩

theorem witness_rhumbline_states :
    (∃ (r : Req) (b : Nat) (s : State), Ready s 8 ∧ onF s RHL_CTRL_EN = false ∧ s.rhl.active = some b ∧ getF s RHL_STAT_STATE = 0) ∧
    (∃ (r : Req) (s : State), Ready s 8 ∧ onF s RHL_CTRL_EN = false ∧ s.rhl.active = none ∧ onF s RHL_SCHSTAT_SHREADY = false) ∧
    (∃ (r : Req) (s : State), Ready s 8 ∧ onF s RHL_CTRL_EN = true) ∧
    (∃ (e : SEntry) (i : Nat) (s : State), Runs s 8 ∧ getF s RHL_STAT_STATE = 1 ∧ ltOver s s.rhl.ltStart = true ∧ ownSilent s = false ∧ s.rhl.heardCold = false ∧ (((inportEntries s 16).find? fun x => eCold x.1) = some (e, i)) ∧ onF s RHL_CTRL_CSCAP = true) ∧
    (∃ (s : State), Runs s 8 ∧ (getF s RHL_STAT_STATE ≠ 1 ∨ ltOver s s.rhl.ltStart = false)) ∧
    (∃ (n : Fin 18) (sof : Nat) (f : List Byte) (e : SEntry) (i : Nat) (s : State), Runs s 8 ∧ getF s RHL_STAT_STATE = 1 ∧ mayCold s = true ∧ collOpen s sof = false ∧ coldEntry s n f = some (e, i)) ∧
    (∃ (w : ColdWin) (s : State), Runs s 8 ∧ s.rhl.cold = some w ∧ w.isOpen = true) ∧
    (∃ (w : ColdWin) (s : State), Runs s 8 ∧ s.rhl.cold = some w ∧ w.badFcs = true ∧ getF s RHL_STAT_STATE = 2 ∧ s.rhl.windows = false) ∧
    (∃ (n : Fin 18) (sof : Nat) (f : List Byte) (e : SEntry) (s : State), Runs s 8 ∧ getF s RHL_STAT_STATE = 1 ∧ integrates s n f = some e) ∧
    (∃ (n : Fin 18) (sof : Nat) (f : List Byte) (s : State), Runs s 8 ∧ getF s RHL_STAT_STATE ≠ 1) ∧
    (∃ (s : State), Runs s 8 ∧ (getF s RHL_STAT_STATE = 2 ∨ getF s RHL_STAT_STATE = 3) ∧ 8 < s.rhl.waited) ∧
    (∃ (s : State), Runs s 8 ∧ onF s RHL_CTRL_CHAN = true ∧ onF s RHL_STAT_PARTNER = false ∧ ltOver s s.rhl.absentAt = true) :=
  ⟨⟨.debugger, 0, { (st []) with rhl := { buf0 := some ⟨8, 100, [⟨1000, 7, 3, 0, 0x10060, 200, 0⟩, ⟨5000, 9, 16, 4, 0x60, 200, 11⟩, ⟨9000, 10, 16, 3, 0x60, 200, 0⟩, ⟨20000, 11, 4, 3, 0x60, 200, 0⟩]⟩, active := some 0 } }, by decide +kernel⟩,
   ⟨.debugger, State.reset, by decide +kernel⟩,
   ⟨.debugger, { (st [(RHL_CTRL_EN, 1), (RHL_STAT_STATE, 3), (RHL_PSTAT_STATE 7, 2)]) with rhl := { buf0 := some ⟨8, 100, [⟨1000, 7, 3, 0, 0x10060, 200, 0⟩, ⟨5000, 9, 16, 4, 0x60, 200, 11⟩, ⟨9000, 10, 16, 3, 0x60, 200, 0⟩, ⟨20000, 11, 4, 3, 0x60, 200, 0⟩]⟩, active := some 0 } }, by decide +kernel⟩,
   ⟨⟨9000, 10, 16, 3, 0x60, 200, 0⟩, 2, { (st [(RHL_STAT_STATE, 1), (RHL_CTRL_CSCAP, 1), (PRL_STAT_LINK, 1), (MER_FREECNT_COUNT, 3000000)]) with rhl := { buf0 := some ⟨8, 100, [⟨1000, 7, 3, 0, 0x10060, 200, 0⟩, ⟨5000, 9, 16, 4, 0x60, 200, 11⟩, ⟨9000, 10, 16, 3, 0x60, 200, 0⟩, ⟨20000, 11, 4, 3, 0x60, 200, 0⟩]⟩, active := some 0 } }, by decide +kernel⟩,
   ⟨State.reset, by decide +kernel⟩,
   ⟨4, 1280000, ((List.replicate 12 0) ++ [0x88, 0xB5, 0x11, 1, 11, 0, 0, 0, 0, 0] ++ List.replicate 24 0), ⟨20000, 11, 4, 3, 0x60, 200, 0⟩, 3, { (st [(RHL_STAT_STATE, 1), (RHL_PSTAT_STATE 3, 1), (RHL_PSTAT_STATE 5, 1), (RHL_PSTAT_STATE 6, 1), (RHL_PSTAT_STATE 4, 1)]) with rhl := { buf0 := some ⟨8, 100, [⟨1000, 7, 3, 0, 0x10060, 200, 0⟩, ⟨5000, 9, 16, 4, 0x60, 200, 11⟩, ⟨9000, 10, 16, 3, 0x60, 200, 0⟩, ⟨20000, 11, 4, 3, 0x60, 200, 0⟩]⟩, active := some 0 } }, by decide +kernel⟩,
   ⟨{ winner := 4, sof := 7, losers := 8 }, { (st []) with rhl := { buf0 := some ⟨8, 100, [⟨1000, 7, 3, 0, 0x10060, 200, 0⟩, ⟨5000, 9, 16, 4, 0x60, 200, 11⟩, ⟨9000, 10, 16, 3, 0x60, 200, 0⟩, ⟨20000, 11, 4, 3, 0x60, 200, 0⟩]⟩, active := some 0, cold := some { winner := 4, sof := 7, losers := 8 } } }, by decide +kernel⟩,
   ⟨{ winner := 4, sof := 7, badFcs := true }, { (st [(RHL_STAT_STATE, 2)]) with rhl := { buf0 := some ⟨8, 100, [⟨1000, 7, 3, 0, 0x10060, 200, 0⟩, ⟨5000, 9, 16, 4, 0x60, 200, 11⟩, ⟨9000, 10, 16, 3, 0x60, 200, 0⟩, ⟨20000, 11, 4, 3, 0x60, 200, 0⟩]⟩, active := some 0, cold := some { winner := 4, sof := 7, badFcs := true } } }, by decide +kernel⟩,
   ⟨4, 1280000, (withFcs ((List.replicate 12 0) ++ [0x88, 0xB5, 1, 1, 11, 0, 6, 0, 0, 0] ++ List.replicate 24 0)), ⟨20000, 11, 4, 3, 0x60, 200, 0⟩, { (st [(RHL_STAT_STATE, 1), (RHL_PSTAT_STATE 3, 1), (RHL_PSTAT_STATE 5, 1), (RHL_PSTAT_STATE 6, 1), (RHL_PSTAT_STATE 4, 1)]) with rhl := { buf0 := some ⟨8, 100, [⟨1000, 7, 3, 0, 0x10060, 200, 0⟩, ⟨5000, 9, 16, 4, 0x60, 200, 11⟩, ⟨9000, 10, 16, 3, 0x60, 200, 0⟩, ⟨20000, 11, 4, 3, 0x60, 200, 0⟩]⟩, active := some 0 } }, by decide +kernel⟩,
   ⟨4, 7, [], State.reset, by decide +kernel⟩,
   ⟨{ (st [(RHL_STAT_STATE, 3)]) with rhl := { buf0 := some ⟨8, 100, [⟨1000, 7, 3, 0, 0x10060, 200, 0⟩, ⟨5000, 9, 16, 4, 0x60, 200, 11⟩, ⟨9000, 10, 16, 3, 0x60, 200, 0⟩, ⟨20000, 11, 4, 3, 0x60, 200, 0⟩]⟩, active := some 0, waited := 9 } }, by decide +kernel⟩,
   ⟨st [(RHL_CTRL_CHAN, 1), (MER_FREECNT_COUNT, 3000000)], by decide +kernel⟩⟩

theorem witness_sync_points :
    (∃ (s : State), Runs s 8 ∧ getF s RHL_STAT_STATE = 4 ∧ s.rhl.lastDevs = none ∧ minSync s ≤ s.rhl.devs.length ∧ (corrOf (keptDevs (min 2 (liveF s RHL_SYNCCTL_K)) s.rhl.devs)).natAbs ≤ offLim s ∧ s.rhl.points < 15) ∧
    (∃ (s : State), Runs s 8 ∧ getF s RHL_STAT_STATE = 4 ∧ s.rhl.lastDevs = none ∧ s.rhl.devs.length < minSync s ∧ max 1 (liveF s RHL_SYNCCTL_SYNCLOSS) ≤ s.rhl.lossRun + 1) ∧
    (∃ (s : State), Runs s 8 ∧ (getF s RHL_STAT_STATE = 2 ∨ getF s RHL_STAT_STATE = 3) ∧ s.rhl.lastDevs = none ∧ minSync s ≤ s.rhl.devs.length) ∧
    (∃ (s : State), Runs s 8 ∧ getF s RHL_STAT_STATE < 2) :=
  ⟨⟨{ (st [(RHL_STAT_STATE, 4)]) with rhl := { buf0 := some ⟨8, 100, [⟨1000, 7, 3, 0, 0x10060, 200, 0⟩, ⟨5000, 9, 16, 4, 0x60, 200, 11⟩, ⟨9000, 10, 16, 3, 0x60, 200, 0⟩, ⟨20000, 11, 4, 3, 0x60, 200, 0⟩]⟩, active := some 0, windows := true, devs := [(0, 50), (2, -20), (3, 70)] } }, by decide +kernel⟩,
   ⟨{ (st [(RHL_STAT_STATE, 4)]) with rhl := { buf0 := some ⟨8, 100, [⟨1000, 7, 3, 0, 0x10060, 200, 0⟩, ⟨5000, 9, 16, 4, 0x60, 200, 11⟩, ⟨9000, 10, 16, 3, 0x60, 200, 0⟩, ⟨20000, 11, 4, 3, 0x60, 200, 0⟩]⟩, active := some 0, windows := true, lossRun := 7 } }, by decide +kernel⟩,
   ⟨{ (st [(RHL_STAT_STATE, 3)]) with rhl := { buf0 := some ⟨8, 100, [⟨1000, 7, 3, 0, 0x10060, 200, 0⟩, ⟨5000, 9, 16, 4, 0x60, 200, 11⟩, ⟨9000, 10, 16, 3, 0x60, 200, 0⟩, ⟨20000, 11, 4, 3, 0x60, 200, 0⟩]⟩, active := some 0, windows := true, devs := [(0, 50), (2, -20), (3, 70)] } }, by decide +kernel⟩,
   ⟨st [(RHL_STAT_STATE, 1)], by decide +kernel⟩⟩

theorem witness_chart_publishes :
    (∃ (q : Fin 128) (o : QOp) (d : List Byte) (g : Nat) (e : Entry) (c : Nat) (s : State), Runs s 6 ∧ onF s CHT_CTRL_EN = true ∧ s.fio.pubs = [] ∧ s.chart.jobs = [] ∧ currentOpc s (0x600 + q.val) 1 = some o ∧ o.epoch = getF s (QEPOCH_EPOCH (0x600 + q.val)) ∧ o.started = false ∧ o.n = 1 ∧ opDescs s o = [d] ∧ dByte d 0 = 1 ∧ leAt d 4 4 = g ∧ 0 < g ∧ g < 2 ^ 25 ∧ entryOf s g = some e ∧ judge s e (.publish c) false = .write ∧ e.watch = false ∧ onF s MEM_INJ_ARM = false ∧ Uncached s (32 * sigCw g) ∧ queueCode s (0x600 + q.val) = some c) ∧
    (∃ (q : Fin 128) (o : QOp) (d : List Byte) (g : Nat) (e : Entry) (c : Nat) (s : State), Runs s 6 ∧ onF s CHT_CTRL_EN = true ∧ s.fio.pubs = [] ∧ s.chart.jobs = [] ∧ currentOpc s (0x600 + q.val) 2 = some o ∧ o.epoch = getF s (QEPOCH_EPOCH (0x600 + q.val)) ∧ o.started = false ∧ o.n = 1 ∧ opDescs s o = [d] ∧ dByte d 0 = 2 ∧ leAt d 4 4 = g ∧ 0 < g ∧ g < 2 ^ 25 ∧ entryOf s g = some e ∧ judge s e (.publish c) false = .write ∧ e.watch = false ∧ onF s MEM_INJ_ARM = false ∧ Uncached s (32 * sigCw g) ∧ queueCode s (0x600 + q.val) = some c) ∧
    (∃ (q : Fin 128) (o : QOp) (d : List Byte) (g : Nat) (e : Entry) (c : Nat) (s : State), Runs s 6 ∧ onF s CHT_CTRL_EN = true ∧ s.fio.pubs = [] ∧ s.chart.jobs = [] ∧ currentOpc s (0x600 + q.val) 3 = some o ∧ o.epoch = getF s (QEPOCH_EPOCH (0x600 + q.val)) ∧ o.started = false ∧ o.n = 1 ∧ opDescs s o = [d] ∧ dByte d 0 = 3 ∧ leAt d 4 4 = g ∧ 0 < g ∧ g < 2 ^ 25 ∧ entryOf s g = some e ∧ judge s e (.publish c) false = .write ∧ e.watch = false ∧ onF s MEM_INJ_ARM = false ∧ Uncached s (32 * sigCw g) ∧ queueCode s (0x600 + q.val) = some c) ∧
    (∃ (q : Fin 128) (o : QOp) (d : List Byte) (g : Nat) (e : Entry) (c : Nat) (s : State), Runs s 6 ∧ onF s CHT_CTRL_EN = true ∧ s.fio.pubs = [] ∧ s.chart.jobs = [] ∧ currentOpc s (0x600 + q.val) 4 = some o ∧ o.epoch = getF s (QEPOCH_EPOCH (0x600 + q.val)) ∧ o.started = false ∧ o.n = 1 ∧ opDescs s o = [d] ∧ dByte d 0 = 4 ∧ leAt d 4 4 = g ∧ 0 < g ∧ g < 2 ^ 25 ∧ entryOf s g = some e ∧ judge s e (.publish c) false = .write ∧ e.watch = false ∧ onF s MEM_INJ_ARM = false ∧ Uncached s (32 * sigCw g) ∧ queueCode s (0x600 + q.val) = some c) ∧
    (∃ (q : Fin 128) (s : State), Runs s 6 ∧ onF s CHT_CTRL_EN = false ∧ s.fio.pubs = [] ∧ s.chart.jobs = []) :=
  ⟨⟨0, { q := 0x600, idx := 0, n := 1, opc := 1, started := false, epoch := 1 }, ([1, 0x80, 0, 0, 5, 0, 0, 0] ++ List.replicate 24 3), 5, { value := List.replicate 16 9, ts := 0, qual := 1, type := 0, flags := 16, seq := 255, source := 49152, limit := 7 }, 49152, ((fun z => writeMem (writeMem z 0 0x1000 ([1, 0x80, 0, 0, 5, 0, 0, 0] ++ List.replicate 24 3)) 0 0x6000000A0 (entBytes { value := List.replicate 16 9, ts := 0, qual := 1, type := 0, flags := 16, seq := 255, source := 49152, limit := 7 })) { st [(QBASE_BASE 0x600, 0x1000), (QSIZE_ENTRIES 0x600, 16), (QCTRL_EN 0x600, 1), (CHT_CTRL_EN, 1)] with qops := [{ q := 0x600, idx := 0, n := 1, opc := 1, started := false, epoch := 1 }] }), by decide +kernel⟩,
   ⟨0, { q := 0x600, idx := 0, n := 1, opc := 2, started := false, epoch := 1 }, ([2, 0x80, 0, 0, 5, 0, 0, 0] ++ List.replicate 24 3), 5, { value := List.replicate 16 9, ts := 0, qual := 1, type := 0, flags := 16, seq := 255, source := 49152, limit := 7 }, 49152, ((fun z => writeMem (writeMem z 0 0x1000 ([2, 0x80, 0, 0, 5, 0, 0, 0] ++ List.replicate 24 3)) 0 0x6000000A0 (entBytes { value := List.replicate 16 9, ts := 0, qual := 1, type := 0, flags := 16, seq := 255, source := 49152, limit := 7 })) { st [(QBASE_BASE 0x600, 0x1000), (QSIZE_ENTRIES 0x600, 16), (QCTRL_EN 0x600, 1), (CHT_CTRL_EN, 1)] with qops := [{ q := 0x600, idx := 0, n := 1, opc := 2, started := false, epoch := 1 }] }), by decide +kernel⟩,
   ⟨0, { q := 0x600, idx := 0, n := 1, opc := 3, started := false, epoch := 1 }, ([3, 0x80, 0, 0, 5, 0, 0, 0] ++ List.replicate 24 3), 5, { value := List.replicate 16 9, ts := 0, qual := 1, type := 0, flags := 16, seq := 255, source := 49152, limit := 7 }, 49152, ((fun z => writeMem (writeMem z 0 0x1000 ([3, 0x80, 0, 0, 5, 0, 0, 0] ++ List.replicate 24 3)) 0 0x6000000A0 (entBytes { value := List.replicate 16 9, ts := 0, qual := 1, type := 0, flags := 16, seq := 255, source := 49152, limit := 7 })) { st [(QBASE_BASE 0x600, 0x1000), (QSIZE_ENTRIES 0x600, 16), (QCTRL_EN 0x600, 1), (CHT_CTRL_EN, 1)] with qops := [{ q := 0x600, idx := 0, n := 1, opc := 3, started := false, epoch := 1 }] }), by decide +kernel⟩,
   ⟨0, { q := 0x600, idx := 0, n := 1, opc := 4, started := false, epoch := 1 }, ([4, 0x80, 0, 0, 5, 0, 0, 0] ++ List.replicate 24 3), 5, { value := List.replicate 16 9, ts := 0, qual := 1, type := 0, flags := 16, seq := 255, source := 49152, limit := 7 }, 49152, ((fun z => writeMem (writeMem z 0 0x1000 ([4, 0x80, 0, 0, 5, 0, 0, 0] ++ List.replicate 24 3)) 0 0x6000000A0 (entBytes { value := List.replicate 16 9, ts := 0, qual := 1, type := 0, flags := 16, seq := 255, source := 49152, limit := 7 })) { st [(QBASE_BASE 0x600, 0x1000), (QSIZE_ENTRIES 0x600, 16), (QCTRL_EN 0x600, 1), (CHT_CTRL_EN, 1)] with qops := [{ q := 0x600, idx := 0, n := 1, opc := 4, started := false, epoch := 1 }] }), by decide +kernel⟩,
   ⟨3, State.reset, by decide +kernel⟩⟩

theorem witness_chart_descriptors :
    (∃ (q : Fin 128) (o : QOp) (d : List Byte) (g : Nat) (e : Entry) (s : State), Runs s 6 ∧ onF s CHT_CTRL_EN = true ∧ s.fio.pubs = [] ∧ s.chart.jobs = [] ∧ currentOpc s (0x600 + q.val) 6 = some o ∧ o.epoch = getF s (QEPOCH_EPOCH (0x600 + q.val)) ∧ o.started = false ∧ o.n = 1 ∧ opDescs s o = [d] ∧ dByte d 0 = 6 ∧ leAt d 4 4 = g ∧ 0 < g ∧ g < 2 ^ 25 ∧ entryOf s g = some e ∧ judge s e .force false = .write ∧ e.watch = false ∧ onF s MEM_INJ_ARM = false ∧ Uncached s (32 * sigCw g) ∧ e.vown = false) ∧
    (∃ (q : Fin 128) (o : QOp) (d : List Byte) (g : Nat) (e : Entry) (s : State), Runs s 6 ∧ onF s CHT_CTRL_EN = true ∧ s.fio.pubs = [] ∧ s.chart.jobs = [] ∧ currentOpc s (0x600 + q.val) 7 = some o ∧ o.epoch = getF s (QEPOCH_EPOCH (0x600 + q.val)) ∧ o.started = false ∧ o.n = 1 ∧ opDescs s o = [d] ∧ dByte d 0 = 7 ∧ leAt d 4 4 = g ∧ 0 < g ∧ g < 2 ^ 25 ∧ entryOf s g = some e ∧ judge s e .force false = .write ∧ e.watch = false ∧ onF s MEM_INJ_ARM = false ∧ Uncached s (32 * sigCw g) ∧ e.vown = false) ∧
    (∃ (q : Fin 128) (o : QOp) (d : List Byte) (g : Nat) (e : Entry) (s : State), Runs s 6 ∧ onF s CHT_CTRL_EN = true ∧ s.fio.pubs = [] ∧ s.chart.jobs = [] ∧ currentOpc s (0x600 + q.val) 5 = some o ∧ o.epoch = getF s (QEPOCH_EPOCH (0x600 + q.val)) ∧ o.started = false ∧ o.n = 1 ∧ opDescs s o = [d] ∧ dByte d 0 = 5 ∧ leAt d 4 4 = g ∧ 0 < g ∧ g < 2 ^ 25 ∧ entryOf s g = some e ∧ e.watch = false ∧ onF s MEM_INJ_ARM = false ∧ Uncached s (32 * sigCw g) ∧ leAt d 9 1 < 64 ∧ leAt d 14 2 = 0 ∧ leAt d 8 1 % 16 ≠ 6 ∧ bit (leAt d 9 1) 2 = false ∧ e.vown = false) ∧
    (∃ (q : Fin 128) (o : QOp) (d : List Byte) (g : Nat) (e : Entry) (c : Nat) (x : List Byte) (s : State), Runs s 6 ∧ onF s CHT_CTRL_EN = true ∧ s.fio.pubs = [] ∧ s.chart.jobs = [] ∧ currentOpc s (0x600 + q.val) 9 = some o ∧ o.epoch = getF s (QEPOCH_EPOCH (0x600 + q.val)) ∧ o.started = false ∧ o.n = 1 ∧ opDescs s o = [d] ∧ dByte d 0 = 9 ∧ leAt d 4 4 = g ∧ 0 < g ∧ g < 2 ^ 25 ∧ entryOf s g = some e ∧ judge s e (.publish c) false = .write ∧ e.watch = false ∧ onF s MEM_INJ_ARM = false ∧ Uncached s (32 * sigCw g) ∧ queueCode s (0x600 + q.val) = some c ∧ UncachedIn s e.area e.areaLen ∧ e.bulk = true ∧ areaShared s g e = false ∧ e.area % 32 = 0 ∧ e.areaLen % 32 = 0 ∧ dramOffChart e.area e.areaLen = true ∧ engineMay s (0x600 + q.val) (dAddr d 8) e.areaLen false = true ∧ regionMay s (0x600 + q.val) e.area e.areaLen true = true ∧ readMem s (dAddr d 8) e.areaLen = some x) ∧
    (∃ (q : Fin 128) (o : QOp) (d : List Byte) (g : Nat) (n : Nat) (x : List Byte) (s : State), Runs s 6 ∧ onF s CHT_CTRL_EN = true ∧ s.fio.pubs = [] ∧ s.chart.jobs = [] ∧ currentOpc s (0x600 + q.val) 10 = some o ∧ o.epoch = getF s (QEPOCH_EPOCH (0x600 + q.val)) ∧ UncachedIn s (dAddr d 8) (32 * n) ∧ o.started = false ∧ o.n = 1 ∧ opDescs s o = [d] ∧ dByte d 0 = 10 ∧ leAt d 4 4 = g ∧ 0 < g ∧ leAt d 16 4 = n ∧ 1 ≤ n ∧ n ≤ 4096 ∧ g + n ≤ 2 ^ 25 ∧ dAddr d 8 % 32 = 0 ∧ engineMay s (0x600 + q.val) (dAddr d 8) (32 * n) true = true ∧ readMem s (32 * sigCw g) (32 * n) = some x ∧ onF s MEM_INJ_ARM = false) ∧
    (∃ (q : Fin 128) (o : QOp) (d : List Byte) (m : Nat) (s : State), Runs s 6 ∧ onF s CHT_CTRL_EN = true ∧ s.fio.pubs = [] ∧ s.chart.jobs = [] ∧ currentOpc s (0x600 + q.val) 8 = some o ∧ o.epoch = getF s (QEPOCH_EPOCH (0x600 + q.val)) ∧ o.started = false ∧ opDescs s o = [d] ∧ dByte d 0 = 8 ∧ leAt d 4 2 = m ∧ checkMap s (listMay s (0x600 + q.val)) [] m ((d.drop 8).take 16) = none) ∧
    (∃ (q : Fin 128) (o : QOp) (d : List Byte) (m : Nat) (c : Nat) (x : Nat) (s : State), Runs s 6 ∧ onF s CHT_CTRL_EN = true ∧ s.fio.pubs = [] ∧ s.chart.jobs = [] ∧ currentOpc s (0x600 + q.val) 8 = some o ∧ o.epoch = getF s (QEPOCH_EPOCH (0x600 + q.val)) ∧ o.started = false ∧ opDescs s o = [d] ∧ dByte d 0 = 8 ∧ leAt d 4 2 = m ∧ checkMap s (listMay s (0x600 + q.val)) [] m ((d.drop 8).take 16) = some (c, x)) ∧
    (∃ (w : MapWait) (r : List MapWait) (s : State), Runs s 6 ∧ s.chart.pendMaps = w :: r ∧ mapDir s ≠ none) ∧
    (∃ (s : State), Runs s 6 ∧ s.chart.pendMaps = []) :=
  ⟨⟨0, { q := 0x600, idx := 0, n := 1, opc := 6, started := false, epoch := 1 }, ([6, 0x80, 0, 0, 5, 0, 0, 0] ++ List.replicate 24 3), 5, { value := List.replicate 16 9, ts := 0, qual := 1, type := 0, flags := 16, seq := 255, source := 49152, limit := 7 }, ((fun z => writeMem (writeMem z 0 0x1000 ([6, 0x80, 0, 0, 5, 0, 0, 0] ++ List.replicate 24 3)) 0 0x6000000A0 (entBytes { value := List.replicate 16 9, ts := 0, qual := 1, type := 0, flags := 16, seq := 255, source := 49152, limit := 7 })) { st [(QBASE_BASE 0x600, 0x1000), (QSIZE_ENTRIES 0x600, 16), (QCTRL_EN 0x600, 1), (CHT_CTRL_EN, 1)] with qops := [{ q := 0x600, idx := 0, n := 1, opc := 6, started := false, epoch := 1 }] }), by decide +kernel⟩,
   ⟨0, { q := 0x600, idx := 0, n := 1, opc := 7, started := false, epoch := 1 }, ([7, 0x80, 0, 0, 5, 0, 0, 0] ++ List.replicate 24 3), 5, { value := List.replicate 16 9, ts := 0, qual := 1, type := 0, flags := 48, seq := 255, source := 49152, limit := 7 }, ((fun z => writeMem (writeMem z 0 0x1000 ([7, 0x80, 0, 0, 5, 0, 0, 0] ++ List.replicate 24 3)) 0 0x6000000A0 (entBytes { value := List.replicate 16 9, ts := 0, qual := 1, type := 0, flags := 48, seq := 255, source := 49152, limit := 7 })) { st [(QBASE_BASE 0x600, 0x1000), (QSIZE_ENTRIES 0x600, 16), (QCTRL_EN 0x600, 1), (CHT_CTRL_EN, 1)] with qops := [{ q := 0x600, idx := 0, n := 1, opc := 7, started := false, epoch := 1 }] }), by decide +kernel⟩,
   ⟨0, { q := 0x600, idx := 0, n := 1, opc := 5, started := false, epoch := 1 }, ([5, 0x80, 0, 0, 5, 0, 0, 0] ++ ([1, 16, 0, 0xC0, 9, 0, 0, 0] ++ List.replicate 16 4)), 5, { value := List.replicate 16 9, ts := 0, qual := 1, type := 0, flags := 16, seq := 255, source := 49152, limit := 7 }, ((fun z => writeMem (writeMem z 0 0x1000 ([5, 0x80, 0, 0, 5, 0, 0, 0] ++ ([1, 16, 0, 0xC0, 9, 0, 0, 0] ++ List.replicate 16 4))) 0 0x6000000A0 (entBytes { value := List.replicate 16 9, ts := 0, qual := 1, type := 0, flags := 16, seq := 255, source := 49152, limit := 7 })) { st [(QBASE_BASE 0x600, 0x1000), (QSIZE_ENTRIES 0x600, 16), (QCTRL_EN 0x600, 1), (CHT_CTRL_EN, 1)] with qops := [{ q := 0x600, idx := 0, n := 1, opc := 5, started := false, epoch := 1 }] }), by decide +kernel⟩,
   ⟨0, { q := 0x600, idx := 0, n := 1, opc := 9, started := false, epoch := 1 }, ([9, 0x80, 0, 0, 5, 0, 0, 0] ++ ([0, 0x70, 0, 0, 0, 0, 0, 0] ++ List.replicate 16 4)), 5, { value := [0, 0x80, 0, 0, 0, 32, 0, 0, 0, 0, 0, 0, 0, 0, 0, 0], ts := 0, qual := 1, type := 6, flags := 16, seq := 255, source := 49152, limit := 7 }, 49152, (List.replicate 32 0), ((fun z => writeMem (writeMem z 0 0x1000 ([9, 0x80, 0, 0, 5, 0, 0, 0] ++ ([0, 0x70, 0, 0, 0, 0, 0, 0] ++ List.replicate 16 4))) 0 0x6000000A0 (entBytes { value := [0, 0x80, 0, 0, 0, 32, 0, 0, 0, 0, 0, 0, 0, 0, 0, 0], ts := 0, qual := 1, type := 6, flags := 16, seq := 255, source := 49152, limit := 7 })) { st [(QBASE_BASE 0x600, 0x1000), (QSIZE_ENTRIES 0x600, 16), (QCTRL_EN 0x600, 1), (CHT_CTRL_EN, 1)] with qops := [{ q := 0x600, idx := 0, n := 1, opc := 9, started := false, epoch := 1 }] }), by decide +kernel⟩,
   ⟨0, { q := 0x600, idx := 0, n := 1, opc := 10, started := false, epoch := 1 }, ([10, 0x80, 0, 0, 5, 0, 0, 0] ++ [0, 0x70, 0, 0, 0, 0, 0, 0, 1, 0, 0, 0] ++ List.replicate 12 0), 5, 1, (entBytes { value := List.replicate 16 9, ts := 0, qual := 1, type := 0, flags := 16, seq := 255, source := 49152, limit := 7 }), ((fun z => writeMem (writeMem z 0 0x1000 ([10, 0x80, 0, 0, 5, 0, 0, 0] ++ ([0, 0x70, 0, 0, 0, 0, 0, 0, 1, 0, 0, 0] ++ List.replicate 12 0))) 0 0x6000000A0 (entBytes { value := List.replicate 16 9, ts := 0, qual := 1, type := 0, flags := 16, seq := 255, source := 49152, limit := 7 })) { st [(QBASE_BASE 0x600, 0x1000), (QSIZE_ENTRIES 0x600, 16), (QCTRL_EN 0x600, 1), (CHT_CTRL_EN, 1)] with qops := [{ q := 0x600, idx := 0, n := 1, opc := 10, started := false, epoch := 1 }] }), by decide +kernel⟩,
   ⟨0, { q := 0x600, idx := 0, n := 1, opc := 8, started := false, epoch := 1 }, ([8, 0x80, 0, 0, 5, 0, 0, 0] ++ List.replicate 24 0), 5, ((fun z => writeMem (writeMem z 0 0x1000 ([8, 0x80, 0, 0, 5, 0, 0, 0] ++ List.replicate 24 0)) 0 0x6000000A0 (entBytes { value := List.replicate 16 9, ts := 0, qual := 1, type := 0, flags := 16, seq := 255, source := 49152, limit := 7 })) { st [(QBASE_BASE 0x600, 0x1000), (QSIZE_ENTRIES 0x600, 16), (QCTRL_EN 0x600, 1), (CHT_CTRL_EN, 1)] with qops := [{ q := 0x600, idx := 0, n := 1, opc := 8, started := false, epoch := 1 }] }), by decide +kernel⟩,
   ⟨0, { q := 0x600, idx := 0, n := 1, opc := 8, started := false, epoch := 1 }, ([8, 0x80, 0, 0, 5, 0, 0, 0] ++ ([0, 0, 0, 0, 0, 0, 0, 0x10] ++ List.replicate 16 0)), 5, 0x0101, (0xFFFF + 3 * 2 ^ 16), ((fun z => writeMem (writeMem z 0 0x1000 ([8, 0x80, 0, 0, 5, 0, 0, 0] ++ ([0, 0, 0, 0, 0, 0, 0, 0x10] ++ List.replicate 16 0))) 0 0x6000000A0 (entBytes { value := List.replicate 16 9, ts := 0, qual := 1, type := 0, flags := 16, seq := 255, source := 49152, limit := 7 })) { st [(QBASE_BASE 0x600, 0x1000), (QSIZE_ENTRIES 0x600, 16), (QCTRL_EN 0x600, 1), (CHT_CTRL_EN, 1)] with qops := [{ q := 0x600, idx := 0, n := 1, opc := 8, started := false, epoch := 1 }] }), by decide +kernel⟩,
   ⟨⟨0x600, 0, 0, 0, [(5, List.replicate 16 0)]⟩, [], { State.reset with chart := { pendMaps := [⟨0x600, 0, 0, 0, [(5, List.replicate 16 0)]⟩] } }, by decide +kernel⟩,
   ⟨State.reset, by decide +kernel⟩⟩

theorem witness_unpack_and_sweep :
    (∃ (j : Job) (s : State), Runs s 6 ∧ onF s CHT_CTRL_EN = true ∧ s.fio.pubs = [] ∧ ((s.chart.jobs.find? fun y => y.mirror.isNone) = some j) ∧ lookupMap s j.map = none) ∧
    (∃ (j : Job) (md : MapDir) (el : Elem) (e : Entry) (s : State), Runs s 6 ∧ onF s CHT_CTRL_EN = true ∧ s.fio.pubs = [] ∧ ((s.chart.jobs.find? fun y => y.mirror.isNone) = some j) ∧ (s.chart.pins.any (fun p => p.1 == j.map) = true) ∧ lookupMap s j.map = some (md, [el]) ∧ md.dir = 1 ∧ elemReason 2048 el = none ∧ el.ekind = 0 ∧ el.k0 + el.width ≤ 8 * j.payload.length ∧ jobOld s j = false ∧ entryOf s el.sig = some e ∧ judge s e (.input j.code) false = .write ∧ e.watch = false ∧ onF s MEM_INJ_ARM = false ∧ Uncached s (32 * sigCw el.sig)) ∧
    (∃ (j : Job) (r : List Job) (ep : Nat) (e : Entry) (n : Entry) (s : State), Runs s 6 ∧ onF s CHT_CTRL_EN = true ∧ s.fio.pubs = [] ∧ s.chart.jobs = j :: r ∧ ((s.chart.jobs.find? fun y => y.mirror.isNone) = none) ∧ j.mirror = some ep ∧ epochRel ep (getF s PRL_PSTAT_PEPOCH) ≠ .old ∧ j.payload.length = 40 ∧ leAt j.payload 0 4 % 2 ^ 25 ≠ 0 ∧ n = parseEnt (j.payload.drop 8) ∧ entryOf s (leAt j.payload 0 4 % 2 ^ 25) = some e ∧ e.frz = false ∧ e.watch = false ∧ onF s MEM_INJ_ARM = false ∧ Uncached s (32 * sigCw (leAt j.payload 0 4 % 2 ^ 25))) ∧
    (∃ (s : State), Runs s 6 ∧ s.fio.pubs = [] ∧ s.chart.jobs = []) ∧
    (∃ (g : Nat) (e : Entry) (s : State), Runs s 6 ∧ onF s CHT_CTRL_EN = true ∧ s.fio.pubs = [] ∧ s.chart.jobs = [] ∧ (∀ o ∈ s.qops, o.q / 128 = 12 → o.started = true ∨ o.done.isSome = true) ∧ onL s CHT_CTRL_SWEEPEN = true ∧ watchedList s = [g] ∧ 0 < g ∧ entryOf s g = some e ∧ e.watch = true ∧ e.frz = false ∧ e.mirror = false ∧ e.mirrored = false ∧ 0 < e.limit ∧ e.valid = true ∧ e.stale = false ∧ e.limit * 100000 < ageNs e.ts (ts64 s) ∧ onF s MEM_INJ_ARM = false ∧ Uncached s (32 * sigCw g)) ∧
    (∃ (s : State), Runs s 6 ∧ onF s CHT_CTRL_EN = true ∧ s.fio.pubs = [] ∧ s.chart.jobs = [] ∧ (∀ o ∈ s.qops, o.q / 128 = 12 → o.started = true ∨ o.done.isSome = true) ∧ onL s CHT_CTRL_SWEEPEN = true ∧ liveF s CHT_WATCHCNT_COUNT = 0) ∧
    (∃ (s : State), Runs s 6 ∧ onF s CHT_CTRL_EN = true ∧ s.fio.pubs = [] ∧ s.chart.jobs = [] ∧ (∀ o ∈ s.qops, o.q / 128 = 12 → o.started = true ∨ o.done.isSome = true) ∧ onL s CHT_CTRL_SWEEPEN = true ∧ liveF s CHT_WATCHCNT_COUNT = 0) ∧
    (∃ (late : Bool) (s : State), Runs s 6 ∧ s.fio.pubs = [] ∧ s.chart.jobs = [] ∧ (∀ o ∈ s.qops, o.q / 128 = 12 → o.started = true ∨ o.done.isSome = true) ∧ onF s CHT_CTRL_EN = false) :=
  ⟨⟨{ map := 5, code := 6144, ts := 7, payload := [1] }, { st [(CHT_CTRL_EN, 1)] with chart := { jobs := [{ map := 5, code := 6144, ts := 7, payload := [1] }] } }, by decide +kernel⟩,
   ⟨{ map := 7, code := 49152, ts := 7, payload := [0x5A, 0xA5, 3] }, (parseDir [0, 0, 0, 1, 0, 1, 0, 5, 0, 0, 0, 0, 0, 0, 0, 0]), (parseElem [5, 0, 0, 0, 0, 128, 0, 0]), { value := List.replicate 16 9, ts := 0, qual := 1, type := 0, flags := 16, seq := 255, source := 49152, limit := 7 }, ((fun z => writeMem (writeMem z 0 0x1000 ([1, 0x80, 0, 0, 5, 0, 0, 0] ++ List.replicate 24 3)) 0 0x6000000A0 (entBytes { value := List.replicate 16 9, ts := 0, qual := 1, type := 0, flags := 16, seq := 255, source := 49152, limit := 7 })) { st [(QBASE_BASE 0x600, 0x1000), (QSIZE_ENTRIES 0x600, 16), (QCTRL_EN 0x600, 1), (CHT_CTRL_EN, 1), (CHT_MAPBASE_BASE, 0x2000000)] with chart := { jobs := [{ map := 7, code := 49152, ts := 7, payload := [0x5A, 0xA5, 3] }], pins := [(7, [0, 0, 0, 1, 0, 1, 0, 5, 0, 0, 0, 0, 0, 0, 0, 0], [5, 0, 0, 0, 0, 128, 0, 0])] }, qops := [{ q := 0x600, idx := 0, n := 1, opc := 1, started := false, epoch := 1 }] }), by decide +kernel⟩,
   ⟨{ map := 0, code := 0, ts := 0, payload := ([5, 0, 0, 0, 0, 0, 0, 0] ++ List.replicate 16 8 ++ [1, 0, 0, 0, 1, 0, 0, 0, 1, 0, 16, 77, 0, 192, 7, 0]), mirror := some 5 }, [], 5, { value := List.replicate 16 9, ts := 0, qual := 1, type := 0, flags := 16, seq := 255, source := 49152, limit := 7 }, (parseEnt ((([5, 0, 0, 0, 0, 0, 0, 0] ++ List.replicate 16 8 ++ [1, 0, 0, 0, 1, 0, 0, 0, 1, 0, 16, 77, 0, 192, 7, 0]) : List Byte).drop 8)), ((fun z => writeMem (writeMem z 0 0x1000 ([1, 0x80, 0, 0, 5, 0, 0, 0] ++ List.replicate 24 3)) 0 0x6000000A0 (entBytes { value := List.replicate 16 9, ts := 0, qual := 1, type := 0, flags := 16, seq := 255, source := 49152, limit := 7 })) { st [(QBASE_BASE 0x600, 0x1000), (QSIZE_ENTRIES 0x600, 16), (QCTRL_EN 0x600, 1), (CHT_CTRL_EN, 1)] with chart := { jobs := [{ map := 0, code := 0, ts := 0, payload := ([5, 0, 0, 0, 0, 0, 0, 0] ++ List.replicate 16 8 ++ [1, 0, 0, 0, 1, 0, 0, 0, 1, 0, 16, 77, 0, 192, 7, 0]), mirror := some 5 }] }, qops := [{ q := 0x600, idx := 0, n := 1, opc := 1, started := false, epoch := 1 }] }), by decide +kernel⟩,
   ⟨State.reset, by decide +kernel⟩,
   ⟨5, { value := List.replicate 16 9, ts := 0, qual := 1, type := 0, flags := 24, seq := 255, source := 49152, limit := 7 }, (fun z => { z with mer := { z.mer with t := 64000000000 * nsU } }) (lv (writeMem (writeMem (st [(CHT_CTRL_EN, 1), (CHT_WATCHBASE_BASE, 0x4000), (CHT_WATCHCNT_COUNT, 1)]) 0 0x4000 [5, 0, 0, 0]) 0 0x6000000A0 (entBytes { value := List.replicate 16 9, ts := 0, qual := 1, type := 0, flags := 24, seq := 255, source := 49152, limit := 7 })) [(CHT_CTRL_SWEEPEN, 1), (CHT_WATCHCNT_COUNT, 1)]), by decide +kernel⟩,
   ⟨lv (st [(CHT_CTRL_EN, 1)]) [(CHT_CTRL_SWEEPEN, 1)], by decide +kernel⟩,
   ⟨lv (st [(CHT_CTRL_EN, 1)]) [(CHT_CTRL_SWEEPEN, 1)], by decide +kernel⟩,
   ⟨true, State.reset, by decide +kernel⟩⟩

theorem witness_can_states :
    (∃ (r : Req) (n : Fin 6) (s : State), Ready s 9 ∧ onF s (MDB_CCTRL_EN n) = false ∧ (canCh s n).closing = false ∧ timingOk s n = true ∧ getF s (MDB_CSTAT_STATE n) = 0) ∧
    (∃ (r : Req) (n : Fin 6) (s : State), Ready s 9 ∧ onF s (MDB_CCTRL_EN n) = false ∧ (canCh s n).closing = false ∧ timingOk s n = false) ∧
    (∃ (n : Fin 6) (s : State), Runs s 9 ∧ getF s (MDB_CSTAT_STATE n) = 1) ∧
    (∃ (n : Fin 6) (s : State), Runs s 9 ∧ getF s (MDB_CSTAT_STATE n) ≠ 1) ∧
    (∃ (n : Fin 6) (s : State), Runs s 9 ∧ s.can.length = 6 ∧ onF s (MDB_CCTRL_EN n) = true ∧ getF s (MDB_CSTAT_STATE n) < 4 ∧ (canCh s n).fifo = [] ∧ onF s (MDB_CCTRL_BOAUTO n) = false) ∧
    (∃ (r : Req) (n : Fin 6) (s : State), Ready s 9 ∧ getF s (MDB_CSTAT_STATE n) = 4) ∧
    (∃ (r : Req) (n : Fin 6) (s : State), Ready s 9 ∧ getF s (MDB_CSTAT_STATE n) ≠ 4) ∧
    (∃ (n : Fin 6) (s : State), Runs s 9 ∧ getF s (MDB_CSTAT_STATE n) = 5) ∧
    (∃ (n : Fin 6) (s : State), Runs s 9 ∧ s.can.length = 6 ∧ onF s (MDB_CCTRL_EN n) = true ∧ getF s (MDB_CSTAT_STATE n) < 4 ∧ (canCh s n).fifo = [] ∧ onF s (MDB_CCTRL_BOAUTO n) = false) ∧
    (∃ (n : Fin 6) (s : State), Runs s 9 ∧ s.can.length = 6 ∧ onF s (MDB_CCTRL_EN n) = true ∧ getF s (MDB_CSTAT_STATE n) < 4) ∧
    (∃ (n : Fin 6) (s : State), Runs s 9 ∧ getF s (MDB_CSTAT_STATE n) ≠ 5) ∧
    (∃ (n : Fin 6) (s : State), Runs s 9 ∧ (onF s (MDB_CCTRL_EN n) = false ∨ 4 ≤ getF s (MDB_CSTAT_STATE n))) ∧
    (∃ (n : Fin 6) (s : State), Runs s 9 ∧ onF s (MDB_CCTRL_EN n) = false) ∧
    (∃ (r : Req) (n : Fin 6) (s : State), Ready s 9 ∧ s.can.length = 6 ∧ onF s (MDB_CCTRL_EN n) = true ∧ (canCh s n).fifo = []) ∧
    (∃ (r : Req) (n : Fin 6) (f : CanTx) (s : State), Ready s 9 ∧ s.can.length = 6 ∧ onF s (MDB_CCTRL_EN n) = true ∧ (canCh s n).sending = true ∧ (canCh s n).fifo = [f]) ∧
    (∃ (r : Req) (n : Fin 6) (s : State), Ready s 9 ∧ onF s (MDB_CCTRL_EN n) = false) :=
  ⟨⟨.debugger, 3, st [(MDB_NBT_BRP 3, 4)], by decide +kernel⟩,
   ⟨.debugger, 3, st [(MDB_NBT_BRP 3, 1), (MDB_NBT_TSEG1 3, 2)], by decide +kernel⟩,
   ⟨3, st [(MDB_CSTAT_STATE 3, 1)], by decide +kernel⟩,
   ⟨3, State.reset, by decide +kernel⟩,
   ⟨3, { (st [(MDB_CCTRL_EN 3, 1), (MDB_CSTAT_STATE 3, 3), (MDB_CCTRL_BOAUTO 3, 0)]) with can := modAt State.reset.can 3 fun _ => { sending := true } }, by decide +kernel⟩,
   ⟨.debugger, 3, st [(MDB_CSTAT_STATE 3, 4)], by decide +kernel⟩,
   ⟨.debugger, 3, State.reset, by decide +kernel⟩,
   ⟨3, st [(MDB_CSTAT_STATE 3, 5), (MDB_CSTAT_TEC 3, 9)], by decide +kernel⟩,
   ⟨3, { (st [(MDB_CCTRL_EN 3, 1), (MDB_CSTAT_STATE 3, 3), (MDB_CCTRL_BOAUTO 3, 0)]) with can := modAt State.reset.can 3 fun _ => { sending := true } }, by decide +kernel⟩,
   ⟨3, { (st [(MDB_CCTRL_EN 3, 1), (MDB_CSTAT_STATE 3, 3), (MDB_CCTRL_BOAUTO 3, 1)]) with can := modAt State.reset.can 3 fun _ => { sending := true, fifo := [{ op := none, medium := 1, record := [1, 2, 3, 0, 0, 0, 0, 1, 0, 0, 0, 0], data := [7], retry := 3 }] } }, by decide +kernel⟩,
   ⟨3, State.reset, by decide +kernel⟩,
   ⟨3, State.reset, by decide +kernel⟩,
   ⟨3, State.reset, by decide +kernel⟩,
   ⟨.debugger, 3, { (st [(MDB_CCTRL_EN 3, 1), (MDB_CSTAT_STATE 3, 3)]) with can := modAt State.reset.can 3 fun _ => {  } }, by decide +kernel⟩,
   ⟨.debugger, 3, { op := none, medium := 1, record := [1, 2, 3, 0, 0, 0, 0, 1, 0, 0, 0, 0], data := [7], retry := 3 }, { (st [(MDB_CCTRL_EN 3, 1), (MDB_CSTAT_STATE 3, 3)]) with can := modAt State.reset.can 3 fun _ => { sending := true, fifo := [{ op := none, medium := 1, record := [1, 2, 3, 0, 0, 0, 0, 1, 0, 0, 0, 0], data := [7], retry := 3 }] } }, by decide +kernel⟩,
   ⟨.debugger, 3, State.reset, by decide +kernel⟩⟩

theorem witness_can_transmits :
    (∃ (n : Fin 6) (o : QOp) (f : CanTx) (s : State), Runs s 9 ∧ s.can.length = 6 ∧ freshOpc s (0x800 + n.val) 1 = some o ∧ o.epoch = getF s (QEPOCH_EPOCH (0x800 + n.val)) ∧ o.n = 1 ∧ (((canCh s n).cancels.any fun x => x.2 == (o.idx + o.n - 1) % 65536) = false) ∧ ((match checkChain s n 0 (opDescs s o) [] with | .ok l => l == [f] | .error _ => false) = true) ∧ (canCh s n).fifo.length < 64) ∧
    (∃ (n : Fin 6) (o : QOp) (s : State), Runs s 9 ∧ freshOpc s (0x800 + n.val) 1 = some o ∧ o.epoch = getF s (QEPOCH_EPOCH (0x800 + n.val)) ∧ (((canCh s n).cancels.any fun x => x.2 == (o.idx + o.n - 1) % 65536) = true)) ∧
    (∃ (n : Fin 6) (s : State), Runs s 9 ∧ freshOpc s (0x800 + n.val) 1 = none) ∧
    (∃ (n : Fin 6) (sof : Nat) (f : CanTx) (r : List CanTx) (s : State), Runs s 9 ∧ s.can.length = 6 ∧ (canCh s n).sending = false ∧ (canCh s n).fifo = f :: r ∧ (canCh s n).fifo.filter (·.cancel) = [] ∧ canSends s n = true ∧ (getF s (MDB_CSTAT_STATE n) = 2 ∨ getF s (MDB_CSTAT_STATE n) = 3)) ∧
    (∃ (n : Fin 6) (sof : Nat) (s : State), Runs s 9 ∧ (canCh s n).sending = true) ∧
    (∃ (n : Fin 6) (tec : Fin 512) (rcv : Fin 256) (f : CanTx) (r : List CanTx) (s : State), Runs s 9 ∧ s.can.length = 6 ∧ (canCh s n).sending = true ∧ (canCh s n).fifo = f :: r ∧ f.op = none ∧ f.cancel = false ∧ (canCh s n).closing = false ∧ getF s (MDB_CCTRL_MODE n) ≠ 3 ∧ getF s (MDB_CSTAT_STATE n) = 2 ∧ tec.val < 128 ∧ rcv.val < 128) ∧
    (∃ (n : Fin 6) (tec : Fin 512) (rcv : Fin 256) (f : CanTx) (r : List CanTx) (s : State), Runs s 9 ∧ s.can.length = 6 ∧ (canCh s n).sending = true ∧ (canCh s n).fifo = f :: r ∧ (f.retry = 15 ∨ f.attempts < f.retry + 1) ∧ (canCh s n).closing = false ∧ getF s (MDB_CSTAT_STATE n) = 2 ∧ tec.val < 128 ∧ rcv.val < 128) ∧
    (∃ (n : Fin 6) (o : QOp) (s : State), Runs s 9 ∧ freshOpc s (0x810 + n.val) 3 = some o ∧ o.epoch = getF s (QEPOCH_EPOCH (0x810 + n.val)) ∧ cancelFound s (0x800 + n.val) (leAt (opDesc s o) 4 2) = false) ∧
    (∃ (n : Fin 6) (o : QOp) (s : State), Runs s 9 ∧ s.can.length = 6 ∧ freshOpc s (0x810 + n.val) 3 = some o ∧ o.epoch = getF s (QEPOCH_EPOCH (0x810 + n.val)) ∧ cancelFound s (0x800 + n.val) (leAt (opDesc s o) 4 2) = true) :=
  ⟨⟨3, { q := 0x803, idx := 0, n := 1, opc := 1, started := false, epoch := 1 }, { op := none, medium := 1, record := [5, 0, 0, 0, 0, 0, 0, 1, 0, 0, 0, 0], data := [0x77], retry := 3 }, (writeMem (writeMem ({ st [(QBASE_BASE 0x803, 0x1000), (QSIZE_ENTRIES 0x803, 16), (QCTRL_EN 0x803, 1), (MDB_CCTRL_EN 3, 1), (MDB_CSTAT_STATE 3, 2)] with qops := [{ q := 0x803, idx := 0, n := 1, opc := 1, started := false, epoch := 1 }] }) 0 0x1000 ([1, 0x80, 0, 0, 1, 0, 3, 1, 0, 0x20, 0, 0, 0] ++ List.replicate 19 0)) 0 0x2000 ([5, 0, 0, 0, 0, 0, 0, 1, 0, 0, 0, 0, 0x77] ++ List.replicate 19 0)), by decide +kernel⟩,
   ⟨3, { q := 0x803, idx := 0, n := 1, opc := 1, started := false, epoch := 1 }, (writeMem (writeMem ({ st [(QBASE_BASE 0x803, 0x1000), (QSIZE_ENTRIES 0x803, 16), (QCTRL_EN 0x803, 1), (MDB_CCTRL_EN 3, 1), (MDB_CSTAT_STATE 3, 2)] with can := modAt State.reset.can 3 (fun _ => { cancels := [(0, 0)] }), qops := [{ q := 0x803, idx := 0, n := 1, opc := 1, started := false, epoch := 1 }] }) 0 0x1000 ([1, 0x80, 0, 0, 1, 0, 3, 1, 0, 0x20, 0, 0, 0] ++ List.replicate 19 0)) 0 0x2000 ([5, 0, 0, 0, 0, 0, 0, 1, 0, 0, 0, 0, 0x77] ++ List.replicate 19 0)), by decide +kernel⟩,
   ⟨3, State.reset, by decide +kernel⟩,
   ⟨3, 777, { op := none, medium := 1, record := [1, 2, 3, 0, 0, 0, 0, 1, 0, 0, 0, 0], data := [7], retry := 3 }, [], { (st [(MDB_CCTRL_EN 3, 1), (MDB_CSTAT_STATE 3, 2)]) with can := modAt State.reset.can 3 fun _ => { fifo := [{ op := none, medium := 1, record := [1, 2, 3, 0, 0, 0, 0, 1, 0, 0, 0, 0], data := [7], retry := 3 }] } }, by decide +kernel⟩,
   ⟨3, 777, { (st []) with can := modAt State.reset.can 3 fun _ => { sending := true } }, by decide +kernel⟩,
   ⟨3, 5, 0, { op := none, medium := 1, record := [1, 2, 3, 0, 0, 0, 0, 1, 0, 0, 0, 0], data := [7], retry := 3 }, [], { (st [(MDB_CCTRL_EN 3, 1), (MDB_CSTAT_STATE 3, 2)]) with can := modAt State.reset.can 3 fun _ => { sending := true, fifo := [{ op := none, medium := 1, record := [1, 2, 3, 0, 0, 0, 0, 1, 0, 0, 0, 0], data := [7], retry := 3 }] } }, by decide +kernel⟩,
   ⟨3, 5, 0, { op := none, medium := 1, record := [1, 2, 3, 0, 0, 0, 0, 1, 0, 0, 0, 0], data := [7], retry := 3 }, [], { (st [(MDB_CCTRL_EN 3, 1), (MDB_CSTAT_STATE 3, 2)]) with can := modAt State.reset.can 3 fun _ => { sending := true, fifo := [{ op := none, medium := 1, record := [1, 2, 3, 0, 0, 0, 0, 1, 0, 0, 0, 0], data := [7], retry := 3 }] } }, by decide +kernel⟩,
   ⟨3, { q := 0x813, idx := 0, n := 1, opc := 3, started := false, epoch := 1 }, { st [(QBASE_BASE 0x813, 0x1000), (QSIZE_ENTRIES 0x813, 16)] with qops := [{ q := 0x813, idx := 0, n := 1, opc := 3, started := false, epoch := 1 }] }, by decide +kernel⟩,
   ⟨3, { q := 0x813, idx := 0, n := 1, opc := 3, started := false, epoch := 1 }, { st [(QBASE_BASE 0x813, 0x1000), (QSIZE_ENTRIES 0x813, 16), (QPROD_PROD 0x803, 1), (QBASE_BASE 0x803, 0x2000), (QSIZE_ENTRIES 0x803, 16)] with qops := [{ q := 0x813, idx := 0, n := 1, opc := 3, started := false, epoch := 1 }] }, by decide +kernel⟩⟩

theorem witness_can_receives :
    (∃ (n : Fin 6) (sof : Nat) (record : List Byte) (data : List Byte) (tec : Fin 512) (rcv : Fin 256) (s : State), Runs s 9 ∧ onF s (MDB_CCTRL_EN n) = true ∧ getF s (MDB_CSTAT_STATE n) = 2 ∧ onF s (MDB_XBT_FAST n) = false ∧ tec.val < 128 ∧ rcv.val < 128 ∧ (∀ k : Fin 8, onL s (MDB_HFLT_1_EN n k) = false) ∧ (∀ k : Fin 128, onL s (MDB_FLT_1_EN n k) = false) ∧ onL s (MDB_CCTRL_NOMATCH n) = false) ∧
    (∃ (n : Fin 6) (sof : Nat) (medium : Fin 4) (record : List Byte) (data : List Byte) (tec : Fin 512) (rcv : Fin 256) (s : State), Runs s 9 ∧ onF s (MDB_CCTRL_EN n) = true ∧ getF s (MDB_CSTAT_STATE n) = 2 ∧ medium ≠ 0 ∧ mediumOk s n medium = false ∧ tec.val < 128 ∧ rcv.val < 128) ∧
    (∃ (n : Fin 6) (sof : Nat) (medium : Fin 4) (record : List Byte) (data : List Byte) (lec : Fin 7) (tec : Fin 512) (rcv : Fin 256) (s : State), Runs s 9 ∧ getF s (MDB_CSTAT_STATE n) = 0) ∧
    (∃ (n : Fin 6) (sof : Nat) (medium : Fin 4) (record : List Byte) (data : List Byte) (lec : Fin 7) (tec : Fin 512) (rcv : Fin 256) (s : State), Runs s 9 ∧ onF s (MDB_CCTRL_EN n) = true ∧ getF s (MDB_CSTAT_STATE n) = 2 ∧ lec ≠ 0 ∧ tec.val < 128 ∧ rcv.val < 128) ∧
    (∃ (n : Fin 6) (sof : Nat) (medium : Fin 4) (record : List Byte) (data : List Byte) (tec : Fin 512) (rcv : Fin 256) (k : Nat) (f : RxFrame) (s : State), Runs s 9 ∧ onF s (MDB_CCTRL_EN n) = true ∧ getF s (MDB_CSTAT_STATE n) = 2 ∧ medium ≠ 0 ∧ mediumOk s n medium = true ∧ tec.val < 128 ∧ rcv.val < 128 ∧ f = { ts := tsSof s sof, medium := medium.val, record := (record ++ List.replicate 12 0).take 12, data := data.take 2048 } ∧ (((List.range 8).find? fun k => hpMatch s n k f) = some k) ∧ onL s (MDB_HFLT_1_MAP n k) = false ∧ onL s (MDB_HFLT_1_TUN n k) = false ∧ getF s (MDB_HPSTAT_COUNT n) < 16) ∧
    (∃ (n : Fin 6) (sof : Nat) (medium : Fin 4) (record : List Byte) (data : List Byte) (tec : Fin 512) (rcv : Fin 256) (k : Nat) (f : RxFrame) (o : QOp) (s : State), Runs s 9 ∧ onF s (MDB_CCTRL_EN n) = true ∧ getF s (MDB_CSTAT_STATE n) = 2 ∧ medium ≠ 0 ∧ mediumOk s n medium = true ∧ tec.val < 128 ∧ rcv.val < 128 ∧ f = { ts := tsSof s sof, medium := medium.val, record := (record ++ List.replicate 12 0).take 12, data := data.take 2048 } ∧ (((List.range 8).find? fun k => hpMatch s n k f) = none) ∧ (((List.range 128).find? fun k => rxMatch s n k f) = some k) ∧ onL s (MDB_FLT_1_RING n k) = true ∧ onL s (MDB_FLT_1_MAP n k) = false ∧ onL s (MDB_FLT_1_TUN n k) = false ∧ firstPosted s (0x808 + n) = some o ∧ ((∀ y ∈ s.qops, y.q = 0x808 + n.val → y.epoch = getF s (QEPOCH_EPOCH (0x808 + n)))) ∧ UncachedIn s (dAddr (opDesc s o) 8) 2060 ∧ onF s MEM_INJ_ARM = false ∧ o.n = 1 ∧ engineMay s (0x808 + n) (dAddr (opDesc s o) 8) 32 true = true ∧ buffersMeet s (0x808 + n) ((o.idx + o.pos) % 65536) (dAddr (opDesc s o) 8) 32 = false ∧ dAddr (opDesc s o) 8 % 32 = 0 ∧ 12 + data.length = 32) ∧
    (∃ (r : Req) (n : Fin 6) (s : State), Ready s 9 ∧ getF s (MDB_HPSTAT_COUNT n) ≠ 0) ∧
    (∃ (r : Req) (n : Fin 6) (s : State), Ready s 9 ∧ getF s (MDB_HPSTAT_COUNT n) = 0) ∧
    (∃ (n : Fin 6) (o : QOp) (s : State), Runs s 9 ∧ freshOpc s (0x808 + n.val) 2 = some o ∧ o.epoch = getF s (QEPOCH_EPOCH (0x808 + n.val)) ∧ leAt (opDesc s o) 4 4 < 12 + maxData s n) ∧
    (∃ (n : Fin 6) (o : QOp) (s : State), Runs s 9 ∧ freshOpc s (0x808 + n.val) 2 = some o ∧ o.epoch = getF s (QEPOCH_EPOCH (0x808 + n.val)) ∧ 12 + maxData s n ≤ leAt (opDesc s o) 4 4 ∧ engineMay s (0x808 + n.val) (dAddr (opDesc s o) 8) (leAt (opDesc s o) 4 4) true = true) :=
  ⟨⟨3, 77, [1], [2], 0, 3, lv (st [(MDB_CCTRL_EN 3, 1), (MDB_CSTAT_STATE 3, 2)]) [(MDB_CCTRL_NOMATCH 3, 0)], by decide +kernel⟩,
   ⟨3, 77, 3, [1], [2], 0, 3, st [(MDB_CCTRL_EN 3, 1), (MDB_CSTAT_STATE 3, 2)], by decide +kernel⟩,
   ⟨3, 77, 3, [1], [2], 2, 0, 3, State.reset, by decide +kernel⟩,
   ⟨3, 77, 3, [1], [2], 2, 0, 3, st [(MDB_CCTRL_EN 3, 1), (MDB_CSTAT_STATE 3, 2)], by decide +kernel⟩,
   ⟨3, 77, 1, [7], [2], 0, 3, 0, { ts := tsSof State.reset 77, medium := 1, record := 7 :: List.replicate 11 0, data := [2] }, lv (st [(MDB_CCTRL_EN 3, 1), (MDB_CSTAT_STATE 3, 2)]) [(MDB_HFLT_1_EN 3 0, 1), (MDB_HFLT_1_FMT 3 0, 1), (MDB_HFLT_0_ID 3 0, 7), (MDB_HFLT_0_MASK 3 0, 255)], by decide +kernel⟩,
   ⟨3, 77, 1, [7], (List.replicate 20 3), 0, 3, 0, { ts := tsSof State.reset 77, medium := 1, record := 7 :: List.replicate 11 0, data := List.replicate 20 3 }, { q := 0x80b, idx := 0, n := 1, opc := 2, started := false, posted := true, epoch := 1 }, lv (putBytesSt { st [(MDB_CCTRL_EN 3, 1), (MDB_CSTAT_STATE 3, 2), (QBASE_BASE 0x80b, 0x1000), (QSIZE_ENTRIES 0x80b, 16)] with qops := [{ q := 0x80b, idx := 0, n := 1, opc := 2, started := false, posted := true, epoch := 1 }] } 128 ([2, 0x80, 1, 0] ++ toLE 4 2060 ++ [0, 0x20] ++ List.replicate 22 0)) [(MDB_FLT_1_EN 3 0, 1), (MDB_FLT_1_RING 3 0, 1), (MDB_FLT_1_FMT 3 0, 1), (MDB_FLT_0_ID 3 0, 7), (MDB_FLT_0_MASK 3 0, 255)], by decide +kernel⟩,
   ⟨.debugger, 3, st [(MDB_HPSTAT_COUNT 3, 16), (MDB_HPSTAT_HEAD 3, 15)], by decide +kernel⟩,
   ⟨.debugger, 3, State.reset, by decide +kernel⟩,
   ⟨3, { q := 0x80b, idx := 0, n := 1, opc := 2, started := false, epoch := 1 }, { st [(QBASE_BASE 0x80b, 0x1000), (QSIZE_ENTRIES 0x80b, 16)] with qops := [{ q := 0x80b, idx := 0, n := 1, opc := 2, started := false, epoch := 1 }] }, by decide +kernel⟩,
   ⟨3, { q := 0x80b, idx := 0, n := 1, opc := 2, started := false, epoch := 1 }, (writeMem { st [(QBASE_BASE 0x80b, 0x1000), (QSIZE_ENTRIES 0x80b, 16)] with qops := [{ q := 0x80b, idx := 0, n := 1, opc := 2, started := false, epoch := 1 }] } 0 0x1000 ([2, 0x80, 0, 0, 64, 0, 0, 0] ++ List.replicate 24 0)), by decide +kernel⟩⟩

theorem witness_backbone_switches :
    (∃ (n : Fin 4) (sof : Nat) (f : List Byte) (s : State), Runs s 6 ∧ portUp s n = false) ∧
    (∃ (n : Fin 4) (sof : Nat) (f : List Byte) (s : State), Runs s 6 ∧ portUp s n = true ∧ fcsGood f = false) ∧
    (∃ (n : Fin 4) (sof : Nat) (f : List Byte) (s : State), Runs s 6 ∧ portUp s n = true ∧ fcsGood f = true ∧ maxFrm s < f.length) ∧
    (∃ (n : Fin 4) (sof : Nat) (f : List Byte) (s : State), Runs s 6 ∧ portUp s n = true ∧ fcsGood f = true ∧ f.length ≤ maxFrm s ∧ 64 ≤ f.length ∧ bkbMode s = 0 ∧ etype (parseEth (f.take (f.length - 4)) (getF s (BKB_PCTRL_PVID n)) (getF s (BKB_PCTRL_PPCP n))) ≠ 0x88F7 ∧ vlanOf s (parseEth (f.take (f.length - 4)) (getF s (BKB_PCTRL_PVID n)) (getF s (BKB_PCTRL_PPCP n))).vid = none) ∧
    (∃ (n : Fin 4) (sof : Nat) (f : List Byte) (x : EthFrame) (v : Nat) (q : Nat) (s : State), Runs s 6 ∧ portUp s n = true ∧ fcsGood f = true ∧ f.length ≤ maxFrm s ∧ 64 ≤ f.length ∧ bkbMode s = 0 ∧ (parseEth (f.take (f.length - 4)) (getF s (BKB_PCTRL_PVID n)) (getF s (BKB_PCTRL_PPCP n))) = x ∧ etype x ≠ 0x88F7 ∧ vlanOf s x.vid = some v ∧ isMember s v 4 = false ∧ isGroup x.dst = false ∧ x.src ≠ x.dst ∧ x.dst ≠ hostMac s ∧ lookupFdb s x.vid x.dst = some q ∧ q ≠ n.val ∧ q < 4 ∧ isMember s v q = true ∧ portUp s q = true ∧ s.bkb.busy.getD q 0 ≤ freeCnt s ∧ s.bkb.egress = [] ∧ bit (gatesNow s q) x.pcp = true ∧ fitsGate s q x.pcp (ethBytes x (!bit (liveF s (BKB_VLAN_UNTAG v)) q)).length = true ∧ (ethBytes x (!bit (liveF s (BKB_VLAN_UNTAG v)) q)).length ≤ maxFrm s ∧ gateHolds s q x.pcp (ethBytes x (!bit (liveF s (BKB_VLAN_UNTAG v)) q)).length = true) ∧
    (∃ (n : Fin 4) (sof : Nat) (f : List Byte) (x : EthFrame) (v : Nat) (q : Nat) (s : State), Runs s 6 ∧ portUp s n = true ∧ fcsGood f = true ∧ f.length ≤ maxFrm s ∧ 64 ≤ f.length ∧ bkbMode s = 0 ∧ (parseEth (f.take (f.length - 4)) (getF s (BKB_PCTRL_PVID n)) (getF s (BKB_PCTRL_PPCP n))) = x ∧ etype x ≠ 0x88F7 ∧ vlanOf s x.vid = some v ∧ isMember s v 4 = false ∧ isGroup x.dst = false ∧ x.src ≠ x.dst ∧ x.dst ≠ hostMac s ∧ lookupFdb s x.vid x.dst = some q ∧ q ≠ n.val ∧ q < 4 ∧ isMember s v q = true ∧ portUp s q = true ∧ freeCnt s < s.bkb.busy.getD q 0 ∧ s.bkb.egress = [] ∧ bit (gatesNow s q) x.pcp = true ∧ fitsGate s q x.pcp (ethBytes x (!bit (liveF s (BKB_VLAN_UNTAG v)) q)).length = true ∧ (ethBytes x (!bit (liveF s (BKB_VLAN_UNTAG v)) q)).length ≤ maxFrm s ∧ gateHolds s q x.pcp (ethBytes x (!bit (liveF s (BKB_VLAN_UNTAG v)) q)).length = true) ∧
    (∃ (n : Fin 4) (sof : Nat) (f : List Byte) (x : EthFrame) (v : Nat) (o : QOp) (s : State), Runs s 6 ∧ portUp s n = true ∧ fcsGood f = true ∧ f.length ≤ maxFrm s ∧ 64 ≤ f.length ∧ bkbMode s = 0 ∧ (parseEth (f.take (f.length - 4)) (getF s (BKB_PCTRL_PVID n)) (getF s (BKB_PCTRL_PPCP n))) = x ∧ etype x ≠ 0x88F7 ∧ vlanOf s x.vid = some v ∧ isMember s v 4 = true ∧ x.dst = hostMac s ∧ x.src ≠ x.dst ∧ ctxFor s x = none ∧ s.bkb.egress = [] ∧ firstPosted s 0x701 = some o ∧ ((∀ y ∈ s.qops, y.q = 0x701 → y.epoch = getF s (QEPOCH_EPOCH 0x701))) ∧ o.n = 1 ∧ engineMay s 0x701 (dAddr (opDesc s o) 8) 64 true = true ∧ buffersMeet s 0x701 ((o.idx + o.pos) % 65536) (dAddr (opDesc s o) 8) 64 = false ∧ UncachedIn s (dAddr (opDesc s o) 8) 2048 ∧ onF s MEM_INJ_ARM = false ∧ dAddr (opDesc s o) 8 % 32 = 0 ∧ f.length = 64) ∧
    (∃ (vid : BitVec 12) (mac : BitVec 48) (s : State), Runs s 6) :=
  ⟨⟨2, 7, [], State.reset, by decide +kernel⟩,
   ⟨2, 7, [1, 2, 3, 4, 5], st [(BKB_CTRL_EN, 1), (BKB_PCTRL_EN 2, 1), (BKB_PCTRL_EN 1, 1)], by decide +kernel⟩,
   ⟨2, 7, (withFcs (List.replicate 1600 0)), st [(BKB_CTRL_EN, 1), (BKB_PCTRL_EN 2, 1), (BKB_PCTRL_EN 1, 1)], by decide +kernel⟩,
   ⟨2, 7, (withFcs ([2, 0, 0, 0, 0, 9, 2, 0, 0, 0, 0, 8, 0x88, 0x88] ++ List.replicate 46 0)), st [(BKB_CTRL_EN, 1), (BKB_PCTRL_EN 2, 1), (BKB_PCTRL_EN 1, 1)], by decide +kernel⟩,
   ⟨2, 7, (withFcs ([2, 0, 0, 0, 0, 9, 2, 0, 0, 0, 0, 8, 0x88, 0x88] ++ List.replicate 46 0)), ⟨0x020000000009, 0x020000000008, 0x88 :: 0x88 :: List.replicate 46 0, 5, 0, false, false⟩, 3, 1, lv ({ (st [(BKB_CTRL_EN, 1), (BKB_PCTRL_EN 2, 1), (BKB_PCTRL_EN 1, 1), (BKB_PCTRL_PVID 2, 5)]) with bkb := { fdb := [(5, 0x020000000009, 1, 0)] } }) [(BKB_VLAN_V 3, 1), (BKB_VLAN_VID 3, 5), (BKB_VLAN_MEMBERS 3, 6)], by decide +kernel⟩,
   ⟨2, 7, (withFcs ([2, 0, 0, 0, 0, 9, 2, 0, 0, 0, 0, 8, 0x88, 0x88] ++ List.replicate 46 0)), ⟨0x020000000009, 0x020000000008, 0x88 :: 0x88 :: List.replicate 46 0, 5, 0, false, false⟩, 3, 1, lv ({ (st [(BKB_CTRL_EN, 1), (BKB_PCTRL_EN 2, 1), (BKB_PCTRL_EN 1, 1), (BKB_PCTRL_PVID 2, 5)]) with bkb := { busy := [0, 7, 0, 0], fdb := [(5, 0x020000000009, 1, 0)] } }) [(BKB_VLAN_V 3, 1), (BKB_VLAN_VID 3, 5), (BKB_VLAN_MEMBERS 3, 6)], by decide +kernel⟩,
   ⟨2, 7, (withFcs ([0, 0, 0, 0, 0, 4, 2, 0, 0, 0, 0, 8, 0x88, 0x88] ++ List.replicate 46 0)), ⟨4, 0x020000000008, 0x88 :: 0x88 :: List.replicate 46 0, 5, 0, false, false⟩, 3, { q := 0x701, idx := 0, n := 1, opc := 2, started := false, posted := true, epoch := 1 }, lv (putBytesSt { st [(BKB_CTRL_EN, 1), (BKB_PCTRL_EN 2, 1), (BKB_PCTRL_EN 1, 1), (BKB_PCTRL_PVID 2, 5), (BKB_MAC_ADDR, 0), (QBASE_BASE 0x701, 0x1000), (QSIZE_ENTRIES 0x701, 16)] with qops := [{ q := 0x701, idx := 0, n := 1, opc := 2, started := false, posted := true, epoch := 1 }] } 128 ([2, 0x80, 1, 0] ++ toLE 4 2048 ++ [0, 0x20] ++ List.replicate 22 0)) [(BKB_VLAN_V 3, 1), (BKB_VLAN_VID 3, 5), (BKB_VLAN_MEMBERS 3, 22)], by decide +kernel⟩,
   ⟨5, 9, tk ({ (st []) with bkb := { fdb := [(5, 9, 1, 0), (5, 8, 1, 0)] } }) 300000000000, by decide +kernel⟩⟩

theorem witness_backbone_ports :
    (∃ (n : Fin 4) (k : Fin 128) (b : Nat) (s : State), Runs s 6 ∧ getF s (BKB_GCLCTL_ACTIVE n) = b ∧ k.val < gateCount s n ∧ getF s (BKB_GCL_OFFSET n b k) ≤ cycOffset s ∧ (k = 0 ∨ getF s (BKB_GCL_OFFSET n b (k.val - 1)) < getF s (BKB_GCL_OFFSET n b k)) ∧ (∀ j : Fin 128, k < j → j.val < gateCount s n → cycOffset s < getF s (BKB_GCL_OFFSET n b j)) ∧ s.bkb.egress = []) ∧
    (∃ (n : Fin 4) (k : Fin 128) (b : Nat) (f : EgFrame) (s : State), Runs s 6 ∧ getF s (BKB_GCLCTL_ACTIVE n) = b ∧ k.val < gateCount s n ∧ getF s (BKB_GCL_OFFSET n b k) ≤ cycOffset s ∧ (k = 0 ∨ getF s (BKB_GCL_OFFSET n b (k.val - 1)) < getF s (BKB_GCL_OFFSET n b k)) ∧ s.bkb.egress = [f] ∧ f.port = n ∧ f.cls < 8 ∧ f.op = none ∧ portUp s n = true ∧ s.bkb.busy.getD n 0 ≤ freeCnt s ∧ bit (gatesNow s n) f.cls = true ∧ fitsGate s n f.cls f.bytes.length = true) ∧
    (∃ (n : Fin 4) (k : Fin 128) (b : Nat) (s : State), Runs s 6 ∧ getF s (BKB_GCLCTL_ACTIVE n) = b ∧ k.val < gateCount s n ∧ getF s (BKB_GCL_OFFSET n b k) ≤ cycOffset s ∧ k ≠ 0 ∧ getF s (BKB_GCL_OFFSET n b k) ≤ getF s (BKB_GCL_OFFSET n b (k.val - 1))) ∧
    (∃ (s : State), Runs s 6 ∧ bkbMode s ≠ 0 ∧ onF s BKB_CTRL_EN = true ∧ (s.bkb.svAt = 0 ∨ s.bkb.svAt - 1 + svintNs s ≤ freeCnt s) ∧ s.bkb.egress = [] ∧ (∀ q : Fin 4, gateCount s q = 0 ∧ s.bkb.busy.getD q 0 ≤ freeCnt s)) ∧
    (∃ (s : State), Runs s 6 ∧ bkbMode s = 0) ∧
    (∃ (mac : BitVec 48) (s : State), Runs s 6 ∧ ((s.bkb.nodes.any fun x => x.1 == mac.toNat && decide (x.2 + forgetNs s ≤ freeCnt s)) = true)) ∧
    (∃ (mac : BitVec 48) (s : State), Runs s 6 ∧ ((s.bkb.nodes.any fun x => x.1 == mac.toNat && decide (x.2 + forgetNs s ≤ freeCnt s)) = false)) ∧
    (∃ (s : State), Runs s 6 ∧ ringSilent s = true ∧ onF s BKB_STAT_RINGOPEN = false) ∧
    (∃ (s : State), Runs s 6 ∧ (ringSilent s = false ∨ onF s BKB_STAT_RINGOPEN = true)) ∧
    (∃ (n : Fin 4) (s : State), Runs s 6 ∧ onF s (BKB_PSTAT_LINK n) = false ∧ (bkbMode s ≠ 2 ∨ n.val < 2)) ∧
    (∃ (n : Fin 4) (s : State), Runs s 6 ∧ onF s (BKB_PSTAT_LINK n) = true ∧ RoomFor s 6) ∧
    (∃ (n : Fin 4) (up : Bool) (s : State), Runs s 6 ∧ onF s (BKB_PSTAT_LINK n) = up) :=
  ⟨⟨2, 1, 0, tk (st [(BKB_GCLCTL_CNT0 2, 2), (BKB_GCL_OFFSET 2 0 1, 5), (BKB_GCL_GATES 2 0 1, 3)]) 7, by decide +kernel⟩,
   ⟨2, 1, 0, ⟨2, 0, [7], none⟩, tk ({ (st [(BKB_CTRL_EN, 1), (BKB_PCTRL_EN 2, 1), (BKB_PCTRL_EN 1, 1), (BKB_GCLCTL_CNT0 2, 2), (BKB_GCL_OFFSET 2 0 1, 5), (BKB_GCL_GATES 2 0 1, 3)]) with bkb := { egress := [⟨2, 0, [7], none⟩] } }) 7, by decide +kernel⟩,
   ⟨2, 1, 0, st [(BKB_GCLCTL_CNT0 2, 2)], by decide +kernel⟩,
   ⟨st [(BKB_CTRL_EN, 1), (BKB_PCTRL_EN 2, 1), (BKB_PCTRL_EN 1, 1), (BKB_CTRL_MODE, 1)], by decide +kernel⟩,
   ⟨State.reset, by decide +kernel⟩,
   ⟨9, tk ({ (st []) with bkb := { nodes := [(8, 0), (9, 0)] } }) 400000000, by decide +kernel⟩,
   ⟨9, State.reset, by decide +kernel⟩,
   ⟨tk (st [(BKB_CTRL_EN, 1), (BKB_CTRL_MODE, 2)]) 6000000000, by decide +kernel⟩,
   ⟨State.reset, by decide +kernel⟩,
   ⟨2, State.reset, by decide +kernel⟩,
   ⟨2, st [(BKB_PSTAT_LINK 2, 1)], by decide +kernel⟩,
   ⟨2, false, State.reset, by decide +kernel⟩⟩

theorem witness_backbone_time :
    (∃ (n : Fin 4) (s : State), Runs s 6 ∧ onL s BKB_ASCTL_ASEN = true ∧ getF s BKB_ASSTAT_ROLE = 1 ∧ bit (liveF s BKB_ASCTL_PORTS) n = true ∧ portUp s n = true ∧ (s.bkb.syncAt.getD n 0 = 0 ∨ s.bkb.syncAt.getD n 0 - 1 + 1000000000 / 2 ^ syncShift s ≤ freeCnt s)) ∧
    (∃ (n : Fin 4) (s : State), Runs s 6 ∧ getF s BKB_ASSTAT_ROLE ≠ 1) ∧
    (∃ (n : Fin 4) (off : Int) (rt : Int) (s : State), Runs s 6 ∧ onL s BKB_ASCTL_ASEN = true ∧ getF s BKB_ASSTAT_ROLE = 2 ∧ getF s BKB_ASSTAT_SPORT = n ∧ bit (liveF s BKB_ASCTL_PORTS) n = true ∧ off.natAbs ≤ 64 * orElse (liveF s BKB_ASCTL_QLIM) 50 10000 1000 ∧ onF s BKB_ASSTAT_QUAL = false ∧ s.mer.offs.length = 3 ∧ s.bkb.good < 7) ∧
    (∃ (n : Fin 4) (off : Int) (rt : Int) (cap : Bool) (s : State), Runs s 6 ∧ getF s BKB_ASSTAT_ROLE ≠ 2) ∧
    (∃ (s : State), Runs s 6 ∧ getF s BKB_ASSTAT_ROLE = 2 ∧ s.bkb.timeouts < 2) ∧
    (∃ (s : State), Runs s 6 ∧ getF s BKB_ASSTAT_ROLE ≠ 2) ∧
    (∃ (s : State), Runs s 6 ∧ getF s BKB_ASSTAT_ROLE = 2 ∧ 2 ≤ s.bkb.timeouts ∧ onF s BKB_ASSTAT_QUAL = true) ∧
    (∃ (h : Bool) (n : Fin 4) (p1 : BitVec 8) (cl : BitVec 8) (ac : BitVec 8) (va : BitVec 16) (p2 : BitVec 8) (id : Word) (s : State), Runs s 6 ∧ onL s BKB_ASCTL_ASEN = true ∧ onF s BKB_ASSTAT_QUAL = false ∧ (h = false ∨ bit (liveF s BKB_ASCTL_PORTS) n = false ∨ (onL s BKB_ASCTL_GMCAP = true ∧ (ownAnnounce s).rank ≤ Announce.rank ⟨p1.toNat, cl.toNat, ac.toNat, va.toNat, p2.toNat, id.toNat⟩))) ∧
    (∃ (h : Bool) (n : Fin 4) (p1 : BitVec 8) (cl : BitVec 8) (ac : BitVec 8) (va : BitVec 16) (p2 : BitVec 8) (id : Word) (s : State), Runs s 6 ∧ onL s BKB_ASCTL_ASEN = true ∧ onF s BKB_ASSTAT_QUAL = false ∧ h = true ∧ bit (liveF s BKB_ASCTL_PORTS) n = true ∧ (onL s BKB_ASCTL_GMCAP = false ∨ Announce.rank ⟨p1.toNat, cl.toNat, ac.toNat, va.toNat, p2.toNat, id.toNat⟩ < (ownAnnounce s).rank) ∧ (getF s BKB_ASSTAT_ROLE ≠ 2 ∨ getF s BKB_ASSTAT_SPORT ≠ n)) ∧
    (∃ (h : Bool) (n : Fin 4) (p1 : BitVec 8) (cl : BitVec 8) (ac : BitVec 8) (va : BitVec 16) (p2 : BitVec 8) (id : Word) (s : State), Runs s 6 ∧ onL s BKB_ASCTL_ASEN = false ∧ onF s BKB_ASSTAT_QUAL = false) :=
  ⟨⟨2, lv (st [(BKB_CTRL_EN, 1), (BKB_PCTRL_EN 2, 1), (BKB_PCTRL_EN 1, 1), (BKB_ASSTAT_ROLE, 1)]) [(BKB_ASCTL_PORTS, 15), (BKB_ASCTL_ASEN, 1)], by decide +kernel⟩,
   ⟨2, State.reset, by decide +kernel⟩,
   ⟨2, -4000, 0, lv (st [(BKB_ASSTAT_ROLE, 2), (BKB_ASSTAT_SPORT, 2)]) [(BKB_ASCTL_PORTS, 15), (BKB_ASCTL_ASEN, 1)], by decide +kernel⟩,
   ⟨2, 5, 0, true, State.reset, by decide +kernel⟩,
   ⟨st [(BKB_ASSTAT_ROLE, 2)], by decide +kernel⟩,
   ⟨State.reset, by decide +kernel⟩,
   ⟨{ (st [(BKB_ASSTAT_QUAL, 1), (BKB_ASSTAT_ROLE, 2)]) with bkb := { timeouts := 2 } }, by decide +kernel⟩,
   ⟨false, 2, 0, 0, 0, 0, 0, 0, lv State.reset [(BKB_ASCTL_ASEN, 1)], by decide +kernel⟩,
   ⟨true, 2, 0, 0, 0, 0, 0, 0, lv State.reset [(BKB_ASCTL_ASEN, 1), (BKB_ASCTL_PORTS, 15)], by decide +kernel⟩,
   ⟨true, 2, 0, 0, 0, 0, 0, 0, lv State.reset [(BKB_ASCTL_PORTS, 15)], by decide +kernel⟩⟩

theorem witness_flows_and_tunnels :
    (∃ (r : Req) (f : Fin 256) (s : State), Ready s 6 ∧ getF s (BKB_FC_0_KIND f) < 5) ∧
    (∃ (r : Req) (f : Fin 256) (s : State), Ready s 6 ∧ 5 ≤ getF s (BKB_FC_0_KIND f)) ∧
    (∃ (r : Req) (f : Fin 256) (s : State), Ready s 6) ∧
    (∃ (f : Fin 256) (s : State), Runs s 6 ∧ (onF s (BKB_FC_0_EN f) = false ∨ getF s (BKB_FC_0_KIND f) ≠ 1 ∨ s.bkb.txDone.contains f.val = true ∨ cycOffset s < fc2 s f % 2 ^ 27)) ∧
    (∃ (f : Fin 256) (u : State) (p : List Byte) (s : State), Runs s 6 ∧ onF s (BKB_FC_0_EN f) = true ∧ getF s (BKB_FC_0_KIND f) = 1 ∧ ctxMaySend s f = true ∧ s.bkb.txDone.contains f.val = false ∧ fc2 s f % 2 ^ 27 ≤ cycOffset s ∧ packMap (getF s (BKB_FC_1_ID f)) { s with bkb := { s.bkb with txDone := f.val :: s.bkb.txDone } } = (u, some p)) ∧
    (∃ (c : Nat) (m : Nat) (ts : Nat) (w : List Byte) (r : List (Nat × Nat × Nat × List Byte)) (s : State), Runs s 6 ∧ s.bkb.toWrap = (c, m, ts, w) :: r ∧ onF s (BKB_FC_0_EN c) = false) ∧
    (∃ (c : Nat) (m : Nat) (ts : Nat) (w : List Byte) (r : List (Nat × Nat × Nat × List Byte)) (s : State), Runs s 6 ∧ s.bkb.toWrap = (c, m, ts, w) :: r ∧ c < 256 ∧ onF s (BKB_FC_0_EN c) = true ∧ getF s (BKB_FC_0_KIND c) = 3 ∧ ctxMaySend s c = true ∧ w.length ≤ 1400 ∧ onF s (BKB_FC_3_FIRST c) = false) ∧
    (∃ (s : State), Runs s 6 ∧ s.bkb.toWrap = []) ∧
    (∃ (o : QOp) (s : State), Runs s 6 ∧ freshOpc s 0x700 1 = some o ∧ o.epoch = getF s (QEPOCH_EPOCH 0x700) ∧ leAt (opDesc s o) 4 2 < 60) ∧
    (∃ (o : QOp) (b : List Byte) (x : EthFrame) (v : Nat) (q : Nat) (s : State), Runs s 6 ∧ freshOpc s 0x700 1 = some o ∧ o.epoch = getF s (QEPOCH_EPOCH 0x700) ∧ 60 ≤ leAt (opDesc s o) 4 2 ∧ leAt (opDesc s o) 4 2 + 4 ≤ maxFrm s ∧ engineMay s 0x700 (dAddr (opDesc s o) 8) (leAt (opDesc s o) 4 2) false = true ∧ readMem s (dAddr (opDesc s o) 8) (leAt (opDesc s o) 4 2) = some b ∧ o.n = 1 ∧ parseEth b 1 0 = x ∧ bkbMode s = 0 ∧ vlanOf s x.vid = some v ∧ isGroup x.dst = false ∧ x.src ≠ x.dst ∧ lookupFdb s x.vid x.dst = some q ∧ q < 4 ∧ isMember s v q = true ∧ portUp s q = true ∧ s.bkb.busy.getD q 0 ≤ freeCnt s ∧ s.bkb.egress = [] ∧ bit (gatesNow s q) x.pcp = true ∧ fitsGate s q x.pcp (ethBytes x (!bit (liveF s (BKB_VLAN_UNTAG v)) q)).length = true ∧ (ethBytes x (!bit (liveF s (BKB_VLAN_UNTAG v)) q)).length ≤ maxFrm s ∧ gateHolds s q x.pcp (ethBytes x (!bit (liveF s (BKB_VLAN_UNTAG v)) q)).length = true) ∧
    (∃ (o : QOp) (b : List Byte) (s : State), Runs s 6 ∧ freshOpc s 0x700 1 = some o ∧ o.epoch = getF s (QEPOCH_EPOCH 0x700) ∧ 60 ≤ leAt (opDesc s o) 4 2 ∧ leAt (opDesc s o) 4 2 + 4 ≤ maxFrm s ∧ engineMay s 0x700 (dAddr (opDesc s o) 8) (leAt (opDesc s o) 4 2) false = true ∧ readMem s (dAddr (opDesc s o) 8) (leAt (opDesc s o) 4 2) = some b ∧ o.n = 1 ∧ ((s.bkb.egress.any fun f => f.op == some o.idx) = false) ∧ vlanOf s (parseEth b 1 0).vid = none) ∧
    (∃ (o : QOp) (s : State), Runs s 6 ∧ freshOpc s 0x701 2 = some o ∧ o.epoch = getF s (QEPOCH_EPOCH 0x701) ∧ leAt (opDesc s o) 4 4 < maxFrm s) ∧
    (∃ (o : QOp) (s : State), Runs s 6 ∧ freshOpc s 0x701 2 = some o ∧ o.epoch = getF s (QEPOCH_EPOCH 0x701) ∧ maxFrm s ≤ leAt (opDesc s o) 4 4 ∧ engineMay s 0x701 (dAddr (opDesc s o) 8) (leAt (opDesc s o) 4 4) true = true) :=
  ⟨⟨.debugger, 7, State.reset, by decide +kernel⟩,
   ⟨.debugger, 7, st [(BKB_FC_0_KIND 7, 5)], by decide +kernel⟩,
   ⟨.debugger, 7, st [(BKB_FC_0_EPOCH 7, 0xFFFF)], by decide +kernel⟩,
   ⟨7, State.reset, by decide +kernel⟩,
   ⟨7, (packMap 7 {(writeMem { st [(BKB_FC_0_EN 7, 1), (BKB_FC_0_KIND 7, 1), (BKB_FC_1_ID 7, 7), (CHT_CTRL_EN, 1), (CHT_MAPBASE_BASE, 0x2000000)] with chart := { pins := [(7, [0, 0, 0, 1, 0, 1, 0, 6, 1, 0, 0, 0, 0, 0, 0, 0], [5, 0, 0, 0, 0, 64, 0, 0])] } } 0 0x6000000A0 (List.replicate 32 0)) with bkb := {txDone := [7]}}).1, [0], (writeMem { st [(BKB_FC_0_EN 7, 1), (BKB_FC_0_KIND 7, 1), (BKB_FC_1_ID 7, 7), (CHT_CTRL_EN, 1), (CHT_MAPBASE_BASE, 0x2000000)] with chart := { pins := [(7, [0, 0, 0, 1, 0, 1, 0, 6, 1, 0, 0, 0, 0, 0, 0, 0], [5, 0, 0, 0, 0, 64, 0, 0])] } } 0 0x6000000A0 (List.replicate 32 0)), by decide +kernel⟩,
   ⟨7, 1, 5, [1], [], { (st []) with bkb := { toWrap := [(7, 1, 5, [1])] } }, by decide +kernel⟩,
   ⟨7, 1, 5, [1], [], { (st [(BKB_FC_0_EN 7, 1), (BKB_FC_0_KIND 7, 3), (BKB_FC_3_FIRST 7, 0)]) with bkb := { toWrap := [(7, 1, 5, [1])] } }, by decide +kernel⟩,
   ⟨State.reset, by decide +kernel⟩,
   ⟨{ q := 0x700, idx := 0, n := 1, opc := 1, started := false, epoch := 1 }, { st [(QBASE_BASE 0x700, 0x1000), (QSIZE_ENTRIES 0x700, 16), (QCTRL_EN 0x700, 1)] with qops := [{ q := 0x700, idx := 0, n := 1, opc := 1, started := false, epoch := 1 }] }, by decide +kernel⟩,
   ⟨{ q := 0x700, idx := 0, n := 1, opc := 1, started := false, epoch := 1 }, ([2, 0, 0, 0, 0, 9, 2, 0, 0, 0, 0, 8, 0x88, 0x88] ++ List.replicate 46 0), ⟨0x020000000009, 0x020000000008, 0x88 :: 0x88 :: List.replicate 46 0, 1, 0, false, false⟩, 0, 1, lv (writeMem (writeMem { st [(BKB_CTRL_EN, 1), (BKB_PCTRL_EN 2, 1), (BKB_PCTRL_EN 1, 1), (QBASE_BASE 0x700, 0x1000), (QSIZE_ENTRIES 0x700, 16), (QCTRL_EN 0x700, 1)] with qops := [{ q := 0x700, idx := 0, n := 1, opc := 1, started := false, epoch := 1 }], bkb := { fdb := [(1, 0x020000000009, 1, 0)] } } 0 0x1000 ([1, 0x80, 0, 0, 60, 0, 0, 0, 0, 0x20, 0, 0, 0] ++ List.replicate 19 0)) 0 0x2000 ([2, 0, 0, 0, 0, 9, 2, 0, 0, 0, 0, 8, 0x88, 0x88] ++ List.replicate 46 0)) [(BKB_VLAN_V 0, 1), (BKB_VLAN_VID 0, 1), (BKB_VLAN_MEMBERS 0, 22)], by decide +kernel⟩,
   ⟨{ q := 0x700, idx := 0, n := 1, opc := 1, started := false, epoch := 1 }, (List.replicate 60 0), lv (writeMem ({ st [(QBASE_BASE 0x700, 0x1000), (QSIZE_ENTRIES 0x700, 16), (QCTRL_EN 0x700, 1)] with qops := [{ q := 0x700, idx := 0, n := 1, opc := 1, started := false, epoch := 1 }] }) 0 0x1000 ([1, 0x80, 0, 0, 60, 0, 0, 0, 0, 0x20, 0, 0, 0] ++ List.replicate 19 0)) ((List.range 64).map fun v => (BKB_VLAN_V v, 0)), by decide +kernel⟩,
   ⟨{ q := 0x701, idx := 0, n := 1, opc := 2, started := false, epoch := 1 }, { st [(QBASE_BASE 0x701, 0x1000), (QSIZE_ENTRIES 0x701, 16), (QCTRL_EN 0x701, 1)] with qops := [{ q := 0x701, idx := 0, n := 1, opc := 2, started := false, epoch := 1 }] }, by decide +kernel⟩,
   ⟨{ q := 0x701, idx := 0, n := 1, opc := 2, started := false, epoch := 1 }, (writeMem ({ st [(QBASE_BASE 0x701, 0x1000), (QSIZE_ENTRIES 0x701, 16), (QCTRL_EN 0x701, 1)] with qops := [{ q := 0x701, idx := 0, n := 1, opc := 2, started := false, epoch := 1 }] }) 0 0x1000 ([2, 0x80, 0, 0, 0, 8, 0, 0] ++ List.replicate 24 0)), by decide +kernel⟩⟩

theorem witness_bridge_outbound :
    (∃ (r : Req) (a : BitVec 40) (size : Nat) (d : List Byte) (k : Nat) (s : State), Runs s 0xA ∧ onF s (SYS_ISL_STOPPED 0xA) = false ∧ kindRefused .store a.toNat = none ∧ bridgeUp s = true ∧ windowAt s a.toNat = some k ∧ (size = 1 ∨ size = 2 ∨ size = 4 ∨ size = 8) ∧ toBackplane s k a.toNat % 4096 + size ≤ 4096 ∧ onF s (BRG_OW_0_NP k) = false) ∧
    (∃ (r : Req) (a : BitVec 40) (size : Nat) (d : List Byte) (k : Nat) (g : Nat) (s : State), Runs s 0xA ∧ onF s (SYS_ISL_STOPPED 0xA) = false ∧ kindRefused .load a.toNat = none ∧ bridgeUp s = true ∧ windowAt s a.toNat = some k ∧ (size = 1 ∨ size = 2 ∨ size = 4 ∨ size = 8) ∧ toBackplane s k a.toNat % 4096 + size ≤ 4096 ∧ s.brg.pf = [] ∧ pfLen s k = 0 ∧ (s.brg.held.all (fun h => h.tag.isSome) = true) ∧ freeTag s = some g) ∧
    (∃ (r : Req) (a : BitVec 40) (size : Nat) (d : List Byte) (k : Nat) (p : PfBuf) (s : State), Runs s 0xA ∧ onF s (SYS_ISL_STOPPED 0xA) = false ∧ kindRefused .load a.toNat = none ∧ bridgeUp s = true ∧ windowAt s a.toNat = some k ∧ (size = 1 ∨ size = 2 ∨ size = 4 ∨ size = 8) ∧ toBackplane s k a.toNat % 4096 + size ≤ 4096 ∧ 0 < pfLen s k ∧ ((s.brg.pf.find? fun p => p.win == k && pfFresh s p && decide (p.addr ≤ toBackplane s k a.toNat) && decide (toBackplane s k a.toNat + size ≤ p.addr + p.data.length)) = some p)) ∧
    (∃ (r : Req) (a : BitVec 40) (size : Nat) (d : List Byte) (s : State), Runs s 0xA ∧ onF s (SYS_ISL_STOPPED 0xA) = false ∧ kindRefused .load a.toNat = none ∧ windowAt s a.toNat = none) ∧
    (∃ (g : Fin 32) (d : List Byte) (h : HeldReq) (r : Req) (kd : AccKind) (s : State), Runs s 0xA ∧ s.brg.held = [h] ∧ h.tag = some g.val ∧ h.who = some (r, kd) ∧ h.flush = false ∧ h.block = none) ∧
    (∃ (g : Fin 32) (d : List Byte) (h : HeldReq) (r : Req) (kd : AccKind) (s : State), Runs s 0xA ∧ s.brg.held = [h] ∧ h.tag = some g.val ∧ h.who = some (r, kd)) ∧
    (∃ (g : Fin 32) (ok : Bool) (d : List Byte) (s : State), Runs s 0xA ∧ ((s.brg.held.find? fun h => h.tag == some g.val) = none)) ∧
    (∃ (h : HeldReq) (r : Req) (kd : AccKind) (s : State), Runs s 0xA ∧ s.brg.held = [h] ∧ h.at' + 50000 ≤ freeCnt s ∧ h.who = some (r, kd)) ∧
    (∃ (s : State), Runs s 0xA ∧ (s.brg.held.all (fun h => decide (freeCnt s < h.at' + 50000)) = true)) ∧
    (∃ (k : Fin 4) (p : PfBuf) (s : State), Runs s 0xA ∧ s.brg.pf[k.val]? = some p ∧ p.at' + 1000 * max 1 (liveF s BRG_CTRL_PFAGE) ≤ freeCnt s) :=
  ⟨⟨.hart 3 true, 0x4000000010, 4, [1, 2, 3, 4], 2, { (st [(BRG_CTRL_EN, 1), (BRG_STAT_LINK, 1), (BRG_OW_0_EN 2, 1), (BRG_OW_1_LBASE 2, 0x4000000), (BRG_OW_1_SIZE 2, 16), (BRG_OW_2_TBASE 2, 0x90000)]) with brg := { pf := [⟨2, 0x90000, [1], 0⟩] } }, by decide +kernel⟩,
   ⟨.hart 3 true, 0x4000000010, 4, [], 2, 0, { (st [(BRG_CTRL_EN, 1), (BRG_STAT_LINK, 1), (BRG_OW_0_EN 2, 1), (BRG_OW_1_LBASE 2, 0x4000000), (BRG_OW_1_SIZE 2, 16), (BRG_OW_2_TBASE 2, 0x90000)]) with brg := {  } }, by decide +kernel⟩,
   ⟨.hart 3 true, 0x4000000010, 4, [], 2, ⟨2, 0x90000, List.replicate 64 5, 0⟩, { (st [(BRG_CTRL_EN, 1), (BRG_STAT_LINK, 1), (BRG_OW_0_EN 2, 1), (BRG_OW_1_LBASE 2, 0x4000000), (BRG_OW_1_SIZE 2, 16), (BRG_OW_2_TBASE 2, 0x90000), (BRG_OW_0_PFLEN 2, 1)]) with brg := { pf := [⟨2, 0x90000, List.replicate 64 5, 0⟩] } }, by decide +kernel⟩,
   ⟨.hart 3 true, 0x4000000010, 4, [], State.reset, by decide +kernel⟩,
   ⟨0, [1, 2, 3, 4, 5], { who := some (.hart 3 true, .load), win := 2, addr := 0x90010, len := 4, flush := false, tag := some 0 }, .hart 3 true, .load, { (st [(BRG_CTRL_EN, 1), (BRG_STAT_LINK, 1), (BRG_OW_0_EN 2, 1), (BRG_OW_1_LBASE 2, 0x4000000), (BRG_OW_1_SIZE 2, 16), (BRG_OW_2_TBASE 2, 0x90000)]) with brg := { held := [{ who := some (.hart 3 true, .load), win := 2, addr := 0x90010, len := 4, flush := false, tag := some 0 }] } }, by decide +kernel⟩,
   ⟨0, [], { who := some (.hart 3 true, .load), win := 2, addr := 0x90010, len := 4, flush := false, tag := some 0 }, .hart 3 true, .load, { (st [(BRG_CTRL_EN, 1), (BRG_STAT_LINK, 1), (BRG_OW_0_EN 2, 1), (BRG_OW_1_LBASE 2, 0x4000000), (BRG_OW_1_SIZE 2, 16), (BRG_OW_2_TBASE 2, 0x90000)]) with brg := { held := [{ who := some (.hart 3 true, .load), win := 2, addr := 0x90010, len := 4, flush := false, tag := some 0 }] } }, by decide +kernel⟩,
   ⟨0, true, [], State.reset, by decide +kernel⟩,
   ⟨{ who := some (.hart 3 true, .load), win := 2, addr := 0x90010, len := 4, flush := false, tag := some 0 }, .hart 3 true, .load, tk ({ (st [(BRG_CTRL_EN, 1), (BRG_STAT_LINK, 1), (BRG_OW_0_EN 2, 1), (BRG_OW_1_LBASE 2, 0x4000000), (BRG_OW_1_SIZE 2, 16), (BRG_OW_2_TBASE 2, 0x90000)]) with brg := { held := [{ who := some (.hart 3 true, .load), win := 2, addr := 0x90010, len := 4, flush := false, tag := some 0 }] } }) 50000, by decide +kernel⟩,
   ⟨State.reset, by decide +kernel⟩,
   ⟨1, ⟨2, 0x90040, [2], 0⟩, tk ({ (st [(BRG_CTRL_EN, 1), (BRG_STAT_LINK, 1), (BRG_OW_0_EN 2, 1), (BRG_OW_1_LBASE 2, 0x4000000), (BRG_OW_1_SIZE 2, 16), (BRG_OW_2_TBASE 2, 0x90000)]) with brg := { pf := [⟨2, 0x90000, [1], 0⟩, ⟨2, 0x90040, [2], 0⟩] } }) 10000000, by decide +kernel⟩⟩

theorem witness_bridge_inbound :
    (∃ (b : Word) (d : List Byte) (x : Nat) (k : Nat) (g : Nat) (s : State), Runs s 0xA ∧ onF s (SYS_ISL_STOPPED 0xA) = false ∧ bridgeUp s = true ∧ (b.toNat ≠ 0xFEE00000 ∨ onF s BRG_CTRL_ROLE = true) ∧ inAddr s b.toNat = some x ∧ (((List.range 8).find? fun j => (inTarget s j x 32).isSome) = some k) ∧ inTarget s k x 32 = some g ∧ Uncached s g ∧ onF s (BRG_IW_0_WR k) = true ∧ regionsAt s g 32 = [] ∧ g % 32 = 0 ∧ d.length = 32 ∧ onF s MEM_INJ_ARM = false) ∧
    (∃ (b : Word) (n : Nat) (d : List Byte) (x : List Byte) (y : Nat) (k : Nat) (g : Nat) (s : State), Runs s 0xA ∧ onF s (SYS_ISL_STOPPED 0xA) = false ∧ bridgeUp s = true ∧ inAddr s b.toNat = some y ∧ (((List.range 8).find? fun j => (inTarget s j y n).isSome) = some k) ∧ inTarget s k y n = some g ∧ 1 ≤ n ∧ n ≤ 256 ∧ onF s (BRG_IW_0_RD k) = true ∧ regionsAt s g n = [] ∧ readMem s g n = some x) ∧
    (∃ (o : Fin 1024) (n : Nat) (d : List Byte) (s : State), Runs s 0xA ∧ onF s (SYS_ISL_STOPPED 0xA) = false ∧ bridgeUp s = true ∧ onF s BRG_CTRL_ROLE = true ∧ 1 ≤ n ∧ n ≤ 4) ∧
    (∃ (d : List Byte) (s : State), Runs s 0xA ∧ onF s (SYS_ISL_STOPPED 0xA) = false ∧ bridgeUp s = true ∧ onF s BRG_CTRL_ROLE = true ∧ d.length = 4) ∧
    (∃ (b : Word) (n : Nat) (d : List Byte) (s : State), Runs s 0xA ∧ onF s (SYS_ISL_STOPPED 0xA) = false ∧ bridgeUp s = true ∧ ((match inAddr s b.toNat with | none => true | some y => ((List.range 8).find? fun j => (inTarget s j y n).isSome).isNone) = true)) ∧
    (∃ (i : Option (Fin 4)) (d : BitVec 32) (e : Nat) (p : Nat) (s : State), Runs s 0xA ∧ bridgeUp s = true ∧ onF s BRG_CTRL_ROLE = false ∧ (e = (match i with | some k => 32 + k.val | none => d.toNat % 32)) ∧ 1 ≤ getF s (BRG_MSIRT_EIID e) ∧ getF s (BRG_MSIRT_EIID e) ≤ 255 ∧ filePage (getF s (BRG_MSIRT_HART e)) (getF s (BRG_MSIRT_LEVEL e)) (getF s (BRG_MSIRT_GUEST e)) = some p ∧ CrossOpen s (fileIsland p) 3 (fileIsland p)) ∧
    (∃ (i : Option (Fin 4)) (d : BitVec 32) (s : State), Runs s 0xA ∧ (bridgeUp s = false ∨ onF s BRG_CTRL_ROLE = true)) ∧
    (∃ (r : Req) (v : Fin 32) (s : State), Ready s 0xA ∧ bridgeUp s = true ∧ onF s BRG_CTRL_ROLE = true ∧ bit s.brg.ep.msiCtl 0 = true) ∧
    (∃ (r : Req) (v : Fin 32) (s : State), Ready s 0xA ∧ (onF s BRG_CTRL_ROLE = false ∨ bit s.brg.ep.msiCtl 0 = false)) ∧
    (∃ (rid : BitVec 16) (fatal : Bool) (s : State), Runs s 0xA ∧ bridgeUp s = true ∧ onF s BRG_CTRL_ROLE = false) ∧
    (∃ (l : List (Option (BitVec 32))) (rid : Nat) (m : Nat) (x : Nat) (s : State), Runs s 0xA ∧ s.brg.fetches = [(rid, m, x)] ∧ getF s BRG_ELSTAT_COUNT < 16 ∧ (fetchWalk rid 0x100 l s).2 = none) ∧
    (∃ (l : List (Option (BitVec 32))) (rid : Nat) (m : Nat) (x : Nat) (o : Nat) (sc : Nat) (lg : List Nat) (s : State), Runs s 0xA ∧ s.brg.fetches = [(rid, m, x)] ∧ getF s BRG_ELSTAT_COUNT < 16 ∧ (fetchWalk rid 0x100 l s).2 = some (o, sc, lg)) ∧
    (∃ (l : List (Option (BitVec 32))) (s : State), Runs s 0xA ∧ s.brg.fetches = []) ∧
    (∃ (r : Req) (s : State), Ready s 0xA ∧ getF s BRG_ELSTAT_COUNT ≠ 0) ∧
    (∃ (r : Req) (s : State), Ready s 0xA ∧ getF s BRG_ELSTAT_COUNT = 0) :=
  ⟨⟨0x50040, (List.replicate 32 7), 0x50040, 1, 0x30040, st [(BRG_CTRL_EN, 1), (BRG_STAT_LINK, 1), (BRG_IW_0_EN 1, 1), (BRG_IW_0_RD 1, 1), (BRG_IW_0_WR 1, 1), (BRG_IW_0_SIZE 1, 16), (BRG_IW_1_BBASE 1, 0x50000), (BRG_IW_2_TBASE 1, 0x30000)], by decide +kernel⟩,
   ⟨0x50048, 4, [], [0, 0, 0, 0], 0x50048, 1, 0x30048, st [(BRG_CTRL_EN, 1), (BRG_STAT_LINK, 1), (BRG_IW_0_EN 1, 1), (BRG_IW_0_RD 1, 1), (BRG_IW_0_WR 1, 1), (BRG_IW_0_SIZE 1, 16), (BRG_IW_1_BBASE 1, 0x50000), (BRG_IW_2_TBASE 1, 0x30000)], by decide +kernel⟩,
   ⟨2, 4, [], st [(BRG_CTRL_EN, 1), (BRG_STAT_LINK, 1), (BRG_IW_0_EN 1, 1), (BRG_IW_0_RD 1, 1), (BRG_IW_0_WR 1, 1), (BRG_IW_0_SIZE 1, 16), (BRG_IW_1_BBASE 1, 0x50000), (BRG_IW_2_TBASE 1, 0x30000), (BRG_CTRL_ROLE, 1)], by decide +kernel⟩,
   ⟨[1, 2, 3, 4], st [(BRG_CTRL_EN, 1), (BRG_STAT_LINK, 1), (BRG_IW_0_EN 1, 1), (BRG_IW_0_RD 1, 1), (BRG_IW_0_WR 1, 1), (BRG_IW_0_SIZE 1, 16), (BRG_IW_1_BBASE 1, 0x50000), (BRG_IW_2_TBASE 1, 0x30000), (BRG_CTRL_ROLE, 1)], by decide +kernel⟩,
   ⟨0x70048, 4, [], st [(BRG_CTRL_EN, 1), (BRG_STAT_LINK, 1), (BRG_IW_0_EN 1, 1), (BRG_IW_0_RD 1, 1), (BRG_IW_0_WR 1, 1), (BRG_IW_0_SIZE 1, 16), (BRG_IW_1_BBASE 1, 0x50000), (BRG_IW_2_TBASE 1, 0x30000)], by decide +kernel⟩,
   ⟨some 1, 0, 33, 0x2080012000, st [(BRG_CTRL_EN, 1), (BRG_STAT_LINK, 1), (BRG_OW_0_EN 2, 1), (BRG_OW_1_LBASE 2, 0x4000000), (BRG_OW_1_SIZE 2, 16), (BRG_OW_2_TBASE 2, 0x90000), (BRG_MSIRT_EIID 33, 40), (BRG_MSIRT_HART 33, 18)], by decide +kernel⟩,
   ⟨none, 33, State.reset, by decide +kernel⟩,
   ⟨.debugger, 7, { st [(BRG_CTRL_EN, 1), (BRG_STAT_LINK, 1), (BRG_OW_0_EN 2, 1), (BRG_OW_1_LBASE 2, 0x4000000), (BRG_OW_1_SIZE 2, 16), (BRG_OW_2_TBASE 2, 0x90000), (BRG_CTRL_ROLE, 1)] with brg := { ep := { msiCtl := 1, msiAddr := 0xFEE00000 } } }, by decide +kernel⟩,
   ⟨.debugger, 7, State.reset, by decide +kernel⟩,
   ⟨77, true, st [(BRG_CTRL_EN, 1), (BRG_STAT_LINK, 1), (BRG_OW_0_EN 2, 1), (BRG_OW_1_LBASE 2, 0x4000000), (BRG_OW_1_SIZE 2, 16), (BRG_OW_2_TBASE 2, 0x90000)], by decide +kernel⟩,
   ⟨[some 0x10010003, none], 77, 2, 5, { (st [(BRG_ELSTAT_COUNT, 3), (BRG_ELSTAT_HEAD, 15)]) with brg := { fetches := [(77, 2, 5)] } }, by decide +kernel⟩,
   ⟨[some 0x10010001, some 0x4000, some 0x20000000, some 1, some 2, some 0x3004], 77, 2, 5, 0x100, 0x4000, [0x20000000, 1, 2, 0x3004], { (st [(BRG_ELSTAT_COUNT, 3), (BRG_ELSTAT_HEAD, 15)]) with brg := { fetches := [(77, 2, 5)] } }, by decide +kernel⟩,
   ⟨[none], State.reset, by decide +kernel⟩,
   ⟨.debugger, st [(BRG_ELSTAT_COUNT, 3), (BRG_ELSTAT_HEAD, 15)], by decide +kernel⟩,
   ⟨.debugger, State.reset, by decide +kernel⟩⟩

theorem witness_bridge_copies :
    (∃ (r : Req) (v : Word) (s : State), Ready s 0xA ∧ onF s BRG_CTRL_ROLE = false ∧ onF s BRG_CTRL_EN = true ∧ onF s BRG_CFGREQ_BUSY = false ∧ bits v.toNat 28 2 ≠ 3 ∧ bits v.toNat 16 12 % 2 ^ bits v.toNat 28 2 = 0) ∧
    (∃ (r : Req) (v : Word) (s : State), Ready s 0xA ∧ onF s BRG_CTRL_ROLE = false ∧ onF s BRG_CTRL_EN = true ∧ onF s BRG_CFGREQ_BUSY = false ∧ (bits v.toNat 28 2 = 3 ∨ bits v.toNat 16 12 % 2 ^ bits v.toNat 28 2 ≠ 0)) ∧
    (∃ (res : Fin 8) (d : BitVec 32) (s : State), Runs s 0xA ∧ s.brg.cfg = true ∧ 1 ≤ res.val ∧ (res.val ≤ 3 ∨ (res = 4 ∧ s.brg.cfgAt + 50000 ≤ freeCnt s))) ∧
    (∃ (res : Fin 8) (d : BitVec 32) (s : State), Runs s 0xA ∧ (s.brg.cfg = false ∨ res = 0 ∨ 5 ≤ res.val ∨ (res = 4 ∧ freeCnt s < s.brg.cfgAt + 50000))) ∧
    (∃ (o : QOp) (k : Nat) (x : List Byte) (s : State), Runs s 0xA ∧ freshOpc s 0x900 1 = some o ∧ o.epoch = getF s (QEPOCH_EPOCH 0x900) ∧ s.qops = [o] ∧ o.n = 1 ∧ s.brg.held = [] ∧ checkCopy s (opDesc s o) false = none ∧ copyLen (opDesc s o) = 64 ∧ windowAt s (copyLocal (opDesc s o)) = some k ∧ readMem s (copyDram (opDesc s o)) 64 = some x ∧ onF s (BRG_OW_0_NP k) = false) ∧
    (∃ (o : QOp) (c : Nat) (s : State), Runs s 0xA ∧ freshOpc s 0x900 1 = some o ∧ o.epoch = getF s (QEPOCH_EPOCH 0x900) ∧ s.qops = [o] ∧ s.brg.held = [] ∧ checkCopy s (opDesc s o) false = some c) ∧
    (∃ (o : QOp) (k : Nat) (g : Nat) (s : State), Runs s 0xA ∧ freshOpc s 0x900 2 = some o ∧ o.epoch = getF s (QEPOCH_EPOCH 0x900) ∧ s.qops = [o] ∧ s.brg.held = [] ∧ checkCopy s (opDesc s o) true = none ∧ windowAt s (copyLocal (opDesc s o)) = some k ∧ freeTag s = some g) ∧
    (∃ (s : State), Runs s 0xA ∧ freshOpc s 0x900 2 = none) ∧
    (∃ (h : HeldReq) (r : Req) (kd : AccKind) (s : State), Runs s 0xA ∧ s.brg.held = [h] ∧ h.who = some (r, kd) ∧ s.brg.fetches = [] ∧ s.brg.cfg = false) ∧
    (∃ (dis : Bool) (n : Nat) (s : State), Runs s 0xA ∧ s.brg.held = [] ∧ 1 ≤ n ∧ s.brg.fetches = [] ∧ s.brg.cfg = false) ∧
    (∃ (sp : Fin 4) (w : Fin 5) (s : State), Runs s 0xA ∧ onF s BRG_CTRL_EN = true ∧ getF s BRG_CTRL_MAXSPD = 0 ∧ getF s BRG_CTRL_MAXW = 0) ∧
    (∃ (sp : Fin 4) (w : Fin 5) (s : State), Runs s 0xA ∧ onF s BRG_CTRL_EN = false) ∧
    (∃ (s : State), Runs s 0xA ∧ onF s BRG_CTRL_EN = true ∧ onF s BRG_CTRL_ROLE = false ∧ s.brg.perst = false ∧ s.brg.enAt ≠ 0 ∧ s.brg.enAt - 1 + 100000000 ≤ freeCnt s) ∧
    (∃ (s : State), Runs s 0xA ∧ (onF s BRG_CTRL_EN = false ∨ onF s BRG_CTRL_ROLE = true ∨ s.brg.perst = true ∨ freeCnt s < s.brg.enAt - 1 + 100000000)) :=
  ⟨⟨.debugger, 0x60040000, st [(BRG_CTRL_EN, 1), (BRG_STAT_LINK, 1), (BRG_OW_0_EN 2, 1), (BRG_OW_1_LBASE 2, 0x4000000), (BRG_OW_1_SIZE 2, 16), (BRG_OW_2_TBASE 2, 0x90000)], by decide +kernel⟩,
   ⟨.debugger, 0x60010000, st [(BRG_CTRL_EN, 1), (BRG_STAT_LINK, 1), (BRG_OW_0_EN 2, 1), (BRG_OW_1_LBASE 2, 0x4000000), (BRG_OW_1_SIZE 2, 16), (BRG_OW_2_TBASE 2, 0x90000)], by decide +kernel⟩,
   ⟨1, 0x1234, { (st [(BRG_CTRL_EN, 1), (BRG_STAT_LINK, 1), (BRG_OW_0_EN 2, 1), (BRG_OW_1_LBASE 2, 0x4000000), (BRG_OW_1_SIZE 2, 16), (BRG_OW_2_TBASE 2, 0x90000)]) with brg := { cfg := true } }, by decide +kernel⟩,
   ⟨1, 0x1234, State.reset, by decide +kernel⟩,
   ⟨{ q := 0x900, idx := 0, n := 1, opc := 1, started := false, epoch := 1 }, 2, (List.replicate 64 0), { (writeMem (st [(QBASE_BASE 0x900, 0x1000), (QSIZE_ENTRIES 0x900, 16), (BRG_CTRL_EN, 1), (BRG_STAT_LINK, 1), (BRG_OW_0_EN 2, 1), (BRG_OW_1_LBASE 2, 0x4000000), (BRG_OW_1_SIZE 2, 16), (BRG_OW_2_TBASE 2, 0x90000)]) 0 0x1000 ([1, 0x80, 0, 0, 64, 0, 0, 0, 0, 0x20, 0, 0, 0, 0, 0, 0, 0, 0, 0, 0, 0x40] ++ List.replicate 11 0)) with qops := [{ q := 0x900, idx := 0, n := 1, opc := 1, started := false, epoch := 1 }] }, by decide +kernel⟩,
   ⟨{ q := 0x900, idx := 0, n := 1, opc := 1, started := false, epoch := 1 }, stACCESS, { (writeMem (st [(QBASE_BASE 0x900, 0x1000), (QSIZE_ENTRIES 0x900, 16), (BRG_CTRL_EN, 1)]) 0 0x1000 ([1, 0x80, 0, 0, 64, 0, 0, 0, 0, 0x20, 0, 0, 0, 0, 0, 0, 0, 0, 0, 0, 0x40] ++ List.replicate 11 0)) with qops := [{ q := 0x900, idx := 0, n := 1, opc := 1, started := false, epoch := 1 }] }, by decide +kernel⟩,
   ⟨{ q := 0x900, idx := 0, n := 1, opc := 2, started := false, epoch := 1 }, 2, 0, { (writeMem (st [(QBASE_BASE 0x900, 0x1000), (QSIZE_ENTRIES 0x900, 16), (BRG_CTRL_EN, 1), (BRG_STAT_LINK, 1), (BRG_OW_0_EN 2, 1), (BRG_OW_1_LBASE 2, 0x4000000), (BRG_OW_1_SIZE 2, 16), (BRG_OW_2_TBASE 2, 0x90000)]) 0 0x1000 ([2, 0x80, 0, 0, 64, 0, 0, 0, 0, 0x20, 0, 0, 0, 0, 0, 0, 0, 0, 0, 0, 0x40] ++ List.replicate 11 0)) with qops := [{ q := 0x900, idx := 0, n := 1, opc := 2, started := false, epoch := 1 }] }, by decide +kernel⟩,
   ⟨State.reset, by decide +kernel⟩,
   ⟨{ who := some (.hart 3 true, .load), win := 2, addr := 0x90010, len := 4, flush := false, tag := some 0 }, .hart 3 true, .load, { (st [(BRG_CTRL_EN, 1), (BRG_STAT_LINK, 1), (BRG_OW_0_EN 2, 1), (BRG_OW_1_LBASE 2, 0x4000000), (BRG_OW_1_SIZE 2, 16), (BRG_OW_2_TBASE 2, 0x90000)]) with brg := { held := [{ who := some (.hart 3 true, .load), win := 2, addr := 0x90010, len := 4, flush := false, tag := some 0 }], pf := [⟨2, 0x90000, [1], 0⟩] } }, by decide +kernel⟩,
   ⟨true, 3, { (st [(BRG_CTRL_EN, 1), (BRG_STAT_LINK, 1), (BRG_OW_0_EN 2, 1), (BRG_OW_1_LBASE 2, 0x4000000), (BRG_OW_1_SIZE 2, 16), (BRG_OW_2_TBASE 2, 0x90000)]) with brg := {  } }, by decide +kernel⟩,
   ⟨3, 4, st [(BRG_CTRL_EN, 1)], by decide +kernel⟩,
   ⟨3, 4, State.reset, by decide +kernel⟩,
   ⟨tk { st [(BRG_CTRL_EN, 1)] with brg := { enAt := 1 } } 100000000, by decide +kernel⟩,
   ⟨State.reset, by decide +kernel⟩⟩

theorem witness_field_inputs :
    (∃ (mid : BitVec 128) (volts : List (Nat × Int)) (s : State), (∀ c : Fin 118, isInput c = true → bit (sampled mid.toNat volts s) c = level s c) ∧ (∀ p : Fin 8, level s (0x58 + p) = pairActive s p ∧ onF s (FIO_CHSTAT_DISCFAULT (0x58 + p)) = false) ∧ s.fio.dirty = [] ∧ s.fio.refresh = false) ∧
    (∃ (mid : BitVec 128) (volts : List (Nat × Int)) (c : Fin 48) (s : State), bit (sampled mid.toNat volts s) c ≠ level s c ∧ filtScans (takeLive 10 none s) c ≤ kget 0 s.fio.filt c) ∧
    (∃ (mid : BitVec 128) (volts : List (Nat × Int)) (c : Fin 48) (s : State), bit (sampled mid.toNat volts s) c ≠ level s c ∧ kget 0 s.fio.filt c < filtScans (takeLive 10 none s) c) ∧
    (∃ (s : State), s.fio.pubs = []) ∧
    (∃ (s : State), laneFree 5 3 0 s.xings = false) ∧
    (∃ (p : FioPub) (q : List FioPub) (s : State), s.fio.pubs = p :: q ∧ laneFree 5 3 0 s.xings = true ∧ onF s CHT_CTRL_EN = false) ∧
    (∃ (p : FioPub) (q : List FioPub) (e : Entry) (s : State), s.fio.pubs = p :: q ∧ onF s CHT_CTRL_EN = true ∧ CrossOpen s 5 3 6 ∧ liveF s (FIO_CHSIG_SIGID p.ch) ≠ 0 ∧ entryOf s (liveF s (FIO_CHSIG_SIGID p.ch)) = some e ∧ judge s e (.input (20 * 2048 + p.ch)) false = .write ∧ e.watch = false ∧ onF s MEM_INJ_ARM = false ∧ Uncached s (32 * sigCw (liveF s (FIO_CHSIG_SIGID p.ch)))) ∧
    (∃ (n : Fin 48) (s : State), wetDue n s = true ∧ onF s (FIO_CHCFG_WET n) = true) ∧
    (∃ (n : Fin 48) (s : State), (wetDue n s = false ∨ onF s (FIO_CHCFG_WET n) = false)) ∧
    (∃ (n : Fin 16) (s : State), (onF s (FIO_CHCFG_TPCHK (0x48 + n)) = false ∨ pulseCheck s n = none)) ∧
    (∃ (n : Fin 16) (s : State), onF s (FIO_CHCFG_TPCHK (0x48 + n)) = true ∧ pulseCheck s n = some false ∧ onF s (FIO_CHSTAT_TPFAULT (0x48 + n)) = false) ∧
    (∃ (n : Fin 16) (s : State), onF s (FIO_CHCFG_TPCHK (0x48 + n)) = true ∧ pulseCheck s n = some true) ∧
    (∃ (p : Fin 8) (s : State), onF s (FIO_CHCFG_EN (0x58 + p)) = true ∧ (pairShows s p).1 ≠ (pairShows s p).2 ∧ 100 * orElse (liveF s (FIO_CHCFG_DISC (0x58 + p))) 10 1000 100 < kget 0 s.fio.apart p ∧ onF s (FIO_CHSTAT_DISCFAULT (0x58 + p)) = false) ∧
    (∃ (p : Fin 8) (s : State), (onF s (FIO_CHCFG_EN (0x58 + p)) = false ∨ (pairShows s p).1 = (pairShows s p).2 ∨ kget 0 s.fio.apart p ≤ 100 * orElse (liveF s (FIO_CHCFG_DISC (0x58 + p))) 10 1000 100)) ∧
    (∃ (n : Fin 4) (x : Nat) (s : State), kget 0 s.fio.edge n = 0) ∧
    (∃ (n : Fin 4) (x : Nat) (y : Nat) (s : State), kget 0 s.fio.edge n = y + 1 ∧ 4000 ≤ x - y ∧ onF s (FIO_CHSTAT_OVERFREQ (0x70 + n)) = false) ∧
    (∃ (n : Fin 4) (x : Nat) (y : Nat) (s : State), kget 0 s.fio.edge n = y + 1 ∧ x - y < 4000 ∧ onF s (FIO_CHSTAT_OVERFREQ (0x70 + n)) = false) ∧
    (∃ (n : Fin 4) (ms : Nat) (s : State), orElse (liveF s (FIO_CHCFG_ZTIME (0x70 + n))) 10 10000 1000 ≤ ms) ∧
    (∃ (n : Fin 4) (ms : Nat) (s : State), ms < orElse (liveF s (FIO_CHCFG_ZTIME (0x70 + n))) 10 10000 1000) :=
  ⟨⟨0, [], State.reset, by decide +kernel⟩,
   ⟨0, [(3, 2000)], 3, { (st []) with fio := { filt := [(3, 1000)] } }, by decide +kernel⟩,
   ⟨0, [(3, 2000)], 3, lv (st []) [(FIO_CHCFG_FILT 3, 5)], by decide +kernel⟩,
   ⟨State.reset, by decide +kernel⟩,
   ⟨{ (st []) with xings := List.replicate 8 ⟨5, 3, 6, 0, true, false, 0, .cycle⟩, fio := { pubs := [⟨5, 7, [1], true⟩] } }, by decide +kernel⟩,
   ⟨⟨5, 7, [1], true⟩, [], { (st []) with fio := { pubs := [⟨5, 7, [1], true⟩] } }, by decide +kernel⟩,
   ⟨⟨5, 7, List.replicate 16 1, true⟩, [], { value := List.replicate 16 9, ts := 0, qual := 1, type := 0, flags := 16, seq := 255, source := 40965, limit := 7 }, lv (writeMem ({ (st [(CHT_CTRL_EN, 1)]) with fio := { pubs := [⟨5, 7, List.replicate 16 1, true⟩] } }) 0 0x6000000A0 (entBytes { value := List.replicate 16 9, ts := 0, qual := 1, type := 0, flags := 16, seq := 255, source := 40965, limit := 7 })) [(FIO_CHSIG_SIGID 5, 5)], by decide +kernel⟩,
   ⟨3, tk (st [(FIO_CHCFG_EN 3, 1), (FIO_CHCFG_WET 3, 1)]) 375000000, by decide +kernel⟩,
   ⟨3, State.reset, by decide +kernel⟩,
   ⟨3, State.reset, by decide +kernel⟩,
   ⟨3, { (st [(FIO_CHCFG_EN 0x4B, 1), (FIO_CHCFG_TPCHK 0x4B, 1)]) with fio := { ended := { pos := 800, everOn := 8 } } }, by decide +kernel⟩,
   ⟨3, { (st [(FIO_CHCFG_EN 0x4B, 1), (FIO_CHCFG_TPCHK 0x4B, 1), (FIO_CHSTAT_TPFAULT 0x4B, 1)]) with fio := { ended := { pos := 800, everOn := 8, everOff := 8 } } }, by decide +kernel⟩,
   ⟨2, { (st [(FIO_CHCFG_EN 0x5A, 1), (FIO_CHSTAT_LEVEL 0x4C, 1)]) with fio := { apart := [(2, 100001)] } }, by decide +kernel⟩,
   ⟨2, State.reset, by decide +kernel⟩,
   ⟨2, 50, st [(FIO_CHCFG_EN 0x72, 1), (FIO_CHRB_EDGES 0x72, 0xFFFFFFFF)], by decide +kernel⟩,
   ⟨2, 5000, 50, { (st [(FIO_CHCFG_EN 0x72, 1)]) with fio := { edge := [(2, 51)] } }, by decide +kernel⟩,
   ⟨2, 4049, 50, { (st [(FIO_CHCFG_EN 0x72, 1)]) with fio := { edge := [(2, 51)] } }, by decide +kernel⟩,
   ⟨2, 1000, st [(FIO_CHCFG_EN 0x72, 1)], by decide +kernel⟩,
   ⟨2, 999, State.reset, by decide +kernel⟩⟩

theorem witness_field_outputs :
    (∃ (r : Req) (cmd : BitVec 24) (s : State), onF s FIO_WDOG_EXP = true) ∧
    (∃ (r : Req) (cmd : BitVec 24) (s : State), onF s FIO_WDOG_EXP = false) ∧
    (∃ (c : Fin 128) (u : BitVec 16) (i : BitVec 16) (tj : Int) (um : BitVec 16) (s : State), (isDO c.val = true ∨ isSO c.val = true) ∧ tj < 160) ∧
    (∃ (c : Fin 128) (u : BitVec 16) (i : BitVec 16) (tj : Int) (um : BitVec 16) (s : State), isDO c.val = false ∧ isSO c.val = false) ∧
    (∃ (c : Fin 128) (ms : Nat) (s : State), (isDO c.val = true ∨ isSO c.val = true) ∧ bit s.fio.sw (swBit c) = true ∧ oltOf s c ≤ ms ∧ supState s (groupOf c) ≠ 2 ∧ sinceLost s (groupOf c) (oltOf s c) = true ∧ onF s (FIO_CHSTAT_OVERLOAD c) = false) ∧
    (∃ (c : Fin 128) (ms : Nat) (s : State), (bit s.fio.sw (swBit c) = false ∨ ms < oltOf s c ∨ supState s (groupOf c) = 2 ∨ sinceLost s (groupOf c) (oltOf s c) = false)) ∧
    (∃ (c : Fin 128) (s : State), isDO c.val = true ∧ 1001 ≤ kget 0 s.fio.lowRun c ∧ bit s.fio.sw (swBit c) = true ∧ onF s (FIO_CHCFG_PAIRED c) = false ∧ supState s (groupOf c) ≠ 2 ∧ onF s (FIO_CHSTAT_OPENWIRE c) = false) ∧
    (∃ (c : Fin 128) (s : State), (isDO c.val = false ∨ kget 0 s.fio.lowRun c < 1001 ∨ bit s.fio.sw (swBit c) = false ∨ onF s (FIO_CHCFG_PAIRED c) = true ∨ supState s (groupOf c) = 2)) ∧
    (∃ (c : Fin 128) (s : State), (isDO c.val = true ∨ isSO c.val = true) ∧ bit s.fio.sw (swBit c) = false ∧ 11 ≤ kget 0 s.fio.onRun c ∧ onF s (FIO_CHCFG_PAIRED c) = false ∧ onF s (FIO_CHSTAT_EXTDRIVE c) = false) ∧
    (∃ (c : Fin 128) (s : State), isDO c.val = true ∧ bit s.fio.sw (swBit c) = false ∧ 11 ≤ kget 0 s.fio.onRun c ∧ onF s (FIO_CHCFG_PAIRED c) = true ∧ onF s (FIO_CHCFG_PEXT c) = false ∧ getF s (FIO_CHCFG_PARTNER c) < 24 ∧ groupOf (0x30 + getF s (FIO_CHCFG_PARTNER c)) = groupOf c ∧ bit s.fio.sw (getF s (FIO_CHCFG_PARTNER c)) = true) ∧
    (∃ (c : Fin 128) (s : State), (bit s.fio.sw (swBit c) = true ∨ kget 0 s.fio.onRun c < 11)) ∧
    (∃ (r : Req) (c : Fin 128) (s : State), (isDO c.val = true ∨ isSO c.val = true) ∧ switchOn s c = false ∧ latched s c = true) ∧
    (∃ (r : Req) (c : Fin 128) (s : State), isDO c.val = false ∧ isSO c.val = false) ∧
    (∃ (g : Fin 3) (u : BitVec 16) (s : State), supState s g = 0 ∧ 70 * (10 * classVolts (bits (getF s FIO_GRPCFG_SUPCLS) (2 * g) 2)) ≤ 100 * u.toNat) ∧
    (∃ (g : Fin 3) (u : BitVec 16) (s : State), supState s g ≠ 2 ∧ 100 * u.toNat < 50 * (10 * classVolts (bits (getF s FIO_GRPCFG_SUPCLS) (2 * g) 2)) ∧ 10 ≤ (s.fio.sup.getD g {}).lo50) :=
  ⟨⟨.debugger, 0x5, st [(FIO_WDOG_EXP, 1)], by decide +kernel⟩,
   ⟨.debugger, 0x5, st [(FIO_CTRL_EN, 1), (FIO_CHCFG_EN 0x30, 1)], by decide +kernel⟩,
   ⟨0x32, 240, 500, -7, 0, State.reset, by decide +kernel⟩,
   ⟨0x50, 240, 500, -7, 0, State.reset, by decide +kernel⟩,
   ⟨0x32, 100, { (st [(FIO_CTRL_EN, 1), (FIO_CHCFG_EN 0x32, 1)]) with fio := { sw := 4, doForce := 4 } }, by decide +kernel⟩,
   ⟨0x32, 100, State.reset, by decide +kernel⟩,
   ⟨0x32, { (st []) with fio := { sw := 4, lowRun := [(0x32, 1001)] } }, by decide +kernel⟩,
   ⟨0x32, State.reset, by decide +kernel⟩,
   ⟨0x62, { (st [(FIO_CHCFG_EN 0x62, 1)]) with fio := { onRun := [(0x62, 11)] } }, by decide +kernel⟩,
   ⟨0x32, { (st [(FIO_CHCFG_EN 0x32, 1), (FIO_CHCFG_PAIRED 0x32, 1), (FIO_CHCFG_PARTNER 0x32, 3)]) with fio := { onRun := [(0x32, 11)], sw := 8 } }, by decide +kernel⟩,
   ⟨0x32, { (st []) with fio := { sw := 4 } }, by decide +kernel⟩,
   ⟨.debugger, 0x32, st [(FIO_CHSTAT_OVERLOAD 0x32, 1), (FIO_CHSTAT_OVERTEMP 0x32, 1), (FIO_CHRB_TJ 0x32, 150)], by decide +kernel⟩,
   ⟨.debugger, 0x50, State.reset, by decide +kernel⟩,
   ⟨1, 1100, State.reset, by decide +kernel⟩,
   ⟨1, 5, { (st []) with fio := { sup := [{}, ⟨10, 0, 10, 0⟩, {}] } }, by decide +kernel⟩⟩

theorem witness_safety_outputs :
    (∃ (k : Fin 4) (v : BitVec 24) (s : State), bits v.toNat 16 8 ≠ 255 - bits v.toNat 0 8) ∧
    (∃ (k : Fin 4) (v : BitVec 24) (s : State), bits v.toNat 16 8 = 255 - bits v.toNat 0 8 ∧ onF s FIO_WDOG_EXP = false ∧ (∀ n : Fin 8, v.getLsbD (8 + n) = true → soOwner s n = some k.val)) ∧
    (∃ (k : Fin 4) (s : State), forcedOff s k = true) ∧
    (∃ (k : Fin 4) (s : State), forcedOff s k = false) ∧
    (∃ (r : Req) (s : State), onF s FIO_WDOG_WDEN = false) ∧
    (∃ (r : Req) (s : State), onF s FIO_WDOG_WDEN = true) ∧
    (∃ (r : Req) (key : BitVec 16) (s : State), key ≠ 0xC35A) ∧
    (∃ (s : State), wdTimeUp s = true ∧ onF s FIO_WDOG_WDEN = true ∧ onF s FIO_WDOG_EXP = false) ∧
    (∃ (s : State), linkSilent .fa false 50000 s = true ∧ onF s FIO_WDOG_EXP = false) ∧
    (∃ (s : State), linkSilent .fa false 50000 s = false) ∧
    (∃ (s : State), (wdTimeUp s = false ∨ onF s FIO_WDOG_WDEN = false ∨ onF s FIO_WDOG_EXP = true)) ∧
    (∃ (r : Req) (s : State), onF s FIO_STAT_FALINK = true ∧ onF s FIO_WDOG_EXP = true) ∧
    (∃ (r : Req) (s : State), onF s FIO_STAT_FALINK = false) :=
  ⟨⟨2, 0xFF05FF, State.reset, by decide +kernel⟩,
   ⟨2, 0xFA0105, st [(FIO_SOOWN_OWN, 6)], by decide +kernel⟩,
   ⟨2, st [(FIO_SOOWN_OWN, 0x36), (FIO_DOSAFE_REQ, 3)], by decide +kernel⟩,
   ⟨2, st [(VTC_TSTAT_STATE 2, 2)], by decide +kernel⟩,
   ⟨.debugger, State.reset, by decide +kernel⟩,
   ⟨.debugger, st [(FIO_WDOG_WDEN, 1)], by decide +kernel⟩,
   ⟨.debugger, 5, State.reset, by decide +kernel⟩,
   ⟨{ (st [(FIO_WDOG_WDEN, 1), (FIO_DOSAFE_REQ, 3), (MER_FREECNT_COUNT, 1000000000)]) with fio := { doForce := 5 } }, by decide +kernel⟩,
   ⟨tk ({ (st [(FIO_DOSAFE_REQ, 3)]) with fio := { doForce := 5 } }) 50000, by decide +kernel⟩,
   ⟨State.reset, by decide +kernel⟩,
   ⟨State.reset, by decide +kernel⟩,
   ⟨.debugger, st [(FIO_STAT_FALINK, 1), (FIO_WDOG_EXP, 1), (FIO_DOCMD_CMD, 5)], by decide +kernel⟩,
   ⟨.debugger, st [(FIO_STAT_FALINK, 0)], by decide +kernel⟩⟩

theorem witness_lodestone_cycles :
    (∃ (x : List FbSample) (y : List (Fin 4 × Fin 50000)) (tb : List Byte) (s : State), s.lod.strobe = false ∧ s.lod.table = some tb ∧ s.lod.off = false) ∧
    (∃ (x : List FbSample) (y : List (Fin 4 × Fin 50000)) (s : State), s.lod.strobe = true) ∧
    (∃ (s : State), s.lod.strobe = false ∧ s.lod.table = none ∧ (tickReset (bit s.lod.rst 0) (bit s.lod.rst 1) s.lod.rstIn).2 = (false, false) ∧ s.lod.codes = [] ∧ s.lod.trips = [] ∧ onF s LOD_STAT_LINK = false) ∧
    (∃ (y : List (Fin 4 × Fin 50000)) (m : Nat) (s : State), s.lod.strobe = false ∧ s.lod.trips = [m] ∧ (tickReset (bit s.lod.rst 0) (bit s.lod.rst 1) s.lod.rstIn).2 = (false, false) ∧ s.lod.codes = []) ∧
    (∃ (m : BitVec 8) (s : State), (s.lod.table = none ∨ s.lod.tf.pos < 800) ∧ onF s LOD_STAT_LINK = false) ∧
    (∃ (m : BitVec 8) (n : Fin 8) (tb : List Byte) (s : State), s.lod.table = some tb ∧ 800 ≤ s.lod.tf.pos ∧ s.lod.lost = false ∧ ((bit s.lod.testFb n = true ∧ (bit s.lod.fbOff n = false ∨ bit s.lod.fbBad n = true)) ∨ (bit s.lod.testFa n = true ∧ bit s.lod.faOff n = false))) ∧
    (∃ (s : State), onF s LOD_STAT_LINK = true ∧ linkSilent .lod true 200000 s = true) ∧
    (∃ (s : State), (onF s LOD_STAT_LINK = false ∨ linkSilent .lod true 200000 s = false)) ∧
    (∃ (tb : List Byte) (s : State), onF s LOD_STAT_LINK = true ∧ s.lod.table = some tb ∧ (s.lod.echoDue = true ∨ s.lod.echoAt + 20000 ≤ s.lod.cyc)) ∧
    (∃ (s : State), (s.lod.table = none ∨ onF s LOD_STAT_LINK = false ∨ (s.lod.echoDue = false ∧ s.lod.cyc < s.lod.echoAt + 20000))) ∧
    (∃ (s : State), s.lod.table ≠ none) ∧
    (∃ (s : State), s.lod.table = none) :=
  ⟨⟨[], [], (List.replicate 96 0 ++ [1] ++ List.replicate 127 0 ++ [1, 1, 0, 1, 0, 0xFF, 0xFF, 0xFF, 10, 0] ++ List.replicate 600 0), { (st [(LOD_STAT_LINK, 1)]) with lod := { table := some (List.replicate 96 0 ++ [1] ++ List.replicate 127 0 ++ [1, 1, 0, 1, 0, 0xFF, 0xFF, 0xFF, 10, 0] ++ List.replicate 600 0) } }, by decide +kernel⟩,
   ⟨[], [], { (st []) with lod := { strobe := true } }, by decide +kernel⟩,
   ⟨st [(LOD_STAT_LINK, 0)], by decide +kernel⟩,
   ⟨[], 5, { (st [(LOD_STAT_LINK, 1)]) with lod := { table := some (List.replicate 96 0 ++ [1] ++ List.replicate 127 0 ++ [1, 1, 0, 1, 0, 0xFF, 0xFF, 0xFF, 10, 0] ++ List.replicate 600 0), trips := [5], fbsw := 7 } }, by decide +kernel⟩,
   ⟨0, st [(LOD_STAT_LINK, 0)], by decide +kernel⟩,
   ⟨0, 2, (List.replicate 96 0 ++ [1] ++ List.replicate 127 0 ++ [1, 1, 0, 1, 0, 0xFF, 0xFF, 0xFF, 10, 0] ++ List.replicate 600 0), { (st [(LOD_STAT_LINK, 1)]) with lod := { table := some (List.replicate 96 0 ++ [1] ++ List.replicate 127 0 ++ [1, 1, 0, 1, 0, 0xFF, 0xFF, 0xFF, 10, 0] ++ List.replicate 600 0), tf := { pos := 800 }, testFb := 4, fbsw := 4 } }, by decide +kernel⟩,
   ⟨tk (st [(LOD_STAT_LINK, 1)]) 200000, by decide +kernel⟩,
   ⟨st [(LOD_STAT_LINK, 0)], by decide +kernel⟩,
   ⟨(List.replicate 96 0 ++ [1] ++ List.replicate 127 0 ++ [1, 1, 0, 1, 0, 0xFF, 0xFF, 0xFF, 10, 0] ++ List.replicate 600 0), { (st [(LOD_STAT_LINK, 1)]) with lod := { table := some (List.replicate 96 0 ++ [1] ++ List.replicate 127 0 ++ [1, 1, 0, 1, 0, 0xFF, 0xFF, 0xFF, 10, 0] ++ List.replicate 600 0), echoDue := true } }, by decide +kernel⟩,
   ⟨State.reset, by decide +kernel⟩,
   ⟨{ (st [(LOD_STAT_LINK, 1)]) with lod := { table := some (List.replicate 96 0 ++ [1] ++ List.replicate 127 0 ++ [1, 1, 0, 1, 0, 0xFF, 0xFF, 0xFF, 10, 0] ++ List.replicate 600 0), fbsw := 3 } }, by decide +kernel⟩,
   ⟨State.reset, by decide +kernel⟩⟩

theorem witness_lodestone_faults :
    (∃ (k : Fin 8) (tb : List Byte) (j : Fin 4) (s : State), s.lod.table = some tb ∧ j < (slotRec tb k).pairs.length ∧ (s.lod.slots.getD k {}).disc.getD j 0 = 1) ∧
    (∃ (k : Fin 8) (s : State), (s.lod.table = none ∨ ∀ j : Fin 4, (s.lod.slots.getD k {}).disc.getD j 0 ≠ 1)) ∧
    (∃ (k : Fin 8) (tb : List Byte) (s : State), s.lod.table = some tb ∧ k < s.lod.slots.length ∧ (slotRec tb k).func = 4 ∧ (s.lod.slots.getD k {}).state = 2 ∧ (s.lod.slots.getD k {}).tv = 0) ∧
    (∃ (k : Fin 8) (s : State), (s.lod.table = none ∨ (s.lod.slots.getD k {}).state ≠ 2 ∨ (s.lod.slots.getD k {}).tv ≠ 0)) ∧
    (∃ (k : Fin 8) (tb : List Byte) (s : State), s.lod.table = some tb ∧ k < s.lod.slots.length ∧ (slotRec tb k).func = 4 ∧ 2000 * (slotRec tb k).p3 < (s.lod.slots.getD k {}).pressed ∧ (s.lod.slots.getD k {}).state = 2) ∧
    (∃ (k : Fin 8) (s : State), (s.lod.table = none ∨ (s.lod.slots.getD k {}).pressed = 0)) ∧
    (∃ (k : Fin 8) (tb : List Byte) (s : State), s.lod.table = some tb ∧ (slotRec tb k).func = 3 ∧ ((20 * (slotRec tb k).disc < (s.lod.slots.getD k {}).diff ∧ bit s.lod.told (24 + k) = false) ∨ (shortPeriod s.lod (slotRec tb k).spda = true ∧ bit s.lod.told (32 + k) = false) ∨ (shortPeriod s.lod (slotRec tb k).spdb = true ∧ bit s.lod.told (40 + k) = false))) ∧
    (∃ (k : Fin 8) (tb : List Byte) (s : State), s.lod.table = some tb ∧ ((slotRec tb k).func ≠ 3 ∨ (((s.lod.slots.getD k {}).diff ≤ 20 * (slotRec tb k).disc ∨ bit s.lod.told (24 + k) = true) ∧ (shortPeriod s.lod (slotRec tb k).spda = false ∨ bit s.lod.told (32 + k) = true) ∧ (shortPeriod s.lod (slotRec tb k).spdb = false ∨ bit s.lod.told (40 + k) = true)))) ∧
    (∃ (n : Fin 8) (tb : List Byte) (s : State), onF s LOD_STAT_LINK = true ∧ s.lod.table = some tb ∧ outEdmen tb n = true ∧ s.lod.tedm.getD n 0 = 0 ∧ bit s.lod.edm (outEdmsel tb n) = bit s.lod.out n ∧ bit s.lod.told (16 + n) = false) ∧
    (∃ (n : Fin 8) (tb : List Byte) (s : State), s.lod.table = some tb ∧ (outEdmen tb n = false ∨ s.lod.tedm.getD n 0 ≠ 0 ∨ bit s.lod.edm (outEdmsel tb n) ≠ bit s.lod.out n ∨ bit s.lod.told (16 + n) = true)) ∧
    (∃ (n : Fin 8) (s : State), onF s LOD_STAT_LINK = true ∧ 101 ≤ s.lod.extRun.getD n 0 ∧ bit s.lod.told n = false) ∧
    (∃ (n : Fin 8) (s : State), onF s LOD_STAT_LINK = true ∧ s.lod.extRun.getD n 0 < 101 ∧ 101 ≤ s.lod.noOut.getD n 0 ∧ s.lod.lost = false ∧ bit s.lod.told (8 + n) = false) ∧
    (∃ (n : Fin 8) (s : State), ((101 ≤ s.lod.extRun.getD n 0 ∧ bit s.lod.told n = true) ∨ (s.lod.extRun.getD n 0 < 101 ∧ (s.lod.noOut.getD n 0 < 101 ∨ s.lod.lost = true ∨ bit s.lod.told (8 + n) = true)))) ∧
    (∃ (tb : List Byte) (s : State), s.lod.table = some tb ∧ 101 ≤ s.lod.lo50) ∧
    (∃ (s : State), (s.lod.table = none ∨ s.lod.lo50 < 101)) :=
  ⟨⟨0, (List.replicate 96 0 ++ [1] ++ List.replicate 127 0 ++ [1, 1, 0, 1, 0, 0xFF, 0xFF, 0xFF, 10, 0] ++ List.replicate 600 0), 0, { (st [(LOD_STAT_LINK, 1)]) with lod := { table := some (List.replicate 96 0 ++ [1] ++ List.replicate 127 0 ++ [1, 1, 0, 1, 0, 0xFF, 0xFF, 0xFF, 10, 0] ++ List.replicate 600 0), slots := { state := 1, disc := [1, 0, 0, 0] } :: List.replicate 7 {} } }, by decide +kernel⟩,
   ⟨0, State.reset, by decide +kernel⟩,
   ⟨0, (List.replicate 96 0 ++ [1] ++ List.replicate 127 0 ++ [4, 1, 0, 1, 0, 0xFF, 0xFF, 0xFF, 10, 0, 10, 0, 5, 0, 10, 0] ++ List.replicate 600 0), { (st [(LOD_STAT_LINK, 1)]) with lod := { table := some (List.replicate 96 0 ++ [1] ++ List.replicate 127 0 ++ [4, 1, 0, 1, 0, 0xFF, 0xFF, 0xFF, 10, 0, 10, 0, 5, 0, 10, 0] ++ List.replicate 600 0), fbsw := 1, slots := { state := 2 } :: List.replicate 7 {} } }, by decide +kernel⟩,
   ⟨0, State.reset, by decide +kernel⟩,
   ⟨0, (List.replicate 96 0 ++ [1] ++ List.replicate 127 0 ++ [4, 1, 0, 1, 0, 0xFF, 0xFF, 0xFF, 10, 0, 10, 0, 5, 0, 10, 0] ++ List.replicate 600 0), { (st [(LOD_STAT_LINK, 1)]) with lod := { table := some (List.replicate 96 0 ++ [1] ++ List.replicate 127 0 ++ [4, 1, 0, 1, 0, 0xFF, 0xFF, 0xFF, 10, 0, 10, 0, 5, 0, 10, 0] ++ List.replicate 600 0), fbsw := 1, slots := { state := 2, pressed := 20001 } :: List.replicate 7 {} } }, by decide +kernel⟩,
   ⟨0, State.reset, by decide +kernel⟩,
   ⟨0, (List.replicate 96 0 ++ [1] ++ List.replicate 127 0 ++ [3, 1, 0, 0, 0, 0xFF, 0xFF, 0xFF, 10, 0, 10, 0, 100, 0, 0, 0, 0, 1] ++ List.replicate 600 0), { (st [(LOD_STAT_LINK, 1)]) with lod := { table := some (List.replicate 96 0 ++ [1] ++ List.replicate 127 0 ++ [3, 1, 0, 0, 0, 0xFF, 0xFF, 0xFF, 10, 0, 10, 0, 100, 0, 0, 0, 0, 1] ++ List.replicate 600 0), fbsw := 1, slots := { state := 2, diff := 201 } :: List.replicate 7 {} } }, by decide +kernel⟩,
   ⟨0, (List.replicate 96 0 ++ [1] ++ List.replicate 127 0 ++ [1, 1, 0, 1, 0, 0xFF, 0xFF, 0xFF, 10, 0] ++ List.replicate 600 0), { (st [(LOD_STAT_LINK, 1)]) with lod := { table := some (List.replicate 96 0 ++ [1] ++ List.replicate 127 0 ++ [1, 1, 0, 1, 0, 0xFF, 0xFF, 0xFF, 10, 0] ++ List.replicate 600 0) } }, by decide +kernel⟩,
   ⟨0, (List.replicate 96 0 ++ [9] ++ List.replicate 127 0 ++ [1, 1, 0, 1, 0, 0xFF, 0xFF, 0xFF, 10, 0] ++ List.replicate 600 0), { (st [(LOD_STAT_LINK, 1)]) with lod := { table := some (List.replicate 96 0 ++ [9] ++ List.replicate 127 0 ++ [1, 1, 0, 1, 0, 0xFF, 0xFF, 0xFF, 10, 0] ++ List.replicate 600 0) } }, by decide +kernel⟩,
   ⟨0, (List.replicate 96 0 ++ [1] ++ List.replicate 127 0 ++ [1, 1, 0, 1, 0, 0xFF, 0xFF, 0xFF, 10, 0] ++ List.replicate 600 0), { (st [(LOD_STAT_LINK, 1)]) with lod := { table := some (List.replicate 96 0 ++ [1] ++ List.replicate 127 0 ++ [1, 1, 0, 1, 0, 0xFF, 0xFF, 0xFF, 10, 0] ++ List.replicate 600 0) } }, by decide +kernel⟩,
   ⟨0, { (st [(LOD_STAT_LINK, 1)]) with lod := { extRun := [101] } }, by decide +kernel⟩,
   ⟨0, { (st [(LOD_STAT_LINK, 1)]) with lod := { table := some (List.replicate 96 0 ++ [1] ++ List.replicate 127 0 ++ [1, 1, 0, 1, 0, 0xFF, 0xFF, 0xFF, 10, 0] ++ List.replicate 600 0), noOut := [101] } }, by decide +kernel⟩,
   ⟨0, State.reset, by decide +kernel⟩,
   ⟨(List.replicate 96 0 ++ [1] ++ List.replicate 127 0 ++ [1, 1, 1, 1, 0, 0xFF, 0xFF, 0xFF, 10, 0] ++ List.replicate 600 0), { (st [(LOD_STAT_LINK, 1)]) with lod := { table := some (List.replicate 96 0 ++ [1] ++ List.replicate 127 0 ++ [1, 1, 1, 1, 0, 0xFF, 0xFF, 0xFF, 10, 0] ++ List.replicate 600 0), lo50 := 101, slots := { state := 2 } :: List.replicate 7 {} } }, by decide +kernel⟩,
   ⟨State.reset, by decide +kernel⟩⟩

theorem witness_lodestone_writes :
    (∃ (k : Fin 4) (x : Word) (s : State), onF s LOD_STAT_LINK = true) ∧
    (∃ (k : Fin 4) (x : Word) (c : Nat) (u : Nat) (s : State), onF s LOD_STAT_LINK = true ∧ s.lod.code0 = some (c, k.val, u) ∧ s.lod.cyc ≤ u + 20 ∧ x.toNat = 2 ^ 64 - 1 - c) ∧
    (∃ (k : Fin 4) (x : Word) (s : State), onF s LOD_STAT_LINK = true ∧ (∀ y ∈ s.lod.code0, y.2.1 ≠ k.val ∨ y.2.2 + 20 < s.lod.cyc ∨ x.toNat ≠ 2 ^ 64 - 1 - y.1)) ∧
    (∃ (k : Fin 4) (v : Word) (s : State), onF s LOD_STAT_LINK = true ∧ bits v.toNat 8 16 = 0xA53C ∧ v.toNat % 256 ≠ 0) ∧
    (∃ (k : Fin 4) (v : Word) (s : State), (bits v.toNat 8 16 ≠ 0xA53C ∨ v.toNat % 256 = 0)) ∧
    (∃ (k : Fin 4) (s : State), onF s LOD_STAT_LINK = true) ∧
    (∃ (s : State), s.lod.checking = true ∧ checkTable (shadowTable s) = none ∧ onF s LOD_CMTCTL_PEND = false) ∧
    (∃ (s : State), s.lod.checking = true ∧ checkTable (shadowTable s) = none ∧ onF s LOD_CMTCTL_PEND = true) ∧
    (∃ (r : Nat) (i : Nat) (s : State), s.lod.checking = true ∧ checkTable (shadowTable s) = some (r, i)) ∧
    (∃ (s : State), s.lod.checking = false) ∧
    (∃ (k : Fin 4) (s : State), onF s LOD_STAT_LINK = true ∧ s.lod.table = none ∧ checkTable (shadowTable s) = none) ∧
    (∃ (k : Fin 4) (s : State), onF s LOD_STAT_LINK = true ∧ s.lod.table ≠ none) ∧
    (∃ (s : State), onF s LOD_STAT_LINK = true ∧ onF s LOD_CMTCTL_PEND = true ∧ s.lod.wp ≤ nowNs s ∧ (getF s MER_STAT_STATE = 1 ∨ getF s MER_STAT_STATE = 2)) ∧
    (∃ (s : State), onF s LOD_STAT_LINK = true ∧ onF s LOD_CMTCTL_PEND = true ∧ s.lod.wp ≤ nowNs s ∧ getF s MER_STAT_STATE ≠ 1 ∧ getF s MER_STAT_STATE ≠ 2) ∧
    (∃ (s : State), (onF s LOD_CMTCTL_PEND = false ∨ onF s LOD_STAT_LINK = false ∨ nowNs s < s.lod.wp)) :=
  ⟨⟨2, 77, st [(LOD_STAT_LINK, 1)], by decide +kernel⟩,
   ⟨2, 0xFFFFFFFFFFFFFFF0, 15, 3, { (st [(LOD_STAT_LINK, 1)]) with lod := { code0 := some (15, 2, 3), cyc := 23 } }, by decide +kernel⟩,
   ⟨2, 15, st [(LOD_STAT_LINK, 1)], by decide +kernel⟩,
   ⟨2, 0xA53C05, { (st [(LOD_STAT_LINK, 1)]) with lod := { lock := 8, fbsw := 7 } }, by decide +kernel⟩,
   ⟨2, 0xA53D05, State.reset, by decide +kernel⟩,
   ⟨2, st [(LOD_STAT_LINK, 1)], by decide +kernel⟩,
   ⟨{ (st [(LOD_STAT_LINK, 1), (LOD_SHADOW_DATA 0, 0x00014454534C), (LOD_SHADOW_DATA 127, 16744015606449176576)]) with lod := { checking := true } }, by decide +kernel⟩,
   ⟨{ (st [(LOD_STAT_LINK, 1), (LOD_SHADOW_DATA 0, 0x00014454534C), (LOD_SHADOW_DATA 127, 16744015606449176576), (LOD_CMTCTL_PEND, 1)]) with lod := { checking := true, wp := 5 } }, by decide +kernel⟩,
   ⟨2, 1020, { (st [(LOD_STAT_LINK, 1)]) with lod := { checking := true } }, by decide +kernel⟩,
   ⟨State.reset, by decide +kernel⟩,
   ⟨2, { (st [(LOD_STAT_LINK, 1), (LOD_SHADOW_DATA 0, 0x00014454534C), (LOD_SHADOW_DATA 127, 16744015606449176576)]) with lod := {  } }, by decide +kernel⟩,
   ⟨2, { (st [(LOD_STAT_LINK, 1)]) with lod := { table := some (List.replicate 96 0 ++ [1] ++ List.replicate 127 0 ++ [1, 1, 0, 1, 0, 0xFF, 0xFF, 0xFF, 10, 0] ++ List.replicate 600 0) } }, by decide +kernel⟩,
   ⟨st [(LOD_STAT_LINK, 1), (LOD_CMTCTL_PEND, 1), (MER_STAT_STATE, 1)], by decide +kernel⟩,
   ⟨st [(LOD_STAT_LINK, 1), (LOD_CMTCTL_PEND, 1), (MER_STAT_STATE, 0)], by decide +kernel⟩,
   ⟨State.reset, by decide +kernel⟩⟩

theorem witness_analog_frames :
    (∃ (n : Fin 8) (s : State), Runs s 0xC ∧ onF s ANL_CTRL_EN = true ∧ onF s SYS_MSTAT_MSAFE = false ∧ islandAnswers s 0xC = true ∧ s.anl.length = 8 ∧ s.pendL = [] ∧ (anlCh s n).hold = false ∧ feActs s (anlCh s n) = true) ∧
    (∃ (n : Fin 8) (s : State), Runs s 0xC ∧ onF s ANL_CTRL_EN = true ∧ onF s SYS_MSTAT_MSAFE = false ∧ islandAnswers s 0xC = true ∧ s.pendL = [] ∧ (anlCh s n).hold = false ∧ (anlCh s n).latest = none) ∧
    (∃ (n : Fin 8) (v : Bool) (s : State), Runs s 0xC ∧ (onF s ANL_CTRL_EN = false ∨ onF s SYS_MSTAT_MSAFE = true) ∧ (anlCh s n).hold = false ∧ (anlCh s n).latest = none) ∧
    (∃ (n : Fin 8) (s : State), Runs s 0xC ∧ onF s ANL_CTRL_EN = true ∧ islandAnswers s 0xC = true ∧ s.anl.length = 8 ∧ onF s (ANL_CHSTAT_LINK n) = true ∧ (anlCh s n).fresh = true ∧ onF s CHT_CTRL_EN = false) ∧
    (∃ (n : Fin 8) (s : State), Runs s 0xC ∧ onF s ANL_CTRL_EN = true ∧ islandAnswers s 0xC = true ∧ s.anl.length = 8 ∧ onF s (ANL_CHSTAT_LINK n) = false ∧ onF s CHT_CTRL_EN = false) ∧
    (∃ (n : Fin 8) (s : State), Runs s 0xC ∧ onF s ANL_CTRL_EN = false) ∧
    (∃ (n : Fin 8) (s : State), Runs s 0xC ∧ onF s (ANL_CHSTAT_LINK n) = true ∧ (anlCh s n).hold = false ∧ linkSilent (.ana n) true 20000000 s = true ∧ onF s CHT_CTRL_EN = false) ∧
    (∃ (n : Fin 8) (s : State), Runs s 0xC ∧ (onF s (ANL_CHSTAT_LINK n) = false ∨ (anlCh s n).hold = true ∨ linkSilent (.ana n) true 20000000 s = false)) ∧
    (∃ (r : Req) (n : Fin 8) (s : State), Ready s 0xC ∧ onF s ANL_CTRL_EN = true ∧ onF s (UPD_UNIT_1_FAILED (8 + n)) = false ∧ onF s (UPD_UNIT_1_FAILED (16 + n)) = false ∧ (anlCh s n).fe.on = false ∧ s.anl.length = 8 ∧ s.pendL = []) ∧
    (∃ (r : Req) (n : Fin 8) (s : State), Ready s 0xC) ∧
    (∃ (r : Req) (en : Bool) (s : State), Ready s 0xC) ∧
    (∃ (r : Req) (n : Fin 8) (z : BitVec 11) (p : BitVec 11) (s : State), Ready s 0xC ∧ trimOpenOn s n = false) ∧
    (∃ (r : Req) (n : Fin 8) (z : BitVec 11) (p : BitVec 11) (s : State), Ready s 0xC ∧ trimOpenOn s n = true) ∧
    (∃ (r : Req) (n : Fin 8) (s : State), Ready s 0xC ∧ 3 ≤ (anlCh s n).clean) ∧
    (∃ (r : Req) (n : Fin 8) (s : State), Ready s 0xC ∧ (anlCh s n).clean < 3) :=
  ⟨⟨3, lv (st [(ANL_CTRL_EN, 1), (ANL_CHCFG_EN 3, 1)]) [(ANL_CHSP_SP 3, 12000)], by decide +kernel⟩,
   ⟨3, st [(ANL_CTRL_EN, 1)], by decide +kernel⟩,
   ⟨3, true, State.reset, by decide +kernel⟩,
   ⟨3, { (st [(ANL_CTRL_EN, 1), (ANL_CHSTAT_LINK 3, 1)]) with anl := modAt State.reset.anl 3 fun c : AnlCh => { c with fresh := true, irb := 12000, ipri := 12010 } }, by decide +kernel⟩,
   ⟨3, st [(ANL_CTRL_EN, 1)], by decide +kernel⟩,
   ⟨3, State.reset, by decide +kernel⟩,
   ⟨3, tk (st [(ANL_CTRL_EN, 1), (ANL_CHSTAT_LINK 3, 1), (ANL_STAT_LINK, 8)]) 20000000, by decide +kernel⟩,
   ⟨3, State.reset, by decide +kernel⟩,
   ⟨.debugger, 3, st [(ANL_CTRL_EN, 1)], by decide +kernel⟩,
   ⟨.debugger, 3, { (st [(ANL_CTRL_EN, 1), (ANL_CHCFG_EN 3, 1)]) with anl := modAt State.reset.anl 3 fun c : AnlCh => { c with fe := { c.fe with on := true } } }, by decide +kernel⟩,
   ⟨.debugger, false, { (st [(ANL_CTRL_EN, 1), (ANL_CHCFG_EN 3, 1)]) with anl := modAt State.reset.anl 3 fun c : AnlCh => { c with fe := { c.fe with on := true } } }, by decide +kernel⟩,
   ⟨.debugger, 3, 5, 0x7FE, State.reset, by decide +kernel⟩,
   ⟨.debugger, 3, 5, 0x7FE, { State.reset with binn := { step := 2, sel := 3 } }, by decide +kernel⟩,
   ⟨.debugger, 3, { (st [(ANL_CHSTAT_LINK 3, 1), (ANL_CHSTAT_RBMISM 3, 1)]) with anl := modAt State.reset.anl 3 fun c : AnlCh => { c with rbmism := true, clean := 3 } }, by decide +kernel⟩,
   ⟨.debugger, 3, State.reset, by decide +kernel⟩⟩

theorem witness_analog_front_ends :
    (∃ (n : Fin 8) (carry : BitVec 16) (draw : BitVec 16) (dp : Int) (dr : Int) (x : BitVec 12) (y : BitVec 12) (j : Int) (rf : Bool) (s : State), (anlCh s n).hold = true ∧ ((kget none s.upd.pend (8 + n)).isSome = true ∨ freeCnt s < (anlCh s n).holdAt + 50000000) ∧ (anlCh s n).latest = none) ∧
    (∃ (n : Fin 8) (carry : BitVec 16) (draw : BitVec 16) (dp : Int) (dr : Int) (x : BitVec 12) (y : BitVec 12) (j : Int) (rf : Bool) (s : State), (anlCh s n).hold = false ∧ (anlCh s n).latest = none ∧ s.anl.length = 8) ∧
    (∃ (n : Fin 8) (s : State), s.anl.length = 8 ∧ onF s (ANL_CHSTAT_LINK n) = true ∧ 21 ≤ (anlCh s n).hdSpan ∧ (anlCh s n).opSpan < 21 ∧ onF s (ANL_CHSTAT_HEADROOM n) = false) ∧
    (∃ (n : Fin 8) (s : State), ((anlCh s n).hdSpan < 21 ∨ 21 ≤ (anlCh s n).opSpan)) ∧
    (∃ (n : Fin 8) (s : State), s.anl.length = 8 ∧ onF s (ANL_CHSTAT_LINK n) = true ∧ 21 ≤ (anlCh s n).opSpan) ∧
    (∃ (n : Fin 8) (s : State), (anlCh s n).opSpan < 21) ∧
    (∃ (n : Fin 8) (s : State), (anlCh s n).fe.on = true ∧ (anlCh s n).fe.sink = true ∧ (anlCh s n).fallback = false ∧ (anlCh s n).fbLeft = 0) ∧
    (∃ (n : Fin 8) (s : State), ((anlCh s n).fe.on = false ∨ (anlCh s n).fe.sink = false ∨ (anlCh s n).fallback = true)) ∧
    (∃ (n : Fin 8) (s : State), (anlCh s n).fallback = true ∧ (anlCh s n).fbAt + 100000000 ≤ freeCnt s ∧ (anlCh s n).fbHold ≤ freeCnt s) ∧
    (∃ (n : Fin 8) (s : State), ((anlCh s n).fallback = false ∨ freeCnt s < (anlCh s n).fbAt + 100000000 ∨ freeCnt s < (anlCh s n).fbHold)) ∧
    (∃ (n : Fin 8) (s : State), (anlCh s n).fe.on = true ∧ (anlCh s n).hold = false ∧ linkSilent (.ana n) false 10000000 s = true ∧ trimOpenOn s n = false) ∧
    (∃ (n : Fin 8) (s : State), ((anlCh s n).fe.on = false ∨ (anlCh s n).hold = true ∨ linkSilent (.ana n) false 10000000 s = false)) ∧
    (∃ (n : Fin 8) (s : State), sendsSetpoints s = true ∧ (anlCh s n).silent = true ∧ (anlCh s n).goodAt ≠ 0 ∧ (anlCh s n).goodAt + 10000000 ≤ freeCnt s + 1) ∧
    (∃ (n : Fin 8) (s : State), (sendsSetpoints s = false ∨ (anlCh s n).silent = false ∨ (anlCh s n).goodAt = 0 ∨ freeCnt s + 1 < (anlCh s n).goodAt + 10000000)) ∧
    (∃ (s : State), moduleRuns s = true ∧ onF s SYS_BINN_SET = true ∧ s.binn.last + 3000000000 ≤ freeCnt s ∧ s.binn.step = 0 ∧ onF s ANL_CTRL_BINTRIM = false) ∧
    (∃ (s : State), moduleRuns s = true ∧ onF s SYS_BINN_SET = true ∧ s.binn.last + 3000000000 ≤ freeCnt s ∧ s.binn.step = 0 ∧ onF s ANL_CTRL_BINTRIM = true) ∧
    (∃ (s : State), (moduleRuns s = false ∨ onF s SYS_BINN_SET = false ∨ freeCnt s < s.binn.last + 3000000000 ∨ s.binn.step ≠ 0)) ∧
    (∃ (k : Nat) (s : State), s.binn.step = 1 ∧ s.binn.sel = k + 1 ∧ k < 8 ∧ anlOn s k = true) ∧
    (∃ (ms : Nat) (s : State), s.binn.step = 2 ∧ onF s SYS_BINN_ADJ = true ∧ ms < 500) ∧
    (∃ (s : State), s.binn.step = 3 ∧ onF s SYS_BINN_ADJ = true) ∧
    (∃ (s : State), s.binn.step = 3 ∧ s.binn.sel < 8) ∧
    (∃ (s : State), s.binn.last + 60000000000 ≤ freeCnt s ∧ s.binn.step ≠ 0) ∧
    (∃ (s : State), (freeCnt s < s.binn.last + 60000000000 ∨ s.binn.step = 0)) ∧
    (∃ (s : State), s.binn.last + 3000000000 ≤ freeCnt s) ∧
    (∃ (s : State), freeCnt s < s.binn.last + 3000000000) :=
  ⟨⟨3, 1, 2, 3, 4, 5, 5, 5, false, { (st []) with anl := modAt State.reset.anl 3 fun c : AnlCh => { c with hold := true } }, by decide +kernel⟩,
   ⟨3, 20000, 0, 0, 100, 3, 4, 25, false, { (st [(ANL_CHSTAT_LINK 3, 1)]) with anl := modAt State.reset.anl 3 fun c : AnlCh => { c with misI := 2, fe := { on := true, target := 12000 } } }, by decide +kernel⟩,
   ⟨3, { (st [(ANL_CHSTAT_LINK 3, 1)]) with anl := modAt State.reset.anl 3 fun c : AnlCh => { c with hdSpan := 21 } }, by decide +kernel⟩,
   ⟨3, State.reset, by decide +kernel⟩,
   ⟨3, { (st [(ANL_CHSTAT_LINK 3, 1), (ANL_CHSTAT_HEADROOM 3, 1)]) with anl := modAt State.reset.anl 3 fun c : AnlCh => { c with opSpan := 21, headroom := true } }, by decide +kernel⟩,
   ⟨3, State.reset, by decide +kernel⟩,
   ⟨3, { (st [(MER_FREECNT_COUNT, 5)]) with anl := modAt State.reset.anl 3 fun c : AnlCh => { c with fe := { on := true, sink := true } } }, by decide +kernel⟩,
   ⟨3, State.reset, by decide +kernel⟩,
   ⟨3, { (st [(MER_FREECNT_COUNT, 500000000)]) with anl := modAt State.reset.anl 3 fun c : AnlCh => { c with fallback := true, fbAt := 5 } }, by decide +kernel⟩,
   ⟨3, State.reset, by decide +kernel⟩,
   ⟨3, tk ({ (st [(ANL_CHSTAT_LINK 3, 1)]) with anl := modAt State.reset.anl 3 fun c : AnlCh => { c with fe := { c.fe with on := true } } }) 10000000, by decide +kernel⟩,
   ⟨3, State.reset, by decide +kernel⟩,
   ⟨3, tk ({ (st [(ANL_CTRL_EN, 1)]) with anl := modAt State.reset.anl 3 fun c : AnlCh => { c with fe := { c.fe with on := true }, silent := true, goodAt := 1 } }) 10000000, by decide +kernel⟩,
   ⟨3, State.reset, by decide +kernel⟩,
   ⟨tk (st [(SYS_BOOT_STAGE, 7), (SYS_BINN_SET, 1), (ANL_CTRL_BINTRIM, 0)]) 3000000000, by decide +kernel⟩,
   ⟨tk (st [(SYS_BOOT_STAGE, 7), (SYS_BINN_SET, 1), (ANL_CTRL_BINTRIM, 1)]) 3000000000, by decide +kernel⟩,
   ⟨State.reset, by decide +kernel⟩,
   ⟨3, { (st [(ANL_CTRL_EN, 1), (ANL_CHCFG_EN 3, 1)]) with binn := { step := 1, sel := 4 } }, by decide +kernel⟩,
   ⟨100, { (st [(SYS_BINN_ADJ, 1)]) with binn := { step := 2, sel := 3, zero := 999 } }, by decide +kernel⟩,
   ⟨{ (st [(SYS_BINN_ADJ, 1)]) with binn := { step := 3, sel := 3, span := -999 } }, by decide +kernel⟩,
   ⟨{ State.reset with binn := { step := 3, sel := 3, zero := -5, span := 7 } }, by decide +kernel⟩,
   ⟨{ (st [(MER_FREECNT_COUNT, 70000000000)]) with binn := { step := 2, sel := 3 } }, by decide +kernel⟩,
   ⟨State.reset, by decide +kernel⟩,
   ⟨{ (st [(MER_FREECNT_COUNT, 70000000000)]) with binn := { page := 2 } }, by decide +kernel⟩,
   ⟨State.reset, by decide +kernel⟩⟩

theorem witness_island_life :
    (∃ (isl : Fin 16) (s : State), mayStop s isl = true ∧ clocked s isl = true ∧ lasted s isl 100000 = true) ∧
    (∃ (isl : Fin 16) (s : State), (mayStop s isl = false ∨ clocked s isl = false ∨ lasted s isl 100000 = false)) ∧
    (∃ (isl : Fin 16) (s : State), islandAnswers s isl = true) ∧
    (∃ (isl : Fin 16) (s : State), islandAnswers s isl = false ∧ onF s (SYS_ISL_SHED isl) = false) ∧
    (∃ (isl : Fin 16) (s : State), onF s (SYS_ISL_SHED isl) = true) ∧
    (∃ (isl : Fin 16) (k : Fin 64) (s : State), kget 0 s.pulses (64 * isl + k) ≠ 0 ∧ laneFree 20 isl k s.xings = true ∧ clocked s isl = true ∧ kget 0 s.pulseOvf (64 * isl + k) = 0 ∧ islandAnswers s 4 = true) ∧
    (∃ (isl : Fin 16) (k : Fin 64) (s : State), kget 0 s.pulses (64 * isl + k) ≠ 0 ∧ laneFree 20 isl k s.xings = true ∧ clocked s isl = true ∧ kget 0 s.pulseOvf (64 * isl + k) ≠ 0 ∧ islandAnswers s 4 = true ∧ RoomFor s 4) ∧
    (∃ (isl : Fin 16) (k : Fin 64) (s : State), kget 0 s.pulses (64 * isl + k) ≠ 0 ∧ laneFree 20 isl k s.xings = true ∧ clocked s isl = true ∧ islandAnswers s 4 = false) ∧
    (∃ (isl : Fin 16) (k : Fin 64) (s : State), (kget 0 s.pulses (64 * isl + k) = 0 ∨ laneFree 20 isl k s.xings = false ∨ clocked s isl = false)) ∧
    (∃ (x : Fin 33) (isl : Fin 16) (w : Xing) (s : State), clocked s isl = true ∧ ((s.xings.find? fun w => w.num == x.val && w.rx == isl.val && w.busy && decide (w.at' + 100000 ≤ freeCnt s)) = some w) ∧ RoomFor s isl) ∧
    (∃ (x : Fin 33) (isl : Fin 16) (s : State), (clocked s isl = false ∨ (s.xings.find? fun w => w.num == x.val && w.rx == isl.val && w.busy && decide (w.at' + 100000 ≤ freeCnt s)) = none)) ∧
    (∃ (l : DieLink) (b : Bool) (ok : Bool) (q : Fin 16) (s : State), (ok = false ∨ kget 0 s.links (linkKey l b) = q + 1)) ∧
    (∃ (l : DieLink) (q : Fin 16) (s : State), kget 0 s.links (linkKey l false) ≠ q + 1) ∧
    (∃ (q : Fin 16) (s : State), kget 0 s.links (linkKey .fa true) ≠ q + 1) ∧
    (∃ (q : Fin 16) (s : State), kget 0 s.links (linkKey .lod true) ≠ q + 1 ∧ onF s LOD_STAT_LINK = true) ∧
    (∃ (q : Fin 16) (n : Fin 8) (s : State), kget 0 s.links (linkKey (.ana n) true) ≠ q + 1 ∧ (onF s ANL_CTRL_EN = false ∨ islandAnswers s 0xC = false ∨ onF s (ANL_CHSTAT_LINK n) = true)) ∧
    (∃ (r : Req) (isl : Fin 16) (s : State), islandMay s r isl = true) ∧
    (∃ (r : Req) (isl : Fin 16) (s : State), islandMay s r isl = true) ∧
    (∃ (r : Req) (isl : Fin 16) (on : Bool) (s : State), islandMay s r isl = false) ∧
    (∃ (isl : Fin 16) (s : State), onF s (SYS_ISL_QUIESCE isl) = true ∧ ((s.pulses.all fun p => p.1 / 64 != isl.val) = true) ∧ ((s.xings.all fun x => !busyXing isl x) = true)) ∧
    (∃ (isl : Fin 16) (s : State), (onF s (SYS_ISL_QUIESCE isl) = false ∨ (s.pulses.all fun p => p.1 / 64 != isl.val) = false ∨ (s.xings.all fun x => !busyXing isl x) = false)) ∧
    (∃ (r : Req) (isl : Fin 16) (fl : List (Fin 18 × Nat)) (s : State), islandMay s r isl = true ∧ isl ≠ 2) ∧
    (∃ (r : Req) (isl : Fin 16) (fl : List (Fin 18 × Nat)) (s : State), lasted s (16 + isl) 10000 = true) ∧
    (∃ (r : Req) (isl : Fin 16) (fl : List (Fin 18 × Nat)) (s : State), lasted s (16 + isl) 10000 = false) ∧
    (∃ (r : Req) (isl : Fin 16) (fl : List (Fin 18 × Nat)) (s : State), islandMay s r isl = false) :=
  ⟨⟨0xC, { tk State.reset 100000 with quiet := [(0xC, 1)] }, by decide +kernel⟩,
   ⟨3, State.reset, by decide +kernel⟩,
   ⟨8, { (st [(SYS_ISL_STOPPED 8, 1)]) with quiet := [(8, 5)] }, by decide +kernel⟩,
   ⟨8, st [(SYS_ISL_QUIESCE 8, 1)], by decide +kernel⟩,
   ⟨8, st [(SYS_ISL_SHED 8, 1)], by decide +kernel⟩,
   ⟨5, 1, { State.reset with pulses := [(321, 7)] }, by decide +kernel⟩,
   ⟨5, 1, { State.reset with pulses := [(321, 65535)], pulseOvf := [(321, 1)] }, by decide +kernel⟩,
   ⟨5, 1, { (st [(SYS_ISL_INRESET 4, 1)]) with pulses := [(321, 7)] }, by decide +kernel⟩,
   ⟨5, 1, State.reset, by decide +kernel⟩,
   ⟨13, 6, { num := 13, tx := 8, rx := 6, req := true, ack := false, at' := 5, data := .packReq 0 0 0 }, { tk State.reset 100005 with xings := [{ num := 13, tx := 8, rx := 6, req := true, ack := false, at' := 5, data := .packReq 0 0 0 }] }, by decide +kernel⟩,
   ⟨7, 6, State.reset, by decide +kernel⟩,
   ⟨.lod, true, true, 3, { State.reset with links := [(3, 4)] }, by decide +kernel⟩,
   ⟨.ana 3, 3, { State.reset with links := [(10, 2)] }, by decide +kernel⟩,
   ⟨3, st [(FIO_STAT_FALINK, 0)], by decide +kernel⟩,
   ⟨3, st [(LOD_STAT_LINK, 1)], by decide +kernel⟩,
   ⟨3, 2, State.reset, by decide +kernel⟩,
   ⟨.hart 0 true, 8, { (st [(SYS_ISL_INRESET 3, 1)]) with xings := [{ num := 8, tx := 8, rx := 3, req := true, ack := false, at' := 0, data := .msi 0 0 }] }, by decide +kernel⟩,
   ⟨.triad 1, 8, st [(SYS_ISL_QUIESCE 8, 1), (SYS_ISL_DRAINED 8, 1)], by decide +kernel⟩,
   ⟨.hart 0 false, 8, true, State.reset, by decide +kernel⟩,
   ⟨8, st [(SYS_ISL_QUIESCE 8, 1)], by decide +kernel⟩,
   ⟨8, State.reset, by decide +kernel⟩,
   ⟨.hart 0 true, 8, [], { (st [(RHL_CTRL_EN, 1), (SYS_ISL_STOPPED 8, 1)]) with waiting := [(8, { cls := NOTE, loc := ⟨0, 8, 0, 0⟩ })] }, by decide +kernel⟩,
   ⟨.debugger, 8, [], { (tk (st [(SYS_ISL_INRESET 8, 1)]) 10000) with quiet := [(24, 1)] }, by decide +kernel⟩,
   ⟨.debugger, 8, [], { (tk (st [(SYS_ISL_INRESET 8, 1)]) 9999) with quiet := [(24, 1)] }, by decide +kernel⟩,
   ⟨.hart 0 false, 8, [], State.reset, by decide +kernel⟩⟩

theorem witness_fault_collector :
    (∃ (m : BitVec 16) (i : Fin 16) (r : Report) (s : State), s.waiting = [(i.val, r)] ∧ m.getLsbD i = true ∧ (∀ y ∈ s.xings, y.num ≠ 32) ∧ Runs s i ∧ r.cls ≤ 1 ∧ s.coll.fifo.length < 64 ∧ s.pendL = [] ∧ (∀ k : Fin 8, onL s (SYS_ESC_2_EN k) = false) ∧ triggersFire s = false ∧ onF s SYS_FIRQ0_ARMED = false ∧ onF s SYS_FIRQ1_ARMED = false) ∧
    (∃ (m : BitVec 16) (i : Fin 16) (r : Report) (a : Nat) (s : State), s.waiting = [] ∧ s.xings = [⟨32, i.val, 0, 0, true, false, a, .report r⟩] ∧ m.getLsbD i = true ∧ (1 ≤ i.val ∧ i.val ≤ 12) ∧ r.cls ≤ 1 ∧ s.coll.fifo.length < 64 ∧ s.pendL = [] ∧ (∀ k : Fin 8, onL s (SYS_ESC_2_EN k) = false) ∧ triggersFire s = false ∧ onF s SYS_FIRQ0_ARMED = false ∧ onF s SYS_FIRQ1_ARMED = false) ∧
    (∃ (m : BitVec 16) (i : Fin 16) (r : Report) (s : State), s.waiting = [(i.val, r)] ∧ m.getLsbD i = true ∧ (∀ y ∈ s.xings, y.num ≠ 32) ∧ Runs s i ∧ r.cls ≤ 1 ∧ s.coll.fifo.length = 64 ∧ (r.cls ≤ lowest (s.coll.fifo.map fun x => flocCls x.floc)) ∧ s.pendL = [] ∧ (∀ k : Fin 8, onL s (SYS_ESC_2_EN k) = false) ∧ triggersFire s = false ∧ onF s SYS_FIRQ0_ARMED = false ∧ onF s SYS_FIRQ1_ARMED = false) ∧
    (∃ (m : BitVec 16) (c : Nat) (s : State), (c = 1 ∨ c = 2 ∨ c = 3 ∨ c = 4 ∨ c = 6) ∧ s.waiting = [(0, { cls := MODULE, loc := causeLoc c })] ∧ m.getLsbD 0 = true ∧ (∀ y ∈ s.xings, y.num ≠ 32) ∧ onF s SYS_MSTAT_MSAFE = false) ∧
    (∃ (m : BitVec 16) (s : State), s.pendL = [] ∧ s.waiting = [] ∧ (∀ y ∈ s.xings, y.num ≠ 32)) ∧
    (∃ (s : State), s.pendL = []) ∧
    (∃ (m : BitVec 16) (i : Fin 16) (r : Report) (s : State), s.waiting = [(i.val, r)] ∧ m.getLsbD i = true ∧ (∀ y ∈ s.xings, y.num ≠ 32) ∧ Runs s i ∧ (r.cls = 2 ∨ r.cls = 3) ∧ s.coll.fifo.length < 64 ∧ s.pendL = [] ∧ (∀ k : Fin 8, onL s (SYS_ESC_2_EN k) = false) ∧ triggersFire s = false ∧ onF s SYS_FIRQ0_ARMED = false ∧ onF s SYS_FIRQ1_ARMED = false) ∧
    (∃ (r : Req) (b : Bool) (s : State), ((s.coll.fifo.any fun e => decide (firqMin s b ≤ flocCls e.floc)) = false ∨ getF s (if b then SYS_FIRQ1_EIID else SYS_FIRQ0_EIID) = 0)) ∧
    (∃ (r : Req) (b : Bool) (s : State), ((s.coll.fifo.any fun e => decide (firqMin s b ≤ flocCls e.floc)) = true) ∧ (getF s (if b then SYS_FIRQ1_EIID else SYS_FIRQ0_EIID) ≠ 0)) ∧
    (∃ (r : Req) (s : State), isTriadOrMach r = true ∧ RoomFor s 0) ∧
    (∃ (r : Req) (k : BitVec 16) (s : State), (isTriadOrMach r = false ∨ k ≠ 0x3C5A)) ∧
    (∃ (s : State), s.coll.fails ≠ 2) ∧
    (∃ (s : State), s.coll.fails = 2 ∧ RoomFor s 0) ∧
    (∃ (s : State), RoomFor s 0) :=
  ⟨⟨0xFFFF, 6, { cls := MINOR, loc := ⟨0, 6, 0x71, 0⟩ }, { (st [(LOG_CTRL_EN, 0), (SYS_FIRQ0_ARMED, 0), (SYS_FIRQ1_ARMED, 0)]) with waiting := [(6, { cls := MINOR, loc := ⟨0, 6, 0x71, 0⟩ })] }, by decide +kernel⟩,
   ⟨0x40, 6, { cls := MINOR, loc := ⟨0, 6, 0x71, 0⟩ }, 3, { (st [(LOG_CTRL_EN, 0), (SYS_FIRQ0_ARMED, 0), (SYS_FIRQ1_ARMED, 0)]) with xings := [⟨32, 6, 0, 0, true, false, 3, .report { cls := MINOR, loc := ⟨0, 6, 0x71, 0⟩ }⟩] }, by decide +kernel⟩,
   ⟨0xFFFF, 6, { cls := MINOR, loc := ⟨0, 6, 0x71, 0⟩ }, { (st [(LOG_CTRL_EN, 0), (SYS_FIRQ0_ARMED, 0), (SYS_FIRQ1_ARMED, 0)]) with waiting := [(6, { cls := MINOR, loc := ⟨0, 6, 0x71, 0⟩ })], coll := { fifo := List.replicate 64 { floc := 0x0100000000000000, addr := 0, req := 0, xing := 0, ts := 0, seq := 0, esc := false, rule := 0 } } }, by decide +kernel⟩,
   ⟨1, 3, { State.reset with waiting := [(0, { cls := MODULE, loc := aonLoc 0x01 })] }, by decide +kernel⟩,
   ⟨0xFFFF, State.reset, by decide +kernel⟩,
   ⟨{ (st []) with waiting := [(6, { cls := MINOR, loc := ⟨0, 6, 0x71, 0⟩ })] }, by decide +kernel⟩,
   ⟨0xFFFF, 6, { cls := MAJOR, loc := ⟨0, 6, 0x71, 0⟩ }, { (st [(LOG_CTRL_EN, 0), (SYS_FIRQ0_ARMED, 0), (SYS_FIRQ1_ARMED, 0)]) with waiting := [(6, { cls := MAJOR, loc := ⟨0, 6, 0x71, 0⟩ })] }, by decide +kernel⟩,
   ⟨.debugger, true, State.reset, by decide +kernel⟩,
   ⟨.debugger, true, { (st [(SYS_FIRQ1_MINCLS, 1), (SYS_FIRQ1_EIID, 5)]) with coll := { fifo := [{ floc := 0x0100000000000000, addr := 0, req := 0, xing := 0, ts := 0, seq := 0, esc := false, rule := 0 }] } }, by decide +kernel⟩,
   ⟨.triad 2, State.reset, by decide +kernel⟩,
   ⟨.debugger, 0x3C5A, State.reset, by decide +kernel⟩,
   ⟨State.reset, by decide +kernel⟩,
   ⟨{ State.reset with coll := { fails := 2 } }, by decide +kernel⟩,
   ⟨State.reset, by decide +kernel⟩⟩

theorem witness_pair_roles :
    (∃ (s : State), Runs s 6 ∧ onF s PRL_CTRL_EN = true ∧ onF s SYS_MSTAT_MSAFE = false ∧ s.prl.sent = false ∧ bitF s PRL_STAT_LINK 0 = true ∧ bitF s PRL_STAT_LINK 1 = true) ∧
    (∃ (s : State), Runs s 6 ∧ (onF s PRL_CTRL_EN = false ∨ onF s SYS_MSTAT_MSAFE = true ∨ s.prl.sent = true)) ∧
    (∃ (n : Fin 2) (sof : Nat) (f : List Byte) (s : State), Runs s 6 ∧ onF s PRL_CTRL_EN = true ∧ fcsGood f = false) ∧
    (∃ (n : Fin 2) (sof : Nat) (f : List Byte) (s : State), Runs s 6 ∧ onF s PRL_CTRL_EN = false) ∧
    (∃ (n : Fin 2) (f : List Byte) (sof : Nat) (u : State) (ep : Nat) (p : List Byte) (s : State), Runs s 6 ∧ onF s PRL_CTRL_EN = true ∧ pairReceive n f s = (u, some (1, ep, p)) ∧ 32 ≤ p.length ∧ role s = roleLISTEN ∧ leAt p 0 1 % 4 = rolePRIMARY ∧ ovr s ≠ 1 ∧ onF s SYS_MSTAT_MSAFE = false) ∧
    (∃ (s : State), Runs s 6 ∧ onF s PRL_CTRL_EN = true ∧ s.prl.missDue = true ∧ role s ≠ roleSTANDBY) ∧
    (∃ (s : State), Runs s 6 ∧ onF s PRL_CTRL_EN = true ∧ s.prl.missDue = true ∧ role s = roleSTANDBY ∧ ovr s ≠ 2 ∧ 1 ≤ s.prl.missed ∧ onF s SYS_MSTAT_MSAFE = false) ∧
    (∃ (s : State), Runs s 6 ∧ (onF s PRL_CTRL_EN = false ∨ s.prl.missDue = false)) ∧
    (∃ (r : Req) (s : State), Ready s 6 ∧ onF s PRL_CTRL_EN = false) ∧
    (∃ (r : Req) (s : State), Ready s 6 ∧ onF s PRL_CTRL_EN = true) ∧
    (∃ (r : Req) (b : Bool) (s : State), Ready s 6 ∧ onF s PRL_CTRL_EN = b) ∧
    (∃ (s : State), Runs s 6 ∧ onF s PRL_CTRL_EN = true ∧ role s = roleLISTEN ∧ ovr s ≠ 2 ∧ onF s SYS_MSTAT_MSAFE = false ∧ ((if onF s PRL_CTRL_SIDE then 6 else 3) ≤ s.prl.quiet)) ∧
    (∃ (s : State), Runs s 6 ∧ (role s ≠ roleLISTEN ∨ ovr s = 2 ∨ onF s PRL_CTRL_EN = false ∨ onF s SYS_MSTAT_MSAFE = true ∨ s.prl.quiet < (if onF s PRL_CTRL_SIDE then 6 else 3))) ∧
    (∃ (r : Req) (s : State), Ready s 6 ∧ isTriadOrMach r = true ∧ onF s PRL_CTRL_EN = true ∧ onF s SYS_MSTAT_MSAFE = false ∧ role s = rolePRIMARY ∧ onF s PRL_STAT_PARTNER = true ∧ onF s PRL_STAT_PREADY = true ∧ ovr s = 0 ∧ bits (getF s PRL_PSTAT_FLAGS) 4 2 = 0 ∧ s.prl.swap = 0) ∧
    (∃ (r : Req) (s : State), Ready s 6 ∧ isTriadOrMach r = true ∧ (role s ≠ rolePRIMARY ∨ onF s PRL_STAT_PARTNER = false ∨ onF s PRL_STAT_PREADY = false ∨ ovr s ≠ 0 ∨ bits (getF s PRL_PSTAT_FLAGS) 4 2 ≠ 0 ∨ s.prl.swap ≠ 0 ∨ onF s PRL_CTRL_EN = false ∨ onF s SYS_MSTAT_MSAFE = true)) ∧
    (∃ (r : Req) (s : State), Ready s 6 ∧ isTriadOrMach r = false) ∧
    (∃ (s : State), Runs s 6 ∧ onF s PRL_CTRL_EN = true ∧ onF s SYS_MSTAT_MSAFE = false ∧ s.prl.swap = 7 ∧ role s = rolePRIMARY) ∧
    (∃ (s : State), Runs s 6 ∧ onF s PRL_CTRL_EN = true ∧ onF s SYS_MSTAT_MSAFE = false ∧ s.prl.swap = 7 ∧ role s = roleSTANDBY) ∧
    (∃ (s : State), Runs s 6 ∧ (s.prl.swap ≠ 7 ∨ onF s PRL_CTRL_EN = false ∨ onF s SYS_MSTAT_MSAFE = true ∨ role s = roleLISTEN ∨ role s = roleOFF)) ∧
    (∃ (n : Fin 2) (up : Bool) (s : State), onF s (PRL_LSTAT_LINK n) = !up) ∧
    (∃ (n : Fin 2) (up : Bool) (s : State), onF s (PRL_LSTAT_LINK n) = up) :=
  ⟨⟨st [(PRL_CTRL_EN, 1), (PRL_STAT_LINK, 3)], by decide +kernel⟩,
   ⟨State.reset, by decide +kernel⟩,
   ⟨1, 7, [1, 2, 3, 4], st [(PRL_CTRL_EN, 1)], by decide +kernel⟩,
   ⟨1, 7, [1, 2, 3, 4], State.reset, by decide +kernel⟩,
   ⟨1, (withFcs (List.replicate 12 0 ++ [0x88, 0xB7, 17, 0, 9, 0, 1, 0, 0, 0, 32, 0] ++ ([2, 0, 5, 0] ++ List.replicate 28 0) ++ List.replicate 4 0)), 7, (pairReceive 1 (withFcs (List.replicate 12 0 ++ [0x88, 0xB7, 17, 0, 9, 0, 1, 0, 0, 0, 32, 0] ++ ([2, 0, 5, 0] ++ List.replicate 28 0) ++ List.replicate 4 0)) (st [(PRL_CTRL_EN, 1), (PRL_STAT_ROLE, 1)])).1, 9, ([2, 0, 5, 0] ++ List.replicate 28 0), (st [(PRL_CTRL_EN, 1), (PRL_STAT_ROLE, 1)]), by decide +kernel⟩,
   ⟨{ (st [(PRL_CTRL_EN, 1), (PRL_STAT_ROLE, 2), (PRL_STAT_PARTNER, 1)]) with prl := { missDue := true } }, by decide +kernel⟩,
   ⟨{ (st [(PRL_CTRL_EN, 1), (PRL_STAT_ROLE, 3), (PRL_STAT_PARTNER, 1)]) with prl := { missDue := true, missed := 1 } }, by decide +kernel⟩,
   ⟨State.reset, by decide +kernel⟩,
   ⟨.debugger, State.reset, by decide +kernel⟩,
   ⟨.debugger, st [(PRL_CTRL_EN, 1), (PRL_STAT_ROLE, 2), (PRL_STAT_PARTNER, 1)], by decide +kernel⟩,
   ⟨.debugger, false, State.reset, by decide +kernel⟩,
   ⟨{ (st [(PRL_CTRL_EN, 1), (PRL_STAT_ROLE, 1)]) with prl := { quiet := 6 } }, by decide +kernel⟩,
   ⟨State.reset, by decide +kernel⟩,
   ⟨.triad 1, st [(PRL_CTRL_EN, 1), (PRL_STAT_ROLE, 2), (PRL_STAT_PARTNER, 1), (PRL_STAT_PREADY, 1), (PRL_CTRL_OVR, 0)], by decide +kernel⟩,
   ⟨.triad 1, State.reset, by decide +kernel⟩,
   ⟨.debugger, State.reset, by decide +kernel⟩,
   ⟨{ (st [(PRL_CTRL_EN, 1), (PRL_STAT_ROLE, 2)]) with prl := { swap := 7 } }, by decide +kernel⟩,
   ⟨{ (st [(PRL_CTRL_EN, 1), (PRL_STAT_ROLE, 3)]) with prl := { swap := 7 } }, by decide +kernel⟩,
   ⟨State.reset, by decide +kernel⟩,
   ⟨1, true, State.reset, by decide +kernel⟩,
   ⟨1, false, State.reset, by decide +kernel⟩⟩

theorem witness_pair_mirrors :
    (∃ (b : Bool) (s : State), Runs s 6 ∧ role s ≠ roleSTANDBY ∧ s.chart.catchup = none) ∧
    (∃ (b : Bool) (k : Nat) (s : State), Runs s 6 ∧ role s ≠ roleSTANDBY ∧ s.chart.catchup = some k ∧ mirrorEntries s k = []) ∧
    (∃ (b : Bool) (k : Nat) (g : Nat) (s : State), Runs s 6 ∧ role s ≠ roleSTANDBY ∧ s.chart.catchup = some k ∧ mirrorEntries s k = [g] ∧ s.chart.marks = []) ∧
    (∃ (s : State), Runs s 6 ∧ role s = roleSTANDBY) ∧
    (∃ (s : State), Runs s 6 ∧ role s = roleSTANDBY) ∧
    (∃ (s : State), Runs s 6 ∧ role s ≠ rolePRIMARY) ∧
    (∃ (g : Nat) (l : Nat) (d : List Byte) (s : State), Runs s 6 ∧ role s = rolePRIMARY ∧ onF s PRL_STAT_PARTNER = true ∧ mirrorLink s 40 = some l ∧ s.mer.fired = [] ∧ s.chart.marks = [g] ∧ s.prl.tx = [] ∧ s.prl.used + 40 ≤ budget s ∧ readCw s (sigCw g) = some d) ∧
    (∃ (n : Fin 2) (f : List Byte) (s : State), Runs s 6 ∧ fcsGood f = false) ∧
    (∃ (n : Fin 2) (f : List Byte) (u : State) (ep : Nat) (p : List Byte) (s : State), Runs s 6 ∧ pairReceive n f s = (u, some (2, ep, p)) ∧ role s ≠ roleSTANDBY) ∧
    (∃ (n : Fin 2) (f : List Byte) (u : State) (ep : Nat) (p : List Byte) (s : State), Runs s 6 ∧ pairReceive n f s = (u, some (2, ep, p)) ∧ role s = roleSTANDBY ∧ (s.prl.rxSeq.getD n 0 = 0 ∨ s.prl.rxSeq.getD n 0 = leAt f 18 4) ∧ epochRel ep (getF s PRL_PSTAT_PEPOCH) = .same ∧ onF s CHT_CTRL_EN = true ∧ s.chart.jobs.length < 512) ∧
    (∃ (n : Fin 2) (f : List Byte) (s : State), Runs s 6 ∧ fcsGood f = false) ∧
    (∃ (n : Fin 2) (f : List Byte) (u : State) (ep : Nat) (p : List Byte) (s : State), Runs s 6 ∧ pairReceive n f s = (u, some (3, ep, p)) ∧ role s ≠ roleSTANDBY) ∧
    (∃ (n : Fin 2) (f : List Byte) (u : State) (ep : Nat) (p : List Byte) (x : BlkRx) (s : State), Runs s 6 ∧ pairReceive n f s = (u, some (3, ep, p)) ∧ role s = roleSTANDBY ∧ epochRel ep (getF u PRL_PSTAT_PEPOCH) = .same ∧ leAt p 0 1 < 64 ∧ blkUsed u (leAt p 0 1) = true ∧ kget {} u.prl.rx (leAt p 0 1) = x ∧ x.got = none ∧ 12 < p.length ∧ (p.length - 12) % 64 = 0 ∧ leAt p 8 4 % 64 = 0 ∧ leAt p 8 4 + (p.length - 12) ≤ blkLen u (leAt p 0 1) ∧ p.length - 12 < blkLen u (leAt p 0 1) ∧ blockMay u (leAt p 0 1) (blkDst u (leAt p 0 1)) (2 * 2 ^ 20) true = true ∧ UncachedIn u (blkDst u (leAt p 0 1) + x.nextHalf * 2 ^ 20 + leAt p 8 4) (p.length - 12)) :=
  ⟨⟨true, State.reset, by decide +kernel⟩,
   ⟨true, 1, { (st [(PRL_STAT_ROLE, 2)]) with chart := { catchup := some 1 } }, by decide +kernel⟩,
   ⟨true, 1, 9, { (writeMem (st [(PRL_STAT_ROLE, 2)]) 0 (32 * sigCw 9) (entBytes { parseEnt (List.replicate 32 0) with flags := 1 })) with chart := { catchup := some 1 } }, by decide +kernel⟩,
   ⟨st [(PRL_STAT_ROLE, 3)], by decide +kernel⟩,
   ⟨st [(PRL_STAT_ROLE, 3)], by decide +kernel⟩,
   ⟨State.reset, by decide +kernel⟩,
   ⟨7, 0, (List.replicate 32 0), { (writeMem (st [(PRL_CTRL_EN, 1), (PRL_STAT_ROLE, 2), (PRL_STAT_PARTNER, 1), (PRL_STAT_LINK, 1), (PRL_PSTAT_PEPOCH, 9), (CHT_CTRL_EN, 1), (PRL_BLK_0_EN 3, 1), (PRL_BLK_0_LEN 3, 2), (PRL_BLK_2_DST 3, 0x100000), (PRL_BLK_0_OWNER 3, 4)]) 0 0x6000000E0 (List.replicate 32 0)) with chart := { marks := [7] } }, by decide +kernel⟩,
   ⟨1, [1, 2, 3, 4], State.reset, by decide +kernel⟩,
   ⟨1, (withFcs (List.replicate 12 0 ++ [0x88, 0xB7, 33, 0, 9, 0, 1, 0, 0, 0, 40, 0] ++ ([7, 0, 0, 0, 0, 0, 0, 0] ++ List.replicate 32 1) ++ List.replicate 0 0)), (pairReceive 1 (withFcs (List.replicate 12 0 ++ [0x88, 0xB7, 33, 0, 9, 0, 1, 0, 0, 0, 40, 0] ++ ([7, 0, 0, 0, 0, 0, 0, 0] ++ List.replicate 32 1) ++ List.replicate 0 0)) State.reset).1, 9, ([7, 0, 0, 0, 0, 0, 0, 0] ++ List.replicate 32 1), State.reset, by decide +kernel⟩,
   ⟨1, (withFcs (List.replicate 12 0 ++ [0x88, 0xB7, 33, 0, 9, 0, 1, 0, 0, 0, 40, 0] ++ ([7, 0, 0, 0, 0, 0, 0, 0] ++ List.replicate 32 1) ++ List.replicate 0 0)), (pairReceive 1 (withFcs (List.replicate 12 0 ++ [0x88, 0xB7, 33, 0, 9, 0, 1, 0, 0, 0, 40, 0] ++ ([7, 0, 0, 0, 0, 0, 0, 0] ++ List.replicate 32 1) ++ List.replicate 0 0)) (writeMem (st [(PRL_CTRL_EN, 1), (PRL_STAT_ROLE, 3), (PRL_PSTAT_PEPOCH, 9), (CHT_CTRL_EN, 1), (PRL_BLK_0_EN 3, 1), (PRL_BLK_0_LEN 3, 2), (PRL_BLK_2_DST 3, 0x100000), (PRL_BLK_0_OWNER 3, 4)]) 0 0x6000000E0 (List.replicate 32 0))).1, 9, ([7, 0, 0, 0, 0, 0, 0, 0] ++ List.replicate 32 1), (writeMem (st [(PRL_CTRL_EN, 1), (PRL_STAT_ROLE, 3), (PRL_PSTAT_PEPOCH, 9), (CHT_CTRL_EN, 1), (PRL_BLK_0_EN 3, 1), (PRL_BLK_0_LEN 3, 2), (PRL_BLK_2_DST 3, 0x100000), (PRL_BLK_0_OWNER 3, 4)]) 0 0x6000000E0 (List.replicate 32 0)), by decide +kernel⟩,
   ⟨1, [1, 2, 3, 4], State.reset, by decide +kernel⟩,
   ⟨1, (withFcs (List.replicate 12 0 ++ [0x88, 0xB7, 49, 0, 9, 0, 1, 0, 0, 0, 76, 0] ++ ([3, 0, 0, 0, 8, 0, 0, 0, 0x40, 0, 0, 0] ++ List.replicate 64 5) ++ List.replicate 0 0)), (pairReceive 1 (withFcs (List.replicate 12 0 ++ [0x88, 0xB7, 49, 0, 9, 0, 1, 0, 0, 0, 76, 0] ++ ([3, 0, 0, 0, 8, 0, 0, 0, 0x40, 0, 0, 0] ++ List.replicate 64 5) ++ List.replicate 0 0)) State.reset).1, 9, ([3, 0, 0, 0, 8, 0, 0, 0, 0x40, 0, 0, 0] ++ List.replicate 64 5), State.reset, by decide +kernel⟩,
   ⟨1, (withFcs (List.replicate 12 0 ++ [0x88, 0xB7, 49, 0, 9, 0, 1, 0, 0, 0, 76, 0] ++ ([3, 0, 0, 0, 8, 0, 0, 0, 0x40, 0, 0, 0] ++ List.replicate 64 5) ++ List.replicate 0 0)), (pairReceive 1 (withFcs (List.replicate 12 0 ++ [0x88, 0xB7, 49, 0, 9, 0, 1, 0, 0, 0, 76, 0] ++ ([3, 0, 0, 0, 8, 0, 0, 0, 0x40, 0, 0, 0] ++ List.replicate 64 5) ++ List.replicate 0 0)) (st [(PRL_CTRL_EN, 1), (PRL_STAT_ROLE, 3), (PRL_PSTAT_PEPOCH, 9), (CHT_CTRL_EN, 1), (PRL_BLK_0_EN 3, 1), (PRL_BLK_0_LEN 3, 2), (PRL_BLK_2_DST 3, 0x100000), (PRL_BLK_0_OWNER 3, 4)])).1, 9, ([3, 0, 0, 0, 8, 0, 0, 0, 0x40, 0, 0, 0] ++ List.replicate 64 5), {}, (st [(PRL_CTRL_EN, 1), (PRL_STAT_ROLE, 3), (PRL_PSTAT_PEPOCH, 9), (CHT_CTRL_EN, 1), (PRL_BLK_0_EN 3, 1), (PRL_BLK_0_LEN 3, 2), (PRL_BLK_2_DST 3, 0x100000), (PRL_BLK_0_OWNER 3, 4)]), by decide +kernel⟩⟩

theorem witness_logbook_records :
    (∃ (s : State), s.logb.due = []) ∧
    (∃ (f : Fired) (r : List Fired) (s : State), s.logb.due = f :: r ∧ triggersFire s = false) ∧
    (∃ (f : Fired) (r : List Fired) (s : State), s.logb.due = f :: r ∧ triggersFire s = true ∧ s.logb.queue.length < 64 ∧ pastFail s = false) ∧
    (∃ (f : Fired) (r : List Fired) (s : State), s.logb.due = f :: r ∧ triggersFire s = true ∧ 64 ≤ s.logb.queue.length) ∧
    (∃ (r : Req) (g : Fin 256) (a : BitVec 48) (s : State), triggersFire s = true ∧ kindOf s g = 3 ∧ s.logb.queue.length < 64 ∧ pastFail s = false) ∧
    (∃ (r : Req) (g : Fin 256) (a : BitVec 48) (s : State), (triggersFire s = false ∨ kindOf s g ≠ 3)) ∧
    (∃ (r : Req) (v : Word) (s : State), kindOf s (selTrig s) = 0 ∧ bits v.toNat 0 3 ≠ 0 ∧ trigErr (setF (setF s (LOG_TCTL_MINCLS (selTrig s)) (bits v.toNat (LOG_TCTL_MINCLS (selTrig s)).lo (LOG_TCTL_MINCLS (selTrig s)).w)) (LOG_TCTL_PARAM (selTrig s)) (bits v.toNat (LOG_TCTL_PARAM (selTrig s)).lo (LOG_TCTL_PARAM (selTrig s)).w)) (selTrig s) (bits v.toNat 0 3) = 0) ∧
    (∃ (r : Req) (v : Word) (s : State), kindOf s (selTrig s) = 0 ∧ bits v.toNat 0 3 ≠ 0 ∧ trigErr (setF (setF s (LOG_TCTL_MINCLS (selTrig s)) (bits v.toNat (LOG_TCTL_MINCLS (selTrig s)).lo (LOG_TCTL_MINCLS (selTrig s)).w)) (LOG_TCTL_PARAM (selTrig s)) (bits v.toNat (LOG_TCTL_PARAM (selTrig s)).lo (LOG_TCTL_PARAM (selTrig s)).w)) (selTrig s) (bits v.toNat 0 3) ≠ 0) ∧
    (∃ (s : State), s.logb.queue = []) ∧
    (∃ (f : Fired) (r : List Fired) (u : State) (p : List Byte) (s : State), s.logb.queue = f :: r ∧ captureItems f (itemsOf s f.trig) { s with logb := { s.logb with queue := r } } = (u, p, 0) ∧ s.logb.newest = none ∧ unflushed s + 32 + (padPayload p).length < 8 * 2 ^ 20) ∧
    (∃ (s : State), onF s LOG_STAT_FLUSHING = false ∧ freeCnt s < s.logb.flushEnd + flushMs s * 1000000) ∧
    (∃ (r : LogRec) (s : State), onF s LOG_STAT_FLUSHING = true ∧ s.logb.inFlush = 1 ∧ s.logb.buf = [r] ∧ s.logb.rewrites = [] ∧ s.logb.dir = [] ∧ s.logb.head + r.len ≤ logSize ∧ s.logb.written + r.len < 2 ^ 20 ∧ s.logb.head % 32 = 0 ∧ r.payload.length % 32 = 0 ∧ onF s MEM_INJ_ARM = false ∧ UncachedIn s (logBase + s.logb.head) r.len) ∧
    (∃ (r : Req) (s : State), onF s LOG_STAT_FLUSHING = false) ∧
    (∃ (r : Req) (s : State), onF s LOG_STAT_FLUSHING = true) ∧
    (∃ (s : State), onF s LOG_STAT_FLUSHING = true ∧ s.logb.buf = [] ∧ s.logb.rewrites = [] ∧ s.logb.again = false ∧ s.pwr.seq = 0) ∧
    (∃ (s : State), onF s LOG_STAT_FLUSHING = true ∧ s.logb.again = false ∧ s.pwr.seq ≠ 0) ∧
    (∃ (s : State), onF s LOG_STAT_FLUSHING = false ∧ s.pwr.seq = 0) :=
  ⟨⟨State.reset, by decide +kernel⟩,
   ⟨{ trig := 7, ts := 99 }, [], { (st [(LOG_CTRL_EN, 0)]) with logb := { due := [{ trig := 7, ts := 99 }] } }, by decide +kernel⟩,
   ⟨{ trig := 7, ts := 99 }, [], { (st []) with logb := { due := [{ trig := 7, ts := 99 }] } }, by decide +kernel⟩,
   ⟨{ trig := 7, ts := 99 }, [], { (st []) with logb := { due := [{ trig := 7, ts := 99 }], queue := List.replicate 64 { trig := 7, ts := 99 } } }, by decide +kernel⟩,
   ⟨.debugger, 7, 0x1234, st [(LOG_TCTL_KIND 7, 3)], by decide +kernel⟩,
   ⟨.debugger, 7, 0x1234, State.reset, by decide +kernel⟩,
   ⟨.debugger, 3, st [(LOG_TSEL_TRIG, 7), (LOG_TITEM_IKIND 7 0, 5)], by decide +kernel⟩,
   ⟨.debugger, 3, st [(LOG_TSEL_TRIG, 7)], by decide +kernel⟩,
   ⟨State.reset, by decide +kernel⟩,
   ⟨{ trig := 7, ts := 99 }, [], { (st [(LOG_TITEM_IKIND 7 0, 5)]) with logb := {  } }, (List.replicate 8 0), { (st [(LOG_TITEM_IKIND 7 0, 5)]) with logb := { queue := [{ trig := 7, ts := 99 }] } }, by decide +kernel⟩,
   ⟨State.reset, by decide +kernel⟩,
   ⟨{ seq := 4, trig := 7, flags := 0, first := 9, items := 1, payload := List.replicate 32 3 }, { (st [(LOG_STAT_FLUSHING, 1)]) with logb := { inFlush := 1, buf := [{ seq := 4, trig := 7, flags := 0, first := 9, items := 1, payload := List.replicate 32 3 }] } }, by decide +kernel⟩,
   ⟨.debugger, State.reset, by decide +kernel⟩,
   ⟨.debugger, st [(LOG_STAT_FLUSHING, 1)], by decide +kernel⟩,
   ⟨st [(LOG_STAT_FLUSHING, 1)], by decide +kernel⟩,
   ⟨{ (st [(LOG_STAT_FLUSHING, 1), (FIO_CTRL_EN, 1), (ANL_CTRL_EN, 1)]) with pwr := { seq := 1 } }, by decide +kernel⟩,
   ⟨State.reset, by decide +kernel⟩⟩

theorem witness_logbook_reading :
    (∃ (r : Req) (q : BitVec 32) (n : Bool) (s : State), mayCursor s r = false) ∧
    (∃ (r : Req) (q : BitVec 32) (d : List Byte) (b : Bool) (s : State), mayCursor s r = true ∧ fetchRec s q.toNat = some (d, b)) ∧
    (∃ (r : Req) (q : BitVec 32) (s : State), mayCursor s r = true ∧ fetchRec s q.toNat = none) ∧
    (∃ (c : Cert) (s : State), c ≠ .neither) ∧
    (∃ (c : Cert) (q : BitVec 32) (k : BitVec 32) (s : State), c ≠ .neither ∧ fetchRec s q.toNat = none) ∧
    (∃ (c : Cert) (q : BitVec 32) (d : List Byte) (b : Bool) (s : State), c ≠ .neither ∧ fetchRec s q.toNat = some (d, b) ∧ d.length ≤ 2 ^ 20) ∧
    (∃ (c : Cert) (k : BitVec 32) (s : State), c ≠ .neither ∧ k ≠ 0 ∧ k.toNat ≤ 86400) ∧
    (∃ (c : Cert) (k : BitVec 32) (s : State), c ≠ .neither ∧ 86400 < k.toNat) ∧
    (∃ (s : State), grantOpen s = false) ∧
    (∃ (s : State), grantOpen s = true) ∧
    (∃ (c : Cert) (x : BitVec 256) (s : State), c ≠ .depot) :=
  ⟨⟨.hart 0 false, 3, false, State.reset, by decide +kernel⟩,
   ⟨.triad 0, 4, (recBytes { seq := 4, trig := 7, flags := 0, first := 9, items := 1, payload := List.replicate 32 3 }), false, { (st [(LOG_STAT_GRANT, 1), (LOG_GRANT_DEPOT, 1), (MER_FREECNT_COUNT, 5)]) with logb := { buf := [{ seq := 4, trig := 7, flags := 0, first := 9, items := 1, payload := List.replicate 32 3 }], grantEnd := 900 } }, by decide +kernel⟩,
   ⟨.triad 0, 4, { (st [(LOG_STAT_GRANT, 1), (LOG_GRANT_DEPOT, 1), (MER_FREECNT_COUNT, 5)]) with logb := { grantEnd := 900 } }, by decide +kernel⟩,
   ⟨.depot, State.reset, by decide +kernel⟩,
   ⟨.depot, 3, 1, State.reset, by decide +kernel⟩,
   ⟨.depot, 4, (recBytes { seq := 4, trig := 7, flags := 0, first := 9, items := 1, payload := List.replicate 32 3 }), false, { (st []) with logb := { buf := [{ seq := 4, trig := 7, flags := 0, first := 9, items := 1, payload := List.replicate 32 3 }] } }, by decide +kernel⟩,
   ⟨.depot, 60, State.reset, by decide +kernel⟩,
   ⟨.depot, 86401, State.reset, by decide +kernel⟩,
   ⟨st [(LOG_STAT_GRANT, 1)], by decide +kernel⟩,
   ⟨{ (st [(LOG_STAT_GRANT, 1)]) with logb := { grantEnd := 900 } }, by decide +kernel⟩,
   ⟨.neither, 0x1234, State.reset, by decide +kernel⟩⟩

theorem witness_power_up_and_start_up :
    (∃ (b : Bool) (s : State), onF s (wakeFld b) = true) ∧
    (∃ (b : Bool) (s : State), onF s (wakeFld b) = false ∧ s.pwr.phase = 2) ∧
    (∃ (b : Bool) (s : State), onF s (wakeFld b) = false ∧ s.pwr.phase ≠ 2) ∧
    (∃ (b : Bool) (s : State), onF s (wakeFld b) = false) ∧
    (∃ (b : Bool) (s : State), onF s (wakeFld b) = true ∧ onF s (wakeFld (!b)) = false ∧ s.pwr.phase = 2 ∧ s.pwr.seq = 0) ∧
    (∃ (b : Bool) (s : State), onF s (wakeFld b) = true ∧ onF s (wakeFld (!b)) = true ∧ s.pwr.phase = 2) ∧
    (∃ (s : State), s.pwr.phase = 0 ∧ s.pwr.batt = true ∧ s.pwr.waitOff = false ∧ anyWake s = true) ∧
    (∃ (s : State), (s.pwr.phase ≠ 0 ∨ s.pwr.batt = false ∨ s.pwr.waitOff = true ∨ anyWake s = false)) ∧
    (∃ (s : State), s.pwr.phase = 1 ∧ anyWake s = true ∧ getF s MER_PCC_COUNT < 0xFFFF) ∧
    (∃ (ok : Bool) (s : State), s.pwr.phase = 1 ∧ anyWake s = false) ∧
    (∃ (ok : Bool) (s : State), s.pwr.phase ≠ 1) ∧
    (∃ (x : BitVec 14) (ok : Bool) (s : State), s.pwr.phase = 2 ∧ s.pwr.seq = 0 ∧ s.upd.want = false ∧ getF s SYS_BOOT_STAGE = 2) ∧
    (∃ (x : BitVec 14) (ok : Bool) (s : State), s.pwr.phase = 2 ∧ s.pwr.seq = 0 ∧ s.upd.want = false ∧ getF s SYS_BOOT_STAGE = 1 ∧ s.upd.setHeld = false) ∧
    (∃ (x : BitVec 14) (ok : Bool) (s : State), s.pwr.phase = 2 ∧ s.pwr.seq = 0 ∧ s.upd.want = false ∧ getF s SYS_BOOT_STAGE = 5) ∧
    (∃ (x : BitVec 14) (ok : Bool) (s : State), (s.pwr.phase ≠ 2 ∨ s.pwr.seq ≠ 0 ∨ s.upd.want = true ∨ getF s SYS_BOOT_STAGE = 0 ∨ 7 ≤ getF s SYS_BOOT_STAGE)) ∧
    (∃ (s : State), getF s SYS_THERM_TSTATE = 0 ∧ s.therm.ge112 < 11 ∧ 11 ≤ s.therm.ge97) ∧
    (∃ (s : State), getF s SYS_THERM_TSTATE ≠ 3 ∧ 11 ≤ s.therm.ge112 ∧ RoomFor s 0) ∧
    (∃ (s : State), (getF s SYS_THERM_TSTATE = 3 ∨ (s.therm.ge97 < 11 ∧ s.therm.ge102 < 11 ∧ s.therm.ge112 < 11 ∧ s.therm.lt94 < 101 ∧ s.therm.lt99 < 101))) ∧
    (∃ (s : State), onF s SYS_THERM_COVER = false ∧ RoomFor s 0) :=
  ⟨⟨false, st [(SYS_PWRSTAT_WAKE1, 1)], by decide +kernel⟩,
   ⟨true, { (st [(SYS_PWRSTAT_OFFPEND, 1)]) with pwr := { phase := 2 } }, by decide +kernel⟩,
   ⟨true, { (st []) with pwr := { phase := 0 } }, by decide +kernel⟩,
   ⟨true, State.reset, by decide +kernel⟩,
   ⟨false, { (st [(SYS_PWRSTAT_WAKE1, 1)]) with pwr := { phase := 2 } }, by decide +kernel⟩,
   ⟨false, { (st [(SYS_PWRSTAT_WAKE1, 1), (SYS_PWRSTAT_WAKE2, 1)]) with pwr := { phase := 2 } }, by decide +kernel⟩,
   ⟨{ (st [(SYS_PWRSTAT_WAKE1, 1)]) with pwr := { phase := 0, marker := 2 } }, by decide +kernel⟩,
   ⟨State.reset, by decide +kernel⟩,
   ⟨st [(SYS_PWRSTAT_WAKE1, 1), (MER_PCC_COUNT, 5)], by decide +kernel⟩,
   ⟨true, st [(SYS_PWRSTAT_WAKE1, 0), (SYS_PWRSTAT_WAKE2, 0), (MER_PCC_COUNT, 0xFFFF)], by decide +kernel⟩,
   ⟨true, { (st []) with pwr := { phase := 2 } }, by decide +kernel⟩,
   ⟨4, true, { (writeMem (st [(SYS_BOOT_STAGE, 2)]) 0 0x1000 (List.replicate 32 7)) with pwr := { phase := 2 } }, by decide +kernel⟩,
   ⟨0, true, { (st [(SYS_BOOT_STAGE, 1)]) with pwr := { phase := 2 } }, by decide +kernel⟩,
   ⟨0, true, { (st [(SYS_BOOT_STAGE, 5)]) with pwr := { phase := 2 } }, by decide +kernel⟩,
   ⟨0, true, State.reset, by decide +kernel⟩,
   ⟨{ State.reset with therm := { ge97 := 11 } }, by decide +kernel⟩,
   ⟨{ State.reset with therm := { ge112 := 11 } }, by decide +kernel⟩,
   ⟨State.reset, by decide +kernel⟩,
   ⟨State.reset, by decide +kernel⟩⟩

theorem witness_power_fail_and_shutdown :
    (∃ (s : State), s.pwr.phase = 2 ∧ onF s SYS_PWRSTAT_INTR = false) ∧
    (∃ (s : State), (s.pwr.phase ≠ 2 ∨ onF s SYS_PWRSTAT_INTR = true)) ∧
    (∃ (b : Bool) (s : State), s.pwr.phase = 2 ∧ s.pwr.seq = 0 ∧ onF s SYS_PWRSTAT_INTR = true ∧ (b = true ∨ s.pwr.intrAt + 10000000 ≤ freeCnt s)) ∧
    (∃ (b : Bool) (s : State), (s.pwr.phase ≠ 2 ∨ s.pwr.seq ≠ 0 ∨ onF s SYS_PWRSTAT_INTR = false ∨ (b = false ∧ freeCnt s < s.pwr.intrAt + 10000000))) ∧
    (∃ (s : State), s.pwr.seq ≠ 0) ∧
    (∃ (s : State), s.pwr.seq ≠ 0) ∧
    (∃ (b : Bool) (s : State), s.pwr.seq = 0) ∧
    (∃ (m : BitVec 16) (s : State), 2000 ≤ m.toNat) ∧
    (∃ (m : BitVec 16) (s : State), m.toNat < 2000 ∧ RoomFor s 0) ∧
    (∃ (s : State), s.pwr.phase = 2 ∧ s.pwr.seq = 0 ∧ onF s SYS_PWRSTAT_OFFPEND = true ∧ s.pwr.offAt + offDelay s * 1000000000 ≤ freeCnt s) ∧
    (∃ (s : State), (s.pwr.phase ≠ 2 ∨ s.pwr.seq ≠ 0 ∨ onF s SYS_PWRSTAT_OFFPEND = false ∨ freeCnt s < s.pwr.offAt + offDelay s * 1000000000)) ∧
    (∃ (r : Req) (s : State), isTriadOrMach r = true ∧ s.pwr.phase = 2 ∧ s.pwr.seq = 0) ∧
    (∃ (r : Req) (k : BitVec 16) (s : State), (isTriadOrMach r = false ∨ k ≠ 0x5A3C ∨ s.pwr.seq ≠ 0)) ∧
    (∃ (r : Req) (s : State), isTriadOrMach r = true ∧ s.pwr.seq = 0) ∧
    (∃ (r : Req) (k : BitVec 16) (s : State), (isTriadOrMach r = false ∨ k ≠ 0xA5C3 ∨ s.pwr.seq ≠ 0)) :=
  ⟨⟨{ (st []) with pwr := { phase := 2 } }, by decide +kernel⟩,
   ⟨State.reset, by decide +kernel⟩,
   ⟨false, { (st [(SYS_PWRSTAT_INTR, 1), (MER_FREECNT_COUNT, 20000000)]) with pwr := { phase := 2 } }, by decide +kernel⟩,
   ⟨true, State.reset, by decide +kernel⟩,
   ⟨{ (writeMem (st [(LOG_STAT_FLUSHING, 1), (MER_PCC_COUNT, 5)]) 0 0x1000 (List.replicate 32 7)) with pwr := { phase := 2, seq := 2 } }, by decide +kernel⟩,
   ⟨{ (st []) with pwr := { phase := 2, seq := 1, marker := 4 } }, by decide +kernel⟩,
   ⟨true, State.reset, by decide +kernel⟩,
   ⟨2500, State.reset, by decide +kernel⟩,
   ⟨1999, State.reset, by decide +kernel⟩,
   ⟨{ (st [(SYS_PWRSTAT_OFFPEND, 1), (MER_FREECNT_COUNT, 4000000000000)]) with pwr := { phase := 2 } }, by decide +kernel⟩,
   ⟨State.reset, by decide +kernel⟩,
   ⟨.triad 1, { (st []) with pwr := { phase := 2 } }, by decide +kernel⟩,
   ⟨.debugger, 0x5A3C, State.reset, by decide +kernel⟩,
   ⟨.triad 1, { (st [(SYS_MSTAT_MSAFE, 1)]) with qops := [{ q := 0x900, idx := 0, n := 1, opc := 1, started := false, epoch := 1 }], triads := [{ started := true, image := true }, {}, {}, {}], degraded := [3] }, by decide +kernel⟩,
   ⟨.debugger, 0xA5C3, State.reset, by decide +kernel⟩⟩

theorem witness_update_queues :
    (∃ (q : Fin 5) (o : QOp) (c : Bool) (s : State), currentOpc s (0xF00 + q) 1 = some o ∧ o.started = false ∧ o.epoch ≠ getF s (QEPOCH_EPOCH (0xF00 + q))) ∧
    (∃ (q : Fin 5) (c : Bool) (s : State), currentOpc s (0xF00 + q) 1 = none) ∧
    (∃ (q : Fin 5) (o : QOp) (c : Bool) (s : State), currentOpc s (0xF00 + q) 1 = some o ∧ (o.started = true ∨ o.epoch = getF s (QEPOCH_EPOCH (0xF00 + q))) ∧ o.n = 1 ∧ leAt (opDesc s o) 8 8 % 32 ≠ 0) ∧
    (∃ (q : Fin 5) (o : QOp) (c : Bool) (s : State), currentOpc s (0xF00 + q) 1 = some o ∧ (o.started = true ∨ o.epoch = getF s (QEPOCH_EPOCH (0xF00 + q))) ∧ o.n = 1 ∧ leAt (opDesc s o) 8 8 % 32 = 0 ∧ dramSpan (leAt (opDesc s o) 8 8) (leAt (opDesc s o) 4 4) = false) ∧
    (∃ (q : Fin 5) (o : QOp) (c : Bool) (p : List Byte) (k : List Byte) (u : Nat) (s : State), currentOpc s (0xF00 + q) 1 = some o ∧ (o.started = true ∨ o.epoch = getF s (QEPOCH_EPOCH (0xF00 + q))) ∧ o.n = 1 ∧ leAt (opDesc s o) 8 8 % 32 = 0 ∧ dramSpan (leAt (opDesc s o) 8 8) (leAt (opDesc s o) 4 4) = true ∧ engineMay s (0xF00 + q) (leAt (opDesc s o) 8 8) (leAt (opDesc s o) 4 4) false = true ∧ readMem s (leAt (opDesc s o) 8 8) (leAt (opDesc s o) 4 4) = some p ∧ unitOf (p.take 128) = some u ∧ u ≠ 5 ∧ u ≠ 6 ∧ u ≠ 7 ∧ (stageChecks (touch s updReq (leAt (opDesc s o) 8 8) (leAt (opDesc s o) 4 4)) (queueMay q u) c u (leAt (opDesc s o) 4 4) (p.take 128)).toOption = some k ∧ digestOk p = true ∧ sigOk k p = true) ∧
    (∃ (q : Fin 5) (o : QOp) (c : Bool) (p : List Byte) (k : List Byte) (u : Nat) (s : State), currentOpc s (0xF00 + q) 1 = some o ∧ (o.started = true ∨ o.epoch = getF s (QEPOCH_EPOCH (0xF00 + q))) ∧ o.n = 1 ∧ leAt (opDesc s o) 8 8 % 32 = 0 ∧ dramSpan (leAt (opDesc s o) 8 8) (leAt (opDesc s o) 4 4) = true ∧ engineMay s (0xF00 + q) (leAt (opDesc s o) 8 8) (leAt (opDesc s o) 4 4) false = true ∧ readMem s (leAt (opDesc s o) 8 8) (leAt (opDesc s o) 4 4) = some p ∧ unitOf (p.take 128) = some u ∧ (stageChecks (touch s updReq (leAt (opDesc s o) 8 8) (leAt (opDesc s o) 4 4)) (queueMay q u) c u (leAt (opDesc s o) 4 4) (p.take 128)).toOption = some k ∧ digestOk p = false) ∧
    (∃ (q : Fin 5) (s : State), currentOpc s (0xF00 + q) 2 = none) ∧
    (∃ (q : Fin 5) (o : QOp) (s : State), currentOpc s (0xF00 + q) 2 = some o ∧ (o.started = true ∨ o.epoch = getF s (QEPOCH_EPOCH (0xF00 + q))) ∧ o.n = 1 ∧ queueMay q (dByte (opDesc s o) 8) = false) ∧
    (∃ (q : Fin 5) (o : QOp) (e : Nat) (s : State), currentOpc s (0xF00 + q) 2 = some o ∧ (o.started = true ∨ o.epoch = getF s (QEPOCH_EPOCH (0xF00 + q))) ∧ o.n = 1 ∧ queueMay q (dByte (opDesc s o) 8) = true ∧ (armRefused s (dByte (opDesc s o) 8) false (if bit (dByte (opDesc s o) 9) 0 then 1 else if bit (dByte (opDesc s o) 9) 1 then 2 else 0) (tsNs (leAt (opDesc s o) 12 12)) = some e)) ∧
    (∃ (q : Fin 5) (o : QOp) (s : State), currentOpc s (0xF00 + q) 2 = some o ∧ (o.started = true ∨ o.epoch = getF s (QEPOCH_EPOCH (0xF00 + q))) ∧ o.n = 1 ∧ queueMay q (dByte (opDesc s o) 8) = true ∧ (armRefused s (dByte (opDesc s o) 8) false (if bit (dByte (opDesc s o) 9) 0 then 1 else if bit (dByte (opDesc s o) 9) 1 then 2 else 0) (tsNs (leAt (opDesc s o) 12 12)) = none)) ∧
    (∃ (q : Fin 5) (s : State), currentOpc s (0xF00 + q) 4 = none) ∧
    (∃ (q : Fin 5) (o : QOp) (s : State), currentOpc s (0xF00 + q) 4 = some o ∧ (o.started = true ∨ o.epoch = getF s (QEPOCH_EPOCH (0xF00 + q))) ∧ o.n = 1 ∧ queueMay q (dByte (opDesc s o) 8) = false) ∧
    (∃ (q : Fin 5) (o : QOp) (e : Nat) (s : State), currentOpc s (0xF00 + q) 4 = some o ∧ (o.started = true ∨ o.epoch = getF s (QEPOCH_EPOCH (0xF00 + q))) ∧ o.n = 1 ∧ queueMay q (dByte (opDesc s o) 8) = true ∧ (armRefused s (dByte (opDesc s o) 8) true (if bit (dByte (opDesc s o) 9) 0 then 1 else if bit (dByte (opDesc s o) 9) 1 then 2 else 0) (tsNs (leAt (opDesc s o) 12 12)) = some e)) ∧
    (∃ (q : Fin 5) (o : QOp) (s : State), currentOpc s (0xF00 + q) 4 = some o ∧ (o.started = true ∨ o.epoch = getF s (QEPOCH_EPOCH (0xF00 + q))) ∧ o.n = 1 ∧ queueMay q (dByte (opDesc s o) 8) = true ∧ (armRefused s (dByte (opDesc s o) 8) true (if bit (dByte (opDesc s o) 9) 0 then 1 else if bit (dByte (opDesc s o) 9) 1 then 2 else 0) (tsNs (leAt (opDesc s o) 12 12)) = none)) ∧
    (∃ (q : Fin 5) (c : Bool) (s : State), currentOpc s (0xF00 + q) 3 = none) ∧
    (∃ (q : Fin 5) (o : QOp) (s : State), currentOpc s (0xF00 + q) 3 = some o ∧ (o.started = true ∨ o.epoch = getF s (QEPOCH_EPOCH (0xF00 + q))) ∧ o.n = 1 ∧ queueMay q (dByte (opDesc s o) 8) = true ∧ leAt (opDesc s o) 12 4 = actVer s (dByte (opDesc s o) 8) ∧ actVer s (dByte (opDesc s o) 8) ≠ 0 ∧ confirmed s (dByte (opDesc s o) 8) = false) ∧
    (∃ (q : Fin 5) (o : QOp) (c : Bool) (s : State), currentOpc s (0xF00 + q) 3 = some o ∧ (o.started = true ∨ o.epoch = getF s (QEPOCH_EPOCH (0xF00 + q))) ∧ o.n = 1 ∧ queueMay q (dByte (opDesc s o) 8) = true ∧ (leAt (opDesc s o) 12 4 ≠ actVer s (dByte (opDesc s o) 8) ∨ confirmed s (dByte (opDesc s o) 8) = true ∨ actVer s (dByte (opDesc s o) 8) = 0)) ∧
    (∃ (q : Fin 5) (s : State), currentOpc s (0xF00 + q) 5 = none) ∧
    (∃ (q : Fin 5) (o : QOp) (s : State), currentOpc s (0xF00 + q) 5 = some o ∧ (o.started = true ∨ o.epoch = getF s (QEPOCH_EPOCH (0xF00 + q))) ∧ o.n = 1 ∧ queueMay q (dByte (opDesc s o) 8) = true ∧ ((pendOf s (dByte (opDesc s o) 8)).all (fun a => a.captured || (a.due && decide (8 ≤ dByte (opDesc s o) 8) && decide (dByte (opDesc s o) 8 < 16))) = false)) ∧
    (∃ (q : Fin 5) (o : QOp) (s : State), currentOpc s (0xF00 + q) 5 = some o ∧ (o.started = true ∨ o.epoch = getF s (QEPOCH_EPOCH (0xF00 + q))) ∧ o.n = 1 ∧ queueMay q (dByte (opDesc s o) 8) = true ∧ ((pendOf s (dByte (opDesc s o) 8)).all (fun a => a.captured || (a.due && decide (8 ≤ dByte (opDesc s o) 8) && decide (dByte (opDesc s o) 8 < 16))) = true)) ∧
    (∃ (q : Fin 5) (s : State), currentOpc s (0xF00 + q) 6 = none) ∧
    (∃ (q : Fin 5) (o : QOp) (s : State), currentOpc s (0xF00 + q) 6 = some o ∧ (o.started = true ∨ o.epoch = getF s (QEPOCH_EPOCH (0xF00 + q))) ∧ o.n = 1 ∧ leAt (opDesc s o) 4 4 ≠ 0x50494C54) ∧
    (∃ (q : Fin 5) (o : QOp) (s : State), currentOpc s (0xF00 + q) 6 = some o ∧ (o.started = true ∨ o.epoch = getF s (QEPOCH_EPOCH (0xF00 + q))) ∧ o.n = 1 ∧ leAt (opDesc s o) 4 4 = 0x50494C54 ∧ s.pwr.seq = 0) :=
  ⟨⟨3, { q := 0xF03, idx := 0, n := 1, opc := 1, started := false, epoch := 9 }, true, { (writeMem (st [(QBASE_BASE 0xF03, 0x1000), (QSIZE_ENTRIES 0xF03, 16), (QCTRL_EN 0xF03, 1)]) 0 0x1000 ([1, 0x80, 0, 0] ++ toLE 4 256 ++ toLE 8 0x2001 ++ List.replicate 16 0)) with qops := [{ q := 0xF03, idx := 0, n := 1, opc := 1, started := false, epoch := 9 }] }, by decide +kernel⟩,
   ⟨3, true, State.reset, by decide +kernel⟩,
   ⟨3, { q := 0xF03, idx := 0, n := 1, opc := 1, started := true }, true, { (writeMem (st [(QBASE_BASE 0xF03, 0x1000), (QSIZE_ENTRIES 0xF03, 16), (QCTRL_EN 0xF03, 1)]) 0 0x1000 ([1, 0x80, 0, 0] ++ toLE 4 256 ++ toLE 8 0x2001 ++ List.replicate 16 0)) with qops := [{ q := 0xF03, idx := 0, n := 1, opc := 1, started := true }] }, by decide +kernel⟩,
   ⟨3, { q := 0xF03, idx := 0, n := 1, opc := 1, started := true }, true, { (writeMem (st [(QBASE_BASE 0xF03, 0x1000), (QSIZE_ENTRIES 0xF03, 16), (QCTRL_EN 0xF03, 1)]) 0 0x1000 ([1, 0x80, 0, 0] ++ toLE 4 256 ++ toLE 8 0x9000000000 ++ List.replicate 16 0)) with qops := [{ q := 0xF03, idx := 0, n := 1, opc := 1, started := true }] }, by decide +kernel⟩,
   ⟨3, { q := 0xF03, idx := 0, n := 1, opc := 1, started := true }, true, demoPackage, ((demoKeys.drop 4).take 97), 8, { (writeMem (writeMem (st [(QBASE_BASE 0xF03, 0x1000), (QSIZE_ENTRIES 0xF03, 16), (QCTRL_EN 0xF03, 1)]) 0 0x1000 ([1, 0x80, 0, 0] ++ toLE 4 256 ++ toLE 8 0x2000 ++ List.replicate 16 0)) 0 0x2000 demoPackage) with qops := [{ q := 0xF03, idx := 0, n := 1, opc := 1, started := true }], upd := { keys := demoKeys } }, by decide +kernel⟩,
   ⟨3, { q := 0xF03, idx := 0, n := 1, opc := 1, started := true }, true, (demoPackage.take 128 ++ [1] ++ demoPackage.drop 129), ((demoKeys.drop 4).take 97), 8, { (writeMem (writeMem (st [(QBASE_BASE 0xF03, 0x1000), (QSIZE_ENTRIES 0xF03, 16), (QCTRL_EN 0xF03, 1)]) 0 0x1000 ([1, 0x80, 0, 0] ++ toLE 4 256 ++ toLE 8 0x2000 ++ List.replicate 16 0)) 0 0x2000 (demoPackage.take 128 ++ [1] ++ demoPackage.drop 129)) with qops := [{ q := 0xF03, idx := 0, n := 1, opc := 1, started := true }], upd := { keys := demoKeys } }, by decide +kernel⟩,
   ⟨3, State.reset, by decide +kernel⟩,
   ⟨3, { q := 0xF03, idx := 0, n := 1, opc := 2, started := true }, { (writeMem (st [(QBASE_BASE 0xF03, 0x1000), (QSIZE_ENTRIES 0xF03, 16), (QCTRL_EN 0xF03, 1)]) 0 0x1000 ([2, 0x80, 0, 0] ++ toLE 4 0 ++ [1] ++ List.replicate 23 0)) with qops := [{ q := 0xF03, idx := 0, n := 1, opc := 2, started := true }] }, by decide +kernel⟩,
   ⟨3, { q := 0xF03, idx := 0, n := 1, opc := 2, started := true }, upNOSTAGED, { (writeMem (st [(QBASE_BASE 0xF03, 0x1000), (QSIZE_ENTRIES 0xF03, 16), (QCTRL_EN 0xF03, 1)]) 0 0x1000 ([2, 0x80, 0, 0] ++ toLE 4 0 ++ [8, 2] ++ List.replicate 22 0)) with qops := [{ q := 0xF03, idx := 0, n := 1, opc := 2, started := true }] }, by decide +kernel⟩,
   ⟨3, { q := 0xF03, idx := 0, n := 1, opc := 2, started := true }, { (writeMem (st [(QBASE_BASE 0xF03, 0x1000), (QSIZE_ENTRIES 0xF03, 16), (QCTRL_EN 0xF03, 1), (UPD_UNIT_1_OTHSTATE 8, 1)]) 0 0x1000 ([2, 0x80, 0, 0] ++ toLE 4 0 ++ [8, 2] ++ List.replicate 22 0)) with qops := [{ q := 0xF03, idx := 0, n := 1, opc := 2, started := true }] }, by decide +kernel⟩,
   ⟨3, State.reset, by decide +kernel⟩,
   ⟨3, { q := 0xF03, idx := 0, n := 1, opc := 4, started := true }, { (writeMem (st [(QBASE_BASE 0xF03, 0x1000), (QSIZE_ENTRIES 0xF03, 16), (QCTRL_EN 0xF03, 1)]) 0 0x1000 ([4, 0x80, 0, 0] ++ toLE 4 0 ++ [1] ++ List.replicate 23 0)) with qops := [{ q := 0xF03, idx := 0, n := 1, opc := 4, started := true }] }, by decide +kernel⟩,
   ⟨3, { q := 0xF03, idx := 0, n := 1, opc := 4, started := true }, upNOPREV, { (writeMem (st [(QBASE_BASE 0xF03, 0x1000), (QSIZE_ENTRIES 0xF03, 16), (QCTRL_EN 0xF03, 1)]) 0 0x1000 ([4, 0x80, 0, 0] ++ toLE 4 0 ++ [8, 2] ++ List.replicate 22 0)) with qops := [{ q := 0xF03, idx := 0, n := 1, opc := 4, started := true }] }, by decide +kernel⟩,
   ⟨3, { q := 0xF03, idx := 0, n := 1, opc := 4, started := true }, { (writeMem (st [(QBASE_BASE 0xF03, 0x1000), (QSIZE_ENTRIES 0xF03, 16), (QCTRL_EN 0xF03, 1), (UPD_UNIT_1_OTHSTATE 8, 2), (UPD_UNIT_1_CONF 8, 0)]) 0 0x1000 ([4, 0x80, 0, 0] ++ toLE 4 0 ++ [8, 2] ++ List.replicate 22 0)) with qops := [{ q := 0xF03, idx := 0, n := 1, opc := 4, started := true }] }, by decide +kernel⟩,
   ⟨3, true, State.reset, by decide +kernel⟩,
   ⟨3, { q := 0xF03, idx := 0, n := 1, opc := 3, started := true }, { (writeMem (st [(QBASE_BASE 0xF03, 0x1000), (QSIZE_ENTRIES 0xF03, 16), (QCTRL_EN 0xF03, 1), (UPD_UNIT_0_ACTVER 8, 7), (UPD_UNIT_1_OTHSTATE 8, 2), (UPD_UNIT_1_CONF 8, 0)]) 0 0x1000 ([3, 0x80, 0, 0] ++ toLE 4 0 ++ [8, 0, 0, 0, 7] ++ List.replicate 19 0)) with qops := [{ q := 0xF03, idx := 0, n := 1, opc := 3, started := true }] }, by decide +kernel⟩,
   ⟨3, { q := 0xF03, idx := 0, n := 1, opc := 3, started := true }, true, { (writeMem (st [(QBASE_BASE 0xF03, 0x1000), (QSIZE_ENTRIES 0xF03, 16), (QCTRL_EN 0xF03, 1), (UPD_UNIT_0_ACTVER 8, 7)]) 0 0x1000 ([3, 0x80, 0, 0] ++ toLE 4 0 ++ [8, 0, 0, 0, 9] ++ List.replicate 19 0)) with qops := [{ q := 0xF03, idx := 0, n := 1, opc := 3, started := true }] }, by decide +kernel⟩,
   ⟨3, State.reset, by decide +kernel⟩,
   ⟨3, { q := 0xF03, idx := 0, n := 1, opc := 5, started := true }, { (writeMem (st [(QBASE_BASE 0xF03, 0x1000), (QSIZE_ENTRIES 0xF03, 16), (QCTRL_EN 0xF03, 1), (UPD_UNIT_1_PEND 8, 1)]) 0 0x1000 ([5, 0x80, 0, 0] ++ toLE 4 0 ++ [8] ++ List.replicate 23 0)) with qops := [{ q := 0xF03, idx := 0, n := 1, opc := 5, started := true }], upd := { pend := [(8, some { fall := false, mode := 0, wp := 5, cyc := 0 })] } }, by decide +kernel⟩,
   ⟨3, { q := 0xF03, idx := 0, n := 1, opc := 5, started := true }, { (writeMem (st [(QBASE_BASE 0xF03, 0x1000), (QSIZE_ENTRIES 0xF03, 16), (QCTRL_EN 0xF03, 1)]) 0 0x1000 ([5, 0x80, 0, 0] ++ toLE 4 0 ++ [8] ++ List.replicate 23 0)) with qops := [{ q := 0xF03, idx := 0, n := 1, opc := 5, started := true }] }, by decide +kernel⟩,
   ⟨3, State.reset, by decide +kernel⟩,
   ⟨3, { q := 0xF03, idx := 0, n := 1, opc := 6, started := true }, { (writeMem (st [(QBASE_BASE 0xF03, 0x1000), (QSIZE_ENTRIES 0xF03, 16), (QCTRL_EN 0xF03, 1)]) 0 0x1000 ([6, 0x80, 0, 0] ++ toLE 4 0 ++ List.replicate 24 0)) with qops := [{ q := 0xF03, idx := 0, n := 1, opc := 6, started := true }] }, by decide +kernel⟩,
   ⟨3, { q := 0xF03, idx := 0, n := 1, opc := 6, started := true }, { (writeMem (st [(QBASE_BASE 0xF03, 0x1000), (QSIZE_ENTRIES 0xF03, 16), (QCTRL_EN 0xF03, 1)]) 0 0x1000 ([6, 0x80, 0, 0] ++ toLE 4 0x50494C54 ++ List.replicate 24 0)) with qops := [{ q := 0xF03, idx := 0, n := 1, opc := 6, started := true }] }, by decide +kernel⟩⟩

theorem witness_update_switches :
    (∃ (s : State), s.upd.pend = []) ∧
    (∃ (u : Nat) (a : PendAct) (s : State), s.upd.pend = [(u, some a)] ∧ (u = 0 ∨ (5 ≤ u ∧ u < 8) ∨ (16 ≤ u ∧ u < 25)) ∧ a.mode = 0 ∧ a.due = false ∧ a.wp ≤ nowNs s ∧ (getF s MER_STAT_STATE = 1 ∨ getF s MER_STAT_STATE = 2)) ∧
    (∃ (u : Nat) (a : PendAct) (s : State), s.upd.pend = [(u, some a)] ∧ 8 ≤ u ∧ u < 16 ∧ s.anl.length = 8 ∧ a.mode = 0 ∧ a.due = false ∧ a.wp ≤ nowNs s ∧ (getF s MER_STAT_STATE = 1 ∨ getF s MER_STAT_STATE = 2)) ∧
    (∃ (u : Nat) (a : PendAct) (s : State), s.upd.pend = [(u, some a)] ∧ u < 25 ∧ a.mode = 0 ∧ a.due = false ∧ a.wp ≤ nowNs s ∧ getF s MER_STAT_STATE ≠ 1 ∧ getF s MER_STAT_STATE ≠ 2) ∧
    (∃ (n : Fin 4) (s : State), pendOf s (1 + n) = none) ∧
    (∃ (n : Fin 4) (a : PendAct) (p : List Byte) (s : State), pendOf s (1 + n) = some a ∧ a.mode = 1 ∧ a.asked = false ∧ pkAt s (1 + n) (1 - actSlot s (1 + n)) = some p ∧ digestOk p = true) ∧
    (∃ (n : Fin 4) (a : PendAct) (s : State), pendOf s (1 + n) = some a ∧ a.mode = 1 ∧ a.asked = false ∧ pkAt s (1 + n) (1 - actSlot s (1 + n)) = none) ∧
    (∃ (n : Fin 4) (s : State), pendOf s (1 + n) = none) ∧
    (∃ (n : Fin 4) (a : PendAct) (s : State), pendOf s (1 + n) = some a ∧ a.due = true ∧ a.mode = 1 ∧ (tState s n = tsOFF ∨ tState s n = tsHALTED)) ∧
    (∃ (n : Fin 4) (a : PendAct) (s : State), pendOf s (1 + n) = some a ∧ switchCome a s = true ∧ (tState s n = tsTMR ∨ tState s n = tsDUPLEX) ∧ onF s (UPD_HO_1_READY n) = true ∧ a.captured = false) ∧
    (∃ (n : Fin 4) (a : PendAct) (k : Nat) (s : State), pendOf s (1 + n) = some a ∧ switchCome a s = true ∧ (tState s n = tsTMR ∨ tState s n = tsDUPLEX) ∧ onF s (UPD_HO_1_READY n) = true ∧ a.captured = true ∧ firstEvent (triad s n).events = some (k, .boundary) ∧ (triad s n).vreq = [] ∧ s.triads.length = 4) ∧
    (∃ (n : Fin 4) (a : PendAct) (s : State), pendOf s (1 + n) = some a ∧ switchCome a s = true ∧ (tState s n = tsTMR ∨ tState s n = tsDUPLEX) ∧ onF s (UPD_HO_1_READY n) = false) ∧
    (∃ (n : Fin 8) (b : Bool) (s : State), pendOf s (8 + n) = none) ∧
    (∃ (n : Fin 8) (a : PendAct) (s : State), pendOf s (8 + n) = some a ∧ a.due = true) ∧
    (∃ (n : Fin 8) (a : PendAct) (s : State), pendOf s (8 + n) = some a ∧ a.due = true) ∧
    (∃ (n : Fin 8) (a : PendAct) (s : State), pendOf s (8 + n) = some a ∧ a.due = true ∧ a.at' + 50000000 ≤ freeCnt s) ∧
    (∃ (n : Fin 8) (a : PendAct) (s : State), pendOf s (8 + n) = some a ∧ (a.due = false ∨ freeCnt s < a.at' + 50000000)) ∧
    (∃ (n : Fin 8) (s : State), pendOf s (8 + n) = none) ∧
    (∃ (r : Req) (b : BitVec 40) (s : State), s.upd.mapsUsed = false) ∧
    (∃ (r : Req) (b : BitVec 40) (s : State), s.upd.mapsUsed = true) ∧
    (∃ (s : State), s.upd.bgAt + 86400000000000 ≤ freeCnt s) ∧
    (∃ (s : State), freeCnt s < s.upd.bgAt + 86400000000000) ∧
    (∃ (s : State), s.upd.want = true) ∧
    (∃ (s : State), s.upd.want = false) ∧
    (∃ (p : List Byte) (c : Bool) (s : State), onF s UPD_STAT_PILOT = true ∧ p.length ≤ 0x10000000 + 224 ∧ ((stagePackage (fun _ : Nat => true) c p.length p s).status = stOK) ∧ ((arm (stagePackage (fun _ : Nat => true) c p.length p s).unit false 2 0 (stagePackage (fun _ : Nat => true) c p.length p s).st).2 = stOK)) ∧
    (∃ (p : List Byte) (c : Bool) (s : State), onF s UPD_STAT_PILOT = true ∧ unitOf (p.take 128) = none) ∧
    (∃ (p : List Byte) (c : Bool) (s : State), onF s UPD_STAT_PILOT = false) ∧
    (∃ (u : Fin 25) (s : State), onF s UPD_STAT_PILOT = true ∧ armRefused s u true 2 0 = none) ∧
    (∃ (u : Fin 25) (s : State), onF s UPD_STAT_PILOT = false) ∧
    (∃ (s : State), onF s UPD_STAT_PILOT = true ∧ s.pwr.seq = 0) ∧
    (∃ (s : State), (onF s UPD_STAT_PILOT = false ∨ s.pwr.seq ≠ 0)) ∧
    (∃ (s : State), onF s UPD_STAT_PILOT = true) ∧
    (∃ (s : State), onF s UPD_STAT_PILOT = false) ∧
    (∃ (s : State), s.pwr.seq = 0) ∧
    (∃ (s : State), s.pwr.seq = 0) ∧
    (∃ (c : Cert) (p : Bool) (s : State), c ≠ .depot) :=
  ⟨⟨State.reset, by decide +kernel⟩,
   ⟨24, { fall := false, mode := 0, wp := 5, cyc := 0 }, { (st [(MER_STAT_STATE, 1), (UPD_UNIT_1_OTHVER 24, 7)]) with upd := { pend := [(24, some { fall := false, mode := 0, wp := 5, cyc := 0 })] }, mer := { t := 2 ^ 60 } }, by decide +kernel⟩,
   ⟨9, { fall := false, mode := 0, wp := 5, cyc := 0 }, { (st [(MER_STAT_STATE, 1)]) with upd := { pend := [(9, some { fall := false, mode := 0, wp := 5, cyc := 0 })] }, mer := { t := 2 ^ 60 } }, by decide +kernel⟩,
   ⟨9, { fall := false, mode := 0, wp := 5, cyc := 0 }, { (st [(MER_STAT_STATE, 0)]) with upd := { pend := [(9, some { fall := false, mode := 0, wp := 5, cyc := 0 })] }, mer := { t := 2 ^ 60 } }, by decide +kernel⟩,
   ⟨2, State.reset, by decide +kernel⟩,
   ⟨2, { fall := false, mode := 1, wp := 5, cyc := 0 }, demoPackage, (writeMem { (st []) with upd := { pend := [(3, some { fall := false, mode := 1, wp := 5, cyc := 0 })] } } 0 (unitBase 3 1) demoPackage), by decide +kernel⟩,
   ⟨2, { fall := false, mode := 1, wp := 5, cyc := 0 }, (writeMem { (st []) with upd := { pend := [(3, some { fall := false, mode := 1, wp := 5, cyc := 0 })] } } 0 (unitBase 3 1) (List.replicate 32 255)), by decide +kernel⟩,
   ⟨2, State.reset, by decide +kernel⟩,
   ⟨2, { fall := false, mode := 1, wp := 5, cyc := 0, due := true }, { (st [(VTC_TSTAT_STATE 2, 0)]) with upd := { pend := [(3, some { fall := false, mode := 1, wp := 5, cyc := 0, due := true })] } }, by decide +kernel⟩,
   ⟨2, { fall := false, mode := 1, wp := 5, cyc := 0, due := true }, { (st [(VTC_TSTAT_STATE 2, 2), (UPD_HO_1_READY 2, 1)]) with upd := { pend := [(3, some { fall := false, mode := 1, wp := 5, cyc := 0, due := true })] } }, by decide +kernel⟩,
   ⟨2, { fall := false, mode := 1, wp := 5, cyc := 0, due := true, captured := true }, 4, { { (st [(VTC_TSTAT_STATE 2, 2), (UPD_HO_1_READY 2, 1)]) with upd := { pend := [(3, some { fall := false, mode := 1, wp := 5, cyc := 0, due := true, captured := true })] } } with triads := [{}, {}, { events := [(4, .boundary)] }, {}] }, by decide +kernel⟩,
   ⟨2, { fall := false, mode := 1, wp := 5, cyc := 0, due := true }, { (st [(VTC_TSTAT_STATE 2, 2)]) with upd := { pend := [(3, some { fall := false, mode := 1, wp := 5, cyc := 0, due := true })] } }, by decide +kernel⟩,
   ⟨2, true, State.reset, by decide +kernel⟩,
   ⟨2, { fall := false, mode := 0, wp := 5, cyc := 0, due := true }, { (st []) with upd := { pend := [(10, some { fall := false, mode := 0, wp := 5, cyc := 0, due := true })] } }, by decide +kernel⟩,
   ⟨2, { fall := false, mode := 0, wp := 5, cyc := 0, due := true }, { (st [(UPD_UNIT_1_OTHVER 10, 7)]) with upd := { pend := [(10, some { fall := false, mode := 0, wp := 5, cyc := 0, due := true })] } }, by decide +kernel⟩,
   ⟨2, { fall := false, mode := 0, wp := 5, cyc := 0, due := true }, { (st [(MER_FREECNT_COUNT, 50000000)]) with upd := { pend := [(10, some { fall := false, mode := 0, wp := 5, cyc := 0, due := true })] } }, by decide +kernel⟩,
   ⟨2, { fall := false, mode := 0, wp := 5, cyc := 0, due := true }, { (st [(MER_FREECNT_COUNT, 49999999)]) with upd := { pend := [(10, some { fall := false, mode := 0, wp := 5, cyc := 0, due := true })] } }, by decide +kernel⟩,
   ⟨2, State.reset, by decide +kernel⟩,
   ⟨.debugger, 0x4000000, State.reset, by decide +kernel⟩,
   ⟨.debugger, 0x4000000, { (st []) with upd := { mapsUsed := true } }, by decide +kernel⟩,
   ⟨st [(MER_FREECNT_COUNT, 90000000000000)], by decide +kernel⟩,
   ⟨State.reset, by decide +kernel⟩,
   ⟨{ (st [(FIO_CTRL_EN, 1)]) with upd := { want := true } }, by decide +kernel⟩,
   ⟨State.reset, by decide +kernel⟩,
   ⟨demoPackage, true, { (st [(UPD_STAT_PILOT, 1)]) with upd := { keys := demoKeys } }, by decide +kernel⟩,
   ⟨[1, 2, 3], true, st [(UPD_STAT_PILOT, 1)], by decide +kernel⟩,
   ⟨[1, 2, 3], true, State.reset, by decide +kernel⟩,
   ⟨8, st [(UPD_STAT_PILOT, 1), (UPD_UNIT_1_OTHSTATE 8, 2), (UPD_UNIT_1_CONF 8, 0)], by decide +kernel⟩,
   ⟨8, State.reset, by decide +kernel⟩,
   ⟨st [(UPD_STAT_PILOT, 1), (SYS_BOOT_STAGE, 8)], by decide +kernel⟩,
   ⟨State.reset, by decide +kernel⟩,
   ⟨st [(UPD_STAT_PILOT, 1)], by decide +kernel⟩,
   ⟨State.reset, by decide +kernel⟩,
   ⟨State.reset, by decide +kernel⟩,
   ⟨State.reset, by decide +kernel⟩,
   ⟨.neither, true, State.reset, by decide +kernel⟩⟩

theorem witness_unlisted_offsets :
    (∃ (r : Req) (a : Nat) (size : Nat) (s : State), Unlisted s a ∧ islandAnswers s (blkIsland (blkOf a)) = true ∧ (size = 4 ∨ size = 8) ∧ a % size = 0) ∧
    (∃ (r : Req) (a : Nat) (size : Nat) (val : Word) (s : State), Unlisted s a ∧ islandAnswers s (blkIsland (blkOf a)) = true ∧ (size = 4 ∨ size = 8) ∧ a % size = 0) ∧
    (∃ (r : Req) (a : Nat) (size : Nat) (s : State), 0x2000000000 ≤ a ∧ a < 0x2010000000 ∧ (¬((size = 4 ∨ size = 8) ∧ a % size = 0))) ∧
    (∃ (r : Req) (a : Nat) (size : Nat) (val : Word) (s : State), 0x2000000000 ≤ a ∧ a < 0x2010000000 ∧ (¬((size = 4 ∨ size = 8) ∧ a % size = 0))) :=
  ⟨⟨.debugger, 0x2003000FF8, 8, State.reset, by decide +kernel⟩,
   ⟨.debugger, 0x2003000FF8, 8, 77, State.reset, by decide +kernel⟩,
   ⟨.debugger, 0x2003000FF8, 2, State.reset, by decide +kernel⟩,
   ⟨.debugger, 0x2003000FF8, 1, 77, State.reset, by decide +kernel⟩⟩

theorem witness_missing_interrupt_files :
    (∃ (r : Req) (a : Nat) (val : Word) (s : State), fileOf a = none ∧ RoomFor s (senderLoc r).isl) ∧
    (∃ (r : Req) (a : Nat) (val : Word) (s : State), fileOf a = none) ∧
    (∃ (l : Loc) (e h v g : Nat) (s : State), e ≠ 0 ∧ filePage h v g = none ∧ RoomFor s l.isl) ∧
    (∃ (g o : Nat), o < 0x1000 ∧ g < 8) :=
  ⟨⟨.triad 2, 0x2080007000, 33, State.reset, by decide +kernel⟩,
   ⟨.triad 2, 0x2080007000, 33, State.reset, by decide +kernel⟩,
   ⟨blkLoc 6, 5, 7, 0, 0, State.reset, by decide +kernel⟩,
   ⟨3, 0, by decide +kernel⟩⟩

theorem witness_factory_trigger :
    (∃ (m : BitVec 16) (i : Fin 16) (r : Report) (s : State), s.waiting = [(i.val, r)] ∧ m.getLsbD i = true ∧ (∀ y ∈ s.xings, y.num ≠ 32) ∧ Runs s i ∧ 2 ≤ r.cls ∧ triggersFire s = true ∧ kindOf s 255 = 1 ∧ getF s (LOG_TCTL_MINCLS 255) = MAJOR ∧ getF s (LOG_TMASK_MASK 255) = 0) ∧
    (∃ (r : Req) (g : Fin 256) (i : Fin 32) (s : State), isTriadOrMach r = true ∧ s.pwr.seq = 0) :=
  ⟨⟨0xFFFF, 6, { cls := MAJOR, loc := ⟨0, 6, 0x71, 0⟩ }, { (st []) with waiting := [(6, { cls := MAJOR, loc := ⟨0, 6, 0x71, 0⟩ })] }, by decide +kernel⟩,
   ⟨.triad 1, 255, 0, st [(LOG_TCTL_KIND 255, 3), (LOG_TITEM_IKIND 255 0, 3)], by decide +kernel⟩⟩

theorem witness_step_keeps_invariant : (∃ (s t : State), step s = .next t ∧ s.Canon) := ⟨State.reset, (clockTick State.reset), ⟨rfl, ⟨rfl, rfl, rfl, rfl, rfl, rfl, rfl, rfl, rfl⟩⟩⟩

end Sys2Proof.Machine
end

section
/-! PROOF of O56 (R11): within a register block an unlisted offset reads 0 and ignores writes, and an access of another size or off its alignment is refused. -/

namespace Sys2Proof.Machine

/-! ### An island that starts its clock shows the same register map -/

/-- An access that reaches an island changes no register field but the island's STOPPED bit. -/
theorem getF_wakeIsland_other (s : State) (i : Nat) {f : Fld} (h : (SYS_ISL_STOPPED i).key ≠ f.key) : getF (wakeIsland s i) f = getF s f :=
  only_wakeIsland i (List.mem_singleton_self _) (.refl _ s) f (List.forall_mem_singleton.2 h)

@[simp] theorem wakeIsland_out (s : State) (i : Nat) : (wakeIsland s i).out = s.out := by
  unfold wakeIsland
  split <;> rfl

@[simp] theorem getF_wakeIsland_LOG_TSEL_TRIG (s : State) (i : Nat) : getF (wakeIsland s i) LOG_TSEL_TRIG = getF s LOG_TSEL_TRIG :=
  getF_wakeIsland_other s i (by simp only [Fld.key, SYS_ISL_STOPPED, LOG_TSEL_TRIG]; omega)

@[simp] theorem getF_wakeIsland_BKB_FC_0_KIND (s : State) (i c : Nat) : getF (wakeIsland s i) (BKB_FC_0_KIND c) = getF s (BKB_FC_0_KIND c) :=
  getF_wakeIsland_other s i (by simp only [Fld.key, SYS_ISL_STOPPED, BKB_FC_0_KIND]; omega)

@[simp] theorem getF_wakeIsland_GRPMASK (s : State) (i fam g : Nat) : getF (wakeIsland s i) (GRPMASK fam g) = getF s (GRPMASK fam g) :=
  getF_wakeIsland_other s i (by simp only [Fld.key, SYS_ISL_STOPPED, GRPMASK]; omega)

@[simp] theorem fieldsAt_wakeIsland (s : State) (i a : Nat) : fieldsAt (wakeIsland s i) a = fieldsAt s a := by
  simp only [fieldsAt, getF_wakeIsland_LOG_TSEL_TRIG, getF_wakeIsland_BKB_FC_0_KIND]

@[simp] theorem aliasTargets_wakeIsland (s : State) (i a : Nat) : aliasTargets (wakeIsland s i) a = aliasTargets s a := by
  simp only [aliasTargets, getF_wakeIsland_GRPMASK]

theorem Unlisted.wakeIsland {s : State} {a : Nat} (h : Unlisted s a) (i : Nat) : Unlisted (wakeIsland s i) a := by
  simpa only [Unlisted, fieldsAt_wakeIsland, aliasTargets_wakeIsland] using h

/-- The wake of an island restarts its rest and clears its STOPPED bit (R399, R400); everything else is as it was. -/
theorem frame_wakeIsland (s : State) (i : Nat) : Frame [SYS_ISL_STOPPED i] [.quiet] s (wakeIsland s i) :=
  .of_kept (only_wakeIsland i List.mem_cons_self (.refl _ s)) (kept_wakeIsland i (.refl 0x400000002) (.refl _ s)) (by intro p; cases p <;> decide)

theorem Part.same_emit {p : Part} (s : State) (o : Out) (h : p ≠ .out) : p.same s (emit s o) := by
  cases p with
  | out => exact absurd rfl h
  | _ => rfl

theorem Frame.emit {l : List Fld} {ps : List Part} {s t : State} (h : Frame l ps s t) (o : Out) : Frame l (.out :: ps) s (emit t o) := by
  obtain ⟨hflds, hparts⟩ := h
  refine ⟨only_emit o hflds, fun p hp hout => ?_⟩
  rw [List.mem_cons, not_or] at hout
  exact Part.same_trans (hparts p hp hout.2) (Part.same_emit t o hout.1)

theorem Frame.refl (l : List Fld) (ps : List Part) (s : State) : Frame l ps s s :=
  .of_kept (.refl l s) (.refl 0 s) fun p _ _ => Nat.zero_testBit p.idx

/-! ### Registers whose value is computed when they are read are listed -/

/-- The registers of which a read returns more than their fields hold. -/
def computedRegs : List Nat := [0x2000000328, 0x2000000508, 0x2004000010, 0x2004000018, 0x2004000060, 0x200D000020, 0x200E000050]

theorem regFields_computedRegs_ne_nil (trig : Nat) {g : Nat} (hg : g ∈ computedRegs) : regFields trig g ≠ [] := by
  have hall : (computedRegs.all fun g => !(regFields trig g).isEmpty) = true := rfl
  simpa using List.all_eq_true.1 hall g hg

/-- Outside the flow contexts a register has all fields that the map gives it. -/
theorem fieldsAt_eq_regFields (s : State) {a : Nat} (h : ¬(0x2007004000 ≤ a ∧ a < 0x2007006000)) : fieldsAt s a = regFields (getF s LOG_TSEL_TRIG) (regOf a) :=
  if_neg fun ⟨hlo, hhi, _⟩ => h ⟨hlo, hhi⟩

theorem regOf_notMem_computedRegs {s : State} {a : Nat} (h : fieldsAt s a = []) : regOf a ∉ computedRegs := by
  intro hg
  have hout : ¬(0x2007004000 ≤ a ∧ a < 0x2007006000) := by
    simp only [computedRegs, regOf, List.mem_cons, List.not_mem_nil, or_false] at hg
    omega
  exact regFields_computedRegs_ne_nil _ hg (fieldsAt_eq_regFields s hout ▸ h)

/-- A register without fields holds 0. -/
theorem readValue_of_fieldsAt_nil {s : State} {a : Nat} (r : Req) (h : fieldsAt s a = []) : readValue s r a = 0 := by
  have hg := regOf_notMem_computedRegs h
  simp only [computedRegs, List.mem_cons, List.not_mem_nil, or_false, not_or] at hg
  simp [readValue, regValue, h, hg]

/-! ### Which accesses to a register block are refused -/

/-- Within the register blocks the natural alignment of a 32- or 64-bit access is all that its size is checked for (R29). -/
theorem sizeOk_iff {a : Nat} (size : Nat) (hlo : 0x2000000000 ≤ a) (hhi : a < 0x2010000000) :
    sizeOk a size = true ↔ (size = 4 ∨ size = 8) ∧ a % size = 0 := by
  have hio : inIo a = true := by simp [inIo]; omega
  simp [sizeOk, hio]

theorem Unlisted.sizeOk {s : State} {a size : Nat} (h : Unlisted s a) (hsize : size = 4 ∨ size = 8) (halign : a % size = 0) : sizeOk a size = true := by
  obtain ⟨hlo, hhi, -⟩ := h
  exact (sizeOk_iff size hlo hhi).2 ⟨hsize, halign⟩

theorem sizeOk_eq_false {a size : Nat} (hlo : 0x2000000000 ≤ a) (hhi : a < 0x2010000000) (hbad : ¬((size = 4 ∨ size = 8) ∧ a % size = 0)) :
    sizeOk a size = false :=
  Bool.eq_false_iff.2 (mt (sizeOk_iff size hlo hhi).1 hbad)

theorem readRegister_of_not_sizeOk {a size : Nat} (r : Req) (s : State) (h : sizeOk a size = false) : readRegister r a size s = deny s r (refusal r .load) := by
  simp [readRegister, h]

theorem execRcRead_block (r : Req) {a : Nat} (size : Nat) (s : State) (hhi : a < 0x2010000000) : execRcRead r a size s = .next (readRegister r a size s) := by
  simp [execRcRead, show ¬0x4000000000 ≤ a by omega]

theorem writeRegister_of_not_sizeOk {a size : Nat} (r : Req) (val : Word) (s : State) (hhi : a < 0x2010000000) (h : sizeOk a size = false) :
    writeRegister r a size val s = .next (deny s r (refusal r .store)) := by
  simp [writeRegister, h, show ¬0x2010000000 ≤ a by omega, show ¬0x4000000000 ≤ a by omega]

/-! ### Accesses to an unlisted offset -/

/-- A read of an unlisted offset reaches its island and answers 0. -/
theorem readRegister_unlisted {s : State} {a size : Nat} (r : Req) (hu : Unlisted s a) (hi : islandAnswers s (blkIsland (blkOf a)) = true)
    (hs : sizeOk a size = true) : readRegister r a size s = answer (wakeIsland s (blkIsland (blkOf a))) r 0 := by
  obtain ⟨-, hhi, hflds, htag, halias, hlog⟩ := hu.wakeIsland (blkIsland (blkOf a))
  have hg := regOf_notMem_computedRegs hflds
  simp only [computedRegs, List.mem_cons, List.not_mem_nil, or_false, not_or] at hg
  simp [readRegister, answered, clearRC, rcSpanned, bits, hs, hi, hhi, hflds, htag, halias, hlog, hg, readValue_of_fieldsAt_nil r hflds,
    show ¬0x2010000000 ≤ a by omega, show ¬0x2011000000 ≤ a by omega]

/-- A write of a register without fields is ignored. -/
theorem writeBlock_of_fieldsAt_nil {s : State} {a : Nat} (r : Req) (size : Nat) (val : Word) (h : fieldsAt s a = []) : writeBlock r a size val s = .next s := by
  simp [writeBlock, h]

/-- A write to an unlisted offset reaches its island and does nothing there. -/
theorem writeRegister_unlisted {s : State} {a size : Nat} (r : Req) (val : Word) (hu : Unlisted s a) (hi : islandAnswers s (blkIsland (blkOf a)) = true)
    (hs : sizeOk a size = true) : writeRegister r a size val s = .next (wakeIsland s (blkIsland (blkOf a))) := by
  obtain ⟨-, hhi, hflds, htag, halias, -⟩ := hu.wakeIsland (blkIsland (blkOf a))
  simp [writeRegister, reached, hs, hi, htag, halias, writeBlock_of_fieldsAt_nil r size val hflds,
    show ¬0x2010000000 ≤ a by omega, show ¬0x4000000000 ≤ a by omega, show ¬0x2080000000 ≤ a by omega]

/-- Settles O56: an aligned access of an unlisted offset does no more than wake its island, and any other access is refused before it reaches one. -/
theorem unlistedOffsets : Obligations.UnlistedOffsets := by
  unfold Obligations.UnlistedOffsets
  refine ⟨?read, ?write, ?readRefused, ?writeRefused⟩
  case read =>
    intro r a size s hu hi hsize halign
    have ⟨_, hhi, _⟩ := hu
    refine ⟨answer (wakeIsland s (blkIsland (blkOf a))) r 0, ?_, ?_, (frame_wakeIsland s _).emit _⟩
    · rw [exec_rcRead, execRcRead_block r size s hhi, readRegister_unlisted r hu hi (hu.sizeOk hsize halign)]
    · exact congrArg (Out.value r 0 :: ·) (wakeIsland_out s _)
  case write =>
    intro r a size val s hu hi hsize halign
    exact ⟨_, writeRegister_unlisted r val hu hi (hu.sizeOk hsize halign), frame_wakeIsland s _⟩
  case readRefused =>
    intro r a size s hlo hhi hbad
    refine ⟨deny s r (refusal r .load), ?_, rfl, (Frame.refl [] [] s).emit _⟩
    rw [exec_rcRead, execRcRead_block r size s hhi, readRegister_of_not_sizeOk r s (sizeOk_eq_false hlo hhi hbad)]
  case writeRefused =>
    intro r a size val s hlo hhi hbad
    exact ⟨_, writeRegister_of_not_sizeOk r val s hhi (sizeOk_eq_false hlo hhi hbad), rfl, (Frame.refl [] [] s).emit _⟩

end Sys2Proof.Machine
end

section
/-! Frames put together: what two operations in a row leave alone, and a field that is set. -/

namespace Sys2Proof.Machine

/-- What two operations in a row leave alone. -/
theorem Frame.trans {l : List Fld} {ps : List Part} {s t u : State} (h : Frame l ps s t) (k : Frame l ps t u) : Frame l ps s u := by
  obtain ⟨hflds, hparts⟩ := h
  obtain ⟨kflds, kparts⟩ := k
  exact ⟨fun f hf => (kflds f hf).trans (hflds f hf), fun p hp hps => Part.same_trans (hparts p hp hps) (kparts p hp hps)⟩

theorem Frame.mono {l l' : List Fld} {ps ps' : List Part} {s t : State} (h : Frame l ps s t) (hl : l ⊆ l') (hps : ps ⊆ ps') : Frame l' ps' s t := by
  obtain ⟨hflds, hparts⟩ := h
  exact ⟨fun f hf => hflds f fun g hg => hf g (hl hg), fun p hp hnot => hparts p hp fun hmem => hnot (hps hmem)⟩

theorem Part.same_setF {p : Part} (s : State) (f : Fld) (v : Nat) (h : p ≠ .flds) : p.same s (setF s f v) := by
  cases p with
  | flds => exact absurd rfl h
  | _ => rfl

theorem Frame.setF {l : List Fld} {ps : List Part} {s t : State} {f : Fld} (h : Frame l ps s t) (hf : f ∈ l) (v : Nat) : Frame l ps s (setF t f v) := by
  obtain ⟨hflds, hparts⟩ := h
  exact ⟨only_setF v hf hflds, fun p hp hps => Part.same_trans (hparts p hp hps) (Part.same_setF t f v hp)⟩

/-- A field set to the value it holds: every field reads as before, also one of another width or reset value at the same place. -/
theorem getF_setF_self (s : State) (f : Fld) {v : Nat} (hv : v = getF s f) (hw : v < 2 ^ f.w) (g : Fld) : getF (setF s f v) g = getF s g := by
  by_cases hkey : g.key = f.key
  · have hraw : kget 0 (kput 0 s.flds f.key ((v % 2 ^ f.w) ^^^ f.rst)) f.key = kget 0 s.flds f.key := by
      rw [kget_kput_same, Nat.mod_eq_of_lt hw, hv, getF, Nat.xor_assoc, Nat.xor_self, Nat.xor_zero]
    unfold getF
    rw [hkey]
    exact congrArg (· ^^^ g.rst) hraw
  · exact getF_setF_other s hkey v

theorem frame_setF_self (s : State) (f : Fld) {v : Nat} (hv : v = getF s f) (hw : v < 2 ^ f.w) : Frame [] [] s (setF s f v) :=
  ⟨fun g _ => getF_setF_self s f hv hw g, fun _ hp _ => Part.same_setF s f v hp⟩

/-- Where no field may change, every field reads as before. -/
theorem Frame.getF_eq {ps : List Part} {s t : State} (h : Frame [] ps s t) (f : Fld) : getF t f = getF s f :=
  h.1 f (List.forall_mem_nil _)

theorem Frame.onF_eq {ps : List Part} {s t : State} (h : Frame [] ps s t) (f : Fld) : onF t f = onF s f := by
  rw [onF, onF, h.getF_eq]

theorem bits_lt (v lo w : Nat) : bits v lo w < 2 ^ w := Nat.mod_lt _ (Nat.two_pow_pos w)

end Sys2Proof.Machine
end

section
/-! PROOF of O3 (R49, R50): each row of the doorbell's table, for the queue of an island that answers and runs. -/

namespace Sys2Proof.Machine

/-! ### What a rejected, a stale and an accepted doorbell do to the queue's registers -/

theorem rejectDoorbell_effect (s : State) (Q : Nat) :
    getF (rejectDoorbell s Q) (QDBERR_COUNT Q) = min (getF s (QDBERR_COUNT Q) + 1) (2 ^ 32 - 1)
      ∧ onF (rejectDoorbell s Q) (QSTAT_DBERR Q) = true
      ∧ Frame [QDBERR_COUNT Q, QSTAT_DBERR Q] [] s (rejectDoorbell s Q) := by
  have hkey : (QDBERR_COUNT Q).key ≠ (QSTAT_DBERR Q).key := by simp only [Fld.key, QDBERR_COUNT, QSTAT_DBERR]; omega
  refine ⟨?_, onF_setF_one _ _ Nat.one_pos, ?_⟩
  · rw [rejectDoorbell, getF_setF_other _ hkey, incF, addF, getF_setF_same]
    exact Nat.mod_eq_of_lt (by simp only [QDBERR_COUNT]; omega)
  · exact ((Frame.refl _ _ s).setF (by simp) _).setF (by simp) _

/-- A report raised at most once in a cycle changes no register but the counters of lost reports, and waits or is lost. -/
theorem frame_raiseOnce (key cls : Nat) (x : Loc) (s : State) : Frame lostCounters [.waiting, .onceCycle] s (raiseOnce key cls x s) :=
  .of_kept (only_raiseOnce key cls x (List.Subset.refl _) (.refl _ s)) (kept_raiseOnce key cls x (.refl 0x602) (.refl _ s)) (by intro p; cases p <;> decide)

/-- The registers of a queue are none of the counters of lost reports, which stand below every queue's registers. -/
theorem lostCounters_key_lt {g : Fld} (hg : g ∈ lostCounters) (Q : Nat) : g.key < qBase Q * 64 := by
  simp only [lostCounters, List.mem_cons, List.not_mem_nil, or_false] at hg
  obtain rfl | rfl | rfl | rfl | rfl := hg <;> simp only [Fld.key, SYS_EFLOST_NOTE, SYS_EFLOST_MINOR, SYS_EFLOST_MAJOR, SYS_EFLOST_VITAL, SYS_EFLOST_MODULE, qBase] <;> omega

theorem getF_raiseOnce_of_queue (key cls : Nat) (x : Loc) (s : State) {f : Fld} (Q : Nat) (hf : qBase Q * 64 ≤ f.key) : getF (raiseOnce key cls x s) f = getF s f :=
  (frame_raiseOnce key cls x s).1 f fun _ hg => Nat.ne_of_lt (Nat.lt_of_lt_of_le (lostCounters_key_lt hg Q) hf)

theorem staleDrop_effect (s : State) (Q : Nat) :
    getF (staleDrop s Q 1) (QSTALE_COUNT Q) = min (getF s (QSTALE_COUNT Q) + 1) (2 ^ 32 - 1)
      ∧ onF (staleDrop s Q 1) (QSTAT_STALE Q) = true
      ∧ Frame (QSTALE_COUNT Q :: QSTAT_STALE Q :: lostCounters) [.waiting, .onceCycle] s (staleDrop s Q 1) := by
  have hkey : (QSTALE_COUNT Q).key ≠ (QSTAT_STALE Q).key := by simp only [Fld.key, QSTALE_COUNT, QSTAT_STALE]; omega
  refine ⟨?_, ?_, ?_⟩
  · rw [staleDrop, getF_raiseOnce_of_queue _ _ _ _ Q (by simp only [Fld.key, QSTALE_COUNT]; omega), getF_setF_other _ hkey, addF, getF_setF_same]
    exact Nat.mod_eq_of_lt (by simp only [QSTALE_COUNT]; omega)
  · rw [onF, staleDrop, getF_raiseOnce_of_queue _ _ _ _ Q (by simp only [Fld.key, QSTAT_STALE]; omega)]
    exact onF_setF_one _ _ Nat.one_pos
  · have hset := ((Frame.refl (QSTALE_COUNT Q :: QSTAT_STALE Q :: lostCounters) [.waiting, .onceCycle] s).setF (f := QSTALE_COUNT Q) (by simp)
      (min (getF s (QSTALE_COUNT Q) + 1) (2 ^ 32 - 1))).setF (f := QSTAT_STALE Q) (by simp) 1
    exact hset.trans ((frame_raiseOnce _ _ _ _).mono (fun _ hf => by simp [hf]) (List.Subset.refl _))

/-- An accepted doorbell (R50): the last row, which writes QPROD and lets a paused engine go on. -/
def acceptDoorbell (s : State) (Q p e : Nat) : State := setF (setF (setF s (QPROD_PROD Q) p) (QPROD_EPOCH Q) e) (QSTAT_PAUSED Q) 0

theorem acceptDoorbell_effect (s : State) (Q : Nat) {p e : Nat} (hp : p < 2 ^ 16) (he : e < 2 ^ 16) :
    getF (acceptDoorbell s Q p e) (QPROD_PROD Q) = p
      ∧ getF (acceptDoorbell s Q p e) (QPROD_EPOCH Q) = e
      ∧ onF (acceptDoorbell s Q p e) (QSTAT_PAUSED Q) = false
      ∧ Frame [QPROD_PROD Q, QPROD_EPOCH Q, QSTAT_PAUSED Q] [] s (acceptDoorbell s Q p e) := by
  have hprodEpoch : (QPROD_PROD Q).key ≠ (QPROD_EPOCH Q).key := by simp only [Fld.key, QPROD_PROD, QPROD_EPOCH]; omega
  have hprodPaused : (QPROD_PROD Q).key ≠ (QSTAT_PAUSED Q).key := by simp only [Fld.key, QPROD_PROD, QSTAT_PAUSED]; omega
  have hepochPaused : (QPROD_EPOCH Q).key ≠ (QSTAT_PAUSED Q).key := by simp only [Fld.key, QPROD_EPOCH, QSTAT_PAUSED]; omega
  refine ⟨?_, ?_, ?_, ?_⟩
  · rw [acceptDoorbell, getF_setF_other _ hprodPaused, getF_setF_other _ hprodEpoch, getF_setF_same]
    exact Nat.mod_eq_of_lt hp
  · rw [acceptDoorbell, getF_setF_other _ hepochPaused, getF_setF_same]
    exact Nat.mod_eq_of_lt he
  · simp [onF, acceptDoorbell]
  · exact (((Frame.refl _ _ s).setF (by simp) _).setF (by simp) _).setF (by simp) _

/-- A doorbell that repeats QPROD changes PAUSED alone. -/
theorem acceptDoorbell_repeat_frame (s : State) (Q : Nat) {p e : Nat} (hp : p < 2 ^ 16) (he : e < 2 ^ 16) (hprod : p = getF s (QPROD_PROD Q))
    (hepoch : e = getF s (QPROD_EPOCH Q)) : Frame [QSTAT_PAUSED Q] [] s (acceptDoorbell s Q p e) := by
  have hfirst : Frame [] [] s (setF s (QPROD_PROD Q) p) := frame_setF_self s _ hprod hp
  have hboth := hfirst.trans (frame_setF_self _ (QPROD_EPOCH Q) (hepoch.trans (hfirst.getF_eq _).symm) he)
  exact (hboth.mono (List.nil_subset _) (List.nil_subset _)).setF (by simp) 0

/-! ### The rows of R50 -/

/-- The outstanding count under a new producer index (R49). -/
def outstandingUnder (s : State) (Q p : Nat) : Nat := (p + 65536 - getF s (QCONS_CONS Q)) % 65536

/-- A count of outstanding entries that a doorbell may not bring: it leaves no entry free, or takes entries back (R50). -/
def BadWindow (s : State) (Q p : Nat) : Prop := getF s (QSIZE_ENTRIES Q) ≤ outstandingUnder s Q p ∨ outstandingUnder s Q p < outstanding s Q

/-- Rows 1 and 2: a write of another size, or to a disabled queue, whoever sends it. -/
theorem ringDoorbell_of_size_or_disabled {Q size : Nat} (r : Req) (v : Nat) (s : State) (hq : listedQueue Q = true)
    (h : size ≠ 8 ∨ onF s (QCTRL_EN Q) = false) : ringDoorbell r Q size v s = rejectDoorbell s Q := by
  obtain hsize | hen := h
  · simp [ringDoorbell, hq, hsize]
  · simp [ringDoorbell, hq, hen]

/-- Row 3: another epoch. -/
theorem ringDoorbell_of_epoch {Q v : Nat} {r : Req} {s : State} (hq : listedQueue Q = true) (hr : doorbellFrom r Q = true) (hen : onF s (QCTRL_EN Q) = true)
    (h : bits v 16 16 ≠ getF s (QEPOCH_EPOCH Q)) : ringDoorbell r Q 8 v s = staleDrop s Q 1 := by
  simp [ringDoorbell, hq, hr, hen, h]

/-- Row 4: a count that the ring cannot hold, or below the one under the last accepted PROD. -/
theorem ringDoorbell_of_badWindow {Q v : Nat} {r : Req} {s : State} (hq : listedQueue Q = true) (hr : doorbellFrom r Q = true) (hen : onF s (QCTRL_EN Q) = true)
    (he : bits v 16 16 = getF s (QEPOCH_EPOCH Q)) (h : BadWindow s Q (bits v 0 16)) : ringDoorbell r Q 8 v s = rejectDoorbell s Q := by
  rw [BadWindow, outstandingUnder] at h
  simp [ringDoorbell, hq, hr, hen, he, h]

/-- Row 5: any other doorbell. -/
theorem ringDoorbell_of_not_badWindow {Q v : Nat} {r : Req} {s : State} (hq : listedQueue Q = true) (hr : doorbellFrom r Q = true)
    (hen : onF s (QCTRL_EN Q) = true) (he : bits v 16 16 = getF s (QEPOCH_EPOCH Q)) (h : ¬BadWindow s Q (bits v 0 16)) :
    ringDoorbell r Q 8 v s = acceptDoorbell s Q (bits v 0 16) (bits v 16 16) := by
  rw [BadWindow, outstandingUnder] at h
  simp [ringDoorbell, acceptDoorbell, hq, hr, hen, he, h]

/-! ### The command reaches the queue -/

/-- A well-formed reference names a listed queue (R46). -/
theorem listedQueue_gq {q : QRef} (h : q.wf = true) : listedQueue (gq q) = true := h

/-- An access to an island whose clock runs restarts its 100 µs of rest and changes nothing else (R399). -/
theorem frame_wakeIsland_of_running {s : State} {i : Nat} (h : onF s (SYS_ISL_STOPPED i) = false) : Frame [] [.quiet] s (wakeIsland s i) := by
  have hwake : wakeIsland s i = { s with quiet := kput 0 s.quiet i 0 } := by simp [wakeIsland, h]
  obtain ⟨-, hparts⟩ := frame_wakeIsland s i
  exact ⟨only_upd (congrArg State.flds hwake) (.refl [] s), hparts⟩

/-- The doorbell of a queue of a ready island is judged in a state that differs in the island's rest alone. -/
theorem completes_doorbell {r : Req} {q : QRef} {size : Nat} {val : Word} {s : State} {P : State → Prop} (hready : Ready s (blkIsland q.blk.val))
    (h : ∀ u, Frame [] [.quiet] s u → P (ringDoorbell r (gq q) size (val.toNat % 2 ^ (8 * size)) u)) : Completes (.doorbell r q size val) s P := by
  obtain ⟨hanswers, hruns⟩ := hready
  refine ⟨_, ?_, h _ (frame_wakeIsland_of_running hruns)⟩
  simp [execDoorbell, reached, hanswers]

theorem completes_doorbell_word {r : Req} {q : QRef} {val : Word} {s : State} {P : State → Prop} (hready : Ready s (blkIsland q.blk.val))
    (h : ∀ u, Frame [] [.quiet] s u → P (ringDoorbell r (gq q) 8 val.toNat u)) : Completes (.doorbell r q 8 val) s P :=
  completes_doorbell hready fun u hu => by
    rw [Nat.mod_eq_of_lt val.isLt]
    exact h u hu

theorem Frame.outstanding_eq {ps : List Part} {s t : State} (h : Frame [] ps s t) (Q : Nat) : outstanding t Q = outstanding s Q := by
  rw [outstanding, outstanding, h.getF_eq, h.getF_eq]

theorem Frame.badWindow_iff {ps : List Part} {s t : State} (h : Frame [] ps s t) (Q p : Nat) : BadWindow t Q p ↔ BadWindow s Q p := by
  rw [BadWindow, BadWindow, outstandingUnder, outstandingUnder, h.outstanding_eq, h.getF_eq, h.getF_eq]

/-- A frame after an access that restarted an island's rest. -/
theorem Frame.after_quiet {l : List Fld} {ps ps' : List Part} {s u t : State} (hu : Frame [] [.quiet] s u) (h : Frame l ps u t) (hq : Part.quiet ∈ ps') (hps : ps ⊆ ps') :
    Frame l ps' s t :=
  (hu.mono (List.nil_subset _) (by simpa using hq)).trans (h.mono (List.Subset.refl _) hps)

/-- What a rejected doorbell brings about, from the state in which it was sent. -/
theorem rejectDoorbell_effect_after_quiet {s u : State} (hu : Frame [] [.quiet] s u) (Q : Nat) :
    getF (rejectDoorbell u Q) (QDBERR_COUNT Q) = min (getF s (QDBERR_COUNT Q) + 1) (2 ^ 32 - 1)
      ∧ onF (rejectDoorbell u Q) (QSTAT_DBERR Q) = true
      ∧ Frame [QDBERR_COUNT Q, QSTAT_DBERR Q] [.quiet] s (rejectDoorbell u Q) := by
  obtain ⟨hcount, hbit, hframe⟩ := rejectDoorbell_effect u Q
  exact ⟨hu.getF_eq _ ▸ hcount, hbit, hu.after_quiet hframe (by simp) (by simp)⟩

/-- Settles O3: a waiting doorbell is handled where it stands, and each row of R50 is the row of `ringDoorbell` that its condition picks. -/
theorem doorbell : Obligations.Doorbell := by
  unfold Obligations.Doorbell
  refine ⟨?order, ?sender, ?sizeOrDisabled, ?epoch, ?accepted, ?window, ?repeated⟩
  case order =>
    intro s r q n v l hpending
    simp [step, hpending]
  case sender =>
    intro r Q hQ
    simp [doorbellFrom, hQ]
  case sizeOrDisabled =>
    intro r q size val s hq hready h
    refine completes_doorbell hready fun u hu => ?_
    rw [ringDoorbell_of_size_or_disabled r _ u (listedQueue_gq hq) (hu.onF_eq _ ▸ h)]
    exact rejectDoorbell_effect_after_quiet hu (gq q)
  case epoch =>
    intro r q val s hq hready hr hen he
    refine completes_doorbell_word hready fun u hu => ?_
    rw [ringDoorbell_of_epoch (listedQueue_gq hq) hr (hu.onF_eq _ ▸ hen) (hu.getF_eq _ ▸ he)]
    obtain ⟨hcount, hbit, hframe⟩ := staleDrop_effect u (gq q)
    exact ⟨hu.getF_eq _ ▸ hcount, hbit, hu.after_quiet hframe (by simp) (by simp)⟩
  case accepted =>
    intro r q val s hq hready hr hen he hroom hmore
    have hwindow : ¬BadWindow s (gq q) (bits val.toNat 0 16) := not_or.2 ⟨Nat.not_le.2 hroom, Nat.not_lt.2 hmore⟩
    refine completes_doorbell_word hready fun u hu => ?_
    rw [ringDoorbell_of_not_badWindow (listedQueue_gq hq) hr (hu.onF_eq _ ▸ hen) (hu.getF_eq _ ▸ he) (mt (hu.badWindow_iff _ _).1 hwindow)]
    obtain ⟨hprod, hepoch, hpaused, hframe⟩ := acceptDoorbell_effect u (gq q) (bits_lt val.toNat 0 16) (bits_lt val.toNat 16 16)
    exact ⟨hprod, hepoch, hpaused, hu.after_quiet hframe (by simp) (by simp)⟩
  case window =>
    intro r q val s hq hready hr hen he hwindow
    refine completes_doorbell_word hready fun u hu => ?_
    rw [ringDoorbell_of_badWindow (listedQueue_gq hq) hr (hu.onF_eq _ ▸ hen) (hu.getF_eq _ ▸ he) ((hu.badWindow_iff _ _).2 hwindow)]
    exact rejectDoorbell_effect_after_quiet hu (gq q)
  case repeated =>
    intro r q val s hq hready hr hen he hepoch hprod hroom
    have hsame : outstandingUnder s (gq q) (bits val.toNat 0 16) = outstanding s (gq q) := by rw [outstandingUnder, hprod, outstanding]
    have hwindow : ¬BadWindow s (gq q) (bits val.toNat 0 16) := by rw [BadWindow, hsame]; omega
    refine completes_doorbell_word hready fun u hu => ?_
    rw [ringDoorbell_of_not_badWindow (listedQueue_gq hq) hr (hu.onF_eq _ ▸ hen) (hu.getF_eq _ ▸ he) (mt (hu.badWindow_iff _ _).1 hwindow)]
    have hp := bits_lt val.toNat 0 16
    have he' := bits_lt val.toNat 16 16
    obtain ⟨-, -, hpaused, -⟩ := acceptDoorbell_effect u (gq q) hp he'
    have hframe := acceptDoorbell_repeat_frame u (gq q) hp he' (hprod.trans (hu.getF_eq _).symm) (hepoch.trans (hu.getF_eq _).symm)
    exact ⟨hpaused, hu.after_quiet hframe (by simp) (by simp)⟩

end Sys2Proof.Machine
end

section
/-! PROOF of O57 (R57, R58): which interrupt files there are, and what becomes of an interrupt to one that there is not. -/

namespace Sys2Proof.Machine

/-! ### The files that exist -/

theorem filePage_eq_none_iff (h v g : Nat) :
    filePage h v g = none ↔ ¬((v = 0 ∧ (h ≤ 3 ∨ 16 ≤ h ∧ h ≤ 31)) ∨ (v = 1 ∧ 16 ≤ h ∧ h ≤ 31) ∨ (v = 2 ∧ 16 ≤ h ∧ h ≤ 31 ∧ 1 ≤ g ∧ g ≤ 7)) := by
  obtain rfl | rfl | rfl | hv : v = 0 ∨ v = 1 ∨ v = 2 ∨ 3 ≤ v := by omega
  case inr.inr.inr => simp [filePage, show v ≠ 0 by omega, show v ≠ 1 by omega, show v ≠ 2 by omega]
  all_goals simp [filePage]

theorem filePage_machine {h p : Nat} (hfile : filePage h 0 0 = some p) : p = 0x2080000000 + h * 0x1000 := by
  rw [filePage, if_pos rfl, Option.ite_none_right_eq_some] at hfile
  exact (Option.some.inj hfile.2).symm

/-- An address in the machine-level range names the machine file of the hart whose page it lies in. -/
theorem fileOf_machine {h o : Nat} (hh : h < 0x1000) (ho : o < 0x1000) : fileOf (0x2080000000 + h * 0x1000 + o) = filePage h 0 0 := by
  have hrange : 0x2080000000 ≤ 0x2080000000 + h * 0x1000 + o ∧ 0x2080000000 + h * 0x1000 + o < 0x2081000000 := by omega
  have hhart : (0x2080000000 + h * 0x1000 + o - 0x2080000000) / 0x1000 = h := by omega
  have hpage : 0x2080000000 + h * 0x1000 = (0x2080000000 + h * 0x1000 + o) / 0x1000 * 0x1000 := by omega
  unfold fileOf
  rw [if_pos hrange, hhart]
  cases hfile : filePage h 0 0 with
  | none => rfl
  | some p => exact if_pos ((filePage_machine hfile).trans hpage)

/-- An address in the supervisor-level range names the supervisor file of the hart whose page it lies in. -/
theorem fileOf_supervisor {h o : Nat} (hh : h < 0x1000) (ho : o < 0x1000) : fileOf (0x2081000000 + h * 0x1000 + o) = filePage h 1 0 := by
  have hhart : (0x2081000000 + h * 0x1000 + o - 0x2081000000) / 0x1000 = h := by omega
  unfold fileOf
  rw [if_neg (by omega), if_pos (by omega), hhart]

/-- An address in the guest range names the guest file of the hart and guest whose page it lies in. -/
theorem fileOf_guest {h g o : Nat} (hh : h < 0x200) (hg : g < 8) (ho : o < 0x1000) :
    fileOf (0x2082000000 + h * 0x8000 + g * 0x1000 + o) = filePage h 2 g := by
  have hhart : (0x2082000000 + h * 0x8000 + g * 0x1000 + o - 0x2082000000) / 0x8000 = h := by omega
  have hguest : (0x2082000000 + h * 0x8000 + g * 0x1000 + o - 0x2082000000) / 0x1000 % 8 = g := by omega
  unfold fileOf
  rw [if_neg (by omega), if_neg (by omega), if_pos (by omega), hhart, hguest]

/-! ### The report of the sender -/

theorem execInterruptWrite_of_missing {a : Nat} (r : Req) (val : Word) (s : State) (h : fileOf a = none) :
    execInterruptWrite r a val s = .next (raiseReq MINOR (senderLoc r) (reqCode r) s) := by
  simp [execInterruptWrite, h]

theorem sendMsi_of_missing {e h v g : Nat} (l : Loc) (s : State) (he : e ≠ 0) (hfile : filePage h v g = none) : sendMsi l e h v g s = raise MINOR l s := by
  simp [sendMsi, he, hfile]

/-- A report whose island has a place free waits there as the last one, and nothing else changes. -/
theorem raiseVia_room_effect {s : State} {via : Nat} (r : Report) (h : RoomFor s via) :
    (raiseVia via r s).waiting = s.waiting ++ [(via, r)] ∧ Frame [] [.waiting] s (raiseVia via r s) := by
  rw [raiseVia_room r h]
  refine ⟨rfl, only_upd rfl (.refl [] s), fun p _ hp => ?_⟩
  cases p with
  | waiting => exact absurd List.mem_cons_self hp
  | _ => rfl

/-- With or without a place free, a report changes no register but the counters of lost reports, and no part but the reports that wait. -/
theorem frame_raiseVia (via : Nat) (r : Report) (s : State) : Frame lostCounters [.waiting] s (raiseVia via r s) :=
  .of_kept (only_raiseVia via r (List.Subset.refl _) (.refl _ s)) (kept_raiseVia via r (.refl 0x402) (.refl _ s)) (by intro p; cases p <;> decide)

/-- Settles O57: the two ways to send an interrupt to a missing file end in one MINOR report, and the files that exist are those of R57's table. -/
theorem missingInterruptFiles : Obligations.MissingInterruptFiles := by
  unfold Obligations.MissingInterruptFiles
  refine ⟨?written, ?writtenFrame, ?sent, filePage_eq_none_iff, ?addresses⟩
  case written =>
    intro r a val s hfile hroom
    exact ⟨_, execInterruptWrite_of_missing r val s hfile, raiseVia_room_effect _ hroom⟩
  case writtenFrame =>
    intro r a val s hfile
    refine ⟨_, execInterruptWrite_of_missing r val s hfile, (frame_raiseVia _ _ s).mono ?_ (by simp)⟩
    exact fun _ hf => List.mem_cons_of_mem _ (List.mem_cons_of_mem _ hf)
  case sent =>
    intro l e h v g s he hfile hroom
    rw [sendMsi_of_missing l s he hfile]
    exact raiseVia_room_effect _ hroom
  case addresses =>
    intro h g o ho hg
    refine ⟨fun hlo hhi => ?_, fun hlt => ⟨?_, ?_⟩, fun hlt => ?_⟩
    · rw [fileOf_machine (by omega) ho, filePage_eq_none_iff]
      omega
    · rw [fileOf_supervisor (by omega) ho, filePage_eq_none_iff]
      omega
    · rw [fileOf_guest (by omega) hg ho, filePage_eq_none_iff]
      omega
    · have hguest := fileOf_guest (h := h) (g := 0) (by omega) (by omega) ho
      rw [Nat.zero_mul, Nat.add_zero] at hguest
      rw [hguest, filePage_eq_none_iff]
      omega

end Sys2Proof.Machine
end

section
/-! REFUTATION of O58 (R451, R485, R507): in Pilot mode a write of the reset key makes no module reset, so the trigger definitions stay. -/

namespace Sys2Proof.Machine

/-- Pilot mode ends by no write to `SYS_RESET` (R507). -/
theorem execModuleReset_of_pilot (r : Req) (key : BitVec 16) {s : State} (h : onF s UPD_STAT_PILOT = true) : execModuleReset r key s = .next s := by
  simp [execModuleReset, writeReset, h]

/-- Refutes O58: its last clause speaks of every state outside a power sequence, Pilot mode among them. There the service hart SC0, at machine level, writes the
reset key while trigger 0 is a MANUAL trigger: the write is ignored, and trigger 0 is still MANUAL, not OFF as at reset. -/
theorem not_factoryTrigger : ¬ Obligations.FactoryTrigger := by
  unfold Obligations.FactoryTrigger
  rintro ⟨-, -, -, hreset⟩
  have hpilot : onF (st [(UPD_STAT_PILOT, 1), (LOG_TCTL_KIND 0, 3)]) UPD_STAT_PILOT = true := by decide
  have hmanual : getF (st [(UPD_STAT_PILOT, 1), (LOG_TCTL_KIND 0, 3)]) (LOG_TCTL_KIND 0) = 3 := by decide
  have hoff : getF State.reset (LOG_TCTL_KIND 0) = 0 := by decide
  obtain ⟨t, hexec, hkind, -⟩ := hreset (.hart 0 true) 0 0 (st [(UPD_STAT_PILOT, 1), (LOG_TCTL_KIND 0, 3)]) rfl rfl
  rw [exec_moduleReset, execModuleReset_of_pilot _ _ hpilot] at hexec
  cases hexec
  exact absurd (hmanual.symm.trans (hkind.trans hoff)) (by decide)

end Sys2Proof.Machine
end
